-- ==== Sys2Proof/Word.lean ====
section
/-! DEFINITION. The word types of the CZ9600 and nothing else: 8-bit bytes, 32-bit register words.
Device times are natural numbers of tDC (R22: an unsigned 64-bit count; every sum is tested against 2^64 under R23). -/
namespace Sys2Proof

/-- One byte of a memory, descriptor, entry or image. -/
abbrev Byte := BitVec 8

/-- One 32-bit register or record word. -/
abbrev Word := BitVec 32

end Sys2Proof
end

