-- ==== Sys2Proof/Syntax.lean ====
section
/-! DEFINITION. The commands of the CZ9600: one constructor of `Instr` for every row of spec/opcode_table.json, in the
table's order. The table gives no operand bits; the operands are what the rule named in a row's docstring makes the
step depend on and what the block cannot compute from its own state (who writes, what is written, the lane of an edge,
what a sensor or a PLL counter read). -/
namespace Sys2Proof

/-- A host function: 0 is the physical function, n = 1 to 12 is virtual function n, which serves P(n - 1) (R268). -/
abbrev Fn := Fin 13

/-- A command as a submission entry holds it (R275), with the function and queue it was fetched from. FENCE and IRQ
are the entry's bits [8] and [9]. -/
structure HostCmd where
  fn     : Fn
  sq     : Fin 64
  opcode : BitVec 8
  fence  : Bool
  irq    : Bool
  tag    : BitVec 16
  serial : Word
  addr   : BitVec 64
  len    : Word
  par    : List Word
deriving DecidableEq, Repr

/-- The fields of an Immor link frame (R43), its CRC among them; the reserved bits are sent 0 and ignored. -/
structure LinkFrame where
  typ     : BitVec 8
  srcDev  : Fin 16
  dstDev  : Fin 16
  bcast   : Bool
  hops    : Fin 16
  gen     : Fin 8
  seq     : BitVec 16
  ackSeq  : BitVec 16
  stamp   : BitVec 64
  w4      : Word
  w5      : Word
  w6      : Word
  crc     : Word
deriving DecidableEq, Repr

/-- What woke the device (R372). -/
inductive WakeSource where
  | d0
  | triggerInput (m : Fin 16)
  | management
  | powerOn
deriving DecidableEq, Repr

/-- Which bank a retention step names (R374). -/
inductive BankId where
  | engine  (e : Fin 64)
  | segment (ch : Fin 96)
deriving DecidableEq, Repr

/-- What an access to an engine's bank met in its words (R142): nothing, a corrected word, or an uncorrectable one at a byte of the bank. -/
inductive BankEcc where
  | clean
  | corrected
  | uncorrectable (off : BitVec 18)
deriving DecidableEq, Repr

/-- How a PLAY reads its engine's bank: which engine issues it, and what the ECC of the words read meanwhile finds (R142). -/
structure BankRead where
  eng : Fin 64
  ecc : BankEcc
deriving DecidableEq, Repr

/-- The slot that staging has copied into, what the ECC of the bank found, and whether a write met the engine's in one word (R130, R140, R142). -/
structure SlotCopy where
  slot    : Fin 2
  ecc     : BankEcc
  collide : Bool
deriving DecidableEq, Repr

/-- A host access to BAR0, with its byte enables (R417, R418). -/
inductive BarAccess where
  | write (be : BitVec 4)
  | read (be : BitVec 4)
deriving DecidableEq, Repr

/-- The byte enables of an access. -/
def BarAccess.be : BarAccess → BitVec 4
  | .write be => be
  | .read be => be

/-- A copy of a register that a function sees (R422, R426). -/
structure RegCopy where
  fn  : Fn
  off : BitVec 28
deriving DecidableEq, Repr

/-- What a controller asks of the management port beside a write and a wake (R451): a READ of an offset, a READ whose data transfer begins too soon, an I3C
command that assigns a dynamic address, SETDASA or ENTDAA, or another command byte. -/
inductive MgmtAccess where
  | reg (off : BitVec 28)
  | early (off : BitVec 28)
  | setAddress (addr : BitVec 7)
  | other (cmd : BitVec 8)
deriving DecidableEq, Repr

/-- A codeword of waveform DRAM in which devices err (R396): its number, the address in DRAM space divided by 128, the devices, and the syndrome. -/
structure CwError where
  cw     : Nat
  map    : BitVec 20
  digest : BitVec 24
deriving DecidableEq, Repr

/-- Which executor has completed a step, the host DMA engine or the MP, whether the host answered its read with an error, and the codewords in
which devices have come to err by then (R282, R283, R396). -/
structure ExecStep where
  dma       : Bool
  hostError : Bool
  errors    : List CwError
deriving DecidableEq, Repr

/-- A fill burst: the channel, and when it is requested, in ns (R70, R389). -/
structure FillBurst where
  ch : Fin 96
  ns : Nat
deriving DecidableEq, Repr

/-- What a lock window has counted, the REF-domain cycles missing in it (R359, R470), and for an SPLL window what the XPLL's window that ends with
it has counted (R367). -/
structure LockCount where
  count  : Nat
  missed : Nat
  xcount : Option Nat := none
deriving DecidableEq, Repr

/-- How far the lanes of a link port have come: block lock on all four, deskewed to within one block, and numbered 0 to 3 (R42). -/
structure PortLanes where
  locked   : Bool
  deskewed : Bool
  numbered : Bool
deriving DecidableEq, Repr

/-- A read of the patrol scrub (R397): when, in ns, and the devices that err in its codeword, with the syndrome. -/
structure ScrubRead where
  ns     : Nat
  map    : BitVec 20
  digest : BitVec 24
deriving DecidableEq, Repr

/-- The commands: bus accesses, host commands, entries an engine issues, pin and link events, and the block's own timed
steps, one constructor per row of the table. Log entry 13, DESIGN CHOICE, safe. -/
inductive Instr where
  -- host commands (R284)
  | nop (c : HostCmd)
  | memWrite (c : HostCmd)
  | memRead (c : HostCmd)
  | wipe (c : HostCmd)
  | segWrite (c : HostCmd)
  | segRead (c : HostCmd)
  | reload (c : HostCmd)
  | envWrite (c : HostCmd)
  | progWrite (c : HostCmd)
  | progRead (c : HostCmd)
  | ctxWrite (c : HostCmd)
  | ctxRead (c : HostCmd)
  | ctxClear (c : HostCmd)
  | admitCtx (c : HostCmd)
  | release (c : HostCmd)
  | ctxStart (c : HostCmd)
  | ctxStop (c : HostCmd)
  | engRetire (c : HostCmd)
  | engRestore (c : HostCmd)
  | engBankRead (c : HostCmd)
  | capRead (c : HostCmd)
  | partCreate (c : HostCmd)
  | partDestroy (c : HostCmd)
  | dramRetrain (c : HostCmd)
  | dramMigrate (c : HostCmd)
  | dramUnfreeze (c : HostCmd)
  | imageWrite (c : HostCmd)
  | fwSwap (c : HostCmd)
  | calWrite (c : HostCmd)
  | attest (c : HostCmd)
  -- the host link (chapter 10)
  | sqTail (fn : Fn) (q : Fin 64) (v : Word)
  | cqHead (fn : Fn) (q : Fin 64) (v : Word)
  | commandFetch
  | executorStep (x : ExecStep)
  | completionWrite (q : Fin 64)
  | cqInterrupt (q : Fin 64) (timer : Bool)
  | evtHoldoff (fn : Fn)
  | sqReset (fn : Fn) (q : Fin 64)
  | cqEnable (fn : Fn) (q : Fin 64)
  | functionLevelReset (p : Fin 12)
  | hotReset
  | linkDown
  | dmaWindowWrite (fn : Fn) (w : Fin 16) (ctl : Word)
  | bar2Read (fn : Fn) (off : BitVec 36) (len : Fin 4097)
  | bar2Write (fn : Fn) (off : BitVec 36) (data : List Byte)
  | bar2WindowWrite (fn : Fn) (w : Fin 16) (hi : Word)
  | mailboxWrite (fn : Fn) (off : BitVec 14) (data : List Byte)
  | unstampedPost (fn : Fn) (off : BitVec 14) (data : List Byte)
  | stampedPost (fn : Fn) (off : BitVec 16) (data : List Byte)
  | doorbell (fn : Fn) (v : Word)
  | registerWrite (fn : Fn) (off : BitVec 28) (x : BarAccess) (v : Word)
  | clearingWrite (fn : Fn) (off : BitVec 28) (v : Word)
  | maskedWrite (fn : Fn) (off : BitVec 28) (v : Word)
  | parityScrub (at_ : RegCopy) (lanes : BitVec 4)
  | mgmtRead (x : MgmtAccess)
  | mgmtWrite (off : BitVec 28) (v : Word)
  | mgmtWake
  -- sequence entries (chapter 4): the engine issues the entry at its context's PC
  | halt (e : Fin 64)
  | play (r : BankRead)
  | gap (e : Fin 64)
  | loop (e : Fin 64)
  | next (e : Fin 64)
  | br (e : Fin 64)
  | reg (e : Fin 64)
  | frame (e : Fin 64)
  | mark (e : Fin 64)
  | event (e : Fin 64)
  | tset (e : Fin 64)
  | switch (e : Fin 64)
  | nopEntry (e : Fin 64)
  -- engines and contexts (chapter 5)
  | lineFetch (e : Fin 64)
  | waitRelease (e : Fin 64)
  | eventInputFiring (e : Fin 64) (k : Fin 4)
  | swFiring (e : Fin 64)
  | scheduledSwitch (e : Fin 64)
  | staging (e : Fin 64) (copy : SlotCopy)
  | swCfgApply (e : Fin 64)
  | selfTest (e : Fin 64) (pass : Bool)
  | patrol (e : Fin 64) (failAt : Option (BitVec 18)) (touched : Bool)
  | engMoved (e : Fin 64)
  | microcodeChange (e : Fin 64)
  -- launches and playout (chapters 2 to 4)
  | launchRecord (e : Fin 64)
  | launch (c : Fin 10240)
  | passStart (ch : Fin 96)
  | segEnd (ch : Fin 96)
  | markerEdge (ch : Fin 96) (b : Fin 2)
  | underrun (t : Fin 6) (k : Fin 16) (atHead : Bool)
  | ringFill (b : FillBurst)
  | launchInput (k : Fin 48)
  | frameInput (k : Fin 32)
  -- frames (chapter 6)
  | frCmd (fn : Fn) (ch : Fin 96) (v : Word)
  | setf (ch : Fin 96) (f : Fin 32)
  | setp (ch : Fin 96) (f : Fin 32)
  | addp (ch : Fin 96) (f : Fin 32)
  | setc (ch : Fin 96) (f : Fin 32)
  | choff (ch : Fin 96) (f : Fin 32)
  | init (ch : Fin 96) (f : Fin 32)
  | frameQuery (fn : Fn) (ch : Fin 96) (hi : Word)
  -- the event fabric (chapter 8)
  | eventChannelFiring (n : Fin 256)
  | deliver (n : Fin 256)
  | ecApply (n : Fin 256)
  | grpCmd (fn : Fn) (g : Fin 32) (v : Word)
  | groupEnable (g : Fin 32)
  | groupDisable (g : Fin 32)
  | groupChange (g : Fin 32)
  | triggerOutput (k : Fin 8)
  | triggerOutputAction (k : Fin 8)
  | pulseEnd (k : Fin 8)
  | linkTransmit (k : Fin 12)
  -- static mode, safe code and the guard (chapter 7)
  | loadStrobe (g : Fin 16)
  | staticLoad (g : Fin 16)
  | loadN (lane : Fin 16)
  | outSafeN (lane : Fin 16)
  | outSafeNRelease
  | holdRel (fn : Fn) (ch : Fin 96)
  | settleEnd (ch : Fin 96)
  | safeCode (fn : Fn) (ch : Fin 96) (v : Word)
  | guardWrite (fn : Fn) (ch : Fin 96) (which : Fin 3) (v : Word)
  | trip (t : Fin 6) (k : Fin 16)
  | d2dErr (t : Fin 6) (k : Fin 16)
  | rotationSwap (ch : Fin 96)
  | spareMeasurement (ch : Fin 96) (trim : Int)
  -- trigger inputs (chapter 9) and time (chapter 2)
  | triggerCrossing (m : Fin 16) (rising : Bool) (lane : Fin 16)
  | levelSettle (m : Fin 16)
  | triggerArm (fn : Fn) (m : Fin 16)
  | syncEdge
  | alarm (a : Fin 64)
  | alarmEnable (a : Fin 64)
  | timeSetArm (v : Word)
  | timeSet
  | tbAnchor
  | refLost
  -- clocks and power (chapter 13)
  | apply (v : Word)
  | applyCancel (v : Word)
  | refSwap (v : Word)
  | applyEdge
  | refSwapDone (timedOut : Bool)
  | lockWindow (xpll : Bool) (w : LockCount)
  | acquisitionTimeout (xpll : Bool)
  | xpllBypass
  | xpllLock
  | standby
  | wake (w : WakeSource)
  | tileState (t : Fin 6)
  | bankRetention (b : BankId)
  | bankWake (b : BankId)
  | selfRefreshIdle (d : Fin 8)
  | junctionReading (t : Int)
  -- start, trust and the image (chapter 11)
  | deviceReset (sources : BitVec 6)
  | secReset (v : Word)
  | boot
  | dramTrainingDone (trained : BitVec 8)
  | startSection
  | startTimeSetTimeout
  | watchdogExpiry
  | confirm
  | tryEn (slot : Bool)
  | lcChange
  | addKey
  | revokeKey
  | debugUnlock
  | recCtl (v : Word)
  | backgroundWipe
  | granuleFill (g : Fin 2097152)
  -- waveform DRAM (chapter 14)
  | dramRequest (port : Fin 11) (addr : BitVec 41) (len : Fin 513) (write : Bool) (openHint : Bool) (data : List Byte) (ns : Nat)
  | arbitration (d : Fin 8) (ns : Nat)
  | requestComplete (d : Fin 8) (ns : Nat) (errors : List CwError)
  | refreshDue (d : Fin 8)
  | dimmReading (d : Fin 8) (sensors : List (Option Int))
  | zqCalibration (d : Fin 8)
  | patrolScrub (d : Fin 8) (local_ : BitVec 39) (x : ScrubRead)
  | caParity (d : Fin 8)
  | chunkSwitch (d : Fin 8)
  | ack (c : Fin 14) (v : Word)
  -- capture (chapter 9)
  | captureApply (fn : Fn) (d : Fin 6)
  | captureArm (d : Fin 6) (software : Bool)
  | captureTrigger (d : Fin 6) (software : Bool)
  | abort (d : Fin 6)
  | digitiserSample (d : Fin 6) (raw : List Int) (busy : Bool)
  | chainReset (d : Fin 6)
  | calibrationBorrow (d : Fin 6) (measured : Option Int)
  -- calibration (chapter 12)
  | temperatureUpdate (t : Fin 6) (readings : List Int)
  | trimStep (t : Fin 6)
  | run (t : Fin 6)
  | runDone (t : Fin 6) (pass digitiser : Unit)
  | freeze (t : Fin 6) (v : Word)
  | check (ch : Fin 96) (start : Bool) (constant : Bool)
  -- the Immor link (chapter 2)
  | portUp (p : Fin 2) (lanes : PortLanes)
  | topo (p : Fin 2) (f : LinkFrame)
  | echo (p : Fin 2)
  | timeSync (set : Bool)
  | timeSyncReceive (p : Fin 2) (f : LinkFrame)
  | eventFrame (p : Fin 2) (f : LinkFrame)
  | resultFrame (p : Fin 2) (f : LinkFrame)
  | crcError (p : Fin 2)
  | nak (p : Fin 2) (f : LinkFrame)
  | portDown (p : Fin 2)
  | refDetected (khz : BitVec 32)
  | pcieLinkUp (speed : Fin 6) (width : Fin 5)
  | vfEnable (en : Bool) (numVFs : Fin 13)
  | echoReq (p : Fin 2) (f : LinkFrame)
  | echoRsp (p : Fin 2) (f : LinkFrame) (t1 : Nat) (t4 : Nat)
  | badType (p : Fin 2) (f : LinkFrame)
  | extest (selected : Bool)
  | watchdogService
deriving DecidableEq, Repr

end Sys2Proof
end

