-- ==== Sys2Proof/Machine/Crypto.lean ====
section
/-! DEFINITION. The cryptography that R1 names: SHA-512 (FIPS 180-4), HMAC and HKDF over it (RFC 2104, RFC 5869), and Ed25519
(RFC 8032). The spec names these standards and does not repeat them: log entry 2, PRESUMED, unsafe. Every accumulator is a number that `force`
evaluates before it is used again, so that Lean's kernel can compute a digest or check a signature. -/
namespace Sys2Proof.Crypto

/-- `f n`, with `n` evaluated first. -/
def force {α : Type} (n : Nat) (f : Nat → α) : α :=
  match n with
  | 0 => f 0
  | k + 1 => f (k + 1)

/-- A byte string as a number, its first byte the most significant. -/
def beNat (bs : List Byte) : Nat := bs.foldl (fun n b => force (n * 256 + b.toNat) id) 0

/-- A byte string as a number, its first byte the least significant. -/
def leNat (bs : List Byte) : Nat := beNat bs.reverse

/-- The `k` low bytes of a number, the least significant first. -/
def toLe (n : Nat) : Nat → List Byte
  | 0 => []
  | k + 1 => BitVec.ofNat 8 n :: force (n / 256) (fun m => toLe m k)

/-- The `k` low bytes of a number, the most significant first. -/
def toBe (n k : Nat) : List Byte := (toLe n k).reverse

/-! ## SHA-512 -/

/-- The round constants of SHA-512: 64 bits of the fractional parts of the cube roots of the first 80 primes. -/
def shaK : List Nat :=
  [0x428A2F98D728AE22, 0x7137449123EF65CD, 0xB5C0FBCFEC4D3B2F, 0xE9B5DBA58189DBBC,
   0x3956C25BF348B538, 0x59F111F1B605D019, 0x923F82A4AF194F9B, 0xAB1C5ED5DA6D8118] ++
  [0xD807AA98A3030242, 0x12835B0145706FBE, 0x243185BE4EE4B28C, 0x550C7DC3D5FFB4E2,
   0x72BE5D74F27B896F, 0x80DEB1FE3B1696B1, 0x9BDC06A725C71235, 0xC19BF174CF692694] ++
  [0xE49B69C19EF14AD2, 0xEFBE4786384F25E3, 0x0FC19DC68B8CD5B5, 0x240CA1CC77AC9C65,
   0x2DE92C6F592B0275, 0x4A7484AA6EA6E483, 0x5CB0A9DCBD41FBD4, 0x76F988DA831153B5] ++
  [0x983E5152EE66DFAB, 0xA831C66D2DB43210, 0xB00327C898FB213F, 0xBF597FC7BEEF0EE4,
   0xC6E00BF33DA88FC2, 0xD5A79147930AA725, 0x06CA6351E003826F, 0x142929670A0E6E70] ++
  [0x27B70A8546D22FFC, 0x2E1B21385C26C926, 0x4D2C6DFC5AC42AED, 0x53380D139D95B3DF,
   0x650A73548BAF63DE, 0x766A0ABB3C77B2A8, 0x81C2C92E47EDAEE6, 0x92722C851482353B] ++
  [0xA2BFE8A14CF10364, 0xA81A664BBC423001, 0xC24B8B70D0F89791, 0xC76C51A30654BE30,
   0xD192E819D6EF5218, 0xD69906245565A910, 0xF40E35855771202A, 0x106AA07032BBD1B8] ++
  [0x19A4C116B8D2D0C8, 0x1E376C085141AB53, 0x2748774CDF8EEB99, 0x34B0BCB5E19B48A8,
   0x391C0CB3C5C95A63, 0x4ED8AA4AE3418ACB, 0x5B9CCA4F7763E373, 0x682E6FF3D6B2B8A3] ++
  [0x748F82EE5DEFB2FC, 0x78A5636F43172F60, 0x84C87814A1F0AB72, 0x8CC702081A6439EC,
   0x90BEFFFA23631E28, 0xA4506CEBDE82BDE9, 0xBEF9A3F7B2C67915, 0xC67178F2E372532B] ++
  [0xCA273ECEEA26619C, 0xD186B8C721C0C207, 0xEADA7DD6CDE0EB1E, 0xF57D4F7FEE6ED178,
   0x06F067AA72176FBA, 0x0A637DC5A2C898A6, 0x113F9804BEF90DAE, 0x1B710B35131C471B] ++
  [0x28DB77F523047D84, 0x32CAAB7B40C72493, 0x3C9EBE0A15C9BEBC, 0x431D67C49C100D4C,
   0x4CC5D4BECB3E42B6, 0x597F299CFC657E2A, 0x5FCB6FAB3AD6FAEC, 0x6C44198C4A475817]

/-- The initial hash value of SHA-512, its first word the most significant: 64 bits of the fractional parts of the square roots of the first
eight primes. -/
def shaInit : Nat :=
  0x6A09E667F3BCC908BB67AE8584CAA73B3C6EF372FE94F82BA54FF53A5F1D36F1510E527FADE682D19B05688C2B3E6C1F1F83D9ABFB41BD6B5BE0CD19137E2179

def w64 (n : Nat) : Nat := n % 2^64
def rotr (k x : Nat) : Nat := (x >>> k) ||| w64 (x <<< (64 - k))

/-- Word i of a hash value kept in one number. -/
def hw (s i : Nat) : Nat := w64 (s >>> (64 * (7 - i)))

/-- Eight words as one number. -/
def hash8 (a b c d e f g h : Nat) : Nat := ((((((a * 2^64 + b) * 2^64 + c) * 2^64 + d) * 2^64 + e) * 2^64 + f) * 2^64 + g) * 2^64 + h

/-- One round of SHA-512 with constant `k` and schedule word `w`. -/
def shaRound (k w s : Nat) : Nat :=
  let a := hw s 0
  let e := hw s 4
  force (hw s 7 + (rotr 14 e ^^^ rotr 18 e ^^^ rotr 41 e) + ((e &&& hw s 5) ^^^ ((2^64 - 1 - e) &&& hw s 6)) + k + w) (fun t1 =>
  force ((rotr 28 a ^^^ rotr 34 a ^^^ rotr 39 a) + ((a &&& hw s 1) ^^^ (a &&& hw s 2) ^^^ (hw s 1 &&& hw s 2))) (fun t2 =>
    hash8 (w64 (t1 + t2)) a (hw s 1) (hw s 2) (w64 (hw s 3 + t1)) e (hw s 5) (hw s 6)))

/-- Schedule word i of the last 16, kept in one number with the oldest the most significant. -/
def sw (m i : Nat) : Nat := w64 (m >>> (64 * (15 - i)))

/-- The schedule moves on by one word. -/
def shaNext (m : Nat) : Nat :=
  let x := sw m 1
  let y := sw m 14
  (m % 2^960) * 2^64 + w64 ((rotr 19 y ^^^ rotr 61 y ^^^ (y >>> 6)) + sw m 9 + (rotr 1 x ^^^ rotr 8 x ^^^ (x >>> 7)) + sw m 0)

/-- The rounds over the constants that are left, with the schedule `m` and the state `s`. -/
def shaRounds : List Nat → Nat → Nat → Nat
  | [], _, s => s
  | k :: ks, m, s => force (shaRound k (sw m 0) s) (fun s => force (shaNext m) (fun m => shaRounds ks m s))

/-- The compression of one block of 128 bytes, as a number, into a hash value. -/
def shaBlock (h m : Nat) : Nat :=
  force (shaRounds shaK m h) (fun s =>
    hash8 (w64 (hw h 0 + hw s 0)) (w64 (hw h 1 + hw s 1)) (w64 (hw h 2 + hw s 2)) (w64 (hw h 3 + hw s 3))
      (w64 (hw h 4 + hw s 4)) (w64 (hw h 5 + hw s 5)) (w64 (hw h 6 + hw s 6)) (w64 (hw h 7 + hw s 7)))

/-- The `n` blocks of a padded message, kept in one number. -/
def shaBlocks (msg : Nat) : Nat → Nat → Nat
  | 0, h => h
  | n + 1, h => force (shaBlock h ((msg >>> (1024 * n)) % 2^1024)) (fun h => shaBlocks msg n h)

/-- SHA-512 of a byte string: it is padded by one bit, zeros and its length in bits, to whole blocks. Log entry 2, PRESUMED, unsafe. -/
def sha512 (bs : List Byte) : List Byte :=
  let len := bs.length
  let blocks := (len + 144) / 128
  let msg := (beNat bs * 256 + 128) * 2^(8 * (128 * blocks - len - 1)) + 8 * len
  toBe (shaBlocks msg blocks shaInit) 64

/-- HMAC-SHA-512 of RFC 2104 under a key of at most one block. Log entry 2, PRESUMED, unsafe. -/
def hmac (key bs : List Byte) : List Byte :=
  let pad (x : Byte) : List Byte := (key ++ List.replicate (128 - key.length) 0).map (fun b => b ^^^ x)
  sha512 (pad 0x5C ++ sha512 (pad 0x36 ++ bs))

/-- HKDF-SHA-512 (RFC 5869) with a salt of 64 zero bytes and 32 bytes of output (R321): of a secret and an info string. Log entry 2, PRESUMED, unsafe. -/
def hkdf (secret info : List Byte) : List Byte := (hmac (hmac (List.replicate 64 0) secret) (info ++ [1])).take 32

/-! ## Ed25519 -/

/-- The field's prime 2^255 - 19. -/
def edP : Nat := 2^255 - 19
/-- The order of the base point. -/
def edL : Nat := 2^252 + 27742317777372353535851937790883648493
/-- The curve's constant -121665/121666. -/
def edD : Nat := 37095705934669439343138083508754565189542113879843219016388785533085940283555
/-- A square root of -1. -/
def edI : Nat := 19681161376707505956807079304988542015446066515923890162744021073123829784752

def fAdd (a b : Nat) : Nat := (a + b) % edP
def fSub (a b : Nat) : Nat := (a + edP - b) % edP
def fMul (a b : Nat) : Nat := a * b % edP

/-- `a` to the power whose `n` low bits `e` gives, times `r`: square and multiply from the least significant bit. -/
def fPow (a e : Nat) : Nat → Nat → Nat
  | 0, r => r
  | n + 1, r => force (if e % 2 = 1 then fMul r a else r) (fun r => force (fMul a a) (fun a => force (e / 2) (fun e => fPow a e n r)))

/-- A point of the curve in extended coordinates X, Y, Z, T with x = X/Z, y = Y/Z and x y = T/Z. -/
structure Point where
  x : Nat
  y : Nat
  z : Nat
  t : Nat
deriving DecidableEq, Repr

def edZero : Point := ⟨0, 1, 1, 0⟩

/-- The base point. -/
def edB : Point :=
  ⟨15112221349535400772501151409588531511454012693041857206046113283949847762202,
   46316835694926478169428394003475163141307993866256225615783033603165251855960,
   1,
   46827403850823179245072216630277197565144205554125654976674165829533817101731⟩

/-- The sum of two points (RFC 8032, 5.1.4). -/
def edAdd (p q : Point) : Point :=
  force (fMul (fSub p.y p.x) (fSub q.y q.x)) (fun a =>
  force (fMul (fAdd p.y p.x) (fAdd q.y q.x)) (fun b =>
  force (fMul (fMul (2 * p.t) q.t) edD) (fun c =>
  force (fMul (2 * p.z) q.z) (fun d =>
  force (fSub b a) (fun e => force (fSub d c) (fun f => force (fAdd d c) (fun g => force (fAdd b a) (fun h =>
  force (fMul e f) (fun x => force (fMul g h) (fun y => force (fMul f g) (fun z => force (fMul e h) (fun t => ⟨x, y, z, t⟩))))))))))))

/-- `r` and the multiple of a point by the `n` low bits of `k`. -/
def edMul (k : Nat) : Nat → Point → Point → Point
  | 0, _, r => r
  | n + 1, p, r =>
    match (if k % 2 = 1 then edAdd r p else r), edAdd p p with
    | ⟨x, y, z, t⟩, ⟨x', y', z', t'⟩ => force (k / 2) (fun k => edMul k n ⟨x', y', z', t'⟩ ⟨x, y, z, t⟩)

/-- [k]P for k below 2^256. -/
def edTimes (k : Nat) (p : Point) : Point := edMul k 256 p edZero

/-- Two points are the same. -/
def edSame (p q : Point) : Bool := fMul p.x q.z == fMul q.x p.z && fMul p.y q.z == fMul q.y p.z

/-- A point's 32 bytes (RFC 8032, 5.1.2). -/
def edEncode (p : Point) : List Byte :=
  force (fPow p.z (edP - 2) 255 1) (fun i => toLe (fMul p.y i + 2^255 * (fMul p.x i % 2)) 32)

/-- The point of 32 bytes, if they give one (RFC 8032, 5.1.3). -/
def edDecode (bs : List Byte) : Option Point :=
  let n := leNat bs
  let y := n % 2^255
  let sign := n / 2^255
  if edP ≤ y ∨ bs.length ≠ 32 then none
  else
    force (fSub (fMul y y) 1) (fun u =>
    force (fAdd (fMul edD (fMul y y)) 1) (fun v =>
    force (fMul (fMul u (fMul v (fMul v v))) (fPow (fMul u (fPow v 7 3 1)) ((edP - 5) / 8) 252 1)) (fun r =>
    let vxx := fMul v (fMul r r)
    if vxx ≠ u ∧ vxx ≠ fSub 0 u then none
    else
      force (if vxx = u then r else fMul r edI) (fun x =>
      if x = 0 ∧ sign = 1 then none
      else force (if x % 2 = sign then x else edP - x) (fun x => some ⟨x, y, 1, fMul x y⟩)))))

/-- The secret scalar and the prefix of a seed (RFC 8032, 5.1.5). -/
def edSecret (seed : List Byte) : Nat × List Byte :=
  let h := sha512 seed
  ((leNat (h.take 32) % 2^254) / 8 * 8 + 2^254, h.drop 32)

/-- The Ed25519 public key of a secret seed. Log entry 2, PRESUMED, unsafe. -/
def ed25519Public (seed : List Byte) : List Byte := edEncode (edTimes (edSecret seed).1 edB)

/-- The Ed25519 signature of a message under a secret seed (RFC 8032, 5.1.6). Log entry 2, PRESUMED, unsafe. -/
def ed25519Sign (seed msg : List Byte) : List Byte :=
  let (a, pre) := edSecret seed
  force (leNat (sha512 (pre ++ msg)) % edL) (fun r =>
    let rb := edEncode (edTimes r edB)
    rb ++ toLe ((r + leNat (sha512 (rb ++ ed25519Public seed ++ msg)) % edL * a) % edL) 32)

/-- Ed25519 verification of a signature under a public key (RFC 8032, 5.1.7), by the equation with the cofactor: [8][S]B = [8]R + [8][k]A.
RFC 8032 allows the stricter one without it. Log entry 2, PRESUMED, unsafe. -/
def ed25519Verify (pub msg sig : List Byte) : Bool :=
  let rb := sig.take 32
  let s := leNat (sig.drop 32)
  match edDecode pub, edDecode rb with
  | some a, some r =>
    force (leNat (sha512 (rb ++ pub ++ msg)) % edL) (fun k =>
      decide (s < edL) && edSame (edTimes 8 (edTimes s edB)) (edTimes 8 (edAdd r (edTimes k a))))
  | _, _ => false

end Sys2Proof.Crypto
end

