-- ==== Sys2Proof/Config.lean ====
section
/-! DEFINITION. What the spec leaves to an implementation, or states no value for: opaque constants that nothing can
evaluate. A statement about one of them holds whatever its value is (log entries 1 and 3). -/
namespace Sys2Proof.Config

/-- A value the spec leaves open, fresh for every use: the machine applies it to a counter that every use advances
(`Dev.freeCtr`). Log entry 1, DESIGN CHOICE, safe for the values, else unsafe. -/
opaque freeWord : Nat → BitVec 64

/-- Coefficient k of the compensation FIR of a digitiser whose CIC decimates by `dc`: 20 bits, in 2^-19, which the MP sets (R252).
Log entry 3, DESIGN CHOICE, safe for the values, else unsafe. -/
opaque firCoef : Nat → Nat → BitVec 20

/-- The MP's constant of a digitiser's normaliser whose CIC decimates by `dc`, in 2^-72, before it is held to a DC gain of 1 within 2^-17
(R252, `Dev.normOf`). Log entry 3, DESIGN CHOICE, safe for the values, else unsafe. -/
opaque mdNorm : Nat → Int

/-- The sample, `j` samples past the end of a segment that nothing follows, that the filters see after the segment's last
sample `x`: the spec says only that the histories are discarded (R182). Log entry 3, DESIGN CHOICE, safe for the values, else unsafe. -/
opaque afterEnd : Int → Nat → Int

/-- The byte at place `q` of a channel's ring count that the filters see where the ring never held it: of a segment whose data did not come
(R72). Log entry 3, DESIGN CHOICE, safe for the values, else unsafe. -/
opaque unfilled : Nat → Nat → Byte

end Sys2Proof.Config
end

