-- ==== Sys2Proof/Machine/RegMap.lean ====
section
/-! DEFINITION. The register map of BAR0, taken row by row from the register tables of the spec (R54, R55, R85, R150, R151,
R168 to R171, R202 to R206, R234 to R242, R263 to R265, R292 to R295, R331, R351 to R353, R377, R378, R406, R407, R425,
R426, R443, R444): where each register lies, its reset value, and which of its bits carry which access code (R5). -/
namespace Sys2Proof.Machine

/-- A block of registers of one shape. -/
inductive Block where
  | glob | time | alarm | link | port | chn | frame | eng | engIn | pool | tile | lgPage | lg | evt | rxLast | srcOwn | ec | tin | grp | li | fi | to | lt | ep | ti | mk | cap | host | dmaw | q | part | sec | cal | calTile | calCh | clk | pwr | dramG | frzAddr | dram | qsnap | fault | faultQ | msix | pba
deriving DecidableEq, Repr

/-- One row of a register table: `count` registers from `off`, `stride` bytes apart. A bit in none of the masks of a row
that is neither a counter nor write-only is RO, RL or reserved, and ignores writes (R413). -/
structure RegRow where
  off    : Nat
  stride : Nat
  count  : Nat
  reset  : Nat
  rw     : Nat
  rwb    : Nat
  rws    : Nat
  rsq    : Nat
  rc     : Bool
  wo     : Bool
  pair   : Nat
deriving DecidableEq, Repr

/-- A hardware-owned register (RO or RL) that resets to `v`. -/
def RegRow.ro (off v : Nat) : RegRow := ⟨off, 4, 1, v, 0, 0, 0, 0, false, false, 0⟩
/-- A register whose writable bits are given by the three masks. -/
def RegRow.mk' (off v rw rwb rws : Nat) : RegRow := ⟨off, 4, 1, v, rw, rwb, rws, 0, false, false, 0⟩
/-- A sequence-numbered status register with the flags of `m` (R6). -/
def RegRow.sq (off m : Nat) : RegRow := ⟨off, 4, 1, 0, 0, 0, 0, m, false, false, 0⟩
/-- A counter (RC). -/
def RegRow.cnt (off : Nat) : RegRow := ⟨off, 4, 1, 0, 0, 0, 0, 0, true, false, 0⟩
/-- A write-only register. -/
def RegRow.wo' (off : Nat) : RegRow := ⟨off, 4, 1, 0, 0, 0, 0, 0, false, true, 0⟩
/-- The low word of a 64-bit pair (R419). -/
def RegRow.lo (r : RegRow) : RegRow := { r with pair := 1 }
/-- The high word of a 64-bit pair (R419). -/
def RegRow.hi (r : RegRow) : RegRow := { r with pair := 2 }
/-- An array of registers. -/
def RegRow.arr (r : RegRow) (stride count : Nat) : RegRow := { r with stride := stride, count := count }

/-- CHN[n] (chapter 7, Registers of the output chain). -/
def chnBase (n : Nat) : Nat := 0x0800000 + 0x100000 * (n / 16) + 0x4000 * (n % 16)

/-- The registers of block glob (R425, R426). -/
def rowsGlob : List RegRow := [
  .ro 0x10 0x400,  -- STATUS
  .ro 0 0x9600b100,  -- ID
  .ro 0x4 0xc864060,  -- CAPS
  (RegRow.ro 0x8 0).lo,  -- SERIAL_LO
  (RegRow.ro 0xc 0).hi,  -- SERIAL_HI
  .ro 0x14 0,  -- BUILD_MP
  .ro 0x18 0,  -- BUILD_UC
  .ro 0x1c 0,  -- DRAM_SIZE
  .ro 0x20 0,  -- FDC_KHZ
  .sq 0x40 0x7f,  -- ACC_EVENTS
  .ro 0x44 0,  -- ACC_LAST
  .cnt 0x48,  -- ACCESS_ERR_CNT
  .cnt 0x4c,  -- STALE_CLR_CNT
  .cnt 0x50,  -- PARITY_CNT
  .ro 0x54 0,  -- PARITY_LAST
  (RegRow.mk' 0x80 0 0xffffffff 0 0).arr 4 4]  -- SCRATCH

/-- The registers of block time (R54). -/
def rowsTime : List RegRow := [
  (RegRow.ro 0 0).lo,  -- NOW_LO
  (RegRow.ro 0x4 0).hi,  -- NOW_HI
  (RegRow.mk' 0x10 0 0xffffffff 0 0).lo,  -- SET_LO
  (RegRow.mk' 0x14 0 0xffffffff 0 0).hi,  -- SET_HI
  (RegRow.ro 0x20 0).lo,  -- SET_AT_LO
  (RegRow.ro 0x24 0).hi,  -- SET_AT_HI
  (RegRow.ro 0x28 0).lo,  -- RATIO_LO
  (RegRow.ro 0x2c 0).hi,  -- RATIO_HI
  (RegRow.ro 0x30 0).lo,  -- COARSE_LO
  (RegRow.ro 0x34 0).hi,  -- COARSE_HI
  (RegRow.ro 0x38 0).lo,  -- SYNC_LO
  (RegRow.ro 0x3c 0).hi,  -- SYNC_HI
  .cnt 0x44,  -- LATE_CNT
  .ro 0x48 0,  -- LATE_MAX
  (RegRow.ro 0x50 0).lo,  -- LATE_FIRST_LO
  (RegRow.ro 0x54 0).hi,  -- LATE_FIRST_HI
  .ro 0x8 0,  -- STATUS
  .sq 0xc 0x7f,  -- EVENTS
  .mk' 0x18 0 0x100f3 0 0,  -- SET_CTL
  .mk' 0x40 0xa 0x1ffff 0 0]  -- SYNC_CHK

/-- The registers of block alarm (R54). -/
def rowsAlarm : List RegRow := [
  (RegRow.mk' 0 0 0xffffffff 0 0).lo,  -- AT_LO
  (RegRow.mk' 0x4 0 0xffffffff 0 0).hi,  -- AT_HI
  .mk' 0x8 0 0xffffffff 0 0,  -- PERIOD
  .mk' 0xc 0 0 0x1 0]  -- CTL

/-- The registers of block link (R55). -/
def rowsLink : List RegRow := [
  .mk' 0 0 0x400 0 0x3f3,  -- CFG
  .ro 0x4 0,  -- STATUS
  .sq 0x8 0x7f]  -- EVENTS

/-- The registers of block port (R55). -/
def rowsPort : List RegRow := [
  .ro 0 0,  -- STATE
  .ro 0x4 0,  -- DELAY
  .mk' 0x8 0 0xffffffff 0 0,  -- ASYM
  .cnt 0x10,  -- CRC_ERR
  .cnt 0x14,  -- RESEND
  .cnt 0x18,  -- TX_DROP
  .cnt 0x1c,  -- BAD_TYPE
  .cnt 0x20]  -- REPLAY_LOST

/-- The registers of block chn (R85, R169 to R171, R202 to R204). -/
def rowsChn : List RegRow := [
  .mk' 0x3000 0x1000000 0 0 0x1ffff00,  -- SC_LAYOUT
  .ro 0x3004 0,  -- SC_STATUS
  .sq 0x3008 0x7,  -- SC_EVENTS
  .cnt 0x300c,  -- UNDERRUN_CNT
  (RegRow.ro 0x3010 0).lo,  -- UNDERRUN_FIRST_LO
  (RegRow.ro 0x3014 0).hi,  -- UNDERRUN_FIRST_HI
  (RegRow.cnt 0x3018).lo,  -- FILL_BYTES_LO
  (RegRow.cnt 0x301c).hi,  -- FILL_BYTES_HI
  .mk' 0x2400 0 0x11f07 0 0,  -- FR_CMD
  (RegRow.mk' 0x2404 0 0xffffffff 0 0).lo,  -- FR_VAL_LO
  (RegRow.mk' 0x2408 0 0xffff 0 0).hi,  -- FR_VAL_HI
  (RegRow.mk' 0x240c 0 0xffffffff 0 0).lo,  -- FR_VAL2_LO
  (RegRow.mk' 0x2410 0 0xffff 0 0).hi,  -- FR_VAL2_HI
  (RegRow.mk' 0x2414 0 0xffffffff 0 0).lo,  -- FR_AT_LO
  (RegRow.mk' 0x2418 0 0xffffffff 0 0).hi,  -- FR_AT_HI
  .mk' 0x2420 0 0x1f 0 0,  -- FRQ_CTL
  (RegRow.mk' 0x2424 0 0xffffffff 0 0).lo,  -- FRQ_AT_LO
  (RegRow.mk' 0x2428 0 0xffffffff 0 0).hi,  -- FRQ_AT_HI
  (RegRow.ro 0x242c 0).lo,  -- FRQ_PH_LO
  (RegRow.ro 0x2430 0).hi,  -- FRQ_PH_HI
  (RegRow.ro 0x2434 0).lo,  -- FRQ_F_LO
  (RegRow.ro 0x2438 0).hi,  -- FRQ_F_HI
  .sq 0x2440 0x1f,  -- SYN_EVENTS
  .cnt 0x2444,  -- MIX_SAT_CNT
  .cnt 0x2448,  -- FR_LATE_CNT
  .mk' 0 0x10 0 0x8000 0xffc38f3,  -- CFG
  .ro 0x4 0x8000d,  -- STATUS
  .sq 0x8 0x3ff,  -- OUT_EVENTS
  .mk' 0x10 0x10000 0 0x3ffff 0,  -- GAIN
  .mk' 0x14 0 0 0xfffff 0,  -- OFFSET
  .mk' 0x18 0 0 0xffff 0,  -- IDLE_CODE
  .mk' 0x20 0 0 0x3ff00ff 0,  -- DELAY
  .mk' 0x24 0 0xff 0 0,  -- SKEW_USER
  .ro 0x28 0,  -- SKEW_CAL
  .mk' 0x30 0 0 0 0xffff,  -- OUT_CFG
  .ro 0x34 0,  -- OUT_SEAL
  .ro 0x40 0,  -- DAC_STATUS
  .cnt 0x44,  -- SAT_CNT
  .cnt 0x48,  -- LATE_CNT
  .cnt 0x4c,  -- D2D_ERR_CNT
  .mk' 0x1000 0 0xffffffff 0 0,  -- GUARD_CLAMP
  .mk' 0x1004 0 0xffff 0 0,  -- GUARD_SLEW
  .mk' 0x1008 0 0x3fffffff 0 0,  -- GUARD_PWR
  .ro 0x1010 0,  -- GUARD_SEAL_CLAMP
  .ro 0x1014 0,  -- GUARD_SEAL_SLEW
  .ro 0x1018 0,  -- GUARD_SEAL_PWR
  .ro 0x101c 0,  -- GUARD_WIN
  .cnt 0x1020,  -- GUARD_CNT
  (RegRow.ro 0x1024 0).lo,  -- TRIP_AT_LO
  (RegRow.ro 0x1028 0).hi,  -- TRIP_AT_HI
  .mk' 0x1800 0 0xffff 0 0,  -- SAFE_CODE
  .mk' 0x1808 0 0 0xffff 0,  -- STATIC_CODE
  .mk' 0x180c 0 0xf 0 0,  -- STATIC_CFG
  .mk' 0x1804 0 0x1 0 0]  -- SAFE_CTL

/-- The registers of block frame (R168). -/
def rowsFrame : List RegRow := [
  (RegRow.ro 0 0).lo,  -- FREQ_LO
  (RegRow.ro 0x4 0).hi,  -- FREQ_HI
  (RegRow.ro 0x8 0).lo,  -- PHASE_LO
  (RegRow.ro 0xc 0).hi,  -- PHASE_HI
  (RegRow.ro 0x10 0).lo,  -- EPOCH_LO
  (RegRow.ro 0x14 0).hi,  -- EPOCH_HI
  .ro 0x18 0]  -- RATE

/-- The registers of block eng (R150). -/
def rowsEng : List RegRow := [
  .mk' 0 0x7 0x5 0 0x2,  -- CFG
  .ro 0x4 0x400000,  -- STATUS
  .ro 0x8 0,  -- PC
  .sq 0xc 0x1fff,  -- EVENTS
  .mk' 0x10 0 0x10000 0x3fff 0,  -- SW_CFG
  .mk' 0x30 0x40 0 0 0xffff,  -- PATROL
  (RegRow.cnt 0x18).lo,  -- ISSUED_LO
  (RegRow.cnt 0x1c).hi,  -- ISSUED_HI
  .cnt 0x20,  -- COLLIDE
  .cnt 0x24,  -- BANK_CORR_CNT
  .cnt 0x28,  -- SWITCH_CNT
  .cnt 0x2c,  -- PATROL_SKIP
  .ro 0x34 0,  -- PATROL_FAIL_ADDR
  (RegRow.ro 0x200 0).arr 4 8]  -- EXC

/-- The registers of block engIn (R150). -/
def rowsEngIn : List RegRow := [
  .ro 0 0,  -- STATE
  .cnt 0x4,  -- OVR_CNT
  (RegRow.ro 0x8 0).lo,  -- OVR_FIRST_LO
  (RegRow.ro 0xc 0).hi]  -- OVR_FIRST_HI

/-- The registers of block pool (R151). -/
def rowsPool : List RegRow := [
  (RegRow.ro 0 0xffffffff).lo,  -- IN_SERVICE_LO
  (RegRow.ro 0x4 0xffffffff).hi,  -- IN_SERVICE_HI
  (RegRow.ro 0x8 0).lo,  -- SPARE_LO
  (RegRow.ro 0xc 0).hi,  -- SPARE_HI
  .cnt 0x10]  -- MOVES

/-- The coefficients c_k of the halfband of stage s, with 17 fraction bits (R179): for the first two stages the minimax optimum for the stage's
edges, rounded half to even, the smallest of them adjusted so that the sum is 1/2. Log entry 80, DEDUCED, unsafe. -/
def halfband (s : Nat) : List Int :=
  if s = 1 then [83020, -26569, 14687, -9263, 6086, -4014, 2602, -1634, 980, -554, 289, -135, 54, -13]
  else if s = 2 then [80739, -20610, 7117, -2100, 438, -48]
  else [76800, -12800, 1536]

/-- The registers of block tile (R205). -/
def rowsTile : List RegRow := [
  .mk' 0 0x103e8 0x1ffff 0 0,  -- ROT
  .cnt 0x4,  -- ROT_CNT
  (RegRow.ro 0x100 0).arr 4 23]  -- HB_COEF

/-- HB_COEF[k]: the coefficients of HB1, HB2 and HB3 in turn, [17:0] signed (R205). -/
def hbCoef (k : Nat) : Nat := (((halfband 1 ++ halfband 2 ++ halfband 3).getD k 0) % (2^18 : Nat)).toNat

/-- The registers of block lgPage (R206). -/
def rowsLgPage : List RegRow := [
  .mk' 0 0x1 0x1 0 0,  -- LG_CTL
  .cnt 0x8,  -- LG_COAL
  (RegRow.ro 0x10 0).lo,  -- LOADN_AT_LO
  (RegRow.ro 0x14 0).hi,  -- LOADN_AT_HI
  .sq 0x4 0x3]  -- LG_STATUS

/-- The registers of block lg (R206). -/
def rowsLg : List RegRow := [
  .mk' 0 0 0 0 0x1f1,  -- CFG
  .mk' 0x4 0x140 0 0 0xffffffff,  -- LAT
  .cnt 0x8]  -- STROBES

/-- The registers of block evt (R234). -/
def rowsEvt : List RegRow := [
  .wo' 0x8,  -- DOORBELL
  .cnt 0x10,  -- LOOP_CNT
  .cnt 0x14,  -- POST_CNT
  .cnt 0x18,  -- BAD_EP_CNT
  .cnt 0x1c,  -- FUTURE_CNT
  .cnt 0x20,  -- NOT_OWNED_CNT
  .cnt 0x24,  -- LINK_REJECT_CNT
  .cnt 0x28,  -- NARROW_CNT
  (RegRow.mk' 0x30 0 0xffffffff 0 0).lo,  -- MB_LINK_LO
  (RegRow.mk' 0x34 0 0xffffffff 0 0).hi,  -- MB_LINK_HI
  (RegRow.sq 0x100 0xffff).arr 4 16,  -- FLAG
  .sq 0x4 0x3f]  -- EVENTS

/-- The registers of block rxLast (R234). -/
def rowsRxLast : List RegRow := [
  .ro 0 0,  -- EP
  (RegRow.ro 0x4 0).lo,  -- AT_LO
  (RegRow.ro 0x8 0).hi]  -- AT_HI

/-- The registers of block srcOwn (R234). -/
def rowsSrcOwn : List RegRow := [
  .mk' 0 0x10 0x3f 0 0]  -- OWN

/-- The registers of block ec (R235). -/
def rowsEc : List RegRow := [
  .mk' 0 0 0 0x3fffffff 0,  -- CFG
  .mk' 0x4 0 0x480000 0x37ffff 0,  -- CTL
  .ro 0x28 0,  -- STATUS
  .sq 0x2c 0x7,  -- EVENTS
  .mk' 0x8 0 0 0xffffffff 0,  -- DIV
  .mk' 0xc 0 0 0xfff 0,  -- DELAY
  (RegRow.mk' 0x10 0 0 0xffffffff 0).lo,  -- GATE_OPEN_LO
  (RegRow.mk' 0x14 0 0 0xffffffff 0).hi,  -- GATE_OPEN_HI
  (RegRow.mk' 0x18 0 0 0xffffffff 0).lo,  -- GATE_CLOSE_LO
  (RegRow.mk' 0x1c 0 0 0xffffffff 0).hi,  -- GATE_CLOSE_HI
  .mk' 0x20 0x1 0 0xffffffff 0,  -- GATE_WIDTH
  .mk' 0x24 0x1 0 0xffffffff 0,  -- GATE_PERIOD
  .cnt 0x30,  -- FIRE_CNT
  .cnt 0x34,  -- COAL_CNT
  .cnt 0x38,  -- GATED_CNT
  (RegRow.ro 0x3c 0).lo,  -- LAST_LO
  (RegRow.ro 0x40 0).hi]  -- LAST_HI

/-- The registers of block tin (R236). -/
def rowsTin : List RegRow := [
  .mk' 0 0 0 0x7fdff 0,  -- SEL
  .ro 0x8 0,  -- STATE
  .sq 0x10 0x1f,  -- EVENTS
  .mk' 0x4 0 0 0xffffffff 0,  -- LAT
  .cnt 0xc,  -- COALESCE
  .cnt 0x14,  -- OVR_CNT
  (RegRow.ro 0x18 0).lo,  -- OVR_FIRST_LO
  (RegRow.ro 0x1c 0).hi]  -- OVR_FIRST_HI

/-- The registers of block grp (R237). -/
def rowsGrp : List RegRow := [
  .ro 0 0x201,  -- STATE
  .mk' 0x4 0 0x3 0 0,  -- CMD
  (RegRow.mk' 0x8 0 0xffffffff 0 0).lo,  -- AT_LO
  (RegRow.mk' 0xc 0 0xffffffff 0 0).hi]  -- AT_HI

/-- The registers of block li (R238). -/
def rowsLi : List RegRow := [
  .mk' 0 0 0 0 0x1fffff,  -- CFG
  .mk' 0x4 0 0 0 0xffffffff,  -- SEG
  .ro 0x8 0]  -- STATUS

/-- The registers of block fi (R239). -/
def rowsFi : List RegRow := [
  .mk' 0 0 0 0x1f07 0,  -- CFG
  (RegRow.mk' 0x4 0 0 0xffffffff 0).lo,  -- VAL_LO
  (RegRow.mk' 0x8 0 0 0xffff 0).hi,  -- VAL_HI
  (RegRow.mk' 0x10 0 0 0xffffffff 0).arr 4 3]  -- CHSET

/-- The registers of block to (R240). -/
def rowsTo : List RegRow := [
  .mk' 0 0 0 0x7 0,  -- CFG
  .mk' 0x4 0x10 0 0xffffff 0,  -- WIDTH
  .mk' 0x8 0 0xffffffff 0 0,  -- GAP
  .ro 0xc 0,  -- SEAL_GAP
  .ro 0x10 0,  -- STATUS
  .cnt 0x14]  -- RATE_CNT

/-- The registers of block lt (R241). -/
def rowsLt : List RegRow := [
  .mk' 0 0 0 0x1ffff 0,  -- CFG
  .cnt 0x4]  -- SENT

/-- The registers of block ep (R242). -/
def rowsEp : List RegRow := [
  .mk' 0 0x1000 0x1fff 0 0]  -- EP

/-- The registers of block ti (R263). -/
def rowsTi : List RegRow := [
  .mk' 0 0x2 0 0x7f77 0x8,  -- CFG
  .ro 0x2c 0,  -- STATUS
  .sq 0x30 0xf,  -- EVENTS
  .mk' 0x4 0 0xff0fff 0 0,  -- LEVEL
  .mk' 0x8 0 0 0x3ff 0,  -- ADJ
  (RegRow.mk' 0xc 0 0 0xffffffff 0).lo,  -- HOLD_T_LO
  (RegRow.mk' 0x10 0 0 0xff 0).hi,  -- HOLD_T_HI
  .mk' 0x14 0 0 0xffffffff 0,  -- HOLD_N
  (RegRow.mk' 0x18 0 0 0xffffffff 0).lo,  -- Q_OPEN_LO
  (RegRow.mk' 0x1c 0 0 0xffffffff 0).hi,  -- Q_OPEN_HI
  (RegRow.mk' 0x20 0 0 0xffffffff 0).lo,  -- Q_CLOSE_LO
  (RegRow.mk' 0x24 0 0 0xffffffff 0).hi,  -- Q_CLOSE_HI
  .mk' 0x28 0 0x1 0 0,  -- CTL
  .cnt 0x34,  -- MISSED_CNT
  .cnt 0x38,  -- QFAIL_CNT
  .cnt 0x3c,  -- MERGE_CNT
  (RegRow.ro 0x40 0).lo,  -- LAST_LO
  (RegRow.ro 0x44 0).hi]  -- LAST_HI

/-- The registers of block mk (R264). -/
def rowsMk : List RegRow := [
  .mk' 0 0 0 0 0x1f1ff,  -- CFG
  .mk' 0x4 0 0 0x3f03ff 0]  -- DELAY

/-- The registers of block cap (R265). -/
def rowsCap : List RegRow := [
  .mk' 0 0x20 0xf1ffff 0 0,  -- CFG
  .mk' 0x28 0 0xf 0 0,  -- CTL
  .ro 0x2c 0x250000,  -- STATUS
  .sq 0x30 0x3ff,  -- EVENTS
  .mk' 0x4 0 0x3fff 0 0,  -- PH
  .mk' 0x8 0 0xffffffff 0 0,  -- PRE
  (RegRow.mk' 0xc 0x1 0xffffffff 0 0).lo,  -- POST_LO
  (RegRow.mk' 0x10 0 0xff 0 0).hi,  -- POST_HI
  (RegRow.mk' 0x14 0 0xffffffff 0 0).lo,  -- RING_BASE_LO
  (RegRow.mk' 0x18 0 0x1ff 0 0).hi,  -- RING_BASE_HI
  (RegRow.mk' 0x1c 0 0xffffffff 0 0).lo,  -- RING_SIZE_LO
  (RegRow.mk' 0x20 0 0x1ff 0 0).hi,  -- RING_SIZE_HI
  .mk' 0x24 0 0x1ff01ff 0 0,  -- LOG
  (RegRow.ro 0x34 0).lo,  -- TRIG_AT_LO
  (RegRow.ro 0x38 0).hi,  -- TRIG_AT_HI
  (RegRow.ro 0x3c 0).lo,  -- TPOINT_LO
  (RegRow.ro 0x40 0).hi,  -- TPOINT_HI
  .ro 0x44 0,  -- PRE_ACT
  (RegRow.ro 0x48 0).lo,  -- POST_ACT_LO
  (RegRow.ro 0x4c 0).hi,  -- POST_ACT_HI
  (RegRow.ro 0x50 0).lo,  -- START_LO
  (RegRow.ro 0x54 0).hi,  -- START_HI
  .ro 0x58 0,  -- LOG_N
  .cnt 0x5c]  -- SAT_CNT

/-- The registers of block host (R292). -/
def rowsHost : List RegRow := [
  .ro 0 0x2000,  -- STATUS
  .sq 0x4 0x3f,  -- EVENTS
  .mk' 0xc 0xa0100 0xffff7f7f 0 0,  -- IRQ
  .ro 0x8 0,  -- INFLIGHT
  .cnt 0x10,  -- DENY_CNT
  .cnt 0x14,  -- BAR2_DENY_CNT
  (RegRow.mk' 0x100 0 0xfffff001 0 0).lo.arr 8 16,  -- BAR2_WIN_LO
  (RegRow.mk' 0x104 0 0x1ff 0 0).hi.arr 8 16]  -- BAR2_WIN_HI

/-- The registers of block dmaw (R293). -/
def rowsDmaw : List RegRow := [
  (RegRow.mk' 0 0 0xfffff000 0 0).lo,  -- BASE_LO
  (RegRow.mk' 0x4 0 0xffffffff 0 0).hi,  -- BASE_HI
  .mk' 0x8 0 0xffffffff 0 0,  -- SIZE
  .mk' 0xc 0 0x7 0 0]  -- CTL

/-- The registers of block q (R294). -/
def rowsQ : List RegRow := [
  .mk' 0x10 0 0x3 0 0x3f00,  -- SQ_CTL
  .mk' 0x24 0x100 0xffffffff 0 0,  -- CQ_CTL
  .ro 0x28 0,  -- Q_STATUS
  (RegRow.mk' 0 0 0 0 0xfffff000).lo,  -- SQ_BASE_LO
  (RegRow.mk' 0x4 0 0 0 0xffffffff).hi,  -- SQ_BASE_HI
  .mk' 0x8 0 0x1ff 0 0,  -- SQ_TAIL
  .ro 0xc 0,  -- SQ_HEAD
  (RegRow.mk' 0x14 0 0 0 0xfffff000).lo,  -- CQ_BASE_LO
  (RegRow.mk' 0x18 0 0 0 0xffffffff).hi,  -- CQ_BASE_HI
  .mk' 0x1c 0 0x3ff 0 0,  -- CQ_HEAD
  .ro 0x20 0,  -- CQ_TAIL
  .cnt 0x2c]  -- DUP_CNT

/-- The registers of block part (R295). -/
def rowsPart : List RegRow := [
  .ro 0 0,  -- STATE
  .ro 0x4 0]  -- QUEUES

/-- The registers of block sec (R331). -/
def rowsSec : List RegRow := [
  .ro 0 0x200,  -- STATUS
  .sq 0x4 0x1f,  -- EVENTS
  .mk' 0x8 0 0x7 0 0,  -- BOOT_CTL
  .mk' 0x40 0 0x1 0 0,  -- TOKEN_CTL
  .ro 0x44 0,  -- KEY_STATE
  .mk' 0x50 0 0xfffffff7 0 0,  -- REC_CTL
  .cnt 0xc,  -- WDT_CNT
  .wo' 0x10,  -- RESET
  .ro 0x14 0,  -- RESET_CAUSE
  .cnt 0x18,  -- IMG_REFUSED_CNT
  .ro 0x1c 0,  -- IMG_FIRST
  (RegRow.ro 0x20 0).lo,  -- NONCE_LO
  (RegRow.ro 0x24 0).hi,  -- NONCE_HI
  (RegRow.ro 0x28 0).lo,  -- SERIAL_LO
  (RegRow.ro 0x2c 0).hi,  -- SERIAL_HI
  .ro 0x30 0,  -- WIPE_LEFT
  .mk' 0x54 0 0xffffffff 0 0,  -- REC_OFS
  (RegRow.mk' 0x100 0 0xffffffff 0 0).arr 4 48,  -- TOKEN
  (RegRow.ro 0x200 0).arr 4 8,  -- IDK_PUB
  (RegRow.ro 0x220 0).arr 4 16,  -- IDK_CERT
  (RegRow.mk' 0x10000 0 0xffffffff 0 0).arr 4 16384]  -- REC_BUF

/-- The registers of block cal (R351). -/
def rowsCal : List RegRow := [
  .ro 0 0,  -- STATUS
  .sq 0x8 0x7,  -- EVENTS
  .ro 0x4 0]  -- SLOT_SEQ

/-- The registers of block calTile (R352). -/
def rowsCalTile : List RegRow := [
  .mk' 0 0x5010030 0x7ff01ff 0 0,  -- CFG
  .ro 0x8 0,  -- STATUS
  .sq 0x10 0xf,  -- EVENTS
  .mk' 0x4 0 0x1 0 0,  -- CTL
  .ro 0xc 0,  -- TEMP
  .mk' 0x14 0x64 0xffff 0 0,  -- RECAL_PERIOD
  .cnt 0x18,  -- RUN_CNT
  .cnt 0x1c,  -- CHK_ABORT_CNT
  .mk' 0x20 0x20 0xfff 0 0]  -- CHK_LIMIT

/-- The registers of block calCh (R353). -/
def rowsCalCh : List RegRow := [
  .ro 0 0,  -- CHK_RES
  .ro 0x4 0,  -- CHK_CODE
  (RegRow.ro 0x8 0).lo,  -- CHK_AT_LO
  (RegRow.ro 0xc 0).hi,  -- CHK_AT_HI
  .ro 0x10 0]  -- CHK_STATUS

/-- The registers of block clk (R377). -/
def rowsClk : List RegRow := [
  .ro 0 0,  -- STATUS
  .sq 0x4 0x3ff,  -- EVENTS
  .mk' 0x10 0x200c8 0x3707ff 0 0,  -- SPLL_SH
  .mk' 0x20 0 0x7 0 0,  -- APPLY_CTL
  .mk' 0x14 0 0xffffffff 0 0,  -- SPLL_SH_FRAC
  (RegRow.mk' 0x18 0 0xffffffff 0 0).lo,  -- APPLY_AT_LO
  (RegRow.mk' 0x1c 0 0xffffffff 0 0).hi,  -- APPLY_AT_HI
  .ro 0x24 0,  -- SPLL_ACT
  .ro 0x28 0,  -- SPLL_ACT_FRAC
  .ro 0x2c 0,  -- FDC_KHZ
  .ro 0x30 0,  -- CEIL
  .ro 0x34 0,  -- LOCK_CNT
  .ro 0x38 0,  -- LOCK_EXP
  .cnt 0x3c,  -- SPLL_LOSS_CNT
  .cnt 0x40,  -- XPLL_LOSS_CNT
  .cnt 0x44,  -- LOCK_WARN_CNT
  .ro 0x48 0]  -- REF_MEAS

/-- The registers of block pwr (R378). -/
def rowsPwr : List RegRow := [
  .ro 0 0x1,  -- STATUS
  .sq 0xc 0x7,  -- EVENTS
  .mk' 0x10 0x3 0x7 0 0,  -- RET
  .mk' 0x4 0 0x1 0 0,  -- CTL
  .mk' 0x8 0 0x1ffff 0 0,  -- WAKE
  .mk' 0x14 0x64 0xffff 0 0,  -- SR_IDLE
  .ro 0x18 0,  -- WAKE_CAUSE
  .ro 0x1c 0,  -- TJ
  .mk' 0x20 0x690 0xffff 0 0,  -- TJ_ALARM
  (RegRow.mk' 0x30 0 0xffffffff 0 0).lo,  -- ENG_BANK_OFF_LO
  (RegRow.mk' 0x34 0 0xffffffff 0 0).hi,  -- ENG_BANK_OFF_HI
  (RegRow.mk' 0x40 0 0xffffffff 0 0).arr 4 3]  -- SC_OFF

/-- The registers of block dramG (R406). -/
def rowsDramG : List RegRow := [
  .ro 0 0,  -- STATUS
  .sq 0x4 0x1f,  -- EVENTS
  .ro 0x8 0,  -- POP
  .ro 0xc 0,  -- MAP
  .ro 0x100 0,  -- FRZ_INFO
  .cnt 0x104,  -- FRZ_EXTRA
  (RegRow.ro 0x108 0).lo,  -- FRZ_AT_LO
  (RegRow.ro 0x10c 0).hi]  -- FRZ_AT_HI

/-- The registers of block frzAddr (R406). -/
def rowsFrzAddr : List RegRow := [
  (RegRow.ro 0 0).lo,  -- LO
  (RegRow.ro 0x4 0).hi,  -- HI
  .ro 0x8 0,  -- LOCAL
  .ro 0xc 0]  -- SYN

/-- The registers of block dram (R407). -/
def rowsDram : List RegRow := [
  .mk' 0 0x180002 0xffff0003 0 0,  -- CFG
  .ro 0x4 0,  -- STATUS
  .sq 0x8 0x3ff,  -- EVENTS
  .ro 0xc 0,  -- TEMP
  (RegRow.mk' 0x20 0 0xffff 0 0).arr 4 10,  -- LT
  .cnt 0x50,  -- CORR_CNT
  .cnt 0x54,  -- REF_POSTPONED_CNT
  .cnt 0x58,  -- REF_FORCED_CNT
  .cnt 0x5c,  -- PANIC_CNT
  .cnt 0x60,  -- MISS_CNT
  .ro 0x64 0,  -- CORR_DEV
  (RegRow.cnt 0x68).lo,  -- RD_BYTES_LO
  (RegRow.cnt 0x6c).hi,  -- RD_BYTES_HI
  (RegRow.cnt 0x70).lo,  -- WR_BYTES_LO
  (RegRow.cnt 0x74).hi,  -- WR_BYTES_HI
  .mk' 0x78 0x3e8 0xffffffff 0 0,  -- CORR_LIMIT
  .ro 0x80 0]  -- TRAIN

/-- The registers of block qsnap (R407). -/
def rowsQsnap : List RegRow := [
  .ro 0 0,  -- A
  .ro 0x4 0]  -- B

/-- The registers of block fault (R443). -/
def rowsFault : List RegRow := [
  .ro 0 0,  -- STATUS
  .sq 0x4 0xf,  -- EVENTS
  .mk' 0x8 0x3fff 0x3fff 0 0,  -- CFG
  .cnt 0xc,  -- TOTAL
  (RegRow.ro 0x40 0).arr 4 16]  -- DSAFE_LAST

/-- The registers of block faultQ (R444). -/
def rowsFaultQ : List RegRow := [
  .ro 0 0,  -- STATE
  .wo' 0x4,  -- ACK
  .cnt 0x8,  -- OVF_CNT
  .cnt 0xc,  -- OCC_CNT
  (RegRow.ro 0x40 0).arr 4 16]  -- REC

/-- The rows of a block. The MSI-X table and pending bits (R295) are plain words. -/
def blockRows : Block → List RegRow
  | .glob => rowsGlob
  | .time => rowsTime
  | .alarm => rowsAlarm
  | .link => rowsLink
  | .port => rowsPort
  | .chn => rowsChn
  | .frame => rowsFrame
  | .eng => rowsEng
  | .engIn => rowsEngIn
  | .pool => rowsPool
  | .tile => rowsTile
  | .lgPage => rowsLgPage
  | .lg => rowsLg
  | .evt => rowsEvt
  | .rxLast => rowsRxLast
  | .srcOwn => rowsSrcOwn
  | .ec => rowsEc
  | .tin => rowsTin
  | .grp => rowsGrp
  | .li => rowsLi
  | .fi => rowsFi
  | .to => rowsTo
  | .lt => rowsLt
  | .ep => rowsEp
  | .ti => rowsTi
  | .mk => rowsMk
  | .cap => rowsCap
  | .host => rowsHost
  | .dmaw => rowsDmaw
  | .q => rowsQ
  | .part => rowsPart
  | .sec => rowsSec
  | .cal => rowsCal
  | .calTile => rowsCalTile
  | .calCh => rowsCalCh
  | .clk => rowsClk
  | .pwr => rowsPwr
  | .dramG => rowsDramG
  | .frzAddr => rowsFrzAddr
  | .dram => rowsDram
  | .qsnap => rowsQsnap
  | .fault => rowsFault
  | .faultQ => rowsFaultQ
  | .msix => [(RegRow.mk' 0 0 0xfffffffc 0 0).arr 16 128, (RegRow.mk' 4 0 0xffffffff 0 0).arr 16 128,
              (RegRow.mk' 8 0 0xffffffff 0 0).arr 16 128, (RegRow.mk' 12 1 1 0 0).arr 16 128]
  | .pba => [(RegRow.ro 0 0).arr 4 4]

/-- An array of blocks: its kind, where it starts, the distance between two blocks, how many there are, and how many
bytes of each are the block's own. -/
structure Region where
  blk    : Block
  base   : Nat
  stride : Nat
  count  : Nat
  size   : Nat
deriving DecidableEq, Repr

/-- The regions of BAR0 (R408), the parts nested in another block before that block. -/
def regions : List Region := [
  ⟨.alarm, 0x0101000, 16, 64, 0x10⟩,
  ⟨.port, 0x1800100, 256, 2, 0x100⟩,
  ⟨.pool, 0x0500000, 0, 1, 0x1000⟩,
  ⟨.lg, 0x0F80100, 16, 16, 0x10⟩,
  ⟨.rxLast, 0x0200200, 16, 16, 0x10⟩,
  ⟨.srcOwn, 0x0250000, 4, 1024, 0x4⟩,
  ⟨.ec, 0x0210000, 128, 256, 0x80⟩,
  ⟨.tin, 0x0220000, 32, 512, 0x20⟩,
  ⟨.grp, 0x0230000, 16, 32, 0x10⟩,
  ⟨.li, 0x0231000, 32, 48, 0x20⟩,
  ⟨.fi, 0x0232000, 64, 32, 0x40⟩,
  ⟨.to, 0x0233000, 32, 8, 0x20⟩,
  ⟨.lt, 0x0234000, 16, 12, 0x10⟩,
  ⟨.ep, 0x0240000, 4, 4096, 0x4⟩,
  ⟨.ti, 0x1600000, 128, 16, 0x80⟩,
  ⟨.mk, 0x1601000, 16, 32, 0x10⟩,
  ⟨.cap, 0x1610000, 1024, 6, 0x400⟩,
  ⟨.dmaw, 0x1300200, 16, 16, 0x10⟩,
  ⟨.q, 0x1301000, 64, 64, 0x40⟩,
  ⟨.part, 0x1303000, 16, 12, 0x10⟩,
  ⟨.calTile, 0x1510000, 4096, 6, 0x1000⟩,
  ⟨.calCh, 0x1580000, 32, 96, 0x20⟩,
  ⟨.frzAddr, 0x1080120, 16, 8, 0x10⟩,
  ⟨.faultQ, 0x1700100, 256, 14, 0x100⟩,
  ⟨.pwr, 0x1201000, 0, 1, 0xef000⟩,
  ⟨.clk, 0x1200000, 0, 1, 0x1000⟩,
  ⟨.tile, 0x0E00000, 262144, 6, 0x40000⟩,
  ⟨.lgPage, 0x0F80000, 0, 1, 0x80000⟩,
  ⟨.dramG, 0x1080000, 0, 1, 0x80000⟩,
  ⟨.time, 0x0100000, 0, 1, 0x100000⟩,
  ⟨.evt, 0x0200000, 0, 1, 0x200000⟩,
  ⟨.link, 0x1800000, 0, 1, 0x100000⟩,
  ⟨.msix, 0x1308000, 0, 1, 0x800⟩,
  ⟨.pba, 0x1309000, 0, 1, 0x10⟩,
  ⟨.host, 0x1300000, 0, 1, 0x100000⟩,
  ⟨.sec, 0x1400000, 0, 1, 0x100000⟩,
  ⟨.cal, 0x1500000, 0, 1, 0x100000⟩,
  ⟨.fault, 0x1700000, 0, 1, 0x100000⟩,
  ⟨.glob, 0x0000000, 0, 1, 0x100000⟩]

/-- The block that holds BAR0 offset `a`: its kind, its number, and the offset within it. -/
def locate (a : Nat) : Option (Block × Nat × Nat) :=
  if 0x0800000 ≤ a ∧ a < 0x0E00000 then
    let o := (a - 0x0800000) % 0x100000
    if o < 0x40000 then
      let n := 16 * ((a - 0x0800000) / 0x100000) + o / 0x4000
      let r := o % 0x4000
      if 0x2000 ≤ r ∧ r < 0x2400 then some (.frame, n * 32 + (r - 0x2000) / 0x20, (r - 0x2000) % 0x20)
      else some (.chn, n, r)
    else none
  else if 0x0400000 ≤ a ∧ a < 0x0500000 then
    let n := (a - 0x0400000) / 0x4000
    let r := (a - 0x0400000) % 0x4000
    if 0x100 ≤ r ∧ r < 0x150 then some (.engIn, n * 5 + (r - 0x100) / 0x10, (r - 0x100) % 0x10)
    else some (.eng, n, r)
  else if 0x1000000 ≤ a ∧ a < 0x1080000 then
    let d := (a - 0x1000000) / 0x10000
    let r := (a - 0x1000000) % 0x10000
    if 0x100 ≤ r ∧ r < 0x140 then some (.qsnap, d * 8 + (r - 0x100) / 8, (r - 0x100) % 8)
    else some (.dram, d, r)
  else
    match regions.find? (fun g => g.base ≤ a && a < g.base + g.stride * (g.count - 1) + g.size) with
    | some g => if g.stride = 0 then some (g.blk, 0, a - g.base)
                else some (g.blk, (a - g.base) / g.stride, (a - g.base) % g.stride)
    | none => none

/-- The row that describes the register at BAR0 offset `a`, if a chapter defines one there. -/
def regRow (a : Nat) : Option RegRow :=
  match locate a with
  | none => none
  | some (b, _, r) =>
    (blockRows b).find? (fun x => x.off ≤ r && r < x.off + x.stride * x.count && (r - x.off) % x.stride == 0)

/-- The least declared latency of task input `i`, by the class of its consumer (R29, R220). -/
def latMin (i : Nat) : Nat :=
  if i < 256 then 0 else if i < 320 then 528 else if i < 416 then 320 else if i < 424 then 160
  else if i < 430 then 64 else if i < 436 then 0 else if i < 500 then 64 else 0

/-- The default latency target of DRAM port `p` in nanoseconds (R387). -/
def ltDefault (p : Nat) : Nat :=
  if p < 6 then 1000 else match p with | 6 => 4000 | 7 => 500 | 8 => 2000 | 9 => 20000 | _ => 0

/-- What a register reads as before anything has written it: the reset value of its table; the class minimum for a LAT
(R236) and the default of R387 for a latency target. Bits 28 and up of the key name a function's copy. Log entry 10, DESIGN CHOICE, unsafe. -/
def regReset (a : Nat) : Word :=
  match locate (a % 2^28) with
  | none => 0
  | some (b, i, r) =>
    match (blockRows b).find? (fun x => x.off ≤ r && r < x.off + x.stride * x.count && (r - x.off) % x.stride == 0) with
    | none => 0
    | some x =>
      match b, r with
      | .tin, 4 => BitVec.ofNat 32 (latMin i)
      | .tile, _ => BitVec.ofNat 32 (if 0x100 ≤ r then hbCoef ((r - 0x100) / 4) else x.reset)
      | .dram, _ => if 0x20 ≤ r ∧ r < 0x48 then BitVec.ofNat 32 (ltDefault ((r - 0x20) / 4)) else BitVec.ofNat 32 x.reset
      | _, _ => BitVec.ofNat 32 x.reset

/-! Where each register lies, named as its chapter names it. -/
namespace Reg

abbrev glob_STATUS : Nat := 0x0 + 0x10
abbrev glob_ID : Nat := 0x0 + 0
abbrev glob_CAPS : Nat := 0x0 + 0x4
abbrev glob_SERIAL_LO : Nat := 0x0 + 0x8
abbrev glob_SERIAL_HI : Nat := 0x0 + 0xc
abbrev glob_BUILD_MP : Nat := 0x0 + 0x14
abbrev glob_BUILD_UC : Nat := 0x0 + 0x18
abbrev glob_DRAM_SIZE : Nat := 0x0 + 0x1c
abbrev glob_FDC_KHZ : Nat := 0x0 + 0x20
abbrev glob_ACC_EVENTS : Nat := 0x0 + 0x40
abbrev glob_ACC_LAST : Nat := 0x0 + 0x44
abbrev glob_ACCESS_ERR_CNT : Nat := 0x0 + 0x48
abbrev glob_STALE_CLR_CNT : Nat := 0x0 + 0x4c
abbrev glob_PARITY_CNT : Nat := 0x0 + 0x50
abbrev glob_PARITY_LAST : Nat := 0x0 + 0x54
abbrev glob_SCRATCH (i : Nat) : Nat := 0x0 + 0x80 + 4 * i
abbrev time_NOW_LO : Nat := 0x0100000 + 0
abbrev time_NOW_HI : Nat := 0x0100000 + 0x4
abbrev time_SET_LO : Nat := 0x0100000 + 0x10
abbrev time_SET_HI : Nat := 0x0100000 + 0x14
abbrev time_SET_AT_LO : Nat := 0x0100000 + 0x20
abbrev time_SET_AT_HI : Nat := 0x0100000 + 0x24
abbrev time_RATIO_LO : Nat := 0x0100000 + 0x28
abbrev time_RATIO_HI : Nat := 0x0100000 + 0x2c
abbrev time_COARSE_LO : Nat := 0x0100000 + 0x30
abbrev time_COARSE_HI : Nat := 0x0100000 + 0x34
abbrev time_SYNC_LO : Nat := 0x0100000 + 0x38
abbrev time_SYNC_HI : Nat := 0x0100000 + 0x3c
abbrev time_LATE_CNT : Nat := 0x0100000 + 0x44
abbrev time_LATE_MAX : Nat := 0x0100000 + 0x48
abbrev time_LATE_FIRST_LO : Nat := 0x0100000 + 0x50
abbrev time_LATE_FIRST_HI : Nat := 0x0100000 + 0x54
abbrev time_STATUS : Nat := 0x0100000 + 0x8
abbrev time_EVENTS : Nat := 0x0100000 + 0xc
abbrev time_SET_CTL : Nat := 0x0100000 + 0x18
abbrev time_SYNC_CHK : Nat := 0x0100000 + 0x40
abbrev alarm_AT_LO (n : Nat) : Nat := 0x0101000 + 16 * n + 0
abbrev alarm_AT_HI (n : Nat) : Nat := 0x0101000 + 16 * n + 0x4
abbrev alarm_PERIOD (n : Nat) : Nat := 0x0101000 + 16 * n + 0x8
abbrev alarm_CTL (n : Nat) : Nat := 0x0101000 + 16 * n + 0xc
abbrev link_CFG : Nat := 0x1800000 + 0
abbrev link_STATUS : Nat := 0x1800000 + 0x4
abbrev link_EVENTS : Nat := 0x1800000 + 0x8
abbrev port_STATE (p : Nat) : Nat := 0x1800100 + 0x100 * p + 0
abbrev port_DELAY (p : Nat) : Nat := 0x1800100 + 0x100 * p + 0x4
abbrev port_ASYM (p : Nat) : Nat := 0x1800100 + 0x100 * p + 0x8
abbrev port_CRC_ERR (p : Nat) : Nat := 0x1800100 + 0x100 * p + 0x10
abbrev port_RESEND (p : Nat) : Nat := 0x1800100 + 0x100 * p + 0x14
abbrev port_TX_DROP (p : Nat) : Nat := 0x1800100 + 0x100 * p + 0x18
abbrev port_BAD_TYPE (p : Nat) : Nat := 0x1800100 + 0x100 * p + 0x1c
abbrev port_REPLAY_LOST (p : Nat) : Nat := 0x1800100 + 0x100 * p + 0x20
abbrev chn_SC_LAYOUT (n : Nat) : Nat := chnBase n + 0x3000
abbrev chn_SC_STATUS (n : Nat) : Nat := chnBase n + 0x3004
abbrev chn_SC_EVENTS (n : Nat) : Nat := chnBase n + 0x3008
abbrev chn_UNDERRUN_CNT (n : Nat) : Nat := chnBase n + 0x300c
abbrev chn_UNDERRUN_FIRST_LO (n : Nat) : Nat := chnBase n + 0x3010
abbrev chn_UNDERRUN_FIRST_HI (n : Nat) : Nat := chnBase n + 0x3014
abbrev chn_FILL_BYTES_LO (n : Nat) : Nat := chnBase n + 0x3018
abbrev chn_FILL_BYTES_HI (n : Nat) : Nat := chnBase n + 0x301c
abbrev chn_FR_CMD (n : Nat) : Nat := chnBase n + 0x2400
abbrev chn_FR_VAL_LO (n : Nat) : Nat := chnBase n + 0x2404
abbrev chn_FR_VAL_HI (n : Nat) : Nat := chnBase n + 0x2408
abbrev chn_FR_VAL2_LO (n : Nat) : Nat := chnBase n + 0x240c
abbrev chn_FR_VAL2_HI (n : Nat) : Nat := chnBase n + 0x2410
abbrev chn_FR_AT_LO (n : Nat) : Nat := chnBase n + 0x2414
abbrev chn_FR_AT_HI (n : Nat) : Nat := chnBase n + 0x2418
abbrev chn_FRQ_CTL (n : Nat) : Nat := chnBase n + 0x2420
abbrev chn_FRQ_AT_LO (n : Nat) : Nat := chnBase n + 0x2424
abbrev chn_FRQ_AT_HI (n : Nat) : Nat := chnBase n + 0x2428
abbrev chn_FRQ_PH_LO (n : Nat) : Nat := chnBase n + 0x242c
abbrev chn_FRQ_PH_HI (n : Nat) : Nat := chnBase n + 0x2430
abbrev chn_FRQ_F_LO (n : Nat) : Nat := chnBase n + 0x2434
abbrev chn_FRQ_F_HI (n : Nat) : Nat := chnBase n + 0x2438
abbrev chn_SYN_EVENTS (n : Nat) : Nat := chnBase n + 0x2440
abbrev chn_MIX_SAT_CNT (n : Nat) : Nat := chnBase n + 0x2444
abbrev chn_FR_LATE_CNT (n : Nat) : Nat := chnBase n + 0x2448
abbrev chn_CFG (n : Nat) : Nat := chnBase n + 0
abbrev chn_STATUS (n : Nat) : Nat := chnBase n + 0x4
abbrev chn_OUT_EVENTS (n : Nat) : Nat := chnBase n + 0x8
abbrev chn_GAIN (n : Nat) : Nat := chnBase n + 0x10
abbrev chn_OFFSET (n : Nat) : Nat := chnBase n + 0x14
abbrev chn_IDLE_CODE (n : Nat) : Nat := chnBase n + 0x18
abbrev chn_DELAY (n : Nat) : Nat := chnBase n + 0x20
abbrev chn_SKEW_USER (n : Nat) : Nat := chnBase n + 0x24
abbrev chn_SKEW_CAL (n : Nat) : Nat := chnBase n + 0x28
abbrev chn_OUT_CFG (n : Nat) : Nat := chnBase n + 0x30
abbrev chn_OUT_SEAL (n : Nat) : Nat := chnBase n + 0x34
abbrev chn_DAC_STATUS (n : Nat) : Nat := chnBase n + 0x40
abbrev chn_SAT_CNT (n : Nat) : Nat := chnBase n + 0x44
abbrev chn_LATE_CNT (n : Nat) : Nat := chnBase n + 0x48
abbrev chn_D2D_ERR_CNT (n : Nat) : Nat := chnBase n + 0x4c
abbrev chn_GUARD_CLAMP (n : Nat) : Nat := chnBase n + 0x1000
abbrev chn_GUARD_SLEW (n : Nat) : Nat := chnBase n + 0x1004
abbrev chn_GUARD_PWR (n : Nat) : Nat := chnBase n + 0x1008
abbrev chn_GUARD_SEAL_CLAMP (n : Nat) : Nat := chnBase n + 0x1010
abbrev chn_GUARD_SEAL_SLEW (n : Nat) : Nat := chnBase n + 0x1014
abbrev chn_GUARD_SEAL_PWR (n : Nat) : Nat := chnBase n + 0x1018
abbrev chn_GUARD_WIN (n : Nat) : Nat := chnBase n + 0x101c
abbrev chn_GUARD_CNT (n : Nat) : Nat := chnBase n + 0x1020
abbrev chn_TRIP_AT_LO (n : Nat) : Nat := chnBase n + 0x1024
abbrev chn_TRIP_AT_HI (n : Nat) : Nat := chnBase n + 0x1028
abbrev chn_SAFE_CODE (n : Nat) : Nat := chnBase n + 0x1800
abbrev chn_STATIC_CODE (n : Nat) : Nat := chnBase n + 0x1808
abbrev chn_STATIC_CFG (n : Nat) : Nat := chnBase n + 0x180c
abbrev chn_SAFE_CTL (n : Nat) : Nat := chnBase n + 0x1804
abbrev frame_FREQ_LO (n : Nat) (f : Nat) : Nat := chnBase n + 0x2000 + 0x20 * f + 0
abbrev frame_FREQ_HI (n : Nat) (f : Nat) : Nat := chnBase n + 0x2000 + 0x20 * f + 0x4
abbrev frame_PHASE_LO (n : Nat) (f : Nat) : Nat := chnBase n + 0x2000 + 0x20 * f + 0x8
abbrev frame_PHASE_HI (n : Nat) (f : Nat) : Nat := chnBase n + 0x2000 + 0x20 * f + 0xc
abbrev frame_EPOCH_LO (n : Nat) (f : Nat) : Nat := chnBase n + 0x2000 + 0x20 * f + 0x10
abbrev frame_EPOCH_HI (n : Nat) (f : Nat) : Nat := chnBase n + 0x2000 + 0x20 * f + 0x14
abbrev frame_RATE (n : Nat) (f : Nat) : Nat := chnBase n + 0x2000 + 0x20 * f + 0x18
abbrev eng_CFG (n : Nat) : Nat := 0x0400000 + 0x4000 * n + 0
abbrev eng_STATUS (n : Nat) : Nat := 0x0400000 + 0x4000 * n + 0x4
abbrev eng_PC (n : Nat) : Nat := 0x0400000 + 0x4000 * n + 0x8
abbrev eng_EVENTS (n : Nat) : Nat := 0x0400000 + 0x4000 * n + 0xc
abbrev eng_SW_CFG (n : Nat) : Nat := 0x0400000 + 0x4000 * n + 0x10
abbrev eng_PATROL (n : Nat) : Nat := 0x0400000 + 0x4000 * n + 0x30
abbrev eng_ISSUED_LO (n : Nat) : Nat := 0x0400000 + 0x4000 * n + 0x18
abbrev eng_ISSUED_HI (n : Nat) : Nat := 0x0400000 + 0x4000 * n + 0x1c
abbrev eng_COLLIDE (n : Nat) : Nat := 0x0400000 + 0x4000 * n + 0x20
abbrev eng_BANK_CORR_CNT (n : Nat) : Nat := 0x0400000 + 0x4000 * n + 0x24
abbrev eng_SWITCH_CNT (n : Nat) : Nat := 0x0400000 + 0x4000 * n + 0x28
abbrev eng_PATROL_SKIP (n : Nat) : Nat := 0x0400000 + 0x4000 * n + 0x2c
abbrev eng_PATROL_FAIL_ADDR (n : Nat) : Nat := 0x0400000 + 0x4000 * n + 0x34
abbrev eng_EXC (n : Nat) (i : Nat) : Nat := 0x0400000 + 0x4000 * n + 0x200 + 4 * i
abbrev engIn_STATE (n : Nat) (k : Nat) : Nat := 0x0400000 + 0x4000 * n + 0x100 + 0x10 * k + 0
abbrev engIn_OVR_CNT (n : Nat) (k : Nat) : Nat := 0x0400000 + 0x4000 * n + 0x100 + 0x10 * k + 0x4
abbrev engIn_OVR_FIRST_LO (n : Nat) (k : Nat) : Nat := 0x0400000 + 0x4000 * n + 0x100 + 0x10 * k + 0x8
abbrev engIn_OVR_FIRST_HI (n : Nat) (k : Nat) : Nat := 0x0400000 + 0x4000 * n + 0x100 + 0x10 * k + 0xc
abbrev pool_IN_SERVICE_LO : Nat := 0x0500000 + 0
abbrev pool_IN_SERVICE_HI : Nat := 0x0500000 + 0x4
abbrev pool_SPARE_LO : Nat := 0x0500000 + 0x8
abbrev pool_SPARE_HI : Nat := 0x0500000 + 0xc
abbrev pool_MOVES : Nat := 0x0500000 + 0x10
abbrev tile_ROT (t : Nat) : Nat := 0x0E00000 + 0x40000 * t + 0
abbrev tile_ROT_CNT (t : Nat) : Nat := 0x0E00000 + 0x40000 * t + 0x4
abbrev tile_HB_COEF (t : Nat) (i : Nat) : Nat := 0x0E00000 + 0x40000 * t + 0x100 + 4 * i
abbrev lgPage_LG_CTL : Nat := 0x0F80000 + 0
abbrev lgPage_LG_COAL : Nat := 0x0F80000 + 0x8
abbrev lgPage_LOADN_AT_LO : Nat := 0x0F80000 + 0x10
abbrev lgPage_LOADN_AT_HI : Nat := 0x0F80000 + 0x14
abbrev lgPage_LG_STATUS : Nat := 0x0F80000 + 0x4
abbrev lg_CFG (g : Nat) : Nat := 0x0F80100 + 0x10 * g + 0
abbrev lg_LAT (g : Nat) : Nat := 0x0F80100 + 0x10 * g + 0x4
abbrev lg_STROBES (g : Nat) : Nat := 0x0F80100 + 0x10 * g + 0x8
abbrev evt_DOORBELL : Nat := 0x0200000 + 0x8
abbrev evt_LOOP_CNT : Nat := 0x0200000 + 0x10
abbrev evt_POST_CNT : Nat := 0x0200000 + 0x14
abbrev evt_BAD_EP_CNT : Nat := 0x0200000 + 0x18
abbrev evt_FUTURE_CNT : Nat := 0x0200000 + 0x1c
abbrev evt_NOT_OWNED_CNT : Nat := 0x0200000 + 0x20
abbrev evt_LINK_REJECT_CNT : Nat := 0x0200000 + 0x24
abbrev evt_NARROW_CNT : Nat := 0x0200000 + 0x28
abbrev evt_MB_LINK_LO : Nat := 0x0200000 + 0x30
abbrev evt_MB_LINK_HI : Nat := 0x0200000 + 0x34
abbrev evt_FLAG (i : Nat) : Nat := 0x0200000 + 0x100 + 4 * i
abbrev evt_EVENTS : Nat := 0x0200000 + 0x4
abbrev rxLast_EP (r : Nat) : Nat := 0x0200200 + 0x10 * r + 0
abbrev rxLast_AT_LO (r : Nat) : Nat := 0x0200200 + 0x10 * r + 0x4
abbrev rxLast_AT_HI (r : Nat) : Nat := 0x0200200 + 0x10 * r + 0x8
abbrev srcOwn_OWN (s : Nat) : Nat := 0x0250000 + 4 * s + 0
abbrev ec_CFG (n : Nat) : Nat := 0x0210000 + 0x80 * n + 0
abbrev ec_CTL (n : Nat) : Nat := 0x0210000 + 0x80 * n + 0x4
abbrev ec_STATUS (n : Nat) : Nat := 0x0210000 + 0x80 * n + 0x28
abbrev ec_EVENTS (n : Nat) : Nat := 0x0210000 + 0x80 * n + 0x2c
abbrev ec_DIV (n : Nat) : Nat := 0x0210000 + 0x80 * n + 0x8
abbrev ec_DELAY (n : Nat) : Nat := 0x0210000 + 0x80 * n + 0xc
abbrev ec_GATE_OPEN_LO (n : Nat) : Nat := 0x0210000 + 0x80 * n + 0x10
abbrev ec_GATE_OPEN_HI (n : Nat) : Nat := 0x0210000 + 0x80 * n + 0x14
abbrev ec_GATE_CLOSE_LO (n : Nat) : Nat := 0x0210000 + 0x80 * n + 0x18
abbrev ec_GATE_CLOSE_HI (n : Nat) : Nat := 0x0210000 + 0x80 * n + 0x1c
abbrev ec_GATE_WIDTH (n : Nat) : Nat := 0x0210000 + 0x80 * n + 0x20
abbrev ec_GATE_PERIOD (n : Nat) : Nat := 0x0210000 + 0x80 * n + 0x24
abbrev ec_FIRE_CNT (n : Nat) : Nat := 0x0210000 + 0x80 * n + 0x30
abbrev ec_COAL_CNT (n : Nat) : Nat := 0x0210000 + 0x80 * n + 0x34
abbrev ec_GATED_CNT (n : Nat) : Nat := 0x0210000 + 0x80 * n + 0x38
abbrev ec_LAST_LO (n : Nat) : Nat := 0x0210000 + 0x80 * n + 0x3c
abbrev ec_LAST_HI (n : Nat) : Nat := 0x0210000 + 0x80 * n + 0x40
abbrev tin_SEL (i : Nat) : Nat := 0x0220000 + 0x20 * i + 0
abbrev tin_STATE (i : Nat) : Nat := 0x0220000 + 0x20 * i + 0x8
abbrev tin_EVENTS (i : Nat) : Nat := 0x0220000 + 0x20 * i + 0x10
abbrev tin_LAT (i : Nat) : Nat := 0x0220000 + 0x20 * i + 0x4
abbrev tin_COALESCE (i : Nat) : Nat := 0x0220000 + 0x20 * i + 0xc
abbrev tin_OVR_CNT (i : Nat) : Nat := 0x0220000 + 0x20 * i + 0x14
abbrev tin_OVR_FIRST_LO (i : Nat) : Nat := 0x0220000 + 0x20 * i + 0x18
abbrev tin_OVR_FIRST_HI (i : Nat) : Nat := 0x0220000 + 0x20 * i + 0x1c
abbrev grp_STATE (g : Nat) : Nat := 0x0230000 + 0x10 * g + 0
abbrev grp_CMD (g : Nat) : Nat := 0x0230000 + 0x10 * g + 0x4
abbrev grp_AT_LO (g : Nat) : Nat := 0x0230000 + 0x10 * g + 0x8
abbrev grp_AT_HI (g : Nat) : Nat := 0x0230000 + 0x10 * g + 0xc
abbrev li_CFG (k : Nat) : Nat := 0x0231000 + 0x20 * k + 0
abbrev li_SEG (k : Nat) : Nat := 0x0231000 + 0x20 * k + 0x4
abbrev li_STATUS (k : Nat) : Nat := 0x0231000 + 0x20 * k + 0x8
abbrev fi_CFG (k : Nat) : Nat := 0x0232000 + 0x40 * k + 0
abbrev fi_VAL_LO (k : Nat) : Nat := 0x0232000 + 0x40 * k + 0x4
abbrev fi_VAL_HI (k : Nat) : Nat := 0x0232000 + 0x40 * k + 0x8
abbrev fi_CHSET (k : Nat) (i : Nat) : Nat := 0x0232000 + 0x40 * k + 0x10 + 4 * i
abbrev to_CFG (k : Nat) : Nat := 0x0233000 + 0x20 * k + 0
abbrev to_WIDTH (k : Nat) : Nat := 0x0233000 + 0x20 * k + 0x4
abbrev to_GAP (k : Nat) : Nat := 0x0233000 + 0x20 * k + 0x8
abbrev to_SEAL_GAP (k : Nat) : Nat := 0x0233000 + 0x20 * k + 0xc
abbrev to_STATUS (k : Nat) : Nat := 0x0233000 + 0x20 * k + 0x10
abbrev to_RATE_CNT (k : Nat) : Nat := 0x0233000 + 0x20 * k + 0x14
abbrev lt_CFG (k : Nat) : Nat := 0x0234000 + 0x10 * k + 0
abbrev lt_SENT (k : Nat) : Nat := 0x0234000 + 0x10 * k + 0x4
abbrev ep_EP (e : Nat) : Nat := 0x0240000 + 4 * e + 0
abbrev ti_CFG (m : Nat) : Nat := 0x1600000 + 0x80 * m + 0
abbrev ti_STATUS (m : Nat) : Nat := 0x1600000 + 0x80 * m + 0x2c
abbrev ti_EVENTS (m : Nat) : Nat := 0x1600000 + 0x80 * m + 0x30
abbrev ti_LEVEL (m : Nat) : Nat := 0x1600000 + 0x80 * m + 0x4
abbrev ti_ADJ (m : Nat) : Nat := 0x1600000 + 0x80 * m + 0x8
abbrev ti_HOLD_T_LO (m : Nat) : Nat := 0x1600000 + 0x80 * m + 0xc
abbrev ti_HOLD_T_HI (m : Nat) : Nat := 0x1600000 + 0x80 * m + 0x10
abbrev ti_HOLD_N (m : Nat) : Nat := 0x1600000 + 0x80 * m + 0x14
abbrev ti_Q_OPEN_LO (m : Nat) : Nat := 0x1600000 + 0x80 * m + 0x18
abbrev ti_Q_OPEN_HI (m : Nat) : Nat := 0x1600000 + 0x80 * m + 0x1c
abbrev ti_Q_CLOSE_LO (m : Nat) : Nat := 0x1600000 + 0x80 * m + 0x20
abbrev ti_Q_CLOSE_HI (m : Nat) : Nat := 0x1600000 + 0x80 * m + 0x24
abbrev ti_CTL (m : Nat) : Nat := 0x1600000 + 0x80 * m + 0x28
abbrev ti_MISSED_CNT (m : Nat) : Nat := 0x1600000 + 0x80 * m + 0x34
abbrev ti_QFAIL_CNT (m : Nat) : Nat := 0x1600000 + 0x80 * m + 0x38
abbrev ti_MERGE_CNT (m : Nat) : Nat := 0x1600000 + 0x80 * m + 0x3c
abbrev ti_LAST_LO (m : Nat) : Nat := 0x1600000 + 0x80 * m + 0x40
abbrev ti_LAST_HI (m : Nat) : Nat := 0x1600000 + 0x80 * m + 0x44
abbrev mk_CFG (k : Nat) : Nat := 0x1601000 + 0x10 * k + 0
abbrev mk_DELAY (k : Nat) : Nat := 0x1601000 + 0x10 * k + 0x4
abbrev cap_CFG (d : Nat) : Nat := 0x1610000 + 0x400 * d + 0
abbrev cap_CTL (d : Nat) : Nat := 0x1610000 + 0x400 * d + 0x28
abbrev cap_STATUS (d : Nat) : Nat := 0x1610000 + 0x400 * d + 0x2c
abbrev cap_EVENTS (d : Nat) : Nat := 0x1610000 + 0x400 * d + 0x30
abbrev cap_PH (d : Nat) : Nat := 0x1610000 + 0x400 * d + 0x4
abbrev cap_PRE (d : Nat) : Nat := 0x1610000 + 0x400 * d + 0x8
abbrev cap_POST_LO (d : Nat) : Nat := 0x1610000 + 0x400 * d + 0xc
abbrev cap_POST_HI (d : Nat) : Nat := 0x1610000 + 0x400 * d + 0x10
abbrev cap_RING_BASE_LO (d : Nat) : Nat := 0x1610000 + 0x400 * d + 0x14
abbrev cap_RING_BASE_HI (d : Nat) : Nat := 0x1610000 + 0x400 * d + 0x18
abbrev cap_RING_SIZE_LO (d : Nat) : Nat := 0x1610000 + 0x400 * d + 0x1c
abbrev cap_RING_SIZE_HI (d : Nat) : Nat := 0x1610000 + 0x400 * d + 0x20
abbrev cap_LOG (d : Nat) : Nat := 0x1610000 + 0x400 * d + 0x24
abbrev cap_TRIG_AT_LO (d : Nat) : Nat := 0x1610000 + 0x400 * d + 0x34
abbrev cap_TRIG_AT_HI (d : Nat) : Nat := 0x1610000 + 0x400 * d + 0x38
abbrev cap_TPOINT_LO (d : Nat) : Nat := 0x1610000 + 0x400 * d + 0x3c
abbrev cap_TPOINT_HI (d : Nat) : Nat := 0x1610000 + 0x400 * d + 0x40
abbrev cap_PRE_ACT (d : Nat) : Nat := 0x1610000 + 0x400 * d + 0x44
abbrev cap_POST_ACT_LO (d : Nat) : Nat := 0x1610000 + 0x400 * d + 0x48
abbrev cap_POST_ACT_HI (d : Nat) : Nat := 0x1610000 + 0x400 * d + 0x4c
abbrev cap_START_LO (d : Nat) : Nat := 0x1610000 + 0x400 * d + 0x50
abbrev cap_START_HI (d : Nat) : Nat := 0x1610000 + 0x400 * d + 0x54
abbrev cap_LOG_N (d : Nat) : Nat := 0x1610000 + 0x400 * d + 0x58
abbrev cap_SAT_CNT (d : Nat) : Nat := 0x1610000 + 0x400 * d + 0x5c
abbrev host_STATUS : Nat := 0x1300000 + 0
abbrev host_EVENTS : Nat := 0x1300000 + 0x4
abbrev host_IRQ : Nat := 0x1300000 + 0xc
abbrev host_INFLIGHT : Nat := 0x1300000 + 0x8
abbrev host_DENY_CNT : Nat := 0x1300000 + 0x10
abbrev host_BAR2_DENY_CNT : Nat := 0x1300000 + 0x14
abbrev host_BAR2_WIN_LO (i : Nat) : Nat := 0x1300000 + 0x100 + 8 * i
abbrev host_BAR2_WIN_HI (i : Nat) : Nat := 0x1300000 + 0x104 + 8 * i
abbrev dmaw_BASE_LO (w : Nat) : Nat := 0x1300200 + 0x10 * w + 0
abbrev dmaw_BASE_HI (w : Nat) : Nat := 0x1300200 + 0x10 * w + 0x4
abbrev dmaw_SIZE (w : Nat) : Nat := 0x1300200 + 0x10 * w + 0x8
abbrev dmaw_CTL (w : Nat) : Nat := 0x1300200 + 0x10 * w + 0xc
abbrev q_SQ_CTL (q : Nat) : Nat := 0x1301000 + 0x40 * q + 0x10
abbrev q_CQ_CTL (q : Nat) : Nat := 0x1301000 + 0x40 * q + 0x24
abbrev q_Q_STATUS (q : Nat) : Nat := 0x1301000 + 0x40 * q + 0x28
abbrev q_SQ_BASE_LO (q : Nat) : Nat := 0x1301000 + 0x40 * q + 0
abbrev q_SQ_BASE_HI (q : Nat) : Nat := 0x1301000 + 0x40 * q + 0x4
abbrev q_SQ_TAIL (q : Nat) : Nat := 0x1301000 + 0x40 * q + 0x8
abbrev q_SQ_HEAD (q : Nat) : Nat := 0x1301000 + 0x40 * q + 0xc
abbrev q_CQ_BASE_LO (q : Nat) : Nat := 0x1301000 + 0x40 * q + 0x14
abbrev q_CQ_BASE_HI (q : Nat) : Nat := 0x1301000 + 0x40 * q + 0x18
abbrev q_CQ_HEAD (q : Nat) : Nat := 0x1301000 + 0x40 * q + 0x1c
abbrev q_CQ_TAIL (q : Nat) : Nat := 0x1301000 + 0x40 * q + 0x20
abbrev q_DUP_CNT (q : Nat) : Nat := 0x1301000 + 0x40 * q + 0x2c
abbrev part_STATE (p : Nat) : Nat := 0x1303000 + 0x10 * p + 0
abbrev part_QUEUES (p : Nat) : Nat := 0x1303000 + 0x10 * p + 0x4
abbrev sec_STATUS : Nat := 0x1400000 + 0
abbrev sec_EVENTS : Nat := 0x1400000 + 0x4
abbrev sec_BOOT_CTL : Nat := 0x1400000 + 0x8
abbrev sec_TOKEN_CTL : Nat := 0x1400000 + 0x40
abbrev sec_KEY_STATE : Nat := 0x1400000 + 0x44
abbrev sec_REC_CTL : Nat := 0x1400000 + 0x50
abbrev sec_WDT_CNT : Nat := 0x1400000 + 0xc
abbrev sec_RESET : Nat := 0x1400000 + 0x10
abbrev sec_RESET_CAUSE : Nat := 0x1400000 + 0x14
abbrev sec_IMG_REFUSED_CNT : Nat := 0x1400000 + 0x18
abbrev sec_IMG_FIRST : Nat := 0x1400000 + 0x1c
abbrev sec_NONCE_LO : Nat := 0x1400000 + 0x20
abbrev sec_NONCE_HI : Nat := 0x1400000 + 0x24
abbrev sec_SERIAL_LO : Nat := 0x1400000 + 0x28
abbrev sec_SERIAL_HI : Nat := 0x1400000 + 0x2c
abbrev sec_WIPE_LEFT : Nat := 0x1400000 + 0x30
abbrev sec_REC_OFS : Nat := 0x1400000 + 0x54
abbrev sec_TOKEN (i : Nat) : Nat := 0x1400000 + 0x100 + 4 * i
abbrev sec_IDK_PUB (i : Nat) : Nat := 0x1400000 + 0x200 + 4 * i
abbrev sec_IDK_CERT (i : Nat) : Nat := 0x1400000 + 0x220 + 4 * i
abbrev sec_REC_BUF (i : Nat) : Nat := 0x1400000 + 0x10000 + 4 * i
abbrev cal_STATUS : Nat := 0x1500000 + 0
abbrev cal_EVENTS : Nat := 0x1500000 + 0x8
abbrev cal_SLOT_SEQ : Nat := 0x1500000 + 0x4
abbrev calTile_CFG (t : Nat) : Nat := 0x1510000 + 0x1000 * t + 0
abbrev calTile_STATUS (t : Nat) : Nat := 0x1510000 + 0x1000 * t + 0x8
abbrev calTile_EVENTS (t : Nat) : Nat := 0x1510000 + 0x1000 * t + 0x10
abbrev calTile_CTL (t : Nat) : Nat := 0x1510000 + 0x1000 * t + 0x4
abbrev calTile_TEMP (t : Nat) : Nat := 0x1510000 + 0x1000 * t + 0xc
abbrev calTile_RECAL_PERIOD (t : Nat) : Nat := 0x1510000 + 0x1000 * t + 0x14
abbrev calTile_RUN_CNT (t : Nat) : Nat := 0x1510000 + 0x1000 * t + 0x18
abbrev calTile_CHK_ABORT_CNT (t : Nat) : Nat := 0x1510000 + 0x1000 * t + 0x1c
abbrev calTile_CHK_LIMIT (t : Nat) : Nat := 0x1510000 + 0x1000 * t + 0x20
abbrev calCh_CHK_RES (n : Nat) : Nat := 0x1580000 + 0x20 * n + 0
abbrev calCh_CHK_CODE (n : Nat) : Nat := 0x1580000 + 0x20 * n + 0x4
abbrev calCh_CHK_AT_LO (n : Nat) : Nat := 0x1580000 + 0x20 * n + 0x8
abbrev calCh_CHK_AT_HI (n : Nat) : Nat := 0x1580000 + 0x20 * n + 0xc
abbrev calCh_CHK_STATUS (n : Nat) : Nat := 0x1580000 + 0x20 * n + 0x10
abbrev clk_STATUS : Nat := 0x1200000 + 0
abbrev clk_EVENTS : Nat := 0x1200000 + 0x4
abbrev clk_SPLL_SH : Nat := 0x1200000 + 0x10
abbrev clk_APPLY_CTL : Nat := 0x1200000 + 0x20
abbrev clk_SPLL_SH_FRAC : Nat := 0x1200000 + 0x14
abbrev clk_APPLY_AT_LO : Nat := 0x1200000 + 0x18
abbrev clk_APPLY_AT_HI : Nat := 0x1200000 + 0x1c
abbrev clk_SPLL_ACT : Nat := 0x1200000 + 0x24
abbrev clk_SPLL_ACT_FRAC : Nat := 0x1200000 + 0x28
abbrev clk_FDC_KHZ : Nat := 0x1200000 + 0x2c
abbrev clk_CEIL : Nat := 0x1200000 + 0x30
abbrev clk_LOCK_CNT : Nat := 0x1200000 + 0x34
abbrev clk_LOCK_EXP : Nat := 0x1200000 + 0x38
abbrev clk_SPLL_LOSS_CNT : Nat := 0x1200000 + 0x3c
abbrev clk_XPLL_LOSS_CNT : Nat := 0x1200000 + 0x40
abbrev clk_LOCK_WARN_CNT : Nat := 0x1200000 + 0x44
abbrev clk_REF_MEAS : Nat := 0x1200000 + 0x48
abbrev pwr_STATUS : Nat := 0x1201000 + 0
abbrev pwr_EVENTS : Nat := 0x1201000 + 0xc
abbrev pwr_RET : Nat := 0x1201000 + 0x10
abbrev pwr_CTL : Nat := 0x1201000 + 0x4
abbrev pwr_WAKE : Nat := 0x1201000 + 0x8
abbrev pwr_SR_IDLE : Nat := 0x1201000 + 0x14
abbrev pwr_WAKE_CAUSE : Nat := 0x1201000 + 0x18
abbrev pwr_TJ : Nat := 0x1201000 + 0x1c
abbrev pwr_TJ_ALARM : Nat := 0x1201000 + 0x20
abbrev pwr_ENG_BANK_OFF_LO : Nat := 0x1201000 + 0x30
abbrev pwr_ENG_BANK_OFF_HI : Nat := 0x1201000 + 0x34
abbrev pwr_SC_OFF (i : Nat) : Nat := 0x1201000 + 0x40 + 4 * i
abbrev dramG_STATUS : Nat := 0x1080000 + 0
abbrev dramG_EVENTS : Nat := 0x1080000 + 0x4
abbrev dramG_POP : Nat := 0x1080000 + 0x8
abbrev dramG_MAP : Nat := 0x1080000 + 0xc
abbrev dramG_FRZ_INFO : Nat := 0x1080000 + 0x100
abbrev dramG_FRZ_EXTRA : Nat := 0x1080000 + 0x104
abbrev dramG_FRZ_AT_LO : Nat := 0x1080000 + 0x108
abbrev dramG_FRZ_AT_HI : Nat := 0x1080000 + 0x10c
abbrev frzAddr_LO (i : Nat) : Nat := 0x1080120 + 16 * i + 0
abbrev frzAddr_HI (i : Nat) : Nat := 0x1080120 + 16 * i + 0x4
abbrev frzAddr_LOCAL (i : Nat) : Nat := 0x1080120 + 16 * i + 0x8
abbrev frzAddr_SYN (i : Nat) : Nat := 0x1080120 + 16 * i + 0xc
abbrev dram_CFG (d : Nat) : Nat := 0x1000000 + 0x10000 * d + 0
abbrev dram_STATUS (d : Nat) : Nat := 0x1000000 + 0x10000 * d + 0x4
abbrev dram_EVENTS (d : Nat) : Nat := 0x1000000 + 0x10000 * d + 0x8
abbrev dram_TEMP (d : Nat) : Nat := 0x1000000 + 0x10000 * d + 0xc
abbrev dram_LT (d : Nat) (i : Nat) : Nat := 0x1000000 + 0x10000 * d + 0x20 + 4 * i
abbrev dram_CORR_CNT (d : Nat) : Nat := 0x1000000 + 0x10000 * d + 0x50
abbrev dram_REF_POSTPONED_CNT (d : Nat) : Nat := 0x1000000 + 0x10000 * d + 0x54
abbrev dram_REF_FORCED_CNT (d : Nat) : Nat := 0x1000000 + 0x10000 * d + 0x58
abbrev dram_PANIC_CNT (d : Nat) : Nat := 0x1000000 + 0x10000 * d + 0x5c
abbrev dram_MISS_CNT (d : Nat) : Nat := 0x1000000 + 0x10000 * d + 0x60
abbrev dram_CORR_DEV (d : Nat) : Nat := 0x1000000 + 0x10000 * d + 0x64
abbrev dram_RD_BYTES_LO (d : Nat) : Nat := 0x1000000 + 0x10000 * d + 0x68
abbrev dram_RD_BYTES_HI (d : Nat) : Nat := 0x1000000 + 0x10000 * d + 0x6c
abbrev dram_WR_BYTES_LO (d : Nat) : Nat := 0x1000000 + 0x10000 * d + 0x70
abbrev dram_WR_BYTES_HI (d : Nat) : Nat := 0x1000000 + 0x10000 * d + 0x74
abbrev dram_CORR_LIMIT (d : Nat) : Nat := 0x1000000 + 0x10000 * d + 0x78
abbrev dram_TRAIN (d : Nat) : Nat := 0x1000000 + 0x10000 * d + 0x80
abbrev qsnap_A (d : Nat) (k : Nat) : Nat := 0x1000100 + 0x10000 * d + 8 * k + 0
abbrev qsnap_B (d : Nat) (k : Nat) : Nat := 0x1000100 + 0x10000 * d + 8 * k + 0x4
abbrev fault_STATUS : Nat := 0x1700000 + 0
abbrev fault_EVENTS : Nat := 0x1700000 + 0x4
abbrev fault_CFG : Nat := 0x1700000 + 0x8
abbrev fault_TOTAL : Nat := 0x1700000 + 0xc
abbrev fault_DSAFE_LAST (i : Nat) : Nat := 0x1700000 + 0x40 + 4 * i
abbrev faultQ_STATE (c : Nat) : Nat := 0x1700100 + 0x100 * c + 0
abbrev faultQ_ACK (c : Nat) : Nat := 0x1700100 + 0x100 * c + 0x4
abbrev faultQ_OVF_CNT (c : Nat) : Nat := 0x1700100 + 0x100 * c + 0x8
abbrev faultQ_OCC_CNT (c : Nat) : Nat := 0x1700100 + 0x100 * c + 0xc
abbrev faultQ_REC (c : Nat) (i : Nat) : Nat := 0x1700100 + 0x100 * c + 0x40 + 4 * i

end Reg

end Sys2Proof.Machine
end

