-- ==== Sys2Proof/Machine/Sparse.lean ====
section
/-! DEFINITION. Sparse maps as plain data: a list of (key, value) pairs with strictly rising keys and no entry equal to what
an unlisted key reads as. Memories, registers and per-object records are all held this way. -/
namespace Sys2Proof.Machine

/-- A sparse map from numbers. What an unlisted key reads as is an argument of every operation. -/
abbrev SMap (α : Type) := List (Nat × α)

namespace SMap
variable {α : Type}

/-- The value at a key, `d` where none is listed. -/
def get (d : α) (m : SMap α) (k : Nat) : α :=
  match m.find? (fun p => p.1 == k) with
  | some p => p.2
  | none => d

/-- Insert before the first larger key. -/
def ins (m : SMap α) (k : Nat) (v : α) : SMap α :=
  match m with
  | [] => [(k, v)]
  | p :: r => if k < p.1 then (k, v) :: p :: r else p :: ins r k v

/-- Remove a key. -/
def erase (m : SMap α) (k : Nat) : SMap α := m.filter (fun p => p.1 != k)

/-- Store a value; storing what an unlisted key reads as removes the entry. -/
def set [DecidableEq α] (d : α) (m : SMap α) (k : Nat) (v : α) : SMap α :=
  if v = d then erase m k else ins (erase m k) k v

/-- Change every listed value. -/
def mapVals [DecidableEq α] (d : α) (m : SMap α) (f : Nat → α → α) : SMap α :=
  (m.map (fun p => (p.1, f p.1 p.2))).filter (fun p => decide (p.2 ≠ d))

/-- Keys strictly rise. -/
def sorted : SMap α → Bool
  | [] => true
  | p :: r => (match r with | [] => true | q :: _ => decide (p.1 < q.1)) && sorted r

/-- The canonical form: keys strictly rise and no entry equals what its key reads as unlisted. -/
def wf [DecidableEq α] (d : Nat → α) (m : SMap α) : Bool := m.sorted && m.all (fun p => decide (p.2 ≠ d p.1))

end SMap

end Sys2Proof.Machine
end

