-- ==== Sys2Proof/Machine/State.lean ====
section
/-! DEFINITION. The state of the CZ9600 as plain data: every register, memory, queue, latch and pin the spec gives it, the
queue of waiting commands, and the state after reset.

Register words live in one sparse map from BAR0 offsets (`Dev.regs`), whose unlisted entries read as the reset values of
the register tables (`regReset`). What a register table only shows in part (an engine's pending launches, a channel's
current play) is held as records beside it. -/
namespace Sys2Proof.Machine

/-- Why the machine stops. -/
inductive Fault where
  /-- A DRAM request names an address outside the populated DRAM space, which no port can reach (R383). Raised by DRAM_REQUEST. Safe: the
  machine stops. -/
  | noSuchAddress
deriving DecidableEq, Repr

/-- Why a command has no meaning. -/
inductive Refusal where
  /-- The command has no meaning in this model yet. Safe: the machine stops. -/
  | notModelled (mnemonic : String)
  /-- The command's operands form no request of the kind R386 describes: a length that is not 64 to 512 bytes in units of
  64, a range that crosses a 4 KiB unit, or a write with data of another length. Raised by DRAM_REQUEST. Safe: the machine stops. -/
  | illFormed
deriving DecidableEq, Repr

/-- A firing of an event source on its way through the fabric (R207 to R209): its source, stamp, generation count, the
coarse mark of R35 and the late mark of R40. -/
structure Firing where
  src    : Nat
  stamp  : Nat
  gen    : Nat
  coarse : Bool
  late   : Bool
deriving DecidableEq, Repr

/-- A firing held somewhere, with a tick: the tick it arrived in, or the tick it is due. -/
structure Held where
  fire : Firing
  tick : Nat
deriving DecidableEq, Repr

/-- An action of a task input's consumer that awaits its action time (R223). -/
structure Act where
  time  : Nat
  stamp : Nat
  gen   : Nat
  value : Nat
deriving DecidableEq, Repr

/-- What a launch does (R105, R110 to R114). -/
inductive LKind where
  /-- The segment of each channel of the set, passes, frame override, marker modes and offsets, MKP, pass duration. -/
  | play (segs : List Nat) (passes : Nat) (fov : Option Nat) (ma mb maOfs mbOfs : Nat) (mkp : Bool) (dur : Nat)
  | gap (dur : Nat)
  | frame (fact frame val : Nat)
  | mark (ma mb width : Nat)
  | event (uev : Nat)
  | switch (target : Nat)
deriving DecidableEq, Repr

/-- A launch record (R25 to R27, R125, R146). `tmin` is the switch cut-off of R132, `gen` the generation of the firings
it causes (R209), `li` the launch input it came from; `teff` has meaning once it is accepted. `descs` are the
descriptors the playout units took at acceptance (R62), one for each channel of the set; `short` the channels whose ring lacked the prefill at
the acceptance deadline (R73); `arr` the number of its acceptance among everything that reached the channels (R157); `src` the engine that issued
it, whichever holds it now (R113, R145). -/
structure Launch where
  eng      : Nat
  ctx      : Nat
  lsn      : Nat
  chans    : List Nat
  kind     : LKind
  treq     : Nat
  tmin     : Nat
  gen      : Nat
  coarse   : Bool
  li       : Option Nat
  accepted : Bool
  teff     : Nat
  descs    : List (List Word)
  short    : List Nat := []
  arr      : Nat := 0
  src      : Nat := 0
deriving DecidableEq, Repr

/-- What a channel is playing: a segment or a gap (R108, R110). `seg` is `none` for a gap. `desc` is the descriptor taken
at acceptance; `len` the samples of one pass on this channel; `pass` the pass
now playing; `ringAt` the ring's consumed count at its start, for a streamed segment. `dly` is the programmed delay in force at its
start, in 1/256 tDC (R175), `undr` the device time of its first missing sample (R72), `got` how many bytes its stream had brought by then, `short` whether its prefill was missed (R73), and `bankAt` the first unit of the resident copy
or head that it reads (R65, R68). -/
structure Play where
  ctx    : Nat
  lsn    : Nat
  gen    : Nat
  seg    : Option Nat
  desc   : List Word
  frame  : Option Nat
  start  : Nat
  dur    : Nat
  passes : Nat
  pass   : Nat
  len    : Nat
  ma     : Nat
  mb     : Nat
  maOfs  : Nat
  mbOfs  : Nat
  mkp    : Bool
  ringAt : Nat
  dly    : Nat
  undr   : Option Nat
  got    : Nat := 0
  short  : Bool := false
  bankAt : Option Nat := none
deriving DecidableEq, Repr

/-- A scheduled marker edge (R109, R112): channel, marker (0 A, 1 B), time and level, and the launch it belongs to. -/
structure Edge where
  ch    : Nat
  mark  : Nat
  time  : Nat
  level : Bool
  ctx   : Nat
  lsn   : Nat
  gen   : Nat
deriving DecidableEq, Repr

/-- A frame action that has not reached its frame (R155 to R157). `prio` is 0 for an entry, 1 + k for frame input k, and
100 for the host (R226); `t` is the epoch time and `teff` the effective time; `arr` numbers the actions in the order in which they reached the
channels (R157). -/
structure FrAct where
  prio  : Nat
  fact  : Nat
  frame : Nat
  v     : Nat
  v2    : Nat
  t     : Nat
  teff  : Nat
  isLaunch : Bool
  arr   : Nat := 0
deriving DecidableEq, Repr

/-- A frame record (R152): F, phi0, t0 and R, each as its unsigned bit pattern. -/
structure FrameRec where
  freq  : Nat := 0
  phase : Nat := 0
  epoch : Nat := 0
  rate  : Nat := 0
deriving DecidableEq, Repr

/-- Data a channel's fill engine has still to read, in launch order (R70): the launch, the segment's bytes in DRAM
beyond its head in one pass, the passes, how many bytes from its start the ring holds without a gap, and the count of the channel's ring
bytes at which its data begin. `asked` bytes have been requested, `parts` are the bursts that came behind a gap (place and length), and `addr`
is where the data lie in DRAM. -/
structure Stream where
  ctx    : Nat
  lsn    : Nat
  seg    : Nat
  bytes  : Nat
  passes : Nat
  filled : Nat
  start  : Nat
  asked  : Nat := 0
  parts  : List (Nat × Nat) := []
  addr   : Nat := 0
deriving DecidableEq, Repr

/-- A resident segment or head in a channel's bank (R65, R68): first unit, units, and whether it is a head. -/
structure Resident where
  seg  : Nat
  unit : Nat
  units : Nat
  isHead : Bool
deriving DecidableEq, Repr

/-- The state of a channel beyond its registers. `claim` is the context that claims it (R127); `cur` what it plays and
`prev` the plays that ended last, newest first, while the delay or the filters still hold
their samples; `lastAcc` the context and LSN of the last accepted record (R146); `dlyEnd` the end of the
last segment played with the delay in force (R177). `path` is the code that the datapath, the idle level or the static code
gives the guard, `code` the code the DAC took last (R184), and `trims` the GAIN and OFFSET words in force before a boundary, newest
first, each with the time of the boundary (R202), and `idles` the idle levels before a boundary in the same way (R175); `hold` is the safe hold
(R193), and `d2dHeld` says that too many word errors have set it (R197). `statics` are the codes written to STATIC_CODE that no strobe has applied
yet, newest first, each with the tick of its write (R200). `ringWr`
counts the bytes requested for the ring. `work` holds the working trims in
1/16 unit (R343): 0 to 63 UNIT by physical source, 64 to 68 BIN, 69 SKEW, 70 VCM, 71 OFS, 72 GAIN_CUR, 73 GAIN_VOLT; `meas`
the measured UNIT trims (R345); `bad` the source kept as permanent spare (R347);
`passLeft` the swaps left in a run's rotation pass (R349); `measured` says that the spare's measurement is complete (R346).
`past` holds the ring bytes that were overwritten while the filters and the delay could still need them, by their place in the channel's ring
count (R66). `settle` is when the settle of R192 ends, and `settleOnly` that the hold has no other cause (R196); `powered` says that its output stage has been
powered up since the reset (R449). Samples before `drivenTo` have entered the guard, and `hitTick` is the last tick whose word the guard
changed (R184, R185); `flagTick` the last tick whose word raised flags of OUT_EVENTS (R6). `pwrBlk` and `pwrSum` are the present block of the
power measurement and its sum of code², and `trips` the ends of the blocks that exceeded the limit (R186). `d2d` are the times of the word errors of
the last millisecond, and `badWord` the tick of the last (R197). `frHist` holds the frame records that actions replaced, newest first, with
the frame and the effective time (R156). `map` is the physical source of each thermometer position and `swapAt` the time of the last swap (R190). -/
structure Chan where
  claim    : Option Nat := none
  cur      : Option Play := none
  prev     : List Play := []
  lastAcc  : Option (Nat × Nat) := none
  dlyEnd   : Nat := 0
  path     : Int := 0
  code     : Int := 0
  trims    : List (Nat × Word × Word) := []
  idles    : List (Nat × Int) := []
  hold     : Bool := false
  d2dHeld  : Bool := false
  mkA      : Bool := false
  mkB      : Bool := false
  frActs   : List FrAct := []
  streams  : List Stream := []
  ringWr   : Nat := 0
  resident : List Resident := []
  statics  : List (Nat × Word) := []
  work     : SMap Int := []
  meas     : SMap (Option Int) := []
  bad      : Option Nat := none
  passLeft : Nat := 0
  measured : Bool := false
  settle   : Option Nat := none
  settleOnly : Bool := false
  powered  : Bool := false
  drivenTo : Nat := 0
  hitTick  : Option Nat := none
  flagTick : Option Nat := none
  past     : SMap (Option Byte) := []
  pwrBlk   : Nat := 0
  pwrSum   : Nat := 0
  trips    : List Nat := []
  d2d      : List Nat := []
  badWord  : Option Nat := none
  frHist   : List (Nat × Nat × FrameRec) := []
  map      : List Nat := (List.range 63).map (· + 1)
  swapAt   : Option Nat := none
deriving DecidableEq, Repr

/-- A marker or pattern line at the ball (R112, R247, R248): its level, and the time of its last edge in tDC with the
fine delay in 5 ps steps. -/
structure MkLine where
  level : Bool := false
  time  : Nat := 0
  fine  : Nat := 0
deriving DecidableEq, Repr

/-- A staging slot's copy (R130): the context, the VER its record held when staging began, whether the copying is
complete, and what it copied: the words 0 to 127 of the record and the words of the 16 entries from its PC on. -/
structure Staged where
  ctx  : Nat
  ver  : Nat
  done : Bool
  recd : List Word := []
  prog : List Word := []
deriving DecidableEq, Repr

/-- A latched firing at an engine input (R94). -/
structure Latch where
  stamp  : Nat
  gen    : Nat
  coarse : Bool
deriving DecidableEq, Repr

/-- The state of an engine beyond its registers and its context's record. `slotTick` is the next tick at which it may
issue (R90); `run` the entries issued since its context was bound; `lines` the program-store lines in its prefetch queue
(R120, R136); `tsw` the cut-off of the switch that brought its context in (R132); `released` says that the waiting entry at
PC has been released (R95); `swWait` is a SWITCH entry's target and time while it awaits its switch, and `swLate` that the
switch had to wait for its copy (R131); `s0` and `s1` the staging slots (R130); `moving` the retired engine its context comes
from while that is being moved in (R145); `mcNew` that new microcode waits in its inactive slot (R147); `asleep` that its
bank is in retention (R374); `owner` the partition that holds it (R135). `stuck` are the words of the running context's record whose
mirror has stopped, each with the last good copy that the context store keeps (R142); `left` what the bank's live record (0) and staging slots
(1 and 2) hold of a context that has gone or a copy that is used up (R121), and `used` says that a context has been bound since the bank was
cleared; `saved` is its exception save area. -/
structure Eng where
  slotTick : Nat := 0
  run      : Nat := 0
  lines    : List Nat := []
  tsw      : Nat := 0
  released : Bool := false
  swWait   : Option (Nat × Nat) := none
  swLate   : Bool := false
  s0       : Option Staged := none
  s1       : Option Staged := none
  moving   : Option Nat := none
  mcNew    : Bool := false
  asleep   : Bool := false
  owner    : Option Nat := none
  stuck    : List (Nat × Word) := []
  left     : SMap (List Word) := []
  used     : Bool := false
  saved    : List Word := []
deriving DecidableEq, Repr

/-- An event channel beyond its registers: firings that have reached it, and its hold line (R211, R217). -/
structure EcSt where
  inbox : List Held := []
  hold  : List Held := []
deriving DecidableEq, Repr

/-- A task input beyond its registers: firings that have reached it, and actions that await their time (R223). -/
structure TinSt where
  inbox : List Held := []
  acts  : List Act := []
deriving DecidableEq, Repr

/-- An event channel group: the times and values of its last four changes, newest first (R213), and host changes that
await their time (R219). -/
structure GrpSt where
  history : List (Nat × Bool) := []
  cmds    : List (Nat × Bool) := []
deriving DecidableEq, Repr

/-- A trigger output: the level is in its STATUS; its last asserting edge, and the deassertion a PULSE awaits (R227). -/
structure ToSt where
  lastOn   : Option Nat := none
  pulseEnd : Option Nat := none
deriving DecidableEq, Repr

/-- A trigger input: the last accepted edge, crossings left to hold off, the last accepted edge of each polarity, and
the earliest stamp that a re-arm lets through, the end of the settling of R243 and the comparator's
last changes (R245, R246). -/
structure TiSt where
  tacc   : Option Nat := none
  left   : Nat := 0
  rise   : Option Nat := none
  fall   : Option Nat := none
  armAt  : Nat := 0
  settle : Nat := 0
  hist   : List (Nat × Bool) := []
deriving DecidableEq, Repr

/-- A borrow of a digitiser by calibration (R255, R349, R350): the SEL in force, and for a check its channel and the code at its DAC when the borrow
began; the sum and the number of the output samples averaged so far. -/
structure Borrow where
  sel   : Nat
  check : Option (Nat × Int) := none
  sum   : Int := 0
  got   : Nat := 0
deriving DecidableEq, Repr

/-- A capture beyond its registers (R256 to R261). `arm` and `trig` are action times awaited or taken; `sel`, `dec`, `fmt`,
`target`, `pre`, `post`, `phUser`, `base`, `size`, `en` are the applied configuration; `valid` counts valid samples since the arm
or reset; `wr` is the ring index of the next sample; `tp` the index of the trigger point. The decimation chain holds the phase delay in force
`phi`, the number `rawN` of the next raw sample it takes, the newest raw samples, the integrators and differences of its CIC and the newest
outputs of the CIC, each newest first (R251, R252); `fifo` holds the bytes on their way to a DRAM target, the first of which belongs at byte
`fifoAt` of the ring (R260). `bor` is the borrow by calibration that is on (R255). -/
structure CapSt where
  en      : Bool := false
  sel     : Nat := 0
  dec     : Nat := 1
  fmt     : Nat := 0
  target  : Nat := 0
  ovr     : Bool := false
  pre     : Nat := 0
  post    : Nat := 1
  phUser  : Nat := 0
  base    : Nat := 0
  size    : Nat := 0
  logA    : Option Nat := none
  logB    : Option Nat := none
  armAt   : Nat := 0
  trigT   : Option Nat := none
  resetAt : Nat := 0
  discard : Nat := 0
  valid   : Nat := 0
  wr      : Nat := 0
  lastLbl : Nat := 0
  nextLbl : Nat := 0
  tp      : Option Nat := none
  done    : Nat := 0
  mdOfs   : Int := 0
  mdGain  : Int := 0
  phi     : Nat := 0
  rawN    : Nat := 0
  raws    : List Int := []
  integ   : List Int := [0, 0, 0, 0]
  diffs   : List Int := [0, 0, 0, 0]
  cicOut  : List Int := []
  fifo    : List Byte := []
  fifoAt  : Nat := 0
  bor     : Option Borrow := none
deriving DecidableEq, Repr

/-- A frame in a link port's transmit queue: its SEQ when it is a resend, and the time it entered, when its STAMP is to
be advanced as it leaves (R48, R52). -/
structure TxItem where
  frame : LinkFrame
  seq   : Option Nat
  since : Option Nat
deriving DecidableEq, Repr

/-- An Immor link port (R48): next SEQ to send, last SEQ received, frames waiting, and the last frames sent with their
SEQs, newest first. Log entry 68, DESIGN CHOICE, unsafe. -/
structure Port where
  txSeq  : Nat := 0
  rxSeq  : Nat := 0xFFFF
  txq    : List TxItem := []
  kept   : List (Nat × LinkFrame) := []
  long   : Bool := false
deriving DecidableEq, Repr

/-- Device time (R22, R32 to R40). `now` is the count at the present tick boundary; `acc` the accumulator in 2^-32 tDC, of
which `ph` has accrued since the last REF-domain edge; `refN` counts REF-domain edges. `lastSync` is the edge that sampled the last SYNC
edge, `mode` the mode an armed time-set was armed with and `armN` the edge count at the arm, `qualAt` the edge count at its qualifying edge, `syncAt` the edge that sampled
its SYNC edge, `anchor` C(E) of a time-set whose TB is not anchored yet (R33), `linkSet` the master's time at receipt in 1/16 tDC, the accumulator at receipt and the epoch of the SET frame it
acts on (R38, R53), `setFrame` that the master's SET frame is due (R51), `alarms` the next firing time of each alarm. -/
structure TimeSt where
  now      : Nat := 0
  acc      : Nat := 0
  ph       : Nat := 0
  refN     : Nat := 0
  refOk    : Bool := false
  mode     : Nat := 0
  armN     : Nat := 0
  lastSync : Option Nat := none
  qualAt   : Option Nat := none
  syncAt   : Option Nat := none
  anchor   : Option Nat := none
  setFrame : Bool := false
  linkSet  : Option (Nat × Nat × Nat) := none
  alarms   : SMap Nat := []
deriving DecidableEq, Repr

/-- A command in flight (R277 to R282): the submission entry, its place in fetch order, bytes moved by the steps already
run, and, once it has ended, its status and RESULT. `dup` marks a duplicate that waits for its original (R280). -/
structure InFlight where
  cmd    : HostCmd
  moved  : Nat
  ended  : Option (Nat × Nat)
  dup    : Bool
deriving DecidableEq, Repr

/-- An entry of an SQ's serial record (R280): the serial, and the status and RESULT once known. -/
structure SerRec where
  serial : Nat
  ended  : Option (Nat × Nat)
deriving DecidableEq, Repr

/-- A completion that awaits its write (R276, R278). -/
structure Cqe where
  fn     : Nat
  sq     : Nat
  cq     : Nat
  tag    : Nat
  serial : Nat
  status : Nat
  result : Nat
  dup    : Bool
  irq    : Bool
deriving DecidableEq, Repr

/-- Where a command's host buffer comes from while it is carried out (R282): read from the host, held already by the executor, or, to test what
precedes the first read, not read at all. -/
inductive Feed where
  | host
  | probe
  | held (bytes : List Byte)
deriving DecidableEq, Repr

/-- The host interface beyond its registers: commands in flight in fetch order, serial records, completions to write in
the order the commands ended, moderation counts, and the configuration-space state of the functions (R268, R286). `rr` holds the
round-robin places (R277, R282): key 0 the function fetched from and 1 + n its SQ, 32 + e the function executor e served and
64 + 16e + n its SQ; `turn` the entries taken in the present turn. `dmaw` holds the DMA windows in force (R293), each as first
page, pages and CTL; `pme` says that a PME message has been sent (R372). `barOut` and `bar2Out` are the data that the last BAR0 and BAR2 reads returned,
`mgmtOut` the word the last management READ returned, `mgmtNack` that the last management transfer was NACKed and `mgmtDyn` the dynamic address of
the management port (R451). `maxWidth` is the
width of the port as sampled from its strap at the last conventional reset, as HOST.STATUS codes widths (R267); `rdErr` says that the host
answers the device's next read of its memory with an error (R283), and `peerOut` are the posted writes sent through PEER windows, oldest
first, each with its address and data (R273). `taken` holds what the host DMA engine has read so far of the buffer of a command that it takes in
more than one step (R282), by SQ × 2^16 + TAG, and `feed` is where the buffer of the command at hand comes from. -/
structure HostSt where
  linkUp   : Bool := false
  vfEnable : Bool := false
  numVFs   : Nat := 0
  inflight : List InFlight := []
  serials  : SMap (List SerRec) := []
  newest   : SMap (Option Nat) := []
  cqes     : List Cqe := []
  rr       : SMap Nat := []
  turn     : Nat := 0
  unsig    : SMap Nat := []
  evtHold  : SMap Bool := []
  evtPend  : SMap Bool := []
  irqs     : List (Nat × Nat) := []
  dmaw     : SMap (Nat × Nat × Nat) := []
  pme      : Bool := false
  bar2Out  : List Byte := []
  mgmtOut  : Nat := 0
  mgmtNack : Bool := false
  mgmtDyn  : Option (BitVec 7) := none
  barOut   : Word := 0
  maxWidth : Nat := 4
  rdErr    : Bool := false
  peerOut  : List (Nat × List Byte) := []
  taken    : SMap (List Byte) := []
  feed     : Feed := .host
deriving DecidableEq, Repr

/-- What admission holds of a context (R61, R75, R76, R88): the engine rights and channels are in its record; these are
the segment numbers its program can name, the program-store addresses of its program, the frames it names, and whether a
SWITCH stands in it. -/
structure AdmRec where
  segs    : List Nat
  addrs   : List Nat
  frames  : List Nat
  hasSw   : Bool
deriving DecidableEq, Repr

/-- A fault record (R429), its words 0 to 15 kept field by field. -/
structure FaultRec where
  code   : Nat
  also   : Nat := 0
  mixed  : Bool := false
  coarse : Bool := false
  esc    : Bool := false
  fw     : Bool := false
  id     : Nat := 0
  kind   : Nat := 0
  obj    : Nat := 0
  time   : Nat := 0
  last   : Nat := 0
  detail : List Nat := []
  part   : Nat := 0
  pf     : Bool := true
  aux    : Nat := 0
deriving DecidableEq, Repr

/-- The memory map in force (R382, R383): the interleaved region and the reserve in GiB, the byte address of the
descriptor table, and the pinned windows as base, size in bytes and DMC set. -/
structure MemMap where
  il     : Nat := 0
  res    : Nat := 0
  descAt : Nat := 0
  pins   : List (Nat × Nat × Nat) := []
deriving DecidableEq, Repr

/-- A tile's calibration (R338, R341, R342, R345, R348, R350): the bytes of the set in force, whether a set has been applied since
reset, the digitiser trims that a run measured, the borrows its run still has to make, the last ten readings of its temperature sensor, newest
first, and the place in the tile of the channel whose check comes next. -/
structure CalTile where
  set     : List Byte := []
  loaded  : Bool := false
  mdMeas  : Option (Int × Int) := none
  borrows : Nat := 0
  readings : List Int := []
  chkNext : Nat := 0
deriving DecidableEq, Repr

/-- The PLLs beyond their registers (R359, R360, R368): consecutive good windows and failed attempts of the SPLL and the XPLL,
whether the XPLL has failed, whether the device wakes and the XPLL has not locked yet (R372), the reference in kHz that the running set was taken for, whether the pending APPLY is a reference
swap, and whether the SPLL has locked since the reset (R348). -/
structure ClkSt where
  sGood  : Nat := 0
  xGood  : Nat := 0
  sTries : Nat := 0
  xTries : Nat := 0
  xFail  : Bool := false
  waking : Bool := false
  fref   : Nat := 0
  swap   : Bool := false
  locked : Bool := false
deriving DecidableEq, Repr

/-- A DRAM request (R386, R389): its port, DRAM-space and local address, length, hint and data, with its arrival and its
deadline in ns. A fill engine's request names its channel, launch and place in the stream (R70). -/
structure Req where
  port     : Nat
  addr     : Nat
  loc      : Nat
  len      : Nat
  write    : Bool
  openHint : Bool
  data     : List Byte
  arrive   : Nat
  deadline : Option Nat
  lt       : Nat
  fill     : Option (Nat × Nat × Nat × Nat) := none
deriving DecidableEq, Repr

/-- An installed DIMM (R379, R380): its capacity in GiB, ranks, density as POP codes it and rated speed in MT/s, whether it is a registered
DIMM, whether its devices are x4, and whether they are 3DS stacks. -/
structure Dimm where
  gib     : Nat
  ranks   : Nat
  density : Nat
  rate    : Nat
  rdimm   : Bool
  x4      : Bool
  stacked : Bool
deriving DecidableEq, Repr

/-- A DRAM controller beyond its registers (R387, R388, R390, R392, R395, R397): the waiting queues of its ports and its
controller queue in order, the tile port served last, for each DIMM's sensor the reads in a row that it did not answer (R381), the times of the corrections
that CORR_STORM counts, the latest time it knows, in ns, the tick CORR fired last in, and the open row of each bank. Log entry 68, DESIGN CHOICE, unsafe. -/
structure Dmc where
  waiting : List Req := []
  ctl     : List Req := []
  rr      : Nat := 5
  silent  : List Nat := []
  corrs   : List Nat := []
  clock   : Nat := 0
  corrAt  : Option Nat := none
  rows    : SMap (Option Nat) := []
deriving DecidableEq, Repr

/-- Start-up and trust (R297, R314, R323): whether the mask ROM has run since the reset, whether LIMITS has been applied,
the measurement registers, the ABI numbers of the running firmware, the slots verified by IMAGE_WRITE, the ranges written
since a slot's last erase, whether START waits for its time-set and whether that has been refused, and whether an image record has been refused. -/
structure SecSt where
  booted   : Bool := false
  limits   : Bool := false
  manifest : List Byte := []
  mpDig    : List Byte := []
  ucDig    : List Byte := []
  limDig   : List Byte := []
  mpAbi    : Nat := 0
  ucAbi    : Nat := 0
  verified : SMap Bool := []
  wrote    : SMap (List (Nat × Nat)) := []
  autoWait : Bool := false
  setLost  : Bool := false
  imgBad   : Bool := false
deriving DecidableEq, Repr

/-- What survives a device reset in the Basalt island beyond registers (R296, R312, R330, R450): the slot that a restart forces, the R314 code
of the section for which the other slot was given up, and the management port's address bits as sampled when POR_N rose. -/
structure Aon where
  nextSlot : Option Bool := none
  failCode : Option Nat := none
  mgmtAddr : BitVec 2 := 0
deriving DecidableEq, Repr

/-- Everything the commands change but the guard, the fuses, the flash and the Basalt island, each with its value after a
power-on reset. `regs` and `inforce` are keyed by BAR0 offset, plus 2^28 times the function for a register that each
function has its own copy of; `inforce` holds the word in force of a register whose buffered bits hold a value that has
not been applied (R415). `parity` holds the byte lanes that mismatch (R422). `latch` and `stage` are the pair latches and
staging words of each requester (R419), keyed by the high and the low word's offset plus 2^28 times the requester; `accKept` says of a function that ACC_LAST
holds an access recorded since its ACC_EVENTS last had no flag set (R426).
`freeCtr` numbers the uses of free values (log entry 1, DESIGN CHOICE, safe for the values, else unsafe). `ptab` is the partition table of the limits block, sixteen words for
each partition (R310), `limH` its host reservation and `wdtMs` its watchdog period (R308). `loadnAt` is the stamp of the last LOAD_N edge (R201), `moved` the
chunks of the DMC that is out whose redirect stands (R404), `frzN` the failing codewords the freeze record holds (R398), `badCw` the
codewords (by DRAM-space address / 128) in which devices err and that nothing has rewritten since, with device map and syndrome (R396, R400), `flash` the configuration flash, whose erased bytes read 0xFF,
`flashSize` its size as SFDP gives it, and `dimms` the DIMMs of each DMC (R379; log entry 7, DESIGN CHOICE, unsafe). `hostMem`, the host's memory, reads zero where nothing has been written (log entry 11,
DESIGN CHOICE, unsafe). `descC` holds the descriptors locked in the tiles' descriptor caches, keyed by tile × 2^16 + segment (R61), and
`arrCtr` numbers what reaches the channels (R157). `icache` is the microcode in the engines' instruction caches, keyed by
engine × 2^15 + half × 2^14 + byte (R120, R147). `widthPin` and `mgmtPin` are what the board straps to PCIE_WIDTH and MGMT_ADDR (R267, R450; log entry 38, DESIGN CHOICE, unsafe). `safeEdge` says that OUT_SAFE_N was low
as an output stage powered up, and awaits the first TB tick (R449). -/
structure Dev where
  regs     : SMap Word := []
  inforce  : SMap (Option Word) := []
  latch    : SMap (Option Word) := []
  stage    : SMap (Option Word) := []
  parity   : SMap Nat := []
  accKept  : SMap Bool := []
  freeCtr  : Nat := 0
  time     : TimeSt := {}
  ports    : SMap Port := []
  chan     : SMap Chan := []
  frames   : SMap FrameRec := []
  launches : List Launch := []
  edges    : List Edge := []
  mkLine   : SMap MkLine := []
  eng      : SMap Eng := []
  ei       : SMap (Option Latch) := []
  ec       : SMap EcSt := []
  tin      : SMap TinSt := []
  grp      : SMap GrpSt := []
  tout     : SMap ToSt := []
  ti       : SMap TiSt := []
  cap      : SMap CapSt := []
  prog     : SMap Word := []
  ctx      : SMap Word := []
  env      : SMap Byte := []
  bank     : SMap Byte := []
  sc       : SMap Byte := []
  capBuf   : SMap Byte := []
  mailbox  : SMap Word := []
  dram     : SMap Byte := []
  wiped    : SMap Bool := []
  badCw    : SMap (Option (Nat × Nat)) := []
  mm       : MemMap := {}
  ptab     : SMap Word := []
  limH     : Nat := 0
  wdtMs    : Nat := 100
  normalRefresh : Bool := false
  hostMem  : SMap Byte := []
  adm      : SMap (Option AdmRec) := []
  host     : HostSt := {}
  faults   : SMap (List FaultRec) := []
  faultId  : Nat := 0
  safePin  : Bool := false
  safeEdge : Bool := false
  therm    : Bool := false
  extest   : Bool := false
  loadnAt  : Option Nat := none
  clk      : ClkSt := {}
  calT     : SMap CalTile := []
  dmc      : SMap Dmc := []
  moved    : SMap Bool := []
  frzN     : Nat := 0
  sec      : SecSt := {}
  aon      : Aon := {}
  standby  : Bool := false
  d3hot    : Bool := false
  flash    : SMap Byte := []
  flashSize : Nat := 0x4000000
  dimms    : SMap (List Dimm) := []
  descC    : SMap (Option (List Word)) := []
  arrCtr   : Nat := 0
  icache   : SMap Byte := []
  widthPin : BitVec 2 := 0
  mgmtPin  : BitVec 2 := 0
deriving DecidableEq, Repr

/-- The guard of a channel (R184 to R188, R203, R204): its seals, its working limits and its safe code. A channel with no
limits-block entry has the reset values below (log entry 6, DESIGN CHOICE, unsafe). -/
structure GuardCh where
  sealLo  : Int := 0
  sealHi  : Int := 0
  sealS   : Nat := 0xFFFF
  sealPwr : Nat := 0
  win     : Nat := 4
  safeEn  : Bool := false
  fsMax   : Nat := 0
  vMax    : Nat := 0
  curOk   : Bool := false
  voltOk  : Bool := false
  lo      : Int := 0
  hi      : Int := 0
  slew    : Nat := 0xFFFF
  pwr     : Nat := 0
  safe    : Int := 0
deriving DecidableEq, Repr

/-- The rate guard of a trigger output (R227). Log entry 6, DESIGN CHOICE, unsafe. -/
structure GuardTo where
  sealGap : Nat := 0xFFFFFFFF
  gap     : Nat := 0xFFFFFFFF
deriving DecidableEq, Repr

/-- The Flint guard: what only the limits block, a reset and a checked write change (R9, R184, R227). -/
structure Guard where
  ch : SMap GuardCh := []
  tout : SMap GuardTo := []
deriving DecidableEq, Repr

/-- The fuses (R316, R317, R321): life-cycle code, number of burnt SVN fuses, the state of the six key slots (0 empty, 1
valid, 2 revoked) and their digests, the serial, the unique secret and Brongaold's certificate. -/
structure Fuses where
  lc     : Nat := 0
  svn    : Nat := 0
  keys   : SMap Nat := []
  digest : SMap (List Byte) := []
  serial : Nat := 0
  secret : List Byte := []
  cert   : List Byte := []
deriving DecidableEq, Repr

/-- The state of the CZ9600. `pending` is the queue of the commands that wait, first in, first out (log entry 63, DESIGN CHOICE, safe). -/
structure State where
  dev     : Dev := {}
  guard   : Guard := {}
  fuses   : Fuses := {}
  pending : List Instr := []
deriving DecidableEq, Repr

/-- The machine right after a power-on reset: every register at the reset value of its table (`regReset`), every memory
with nothing listed, no command waiting. Log entry 68, DESIGN CHOICE, unsafe. -/
def State.reset : State := {}

end Sys2Proof.Machine
end

