-- ==== Sys2Proof/Machine/Regs.lean ====
section
/-! DEFINITION. Bytes and numbers, and the registers: reading and writing a word, a field, a pair, and the word in force
(R415, R419). -/
namespace Sys2Proof.Machine

/-! ## Bytes -/

/-- The number a little-endian byte string spells. -/
def leNat : List Byte → Nat
  | [] => 0
  | b :: r => b.toNat + 256 * leNat r

/-- The `k` low bytes of a number, least significant first. -/
def leBytes : Nat → Nat → List Byte
  | _, 0 => []
  | n, k + 1 => BitVec.ofNat 8 n :: leBytes (n / 256) k

/-- The words a byte string spells, four bytes each, an incomplete last word filled with zeros. -/
def leWords (bs : List Byte) : List Word :=
  (List.range ((bs.length + 3) / 4)).map (fun i => BitVec.ofNat 32 (leNat ((bs.drop (4 * i)).take 4)))

/-- The bytes of a list of words. -/
def wordBytes (ws : List Word) : List Byte := ws.flatMap (fun w => leBytes w.toNat 4)

/-- `k` bytes of a memory from address `a`. -/
def SMap.bytes (dflt : Byte) (m : SMap Byte) (a : Nat) (k : Nat) : List Byte :=
  (List.range k).map (fun i => SMap.get dflt m (a + i))

/-- Store bytes from address `a` on. -/
def SMap.store (dflt : Byte) (m : SMap Byte) (a : Nat) : List Byte → SMap Byte
  | [] => m
  | b :: r => SMap.store dflt (SMap.set dflt m a b) (a + 1) r

/-- Apply a change to the record at a key. -/
def SMap.upd {α : Type} [DecidableEq α] (dflt : α) (m : SMap α) (k : Nat) (f : α → α) : SMap α :=
  SMap.set dflt m k (f (SMap.get dflt m k))

/-- The value of a number read as a two's complement number of `w` bits. -/
def sext (w n : Nat) : Int := if n % 2^w < 2^(w - 1) then ((n % 2^w : Nat) : Int) else ((n % 2^w : Nat) : Int) - (2^w : Nat)

/-- The two's complement pattern of `w` bits of an integer. -/
def toBits (w : Nat) (i : Int) : Nat := (i % ((2^w : Nat) : Int)).toNat

/-- Bits [lo + w - 1 : lo] of a number. -/
def bitsOf (n lo w : Nat) : Nat := n / 2^lo % 2^w

/-- The remainder `c` after `n` more bits. -/
def crcBits : Nat → Nat → Nat
  | 0, c => c
  | n + 1, c => Crypto.force (if c % 2 = 1 then c / 2 ^^^ 0x82F63B78 else c / 2) (crcBits n)

/-- The remainder `c` after a byte string. -/
def crcBytes : List Byte → Nat → Nat
  | [], c => c
  | b :: r, c => Crypto.force (crcBits 8 (c ^^^ b.toNat)) (crcBytes r)

/-- CRC-32C of a byte string (R60, R43): reflected polynomial 0x82F63B78, initial value and final complement all ones
(log entry 5, PRESUMED, unsafe). -/
def crc32c (bs : List Byte) : Word := ~~~ BitVec.ofNat 32 (crcBytes bs 0xFFFFFFFF)

/-- ⌈a / b⌉. -/
def ceilDiv (a b : Nat) : Nat := (a + b - 1) / b

namespace Dev

/-! ## Registers and fields -/

/-- The word last written to a register, or put there by hardware. -/
def rd (d : Dev) (a : Nat) : Word := SMap.get (regReset a) d.regs a

/-- Put a word into a register. -/
def wr (d : Dev) (a : Nat) (v : Word) : Dev := { d with regs := SMap.set (regReset a) d.regs a v }

/-- A register's word as a number. -/
def rdN (d : Dev) (a : Nat) : Nat := (d.rd a).toNat

/-- Put a number, modulo 2^32, into a register. -/
def wrN (d : Dev) (a n : Nat) : Dev := d.wr a (BitVec.ofNat 32 n)

/-- Bits [lo + w - 1 : lo] of a register. -/
def fld (d : Dev) (a lo w : Nat) : Nat := bitsOf (d.rdN a) lo w

/-- Put a number into bits [lo + w - 1 : lo] of a register. -/
def setFld (d : Dev) (a lo w v : Nat) : Dev :=
  let n := d.rdN a
  d.wrN a (n - bitsOf n lo w * 2^lo + v % 2^w * 2^lo)

/-- Bit `i` of a register. -/
def bit (d : Dev) (a i : Nat) : Bool := (d.rd a).getLsbD i

/-- Set or clear bit `i` of a register. -/
def setBit (d : Dev) (a i : Nat) (b : Bool) : Dev := d.setFld a i 1 (if b then 1 else 0)

/-- The value of a 64-bit pair whose low word is at `a` (R419). -/
def rd64 (d : Dev) (a : Nat) : Nat := d.rdN a + 2^32 * d.rdN (a + 4)

/-- Put a value into a 64-bit pair. -/
def wr64 (d : Dev) (a v : Nat) : Dev := (d.wrN a v).wrN (a + 4) (v / 2^32)

/-- The word in force in a register: the held-back word while a buffered value awaits its boundary (R415). -/
def eff (d : Dev) (a : Nat) : Word := (SMap.get none d.inforce a).getD (d.rd a)

/-- Bits of the word in force. -/
def effFld (d : Dev) (a lo w : Nat) : Nat := bitsOf (d.eff a).toNat lo w

/-- The value in force of a pair. -/
def eff64 (d : Dev) (a : Nat) : Nat := (d.eff a).toNat + 2^32 * (d.eff (a + 4)).toNat

/-- Apply what is held for a register: its last written value is in force from now on (R415). -/
def settle (d : Dev) (a : Nat) : Dev := { d with inforce := SMap.set none d.inforce a none }

/-- Whether a register holds a value that has not been applied. -/
def held (d : Dev) (a : Nat) : Bool := (SMap.get none d.inforce a).isSome

/-- A parity mismatch stands at some register of the object whose registers start at `base` and span `span` bytes (R422,
R423). -/
def corrupt (d : Dev) (base span : Nat) : Bool := d.parity.any (fun p => decide (base ≤ p.1 ∧ p.1 < base + span ∧ p.2 ≠ 0))

/-- A register of PWR as the device takes it: at its reset value while a mismatch stands in PWR (R423). Log entry 67, DEDUCED, unsafe. -/
def pwrNow (d : Dev) (a : Nat) : Nat :=
  if d.corrupt Reg.pwr_STATUS 0x100 then (if a = Reg.pwr_RET then 3 else if a = Reg.pwr_SR_IDLE then 100 else if a = Reg.pwr_TJ_ALARM then 1680 else 0)
  else d.rdN a

/-- A cause of tier 2 goes away; the hold stays until it is released (R196). -/
def clearCause (d : Dev) (n mask : Nat) : Dev :=
  let c := d.fld (Reg.chn_SAFE_CTL n) 4 8
  d.setFld (Reg.chn_SAFE_CTL n) 4 8 (c - (c &&& mask))

/-- An accepted write of a register ends its mismatch; a channel with no other mismatch loses the cause parity (R424). -/
def endParity (d : Dev) (a : Nat) : Dev :=
  let hit := SMap.get 0 d.parity a
  let d := { d with parity := SMap.set 0 d.parity a 0 }
  match locate a with
  | some (.chn, n, _) => if hit = 0 ∨ d.corrupt (chnBase n) 0x4000 then d else d.clearCause n 2
  | _ => d

/-- A free value: nothing is known of it (log entry 1, DESIGN CHOICE, safe for the values, else unsafe). The counter advances, so that each use is its own value. -/
def free (d : Dev) : Nat × Dev := ((Config.freeWord d.freeCtr).toNat, { d with freeCtr := d.freeCtr + 1 })

end Dev
end Sys2Proof.Machine
end

