-- ==== Sys2Proof/Machine/Flags.lean ====
section
/-! DEFINITION. Flags and counters: how hardware sets flags, how a clearing write clears them, and how counters saturate (R5, R6,
R416). -/
namespace Sys2Proof.Machine
namespace Dev

/-- Hardware sets flags of an RSQ register in one cycle: the flags join those that stand and SEQ rises by one, modulo
256 (R6). Log entry 16, DESIGN CHOICE, unsafe. -/
def raise (d : Dev) (a mask : Nat) : Dev :=
  let n := d.rdN a
  d.wrN a ((n / 2^24 + 1) % 256 * 2^24 + ((n % 2^24) ||| mask))

/-- A clearing write (R5, R6): with the current SEQ the flags written as 1 clear, and with any other nothing changes. -/
def clearFlags (d : Dev) (a : Nat) (v : Word) : Dev :=
  let n := d.rdN a
  if bitsOf v.toNat 24 8 = n / 2^24 then d.wr a ((d.rd a) &&& ~~~ (v &&& 0x00FFFFFF#32)) else d

/-- Count into a saturating 32-bit counter (R416). -/
def addSat (d : Dev) (a n : Nat) : Dev := d.wrN a (min (2^32 - 1) (d.rdN a + n))

/-- Count one. -/
def bump (d : Dev) (a : Nat) : Dev := d.addSat a 1

/-- Count into a saturating 64-bit counter pair. -/
def addSat64 (d : Dev) (a n : Nat) : Dev := d.wr64 a (min (2^64 - 1) (d.rd64 a + n))

end Dev
end Sys2Proof.Machine
end

