-- ==== Sys2Proof/Machine/Ops.lean ====
section
/-! DEFINITION. The shared operations: the records of each unit, device time as a stamp, firing a source of the fabric, recording a
late event, recording a refused access, and who owns what. Every meaning goes through these. -/
namespace Sys2Proof.Machine

/-- Put `x` before the first element that it does not come after. -/
def insertBy {α : Type} (le : α → α → Bool) (x : α) : List α → List α
  | [] => [x]
  | y :: r => if le x y then x :: y :: r else y :: insertBy le x r
/-- A list in an order; elements that tie keep their places. -/
def sortBy {α : Type} (le : α → α → Bool) (l : List α) : List α := l.foldr (insertBy le) []

/-- Channel `k` of tile `t`: T0 has CH00 to CH15, T1 CH16 to CH31, and so on (00_scope.md). -/
def chanAt (t : Fin 6) (k : Fin 16) : Fin 96 := ⟨16 * t.val + k.val, by omega⟩
/-- The tile of a channel. -/
def chTile (ch : Fin 96) : Fin 6 := ⟨ch.val / 16, by omega⟩
/-- A channel's place in its tile. -/
def chLane (ch : Fin 96) : Fin 16 := ⟨ch.val % 16, by omega⟩

/-- A divider set: DREF as its divisor, N × 2^32 + F, and P (R356). -/
structure DivSet where
  dref : Nat
  m    : Nat
  p    : Nat
deriving DecidableEq, Repr

/-- The set in a pair of registers laid out as SPLL_SH and SPLL_SH_FRAC (R377). -/
def DivSet.read (sh frac : Nat) : DivSet := ⟨2 ^ bitsOf sh 20 2, bitsOf sh 0 11 * 2^32 + frac, bitsOf sh 16 3 + 2⟩
/-- fV in units of 2^-32 kHz / DREF, for a reference of `f` kHz (R356). -/
def DivSet.vco (s : DivSet) (f : Nat) : Nat := f * s.m
/-- What divides `vco` to give fDC in kHz. -/
def DivSet.scale (s : DivSet) : Nat := s.dref * s.p * 2^32
/-- fDC in whole kHz, as FDC_KHZ shows it: the fraction of a kHz is dropped. Log entry 71, DESIGN CHOICE, unsafe. -/
def DivSet.fdc (s : DivSet) (f : Nat) : Nat := s.vco f / s.scale
/-- ρ in 2^-32 tDC (R32). -/
def DivSet.rho (s : DivSet) : Nat := s.m / s.p

namespace Dev

/-! ## Records -/

def chanOf (d : Dev) (n : Nat) : Chan := SMap.get {} d.chan n
def updChan (d : Dev) (n : Nat) (f : Chan → Chan) : Dev := { d with chan := SMap.upd {} d.chan n f }
def engOf (d : Dev) (e : Nat) : Eng := SMap.get {} d.eng e
def updEng (d : Dev) (e : Nat) (f : Eng → Eng) : Dev := { d with eng := SMap.upd {} d.eng e f }
def tinOf (d : Dev) (i : Nat) : TinSt := SMap.get {} d.tin i
def updTin (d : Dev) (i : Nat) (f : TinSt → TinSt) : Dev := { d with tin := SMap.upd {} d.tin i f }
def ecOf (d : Dev) (n : Nat) : EcSt := SMap.get {} d.ec n
def updEc (d : Dev) (n : Nat) (f : EcSt → EcSt) : Dev := { d with ec := SMap.upd {} d.ec n f }
def grpOf (d : Dev) (g : Nat) : GrpSt := SMap.get {} d.grp g
def updGrp (d : Dev) (g : Nat) (f : GrpSt → GrpSt) : Dev := { d with grp := SMap.upd {} d.grp g f }
def portOf (d : Dev) (p : Nat) : Port := SMap.get {} d.ports p
def updPort (d : Dev) (p : Nat) (f : Port → Port) : Dev := { d with ports := SMap.upd {} d.ports p f }
def frameOf (d : Dev) (ch f : Nat) : FrameRec := SMap.get {} d.frames (ch * 32 + f)
def setFrame (d : Dev) (ch f : Nat) (r : FrameRec) : Dev := { d with frames := SMap.set {} d.frames (ch * 32 + f) r }
def capOf (d : Dev) (k : Nat) : CapSt := SMap.get {} d.cap k
def updCap (d : Dev) (k : Nat) (f : CapSt → CapSt) : Dev := { d with cap := SMap.upd {} d.cap k f }
def tiOf (d : Dev) (m : Nat) : TiSt := SMap.get {} d.ti m
def updTi (d : Dev) (m : Nat) (f : TiSt → TiSt) : Dev := { d with ti := SMap.upd {} d.ti m f }
def toutOf (d : Dev) (k : Nat) : ToSt := SMap.get {} d.tout k
def updTout (d : Dev) (k : Nat) (f : ToSt → ToSt) : Dev := { d with tout := SMap.upd {} d.tout k f }
/-- Word `w` of context `c`'s record in the context store (R123). -/
def ctxW (d : Dev) (c w : Nat) : Word := SMap.get 0 d.ctx (c * 256 + w)
def setCtxW (d : Dev) (c w : Nat) (v : Word) : Dev := { d with ctx := SMap.set 0 d.ctx (c * 256 + w) v }
/-- Word `i` of the program-store entry at address `a` (R86). -/
def progW (d : Dev) (a i : Nat) : Word := SMap.get 0 d.prog (4 * a + i)
/-- The four words of the entry at `a` as one number, word 0 lowest. -/
def entryAt (d : Dev) (a : Nat) : Nat :=
  (d.progW a 0).toNat + 2^32 * (d.progW a 1).toNat + 2^64 * (d.progW a 2).toNat + 2^96 * (d.progW a 3).toNat
def dramBytes (d : Dev) (a k : Nat) : List Byte := SMap.bytes 0 d.dram a k
def storeDram (d : Dev) (a : Nat) (bs : List Byte) : Dev :=
  { d with dram := SMap.store 0 d.dram a bs, badCw := d.badCw.filter (fun p => decide (p.1 * 128 < a ∨ a + bs.length < p.1 * 128 + 128)) }

/-! ## Device time -/

/-- The accumulator: what it held at the last REF-domain edge, in 2^-32 tDC (R32). Log entry 61, DEDUCED, unsafe. -/
def accEdge (d : Dev) : Nat := d.time.acc - d.time.ph
/-- Device time is valid: the state is RUN (R34). -/
def timeValid (d : Dev) : Bool := d.bit Reg.time_STATUS 0
/-- The state of device time: 0 OFF, 1 COARSE, 2 RUN (R34, R54). -/
def timeState (d : Dev) : Nat := d.fld Reg.time_STATUS 2 2
/-- The device time at the present tick boundary; while TB is stopped, the integer part of the accumulator (R35). -/
def nowT (d : Dev) : Nat := if d.timeState = 2 then d.time.now else d.accEdge / 2^32
/-- A stamp taken now, at lane `lane` of the present tick: in COARSE it is the accumulator's, and coarse (R35). -/
def stampAt (d : Dev) (lane : Nat) : Nat × Bool := if d.timeState = 2 then (d.time.now + lane, false) else (d.accEdge / 2^32, true)
/-- The first tick boundary at which something that is decided now can still act. -/
def nextTick (d : Dev) : Nat := (d.nowT + 15) / 16 * 16
/-- Put device time into a state; TIME_VALID is 1 in RUN only (R34). -/
def setTimeState (d : Dev) (s : Nat) : Dev := (d.setFld Reg.time_STATUS 2 2 s).setBit Reg.time_STATUS 0 (s == 2)
/-- Whether the time `t` has come within the present tick. Log entry 14, DESIGN CHOICE, safe. -/
def due (d : Dev) (t : Nat) : Bool := t < d.nowT + 16
/-- fDC of the running SPLL set in kHz, as its register shows it (R425). -/
def fdcKhz (d : Dev) : Nat := d.rdN Reg.clk_FDC_KHZ
/-- The running divider set (R377). -/
def activeSet (d : Dev) : DivSet := DivSet.read (d.rdN Reg.clk_SPLL_ACT) (d.rdN Reg.clk_SPLL_ACT_FRAC)
/-- The reference the running set was taken for, or the measured one. -/
def fref (d : Dev) : Nat := if d.clk.fref = 0 then d.rdN Reg.clk_REF_MEAS else d.clk.fref
/-- ⌈k fDC / 1 kHz / n⌉, from the exact fDC of the running set. -/
def ceilFdc (d : Dev) (k n : Nat) : Nat := ceilDiv (k * d.activeSet.vco d.fref) (n * d.activeSet.scale)
/-- The least whole number of tDC that covers `ns` nanoseconds (R30). -/
def nsToT (d : Dev) (ns : Nat) : Nat := d.ceilFdc ns 1000000
/-- kM = ⌈fDC / 500 MHz⌉ (R357). -/
def kM (d : Dev) : Nat := max 1 (d.ceilFdc 1 500000)

/-! ## Firing sources -/

/-- The event channels that are enabled and select source `src`, in ascending order (R211); one with a parity mismatch
counts as not enabled (R423). -/
def listeners (d : Dev) (src : Nat) : List Nat :=
  (d.regs.filter (fun p => 0x0210000 ≤ p.1 && p.1 < 0x0218000 && (p.1 - 0x0210000) % 128 == 4 && p.2.getLsbD 22)).filterMap
    (fun p =>
      let n := (p.1 - 0x0210000) / 128
      let ctl := (d.eff (Reg.ec_CTL n)).toNat
      let cfg := (d.eff (Reg.ec_CFG n)).toNat
      if d.corrupt (0x0210000 + 128 * n) 128 then none
      else if (bitsOf ctl 10 1 = 1 ∧ bitsOf cfg 0 10 = src) ∨ (bitsOf ctl 11 1 = 1 ∧ bitsOf cfg 10 10 = src) ∨
         (bitsOf ctl 12 1 = 1 ∧ bitsOf cfg 20 10 = src) ∨ (bitsOf ctl 13 1 = 1 ∧ bitsOf ctl 0 10 = src)
      then some n else none)

/-- A firing reaches every event channel that selects its source. -/
def arrive (d : Dev) (f : Firing) : Dev :=
  (d.listeners f.src).foldl (fun d n => d.updEc n (fun e => { e with inbox := e.inbox ++ [⟨f, d.nowT / 16⟩] })) d

/-- A source fires (R207 to R209). A firing whose generation would be 8 does not fire: every channel that selects the
source sets LOOP, and EVT_LOOP fires in its place with generation 0 (R212). -/
def fireAs (d : Dev) (src stamp gen : Nat) (coarse late : Bool) : Dev :=
  if gen < 8 then d.arrive ⟨src, stamp, gen, coarse, late⟩
  else
    let d := (d.listeners src).foldl (fun d n => d.raise (Reg.ec_EVENTS n) 1) d
    ((d.raise Reg.evt_EVENTS 1).bump Reg.evt_LOOP_CNT).arrive ⟨980, stamp, 0, coarse, false⟩

/-- A source fires with a stamp and a generation; the stamp is coarse while device time is not valid (R35). -/
def fire (d : Dev) (src stamp gen : Nat) : Dev := d.fireAs src stamp gen (!d.timeValid) false

/-- A source without a generation fires at the tick boundary at which its condition is detected (R208, R209). -/
def fireNow (d : Dev) (src : Nat) : Dev := d.fire src d.nowT 0

/-- The TIME block records a late event, launch or host frame command (R31): `stamp` is its stamp or requested time. -/
def recordLate (d : Dev) (stamp lateness : Nat) : Dev :=
  let d := if d.bit Reg.time_EVENTS 0 then d else d.wr64 Reg.time_LATE_FIRST_LO stamp
  let d := d.bump Reg.time_LATE_CNT
  let d := if d.rdN Reg.time_LATE_MAX < lateness then d.wrN Reg.time_LATE_MAX (min (2^32 - 1) lateness) else d
  (d.raise Reg.time_EVENTS 1).fireNow 1018

/-! ## Refused and erroneous accesses -/

/-- The key of a register of which each function has its own copy. -/
def fnKey (fn off : Nat) : Nat := fn * 2^28 + off

/-- The next access that function `fn`'s record takes is the first since its ACC_EVENTS had no flag set (R414, R426). -/
def accFirst (d : Dev) (fn : Nat) : Bool := d.rdN (fnKey fn Reg.glob_ACC_EVENTS) % 128 == 0 || !SMap.get false d.accKept fn

/-- Enter an access in the accessing function's record: flag `b` of ACC_EVENTS, and ACC_LAST where it is the first since no flag stood
(R414, R426). -/
def accRecord (d : Dev) (fn off cause : Nat) (write narrow : Bool) (b : Nat) : Dev :=
  let d := if d.accFirst fn then
      { d.wrN (fnKey fn Reg.glob_ACC_LAST) (cause * 2^28 + off / 4 % 2^26 * 4 + (if write then 2 else 0) + (if narrow then 1 else 0)) with
        accKept := SMap.set false d.accKept fn true }
    else d
  d.raise (fnKey fn Reg.glob_ACC_EVENTS) (2^b)

/-- ACCESS_ERR (R411, R418, R420, R421): cause 1 reserved location, 2 sleeping home, 3 narrow write, 4 alias write. -/
def accessErr (d : Dev) (fn off cause : Nat) (write narrow : Bool) : Dev :=
  (d.bump (fnKey fn Reg.glob_ACCESS_ERR_CNT)).accRecord fn off cause write narrow 0

/-- A refused write (R414): cause 5 CFG_LOCKED, 6 CFG_INVALID, 7 NOT_OWNED, 8 GUARD_LOOSEN. -/
def refuse (d : Dev) (fn off cause : Nat) (narrow : Bool := false) : Dev := d.accRecord fn off cause true narrow (cause - 4)

/-- A clearing write that carried a stale SEQ (R414). -/
def staleClr (d : Dev) (fn off : Nat) : Dev :=
  (d.bump (fnKey fn Reg.glob_STALE_CLR_CNT)).accRecord fn off 9 true false 5

/-! ## Who owns what (R289, R310) -/

/-- Word `w` of partition `p`'s entry in the partition table (R310). -/
def ptabW (d : Dev) (p w : Nat) : Nat := (SMap.get 0 d.ptab (16 * p + w)).toNat
/-- Partition `p` has been created (R290, R295), and its destruction has not ended. -/
def partOn (d : Dev) (p : Nat) : Bool := decide (2 ≤ d.fld (Reg.part_STATE p) 0 2)
/-- The created partition whose entry satisfies a test: the owner, or `none` for the physical function. -/
def partWhere (d : Dev) (f : Nat → Bool) : Option Nat := (List.range 12).find? (fun p => d.partOn p && f p)
/-- Whether a number lies in a contiguous range. -/
def inRange (base count x : Nat) : Bool := base ≤ x && x < base + count

/-- Partition `p`'s entry grants half-tile `m`. -/
def grantsHalf (d : Dev) (p m : Nat) : Bool := bitsOf (d.ptabW p 0) (1 + m) 1 == 1
def grantsCtx (d : Dev) (p c : Nat) : Bool := inRange (bitsOf (d.ptabW p 1) 0 14) (bitsOf (d.ptabW p 1) 14 14) c
def grantsProg (d : Dev) (p a : Nat) : Bool := inRange (bitsOf (d.ptabW p 2) 0 8) (bitsOf (d.ptabW p 2) 8 9) (a / 4096)
def grantsSeg (d : Dev) (p s : Nat) : Bool := bitsOf (d.ptabW p 3) 0 16 ≤ s && s ≤ bitsOf (d.ptabW p 3) 16 16
def grantsEnv (d : Dev) (p v : Nat) : Bool := bitsOf (d.ptabW p 4) 0 12 ≤ v && v ≤ bitsOf (d.ptabW p 4) 16 12
def grantsEc (d : Dev) (p n : Nat) : Bool := bitsOf (d.ptabW p 5) (n / 16) 1 == 1
def grantsLi (d : Dev) (p k : Nat) : Bool := bitsOf (d.ptabW p 6 + 2^32 * (d.ptabW p 7 % 2^16)) k 1 == 1
def grantsTo (d : Dev) (p k : Nat) : Bool := bitsOf (d.ptabW p 7) (16 + k) 1 == 1
def grantsFi (d : Dev) (p k : Nat) : Bool := bitsOf (d.ptabW p 8) k 1 == 1
def grantsLt (d : Dev) (p k : Nat) : Bool := bitsOf (d.ptabW p 9) k 1 == 1
def grantsMb (d : Dev) (p b : Nat) : Bool := inRange (bitsOf (d.ptabW p 10) 0 6) (bitsOf (d.ptabW p 10) 6 7) b
def grantsQ (d : Dev) (p q : Nat) : Bool := inRange (bitsOf (d.ptabW p 10) 13 6) (bitsOf (d.ptabW p 10) 19 7) q

def chOwner (d : Dev) (n : Nat) : Option Nat := d.partWhere (fun p => d.grantsHalf p (n / 8))
def ctxOwner (d : Dev) (c : Nat) : Option Nat := d.partWhere (fun p => d.grantsCtx p c)
def progOwner (d : Dev) (a : Nat) : Option Nat := d.partWhere (fun p => d.grantsProg p a)
def segOwner (d : Dev) (s : Nat) : Option Nat := d.partWhere (fun p => d.grantsSeg p s)
def envOwner (d : Dev) (v : Nat) : Option Nat := d.partWhere (fun p => d.grantsEnv p v)
def ecOwner (d : Dev) (n : Nat) : Option Nat := d.partWhere (fun p => d.grantsEc p n)
def liOwner (d : Dev) (k : Nat) : Option Nat := d.partWhere (fun p => d.grantsLi p k)
def toOwner (d : Dev) (k : Nat) : Option Nat := d.partWhere (fun p => d.grantsTo p k)
def fiOwner (d : Dev) (k : Nat) : Option Nat := d.partWhere (fun p => d.grantsFi p k)
def ltOwner (d : Dev) (k : Nat) : Option Nat := d.partWhere (fun p => d.grantsLt p k)
def mbOwner (d : Dev) (b : Nat) : Option Nat := d.partWhere (fun p => d.grantsMb p b)
def qOwner (d : Dev) (q : Nat) : Option Nat := d.partWhere (fun p => d.grantsQ p q)
/-- The owner of an engine: a partition that holds it, or the physical function (R135). -/
def engOwner (d : Dev) (e : Nat) : Option Nat := (d.engOf e).owner
/-- The owner of digitiser `k`: the owner of its tile's lower or upper half-tile (R249, R310). -/
def mdOwner (d : Dev) (k : Nat) : Option Nat :=
  match d.partWhere (fun p => d.grantsHalf p (2 * k + 1) && bitsOf (d.ptabW p 9) (12 + k) 1 == 1) with
  | some p => some p
  | none => d.chOwner (16 * k)

/-- The owner that function `fn` acts for (R268). -/
def fnOwner (fn : Nat) : Option Nat := if fn = 0 then none else some (fn - 1)
/-- Function `fn` may touch a resource of `owner`: the physical function every one, a virtual function its own. -/
def sees (fn : Nat) (owner : Option Nat) : Bool := fn == 0 || owner == some (fn - 1)
/-- The owner named by the fields OWNER and OWNER_PF. -/
def ownerField (owner : Nat) (pf : Bool) : Option Nat := if pf then none else some owner
/-- The function that serves an owner (R268). -/
def ownerFn : Option Nat → Nat
  | none => 0
  | some p => p + 1

/-- The owner of a load group: the partition its CFG names, once created (R199, R206). Log entry 34, DESIGN CHOICE, unsafe. -/
def lgOwner (d : Dev) (g : Nat) : Option Nat :=
  match ownerField (d.fld (Reg.lg_CFG g) 4 4) (d.bit (Reg.lg_CFG g) 8) with
  | some p => if d.partOn p then some p else none
  | none => none

/-- The first register of entry `vec` of a function's MSI-X table, and the word of its pending-bit array that holds the entry's bit (R295). -/
def msixEntry (fn vec : Nat) : Nat := fnKey fn (0x1308000 + 16 * vec)
def msixPba (fn vec : Nat) : Nat := fnKey fn (0x1309000 + vec / 32 * 4)
/-- The entries of a function's MSI-X table (R286). Log entry 38, DESIGN CHOICE, unsafe. -/
def msixCount (fn : Nat) : Nat := if fn = 0 then 128 else 64

/-- The message of an MSI-X entry is written: its data to its address (R273). -/
def msixSend (d : Dev) (fn vec : Nat) : Dev :=
  let a := msixEntry fn vec
  let at_ := d.rdN a / 4 * 4 + 2^32 * d.rdN (a + 4)
  { d with hostMem := SMap.store 0 d.hostMem at_ (leBytes (d.rdN (a + 8)) 4), host := { d.host with irqs := d.host.irqs ++ [(fn, vec)] } }

/-- A function's vector is signalled (R286): its message is written, or while it is masked its bit of the pending-bit array is set. A vector
that the table lacks sends nothing. Log entry 38, DESIGN CHOICE, unsafe. -/
def signal (d : Dev) (fn vec : Nat) : Dev :=
  if msixCount fn ≤ vec then d
  else if d.bit (msixEntry fn vec + 12) 0 then d.setBit (msixPba fn vec) (vec % 32) true
  else d.msixSend fn vec

/-- An entry that is unmasked sends the message that waits for it. Log entry 38, DESIGN CHOICE, unsafe. -/
def msixUnmask (d : Dev) (fn vec : Nat) : Dev :=
  if !d.bit (msixEntry fn vec + 12) 0 && d.bit (msixPba fn vec) (vec % 32) then (d.setBit (msixPba fn vec) (vec % 32) false).msixSend fn vec else d

end Dev

/-! ## From the device to the machine -/

/-- A command whose effect lies in the device and needs nothing of the guard. -/
def State.onDev (s : State) (f : Dev → Dev) : Host.Outcome State Fault Refusal := .next { s with dev := f s.dev }

/-- A command whose effect lies in the device and reads the guard and the fuses, neither of which it can change. -/
def State.onFused (s : State) (f : Fuses → Guard → Dev → Dev) : Host.Outcome State Fault Refusal :=
  .next { s with dev := f s.fuses s.guard s.dev }

/-- A command that may change the guard as well as the device. -/
def State.onGuard (s : State) (f : Guard → Dev → Guard × Dev) : Host.Outcome State Fault Refusal :=
  .next { s with guard := (f s.guard s.dev).1, dev := (f s.guard s.dev).2 }

/-- A command whose effect lies in the device and reads the guard, which it cannot change. -/
def State.onGuarded (s : State) (f : Guard → Dev → Dev) : Host.Outcome State Fault Refusal :=
  .next { s with dev := f s.guard s.dev }

end Sys2Proof.Machine
end

