-- ==== Sys2Proof/Machine/Claims.lean ====
section
/-! DEFINITION. Operations that several families share: a context's record and state, the claim table, withdrawing launches,
stopping a context, a channel's safe hold, the code at a channel's DAC, the fault queues, the device safe state, and the
exceptions of an engine. -/
namespace Sys2Proof.Machine

/-- When a launch that starts at `l.teff` ends: a PLAY after all its passes (R108), a GAP at its requested end, so that it absorbs the lateness
of what came before it (R92, R110); other launches have no span. -/
def Launch.stop (l : Launch) : Nat :=
  match l.kind with
  | .play _ passes _ _ _ _ _ _ dur => l.teff + dur * passes
  | .gap dur => max l.teff (l.treq + dur)
  | _ => l.teff

/-- A PLAY or a GAP: a launch that occupies its channels. -/
def LKind.isSpan : LKind → Bool
  | .play .. => true
  | .gap _ => true
  | _ => false

/-- The time by which a launch is judged: its effective time once accepted, else its requested time (R128, R132). -/
def Launch.judged (l : Launch) : Nat := if l.accepted then l.teff else l.treq

/-- When a play ends: at the end of its last pass (R208). -/
def Play.stop (p : Play) : Nat := p.start + p.dur * p.passes

namespace Dev

/-! ## Contexts (R122, R123) -/

def ctxFld (d : Dev) (c w lo n : Nat) : Nat := bitsOf (d.ctxW c w).toNat lo n
def setCtxFld (d : Dev) (c w lo n v : Nat) : Dev :=
  let x := (d.ctxW c w).toNat
  d.setCtxW c w (BitVec.ofNat 32 (x - bitsOf x lo n * 2^lo + v % 2^n * 2^lo))
def ctx64 (d : Dev) (c w : Nat) : Nat := (d.ctxW c w).toNat + 2^32 * (d.ctxW c (w + 1)).toNat
def setCtx64 (d : Dev) (c w v : Nat) : Dev := (d.setCtxW c w (BitVec.ofNat 32 v)).setCtxW c (w + 1) (BitVec.ofNat 32 (v / 2^32))
/-- STATE of a context: 0 FREE, 1 READY, 2 ADMITTED, 3 RUNNING, 4 HALTED, 5 STOPPED (R123). -/
def ctxState (d : Dev) (c : Nat) : Nat := d.ctxFld c 0 0 3
def setCtxState (d : Dev) (c s : Nat) : Dev := d.setCtxFld c 0 0 3 s
/-- PC of a context. -/
def ctxPc (d : Dev) (c : Nat) : Nat := d.ctxFld c 2 0 20
/-- The channel set of a context, in ascending order. -/
def ctxChans (d : Dev) (c : Nat) : List Nat := (List.range 96).filter (fun n => d.ctxFld c (44 + n / 32) (n % 32) 1 == 1)
/-- The owner a context's record names. -/
def ctxRecOwner (d : Dev) (c : Nat) : Option Nat := ownerField (d.ctxFld c 0 4 4) (d.ctxFld c 0 3 1 == 1)
/-- The engine a context is bound to. -/
def ctxEng (d : Dev) (c : Nat) : Option Nat := if d.ctxFld c 0 14 1 = 1 then some (d.ctxFld c 0 8 6) else none
/-- The context bound to an engine. -/
def engCtx (d : Dev) (e : Nat) : Option Nat := if d.bit (Reg.eng_STATUS e) 14 then some (d.fld (Reg.eng_STATUS e) 0 14) else none
/-- A context is admitted: in any state that holds its admission (R122). -/
def isAdmitted (d : Dev) (c : Nat) : Bool := 2 ≤ d.ctxState c && d.ctxState c ≤ 5
/-- What admission holds of a context. -/
def admOf (d : Dev) (c : Nat) : Option AdmRec := SMap.get none d.adm c
/-- The contexts that are admitted. -/
def admitted (d : Dev) : List Nat := d.adm.filterMap (fun p => if p.2.isSome then some p.1 else none)
/-- The contexts that run. -/
def running (d : Dev) : List Nat := (List.range 64).filterMap (fun e => d.engCtx e)

/-! ## Launches and claims (R25 to R27, R127) -/

/-- The end of the last PLAY or GAP that a channel has accepted: what it plays now, or the last of those that await
their time (R26). Log entry 25, DEDUCED, unsafe. -/
def chanEnd (d : Dev) (ch : Nat) : Nat :=
  let base := match (d.chanOf ch).cur, (d.chanOf ch).prev with
    | some p, _ => p.stop
    | none, p :: _ => p.stop
    | none, [] => 0
  d.launches.foldl (fun m l => if l.accepted && l.kind.isSpan && l.chans.contains ch then max m l.stop else m) base

/-- Whether context `c` still holds its claim on a channel: it runs, or a launch or a marker edge of it is still to come
or in progress there (R127). -/
def holdsClaim (d : Dev) (ch c : Nat) : Bool :=
  d.ctxState c == 3 || d.launches.any (fun l => l.ctx == c && l.chans.contains ch) ||
  (match (d.chanOf ch).cur with | some p => p.ctx == c | none => false) ||
  d.edges.any (fun e => e.ch == ch && e.ctx == c)

/-- The segments that admitted contexts with channel `ch` in their set name (R61, R68). -/
def namedFor (d : Dev) (ch : Nat) : List Nat :=
  d.adm.flatMap (fun p => match p.2 with
    | some r => if d.ctxFld p.1 (44 + ch / 32) (ch % 32) 1 == 1 then r.segs else []
    | none => [])

/-- A channel for which no admitted context names a segment streams nothing: its ring is given up, unless the host lays it out (R65, R75). -/
def giveUpRing (d : Dev) (ch : Nat) : Dev :=
  let a := Reg.chn_SC_LAYOUT ch
  if decide (ch < 96) && d.bit a 24 && (d.chanOf ch).streams.isEmpty && (d.namedFor ch).isEmpty && d.fld a 8 16 != 0 then d.setFld a 8 16 0 else d

/-- Channels whose claim nothing holds any longer become unclaimed (R127); a ring whose last stream was a released context's is given up (R75),
and a held DELAY of a marker line that takes its level from one of them applies (R248). -/
def settleClaims (d : Dev) : Dev :=
  let ended := d.chan.filterMap (fun p => match p.2.claim with
    | some c => if d.holdsClaim p.1 c then none else some p.1
    | none => none)
  let d := { d with chan := (d.chan.map (fun p => if ended.contains p.1 then
      (p.1, { p.2 with claim := none }) else p)).filter (fun p => decide (p.2 ≠ {})) }
  if ended.isEmpty then d
  else
    let d := ended.foldl (fun (d : Dev) (n : Nat) => d.giveUpRing n) d
    (List.range 32).foldl (fun (d : Dev) (k : Nat) =>
    if d.held (Reg.mk_DELAY k) && ended.contains (d.fld (Reg.mk_CFG k) 2 7) then d.settle (Reg.mk_DELAY k) else d) d

/-- Withdraw the launches of context `c` judged to lie at `t` or later, with their marker edges (R128, R132). -/
def withdraw (d : Dev) (c t : Nat) : Dev :=
  let gone (l : Launch) : Bool := l.ctx == c && t ≤ l.judged
  let lsns := (d.launches.filter gone).map (fun l => l.lsn)
  { d with
    launches := d.launches.filter (fun l => !gone l)
    edges := d.edges.filter (fun e => !(e.ctx == c && lsns.contains e.lsn))
    chan := SMap.mapVals {} d.chan (fun _ h => { h with streams := h.streams.filter (fun s => !(s.ctx == c && lsns.contains s.lsn)) }) }

/-- A launch is a SWITCH entry's. -/
def isSwitch (l : Launch) : Bool := match l.kind with
  | .switch _ => true
  | _ => false
/-- The launch is that of the SWITCH for which its engine waits (R114): no playout unit takes it. The record of a SWITCH whose context has left
is a launch like any other. -/
def awaitsSwitch (d : Dev) (l : Launch) : Bool :=
  isSwitch l && d.engCtx l.eng == some l.ctx && (d.engOf l.eng).swWait.isSome &&
  (d.launches.filter (fun x => x.ctx == l.ctx && isSwitch x)).getLast? == some l

/-- Pending launches of a context (R123). -/
def pendOf (d : Dev) (c : Nat) : Nat := (d.launches.filter (fun l => l.ctx == c)).length
/-- Pending launches that an engine holds, of whatever context it issued them for (R27, R87, R150). -/
def engPend (d : Dev) (e : Nat) : Nat := (d.launches.filter (fun l => l.eng == e)).length

/-- A word of the record that belongs to the hot state, which alone is mirrored (R123, R141). -/
def isHot (w : Nat) : Bool := decide (2 ≤ w ∧ w ≤ 43)
/-- The words of the hot state whose mirror from engine `e` has stopped, each with its last good copy (R142). -/
def stopped (d : Dev) (e : Nat) : List (Nat × Word) := (d.engOf e).stuck.filter (fun p => isHot p.1)
/-- Word `w` of a context as the context store holds it: the last good copy of a word whose mirror has stopped (R141, R142). -/
def storeW (d : Dev) (c w : Nat) : Word :=
  match d.ctxEng c with
  | some e => (((d.stopped e).find? (fun p => p.1 == w)).map (fun p => p.2)).getD (d.ctxW c w)
  | none => d.ctxW c w
/-- The context on engine `e` goes on from the context store: words whose mirror had stopped take their last good copy (R142). -/
def unmirror (d : Dev) (e c : Nat) : Dev :=
  ((d.stopped e).foldr (fun (p : Nat × Word) (d : Dev) => d.setCtxW c p.1 p.2) d).updEng e (fun x => { x with stuck := [] })

/-- The live record of engine `e`'s bank keeps the words of the context that goes (R121). Log entry 23, DEDUCED, unsafe. -/
def keepLive (d : Dev) (e c : Nat) : Dev :=
  let ws := (List.range 256).map (fun w => d.ctxW c w)
  d.updEng e (fun x => { x with left := SMap.set [] x.left 0 ws })

/-- The engine loses its context and becomes idle (R128, R149). -/
def unbind (d : Dev) (e : Nat) : Dev :=
  ((d.setFld (Reg.eng_STATUS e) 0 16 0).settle (Reg.eng_SW_CFG e)).updEng e (fun x => { x with released := false, swWait := none, run := 0, moving := none })

/-- A running context leaves its engine for state `s`; ISSUED takes the entries issued since it was bound (R123), and
claims that nothing holds end (R127). The context store holds its state after its last issued entry (R141). -/
def leave (d : Dev) (c s : Nat) : Dev :=
  match d.ctxEng c with
  | none => (d.setCtxState c s).settleClaims
  | some e =>
    let d := ((d.keepLive e c).unmirror e c).setCtx64 c 56 ((d.ctx64 c 56 + (d.engOf e).run) % 2^64)
    let d := d.setCtxFld c 3 16 6 (d.pendOf c)
    (((d.setCtxState c s).setCtxFld c 0 8 7 0).unbind e).settleClaims

/-- CTX_STOP of a running context at its entry boundary (R128): it becomes ADMITTED, and with `wd` its pending launches
that lie at least 528 tDC ahead are withdrawn. -/
def stopCtx (d : Dev) (c : Nat) (wd : Bool) : Dev :=
  if d.ctxState c = 3 then
    let d := if wd then d.withdraw c (d.nowT + 528) else d
    d.leave c 2
  else d

/-- Stop every running context that satisfies a test (R287, R436). -/
def stopAll (d : Dev) (f : Nat → Bool) (wd : Bool) : Dev := (d.running.filter f).foldl (fun d c => d.stopCtx c wd) d

/-! ## Channels: mode, hold and the code at the DAC (R183, R184, R193) -/

/-- MODE of a channel: 0 OFF, 1 PLAY, 2 STATIC (R202). -/
def chMode (d : Dev) (n : Nat) : Nat := d.fld (Reg.chn_CFG n) 0 2
/-- The interpolation I of a channel (R202). -/
def chI (d : Dev) (n : Nat) : Nat := 2 ^ d.fld (Reg.chn_CFG n) 4 4
def isClaimed (d : Dev) (n : Nat) : Bool := (d.chanOf n).claim.isSome
/-- The device safe state is in effect (R435, R443). -/
def dsafe (d : Dev) : Bool := d.bit Reg.fault_STATUS 16

/-- Set a channel's safe hold with the causes of `mask`, bits of SAFE_CTL.CAUSE counted from its bit 0 (R193, R204): 1 trip,
2 parity, 4 SPLL, 8 XPLL, 16 watchdog, 32 start rule, 64 settle, 128 latched pin. -/
def setHold (d : Dev) (n mask : Nat) : Dev :=
  (d.setFld (Reg.chn_SAFE_CTL n) 4 8 (d.fld (Reg.chn_SAFE_CTL n) 4 8 ||| mask)).updChan n (fun c => { c with hold := true, settleOnly := mask == 64 && (!c.hold || c.settleOnly) })

/-- The channels that are not in MODE OFF. -/
def liveChans (d : Dev) : List Nat := (List.range 96).filter (fun n => d.chMode n != 0)

/-- Set the safe hold of every channel that is not OFF. -/
def holdLive (d : Dev) (mask : Nat) : Dev := d.liveChans.foldl (fun d n => d.setHold n mask) d

/-- A cause goes away on every channel. -/
def clearCauseAll (d : Dev) (mask : Nat) : Dev := (List.range 96).foldl (fun d n => d.clearCause n mask) d

/-! ## Fault records (R427 to R438) -/

/-- The fault queue of a class, head first. -/
def faultQ (d : Dev) (c : Nat) : List FaultRec := SMap.get [] d.faults c
def setFaultQ (d : Dev) (c : Nat) (q : List FaultRec) : Dev :=
  ({ d with faults := SMap.set [] d.faults c q }).setBit Reg.fault_STATUS c (!q.isEmpty)

/-- A record as its sixteen words (R429). -/
def faultWords (c : Nat) (r : FaultRec) : List Nat :=
  [ c + r.code * 2^4 + min 255 r.also * 2^12 + (if r.mixed then 2^20 else 0) + (if r.coarse then 2^21 else 0)
      + (if r.esc then 2^22 else 0) + (if r.fw then 2^23 else 0),
    r.id + r.kind * 2^16 + r.obj * 2^20, r.time % 2^32, r.time / 2^32, r.last % 2^32, r.last / 2^32 ]
  ++ (List.range 8).map (fun i => r.detail.getD i 0 % 2^32) ++ [ r.part + (if r.pf then 2^4 else 0), r.aux ]

/-- The device safe state begins (R436): every channel that is not OFF is held, every running context stops with
withdrawal, and the trigger outputs are deasserted. `w` is the record that escalated, in class `c` (R438). -/
def enterDsafe (d : Dev) (c : Nat) (w : List Nat) : Dev :=
  let d := (d.setBit Reg.fault_STATUS 16 true).setFld Reg.fault_STATUS 17 4 c
  let d := (List.range 16).foldl (fun d i => d.wrN (Reg.fault_DSAFE_LAST i) (w.getD i 0)) d
  let d := d.stopAll (fun _ => true) true
  let d := d.holdLive 0
  let d := { d with mkLine := SMap.mapVals {} d.mkLine (fun _ l => if l.level then ⟨false, d.nowT, 0⟩ else l) }
  (List.range 8).foldl (fun d k => (d.setBit (Reg.to_STATUS k) 0 false).updTout k (fun t => { t with pulseEnd := none })) d

/-- What a class's notification does (R432): FAULT fires with the record's time, and the fault interrupt is signalled. -/
def notifyFault (d : Dev) (c t : Nat) : Dev :=
  if d.bit Reg.fault_CFG c then (d.fire 1019 t 0).signal 0 (d.fld Reg.host_IRQ 8 7) else d

/-- The classes in which a second unacknowledged occurrence escalates (R427). -/
def escalates (c : Nat) : Bool := c == 0 || c == 2 || c == 4

/-- An occurrence of a fault is entered in its class (R430, R432, R435): merged into an unacknowledged record of the same
code and object, added at the tail, or counted in the newest record of a full queue. -/
def fault (d : Dev) (c : Nat) (r : FaultRec) : Dev :=
  let q := d.faultQ c
  let esc := escalates c && !q.isEmpty
  let t := r.time
  let same (x : FaultRec) : Bool := x.code == r.code && x.kind == r.kind && x.obj == r.obj
  let full := !q.any same && decide (16 ≤ q.length)
  let d := d.bump (Reg.faultQ_OCC_CNT c)
  let merge (x : FaultRec) : FaultRec := { x with also := min 255 (x.also + 1), last := t, esc := x.esc || esc }
  let (d, taken) :=
    if q.any same then
      (d.setFaultQ c (q.map (fun x => if same x then merge x else x)), (q.find? same).map merge)
    else if q.length < 16 then
      let x := { r with id := d.faultId, last := t, esc := esc, coarse := !d.timeValid }
      ((({ d with faultId := (d.faultId + 1) % 2^16 }).setFaultQ c (q ++ [x])).bump Reg.fault_TOTAL, some x)
    else
      let merge' (x : FaultRec) : FaultRec := { x with also := min 255 (x.also + 1), last := t, mixed := true, esc := x.esc || esc }
      let d := d.bump (Reg.faultQ_OVF_CNT c)
      (d.setFaultQ c (q.dropLast ++ (q.getLast?.map merge').toList), q.getLast?.map merge')
  let d := (d.raise Reg.fault_EVENTS (1 + (if esc then 2 else 0) + (if full then 4 else 0))).notifyFault c t
  if esc && !d.dsafe then d.enterDsafe c ((taken.map (faultWords c)).getD []) else d

/-- A fault of the whole device or of an object that belongs to the physical function, found now. -/
def faultNow (d : Dev) (c code kind obj : Nat) (detail : List Nat) : Dev :=
  d.fault c { code := code, kind := kind, obj := obj, time := d.nowT, detail := detail }

/-- A fault of an object with an owner (R429 PART, PF), found now. -/
def faultOf (d : Dev) (c code kind obj : Nat) (owner : Option Nat) (detail : List Nat) : Dev :=
  d.fault c { code := code, kind := kind, obj := obj, time := d.nowT, detail := detail, part := owner.getD 0, pf := owner.isNone }

/-! ## Exceptions (R148, R149) -/

/-- The words of an exception record (R148). -/
def excWords (d : Dev) (e c code detail : Nat) : List Nat :=
  [ code + c * 2^8 + e * 2^22, d.ctxPc c, d.nowT % 2^32, d.nowT / 2^32, detail % 2^32, detail / 2^32 % 2^32,
    d.ctxFld c 3 0 16, 0 ]

/-- The words of the record of an exception of an engine that may have no context bound; CTX, PC and LSN are then zero. Log entry 21, DEDUCED,
unsafe. -/
def excWordsOf (d : Dev) (e : Nat) (c : Option Nat) (code detail : Nat) : List Nat :=
  match c with
  | some c => d.excWords e c code detail
  | none => [code + e * 2^22, 0, d.nowT % 2^32, d.nowT / 2^32, detail % 2^32, detail / 2^32 % 2^32, 0, 0]

/-- An engine's exception record goes to its register and to the save area of its bank (R121, R148). -/
def putExc (d : Dev) (e : Nat) (w : List Nat) : Dev :=
  ((List.range 8).foldl (fun (d : Dev) i => d.wrN (Reg.eng_EXC e i) (w.getD i 0)) d).updEng e (fun (x : Eng) =>
    { x with saved := (List.range 8).map (fun i => BitVec.ofNat 32 (w.getD i 0)) })

/-- An exception is recorded: in the context's record, in the engine and in the fault queue (R148), with its flag and the
engine-exception source (R149). -/
def recordExc (d : Dev) (e c code detail : Nat) : Dev :=
  let w := d.excWords e c code detail
  let d := (List.range 8).foldl (fun d i => d.setCtxW c (48 + i) (BitVec.ofNat 32 (w.getD i 0))) (d.putExc e w)
  let d := d.raise (Reg.eng_EVENTS e) 1
  let d := if d.bit (Reg.eng_CFG e) 0 then d.fireNow 978 else d
  d.faultOf 6 code 2 e (d.engOwner e) w

/-- An exception of an engine that may have no context bound is recorded (R134, R148). -/
def recordExcOf (d : Dev) (e : Nat) (c : Option Nat) (code detail : Nat) : Dev :=
  match c with
  | some c => d.recordExc e c code detail
  | none =>
    let w := d.excWordsOf e none code detail
    let d := (d.putExc e w).raise (Reg.eng_EVENTS e) 1
    let d := if d.bit (Reg.eng_CFG e) 0 then d.fireNow 978 else d
    d.faultOf 6 code 2 e (d.engOwner e) w

/-- An exception stops a context (R119, R149): it becomes STOPPED with PC at the entry not issued, and its engine idle. -/
def raiseExc (d : Dev) (e c code detail : Nat) : Dev :=
  let d := if code = 7 then d.raise Reg.time_EVENTS 64 else d
  (d.recordExc e c code detail).leave c 5

end Dev

/-! ## The code at the DAC -/

/-- Round an integer quotient half to even (R173). -/
def rhe (n : Int) (k : Nat) : Int :=
  let q := n / (k : Int)
  let r := 2 * (n - q * (k : Int))
  if r < (k : Int) then q else if r > (k : Int) then q + 1 else if q % 2 = 0 then q else q + 1

/-- Saturate to a range. -/
def sat (lo hi x : Int) : Int := if x < lo then lo else if hi < x then hi else x

/-- The guard of a channel. -/
def Guard.of (g : Guard) (n : Nat) : GuardCh := SMap.get {} g.ch n
/-- The rate guard of a trigger output. -/
def Guard.ofTo (g : Guard) (k : Nat) : GuardTo := SMap.get {} g.tout k

/-- A write of a working limit (R187): 0 clamp, 1 slew, 2 power. `none` where it lies outside its seal. -/
def GuardCh.tighten (c : GuardCh) (which : Fin 3) (v : Word) : Option GuardCh :=
  if which = 0 then
    let lo := sext 16 v.toNat
    let hi := sext 16 (v.toNat / 2^16)
    if c.sealLo ≤ lo ∧ lo ≤ hi ∧ hi ≤ c.sealHi then some { c with lo := lo, hi := hi } else none
  else if which = 1 then
    let s := v.toNat % 2^16
    if 1 ≤ s ∧ s ≤ c.sealS then some { c with slew := s } else none
  else
    let p := v.toNat % 2^30
    if p ≤ c.sealPwr then some { c with pwr := p } else none

/-- Clamp and slew a code, from the code the DAC took before (R184). -/
def GuardCh.limit (c : GuardCh) (before x : Int) : Int :=
  before + sat (-(c.slew : Int)) c.slew (sat c.lo c.hi x - before)

namespace Dev

/-- Safe code of tier 1 or 2 stands at a channel: the pin, or the safe hold or EXTEST (R193, R329). -/
def safed (g : Guard) (d : Dev) (n : Nat) : Bool := (d.safePin && (g.of n).safeEn) || (d.chanOf n).hold || d.extest

/-- Safe code stands at the DAC of channel `n` for an underrun at device time `t` (R72, R175): from the first missing sample to the end of its
launch, each D later. -/
def undrAt (d : Dev) (n t : Nat) : Bool :=
  let c := d.chanOf n
  (c.cur.toList ++ c.prev).any (fun p => match p.undr with
    | some u => decide (u + ceilDiv p.dly 256 ≤ t ∧ t < p.stop + ceilDiv p.dly 256)
    | none => false)

/-- The code that the DAC of channel `n` takes at device time `t` (R193), when its guard gave `x`: safe code in the order of the tiers, and
for a word that came with a parity error (R197). -/
def dacTakes (g : Guard) (d : Dev) (n t : Nat) (x : Int) : Int :=
  if d.safed g n || d.undrAt n t || (d.chanOf n).badWord == some (t / 16) then (g.of n).safe else x

/-- The code now at the DAC of channel `n`. -/
def dacCode (g : Guard) (d : Dev) (n : Nat) : Int := if d.safed g n then (g.of n).safe else (d.chanOf n).code

/-- The idle level of a channel (R183). -/
def idleLevel (d : Dev) (n : Nat) : Int :=
  if d.effFld (Reg.chn_CFG n) 15 1 = 1 then sext 16 (d.effFld (Reg.chn_IDLE_CODE n) 0 16)
  else sat (-32768) 32767 (rhe (sext 20 (d.effFld (Reg.chn_OFFSET n) 0 20)) 16)

end Dev

end Sys2Proof.Machine
end

