-- ==== Sys2Proof/Machine/Access.lean ====
section
/-! DEFINITION. What every access to a register shares: whether its block answers (R409, R411), whether the function sees it
(R270, R408), and the staging of a pair's low word (R419). -/
namespace Sys2Proof.Machine
namespace Dev

/-- START_PHASE (R425). -/
def startPhase (d : Dev) : Nat := d.fld Reg.glob_STATUS 16 4
/-- The device is in RECOVERY (R312). -/
def recovery (d : Dev) : Bool := d.bit Reg.glob_STATUS 7

/-- TB is clocked: the SPLL is neither off nor failed (R410, R377). -/
def tbClocked (d : Dev) : Bool := let s := d.fld Reg.clk_STATUS 2 2; s != 0 && s != 3

/-- The home of the register at an offset answers (R409 to R411). The lane PHY of a link port runs once LINK.CFG.ENABLE brings it up (R55). Log entry 29, DEDUCED, unsafe. -/
def awake (d : Dev) (off : Nat) : Bool :=
  let a := off % 0x4000000
  if a < 0x0100000 ∨ (0x1300000 ≤ a ∧ a < 0x1500000) ∨ (0x1700000 ≤ a ∧ a < 0x1800000) then true
  else if d.startPhase < 2 ∨ d.recovery then false
  else if a = Reg.time_NOW_LO ∨ a = Reg.time_NOW_HI ∨ a = Reg.time_SYNC_LO ∨ a = Reg.time_SYNC_HI then d.tbClocked
  else if a = Reg.time_COARSE_LO ∨ a = Reg.time_COARSE_HI then d.time.refOk && !d.bit Reg.clk_STATUS 9
  else if 0x1800100 ≤ a ∧ a < 0x1800300 then d.bit Reg.link_CFG ((a - 0x1800100) / 0x100) && d.bit Reg.link_CFG 10
  else if 0x0800000 ≤ a ∧ a < 0x0E00000 ∧ (let r := a % 0x4000; r = 0x2428 ∨ (0x242C ≤ r ∧ r < 0x243C)) then d.tbClocked
  else true

/-- The home of a register answers a read: FRQ_AT_HI lies in TB only as the start of a query, that is for a write (R410). -/
def awakeRead (d : Dev) (off : Nat) : Bool :=
  d.awake (if 0x0800000 ≤ off ∧ off < 0x0E00000 ∧ off % 0x4000 = 0x2428 then off - 4 else off)

/-- A register of which each function has its own copy (R292, R293, R295, R425, R426). -/
def perFn (b : Block) (r : Nat) : Bool :=
  match b with
  | .glob => (0x40 ≤ r && r < 0x50) || (0x80 ≤ r && r < 0x90)
  | .evt => (0x14 ≤ r && r < 0x24) || r == 0x28
  | .host => r == 0x4 || r == 0xC || 0x10 ≤ r
  | .dmaw => true
  | .msix => true
  | .pba => true
  | _ => false

/-- The key of the register at BAR0 offset `off` as function `fn` sees it. -/
def keyOf (fn off : Nat) : Nat :=
  match locate off with
  | some (b, _, r) => if perFn b r then fnKey fn off else off
  | none => off

/-- A write of the register with key `key` by function `fn` has led from `before` to `d`: unless it was refused, it ends a mismatch there (R424). -/
def accepted (before d : Dev) (fn key : Nat) : Dev :=
  if SMap.get 0 d.parity key = 0 ∨ d.rd (fnKey fn Reg.glob_ACC_EVENTS) ≠ before.rd (fnKey fn Reg.glob_ACC_EVENTS) then d else d.endParity key

/-- A write of function `fn` at `off`, a register of `owner`, reaches its block and has effect `f`; an access to a sleeping
home is dropped as cause 2, and one of a register the function does not see as cause 1 (R411, R421). In STANDBY the device answers
no BAR0 request. Log entry 29, DEDUCED, unsafe. -/
def access (d : Dev) (fn off : Nat) (owner : Option Nat) (f : Dev → Dev) : Dev :=
  if d.standby then d
  else if !sees fn owner then d.accessErr fn off 1 true false
  else if !d.awake off then d.accessErr fn off 2 true false
  else accepted d (f d) fn (keyOf fn off)

/-- The low word that a write of a pair's high word commits: the staged one, or the present one (R419). Log entry 29, DEDUCED, unsafe. -/
def pairLow (d : Dev) (req low : Nat) : Nat := ((SMap.get none d.stage (fnKey req low)).getD (d.rd low)).toNat

/-- Commit a pair: both words are written together and the staging word is empty again (R419). -/
def commitPair (d : Dev) (req low : Nat) (hi : Nat) : Dev :=
  let v := d.pairLow req low
  let d := { d with stage := SMap.set none d.stage (fnKey req low) none }
  (d.wrN low v).wrN (low + 4) hi

end Dev
end Sys2Proof.Machine
end

