-- ==== Sys2Proof/Machine/Operands.lean ====
section
/-! DEFINITION. Operand forms: the fields of a sequence entry (R86 to R117) and of a segment descriptor (R59), the check of an
entry when it is written (R88), the operands and conditions of BR and REG, the requested time of a launch (R91), and the
per-channel figures that follow from the interpolation (R181). -/
namespace Sys2Proof.Machine

/-! ## Sequence entries -/

/-- Bits of word `w` of an entry given as a 128-bit number. -/
def ent (n w lo k : Nat) : Nat := bitsOf n (32 * w + lo) k

/-- An entry that launches (R87). -/
def launching (n : Nat) : Bool :=
  match ent n 0 0 4 with
  | 1 | 2 | 7 | 8 | 9 | 11 => true
  | _ => false

/-- The bits of an entry that its opcode leaves reserved are 0, and its fields keep the limits of chapter 4 that do not
depend on who writes it (R88). Bits that no layout names count as reserved (log entry 78, DEDUCED, unsafe). `a` is the entry's address. -/
def entryFormOk (a n : Nat) : Bool :=
  let op := ent n 0 0 4
  let base := ent n 0 4 2
  let seqOk := base != 0 || ent n 2 0 32 == 0
  let plain := base == 0
  match op with
  | 0 | 4 | 15 => plain && ent n 0 11 21 == 0 && ent n 1 0 32 == 0 && ent n 2 0 32 == 0 && ent n 3 0 32 == 0
  | 1 => seqOk && (ent n 0 11 1 == 1 || ent n 0 28 4 == 0) && ent n 1 0 16 + 2 ^ ent n 0 28 4 - 1 ≤ 65535
  | 2 => seqOk && ent n 0 11 21 == 0 && ent n 1 0 32 == 0 && 32 ≤ ent n 3 0 32
  | 3 => plain && a < ent n 0 12 20 && ent n 1 4 28 == 0 && ent n 2 0 32 == 0
  | 5 => plain && ent n 0 11 3 ≤ 4 && (3 ≤ ent n 0 11 3 || ent n 0 14 3 == 0) && ent n 1 29 3 == 0
  | 6 => plain && ent n 0 15 17 == 0 && ent n 0 11 4 != 15 && ent n 1 13 19 == 0 && ent n 2 0 32 == 0
  | 7 => seqOk && ent n 0 15 17 == 0 && ent n 0 11 3 ≤ 4 && ent n 1 9 7 == 0 && ent n 1 5 4 ≤ 14 &&
      (ent n 0 14 1 == 1 ||
        ((ent n 0 11 3 != 3 || ent n 1 16 16 == 0) && (ent n 0 11 3 != 4 || (ent n 1 16 16 == 0 && ent n 3 0 32 == 0))))
  | 8 => seqOk && ent n 0 11 21 == 0 && ent n 1 4 28 == 0 && ent n 3 16 16 == 0 &&
      ((ent n 1 0 2 != 3 && ent n 1 2 2 != 3) || ent n 3 0 16 != 0)
  | 9 => seqOk && ent n 0 13 19 == 0 && ent n 1 0 32 == 0 && ent n 3 0 32 == 0
  | 10 => plain && ent n 0 13 19 == 0 && ent n 1 0 32 == 0
  | 11 => seqOk && ent n 0 11 21 == 0 && ent n 1 14 18 == 0 && ent n 1 0 14 < 10240 && ent n 3 0 32 == 0
  | _ => false

/-- The comparison of a BR (R100). -/
def cmpHolds (cmp : Nat) (a b : Word) : Bool :=
  match cmp with
  | 0 => a == b
  | 1 => a != b
  | 2 => a.slt b
  | 3 => !a.slt b
  | 4 => a.ult b
  | 5 => !a.ult b
  | 6 => a &&& b == b
  | _ => a &&& b != 0

/-- The result of a REG function of two operands that reads nothing else (R116). -/
def regFunc (f : Nat) (a b : Word) : Word :=
  let sh := b.toNat % 64
  match f with
  | 0 => b
  | 1 => a + b
  | 2 => a - b
  | 3 => BitVec.ofNat 32 (min (a.toNat + b.toNat) (2^32 - 1))
  | 4 => BitVec.ofNat 32 (a.toNat - b.toNat)
  | 5 => a &&& b
  | 6 => a ||| b
  | 7 => a ^^^ b
  | 8 => if sh ≥ 32 then 0 else a <<< sh
  | 9 => if sh ≥ 32 then 0 else a >>> sh
  | 10 => if sh ≥ 32 then (if a.msb then BitVec.allOnes 32 else 0) else a.sshiftRight sh
  | 13 => if a.ult b then a else b
  | 14 => if a.ult b then b else a
  | _ => 0

/-! ## Segment descriptors (R59) -/

/-- A field of a descriptor given as its sixteen words. -/
def dfld (ws : List Word) (w lo k : Nat) : Nat := bitsOf (ws.getD w 0).toNat lo k
/-- KIND: 0 empty, 1 stored, 2 synthesised. -/
def dKind (ws : List Word) : Nat := dfld ws 0 0 2
def dCplx (ws : List Word) : Bool := dfld ws 0 2 1 == 1
def dRes (ws : List Word) : Bool := dfld ws 0 3 1 == 1
def dPin (ws : List Word) : Bool := dfld ws 0 4 1 == 1
def dOwner (ws : List Word) : Option Nat := ownerFieldOf (dfld ws 0 16 4) (dfld ws 0 20 1 == 1)
where ownerFieldOf (o : Nat) (pf : Bool) : Option Nat := if pf then none else some o
/-- Samples in one pass: LEN of a stored segment, DUR of a synthesised one. -/
def dLen (ws : List Word) : Nat := if dKind ws = 2 then dfld ws 2 0 32 else dfld ws 2 0 32 + 2^32 * dfld ws 3 0 9
def dAddr (ws : List Word) : Nat := dfld ws 4 0 32 + 2^32 * dfld ws 5 0 9
/-- HEAD has meaning for a streamed segment only; with RES = 1 it reads as 0 and is not tested (R59, R60). Log entry 75, DEDUCED, unsafe. -/
def dHead (ws : List Word) : Nat := if dRes ws then 0 else dfld ws 6 0 8
/-- Bytes of one sample of a stored segment (R57). -/
def dWidth (ws : List Word) : Nat := if dCplx ws then 4 else 2
/-- Bytes of a stored segment's data. -/
def dBytes (ws : List Word) : Nat := dLen ws * dWidth ws
/-- A streamed segment: stored, and not cache-resident. -/
def dStreamed (ws : List Word) : Bool := dKind ws == 1 && !dRes ws
/-- CHECK matches the descriptor's bytes (R60). -/
def dCheckOk (ws : List Word) : Bool := crc32c (wordBytes (ws.take 15)) == ws.getD 15 0
/-- The words with CHECK computed. -/
def withCheck (ws : List Word) : List Word := ws.take 15 ++ [crc32c (wordBytes (ws.take 15))]

/-! ## Channel figures (R181) -/

/-- Group delay of the fixed part of the delay stage and the halfbands, in tDC. -/
def groupDelay (l2i : Nat) : Nat := if l2i ≤ 1 then 33 else (41 * 2^l2i) / 2 - 5
/-- Declared pipeline latency in ticks. -/
def lPipeOf (l2i : Nat) : Nat := 5 + ceilDiv (groupDelay l2i) 16
/-- The pad of the delay stage in tDC. -/
def padOf (l2i : Nat) : Nat := 16 * ceilDiv (groupDelay l2i) 16 - groupDelay l2i

namespace Dev

/-- L_pipe of a channel (R181). -/
def lPipe (d : Dev) (n : Nat) : Nat := lPipeOf (d.fld (Reg.chn_CFG n) 4 4)

/-! ## DRAM as every port sees it (R324) -/

/-- A byte of DRAM space: zero while its granule is unwiped (R324). Log entry 12, DESIGN CHOICE, safe. -/
def dramByte (d : Dev) (a : Nat) : Byte := if SMap.get false d.wiped (a / 2^20) then SMap.get 0 d.dram a else 0
def dramRead (d : Dev) (a k : Nat) : List Byte := (List.range k).map (fun i => d.dramByte (a + i))
/-- The populated granules that are unwiped (R325). -/
def wipeLeft (d : Dev) : Nat :=
  let il := d.mm.il * 1024
  let ranges := d.mm.pins.map (fun w => (w.1 / 2^20, w.2.1 / 2^20))
  let total := ranges.foldl (fun k w => k + w.2) il
  total - (d.wiped.filter (fun p => p.1 < il || ranges.any (fun w => decide (w.1 ≤ p.1 ∧ p.1 < w.1 + w.2)))).length
/-- Zero-fill an unwiped granule and mark it wiped (R324); the last one sets WIPE_DONE (R325). Log entry 12, DESIGN CHOICE, safe. -/
def wipeIn (d : Dev) (g : Nat) : Dev :=
  if SMap.get false d.wiped g then d
  else
    let d := { d with dram := d.dram.filter (fun p => p.1 / 2^20 != g), wiped := SMap.set false d.wiped g true,
                      badCw := d.badCw.filter (fun p => p.1 / 2^13 != g) }
    if d.wipeLeft = 0 then (d.setBit Reg.sec_STATUS 9 false).raise Reg.sec_EVENTS 16 else d
/-- Store bytes to DRAM space; a first write into an unwiped granule zero-fills it before (R324). -/
def dramWrite (d : Dev) (a : Nat) (bs : List Byte) : Dev :=
  let g0 := a / 2^20
  let g1 := (a + bs.length - 1) / 2^20
  let d := if bs.isEmpty then d else (List.range (g1 - g0 + 1)).foldl (fun d i => d.wipeIn (g0 + i)) d
  d.storeDram a bs

/-- The descriptor of segment `s` as it lies in the descriptor table (R59). -/
def desc (d : Dev) (s : Nat) : List Word := leWords (d.dramRead (d.mm.descAt + 64 * s) 64)

/-- The descriptor of segment `s` as tile `t` reads it: the copy locked in its descriptor cache, or the one in the table (R61). -/
def descIn (d : Dev) (t s : Nat) : List Word := (SMap.get none d.descC (t * 2^16 + s)).getD (d.desc s)
/-- The descriptor of segment `s` as channel `ch` reads it. -/
def chDesc (d : Dev) (ch s : Nat) : List Word := d.descIn (ch / 16) s

/-! ## Operands an entry reads at issue (R89) -/

/-- Register X[i] of a context. -/
def xReg (d : Dev) (c i : Nat) : Word := d.ctxW c (12 + i % 16)
def setXReg (d : Dev) (c i : Nat) (v : Word) : Dev := d.setCtxW c (12 + i % 16) v
/-- A release is held (R98). -/
def isHeld (d : Dev) (c : Nat) : Bool := d.ctxFld c 2 24 1 == 1
/-- The release stamp RS. -/
def rsOf (d : Dev) (c : Nat) : Nat := d.ctx64 c 6
/-- The generation of what an entry causes: RGEN + 1 while a release is held (R113, R209). -/
def genOf (d : Dev) (c : Nat) : Nat := if d.isHeld c then d.ctxFld c 2 28 3 + 1 else 0

/-- The requested time of a launching entry (R91), or the code of the exception it raises: 2 NO_STAMP, 7 TIME_RANGE. -/
def treqOf (d : Dev) (c n : Nat) : Except Nat Nat :=
  let time := ent n 2 0 32
  let inRange (i : Int) : Except Nat Nat := if i < 0 ∨ (2^64 : Nat) ≤ i then .error 7 else .ok i.toNat
  match ent n 0 4 2 with
  | 0 => .ok (d.ctx64 c 8)
  | 1 => inRange ((d.ctx64 c 4 : Nat) + (time : Nat))
  | 2 => inRange ((d.ctx64 c 10 : Nat) + sext 32 time)
  | _ => if d.isHeld c then inRange ((d.rsOf c : Nat) + (time : Nat)) else .error 2

/-- Whether an owner's program may stand at a program-store address (R88, R119). -/
def progIn (d : Dev) (owner : Option Nat) (a : Nat) : Bool := a < 2^20 && d.progOwner a == owner
/-- Whether a mailbox index lies in an owner's slice (R88, R116). -/
def mbIn (d : Dev) (owner : Option Nat) (i : Nat) : Bool := i < 4096 && d.mbOwner (i / 64) == owner
/-- Whether a context number lies in an owner's slice. -/
def ctxIn (d : Dev) (owner : Option Nat) (c : Nat) : Bool := c < 10240 && d.ctxOwner c == owner

/-- The checks of an entry when it is written at address `a` for an owner (R88). Only a BR that compares a mailbox word has a mailbox index.
Log entry 78, DEDUCED, unsafe. -/
def entryOk (d : Dev) (owner : Option Nat) (a n : Nat) : Bool :=
  entryFormOk a n &&
  (match ent n 0 0 4 with
   | 3 => d.progIn owner (ent n 0 12 20)
   | 5 => d.progIn owner (ent n 1 0 20) && (ent n 0 11 3 != 4 || d.mbIn owner (ent n 0 20 12))
   | 11 => d.ctxIn owner (ent n 1 0 14)
   | _ => true)

end Dev
end Sys2Proof.Machine
end

