-- ==== Sys2Proof/Machine/Mica.lean ====
section
/-! DEFINITION. What the consumers of the fabric share: taking the next firing of a task input, losing a firing at a busy
consumer (R223), and the time at which a consumer acts (R28, R31, R35). -/
namespace Sys2Proof.Machine
namespace Dev

/-- A parity mismatch stands at task input `i`: it is busy (R423). -/
def tinBad (d : Dev) (i : Nat) : Bool := d.corrupt (Reg.tin_SEL i) 32

/-- Take the oldest firing that reached task input `i`; STATE.GEN shows its generation (R236). -/
def takeFiring (d : Dev) (i : Nat) : Option (Firing × Dev) :=
  match (d.tinOf i).inbox with
  | [] => none
  | h :: r => some (h.fire, (d.updTin i (fun t => { t with inbox := r })).setFld (Reg.tin_STATE i) 4 3 h.fire.gen)

/-- A firing is lost at a busy consumer (R223): OVERRUN, its count, and the stamp of the first loss since OVERRUN was
cleared. Inputs 0 to 319 flag it in their engine too (R94, R236). `flags` are the flags that the loss sets besides. -/
def overrunWith (d : Dev) (i stamp flags : Nat) : Dev :=
  let d := if d.bit (Reg.tin_EVENTS i) 1 then d else d.wr64 (Reg.tin_OVR_FIRST_LO i) stamp
  let d := (d.raise (Reg.tin_EVENTS i) (2 + flags)).bump (Reg.tin_OVR_CNT i)
  if i < 256 then d.raise (Reg.eng_EVENTS (i / 4)) (2 ^ (8 + i % 4))
  else if i < 320 then d.raise (Reg.eng_EVENTS (i - 256)) (2 ^ 12)
  else d

/-- A firing is lost (R223). -/
def overrun (d : Dev) (i stamp : Nat) : Dev := d.overrunWith i stamp 0

/-- The time at which a consumer with declared latency `lat` acts on a firing (R28, R31, R35): stamp + LAT, or, when that is
past, or the stamp coarse or marked late, the later of it and the next tick boundary, with LATE at the input and a
TIME record. `none` where the sum exceeds 2^64 - 1, which raises TIME_RANGE (R23). -/
def actTime (d : Dev) (i lat : Nat) (f : Firing) : Option Nat × Dev :=
  let t := f.stamp + lat
  if 2^64 ≤ t then (none, d.raise Reg.time_EVENTS 64)
  else if f.coarse ∨ f.late ∨ t < d.nowT then
    let t' := max t d.nextTick
    (some t', (d.raise (Reg.tin_EVENTS i) 4).recordLate f.stamp (t' - t))
  else (some t, d)

/-- The declared latency in force at a task input. -/
def latOf (d : Dev) (i : Nat) : Nat := (d.eff (Reg.tin_LAT i)).toNat

/-- Hold an action of input `i` until its time, in order of time (R223: at most four wait). Log entry 27, DEDUCED, unsafe. -/
def addAct (d : Dev) (i : Nat) (a : Act) : Dev :=
  (d.updTin i (fun t => { t with acts := t.acts ++ [a] })).setFld (Reg.tin_STATE i) 1 3 (min 4 ((d.tinOf i).acts.length + 1))

/-- Buffered values of a task input apply when it has no action waiting (R236). -/
def applyTin (d : Dev) (i : Nat) : Dev :=
  if (d.tinOf i).acts.isEmpty then (d.settle (Reg.tin_SEL i)).settle (Reg.tin_LAT i) else d

/-- Remove an action of input `i`. -/
def dropAct (d : Dev) (i : Nat) (a : Act) : Dev :=
  ((d.updTin i (fun t => { t with acts := t.acts.erase a })).setFld (Reg.tin_STATE i) 1 3 (min 4 ((d.tinOf i).acts.length - 1))).applyTin i

/-- The earliest of a list of actions, the first of those that tie. -/
def earliest : List Act → Option Act
  | [] => none
  | a :: r => match earliest r with
    | none => some a
    | some b => if b.time < a.time then some b else some a

/-- The firing of input `i` is taken by a consumer that holds actions until stamp + LAT (R223): lost when `busy`, and
otherwise held. While device time is not valid no output action is scheduled (R35), and the firing waits. -/
def holdFiring (d : Dev) (i : Nat) (busy : Bool) (value : Nat) : Dev :=
  if !d.timeValid then d
  else
    match d.takeFiring i with
    | none => d
    | some (f, d) =>
      if busy || d.tinBad i || decide (4 ≤ (d.tinOf i).acts.length) then d.overrun i f.stamp
      else
        match d.actTime i (d.latOf i) f with
        | (none, d) => d
        | (some t, d) => d.addAct i ⟨t, f.stamp, f.gen, value⟩

end Dev
end Sys2Proof.Machine
end

