-- ==== Sys2Proof/Machine/Fabric.lean ====
section
/-! DEFINITION. The Mica event fabric (chapter 8): event channels, delivery to task inputs, groups, and the capture's log. -/
namespace Sys2Proof.Machine

/-- The gate of an event channel (R214): mode, OPEN, CLOSE, WIDTH, PERIOD, and a stamp. -/
def gatePasses (mode open_ close width period t : Nat) : Bool :=
  match mode with
  | 0 => true
  | 1 => open_ ≤ t && t < close
  | 2 => open_ ≤ t && decide ((t - open_) % period < width)
  | _ => false

/-- Two firings merge (R216, R222): the earlier stamp and its marks, and the higher generation. -/
def Firing.merge (a b : Firing) : Firing :=
  if b.stamp < a.stamp then { b with gen := max a.gen b.gen } else { a with gen := max a.gen b.gen }

/-- Of two waiting firings, the one an event channel handles first (R211): by arrival tick, stamp, source. -/
def Held.before (a b : Held) : Bool :=
  a.tick < b.tick || (a.tick == b.tick && (a.fire.stamp < b.fire.stamp || (a.fire.stamp == b.fire.stamp && a.fire.src < b.fire.src)))

/-- The first of the waiting firings. -/
def firstHeld : List Held → Option Held
  | [] => none
  | a :: r => match firstHeld r with
    | none => some a
    | some b => if b.before a then some b else some a

namespace Dev

/-! ## Groups (R213, R219) -/

/-- The state of a group at a stamp, and whether the stamp precedes the kept history (R213). Log entry 59, DEDUCED, unsafe. -/
def groupAt (d : Dev) (g t : Nat) : Bool × Bool :=
  let h := (d.grpOf g).history
  let present := d.bit (Reg.grp_STATE g) 0
  match h.find? (fun c => decide (c.1 ≤ t)) with
  | some c => (c.2, false)
  | none => if h.length = 4 then (present, true) else if h.isEmpty then (present, false) else (true, false)

/-- Actions of a group that await their time: firings at its two inputs and host commands (R219). -/
def groupWaiting (d : Dev) (g : Nat) : Nat :=
  (d.tinOf (436 + g)).acts.length + (d.tinOf (468 + g)).acts.length + (d.grpOf g).cmds.length

/-- STATE.WAITING of a group. -/
def showWaiting (d : Dev) (g : Nat) : Dev := d.setFld (Reg.grp_STATE g) 2 3 (min 4 (d.groupWaiting g))

/-- A group takes a state at device time `t`; a change enters the kept history (R213). Log entry 59, DEDUCED, unsafe. -/
def setGroup (d : Dev) (g t : Nat) (on_ : Bool) : Dev :=
  if d.bit (Reg.grp_STATE g) 0 = on_ then d
  else (d.setBit (Reg.grp_STATE g) 0 on_).updGrp g (fun x => { x with history := ((t, on_) :: x.history).take 4 })

/-! ## Event channels -/

/-- The divider count c of an event channel. -/
def ecCount (d : Dev) (n : Nat) : Nat := d.fld (Reg.ec_STATUS n) 2 16
def setCount (d : Dev) (n c : Nat) : Dev := d.setFld (Reg.ec_STATUS n) 2 16 c
/-- STATUS.HELD. -/
def showHeld (d : Dev) (n : Nat) : Dev := d.setBit (Reg.ec_STATUS n) 1 (!(d.ecOf n).hold.isEmpty)
/-- DELAY in force. -/
def ecDelay (d : Dev) (n : Nat) : Nat := bitsOf (d.eff (Reg.ec_DELAY n)).toNat 0 12

/-- The buffered registers of an event channel (R218). -/
def ecBuffered (n : Nat) : List Nat :=
  [Reg.ec_CFG n, Reg.ec_CTL n, Reg.ec_DIV n, Reg.ec_DELAY n, Reg.ec_GATE_OPEN_LO n, Reg.ec_GATE_OPEN_HI n,
   Reg.ec_GATE_CLOSE_LO n, Reg.ec_GATE_CLOSE_HI n, Reg.ec_GATE_WIDTH n, Reg.ec_GATE_PERIOD n]

/-- Buffered values apply when c = 0 and the hold line is empty, and at once while the channel is disabled (R218; log entry 33, DESIGN CHOICE,
unsafe); an applied DIV or PHASE loads the count (R215). -/
def applyEc (d : Dev) (n : Nat) : Dev :=
  if d.bit (Reg.ec_CTL n) 22 && (d.ecCount n != 0 || !(d.ecOf n).hold.isEmpty) then d
  else
    let newDiv := d.held (Reg.ec_DIV n)
    let d := (ecBuffered n).foldl (fun d a => d.settle a) d
    if newDiv then d.setCount n (d.fld (Reg.ec_DIV n) 16 16) else d

/-- An output firing enters the hold line (R216, R217): it merges with one that left the divider in the same tick, or into
the newest of 64. -/
def holdOut (d : Dev) (n due_ : Nat) (f : Firing) : Dev :=
  let h := (d.ecOf n).hold
  match h.getLast? with
  | some l =>
    if l.tick = due_ ∨ 64 ≤ h.length then
      ((d.updEc n (fun e => { e with hold := h.dropLast ++ [{ l with fire := l.fire.merge f }] })).raise (Reg.ec_EVENTS n) 2).bump (Reg.ec_COAL_CNT n)
    else (d.updEc n (fun e => { e with hold := h ++ [⟨f, due_⟩] })).showHeld n
  | none => (d.updEc n (fun e => { e with hold := [⟨f, due_⟩] })).showHeld n

/-! ## Delivery -/

/-- The task inputs whose selection in force names event channel `n` (R221). -/
def selecting (d : Dev) (n : Nat) : List Nat :=
  (List.range 512).filter (fun i =>
    let s := (d.eff (Reg.tin_SEL i)).toNat
    (bitsOf s 8 1 == 1 && bitsOf s 0 8 == n) || (bitsOf s 18 1 == 1 && bitsOf s 10 8 == n))

/-- A firing reaches a task input in a tick; it merges with one that reached it in the same tick (R222). -/
def reach (d : Dev) (i tick : Nat) (f : Firing) : Dev :=
  let box := (d.tinOf i).inbox
  match box.getLast? with
  | some l =>
    if l.tick = tick then
      let d := d.updTin i (fun t => { t with inbox := box.dropLast ++ [{ l with fire := l.fire.merge f }] })
      (d.wrN (Reg.tin_COALESCE i) (min 255 (d.rdN (Reg.tin_COALESCE i) + 1))).raise (Reg.tin_EVENTS i) 1
    else d.updTin i (fun t => { t with inbox := box ++ [⟨f, tick⟩] })
  | none => d.updTin i (fun t => { t with inbox := [⟨f, tick⟩] })

/-- The event interrupt of a function (R229, R286): outside a hold-off it is signalled at once and starts one. -/
def eventIrq (d : Dev) (fn : Nat) : Dev :=
  if SMap.get false d.host.evtHold fn then { d with host := { d.host with evtPend := SMap.set false d.host.evtPend fn true } }
  else
    let d := d.signal fn (d.fld (fnKey fn Reg.host_IRQ) 0 7)
    { d with host := { d.host with evtHold := SMap.set false d.host.evtHold fn true } }

/-- Where a capture's log lies in its memory, behind the six on-chip buffers. -/
def logBase (k : Nat) : Nat := 6 * 2^20 + 4096 * k

/-- The log of capture `k` takes a firing that event channel `n` delivered (R261). -/
def logFiring (d : Dev) (k n : Nat) (f : Firing) : Dev :=
  let c := d.capOf k
  let st := d.fld (Reg.cap_STATUS k) 0 2
  if (st = 1 ∨ st = 2) ∧ (c.logA = some n ∨ c.logB = some n) then
    let m := d.fld (Reg.cap_LOG_N k) 0 9
    if 256 ≤ m then d.raise (Reg.cap_EVENTS k) 64
    else
      let entry := leBytes f.stamp 8 ++ [BitVec.ofNat 8 n, BitVec.ofNat 8 f.gen] ++ List.replicate 6 0
      ({ d with capBuf := SMap.store 0 d.capBuf (logBase k + 16 * m) entry }).wrN (Reg.cap_LOG_N k) (m + 1)
  else d

/-- An event channel delivers a firing (R211 step 8, R222, R229, R261): inputs, count, stamp, generation, flag and
interrupt, and the captures' logs. `tick` is the tick it is due in. -/
def deliverFiring (d : Dev) (n tick : Nat) (f : Firing) : Dev :=
  let d := (d.selecting n).foldl (fun d i => d.reach i tick f) d
  let d := (d.bump (Reg.ec_FIRE_CNT n)).wr64 (Reg.ec_LAST_LO n) f.stamp
  let d := d.setFld (Reg.ec_STATUS n) 18 3 f.gen
  let a := Reg.evt_FLAG (n / 16)
  let stood := d.bit a (n % 16)
  let d := d.raise a (2 ^ (n % 16))
  let d := if !stood && d.bit (Reg.ec_CTL n) 19 then d.eventIrq (ownerFn (d.ecOwner n)) else d
  (List.range 6).foldl (fun d k => d.logFiring k n f) d

end Dev

/-- EVENT_CHANNEL_FIRING (R211 to R217): the channel handles the next firing that reached it in an earlier tick. -/
def eventChannelFiringD (n : Fin 256) (d : Dev) : Dev :=
  match firstHeld ((d.ecOf n.val).inbox.filter (fun h => decide (h.tick < d.nowT / 16))) with
  | none => d
  | some h =>
    let f := h.fire
    let d := d.updEc n.val (fun e => { e with inbox := e.inbox.erase h })
    let ctl := (d.eff (Reg.ec_CTL n.val)).toNat
    if !d.bit (Reg.ec_CTL n.val) 22 || d.corrupt (Reg.ec_CFG n.val) 128 then d
    else
      let (on_, old) := d.groupAt (bitsOf ctl 14 5) f.stamp
      let d := if old then d.raise (Reg.ec_EVENTS n.val) 4 else d
      let pass := gatePasses (bitsOf ctl 20 2) (d.eff64 (Reg.ec_GATE_OPEN_LO n.val)) (d.eff64 (Reg.ec_GATE_CLOSE_LO n.val))
        (d.eff (Reg.ec_GATE_WIDTH n.val)).toNat (d.eff (Reg.ec_GATE_PERIOD n.val)).toNat f.stamp
      if !on_ || !pass then d.bump (Reg.ec_GATED_CNT n.val)
      else
        let c := d.ecCount n.val
        if c = 0 then
          (d.setCount n.val (bitsOf (d.eff (Reg.ec_DIV n.val)).toNat 0 16)).holdOut n.val (h.tick + d.ecDelay n.val) f
        else d.setCount n.val (c - 1)

/-- DELIVER (R211, R217): the oldest held firing whose DELAY is over is delivered, once no firing waits that could still
merge with it. -/
def deliverD (n : Fin 256) (d : Dev) : Dev :=
  let e := d.ecOf n.val
  match e.hold with
  | [] => d
  | h :: r =>
    if d.corrupt (Reg.ec_CFG n.val) 128 then d.updEc n.val (fun e => { e with hold := [] })
    else if d.nowT / 16 ≤ h.tick ∨ e.inbox.any (fun x => decide (x.tick + d.ecDelay n.val ≤ h.tick)) then d
    else
      let d := (d.updEc n.val (fun e => { e with hold := r })).showHeld n.val
      d.deliverFiring n.val h.tick h.fire

/-- EC_APPLY (R218). -/
def ecApplyD (n : Fin 256) (d : Dev) : Dev := d.applyEc n.val

/-- GRP_CMD (R219, R237): with GO the change is held until AT; where four wait it is refused. -/
def grpCmdD (fn : Fin 13) (g : Fin 32) (v : Word) (d : Dev) : Dev :=
  let a := Reg.grp_CMD g.val
  let owner := Dev.ownerField (d.fld (Reg.grp_STATE g.val) 5 4) (d.bit (Reg.grp_STATE g.val) 9)
  d.access fn.val a owner (fun d =>
    if bitsOf v.toNat 1 1 = 0 then (d.wrN a (bitsOf v.toNat 0 1)).endParity a
    else if 4 ≤ d.groupWaiting g.val then d.refuse fn.val a 5
    else
      let d := (d.wrN a (bitsOf v.toNat 0 1)).endParity a
      let t := d.rd64 (Reg.grp_AT_LO g.val)
      (d.updGrp g.val (fun x => { x with cmds := x.cmds ++ [(t, bitsOf v.toNat 0 1 == 1)] })).showWaiting g.val)

/-- A firing at one of a group's two inputs schedules its change (R219). -/
def Dev.groupFiring (d : Dev) (g i value : Nat) : Dev := (d.holdFiring i (decide (4 ≤ d.groupWaiting g)) value).showWaiting g

/-- GROUP_ENABLE (R219). -/
def groupEnableD (g : Fin 32) (d : Dev) : Dev := d.groupFiring g.val (436 + g.val) 1

/-- GROUP_DISABLE (R219). -/
def groupDisableD (g : Fin 32) (d : Dev) : Dev := d.groupFiring g.val (468 + g.val) 0

/-- GROUP_CHANGE (R219): all changes of the group at its earliest due time take effect, and a disable wins over an enable
at the same time. -/
def groupChangeD (g : Fin 32) (d : Dev) : Dev :=
  let en := (d.tinOf (436 + g.val)).acts
  let dis := (d.tinOf (468 + g.val)).acts
  let cmds := (d.grpOf g.val).cmds
  let all := en.map (fun a => (a.time, true)) ++ dis.map (fun a => (a.time, false)) ++ cmds
  match all with
  | [] => d
  | x :: r =>
    let t := r.foldl (fun m y => min m y.1) x.1
    if !d.due t ∨ !d.timeValid then d
    else
      let value := !(all.any (fun y => y.1 == t && !y.2))
      let d := (en.filter (fun a => a.time == t)).foldl (fun d a => d.dropAct (436 + g.val) a) d
      let d := (dis.filter (fun a => a.time == t)).foldl (fun d a => d.dropAct (468 + g.val) a) d
      let d := d.updGrp g.val (fun x => { x with cmds := x.cmds.filter (fun c => c.1 != t) })
      (d.setGroup g.val t value).showWaiting g.val

/-- EVENT_CHANNEL_FIRING (R211). -/
def execEventChannelFiring (n : Fin 256) (s : State) : Host.Outcome State Fault Refusal :=
  s.onDev (eventChannelFiringD n)

/-- DELIVER (R217). -/
def execDeliver (n : Fin 256) (s : State) : Host.Outcome State Fault Refusal :=
  s.onDev (deliverD n)

/-- EC_APPLY (R218). -/
def execEcApply (n : Fin 256) (s : State) : Host.Outcome State Fault Refusal :=
  s.onDev (ecApplyD n)

/-- GRP_CMD (R219). -/
def execGrpCmd (fn : Fn) (g : Fin 32) (v : Word) (s : State) : Host.Outcome State Fault Refusal :=
  s.onDev (grpCmdD fn g v)

/-- GROUP_ENABLE (R219). -/
def execGroupEnable (g : Fin 32) (s : State) : Host.Outcome State Fault Refusal :=
  s.onDev (groupEnableD g)

/-- GROUP_DISABLE (R219). -/
def execGroupDisable (g : Fin 32) (s : State) : Host.Outcome State Fault Refusal :=
  s.onDev (groupDisableD g)

/-- GROUP_CHANGE (R219). -/
def execGroupChange (g : Fin 32) (s : State) : Host.Outcome State Fault Refusal :=
  s.onDev (groupChangeD g)

end Sys2Proof.Machine
end

