-- ==== Sys2Proof/Machine/Triggers.lean ====
section
/-! DEFINITION. Trigger inputs (R243 to R246): crossings, settling and re-arming. -/
namespace Sys2Proof.Machine
namespace Dev

/-- What the comparator of input `m` showed at a stamp (R245): the level after its last change by then, the opposite of the
oldest kept change before it, and the present level where it has not changed. -/
def comparatorAt (d : Dev) (m t : Nat) : Bool :=
  let h := (d.tiOf m).hist
  match h.find? (fun c => decide (c.1 ≤ t)) with
  | some c => c.2
  | none => match h.getLast? with
    | some c => !c.2
    | none => d.bit (Reg.ti_STATUS m) 0

/-- HMODE and ONESHOT in force. -/
def tiHmode (d : Dev) (m : Nat) : Nat := d.effFld (Reg.ti_CFG m) 12 2
def tiOneshot (d : Dev) (m : Nat) : Bool := d.effFld (Reg.ti_CFG m) 14 1 == 1
/-- HOLD_T in force. -/
def tiHoldT (d : Dev) (m : Nat) : Nat := d.eff64 (Reg.ti_HOLD_T_LO m) % 2^40

/-- The end of a hold-off (R246): with ONESHOT it disarms the input. -/
def endHoldOff (d : Dev) (m : Nat) : Dev :=
  let d := d.setBit (Reg.ti_STATUS m) 2 false
  if d.tiOneshot m then d.setBit (Reg.ti_STATUS m) 1 false else d

/-- A hold-off by time whose end lies at or before `t` is over. -/
def holdOffBy (d : Dev) (m t : Nat) : Dev :=
  if d.bit (Reg.ti_STATUS m) 2 && d.tiHmode m == 1 && decide ((d.tiOf m).tacc.getD 0 + d.tiHoldT m ≤ t) then d.endHoldOff m else d

/-- The stamp that a crossing at device time `t` would take at input `m` (R244). -/
def tiStamp (d : Dev) (m t : Nat) : Nat := t - d.effFld (Reg.ti_ADJ m) 0 10

/-- The hold-off that an accepted edge begins (R246). -/
def beginHoldOff (d : Dev) (m t : Nat) : Dev :=
  let n := (d.eff (Reg.ti_HOLD_N m)).toNat
  let d := (d.updTi m (fun (x : TiSt) => { x with tacc := some t, left := n })).setBit (Reg.ti_STATUS m) 2 true
  if d.tiHmode m = 0 ∨ (d.tiHmode m = 2 ∧ n = 0) then d.endHoldOff m else d

/-- Test 2 of R245: whether a crossing with stamp `t` qualifies. -/
def qualifies (d : Dev) (m t : Nat) : Bool :=
  let cfg := (d.eff (Reg.ti_CFG m)).toNat
  match bitsOf cfg 4 2 with
  | 0 => true
  | 1 => d.comparatorAt (bitsOf cfg 8 4) t == (bitsOf cfg 6 1 == 1)
  | _ => decide (d.eff64 (Reg.ti_Q_OPEN_LO m) ≤ t ∧ t < d.eff64 (Reg.ti_Q_CLOSE_LO m))

/-- A crossing is accepted (R245): it fires TIm's source of its polarity with the stamp, unless an accepted edge of that
polarity lies less than a tick before it, with which it merges. A rising edge qualifies a SYNC_QUAL time-set (R38) that was armed as such while MODE and QUAL_TI still say so (log entry 84,
DESIGN CHOICE, unsafe). Log entry 56, DESIGN CHOICE, unsafe. -/
def acceptEdge (d : Dev) (m t : Nat) (rising coarse : Bool) : Dev :=
  let last := if rising then (d.tiOf m).rise else (d.tiOf m).fall
  let merges := match last with
    | some t0 => decide (t < t0 + 16)
    | none => false
  let d := d.beginHoldOff m t
  let d := (d.wr64 (Reg.ti_LAST_LO m) t).raise (Reg.ti_EVENTS m) (if merges then 9 else 1)
  let qual := rising && d.bit Reg.time_STATUS 4 && d.time.mode == 2 && d.fld Reg.time_SET_CTL 0 2 == 2 && d.fld Reg.time_SET_CTL 4 4 == m && d.time.qualAt.isNone
  let d := if qual then { d with time := { d.time with qualAt := some d.time.refN } } else d
  if merges then d.bump (Reg.ti_MERGE_CNT m)
  else
    let d := d.updTi m (fun (x : TiSt) => if rising then { x with rise := some t } else { x with fall := some t })
    d.fireAs (832 + 2 * m + (if rising then 0 else 1)) t 0 coarse false

/-- The registers of a trigger input that a write of an enabled one changes at the next tick boundary (R243, R263). -/
def tiBuffered (m : Nat) : List Nat :=
  [Reg.ti_CFG m, Reg.ti_LEVEL m, Reg.ti_ADJ m, Reg.ti_HOLD_T_LO m, Reg.ti_HOLD_T_LO m + 4, Reg.ti_HOLD_N m, Reg.ti_Q_OPEN_LO m, Reg.ti_Q_OPEN_LO m + 4,
   Reg.ti_Q_CLOSE_LO m, Reg.ti_Q_CLOSE_LO m + 4]

/-- What the host wrote of a trigger input applies (R246, R263, R415): EN arms it for crossings from the next tick boundary on, its end disarms
it, and with HMODE 0 it is in no hold-off; a new LEVEL or HYST starts the 1 µs in which crossings are ignored (R243). Log entry 74, DESIGN CHOICE, unsafe. -/
def applyTi (d : Dev) (m : Nat) : Dev :=
  let before := d.effFld (Reg.ti_CFG m) 0 1
  let d := if d.held (Reg.ti_LEVEL m) then
      (d.setBit (Reg.ti_STATUS m) 3 true).updTi m (fun (x : TiSt) => { x with settle := d.nowT + d.nsToT 1000 })
    else d
  let d := (tiBuffered m).foldl (fun d a => d.settle a) d
  let after := d.effFld (Reg.ti_CFG m) 0 1
  let d := if before = after then d
    else if after = 1 then (d.setBit (Reg.ti_STATUS m) 1 true).updTi m (fun (x : TiSt) => { x with armAt := (d.nowT / 16 + 1) * 16 })
    else (d.setBit (Reg.ti_STATUS m) 1 false).setBit (Reg.ti_STATUS m) 2 false
  if d.bit (Reg.ti_STATUS m) 2 && d.tiHmode m == 0 then d.endHoldOff m else d

/-- At a tick boundary the trigger inputs take what they hold. Log entry 74, DESIGN CHOICE, unsafe. -/
def applyTis (d : Dev) : Dev :=
  (List.range 16).foldl (fun (d : Dev) m => if (tiBuffered m).any (fun a => d.held a) then d.applyTi m else d) d

end Dev

/-- TRIGGER_CROSSING (R244 to R246): the crossing is stamped less ADJ, and passes the tests of R245 in their order. Log entry 56, DESIGN CHOICE, unsafe. -/
def triggerCrossingD (m : Fin 16) (rising : Bool) (lane : Fin 16) (d0 : Dev) : Dev :=
  let i := m.val
  let d := d0
  let (t0, coarse) := d.stampAt lane.val
  let t := d.tiStamp i t0
  let d := d.setBit (Reg.ti_STATUS i) 0 rising
  let d := d.updTi i (fun (x : TiSt) => { x with hist := ((t, rising) :: x.hist).take 64 })
  let cfg := (d.eff (Reg.ti_CFG i)).toNat
  if d0.standby || d.bit (Reg.ti_STATUS i) 3 || bitsOf cfg 0 1 == 0 || bitsOf cfg (if rising then 1 else 2) 1 == 0 || d.corrupt (Reg.ti_CFG i) 128 then d
  else if !d.qualifies i t then (d.raise (Reg.ti_EVENTS i) 4).bump (Reg.ti_QFAIL_CNT i)
  else
    let d := d.holdOffBy i t
    let holding := d.bit (Reg.ti_STATUS i) 2
    if holding || !d.bit (Reg.ti_STATUS i) 1 || decide (t < (d.tiOf i).armAt) then
      let d := (d.raise (Reg.ti_EVENTS i) 2).bump (Reg.ti_MISSED_CNT i)
      if holding && d.tiHmode i == 2 then
        let d := d.updTi i (fun (x : TiSt) => { x with left := x.left - 1 })
        if (d.tiOf i).left = 0 then d.endHoldOff i else d
      else d
    else d.acceptEdge i t rising coarse

/-- LEVEL_SETTLE (R243): 1 µs after a new LEVEL or HYST the input takes crossings again. -/
def levelSettleD (m : Fin 16) (d : Dev) : Dev :=
  if d.nowT < (d.tiOf m.val).settle then d else d.setBit (Reg.ti_STATUS m.val) 3 false

/-- The owner that EVT.SRC_OWN names for a source (R210). -/
def Dev.srcOwner (d : Dev) (s : Nat) : Option Nat := Dev.ownerField (d.fld (Reg.srcOwn_OWN s) 0 4) (d.bit (Reg.srcOwn_OWN s) 4)

/-- TRIGGER_ARM (R246): a write of 1 to CTL.ARM arms the input for crossings from the next tick boundary on. -/
def triggerArmD (fn : Fin 13) (m : Fin 16) (d : Dev) : Dev :=
  let i := m.val
  d.access fn.val (Reg.ti_CTL i) (d.srcOwner (832 + 2 * i)) (fun d =>
    let t := (d.nowT / 16 + 1) * 16
    let d := d.holdOffBy i (d.tiStamp i d.nowT)
    if d.bit (Reg.ti_STATUS i) 1 then d
    else (d.setBit (Reg.ti_STATUS i) 1 true).updTi i (fun (x : TiSt) => { x with armAt := t }))

/-- TRIGGER_CROSSING (R245). -/
def execTriggerCrossing (m : Fin 16) (rising : Bool) (lane : Fin 16) (s : State) : Host.Outcome State Fault Refusal :=
  s.onDev (triggerCrossingD m rising lane)

/-- LEVEL_SETTLE (R243). -/
def execLevelSettle (m : Fin 16) (s : State) : Host.Outcome State Fault Refusal :=
  s.onDev (levelSettleD m)

/-- TRIGGER_ARM (R246). -/
def execTriggerArm (fn : Fn) (m : Fin 16) (s : State) : Host.Outcome State Fault Refusal :=
  s.onDev (triggerArmD fn m)

end Sys2Proof.Machine
end

