-- ==== Sys2Proof/Machine/Posts.lean ====
section
/-! DEFINITION. Remote endpoints, the result mailboxes and doorbells (R230 to R234). -/
namespace Sys2Proof.Machine
namespace Dev

/-- BAR2 and BAR4 answer once the boot has come to START phase and outside STANDBY (R299, R369). -/
def barAwake (d : Dev) : Bool := decide (2 ≤ d.startPhase) && !d.recovery && !d.standby

/-- Count one in a function's own copy of a counter of EVT and set a flag of EVT.EVENTS (R231, R233). Log entry 34, DESIGN CHOICE, unsafe. -/
def evtCount (d : Dev) (fn cnt mask : Nat) : Dev := (d.bump (fnKey fn cnt)).raise Reg.evt_EVENTS mask

/-- A BAR4 form that a write covers in part is ignored and counted (R230). -/
def narrowPost (d : Dev) (fn : Nat) : Dev := d.evtCount fn Reg.evt_NARROW_CNT 32

/-- Endpoint `e` fires its RX source with a stamp (R231): RX_LAST shows the post. -/
def postFires (d : Dev) (fn e stamp gen : Nat) (coarse : Bool) : Dev :=
  let r := d.fld (Reg.ep_EP e) 0 4
  let d := ((d.wrN (Reg.rxLast_EP r) e).wrN (Reg.rxLast_AT_LO r) stamp).wrN (Reg.rxLast_AT_HI r) (stamp / 2^32)
  (d.bump (fnKey fn Reg.evt_POST_CNT)).fireAs (986 + r) stamp gen coarse false

/-- A BAR4 post to endpoint `e` (R231): the entry is valid and allows the route, and the function owns it. `own` is the stamp a
stamped post carries. -/
def post (d : Dev) (fn e gen : Nat) (own : Option Nat) : Dev :=
  let x := d.rdN (Reg.ep_EP e)
  let now := d.nowT
  let coarse := !d.timeValid
  if bitsOf x 4 1 = 0 ∨ bitsOf x 5 1 = 0 ∨ (own.isSome ∧ bitsOf x 7 1 = 0) then d.evtCount fn Reg.evt_BAD_EP_CNT 2
  else if !sees fn (ownerField (bitsOf x 8 4) (bitsOf x 12 1 == 1)) then d.evtCount fn Reg.evt_NOT_OWNED_CNT 8
  else match own with
    | none => d.postFires fn e now gen coarse
    | some t => if now < t then (d.evtCount fn Reg.evt_FUTURE_CNT 4).postFires fn e now gen coarse else d.postFires fn e t gen false

/-- Take a write of `data` at byte offset `off` of a region form by form, in ascending order, forms `w` bytes long and `n` in the
region: `whole` is what a form that is covered whole does, with its number and bytes, and a form covered in part is counted. -/
def forms (d : Dev) (fn w n off : Nat) (data : List Byte) (whole : Dev → Nat → List Byte → Dev) : Dev :=
  if data.isEmpty then d
  else
    let first := off / w
    let last := (off + data.length - 1) / w
    (List.range (last - first + 1)).foldl (fun (d : Dev) (j : Nat) =>
      let i := first + j
      if n ≤ i then d
      else if off ≤ i * w ∧ i * w + w ≤ off + data.length then whole d i ((data.drop (i * w - off)).take w)
      else d.narrowPost fn) d

end Dev

/-- What a read of the 32 bits at BAR4 offset `off` gives function `fn` (R230, R233, R272): a mailbox word, which for a virtual function is 0 outside its
blocks, and 0 elsewhere. The host reads it; no command of the table does. -/
def Dev.bar4Read (d : Dev) (fn off : Nat) : Word :=
  if !d.barAwake ∨ 0x4000 ≤ off then 0
  else if fn ≠ 0 ∧ d.mbOwner (off / 4 / 64) ≠ some (fn - 1) then 0
  else SMap.get 0 d.mailbox (off / 4)

/-- MAILBOX_WRITE (R230, R233): every word written whole lands, in a virtual function only within its blocks. -/
def mailboxWriteD (fn : Fin 13) (off : BitVec 14) (data : List Byte) (d : Dev) : Dev :=
  if !d.barAwake then d
  else
    d.forms fn.val 4 4096 off.toNat data (fun (d : Dev) i bs =>
      if fn.val ≠ 0 ∧ d.mbOwner (i / 64) ≠ some (fn.val - 1) then d.evtCount fn.val Reg.evt_NOT_OWNED_CNT 8
      else { d with mailbox := SMap.set 0 d.mailbox i (BitVec.ofNat 32 (leNat bs)) })

/-- UNSTAMPED_POST (R230, R231): a word at 4e posts to endpoint e with the generation of its low bits. -/
def unstampedPostD (fn : Fin 13) (off : BitVec 14) (data : List Byte) (d : Dev) : Dev :=
  if !d.barAwake then d
  else d.forms fn.val 4 4096 off.toNat data (fun (d : Dev) i bs => d.post fn.val i (leNat bs % 8) none)

/-- STAMPED_POST (R230, R231): sixteen bytes at 16e post to endpoint e with the stamp and generation they hold. -/
def stampedPostD (fn : Fin 13) (off : BitVec 16) (data : List Byte) (d : Dev) : Dev :=
  if !d.barAwake then d
  else
    d.forms fn.val 16 4096 off.toNat data (fun (d : Dev) i bs =>
      d.post fn.val i (leNat ((bs.drop 8).take 1) % 8) (some (leNat (bs.take 8))))

/-- DOORBELL (R234): each set bit fires its source; a bit whose doorbell the function does not own is ignored and counted. -/
def doorbellD (fn : Fin 13) (v : Word) (d : Dev) : Dev :=
  d.access fn.val Reg.evt_DOORBELL (Dev.fnOwner fn.val) (fun d =>
    (List.range 16).foldl (fun (d : Dev) (k : Nat) =>
      if bitsOf v.toNat k 1 = 0 then d
      else if !Dev.sees fn.val (d.srcOwner (1002 + k)) then d.evtCount fn.val Reg.evt_NOT_OWNED_CNT 8
      else d.fireNow (1002 + k)) d)

/-- MAILBOX_WRITE (R230). -/
def execMailboxWrite (fn : Fn) (off : BitVec 14) (data : List Byte) (s : State) : Host.Outcome State Fault Refusal :=
  s.onDev (mailboxWriteD fn off data)

/-- UNSTAMPED_POST (R231). -/
def execUnstampedPost (fn : Fn) (off : BitVec 14) (data : List Byte) (s : State) : Host.Outcome State Fault Refusal :=
  s.onDev (unstampedPostD fn off data)

/-- STAMPED_POST (R231). -/
def execStampedPost (fn : Fn) (off : BitVec 16) (data : List Byte) (s : State) : Host.Outcome State Fault Refusal :=
  s.onDev (stampedPostD fn off data)

/-- DOORBELL (R234). -/
def execDoorbell (fn : Fn) (v : Word) (s : State) : Host.Outcome State Fault Refusal :=
  s.onDev (doorbellD fn v)

end Sys2Proof.Machine
end

