-- ==== Sys2Proof/Machine/Frames.lean ====
section
/-! DEFINITION. Phase frames (chapter 6): a frame at a device time, the frame actions, host frame commands, frame inputs and
frame queries. -/
namespace Sys2Proof.Machine

/-- Phase and frequency of a frame at device time `t`, each modulo 2^48 (R153). Log entry 9, DEDUCED, safe. -/
def FrameRec.eval (r : FrameRec) (t : Nat) : Nat × Nat :=
  let d : Int := (t : Int) - (r.epoch : Int)
  let rate : Int := sext 32 r.rate
  (toBits 48 ((r.phase : Int) + r.freq * d + rate * (d * (d - 1) / 2)), toBits 48 ((r.freq : Int) + rate * d))

/-- A frame after an action at epoch time `t` (R155): 0 SETF, 1 SETP, 2 ADDP, 3 SETC, 4 CHOFF, 5 INIT. An action earlier
than the frame's epoch applies at the epoch (R157). Log entry 9, DEDUCED, safe. -/
def FrameRec.act (r : FrameRec) (fact v v2 t : Nat) : FrameRec :=
  let t := max t r.epoch
  let (ph, fr) := r.eval t
  match fact with
  | 0 => { freq := v % 2^48, phase := ph, epoch := t, rate := r.rate }
  | 1 => { freq := fr, phase := v % 2^48, epoch := t, rate := r.rate }
  | 2 => { freq := fr, phase := (ph + v) % 2^48, epoch := t, rate := r.rate }
  | 3 => { freq := fr, phase := ph, epoch := t, rate := v % 2^32 }
  | 4 => { freq := fr, phase := ph, epoch := t, rate := 0 }
  | _ => { freq := v % 2^48, phase := v2 % 2^48, epoch := t, rate := 0 }

namespace Dev

/-- The pending actions of frame `f` of a channel. -/
def actsOn (d : Dev) (ch f : Nat) : List FrAct := (d.chanOf ch).frActs.filter (fun a => a.frame == f)

/-- An action takes its place behind those that reached the channel before it; at one epoch time entries come before frame inputs, and those
in the order of their numbers (R157, R226). -/
def insertAct (x : FrAct) : List FrAct → List FrAct
  | [] => [x]
  | y :: r => if (y :: r).all (fun y => y.t == x.t && decide (x.prio < y.prio)) then x :: y :: r else y :: insertAct x r

/-- Each action with its effective time, which is no earlier than that of the action before it (R157). Log entry 26, DEDUCED, unsafe. -/
def withEff (m : Nat) : List FrAct → List (Nat × FrAct)
  | [] => []
  | a :: r => (max m a.teff, a) :: withEff (max m a.teff) r

/-- The host's action comes after every other with an effective time up to its own (R11, R157). -/
def hostAfter (l : List (Nat × FrAct)) (h : FrAct) : List (Nat × FrAct) :=
  l.takeWhile (fun p => decide (p.1 ≤ h.teff)) ++ (h.teff, h) :: l.dropWhile (fun p => decide (p.1 ≤ h.teff))

/-- Actions on one frame in the order in which they apply, each with its effective time (R157, R226). Log entry 26, DEDUCED, unsafe. -/
def actOrder (as : List FrAct) : List (Nat × FrAct) :=
  let others := (sortBy (fun a b => decide (a.arr ≤ b.arr)) (as.filter (fun a => a.prio != 100))).foldl (fun l x => insertAct x l) []
  (as.filter (fun a => a.prio == 100)).foldl hostAfter (withEff 0 others)

/-- The action that a FRAME launch brings to frame `f` of a channel, once it is accepted (R93). -/
def actOfLaunch (ch f : Nat) (l : Launch) : Option FrAct := match l.kind with
  | .frame fact fr v =>
    if l.accepted && l.chans.contains ch && fr == f then
      some { prio := 0, fact := fact, frame := f, v := v, v2 := 0, t := l.treq, teff := l.teff, isLaunch := true, arr := l.arr }
    else none
  | _ => none

/-- The actions that have reached frame `f` of a channel and await their time, launches among them, in the order in which they apply, each with
its effective time (R93, R157). -/
def frOrder (d : Dev) (ch f : Nat) : List (Nat × FrAct) := actOrder (d.actsOn ch f ++ d.launches.filterMap (actOfLaunch ch f))

/-- A frame as the samples at device time `t` see it (R93, R156, R159): the record that stood then, where an action has replaced it since, or
else the present one with every pending action that takes effect by `t`. -/
def frameAt (d : Dev) (ch f t : Nat) : FrameRec :=
  match (d.chanOf ch).frHist.reverse.find? (fun h => h.1 == f && decide (t < h.2.1)) with
  | some h => h.2.2
  | none =>
    ((d.frOrder ch f).filter (fun p => decide (p.1 ≤ t))).foldl (fun r p => r.act p.2.fact p.2.v p.2.v2 p.2.t) (d.frameOf ch f)

/-- How many actions of frame input `k` await their time (R223, R236): each stands on every channel of the input's set. Log entry 27, DEDUCED, unsafe. -/
def fiWaiting (d : Dev) (k : Nat) : Nat :=
  d.chan.foldl (fun (m : Nat) (p : Nat × Chan) => max m (p.2.frActs.filter (fun a => a.prio == k + 1)).length) 0

/-- Buffered values of frame input `k` apply when none of its actions waits (R236). -/
def applyFi (d : Dev) (k : Nat) : Dev :=
  if d.fiWaiting k ≠ 0 then d
  else [Reg.fi_CFG k, Reg.fi_VAL_LO k, Reg.fi_VAL_HI k, Reg.fi_CHSET k 0, Reg.fi_CHSET k 1, Reg.fi_CHSET k 2,
        Reg.tin_SEL (368 + k), Reg.tin_LAT (368 + k)].foldl (fun d a => d.settle a) d

/-- The record of frame `f` is replaced by `r` from `t` on; the old one stays for the samples before `t` that the filters and the delay still
hold (R156, R159). -/
def replaceFrame (d : Dev) (ch f t : Nat) (r : FrameRec) : Dev :=
  let old := d.frameOf ch f
  (d.setFrame ch f r).updChan ch (fun c =>
    { c with frHist := (f, t, old) :: c.frHist.filter (fun h => decide (t < h.2.1 + 1040 + 64 * d.chI ch)) })

/-- The first pending action on frame `f` takes effect, if it is due and is the action `fact` (R155 to R157): the record is
replaced, and a late or disordered action is flagged. A launch that was accepted before an action applies before it, and is awaited (R157). Log entry 26, DEDUCED, unsafe. -/
def takeAction (d : Dev) (ch f fact : Nat) : Dev :=
  match (d.frOrder ch f).head? with
  | none => d
  | some (teff, a) =>
    if !(d.actsOn ch f).contains a ∨ a.fact ≠ fact ∨ !d.due teff ∨ !d.timeValid then d
    else
      let r := d.frameOf ch f
      let order := a.t < r.epoch
      let late := a.t < teff
      let d := (d.replaceFrame ch f teff (r.act a.fact a.v a.v2 a.t)).updChan ch (fun c => { c with frActs := c.frActs.erase a })
      let d := if order ∨ late then d.raise (Reg.chn_SYN_EVENTS ch) ((if order then 4 else 0) + (if late then 2 else 0)) else d
      let d := if late then (d.bump (Reg.chn_FR_LATE_CNT ch)).raise (Reg.chn_OUT_EVENTS ch) 1 else d
      if a.prio = 100 then d.setBit (Reg.chn_FR_CMD ch) 17 false
      else if a.prio = 0 then d else d.applyFi (a.prio - 1)

/-- The effective time of an action at `t` on channels whose slowest pipeline takes `l` ticks (R27, R156). -/
def frameEff (d : Dev) (l t : Nat) : Nat := if t / 16 < d.nowT / 16 + l then (d.nowT / 16 + l) * 16 else t

/-- The action `a` waits on the channels `chs`, numbered as the last to reach them (R157). -/
def holdAct (d : Dev) (chs : List Nat) (a : FrAct) : Dev :=
  chs.foldl (fun d n => d.updChan n (fun c => { c with frActs := c.frActs ++ [a] })) { d with arrCtr := d.arrCtr + 1 }

/-- The channels on which the action that came as number `arr` waits. -/
def actChans (d : Dev) (arr : Nat) : List Nat := (List.range 96).filter (fun n => (d.chanOf n).frActs.any (fun a => a.arr == arr))

/-- Device time is valid again: a pending action takes the first tick boundary that its channels can meet, if its time has passed meanwhile, and
is then recorded as late, once (R27, R31, R156). -/
def rescheduleActs (d : Dev) : Dev :=
  let late (a : FrAct) : Nat := d.frameEff ((d.actChans a.arr).foldl (fun m n => max m (d.lPipe n)) 0) a.teff
  let all := ((List.range 96).flatMap (fun n => (d.chanOf n).frActs)).eraseDups.filter (fun a => decide (a.teff < late a))
  let d' := (List.range 96).foldl (fun (d : Dev) n => if (d.chanOf n).frActs.isEmpty then d
    else d.updChan n (fun c => { c with frActs := c.frActs.map (fun a => { a with teff := late a }) })) d
  all.foldl (fun d a => if a.t < a.teff then d
    else (if a.prio = 0 ∨ a.prio = 100 then d else d.raise (Reg.tin_EVENTS (367 + a.prio)) 4).recordLate (if a.prio = 100 then a.t else a.t - d.latOf (367 + a.prio)) (late a - a.t)) d'

end Dev

def setfD (ch : Fin 96) (f : Fin 32) (d : Dev) : Dev := d.takeAction ch.val f.val 0
def setpD (ch : Fin 96) (f : Fin 32) (d : Dev) : Dev := d.takeAction ch.val f.val 1
def addpD (ch : Fin 96) (f : Fin 32) (d : Dev) : Dev := d.takeAction ch.val f.val 2
def setcD (ch : Fin 96) (f : Fin 32) (d : Dev) : Dev := d.takeAction ch.val f.val 3
def choffD (ch : Fin 96) (f : Fin 32) (d : Dev) : Dev := d.takeAction ch.val f.val 4
def initD (ch : Fin 96) (f : Fin 32) (d : Dev) : Dev := d.takeAction ch.val f.val 5

/-- FR_CMD (R169): with GO the command in the registers is held until its time AT; while one is held, and for a reserved
FACT, the write is refused. A command given while device time is not valid is scheduled when it becomes valid (R35). Log entry 26, DEDUCED, unsafe. -/
def frCmdD (fn : Fin 13) (ch : Fin 96) (v : Word) (d : Dev) : Dev :=
  let a := Reg.chn_FR_CMD ch.val
  d.access fn.val a (d.chOwner ch.val) (fun d =>
    if d.bit a 17 then d.refuse fn.val a 5
    else if 6 ≤ bitsOf v.toNat 0 3 then d.refuse fn.val a 6
    else
      let d := (d.wr a (v &&& 0x1F07#32)).endParity a
      if bitsOf v.toNat 16 1 = 0 then d
      else
        let at_ := d.rd64 (Reg.chn_FR_AT_LO ch.val)
        let val := d.rd64 (Reg.chn_FR_VAL_LO ch.val)
        let val2 := d.rd64 (Reg.chn_FR_VAL2_LO ch.val)
        let teff := if d.timeValid then d.frameEff (d.lPipe ch.val) at_ else at_
        let d := (d.setBit a 17 true).holdAct [ch.val]
          { prio := 100, fact := bitsOf v.toNat 0 3, frame := bitsOf v.toNat 8 5, v := val, v2 := val2, t := at_, teff := teff, isLaunch := false,
            arr := d.arrCtr }
        if at_ < teff then d.recordLate at_ (teff - at_) else d)

/-- FRAME_INPUT (R226): a firing schedules the input's action on every channel of its set that belongs to the input's owner (R19; log entry 27,
DEDUCED, unsafe). -/
def frameInputD (k : Fin 32) (d : Dev) : Dev :=
  let i := 368 + k.val
  if !d.timeValid then d
  else
    match d.takeFiring i with
    | none => d
    | some (f, d) =>
      let chs := (List.range 96).filter (fun n => bitsOf (d.eff (Reg.fi_CHSET k.val (n / 32))).toNat (n % 32) 1 == 1 && d.chOwner n == d.fiOwner k.val)
      if 4 ≤ d.fiWaiting k.val ∨ d.tinBad i ∨ d.corrupt (Reg.fi_CFG k.val) 64 then d.overrun i f.stamp
      else
        let l := chs.foldl (fun m n => max m (d.lPipe n)) 0
        let t := f.stamp + d.latOf i
        if 2^64 ≤ t then d.raise Reg.time_EVENTS 64
        else
          let teff := if f.coarse ∨ f.late then max t d.nextTick else t
          let teff := if chs.isEmpty then teff else d.frameEff l teff
          let cfg := (d.eff (Reg.fi_CFG k.val)).toNat
          let val := (d.eff (Reg.fi_VAL_LO k.val)).toNat + 2^32 * ((d.eff (Reg.fi_VAL_HI k.val)).toNat % 2^16)
          let d := d.holdAct chs
            { prio := k.val + 1, fact := bitsOf cfg 0 3, frame := bitsOf cfg 8 5, v := val, v2 := 0, t := t, teff := teff, isLaunch := false,
              arr := d.arrCtr }
          if f.coarse ∨ f.late ∨ t < teff then (d.raise (Reg.tin_EVENTS i) 4).recordLate f.stamp (teff - t) else d

/-- The query of channel `ch` (R170): the frame's present record is evaluated at the query time. -/
def Dev.runQuery (d : Dev) (ch : Nat) : Dev :=
  let (ph, fr) := (d.frameOf ch (d.fld (Reg.chn_FRQ_CTL ch) 0 5)).eval (d.rd64 (Reg.chn_FRQ_AT_LO ch))
  ((d.wr64 (Reg.chn_FRQ_PH_LO ch) ph).wr64 (Reg.chn_FRQ_F_LO ch) fr).setBit (Reg.chn_FRQ_CTL ch) 31 true

/-- FRAME_QUERY (R170): a write of FRQ_AT_HI commits the query time and evaluates the frame's present record at it. -/
def frameQueryD (fn : Fin 13) (ch : Fin 96) (hi : Word) (d : Dev) : Dev :=
  let a := Reg.chn_FRQ_AT_HI ch.val
  d.access fn.val a (d.chOwner ch.val) (fun d =>
    (d.commitPair fn.val (Reg.chn_FRQ_AT_LO ch.val) hi.toNat).runQuery ch.val)

/-- SETF (R155). -/
def execSetf (ch : Fin 96) (f : Fin 32) (s : State) : Host.Outcome State Fault Refusal :=
  s.onDev (setfD ch f)

/-- SETP (R155). -/
def execSetp (ch : Fin 96) (f : Fin 32) (s : State) : Host.Outcome State Fault Refusal :=
  s.onDev (setpD ch f)

/-- ADDP (R155). -/
def execAddp (ch : Fin 96) (f : Fin 32) (s : State) : Host.Outcome State Fault Refusal :=
  s.onDev (addpD ch f)

/-- SETC (R155). -/
def execSetc (ch : Fin 96) (f : Fin 32) (s : State) : Host.Outcome State Fault Refusal :=
  s.onDev (setcD ch f)

/-- CHOFF (R155). -/
def execChoff (ch : Fin 96) (f : Fin 32) (s : State) : Host.Outcome State Fault Refusal :=
  s.onDev (choffD ch f)

/-- INIT (R155). -/
def execInit (ch : Fin 96) (f : Fin 32) (s : State) : Host.Outcome State Fault Refusal :=
  s.onDev (initD ch f)

/-- FR_CMD (R169). -/
def execFrCmd (fn : Fn) (ch : Fin 96) (v : Word) (s : State) : Host.Outcome State Fault Refusal :=
  s.onDev (frCmdD fn ch v)

/-- FRAME_INPUT (R226). -/
def execFrameInput (k : Fin 32) (s : State) : Host.Outcome State Fault Refusal :=
  s.onDev (frameInputD k)

/-- FRAME_QUERY (R170). -/
def execFrameQuery (fn : Fn) (ch : Fin 96) (hi : Word) (s : State) : Host.Outcome State Fault Refusal :=
  s.onDev (frameQueryD fn ch hi)

end Sys2Proof.Machine
end

