-- ==== Sys2Proof/Machine/Datapath.lean ====
section
/-! DEFINITION. The datapath of a channel, from the sample to the code (chapters 3, 6 and 7): segment data in the bank, the
pulse synthesiser, the oscillator and mixer, gain and offset, the delay stage, the halfband chain, output rounding, and
the guard. Every stage computes with integers, rounding half to even (R173). -/
namespace Sys2Proof.Machine

/-! ## The oscillator (R160) -/

/-- π in units of 2^-80. -/
def piFix : Nat := 3797952473636338580787993

/-- sin x for x in units of 2^-80, 0 ≤ x ≤ π/2: twelve terms of its series, in the same units. -/
def sinFix (x : Nat) : Int :=
  let x2 := x * x / 2^80
  let rec go : Nat → Nat → Int → Nat → Int
    | 0, _, acc, _ => acc
    | n + 1, term, acc, k =>
      let term' := term * x2 / 2^80 / ((2 * k) * (2 * k + 1))
      go n term' (if k % 2 = 1 then acc - term' else acc + term') (k + 1)
  go 12 x x 1

/-- The quarter-wave table: sin((k + 0.5) π / 8192) with 24 fraction bits. -/
def sinTab (k : Nat) : Int := rhe (sinFix ((2 * k + 1) * piFix / 16384)) (2^56)

/-- The oscillator's outputs (c, s) for a 48-bit phase, 18-bit with full scale 131,071. The offset from the cell's centre is
A π / 2^32 radians with A = 2 r + 1 - 2^18. -/
def osc (phi : Nat) : Int × Int :=
  let q := bitsOf phi 46 2
  let k := bitsOf phi 34 12
  let a : Int := (2 * bitsOf phi 16 18 + 1 : Nat) - (2^18 : Nat)
  let s0 := sinTab k
  let c0 := sinTab (4095 - k)
  let scale (main other : Int) : Int := rhe (131071 * (main * (2^112 : Nat) + a * (piFix : Int) * other)) (2^136)
  let sn := scale s0 c0
  let cn := scale c0 (-s0)
  match q with
  | 0 => (cn, sn)
  | 1 => (-sn, cn)
  | 2 => (-cn, -sn)
  | _ => (sn, -cn)

/-- The mixer (R161): a sample, and whether it saturated. -/
def mix (iq : Int × Int) (phi : Nat) : Int × Bool :=
  let (c, s) := osc phi
  let y := rhe (iq.1 * c - iq.2 * s) (2^17)
  (sat (-32768) 32767 y, decide (y < -32768 ∨ 32767 < y))

/-- Gain and offset (R174), in 1/16 LSB, and whether it saturated. -/
def gainStage (gain offset x : Int) : Int × Bool :=
  let z := rhe (x * gain) (2^12) + offset
  (sat (-524288) 524287 z, decide (z < -524288 ∨ 524287 < z))

/-- Coefficient k of the delay stage at μ = m / den: h_k(μ) with 16 fraction bits (R176). -/
def lagrange (k m den : Nat) : Int :=
  let others := (List.range 8).filter (fun j => j != k)
  let num := others.foldl (fun (p : Int) j => p * (((3 * den + m : Nat) : Int) - ((j * den : Nat) : Int))) 1
  let dn := others.foldl (fun (p : Int) j => p * (((k : Nat) : Int) - ((j : Nat) : Int))) 1
  if dn < 0 then rhe (-num * (2^16 : Nat)) (dn.natAbs * den^7) else rhe (num * (2^16 : Nat)) (dn.natAbs * den^7)

/-- Saturate to the 20-bit format of the chain (R172, R173). -/
def sat20 (x : Int) : Int × Bool := (sat (-524288) 524287 x, decide (x < -524288 ∨ 524287 < x))

/-- Sample `m` of the stream after `s` halfband stages (R179, R180): even samples are the input's, odd ones are computed;
a stage whose bit of `band` is set negates them before they are brought to the chain's 20 bits (R172). -/
def chain (z : Int → Int × Bool) (band : Nat) : Nat → Int → Int × Bool
  | 0, m => z m
  | s + 1, m =>
    let below := chain z band s
    if m % 2 = 0 then below (m / 2)
    else
      let n := (m - 1) / 2
      let cs := halfband (s + 1)
      let sum := (cs.zipIdx).foldl (fun (a : Int) p => a + p.1 * ((below (n - (p.2 : Int))).1 + (below (n + (p.2 : Int) + 1)).1)) 0
      let v := rhe sum (2^17)
      sat20 (if bitsOf band s 1 = 1 then -v else v)

namespace Dev

/-! ## Segment data (R57, R65, R70) -/

/-- The ring of a channel's bank: its first byte and its length (R65). -/
def ringOf (d : Dev) (ch : Nat) : Nat × Nat :=
  let u := d.fld (Reg.chn_SC_LAYOUT ch) 8 8
  ((128 - u) * 4096, u * 4096)

/-- A byte of a channel's bank. -/
def scByte (d : Dev) (ch off : Nat) : Byte := SMap.get 0 d.sc (ch * 2^19 + off)

/-- The stream of a launch on a channel. -/
def streamOf (d : Dev) (ch ctx lsn : Nat) : Option Stream := (d.chanOf ch).streams.find? (fun s => s.ctx == ctx && s.lsn == lsn)

/-- The ring has held byte `k` of the stream of a play (R66): a stream that is done was there whole, and one that was abandoned as far as it
had come. -/
def ringHas (d : Dev) (ch : Nat) (p : Play) (k : Nat) : Bool :=
  match d.streamOf ch p.ctx p.lsn with
  | some s => decide (k < s.filled)
  | none => p.undr.isNone || decide (k < p.got)

/-- The first unit of the resident copy or head of a segment in a channel's bank. -/
def copyAt (d : Dev) (ch : Nat) (seg : Option Nat) : Option Nat :=
  ((d.chanOf ch).resident.find? (fun r => some r.seg == seg)).map (fun r => r.unit)

/-- Byte `b` of a playing segment's data: from its resident copy or head, or from the ring (R65, R68, R70), whose words stay in the filters after
their place has been filled anew (R66). A copy that has been given up is read while nothing has overwritten it. What the bank never held is open. Log entry 3, DESIGN CHOICE, safe for the values, else unsafe. -/
def segByte (d : Dev) (ch : Nat) (p : Play) (pass b : Nat) : Byte :=
  let unit := if decide (b < dHead p.desc * 4096) || !dStreamed p.desc then p.bankAt else none
  match unit with
  | some u => d.scByte ch (u * 4096 + b)
  | none =>
    let head := dHead p.desc * 4096
    let (base, len) := d.ringOf ch
    let k := pass * (dBytes p.desc - head) + (b - head)
    let q := p.ringAt + k
    if len = 0 ∨ b < head ∨ !dStreamed p.desc ∨ !d.ringHas ch p k then Config.unfilled ch q
    else (SMap.get none (d.chanOf ch).past q).getD (d.scByte ch (base + q % len))

/-- A signed 16-bit value at byte `b` of a playing segment's data. -/
def seg16 (d : Dev) (ch : Nat) (p : Play) (pass b : Nat) : Int :=
  sext 16 (leNat [d.segByte ch p pass b, d.segByte ch p pass (b + 1)])

/-! ## The pulse synthesiser (R162 to R167) -/

/-- A 32-bit word of a tile's envelope table. -/
def envWord (d : Dev) (t off : Nat) : Nat := leNat (SMap.bytes 0 d.env (t * 2^20 + off) 4)
/-- Sample `j` of a tile's sample area. -/
def envSample (d : Dev) (t j : Nat) : Int × Int :=
  let w := d.envWord t (0x8000 + 4 * j)
  (sext 16 (w % 2^16), sext 16 (w / 2^16))
/-- The largest STRETCH a synthesiser follows (R167). -/
def stretchMax (i : Nat) : Nat := min 65535 (480 * i)

/-- An envelope that a segment may use: VALID, and of the segment's owner (R164). -/
def envOk (d : Dev) (t n : Nat) (owner : Option Nat) : Bool :=
  let w := d.envWord t (8 * n)
  bitsOf w 19 1 == 1 && ownerField (bitsOf w 20 4) (bitsOf w 24 1 == 1) == owner

/-- The amplitude-scaled envelope value of sample `k` of a pass (R164, R165). -/
def synth (d : Dev) (ch : Nat) (w : List Word) (k : Nat) : Int × Int :=
  let t := ch / 16
  let n := dfld w 3 0 12
  if !d.envOk t n (dOwner w) then (0, 0)
  else
    let e0 := d.envWord t (8 * n)
    let len := bitsOf (d.envWord t (8 * n + 4)) 0 18
    let base := bitsOf e0 0 18
    let pos := k * dfld w 4 16 16
    let at_ (j : Nat) : Int × Int :=
      if j < len then d.envSample t (base + j) else if bitsOf e0 18 1 = 1 then d.envSample t (base + len - 1) else (0, 0)
    let fr : Int := ((pos % 256 : Nat) : Int)
    let a := at_ (pos / 256)
    let b := at_ (pos / 256 + 1)
    let amp := sext 16 (dfld w 4 0 16)
    let one (x y : Int) : Int := sat (-32768) 32767 (rhe (amp * (x + rhe ((y - x) * fr) 256)) (2^15))
    (one a.1 b.1, one a.2 b.2)

/-! ## The stream of a play -/

/-- The mixed sample `k` of pass `pass` of a play (R58, R107, R159, R161, R166). -/
def mixed (d : Dev) (ch : Nat) (p : Play) (pass k : Nat) : Int × Bool :=
  let i := d.chI ch
  let t := p.start + pass * p.dur + k * i
  let phase (f : Nat) : Nat := ((d.frameAt ch f t).eval t).1
  if dKind p.desc = 2 then
    let f := p.frame.getD (dfld p.desc 3 12 5)
    let dk : Int := ((k * i : Nat) : Int)
    let extra : Int := if dfld p.desc 3 17 1 = 1 then sext 32 (dfld p.desc 5 0 32) * (dk * (dk - 1) / 2) else 0
    mix (d.synth ch p.desc k) (toBits 48 ((phase f : Nat) + extra))
  else if dCplx p.desc then
    mix (d.seg16 ch p pass (4 * k), d.seg16 ch p pass (4 * k + 2)) (phase (p.frame.getD 0))
  else (d.seg16 ch p pass (2 * k), false)

/-- The GAIN and OFFSET words in force for the stream sample of device time `t`: those before the first boundary after it, or the present
ones (R202). -/
def trimsAt (d : Dev) (ch t : Nat) : Word × Word :=
  match (d.chanOf ch).trims.reverse.find? (fun b => decide (t < b.1)) with
  | some b => b.2
  | none => (d.eff (Reg.chn_GAIN ch), d.eff (Reg.chn_OFFSET ch))

/-- After gain and offset (R174), for the stream sample of device time `t`. -/
def gained (d : Dev) (ch t : Nat) (x : Int) : Int × Bool :=
  let w := d.trimsAt ch t
  gainStage (sext 18 (bitsOf w.1.toNat 0 18)) (sext 20 (bitsOf w.2.toNat 0 20)) x

/-- A pass of a play that plays the idle level: its stretch exceeds what the synthesiser follows (R167). -/
def overStretch (d : Dev) (ch : Nat) (p : Play) : Bool := dKind p.desc == 2 && decide (stretchMax (d.chI ch) < dfld p.desc 4 16 16)

/-- Make the play of channel number `j` of a launch's set. -/
def playOf (l : Launch) (j : Nat) : Option Play :=
  let ws := l.descs.getD j []
  match l.kind with
  | .play segs passes fov ma mb maOfs mbOfs mkp dur =>
    some { ctx := l.ctx, lsn := l.lsn, gen := l.gen, seg := segs[j]?, desc := ws, frame := fov, start := l.teff, dur := dur,
           passes := passes, pass := 0, len := dLen ws, ma := ma, mb := mb, maOfs := maOfs, mbOfs := mbOfs, mkp := mkp, ringAt := 0, dly := 0, undr := none,
           short := l.short.contains (l.chans.getD j 96) }
  | .gap _ =>
    some { ctx := l.ctx, lsn := l.lsn, gen := l.gen, seg := none, desc := [], frame := none, start := l.teff, dur := l.stop - l.teff,
           passes := 1, pass := 0, len := 0, ma := 0, mb := 0, maOfs := 0, mbOfs := 0, mkp := false, ringAt := 0, dly := 0, undr := none }
  | _ => none

/-- Sample `j` of pass `ps` of a play after gain and offset. -/
def playSample (d : Dev) (ch : Nat) (p : Play) (ps j : Nat) : Int × Bool :=
  d.gained ch (p.start + ps * p.dur + j * d.chI ch) (d.mixed ch p ps j).1

/-- Every pass of a play fills its duration: no shortfall stands between its samples (R108). -/
def wholePlay (d : Dev) (ch : Nat) (p : Play) : Bool := p.len == p.dur / d.chI ch

/-- Sample `j` of a play without a shortfall, counted over its passes. -/
def playNth (d : Dev) (ch : Nat) (p : Play) (j : Nat) : Int × Bool := d.playSample ch p (j / max 1 p.len) (j % max 1 p.len)

/-- A play goes over into the next without a break in the stream (R182). -/
def joins (d : Dev) (ch : Nat) (p q : Play) : Bool := p.stop == q.start && p.seg.isSome && q.seg.isSome && d.wholePlay ch p

/-- What the filters see `n` samples before the first sample of a play (R182): the samples of the plays that it follows seamlessly, and
before those the first sample of the first of them. -/
def lookBack (d : Dev) (ch : Nat) (p : Play) : List Play → Nat → Int × Bool
  | [], _ => d.playSample ch p 0 0
  | q :: r, n =>
    if !d.joins ch q p then d.playSample ch p 0 0
    else if n ≤ q.passes * q.len then d.playNth ch q (q.passes * q.len - n)
    else lookBack d ch q r (n - q.passes * q.len)

/-- What the filters see `n` samples past the last sample of a play: the samples of the plays that follow it seamlessly (R182), and past
those what the spec leaves open (log entry 3, DESIGN CHOICE, safe for the values, else unsafe). -/
def lookOn (d : Dev) (ch : Nat) (p : Play) : List Play → Nat → Int × Bool
  | [], n => (Config.afterEnd (d.playSample ch p (p.passes - 1) (p.len - 1)).1 n, false)
  | q :: r, n =>
    if !d.joins ch p q then (Config.afterEnd (d.playSample ch p (p.passes - 1) (p.len - 1)).1 n, false)
    else if n < q.len then d.playSample ch q 0 n
    else if !d.wholePlay ch q then (Config.afterEnd (d.playSample ch q 0 (q.len - 1)).1 (n - q.len), false)
    else if n < q.passes * q.len then d.playNth ch q n
    else lookOn d ch q r (n - q.passes * q.len)

/-- The plays of accepted launches that have not started on a channel, in the order of their times. -/
def upcoming (d : Dev) (ch : Nat) : List Play :=
  let mine := d.launches.filter (fun l => l.accepted && l.kind.isSpan && l.chans.contains ch)
  let plays := mine.filterMap (fun l => playOf l (l.chans.idxOf ch))
  let plays := plays.map (fun p => match (d.chanOf ch).streams.find? (fun s => s.ctx == p.ctx && s.lsn == p.lsn) with
    | some s => { p with ringAt := s.start, bankAt := d.copyAt ch p.seg }
    | none => { p with ringAt := (d.chanOf ch).ringWr, bankAt := d.copyAt ch p.seg })
  sortBy (fun (a b : Play) => decide (a.start ≤ b.start)) plays

/-- Stream sample `n` of a play after gain and offset, counted from the play's start, as the filters of the pass `pass` see
it. A pass that follows an idle stretch starts from idle, its first sample standing before it (R108, R182). Log entry 3, DESIGN CHOICE, safe for the values, else unsafe. -/
def streamAt (d : Dev) (ch : Nat) (p : Play) (pass : Nat) (n : Int) : Int × Bool :=
  let c := d.chanOf ch
  let k := n - ((pass * (p.dur / d.chI ch) : Nat) : Int)
  if n < 0 ∧ (d.wholePlay ch p ∨ pass = 0) then d.lookBack ch p (c.prev.filter (fun q => decide (q.start < p.start))) n.natAbs
  else if d.wholePlay ch p then
    if n.toNat < p.passes * p.len then d.playNth ch p n.toNat
    else d.lookOn ch p ((c.prev.reverse ++ c.cur.toList ++ d.upcoming ch).filter (fun q => decide (p.start < q.start))) (n.toNat - p.passes * p.len)
  else if k < 0 then d.playSample ch p pass 0
  else if k.toNat < p.len then d.playSample ch p pass k.toNat
  else (Config.afterEnd (d.playSample ch p pass (p.len - 1)).1 (k.toNat - p.len), false)

/-- The programmed delay in force, in 1/256 tDC (R175). -/
def delayOf (d : Dev) (ch : Nat) : Nat := d.effFld (Reg.chn_DELAY ch) 16 10 * 256 + d.effFld (Reg.chn_DELAY ch) 0 8

/-- Stream sample `n` after the delay stage, and whether that stage saturated (R173, R176). -/
def delayed (d : Dev) (ch : Nat) (p : Play) (pass : Nat) (n : Int) : Int × Bool :=
  let i := d.chI ch
  let dint := padOf (d.fld (Reg.chn_CFG ch) 4 4) * 256 + p.dly
  let w := dint / (256 * i)
  let m := dint % (256 * i)
  if m = 0 then ((d.streamAt ch p pass (n - (w : Int))).1, false)
  else
    let sum := (List.range 8).foldl (fun (a : Int) k => a + lagrange k m (256 * i) * (d.streamAt ch p pass (n - (w : Int) + 3 - (k : Int))).1) 0
    sat20 (rhe sum (2^16))

/-- The code of a play at `x` tDC from the start of the play at the DAC's plane, before the guard (R172, R179). -/
def codeOf (d : Dev) (ch : Nat) (p : Play) (pass : Nat) (x : Int) : Int × Bool :=
  let l := d.fld (Reg.chn_CFG ch) 4 4
  let (v, s) := chain (d.delayed ch p pass) (d.fld (Reg.chn_CFG ch) 18 10) l (x + (padOf l : Int))
  let y := rhe v 16
  (sat (-32768) 32767 y, s || decide (y < -32768 ∨ 32767 < y))

/-- The segment that provides the channel's samples at device time `t`, in the undelayed stream or, with `dac`, at the DAC, D later, with its
pass: none during a GAP, the shortfall of a pass and a pass of too large a STRETCH (R108, R167, R175, R183). -/
def playAt (d : Dev) (ch : Nat) (dac : Bool) (t : Nat) : Option (Play × Nat) :=
  let c := d.chanOf ch
  let lag (p : Play) : Nat := if dac then ceilDiv p.dly 256 else 0
  match (c.cur.toList ++ c.prev).find? (fun p => p.seg.isSome && decide (p.start + lag p ≤ t ∧ t < p.stop + lag p)) with
  | none => none
  | some p =>
    let x := t - lag p - p.start
    if x % max 1 p.dur < p.len * d.chI ch ∧ !d.overStretch ch p then some (p, x / max 1 p.dur) else none

/-- The idle level that stands in the undelayed stream at device time `t`: that before the first boundary after it, or the present one (R202). -/
def idleAt (d : Dev) (ch t : Nat) : Int :=
  match (d.chanOf ch).idles.reverse.find? (fun b => decide (t < b.1)) with
  | some b => b.2
  | none => d.idleLevel ch

/-- The idle level at device time `t` is that of OFFSET, and its rounding to a code saturates (R173, R183). -/
def idleSat (d : Dev) (ch t : Nat) : Bool :=
  d.effFld (Reg.chn_CFG ch) 15 1 == 0 && decide (32767 < rhe (sext 20 (bitsOf (d.trimsAt ch t).2.toNat 0 20)) 16)

/-- What a channel's path gives the guard at device time `t` (R175, R183, R198): the sample of the play whose delayed span
holds `t`, the static code, or the idle level, which lies as much later as the programmed delay in force. -/
def pathAt (d : Dev) (ch t : Nat) : Int :=
  if d.chMode ch = 2 then (d.chanOf ch).path
  else match d.playAt ch true t with
    | none => d.idleAt ch (t - ceilDiv (d.delayOf ch) 256)
    | some (p, pass) => (d.codeOf ch p pass ((t - p.start : Nat) : Int)).1

/-! ## Marker and pattern lines (R112, R247, R248) -/

/-- Bit `b` of the mixer output of channel `ch` at device time `t`, for a pattern line (R247): 0 while no segment provides samples and while
safe code of tier 2 or 3 stands. Log entry 57, DEDUCED, unsafe. -/
def patternBit (d : Dev) (ch b t : Nat) : Bool :=
  match d.playAt ch false t with
  | none => false
  | some (p, pass) =>
    let c := d.chanOf ch
    !c.hold && !d.extest && !d.undrAt ch t && bitsOf (toBits 16 (d.mixed ch p pass ((t - p.start) % max 1 p.dur / d.chI ch)).1) b 1 == 1

/-- What MK line `k` carries (R247, R423, R436, R464): 0 under OUT_SAFE_N and in the device safe state, else its source's level, that of a
pattern line at device time `t`, inverted by POL. Log entry 57, DEDUCED, unsafe. -/
def lineLevel (d : Dev) (k t : Nat) : Bool :=
  let cfg := (d.eff (Reg.mk_CFG k)).toNat
  let ch := bitsOf cfg 2 7
  if d.safePin || d.dsafe then false
  else
    let src := if d.corrupt (Reg.mk_CFG k) 16 then 0 else bitsOf cfg 0 2
    let v := if src = 0 then false else if src = 1 then (d.chanOf ch).mkA else if src = 2 then (d.chanOf ch).mkB
      else d.patternBit ch (bitsOf cfg 12 4) t
    v != (bitsOf cfg 16 1 == 1)

/-- MK line `k` comes to the level of its source at `t`: a source's edge at an odd time leaves one tDC later and takes the line's own
delay (R112, R248), `direct` is a change that is no edge of the source (R464). Log entry 57, DEDUCED, unsafe. -/
def refreshLine (d : Dev) (k t : Nat) (direct : Bool) : Dev :=
  let v := d.lineLevel k t
  let dl := (d.eff (Reg.mk_DELAY k)).toNat
  if v = (SMap.get {} d.mkLine k).level then d
  else if direct then { d with mkLine := SMap.set {} d.mkLine k ⟨v, t, 0⟩ }
  else { d with mkLine := SMap.set {} d.mkLine k ⟨v, t + t % 2 + bitsOf dl 0 10, bitsOf dl 16 6⟩ }

/-- Every MK line comes to its level at `t` by a change that is no edge of its source. -/
def refreshLines (d : Dev) (t : Nat) : Dev := (List.range 32).foldl (fun (d : Dev) (k : Nat) => d.refreshLine k t true) d

/-- The pattern lines in the tick at `t`, on the grid of even device times (R247). -/
def patternTick (d : Dev) (t : Nat) : Dev :=
  (List.range 32).foldl (fun (d : Dev) (k : Nat) =>
    if bitsOf (d.eff (Reg.mk_CFG k)).toNat 0 2 = 3 then
      (List.range 8).foldl (fun (d : Dev) (j : Nat) => d.refreshLine k (t + 2 * j) false) d
    else d) d

/-! ## The guard and the DAC (R184 to R191) -/

/-- The word that holds device time `t` sets flags of OUT_EVENTS: in one cycle, so that SEQ rises once for it (R6, R173, R185). -/
def outFlags (d : Dev) (n t mask : Nat) : Dev :=
  let a := Reg.chn_OUT_EVENTS n
  if mask = 0 then d
  else if (d.chanOf n).flagTick = some (t / 16) then d.wrN a (d.rdN a ||| mask)
  else (d.raise a mask).updChan n (fun (c : Chan) => { c with flagTick := some (t / 16) })

/-- The generation of what a channel's path gives at device time `t`: that of the launch that plays there, else 0 (R209). -/
def genAt (d : Dev) (n t : Nat) : Nat :=
  match d.playAt n true t with
  | some (p, _) => p.gen
  | none => 0

/-- The guard changed a code of a word at device time `t` (R185): counted and fired once for the word. -/
def guardHit (d : Dev) (n t : Nat) : Dev :=
  if (d.chanOf n).hitTick = some (t / 16) then d
  else ((d.bump (Reg.chn_GUARD_CNT n)).fire (6 * n + 5) t (d.genAt n t)).updChan n (fun (c : Chan) => { c with hitTick := some (t / 16) })

/-- The power measurement takes the sum of code² of some codes of the tick at `t` (R184, R186); a block that ends with it and exceeds the limit
awaits TRIP. `whole` says that the codes reach to the end of the tick. -/
def measure (k : GuardCh) (d : Dev) (n t sum : Nat) (whole : Bool) : Dev :=
  let blk := 16 * 2 ^ k.win
  let b := t / blk * blk
  let c := d.chanOf n
  let sum := (if c.pwrBlk = b then c.pwrSum else 0) + sum
  let high := whole && decide (t + 16 = b + blk ∧ k.pwr * blk < sum)
  d.updChan n (fun (c : Chan) => { c with pwrBlk := b, pwrSum := sum, trips := if high then c.trips ++ [b + blk] else c.trips })

/-- The codes of the tick at `t`, up to lane `upto`, that have not yet done so enter the guard (R184, R185): each is clamped, slewed from the code
really present, and measured. `flags` are the saturations of the word (R173). -/
def driveSpan (g : Guard) (d : Dev) (n t upto flags : Nat) : Dev :=
  let k := g.of n
  let times := ((List.range upto).map (fun j => t + j)).filter (fun x => decide ((d.chanOf n).drivenTo ≤ x))
  let codes := times.map (fun x => (x, d.pathAt n x))
  let run := codes.foldl (fun (acc : Int × List (Nat × Nat) × Nat) (p : Nat × Int) =>
    let c := sat k.lo k.hi p.2
    let out := k.limit acc.1 p.2
    (d.dacTakes g n p.1 out, acc.2.1 ++ [(p.1, (if c ≠ p.2 then 16 else 0) ||| (if out ≠ c then 32 else 0))], acc.2.2 + out.natAbs ^ 2))
    (d.dacCode g n, [], 0)
  if times.isEmpty then d.outFlags n t flags
  else
    let d := d.updChan n (fun (c : Chan) => { c with path := ((codes.getLast?).map (fun p => p.2)).getD c.path, code := run.1, drivenTo := t + upto })
    let d := measure k d n t run.2.2 (upto == 16)
    let d := d.outFlags n t (run.2.1.foldl (fun (m : Nat) (x : Nat × Nat) => m ||| x.2) flags)
    match run.2.1.find? (fun h => h.2 != 0) with
    | none => d
    | some h => d.guardHit n h.1

/-- From device time `t` on a channel's static path gives the code `x`; the codes of the tick before it enter the guard. Log entry 15, DESIGN CHOICE, unsafe. -/
def drive (g : Guard) (d : Dev) (n t : Nat) (x : Int) : Dev :=
  (driveSpan g d n (t / 16 * 16) (t % 16) 0).updChan n (fun c => { c with path := x })

/-- What the datapath of a channel saturates in the tick at `t` (R161, R173): the flags of OUT_EVENTS, 4 for gain and offset and 8 for delay,
interpolation and output rounding, and how many outputs of the mixer. Stages work on the samples of the tick that a segment provides, in the
undelayed stream or, for the last stages, at the DAC; the idle level has the output rounding only. The mixer works on the open bytes of a stream that
underran too, and may saturate on them (log entry 83, DESIGN CHOICE, unsafe). -/
def satMask (d : Dev) (n t : Nat) : Nat × Nat :=
  let i := d.chI n
  let here := ((List.range 16).map (fun j => t + j)).filterMap (fun x => match d.playAt n false x with
    | some (p, ps) => if (x - p.start - ps * p.dur) % i = 0 then some (p, ps, (x - p.start - ps * p.dur) / i) else none
    | none => none)
  let mixes := (here.filter (fun q => (d.mixed n q.1 q.2.1 q.2.2).2)).length
  let gains := here.any (fun q => (d.playSample n q.1 q.2.1 q.2.2).2)
  let interp := (List.range 16).any (fun j => match d.playAt n true (t + j) with
    | some (p, ps) => (d.codeOf n p ps ((t + j - p.start : Nat) : Int)).2
    | none => d.chMode n == 1 && d.idleSat n (t + j - ceilDiv (d.delayOf n) 256))
  ((if gains then 4 else 0) + (if interp then 8 else 0), mixes)

/-- A channel's word of the tick at `t` (R161, R173, R184): its saturations are flagged and counted, one word for gain, delay, interpolation
and output rounding, the mixer each saturated output; and its codes enter the guard. -/
def playWord (g : Guard) (d : Dev) (n t : Nat) : Dev :=
  let (mask, mixes) := d.satMask n t
  let d := if mixes = 0 then d else (d.raise (Reg.chn_SYN_EVENTS n) 1).addSat (Reg.chn_MIX_SAT_CNT n) mixes
  let d := if mask = 0 then d else d.bump (Reg.chn_SAT_CNT n)
  driveSpan g d n t 16 mask

/-- The analogue fine skew of a channel in 0.5 ps steps (R178). -/
def fineSkew (d : Dev) (n : Nat) : Int :=
  sat (-128) 127 (sext 8 (d.fld (Reg.chn_SKEW_CAL n) 0 8) + sext 8 (d.fld (Reg.chn_SKEW_USER n) 0 8))

/-- The DAC's input for a code: u = code + 32,768 (R172, R189). -/
def dacInput (code : Int) : Nat := (code + 32768).toNat
/-- How many unary sources of a channel's DAC are on: u[15:10] (R189). -/
def unaryOn (code : Int) : Nat := bitsOf (dacInput code) 10 6
/-- The binary sources that are on: u[9:0] (R189). -/
def binaryOn (code : Int) : Nat := bitsOf (dacInput code) 0 10
/-- The physical unary sources that are on for a code: those that the rotation map gives the lowest thermometer positions (R189, R190). -/
def sourcesOn (d : Dev) (n : Nat) (code : Int) : List Nat := (d.chanOf n).map.take (unaryOn code)
/-- The code that the DAC of a channel holds in a half of a tDC (R191): in MIX mode the complement in the second half. -/
def heldCode (d : Dev) (n : Nat) (second : Bool) (code : Int) : Int := if second && d.fld (Reg.chn_CFG n) 12 2 == 1 then -1 - code else code

end Dev
end Sys2Proof.Machine
end

