-- ==== Sys2Proof/Machine/Entries.lean ====
section
/-! DEFINITION. Sequence entries (chapter 4): an engine issues the entry at its context's PC. Each meaning is one entry of
the opcode table; `issue` is what they share: the engine is bound and not ending its turn, the PC lies in the owner's
slice, the wait has been released, an issue slot is free and fewer than 32 launches are pending (R87 to R99, R119). An
engine that does not issue is left as it stands. (PLAY stands in Engines.lean, beside the engine faults that it can meet.) -/
namespace Sys2Proof.Machine
namespace Dev

/-- What an entry does at issue: its context's next PC and the new state, or an exception's code and detail (R119). -/
abbrev Issued := Except (Nat × Nat) (Nat × Dev)

/-- The bookkeeping of an issued entry: the slot it takes (R90), the counts of entries, the next PC, and the wait that
is over. A PC that leaves the program store stops the context, unless a SWITCH is to take it off the engine (R119). Log entry 19, DEDUCED, unsafe. -/
def retireEntry (d : Dev) (e c pc : Nat) (slot : Bool) : Dev :=
  let d := d.setCtxFld c 2 0 20 pc
  let d := (d.addSat64 (Reg.eng_ISSUED_LO e) 1).setBit (Reg.eng_STATUS e) 15 false
  let tick := d.nowT / 16
  let d := d.updEng e (fun x => { x with run := x.run + 1, released := false, slotTick := if slot then tick + 2 else x.slotTick })
  if 2^20 ≤ pc ∧ (d.engOf e).swWait.isNone then d.raiseExc e c 5 pc else d

/-- Engine `e` issues the entry at its context's PC if that entry has opcode `op`. A released BR takes no slot (R99). Log entry 18, DESIGN CHOICE, safe. An
entry waits for its line of the program store (R90, R136). Of several exceptions that an entry meets the first tested is raised (log entry 81, DESIGN CHOICE, unsafe). The context store
stands after the last issued entry, never after the one before (R141). Log entry 77, DESIGN CHOICE, unsafe. -/
def issue (d : Dev) (e op : Nat) (body : Nat → Nat → Nat → Dev → Issued) : Dev :=
  match d.engCtx e with
  | none => d
  | some c =>
    let pc := d.ctxPc c
    let n := d.entryAt pc
    let x := d.engOf e
    if d.ctxState c ≠ 3 ∨ x.swWait.isSome ∨ x.moving.isSome ∨ d.bit (Reg.eng_STATUS e) 24 then d
    else if !d.progIn (d.ctxRecOwner c) pc then d.raiseExc e c 5 pc
    else if ent n 0 0 4 ≠ op ∨ !x.lines.contains (pc / 8) then d
    else if ent n 0 6 4 ≠ 0 ∧ !x.released then
      if launching n ∧ !d.timeValid then d.raiseExc e c 8 0 else d.setBit (Reg.eng_STATUS e) 15 true
    else
      let free := op == 5 && x.released
      if !free && d.timeState == 2 && decide (d.nowT / 16 < x.slotTick) then d
      else if !free && decide (32 ≤ d.engPend e) then d
      else if launching n ∧ !d.timeValid then d.raiseExc e c 8 0
      else
        match body c pc n d with
        | .error (code, detail) => d.raiseExc e c code detail
        | .ok (next, d') => d'.retireEntry e c next (!free)

/-- The detail of TIME_RANGE: the entry's TIME word and BASE (R148). -/
def timeDetail (n : Nat) : Nat := ent n 2 0 32 + 2^32 * ent n 0 4 2

/-- A launching entry sends its launch record (R87, R91): the requested time is formed, the record takes the next LSN, and
the held release ends (R98). `tend` is the requested end that a PLAY or GAP gives the context (R92); one past the range of device time raises
TIME_RANGE as a requested time does. Log entry 77, DESIGN CHOICE, unsafe. -/
def sendLaunch (e c n : Nat) (d : Dev) (kind : LKind) (tend : Nat → Option Nat) : Except (Nat × Nat) Dev :=
  match d.treqOf c n with
  | .error code => .error (code, if code = 7 then timeDetail n else 0)
  | .ok t =>
    match tend t with
    | some x =>
      if 2^64 ≤ x then .error (7, timeDetail n) else .ok ((record t d).setCtx64 c 8 x)
    | none => .ok (record t d)
where
  record (t : Nat) (d : Dev) : Dev :=
    let lsn := (d.ctxFld c 3 0 16 + 1) % 2^16
    let l : Launch :=
      { eng := e, ctx := c, lsn := lsn, chans := d.ctxChans c, kind := kind, treq := t, tmin := (d.engOf e).tsw,
        gen := d.genOf c, coarse := ent n 0 4 2 == 3 && d.ctxFld c 2 25 1 == 1, li := none, accepted := false, teff := 0,
        descs := [], src := e }
    let d := { d with launches := d.launches ++ [l] }
    let d := ((d.setCtxFld c 3 0 16 lsn).setCtx64 c 10 t).setCtxFld c 2 24 1 0
    (d.setCtxFld c 2 31 1 0).setCtxFld c 3 16 6 (d.pendOf c)

/-- The entry after `pc`. -/
def after (pc : Nat) : Nat := pc + 1

/-- Issue of a launching entry with a fixed kind. Log entry 18, DESIGN CHOICE, safe. -/
def issueLaunch (d : Dev) (e op : Nat) (kind : Nat → LKind) (tend : Nat → Nat → Option Nat) : Dev :=
  d.issue e op (fun c pc n d => (sendLaunch e c n d (kind n) (tend n)).map (fun d => (after pc, d)))

/-- The segments a PLAY chooses for the channels of its context's set (R106). -/
def playSegs (d : Dev) (c n k : Nat) : List Nat :=
  let s := ent n 1 0 16 + (if ent n 0 11 1 = 1 then (d.xReg c (ent n 1 26 4)).toNat % 2 ^ ent n 0 28 4 else 0)
  (List.range k).map (fun j => s + (if ent n 1 31 1 = 1 then j else 0))

/-- A segment that context `c` may not play on channel `ch`: empty, of another owner than the context's, or with a descriptor that fails its
CHECK (R106, R119). -/
def badSegOn (d : Dev) (c ch s : Nat) : Bool :=
  let w := d.chDesc ch s
  dKind w == 0 || !dCheckOk w || dOwner w != d.ctxRecOwner c

/-- A segment that context `c` may not play on its set. -/
def badSeg (d : Dev) (c s : Nat) : Bool := (d.ctxChans c).any (fun n => d.badSegOn c n s)

/-- A fault is queued for a segment whose descriptor, read from DRAM for tile `t`, fails its CHECK (R61). -/
def descCrcAt (d : Dev) (c t s : Nat) : Dev :=
  if !dCheckOk (d.descIn t s) then d.faultOf 7 0x70 5 t (d.ctxRecOwner c) [s] else d

/-- The pass duration of a set of segments on their channels: the longest (R108). -/
def passDur (d : Dev) (chans segs : List Nat) : Nat :=
  (chans.zip segs).foldl (fun m p => max m (dLen (d.chDesc p.1 p.2) * d.chI p.1)) 0

/-- The streams a PLAY starts on its channels (R70): the fill engine begins at issue, behind the resident head. -/
def addStreams (d : Dev) (c lsn passes : Nat) (chans segs : List Nat) : Dev :=
  (chans.zip segs).foldl (fun d p =>
    let w := d.chDesc p.1 p.2
    if dStreamed w then
      let x : Stream := { ctx := c, lsn := lsn, seg := p.2, bytes := dBytes w - dHead w * 4096, passes := passes, filled := 0, start := 0,
                          addr := dAddr w + dHead w * 4096 }
      d.updChan p.1 (fun s => { s with streams := s.streams ++ [x] })
    else d) d

end Dev

/-! ## The entries -/

/-- PLAY (R105 to R109). Log entry 81, DESIGN CHOICE, unsafe. -/
def playD (e : Fin 64) (d : Dev) : Dev :=
  let bad := match d.engCtx e.val with
    | some c => (d.playSegs c (d.entryAt (d.ctxPc c)) (d.ctxChans c).length).zip (d.ctxChans c) |>.find? (fun p => d.badSegOn c p.2 p.1) |>.map (fun p => (c, p))
    | none => none
  let d' := d.issue e.val 1 (fun c pc n d =>
    let chans := d.ctxChans c
    let segs := d.playSegs c n chans.length
    match bad with
    | some (_, s, _) => .error (1, s)
    | none =>
      let dur := d.passDur chans segs
      let passes := ent n 0 12 16 + 1
      let fov := if ent n 1 20 1 = 1 then some (ent n 1 21 5) else none
      let kind := LKind.play segs passes fov (ent n 1 16 2) (ent n 1 18 2) (ent n 3 0 16) (ent n 3 16 16) (ent n 1 30 1 == 1) dur
      (Dev.sendLaunch e.val c n d kind (fun t => some (t + dur * passes))).map
        (fun d => (Dev.after pc, d.addStreams c (d.ctxFld c 3 0 16) passes chans segs)))
  match bad with
  | some (c, s, ch) => if d.ctxState c = 3 ∧ d'.ctxState c = 5 ∧ d'.ctxFld c 48 0 8 = 1 then d'.descCrcAt c (ch / 16) s else d'
  | none => d'

/-- GAP (R110). -/
def gapD (e : Fin 64) (d : Dev) : Dev :=
  d.issueLaunch e.val 2 (fun n => .gap (ent n 3 0 32)) (fun n t => some (t + ent n 3 0 32))

/-- LOOP (R103): a count of 0 skips the body, and a ninth level raises STACK_OVF. -/
def loopD (e : Fin 64) (d : Dev) : Dev :=
  d.issue e.val 3 (fun c pc n d =>
    let cnt := if ent n 0 11 1 = 1 then (d.xReg c (ent n 1 0 4)).toNat else ent n 3 0 32
    let depth := d.ctxFld c 2 20 4
    if cnt = 0 then .ok (Dev.after (ent n 0 12 20), d)
    else if depth = 8 then .error (3, 0)
    else
      let d := d.setCtxW c (28 + 2 * depth) (BitVec.ofNat 32 cnt)
      let d := d.setCtxFld c (29 + 2 * depth) 0 20 (Dev.after pc)
      .ok (Dev.after pc, d.setCtxFld c 2 20 4 (depth + 1)))

/-- NEXT (R103): it goes round again while more than one pass remains, and pops the level otherwise. -/
def nextD (e : Fin 64) (d : Dev) : Dev :=
  d.issue e.val 4 (fun c pc _ d =>
    let depth := d.ctxFld c 2 20 4
    if depth = 0 then .error (4, 0)
    else
      let w := 28 + 2 * (depth - 1)
      let cnt := (d.ctxW c w).toNat
      if 1 < cnt then .ok (d.ctxFld c (w + 1) 0 20, d.setCtxW c w (BitVec.ofNat 32 (cnt - 1)))
      else .ok (Dev.after pc, d.setCtxFld c 2 20 4 (depth - 1)))

/-- The release that consumes the latched firing of event input `k` of engine `e` (R95). -/
def Dev.takeRelease (d : Dev) (e c k : Nat) (l : Latch) : Dev :=
  let d := { d with ei := SMap.set none d.ei (e * 4 + k) none }
  let d := d.wrN (Reg.engIn_STATE e k) 0
  let d := d.setCtx64 c 6 l.stamp
  let d := d.setCtxFld c 2 24 1 1
  let d := d.setCtxFld c 2 25 1 (if l.coarse then 1 else 0)
  let d := d.setCtxFld c 2 26 2 k
  (d.setCtxFld c 2 28 3 l.gen).setCtxFld c 2 31 1 0

/-- BR (R100 to R102). -/
def brD (e : Fin 64) (d : Dev) : Dev :=
  d.issue e.val 5 (fun c pc n d =>
    let ck := ent n 0 11 3
    let k := ent n 1 20 2
    let b := if ent n 1 28 1 = 1 then BitVec.ofNat 32 (ent n 3 0 32) else d.xReg c (ent n 1 24 4)
    let latched := SMap.get none d.ei (e.val * 4 + k)
    let cond := match ck with
      | 0 => true
      | 1 => latched.isSome
      | 2 => d.isHeld c && d.ctxFld c 2 31 1 == 0 && d.ctxFld c 2 26 2 == k
      | 3 => cmpHolds (ent n 0 14 3) (d.xReg c (ent n 1 20 4)) b
      | _ => cmpHolds (ent n 0 14 3) (SMap.get 0 d.mailbox (ent n 0 20 12) &&& BitVec.ofNat 32 (ent n 2 0 32)) b
    let pop := ent n 0 17 3
    let depth := d.ctxFld c 2 20 4
    if !cond then .ok (Dev.after pc, d)
    else if depth < pop then .error (4, 0)
    else
      let d := match ck, latched with
        | 1, some l => d.takeRelease e.val c k l
        | _, _ => d
      .ok (ent n 1 0 20, d.setCtxFld c 2 20 4 (depth - pop)))

/-- REG (R116). LDRS counts a context's beginning from its creation: RS stands until then at 0. Log entry 78, DEDUCED, unsafe. -/
def regD (e : Fin 64) (d : Dev) : Dev :=
  d.issue e.val 6 (fun c pc n d =>
    let f := ent n 0 11 4
    let a := d.xReg c (ent n 1 4 4)
    let b := if ent n 1 12 1 = 1 then BitVec.ofNat 32 (ent n 3 0 32) else d.xReg c (ent n 1 8 4)
    let mbi := b.toNat % 4096
    if f = 11 ∧ !d.mbIn (d.ctxRecOwner c) mbi then .error (6, mbi)
    else
      let v := if f = 11 then SMap.get 0 d.mailbox mbi
        else if f = 12 then BitVec.ofNat 32 (min (2^32 - 1) (d.rsOf c - d.ctx64 c 4))
        else regFunc f a b
      .ok (Dev.after pc, d.setXReg c (ent n 1 0 4) v))

/-- FRAME (R111): the value comes from the entry or from a register pair. -/
def frameD (e : Fin 64) (d : Dev) : Dev :=
  d.issue e.val 7 (fun c pc n d =>
    let fact := ent n 0 11 3
    let v := if ent n 0 14 1 = 1 then
        (d.xReg c (ent n 1 5 4)).toNat + 2^32 * ((d.xReg c (ent n 1 5 4 + 1)).toNat % 2^16)
      else ent n 3 0 32 + 2^32 * ent n 1 16 16
    (Dev.sendLaunch e.val c n d (.frame fact (ent n 1 0 5) (if fact = 3 then v % 2^32 else v)) (fun _ => none)).map
      (fun d => (Dev.after pc, d)))

/-- MARK (R112). -/
def markD (e : Fin 64) (d : Dev) : Dev :=
  d.issueLaunch e.val 8 (fun n => .mark (ent n 1 0 2) (ent n 1 2 2) (ent n 3 0 16)) (fun _ _ => none)

/-- EVENT (R113). -/
def eventD (e : Fin 64) (d : Dev) : Dev :=
  d.issueLaunch e.val 9 (fun n => .event (ent n 0 11 2)) (fun _ _ => none)

/-- TSET (R117). -/
def tsetD (e : Fin 64) (d : Dev) : Dev :=
  d.issue e.val 10 (fun c pc n d =>
    let imm := ent n 2 0 32 + 2^32 * ent n 3 0 32
    let put (v : Nat) : Dev.Issued := if 2^64 ≤ v then .error (7, Dev.timeDetail n) else .ok (Dev.after pc, d.setCtx64 c 4 v)
    match ent n 0 11 2 with
    | 0 => put imm
    | 1 => put (d.ctx64 c 4 + imm)
    | 2 => if d.isHeld c then put (d.rsOf c + imm) else .error (2, 0)
    | _ => put (d.ctx64 c 10 + imm))

/-- SWITCH (R114, R130): the context's turn ends, and slot S1 is staged with the target unless it holds a current copy. -/
def switchD (e : Fin 64) (d : Dev) : Dev :=
  d.issue e.val 11 (fun c pc n d =>
    let target := ent n 1 0 14
    (Dev.sendLaunch e.val c n d (.switch target) (fun _ => none)).map (fun d =>
      let x := d.engOf e.val
      let ver := d.ctxFld target 0 16 8
      let s1 := match x.s1 with
        | some s => if s.ctx = target ∧ s.ver = ver then some s else some ⟨target, ver, false, [], []⟩
        | none => some ⟨target, ver, false, [], []⟩
      (Dev.after pc, d.updEng e.val (fun x => { x with swWait := some (target, d.ctx64 c 10), s1 := s1 }))))

/-- NOP (R115): nothing apart from its wait. -/
def nopEntryD (e : Fin 64) (d : Dev) : Dev :=
  d.issue e.val 15 (fun _ pc _ d => .ok (Dev.after pc, d))

/-- HALT (R115): the context halts and its engine becomes idle; pending launches play out. Its PC stays at the HALT. Log entry 77, DESIGN CHOICE,
unsafe. -/
def haltD (e : Fin 64) (d : Dev) : Dev :=
  let before := d.engCtx e.val
  let ready := match before with
    | some c => d.ctxState c == 3 && (d.engOf e.val).swWait.isNone && (d.engOf e.val).moving.isNone && !d.bit (Reg.eng_STATUS e.val) 24
    | none => false
  let d' := d.issue e.val 0 (fun _ pc _ d => .ok (pc, d))
  match before with
  | some c => if ready && decide ((d'.engOf e.val).run ≠ (d.engOf e.val).run) && decide (d'.ctxState c = 3) then d'.leave c 4 else d'
  | none => d'

/-- HALT (R115). -/
def execHalt (e : Fin 64) (s : State) : Host.Outcome State Fault Refusal :=
  s.onDev (haltD e)

/-- GAP (R110). -/
def execGap (e : Fin 64) (s : State) : Host.Outcome State Fault Refusal :=
  s.onDev (gapD e)

/-- LOOP (R103). -/
def execLoop (e : Fin 64) (s : State) : Host.Outcome State Fault Refusal :=
  s.onDev (loopD e)

/-- NEXT (R103). -/
def execNext (e : Fin 64) (s : State) : Host.Outcome State Fault Refusal :=
  s.onDev (nextD e)

/-- BR (R100). -/
def execBr (e : Fin 64) (s : State) : Host.Outcome State Fault Refusal :=
  s.onDev (brD e)

/-- REG (R116). -/
def execReg (e : Fin 64) (s : State) : Host.Outcome State Fault Refusal :=
  s.onDev (regD e)

/-- FRAME (R111). -/
def execFrame (e : Fin 64) (s : State) : Host.Outcome State Fault Refusal :=
  s.onDev (frameD e)

/-- MARK (R112). -/
def execMark (e : Fin 64) (s : State) : Host.Outcome State Fault Refusal :=
  s.onDev (markD e)

/-- EVENT (R113). -/
def execEvent (e : Fin 64) (s : State) : Host.Outcome State Fault Refusal :=
  s.onDev (eventD e)

/-- TSET (R117). -/
def execTset (e : Fin 64) (s : State) : Host.Outcome State Fault Refusal :=
  s.onDev (tsetD e)

/-- SWITCH (R114). -/
def execSwitch (e : Fin 64) (s : State) : Host.Outcome State Fault Refusal :=
  s.onDev (switchD e)

/-- NOP_ENTRY (R115). -/
def execNopEntry (e : Fin 64) (s : State) : Host.Outcome State Fault Refusal :=
  s.onDev (nopEntryD e)

end Sys2Proof.Machine
end

