-- ==== Sys2Proof/Machine/Engines.lean ====
section
/-! DEFINITION. Engines and contexts (chapter 5): line fetches, waits and their latches, staging and switching, the online
tests, and moving a context off a retired engine. -/
namespace Sys2Proof.Machine
namespace Dev

/-- An engine is idle: in service, with no context bound (R126). -/
def engIdle (d : Dev) (e : Nat) : Bool := !d.bit (Reg.eng_STATUS e) 14 && !d.bit (Reg.eng_STATUS e) 24
/-- An engine is in the spare pool (R135). -/
def isSpare (d : Dev) (e : Nat) : Bool := d.bit (Reg.eng_STATUS e) 23
/-- The first channel of a context's set that another context than `but` claims, or that is in static mode (R134, R198). Log entry 22, DEDUCED, unsafe. -/
def conflict (d : Dev) (c : Nat) (but : Option Nat) : Option Nat :=
  (d.ctxChans c).find? (fun n => d.chMode n == 2 || (match (d.chanOf n).claim with
    | some o => o != c && some o != but
    | none => false))

/-- The first channel of a context's set that is no longer its owner's (R15, R19): a partition was created or destroyed since the
context was admitted. Log entry 22, DEDUCED, unsafe. -/
def foreignChan (d : Dev) (c : Nat) : Option Nat := (d.ctxChans c).find? (fun n => d.chOwner n != d.ctxRecOwner c)

/-- A context becomes RUNNING and claims its whole set, whose banks are forced on (R67, R122, R127). -/
def claimFor (d : Dev) (c : Nat) : Dev :=
  let d := (d.ctxChans c).foldl (fun d n => (d.updChan n (fun x => { x with claim := some c })).setFld (Reg.chn_SC_STATUS n) 0 2 2) d
  d.setCtxState c 3
/-- The program-store lines in which the 16 entries from a context's PC lie. -/
def stagedLines (d : Dev) (c : Nat) : List Nat := (List.range ((d.ctxPc c + 15) / 8 - d.ctxPc c / 8 + 1)).map (fun i => (d.ctxPc c / 8 + i) % 2^17)
/-- A context takes an engine, whose prefetch queue takes the 16 staged entries (R133). `tsw` is the cut-off of the switch that called it
in, or 0. -/
def bindEng (d : Dev) (e c tsw : Nat) : Dev :=
  let d := ((d.setCtxFld c 0 8 6 e).setCtxFld c 0 14 1 1).setCtxW c 58 (d.ctxW c 58 + 1)
  let lines := d.stagedLines c
  let d := d.setFld (Reg.eng_STATUS e) 0 16 (2^14 + c)
  d.updEng e (fun x => { x with used := true, tsw := tsw, run := 0, lines := lines, released := false, swWait := none, swLate := false })
/-- The staging slot becomes the live record (R133): the context's hot state is what the copy holds. -/
def loadHot (d : Dev) (c : Nat) (s : Option Staged) : Dev :=
  match s with
  | some x => ((x.recd.zipIdx.filter (fun p => isHot p.2)).foldl (fun (d : Dev) (p : Word × Nat) => d.setCtxW c p.2 p.1) d).setCtxFld c 3 16 6 (d.pendOf c)
  | none => d
/-- A context is switched in on an idle engine (R133). -/
def switchIn (d : Dev) (e c tsw : Nat) : Dev := (d.claimFor c).bindEng e c tsw

/-- The outgoing context of a switch becomes ADMITTED, and its VER counts the switch-out (R129). -/
def switchOut (d : Dev) (c : Nat) : Dev := (d.setCtxFld c 0 16 8 (d.ctxFld c 0 16 8 + 1)).leave c 2

/-- A switch of engine `e` from context `out`, if any, to `target` with the staged copy `s` (R129, R133): channels of both sets pass directly,
since the target claims its set before the claims of the outgoing context are settled. -/
def switchTo (d : Dev) (e : Nat) (out : Option Nat) (target tsw : Nat) (s : Option Staged) : Dev :=
  let d := (d.loadHot target s).claimFor target
  let d := match out with
    | some c => d.switchOut c
    | none => d
  (d.settle (Reg.eng_SW_CFG e)).bindEng e target tsw

/-- A switch completed (R133, R150). -/
def switchDone (d : Dev) (e : Nat) : Dev := (d.raise (Reg.eng_EVENTS e) 2).bump (Reg.eng_SWITCH_CNT e)

/-- The target of the switch input that is in force, when it is enabled (R130). -/
def swTarget (d : Dev) (e : Nat) : Option Nat :=
  if d.bit (Reg.eng_SW_CFG e) 16 && !d.corrupt (Reg.eng_SW_CFG e) 4 && !d.corrupt (Reg.eng_CFG e) 4 then some (d.effFld (Reg.eng_SW_CFG e) 0 14) else none

/-- A slot holds a complete copy of context `c` whose VER is the store's (R130). -/
def current (d : Dev) (s : Option Staged) (c : Nat) : Bool :=
  match s with
  | some x => x.done && x.ctx == c && x.ver == d.ctxFld c 0 16 8
  | none => false

/-- The words of the 16 entries from a context's PC on. -/
def entryWords (d : Dev) (c : Nat) : List Word := (List.range 64).map (fun i => SMap.get 0 d.prog ((4 * d.ctxPc c + i) % 2^22))
/-- A copy of context `c` whose copying is complete (R130). Log entry 23, DEDUCED, unsafe. -/
def fullCopy (d : Dev) (c ver : Nat) : Staged := ⟨c, ver, true, (List.range 128).map (fun i => d.storeW c i), d.entryWords c⟩
/-- A copy that a slot holds once its copying is complete stays in the bank until another replaces it (R121). -/
def slotHolds (x : Eng) (slot : Nat) (s : Staged) : SMap (List Word) := SMap.set [] x.left (slot + 1) (s.recd ++ s.prog)
/-- Context `c` is being staged in another slot than S0 of engine `e` (R130). -/
def stagedElsewhere (d : Dev) (e c : Nat) : Bool :=
  (List.range 64).any (fun r =>
    let busy (s : Option Staged) : Bool := s.any (fun x => x.ctx == c && !x.done)
    (r != e && busy (d.engOf r).s0) || busy (d.engOf r).s1)
/-- The staging of context `c` in slot S0 of engine `e` may start. -/
def mayStage (d : Dev) (e c : Nat) : Bool := d.ctxState c != 3 && !d.stagedElsewhere e c

/-- Why a context cannot be switched in for owner `o` (R134): exception code and detail. -/
def switchFails (d : Dev) (target : Nat) (o out : Option Nat) : Option (Nat × Nat) :=
  if d.ctxState target ≠ 2 ∨ d.ctxRecOwner target ≠ o ∨ (d.foreignChan target).isSome then some (0x10, target)
  else match d.conflict target out with
    | some n => some (0x11, target + n * 2^16)
    | none => none

/-- The replacement for a retired engine (R145): the lowest idle engine of the same owner, else the lowest idle spare. -/
def replacement (d : Dev) (e : Nat) : Option Nat :=
  match (List.range 64).find? (fun r => r != e && d.engIdle r && !d.isSpare r && d.engOwner r == d.engOwner e) with
  | some r => some r
  | none => (List.range 64).find? (fun r => r != e && d.engIdle r && d.isSpare r)

/-- Ownership fields of an engine's STATUS follow its owner (R150). -/
def setEngOwner (d : Dev) (e : Nat) (o : Option Nat) (spare : Bool) : Dev :=
  let d := d.updEng e (fun x => { x with owner := o })
  let d := (d.setFld (Reg.eng_STATUS e) 18 4 (o.getD 0)).setBit (Reg.eng_STATUS e) 22 o.isNone
  let d := d.setBit (Reg.eng_STATUS e) 23 spare
  let a := Reg.pool_SPARE_LO + 4 * (e / 32)
  d.setBit a (e % 32) spare

/-- Put a task input's registers, latch and inbox over to another input; the source input returns to its reset values. -/
def moveTin (d : Dev) (i j : Nat) : Dev :=
  let regs := [Reg.tin_SEL, Reg.tin_LAT, Reg.tin_STATE, Reg.tin_COALESCE, Reg.tin_EVENTS, Reg.tin_OVR_CNT, Reg.tin_OVR_FIRST_LO, Reg.tin_OVR_FIRST_HI]
  let d := regs.foldl (fun d r =>
    let held := SMap.get none d.inforce (r i)
    let d := (d.wr (r j) (d.rd (r i))).wr (r i) (regReset (r i))
    { d with inforce := SMap.set none (SMap.set none d.inforce (r j) held) (r i) none }) d
  { d with tin := SMap.set {} (SMap.set {} d.tin j (d.tinOf i)) i {} }

/-- The event inputs and the switch input of an engine go to its replacement, with latches, routes and SW_CFG (R145). -/
def moveInputs (d : Dev) (e r : Nat) : Dev :=
  let d := (List.range 4).foldl (fun d k =>
    let l := SMap.get none d.ei (e * 4 + k)
    let d := { d with ei := SMap.set none (SMap.set none d.ei (r * 4 + k) l) (e * 4 + k) none }
    let d := (d.wr (Reg.engIn_STATE r k) (d.rd (Reg.engIn_STATE e k))).wrN (Reg.engIn_STATE e k) 0
    d.moveTin (e * 4 + k) (r * 4 + k)) d
  let d := d.moveTin (256 + e) (256 + r)
  let d := (d.wr (Reg.eng_SW_CFG r) (d.rd (Reg.eng_SW_CFG e))).settle (Reg.eng_SW_CFG r)
  d.updEng r (fun x => { x with s0 := none })

/-- Retire an engine (R145). Its running context starts its move to a replacement, whose record of the cause is `exc`;
with no replacement the context becomes ADMITTED. With no context bound nothing is moved, and the record of a fault is queued under its own code
(R148; log entry 21, DEDUCED, unsafe). The engine leaves its owner's reservation. -/
def retire (d : Dev) (e : Nat) (exc : List Nat) : Dev :=
  let owner := d.engOwner e
  let found := d.replacement e
  let ctx := d.engCtx e
  let d := match ctx, found with
    | some c, some r =>
      let d := ((d.keepLive e c).unmirror e c).setCtx64 c 56 ((d.ctx64 c 56 + (d.engOf e).run) % 2^64)
      let d := if d.isSpare r then d.setEngOwner r owner false else d
      let d := d.moveInputs e r
      let x := d.engOf e
      let d := (d.setFld (Reg.eng_STATUS r) 0 16 (2^14 + c)).setBit (Reg.eng_STATUS r) 15 (d.bit (Reg.eng_STATUS e) 15)
      let d := d.setCtxFld c 0 8 6 r
      let d := d.updEng r (fun y => { y with used := true, moving := some e, run := 0, released := x.released, swWait := x.swWait,
                                             swLate := x.swLate, tsw := x.tsw, s1 := none, lines := [] })
      let d := { d with launches := d.launches.map (fun (l : Launch) => if l.ctx == c then { l with eng := r } else l) }
      let d := d.unbind e
      d.fault 6 { code := 0x23, kind := 2, obj := e, time := d.nowT, detail := exc, part := owner.getD 0, pf := owner.isNone, aux := r }
    | some c, none =>
      let d := d.leave c 2
      d.faultOf 6 0x24 2 e owner exc
    | none, _ => if exc.isEmpty then d else d.faultOf 6 (exc.getD 0 0 % 2^8) 2 e owner exc
  let d := d.setEngOwner e none false
  let d := d.setBit (Reg.pool_IN_SERVICE_LO + 4 * (e / 32)) (e % 32) false
  (d.setBit (Reg.eng_STATUS e) 24 true).updEng e (fun x => { x with s0 := none, s1 := none, lines := [] })

/-- An engine fault (R148 codes 0x20 to 0x22): the record is written, the engine-exception source fires, and the engine is
retired. `flag` is the fault's own flag in EVENTS. Log entry 21, DEDUCED, unsafe. -/
def engineFault (d : Dev) (e code detail flag : Nat) : Dev :=
  let w := d.excWordsOf e (d.engCtx e) code detail
  let d := d.putExc e w
  let d := match d.engCtx e with
    | some c => (List.range 8).foldl (fun (d : Dev) i => d.setCtxW c (48 + i) (BitVec.ofNat 32 (w.getD i 0))) d
    | none => d
  let d := d.raise (Reg.eng_EVENTS e) (1 + flag)
  let d := if d.bit (Reg.eng_CFG e) 0 then d.fireNow 978 else d
  d.retire e w

/-! ## ECC of the engine banks (R142) -/

/-- A corrected error of engine `e`'s bank is counted. -/
def bankCorrected (d : Dev) (e : Nat) : Dev := (d.raise (Reg.eng_EVENTS e) 8).bump (Reg.eng_BANK_CORR_CNT e)

/-- The mirror meets an uncorrectable word at byte `off` of the live record: the context store keeps its last good copy of the two words of
the record that it holds. Hot state alone is mirrored (R141). -/
def stopMirror (d : Dev) (e c off : Nat) : Dev :=
  let w := (off - 0x20000) / 8 * 2
  let new := ([w, w + 1].filter (fun w => isHot w && !(d.engOf e).stuck.any (fun p => p.1 == w))).map (fun w => (w, d.ctxW c w))
  d.updEng e (fun x => { x with stuck := x.stuck ++ new })

/-! ## The instruction caches (R120, R147) -/

/-- Half `half` of engine `e`'s instruction cache is filled from the microcode slot of its number. Log entry 23, DEDUCED, unsafe. -/
def fillCache (d : Dev) (e half : Nat) : Dev :=
  let base := e * 2^18 + half * 2^16
  let to_ := e * 2^15 + half * 2^14
  { d with icache := d.icache.filter (fun p => decide (p.1 < to_)) ++
      ((d.bank.filter (fun p => decide (base ≤ p.1 ∧ p.1 < base + 2^14))).map (fun p => (p.1 - base + to_, p.2))) ++
      d.icache.filter (fun p => decide (to_ + 2^14 ≤ p.1)) }

/-- The first lines of the targets of the BR entries among the 16 from an address (R137). -/
def brNear (d : Dev) (a : Nat) : List Nat :=
  (List.range 16).filterMap (fun i =>
    let n := d.entryAt (a + i)
    if ent n 0 0 4 = 5 then some (ent n 1 0 20 / 8) else none)

/-- The first lines of the targets of the BR entries in a program-store line (R137). -/
def brLines (d : Dev) (l : Nat) : List Nat :=
  (List.range 8).filterMap (fun i =>
    let n := d.entryAt (8 * l + i)
    if ent n 0 0 4 = 5 then some (ent n 1 0 20 / 8) else none)

end Dev

/-- The issue of PLAY with what the ECC finds in the bank words the engine reads meanwhile (R142): a corrected error is counted; an
uncorrectable one raises BANK_UNCORR, and nothing is issued. -/
def playEccD (e : Fin 64) (ecc : BankEcc) (d : Dev) : Dev :=
  if (d.engCtx e.val).isNone ∨ d.bit (Reg.eng_STATUS e.val) 24 then d
  else match ecc with
    | .clean => playD e d
    | .corrected => playD e (d.bankCorrected e.val)
    | .uncorrectable off => d.engineFault e.val 0x21 off.toNat 0

/-- LINE_FETCH (R90, R120, R136, R137): the prefetch queue takes the next line that it does not hold: the line of the context's PC, the one after
it, the first lines of the targets of the BR entries of both and of the 16 entries from PC on, and the two lines after that; other lines leave. Log entry 20, DESIGN CHOICE, unsafe. -/
def lineFetchD (e : Fin 64) (d : Dev) : Dev :=
  match d.engCtx e.val with
  | none => d
  | some c =>
    let l := d.ctxPc c / 8
    let next (i : Nat) : Nat := (l + i) % 2^17
    let ahead := ([l, next 1] ++ d.brLines l ++ d.brLines (next 1) ++ d.brNear (d.ctxPc c) ++ [next 2, next 3]).eraseDups
    let kept := (d.engOf e.val).lines.filter (fun x => ahead.contains x)
    match ahead.find? (fun x => !kept.contains x) with
    | some x => d.updEng e.val (fun y => { y with lines := kept ++ [x] })
    | none => d

/-- The latched firings that a wait on inputs `mask` accepts (R95, R96). -/
def Dev.latched (d : Dev) (e mask : Nat) : List (Nat × Latch) :=
  (List.range 4).filterMap (fun k => if bitsOf mask k 1 = 1 then (SMap.get none d.ei (e * 4 + k)).map (fun l => (k, l)) else none)

/-- WAIT_RELEASE (R95, R96): the earliest stamp releases the waiting entry, ties going to the lowest input; with WNEW,
firings stamped before the last launch's requested time are discarded. Log entry 21, DEDUCED, unsafe. -/
def waitReleaseD (e : Fin 64) (d : Dev) : Dev :=
  match d.engCtx e.val with
  | none => d
  | some c =>
    let n := d.entryAt (d.ctxPc c)
    let x := d.engOf e.val
    if d.ctxState c ≠ 3 ∨ x.released ∨ x.swWait.isSome ∨ x.moving.isSome ∨ ent n 0 6 4 = 0 ∨ !d.progIn (d.ctxRecOwner c) (d.ctxPc c) then d
    else
      let last := d.ctx64 c 10
      let stale := if ent n 0 10 1 = 1 then (d.latched e.val (ent n 0 6 4)).filter (fun p => p.2.stamp < last) else []
      let d := stale.foldl (fun d p => ({ d with ei := SMap.set none d.ei (e.val * 4 + p.1) none }).wrN (Reg.engIn_STATE e.val p.1) 0) d
      let best := (d.latched e.val (ent n 0 6 4)).foldl (fun (b : Option (Nat × Latch)) p => match b with
        | none => some p
        | some q => if p.2.stamp < q.2.stamp then some p else some q) none
      match best with
      | none => d.setBit (Reg.eng_STATUS e.val) 15 true
      | some (k, l) =>
        ((d.takeRelease e.val c k l).setBit (Reg.eng_STATUS e.val) 15 false).updEng e.val (fun y => { y with released := true })

/-- EVENT_INPUT_FIRING (R94): an empty latch takes the firing, and a full one loses it. -/
def eventInputFiringD (e : Fin 64) (k : Fin 4) (d : Dev) : Dev :=
  let i := e.val * 4 + k.val
  match d.takeFiring i with
  | none => d
  | some (f, d) =>
    match SMap.get none d.ei i with
    | some _ => d.overrun i f.stamp
    | none =>
      if d.tinBad i then d.overrun i f.stamp
      else
      ({ d with ei := SMap.set none d.ei i (some ⟨f.stamp, f.gen, f.coarse⟩) }).wrN (Reg.engIn_STATE e.val k.val)
        (1 + (if f.coarse then 2 else 0) + f.gen * 4)

/-- SW_FIRING (R132 to R134): unless SW is busy, the engine switches to its target at the entry boundary; launches of the
outgoing context at or past the cut-off are withdrawn, and the incoming context holds the firing as its release. A firing past
its time, or marked late or coarse, is recorded late (R31, R35); while device time is not valid it waits. -/
def swFiringD (e : Fin 64) (d : Dev) : Dev :=
  let i := 256 + e.val
  if !d.timeValid then d
  else match d.takeFiring i with
  | none => d
  | some (f, d) =>
    let out := d.engCtx e.val
    match d.swTarget e.val with
    | none => d.overrun i f.stamp
    | some target =>
      if out = some target ∨ d.tinBad i ∨ !d.current (d.engOf e.val).s0 target ∨ d.bit (Reg.eng_STATUS e.val) 24 ∨ (d.engOf e.val).moving.isSome then d.overrun i f.stamp
      else
        let tsw := f.stamp + d.latOf i
        match d.actTime i (d.latOf i) f with
        | (none, d) => d
        | (some _, d') =>
          match d.switchFails target (d.engOwner e.val) out with
          | some (code, detail) => (d.overrun i f.stamp).recordExcOf e.val out code detail
          | none =>
            let d := match out with
              | some c => d'.withdraw c tsw
              | none => d'
            let d := d.switchTo e.val out target tsw (d.engOf e.val).s0
            let d := d.setCtx64 target 6 f.stamp
            let d := d.setCtxFld target 2 24 4 (1 + (if f.coarse then 2 else 0) + 12)
            let d := (d.setCtxFld target 2 28 3 f.gen).setCtxFld target 2 31 1 1
            (d.updEng e.val (fun x => { x with s0 := none })).switchDone e.val

/-- SCHEDULED_SWITCH (R114, R131, R134): at the SWITCH entry's time, once its context's earlier launches are accepted, the
engine switches to the target if a staged copy is current. A switch that must wait for its copy, or that comes past its time, or whose
release was coarse (R98), is late. -/
def scheduledSwitchD (e : Fin 64) (d : Dev) : Dev :=
  match d.engCtx e.val, (d.engOf e.val).swWait with
  | some c, some (target, t) =>
    if !d.due t ∨ !d.timeValid ∨ d.launches.any (fun l => l.ctx == c && !d.awaitsSwitch l && !l.accepted && l.treq < t) then d
    else
      let own (l : Launch) : Bool := l.eng == e.val && d.awaitsSwitch l
      let d0 := { d with launches := d.launches.filter (fun l => !own l) }
      let coarse := d.launches.any (fun l => own l && l.coarse)
      match d.switchFails target (d.engOwner e.val) (some c) with
      | some (code, detail) =>
        let d := (d0.setCtxFld c 2 0 20 (d0.ctxPc c + 2^20 - 1)).updEng e.val (fun x => { x with swWait := none })
        d.raiseExc e.val c code detail
      | none =>
        let x := d.engOf e.val
        if d.current x.s1 target ∨ d.current x.s0 target then
          let d := if x.swLate || coarse || decide (t / 16 < d.nowT / 16) then
              let d := (d0.ctxChans c).foldl (fun d n => (d.raise (Reg.chn_OUT_EVENTS n) 1).bump (Reg.chn_LATE_CNT n)) d0
              d.recordLate t (d.nextTick - t)
            else d0
          let used1 := d.current x.s1 target
          let d := d.switchTo e.val (some c) target 0 (if used1 then x.s1 else x.s0)
          (d.updEng e.val (fun x => if used1 then { x with s1 := none } else { x with s0 := none })).switchDone e.val
        else
          let restage := match x.s1 with
            | some s => s.done || s.ctx != target
            | none => true
          let s1 := if restage then some ⟨target, d.ctxFld target 0 16 8, false, [], []⟩ else x.s1
          let d := if x.swLate then d else d.raise (Reg.eng_EVENTS e.val) 128
          d.updEng e.val (fun x => { x with swLate := true, s1 := s1 })
  | _, _ => d

/-- The copying of a slot completes (R130). Slot S0 takes the switch input's target when it does not hold it, that context is not
running and it is not being staged elsewhere. -/
def Dev.staged (d : Dev) (e : Nat) (slot : Fin 2) : Dev :=
  let x := d.engOf e
  if slot = 0 then
    match d.swTarget e with
    | none => d
    | some t =>
      let put (ver : Nat) : Dev :=
        let s := d.fullCopy t ver
        d.updEng e (fun x => { x with s0 := some s, left := slotHolds x 0 s })
      match x.s0 with
      | some s =>
        if s.ctx = t ∧ !s.done then put s.ver
        else if d.current x.s0 t ∨ !d.mayStage e t then d
        else put (d.ctxFld t 0 16 8)
      | none => if !d.mayStage e t then d else put (d.ctxFld t 0 16 8)
  else
    match x.s1 with
    | some s =>
      let n := d.fullCopy s.ctx s.ver
      if s.done then d else d.updEng e (fun x => { x with s1 := some n, left := slotHolds x 1 n })
    | none => d

/-- STAGING (R130) with what comes about on the bank's ports meanwhile: a write that meets the engine's in one word (R140), and what the
ECC finds (R142): an uncorrectable word of the live record stops its mirror, and any other is one that the engine reads. Log entry 58, DESIGN CHOICE, safe. -/
def stagingD (e : Fin 64) (copy : SlotCopy) (d : Dev) : Dev :=
  let slot := copy.slot
  let d := if copy.collide then ((d.raise (Reg.eng_EVENTS e.val) 4).bump (Reg.eng_COLLIDE e.val)).fireNow 979 else d
  match copy.ecc with
  | .clean => d.staged e.val slot
  | .corrected => (d.bankCorrected e.val).staged e.val slot
  | .uncorrectable off =>
    if 0x20000 ≤ off.toNat ∧ off.toNat < 0x20400 then
      match d.engCtx e.val with
      | some c => (d.stopMirror e.val c off.toNat).staged e.val slot
      | none => d.staged e.val slot
    else if d.bit (Reg.eng_STATUS e.val) 24 then d
    else d.engineFault e.val 0x21 off.toNat 0

/-- Staging of the switch input's target in S0 starts; a target that runs or is being staged elsewhere, or none, leaves S0 empty (R130). -/
def Dev.restage (d : Dev) (e : Nat) : Dev :=
  d.updEng e (fun x => { x with s0 := match d.swTarget e with
    | some t => if d.mayStage e t then some ⟨t, d.ctxFld t 0 16 8, false, [], []⟩ else none
    | none => none })

/-- SW_CFG_APPLY (R130, R150): the written target applies at the entry boundary, and its staging starts. -/
def swCfgApplyD (e : Fin 64) (d : Dev) : Dev :=
  if d.held (Reg.eng_SW_CFG e.val) then (d.settle (Reg.eng_SW_CFG e.val)).restage e.val else d

/-- SELF_TEST (R145): a failed online self-test retires the engine. -/
def selfTestD (e : Fin 64) (pass : Bool) (d : Dev) : Dev :=
  if pass ∨ !d.bit (Reg.eng_CFG e.val) 2 ∨ d.bit (Reg.eng_STATUS e.val) 24 then d
  else d.engineFault e.val 0x20 0 64

/-- PATROL (R143): one window is tested; a test that the engine disturbed is counted as skipped, a failed read-back
retires the engine, and the live-record window is left alone while a context is bound. The first failing word is the first since PATROL_FAIL
was cleared. Log entry 79, DESIGN CHOICE, unsafe. -/
def patrolD (e : Fin 64) (failAt : Option (BitVec 18)) (touched : Bool) (d : Dev) : Dev :=
  let w := d.fld (Reg.eng_PATROL e.val) 16 7
  if !d.bit (Reg.eng_CFG e.val) 1 ∨ d.bit (Reg.eng_STATUS e.val) 24 then d
  else
    let skipLive := w == 64 && d.bit (Reg.eng_STATUS e.val) 14
    let d := d.setFld (Reg.eng_PATROL e.val) 16 7 (w + 1)
    if skipLive then d
    else if touched then d.bump (Reg.eng_PATROL_SKIP e.val)
    else match failAt with
      | none => d
      | some a =>
        let d := if d.bit (Reg.eng_EVENTS e.val) 4 then d else d.wrN (Reg.eng_PATROL_FAIL_ADDR e.val) a.toNat
        d.engineFault e.val 0x22 a.toNat 16

/-- ENG_MOVED (R145): the moved context is staged and switched in on the replacement `e` (R133). -/
def engMovedD (e : Fin 64) (d : Dev) : Dev :=
  match (d.engOf e.val).moving, d.engCtx e.val with
  | some _, some c =>
    let d := d.setCtxFld c 0 16 8 (d.ctxFld c 0 16 8 + 1)
    let d := d.setCtxW c 58 (d.ctxW c 58 + 1)
    let lines := d.stagedLines c
    let d := d.updEng e.val (fun x => { x with moving := none, asleep := false, lines := lines })
    (d.raise (Reg.eng_EVENTS e.val) 32).bump Reg.pool_MOVES
  | _, _ => d

/-- MICROCODE_CHANGE (R147): the engine loads the inactive half of its instruction cache from the new slot and changes halves. Log entry 21, DEDUCED, unsafe. -/
def microcodeChangeD (e : Fin 64) (d : Dev) : Dev :=
  if (d.engOf e.val).mcNew then
    let new := !d.bit (Reg.eng_STATUS e.val) 25
    ((d.fillCache e.val (if new then 1 else 0)).setBit (Reg.eng_STATUS e.val) 25 new).updEng e.val (fun x => { x with mcNew := false })
  else d

/-- PLAY (R105). -/
def execPlay (r : BankRead) (s : State) : Host.Outcome State Fault Refusal :=
  s.onDev (playEccD r.eng r.ecc)

/-- LINE_FETCH (R136). -/
def execLineFetch (e : Fin 64) (s : State) : Host.Outcome State Fault Refusal :=
  s.onDev (lineFetchD e)

/-- WAIT_RELEASE (R95). -/
def execWaitRelease (e : Fin 64) (s : State) : Host.Outcome State Fault Refusal :=
  s.onDev (waitReleaseD e)

/-- EVENT_INPUT_FIRING (R94). -/
def execEventInputFiring (e : Fin 64) (k : Fin 4) (s : State) : Host.Outcome State Fault Refusal :=
  s.onDev (eventInputFiringD e k)

/-- SW_FIRING (R132). -/
def execSwFiring (e : Fin 64) (s : State) : Host.Outcome State Fault Refusal :=
  s.onDev (swFiringD e)

/-- SCHEDULED_SWITCH (R114). -/
def execScheduledSwitch (e : Fin 64) (s : State) : Host.Outcome State Fault Refusal :=
  s.onDev (scheduledSwitchD e)

/-- STAGING (R130). -/
def execStaging (e : Fin 64) (copy : SlotCopy) (s : State) : Host.Outcome State Fault Refusal :=
  s.onDev (stagingD e copy)

/-- SW_CFG_APPLY (R130). -/
def execSwCfgApply (e : Fin 64) (s : State) : Host.Outcome State Fault Refusal :=
  s.onDev (swCfgApplyD e)

/-- SELF_TEST (R145). -/
def execSelfTest (e : Fin 64) (pass : Bool) (s : State) : Host.Outcome State Fault Refusal :=
  s.onDev (selfTestD e pass)

/-- PATROL (R143). -/
def execPatrol (e : Fin 64) (failAt : Option (BitVec 18)) (touched : Bool) (s : State) : Host.Outcome State Fault Refusal :=
  s.onDev (patrolD e failAt touched)

/-- ENG_MOVED (R145). -/
def execEngMoved (e : Fin 64) (s : State) : Host.Outcome State Fault Refusal :=
  s.onDev (engMovedD e)

/-- MICROCODE_CHANGE (R147). -/
def execMicrocodeChange (e : Fin 64) (s : State) : Host.Outcome State Fault Refusal :=
  s.onDev (microcodeChangeD e)

end Sys2Proof.Machine
end

