-- ==== Sys2Proof/Machine/Playout.lean ====
section
/-! DEFINITION. Launches and playout (chapters 2 to 4): accepting launch records, starting segments and gaps, passes, ends,
marker edges, underruns, ring fills and launch inputs. -/
namespace Sys2Proof.Machine
namespace Dev

/-! ## Shared by the playout units -/

/-- The pending-launch count that a context's record shows (R123). -/
def setPend (d : Dev) (c : Nat) : Dev := d.setCtxFld c 3 16 6 (d.pendOf c)

/-- Buffered values of a channel apply at a segment boundary at `t` (R202); DELAY and STATIC_CODE have rules of their own. Log entry 15, DESIGN CHOICE, unsafe. Log entry 33, DESIGN CHOICE, unsafe. -/
def boundary (d : Dev) (ch t : Nat) : Dev :=
  let old := (t, d.eff (Reg.chn_GAIN ch), d.eff (Reg.chn_OFFSET ch))
  let d := if d.held (Reg.chn_GAIN ch) || d.held (Reg.chn_OFFSET ch) then
      d.updChan ch (fun (c : Chan) => { c with trims := old :: c.trims.filter (fun b => decide (t < b.1 + 1024 + 64 * d.chI ch)) })
    else d
  let idle := (t, d.idleLevel ch)
  let d := if d.held (Reg.chn_CFG ch) || d.held (Reg.chn_OFFSET ch) || d.held (Reg.chn_IDLE_CODE ch) then
      d.updChan ch (fun (c : Chan) => { c with idles := idle :: c.idles.filter (fun b => decide (t < b.1 + 1024 + 64 * d.chI ch)) })
    else d
  (((d.settle (Reg.chn_CFG ch)).settle (Reg.chn_GAIN ch)).settle (Reg.chn_OFFSET ch)).settle (Reg.chn_IDLE_CODE ch)

/-- Bytes that a streamed play has taken from its ring by device time `t`, beyond its resident head (R70). -/
def ringTaken (d : Dev) (ch : Nat) (p : Play) (t : Nat) : Nat :=
  let i := d.chI ch
  let head := dHead p.desc * 4096
  let x := min t p.stop - p.start
  let whole := x / max 1 p.dur
  let k := min p.len ((x % max 1 p.dur + i - 1) / i)
  whole * (dBytes p.desc - head) + (k * dWidth p.desc - head)

/-- Bytes of a stream that its play has taken from the ring by now. -/
def takenOf (d : Dev) (ch : Nat) (s : Stream) : Nat :=
  match (d.chanOf ch).cur with
  | some p => if p.ctx == s.ctx && p.lsn == s.lsn then min s.filled (d.ringTaken ch p d.nowT) else 0
  | none => 0

/-- Bytes of a channel's ring that are taken: by data not yet consumed, or requested and still to come (R66). -/
def ringUsed (d : Dev) (ch : Nat) : Nat :=
  let c := d.chanOf ch
  c.ringWr - ((c.streams.filter (fun s => decide (0 < s.asked))).map (fun s => s.start + d.takenOf ch s)).foldl min c.ringWr

/-- Bytes of a channel's ring that are filled and not yet consumed (R71, R85). -/
def ringFilled (d : Dev) (ch : Nat) : Nat := ((d.chanOf ch).streams.map (fun s => s.filled - d.takenOf ch s)).foldl (· + ·) 0

/-- LOW_WM in bytes (R71). -/
def lowWm (d : Dev) (ch : Nat) : Nat := d.fld (Reg.chn_SC_LAYOUT ch) 16 8 * 4096

/-- A channel's stream of a launch is gone: played, abandoned or withdrawn. -/
def dropStream (d : Dev) (ch ctx lsn : Nat) : Dev :=
  d.updChan ch (fun c => { c with streams := c.streams.filter (fun s => !(s.ctx == ctx && s.lsn == lsn)) })

/-- Less than the prefill of R73 stands in the ring for a streamed launch: LOW_WM units, or all its data where that is
less. Log entry 23, DEDUCED, unsafe. -/
def shortOf (d : Dev) (ch ctx lsn : Nat) : Bool :=
  match d.streamOf ch ctx lsn with
  | some s => decide (s.filled < min (d.lowWm ch) (s.bytes * s.passes))
  | none => false

/-- A channel underruns from device time `t` on (R72): safe code stands for the rest of the launch, the loss is flagged, counted in words of
16 tDC and fired, and the fill engine abandons the rest of the data. `miss` says that the prefill was missed (R73). Log entry 23, DEDUCED, unsafe. -/
def underrunAt (d : Dev) (ch : Nat) (p : Play) (t : Nat) (miss : Bool) : Dev :=
  let a := Reg.chn_SC_EVENTS ch
  let d := if d.bit a 0 then d else d.wr64 (Reg.chn_UNDERRUN_FIRST_LO ch) t
  let d := (d.raise a (if miss then 3 else 1)).addSat (Reg.chn_UNDERRUN_CNT ch) (ceilDiv (p.stop - t) 16)
  let got := ((d.streamOf ch p.ctx p.lsn).map (fun s => s.filled)).getD 0
  let d := (d.dropStream ch p.ctx p.lsn).updChan ch (fun (c : Chan) => { c with cur := c.cur.map (fun (q : Play) => { q with undr := some t, got := got }) })
  d.fire (6 * ch + 4) t p.gen

/-- The device time of the first sample of what channel `ch` plays that its ring does not hold (R72). Units of the head do not come from the
ring (R74). -/
def firstMissing (d : Dev) (ch : Nat) (p : Play) : Option Nat :=
  match d.streamOf ch p.ctx p.lsn with
  | none => none
  | some s =>
    if s.bytes * s.passes ≤ s.filled then none
    else some (p.start + s.filled / max 1 s.bytes * p.dur + (dHead p.desc * 4096 + s.filled % max 1 s.bytes) / dWidth p.desc * d.chI ch)

/-- When the head of what channel `ch` plays ends (R73). -/
def headEnd (d : Dev) (ch : Nat) (p : Play) : Nat := p.start + dHead p.desc * 4096 / dWidth p.desc * d.chI ch

/-- The underrun of channel `ch` that falls due in the tick at hand (R72, R73): from the first sample that the ring lacks, or, with the prefill
missed, from the end of the head. -/
def underrunDue (d : Dev) (ch : Nat) : Option (Play × Nat × Bool) :=
  match (d.chanOf ch).cur with
  | none => none
  | some p =>
    if !dStreamed p.desc ∨ p.seg.isNone ∨ p.undr.isSome ∨ !d.timeValid then none
    else
      let h := d.headEnd ch p
      if dHead p.desc ≠ 0 ∧ d.nowT ≤ h ∧ d.due h ∧ h < p.stop ∧ d.shortOf ch p.ctx p.lsn then some (p, h, true)
      else match d.firstMissing ch p with
        | some t => if d.due t ∧ t < p.stop then some (p, t, false) else none
        | none => none

/-- A channel that lacks data in the tick at hand underruns. -/
def takeUnderrun (d : Dev) (ch : Nat) : Dev :=
  match d.underrunDue ch with
  | some (p, t, miss) => d.underrunAt ch p t miss
  | none => d

/-- The acceptance deadline of a launch on channel `ch` falls in the tick at hand, and its stream lacks its prefill (R27, R73); one with a head
is tested at the head's end. -/
def prefillMissed (d : Dev) (ch : Nat) (l : Launch) : Bool :=
  let j := l.chans.idxOf ch
  let w := l.descs.getD j []
  l.accepted && dStreamed w && dHead w == 0 && d.nowT / 16 + d.lPipe ch == l.teff / 16 && d.shortOf ch l.ctx l.lsn

/-- The prefill tests of the tick at hand (R73). -/
def testPrefill (d : Dev) : Dev :=
  { d with launches := d.launches.map (fun l => { l with short := l.short ++ l.chans.filter (fun ch => !l.short.contains ch && d.prefillMissed ch l) }) }

/-- What a channel plays ends (R208): SEG_END fires with the end of its last pass, and its stream is done. Log entry 70, DEDUCED, unsafe. -/
def finish (d : Dev) (ch : Nat) : Dev :=
  match (d.chanOf ch).cur with
  | none => d
  | some p =>
    let d := (d.dropStream ch p.ctx p.lsn).updChan ch (fun c =>
      { c with cur := none, prev := p :: c.prev.filter (fun q => decide (p.stop < q.stop + 1024 + 64 * d.chI ch)), dlyEnd := if p.seg.isSome then p.stop else c.dlyEnd })
    (d.boundary ch p.stop).fire (6 * ch + 1) p.stop p.gen

/-! ## Acceptance (R26, R27, R125, R146) -/

/-- A playout unit drops a record that it has seen (R146). Log entry 22, DEDUCED, unsafe. -/
def stale (d : Dev) (ch : Nat) (l : Launch) : Bool :=
  match (d.chanOf ch).lastAcc with
  | some (c, n) => c == l.ctx && !(decide (1 ≤ (l.lsn + 2^16 - n) % 2^16) && decide ((l.lsn + 2^16 - n) % 2^16 < 2^15))
  | none => false

/-- The effective launch time of a record accepted now on channels `chs` (R26, R27, R125, R132). -/
def effTime (d : Dev) (l : Launch) (chs : List Nat) : Nat :=
  let lp := chs.foldl (fun m n => max m (d.lPipe n)) 0
  let tick := d.nowT / 16
  let t0 := max l.treq l.tmin
  let t1 := if l.kind.isSpan then chs.foldl (fun m n => max m (d.chanEnd n)) t0 else t0
  let t2 := if l.treq / 16 < tick + lp then max t1 ((tick + lp) * 16) else t1
  if l.coarse then max t2 d.nextTick else t2

/-- The marker edges of one channel for one pass of a PLAY (R109): `dur` its pass, `len` its segment, `i` its
interpolation. Log entry 25, DEDUCED, unsafe. -/
def passEdges (mode ofs t0 dur len i : Nat) : List (Nat × Bool) :=
  let at_ := t0 + min ofs (len - 1) * i
  match mode with
  | 1 => [(at_, true)]
  | 2 => [(at_, false)]
  | 3 => [(at_, true), (t0 + dur, false)]
  | _ => []

/-- All marker edges of an accepted launch on channel `ch`, whose segment has `len` samples (R109, R112). -/
def edgesOf (d : Dev) (l : Launch) (t ch len : Nat) : List Edge :=
  let at_ (m : Nat) (x : Nat × Bool) : Edge := ⟨ch, m, x.1, x.2, l.ctx, l.lsn, l.gen⟩
  match l.kind with
  | .play _ passes _ ma mb maOfs mbOfs mkp dur =>
    (List.range (if mkp then passes else 1)).flatMap (fun p =>
      (passEdges ma maOfs (t + p * dur) dur len (d.chI ch)).map (at_ 0) ++ (passEdges mb mbOfs (t + p * dur) dur len (d.chI ch)).map (at_ 1))
  | .mark ma mb width =>
    let one (mode : Nat) : List (Nat × Bool) := match mode with
      | 1 => [(t, true)]
      | 2 => [(t, false)]
      | 3 => [(t, true), (t + 2 * width, false)]
      | _ => []
    (one ma).map (at_ 0) ++ (one mb).map (at_ 1)
  | _ => []

/-- The segments a launch plays on its channels; none for another launch than a PLAY. -/
def segsOf (l : Launch) : List Nat := match l.kind with
  | .play segs .. => segs
  | _ => []

/-- A record is accepted by the channels of its set that have not seen it: it takes its effective time, its descriptors
(R62) and its marker edges, and a late one is recorded once for the device, with its requested time, be it late or formed from a coarse stamp (log entry 82, DESIGN CHOICE,
unsafe), and once for each channel. -/
def acceptRec (d : Dev) (l : Launch) : Dev :=
  let pairs := (l.chans.zip (segsOf l ++ List.replicate l.chans.length 0)).filter (fun p => !d.stale p.1 l)
  let chs := pairs.map (fun p => p.1)
  let others := d.launches.erase l
  if chs.isEmpty && !l.chans.isEmpty then ({ d with launches := others }).setPend l.ctx
  else
    let t := d.effTime l chs
    let descs := pairs.map (fun p => d.chDesc p.1 p.2)
    let kind := match l.kind with
      | .play _ a b c e f g h i => .play (pairs.map (fun p => p.2)) a b c e f g h i
      | k => k
    let l' : Launch := { l with chans := chs, kind := kind, accepted := true, teff := t, descs := if (segsOf l).isEmpty then [] else descs, arr := d.arrCtr }
    let edges := (chs.zip descs).flatMap (fun p => d.edgesOf l' t p.1 (dLen p.2))
    let d := { d with launches := others ++ [l'], edges := d.edges ++ edges, arrCtr := d.arrCtr + 1 }
    let d := chs.foldl (fun d n => d.updChan n (fun c => { c with lastAcc := some (l.ctx, l.lsn) })) d
    if t = l.treq ∧ !l.coarse then d
    else
      let d := chs.foldl (fun d n => (d.raise (Reg.chn_OUT_EVENTS n) 1).bump (Reg.chn_LATE_CNT n)) d
      let d := match l.li with
        | some k => d.raise (Reg.tin_EVENTS (320 + k)) 4
        | none => d
      d.recordLate l.treq (t - l.treq)

/-! ## Starting a launch -/

/-- A segment or gap starts on a channel at `t` (R26, R108, R177, R182): what was playing ends, buffered values apply, the
source fires, and a stream without its prefill underruns from its first sample (R73). Log entry 70, DEDUCED, unsafe. A pass whose stretch is too large and
whose envelope may not be used sets both flags (log entry 83, DESIGN CHOICE, unsafe). -/
def startPlay (d : Dev) (ch t : Nat) (p : Play) : Dev :=
  let d := d.finish ch
  let seamless := match (d.chanOf ch).prev with
    | q :: _ => q.seg.isSome && q.stop == t
    | [] => false
  let d := d.boundary ch t
  let a := Reg.chn_DELAY ch
  let units (w : Nat) : Nat := bitsOf w 16 10 * 256 + bitsOf w 0 8
  let d := if p.seg.isSome && !seamless && d.held a
      && decide ((d.chanOf ch).dlyEnd * 256 + units (d.eff a).toNat ≤ t * 256 + units (d.rdN a)) then d.settle a else d
  let start := match d.streamOf ch p.ctx p.lsn with
    | some s => s.start
    | none => (d.chanOf ch).ringWr
  let d := d.updChan ch (fun c => { c with cur := some { p with ringAt := start, dly := d.delayOf ch, bankAt := d.copyAt ch p.seg } })
  let d := d.fire (6 * ch) t p.gen
  let mask := (if d.overStretch ch p then 8 else 0) +
    (if dKind p.desc == 2 && !d.envOk (ch / 16) (dfld p.desc 3 0 12) (dOwner p.desc) then 16 else 0)
  let d := if p.seg.isSome && mask != 0 then d.raise (Reg.chn_SYN_EVENTS ch) mask else d
  if p.short then d.underrunAt ch p t true else d

/-- A launch reaches its effective time (R93, R108, R110 to R113). -/
def perform (d : Dev) (l : Launch) : Dev :=
  let d := { d with launches := d.launches.erase l }
  let d := match l.kind with
    | .play .. | .gap _ => (l.chans.zipIdx).foldl (fun (d : Dev) (p : Nat × Nat) => match playOf l p.2 with
        | some q => d.startPlay p.1 l.teff q
        | none => d) d
    | .frame fact f v => l.chans.foldl (fun (d : Dev) (n : Nat) => d.updChan n (fun (c : Chan) => { c with frActs := c.frActs ++ [(⟨0, fact, f, v, 0, l.treq, l.teff, true, l.arr⟩ : FrAct)] })) d
    | .event u => d.fire (576 + 4 * l.src + u) l.teff l.gen
    | _ => d
  (d.setPend l.ctx).settleClaims

/-- The first of the launches of a context that reaches its time. -/
def firstLaunch : List Launch → Option Launch
  | [] => none
  | a :: r => match firstLaunch r with
    | none => some a
    | some b => if b.teff < a.teff then some b else some a

end Dev

/-- LAUNCH_RECORD (R26, R27, R125, R146): the playout units take the oldest record of the engine that waits. -/
def launchRecordD (e : Fin 64) (d : Dev) : Dev :=
  if !d.timeValid then d
  else match d.launches.find? (fun l => l.eng == e.val && !l.accepted && !d.awaitsSwitch l) with
    | some l => d.acceptRec l
    | none => d

/-- LAUNCH (R26, R93): the context's next accepted launch, when its effective time has come. -/
def launchD (c : Fin 10240) (d : Dev) : Dev :=
  if !d.timeValid then d
  else match Dev.firstLaunch (d.launches.filter (fun l => l.ctx == c.val && l.accepted && d.due l.teff)) with
    | some l => d.perform l
    | none => d

/-- PASS_START (R108, R202): the next pass starts at the next multiple of dur, at a boundary of its own. -/
def passStartD (ch : Fin 96) (d : Dev) : Dev :=
  match (d.chanOf ch.val).cur with
  | none => d
  | some p =>
    let t := p.start + (p.pass + 1) * p.dur
    if p.passes ≤ p.pass + 1 ∨ !d.due t ∨ !d.timeValid then d
    else
      let d := (d.boundary ch.val t).updChan ch.val (fun c => { c with cur := some { p with pass := p.pass + 1 } })
      let mask := (if d.overStretch ch.val p then 8 else 0) +
        (if dKind p.desc == 2 && !d.envOk (ch.val / 16) (dfld p.desc 3 0 12) (dOwner p.desc) then 16 else 0)
      if mask = 0 then d else d.raise (Reg.chn_SYN_EVENTS ch.val) mask

/-- SEG_END (R127, R183, R208): the last pass ends, and unless a launch follows at the same time the channel gives its idle
level. -/
def segEndD (ch : Fin 96) (d : Dev) : Dev :=
  match (d.chanOf ch.val).cur with
  | none => d
  | some p =>
    if !d.due p.stop ∨ !d.timeValid then d
    else (d.finish ch.val).settleClaims

/-- MARKER_EDGE (R109): the edges of one marker at its next time set its level, the last of them in issue order; a rise
from low fires the marker's source. -/
def markerEdgeD (ch : Fin 96) (b : Fin 2) (d : Dev) : Dev :=
  let mine := d.edges.filter (fun e => e.ch == ch.val && e.mark == b.val)
  match mine with
  | [] => d
  | e0 :: _ =>
    let t := mine.foldl (fun m e => min m e.time) e0.time
    if !d.due t ∨ !d.timeValid then d
    else
      match (mine.filter (fun e => e.time == t)).getLast? with
      | none => d
      | some e =>
        let before := if b.val = 0 then (d.chanOf ch.val).mkA else (d.chanOf ch.val).mkB
        let d := { d with edges := d.edges.filter (fun x => !(x.ch == ch.val && x.mark == b.val && x.time == t)) }
        let d := d.updChan ch.val (fun c => if b.val = 0 then { c with mkA := e.level } else { c with mkB := e.level })
        let d := if e.level && !before then d.fire (6 * ch.val + 2 + b.val) t e.gen else d
        let lines := (List.range 32).filter (fun k =>
          let cfg := (d.eff (Reg.mk_CFG k)).toNat
          !d.corrupt (Reg.mk_CFG k) 16 && bitsOf cfg 0 2 == 1 + b.val && bitsOf cfg 2 7 == ch.val)
        (if e.level = before then d else lines.foldl (fun d k => d.refreshLine k t false) d).settleClaims

/-- UNDERRUN (R72, R73): in the tick at hand the ring of channel `k` of tile `t` lacks a word that its playout unit needs or, with `atHead`, its
prefill at the end of the head. -/
def underrunD (t : Fin 6) (k : Fin 16) (atHead : Bool) (d : Dev) : Dev :=
  match d.underrunDue (chanAt t k) with
  | some (p, at_, miss) => if miss == atHead then d.underrunAt (chanAt t k) p at_ miss else d
  | none => d

/-- The DRAM subsystem is frozen (R398). -/
def Dev.frozen (d : Dev) : Bool := d.bit Reg.dramG_STATUS 0

/-- No DMC serves requests: a freeze, DRAM that is unusable (R380), or the XPLL in holdover or bypass or not yet locked
after a wake (R366, R372). -/
def Dev.dramShut (d : Dev) : Bool := d.frozen || d.bit Reg.dramG_STATUS 1 || d.bit Reg.clk_STATUS 6 || d.bit Reg.clk_STATUS 5 || d.clk.waking

/-- The engine of launch input `k`'s context has no free issue slot or no place for a launch (R87, R224). Log entry 66, DEDUCED, unsafe. -/
def Dev.liFull (d : Dev) (k : Nat) : Bool :=
  let c := d.fld (Reg.li_CFG k) 0 14
  match d.ctxEng c with
  | some e => decide (32 ≤ d.engPend e) || decide (d.nowT / 16 < (d.engOf e).slotTick) || (d.engOf e).moving.isSome
  | none => false

/-- A launch of launch input `k` awaits acceptance (R223, R238): one that is issued, or one that waits for its issue slot. Log entry 66, DEDUCED, unsafe. -/
def Dev.liAwaits (d : Dev) (k : Nat) : Bool :=
  d.launches.any (fun l => l.li == some k && !l.accepted) || (!(d.tinOf (320 + k)).inbox.isEmpty && d.liFull k)

/-- Launch input `k` can take no firing (R223, R423), whatever launch of it may wait for its slot. Log entry 66, DEDUCED, unsafe. -/
def Dev.liShut (d : Dev) (k : Nat) : Bool :=
  let c := d.fld (Reg.li_CFG k) 0 14
  !d.bit (Reg.li_CFG k) 14 || d.tinBad (320 + k) || d.corrupt (Reg.li_CFG k) 32 || d.ctxState c != 3 || d.badSeg c (d.fld (Reg.li_SEG k) 0 16) ||
  d.launches.any (fun l => l.li == some k && !l.accepted)

/-- A firing at task input `i` is lost (R223). Log entry 66, DEDUCED, unsafe. -/
def Dev.loseFiring (d : Dev) (i : Nat) : Dev :=
  match d.takeFiring i with
  | none => d
  | some (f, d) => d.overrun i f.stamp

/-- The firings behind the first at task input `i` are lost (R223). -/
def Dev.loseLater (d : Dev) (i : Nat) : Dev :=
  match (d.tinOf i).inbox with
  | [] => d
  | h :: r => r.foldl (fun (d : Dev) (x : Held) => (d.setFld (Reg.tin_STATE i) 4 3 x.fire.gen).overrun i x.fire.stamp)
      (d.updTin i (fun (t : TinSt) => { t with inbox := [h] }))

/-- LAUNCH_INPUT (R223 to R225): a firing gives the context of the template a PLAY at stamp + LAT in its engine's next free
issue slot. While the launch waits for that slot, every further firing is lost. -/
def launchInputD (k : Fin 48) (d : Dev) : Dev :=
  let i := 320 + k.val
  if !d.timeValid then d
  else if d.liShut k.val then d.loseFiring i
  else if d.liFull k.val then d.loseLater i
  else
    let cfg := d.rdN (Reg.li_CFG k.val)
    let c := bitsOf cfg 0 14
    let x := d.rdN (Reg.li_SEG k.val)
    let seg := bitsOf x 0 16
    match d.takeFiring i with
    | none => d
    | some (f, d) =>
        match d.ctxEng c with
        | some e =>
          let t := f.stamp + d.latOf i
          if 2^64 ≤ t then d.raise Reg.time_EVENTS 64
          else
            let chans := d.ctxChans c
            let segs := List.replicate chans.length seg
            let passes := bitsOf x 16 16 + 1
            let fov := if bitsOf cfg 15 1 = 1 then some (bitsOf cfg 16 5) else none
            let dur := d.passDur chans segs
            let lsn := (d.ctxFld c 3 0 16 + 1) % 2^16
            let l : Launch :=
              { eng := e, ctx := c, lsn := lsn, chans := chans, kind := .play segs passes fov 0 0 0 0 false dur, treq := t,
                tmin := (d.engOf e).tsw, gen := f.gen + 1, coarse := f.coarse || f.late, li := some k.val, accepted := false,
                teff := 0, descs := [], src := e }
            let d := { d with launches := d.launches ++ [l] }
            let d := (d.setCtxFld c 3 0 16 lsn).setPend c
            let d := d.updEng e (fun y => { y with slotTick := d.nowT / 16 + 2 })
            d.addStreams c lsn passes chans segs
        | none => d.overrun i f.stamp

/-- LAUNCH_RECORD (R27). -/
def execLaunchRecord (e : Fin 64) (s : State) : Host.Outcome State Fault Refusal :=
  s.onDev (launchRecordD e)

/-- MARKER_EDGE (R109). -/
def execMarkerEdge (ch : Fin 96) (b : Fin 2) (s : State) : Host.Outcome State Fault Refusal :=
  s.onDev (markerEdgeD ch b)

/-- LAUNCH_INPUT (R224). -/
def execLaunchInput (k : Fin 48) (s : State) : Host.Outcome State Fault Refusal :=
  s.onDev (launchInputD k)

/-- LAUNCH (R26). -/
def execLaunch (c : Fin 10240) (s : State) : Host.Outcome State Fault Refusal :=
  s.onDev (launchD c)

/-- PASS_START (R108). -/
def execPassStart (ch : Fin 96) (s : State) : Host.Outcome State Fault Refusal :=
  s.onDev (passStartD ch)

/-- SEG_END (R208). -/
def execSegEnd (ch : Fin 96) (s : State) : Host.Outcome State Fault Refusal :=
  s.onDev (segEndD ch)

/-- UNDERRUN (R72). -/
def execUnderrun (t : Fin 6) (k : Fin 16) (atHead : Bool) (s : State) : Host.Outcome State Fault Refusal :=
  s.onDev (underrunD t k atHead)

end Sys2Proof.Machine
end

