-- ==== Sys2Proof/Machine/Bandwidth.lean ====
section
/-! DEFINITION. DRAM space and its bandwidth: the memory map (R382 to R384), stream charges, needs and what is available (R76 to
R79, R405), and PANIC (R71). -/
namespace Sys2Proof.Machine
namespace Dev

/-! ## The memory map -/

/-- GiB of one DMC, by the installed population as POP codes it (R379, R380). -/
def dmcGib (pop : Nat) : Nat := bitsOf pop 0 8 * bitsOf pop 8 2
/-- The DMCs of a window's set, in ascending order. -/
def setDmcs (set : Nat) : List Nat := (List.range 8).filter (fun d => bitsOf set d 1 == 1)
/-- Bytes of the interleaved region. -/
def ilBytes (d : Dev) : Nat := d.mm.il * 2^30

/-- Whether an address lies in populated DRAM space (R383). -/
def populated (d : Dev) (a : Nat) : Bool := a < d.ilBytes || d.mm.pins.any (fun w => decide (w.1 ≤ a ∧ a < w.1 + w.2.1))

/-- The DMC and local address of a DRAM-space address, before any redirect (R384). -/
def home (d : Dev) (a : Nat) : Nat × Nat :=
  if a < d.ilBytes then (a / 4096 % 8, a / 32768 * 4096 + a % 4096)
  else
    let go := d.mm.pins.foldl (fun (st : Option (Nat × Nat) × List Nat) (w : Nat × Nat × Nat) =>
      let set := setDmcs w.2.2
      let k := max 1 set.length
      let u := (a - w.1) / 4096
      let m := set.getD (u % k) 0
      let hit := decide (w.1 ≤ a ∧ a < w.1 + w.2.1)
      (if st.1.isNone && hit then some (m, st.2.getD m 0 + u / k * 4096 + a % 4096) else st.1,
       st.2.zipIdx.map (fun p => if set.contains p.2 then p.1 + w.2.1 / k else p.1))) (none, List.replicate 8 (d.ilBytes / 8))
    go.1.getD (0, 0)

/-- The DRAM-space address of local address `l` of DMC `m`; none in the reserve (R383, R384). -/
def spaceAddr (d : Dev) (m l : Nat) : Option Nat :=
  if l < d.ilBytes / 8 then some ((l / 4096 * 8 + m) * 4096 + l % 4096)
  else
    (d.mm.pins.foldl (fun (st : Option Nat × Nat) (w : Nat × Nat × Nat) =>
      let set := setDmcs w.2.2
      let k := max 1 set.length
      if !set.contains m then st
      else
        let size := w.2.1 / k
        let hit := decide (st.2 ≤ l ∧ l < st.2 + size)
        (if st.1.isNone && hit then some (w.1 + ((l - st.2) / 4096 * k + set.idxOf m) * 4096 + l % 4096) else st.1, st.2 + size))
      (none, d.ilBytes / 8)).1

/-- STATE of a DMC: 0 in service, 1 migrating, 2 out, 3 training, 4 untrained (R407). -/
def dmcState (d : Dev) (m : Nat) : Nat := d.fld (Reg.dram_STATUS m) 0 3
/-- The DMC that is out or migrating. -/
def outDmc (d : Dev) : Option Nat := (List.range 8).find? (fun m => d.bit Reg.dramG_STATUS (4 + m) || d.dmcState m == 1)

/-- Where the reserves begin in every DMC's local space (R383). -/
def reserveAt (d : Dev) : Nat := dmcGib (d.rdN Reg.dramG_POP) * 2^30 - d.mm.res * 2^30

/-- The DMC and local address that serve a DRAM-space address: a switched chunk of the DMC that is out lies in the reserves of the
other seven, and all of its addresses do from the Out phase until its training has ended (R384, R403). -/
def place (d : Dev) (a : Nat) : Nat × Nat :=
  let (m, l) := d.home a
  if d.outDmc = some m ∧ (SMap.get false d.moved (l / 65536) ∨ (d.bit Reg.dramG_STATUS (4 + m) ∧ (d.dmcState m = 2 ∨ d.dmcState m = 3))) then
    let k := l / 4096
    let others := (List.range 8).filter (fun x => x != m)
    (others.getD (k % 7) 0, d.reserveAt + k / 7 * 4096 + a % 4096)
  else (m, l)

/-- The DRAM-space address that local address `l` of DMC `m` serves, if any: the reserve stands for the DMC that is out (R384, R405). -/
def servedAddr (d : Dev) (m l : Nat) : Option Nat :=
  let back := match d.outDmc with
    | some o => if o ≠ m ∧ d.reserveAt ≤ l then
        d.spaceAddr o ((7 * ((l - d.reserveAt) / 4096) + ((List.range 8).filter (fun x => x != o)).idxOf m) * 4096 + l % 4096) else d.spaceAddr m l
    | none => d.spaceAddr m l
  back.filter (fun a => d.place a == (m, l))

/-- The local 64 KiB chunks of DMC `m` that hold a unit of a wiped granule, in ascending order (R403, R404). -/
def chunksOf (d : Dev) (m : Nat) : List Nat :=
  let units := d.wiped.flatMap (fun g => if g.2 then (List.range 256).map (fun j => d.home (g.1 * 2^20 + j * 4096)) else [])
  let found := (units.filter (fun x => x.1 == m)).map (fun x => x.2 / 65536)
  (found.foldl (fun (s : SMap Bool) c => SMap.set false s c true) []).map (fun p => p.1)

/-- K of R405: one more than the highest local unit of DMC `m` in a wiped granule. -/
def unitsUsed (d : Dev) (m : Nat) : Nat :=
  d.wiped.foldl (fun (k : Nat) g => if g.2 then (List.range 256).foldl (fun (k : Nat) j =>
    let x := d.home (g.1 * 2^20 + j * 4096)
    if x.1 = m then max k (x.2 / 4096 + 1) else k) k else k) 0

/-! ## Charges -/

/-- The channels and named segments of an admitted context, as admission holds them. -/
def admList (d : Dev) : List (List Nat × List Nat) :=
  d.adm.filterMap (fun p => p.2.map (fun r => (d.ctxChans p.1, r.segs)))

/-- The DMCs that hold a segment (R63, R64). -/
def placement (ws : List Word) : List Nat := if dPin ws then setDmcs (dfld ws 0 8 8) else List.range 8

/-- The descriptors of the streamed segments that contexts which may drive channel `ch` name. -/
def streamedOn (d : Dev) (adms : List (List Nat × List Nat)) (ch : Nat) : List (List Word) :=
  (adms.flatMap (fun a => if a.1.contains ch then a.2 else [])).eraseDups.filterMap (fun s =>
    let ws := d.chDesc ch s
    if dStreamed ws then some ws else none)

/-- The stream charge of a channel in MB/s (R76). Log entry 43, DEDUCED, unsafe. -/
def charge (d : Dev) (adms : List (List Nat × List Nat)) (ch : Nat) : Nat :=
  let ss := d.streamedOn adms ch
  if ss.isEmpty then 0 else d.ceilFdc (if ss.any dCplx then 4 else 2) (1000 * d.chI ch)

/-- RING_UNITS and LOW_WM of a channel under an admission (R65, R71, R85). A ring that streams is not moved. -/
def ringFor (d : Dev) (adms : List (List Nat × List Nat)) (ch : Nat) : Nat × Nat :=
  let a := Reg.chn_SC_LAYOUT ch
  if d.bit a 24 && (d.chanOf ch).streams.isEmpty then
    let r := d.charge adms ch
    let u := if r = 0 then 0 else max 4 (ceilDiv (16 * r) 4096)
    (u, ceilDiv u 4)
  else (d.fld a 8 8, d.fld a 16 8)

/-- A channel's ring layout follows an admission (R65, R71). -/
def layRing (d : Dev) (adms : List (List Nat × List Nat)) (ch : Nat) : Dev :=
  let u := d.ringFor adms ch
  (d.setFld (Reg.chn_SC_LAYOUT ch) 8 8 u.1).setFld (Reg.chn_SC_LAYOUT ch) 16 8 u.2

/-- What channel `ch` charges on DMC `m` (R77): the largest over the placement sets that hold it. -/
def chargeAt (d : Dev) (adms : List (List Nat × List Nat)) (ch m : Nat) : Nat :=
  let r := d.charge adms ch
  (d.streamedOn adms ch).foldl (fun k ws => if (placement ws).contains m then max k (ceilDiv r (placement ws).length) else k) 0

/-- The need on DMC `m` of the channels `chs`; with a DMC out its charges are spread over the others (R77, R405). -/
def need (d : Dev) (adms : List (List Nat × List Nat)) (chs : List Nat) (out : Option Nat) (m : Nat) : Nat :=
  chs.foldl (fun k ch => k + d.chargeAt adms ch m + (match out with
    | some o => if o = m then 0 else ceilDiv (d.chargeAt adms ch o) 7
    | none => 0)) 0

/-- tRFC1 of the installed DIMMs, in ns (R392). -/
def trfc (d : Dev) : Nat := if d.fld Reg.dramG_POP 12 2 = 0 then 295 else 410

/-- Bandwidth of one DMC that admission may give, in MB/s (R77). -/
def availBw (d : Dev) (doubled : Bool) : Nat :=
  let peak := if d.bit Reg.dramG_STATUS 2 then 51200 else 38400
  let trefi := if doubled then 1950 else 3900
  peak * (trefi - d.trfc) * 80 / (trefi * 100) * (100 - d.limH) / 100

/-- DMC `m` carries an admitted stream charge (R375). -/
def hasCharge (d : Dev) (m : Nat) : Bool :=
  let adms := d.admList
  (List.range 96).any (fun ch => decide (0 < d.chargeAt adms ch m))

/-! ## PANIC (R71) -/

/-- A channel's ring is below its low watermark with a stream pending or playing. -/
def ringLow (d : Dev) (ch : Nat) : Bool :=
  !(d.chanOf ch).streams.isEmpty && decide (d.ringFilled ch < d.lowWm ch)

/-- A channel raises PANIC: its ring is low, and its fill engine has not reached the last unit of its final stream. -/
def panics (d : Dev) (ch : Nat) : Bool :=
  d.ringLow ch && (match (d.chanOf ch).streams.getLast? with
    | some s => decide (s.asked < (s.passes - 1) * s.bytes + (ceilDiv s.bytes 4096 - 1) * 4096)
    | none => false)

/-- The streaming port of tile `t` raises PANIC. -/
def portPanic (d : Dev) (t : Nat) : Bool := t < 6 && (List.range 16).any (fun k => d.panics (16 * t + k))

end Dev
end Sys2Proof.Machine
end

