-- ==== Sys2Proof/Machine/Dram.lean ====
section
/-! DEFINITION. The waveform DRAM's controllers (chapter 14): requests, arbitration, refresh, temperature, errors, the freeze,
self-refresh, migration of chunks, and the wipe. -/
namespace Sys2Proof.Machine
namespace Dev

def dmcOf (d : Dev) (m : Nat) : Dmc := SMap.get {} d.dmc m
def updDmc (d : Dev) (m : Nat) (f : Dmc → Dmc) : Dev := { d with dmc := SMap.upd {} d.dmc m f }

/-- The owed count O (R392). -/
def owed (d : Dev) (m : Nat) : Nat := d.fld (Reg.dram_STATUS m) 6 4
def setOwed (d : Dev) (m o : Nat) : Dev := d.setFld (Reg.dram_STATUS m) 6 4 o
def inSr (d : Dev) (m : Nat) : Bool := d.bit (Reg.dram_STATUS m) 4

/-- A tile port in PANIC has a request waiting for, or queued in, DMC `m` (R390, R392). -/
def dmcPanic (d : Dev) (m : Nat) : Bool :=
  let x := d.dmcOf m
  (x.waiting ++ x.ctl).any (fun r => d.portPanic r.port)

/-- A DMC enters self-refresh: every owed refresh is issued before (R395). -/
def enterSr (d : Dev) (m : Nat) : Dev := (d.setOwed m 0).setBit (Reg.dram_STATUS m) 4 true
/-- A DMC leaves self-refresh: the owed count restarts at 0 (R395). SR_FORCE holds it there (R407). -/
def exitSr (d : Dev) (m : Nat) : Dev :=
  if d.bit (Reg.dram_CFG m) 0 then d else (d.setOwed m 0).setBit (Reg.dram_STATUS m) 4 false

/-- The owed count has come to 4 from `before` (R392). -/
def owedMax (d : Dev) (m before : Nat) : Bool := decide (before < 4 ∧ 4 ≤ d.owed m)

/-- LT of a port, or its default where the DMC's configuration has a parity mismatch (R387, R423). -/
def ltOf (d : Dev) (m p : Nat) : Nat :=
  if d.corrupt (Reg.dram_CFG m) 0x100 then ltDefault p else d.fld (Reg.dram_LT m p) 0 16

/-- Urgency of a request at `ns` (R389). -/
def urgency (r : Req) (ns : Nat) : Nat :=
  match r.deadline with
  | none => 0
  | some t =>
    let left := t - ns
    if 3 * r.lt ≤ 4 * left then 0 else if r.lt ≤ 2 * left then 1 else if r.lt ≤ 4 * left then 2 else 3

/-- The request that wins of two by urgency, deadline and port (R390). -/
def wins (ns : Nat) (a b : Req) : Bool :=
  let ua := urgency a ns
  let ub := urgency b ns
  let ta := a.deadline.getD 0
  let tb := b.deadline.getD 0
  ub < ua || (ua == ub && (ta < tb || (ta == tb && a.port < b.port)))

/-- The best of the waiting requests; of those that tie, the oldest. -/
def best (ns : Nat) : List Req → Option Req
  | [] => none
  | a :: r => match best ns r with
    | none => some a
    | some b => if wins ns b a then some b else some a

/-- The request that DMC `m`'s arbiter chooses (R390), and the tile port it serves in PANIC. -/
def choose (d : Dev) (m ns : Nat) : Option (Req × Option Nat) :=
  let x := d.dmcOf m
  let panic := ((List.range 6).map (fun i => (x.rr + 1 + i) % 6)).findSome? (fun p =>
    if d.portPanic p then (x.waiting.find? (fun r => r.port == p)).map (fun r => (r, some p)) else none)
  match panic with
  | some c => some c
  | none => match best ns (x.waiting.filter (fun r => r.port != 10)) with
    | some r => some (r, none)
    | none => (x.waiting.find? (fun r => r.port == 10)).map (fun r => (r, none))

/-- One of a DMC's queued requests as its snapshot words (R407). -/
def snapWords (r : Req) : Nat × Nat :=
  (1 + (if r.write then 2 else 0) + 4 * r.port + 64 * (r.len / 64 - 1) + (if r.openHint then 512 else 0), r.loc / 128 % 2^32)

/-! ## Local addresses and open rows (R385, R388) -/

/-- What the bits of a local address select (R385). -/
structure DramCell where
  byte   : Nat
  column : Nat
  group  : Nat
  bank   : Nat
  rank   : Nat
  dimm   : Nat
  row    : Nat
deriving DecidableEq, Repr

end Dev

/-- The bits of a local address, by the population as POP codes it (R385). -/
def dramCell (pop l : Nat) : Dev.DramCell :=
  let r := if bitsOf pop 10 2 = 2 then 1 else 0
  let s := if bitsOf pop 8 2 = 2 then 1 else 0
  let row := l / 2^(19 + r + s)
  { byte := l % 128, column := l / 2^7 % 128, group := (l / 2^14 % 8) ^^^ (row % 8), bank := (l / 2^17 % 4) ^^^ (row / 8 % 4),
    rank := l / 2^19 % 2^r, dimm := l / 2^(19 + r) % 2^s, row := row }

namespace Dev

/-- What local address `l` selects in a DMC (R385). -/
def cell (d : Dev) (l : Nat) : DramCell := dramCell (d.rdN Reg.dramG_POP) l
/-- The number of the bank of a cell among those of its DMC. -/
def DramCell.key (x : DramCell) : Nat := x.group + 8 * x.bank + 32 * x.rank + 64 * x.dimm
/-- A request to local address `l` of DMC `m` has ended: with OPEN its row stays open, with CLOSE its bank is precharged (R388). -/
def rowAfter (d : Dev) (m l : Nat) (openHint : Bool) : Dev :=
  let x := d.cell l
  d.updDmc m (fun (y : Dmc) => { y with rows := SMap.set none y.rows x.key (if openHint then some x.row else none) })

/-- A DMC learns the time in ns. -/
def setClock (d : Dev) (m ns : Nat) : Dev := d.updDmc m (fun (x : Dmc) => { x with clock := max x.clock ns })

/-! ## Errors (R396 to R398) -/

/-- A codeword fails uncorrectably, or an RCD reports a parity error (R398): the first freezes the whole subsystem, and a later
one joins the record or is counted. `req` is the request concerned; `map` and `digest` the device map and syndrome. -/
def freezeBy (d : Dev) (m port addr loc : Nat) (readPart ca held : Bool) (map digest : Nat) : Dev :=
  let put (d : Dev) (i : Nat) : Dev :=
    let d := (d.wrN (Reg.frzAddr_LO i) (addr / 128 * 128)).wrN (Reg.frzAddr_HI i) (addr / 2^32)
    (d.wrN (Reg.frzAddr_LOCAL i) (loc / 128)).wrN (Reg.frzAddr_SYN i) (m + 256 * digest)
  let d := d.raise (Reg.dram_EVENTS m) 2
  if d.frozen then
    if !held then d
    else if d.frzN < 8 then
      let d := put d d.frzN
      (({ d with frzN := d.frzN + 1 }).setFld Reg.dramG_FRZ_INFO 9 3 d.frzN)
    else { d.bump Reg.dramG_FRZ_EXTRA with badCw := SMap.set none d.badCw (addr / 128) (some (map, digest)) }
  else
    let info := m + 8 * port + (if readPart then 128 else 0) + (if ca then 256 else 0) + 2^12 * map
    let d := (List.range 8).foldl (fun (d : Dev) (x : Nat) =>
      ((d.dmcOf x).ctl.take 8).zipIdx.foldl (fun (d : Dev) (q : Req × Nat) =>
        (d.wrN (Reg.qsnap_A x q.2) (snapWords q.1).1).wrN (Reg.qsnap_B x q.2) (snapWords q.1).2) d) d
    let d := (d.setBit Reg.dramG_STATUS 0 true).wrN Reg.dramG_FRZ_INFO info
    let d := { (if held then put d 0 else d) with frzN := if held then 1 else 0 }
    let d := (d.wr64 Reg.dramG_FRZ_AT_LO d.nowT).raise Reg.dramG_EVENTS 1
    let d := (List.range 8).foldl (fun (d : Dev) (x : Nat) => d.setOwed x 0) d
    let d := d.fireNow (928 + 4 * m)
    d.faultOf 2 (if ca then 0x51 else 0x50) 4 m none [d.rdN Reg.dramG_FRZ_INFO, d.rdN (Reg.frzAddr_LO 0), d.rdN (Reg.frzAddr_HI 0)]

/-- Errors confined to one device are corrected; those of several are uncorrectable (R396). Log entry 86, DESIGN CHOICE, unsafe. -/
def correctable (map : Nat) : Bool := ((List.range 20).filter (fun i => bitsOf map i 1 == 1)).length == 1

/-- The erring codewords that an access of the `len` bytes at `a` reads, in ascending order, with device map and syndrome: those of a read, or for a
write those that it covers in part (R386). An unwiped granule is not read (R324). -/
def errsIn (d : Dev) (write : Bool) (a len : Nat) : List (Nat × Nat × Nat) :=
  d.badCw.filterMap (fun p => p.2.bind (fun q =>
    if a < p.1 * 128 + 128 ∧ p.1 * 128 < a + len ∧ SMap.get false d.wiped (p.1 / 2^13) ∧ (!write ∨ p.1 * 128 < a ∨ a + len < p.1 * 128 + 128)
    then some (p.1, q) else none))

/-- The first codeword of the `len` bytes at `a` that proves uncorrectable when it is read (R398, R400). -/
def badIn (d : Dev) (a len : Nat) : Option (Nat × Nat × Nat) := (d.errsIn false a len).find? (fun q => !correctable q.2.1)
/-- The same of a write: a codeword that it covers in part, which is read first (R386). -/
def badPart (d : Dev) (a len : Nat) : Option (Nat × Nat × Nat) := (d.errsIn true a len).find? (fun q => !correctable q.2.1)

/-- Devices have come to err in stored codewords (R396); one of an unwiped granule holds nothing, and errors are known where they are read. -/
def spoil (d : Dev) (errs : List CwError) : Dev :=
  { d with badCw := errs.foldl (fun (m : SMap (Option (Nat × Nat))) e =>
      if e.map = 0 ∨ !SMap.get false d.wiped (e.cw / 2^13) then m else SMap.set none m e.cw (some (e.map.toNat, e.digest.toNat))) d.badCw }

/-- Such a codeword freezes DRAM when it is read (R398, R400). Log entry 53, DEDUCED, unsafe. -/
def freezeAt (d : Dev) (port : Nat) (readPart : Bool) (q : Nat × Nat × Nat) : Dev :=
  let (m, l) := d.place (q.1 * 128)
  d.freezeBy m port (q.1 * 128) l readPart false true q.2.1 q.2.2

/-- A read of `len` bytes at `a` through `port` that meets such a codeword. Log entry 53, DEDUCED, unsafe. -/
def meetBad (d : Dev) (port a len : Nat) : Option Dev := (d.badIn a len).map (fun q => d.freezeAt port false q)

/-- A read at local address `l` of DMC `m` was corrected (R397): counted, flagged, its device, rank and DIMM shown, CORR fired once a tick, and more than
CORR_LIMIT corrections within 1 s reported, after which their count starts anew. Log entry 86, DESIGN CHOICE, unsafe. -/
def correctedBy (d : Dev) (m l map : Nat) : Dev :=
  let x := d.dmcOf m
  let tick := d.nowT / 16
  let device := ((List.range 20).find? (fun i => bitsOf map i 1 == 1)).getD 0 + 32 * (d.cell l).rank + 64 * (d.cell l).dimm
  let times := x.corrs.filter (fun t => decide (x.clock < t + 1000000000)) ++ [x.clock]
  let storm := decide (d.rdN (Reg.dram_CORR_LIMIT m) < times.length)
  let d := ((d.bump (Reg.dram_CORR_CNT m)).raise (Reg.dram_EVENTS m) (1 + (if storm then 32 else 0))).wrN (Reg.dram_CORR_DEV m) device
  let d := if x.corrAt = some tick then d else d.fireNow (928 + 4 * m + 1)
  let d := d.updDmc m (fun (x : Dmc) => { x with corrs := if storm then [] else times, corrAt := some tick })
  if storm then d.faultOf 3 0x52 4 m none [times.length, device] else d

/-- An access corrects the codewords that it reads and that one device spoils, and the controller writes them back (R397). -/
def correct (d : Dev) (write : Bool) (a len : Nat) : Dev :=
  ((d.errsIn write a len).filter (fun q => correctable q.2.1)).foldl (fun (d : Dev) q =>
    let (m, l) := d.place (q.1 * 128)
    { (d.correctedBy m l q.2.1) with badCw := SMap.set none d.badCw q.1 none }) d

/-! ## Traffic that commands cause (R375, R386 to R388) -/

/-- Bytes pass between a port and DRAM within one 4 KiB unit: its DMC leaves self-refresh, counts them, and closes the row with the last request to
the unit. -/
def touch (d : Dev) (write : Bool) (a n : Nat) : Dev :=
  let (m, l) := d.place a
  let d := if d.inSr m then d.exitSr m else d
  (d.addSat64 (if write then Reg.dram_WR_BYTES_LO m else Reg.dram_RD_BYTES_LO m) n).rowAfter m l false

/-- The parts of a range in the 4 KiB units that it meets, in ascending order. -/
def unitParts (a n : Nat) : List (Nat × Nat) :=
  (List.range ((a + n + 4095) / 4096 - a / 4096)).map (fun i =>
    let s := max a ((a / 4096 + i) * 4096)
    (s, min (a + n) ((a / 4096 + i + 1) * 4096) - s))

/-- The zero-fill of granule `g` as traffic (R324). -/
def fillPass (d : Dev) (g : Nat) : Dev :=
  if SMap.get false d.wiped g then d else (unitParts (g * 2^20) (2^20)).foldl (fun (d : Dev) p => d.touch true p.1 p.2) d

/-- A port other than those of the tiles accesses a range whose codewords can all be read (R386, R388): a read of an unwiped granule makes no access, and
a first write into one fills it before (R324). Such an access is carried out at once and waits in no queue. Log entry 87, DESIGN CHOICE, unsafe. -/
def served (d : Dev) (write : Bool) (a n : Nat) : Dev :=
  let d := if write ∧ n ≠ 0 then (List.range ((a + n - 1) / 2^20 - a / 2^20 + 1)).foldl (fun (d : Dev) i => d.fillPass (a / 2^20 + i)) d else d
  let d := (unitParts a n).foldl (fun (d : Dev) p => if !write && !SMap.get false d.wiped (p.1 / 2^20) then d else d.touch write p.1 p.2) d
  d.correct write a n

/-- Bytes are written to a range whose codewords can all be read. -/
def writeDram (d : Dev) (a : Nat) (bs : List Byte) : Dev := (d.served true a bs.length).dramWrite a bs

/-- No DMC serves anything for the time being: the XPLL's clock is lost and its domains are in bypass, or the device wakes (R366, R372). -/
def dramPaused (d : Dev) : Bool := d.bit Reg.clk_STATUS 6 || d.bit Reg.clk_STATUS 5 || d.clk.waking
/-- SR_FORCE holds DMC `m` in self-refresh (R407). -/
def forcedSr (d : Dev) (m : Nat) : Bool := d.inSr m && d.bit (Reg.dram_CFG m) 0
/-- Requests to a range wait: no DMC serves anything, or SR_FORCE holds one that the range meets, of which its first 64 units tell. While DRAM is frozen or
unusable nothing waits (R272, R285, R380). -/
def stallsAt (d : Dev) (a n : Nat) : Bool :=
  n != 0 && !d.frozen && !d.bit Reg.dramG_STATUS 1 &&
  (d.dramPaused || ((List.range 8).any d.forcedSr && ((unitParts a (min n (2^18))).any (fun p => d.forcedSr (d.place p.1).1))))

/-- An owed refresh is issued as the burst ends, unless PANIC postpones it (R392). -/
def payOne (d : Dev) (m : Nat) : Dev :=
  let o := d.owed m
  if o = 0 ∨ (d.dmcPanic m && decide (o ≤ 4)) then d else d.setOwed m (o - 1)

/-- The need and the available bandwidth of DMC `m` under doubled refresh, when the need is the larger one (R394). -/
def atRisk (d : Dev) (m : Nat) : Option (Nat × Nat) :=
  let need := d.need d.admList (List.range 96) d.outDmc m
  let avail := d.availBw true
  if d.normalRefresh && decide (avail < need) then some (need, avail) else none

/-- A fault record of a DMC that the MP writes (R432). -/
def faultMp (d : Dev) (code m : Nat) (detail : List Nat) : Dev :=
  d.fault 3 { code := code, kind := 4, obj := m, time := d.nowT, detail := detail, fw := true }

/-- A DMC changes to doubled refresh, or back (R392 to R394). -/
def setDoubled (d : Dev) (m : Nat) (on_ : Bool) : Dev :=
  if d.bit (Reg.dram_STATUS m) 3 = on_ then d
  else
    let o := d.owed m
    let d := d.setBit (Reg.dram_STATUS m) 3 on_
    if !on_ then d.setOwed m (ceilDiv o 2)
    else
      let d := d.setOwed m (min 8 (2 * o))
      let high := d.owedMax m o
      let extra := d.owed m - 4
      let d := if high then d.fireNow (928 + 4 * m + 2) else d
      let d := if 0 < extra then (d.setOwed m 4).addSat (Reg.dram_REF_FORCED_CNT m) extra else d
      let risk := d.atRisk m
      let d := d.raise (Reg.dram_EVENTS m) (256 + (if high then 4 else 0) + (if 0 < extra then 8 else 0) + (if risk.isSome then 16 else 0))
      match risk with
      | none => d
      | some (need, avail) => ((d.fireNow (928 + 4 * m + 3)).raise Reg.dramG_EVENTS 4).faultMp 0x54 m [need, avail]

/-- The lowest populated granule that is unwiped (R325). -/
def firstUnwiped (d : Dev) : Option Nat :=
  let ranges := (0, d.mm.il * 1024) :: d.mm.pins.map (fun w => (w.1 / 2^20, w.2.1 / 2^20))
  let firsts := ranges.filterMap (fun r =>
    let c := d.wiped.foldl (fun c p => if p.1 = c ∧ p.2 then c + 1 else c) r.1
    if c < r.1 + r.2 then some c else none)
  firsts.foldl (fun (m : Option Nat) g => some (match m with
    | some k => min k g
    | none => g)) none

/-- The next chunk of the DMC that migrates: copied out in ascending order, and, once it is out, copied back (R403). -/
def nextChunk (d : Dev) (m : Nat) : Option Nat :=
  if d.bit Reg.dramG_STATUS (4 + m) then (d.moved.head?).map (fun p => p.1)
  else (d.chunksOf m).find? (fun c => !SMap.get false d.moved c)

/-- Copy chunk `c` of the DMC that migrates through MIGRATE and switch its redirect (R403, R404), unless its copy meets an uncorrectable codeword
(R398). A unit of an unwiped granule is not copied. Log entry 53, DEDUCED, unsafe. Log entry 87, DESIGN CHOICE, unsafe. -/
def switchChunk (d : Dev) (m c : Nat) : Dev :=
  let units := ((List.range 16).filterMap (fun i => d.spaceAddr m (c * 65536 + i * 4096))).filter (fun a => SMap.get false d.wiped (a / 2^20))
  match units.findSome? (fun a => d.badIn a 4096) with
  | some q => d.freezeAt 9 false q
  | none =>
    let d := units.foldl (fun (d : Dev) a => d.served false a 4096) d
    let d := { d with moved := SMap.set false d.moved c (!d.bit Reg.dramG_STATUS (4 + m)) }
    units.foldl (fun (d : Dev) a => d.touch true a 4096) d

/-- A request for chunk `c` of DMC `m` is in a queue (R404). -/
def chunkBusy (d : Dev) (m c : Nat) : Bool :=
  d.dmc.any (fun x => (x.2.waiting ++ x.2.ctl).any (fun r => (d.home r.addr).1 == m && (d.home r.addr).2 / 65536 == c))

/-- The request in progress at a DMC is done: its bytes are counted, a write's data land, and a missed deadline is flagged. -/
def doneReq (d : Dev) (m ns : Nat) (r : Req) : Dev :=
  let d := d.updDmc m (fun (x : Dmc) => { x with ctl := x.ctl.tail })
  let d := if r.write then (d.dramWrite r.addr r.data).addSat64 (Reg.dram_WR_BYTES_LO m) r.len else d.addSat64 (Reg.dram_RD_BYTES_LO m) r.len
  let d := d.rowAfter m r.loc r.openHint
  let missed := match r.deadline with
    | some t => decide (t < ns)
    | none => false
  if missed then (d.bump (Reg.dram_MISS_CNT m)).raise (Reg.dram_EVENTS m) 128 else d

end Dev

/-- The operands of DRAM_REQUEST form a request (R386): a read, or a write with its data, of 64 to 512 bytes, a multiple of 64, inside one
4 KiB unit. Log entry 54, DEDUCED, safe. -/
def requestOk (addr len : Nat) (write : Bool) (data : List Byte) : Bool :=
  64 ≤ len && len ≤ 512 && len % 64 == 0 && decide (addr / 4096 = (addr + len - 1) / 4096) && (!write || data.length == len)

/-- The 64-byte reads that a port has outstanding (R386). -/
def Dev.readsOut (d : Dev) (port : Nat) : Nat :=
  d.dmc.foldl (fun k x => (x.2.waiting ++ x.2.ctl).foldl (fun k r => if r.port = port ∧ !r.write then k + r.len / 64 else k) k) 0

/-- A request enters the waiting queue of its DMC with its deadline (R387, R389), and ends the self-refresh of one that sleeps (R395). -/
def Dev.enqueueReq (d : Dev) (port addr len : Nat) (write openHint : Bool) (data : List Byte) (ns : Nat) (fill : Option (Nat × Nat × Nat × Nat)) : Dev :=
  let (m, l) := d.place addr
  let lt := d.ltOf m port
  let d := (if d.inSr m then d.exitSr m else d).setClock m ns
  let r : Req := ⟨port, addr, l, len, write, openHint, data, ns, if port = 10 then none else some (ns + lt), lt, fill⟩
  d.updDmc m (fun (x : Dmc) => { x with waiting := x.waiting ++ [r] })

/-- A request that DRAM may serve enters the waiting queue of its DMC (R386, R387, R389): not while the DMCs serve nothing, nor,
for a read, beyond the port's 64 outstanding reads. A read of an unwiped granule is answered with zeros without an access, and a
write fills its granule first (R324). Log entry 64, DESIGN CHOICE, unsafe. -/
def Dev.enqueue (d : Dev) (port addr len : Nat) (write openHint : Bool) (data : List Byte) (ns : Nat) : Dev :=
  let g := addr / 2^20
  if d.dramShut then d
  else if !write && (!SMap.get false d.wiped g || decide (64 < d.readsOut port + len / 64)) then d
  else (if write then (d.fillPass g).wipeIn g else d).enqueueReq port addr len write openHint data ns none

/-- How far a stream is filled without a gap, from `k` on: each of its bursts is taken in at most once. -/
def fillTo (parts : List (Nat × Nat)) : Nat → Nat → Nat
  | 0, k => k
  | n + 1, k => match parts.find? (fun p => p.1 == k) with
    | some p => fillTo parts n (k + p.2)
    | none => k

/-- A burst of a channel's stream arrives (R66, R70): its bytes land in the ring, those that they replace stay with the filters as long as these
can need them, and what follows without a gap counts as filled. A stream that is gone takes none, and a bank that is off drops it (R67). -/
def Dev.fillArrives (d : Dev) (ch ctx lsn off : Nat) (bs : List Byte) : Dev :=
  let (base, len) := d.ringOf ch
  match d.streamOf ch ctx lsn with
  | none => d
  | some s =>
    if d.fld (Reg.chn_SC_STATUS ch) 0 2 = 0 then d.raise (Reg.chn_SC_EVENTS ch) 4
    else
      let at_ := s.start + off
      let slot (i : Nat) : Nat := base + (at_ + i) % max 1 len
      let past := (List.range bs.length).foldl (fun (m : SMap (Option Byte)) i =>
        if len ≤ at_ + i then SMap.set none m (at_ + i - len) (some (d.scByte ch (slot i))) else m) (d.chanOf ch).past
      let past := past.filter (fun p => decide (at_ ≤ p.1 + len + 8192))
      let sc := (bs.zipIdx).foldl (fun m p => SMap.set 0 m (ch * 2^19 + slot p.2) p.1) d.sc
      let parts := s.parts ++ [(off, bs.length)]
      let filled := fillTo parts parts.length s.filled
      let s' : Stream := { s with filled := filled, parts := parts.filter (fun p => decide (filled ≤ p.1)) }
      let d := ({ d with sc := sc }).updChan ch (fun c => { c with past := past, streams := c.streams.map (fun x => if x == s then s' else x) })
      d.addSat64 (Reg.chn_FILL_BYTES_LO ch) bs.length

/-- RING_FILL (R66, R70): the fill engine requests one burst of at most 512 bytes of the first stream that is not complete, within one
pass, through its tile's streaming port, when the ring has room: with an open-page hint but for the last burst of a 4 KiB unit. A bank in retention
or a DRAM that serves nothing gives none, nor does a port with 64 reads outstanding; an unwiped granule answers at once with zeros (R324). Log entry 24, DEDUCED, unsafe. -/
def ringFillD (ch : Fin 96) (ns : Nat) (d : Dev) : Dev :=
  let c := d.chanOf ch.val
  let port := ch.val / 16
  match c.streams.find? (fun s => decide (s.asked < s.bytes * s.passes)) with
  | none => d
  | some s =>
    let at_ := s.asked % max 1 s.bytes
    let n := min 512 (s.bytes - at_)
    let addr := s.addr + at_
    let bank := d.fld (Reg.chn_SC_STATUS ch.val) 0 2
    if d.dramShut ∨ d.standby ∨ (d.ringOf ch.val).2 < d.ringUsed ch.val + n ∨ bank = 1 then d
    else if bank = 0 then d.raise (Reg.chn_SC_EVENTS ch.val) 4
    else if 64 < d.readsOut port + n / 64 then d
    else
      let s' : Stream := { s with asked := s.asked + n, start := if s.asked = 0 then c.ringWr else s.start }
      let d := d.updChan ch.val (fun c => { c with ringWr := c.ringWr + n, streams := c.streams.map (fun x => if x == s then s' else x) })
      if !SMap.get false d.wiped (addr / 2^20) then d.fillArrives ch.val s.ctx s.lsn s.asked (List.replicate n 0)
      else
        let hint := decide ((addr + n) % 4096 ≠ 0 ∧ at_ + n ≠ s.bytes)
        d.enqueueReq port addr n false hint [] ns (some (ch.val, s.ctx, s.lsn, s.asked))

/-- DRAM_REQUEST (R386 to R389). -/
def execDramRequest (port : Fin 11) (addr : BitVec 41) (len : Fin 513) (write : Bool) (openHint : Bool) (data : List Byte) (ns : Nat)
    (s : State) : Host.Outcome State Fault Refusal :=
  if !requestOk addr.toNat len.val write data then .refused .illFormed
  else if !s.dev.populated addr.toNat then .fault .noSuchAddress
  else s.onDev (fun d => d.enqueue port.val addr.toNat len.val write openHint data ns)

/-- ARBITRATION (R390): while its controller queue has a place, a DMC's arbiter takes one waiting request. Log entry 64, DESIGN CHOICE, unsafe. -/
def arbitrationD (m : Fin 8) (ns : Nat) (d : Dev) : Dev :=
  let n := m.val
  if d.dramShut || d.inSr n || d.dmcState n == 3 || d.dmcState n == 4 || decide (8 ≤ (d.dmcOf n).ctl.length) then d
  else match d.choose n ns with
    | none => d
    | some (r, p) =>
      let d := (d.setClock n ns).updDmc n (fun (x : Dmc) => { x with waiting := x.waiting.erase r, ctl := x.ctl ++ [r], rr := p.getD x.rr })
      if p.isSome then d.bump (Reg.dram_PANIC_CNT n) else d

/-- A codeword that request `r` in DMC `m`'s controller queue reads proves uncorrectable (R398). -/
def Dev.requestFails (m : Nat) (r : Req) (d : Dev) (q : Nat × Nat × Nat) : Dev :=
  d.freezeBy m r.port (q.1 * 128) ((r.loc / 128 + q.1 - r.addr / 128) * 128) r.write false true q.2.1 q.2.2

/-- The data of a completed fill go to its ring, but for those of the codewords in `bad` (R70, R398). -/
def Dev.deliverFill (d : Dev) (r : Req) (bad : List Nat) : Dev :=
  match r.fill with
  | none => d
  | some (ch, ctx, lsn, off) =>
    if bad.isEmpty then d.fillArrives ch ctx lsn off (d.dramRead r.addr r.len)
    else
      let first := r.addr / 128
      (List.range ((r.addr + r.len - 1) / 128 - first + 1)).foldl (fun (d : Dev) i =>
        if bad.contains (first + i) then d
        else
          let s := max r.addr ((first + i) * 128)
          d.fillArrives ch ctx lsn (off + (s - r.addr)) (d.dramRead s (min (r.addr + r.len) ((first + i + 1) * 128) - s))) d

/-- REQUEST_COMPLETE (R387, R396 to R398): the request at the head of the controller queue is carried out; `errors` are the codewords in which devices
have come to err by then. Those that it reads, a write the ones it covers in part, are corrected or freeze the subsystem; then an owed refresh is issued. -/
def requestCompleteD (m : Fin 8) (ns : Nat) (errors : List CwError) (d : Dev) : Dev :=
  let n := m.val
  match (d.dmcOf n).ctl with
  | [] => d
  | r :: _ =>
    let d := (d.setClock n ns).spoil errors
    let bad := (d.errsIn r.write r.addr r.len).filter (fun q => !Dev.correctable q.2.1)
    let d := (bad.foldl (Dev.requestFails n r) d).correct r.write r.addr r.len
    ((d.doneReq n ns r).deliverFill r (bad.map (fun q => q.1))).payOne n

/-- REFRESH_DUE (R392): O rises; the refresh is issued where no burst is in progress, postponed under PANIC, and issued at
once beyond 4, which FORCED_REF shows where PANIC would have postponed it. Log entry 52, DEDUCED, unsafe. -/
def refreshDueD (m : Fin 8) (d : Dev) : Dev :=
  let n := m.val
  if d.inSr n ∨ d.dmcState n = 4 then d
  else
    let o := d.owed n
    let panic := d.dmcPanic n && !d.frozen
    let d := d.setOwed n (o + 1)
    let high := d.owedMax n o
    let d := if high then d.fireNow (928 + 4 * n + 2) else d
    let forced := panic && decide (4 ≤ o)
    let d := if high || forced then d.raise (Reg.dram_EVENTS n) ((if high then 4 else 0) + (if forced then 8 else 0)) else d
    if 4 < o + 1 then d.setOwed n 4
    else if panic then d.bump (Reg.dram_REF_POSTPONED_CNT n)
    else if (d.dmcOf n).ctl.isEmpty || d.frozen then d.setOwed n 0
    else d

/-- The highest of some temperatures. -/
def hottest (ts : List Int) : Option Int := ts.foldl (fun (m : Option Int) t => some (match m with
  | some x => max x t
  | none => t)) none

/-- DIMM_READING (R381, R392, R393): the sensors of a DMC's DIMMs are read, each answering or not; the highest reading is shown and switches the refresh
rate. A sensor silent for three reads in a row counts as above 85 °C. -/
def dimmReadingD (m : Fin 8) (sensors : List (Option Int)) (d : Dev) : Dev :=
  let n := m.val
  let old := (d.dmcOf n).silent
  let silent := sensors.zipIdx.map (fun p => if p.1.isSome then 0 else old.getD p.2 0 + 1)
  let d := d.updDmc n (fun (x : Dmc) => { x with silent := silent })
  let a := Reg.dram_TEMP n
  let top := hottest (sensors.filterMap (fun t => t))
  let d := match top with
    | some t => (d.setFld a 0 16 (toBits 16 t)).setFld a 16 16 (toBits 16 (max (sext 16 (d.fld a 16 16)) t))
    | none => d
  let lost := (silent.zipIdx.filter (fun p => p.1 == 3)).map (fun p => p.2)
  let d := if lost.isEmpty then d else d.raise (Reg.dram_EVENTS n) 512
  let d := lost.foldl (fun (d : Dev) i => d.faultMp 0x55 n [i]) d
  if silent.any (fun k => decide (3 ≤ k)) then d.setDoubled n true
  else match top with
    | some t => if 1360 < t then d.setDoubled n true else if t ≤ 1328 then d.setDoubled n false else d
    | none => d

/-- ZQ_CALIBRATION (R395): it changes nothing that the device holds. -/
def zqCalibrationD (_ : Fin 8) (d : Dev) : Dev := d

/-- The WIPE port of DMC `m` must wait: a request of another port does (R390, R391). -/
def Dev.wipeWaits (d : Dev) (m : Nat) : Bool := (d.dmcOf m).waiting.any (fun r => r.port != 10)

/-- PATROL_SCRUB (R397, R405): the scrub reads a codeword of a wiped granule, in the reserve one of the DMC that is out, which is corrected or freezes the
subsystem as for any read. It waits for every other port. -/
def patrolScrubD (m : Fin 8) (local_ : BitVec 39) (x : ScrubRead) (d : Dev) : Dev :=
  let n := m.val
  match d.servedAddr n local_.toNat with
  | none => d
  | some a =>
    let a := a / 128 * 128
    if d.dramShut || !d.bit (Reg.dram_CFG n) 1 || d.corrupt (Reg.dram_CFG n) 0x100 || !SMap.get false d.wiped (a / 2^20) || d.forcedSr n || d.wipeWaits n then d
    else
      let d := (d.setClock n x.ns).spoil [⟨a / 128, x.map, x.digest⟩]
      match d.badIn a 128 with
      | some q => d.freezeAt 10 false q
      | none => d.served false a 128

/-- CA_PARITY (R398): an RCD's ALERT_N freezes the subsystem; the record shows the request in progress. Log entry 52, DEDUCED, unsafe. -/
def caParityD (m : Fin 8) (d : Dev) : Dev :=
  match (d.dmcOf m.val).ctl with
  | r :: _ => d.freezeBy m.val r.port r.addr r.loc false true true 0 0
  | [] => d.freezeBy m.val 0 0 0 false true false 0 0

/-- CHUNK_SWITCH (R404): the next chunk of the DMC that migrates is switched once no request for it is queued. -/
def chunkSwitchD (m : Fin 8) (d : Dev) : Dev :=
  let n := m.val
  if d.frozen ∨ d.dmcState n ≠ 1 then d
  else match d.nextChunk n with
    | none => d
    | some c =>
      if d.chunkBusy n c then d else d.switchChunk n c

/-- SELF_REFRESH_IDLE (R375): a DMC with no stream charge and no request enters self-refresh, unless SR_IDLE is 0. -/
def selfRefreshIdleD (m : Fin 8) (d : Dev) : Dev :=
  let n := m.val
  if bitsOf (d.pwrNow Reg.pwr_SR_IDLE) 0 16 = 0 ∨ d.standby ∨ d.inSr n ∨ d.hasCharge n ∨ !(d.dmcOf n).waiting.isEmpty ∨ !(d.dmcOf n).ctl.isEmpty then d
  else d.enterSr n

/-- BACKGROUND_WIPE (R325): the next unwiped granule is cleared, while no other port has a request waiting (R390). -/
def backgroundWipeD (d : Dev) : Dev :=
  if d.dramShut ∨ d.standby ∨ (List.range 8).any (fun m => d.wipeWaits m || d.forcedSr m) then d
  else match d.firstUnwiped with
    | none => d
    | some g => (d.fillPass g).wipeIn g

/-- GRANULE_FILL (R324): the first write into an unwiped granule zero-fills it. -/
def granuleFillD (g : Fin 2097152) (d : Dev) : Dev := if d.dramShut ∨ !d.populated (g.val * 2^20) then d else (d.fillPass g.val).wipeIn g.val

/-- RING_FILL (R70). -/
def execRingFill (b : FillBurst) (s : State) : Host.Outcome State Fault Refusal :=
  s.onDev (ringFillD b.ch b.ns)

/-- ARBITRATION (R390). -/
def execArbitration (d : Fin 8) (ns : Nat) (s : State) : Host.Outcome State Fault Refusal :=
  s.onDev (arbitrationD d ns)

/-- REQUEST_COMPLETE (R387). -/
def execRequestComplete (d : Fin 8) (ns : Nat) (errors : List CwError) (s : State) : Host.Outcome State Fault Refusal :=
  s.onDev (requestCompleteD d ns errors)

/-- REFRESH_DUE (R392). -/
def execRefreshDue (d : Fin 8) (s : State) : Host.Outcome State Fault Refusal :=
  s.onDev (refreshDueD d)

/-- DIMM_READING (R381). -/
def execDimmReading (d : Fin 8) (sensors : List (Option Int)) (s : State) : Host.Outcome State Fault Refusal :=
  s.onDev (dimmReadingD d sensors)

/-- ZQ_CALIBRATION (R395). -/
def execZqCalibration (d : Fin 8) (s : State) : Host.Outcome State Fault Refusal :=
  s.onDev (zqCalibrationD d)

/-- PATROL_SCRUB (R397). -/
def execPatrolScrub (d : Fin 8) (local_ : BitVec 39) (x : ScrubRead) (s : State) : Host.Outcome State Fault Refusal :=
  s.onDev (patrolScrubD d local_ x)

/-- CA_PARITY (R398). -/
def execCaParity (d : Fin 8) (s : State) : Host.Outcome State Fault Refusal :=
  s.onDev (caParityD d)

/-- CHUNK_SWITCH (R404). -/
def execChunkSwitch (d : Fin 8) (s : State) : Host.Outcome State Fault Refusal :=
  s.onDev (chunkSwitchD d)

/-- SELF_REFRESH_IDLE (R375). -/
def execSelfRefreshIdle (d : Fin 8) (s : State) : Host.Outcome State Fault Refusal :=
  s.onDev (selfRefreshIdleD d)

/-- BACKGROUND_WIPE (R325). -/
def execBackgroundWipe (s : State) : Host.Outcome State Fault Refusal :=
  s.onDev backgroundWipeD

/-- GRANULE_FILL (R324). -/
def execGranuleFill (g : Fin 2097152) (s : State) : Host.Outcome State Fault Refusal :=
  s.onDev (granuleFillD g)

end Sys2Proof.Machine
end

