-- ==== Sys2Proof/Machine/Sets.lean ====
section
/-! DEFINITION. Calibration sets (chapter 12): reading their fields, their validity, the validity of a calibration slot in
flash, and the interpolation between temperature points. -/
namespace Sys2Proof.Machine

/-- A little-endian field of `k` bytes at offset `o` of a byte string; bytes past the end read as zero. -/
def fieldAt (s : List Byte) (o k : Nat) : Nat := leNat ((s.drop o).take k)

/-- All bytes of a range are zero. -/
def zeroAt (s : List Byte) (o k : Nat) : Bool := ((s.drop o).take k).all (fun b => b == 0)

/-- A CRC-32C at offset `o + k` covers the `k` bytes from `o`. -/
def crcOk (s : List Byte) (o k : Nat) : Bool := (crc32c ((s.drop o).take k)).toNat == fieldAt s (o + k) 4

/-- Where point `i`'s record lies in a set. -/
def pointAt (i : Nat) : Nat := 64 + 1600 * i
/-- N_PT of a set. -/
def setPoints (s : List Byte) : Nat := fieldAt s 7 1
/-- TEMP of a point, in 1/16 °C. -/
def setTemp (s : List Byte) (i : Nat) : Int := sext 16 (fieldAt s (pointAt i) 2)
/-- TS_OFS of a set. -/
def setTsOfs (s : List Byte) : Int := sext 16 (fieldAt s 16 2)

/-- The reserved fields of a set are zero (R333 to R336). -/
def setReserved (s : List Byte) : Bool :=
  zeroAt s 18 10 && zeroAt s 36 24 && (List.range (setPoints s)).all (fun i =>
    let p := pointAt i
    zeroAt s (p + 2) 14 && decide (fieldAt s (p + 16) 2 < 2^14) && zeroAt s (p + 24) 8 && zeroAt s (p + 1568) 28 &&
    (List.range 16).all (fun k =>
      let c := p + 32 + 96 * k
      zeroAt s (c + 71) 1 && decide (fieldAt s (c + 82) 1 < 2) && zeroAt s (c + 84) 12))

/-- Why a set is not valid for a tile of this device (R336, R339): 0 where it is valid. Log entry 55, DEDUCED, unsafe. -/
def setError (serial tile : Nat) (s : List Byte) : Nat :=
  let n := setPoints s
  if fieldAt s 0 4 ≠ 0x4C414343 ∨ fieldAt s 4 2 ≠ 1 ∨ fieldAt s 6 1 ≠ tile ∨ !crcOk s 0 60 then 1
  else if n < 1 ∨ 8 < n ∨ s.length ≠ 64 + 1600 * n then 2
  else if fieldAt s 8 8 ≠ 0 ∧ fieldAt s 8 8 ≠ serial then 3
  else if (List.range (n - 1)).any (fun i => setTemp s (i + 1) < setTemp s i + 16) then 4
  else if !setReserved s then 5
  else match (List.range n).find? (fun i => !crcOk s (pointAt i) 1596) with
    | some i => 0x10 + i
    | none => 0

/-- Trim `j` of channel `k` of the tile at point `i` (R335), numbered as `Chan.work` numbers them. -/
def trimAt (s : List Byte) (k j i : Nat) : Int :=
  let c := pointAt i + 32 + 96 * k
  if j < 71 then sext 8 (fieldAt s (c + j) 1) else sext 16 (fieldAt s (c + 72 + 2 * (j - 71)) 2)
/-- CHK_G and CHK_O of channel `k` at point `i`. -/
def chkG (s : List Byte) (k i : Nat) : Int := ((fieldAt s (pointAt i + 32 + 96 * k + 78) 2 : Nat) : Int)
def chkO (s : List Byte) (k i : Nat) : Int := sext 16 (fieldAt s (pointAt i + 32 + 96 * k + 80) 2)
/-- CHK_MODE and CHK_FS of channel `k` at point `i`. -/
def chkMode (s : List Byte) (k i : Nat) : Nat := fieldAt s (pointAt i + 32 + 96 * k + 82) 1
def chkFs (s : List Byte) (k i : Nat) : Nat := fieldAt s (pointAt i + 32 + 96 * k + 83) 1
/-- MD_PH, MD_OFS and MD_GAIN at point `i`. -/
def mdPh (s : List Byte) (i : Nat) : Int := ((fieldAt s (pointAt i + 16) 2 : Nat) : Int)
def mdOfs (s : List Byte) (i : Nat) : Int := sext 16 (fieldAt s (pointAt i + 18) 2)
def mdGain (s : List Byte) (i : Nat) : Int := sext 16 (fieldAt s (pointAt i + 20) 2)

/-- The interpolated value at temperature θ, in 1/16 of its unit (R342); no set gives 0 (R338). Log entry 55, DEDUCED, unsafe. -/
def interpolate (s : List Byte) (theta : Int) (v : Nat → Int) : Int :=
  let n := setPoints s
  if n = 0 then 0
  else if theta ≤ setTemp s 0 then 16 * v 0
  else if setTemp s (n - 1) ≤ theta then 16 * v (n - 1)
  else
    let i := ((List.range n).filter (fun i => decide (setTemp s i ≤ theta))).getLastD 0
    16 * v i + rhe (16 * (v (i + 1) - v i) * (theta - setTemp s i)) (setTemp s (i + 1) - setTemp s i).toNat

/-- θ lies outside the set's points (R342). -/
def outOfPoints (s : List Byte) (theta : Int) : Bool :=
  setPoints s != 0 && (decide (theta < setTemp s 0) || decide (setTemp s (setPoints s - 1) < theta))

namespace Dev

def calOf (d : Dev) (t : Nat) : CalTile := SMap.get {} d.calT t
def updCal (d : Dev) (t : Nat) (f : CalTile → CalTile) : Dev := { d with calT := SMap.upd {} d.calT t f }
/-- θ of a tile (R341). -/
def theta (d : Dev) (t : Nat) : Int := sext 16 (d.fld (Reg.calTile_TEMP t) 0 16)
/-- The target of trim `j` of channel `n` (R342). -/
def trimTarget (d : Dev) (n j : Nat) : Int :=
  let s := (d.calOf (n / 16)).set
  interpolate s (d.theta (n / 16)) (trimAt s (n % 16) j)

/-! ## Runs (R344, R348, R349) -/

/-- The channels of tile `t`. -/
def tileChans (t : Nat) : List Nat := (List.range 16).map (fun k => 16 * t + k)

/-- Working values of a tile are held (R344, R423). -/
def calFrozen (d : Dev) (t : Nat) : Bool := d.bit (Reg.calTile_CFG t) 25 || d.corrupt (Reg.calTile_CFG t) 0x1000

/-- Trims wait for the SPLL (R441): it has been in lock since the reset, and is not now. -/
def trimsWait (d : Dev) : Bool := d.clk.locked && !d.bit Reg.clk_STATUS 0

/-- A channel takes part in rotation (R190, R347, R349). -/
def rotates (d : Dev) (n : Nat) : Bool := d.chMode n != 0 && (d.chanOf n).bad.isNone && d.bit (Reg.tile_ROT (n / 16)) 16

/-- A recalibration run starts (R348, R349). -/
def startRun (d : Dev) (t : Nat) : Dev :=
  let st := Reg.calTile_STATUS t
  let d := d.setFld (Reg.calTile_TEMP t) 16 16 (d.fld (Reg.calTile_TEMP t) 0 16)
  let d := ((d.setBit st 2 true).setBit st 3 false).setBit (Reg.calTile_CTL t) 0 false
  let d := (tileChans t).foldl (fun (d : Dev) (n : Nat) => d.updChan n (fun c => { c with passLeft := if d.rotates n then 64 else 0 })) d
  d.updCal t (fun (c : CalTile) => { c with borrows := 2 })

/-- A run is wanted (R348): it starts, or waits for the present run or for FREEZE. -/
def wantRun (d : Dev) (t : Nat) : Dev :=
  if d.bit (Reg.calTile_STATUS t) 2 || d.calFrozen t then (d.setBit (Reg.calTile_STATUS t) 3 true).setBit (Reg.calTile_CTL t) 0 false
  else d.startRun t

/-! ## Flash (R300, R337) -/

/-- Bytes of the configuration flash; erased flash reads 0xFF. -/
def flashBytes (d : Dev) (a k : Nat) : List Byte := SMap.bytes 0xFF d.flash a k
def flashStore (d : Dev) (a : Nat) (bs : List Byte) : Dev := { d with flash := SMap.store 0xFF d.flash a bs }
/-- Erase the 64 KiB blocks that hold `k` bytes from `a`. -/
def flashErase (d : Dev) (a k : Nat) : Dev :=
  let lo := a / 0x10000 * 0x10000
  let hi := (a + k + 0xFFFF) / 0x10000 * 0x10000
  { d with flash := d.flash.filter (fun p => decide (p.1 < lo ∨ hi ≤ p.1)) }

/-- The first byte of a calibration slot. -/
def calSlotAt (slot : Nat) : Nat := if slot = 0 then 0x00010000 else 0x00210000
/-- SEQ of a calibration slot when it is valid (R337). -/
def calSlotSeq (d : Dev) (slot : Nat) : Option Nat :=
  let h := d.flashBytes (calSlotAt slot) 64
  let c := d.flashBytes (calSlotAt slot + 0x1F0000) 16
  let seq := fieldAt h 4 4
  if fieldAt h 0 4 = 0x534C4143 ∧ 1 ≤ seq ∧ seq ≤ 0xFFFFFFFE ∧ zeroAt h 9 51 ∧ crcOk h 0 60 ∧ fieldAt c 0 4 = 0x544D4F43 ∧
     fieldAt c 4 4 = seq ∧ fieldAt c 8 4 = fieldAt h 60 4 ∧ crcOk c 0 12 then some seq else none
/-- PRESENT of a calibration slot. -/
def calSlotHas (d : Dev) (slot t : Nat) : Bool := bitsOf (fieldAt (d.flashBytes (calSlotAt slot) 64) 8 1) t 1 == 1
/-- The set for a tile in a calibration slot, as long as its N_PT says. -/
def calSlotSet (d : Dev) (slot t : Nat) : List Byte :=
  let a := calSlotAt slot + 0x10000 + 0x10000 * t
  let n := fieldAt (d.flashBytes a 8) 7 1
  d.flashBytes a (64 + 1600 * min 8 n)
/-- The slot in use (R338): the valid one with the higher SEQ. -/
def calInUse (d : Dev) : Option Nat :=
  match d.calSlotSeq 0, d.calSlotSeq 1 with
  | some a, some b => some (if a < b then 1 else 0)
  | some _, none => some 0
  | none, some _ => some 1
  | none, none => none

end Dev
end Sys2Proof.Machine
end

