-- ==== Sys2Proof/Machine/Capture.lean ====
section
/-! DEFINITION. Monitor digitisers and captures (chapter 9): applying a configuration, arming, triggering, samples, chain
resets and calibration borrows. -/
namespace Sys2Proof.Machine

/-- The settle length N of a chain (R254). -/
def settleLen (dc : Nat) : Nat := (66 + ceilDiv 7 (max 1 dc) + 1) / 2
/-- Bytes of one sample of a capture (R259). -/
def CapSt.width (c : CapSt) : Nat := if c.fmt = 1 then 2 else 4
/-- Dc, half the decimation D of the chain: that of the applied configuration, and during a borrow 128 (R252, R350). Log entry 85, DESIGN CHOICE, unsafe. -/
def CapSt.dc (c : CapSt) : Nat := if c.bor.isSome then 128 else max 1 c.dec
/-- The input that the selector shows to the digitiser (R249, R255). -/
def CapSt.selNow (c : CapSt) : Nat := (c.bor.map (fun b => b.sel)).getD c.sel
/-- Capacity of the target in samples (R259). -/
def CapSt.capacity (c : CapSt) : Nat := if c.target = 0 then 2^20 / c.width else c.size / c.width
/-- The distance of output samples, in tDC (R253). -/
def Dev.capStep (d : Dev) (k : Nat) : Nat := 2 * (d.capOf k).dc * d.kM

namespace Dev

/-- STATE of a capture: 0 IDLE, 1 ARMED, 2 TRIGGERED, 3 DONE (R256). -/
def capState (d : Dev) (k : Nat) : Nat := d.fld (Reg.cap_STATUS k) 0 2
def setCapState (d : Dev) (k s : Nat) : Dev := d.setFld (Reg.cap_STATUS k) 0 2 s
/-- Calibration holds the digitiser. -/
def borrowed (d : Dev) (k : Nat) : Bool := d.bit (Reg.cap_STATUS k) 2

/-- MD_OFS and MD_GAIN of a digitiser at the present θ: those that a run measured, or the set's (R342, R345). -/
def mdTrims (d : Dev) (k : Nat) : Int × Int :=
  let cal := d.calOf k
  let th := d.theta k
  cal.mdMeas.getD (rhe (interpolate cal.set th (mdOfs cal.set)) 16, rhe (interpolate cal.set th (mdGain cal.set)) 16)

/-- The decimation chain resets now (R254, R345): the first N instants from now on are invalid, the count of valid samples
restarts, and new digitiser trims reach it. -/
def resetChain (d : Dev) (k : Nat) : Dev :=
  let c := d.capOf k
  let step := d.capStep k
  let cal := d.calOf k
  let th := d.theta k
  let ph := (rhe (interpolate cal.set th (mdPh cal.set)) 16).toNat
  let trims := d.mdTrims k
  let n := settleLen c.dc
  let d := (d.setFld (Reg.cap_STATUS k) 16 6 n).setFld (Reg.cap_PH k) 16 14 ph
  d.updCap k (fun c => { c with resetAt := d.nowT, discard := n, valid := 0, nextLbl := ceilDiv d.nowT step * step,
                                mdOfs := trims.1, mdGain := trims.2, phi := min 16383 (ph + c.phUser), rawN := ceilDiv d.nowT d.kM, raws := [],
                                integ := [0, 0, 0, 0], diffs := [0, 0, 0, 0], cicOut := [] })

/-- Calibration borrows the digitiser (R255): the chain resets on the selected input. -/
def startBorrow (d : Dev) (k : Nat) (b : Borrow) : Dev :=
  ((d.setBit (Reg.cap_STATUS k) 2 true).updCap k (fun c => { c with bor := some b })).resetChain k

/-- A borrow ends (R255): the selector returns to SEL and the chain resets. -/
def endBorrow (d : Dev) (k : Nat) : Dev :=
  ((d.setBit (Reg.cap_STATUS k) 2 false).updCap k (fun c => { c with bor := none })).resetChain k

/-! ## The decimation chain (R251, R252) -/

/-- A raw sample after the phase delay, in 2^-16 raw LSB: `raws` holds it and those before it, newest first (R251). -/
def delayRaw (phi : Nat) (raws : List Int) : Int :=
  (List.range 8).foldl (fun (a : Int) i => a + lagrange i (phi % 256) 256 * raws.getD (phi / 256 + i) 0) 0

/-- The four integrators of the CIC take a sample; the last of them is the CIC's sum. -/
def integrate (y : Int) : List Int → List Int
  | [] => []
  | s :: r => (s + y) :: integrate (s + y) r

/-- The differences of the CIC take the sum: each the difference of what it is given now and was given before. -/
def difference (y : Int) : List Int → Int × List Int
  | [] => (y, [])
  | s :: r => let x := difference (y - s) r; (x.1, y :: x.2)

/-- The chain takes raw sample number `rawN`: phase delay, and the CIC, which gives an output at every Dc-th raw sample, at places 1 modulo Dc
so that the output of an instant is complete G raw samples after it (R252, R253). -/
def takeRaw (c : CapSt) (x : Int) : CapSt :=
  let raws := (x :: c.raws).take 71
  let integ := integrate (delayRaw c.phi raws) c.integ
  let c := { c with raws := raws, integ := integ, rawN := c.rawN + 1 }
  if (c.rawN - 1) % c.dc = 1 % c.dc then
    let y := difference (integ.getLastD 0) c.diffs
    { c with diffs := y.2, cicOut := (y.1 :: c.cicOut).take 63 }
  else c

/-- The normaliser's constant, in 2^-72: one that makes the DC gain of the whole chain 1 within 2^-17 (R252). Log entry 3, DESIGN CHOICE,
safe for the values, else unsafe. -/
def normOf (dc : Nat) : Int :=
  let g : Int := (dc : Int)^4 * (List.range 63).foldl (fun (a : Int) i => a + (Config.firCoef dc i).toInt) 0
  if g ≤ 0 then Config.mdNorm dc else sat (-((-(2^91 - 2^74)) / g)) ((2^91 + 2^74) / g) (Config.mdNorm dc)

/-- The chain's output, in 2^-10 raw LSB, from the 63 newest outputs of the CIC: the compensation FIR and the normaliser (R252). Log entry 3,
DESIGN CHOICE, safe for the values, else unsafe. -/
def chainOut (c : CapSt) : Int :=
  rhe ((c.cicOut.zipIdx.foldl (fun (a : Int) p => a + (Config.firCoef c.dc p.2).toInt * p.1) 0) * normOf c.dc) (2^97)

/-! ## The target (R259, R260) -/

/-- The first `n` bytes of a capture's FIFO go to its DRAM ring through the CAPTURE port; while their DMC does not serve they stay, as they do where
one of their codewords, written in part, proves uncorrectable (R386, R398, R400). -/
def drainBytes (d : Dev) (k n : Nat) : Dev :=
  let c := d.capOf k
  let a := c.base + c.fifoAt
  if d.stallsAt a n then d
  else match d.badPart a n with
    | some q => d.freezeAt 8 true q
    | none => (d.writeDram a (c.fifo.take n)).updCap k (fun c => { c with fifo := c.fifo.drop n, fifoAt := (c.fifoAt + n) % max 1 c.size })

/-- The FIFO of a capture gives its whole 512-byte bursts to DRAM, and, with `all`, what is left, unless DRAM serves nothing (R260, R399). Log entry 56, DESIGN CHOICE, unsafe. -/
def drainFifo (d : Dev) (k : Nat) (all : Bool) : Dev :=
  if d.dramShut then d
  else
    let d := (List.range ((d.capOf k).fifo.length / 512)).foldl (fun (d : Dev) _ => if d.dramShut then d else d.drainBytes k 512) d
    if all && !(d.capOf k).fifo.isEmpty && decide ((d.capOf k).fifo.length < 512) && !d.dramShut then d.drainBytes k (d.capOf k).fifo.length else d

/-- Hardware sets the flags `ev` of CAP.EVENTS in one cycle, where there are any (R6). -/
def capFlags (d : Dev) (k ev : Nat) : Dev := if ev = 0 then d else d.raise (Reg.cap_EVENTS k) ev

/-- A capture enters DONE (R256): what its FIFO holds goes to the target, and CAP_DONE fires at the tick boundary of its detection. `ev` are the
other flags of the same cycle. -/
def capDone (d : Dev) (k ev : Nat) : Dev :=
  (((d.drainFifo k true).setCapState k 3).raise (Reg.cap_EVENTS k) (ev ||| 1)).fireNow (972 + k)

/-- The pieces cover `a` up to `e`, each going on where another ends. -/
def covers (pieces : List (Nat × Nat)) : Nat → Nat → Nat → Bool
  | 0, a, e => decide (e ≤ a)
  | n + 1, a, e =>
    if e ≤ a then true
    else match pieces.find? (fun w => decide (w.1 ≤ a ∧ a < w.1 + w.2)) with
      | some w => covers pieces n (w.1 + w.2) e
      | none => false

/-- A range of DRAM space lies in one DRAM region of an owner's created partition, or for the physical function anywhere in populated space,
outside the descriptor table and the bitmap (R271, R285, R289). -/
def dramRegion (d : Dev) (owner : Option Nat) (a n : Nat) : Bool :=
  let pops := (0, d.mm.il * 2^30) :: d.mm.pins.map (fun w => (w.1, w.2.1))
  let inPieces (ps : List (Nat × Nat)) : Bool := covers ps (ps.length + 1) a (a + n) && ps.any (fun w => decide (w.1 ≤ a ∧ a ≤ w.1 + w.2))
  inPieces pops && decide (a + n ≤ d.mm.descAt ∨ d.mm.descAt + 2^22 ≤ a) && (match owner with
    | none => true
    | some p => d.partOn p && (List.range 4).any (fun r =>
        let w := d.ptabW p (11 + r)
        decide (0 < w / 2^16 ∧ w % 2^16 * 2^30 ≤ a ∧ a + n ≤ (w % 2^16 + w / 2^16) * 2^30)))

/-- The samples of a capture's ring that are still held. -/
def held_ (c : CapSt) : Nat := min c.valid c.capacity

/-- The trigger point is the sample written `back` samples before the newest one (R257, R258). `ev` are the other flags of CAP.EVENTS that its
determination sets. -/
def setPoint (d : Dev) (k back ev : Nat) : Dev :=
  let c := d.capOf k
  let cap := max 1 c.capacity
  let before := held_ c - 1 - back
  let pre := min c.pre before
  let idx := (c.wr + 2 * cap - 1 - back) % cap
  let d := d.updCap k (fun c => { c with tp := some idx, done := back + 1 })
  let d := (d.wr64 (Reg.cap_TPOINT_LO k) (c.lastLbl - back * d.capStep k)).wrN (Reg.cap_PRE_ACT k) pre
  let d := (d.wr64 (Reg.cap_START_LO k) ((idx + cap - pre) % cap)).wr64 (Reg.cap_POST_ACT_LO k) (min c.post (back + 1))
  let ev := ev ||| (if pre < c.pre then 2 else 0)
  if c.post ≤ back + 1 then d.capDone k ev else d.capFlags k ev

/-- Look for the trigger point among the samples already written (R257). -/
def findPoint (d : Dev) (k t : Nat) : Dev :=
  let c := d.capOf k
  let n := held_ c
  if n = 0 ∨ c.lastLbl < t then d
  else
    let back := (c.lastLbl - t) / d.capStep k
    if back < n then d.setPoint k back 0
    else
      let gone := decide (n < c.valid)
      let d := if gone then d.raise (Reg.tin_EVENTS (430 + k)) 4 else d
      let d := if gone then d.recordLate (d.rd64 (Reg.cap_TRIG_AT_LO k)) (c.lastLbl - (n - 1) * d.capStep k - t) else d
      d.setPoint k (n - 1) (if gone then 8 else 0)

/-- A capture is busy for an arm (R256): not IDLE, and not DONE with OVERWRITE. -/
def armBusy (d : Dev) (k : Nat) : Bool :=
  let s := d.capState k
  !(s == 0 || (s == 3 && (d.capOf k).ovr)) || d.corrupt (Reg.cap_CFG k) 1024

/-- A capture is busy for a trigger (R256): not ARMED. -/
def trigBusy (d : Dev) (k : Nat) : Bool := d.capState k != 1 || d.corrupt (Reg.cap_CFG k) 1024

/-- The number that stands for the host where a write of CTL.ARM or CTL.TRIG is kept as a firing; it is no source's (R207). -/
def hostSrc : Nat := 1024

/-- A write of CTL.ARM or CTL.TRIG while device time is not valid waits as a firing with a coarse stamp (R35, R256). -/
def awaitTime (d : Dev) (i : Nat) : Dev :=
  d.updTin i (fun t => { t with inbox := t.inbox ++ [⟨⟨hostSrc, (d.stampAt 0).1, 0, true, false⟩, d.nowT / 16⟩] })

/-- A firing that finds the capture busy is lost; a write of the host's is ignored with CMD_IGN (R256). -/
def capLost (d : Dev) (k i stamp : Nat) (host : Bool) : Dev :=
  if host then d.raise (Reg.cap_EVENTS k) 512 else d.overrun i stamp

/-- The arm takes effect at its action time (R255, R256): it ends a borrow, clears the log, the record and its counts, and starts the ring. One
that finds the capture busy by then is lost. Log entry 56, DESIGN CHOICE, unsafe. -/
def doArm (d : Dev) (k : Nat) (a : Act) : Dev :=
  let d := d.dropAct (424 + k) a
  if d.armBusy k then d.capLost k (424 + k) a.stamp (a.value == 1)
  else
    let d := d.setCapState k 1
    let d := ((d.wrN (Reg.cap_LOG_N k) 0).wrN (Reg.cap_PRE_ACT k) 0).wr64 (Reg.cap_POST_ACT_LO k) 0
    let d := if d.borrowed k then d.endBorrow k else d
    d.updCap k (fun c => { c with armAt := a.time, valid := 0, wr := 0, trigT := none, tp := none, done := 0, fifo := [], fifoAt := 0 })

/-- An accepted trigger (R257). -/
def doTrigger (d : Dev) (k stamp t : Nat) : Dev :=
  let d := (d.setCapState k 2).wr64 (Reg.cap_TRIG_AT_LO k) stamp
  let d := d.updCap k (fun c => { c with trigT := some t })
  d.findPoint k t

/-- The 24-bit output word, and whether it saturated (R252). -/
def outWord (v : Int) : Int × Bool := (sat (-8388608) 8388607 v, decide (v < -8388608 ∨ 8388607 < v))

/-- The bytes of a sample in the target (R259). -/
def sampleBytes (fmt : Nat) (v : Int) : List Byte :=
  if fmt = 1 then leBytes (toBits 16 (sat (-32768) 32767 (rhe v 256))) 2 else leBytes (toBits 32 v) 4

/-- Write a sample into the target at the ring's place: into the on-chip buffer, or into the FIFO of a DRAM target, which gives no burst while
the capture port is busy (R259, R260). Log entry 56, DESIGN CHOICE, unsafe. -/
def putSample (d : Dev) (k : Nat) (lbl : Nat) (v : Int) (busy : Bool) : Dev :=
  let c := d.capOf k
  let cap := max 1 c.capacity
  let bs := sampleBytes c.fmt v
  let d := if c.target = 0 then { d with capBuf := SMap.store 0 d.capBuf (k * 2^20 + c.wr * c.width) bs }
    else
      let d := d.updCap k (fun c => { c with fifo := c.fifo ++ bs })
      if busy then d else d.drainFifo k false
  d.updCap k (fun c => { c with wr := (c.wr + 1) % cap, valid := c.valid + 1, lastLbl := lbl })

/-- The FIFO of a DRAM target holds 64 KiB and cannot take another sample: the capture port is busy, or DRAM serves nothing (R260). -/
def fifoFull (d : Dev) (k : Nat) (busy : Bool) : Bool :=
  (d.capOf k).target == 1 && (busy || d.dramShut || d.stallsAt ((d.capOf k).base + (d.capOf k).fifoAt) 512) && decide (65536 < (d.capOf k).fifo.length + (d.capOf k).width)

end Dev

/-- CAPTURE_APPLY (R249, R259, R261): the staged configuration is validated and applied whole, or refused. Log entry 56, DESIGN CHOICE, unsafe. -/
def captureApplyD (fn : Fin 13) (k : Fin 6) (d : Dev) : Dev :=
  let n := k.val
  d.access fn.val (Reg.cap_CTL n) (d.mdOwner n) (fun d =>
    let cfg := d.rdN (Reg.cap_CFG n)
    let sel := bitsOf cfg 0 5
    let dec := bitsOf cfg 5 12
    let fmt := bitsOf cfg 20 1
    let target := bitsOf cfg 21 1
    let pre := d.rdN (Reg.cap_PRE n)
    let post := d.rd64 (Reg.cap_POST_LO n) % 2^40
    let base := d.rd64 (Reg.cap_RING_BASE_LO n) % 2^41
    let size := d.rd64 (Reg.cap_RING_SIZE_LO n) % 2^41
    let log := d.rdN (Reg.cap_LOG n)
    let phUser := d.fld (Reg.cap_PH n) 0 14
    let owner := d.mdOwner n
    let c : CapSt := { d.capOf n with en := bitsOf cfg 23 1 == 1, sel := sel, dec := dec, fmt := fmt, target := target, ovr := bitsOf cfg 22 1 == 1,
                                      pre := pre, post := post, phUser := phUser, base := base, size := size,
                                      logA := if bitsOf log 8 1 = 1 then some (bitsOf log 0 8) else none,
                                      logB := if bitsOf log 24 1 = 1 then some (bitsOf log 16 8) else none }
    let ecOk (x : Option Nat) : Bool := match x with
      | some e => d.ecOwner e == owner
      | none => true
    let s := d.capState n
    let a := Reg.cap_EVENTS n
    if c.capacity < pre + post ∨ post = 0 then d.raise a 4
    else if target = 1 ∧ (base % 4096 ≠ 0 ∨ size % 4096 ≠ 0 ∨ !d.dramRegion owner base size) then d.raise a 256
    else if sel < 16 ∧ d.chOwner (16 * n + sel) ≠ owner then d.raise a 256
    else if !ecOk c.logA ∨ !ecOk c.logB then d.raise a 256
    else if 17 < sel ∨ dec = 0 ∨ 2048 < dec ∨ s = 1 ∨ s = 2 ∨ d.corrupt (Reg.cap_CFG n) 1024 then d.raise a 128
    else
      let old := d.capOf n
      let d := d.updCap n (fun _ => c)
      if old.sel ≠ sel ∨ old.dec ≠ dec ∨ old.phUser ≠ phUser ∨ (c.en ∧ !old.en) then d.resetChain n else d)

/-- CAPTURE_ARM (R28, R256): an arm that has reached its action time takes effect; otherwise a firing, or a write of
CTL.ARM taken as a firing stamped now, is held until stamp + LAT. -/
def captureArmD (k : Fin 6) (software : Bool) (d : Dev) : Dev :=
  let n := k.val
  let i := 424 + n
  let perform (d : Dev) : Dev := match Dev.earliest (d.tinOf i).acts with
    | some a => if d.due a.time then d.doArm n a else d
    | none => d
  let hold (d : Dev) (f : Firing) : Dev :=
    let host := f.src == Dev.hostSrc
    if d.armBusy n then d.capLost n i f.stamp host
    else if d.tinBad i || decide (4 ≤ (d.tinOf i).acts.length) then d.capLost n i f.stamp host
    else match d.actTime i (d.latOf i) f with
      | (none, d) => d
      | (some t, d) => d.addAct i ⟨t, f.stamp, f.gen, if host then 1 else 0⟩
  if software then (if d.timeValid then perform (hold d ⟨Dev.hostSrc, d.nowT, 0, false, false⟩) else d.awaitTime i)
  else if !d.timeValid then d
  else match (Dev.earliest (d.tinOf i).acts).filter (fun a => d.due a.time), d.takeFiring i with
    | some a, _ => d.doArm n a
    | none, some (f, d) => perform (hold d f)
    | none, none => d

/-- CAPTURE_TRIGGER (R256, R257): a firing, or a write of CTL.TRIG taken as a firing stamped now, triggers an armed capture. -/
def captureTriggerD (k : Fin 6) (software : Bool) (d : Dev) : Dev :=
  let n := k.val
  let i := 430 + n
  let fire (d : Dev) (f : Firing) : Dev :=
    if d.trigBusy n || d.tinBad i then d.capLost n i f.stamp (f.src == Dev.hostSrc)
    else
      let t := f.stamp + d.latOf i
      if 2^64 ≤ t then d.raise Reg.time_EVENTS 64
      else if f.coarse ∨ f.late then
        let t' := max t d.nextTick
        ((d.raise (Reg.tin_EVENTS i) 4).recordLate f.stamp (t' - t)).doTrigger n f.stamp t'
      else d.doTrigger n f.stamp t
  if software then (if d.timeValid then fire d ⟨Dev.hostSrc, d.nowT, 0, false, false⟩ else d.awaitTime i)
  else if !d.timeValid then d
  else match d.takeFiring i with
    | none => d
    | some (f, d) => fire d f

/-- ABORT (R265): ARMED or DONE to IDLE, TRIGGERED to DONE. -/
def abortD (k : Fin 6) (d : Dev) : Dev :=
  match d.capState k.val with
  | 1 => d.setCapState k.val 0
  | 2 => d.capDone k.val 0
  | 3 => d.setCapState k.val 0
  | _ => d

/-- The raw sample that completes the output of the instant `lbl`: G raw samples after it (R253). -/
def Dev.lastRaw (d : Dev) (k lbl : Nat) : Nat := lbl / d.kM + 33 * (d.capOf k).dc + 1

/-- DIGITISER_SAMPLE (R250 to R260): the chain has taken the raw samples `raw` up to the one that completes the output of its next instant,
and emits that output once the instant lies G kM tDC back. During a borrow the first 16 valid outputs are added up (R350). A raw sample that the operand does not give counts as 0. `busy` says that the capture
DRAM port takes no burst meanwhile (R260). Log entry 56, DESIGN CHOICE, unsafe. Log entry 58, DESIGN CHOICE, safe. -/
def digitiserSampleD (k : Fin 6) (raw : List Int) (busy : Bool) (d : Dev) : Dev :=
  let n := k.val
  let c := d.capOf n
  let lbl := c.nextLbl
  let last := d.lastRaw n lbl
  if !d.timeValid ∨ !(c.en || d.borrowed n) ∨ d.nowT < last * d.kM then d
  else
    let chain := ((List.range (last + 1 - c.rawN)).map (fun i => raw.getD i 0)).foldl Dev.takeRaw c
    let (w, clipped) := Dev.outWord (Dev.chainOut chain)
    let d := if clipped then d.bump (Reg.cap_SAT_CNT n) else d
    let sat := if clipped then 32 else 0
    let d := d.updCap n (fun _ => { chain with nextLbl := lbl + d.capStep n, discard := c.discard - 1 })
    let s := d.capState n
    if d.borrowed n then
      (d.updCap n (fun (x : CapSt) => { x with bor := x.bor.map (fun b =>
        if c.discard = 0 ∧ b.got < 16 then { b with sum := b.sum + w, got := b.got + 1 } else b) })).capFlags n sat
    else if 0 < c.discard ∨ (s ≠ 1 ∧ s ≠ 2) ∨ lbl < c.armAt then d.capFlags n sat
    else if d.fifoFull n busy then
      if s = 1 then (d.raise (Reg.cap_EVENTS n) (sat ||| 16)).updCap n (fun c => { c with wr := 0, valid := 0, fifo := [], fifoAt := 0 })
      else d.capDone n (sat ||| 16)
    else
      let d := d.putSample n lbl w busy
      match c.trigT, c.tp with
      | some t, none => if s = 2 ∧ t ≤ lbl then d.setPoint n 0 sat else d.capFlags n sat
      | some _, some _ =>
        let done := c.done + 1
        let d := (d.updCap n (fun c => { c with done := done })).wr64 (Reg.cap_POST_ACT_LO n) (min c.post done)
        if c.post ≤ done then d.capDone n sat else d.capFlags n sat
      | none, _ => d.capFlags n sat

/-- CHAIN_RESET (R254). -/
def chainResetD (k : Fin 6) (d : Dev) : Dev :=
  if (d.capOf k.val).en || d.borrowed k.val then d.resetChain k.val else d

/-- CALIBRATION_BORROW (R255, R345, R349): with no value, a borrow of a run starts, the first with SEL 17 and the second with SEL 16, while the
capture is IDLE or DONE, and otherwise is deferred; the value that a borrow measured ends it, replaces MD_OFS after the first and MD_GAIN after
the second, and reaches the digitiser at the chain reset with which it is given back. A borrow that is on is not disturbed. Log entry 85, DESIGN CHOICE, unsafe. -/
def calibrationBorrowD (k : Fin 6) (measured : Option Int) (d : Dev) : Dev :=
  let n := k.val
  let s := d.capState n
  let st := Reg.calTile_STATUS n
  let left := (d.calOf n).borrows
  match measured with
  | none =>
    if d.borrowed n then d
    else if s = 0 ∨ s = 3 then (d.setBit st 6 false).startBorrow n { sel := if left = 1 then 16 else 17 }
    else if 0 < left then d.setBit st 6 true
    else d
  | some v =>
    if d.borrowed n && ((d.capOf n).bor.bind (fun b => b.check)).isNone then
      let old := d.mdTrims n
      let meas := if left = 2 then some (v, old.2) else if left = 1 then some (old.1, v) else (d.calOf n).mdMeas
      (d.updCal n (fun t => { t with borrows := left - 1, mdMeas := meas })).endBorrow n
    else d

/-- CAPTURE_APPLY (R259). -/
def execCaptureApply (fn : Fn) (d : Fin 6) (s : State) : Host.Outcome State Fault Refusal :=
  s.onDev (captureApplyD fn d)

/-- CAPTURE_ARM (R256). -/
def execCaptureArm (d : Fin 6) (software : Bool) (s : State) : Host.Outcome State Fault Refusal :=
  s.onDev (captureArmD d software)

/-- CAPTURE_TRIGGER (R257). -/
def execCaptureTrigger (d : Fin 6) (software : Bool) (s : State) : Host.Outcome State Fault Refusal :=
  s.onDev (captureTriggerD d software)

/-- ABORT (R265). -/
def execAbort (d : Fin 6) (s : State) : Host.Outcome State Fault Refusal :=
  s.onDev (abortD d)

/-- DIGITISER_SAMPLE (R253). -/
def execDigitiserSample (d : Fin 6) (raw : List Int) (busy : Bool) (s : State) : Host.Outcome State Fault Refusal :=
  s.onDev (digitiserSampleD d raw busy)

/-- CHAIN_RESET (R254). -/
def execChainReset (d : Fin 6) (s : State) : Host.Outcome State Fault Refusal :=
  s.onDev (chainResetD d)

/-- CALIBRATION_BORROW (R255). -/
def execCalibrationBorrow (d : Fin 6) (measured : Option Int) (s : State) : Host.Outcome State Fault Refusal :=
  s.onDev (calibrationBorrowD d measured)

end Sys2Proof.Machine
end

