-- ==== Sys2Proof/Machine/Output.lean ====
section
/-! DEFINITION. Static mode and load groups, safe code, the Flint guard's writes and trip, and the trigger outputs (chapters 7
and 8). -/
namespace Sys2Proof.Machine
namespace Dev

/-- The channels that take their static code from load group `g` (R199): they lie in its owning partition (R19). -/
def members (d : Dev) (g : Nat) : List Nat :=
  (List.range 96).filter (fun n => d.chMode n == 2 && d.fld (Reg.chn_STATIC_CFG n) 0 4 == g && d.chOwner n == d.lgOwner g)

/-- A parity mismatch stands at load group `g`: its strobes are ignored (R423). Log entry 65, DEDUCED, unsafe. -/
def lgBad (d : Dev) (g : Nat) : Bool := d.corrupt (Reg.lg_CFG g) 16

/-- Load group `g` takes its strobes from LOAD_N (R199). -/
def fromPin (d : Dev) (g : Nat) : Bool := d.bit (Reg.lg_CFG g) 0

/-- The causes of tier 2 that persist on a channel (R196). -/
def holdPersists (d : Dev) (n : Nat) : Bool :=
  d.bit (Reg.chn_OUT_EVENTS n) 6 || d.dsafe ||
  (d.fld (Reg.chn_SAFE_CTL n) 4 8 &&& 0x5E) != 0

/-- The safe hold of a channel ends: what its schedule provides from here on is slewed from the safe code that stands (R184, R196). -/
def release (g : Guard) (d : Dev) (n : Nat) : Dev :=
  let code := d.dacCode g n
  (d.setFld (Reg.chn_SAFE_CTL n) 4 8 0).updChan n (fun c => { c with code := code, hold := false, d2dHeld := false, settle := none, settleOnly := false })

/-- The settle of R192 begins: the channel is held at SAFE_CODE for 20 µs. -/
def beginSettle (d : Dev) (n : Nat) : Dev :=
  (d.setHold n 64).updChan n (fun c => { c with settle := some (d.nowT + d.nsToT 20000) })

/-- The level of TO pin `k` (R227): POL 0 asserts high, 1 low. -/
def toLevel (d : Dev) (k : Nat) : Bool := d.bit (Reg.to_STATUS k) 0 != (bitsOf (d.eff (Reg.to_CFG k)).toNat 2 1 == 1)

/-- Buffered values of trigger output `k` apply when no action waits (R236, R240). -/
def applyTo (d : Dev) (k : Nat) : Dev :=
  if (d.tinOf (416 + k)).acts.isEmpty then (d.settle (Reg.to_CFG k)).settle (Reg.to_WIDTH k) else d

end Dev

/-! ## Static mode (R198 to R201) -/

/-- LOAD_STROBE (R198, R199, R223): the strobe's static codes are scheduled for stamp + LAT; while the group takes its
strobes from LOAD_N the firing is lost, and one that finds a parity mismatch at the group is ignored (R423). -/
def loadStrobeD (g : Fin 16) (d : Dev) : Dev :=
  if d.lgBad g.val then
    match d.takeFiring (400 + g.val) with
    | none => d
    | some (_, d) => d
  else d.holdFiring (400 + g.val) (d.fromPin g.val) 0

/-- At a strobe for device time `t` channel `n` applies the last code that was written by tick T div 16 - 2; later ones wait for the next strobe
(R198, R200). -/
def Dev.applyStatic (g : Guard) (d : Dev) (n t : Nat) : Dev :=
  let r := Reg.chn_STATIC_CODE n
  let inTime (p : Nat × Word) : Bool := decide (p.1 + 2 ≤ t / 16)
  match (d.chanOf n).statics.find? inTime with
  | none => d
  | some p =>
    let later := (d.chanOf n).statics.takeWhile (fun x => !inTime x)
    let d := d.updChan n (fun (c : Chan) => { c with statics := later })
    let d := if later.isEmpty then d.settle r else { d with inforce := SMap.set none d.inforce r (some p.2) }
    Dev.drive g d n t (sext 16 (bitsOf p.2.toNat 0 16))

/-- STATIC_LOAD (R198, R200): at the strobe's action time T each member with a code written by tick T div 16 - 2 applies
it. An edge of LOAD_N stamped in COARSE, whose action has the value 1, acts late (R35). -/
def staticLoadD (lg : Fin 16) (g : Guard) (d : Dev) : Dev :=
  match Dev.earliest (d.tinOf (400 + lg.val)).acts with
  | none => d
  | some a =>
    if !d.due a.time ∨ !d.timeValid then d
    else
      let t := if a.value = 1 then max a.time d.nextTick else a.time
      let d := if a.value = 1 then (d.raise (Reg.tin_EVENTS (400 + lg.val)) 4).recordLate a.stamp (t - a.time) else d
      let d := (d.dropAct (400 + lg.val) a).bump (Reg.lg_STROBES lg.val)
      (d.members lg.val).foldl (fun d n => Dev.applyStatic g d n t) d

/-- LOAD_N (R199, R201): a falling edge is stamped and strobes the groups that take it at stamp + LAT; one within a tick of
the last is merged. One stamped in COARSE awaits the time (R35). Log entry 65, DEDUCED, unsafe. -/
def loadND (lane : Fin 16) (d : Dev) : Dev :=
  let (t, coarse) := d.stampAt lane.val
  let merged := match d.loadnAt with
    | some t0 => decide (t < t0 + 16)
    | none => false
  if merged then d.bump Reg.lgPage_LG_COAL
  else
    let d := ({ d with loadnAt := some t }).wr64 Reg.lgPage_LOADN_AT_LO t
    let d := d.raise Reg.lgPage_LG_STATUS 2
    if !d.timeValid then
      (List.range 16).foldl (fun (d : Dev) g =>
        let x := t + d.rdN (Reg.lg_LAT g)
        if !(d.fromPin g && !d.lgBad g) then d
        else if 2^64 ≤ x then d.raise Reg.time_EVENTS 64
        else d.addAct (400 + g) ⟨x, t, 0, 1⟩) d
    else
      (List.range 16).foldl (fun d g =>
        if d.fromPin g && !d.lgBad g then
          match d.actTime (400 + g) (d.rdN (Reg.lg_LAT g)) ⟨1023, t, 0, coarse, false⟩ with
          | (none, d) => d
          | (some x, d) => d.addAct (400 + g) ⟨x, t, 0, 0⟩
        else d) d

/-! ## Safe code (R193 to R196, R329) -/

/-- A falling edge of OUT_SAFE_N in lane `lane` of the present tick (R195): channels with SAFE_EN take safe code, and with SAFE_LATCH their safe
hold is set. The edge is stamped, fires SAFE_PIN and queues its fault (R428). -/
def safeFall (lane : Nat) (g : Guard) (d : Dev) : Dev :=
  let (t, coarse) := d.stampAt lane
  let d := (({ d with safePin := true, safeEdge := false }).refreshLines t).raise Reg.lgPage_LG_STATUS 1
  let latch := d.bit Reg.lgPage_LG_CTL 0
  let d := (List.range 96).foldl (fun d n =>
    if (g.of n).safeEn then
      let d := d.raise (Reg.chn_OUT_EVENTS n) 2
      if latch then d.setHold n 128 else d
    else d) d
  let d := d.fireAs 1020 d.nowT 0 coarse false
  d.fault 13 { code := 0xD1, time := t, detail := [t % 2^32, t / 2^32] }

/-- OUT_SAFE_N falls (R195). -/
def outSafeND (lane : Fin 16) (g : Guard) (d : Dev) : Dev := if d.safePin then d else safeFall lane.val g d

/-- OUT_SAFE_N rises (R195): the analogue dies return to the digital path, which slews from the safe code that stood (R184), and the marker
lines to their sources (R464). -/
def outSafeNReleaseD (g : Guard) (d : Dev) : Dev :=
  let d' := (List.range 96).foldl (fun (d : Dev) n =>
    if d.safePin && (g.of n).safeEn then let code := d.dacCode g n; d.updChan n (fun c => { c with code := code }) else d) d
  ({ d' with safePin := false, safeEdge := false }).refreshLines d'.nowT

/-- HOLD_REL (R196): the hold is released unless a cause of tier 2 persists. -/
def holdRelD (fn : Fin 13) (ch : Fin 96) (g : Guard) (d : Dev) : Dev :=
  let a := Reg.chn_SAFE_CTL ch.val
  d.access fn.val a (d.chOwner ch.val) (fun d =>
    if d.holdPersists ch.val then d.raise (Reg.chn_OUT_EVENTS ch.val) 512
    else if (d.chanOf ch.val).hold then Dev.release g d ch.val
    else d)

/-- SETTLE_END (R192, R196): the settle is over; a hold that had no other cause ends with it. -/
def settleEndD (ch : Fin 96) (g : Guard) (d : Dev) : Dev :=
  match (d.chanOf ch.val).settle with
  | none => d
  | some t =>
    if d.nowT < t then d
    else if (d.chanOf ch.val).settleOnly && !d.dsafe then Dev.release g d ch.val
    else (d.clearCause ch.val 64).updChan ch.val (fun c => { c with settle := none, settleOnly := false })

/-- Row and column of the balls OUTP and OUTN of channel `n` (R447). -/
def outBalls (n : Nat) : (Nat × Nat) × (Nat × Nat) :=
  let row := 2 + 2 * (n % 16 / 4)
  let col := 3 + 10 * (n / 16) + 2 * (n % 4)
  ((row, col), (row, col + 1))

/-- What the IDCODE instruction of the JTAG port shifts out (R329, R468): version 0x3 for stepping B1, part 0x9600, manufacturer 0x726 and bit 0;
in RETIRED the port does not offer it. Log entry 69, DESIGN CHOICE, safe. -/
def jtagIdcode (f : Fuses) : Option Word := if f.lc = 4 then none else some 0x39600E4D

/-- EXTEST (R329): while the instruction is selected every channel is in safe hold. In RETIRED the port does not offer it. -/
def extestF (selected : Bool) (f : Fuses) (_ : Guard) (d : Dev) : Dev := { d with extest := selected && f.lc != 4 }

/-! ## The guard (R184 to R188, R194, R197) -/

/-- A write to a guard register of a channel reaches the guard only through the checks that every access passes; `f` is what
an accepted access does. -/
def guardAccess (fn off owner : Nat) (pf : Bool) (g : Guard) (d : Dev) (f : Guard → Dev → Guard × Dev) : Guard × Dev :=
  if d.standby then (g, d)
  else if !Dev.sees fn (Dev.ownerField owner pf) then (g, d.accessErr fn off 1 true false)
  else if !d.awake off then (g, d.accessErr fn off 2 true false)
  else f g d

/-- A write beyond a seal is refused (R187, R414). -/
def Dev.loosen (d : Dev) (fn off ch : Nat) : Dev := (d.refuse fn off 8).raise (Reg.chn_OUT_EVENTS ch) 128

/-- SAFE_CODE (R194): a code within the sealed clamp is taken, any other is refused. -/
def safeCodeG (fn : Fin 13) (ch : Fin 96) (v : Word) (g : Guard) (d : Dev) : Guard × Dev :=
  let a := Reg.chn_SAFE_CODE ch.val
  let o := d.chOwner ch.val
  guardAccess fn.val a (o.getD 0) o.isNone g d (fun g d =>
    let x := sext 16 v.toNat
    let k := g.of ch.val
    if k.sealLo ≤ x ∧ x ≤ k.sealHi then ({ g with ch := SMap.set {} g.ch ch.val { k with safe := x } }, d.endParity a)
    else (g, d.loosen fn.val a ch.val))

/-- GUARD_WRITE (R187): a working limit, 0 clamp, 1 slew, 2 power, is taken within its seal; any other is refused. -/
def guardWriteG (fn : Fin 13) (ch : Fin 96) (which : Fin 3) (v : Word) (g : Guard) (d : Dev) : Guard × Dev :=
  let a := if which = 0 then Reg.chn_GUARD_CLAMP ch.val else if which = 1 then Reg.chn_GUARD_SLEW ch.val else Reg.chn_GUARD_PWR ch.val
  let o := d.chOwner ch.val
  guardAccess fn.val a (o.getD 0) o.isNone g d (fun g d =>
    match (g.of ch.val).tighten which v with
    | some k => ({ g with ch := SMap.set {} g.ch ch.val k }, d.endParity a)
    | none => (g, d.loosen fn.val a ch.val))

/-- TRIP (R186): a power block has ended with a sum of code² above the limit: the channel is flagged and held, its guard-hit source fires with
the generation of what played (R209), and TRIP_AT takes the end of the block. -/
def tripD (ch : Fin 96) (d : Dev) : Dev :=
  match (d.chanOf ch.val).trips with
  | [] => d
  | t :: r =>
    let d := (d.updChan ch.val (fun c => { c with trips := r })).raise (Reg.chn_OUT_EVENTS ch.val) 64
    let d := (d.setHold ch.val 1).wr64 (Reg.chn_TRIP_AT_LO ch.val) t
    let d := d.fire (6 * ch.val + 5) t (d.genAt ch.val (t - 1))
    d.faultOf 13 0xD0 1 ch.val (d.chOwner ch.val) [t % 2^32, t / 2^32]

/-- D2D_ERR (R197): the word of the tick at hand is replaced by safe code, flagged and counted; with more than sixteen errors in 1 ms the safe
hold is set and its fault queued, once for each hold. -/
def d2dErrD (ch : Fin 96) (d : Dev) : Dev :=
  let d := (d.raise (Reg.chn_OUT_EVENTS ch.val) 256).bump (Reg.chn_D2D_ERR_CNT ch.val)
  let now := d.nowT
  let recent := now :: (d.chanOf ch.val).d2d.filter (fun t => decide (now < t + d.nsToT 1000000))
  let d := d.updChan ch.val (fun c => { c with d2d := recent, badWord := some (now / 16) })
  if recent.length ≤ 16 then d
  else if (d.chanOf ch.val).d2dHeld && (d.chanOf ch.val).hold then d
  else
    let d := (d.setHold ch.val 0).updChan ch.val (fun c => { c with d2dHeld := true })
    d.faultOf 7 0x71 1 ch.val (d.chOwner ch.val) [d.rdN (Reg.chn_D2D_ERR_CNT ch.val)]

/-! ## Trigger outputs (R227) -/

/-- A trigger output with a parity mismatch suppresses every action (R423). -/
def Dev.toBad (d : Dev) (k : Nat) : Bool := d.corrupt (Reg.to_CFG k) 32

/-- TRIGGER_OUTPUT (R223, R227): the firing's action is scheduled for stamp + LAT. -/
def triggerOutputD (k : Fin 8) (d : Dev) : Dev := d.holdFiring (416 + k.val) false 0

/-- TRIGGER_OUTPUT_ACTION (R227, R436): the action takes effect on the level as it stands, unless it would assert within GAP
of the last asserting edge or the device safe state suppresses it. -/
def triggerOutputActionD (k : Fin 8) (g : Guard) (d : Dev) : Dev :=
  let i := 416 + k.val
  match Dev.earliest (d.tinOf i).acts with
  | none => d
  | some (a : Act) =>
    if !d.due a.time ∨ !d.timeValid then d
    else
      let mode := bitsOf (d.eff (Reg.to_CFG k.val)).toNat 0 2
      let width := bitsOf (d.eff (Reg.to_WIDTH k.val)).toNat 0 24
      let level := d.bit (Reg.to_STATUS k.val) 0
      let r := g.ofTo k.val
      let asserts := !level && mode != 2
      let close := match (d.toutOf k.val).lastOn with
        | some t => decide (a.time < t + r.gap)
        | none => false
      let done (d : Dev) : Dev := (d.dropAct i a).applyTo k.val
      if d.dsafe || d.toBad k.val then done (d.overrun i a.stamp)
      else if asserts && (close || r.sealGap == 0xFFFFFFFF) then
        done ((d.overrunWith i a.stamp 8).bump (Reg.to_RATE_CNT k.val))
      else
        let next := if mode = 2 then false else if mode = 3 then !level else true
        let d := (d.setBit (Reg.to_STATUS k.val) 0 next).updTout k.val (fun (t : ToSt) =>
          { t with lastOn := if asserts then some a.time else t.lastOn, pulseEnd := if mode = 0 then some (a.time + width) else none })
        done d

/-- PULSE_END (R227): a PULSE's deassertion reaches its time. -/
def pulseEndD (k : Fin 8) (d : Dev) : Dev :=
  match (d.toutOf k.val).pulseEnd with
  | none => d
  | some t =>
    if !d.due t ∨ !d.timeValid then d
    else (d.setBit (Reg.to_STATUS k.val) 0 false).updTout k.val (fun (x : ToSt) => { x with pulseEnd := none })

/-- LOAD_STROBE (R198). -/
def execLoadStrobe (g : Fin 16) (s : State) : Host.Outcome State Fault Refusal :=
  s.onDev (loadStrobeD g)

/-- LOAD_N (R201). -/
def execLoadN (lane : Fin 16) (s : State) : Host.Outcome State Fault Refusal :=
  s.onDev (loadND lane)

/-- OUT_SAFE_N_RELEASE (R195). -/
def execOutSafeNRelease (s : State) : Host.Outcome State Fault Refusal :=
  s.onGuarded outSafeNReleaseD

/-- TRIGGER_OUTPUT (R227). -/
def execTriggerOutput (k : Fin 8) (s : State) : Host.Outcome State Fault Refusal :=
  s.onDev (triggerOutputD k)

/-- PULSE_END (R227). -/
def execPulseEnd (k : Fin 8) (s : State) : Host.Outcome State Fault Refusal :=
  s.onDev (pulseEndD k)

/-- STATIC_LOAD (R200). -/
def execStaticLoad (g : Fin 16) (s : State) : Host.Outcome State Fault Refusal :=
  s.onGuarded (staticLoadD g)

/-- OUT_SAFE_N (R195). -/
def execOutSafeN (lane : Fin 16) (s : State) : Host.Outcome State Fault Refusal :=
  s.onGuarded (outSafeND lane)

/-- HOLD_REL (R196). -/
def execHoldRel (fn : Fn) (ch : Fin 96) (s : State) : Host.Outcome State Fault Refusal :=
  s.onGuarded (holdRelD fn ch)

/-- SETTLE_END (R192). -/
def execSettleEnd (ch : Fin 96) (s : State) : Host.Outcome State Fault Refusal :=
  s.onGuarded (settleEndD ch)

/-- TRIP (R186). -/
def execTrip (t : Fin 6) (k : Fin 16) (s : State) : Host.Outcome State Fault Refusal :=
  s.onDev (tripD (chanAt t k))

/-- D2D_ERR (R197). -/
def execD2dErr (t : Fin 6) (k : Fin 16) (s : State) : Host.Outcome State Fault Refusal :=
  s.onDev (d2dErrD (chanAt t k))

/-- TRIGGER_OUTPUT_ACTION (R227). -/
def execTriggerOutputAction (k : Fin 8) (s : State) : Host.Outcome State Fault Refusal :=
  s.onGuarded (triggerOutputActionD k)

/-- EXTEST (R329). Log entry 69, DESIGN CHOICE, safe. -/
def execExtest (selected : Bool) (s : State) : Host.Outcome State Fault Refusal :=
  s.onFused (extestF selected)

/-- SAFE_CODE (R194). -/
def execSafeCode (fn : Fn) (ch : Fin 96) (v : Word) (s : State) : Host.Outcome State Fault Refusal :=
  s.onGuard (safeCodeG fn ch v)

/-- GUARD_WRITE (R187). -/
def execGuardWrite (fn : Fn) (ch : Fin 96) (which : Fin 3) (v : Word) (s : State) : Host.Outcome State Fault Refusal :=
  s.onGuard (guardWriteG fn ch which v)

end Sys2Proof.Machine
end

