-- ==== Sys2Proof/Machine/TimeBase.lean ====
section
/-! DEFINITION. Device time (chapter 2): the accumulator, what its loss does, the time-set, anchoring, SYNC and the scheduled
alarms. -/
namespace Sys2Proof.Machine
namespace Dev

/-- ρ in 2^-32 tDC (R32). -/
def rho (d : Dev) : Nat := d.rd64 Reg.time_RATIO_LO

/-- `x` units of 2^-32 tDC pass; REF-domain edges are counted (R32). -/
def elapse (d : Dev) (x : Nat) : Dev :=
  let r := max 1 d.rho
  let ph := d.time.ph + x
  { d with time := { d.time with acc := d.time.acc + x, ph := ph % r, refN := d.time.refN + ph / r } }

/-- Running contexts that lose their time (R35, R36): one has a pending launch, or its next entry launches. -/
def timeVictims (d : Dev) : List (Nat × Nat) :=
  (List.range 64).filterMap (fun e => match d.engCtx e with
    | some c => if decide (0 < d.pendOf c) || launching (d.entryAt (d.ctxPc c)) then some (e, c) else none
    | none => none)

/-- Pending frame actions are discarded with their launches; a host frame command sets FR_LATE and is not counted (R158, R171). -/
def dropFrameActs (d : Dev) (ch : Nat) : Dev :=
  if (d.chanOf ch).frActs.isEmpty then d
  else
    let host := (d.chanOf ch).frActs.any (fun a => a.prio == 100)
    let d := d.updChan ch (fun c => { c with frActs := [] })
    if host then (d.raise (Reg.chn_SYN_EVENTS ch) 2).setBit (Reg.chn_FR_CMD ch) 17 false else d

/-- Device time leaves RUN for state `s`, other than by a time-set (R34 to R37, R158): the launches and what plays end, frame
actions are discarded, and the contexts that waited on a launch take TIME_LOST. `flags` are the flags of TIME.EVENTS that its cause sets in the
same cycle. Log entry 28, DESIGN CHOICE, unsafe. Log entry 16, DESIGN CHOICE, unsafe. -/
def timeLost (d : Dev) (s flags : Nat) : Dev :=
  let flags := flags ||| (if d.timeValid && !d.launches.isEmpty then 8 else 0)
  let victims := d.timeVictims
  let valid := d.timeValid
  let d := (if flags = 0 then d else d.raise Reg.time_EVENTS flags).setTimeState s
  let d := { d with time := { d.time with anchor := none } }
  let d := (List.range 96).foldl (fun (d : Dev) (n : Nat) => d.dropFrameActs n) d
  if !valid then d
  else
    let d := { d with launches := [], edges := [] }
    let idle := (List.range 96).map (fun n => d.idleLevel n)
    let modes := (List.range 96).map (fun n => d.chMode n)
    let d := (List.range 96).foldl (fun (d : Dev) (n : Nat) => d.updChan n (fun (c : Chan) =>
      { c with cur := none, prev := [], frHist := [], trims := [], idles := [], streams := [], path := if modes.getD n 0 = 1 then idle.getD n 0 else c.path })) d
    let d := ((List.range 32).foldl (fun (d : Dev) (k : Nat) => d.applyFi k) d).refreshLines d.nowT
    (victims.foldl (fun (d : Dev) (v : Nat × Nat) => d.raiseExc v.1 v.2 8 0) d).settleClaims

/-- The accumulator's growth since REF-domain edge number `n`. -/
def sinceEdge (d : Dev) (n : Nat) : Nat := d.time.ph + (d.time.refN - n) * d.rho

/-- A time-set moves the past with it: what the device remembers of device times gone by keeps its distance to the present, while times that
were stated (alarms, action times, epochs) stay as they are (log entry 8, DESIGN CHOICE, unsafe). -/
def moveTimes (d : Dev) (old new : Nat) : Dev :=
  let m (t : Nat) : Nat := t + new - old
  let k (t : Nat) : Nat := m (16 * t) / 16
  let held (l : List Held) : List Held := l.map (fun (h : Held) => { h with tick := k h.tick })
  let hist (l : List (Nat × Bool)) : List (Nat × Bool) := l.map (fun (c : Nat × Bool) => (m c.1, c.2))
  { d with
    chan := SMap.mapVals {} d.chan (fun _ (c : Chan) =>
      { c with prev := c.prev.map (fun (p : Play) => { p with start := m p.start, undr := p.undr.map m }),
               trims := c.trims.map (fun (b : Nat × Word × Word) => (m b.1, b.2)), idles := c.idles.map (fun (b : Nat × Int) => (m b.1, b.2)),
               dlyEnd := m c.dlyEnd, statics := c.statics.map (fun (p : Nat × Word) => (k p.1, p.2)), settle := c.settle.map m,
               frHist := c.frHist.map (fun (h : Nat × Nat × FrameRec) => (h.1, m h.2.1, h.2.2)), trips := c.trips.map m, d2d := c.d2d.map m, swapAt := c.swapAt.map m,
               pwrBlk := 0, pwrSum := 0, badWord := none, drivenTo := 0, hitTick := none, flagTick := none }),
    ti := SMap.mapVals {} d.ti (fun _ (x : TiSt) =>
      { x with tacc := x.tacc.map m, rise := x.rise.map m, fall := x.fall.map m, armAt := m x.armAt, settle := m x.settle, hist := hist x.hist }),
    tout := SMap.mapVals {} d.tout (fun _ (x : ToSt) => { x with lastOn := x.lastOn.map m, pulseEnd := x.pulseEnd.map m }),
    grp := SMap.mapVals {} d.grp (fun _ (x : GrpSt) => { x with history := hist x.history }),
    ec := SMap.mapVals {} d.ec (fun _ (x : EcSt) => { inbox := held x.inbox, hold := held x.hold }),
    tin := SMap.mapVals {} d.tin (fun _ (x : TinSt) => { x with inbox := held x.inbox }),
    eng := SMap.mapVals {} d.eng (fun _ (x : Eng) => { x with slotTick := k x.slotTick }),
    loadnAt := d.loadnAt.map m }

/-- V, in 2^-32 tDC, is the device time of the edge E, `since` before this instant (R38, R53): device time is COARSE until TB is anchored at E. Log entry 8, DESIGN CHOICE, unsafe. -/
def setTime (d : Dev) (v since : Nat) : Dev :=
  let d := d.moveTimes (d.time.acc / 2^32) ((v + since) / 2^32)
  let d := { d with time := { d.time with acc := v + since, anchor := some v, qualAt := none, syncAt := none, linkSet := none } }
  let d := (d.wr64 Reg.time_SET_AT_LO (v / 2^32)).setTimeState 1
  let d := ((d.setBit Reg.time_STATUS 1 true).setBit Reg.time_STATUS 4 false).setBit Reg.time_SET_CTL 16 false
  d.raise Reg.time_EVENTS 4

/-- EPOCH of the last time-set this device took part in (R55). -/
def epoch (d : Dev) : Nat := d.fld Reg.link_STATUS 10 8

/-- This device is the link's master. -/
def isMaster (d : Dev) : Bool := d.bit Reg.link_CFG 9

/-- Alarm `a` fires with stamp `t`; with a PERIOD it has the next firing still to come (R40), unless that time exceeds
2^64 - 1 (R23). -/
def alarmFires (d : Dev) (a t : Nat) (late : Bool) : Dev :=
  let d := d.fireAs (864 + a) t 0 (!d.timeValid) late
  let p := d.rdN (Reg.alarm_PERIOD a)
  let stop (d : Dev) : Dev := d.setBit (Reg.alarm_CTL a) 1 false
  if p = 0 then stop d
  else if 2^64 ≤ t + p then stop (d.raise Reg.time_EVENTS 64)
  else ({ d with time := { d.time with alarms := SMap.set 0 d.time.alarms a (t + p) } }).setBit (Reg.alarm_CTL a) 1 true

end Dev

/-- SYNC_EDGE (R39): the edge is stamped with the device time of the REF-domain edge that sampled it, checked against its
period, and fires SYNC; it may be the edge an armed time-set waits for (R38). Log entry 61, DEDUCED, unsafe. -/
def syncEdgeD (d : Dev) : Dev :=
  if !d.time.refOk then d
  else
    let stamp := d.accEdge / 2^32
    let chk := Reg.time_SYNC_CHK
    let slip := match d.time.lastSync with
      | some n => d.bit chk 16 && decide (d.time.refN - n ≠ d.fld chk 0 16)
      | none => false
    let d := if slip then d.raise Reg.time_EVENTS 32 else d
    let now := d.bit Reg.time_STATUS 4 && (d.time.mode == 1 || (d.time.mode == 2 && (match d.time.qualAt with
      | some q => decide (q + 2 ≤ d.time.refN)
      | none => false)))
    let d := { d with time := { d.time with lastSync := some d.time.refN, syncAt := if d.time.syncAt.isNone && now then some d.time.refN else d.time.syncAt } }
    (d.wr64 Reg.time_SYNC_LO stamp).fireAs 981 stamp 0 (!d.timeValid) false

/-- ALARM (R40): an alarm whose next firing time has come fires with that time. -/
def alarmD (a : Fin 64) (d : Dev) : Dev :=
  let t := SMap.get 0 d.time.alarms a.val
  if d.timeValid && d.bit (Reg.alarm_CTL a.val) 1 && d.due t && !d.corrupt (Reg.alarm_AT_LO a.val) 16 then d.alarmFires a.val t false
  else d

/-- ALARM_ENABLE (R40): a written EN applies at the tick boundary; a 1 enables the alarm anew from AT. One enabled after its first firing time fires at once, marked
late. -/
def alarmEnableD (a : Fin 64) (d : Dev) : Dev :=
  let r := Reg.alarm_CTL a.val
  let now := d.nowT
  if !d.timeValid ∨ !d.held r then d
  else
    let d := d.settle r
    if d.fld r 0 1 = 0 then d.setBit r 1 false
    else
      let t := d.rd64 (Reg.alarm_AT_LO a.val)
      let p := d.rdN (Reg.alarm_PERIOD a.val)
      if now ≤ t then ({ d with time := { d.time with alarms := SMap.set 0 d.time.alarms a.val t } }).setBit r 1 true
      else if p = 0 then d.alarmFires a.val t true
      else d.alarmFires a.val (t + (now - t) / p * p) true

/-- A time-set would meet a channel that is claimed or STATIC, or a pending launch (R38). -/
def Dev.timeInUse (d : Dev) : Bool := (List.range 96).any (fun n => d.isClaimed n || d.chMode n == 2) || !d.launches.isEmpty

/-- An armed time-set is refused at its edge E, because a context was started or a channel made STATIC while it was armed (R38): device time
stays, ARM clears, and SET_REFUSED is set. The time-set of a START section does not complete then (R313). Log entry 72, DEDUCED, safe. -/
def Dev.refuseSet (d : Dev) : Dev :=
  let d := (d.setBit Reg.time_STATUS 4 false).setBit Reg.time_SET_CTL 16 false
  let d := { d with sec := { d.sec with setLost := d.sec.autoWait } }
  { d with time := { d.time with qualAt := none, syncAt := none, linkSet := none } }.raise Reg.time_EVENTS 2

/-- TIME_SET_ARM (R38, R51): the write's MODE and QUAL_TI are taken; with ARM a time-set is armed, or refused while a channel is
claimed or STATIC or a launch is pending, and for MODE 3 on the master. -/
def timeSetArmD (v : Word) (d : Dev) : Dev :=
  let r := Reg.time_SET_CTL
  d.access 0 r none (fun d =>
    let mode := bitsOf v.toNat 0 2
    let d := (d.setFld r 0 2 mode).setFld r 4 4 (bitsOf v.toNat 4 4)
    if bitsOf v.toNat 16 1 = 0 then d
    else if d.timeInUse then
      (d.refuse 0 r 5).raise Reg.time_EVENTS 2
    else if mode = 3 ∧ d.isMaster then d.raise Reg.time_EVENTS 2
    else
      let d := (d.setBit r 16 true).setBit Reg.time_STATUS 4 true
      { d with time := { d.time with mode := mode, armN := d.time.refN, qualAt := none, syncAt := none, linkSet := none } })

/-- TIME_SET (R38, R53): at the edge E that the armed mode selects the accumulator takes V and device time is COARSE until
TB_ANCHOR. The master counts an EPOCH and owes its SET frame (R51); a follower takes the frame's EPOCH. -/
def timeSetD (d : Dev) : Dev :=
  if !d.bit Reg.time_STATUS 4 ∨ !d.time.refOk then d
  else if d.time.mode = 3 then
    match d.time.linkSet with
    | none => d
    | some (m, c, ep) =>
      if d.accEdge < c + 2 * d.rho then d
      else if d.timeInUse then d.refuseSet
      else (d.setTime (m * 2^28 + (d.accEdge - c)) d.time.ph).setFld Reg.link_STATUS 10 8 ep
  else if (d.time.mode = 0 ∧ d.time.armN < d.time.refN) ∨ d.time.syncAt.isSome then
    if d.timeInUse then d.refuseSet
    else
    let n := d.time.syncAt.getD (d.time.armN + 1)
    let d := d.setTime (d.rd64 Reg.time_SET_LO * 2^32) (d.sinceEdge n)
    if d.isMaster then
      let d := d.setFld Reg.link_STATUS 10 8 (d.epoch + 1)
      { d with time := { d.time with setFrame := true } }
    else d
  else d

/-- Device time is valid again: an action that a trigger output, a load strobe or a group holds, and whose time has passed meanwhile, acts at this
tick boundary, late (R31). An action of LOAD_N stamped in COARSE is flagged as it acts. -/
def Dev.rescheduleHeld (d : Dev) : Dev :=
  let now := d.nowT
  let late (i : Nat) (a : Act) : Bool := decide (a.time < now) && !(400 ≤ i && i < 416 && a.value == 1)
  d.tin.foldl (fun (d : Dev) (p : Nat × TinSt) =>
    let d := (p.2.acts.filter (late p.1)).foldl (fun (d : Dev) a => (d.raise (Reg.tin_EVENTS p.1) 4).recordLate a.stamp (now - a.time)) d
    if p.2.acts.any (late p.1) then
      d.updTin p.1 (fun (x : TinSt) => { x with acts := x.acts.map (fun a => if late p.1 a then { a with time := now } else a) })
    else d) d

/-- TB_ANCHOR (R33): with the SPLL locked TB is anchored to a REF-domain edge A, the edge E of a time-set or else the last edge; its first edge
carries the smallest multiple of 16 above C(A), and device time is RUN. Where the command comes after that edge, TB has counted on since. The
digitisers' chains reset (R250, R254), and what the host asked of the frames while device time was not valid is scheduled (R35). -/
def tbAnchorD (d : Dev) : Dev :=
  if d.timeState ≠ 1 ∨ !d.time.refOk ∨ !d.bit Reg.clk_STATUS 0 then d
  else
    let first := (d.time.anchor.getD d.accEdge / 2^32 / 16 + 1) * 16
    let t := max first (ceilDiv d.time.acc (16 * 2^32) * 16)
    let d := d.elapse (t * 2^32 - d.time.acc)
    let d := ({ d with time := { d.time with now := t, anchor := none } }).setTimeState 2
    let d := d.rescheduleActs.rescheduleHeld
    (List.range 6).foldl (fun (d : Dev) (k : Nat) => if (d.capOf k).en || d.borrowed k then d.resetChain k else d) d

/-- REF_DETECTED (R34, R354): the measured reference is shown, and OFF becomes COARSE with the accumulator where it stood. -/
def refDetectedD (khz : BitVec 32) (d : Dev) : Dev :=
  let d := (d.wrN Reg.clk_REF_MEAS khz.toNat).setBit Reg.clk_STATUS 7 true
  let d := { d with time := { d.time with refOk := true } }
  if d.timeState = 0 then d.setTimeState 1 else d

/-- SYNC_EDGE (R39). -/
def execSyncEdge (s : State) : Host.Outcome State Fault Refusal :=
  s.onDev syncEdgeD

/-- ALARM (R40). -/
def execAlarm (a : Fin 64) (s : State) : Host.Outcome State Fault Refusal :=
  s.onDev (alarmD a)

/-- ALARM_ENABLE (R40). -/
def execAlarmEnable (a : Fin 64) (s : State) : Host.Outcome State Fault Refusal :=
  s.onDev (alarmEnableD a)

/-- TIME_SET_ARM (R38). -/
def execTimeSetArm (v : Word) (s : State) : Host.Outcome State Fault Refusal :=
  s.onDev (timeSetArmD v)

/-- TIME_SET (R38). -/
def execTimeSet (s : State) : Host.Outcome State Fault Refusal :=
  s.onDev timeSetD

/-- TB_ANCHOR (R33). -/
def execTbAnchor (s : State) : Host.Outcome State Fault Refusal :=
  s.onDev tbAnchorD

/-- REF_DETECTED (R34). -/
def execRefDetected (khz : BitVec 32) (s : State) : Host.Outcome State Fault Refusal :=
  s.onDev (refDetectedD khz)

end Sys2Proof.Machine
end

