-- ==== Sys2Proof/Machine/Link.lean ====
section
/-! DEFINITION. The Immor link (R41 to R53, R228): ports, numbering, routes, delays, time frames and events. -/
namespace Sys2Proof.Machine
namespace Dev

/-! ## Ports and routes -/

def linkOn (d : Dev) : Bool := d.bit Reg.link_CFG 10
/-- Port `p` is enabled and up. -/
def portUp (d : Dev) (p : Nat) : Bool := d.linkOn && d.bit Reg.link_CFG p && d.bit (Reg.port_STATE p) 2
/-- Port `p` carries EVENT and RESULT frames (R45, R47, R423). -/
def carries (d : Dev) (p : Nat) : Bool :=
  d.portUp p && d.bit Reg.link_STATUS 8 && !(d.portOf p).long && !d.corrupt Reg.link_CFG 0x300
/-- This device's number. -/
def devNum (d : Dev) : Nat := d.fld Reg.link_STATUS 0 4
/-- The number N of devices on the link. -/
def devCount (d : Dev) : Nat := d.fld Reg.link_STATUS 4 4 + 1
/-- The ring is closed and in use. -/
def ringUp (d : Dev) : Bool := d.bit Reg.link_STATUS 9
/-- The device's time in 1/16 tDC. -/
def time16 (d : Dev) : Nat := if d.timeValid then d.time.now * 16 else d.accEdge / 2^28

/-- The port that a unicast frame for device `b` leaves on (R46, R49): the one with fewer hops of a closed ring, IL0 in a tie; the
one that is left of a ring that broke; of a chain the one that reaches b. Log entry 60, DEDUCED, unsafe. -/
def route (d : Dev) (b : Nat) : Option Nat :=
  let a := d.devNum
  let n := d.devCount
  let up := (b + n - a % n) % n
  let down := (a + n - b % n) % n
  if a = b ∨ n ≤ b then none
  else if d.ringUp then some (if up < down then 1 else 0)
  else if d.bit Reg.link_CFG 8 then some (if d.portUp 1 && (!d.portUp 0 || decide (up < down)) then 1 else 0)
  else some (if a < b then 1 else 0)

/-- The hops that a broadcast copy sent on port `p` travels (R46): in a ring ⌈(N - 1)/2⌉ on IL0 and ⌊(N - 1)/2⌋ on IL1. -/
def bcastLimit (d : Dev) (p : Nat) : Nat := if d.ringUp then (if p = 0 then d.devCount / 2 else (d.devCount - 1) / 2) else 15

/-! ## Frames -/

end Dev

/-- Bytes 0 to 27 of a frame (R43): its words 0 to 6, with the reserved bits 0. -/
def frameBody (f : LinkFrame) : List Byte :=
  let w0 := f.typ.toNat + 2^8 * f.srcDev.val + 2^12 * f.dstDev.val + (if f.bcast then 2^16 else 0) + 2^18 * f.hops.val + 2^22 * f.gen.val
  leBytes w0 4 ++ leBytes f.seq.toNat 2 ++ leBytes f.ackSeq.toNat 2 ++ leBytes f.stamp.toNat 8 ++
    leBytes f.w4.toNat 4 ++ leBytes f.w5.toNat 4 ++ leBytes f.w6.toNat 4
/-- The frame with its CRC (R43). -/
def sealFrame (f : LinkFrame) : LinkFrame := { f with crc := crc32c (frameBody f) }
/-- The frame's CRC holds (R43, R48). -/
def frameIntact (f : LinkFrame) : Bool := f.crc == crc32c (frameBody f)

namespace Dev

/-! ## Sending -/

/-- A frame enters a port's transmit queue (R48): an EVENT that finds 256 frames waiting is dropped. -/
def send (d : Dev) (p : Nat) (f : LinkFrame) (since : Option Nat) : Dev :=
  if f.typ = 0x10#8 ∧ 256 ≤ (d.portOf p).txq.length then d.bump (Reg.port_TX_DROP p)
  else d.updPort p (fun (x : Port) => { x with txq := x.txq ++ [⟨f, none, since⟩] })

/-- A through frame goes ahead of every frame of the device's own (R47, R52), behind resends and other through frames. -/
def sendThrough (d : Dev) (p : Nat) (f : LinkFrame) (since : Option Nat) : Dev :=
  if f.typ = 0x10#8 ∧ 256 ≤ (d.portOf p).txq.length then d.bump (Reg.port_TX_DROP p)
  else
    let ahead (i : TxItem) : Bool := i.seq.isSome || i.frame.hops != 0
    d.updPort p (fun (x : Port) => { x with txq := x.txq.takeWhile ahead ++ [⟨f, none, since⟩] ++ x.txq.dropWhile ahead })

/-- A frame of this device. -/
def ownFrame (d : Dev) (typ : BitVec 8) (stamp w4 w5 w6 : Nat) : LinkFrame :=
  { typ := typ, srcDev := Fin.ofNat 16 d.devNum, dstDev := 0, bcast := false, hops := 0, gen := 0, seq := 0, ackSeq := 0,
    stamp := BitVec.ofNat 64 stamp, w4 := BitVec.ofNat 32 w4, w5 := BitVec.ofNat 32 w5, w6 := BitVec.ofNat 32 w6, crc := 0 }

/-- A broadcast of the device's own leaves on both ports that a test admits. -/
def broadcast (d : Dev) (f : LinkFrame) (ok : Nat → Bool) (since : Option Nat) : Dev :=
  [0, 1].foldl (fun (d : Dev) (p : Nat) => if ok p && decide (0 < d.bcastLimit p) then d.send p { f with bcast := true } since else d) d

/-- The next frame of a port's queue leaves (R43, R48, R52): it takes the next SEQ, a resend its own, and the last SEQ received;
a frame that waited with its STAMP running takes the time it spent in the device. Its CRC is formed as it leaves. -/
def transmit (d : Dev) (p : Nat) : Dev :=
  let x := d.portOf p
  match x.txq with
  | [] => d
  | i :: r =>
    if !d.portUp p then d
    else
      let waited := d.time16 - i.since.getD d.time16
      let t16 := i.frame.stamp.toNat * 16 + i.frame.w6.toNat % 16 + waited
      let f := if i.since.isSome then
          { i.frame with stamp := BitVec.ofNat 64 (t16 / 16), w6 := BitVec.ofNat 32 (i.frame.w6.toNat / 16 * 16 + t16 % 16) }
        else i.frame
      let seq := i.seq.getD x.txSeq
      let f := sealFrame { f with seq := BitVec.ofNat 16 seq, ackSeq := BitVec.ofNat 16 x.rxSeq }
      d.updPort p (fun (x : Port) =>
        if i.seq.isSome then { x with txq := r }
        else { x with txq := r, txSeq := (seq + 1) % 2^16, kept := ((seq, f) :: x.kept).take 64 })

/-! ## Receiving -/

/-- A frame came with a CRC error (R48): it is discarded and counted, and a NAK names the first missing SEQ. -/
def badCrc (d : Dev) (p : Nat) : Dev :=
  (d.bump (Reg.port_CRC_ERR p)).send p (d.ownFrame 0x20#8 0 (((d.portOf p).rxSeq + 1) % 2^16) 0 0) none

/-- A frame reaches port `p`: one whose CRC does not hold is discarded (R48), and the others take the effect `k` in SEQ order (R232). One that
is not the next, or that a port that is down receives, has no effect. Log entry 60, DEDUCED, unsafe. -/
def onFrame (d : Dev) (p : Nat) (f : LinkFrame) (k : Dev → Dev) : Dev :=
  if !d.portUp p then d
  else if !frameIntact f then d.badCrc p
  else if f.seq.toNat = ((d.portOf p).rxSeq + 1) % 2^16 then k (d.updPort p (fun (x : Port) => { x with rxSeq := f.seq.toNat }))
  else d

/-- A received frame is for this device. -/
def forMe (d : Dev) (f : LinkFrame) : Bool := f.bcast || f.dstDev.val == d.devNum

/-- Forward a frame received on port `p` (R43, R46): HOPS rises by one; a broadcast travels on in its direction to its limit. -/
def forward (d : Dev) (p : Nat) (f : LinkFrame) (ok : Nat → Bool) (since : Option Nat) : Dev :=
  let h := f.hops.val + 1
  let f := { f with hops := Fin.ofNat 16 h }
  let q := 1 - p
  if f.bcast then
    if ok q && decide (h < d.bcastLimit q ∧ h < 16) then d.sendThrough q f since else d
  else if f.dstDev.val = d.devNum then d
  else match d.route f.dstDev.val with
    | some q => if ok q then d.sendThrough q f since else d
    | none => d

/-- TOPO_ERR (R45): the topology differs from LINK.CFG. -/
def topoErr (d : Dev) : Dev :=
  let d := (d.setBit Reg.link_STATUS 8 false).raise Reg.link_EVENTS 2
  d.faultNow 12 0xC1 0 0 [d.rdN Reg.link_STATUS]

/-- Numbering is complete with `seen` devices less one, in a ring or a chain (R45). Log entry 60, DEDUCED, unsafe. -/
def topoDone (d : Dev) (seen : Nat) (ring : Bool) : Dev :=
  let d := (d.setFld Reg.link_STATUS 4 4 seen).setBit Reg.link_STATUS 9 ring
  if d.fld Reg.link_CFG 4 4 ≠ seen ∨ d.bit Reg.link_CFG 8 ≠ ring then d.topoErr else d.setBit Reg.link_STATUS 8 true

/-- A TOPO frame with number `k`, `seen` devices less one, and RING. -/
def topoFrame (d : Dev) (k seen : Nat) (ring : Bool) : LinkFrame :=
  d.ownFrame 0x30#8 0 (k % 16 + 16 * seen + (if ring then 256 else 0)) 0 0

/-- What a port's loss does (R48, R49): PORT_DOWN, and a closed ring becomes a chain. -/
def portLost (d : Dev) (p : Nat) : Dev :=
  let d := d.wrN (Reg.port_STATE p) 0
  let d := (d.raise Reg.link_EVENTS 1).fireNow (982 + p)
  let d := d.faultNow 12 0xC0 7 p []
  if d.ringUp then
    let d := ((d.setBit Reg.link_STATUS 9 false).raise Reg.link_EVENTS 8).fireNow 985
    d.faultNow 12 0xC4 0 0 []
  else d

end Dev

/-- PORT_UP (R42, R45): an enabled port's four lanes have come as far as `lanes` says. With block lock on every lane, deskewed to within
one block and with the numbers 0 to 3 the port comes up, both directions at SEQ 0; the
master becomes device 0 and sends TOPO on IL1. A port whose lanes stop short of it shows how far they came and stays down. Log entry 58, DESIGN CHOICE, safe. -/
def portUpD (p : Fin 2) (lanes : PortLanes) (d : Dev) : Dev :=
  let n := p.val
  if !d.linkOn ∨ !d.bit Reg.link_CFG n then d
  else if !(lanes.locked && lanes.deskewed && lanes.numbered) then
    d.wrN (Reg.port_STATE n) (if lanes.locked then (if lanes.deskewed then 3 else 1) else 0)
  else
    let d := (d.wrN (Reg.port_STATE n) 7).updPort n (fun (x : Port) => { x with txSeq := 0, rxSeq := 0xFFFF, kept := [] })
    if d.isMaster then
      let d := d.setFld Reg.link_STATUS 0 4 0
      if n = 1 then d.send 1 (d.topoFrame 1 0 false) none else d
    else d

/-- TOPO (R45): on IL0 a device takes the number and passes TOPO on; the master's own closes the ring, and the news goes round.
The end of a chain sends what was seen back on IL1's side. -/
def topoD (p : Fin 2) (f : LinkFrame) (d : Dev) : Dev :=
  d.onFrame p.val f (fun d =>
    let k := bitsOf f.w4.toNat 0 4
    let seen := bitsOf f.w4.toNat 4 4
    let ring := bitsOf f.w4.toNat 8 1 == 1
    if p.val = 1 then
      let d := d.topoDone seen false
      if d.isMaster then d else d.send 0 (d.topoFrame k seen false) none
    else if d.isMaster then
      if ring then d
      else
        let d := d.topoDone seen true
        if d.bit Reg.link_STATUS 8 then d.send 1 (d.topoFrame 0 seen true) none else d
    else if ring then (d.topoDone seen true).send 1 (d.topoFrame 0 seen true) none
    else if seen = 15 then d.topoErr
    else
      let d := (d.setFld Reg.link_STATUS 0 4 k).setFld Reg.link_STATUS 4 4 (seen + 1)
      if d.portUp 1 then d.send 1 (d.topoFrame (k + 1) (seen + 1) false) none
      else (d.topoDone (seen + 1) false).send 0 (d.topoFrame 0 (seen + 1) false) none)

/-- ECHO (R50): every 2^20 ticks a port that is up sends ECHO_REQ. -/
def echoD (p : Fin 2) (d : Dev) : Dev :=
  if !d.portUp p.val ∨ !d.timeValid ∨ d.time.now / 16 % 2^20 ≠ 0 then d
  else d.send p.val (d.ownFrame 0x02#8 d.time.now 0 0 0) (some d.time16)

/-- TIME_SYNC (R51): the master sends one on every port at ticks that are multiples of 2^16, and one with SET after a time-set of
its own; a SET frame that finds the link off stays owed (log entry 84, DESIGN CHOICE, unsafe). -/
def timeSyncD (set : Bool) (d : Dev) : Dev :=
  let due := if set then d.time.setFrame else decide (d.time.now / 16 % 2^16 = 0)
  if !d.isMaster ∨ !d.linkOn ∨ !d.bit Reg.link_STATUS 8 ∨ !d.timeValid ∨ !due then d
  else
    let f := d.ownFrame 0x01#8 d.time.now (d.rdN Reg.time_RATIO_LO) (d.rdN Reg.time_RATIO_HI) (256 * d.epoch + (if set then 2^16 else 0))
    let d := d.broadcast f d.portUp (some d.time16)
    if set then { d with time := { d.time with setFrame := false } } else d

/-- TIME_SYNC_RECEIVE (R50, R52, R53): the frame travels on with the master's time at its departure. With the same ρ it is compared
where its EPOCH is the device's own, and an armed follower acts on a SET frame of another EPOCH while SET_CTL.MODE still says LINK (log entry 84,
DESIGN CHOICE, unsafe). -/
def timeSyncReceiveD (p : Fin 2) (f : LinkFrame) (d : Dev) : Dev :=
  d.onFrame p.val f (fun d =>
    let hop : Int := (d.rdN (Reg.port_DELAY p.val) : Int) + sext 32 (d.rdN (Reg.port_ASYM p.val))
    let m : Int := ((f.stamp.toNat * 16 + bitsOf f.w6.toNat 0 4 : Nat) : Int) + hop
    let ep := bitsOf f.w6.toNat 8 8
    let set := bitsOf f.w6.toNat 16 1 == 1
    let thru : LinkFrame := { f with stamp := BitVec.ofNat 64 (m.toNat / 16), w6 := BitVec.ofNat 32 (f.w6.toNat / 16 * 16 + m.toNat % 16) }
    let d := d.forward p.val thru d.portUp (some d.time16)
    if f.w4.toNat + 2^32 * f.w5.toNat ≠ d.rho then d.raise Reg.link_EVENTS 16
    else if ep = d.epoch then
      let diff := m - (d.time16 : Int)
      if d.timeValid && decide (16 < diff.natAbs) then
        ((d.raise Reg.link_EVENTS 32).fireNow 984).faultNow 12 0xC3 7 p.val [toBits 32 diff]
      else d
    else if set && d.time.linkSet.isNone && d.bit Reg.time_STATUS 4 && d.time.mode == 3 && d.fld Reg.time_SET_CTL 0 2 == 3 && !d.isMaster then
      { d with time := { d.time with linkSet := some (m.toNat, d.time.acc, ep) } }
    else d)

/-- EVENT_FRAME (R44, R231, R232): the frame travels on, and where it is for this device its endpoint fires with the frame's
STAMP and GEN. -/
def eventFrameD (p : Fin 2) (f : LinkFrame) (d : Dev) : Dev :=
  d.onFrame p.val f (fun d =>
    if !d.carries p.val then d
    else
      let d := d.forward p.val f d.carries none
      if !d.forMe f then d
      else
        let e := bitsOf f.w4.toNat 0 12
        let x := d.rdN (Reg.ep_EP e)
        if bitsOf x 4 1 = 0 ∨ bitsOf x 6 1 = 0 then d.evtCount 0 Reg.evt_BAD_EP_CNT 2
        else d.postFires 0 e f.stamp.toNat f.gen.val false)

/-- RESULT_FRAME (R44, R233): the frame travels on, and where it is for this device its word lands if MB_LINK allows the block. -/
def resultFrameD (p : Fin 2) (f : LinkFrame) (d : Dev) : Dev :=
  d.onFrame p.val f (fun d =>
    if !d.carries p.val then d
    else
      let d := d.forward p.val f d.carries none
      if !d.forMe f then d
      else
        let i := bitsOf f.w4.toNat 0 12
        if bitsOf (d.rd64 Reg.evt_MB_LINK_LO) (i / 64) 1 = 1 then { d with mailbox := SMap.set 0 d.mailbox i f.w5 }
        else d.evtCount 0 Reg.evt_LINK_REJECT_CNT 16)

/-- CRC_ERROR (R48): the frame is discarded, and a NAK names the first missing SEQ. -/
def crcErrorD (p : Fin 2) (d : Dev) : Dev :=
  if !d.portUp p.val then d else d.badCrc p.val

/-- NAK (R48): the kept frames from the named SEQ on are sent again, in order; where it is kept no longer the port restarts, the frames before
the oldest kept one are lost, and those still kept are sent again as the first frames of the new sequence. -/
def nakD (p : Fin 2) (f : LinkFrame) (d : Dev) : Dev :=
  let n := p.val
  d.onFrame n f (fun d =>
    let x := d.portOf n
    let s := bitsOf f.w4.toNat 0 16
    let again := x.kept.takeWhile (fun k => k.1 != s) ++ x.kept.filter (fun k => k.1 == s)
    if s = x.txSeq then d
    else if x.kept.any (fun k => k.1 == s) then
      let items := again.reverse.map (fun k => (⟨k.2, some k.1, none⟩ : TxItem))
      (d.updPort n (fun (x : Port) => { x with txq := items ++ x.txq.filter (fun i => i.seq.isNone) })).addSat (Reg.port_RESEND n) items.length
    else
      let oldest := (x.kept.getLast?.map (fun k => k.1)).getD x.txSeq
      let d := (d.addSat (Reg.port_REPLAY_LOST n) ((oldest + 2^16 - s) % 2^16)).raise Reg.link_EVENTS 64
      (d.updPort n (fun (x : Port) => { x with
        txSeq := 0, rxSeq := 0xFFFF, kept := [], txq := x.kept.reverse.map (fun k => (⟨k.2, none, none⟩ : TxItem)) ++ x.txq.filter (fun i => i.seq.isNone) })).portLost n)

/-- PORT_DOWN (R49). -/
def portDownD (p : Fin 2) (d : Dev) : Dev := if d.portUp p.val then d.portLost p.val else d

/-- ECHO_REQ (R50): the port answers with the time of receipt. -/
def echoReqD (p : Fin 2) (f : LinkFrame) (d : Dev) : Dev :=
  d.onFrame p.val f (fun d =>
    let t := d.time16
    d.send p.val (d.ownFrame 0x03#8 (t / 16) (t / 16 % 2^32) (t / 16 / 2^32) (t % 16 + 16 * (t % 16))) (some t))

/-- ECHO_RSP (R47, R50): half the round trip is the delay, and the port carries events only while it passes the HOP_LONG
test. `t1` and `t4` are when the request left and the answer came, in 1/16 tDC. -/
def echoRspD (p : Fin 2) (f : LinkFrame) (t1 t4 : Nat) (d : Dev) : Dev :=
  let n := p.val
  d.onFrame n f (fun d =>
    let t2 : Int := (((f.w4.toNat + 2^32 * f.w5.toNat) * 16 + bitsOf f.w6.toNat 4 4 : Nat) : Int)
    let t3 : Int := ((f.stamp.toNat * 16 + bitsOf f.w6.toNat 0 4 : Nat) : Int)
    let delay := (((t4 : Int) - (t1 : Int)) - (t3 - t2)) / 2
    let d := d.wrN (Reg.port_DELAY n) (toBits 32 delay)
    let whole := delay + sext 32 (d.rdN (Reg.port_ASYM n))
    let long := decide (((3744 * 16 * d.activeSet.vco d.fref : Nat) : Int) < whole * ((100000000 * d.activeSet.scale : Nat) : Int))
    let d := d.updPort n (fun (x : Port) => { x with long := long })
    if long then (d.raise Reg.link_EVENTS 4).faultNow 12 0xC2 7 n [toBits 32 delay] else d)

/-- BAD_TYPE (R44): a frame of an unknown type is discarded and counted. -/
def badTypeD (p : Fin 2) (f : LinkFrame) (d : Dev) : Dev :=
  d.onFrame p.val f (fun d =>
    if [0x00#8, 0x01#8, 0x02#8, 0x03#8, 0x10#8, 0x11#8, 0x20#8, 0x30#8].contains f.typ then d else d.bump (Reg.port_BAD_TYPE p.val))

/-- The ports on which link-transmit input `k` sends its EVENT frames (R46, R47). -/
def Dev.ltPorts (d : Dev) (k : Nat) : List Nat :=
  let cfg := (d.eff (Reg.lt_CFG k)).toNat
  if bitsOf cfg 16 1 = 1 then [0, 1].filter (fun p => d.carries p && decide (0 < d.bcastLimit p))
  else match d.route (bitsOf cfg 12 4) with
    | some p => if d.carries p then [p] else []
    | none => []

/-- Link-transmit input `k` can send nothing (R223, R423, R436). -/
def Dev.ltDead (d : Dev) (k : Nat) : Bool := (d.ltPorts k).isEmpty || d.dsafe || d.tinBad (500 + k) || d.corrupt (Reg.lt_CFG k) 16

/-- The ports of link-transmit input `k` whose transmit queues are full (R48). -/
def Dev.ltFull (d : Dev) (k : Nat) : List Nat := (d.ltPorts k).filter (fun p => decide (256 ≤ (d.portOf p).txq.length))

/-- Link-transmit input `k` is busy (R223). -/
def Dev.ltBusy (d : Dev) (k : Nat) : Bool := d.ltDead k || !(d.ltFull k).isEmpty

/-- Buffered values of link-transmit input `k` apply when no firing waits at it (R236, R241). Log entry 33, DESIGN CHOICE, unsafe. -/
def Dev.applyLt (d : Dev) (k : Nat) : Dev :=
  if (d.tinOf (500 + k)).inbox.isEmpty then (d.settle (Reg.lt_CFG k)).applyTin (500 + k) else d

/-- LINK_TRANSMIT (R46, R223, R228): the firing leaves as an EVENT frame, one generation higher; one of generation 7 is dropped as
a loop, and one that finds no port that carries events, or the device safe state, is lost as an overrun. A copy that finds its port's queue
full is dropped and counted there (R48), and the loss is an overrun of the input. -/
def linkTransmitD (k : Fin 12) (d : Dev) : Dev :=
  let i := 500 + k.val
  match d.takeFiring i with
  | none => d
  | some (f, d) =>
    let cfg := (d.eff (Reg.lt_CFG k.val)).toNat
    let ports := d.ltPorts k.val
    let full := d.ltFull k.val
    if 7 ≤ f.gen then
      ((((d.raise (Reg.tin_EVENTS i) 16).raise Reg.evt_EVENTS 1).bump Reg.evt_LOOP_CNT).fireAs 980 f.stamp 0 f.coarse false).applyLt k.val
    else if d.ltDead k.val then (d.overrun i f.stamp).applyLt k.val
    else
      let fr := d.ownFrame 0x10#8 f.stamp (bitsOf cfg 0 12 + 2^16 * f.src) 0 0
      let fr : LinkFrame := { fr with dstDev := Fin.ofNat 16 (bitsOf cfg 12 4), bcast := bitsOf cfg 16 1 == 1, gen := Fin.ofNat 8 (f.gen + 1) }
      let d := ports.foldl (fun (d : Dev) (p : Nat) => d.send p fr none) d
      let d := if full.isEmpty then d else d.overrun i f.stamp
      (if full.length < ports.length then d.bump (Reg.lt_SENT k.val) else d).applyLt k.val

/-- PORT_UP (R42). -/
def execPortUp (p : Fin 2) (lanes : PortLanes) (s : State) : Host.Outcome State Fault Refusal :=
  s.onDev (portUpD p lanes)

/-- TOPO (R45). -/
def execTopo (p : Fin 2) (f : LinkFrame) (s : State) : Host.Outcome State Fault Refusal :=
  s.onDev (topoD p f)

/-- ECHO (R50). -/
def execEcho (p : Fin 2) (s : State) : Host.Outcome State Fault Refusal :=
  s.onDev (echoD p)

/-- TIME_SYNC (R51). -/
def execTimeSync (set : Bool) (s : State) : Host.Outcome State Fault Refusal :=
  s.onDev (timeSyncD set)

/-- TIME_SYNC_RECEIVE (R52). -/
def execTimeSyncReceive (p : Fin 2) (f : LinkFrame) (s : State) : Host.Outcome State Fault Refusal :=
  s.onDev (timeSyncReceiveD p f)

/-- EVENT_FRAME (R44). -/
def execEventFrame (p : Fin 2) (f : LinkFrame) (s : State) : Host.Outcome State Fault Refusal :=
  s.onDev (eventFrameD p f)

/-- RESULT_FRAME (R233). -/
def execResultFrame (p : Fin 2) (f : LinkFrame) (s : State) : Host.Outcome State Fault Refusal :=
  s.onDev (resultFrameD p f)

/-- CRC_ERROR (R48). -/
def execCrcError (p : Fin 2) (s : State) : Host.Outcome State Fault Refusal :=
  s.onDev (crcErrorD p)

/-- NAK (R48). -/
def execNak (p : Fin 2) (f : LinkFrame) (s : State) : Host.Outcome State Fault Refusal :=
  s.onDev (nakD p f)

/-- PORT_DOWN (R49). -/
def execPortDown (p : Fin 2) (s : State) : Host.Outcome State Fault Refusal :=
  s.onDev (portDownD p)

/-- ECHO_REQ (R50). -/
def execEchoReq (p : Fin 2) (f : LinkFrame) (s : State) : Host.Outcome State Fault Refusal :=
  s.onDev (echoReqD p f)

/-- ECHO_RSP (R50). -/
def execEchoRsp (p : Fin 2) (f : LinkFrame) (t1 : Nat) (t4 : Nat) (s : State) : Host.Outcome State Fault Refusal :=
  s.onDev (echoRspD p f t1 t4)

/-- BAD_TYPE (R44). -/
def execBadType (p : Fin 2) (f : LinkFrame) (s : State) : Host.Outcome State Fault Refusal :=
  s.onDev (badTypeD p f)

/-- LINK_TRANSMIT (R228). -/
def execLinkTransmit (k : Fin 12) (s : State) : Host.Outcome State Fault Refusal :=
  s.onDev (linkTransmitD k)

end Sys2Proof.Machine
end

