-- ==== Sys2Proof/Machine/Clocks.lean ====
section
/-! DEFINITION. The SPLL and the XPLL (chapter 13): divider sets, APPLY, reference swaps, lock and its loss, and bypass. -/
namespace Sys2Proof.Machine

/-- A set keeps the ranges of R356 for a reference of `f` kHz; what depends on the reference is not tested where `f` is 0. Log entry 50, DEDUCED, unsafe. -/
def DivSet.ok (s : DivSet) (f : Nat) : Bool :=
  let scale := s.dref * 2^32
  let n := s.m / 2^32
  decide (40 ≤ n ∧ n ≤ 2000 ∧ 2 ≤ s.p ∧ s.p ≤ 5 ∧ s.m % s.p = 0) &&
  (f == 0 || decide (10000 * s.dref ≤ f ∧ f ≤ 250000 * s.dref ∧ 10000000 * scale ≤ s.vco f ∧ s.vco f ≤ 20000000 * scale ∧
    2000000 * scale * s.p ≤ s.vco f ∧ s.vco f ≤ 5000000 * scale * s.p))

/-- A reference of `f` kHz agrees with a set within 2 % (R368): for one no further from it the set keeps R356. Log entry 50, DEDUCED, unsafe. -/
def DivSet.near (s : DivSet) (f : Nat) : Bool :=
  let scale := s.dref * 2^32
  let lo := max (10000 * s.dref * s.m) (max 10000000 (2000000 * s.p) * scale)
  let hi := min (250000 * s.dref * s.m) (min 20000000 (5000000 * s.p) * scale)
  s.ok 0 && decide (max (100 * lo) (98 * f * s.m) ≤ min (100 * hi) (102 * f * s.m))

namespace Dev

def shadowSet (d : Dev) : DivSet := DivSet.read (d.rdN Reg.clk_SPLL_SH) (d.rdN Reg.clk_SPLL_SH_FRAC)
/-- SPLL_STATE: 0 off, 1 acquiring, 2 locked, 3 failed. -/
def spll (d : Dev) : Nat := d.fld Reg.clk_STATUS 2 2

/-- The ceiling dividers of the shadow set, which CLK.CEIL shows (R364). -/
def showCeil (d : Dev) : Dev :=
  let new := d.shadowSet
  let f := d.fref
  let mhz (s : DivSet) : Nat := s.vco f / s.dref
  let old := if d.spll = 0 ∨ d.spll = 3 then 0 else mhz d.activeSet
  let hi := max old (mhz new)
  let least (tgt : Nat) (max10 : Nat) : Nat := max tgt (ceilDiv (1120 * hi) (100000 * max10 * 2^32))
  let km := max 1 (ceilDiv (new.vco f) (500000 * new.scale))
  (d.setFld Reg.clk_CEIL 0 8 (least (16 * new.p) 3125)).setFld Reg.clk_CEIL 8 8 (least (new.p * km) 5000)

/-- The SPLL starts acquiring the running set, with TB, TILE and MON on their ceiling dividers (R359, R364). -/
def acquire (d : Dev) : Dev :=
  let d := ((d.setFld Reg.clk_STATUS 2 2 1).setBit Reg.clk_STATUS 0 false).setBit Reg.clk_STATUS 1 true
  { d with clk := { d.clk with sGood := 0, sTries := 0 } }

/-- The checks of R362, first failing first: 0 where the shadow set is accepted. In the device safe state every GO is refused with
RESULT 2 (R437). Log entry 39, DEDUCED, unsafe. Log entry 50, DEDUCED, unsafe. -/
def applyCheck (d : Dev) (swap : Bool) : Nat :=
  let s := d.shadowSet
  let a := d.activeSet
  let running := (List.range 96).any (fun n => d.isClaimed n || d.chMode n == 2)
  let changes := swap || s.dref != a.dref || s.m * a.p != a.m * s.p
  let implied := s.dref * d.clk.fref
  let measured := d.rdN Reg.clk_REF_MEAS * a.dref
  if d.dsafe then 2
  else if !s.ok (if swap then 0 else d.fref) ∨ d.corrupt Reg.clk_SPLL_SH 16 then 1
  else if changes ∧ running then 2
  else if !swap ∧ (d.rdN Reg.clk_REF_MEAS = 0 ∨ (d.clk.fref ≠ 0 ∧ 2 * implied < 100 * (max implied measured - min implied measured))) then 3
  else if d.bit Reg.time_STATUS 4 then 4
  else 0

/-- A write of APPLY_CTL (R361, R362, R368): GO with CANCEL withdraws the pending APPLY; GO alone, or with REF_SWAP, checks the shadow
set and arms or refuses it. A set equal to the running one does nothing. -/
def applyWrite (d : Dev) (cancel swap go : Bool) : Dev :=
  let r := Reg.clk_APPLY_CTL
  d.access 0 r none (fun d =>
    let d := ((d.setBit r 2 cancel).setBit r 1 swap).setBit r 0 false
    if !go then d
    else if cancel && !d.dsafe then d.setBit Reg.clk_STATUS 8 false
    else
      let c := d.applyCheck swap
      let d := d.setFld r 8 8 c
      if c ≠ 0 then
        let d := d.raise Reg.clk_EVENTS 32
        if c = 2 then d.refuse 0 r 5 else d
      else if !swap && d.shadowSet == d.activeSet && (d.spll == 1 || d.spll == 2) then d
      else { (d.setBit Reg.clk_STATUS 8 true) with clk := { d.clk with swap := swap } })

end Dev

/-- APPLY (R362): a write of APPLY_CTL with the bits of `v`. -/
def applyD (v : Word) (d : Dev) : Dev := d.applyWrite (v.getLsbD 2) (v.getLsbD 1) (v.getLsbD 0)

/-- APPLY_CANCEL (R361): a write of GO with CANCEL withdraws the pending APPLY. -/
def applyCancelD (v : Word) (d : Dev) : Dev := d.applyWrite true (v.getLsbD 1) true

/-- REF_SWAP (R368): a write of GO with REF_SWAP arms a reference change. Log entry 50, DEDUCED, unsafe. -/
def refSwapD (v : Word) (d : Dev) : Dev := d.applyWrite (v.getLsbD 2) true true

/-- APPLY_EDGE (R361, R362, R368): at the first REF-domain edge at or after AT the set is the running one, device time is COARSE and
the outputs are held until lock. A reference swap stops the SPLL and freezes the accumulator. -/
def applyEdgeD (d : Dev) : Dev :=
  if !d.bit Reg.clk_STATUS 8 ∨ !d.time.refOk ∨ d.accEdge < d.rd64 Reg.clk_APPLY_AT_LO * 2^32 then d
  else
    let s := d.shadowSet
    let d := d.setBit Reg.clk_STATUS 8 false
    let d := (d.wr Reg.clk_SPLL_ACT (d.rd Reg.clk_SPLL_SH)).wr Reg.clk_SPLL_ACT_FRAC (d.rd Reg.clk_SPLL_SH_FRAC)
    let d := (d.timeLost 1 0).wr64 Reg.time_RATIO_LO s.rho
    let d := { d with time := { d.time with ph := d.time.ph % max 1 s.rho } }
    let d := (d.holdLive 4).raise Reg.clk_EVENTS 16
    if d.clk.swap then ((d.setBit Reg.clk_STATUS 9 true).setFld Reg.clk_STATUS 2 2 0).setBit Reg.clk_STATUS 0 false
    else
      let f := d.fref
      let d := { d with clk := { d.clk with fref := f } }
      ((d.wrN Reg.clk_FDC_KHZ (s.fdc f)).wrN Reg.glob_FDC_KHZ (s.fdc f)).acquire

namespace Dev

/-- The SPLL declares lock (R359): its cause of the safe holds goes away, and the first lock after a start starts a run on every
tile (R348). -/
def spllLocks (d : Dev) : Dev :=
  let d := if d.clk.locked then d else (List.range 6).foldl (fun (d : Dev) (t : Nat) => d.wantRun t) d
  let d := { d with clk := { d.clk with locked := true } }
  let d := ((d.setFld Reg.clk_STATUS 2 2 2).setBit Reg.clk_STATUS 0 true).setBit Reg.clk_STATUS 1 false
  ((d.raise Reg.clk_EVENTS 2).fireNow 961).clearCauseAll 4

/-- The SPLL has lost lock (R36, R365): every channel goes to safe code, device time leaves RUN for state `st` with the flags
`flags` of TIME.EVENTS, and the SPLL acquires again. -/
def spllLostTo (d : Dev) (st flags : Nat) : Dev :=
  let d := ((d.bump Reg.clk_SPLL_LOSS_CNT).raise Reg.clk_EVENTS 1).fireNow 960
  let d := ((d.holdLive 4).timeLost st flags).acquire
  d.faultNow 0 0x40 0 0 [d.rdN Reg.clk_LOCK_CNT, d.rdN Reg.clk_LOCK_EXP]

/-- The SPLL loses lock (R36): device time is COARSE. -/
def spllLost (d : Dev) : Dev := d.spllLostTo 1 0

/-- The XPLL loses lock (R366): holdover, and every channel in safe hold; the fault holds LOCK_CNT and LOCK_EXP, as SPLL_LOSS does (R428). -/
def xpllLost (d : Dev) : Dev :=
  let d := (d.setBit Reg.clk_STATUS 6 true).setBit Reg.clk_STATUS 4 false
  let d := ((d.bump Reg.clk_XPLL_LOSS_CNT).raise Reg.clk_EVENTS 4).fireNow 962
  let d := { d with clk := { d.clk with xGood := 0, xTries := 0 } }
  (d.holdLive 8).faultNow 1 0x41 0 0 [d.rdN Reg.clk_LOCK_CNT, d.rdN Reg.clk_LOCK_EXP]

/-- The XPLL declares lock (R359, R366): holdover ends, and its cause of the safe holds goes away. -/
def xpllLocks (d : Dev) : Dev :=
  let d := (d.setBit Reg.clk_STATUS 4 true).setBit Reg.clk_STATUS 6 false
  ((d.raise Reg.clk_EVENTS 8).fireNow 963).clearCauseAll 8

/-- A window lies 3 to 8 counts from E (R359). -/
def lockWarn (d : Dev) : Dev := (d.raise Reg.clk_EVENTS 64).bump Reg.clk_LOCK_WARN_CNT

end Dev

/-- The reference is lost (R37): OFF, no longer aligned, the accumulator frozen, and the fault queued. A locked SPLL has lost its lock
with it (R36, R470). Log entry 50, DEDUCED, unsafe. -/
def Dev.loseRef (d : Dev) : Dev :=
  let d := if d.spll = 2 then d.spllLostTo 0 16 else d.timeLost 0 16
  let meas := d.rdN Reg.clk_REF_MEAS
  let d := d.setBit Reg.time_STATUS 1 false
  let d := { d with time := { d.time with refOk := false } }
  let d := ((d.setBit Reg.clk_STATUS 7 false).wrN Reg.clk_REF_MEAS 0).fireNow 971
  d.faultNow 1 0x44 0 0 [meas]

/-- The reference stood still for `missed` REF-domain cycles (R470): the accumulator adds nothing for them, and no edge is counted.
Log entry 61, DEDUCED, unsafe. -/
def Dev.refGap (d : Dev) (missed : Nat) : Dev :=
  { d with time := { d.time with acc := d.time.acc - missed * d.rho, refN := d.time.refN - missed } }

/-- REF_LOST (R37); the detection is suspended during a reference swap (R368). -/
def refLostD (d : Dev) : Dev := if !d.time.refOk ∨ d.bit Reg.clk_STATUS 9 then d else d.loseRef

/-- REF_SWAP_DONE (R368): once REF_MEAS agrees with the new set the swap ends, and the SPLL acquires the reference, no longer aligned; after 10 ms without
a matching one the reference is lost. Log entry 50, DEDUCED, unsafe. -/
def refSwapDoneD (timedOut : Bool) (d : Dev) : Dev :=
  let f := d.rdN Reg.clk_REF_MEAS
  let s := d.activeSet
  let agrees := d.time.refOk && s.near f
  if !d.bit Reg.clk_STATUS 9 ∨ (!agrees ∧ !timedOut) then d
  else
    let d := (d.setBit Reg.clk_STATUS 9 false).setBit Reg.time_STATUS 1 false
    if !agrees then d.loseRef
    else
      let d := { d with clk := { d.clk with fref := f } }
      let d := (d.wrN Reg.clk_FDC_KHZ (s.fdc f)).wrN Reg.glob_FDC_KHZ (s.fdc f)
      (d.raise Reg.clk_EVENTS 512).acquire

/-- A window of the XPLL counts `count` against E = 25,000 (R359). -/
def Dev.xpllWindow (d : Dev) (count : Nat) : Dev :=
  let off := max count 25000 - min count 25000
  if d.standby ∨ d.clk.xFail then d
  else if d.bit Reg.clk_STATUS 4 then
    if 8 < off then d.xpllLost else if 3 ≤ off then d.lockWarn else d
  else if off ≤ 2 then
    let n := d.clk.xGood + 1
    let d := { d with clk := { d.clk with xGood := n } }
    if 3 ≤ n then d.xpllLocks else d
  else { d with clk := { d.clk with xGood := 0 } }

/-- LOCK_WINDOW (R359, R470): a window's count is compared with E. Three windows in a row within 2 of E declare lock; a locked PLL loses
it by more than 8. `w.count` is the count over the window's REF-domain cycles had none been missing; each of the `w.missed` cycles of a gap in the
reference adds (N + F/2^32)/4 to it, so that the window ends more than 8 from E. A gap of 0.5 µs or more is the reference's loss (R37). The XPLL's window that
ends with an SPLL window comes first (R367). Log entry 61, DEDUCED, unsafe. Log entry 58, DESIGN CHOICE, safe. -/
def lockWindowD (xpll : Bool) (w : LockCount) (d : Dev) : Dev :=
  let count := w.count
  let missed := w.missed
  let d := match xpll, w.xcount with
    | true, _ => d.xpllWindow count
    | false, some n => d.xpllWindow n
    | false, none => d
  if xpll then d
  else
    let s := d.activeSet
    let w := d.fref / (100 * s.dref)
    let e := w * s.m / 4
    let gap := missed * s.m / 4
    let off := max (count * 2^32) e - min (count * 2^32) e
    if !d.time.refOk ∨ (d.spll ≠ 1 ∧ d.spll ≠ 2) then d
    else if 0 < missed ∧ d.fref ≤ 2000 * missed * s.dref then d.loseRef
    else if 0 < missed then
      let d := ((d.refGap missed).wrN Reg.clk_LOCK_CNT (count + gap / 2^32)).wrN Reg.clk_LOCK_EXP (e / 2^32)
      if d.spll = 2 then d.spllLost else { d with clk := { d.clk with sGood := 0 } }
    else
      let d := (d.wrN Reg.clk_LOCK_CNT count).wrN Reg.clk_LOCK_EXP (e / 2^32)
      if d.spll = 2 then
        if 8 * 2^32 < off then d.spllLost else if 3 * 2^32 ≤ off then d.lockWarn else d
      else if off ≤ 2 * 2^32 then
        let n := d.clk.sGood + 1
        let d := { d with clk := { d.clk with sGood := n } }
        if 3 ≤ n then d.spllLocks else d
      else { d with clk := { d.clk with sGood := 0 } }

/-- XPLL_BYPASS (R366): after every DMC has entered self-refresh the domains change to PCIE_REFCLK, and the XPLL acquires again. -/
def xpllBypassD (d : Dev) : Dev :=
  if !d.bit Reg.clk_STATUS 6 ∨ d.bit Reg.clk_STATUS 5 then d
  else
    let d := (List.range 8).foldl (fun (d : Dev) (m : Nat) => d.enterSr m) d
    { (d.setBit Reg.clk_STATUS 5 true) with clk := { d.clk with xGood := 0, xTries := 0 } }

/-- APPLY (R362). -/
def execApply (v : Word) (s : State) : Host.Outcome State Fault Refusal :=
  s.onDev (applyD v)

/-- APPLY_CANCEL (R361). -/
def execApplyCancel (v : Word) (s : State) : Host.Outcome State Fault Refusal :=
  s.onDev (applyCancelD v)

/-- REF_SWAP (R368). -/
def execRefSwap (v : Word) (s : State) : Host.Outcome State Fault Refusal :=
  s.onDev (refSwapD v)

/-- APPLY_EDGE (R361). -/
def execApplyEdge (s : State) : Host.Outcome State Fault Refusal :=
  s.onDev applyEdgeD

/-- REF_LOST (R37). -/
def execRefLost (s : State) : Host.Outcome State Fault Refusal :=
  s.onDev refLostD

/-- REF_SWAP_DONE (R368). -/
def execRefSwapDone (timedOut : Bool) (s : State) : Host.Outcome State Fault Refusal :=
  s.onDev (refSwapDoneD timedOut)

/-- LOCK_WINDOW (R359). -/
def execLockWindow (xpll : Bool) (w : LockCount) (s : State) : Host.Outcome State Fault Refusal :=
  s.onDev (lockWindowD xpll w)

/-- XPLL_BYPASS (R366). -/
def execXpllBypass (s : State) : Host.Outcome State Fault Refusal :=
  s.onDev xpllBypassD

end Sys2Proof.Machine
end

