-- ==== Sys2Proof/Machine/Reset.lean ====
section
/-! DEFINITION. The two kinds of reset (R296): what each leaves. -/
namespace Sys2Proof.Machine
namespace Dev

/-- The registers that a device reset leaves as they are: the reset-cause and boot registers of the Basalt island, the record of the
device safe state (R438), and what belongs to the accumulator: ρ, the reference and the counting state. Log entry 49, DEDUCED, unsafe. -/
def keptRegs : List Nat :=
  [Reg.sec_RESET_CAUSE, Reg.sec_BOOT_CTL, Reg.time_RATIO_LO, Reg.time_RATIO_HI, Reg.clk_REF_MEAS] ++ (List.range 16).map (fun i => Reg.fault_DSAFE_LAST i)

/-- The device after a reset (R296, R324): everything at its reset value but what lies outside the device (host memory, flash,
DIMMs, pins, of which PCIE_WIDTH is sampled as PERST_N rises or at power-on, and MGMT_ADDR at power-on: R267, R450) and, after a device reset, the Basalt island's registers, the accumulator and ALIGNED. `cause` is the bit of
RESET_CAUSE. Log entry 49, DEDUCED, unsafe. -/
def afterReset (d : Dev) (powerOn : Bool) (cause : Nat) : Dev :=
  let fresh : Dev := { hostMem := d.hostMem, flash := d.flash, flashSize := d.flashSize, dimms := d.dimms, safePin := d.safePin,
                       extest := d.extest, freeCtr := d.freeCtr, widthPin := d.widthPin, mgmtPin := d.mgmtPin,
                       host := { maxWidth := if !powerOn && bitsOf cause 1 1 == 0 then d.host.maxWidth
                                                else if d.widthPin = 1 then 3 else if d.widthPin = 2 then 2 else 4 } }
  if powerOn then ({ fresh with aon := { mgmtAddr := d.mgmtPin } }).wrN Reg.sec_RESET_CAUSE cause
  else
    let n := keptRegs.foldl (fun (n : Dev) (a : Nat) => n.wr a (d.rd a)) fresh
    let acc := if d.timeValid then d.time.now * 2^32 else d.time.acc
    let n := { n with aon := d.aon,
                      time := { n.time with acc := acc, ph := d.time.ph, refN := d.time.refN, refOk := d.time.refOk } }
    let n := (n.setTimeState (if d.time.refOk then 1 else 0)).setBit Reg.time_STATUS 1 (d.bit Reg.time_STATUS 1)
    (n.setBit Reg.clk_STATUS 7 d.time.refOk).wrN Reg.sec_RESET_CAUSE cause

end Dev

/-- A reset of the device and of its guard, whose limits are absent until the limits block is applied again (R298, R307). Log entry 49, DEDUCED, unsafe. -/
def resetAll (powerOn : Bool) (cause : Nat) (_ : Guard) (d : Dev) : Guard × Dev := ({}, d.afterReset powerOn cause)

end Sys2Proof.Machine
end

