-- ==== Sys2Proof/Machine/Power.lean ====
section
/-! DEFINITION. Power states, tiles, banks and the junction temperature (R370 to R376), and copies of resident data (R68, R69). -/
namespace Sys2Proof.Machine
namespace Dev

/-! ## Banks (R65 to R69, R374) -/

/-- BANK_STATE of a channel: 0 off, 1 retention, 2 on. -/
def scState (d : Dev) (ch : Nat) : Nat := d.fld (Reg.chn_SC_STATUS ch) 0 2
def setScState (d : Dev) (ch s : Nat) : Dev := d.setFld (Reg.chn_SC_STATUS ch) 0 2 s
/-- The host has turned a channel's bank off. Log entry 67, DEDUCED, unsafe. -/
def scOff (d : Dev) (ch : Nat) : Bool := bitsOf (d.pwrNow (Reg.pwr_SC_OFF (ch / 32))) (ch % 32) 1 == 1
/-- The host has turned an engine's bank off. -/
def engBankOff (d : Dev) (e : Nat) : Bool := bitsOf (d.pwrNow (Reg.pwr_ENG_BANK_OFF_LO + 4 * (e / 32))) (e % 32) 1 == 1

/-- Clear a channel's bank to zero. -/
def clearBank (d : Dev) (ch : Nat) : Dev := { d with sc := d.sc.filter (fun p => p.1 / 2^19 != ch) }

/-- An engine's bank that is turned off loses what it holds; turned on again it is zero (R374). -/
def clearEngBank (d : Dev) (e : Nat) : Dev :=
  ({ d with bank := d.bank.filter (fun p => decide (p.1 / 2^18 ≠ e)) }).updEng e (fun x =>
    { x with s0 := none, s1 := none, left := [], used := false, saved := [] })

/-- A bank that is accessed or bound is on; one turned on from off is cleared first (R67, R374). -/
def bankOn (d : Dev) (ch : Nat) : Dev :=
  if d.scOff ch then d
  else if d.scState ch = 0 then (d.clearBank ch).setScState ch 2
  else d.setScState ch 2

/-- The bytes that a resident copy takes from DRAM. -/
def copyLen (d : Dev) (ch : Nat) (r : Resident) : Nat :=
  let ws := d.chDesc ch r.seg
  if r.isHead then min (r.units * 4096) (dBytes ws) else dBytes ws

/-- Copy a resident segment, or the head of a streamed one, from DRAM into a channel's bank (R68, R69). A bank that is off drops
the write (R67), and a copy that meets an uncorrectable codeword freezes DRAM (R398). -/
def copyResident (d : Dev) (ch : Nat) (r : Resident) : Dev :=
  let ws := d.chDesc ch r.seg
  let n := d.copyLen ch r
  let d := if d.scState ch = 2 then d else d.bankOn ch
  if d.scState ch = 0 then d.raise (Reg.chn_SC_EVENTS ch) 4
  else
    match d.meetBad 9 (dAddr ws) n with
    | some d => d
    | none =>
      let d := d.served false (dAddr ws) n
      { d with sc := SMap.store 0 d.sc (ch * 2^19 + r.unit * 4096) (d.dramRead (dAddr ws) n) }

/-- Copy every resident segment and head of every channel anew. -/
def copyAllResident (d : Dev) : Dev :=
  d.chan.foldl (fun (d : Dev) (c : Nat × Chan) => c.2.resident.foldl (fun (d : Dev) (r : Resident) => d.copyResident c.1 r) d) d

/-! ## Tiles (R373) -/

/-- Tile `t` changes to the state its channels give it, and the device between READY and RUN with its tiles (R370). -/
def settleTile (d : Dev) (t : Nat) : Dev :=
  let chs := (List.range 16).map (fun k => 16 * t + k)
  let on_ := chs.any (fun n => d.isClaimed n || d.chMode n == 2) || (d.capOf t).en || d.borrowed t
  let d := d.setBit Reg.pwr_STATUS (6 + t) (on_ || chs.any (fun n => d.chMode n != 0))
  let d := d.setBit Reg.pwr_STATUS (12 + t) on_
  d.setFld Reg.pwr_STATUS 0 2 (if d.fld Reg.pwr_STATUS 12 6 = 0 then 1 else 2)

/-! ## STANDBY (R371, R372) -/

/-- The conditions of STANDBY hold. -/
def mayStandby (d : Dev) : Bool :=
  !(List.range 96).any (fun n => d.isClaimed n || d.chMode n == 2) && d.host.inflight.isEmpty &&
  !(List.range 6).any (fun k => d.capState k == 1 || d.capState k == 2) && !d.bit Reg.clk_STATUS 8

/-- The device leaves STANDBY (R372): the PLLs acquire, each anew, and every output stage that is not OFF settles (R455). The banks, the MP and the
DIMMs wait for the XPLL. `cause` is WAKE_CAUSE; a wake that did not come from the host sends a PME message. -/
def leaveStandby (d : Dev) (cause : Nat) (host : Bool) : Dev :=
  let d := { d with standby := false, host := { d.host with pme := d.host.pme || !host } }
  let d := (d.wrN Reg.pwr_WAKE_CAUSE cause).raise Reg.pwr_EVENTS 2
  let d := if d.rdN Reg.clk_SPLL_ACT = 0 then d else d.acquire
  let d := (d.setBit Reg.clk_STATUS 5 false).setBit Reg.clk_STATUS 6 false
  let d := { d with clk := { d.clk with xGood := 0, xTries := 0, xFail := false, waking := true } }
  let d := (List.range 96).foldl (fun (d : Dev) (n : Nat) => if d.chMode n = 0 then d else d.beginSettle n) d
  (List.range 6).foldl (fun (d : Dev) (t : Nat) => d.settleTile t) d

/-- The XPLL's domains have their clock after a wake (R360, R372): banks leave retention and the MP resumes. -/
def resume (d : Dev) : Dev :=
  let d := { d with clk := { d.clk with waking := false } }
  let d := (List.range 64).foldl (fun (d : Dev) (e : Nat) => d.updEng e (fun (x : Eng) => { x with asleep := false })) d
  (List.range 96).foldl (fun (d : Dev) (n : Nat) => if d.scState n = 1 then d.setScState n 2 else d) d

end Dev

/-- STANDBY (R371): the PF is placed in D3hot; with STBY_EN the device enters STANDBY if nothing hinders it, and every output leg is OFF
(R455). -/
def standbyD (d : Dev) : Dev :=
  let d := { d with d3hot := true }
  if d.standby ∨ !d.bit Reg.pwr_CTL 0 then d
  else if !d.mayStandby then d.raise Reg.pwr_EVENTS 1
  else
    let keep := bitsOf (d.pwrNow Reg.pwr_RET) 2 1 == 1
    let d := (List.range 8).foldl (fun (d : Dev) (m : Nat) => d.enterSr m) d
    let d := (List.range 96).foldl (fun (d : Dev) (n : Nat) =>
      if d.scState n = 0 then d else if keep then d.setScState n 1 else (d.clearBank n).setScState n 0) d
    let d := (List.range 64).foldl (fun (d : Dev) (e : Nat) => d.updEng e (fun (x : Eng) => { x with asleep := true })) d
    let d := (d.setFld Reg.pwr_STATUS 6 12 0).timeLost (if d.time.refOk then 1 else 0) 0
    let d := ((d.setFld Reg.clk_STATUS 2 2 0).setBit Reg.clk_STATUS 0 false).setBit Reg.clk_STATUS 4 false
    { d with standby := true }

/-- WAKE (R372): a wake source ends STANDBY; POR_N is a power-on reset. -/
def wakeG (w : WakeSource) (g : Guard) (d : Dev) : Guard × Dev :=
  match w with
  | .d0 =>
    let d := { d with d3hot := false }
    (g, if d.standby then d.leaveStandby 1 true else d)
  | .triggerInput m => (g, if d.standby && bitsOf (d.pwrNow Reg.pwr_WAKE) m.val 1 == 1 then d.leaveStandby (2 + 16 * m.val) false else d)
  | .management => (g, if d.standby && bitsOf (d.pwrNow Reg.pwr_WAKE) 16 1 == 1 then d.leaveStandby 4 false else d)
  | .powerOn => resetAll true 1 g d

/-- ACQUISITION_TIMEOUT (R360): an acquisition not locked within 1 ms starts again, and the third failure stops the PLL. The XPLL then leaves its
domains in bypass. -/
def acquisitionTimeoutD (xpll : Bool) (d : Dev) : Dev :=
  if xpll then
    let n := d.clk.xTries + 1
    if d.bit Reg.clk_STATUS 4 ∨ d.clk.xFail ∨ d.standby then d
    else
      let d := { d with clk := { d.clk with xGood := 0, xTries := n, xFail := decide (3 ≤ n) } }
      if n < 3 then d
      else
        let d := if d.clk.waking then d.resume else d
        ((d.setBit Reg.clk_STATUS 5 true).raise Reg.clk_EVENTS 256).faultNow 1 0x43 0 0 [n]
  else
    let n := d.clk.sTries + 1
    if d.spll ≠ 1 then d
    else
      let d := { d with clk := { d.clk with sGood := 0, sTries := n } }
      if 3 ≤ n then ((d.setFld Reg.clk_STATUS 2 2 3).raise Reg.clk_EVENTS 128).faultNow 1 0x42 0 0 [n] else d

/-- XPLL_LOCK (R366, R372): once the XPLL is locked its domains return to it, and the DMCs leave self-refresh and accept requests. After a wake
the banks and the MP resume before, and without KEEP_SC resident data are copied again. The captures' FIFOs give their
bursts (R260). -/
def xpllLockD (d : Dev) : Dev :=
  let woke := d.clk.waking
  if !d.bit Reg.clk_STATUS 4 ∨ !(d.bit Reg.clk_STATUS 5 || woke) then d
  else
    let d := d.setBit Reg.clk_STATUS 5 false
    let d := if woke then d.resume else d
    let d := (List.range 8).foldl (fun (d : Dev) (m : Nat) => d.exitSr m) d
    let d := if woke && bitsOf (d.pwrNow Reg.pwr_RET) 2 1 == 0 then d.copyAllResident else d
    (List.range 6).foldl (fun (d : Dev) k => d.drainFifo k (d.capState k == 3)) d

/-- TILE_STATE (R373). -/
def tileStateD (t : Fin 6) (d : Dev) : Dev := d.settleTile t.val

/-- BANK_RETENTION (R374): the bank of an unbound engine or an unclaimed channel enters retention where its class is enabled. -/
def bankRetentionD (b : BankId) (d : Dev) : Dev :=
  match b with
  | .engine e =>
    if bitsOf (d.pwrNow Reg.pwr_RET) 0 1 == 1 && (d.engCtx e.val).isNone && !d.engBankOff e.val then d.updEng e.val (fun (x : Eng) => { x with asleep := true }) else d
  | .segment ch => if bitsOf (d.pwrNow Reg.pwr_RET) 1 1 == 1 && !d.isClaimed ch.val && d.scState ch.val == 2 then d.setScState ch.val 1 else d

/-- BANK_WAKE (R67): an accessed bank leaves retention. Log entry 51, DEDUCED, unsafe. -/
def bankWakeD (b : BankId) (d : Dev) : Dev :=
  if d.standby || d.clk.waking then d
  else match b with
    | .engine e => d.updEng e.val (fun (x : Eng) => { x with asleep := false })
    | .segment ch => d.bankOn ch.val

/-- JUNCTION_READING (R376): the reading is shown; one that rises above TJ_ALARM raises the alarm, and 115 °C asserts THERM_N. Log entry 51, DEDUCED, unsafe. -/
def junctionReadingD (t : Int) (d : Dev) : Dev :=
  let a := Reg.pwr_TJ
  let alarm := sext 16 (bitsOf (d.pwrNow Reg.pwr_TJ_ALARM) 0 16)
  let before := sext 16 (d.fld a 0 16)
  let hi := max (sext 16 (d.fld a 16 16)) t
  let d := (d.setFld a 0 16 (toBits 16 t)).setFld a 16 16 (toBits 16 hi)
  let d := if alarm < t ∧ before ≤ alarm then (d.raise Reg.pwr_EVENTS 4).fireNow 970 else d
  if 1840 ≤ t ∧ !d.therm then ({ d with therm := true }).faultNow 10 0xA0 0 0 [d.rdN a] else d

/-- STANDBY (R371). -/
def execStandby (s : State) : Host.Outcome State Fault Refusal :=
  s.onDev standbyD

/-- TILE_STATE (R373). -/
def execTileState (t : Fin 6) (s : State) : Host.Outcome State Fault Refusal :=
  s.onDev (tileStateD t)

/-- BANK_RETENTION (R374). -/
def execBankRetention (b : BankId) (s : State) : Host.Outcome State Fault Refusal :=
  s.onDev (bankRetentionD b)

/-- BANK_WAKE (R67). -/
def execBankWake (b : BankId) (s : State) : Host.Outcome State Fault Refusal :=
  s.onDev (bankWakeD b)

/-- JUNCTION_READING (R376). -/
def execJunctionReading (t : Int) (s : State) : Host.Outcome State Fault Refusal :=
  s.onDev (junctionReadingD t)

/-- WAKE (R372). -/
def execWake (w : WakeSource) (s : State) : Host.Outcome State Fault Refusal :=
  s.onGuard (wakeG w)

/-- ACQUISITION_TIMEOUT (R360). -/
def execAcquisitionTimeout (xpll : Bool) (s : State) : Host.Outcome State Fault Refusal :=
  s.onDev (acquisitionTimeoutD xpll)

/-- XPLL_LOCK (R366). -/
def execXpllLock (s : State) : Host.Outcome State Fault Refusal :=
  s.onDev xpllLockD

end Sys2Proof.Machine
end

