-- ==== Sys2Proof/Machine/Cal.lean ====
section
/-! DEFINITION. Self-calibration (chapter 12) and the rotation of the unary sources (R190): temperature, trims, runs, checks. -/
namespace Sys2Proof.Machine
namespace Dev

/-- The working trim of a channel in 1/16 unit (R343). -/
def workOf (d : Dev) (n j : Nat) : Int := SMap.get 0 (d.chanOf n).work j
def setWork (d : Dev) (n j : Nat) (w : Int) : Dev := d.updChan n (fun c => { c with work := SMap.set 0 c.work j w })

/-- A source of UNIT that the rotation has measured: its set value is no longer used (R345). -/
def isMeasured (d : Dev) (n j : Nat) : Bool := j < 64 && (SMap.get none (d.chanOf n).meas j).isSome

/-- SKEW_CAL shows the working skew in whole steps (R343). -/
def showSkew (d : Dev) (n : Nat) : Dev := d.wrN (Reg.chn_SKEW_CAL n) (toBits 8 (rhe (d.workOf n 69) 16))

/-- Some working value of a channel differs from its target. -/
def trimsMove (d : Dev) (n : Nat) : Bool :=
  if (d.calOf (n / 16)).set.isEmpty && (d.chanOf n).work.isEmpty then false
  else (List.range 74).any (fun j => !d.isMeasured n j && decide (d.workOf n j ≠ d.trimTarget n j))

/-- STATUS.MOVING and TEMP_OUT of a tile (R342, R344); TEMP_OUT is flagged as θ leaves the points. -/
def showTile (d : Dev) (t : Nat) : Dev :=
  let out := outOfPoints (d.calOf t).set (d.theta t)
  let was := d.bit (Reg.calTile_STATUS t) 5
  let d := (d.setBit (Reg.calTile_STATUS t) 5 out).setBit (Reg.calTile_STATUS t) 4 ((tileChans t).any (fun n => d.trimsMove n))
  if out && !was then d.raise (Reg.calTile_EVENTS t) 4 else d

/-- A set comes into force on a tile (R338, R343): the first one since reset applies at once, or where the SPLL has lost its lock when it locks
again (R441). `src` is STATUS.SRC. -/
def loadSet (d : Dev) (t : Nat) (set : List Byte) (src : Nat) : Dev :=
  let first := !(d.calOf t).loaded && !set.isEmpty && !d.trimsWait
  let d := d.updCal t (fun (c : CalTile) => { c with set := set, loaded := c.loaded || first })
  let d := (d.setFld (Reg.calTile_STATUS t) 8 4 (setPoints set)).setFld (Reg.calTile_STATUS t) 0 2 src
  let d := (tileChans t).foldl (fun (d : Dev) (n : Nat) => d.setBit (Reg.calCh_CHK_STATUS n) 0 false) d
  let d := if first then
      (tileChans t).foldl (fun (d : Dev) (n : Nat) =>
        ((List.range 74).foldl (fun (d : Dev) (j : Nat) => if d.isMeasured n j then d else d.setWork n j (d.trimTarget n j)) d).showSkew n) d
    else d
  d.showTile t

/-- A set that came to a tile while the SPLL had lost its lock applies once it has locked again (R441). -/
def lateSet (d : Dev) (t : Nat) : Dev :=
  let c := d.calOf t
  if c.loaded || c.set.isEmpty || d.trimsWait then d else d.loadSet t c.set (d.fld (Reg.calTile_STATUS t) 0 2)

/-- A run that waits starts as soon as nothing hinders it (R348). -/
def nextRun (d : Dev) (t : Nat) : Dev :=
  if d.bit (Reg.calTile_STATUS t) 3 && !d.bit (Reg.calTile_STATUS t) 2 && !d.calFrozen t then d.startRun t else d

end Dev

/-- TEMPERATURE_UPDATE (R341, R348): `new` are the sensor's readings since the last update, newest first; θ is the mean of the last ten
readings plus TS_OFS. A move past THRESH fires TILE_TEMP and, with AUTO, starts a run. Log entry 85, DESIGN CHOICE, unsafe. -/
def temperatureUpdateD (t : Fin 6) (new : List Int) (d : Dev) : Dev :=
  let n := t.val
  let a := Reg.calTile_TEMP n
  let rs := (new ++ (d.calOf n).readings).take 10
  if rs = [] then d
  else
    let d := d.updCal n (fun (c : CalTile) => { c with readings := rs })
    let theta := rhe (rs.foldl (· + ·) 0) rs.length + setTsOfs (d.calOf n).set
    let d := (d.setFld a 0 16 (toBits 16 theta)).showTile n
    let moved := (theta - sext 16 (d.fld a 16 16)).natAbs
    if moved ≤ d.fld (Reg.calTile_CFG n) 0 9 then d
    else
      let d := d.fireNow (964 + n)
      if d.bit (Reg.calTile_CFG n) 24 then d.wantRun n else d

/-- TRIM_STEP (R342 to R345): every working value moves towards its target by at most STEP, unless the tile is frozen or the SPLL
has lost its lock; a set that came meanwhile applies whole (R441). -/
def trimStepD (t : Fin 6) (d : Dev) : Dev :=
  let n := t.val
  let step : Int := (d.fld (Reg.calTile_CFG n) 16 8 : Nat)
  let d := d.lateSet n
  let d := if d.calFrozen n || d.trimsWait then d
    else
      (Dev.tileChans n).foldl (fun (d : Dev) (c : Nat) =>
        if !d.trimsMove c then d
        else
          ((List.range 74).foldl (fun (d : Dev) (j : Nat) =>
            if d.isMeasured c j then d
            else
              let w := d.workOf c j
              d.setWork c j (w + sat (-step) step (d.trimTarget c j - w))) d).showSkew c) d
  d.showTile n

/-- RUN (R348): a write of 1 to CTL.RUN. -/
def runD (t : Fin 6) (d : Dev) : Dev := d.access 0 (Reg.calTile_CTL t.val) none (fun d => d.wantRun t.val)

/-- RUN_DONE (R349): with the rotation pass and the two borrows complete the run ends. -/
def runDoneD (t : Fin 6) (d : Dev) : Dev :=
  let n := t.val
  let passing := (Dev.tileChans n).any (fun c => d.rotates c && decide (0 < (d.chanOf c).passLeft))
  if !d.bit (Reg.calTile_STATUS n) 2 ∨ passing ∨ 0 < (d.calOf n).borrows then d
  else
    let d := ((d.setBit (Reg.calTile_STATUS n) 2 false).raise (Reg.calTile_EVENTS n) 1).bump (Reg.calTile_RUN_CNT n)
    d.nextRun n

/-- FREEZE (R344, R352): a write of CAL.TILE CFG. A STEP of 0 and a THRESH outside 8 to 320 are refused; clearing FREEZE starts a
run that waits. -/
def freezeD (t : Fin 6) (v : Word) (d : Dev) : Dev :=
  let a := Reg.calTile_CFG t.val
  d.access 0 a none (fun d =>
    let th := bitsOf v.toNat 0 9
    if bitsOf v.toNat 16 8 = 0 ∨ th < 8 ∨ 320 < th then d.refuse 0 a 6
    else (((d.wr a (v &&& 0x07FF01FF#32)).endParity a).nextRun t.val).showTile t.val)

/-- A channel can be checked (R350): CHK_G is not 0, CHK_MODE and CHK_FS are those of its configuration, and it is not in MODE OFF. -/
def Dev.checkable (d : Dev) (n : Nat) : Bool :=
  let set := (d.calOf (n / 16)).set
  let mode := if d.bit (Reg.chn_CFG n) 11 then 1 else 0
  setPoints set != 0 && decide (0 < interpolate set (d.theta (n / 16)) (chkG set (n % 16))) && chkMode set (n % 16) 0 % 2 == mode &&
  chkFs set (n % 16) 0 == d.fld (Reg.chn_OUT_CFG n) (8 * mode) 8 && d.chMode n != 0

/-- The code at a channel's DAC is constant and known now: its idle level, a static code or safe code (R350). -/
def Dev.still (g : Guard) (d : Dev) (n : Nat) : Bool := d.safed g n || d.chMode n == 2 || (d.playAt n true d.nowT).isNone

/-- The channel of tile `t` whose check comes next (R350): the first, in ascending order from the one after that last checked, that can be checked
now. Log entry 85, DESIGN CHOICE, unsafe. -/
def Dev.nextCheck (g : Guard) (d : Dev) (t : Nat) : Option Nat :=
  ((List.range 16).map (fun i => 16 * t + ((d.calOf t).chkNext + i) % 16)).find? (fun n => d.checkable n && d.still g n)

/-- The residual of a check, in 1/16 LSB, from the sum of its 16 samples in 2^-10 raw LSB, a raw LSB being 76.294 µV (R350). Log entry 55,
DEDUCED, unsafe. Log entry 58, DESIGN CHOICE, safe. -/
def Dev.residual (d : Dev) (n : Nat) (code sum : Int) : Int :=
  let set := (d.calOf (n / 16)).set
  let gi := interpolate set (d.theta (n / 16)) (chkG set (n % 16))
  let oi := interpolate set (d.theta (n / 16)) (chkO set (n % 16))
  rhe (16 * (2 * 76294 * sum - 1000 * (gi * code + 2048 * oi))) (1000 * gi.toNat)

/-- The check of a channel whose 16 samples have the sum `sum` is complete (R350). -/
def Dev.checkDone (d : Dev) (n : Nat) (code sum : Int) : Dev :=
  let t := n / 16
  let st := Reg.calCh_CHK_STATUS n
  let r := d.residual n code sum
  let fail := decide (d.fld (Reg.calTile_CHK_LIMIT t) 0 12 < r.natAbs)
  let d := (d.wrN (Reg.calCh_CHK_RES n) (toBits 16 (sat (-32768) 32767 r))).wrN (Reg.calCh_CHK_CODE n) (toBits 16 code)
  let d := d.wr64 (Reg.calCh_CHK_AT_LO n) d.nowT
  let d := ((d.setBit st 0 true).setBit st 1 fail).setBit st 2 false
  let d := (d.updCal t (fun (c : CalTile) => { c with chkNext := (n % 16 + 1) % 16 })).endBorrow t
  if fail then (d.raise (Reg.calTile_EVENTS t) 2).faultOf 8 0x81 1 n (d.chOwner n) [toBits 32 r, toBits 32 code] else d

/-- CHECK (R350): with `start` a check of a channel begins where it comes next and nothing holds the digitiser, and shows as skipped where mode,
full scale or CHK_G prevents it; else the check that has its 16 samples ends: a code that is not the same, or was not `constant` in between,
discards it. Log entry 85, DESIGN CHOICE, unsafe. -/
def checkD (ch : Fin 96) (start constant : Bool) (g : Guard) (d : Dev) : Dev :=
  let n := ch.val
  let t := n / 16
  if start then
    if !d.bit (Reg.calTile_CFG t) 26 then d
    else if !d.checkable n then d.setBit (Reg.calCh_CHK_STATUS n) 2 true
    else if d.borrowed t ∨ d.capState t = 1 ∨ d.capState t = 2 ∨ d.nextCheck g t ≠ some n then d
    else d.startBorrow t { sel := n % 16, check := some (n, d.dacCode g n) }
  else match (d.capOf t).bor with
    | none => d
    | some b => match b.check with
      | none => d
      | some (m, code) =>
        if m ≠ n ∨ b.got < 16 then d
        else if !constant ∨ !d.still g n ∨ d.dacCode g n ≠ code then (d.bump (Reg.calTile_CHK_ABORT_CNT t)).endBorrow t
        else d.checkDone n code b.sum

/-- The present period of a channel's rotation in tDC: RECAL_PERIOD during a run's pass, else ROT.PERIOD (R190, R349). -/
def Dev.swapPeriod (d : Dev) (n : Nat) : Nat :=
  d.nsToT (1000 * (if 0 < (d.chanOf n).passLeft then d.fld (Reg.calTile_RECAL_PERIOD (n / 16)) 0 16 else d.fld (Reg.tile_ROT (n / 16)) 0 16))

/-- A period has passed since a channel's last swap (R190). Log entry 73, DESIGN CHOICE, unsafe. -/
def Dev.swapDue (d : Dev) (n : Nat) : Bool :=
  match (d.chanOf n).swapAt with
  | some t => decide (t + d.swapPeriod n ≤ d.nowT)
  | none => true

/-- ROTATION_SWAP (R190, R346): once in a period, the measured spare takes the thermometer position of the next source in ascending order,
which becomes the spare. -/
def rotationSwapD (ch : Fin 96) (d : Dev) : Dev :=
  let n := ch.val
  if !d.rotates n ∨ !(d.chanOf n).measured ∨ !d.swapDue n then d
  else
    let s := d.fld (Reg.chn_DAC_STATUS n) 0 6
    let out := (s + 1) % 64
    let now := d.nowT
    let d := d.setFld (Reg.chn_DAC_STATUS n) 0 6 out
    let d := d.bump (Reg.tile_ROT_CNT (n / 16))
    d.updChan n (fun c =>
      { c with measured := false, passLeft := c.passLeft - 1, swapAt := some now, map := c.map.map (fun p => if p = out then s else p) })

/-- SPARE_MEASUREMENT (R345 to R347): the spare's trim, in 1/64 LSB, is measured and set. A source outside 2 LSB is bad: the first stays the
spare and stops rotation, another is kept with its trim at the limit. Log entry 55, DEDUCED, unsafe. Log entry 58, DESIGN CHOICE, safe. -/
def spareMeasurementD (ch : Fin 96) (trim : Int) (d : Dev) : Dev :=
  let n := ch.val
  let t := n / 16
  if d.chMode n = 0 ∨ !d.timeValid then d
  else
    let s := d.fld (Reg.chn_DAC_STATUS n) 0 6
    let kept := sat (-128) 128 trim
    let d := d.updChan n (fun c => { c with meas := SMap.set none c.meas s (some kept), measured := true })
    let d := d.setWork n s (16 * kept)
    if kept = trim then d
    else
      let d := if (d.chanOf n).bad.isNone then d.updChan n (fun c => { c with bad := some s }) else d
      let d := (d.raise (Reg.calTile_EVENTS t) 8).wrN (Reg.calCh_CHK_STATUS n) (d.fld (Reg.calCh_CHK_STATUS n) 0 3 + 8 + 16 * s)
      d.faultOf 8 0x80 1 n (d.chOwner n) [s, toBits 32 trim]

/-- TEMPERATURE_UPDATE (R341). -/
def execTemperatureUpdate (t : Fin 6) (readings : List Int) (s : State) : Host.Outcome State Fault Refusal :=
  s.onDev (temperatureUpdateD t readings)

/-- TRIM_STEP (R343). -/
def execTrimStep (t : Fin 6) (s : State) : Host.Outcome State Fault Refusal :=
  s.onDev (trimStepD t)

/-- RUN (R348). -/
def execRun (t : Fin 6) (s : State) : Host.Outcome State Fault Refusal :=
  s.onDev (runD t)

/-- RUN_DONE (R349): its two parts, the rotation pass and the digitiser measurement, carry no value. -/
def execRunDone (t : Fin 6) (_pass _digitiser : Unit) (s : State) : Host.Outcome State Fault Refusal :=
  s.onDev (runDoneD t)

/-- FREEZE (R344). -/
def execFreeze (t : Fin 6) (v : Word) (s : State) : Host.Outcome State Fault Refusal :=
  s.onDev (freezeD t v)

/-- ROTATION_SWAP (R190). -/
def execRotationSwap (ch : Fin 96) (s : State) : Host.Outcome State Fault Refusal :=
  s.onDev (rotationSwapD ch)

/-- SPARE_MEASUREMENT (R346). -/
def execSpareMeasurement (ch : Fin 96) (trim : Int) (s : State) : Host.Outcome State Fault Refusal :=
  s.onDev (spareMeasurementD ch trim)

/-- CHECK (R350). -/
def execCheck (ch : Fin 96) (start constant : Bool) (s : State) : Host.Outcome State Fault Refusal :=
  s.onGuarded (checkD ch start constant)

end Sys2Proof.Machine
end

