-- ==== Sys2Proof/Machine/Queues.lean ====
section
/-! DEFINITION. The queues of the host interface (R268 to R282): which functions are fetched from, what holds a queue's fetch,
and the window check on the device's own requests to host memory (R273). -/
namespace Sys2Proof.Machine
namespace Dev

/-- The device fetches for function `fn` (R10, R268): start-up has come that far, the domains of FAB and the MP are on (R369, R372), and a virtual
function is enabled and its partition created. Log entry 17, DESIGN CHOICE, safe. -/
def fetches (d : Dev) (fn : Nat) : Bool :=
  d.bit Reg.glob_STATUS 1 && d.host.linkUp && !d.standby && !d.clk.waking && (fn == 0 || (d.host.vfEnable && decide (fn ≤ d.host.numVFs) && d.fld (Reg.part_STATE (fn - 1)) 0 2 == 2))

/-- The function a queue number belongs to (R274). -/
def qFn (d : Dev) (q : Nat) : Nat := ownerFn (d.qOwner q)
/-- The SQ is enabled. -/
def sqOn (d : Dev) (q : Nat) : Bool := d.bit (Reg.q_SQ_CTL q) 0
def sqHead (d : Dev) (q : Nat) : Nat := d.fld (Reg.q_SQ_HEAD q) 0 9
def sqTailOf (d : Dev) (q : Nat) : Nat := d.fld (Reg.q_SQ_TAIL q) 0 9
/-- The CQ that an SQ names. -/
def cqOf (d : Dev) (q : Nat) : Nat := d.fld (Reg.q_SQ_CTL q) 8 6
/-- Commands in flight from an SQ (R277). -/
def sqInflight (d : Dev) (q : Nat) : List InFlight := d.host.inflight.filter (fun x => x.cmd.sq.val == q)
/-- Shared in-flight places taken (R278): each SQ has 8 of its own. -/
def sharedTaken (d : Dev) : Nat := (List.range 64).foldl (fun (n : Nat) (q : Nat) => n + ((d.sqInflight q).length - 8)) 0
/-- An in-flight limit holds the SQ (R278). -/
def heldLimit (d : Dev) (q : Nat) : Bool :=
  let n := (d.sqInflight q).length
  decide (256 ≤ n) || (decide (8 ≤ n) && decide (512 ≤ d.sharedTaken))
/-- A CQ is full: one more entry would make its tail equal its head (R274). -/
def cqFull (d : Dev) (c : Nat) : Bool := (d.fld (Reg.q_CQ_TAIL c) 0 10 + 1) % 1024 == d.fld (Reg.q_CQ_HEAD c) 0 10
/-- A fetched FENCE command waits (R278): one of the SQ that has not ended, with an earlier command of the SQ in flight. Log entry 35, DESIGN CHOICE, unsafe. -/
def heldFence (d : Dev) (q : Nat) : Bool := ((d.sqInflight q).drop 1).any (fun x => x.cmd.fence && x.ended.isNone)
/-- The SQ has entries that may be fetched now (R277, R278, R423). -/
def fetchable (d : Dev) (q : Nat) : Bool :=
  d.fetches (d.qFn q) && d.sqOn q && d.sqTailOf q != d.sqHead q && !d.heldLimit q && !d.cqFull (d.cqOf q) && !d.heldFence q &&
  !d.corrupt (Reg.q_SQ_BASE_LO q) 64

/-- Q_STATUS (R294). -/
def qStatus (d : Dev) (q : Nat) : Nat :=
  let on_ := d.sqOn q && d.sqTailOf q != d.sqHead q
  min 256 (d.sqInflight q).length + (if on_ && d.heldLimit q then 2^9 else 0) + (if on_ && d.cqFull (d.cqOf q) then 2^10 else 0) +
  (if d.heldFence q then 2^11 else 0) + (if d.fetchable q then 2^13 else 0)

/-! ## Requests to host memory (R273) -/

/-- Window `w` of function `fn` covers a host page and permits the direction. -/
def windowOk (d : Dev) (fn w page : Nat) (write : Bool) : Bool :=
  let (base, pages, ctl) := SMap.get (0, 0, 0) d.host.dmaw (fn * 16 + w)
  decide (base ≤ page ∧ page < base + pages) && bitsOf ctl (if write then 1 else 0) 1 == 1 &&
  !(d.parity.any (fun p => decide (fnKey fn (Reg.dmaw_BASE_LO w) ≤ p.1 ∧ p.1 < fnKey fn (Reg.dmaw_BASE_LO w) + 16 ∧ p.2 ≠ 0)))

/-- A request to one host page passes the window check: it lies in a window of its function. Log entry 35, DESIGN CHOICE, unsafe. -/
def pageOk (d : Dev) (fn page : Nat) (write : Bool) : Bool := (List.range 16).any (fun w => d.windowOk fn w page write)

/-- How many bytes from the start of a host range pass the check before the first page that does not. -/
def dmaSpan (d : Dev) (fn addr len : Nat) (write : Bool) : Nat :=
  if len = 0 then 0
  else
    let p0 := addr / 4096
    let n := (addr + len - 1) / 4096 - p0 + 1
    match (List.range n).find? (fun i => !d.pageOk fn (p0 + i) write) with
    | none => len
    | some i => (p0 + i) * 4096 - addr

/-- A host page lies in a window of the function that names another card (R273). -/
def pagePeer (d : Dev) (fn page : Nat) : Bool :=
  (List.range 16).any (fun w => d.windowOk fn w page true && bitsOf (SMap.get (0, 0, 0) d.host.dmaw (fn * 16 + w)).2.2 2 1 == 1)

/-- A request outside every window: DMA_DENIED and its count in the function's registers (R273). -/
def dmaDenied (d : Dev) (fn : Nat) : Dev := (d.raise (fnKey fn Reg.host_EVENTS) 1).bump (fnKey fn Reg.host_DENY_CNT)

def hostBytes (d : Dev) (a k : Nat) : List Byte := SMap.bytes 0 d.hostMem a k
def hostStore (d : Dev) (a : Nat) (bs : List Byte) : Dev := { d with hostMem := SMap.store 0 d.hostMem a bs }

/-- A function's write of `bs` to the host range from `a`, which has passed the window check: page by page to host memory, or through a PEER
window as a posted write to another card (R273). Log entry 11, DESIGN CHOICE, unsafe. -/
def hostGive (d : Dev) (fn a : Nat) (bs : List Byte) : Dev :=
  if bs.isEmpty then d
  else
    let p0 := a / 4096
    (List.range ((a + bs.length - 1) / 4096 - p0 + 1)).foldl (fun (d : Dev) (i : Nat) =>
      let lo := max a ((p0 + i) * 4096)
      let part := (bs.drop (lo - a)).take ((p0 + i + 1) * 4096 - lo)
      if d.pagePeer fn (p0 + i) then { d with host := { d.host with peerOut := d.host.peerOut ++ [(lo, part)] } } else d.hostStore lo part) d

end Dev
end Sys2Proof.Machine
end

