-- ==== Sys2Proof/Machine/RegRead.lean ====
section
/-! DEFINITION. Which function sees a register (R270, R408), which registers each function has its own copy of, and what a read of
a register returns (R415), whether the value is stored or shown from the machine's state. -/
namespace Sys2Proof.Machine

/-- Which functions see a register. -/
inductive Vis where
  | all
  | pf
  | own (o : Option Nat)
deriving DecidableEq, Repr

/-- Function `fn` sees a register. -/
def Vis.sees (v : Vis) (fn : Nat) : Bool :=
  match v with
  | .all => true
  | .pf => fn == 0
  | .own o => Dev.sees fn o

namespace Dev

/-- The owner of a group of event channels (R237). -/
def grpOwner (d : Dev) (g : Nat) : Option Nat := ownerField (d.fld (Reg.grp_STATE g) 5 4) (d.bit (Reg.grp_STATE g) 9)
/-- The owner of an endpoint entry (R242). -/
def epOwner (d : Dev) (e : Nat) : Option Nat := ownerField (d.fld (Reg.ep_EP e) 8 4) (d.bit (Reg.ep_EP e) 12)
/-- The owner of a marker line: the owner of the channel it names, or the physical function while it names none (R247, R289). Log entry 34, DESIGN CHOICE, unsafe. -/
def mkOwner (d : Dev) (k : Nat) : Option Nat := if d.fld (Reg.mk_CFG k) 0 2 = 0 then none else d.chOwner (d.fld (Reg.mk_CFG k) 2 7)
/-- The owner of a task input: that of its consumer (R220). -/
def tinOwner (d : Dev) (i : Nat) : Option Nat :=
  if i < 256 then d.engOwner (i / 4)
  else if i < 320 then d.engOwner (i - 256)
  else if i < 368 then d.liOwner (i - 320)
  else if i < 400 then d.fiOwner (i - 368)
  else if i < 416 then d.lgOwner (i - 400)
  else if i < 424 then d.toOwner (i - 416)
  else if i < 430 then d.mdOwner (i - 424)
  else if i < 436 then d.mdOwner (i - 430)
  else if i < 468 then d.grpOwner (i - 436)
  else if i < 500 then d.grpOwner (i - 468)
  else d.ltOwner (i - 500)

/-- Which functions see the register at offset `r` of block `i` of kind `b` (R270, R408). -/
def vis (d : Dev) (b : Block) (i r : Nat) : Vis :=
  match b with
  | .glob => if r = 0x50 ∨ r = 0x54 then .pf else .all
  | .time => if r < 0xC then .all else .pf
  | .chn => .own (d.chOwner i)
  | .frame => .own (d.chOwner (i / 32))
  | .calCh => .own (d.chOwner i)
  | .eng => .own (d.engOwner i)
  | .engIn => .own (d.engOwner (i / 5))
  | .lg => .own (d.lgOwner i)
  | .evt =>
    if r = 0x8 ∨ (0x14 ≤ r ∧ r < 0x24) ∨ r = 0x28 then .all
    else if 0x100 ≤ r ∧ r < 0x140 then .own (d.ecOwner (16 * ((r - 0x100) / 4)))
    else .pf
  | .rxLast => .own (d.srcOwner (986 + i))
  | .ec => .own (d.ecOwner i)
  | .tin => .own (d.tinOwner i)
  | .grp => .own (d.grpOwner i)
  | .li => .own (d.liOwner i)
  | .fi => .own (d.fiOwner i)
  | .to => .own (d.toOwner i)
  | .lt => .own (d.ltOwner i)
  | .ep => .own (d.epOwner i)
  | .ti => .own (d.srcOwner (832 + 2 * i))
  | .mk => .own (d.mkOwner i)
  | .cap => .own (d.mdOwner i)
  | .host => .all
  | .dmaw => .all
  | .msix => if r < 0x400 then .all else .pf
  | .pba => .all
  | .q => .own (d.qOwner i)
  | _ => .pf

/-! ## What a read returns -/

/-- Task input `i` is busy (R223, R236). -/
def tinBusy (d : Dev) (i : Nat) : Bool :=
  d.tinBad i ||
  (if i < 256 then (SMap.get none d.ei i).isSome
   else if i < 320 then
     let e := i - 256
     match d.swTarget e with
     | none => true
     | some t => d.engCtx e == some t || !d.current (d.engOf e).s0 t || d.bit (Reg.eng_STATUS e) 24 || (d.engOf e).moving.isSome
   else if i < 368 then
     d.liShut (i - 320) || d.liAwaits (i - 320)
   else if 368 ≤ i ∧ i < 400 then decide (4 ≤ d.fiWaiting (i - 368)) || d.corrupt (Reg.fi_CFG (i - 368)) 64
   else if 400 ≤ i ∧ i < 416 ∧ d.fromPin (i - 400) then true
   else if 436 ≤ i ∧ i < 500 then decide (4 ≤ d.groupWaiting (if i < 468 then i - 436 else i - 468))
   else if 500 ≤ i then d.ltBusy (i - 500)
   else if 424 ≤ i ∧ i < 430 then d.armBusy (i - 424)
   else if 430 ≤ i ∧ i < 436 then d.trigBusy (i - 430)
   else decide (4 ≤ (d.tinOf i).acts.length))

/-- A buffered value of channel `n` has not yet applied (R202). -/
def chnPending (d : Dev) (n : Nat) : Bool :=
  [Reg.chn_CFG n, Reg.chn_GAIN n, Reg.chn_OFFSET n, Reg.chn_IDLE_CODE n, Reg.chn_DELAY n, Reg.chn_STATIC_CODE n].any (fun a => d.held a)

/-- OUT_SRC of a channel (R202): 0 datapath or static, 1 idle, 2 safe code for underrun, 3 for hold or pin, or MODE OFF. -/
def outSrc (g : Guard) (d : Dev) (n : Nat) : Nat :=
  if d.chMode n = 0 ∨ d.safed g n ∨ d.dsafe then 3
  else if d.undrAt n d.nowT then 2
  else if d.chMode n = 2 then 0
  else if (d.playAt n true d.nowT).isSome then 0 else 1

/-- STATUS of a channel (R202). -/
def chnStatus (g : Guard) (d : Dev) (n : Nat) : Nat :=
  let playing := (d.playAt n false d.nowT).isSome
  (if d.chMode n = 0 then 1 else 0) + 4 * d.outSrc g n + (if playing then 2^4 else 0) + (if d.isClaimed n then 2^5 else 0) +
  (if (d.chanOf n).hold then 2^6 else 0) + (if d.safePin && (g.of n).safeEn then 2^7 else 0) + (if d.chnPending n then 2^8 else 0) +
  2^16 * d.lPipe n

/-- Units of a channel's bank in use by resident segments and heads (R85). -/
def resUnits (d : Dev) (n : Nat) : Nat := ((d.chanOf n).resident.map (fun r => r.units)).foldl (· + ·) 0

/-- SC_STATUS of a channel (R85). -/
def scStatus (d : Dev) (n : Nat) : Nat :=
  let c := d.chanOf n
  let streaming := match c.cur with
    | some p => p.seg.isSome && dStreamed p.desc
    | none => false
  d.scState n + (if streaming then 4 else 0) + (if !c.streams.isEmpty && decide (d.ringFilled n < d.lowWm n) then 8 else 0) +
  2^8 * (d.ringFilled n / 4096)

/-- One word of a channel's frame record (R168). -/
def frameWord (d : Dev) (i r : Nat) : Nat :=
  let f := d.frameOf (i / 32) (i % 32)
  match r with
  | 0 => f.freq
  | 4 => f.freq / 2^32
  | 8 => f.phase
  | 0xC => f.phase / 2^32
  | 0x10 => f.epoch
  | 0x14 => f.epoch / 2^32
  | 0x18 => f.rate
  | _ => 0

/-- HOST.STATUS as function `fn` sees it (R292). -/
def hostStatus (d : Dev) (fn : Nat) : Nat :=
  let link := d.fld Reg.host_STATUS 21 6 * 2^21
  let f := if d.fetches fn then 2^14 else 0
  if fn = 0 then
    let mine := (List.range 64).filter (fun q => d.qFn q == 0)
    link + f + mine.length * 2^7 + mine.headD 0
  else
    let w := d.ptabW (fn - 1) 10
    let on_ := d.partOn (fn - 1)
    link + f + 2^20 + (fn - 1) * 2^16 + (if on_ then bitsOf w 19 7 * 2^7 + bitsOf w 13 6 else 0)

/-- HOST.PART[p].STATE (R295). -/
def partState (d : Dev) (p : Nat) : Nat :=
  let engines := ((List.range 64).filter (fun e => d.engOwner e == some p)).length
  let s := if d.partOn p then d.fld (Reg.part_STATE p) 0 2 else bitsOf (d.ptabW p 0) 0 1
  s + (if d.host.vfEnable && decide (p < d.host.numVFs) then 4 else 0) + engines * 16

/-- GLOBAL.STATUS (R425). -/
def globStatus (f : Fuses) (d : Dev) : Nat :=
  bitsOf (d.rdN Reg.glob_STATUS) 1 3 * 2 + (if d.timeValid then 2^4 else 0) + bitsOf (d.rdN Reg.glob_STATUS) 5 3 * 2^5 +
  (if d.bit Reg.dramG_STATUS 1 then 2^8 else 0) + (if d.frozen then 2^9 else 0) + d.fld Reg.pwr_STATUS 0 2 * 2^10 +
  (if d.safePin then 2^12 else 0) + f.lc % 8 * 2^13 + d.startPhase * 2^16

/-- Debug instructions are reachable (R317, R329). -/
def debugOpen (f : Fuses) (d : Dev) : Bool := f.lc == 1 || d.bit Reg.sec_STATUS 8

/-- A CAL_WRITE has begun and not ended (R351). -/
def calWriting (d : Dev) : Bool := d.host.inflight.any (fun x => x.ended.isNone && !x.dup && x.cmd.opcode == 0x4A && decide (0 < x.moved))

/-- SEC.STATUS (R331). -/
def secStatus (f : Fuses) (d : Dev) : Nat :=
  let raw := d.rdN Reg.sec_STATUS
  f.lc % 8 + bitsOf raw 3 5 * 2^3 + (if debugOpen f d then 2^8 else 0) + bitsOf raw 9 3 * 2^9 + f.svn % 2^7 * 2^12

/-- SEC.KEY_STATE (R331). -/
def keyState (f : Fuses) : Nat := (List.range 6).foldl (fun (n : Nat) (k : Nat) => n + SMap.get 0 f.keys k % 4 * 4^k) 0

/-- The secret of the identity key (R321). -/
def idkSecret (f : Fuses) : List Byte := Crypto.hkdf f.secret ("CZ9600 IDK".toUTF8.toList.map (fun b => BitVec.ofNat 8 b.toNat))

/-- The word that a read of the register at offset `off` returns to function `fn`: the value last written, or what hardware shows
(R415); a field of GLOBAL its reset value while a mismatch stands there (R423). `b`, `i` and `r` say where the register lies. Log entry 67, DEDUCED, unsafe. -/
def shown (f : Fuses) (g : Guard) (d : Dev) (fn off : Nat) (b : Block) (i r : Nat) : Nat :=
  let raw := d.rdN (if perFn b r then fnKey fn off else off)
  match b with
  | .glob =>
    if (r = 0x14 ∨ r = 0x18 ∨ (0x80 ≤ r ∧ r < 0x90)) ∧ (d.corrupt 0 0x100 ∨ d.corrupt (fnKey fn 0) 0x100) then 0
    else if r = 0x10 then d.globStatus f
    else if r = 0x8 then f.serial
    else if r = 0xC then f.serial / 2^32
    else if r = 0x20 then (if d.spll = 0 then 0 else d.fdcKhz)
    else raw
  | .time =>
    if r = 0 then d.time.now
    else if r = 4 then d.time.now / 2^32
    else if r = 0x30 then d.accEdge / 2^32
    else if r = 0x34 then d.accEdge / 2^64
    else raw
  | .frame => d.frameWord i r
  | .chn =>
    let k := g.of i
    if r = 0 then raw - bitsOf raw 14 1 * 2^14 + (if k.safeEn then 2^14 else 0)
    else if r = 4 then d.chnStatus g i
    else if r = 0x34 then k.fsMax + k.vMax * 2^8 + (if k.curOk then 2^16 else 0) + (if k.voltOk then 2^17 else 0)
    else if r = 0x1000 then toBits 16 k.lo + 2^16 * toBits 16 k.hi
    else if r = 0x1004 then k.slew
    else if r = 0x1008 then k.pwr
    else if r = 0x1010 then toBits 16 k.sealLo + 2^16 * toBits 16 k.sealHi
    else if r = 0x1014 then k.sealS
    else if r = 0x1018 then k.sealPwr
    else if r = 0x101C then k.win
    else if r = 0x1800 then toBits 16 k.safe
    else if r = 0x3000 then raw / 2^8 * 2^8 + d.resUnits i % 2^8
    else if r = 0x3004 then d.scStatus i
    else raw
  | .eng =>
    if r = 4 then
      let x := d.engOf i
      bitsOf raw 0 16 + raw / 2^18 * 2^18 + (if d.swTarget i |>.any (fun t => d.current x.s0 t) then 2^16 else 0) +
      (if x.s1.any (fun s => d.current (some s) s.ctx) then 2^17 else 0)
    else if r = 8 then (match d.engCtx i with
      | some c => d.ctxPc c
      | none => 0) + 2^20 * d.engPend i
    else raw
  | .engIn =>
    let e := i / 5
    let k := i % 5
    let tin := if k = 4 then 256 + e else 4 * e + k
    if r = 0 then raw else d.rdN (if r = 4 then Reg.tin_OVR_CNT tin else if r = 8 then Reg.tin_OVR_FIRST_LO tin else Reg.tin_OVR_FIRST_HI tin)
  | .tin =>
    if r ≠ 8 then raw
    else
      let raw := if 368 ≤ i ∧ i < 400 then raw / 16 * 16 + 2 * min 4 (d.fiWaiting (i - 368)) else raw
      raw / 2 * 2 + (if d.tinBusy i then 1 else 0)
  | .ec =>
    if r = 0x28 then raw / 2 * 2 + (if (ecBuffered i).any (fun a => d.held a) then 1 else 0) else raw
  | .li =>
    if r = 8 then (if d.liAwaits i then 1 else 0) +
      (if d.ctxState (d.fld (Reg.li_CFG i) 0 14) = 3 then 2 else 0)
    else raw
  | .ti => if r = 0x2C then bitsOf ((d.holdOffBy i (d.tiStamp i d.nowT)).rdN off) 0 4 + (if (tiBuffered i).any (fun a => d.held a) then 16 else 0) else raw
  | .to => if r = 8 then (g.ofTo i).gap else if r = 0xC then (g.ofTo i).sealGap else raw
  | .host =>
    if r = 0 then d.hostStatus fn
    else if r = 8 then (d.host.inflight.filter (fun x => x.cmd.fn.val == fn)).length + 2^16 * d.host.inflight.length
    else raw
  | .q => if r = 0x28 then d.qStatus i else raw
  | .part =>
    if r = 0 then d.partState i
    else if r = 4 then (let w := d.ptabW i 10; if bitsOf (d.ptabW i 0) 0 1 = 1 then bitsOf w 13 6 + bitsOf w 19 7 * 2^8 else 0)
    else raw
  | .sec =>
    if r = 0 then d.secStatus f
    else if r = 0x28 then f.serial
    else if r = 0x2C then f.serial / 2^32
    else if r = 0x44 then keyState f
    else if r = 0x30 then d.wipeLeft
    else if 0x200 ≤ r ∧ r < 0x220 then fieldAt (Crypto.ed25519Public (idkSecret f)) (r - 0x200) 4
    else if 0x220 ≤ r ∧ r < 0x260 then fieldAt f.cert (r - 0x220) 4
    else if (r = 0x50 ∨ r = 0x54 ∨ 0x10000 ≤ r) ∧ !d.recovery then 0
    else raw
  | .cal => if r = 0 then raw - bitsOf raw 3 1 * 8 + (if d.calWriting then 8 else 0) else raw
  | .dram => if r = 4 then raw - bitsOf raw 5 1 * 2^5 + (if d.dmcPanic i then 2^5 else 0) else raw
  | .faultQ =>
    let q := d.faultQ i
    if r = 0 then q.length + 2^16 * (match q with
      | x :: _ => x.id
      | [] => 0)
    else if 0x40 ≤ r ∧ r < 0x80 then (match q with
      | x :: _ => (faultWords i x).getD ((r - 0x40) / 4) 0
      | [] => 0)
    else raw
  | _ => raw

/-- The registers whose read latches others of their block: the latched offsets, given by the low word's (R168, R170, R419, R444). -/
def latches (b : Block) (r : Nat) (pair : Nat) : List Nat :=
  match b, r with
  | .frame, 0 => [4, 8, 0xC, 0x10, 0x14, 0x18]
  | .frame, _ => []
  | .chn, 0x242C => [0x2430, 0x2434, 0x2438]
  | .chn, 0x2434 => []
  | .faultQ, 0x40 => (List.range 15).map (fun k => 0x44 + 4 * k)
  | _, _ => if pair = 1 then [r + 4] else []

/-- A write-only register, which reads as zero (R5). -/
def readsZero (x : RegRow) : Bool := x.wo

/-- Read the register at `off` as function `fn`, for requester `req` (R411, R418, R419, R421): the word, and the machine with the
latches that the read takes; a latched word is read once. `homeAwake` says that the register's home answers, and `narrow` that the access has partial
byte enables. -/
def readReg (f : Fuses) (g : Guard) (d : Dev) (req fn off : Nat) (homeAwake narrow : Bool) : Word × Dev :=
  match locate off, regRow off with
  | some (b, i, r), some x =>
    if !(d.vis b i r).sees fn then (0, d)
    else if !homeAwake then (0, d.accessErr fn off 2 false narrow)
    else if readsZero x then (0, d)
    else
      match SMap.get none d.latch (fnKey req off) with
      | some w => (w, { d with latch := SMap.set none d.latch (fnKey req off) none })
      | none =>
        let ls := latches b r x.pair
        let d' := ls.foldl (fun (n : Dev) (k : Nat) =>
          { n with latch := SMap.set none n.latch (fnKey req (off - r + k)) (some (BitVec.ofNat 32 (d.shown f g fn (off - r + k) b i k))) }) d
        (BitVec.ofNat 32 (d.shown f g fn off b i r), d')
  | _, _ => (0, d)

/-- A read of BAR0 by requester `req` acting as function `fn` (R411, R418, R421): an alias and a reserved location read zero, and in STANDBY the
device answers none. -/
def bar0Read (f : Fuses) (g : Guard) (d : Dev) (req fn off : Nat) (narrow : Bool) : Word × Dev :=
  let a := off / 4 * 4
  if d.standby ∨ 0x4000000 ≤ a then (0, d) else readReg f g d req fn a (d.awakeRead a) narrow

end Dev
end Sys2Proof.Machine
end

