-- ==== Sys2Proof/Machine/Faults.lean ====
section
/-! DEFINITION. Parity of configuration registers (R422 to R424) and the acknowledgement of fault records (R433). -/
namespace Sys2Proof.Machine

/-- A configuration register (R422): one with a field of access RW, RWB or RWS, or an RO register whose value comes from the limits
block, the image or the fuses. -/
def hasParity (b : Block) (r : Nat) (x : RegRow) : Bool :=
  x.rw != 0 || x.rwb != 0 || x.rws != 0 ||
  (match b with
   | .chn => r == 0x34 || r == 0x1010 || r == 0x1014 || r == 0x1018 || r == 0x101C
   | .to => r == 0xC
   | .glob => r == 0x8 || r == 0xC || r == 0x14 || r == 0x18
   | .sec => r == 0x28 || r == 0x2C || r == 0x44 || (0x220 ≤ r && r < 0x260)
   | .part => r == 4
   | .dramG => r == 0xC
   | _ => false)

/-- A register of a channel's guard: a working limit, a seal or SAFE_CODE (R188). -/
def isGuardReg (b : Block) (r : Nat) : Bool := b == .chn && (r == 0x34 || (0x1000 ≤ r && r < 0x1020) || r == 0x1800)

/-- The owning object of a mismatched register goes to its safe state, where that is an action of the moment (R423); what lasts as long as the
mismatch is taken from `Dev.corrupt` where the object is used. -/
def Dev.paritySafe (d : Dev) (b : Block) (i : Nat) : Dev :=
  match b with
  | .chn => d.setHold i 2
  | .ec => (d.updEc i (fun (e : EcSt) => { e with hold := [] })).showHeld i
  | .to => (d.setBit (Reg.to_STATUS i) 0 false).updTout i (fun (t : ToSt) => { t with pulseEnd := none })
  | .mk => d.refreshLine i d.nowT true
  | .cap => if h : i < 6 then abortD ⟨i, h⟩ d else d
  | _ => d

/-- PARITY_SCRUB (R422, R423, R431): the scrubber finds the byte lanes `lanes` of a register mismatched, of the copy that a function has where each has its
own. A mismatch that is already known adds no occurrence. -/
def parityScrubD (at_ : RegCopy) (lanes : BitVec 4) (d : Dev) : Dev :=
  let a := at_.off.toNat / 4 * 4
  match locate a, regRow a with
  | some (b, i, r), some x =>
    if !hasParity b r x ∨ lanes = 0 then d
    else
      let key := if Dev.perFn b r then Dev.fnKey at_.fn.val a else a
      let before := SMap.get 0 d.parity key
      let d := { d with parity := SMap.set 0 d.parity key (before ||| lanes.toNat) }
      if before ≠ 0 then d
      else
        let last := a + lanes.toNat * 2^28
        let d := if d.rdN (Dev.fnKey 0 Reg.glob_ACC_EVENTS) % 128 = 0 then { d with accKept := SMap.set false d.accKept 0 false } else d
        let d := ((d.wrN Reg.glob_PARITY_LAST last).bump Reg.glob_PARITY_CNT).raise Reg.glob_ACC_EVENTS 64
        let d := d.paritySafe b i
        if isGuardReg b r then d.faultOf 4 0x60 1 i (d.chOwner i) [last] else d.faultNow 5 0x61 0 0 [last]
  | _, _ => d

/-- ACK (R433): the head record of class `c` is removed if the ID and ALSO written match it. -/
def ackD (c : Fin 14) (v : Word) (d : Dev) : Dev :=
  d.access 0 (Reg.faultQ_ACK c.val) none (fun d =>
    match d.faultQ c.val with
    | [] => d.raise Reg.fault_EVENTS 8
    | r :: rest =>
      if bitsOf v.toNat 0 16 = r.id ∧ bitsOf v.toNat 16 8 = r.also then d.setFaultQ c.val rest else d.raise Reg.fault_EVENTS 8)

/-- PARITY_SCRUB (R422). -/
def execParityScrub (at_ : RegCopy) (lanes : BitVec 4) (s : State) : Host.Outcome State Fault Refusal :=
  s.onDev (parityScrubD at_ lanes)

/-- ACK (R433). -/
def execAck (c : Fin 14) (v : Word) (s : State) : Host.Outcome State Fault Refusal :=
  s.onDev (ackD c v)

end Sys2Proof.Machine
end

