-- ==== Sys2Proof/Machine/HostCmds.lean ====
section
/-! DEFINITION. The host commands that move data and the commands on segments, envelopes, programs, contexts, engines and captures
(R284, R285): what each checks, in order, what it does, and the status and RESULT it ends with (R283). -/
namespace Sys2Proof

/-- Parameter `i` of a command. -/
def HostCmd.p (c : HostCmd) (i : Nat) : Nat := (c.par.getD i 0).toNat
/-- The owner a command acts for. -/
def HostCmd.owner (c : HostCmd) : Option Nat := Machine.Dev.fnOwner c.fn.val
/-- ADDR is aligned to 64 bytes (R275). -/
def HostCmd.aligned (c : HostCmd) : Bool := c.addr.toNat % 64 == 0
/-- A 64-bit parameter pair. -/
def HostCmd.p64 (c : HostCmd) (i : Nat) : Nat := c.p i + 2^32 * c.p (i + 1)

end Sys2Proof

namespace Sys2Proof.Machine

/-- How a command ends: its status, its RESULT and the device it leaves; `reseal` names the channels whose working limits return to
their seals (R291). -/
structure Ran where
  status : Nat
  result : Nat
  dev    : Dev
  reseal : List Nat := []
deriving DecidableEq, Repr

namespace Dev

/-- A command ends with a status other than OK and nothing done. -/
def stop (d : Dev) (status : Nat) (result : Nat := 0) : Ran := ⟨status, result, d, []⟩
/-- A command completes. -/
def ok (d : Dev) (result : Nat := 0) : Ran := ⟨0, result, d, []⟩

/-- DRAM answers no request: a freeze is in effect, or DRAM is unusable (R272, R285, R380). -/
def dramDown (d : Dev) : Bool := d.frozen || d.bit Reg.dramG_STATUS 1

/-- A command reads DRAM through `port`: an uncorrectable codeword freezes DRAM and ends the command (R283, R398). -/
def readsAt (d : Dev) (port a len : Nat) (k : Dev → Ran) : Ran :=
  match d.meetBad port a len with
  | some d => d.stop 0x11
  | none => k (d.served false a len)

/-- The ranges of DRAM that a command with an opcode accesses (R284), the whole of it where that is not known beforehand. -/
def dramSpans (d : Dev) (op : Nat) (c : HostCmd) : List (Nat × Nat) :=
  match op with
  | 0x01 => [(c.p64 0, c.len.toNat)]
  | 0x02 => [(c.p64 0, c.len.toNat)]
  | 0x08 => [(d.mm.descAt + 64 * c.p 0, 64)]
  | 0x09 => [(d.mm.descAt + 64 * c.p 0, 64)]
  | 0x0A => [(d.mm.descAt + 64 * c.p 0, 64), (dAddr (d.desc (c.p 0)), dBytes (d.desc (c.p 0)))]
  | 0x20 => [(0, d.ilBytes)]
  | 0x30 => if (d.capOf (c.p 0 % 8)).target = 1 ∧ bitsOf (c.p 0) 8 1 = 0 then [((d.capOf (c.p 0 % 8)).base, (d.capOf (c.p 0 % 8)).size)] else []
  | 0x39 => [(d.mm.descAt, 2^22)]
  | 0x40 => [(0, d.ilBytes)]
  | 0x41 => [(0, d.ilBytes)]
  | _ => []

/-- A step of a command waits for DRAM (R366, R407). Log entry 87, DESIGN CHOICE, unsafe. -/
def mustWait (d : Dev) (op : Nat) (c : HostCmd) : Bool := (d.dramSpans op c).any (fun r => d.stallsAt r.1 r.2)

/-- The host answers a read with an error (R283): the command ends, with a RESULT that no rule states. Log entry 11, DESIGN CHOICE, unsafe. -/
def dmaError (d : Dev) : Ran := let (v, d) := d.free; d.stop 0x0D (v % 2^32)

/-- Read `len` bytes of the command's host buffer, of which each request passes the window check or ends the command (R273); an executor may hold them
already (R282). -/
def takeBuf (d : Dev) (c : HostCmd) (len : Nat) (k : List Byte → Ran) : Ran :=
  match d.host.feed with
  | .probe => d.ok
  | .held bs => k bs
  | .host =>
    let n := d.dmaSpan c.fn.val c.addr.toNat len false
    if n < len then (d.dmaDenied c.fn.val).stop 0x0C n
    else if d.host.rdErr then d.dmaError
    else k (d.hostBytes c.addr.toNat len)

/-- Write bytes to a host range of the command's function, up to the first request that is denied (R273). -/
def giveAt (d : Dev) (c : HostCmd) (addr : Nat) (bs : List Byte) (result : Nat) : Ran :=
  let n := d.dmaSpan c.fn.val addr bs.length true
  let d := d.hostGive c.fn.val addr (bs.take n)
  if n < bs.length then (d.dmaDenied c.fn.val).stop 0x0C n else d.ok result

/-- Write bytes to the command's host buffer. -/
def giveBuf (d : Dev) (c : HostCmd) (bs : List Byte) (result : Nat) : Ran := d.giveAt c c.addr.toNat bs result

/-- A command's function may act on an object of `owner` (R284, R289). -/
def mayUse (c : HostCmd) (owner : Option Nat) : Bool := sees c.fn.val owner

/-! ## DRAM ranges (R285, R324) -/

/-- The checks that MEM_WRITE, MEM_READ and WIPE share: alignment to `unit`, the range and the freeze. Log entry 62, DEDUCED, unsafe. -/
def rangeStatus (d : Dev) (c : HostCmd) (a len unit : Nat) : Nat :=
  if a % unit ≠ 0 ∨ len % unit ≠ 0 then 0x02
  else if !d.dramRegion c.owner a len then 0x03
  else if d.dramDown then 0x10
  else 0

/-- Mark granules unwiped (R324): their bytes are gone, and the background wipe has work again. -/
def unwipe (d : Dev) (g n : Nat) : Dev :=
  let d := { d with wiped := d.wiped.filter (fun p => decide (p.1 < g ∨ g + n ≤ p.1)),
                    dram := d.dram.filter (fun p => decide (p.1 / 2^20 < g ∨ g + n ≤ p.1 / 2^20)),
                    badCw := d.badCw.filter (fun p => decide (p.1 / 2^13 < g ∨ g + n ≤ p.1 / 2^13)) }
  if n = 0 then d else d.setBit Reg.sec_STATUS 9 true

/-! ## Segments (R60 to R64) -/

/-- Segment `s` is locked by an admitted context (R61). -/
def segLocked (d : Dev) (s : Nat) : Bool := d.adm.any (fun p => match p.2 with
  | some r => r.segs.contains s
  | none => false)

/-- The reserved fields of a descriptor are zero (R59), and its owner is one that there is (R60). R60's list names neither, so a descriptor
that fails ends with CFG_INVALID and not SEG_INVALID (R283). Log entry 75, DEDUCED, unsafe. -/
def descReserved (ws : List Word) : Bool :=
  let z (w lo k : Nat) : Bool := dfld ws w lo k == 0
  z 0 5 3 && z 0 21 3 && z 6 8 24 && (List.range 8).all (fun i => z (7 + i) 0 32) && (dfld ws 0 20 1 == 1 || decide (dfld ws 0 16 4 ≤ 11)) &&
  (match dKind ws with
   | 1 => z 3 9 23 && z 5 9 23
   | 2 => z 0 2 3 && z 0 8 8 && z 3 18 14 && z 6 0 8
   | _ => true)

/-- A stored segment's placement (R63, R64). -/
def placed (d : Dev) (ws : List Word) : Bool :=
  let a := dAddr ws
  let n := dBytes ws
  if dPin ws then d.mm.pins.any (fun w => decide (w.1 ≤ a ∧ a + n ≤ w.1 + w.2.1 ∧ dfld ws 0 8 8 = w.2.2)) else decide (a + n ≤ d.ilBytes)

/-- A descriptor may be written (R56, R60). -/
def descOk (d : Dev) (ws : List Word) : Bool :=
  let n := dLen ws
  (match dKind ws with
   | 0 => true
   | 1 => decide (32 ≤ n ∧ n ≤ 2^40 ∧ n % 32 = 0) && dAddr ws % 4096 == 0 && d.placed ws && decide (dHead ws ≤ 120)
   | 2 => decide (32 ≤ n ∧ n % 32 = 0)
   | _ => false)

/-- The words of a descriptor as the device writes it (R60): VER counts the write, the owner is `own` where it is forced, and CHECK
is computed. -/
def sealDesc (old ws : List Word) (own : Option Nat) : List Word :=
  let n := (ws.getD 0 0).toNat % 2^24
  let n := match own with
    | some p => n % 2^16 + p * 2^16
    | none => n
  let ver := (dfld old 0 24 8 + 1) % 256
  withCheck (BitVec.ofNat 32 (n + ver * 2^24) :: (List.range 15).map (fun i => ws.getD (1 + i) 0))

/-- The words of two descriptors differ in AMP and CHIRP only, of a synthesised segment (R62). -/
def onlyAmpChirp (old new : List Word) : Bool :=
  dKind old == 2 && dKind new == 2 &&
  (List.range 15).all (fun i =>
    let a := (old.getD i 0).toNat
    let b := (new.getD i 0).toNat
    if i = 0 then a % 2^24 == b % 2^24 else if i = 4 then a / 2^16 == b / 2^16 else if i = 5 then true else a == b)

/-- A written descriptor goes to the tiles that hold it locked (R62). -/
def relock (d : Dev) (s : Nat) (ws : List Word) : Dev :=
  { d with descC := d.descC.map (fun p => if p.1 % 2^16 = s then (p.1, some ws) else p) }

/-- SEG_WRITE (R60, R62). -/
def segWrite (d : Dev) (c : HostCmd) : Ran :=
  let s := c.p 0
  if 2^16 ≤ s ∨ !c.aligned then d.stop 0x02
  else if !mayUse c (d.segOwner s) then d.stop 0x03
  else if d.dramDown then d.stop 0x10
  else d.takeBuf c 64 (fun bs =>
    let ws := leWords bs
    let old := d.desc s
    let new := sealDesc old ws c.owner
    if !d.descOk ws then d.stop 0x06
    else if !descReserved new then d.stop 0x02
    else if d.segLocked s && !onlyAmpChirp old new then d.stop 0x05
    else d.readsAt 7 (d.mm.descAt + 64 * s) 64 (fun d =>
      ((d.writeDram (d.mm.descAt + 64 * s) (wordBytes new)).relock s new).ok (dfld new 0 24 8)))

/-- SEG_READ (R284). -/
def segRead (d : Dev) (c : HostCmd) : Ran :=
  let s := c.p 0
  if 2^16 ≤ s ∨ !c.aligned then d.stop 0x02
  else if !mayUse c (d.segOwner s) then d.stop 0x03
  else if d.dramDown then d.stop 0x10
  else d.readsAt 7 (d.mm.descAt + 64 * s) 64 (fun d => d.giveBuf c (wordBytes (d.desc s)) (dfld (d.desc s) 0 24 8))

/-- The banks that hold segment `s`, in ascending order of their channels, with its place in each. -/
def banksOf (d : Dev) (s : Nat) : List (Nat × Resident) :=
  d.chan.flatMap (fun (p : Nat × Chan) => (p.2.resident.filter (fun r => r.seg == s)).map (fun r => (p.1, r)))
/-- The bytes of the first `k` copies of a list. -/
def copiedBytes (d : Dev) (l : List (Nat × Resident)) (k : Nat) : Nat := (l.take k).foldl (fun n p => n + d.copyLen p.1 p.2) 0

/-- One step of RELOAD (R69, R282), after `k` of its copies: the segment or head is copied anew into the next bank that holds it. -/
def reloadStep (d : Dev) (c : HostCmd) (k : Nat) : Ran ⊕ (Dev × Nat) :=
  let s := c.p 0
  let held := d.banksOf s
  if 2^16 ≤ s then .inl (d.stop 0x02)
  else if !mayUse c (d.segOwner s) then .inl (d.stop 0x03)
  else if d.dramDown then .inl (d.stop 0x10 (d.copiedBytes held k))
  else match held[k]? with
    | none => .inl (d.ok held.length)
    | some p =>
      let d' := d.copyResident p.1 p.2
      if d'.dramDown then .inl (d'.stop 0x11 (d.copiedBytes held k)) else .inr (d', k + 1)

/-! ## Envelopes (R162, R163) -/

/-- The directory entry of envelope `v` in tile `t`, as one number. -/
def envEntry (d : Dev) (t v : Nat) : Nat := leNat (SMap.bytes 0 d.env (t * 2^20 + 8 * v) 8)
/-- The owner of a directory entry. -/
def envEntryOwner (n : Nat) : Option Nat := ownerField (bitsOf n 20 4) (bitsOf n 24 1 == 1)

/-- A directory entry's fields are in range (R162). -/
def envEntryOk (n : Nat) : Bool :=
  bitsOf n 25 7 == 0 && bitsOf n 50 14 == 0 && (bitsOf n 24 1 == 1 || decide (bitsOf n 20 4 ≤ 11)) &&
  (bitsOf n 19 1 == 0 || decide (2 ≤ bitsOf n 32 18 ∧ bitsOf n 0 18 + bitsOf n 32 18 ≤ 253952))

/-- The envelopes that descriptors locked in tile `t` name (R61, R163). -/
def envLocked (d : Dev) (t : Nat) : List Nat :=
  d.adm.flatMap (fun p => match p.2 with
    | some r =>
      if (d.ctxChans p.1).any (fun n => n / 16 == t) then
        (r.segs.filter (fun s => dKind (d.descIn t s) == 2)).map (fun s => dfld (d.descIn t s) 3 0 12)
      else []
    | none => [])

/-- The write changes the entry or a sample of an envelope locked in tile `t` (R163). -/
def envBlocked (d : Dev) (t v entry base : Nat) (samples : List Byte) : Bool :=
  (d.envLocked t).any (fun k =>
    let old := d.envEntry t k
    let lo := bitsOf old 0 18
    let hi := lo + bitsOf old 32 18
    (k == v && old != entry) ||
    (List.range (samples.length / 4)).any (fun j =>
      decide (lo ≤ base + j ∧ base + j < hi) && decide (SMap.bytes 0 d.env (t * 2^20 + 0x8000 + 4 * (base + j)) 4 ≠ (samples.drop (4 * j)).take 4)))

/-- ENV_WRITE (R163, R284): to one tile, or to every tile with a half-tile of the function. An entry never written has no owner yet, and any function
whose range holds its number may write it. Log entry 62, DEDUCED, unsafe. -/
def envWrite (d : Dev) (c : HostCmd) : Ran :=
  let v := bitsOf (c.p 0) 0 12
  let t := bitsOf (c.p 0) 16 3
  let len := c.len.toNat
  let own := (List.range 6).filter (fun t => (List.range 2).any (fun h => d.chOwner (16 * t + 8 * h) == c.owner))
  if c.p 0 / 2^19 ≠ 0 ∨ bitsOf (c.p 0) 12 4 ≠ 0 ∨ t = 6 ∨ len < 8 ∨ len % 4 ≠ 0 ∨ !c.aligned then d.stop 0x02
  else if !mayUse c (d.envOwner v) ∨ (c.fn.val ≠ 0 ∧ t ≠ 7 ∧ !own.contains t) then d.stop 0x03
  else d.takeBuf c len (fun bs =>
    let n := leNat (bs.take 8)
    let samples := bs.drop 8
    let count := samples.length / 4
    let base := bitsOf n 0 18
    let n' := match c.owner with
      | some p => n - bitsOf n 20 5 * 2^20 + p * 2^20
      | none => n
    let tiles := if t = 7 then own else [t]
    if !envEntryOk n' ∨ 253952 < base + count then d.stop 0x02
    else if c.fn.val ≠ 0 ∧ tiles.any (fun t => d.envEntry t v != 0 && envEntryOwner (d.envEntry t v) != c.owner) then d.stop 0x03
    else if tiles.any (fun t => d.envBlocked t v n' base samples) then d.stop 0x05
    else
      let put (d : Dev) (t : Nat) : Dev :=
        { d with env := SMap.store 0 (SMap.store 0 d.env (t * 2^20 + 8 * v) (leBytes n' 8)) (t * 2^20 + 0x8000 + 4 * base) samples }
      (tiles.foldl put d).ok count)

/-! ## Programs (R88, R471) -/

/-- The tests that PROG_WRITE and PROG_READ share (R471): the status, or 0. -/
def progStatus (d : Dev) (c : HostCmd) : Nat :=
  let a := c.p 0
  let n := c.len.toNat / 16
  if c.len.toNat % 16 ≠ 0 ∨ 2^20 ≤ a ∨ 2^20 < a + n ∨ !c.aligned then 0x02
  else if (List.range n).any (fun i => !mayUse c (d.progOwner (a + i))) then 0x03
  else 0

/-- An entry belongs to the program of an admitted context (R88). -/
def progLocked (d : Dev) (a : Nat) : Bool := d.adm.any (fun p => match p.2 with
  | some r => r.addrs.contains a
  | none => false)

/-- Entry `i` of a byte string, as a 128-bit number. -/
def entryIn (bs : List Byte) (i : Nat) : Nat := leNat ((bs.drop (16 * i)).take 16)

/-- Write entries from address `a` on. -/
def putEntries (d : Dev) (a : Nat) (bs : List Byte) : Dev :=
  let ws := leWords bs
  { d with prog := (List.range ws.length).foldl (fun (m : SMap Word) (i : Nat) => SMap.set 0 m (4 * a + i) (ws.getD i 0)) d.prog }

/-- PROG_WRITE (R471). -/
def progWrite (d : Dev) (c : HostCmd) : Ran :=
  let a := c.p 0
  let n := c.len.toNat / 16
  let s := d.progStatus c
  if s ≠ 0 then d.stop s
  else if (List.range n).any (fun i => d.progLocked (a + i)) then d.stop 0x05
  else d.takeBuf c c.len.toNat (fun bs =>
    match (List.range n).find? (fun i => !d.entryOk c.owner (a + i) (entryIn bs i)) with
    | some i => d.stop 0x07 i
    | none => (d.putEntries a bs).ok n)

/-- At most one step's bytes of a transfer, from byte `moved` on: what is left of `len`, at most 262,144 (R282). -/
def stepBytes (len moved : Nat) : Nat := min 262144 (len - moved)

/-- One step of a transfer of `bs` to the command's host buffer (R282), `moved` bytes into it; `result` is what it completes with. -/
def giveStep (d : Dev) (c : HostCmd) (bs : List Byte) (moved result : Nat) : Ran ⊕ (Dev × Nat) :=
  let k := stepBytes bs.length moved
  let n := d.dmaSpan c.fn.val (c.addr.toNat + moved) k true
  let d := d.hostGive c.fn.val (c.addr.toNat + moved) ((bs.drop moved).take n)
  if n < k then .inl ((d.dmaDenied c.fn.val).stop 0x0C (moved + n))
  else if bs.length ≤ moved + k then .inl (d.ok result)
  else .inr (d, moved + k)

/-- Run a stepped command to its end: `fuel` bounds the steps. -/
def allSteps (step : Dev → Nat → Ran ⊕ (Dev × Nat)) : Nat → Dev → Nat → Ran
  | 0, d, moved => d.ok moved
  | fuel + 1, d, moved =>
    match step d moved with
    | .inl r => r
    | .inr (d', m) => allSteps step fuel d' m

/-- One step of PROG_READ (R282, R471). -/
def progReadStep (d : Dev) (c : HostCmd) (moved : Nat) : Ran ⊕ (Dev × Nat) :=
  let s := d.progStatus c
  if s ≠ 0 then .inl (d.stop s)
  else
    let n := c.len.toNat / 16
    let ws := (List.range (4 * n)).map (fun i => SMap.get 0 d.prog (4 * c.p 0 + i))
    d.giveStep c (wordBytes ws) moved n

/-- PROG_READ (R471) as a whole. -/
def progRead (d : Dev) (c : HostCmd) : Ran := allSteps (fun d m => d.progReadStep c m) (c.len.toNat / 262144 + 2) d 0
/-- RELOAD (R69) as a whole. -/
def reload (d : Dev) (c : HostCmd) : Ran := allSteps (fun d k => d.reloadStep c k) ((d.banksOf (c.p 0)).length + 1) d 0

/-! ## Contexts (R122 to R128) -/

/-- The hot state returns to the start of the program (R284): PC takes START, and DEPTH, HELD, E and LAST_TREQ are cleared. -/
def resetPc (d : Dev) (c : Nat) : Dev :=
  let d := (d.setCtxFld c 2 0 20 (d.ctxFld c 1 0 20)).setCtxFld c 2 20 5 0
  (d.setCtx64 c 8 0).setCtx64 c 10 0

/-- A channel set is valid for an owner (R124): 1 to 16 channels of the owner, of one interpolation. -/
def setOk (d : Dev) (owner : Option Nat) (chs : List Nat) : Bool :=
  !chs.isEmpty && decide (chs.length ≤ 16) && chs.all (fun n => d.chOwner n == owner && d.fld (Reg.chn_CFG n) 4 4 == d.fld (Reg.chn_CFG (chs.headD 0)) 4 4)

/-- The channels that the CHSET words of a record image name. -/
def chsetOf (ws : List Word) : List Nat := (List.range 96).filter (fun n => bitsOf (ws.getD (44 + n / 32) 0).toNat (n % 32) 1 == 1)

/-- A context number is in range and its function may use it: the status, or 0. -/
def ctxStatus (d : Dev) (c : HostCmd) : Nat :=
  if 10240 ≤ c.p 0 then 0x02 else if !mayUse c (d.ctxOwner (c.p 0)) then 0x03 else 0

/-- Write a context's record from an image (R123, R284). -/
def putCtx (d : Dev) (x : Nat) (ws : List Word) (reset : Bool) : Dev :=
  let owner := d.ctxOwner x
  let free := d.ctxState x == 0
  let take (d : Dev) (i : Nat) : Dev := d.setCtxW x i (ws.getD i 0)
  let d := d.setCtxFld x 1 0 20 (ws.getD 1 0).toNat
  let d := ([4, 5] ++ (List.range 16).map (fun i => 12 + i) ++ [44, 45, 46] ++ (List.range 64).map (fun i => 64 + i)).foldl take d
  let d := ((d.setCtxState x 1).setCtxFld x 0 3 1 (if owner.isNone then 1 else 0)).setCtxFld x 0 4 4 (owner.getD 0)
  if reset || free then d.resetPc x else d

/-- CTX_WRITE (R122, R124, R284). -/
def ctxWrite (d : Dev) (c : HostCmd) : Ran :=
  let x := c.p 0
  let s := d.ctxStatus c
  if s ≠ 0 then d.stop s
  else if 1 < c.p 1 ∨ !c.aligned then d.stop 0x02
  else if 1 < d.ctxState x then d.stop 0x05
  else d.takeBuf c 1024 (fun bs =>
    let ws := leWords bs
    if !d.setOk (d.ctxOwner x) (chsetOf ws) then d.stop 0x08 else (d.putCtx x ws (c.p 1 == 1)).ok)

/-- CTX_READ (R284). -/
def ctxRead (d : Dev) (c : HostCmd) : Ran :=
  let s := d.ctxStatus c
  if s ≠ 0 then d.stop s
  else if !c.aligned then d.stop 0x02
  else d.giveBuf c (wordBytes ((List.range 256).map (fun i => d.storeW (c.p 0) i))) (d.ctxState (c.p 0))

/-- Clear a context's record: the context is FREE. -/
def freeCtx (d : Dev) (x : Nat) : Dev := { d with ctx := d.ctx.filter (fun p => p.1 / 256 != x) }

/-- CTX_CLEAR (R122): a READY context becomes FREE. Log entry 62, DEDUCED, unsafe. -/
def ctxClear (d : Dev) (c : HostCmd) : Ran :=
  let s := d.ctxStatus c
  if s ≠ 0 then d.stop s else if d.ctxState (c.p 0) ≠ 1 then d.stop 0x05 else (d.freeCtx (c.p 0)).ok

/-- The tiles that a context's channel set touches. -/
def ctxTiles (d : Dev) (c : Nat) : List Nat := (List.range 6).filter (fun t => (d.ctxChans c).any (fun n => n / 16 == t))

/-- Descriptors that no admitted context names on their tile leave its cache (R61). -/
def unlockDescs (d : Dev) : Dev :=
  let held : List (List Nat × List Nat) := d.adm.filterMap (fun p => p.2.map (fun r => (d.ctxTiles p.1, r.segs)))
  { d with descC := d.descC.filter (fun p => held.any (fun a => a.1.contains (p.1 / 2^16) && a.2.contains (p.1 % 2^16))) }

/-- An admitted context that does not run returns to READY, and what it alone held is free again (R61, R68, R75). -/
def releaseCtx (d : Dev) (x : Nat) : Dev :=
  let chs := d.ctxChans x
  let d := ({ (d.setCtxState x 1) with adm := SMap.set none d.adm x none }).unlockDescs
  chs.foldl (fun (d : Dev) (n : Nat) =>
    let live := (d.admList.filter (fun a => a.1.contains n)).flatMap (fun a => a.2)
    let kept := (d.chanOf n).resident.filter (fun r => live.contains r.seg)
    (d.updChan n (fun (h : Chan) => { h with resident := kept })).layRing d.admList n) d

/-- RELEASE (R75, R284). -/
def releaseC (d : Dev) (c : HostCmd) : Ran :=
  let x := c.p 0
  let s := d.ctxStatus c
  if s ≠ 0 then d.stop s
  else if d.ctxState x = 3 then d.stop 0x05
  else if d.ctxState x < 2 then d.ok
  else (d.releaseCtx x).ok

/-- The engine that CTX_START takes (R126): the named one or, for ANY, the lowest idle engine of the owner's reservation, and for the
physical function the lowest idle spare after those. -/
def startEngine (d : Dev) (owner : Option Nat) (p1 : Nat) : Option Nat :=
  if p1 = 0x40 then
    match (List.range 64).find? (fun e => d.engIdle e && !d.isSpare e && d.engOwner e == owner) with
    | some e => some e
    | none => if owner.isNone then (List.range 64).find? (fun e => d.engIdle e && d.isSpare e) else none
  else if d.engIdle p1 && d.engOwner p1 == owner then some p1 else none

/-- Start an admitted context (R126, R127, R133): status and RESULT. A set that has come to hold a channel of another owner is no valid set
(log entry 22, DEDUCED, unsafe). Without a current copy in S0 or S1 the context is staged into S1. Log entry 39, DEDUCED, unsafe. -/
def startCtx (d : Dev) (x p1 : Nat) : Ran :=
  let s := d.ctxState x
  let owner := d.ctxRecOwner x
  if d.dsafe ∨ !(s = 2 ∨ s = 4 ∨ s = 5) then d.stop 0x05
  else if (d.foreignChan x).isSome then d.stop 0x08
  else match d.startEngine owner p1 with
    | none => d.stop 0x09
    | some e =>
      match d.conflict x none with
      | some _ => d.stop 0x0A
      | none =>
        let y := d.engOf e
        let held0 := d.current y.s0 x
        let copy := if held0 then y.s0 else if d.current y.s1 x then y.s1 else some (d.fullCopy x (d.ctxFld x 0 16 8))
        let d := d.loadHot x copy
        let d := if s = 4 then d.resetPc x else d
        let left := if held0 then y.left else match copy with
          | some c => slotHolds y 1 c
          | none => y.left
        let d := d.updEng e (fun (y : Eng) => if held0 then { y with asleep := false, s0 := none } else { y with asleep := false, s1 := none, left := left })
        (d.switchIn e x 0).ok e

/-- CTX_START (R126). -/
def ctxStart (d : Dev) (c : HostCmd) : Ran :=
  let s := d.ctxStatus c
  if s ≠ 0 then d.stop s
  else if 0x40 < c.p 1 then d.stop 0x02
  else if c.p 1 < 0x40 ∧ !mayUse c (d.engOwner (c.p 1)) then d.stop 0x03
  else d.startCtx (c.p 0) (c.p 1)

/-- CTX_STOP (R128). -/
def ctxStop (d : Dev) (c : HostCmd) : Ran :=
  let s := d.ctxStatus c
  if s ≠ 0 then d.stop s else if 1 < c.p 1 then d.stop 0x02 else (d.stopCtx (c.p 0) (c.p 1 == 1)).ok (d.ctxPc (c.p 0))

/-! ## Engines (R121, R145) -/

/-- ENG_RETIRE (R145). -/
def engRetire (d : Dev) (c : HostCmd) : Ran :=
  let e := c.p 0
  if c.fn.val ≠ 0 then d.stop 0x04
  else if 64 ≤ e then d.stop 0x02
  else if d.bit (Reg.eng_STATUS e) 24 then d.ok 0xFFFFFFFE
  else match d.engCtx e with
    | none => (d.retire e []).ok 0xFFFFFFFE
    | some x => (d.retire e (d.excWords e x 0 0)).ok ((d.replacement e).getD 0xFFFFFFFF)

/-- ENG_RESTORE (R145): a retired engine that passes its full self-test joins the spare pool; whether it passes is a free value. -/
def engRestore (d : Dev) (c : HostCmd) : Ran :=
  let e := c.p 0
  if c.fn.val ≠ 0 then d.stop 0x04
  else if 64 ≤ e then d.stop 0x02
  else if !d.bit (Reg.eng_STATUS e) 24 then d.ok
  else
    let (v, d) := d.free
    if v % 2 = 0 then d.ok
    else
      let d := (d.setBit (Reg.eng_STATUS e) 24 false).setBit (Reg.pool_IN_SERVICE_LO + 4 * (e / 32)) (e % 32) true
      (d.setEngOwner e none true).ok

/-- A byte of an engine bank (R121): the microcode slots as loaded, the record of the running context or what is left of the one before, what
staging copied last (R130: the words of the record, and after them the entries), and the saved exception record. The rest, of which the spec
gives no layout, is zero until a context is bound (R297), and free from then on. Log entry 23, DEDUCED, unsafe. -/
def bankByte (d : Dev) (e off i : Nat) : Byte :=
  let any : Byte := BitVec.ofNat 8 (Config.freeWord (d.freeCtr + i)).toNat
  let word (w : Word) (k : Nat) : Byte := BitVec.ofNat 8 (w.toNat / 256 ^ k)
  let x := d.engOf e
  let left (k o : Nat) : Byte := word ((SMap.get [] x.left k).getD (o / 4) 0) (o % 4)
  if off < 0x20000 then SMap.get 0 d.bank (e * 2^18 + off)
  else if off < 0x20400 then (match d.engCtx e with
    | some c => word (d.ctxW c ((off - 0x20000) / 4)) (off % 4)
    | none => left 0 (off - 0x20000))
  else if off < 0x20800 then left 1 (off - 0x20400)
  else if off < 0x20C00 then left 2 (off - 0x20800)
  else if 0x21400 ≤ off ∧ off < 0x21420 then word (x.saved.getD ((off - 0x21400) / 4) 0) (off % 4)
  else if x.used then any
  else 0

/-- ENG_BANK_READ (R121, R284). -/
def engBankRead (d : Dev) (c : HostCmd) : Ran :=
  let e := c.p 0
  let off := c.p 1
  let len := c.len.toNat
  if 64 ≤ e ∨ off % 8 ≠ 0 ∨ len % 8 ≠ 0 ∨ 2^18 < off + len ∨ !c.aligned then d.stop 0x02
  else if !mayUse c (d.engOwner e) then d.stop 0x03
  else
    let bs := (List.range len).map (fun i => d.bankByte e (off + i) i)
    let d := { d with freeCtr := d.freeCtr + len }
    (d.updEng e (fun (x : Eng) => { x with asleep := false })).giveBuf c bs len

/-! ## Captures (R262) -/

/-- The samples of capture `k`'s kept record. -/
def capKept (d : Dev) (k : Nat) : Nat := d.rdN (Reg.cap_PRE_ACT k) + d.rd64 (Reg.cap_POST_ACT_LO k)

/-- The kept record of capture `k`, in time order from its first sample. -/
def capRecord (d : Dev) (k : Nat) : List Byte :=
  let c := d.capOf k
  let cap := max 1 c.capacity
  let s := d.rd64 (Reg.cap_START_LO k)
  (List.range (d.capKept k)).flatMap (fun i =>
    let o := (s + i) % cap * c.width
    if c.target = 0 then SMap.bytes 0 d.capBuf (k * 2^20 + o) c.width else d.dramRead (c.base + o) c.width)

/-- `n` bytes of capture `k`'s record from byte `from_` on are read from its DRAM ring. -/
def capServed (d : Dev) (k from_ n : Nat) : Dev :=
  let c := d.capOf k
  let size := max 1 c.capacity * c.width
  let at_ := (d.rd64 (Reg.cap_START_LO k) * c.width + from_) % size
  let one := min n (size - at_)
  (d.served false (c.base + at_) one).served false c.base (n - one)

/-- The first byte of capture `k`'s record, among `n` from byte `from_` on, that an uncorrectable codeword of its DRAM ring holds, and that
codeword (R283). -/
def capBad (d : Dev) (k from_ n : Nat) : Option (Nat × Nat × Nat × Nat) :=
  let c := d.capOf k
  let size := max 1 c.capacity * c.width
  let at_ := (d.rd64 (Reg.cap_START_LO k) * c.width + from_) % size
  let one := min n (size - at_)
  match d.badIn (c.base + at_) one with
  | some q => some (q.1 * 128 - (c.base + at_), q)
  | none => (d.badIn c.base (n - one)).map (fun q => (one + (q.1 * 128 - c.base), q))

/-- One step of CAP_READ (R262, R282). -/
def capReadStep (d : Dev) (c : HostCmd) (moved : Nat) : Ran ⊕ (Dev × Nat) :=
  let k := bitsOf (c.p 0) 0 3
  let log := bitsOf (c.p 0) 8 1 == 1
  if c.p 0 / 2^9 ≠ 0 ∨ bitsOf (c.p 0) 3 5 ≠ 0 ∨ 6 ≤ k ∨ !c.aligned then .inl (d.stop 0x02)
  else if !mayUse c (d.mdOwner k) then .inl (d.stop 0x03)
  else if d.capState k = 1 ∨ d.capState k = 2 then .inl (d.stop 0x05)
  else if !log && (d.capOf k).target == 1 && d.dramDown then .inl (d.stop 0x10 moved)
  else
    let bs := if log then SMap.bytes 0 d.capBuf (logBase k) (16 * d.fld (Reg.cap_LOG_N k) 0 9) else d.capRecord k
    let bs := bs.take c.len.toNat
    let inDram := !log && (d.capOf k).target == 1
    match if inDram then d.capBad k moved (stepBytes bs.length moved) else none with
    | some (n, q) =>
      let d := d.capServed k moved n
      let d := d.hostGive c.fn.val (c.addr.toNat + moved) ((bs.drop moved).take (d.dmaSpan c.fn.val (c.addr.toNat + moved) n true))
      .inl ((d.freezeAt 6 false q).stop 0x11 (moved + n))
    | none => (if inDram then d.capServed k moved (stepBytes bs.length moved) else d).giveStep c bs moved bs.length

/-- CAP_READ (R262) as a whole. -/
def capReadC (d : Dev) (c : HostCmd) : Ran := allSteps (fun d m => d.capReadStep c m) (c.len.toNat / 262144 + 2) d 0

/-! ## Transfers (R285) -/

/-- One step of MEM_WRITE (R282, R285), `moved` bytes into it: the device and the bytes moved now, or how the command ends. -/
def memWriteStep (d : Dev) (c : HostCmd) (moved : Nat) : Ran ⊕ (Dev × Nat) :=
  let a := c.p64 0
  let len := c.len.toNat
  let s := d.rangeStatus c a len 64
  if !c.aligned then .inl (d.stop 0x02)
  else if s ≠ 0 then .inl (d.stop s moved)
  else
    let k := stepBytes len moved
    let n := d.dmaSpan c.fn.val (c.addr.toNat + moved) k false
    let put (d : Dev) (n : Nat) : Dev := d.writeDram (a + moved) (d.hostBytes (c.addr.toNat + moved) n)
    if k ≤ n ∧ d.host.rdErr then .inl d.dmaError
    else match d.badPart (a + moved) n with
    | some q =>
      let n := q.1 * 128 - (a + moved)
      .inl (((put d n).freezeAt 6 true q).stop 0x11 (moved + n))
    | none =>
    let d := put d n
    if n < k then .inl ((d.dmaDenied c.fn.val).stop 0x0C (moved + n))
    else if moved + k = len then .inl (d.ok len)
    else .inr (d, moved + k)

/-- One step of MEM_READ (R282, R285). -/
def memReadStep (d : Dev) (c : HostCmd) (moved : Nat) : Ran ⊕ (Dev × Nat) :=
  let a := c.p64 0
  let len := c.len.toNat
  let s := d.rangeStatus c a len 64
  if !c.aligned then .inl (d.stop 0x02)
  else if s ≠ 0 then .inl (d.stop s moved)
  else
    let k := stepBytes len moved
    let n := d.dmaSpan c.fn.val (c.addr.toNat + moved) k true
    let give (d : Dev) (n : Nat) : Dev := (d.served false (a + moved) n).hostGive c.fn.val (c.addr.toNat + moved) (d.dramRead (a + moved) n)
    match d.badIn (a + moved) n with
    | some q =>
      let n := q.1 * 128 - (a + moved)
      .inl (((give d n).freezeAt 6 false q).stop 0x11 (moved + n))
    | none =>
    let d := give d n
    if n < k then .inl ((d.dmaDenied c.fn.val).stop 0x0C (moved + n))
    else if moved + k = len then .inl (d.ok len)
    else .inr (d, moved + k)

/-- MEM_WRITE as a whole. -/
def memWrite (d : Dev) (c : HostCmd) : Ran := allSteps (fun d m => d.memWriteStep c m) (c.len.toNat / 262144 + 2) d 0
/-- MEM_READ as a whole. -/
def memRead (d : Dev) (c : HostCmd) : Ran := allSteps (fun d m => d.memReadStep c m) (c.len.toNat / 262144 + 2) d 0

/-- WIPE (R285, R324). -/
def wipe (d : Dev) (c : HostCmd) : Ran :=
  let a := c.p64 0
  let len := c.p64 2
  let s := d.rangeStatus c a len (2^20)
  if s ≠ 0 then d.stop s else (d.unwipe (a / 2^20) (len / 2^20)).ok (len / 2^20)

end Dev
end Sys2Proof.Machine
end

