-- ==== Sys2Proof/Machine/Admission.lean ====
section
/-! DEFINITION. Admission (R75 to R83, R118, R131, R138, R144, R225): walking the programs of a set of contexts, every check, the
report, and what an admitted context then holds. -/
namespace Sys2Proof.Machine

/-- A failed check (R82): code, kind and number of the object, what is needed and what is there. -/
structure Miss where
  check : Nat
  kind  : Nat
  obj   : Nat
  need  : Nat
  got   : Nat
deriving DecidableEq, Repr

/-- A record when the need exceeds what is there. -/
def missIf (check kind obj : Nat) (need got : Int) : List Miss :=
  if got < need then [⟨check, kind, obj, need.toNat, got.toNat⟩] else []

/-- Keep one record of each check and object, the one that lacks most (R82). -/
def worst (l : List Miss) : List Miss :=
  let same (x y : Miss) : Bool := x.check == y.check && x.kind == y.kind && x.obj == y.obj
  l.foldl (fun (acc : List Miss) (x : Miss) =>
    match acc.find? (same x) with
    | some y => if y.need - y.got < x.need - x.got then acc.map (fun z => if same x z then x else z) else acc
    | none => acc ++ [x]) []

/-- Walk every path of a program from address `a` in state `s`. `visit` gives the records of an entry and where the path goes on, with
its state; a path ends where it leaves the store or comes back to an address in a state that an earlier visit of the same path `covers`: nothing
that follows can then lack more than it did after that visit. `fuel` bounds the length of a path. Log entry 41, DEDUCED, unsafe. -/
def walk {σ : Type} (covers : σ → σ → Bool) (visit : Nat → σ → List Miss × List (Nat × σ)) :
    Nat → List (Nat × σ) → Nat → σ → List Miss
  | 0, _, _, _ => []
  | fuel + 1, seen, a, s =>
    if 2^20 ≤ a ∨ seen.any (fun p => p.1 == a && covers p.2 s) then []
    else
      let r := visit a s
      r.1 ++ r.2.flatMap (fun p => walk covers visit fuel ((a, s) :: seen) p.1 p.2)

/-- The addresses that control can reach (R100, R103, R115): `todo` is to be visited, `seen` has been. -/
def reachFrom (succ : Nat → List Nat) : Nat → List Nat → List Nat → List Nat
  | 0, _, seen => seen
  | _, [], seen => seen
  | fuel + 1, a :: todo, seen =>
    if 2^20 ≤ a ∨ seen.contains a then reachFrom succ fuel todo seen else reachFrom succ fuel (succ a ++ todo) (a :: seen)

namespace Dev

/-! ## A program's shape -/

def opAt (d : Dev) (a : Nat) : Nat := ent (d.entryAt a) 0 0 4
def baseAt (d : Dev) (a : Nat) : Nat := ent (d.entryAt a) 0 4 2
def waitsAt (d : Dev) (a : Nat) : Bool := ent (d.entryAt a) 0 6 4 != 0

/-- A loop that a path is in: the first address of its body, the passes it has left, counting this one, and, where its passes are not known,
the path's balance when this one began. -/
abbrev LoopAt := Nat × Nat × Option Int

/-- The loops of a program that end at address `b`: the first address of the body, and the passes that may follow one of them. -/
def loopsTo (d : Dev) (prog : List Nat) (b : Nat) : List (Nat × Nat) :=
  (prog.filter (fun a => d.opAt a == 3 && ent (d.entryAt a) 0 12 20 == b)).map (fun a =>
    (a + 1, if ent (d.entryAt a) 0 11 1 = 1 then 2^32 - 1 else ent (d.entryAt a) 3 0 32 - 1))

/-- Where control goes from the entry at `a` in the loops `loops` (R100, R103, R115). A loop that a register counts has up to `cap` passes, of
which another follows where `again` the balance with which the last began says so; an entry inside a loop whose LOOP the path has not met may be
in any of its passes. -/
def flow (d : Dev) (prog : List Nat) (cap : Nat) (bal : Int) (again : Int → Bool) (a : Nat) (loops : List LoopAt) : List (Nat × List LoopAt) :=
  let n := d.entryAt a
  match ent n 0 0 4 with
  | 0 => []
  | 3 =>
    let skip : Nat × List LoopAt := (ent n 0 12 20 + 1, loops)
    let enter (k : Nat) (m : Option Int) : List (Nat × List LoopAt) := if loops.length < 8 then [(a + 1, (a + 1, k, m) :: loops)] else []
    if ent n 0 11 1 = 1 then skip :: enter cap (some bal) else if ent n 3 0 32 = 0 then [skip] else enter (min cap (ent n 3 0 32)) none
  | 4 =>
    match loops with
    | [] => (a + 1, []) :: ((d.loopsTo prog a).filter (fun p => decide (0 < p.2))).map (fun p => (p.1, [(p.1, min cap p.2, some bal)]))
    | (body, k, none) :: rest => if 1 < k then [(body, (body, k - 1, none) :: rest)] else [(a + 1, rest)]
    | (body, k, some v) :: rest => (a + 1, rest) :: (if 1 < k && again v then [(body, (body, k - 1, some bal) :: rest)] else [])
  | 5 => (ent n 1 0 20, loops.drop (ent n 0 17 3)) :: (if ent n 0 11 3 = 0 then [] else [(a + 1, loops)])
  | _ => [(a + 1, loops)]

/-- The loops in which a context stands, as its record holds them (R103, R123). -/
def loopsOf (d : Dev) (c : Nat) : List LoopAt :=
  let n := d.ctxFld c 2 20 4
  (List.range n).map (fun i => (d.ctxFld c (29 + 2 * (n - 1 - i)) 0 20, (d.ctxW c (28 + 2 * (n - 1 - i))).toNat, none))

/-- Where control may go from the entry at `a`; the way back of a NEXT leads to addresses already met. -/
def succs (d : Dev) (a : Nat) : List Nat :=
  let n := d.entryAt a
  match ent n 0 0 4 with
  | 0 => []
  | 3 =>
    let byReg := ent n 0 11 1 == 1
    (if byReg || ent n 3 0 32 != 0 then [a + 1] else []) ++ (if byReg || ent n 3 0 32 == 0 then [ent n 0 12 20 + 1] else [])
  | 5 => ent n 1 0 20 :: (if ent n 0 11 3 = 0 then [] else [a + 1])
  | _ => [a + 1]

/-- The program of a context: what START and PC reach (R61, R122). -/
def program (d : Dev) (c : Nat) : List Nat := reachFrom d.succs (2^22) [d.ctxFld c 1 0 20, d.ctxPc c] []

/-- The numbers of the declared range of the PLAY at `a` (R106). Log entry 40, DESIGN CHOICE, unsafe. -/
def declared (d : Dev) (a k : Nat) : List Nat :=
  let n := d.entryAt a
  let width := (if ent n 0 11 1 = 1 then 2 ^ ent n 0 28 4 else 1) + (if ent n 1 31 1 = 1 then k - 1 else 0)
  (List.range width).map (fun i => ent n 1 0 16 + i)

/-- The launch inputs that belong to a context (R225). -/
def liOf (d : Dev) (c : Nat) : List Nat := (List.range 48).filter (fun k => d.bit (Reg.li_CFG k) 14 && d.fld (Reg.li_CFG k) 0 14 == c)

/-- What a context's program can name (R61, R75, R88, R106, R225). -/
def admRecOf (d : Dev) (c : Nat) : AdmRec :=
  let addrs := d.program c
  let k := (d.ctxChans c).length
  let plays := addrs.filter (fun a => d.opAt a == 1)
  let segs := ((plays.flatMap (fun a => d.declared a k)).filter (fun s => decide (s < 2^16)) ++ (d.liOf c).map (fun l => d.fld (Reg.li_SEG l) 0 16)).eraseDups
  let fixed := addrs.filterMap (fun a => let n := d.entryAt a
    if d.opAt a = 7 then some (ent n 1 0 5) else if d.opAt a = 1 ∧ ent n 1 20 1 = 1 then some (ent n 1 21 5) else none)
  let ofSegs := if (d.liOf c).isEmpty && plays.all (fun a => ent (d.entryAt a) 1 20 1 == 1) then [] else segs.filterMap (fun s =>
    let w := d.chDesc ((d.ctxChans c).headD 0) s
    if dKind w = 2 then some (dfld w 3 12 5) else if dKind w = 1 ∧ dCplx w then some 0 else none)
  { segs := segs, addrs := addrs, frames := (fixed ++ ofSegs).eraseDups, hasSw := addrs.any (fun a => d.opAt a == 11) }

/-- The duration an entry gives its path (R108, R110): of a PLAY that a register chooses the shortest of its declared range. -/
def spanAt (d : Dev) (c a : Nat) : Nat :=
  let n := d.entryAt a
  if d.opAt a = 2 then ent n 3 0 32
  else if d.opAt a = 1 then
    let chs := d.ctxChans c
    let one (x : Nat) : Nat := (chs.zipIdx).foldl (fun (m : Nat) (p : Nat × Nat) =>
      max m (dLen (d.chDesc p.1 (ent n 1 0 16 + x + (if ent n 1 31 1 = 1 then p.2 else 0))) * d.chI p.1)) 0
    let xs := (List.range (if ent n 0 11 1 = 1 then 2 ^ ent n 0 28 4 else 1)).map one
    xs.foldl min (xs.headD 0) * (ent n 0 12 16 + 1)
  else 0

/-! ## dl_min (R30) -/

/-- The event channels that task input `i` selects. -/
def channelsOf (d : Dev) (i : Nat) : List Nat :=
  let s := (d.eff (Reg.tin_SEL i)).toNat
  (if bitsOf s 8 1 = 1 then [bitsOf s 0 8] else []) ++ (if bitsOf s 18 1 = 1 then [bitsOf s 10 8] else [])

/-- The sources that event channel `n` selects (R211). -/
def sourcesOf (d : Dev) (n : Nat) : List Nat :=
  let cfg := (d.eff (Reg.ec_CFG n)).toNat
  let ctl := (d.eff (Reg.ec_CTL n)).toNat
  [(10, bitsOf cfg 0 10), (11, bitsOf cfg 10 10), (12, bitsOf cfg 20 10), (13, bitsOf ctl 0 10)].filterMap (fun p => if bitsOf ctl p.1 1 = 1 then some p.2 else none)

/-- The most hops an EVENT frame can take to this device (R46). Log entry 40, DESIGN CHOICE, unsafe. -/
def maxHops (d : Dev) : Nat :=
  let n := d.devCount
  if !d.bit Reg.link_STATUS 8 then 0 else if d.ringUp then n / 2 else max d.devNum (n - 1 - d.devNum)

/-- The hops on the path to event channel `n`: of a source that a remote endpoint open to the link fires (R30, R231). -/
def hopsOf (d : Dev) (n : Nat) : Nat :=
  if (d.sourcesOf n).any (fun s => decide (986 ≤ s ∧ s ≤ 1001) && (List.range 4096).any (fun e =>
      let x := d.rdN (Reg.ep_EP e)
      bitsOf x 0 4 == s - 986 && bitsOf x 4 1 == 1 && bitsOf x 6 1 == 1)) then d.maxHops else 0

/-- The event channel and link terms of R30 for inputs that any of `tins` may be: the largest. -/
def pathTerm (d : Dev) (tins : List Nat) : Nat :=
  (tins.flatMap d.channelsOf).foldl (fun m n => max m (16 * d.ecDelay n + d.hopsOf n * d.nsToT 40)) 0

/-- dl_min without its wake term. -/
def dlMin (d : Dev) (base lp : Nat) (tins : List Nat) : Nat := base + 16 * (lp - 8) + d.pathTerm tins

/-- The longest pipeline of a context's set. -/
def ctxPipe (d : Dev) (c : Nat) : Nat := (d.ctxChans c).foldl (fun m n => max m (d.lPipe n)) 8

/-- The wake of a bank of the set that may be in retention when the context is bound (R67). Log entry 42, DEDUCED, unsafe. -/
def bankWakeT (d : Dev) (c : Nat) : Nat :=
  if (d.ctxChans c).any (fun n => d.scState n == 1 || (bitsOf (d.pwrNow Reg.pwr_RET) 1 1 == 1 && !d.isClaimed n)) then d.nsToT 200 else 0

/-- The wake of a tile of the set that a launch could fall within (R373): 20 µs while a channel settles; for a switch-in, 2 ticks of a tile
that is not ON. CTX_START ungates a tile before the engine's first issue. Log entry 42, DEDUCED, unsafe. -/
def tileWakeT (d : Dev) (c : Nat) (sw : Bool) : Nat :=
  if (d.ctxChans c).any (fun n => (d.chanOf n).settle.isSome) then d.nsToT 20000
  else if sw && (d.ctxChans c).any (fun n => !d.bit Reg.pwr_STATUS (12 + n / 16)) then 32 else 0

/-! ## ISSUE_RATE, STORE_WAIT, EVENT_LATENCY and WAKE (R80, R118, R131, R138) -/

/-- A pass of a loop: its slots and durations so far, and the inner loops it is in. -/
abbrev Pass := Nat × Nat × Nat

/-- The pace of the body of the LOOP at `a` (R118): every path of a pass to its NEXT that does not wait and does not leave the loop by a POP, on
whatever addresses it runs. A path that comes round again with a better balance is not followed further. Log entry 41, DEDUCED, unsafe. -/
def pace (d : Dev) (c a : Nat) : List Miss :=
  let bal (s : Pass) : Int := (s.2.1 : Int) - (32 * s.1 : Nat)
  walk (fun (old s : Pass) => old.2.2 == s.2.2 && decide (bal old ≤ bal s)) (fun b s =>
    let n := d.entryAt b
    let slots := s.1 + 1
    let dur := s.2.1 + d.spanAt c b
    let on_ (depth : Nat) (t : Nat) : Nat × Pass := (t, (slots, dur, depth))
    if d.waitsAt b ∨ bal s < -(2^33 : Nat) then ([], [])
    else match d.opAt b with
      | 3 => ([], (d.succs b).map (fun t => on_ (if t = b + 1 then s.2.2 + 1 else s.2.2) t))
      | 4 => if s.2.2 = 0 then (missIf 0x0A 3 c (32 * slots : Nat) dur, []) else ([], [on_ (s.2.2 - 1) (b + 1)])
      | 5 =>
        let pop := ent n 0 17 3
        ([], (if pop ≤ s.2.2 then [on_ (s.2.2 - pop) (ent n 1 0 20)] else []) ++ (if ent n 0 11 3 = 0 then [] else [on_ s.2.2 (b + 1)]))
      | _ => ([], (d.succs b).map (on_ s.2.2))) (2^40) [] (a + 1) (0, 0, 0)

/-- A path in a lead window: the slack of its launching entry w once that is met, m, d_before, the lines it had to fetch, sel, and its loops. -/
structure Lead where
  slack : Option Int
  m     : Nat
  dur   : Nat
  lines : List Nat
  sel   : Nat
  loops : List LoopAt := []
deriving DecidableEq, Repr

/-- The PLAY at `a` can read a segment-cache bank: a segment that it names is stored. -/
def readsBank (d : Dev) (c a : Nat) : Bool :=
  d.opAt a == 1 && (d.declared a (d.ctxChans c).length).any (fun s => (d.ctxChans c).any (fun n => dKind (d.chDesc n s) == 1))

/-- A need and what is there, reported for every launch or input whose declared latency `dl` a path minimum bounds (R30, R80): `early` is dl_min without a
wake, `bank` and `wake` the wakes of R67 and of R67 and R373. -/
def latencyMiss (kind obj c early bank wake dl : Nat) : List Miss :=
  missIf 0x0C kind obj (early + bank : Nat) dl ++ (if wake = 0 then [] else missIf 0x0D 3 c (early + wake : Nat) dl)

/-- The lead window that a release opens at `o` in the loops `loops` (R118, R131, R138): `early` is dl_min before any wake, `bank` the wake of
a bank for a launch that reads one (R67), `tile` that of R373; `sw` says that it is a switch-in, after which the engine holds the 16 staged
entries and not whole lines (R137). A path ends at the first entry that fails, and one that comes back to an address goes on while it has lost
ground since (R118). Log entry 41, DEDUCED, unsafe. -/
def lead (d : Dev) (prog : List Nat) (c o early bank tile : Nat) (sw : Bool) (loops : List LoopAt) : List Miss :=
  let near := (List.range 16).map (fun i => (if sw then o else o / 8 * 8) + i)
  let targets := (near.filter (fun a => d.opAt a == 5)).map (fun a => ent (d.entryAt a) 1 0 20 / 8)
  let holds (a : Nat) : Bool := near.contains a || targets.contains (a / 8)
  let sel (s : Lead) : Nat := d.nsToT 67 * s.sel
  let test (s : Lead) (a : Nat) (slack : Int) : List Miss :=
    let stage := if d.opAt a = 11 then 10000 else 0
    let have_ : Int := s.dur + slack
    let need : Int := (32 * s.m + stage : Nat)
    let more := d.ceilFdc (69 * 8) 10000000 * s.lines.eraseDups.length + sel s
    if have_ < need then missIf 0x0A 3 c need have_ else missIf 0x0B 3 c (need + (more : Nat)) have_
  let on_ (s : Lead) (a : Nat) : List (Nat × Lead) :=
    let bal : Int := (s.dur : Int) - (32 * s.m + sel s : Nat)
    (d.flow prog (2^32 - 1) bal (fun v => decide (bal < v)) a s.loops).map (fun p => (p.1, { s with loops := p.2 }))
  let bal (s : Lead) : Int := (s.dur : Int) + s.slack.getD 0 - (32 * s.m + sel s : Nat)
  let lines (s : Lead) : Nat := d.ceilFdc (69 * 8) 10000000 * s.lines.eraseDups.length
  let covers (old s : Lead) : Bool :=
    old.loops == s.loops && old.slack.isSome == s.slack.isSome && decide (old.dur + old.slack.getD 0 - 32 * old.m ≤ s.dur + s.slack.getD 0 - 32 * s.m) &&
    decide (bal old - lines old ≤ bal s - lines s)
  let found := walk covers (fun a s =>
    let n := d.entryAt a
    let first := a == o && s.m == 0 && s.slack.isNone
    if (d.waitsAt a && !(first && !sw)) || (s.slack.isNone && decide (2^27 < s.m)) || decide (bal s < -(2^33 : Nat)) then ([], [])
    else
      let s := if holds a then s else { s with lines := a / 8 :: s.lines }
      if launching n then
        let dur := d.spanAt c a
        let go (s : Lead) (bad : List Miss) : List (Nat × Lead) := if d.opAt a = 11 ∨ !bad.isEmpty then [] else on_ { s with dur := s.dur + dur } a
        match s.slack with
        | none =>
          if d.baseAt a ≠ 3 then ([], [])
          else
            let dl := ent n 2 0 32
            let bank := if d.readsBank c a then bank else 0
            let slack : Int := (dl : Int) - (early + bank : Nat)
            let s := { s with slack := some slack }
            let bad := test s a slack
            (latencyMiss 3 c c early bank (max bank tile) dl ++ bad, go s bad)
        | some slack =>
          if d.baseAt a ≠ 0 then ([], [])
          else
            let s := { s with m := s.m + 1, sel := s.sel + (if d.opAt a = 1 ∧ ent n 0 11 1 = 1 then 1 else 0) }
            let bad := test s a slack
            (bad, go s bad)
      else ([], on_ (if first && d.opAt a == 5 && !sw then s else { s with m := s.m + 1 }) a)) (2^40) [] o ⟨none, 0, 0, [], 0, loops⟩
  if found.any (fun m => m.check == 0x0A) then found.filter (fun m => m.check != 0x0B) else found

/-- The REL_EVT launching entries that can use a release taken by a BR without a wait, from its target `a` on: the first launching entry of each
path that does not wait before it (R98). Such a release opens no window, and only the entry that uses it is tested, a SWITCH with the time of its
staging (R30, R131): `early`, `bank` and `wake` are those of the BR. Log entry 78, DEDUCED, unsafe. -/
def jumpTest (d : Dev) (c a early bank wake : Nat) : List Miss :=
  walk (fun (old m : Nat) => decide (m ≤ old)) (fun b m =>
    let n := d.entryAt b
    if d.waitsAt b ∨ 2^27 < m then ([], [])
    else if launching n then
      (if d.baseAt b ≠ 3 then []
       else
        let dl := ent n 2 0 32
        let bank := if d.readsBank c b then bank else 0
        latencyMiss 3 c c early bank (max bank wake) dl ++
        (if d.opAt b = 11 then missIf 0x0A 3 c (32 * m + 10000 : Nat) ((dl : Int) - (early + bank : Nat)) else []), [])
    else ([], (d.succs b).map (fun t => (t, m + 1)))) (2^28) [] a 0

/-- A path outside a lead window (R80, R131): the durations since the last wait or the start, at most 31; the loops it is in; whether a release is held and whether it is inside a window; and the channels of the set, by position, that played
a streamed segment just before. `byWait` says that a release a wait took, or that of a switch-in, is the one held: only such a release opens a
window (R118). -/
structure Chain where
  durs  : List Nat
  loops : List LoopAt
  held  : Bool
  win   : Bool
  prev  : List Bool
  byWait : Bool
deriving DecidableEq, Repr

/-- Whether whatever a PLAY chooses for each channel of the set is streamed. -/
def streamsAt (d : Dev) (c a : Nat) : List Bool :=
  let n := d.entryAt a
  let xs := List.range (if ent n 0 11 1 = 1 then 2 ^ ent n 0 28 4 else 1)
  ((d.ctxChans c).zipIdx).map (fun p => xs.all (fun x => dStreamed (d.chDesc p.1 (ent n 1 0 16 + x + (if ent n 1 31 1 = 1 then p.2 else 0)))))

/-- The head that a streamed segment of a PLAY with `lead_` tDC of lead needs on each channel that no stream precedes (R80). Log entry 23, DEDUCED, unsafe. -/
def prefill (d : Dev) (adms : List (List Nat × List Nat)) (low : Nat → Nat) (c : Nat) (segsFor : Nat → List Nat) (lead_ : Int) (prev : List Bool) : List Miss :=
  ((d.ctxChans c).zipIdx).flatMap (fun p =>
    let r := d.charge adms p.1
    if r = 0 ∨ prev.getD p.2 false then []
    else
      let t := d.nsToT (1000 + ceilDiv (low p.1 * 4096000) r)
      let need : Nat := if (t : Int) ≤ lead_ then 0 else ceilDiv (((t : Int) - lead_).toNat * r * 1000 * d.activeSet.scale) (d.activeSet.vco d.fref)
      (segsFor p.2).flatMap (fun s => if dStreamed (d.chDesc p.1 s) then missIf 0x05 4 s need (dHead (d.chDesc p.1 s) * 4096 : Nat) else []))

/-- The chains of PREFILL and the SWITCH entries outside every lead window, from address `a` in the loops `loops` (R80, R131). An ABS launch has no
chain before it and is not tested (log entry 78, DEDUCED, unsafe). No more than 33 passes of a loop matter to the last 31 entries. Log entry 41, DEDUCED, unsafe. -/
def chains (d : Dev) (adms : List (List Nat × List Nat)) (low : Nat → Nat) (prog : List Nat) (c a : Nat) (held : Bool) (loops : List LoopAt) : List Miss :=
  let recent (l : List Nat) : List Nat := l.drop (l.length - 31)
  walk (fun (old s : Chain) => decide (old = s)) (fun a s =>
    let n := d.entryAt a
    let s := if d.waitsAt a then { s with durs := [], held := true, byWait := true, win := false, prev := [] } else s
    let base := d.baseAt a
    if launching n then
      let win := if base = 3 then s.byWait else if base = 0 then s.win else false
      let total : Nat := s.durs.foldl (fun (x y : Nat) => x + y) 0
      if d.opAt a = 11 then
        (if base = 0 ∧ !s.win then missIf 0x0A 3 c (32 * (s.durs.length + 1) + 10000 : Nat) total else [],
          [(a + 1, { s with durs := [], held := false, win := false, prev := [] })])
      else
        let range (j : Nat) : List Nat :=
          (List.range (if ent n 0 11 1 = 1 then 2 ^ ent n 0 28 4 else 1)).map (fun x => ent n 1 0 16 + x + (if ent n 1 31 1 = 1 then j else 0))
        let fails :=
          if d.opAt a ≠ 1 ∨ base = 1 then []
          else if base = 3 then d.prefill adms low c range ((ent n 2 0 32 : Int) - 112 - (16 * d.ctxPipe c : Nat)) []
          else d.prefill adms low c range (total : Nat) (if base = 0 then s.prev else [])
        let span := d.opAt a == 1 || d.opAt a == 2
        let s := { s with win := win, held := false, durs := if span then recent (s.durs ++ [d.spanAt c a]) else s.durs,
                          prev := if d.opAt a = 1 then d.streamsAt c a else if d.opAt a = 2 then [] else s.prev }
        (fails, [(a + 1, s)])
    else
      let taken := d.opAt a == 5 && ent n 0 11 3 == 1
      ([], (d.flow prog 33 0 (fun _ => true) a s.loops).map (fun p =>
        (p.1, { s with loops := p.2, held := s.held || (taken && p.1 == ent n 1 0 20), byWait := s.byWait && !(taken && p.1 == ent n 1 0 20) })))) (2^40) [] a ⟨[], loops, held, false, [], held⟩

/-- The waits that may release a context's first launch after it is bound: no launch stands before them on some path. Log entry 42, DEDUCED, unsafe. -/
def firstWaits (d : Dev) (c : Nat) : List Nat :=
  reachFrom (fun a => if launching (d.entryAt a) then [] else d.succs a) (2^22) [d.ctxPc c] []

/-- The engines that an owner may run a context on. -/
def enginesOf (d : Dev) (o : Option Nat) : List Nat :=
  (List.range 64).filter (fun e => !d.bit (Reg.eng_STATUS e) 24 && d.engOwner e == o)

/-- The engines whose switch input names a context, in force or as written (R130, R132). Log entry 42, DEDUCED, unsafe. -/
def switchersOf (d : Dev) (c : Nat) : List Nat :=
  (d.enginesOf (d.ctxRecOwner c)).filter (fun e =>
    d.bit (Reg.eng_SW_CFG e) 16 && (d.fld (Reg.eng_SW_CFG e) 0 14 == c || d.effFld (Reg.eng_SW_CFG e) 0 14 == c))

/-- The frame inputs that select an event channel and act on channels of a context, each with the longest pipeline among the channels of its
CHSET, and the load strobes that do so of groups that hold one of them, on the fastest path (R221). Log entry 42, DEDUCED, unsafe. -/
def feeding (d : Dev) (c : Nat) : List (Nat × Nat) :=
  let chs := d.ctxChans c
  let setOf (k : Nat) : List Nat := (List.range 96).filter (fun n => bitsOf (d.eff (Reg.fi_CHSET k (n / 32))).toNat (n % 32) 1 == 1)
  let selects (i : Nat) : Bool := d.effFld (Reg.tin_SEL i) 8 1 == 1 || d.effFld (Reg.tin_SEL i) 18 1 == 1
  ((List.range 32).filter (fun k => selects (368 + k) && (setOf k).any chs.contains)).map (fun k =>
    (368 + k, (setOf k).foldl (fun m n => max m (d.lPipe n)) 8)) ++
  ((List.range 16).filter (fun g => selects (400 + g) && !d.fromPin g && (d.members g).any chs.contains)).map (fun g => (400 + g, 8))

/-- The checks of one context's program. A lead window opens at a wait (R118): a release that a BR takes without one opens none. Log entry 78,
DEDUCED, unsafe. -/
def ctxChecks (d : Dev) (adms : List (List Nat × List Nat)) (low : Nat → Nat) (c : Nat) : List Miss :=
  let prog := d.program c
  let k := (d.ctxChans c).length
  let lp := d.ctxPipe c
  let engs := match d.ctxEng c with
    | some e => [e]
    | none => d.enginesOf (d.ctxRecOwner c)
  let first := d.firstWaits c
  let top := (prog.filter (fun a => d.opAt a == 1)).foldl (fun m a => (d.declared a k).foldl max m) 0
  let waits := prog.filter d.waitsAt
  let tins (a : Nat) : List Nat := engs.flatMap (fun e => ((List.range 4).filter (fun j => ent (d.entryAt a) 0 (6 + j) 1 == 1)).map (fun j => 4 * e + j))
  let bank := d.bankWakeT c
  let tile := d.tileWakeT c false
  let sw := d.switchersOf c
  let swMin := d.dlMin 528 lp (sw.map (fun e => 256 + e))
  let jumps := prog.filter (fun a => d.opAt a == 5 && ent (d.entryAt a) 0 11 3 == 1)
  let dlOf (a : Nat) : Nat := ent (d.entryAt a) 2 0 32
  missIf 0x0F 3 c top 65535 ++
  (prog.filter (fun a => d.opAt a == 3)).flatMap (d.pace c) ++
  waits.flatMap (fun a =>
    let m := d.dlMin 320 lp (tins a)
    if first.contains a then d.lead prog c a m bank tile false [] else d.lead prog c a m 0 0 false []) ++
  jumps.flatMap (fun a =>
    let m := d.dlMin 320 lp (engs.map (fun e => 4 * e + ent (d.entryAt a) 1 20 2))
    d.jumpTest c (ent (d.entryAt a) 1 0 20) m (if first.contains a then bank else 0) (if first.contains a then tile else 0)) ++
  (if sw.isEmpty then [] else
    prog.flatMap (fun a => d.lead prog c a swMin bank (d.tileWakeT c true) true (if a = d.ctxPc c then d.loopsOf c else [])) ++
    (prog.filter (fun a => launching (d.entryAt a) && d.baseAt a == 3)).flatMap (fun a => latencyMiss 3 c c swMin 0 0 (dlOf a)) ++
    sw.flatMap (fun e => latencyMiss 6 (256 + e) c (d.dlMin 528 8 [256 + e]) 0 0 (d.latOf (256 + e)))) ++
  d.chains adms low prog c (d.ctxFld c 1 0 20) (!sw.isEmpty) [] ++
  (if d.ctxPc c = d.ctxFld c 1 0 20 then [] else d.chains adms low prog c (d.ctxPc c) (!sw.isEmpty) (d.loopsOf c)) ++
  (d.feeding c).flatMap (fun p => latencyMiss 6 p.1 c (d.dlMin 320 p.2 [p.1]) 0 0 (d.latOf p.1)) ++
  (d.liOf c).flatMap (fun l =>
    let reads := (d.ctxChans c).any (fun n => dKind (d.chDesc n (d.fld (Reg.li_SEG l) 0 16)) == 1)
    let bank := if reads then bank else 0
    latencyMiss 6 (320 + l) c (d.dlMin 320 lp [320 + l]) bank (max bank tile) (d.latOf (320 + l)) ++
    d.prefill adms low c (fun _ => [d.fld (Reg.li_SEG l) 0 16]) ((d.latOf (320 + l) : Int) - 112 - (16 * lp : Nat)) [])

/-! ## The checks on channels, tiles and engines (R76 to R80, R144) -/

/-- Units of a channel's bank that a segment takes: a resident one whole, a streamed one its head (R65, R68). -/
def unitsOf (ws : List Word) : Nat :=
  if dKind ws ≠ 1 then 0 else if dRes ws then ceilDiv (dBytes ws) 4096 else min (dHead ws) (ceilDiv (dBytes ws) 4096)

/-- The segments that admitted contexts on channel `ch` name. Log entry 43, DEDUCED, unsafe. -/
def namedOn (adms : List (List Nat × List Nat)) (ch : Nat) : List Nat := (adms.flatMap (fun a => if a.1.contains ch then a.2 else [])).eraseDups

/-- RING, RESIDENT, FORMAT_RATE and STREAM_SHORT on one channel. -/
def chanChecks (d : Dev) (adms : List (List Nat × List Nat)) (ch : Nat) : List Miss :=
  let r := d.charge adms ch
  let u := (d.ringFor adms ch).1
  let segs := (namedOn adms ch).map (fun s => (s, d.chDesc ch s))
  let res := segs.foldl (fun n p => n + unitsOf p.2) 0
  let least := max 4 (ceilDiv (16 * r) 4096)
  (if 0 < r ∧ u < least then [⟨0x04, 2, ch, least * 4096, u * 4096⟩] else []) ++
  missIf 0x06 2 ch ((res + u) * 4096 : Nat) (128 * 4096 : Nat) ++
  segs.flatMap (fun p => if dKind p.2 = 1 ∧ dCplx p.2 then missIf 0x08 4 p.1 4 (d.chI ch : Nat) else []) ++
  segs.flatMap (fun p => if dStreamed p.2 then missIf 0x09 4 p.1 16384 (dBytes p.2 : Nat) else [])

/-- FABRIC_FLOOR of one engine (R144). -/
def floorCheck (d : Dev) (maySwitch : Bool) (e : Nat) : List Miss :=
  let patrol := if d.bit (Reg.eng_CFG e) 1 then ceilDiv 12288 (max 1 (d.fld (Reg.eng_PATROL e) 0 16)) else 0
  missIf 0x0E 5 e (d.ceilFdc 24 32000 + (if maySwitch then 640 else 0) + patrol + 400 : Nat) 5000

/-! ## The report (R81 to R83) -/

/-- C_port (R78). -/
def portCap (d : Dev) : Nat := if d.bit Reg.dramG_STATUS 2 then 40000 else 32000

/-- The partition table defines a partition. -/
def partitioned (d : Dev) : Bool := (List.range 12).any (fun p => bitsOf (d.ptabW p 0) 0 1 == 1)

/-- s_p of an owner (R79): the physical function is held to what the partitions leave. -/
def shareOf (d : Dev) : Option Nat → Nat
  | some p => bitsOf (d.ptabW p 0) 20 7
  | none => 100 - (List.range 12).foldl (fun s p => s + (if bitsOf (d.ptabW p 0) 0 1 = 1 then bitsOf (d.ptabW p 0) 20 7 else 0)) 0

/-- A record's four words. -/
def missWords (fail : Bool) (m : Miss) : List Nat :=
  [m.check + (if fail then 2^8 else 0) + m.kind * 2^16, m.obj, m.need % 2^32, m.got % 2^32]

/-- The summary records of DMC_BW, PORT_BW and PART_BW for an owner's channels. A port carries all 16 channels of its tile, whoever owns them:
`others` are the contexts that the other owners have admitted (R78). The physical function's own set has partition number 0. Log entry 79, DESIGN CHOICE, unsafe. -/
def summary (d : Dev) (adms others : List (List Nat × List Nat)) (o : Option Nat) : List Miss :=
  let avail := d.availBw (!d.normalRefresh)
  let needs := (List.range 8).map (d.need adms (List.range 96) d.outDmc)
  needs.zipIdx.map (fun p => ⟨0x01, 0, p.2, p.1, avail⟩) ++
  (List.range 6).map (fun t => ⟨0x02, 1, t, (tileChans t).foldl (fun k n => k + d.charge (adms ++ others) n) 0, d.portCap⟩) ++
  (if d.partitioned then needs.zipIdx.map (fun p => ⟨0x03, 7, p.2 + (o.getD 0) * 2^8, p.1, avail * d.shareOf o / 100⟩) else [])

/-- The report's bytes for a buffer of `len` bytes. -/
def report (d : Dev) (o : Option Nat) (result nctx serial len total : Nat) (summ fails : List Miss) : List Byte :=
  let bad (m : Miss) : Bool := decide (m.got < m.need)
  let all := summ.map (fun m => (bad m, m)) ++ fails.map (fun m => (true, m))
  let room := min 1024 ((len - 32) / 16)
  let kept := all.take room
  let nfail := min 255 (all.filter (fun p => p.1)).length
  let w2 := (if d.bit Reg.dramG_STATUS 2 then 1 else 0) + (if d.normalRefresh then 0 else 2) + (if room < all.length then 4 else 0) +
    d.limH * 2^8 + (o.getD 0) * 2^16 + (if o.isNone then 2^20 else 0)
  wordBytes (([1 + result * 2^16 + nfail * 2^24, kept.length + nctx * 2^16, w2, d.fdcKhz, d.availBw (!d.normalRefresh), d.portCap, total % 2^32, serial] ++
    kept.flatMap (fun p => missWords p.1 p.2)).map (fun n => BitVec.ofNat 32 n))

/-! ## Holding an admission (R61, R65, R68) -/

/-- The first run of `k` free units from unit 0 in a bank. -/
def freeUnit (rs : List Resident) (k : Nat) : Nat :=
  ((List.range 129).find? (fun u => rs.all (fun r => decide (r.unit + r.units ≤ u ∨ u + k ≤ r.unit)))).getD 128

/-- The residents of a bank moved together from unit 0 upward, with the bank's bytes; what plays from them goes on from there. Log entry 43, DEDUCED, unsafe. -/
def compact (d : Dev) (ch : Nat) : Dev :=
  let rs := (d.chanOf ch).resident
  let placed := rs.foldl (fun (l : List Resident × Nat) (r : Resident) => (l.1 ++ [{ r with unit := l.2 }], l.2 + r.units)) ([], 0)
  let sc := (rs.zip placed.1).foldl (fun (m : SMap Byte) (p : Resident × Resident) =>
    SMap.store 0 m (ch * 2^19 + p.2.unit * 4096) (SMap.bytes 0 d.sc (ch * 2^19 + p.1.unit * 4096) (p.1.units * 4096))) d.sc
  let to_ (p : Play) : Play := { p with bankAt := p.bankAt.map (fun u => (((rs.zip placed.1).find? (fun x => x.1.unit == u && some x.1.seg == p.seg)).map (fun x => x.2.unit)).getD u) }
  ({ d with sc := sc }).updChan ch (fun (c : Chan) => { c with resident := placed.1, cur := c.cur.map to_, prev := c.prev.map to_ })

/-- A segment becomes resident on a channel: it takes the lowest free units and is copied from DRAM. -/
def makeResident (d : Dev) (ch s : Nat) : Dev :=
  let ws := d.chDesc ch s
  let k := unitsOf ws
  if k = 0 ∨ (d.chanOf ch).resident.any (fun r => r.seg == s) then d
  else
    let limit := 128 - d.fld (Reg.chn_SC_LAYOUT ch) 8 8
    let d := if limit < freeUnit (d.chanOf ch).resident k + k then d.compact ch else d
    let r : Resident := ⟨s, freeUnit (d.chanOf ch).resident k, k, !dRes ws⟩
    (d.updChan ch (fun (c : Chan) => { c with resident := c.resident ++ [r] })).copyResident ch r

/-- Segment `s` is locked into the descriptor cache of tile `t` for context `c` (R61): a descriptor whose CHECK does not match is not cached, and
its fault is queued. -/
def lockDesc (d : Dev) (c t s : Nat) : Dev :=
  if (SMap.get none d.descC (t * 2^16 + s)).isSome then d
  else match d.meetBad 7 (d.mm.descAt + 64 * s) 64 with
    | some d => d
    | none =>
      let d := d.served false (d.mm.descAt + 64 * s) 64
      let w := d.desc s
      if !dCheckOk w then d.descCrcAt c t s else { d with descC := SMap.set none d.descC (t * 2^16 + s) (some w) }

/-- Admit a context that has passed (R61, R68, R122, R123). -/
def admitOne (d : Dev) (c : Nat) : Dev :=
  if d.isAdmitted c then d
  else
    let r := d.admRecOf c
    let d := ({ d with adm := SMap.set none d.adm c (some r) }).setCtxState c 2
    let d := d.setCtxW c 47 (BitVec.ofNat 32 (r.frames.foldl (fun n f => n ||| 2^f) 0))
    (ctxTiles d c).foldl (fun (d : Dev) (t : Nat) => r.segs.foldl (fun (d : Dev) (s : Nat) => d.lockDesc c t s) d) d

/-- A segment that admission newly names becomes resident on a channel; no more is copied once DRAM is frozen. `x` counts the bytes moved. -/
def layOne (ch : Nat) (x : Nat × Dev) (s : Nat) : Nat × Dev :=
  if x.2.frozen then x
  else
    let d := x.2.makeResident ch s
    let n := ((d.chanOf ch).resident.filter (fun r => r.seg == s)).foldl (fun (n : Nat) r => n + d.copyLen ch r) 0
    (if d.frozen then x.1 else x.1 + n, d)

/-- A channel takes its ring layout and its residents (R65, R68): copies that stood before stay, those that nothing names are given up,
and what is newly named is copied from DRAM anew. `old` and `new` are what admission held and holds. Log entry 43, DEDUCED, unsafe. -/
def layChan (old new : List (List Nat × List Nat)) (x : Nat × Dev) (ch : Nat) : Nat × Dev :=
  let d := x.2
  let u := d.ringFor new ch
  let d := d.layRing new ch
  let named := namedOn new ch
  let was := namedOn old ch
  let keep (s : Nat) : Bool := named.contains s && was.contains s
  let had := (d.chanOf ch).resident
  let kept := had.filter (fun r => keep r.seg)
  let d := d.updChan ch (fun (c : Chan) => { c with resident := kept })
  let d := if kept.any (fun r => decide (128 - u.1 < r.unit + r.units)) then d.compact ch else d
  (named.filter (fun s => !kept.any (fun r => r.seg == s))).foldl (layOne ch) (x.1, d)

/-- The channels of a set of contexts take their ring layout and their residents: the bytes moved, and the device. -/
def layOut (d : Dev) (old : List (List Nat × List Nat)) (chs : List Nat) : Nat × Dev :=
  chs.foldl (layChan old d.admList) (0, d)

/-! ## ADMIT (R75, R83, R284) -/

/-- Why a request is not tested at all (R75, R124, R284, R285, R436): the status, or 0. Log entry 40, DESIGN CHOICE, unsafe. -/
def requestStatus (d : Dev) (o : Option Nat) (req : List Nat) : Nat :=
  if req.any (fun x => decide (10240 ≤ x)) then 0x02
  else if req.any (fun x => d.ctxOwner x != o) then 0x03
  else if d.dsafe then 0x05
  else if d.dramDown then 0x10
  else if req.any (fun x => d.ctxState x == 0) then 0x05
  else if req.any (fun x => !d.setOk o (d.ctxChans x)) then 0x08
  else 0

/-- The contexts tested together: the request and every context admitted in the same partition (R75). -/
def tested (d : Dev) (o : Option Nat) (req : List Nat) : List Nat :=
  (req ++ d.admitted.filter (fun x => d.ctxRecOwner x == o)).eraseDups

/-- Every failed check of a set of contexts, but the summary's, ordered by code and object (R80, R83). Log entry 40, DESIGN CHOICE, unsafe. -/
def failsOf (d : Dev) (o : Option Nat) (cs : List Nat) (recs : List (Nat × AdmRec)) (adms : List (List Nat × List Nat)) : List Miss :=
  let chs := (List.range 96).filter (fun n => adms.any (fun a => a.1.contains n))
  let low (n : Nat) : Nat := (d.ringFor adms n).2
  let others := d.adm.filterMap (fun p => if cs.contains p.1 then none else p.2.map (fun r => (p.1, r)))
  let perTile (t : Nat) : Nat := (((recs ++ others).filter (fun p => (ctxTiles d p.1).contains t)).flatMap (fun p => p.2.segs)).eraseDups.length
  let may := recs.any (fun p => p.2.hasSw) || (d.enginesOf o).any (fun e => d.bit (Reg.eng_SW_CFG e) 16)
  let all := worst (chs.flatMap (d.chanChecks adms) ++ (List.range 6).flatMap (fun t => missIf 0x07 1 t (perTile t : Nat) 4096) ++
    cs.flatMap (d.ctxChecks adms low) ++ (d.enginesOf o).flatMap (d.floorCheck may))
  sortBy (fun (x y : Miss) => decide (x.check < y.check ∨ (x.check = y.check ∧ x.obj ≤ y.obj))) all

/-- What a test of a set of contexts finds (R75, R81): the status and the report's RESULT, the admitted stream charge, the summary's
records and the failed ones, the device, and the bytes moved when an uncorrectable codeword ends the command (R283). -/
structure Verdict where
  status : Nat
  result : Nat
  total  : Nat
  summ   : List Miss
  fails  : List Miss
  dev    : Dev
  moved  : Nat := 0
deriving DecidableEq, Repr

/-- Test contexts together with what their owner has admitted, and admit them when every check passes (R75); an uncorrectable codeword that a
copy meets freezes DRAM and leaves them unadmitted (R283, R398). Log entry 40, DESIGN CHOICE, unsafe. -/
def admission (d : Dev) (o : Option Nat) (req : List Nat) : Verdict :=
  let s := d.requestStatus o req
  if s ≠ 0 then ⟨s, 2, 0, [], [], d, 0⟩
  else
    let cs := d.tested o req
    let recs := cs.map (fun x => (x, d.admRecOf x))
    let adms := recs.map (fun p => (d.ctxChans p.1, p.2.segs))
    let others := d.adm.filterMap (fun p => if cs.contains p.1 then none else p.2.map (fun r => (d.ctxChans p.1, r.segs)))
    let summ := d.summary adms others o
    let fails := d.failsOf o cs recs adms
    let total := (List.range 96).foldl (fun n ch => n + d.charge adms ch) 0
    if summ.any (fun m => decide (m.got < m.need)) || !fails.isEmpty then ⟨0x0B, 1, total, summ, fails, d, 0⟩
    else
      let chs := (List.range 96).filter (fun n => adms.any (fun a => a.1.contains n))
      let old := d.admList
      let x := (req.foldl (fun (d : Dev) (x : Nat) => d.admitOne x) d).layOut old chs
      if x.2.frozen then
        ⟨0x11, 2, total, summ, fails, (req.filter (fun c => !d.isAdmitted c)).foldl (fun (d : Dev) (c : Nat) => d.releaseCtx c) x.2, x.1⟩
      else ⟨0, 0, total, summ, fails, x.2, 0⟩

/-- The first failed record of a report: check code and OBJ_ID (R81, R82). -/
def Verdict.first (v : Verdict) : Option Miss := (v.summ ++ v.fails).find? (fun m => decide (m.got < m.need))

/-- ADMIT (R75 to R83). Log entry 39, DEDUCED, unsafe. -/
def admitC (d : Dev) (c : HostCmd) : Ran :=
  let len := c.len.toNat
  let room := c.p 2
  if room < 32 ∨ len % 4 ≠ 0 ∨ len = 0 ∨ 1024 < len ∨ !c.aligned then d.stop 0x02
  else d.takeBuf c len (fun bs =>
    let req := (leWords bs).map (fun w => w.toNat)
    let v := d.admission c.owner req
    let r := v.dev.giveAt c (c.p64 0) (d.report c.owner v.result req.length c.serial.toNat room v.total v.summ v.fails) v.result
    if r.status = 0 then { r with status := v.status, result := if v.status = 0x11 then v.moved else r.result } else r)

end Dev
end Sys2Proof.Machine
end

