-- ==== Sys2Proof/Machine/Partitions.lean ====
section
/-! DEFINITION. Partitions: the reservation of engines (R135), creating and destroying a partition (R290, R291), and resetting a
function's part of the host interface (R287). -/
namespace Sys2Proof.Machine
namespace Dev

/-- The registers of a range return to their reset values, with whatever is held back or mismatches there. -/
def resetRange (d : Dev) (base span : Nat) : Dev :=
  { d with regs := d.regs.filter (fun p => decide (p.1 < base ∨ base + span ≤ p.1)),
           inforce := d.inforce.filter (fun p => decide (p.1 < base ∨ base + span ≤ p.1)),
           parity := d.parity.filter (fun p => decide (p.1 < base ∨ base + span ≤ p.1)) }

/-! ## Engines (R135) -/

/-- Engines in service that no reservation holds, lowest first. -/
def spareEngines (d : Dev) : List Nat := (List.range 64).filter (fun e => !d.bit (Reg.eng_STATUS e) 24 && d.isSpare e && (d.engOwner e).isNone)
/-- Engines in service that partition `p` holds. -/
def heldEngines (d : Dev) (p : Nat) : List Nat := (List.range 64).filter (fun e => !d.bit (Reg.eng_STATUS e) 24 && d.engOwner e == some p)
/-- ENGINES of a partition's table entry. -/
def askedEngines (d : Dev) (p : Nat) : Nat := bitsOf (d.ptabW p 0) 13 7
/-- Partition `p` is in the table. -/
def partDefined (d : Dev) (p : Nat) : Bool := bitsOf (d.ptabW p 0) 0 1 == 1

/-- Partition `p` reserves what it still lacks of its engines; `none` where too few are free. -/
def reserveEngines (d : Dev) (p : Nat) : Option Dev :=
  let lack := d.askedEngines p - (d.heldEngines p).length
  let take := d.spareEngines.take lack
  if take.length < lack then none else some (take.foldl (fun (d : Dev) (e : Nat) => d.setEngOwner e (some p) false) d)

/-- The partition table reserves in the order of its entries; without one the physical function holds every engine (R135). Log entry 44, DESIGN CHOICE, unsafe. -/
def tableReserves (d : Dev) : Dev :=
  if d.partitioned then
    let d := (List.range 64).foldl (fun (d : Dev) (e : Nat) => if d.bit (Reg.eng_STATUS e) 24 then d else d.setEngOwner e none true) d
    (List.range 12).foldl (fun (d : Dev) (p : Nat) => if d.partDefined p then (d.reserveEngines p).getD d else d) d
  else d

/-! ## PART_CREATE (R290) -/

/-- The regions of a partition's table entry, as first byte and length. -/
def partRegions (d : Dev) (p : Nat) : List (Nat × Nat) :=
  ((List.range 4).map (fun r => (d.ptabW p (11 + r) % 2^16 * 2^30, d.ptabW p (11 + r) / 2^16 * 2^30))).filter (fun x => x.2 != 0)

/-- Two ranges of bytes share a byte. -/
def overlap (a b : Nat × Nat) : Bool := decide (a.1 < b.1 + b.2 ∧ b.1 < a.1 + a.2)

/-- What the physical function uses of DRAM: its enabled BAR2 windows, and the rings of its captures that take or hold samples. -/
def pfRanges (d : Dev) : List (Nat × Nat) :=
  ((List.range 16).filter (fun w => d.bit (fnKey 0 (Reg.host_BAR2_WIN_LO w)) 0)).map (fun w =>
    (d.rdN (fnKey 0 (Reg.host_BAR2_WIN_LO w)) / 4096 * 4096 + 2^32 * (d.rdN (fnKey 0 (Reg.host_BAR2_WIN_HI w)) % 2^9), 2^32)) ++
  ((List.range 6).filter (fun k => (d.mdOwner k).isNone && (d.capOf k).target == 1 && ((d.capOf k).en || d.capState k != 0))).map (fun k =>
    ((d.capOf k).base, (d.capOf k).size))

/-- Create partition `p`: the status, the engines granted and the machine. -/
def createPart (d : Dev) (p : Nat) : Ran :=
  let halves := (List.range 96).filter (fun n => d.grantsHalf p (n / 8))
  if 12 ≤ p ∨ !d.partDefined p then d.stop 0x02
  else if d.partOn p ∨ d.dsafe then d.stop 0x05
  else if halves.any d.isClaimed ∨ (d.ctx.any (fun x => d.grantsCtx p (x.1 / 256) && d.ctxState (x.1 / 256) != 0)) ∨
      (d.partRegions p).any (fun r => d.pfRanges.any (overlap r)) then d.stop 0x05
  else match d.reserveEngines p with
    | none => d.stop 0x05
    | some d => (d.setFld (Reg.part_STATE p) 0 2 2).ok (d.askedEngines p)

/-- PART_CREATE (R290). Log entry 39, DEDUCED, unsafe. Log entry 44, DESIGN CHOICE, unsafe. -/
def partCreate (d : Dev) (c : HostCmd) : Ran := if c.fn.val ≠ 0 then d.stop 0x04 else d.createPart (c.p 0)

/-! ## The host interface of a function (R287) -/

/-- The completion of a command (R276). -/
def cqeOf (d : Dev) (c : HostCmd) (status result : Nat) (dup : Bool) : Cqe :=
  ⟨c.fn.val, c.sq.val, d.cqOf c.sq.val, c.tag.toNat, c.serial.toNat, status, result, dup, c.irq⟩

/-- `y` has not ended, and is the command `x` of its SQ or a duplicate that waits for it (R280). -/
def endsWith (x y : InFlight) : Bool := y.cmd.sq == x.cmd.sq && y.cmd.serial == x.cmd.serial && y.ended.isNone

/-- A command in flight ends: it and the duplicates that wait for it have their completions to write, and the SQ's record of serials holds its
status and RESULT (R276, R280). -/
def conclude (d : Dev) (x : InFlight) (status result : Nat) : Dev :=
  let ends (y : InFlight) : InFlight := if endsWith x y then { y with ended := some (status, result) } else y
  let known (r : SerRec) : SerRec := if r.serial = x.cmd.serial.toNat then { r with ended := some (status, result) } else r
  let cqes := (d.host.inflight.filter (endsWith x)).map (fun y => d.cqeOf y.cmd status result y.dup)
  { d with host := { d.host with inflight := d.host.inflight.map ends, cqes := d.host.cqes ++ cqes,
                                 serials := SMap.upd [] d.host.serials x.cmd.sq.val (fun l => l.map known) } }

/-- The commands in flight that satisfy a test end with a status; RESULT is what they had moved. -/
def endCmds (d : Dev) (f : InFlight → Bool) (status : Nat) : Dev :=
  (d.host.inflight.filter (fun x => f x && x.ended.isNone && !x.dup)).foldl (fun (d : Dev) (x : InFlight) => d.conclude x status x.moved) d

/-- The commands in flight that satisfy a test end without a completion. -/
def dropCmds (d : Dev) (f : Nat → Bool) : Dev :=
  { d with host := { d.host with inflight := d.host.inflight.filter (fun x => !f x.cmd.sq.val), cqes := d.host.cqes.filter (fun x => !f x.sq) } }

/-- The queue numbers of a function (R274). -/
def queuesOf (d : Dev) (fn : Nat) : List Nat := (List.range 64).filter (fun q => d.qFn q == fn)

/-- Clear the serial record of an SQ. -/
def clearSerials (d : Dev) (q : Nat) : Dev :=
  { d with host := { d.host with serials := SMap.set [] d.host.serials q [], newest := SMap.set none d.host.newest q none } }

/-- Step 3 of R287: a function's queue, window, BAR2 and MSI-X registers return to reset, with the low words that it has staged for them, and its serial
records are cleared. -/
def resetHostRegs (d : Dev) (fn : Nat) : Dev :=
  let d := (d.queuesOf fn).foldl (fun (d : Dev) (q : Nat) =>
    ({ (d.resetRange (Reg.q_SQ_BASE_LO q) 64) with host := { d.host with unsig := SMap.set 0 d.host.unsig q 0 } }).clearSerials q) d
  let d := d.resetRange (fnKey fn (Reg.host_BAR2_WIN_LO 0)) 0x200
  let d := d.resetRange (fnKey fn Reg.host_DENY_CNT) 8
  let d := d.resetRange (fnKey fn 0x1308000) 0x1010
  let mine (k : Nat) : Bool := decide (fnKey fn (Reg.host_BAR2_WIN_LO 0) ≤ k ∧ k < fnKey fn (Reg.host_BAR2_WIN_LO 0) + 0x200) ||
    (d.queuesOf fn).any (fun q => decide (fnKey fn (Reg.q_SQ_BASE_LO q) ≤ k ∧ k < fnKey fn (Reg.q_SQ_BASE_LO q) + 64))
  { d with stage := d.stage.filter (fun p => !mine p.1), host := { d.host with dmaw := d.host.dmaw.filter (fun p => p.1 / 16 != fn) } }

/-- A Function Level Reset of one function (R287). -/
def resetFn (d : Dev) (fn : Nat) : Dev :=
  let qs := d.queuesOf fn
  let d := d.dropCmds (fun q => qs.contains q)
  let d := d.stopAll (fun c => d.ctxRecOwner c == fnOwner fn) true
  (d.resetHostRegs fn).raise (fnKey fn Reg.host_EVENTS) 32

/-! ## PART_DESTROY (R291) -/

/-- The task inputs and event channels of an owner return to reset, and its endpoints and load groups (R291 step 5). -/
def resetFabric (d : Dev) (p : Nat) : Dev :=
  let mine (o : Option Nat) : Bool := o == some p
  let ecs := (List.range 256).filter (fun n => mine (d.ecOwner n))
  let tins := (List.range 512).filter (fun i => mine (d.tinOwner i))
  let eps := (List.range 4096).filter (fun e => mine (d.epOwner e))
  let lgs := (List.range 16).filter (fun g => mine (d.lgOwner g))
  let input (d : Dev) (i : Nat) : Dev :=
    let d := { (d.resetRange (Reg.tin_SEL i) 32) with tin := SMap.set {} d.tin i {} }
    if i < 256 then { (d.wrN (Reg.engIn_STATE (i / 4) (i % 4)) 0) with ei := SMap.set none d.ei i none }
    else if 320 ≤ i ∧ i < 368 then d.resetRange (Reg.li_CFG (i - 320)) 32
    else if 368 ≤ i ∧ i < 400 then d.resetRange (Reg.fi_CFG (i - 368)) 64
    else if 416 ≤ i ∧ i < 424 then { (d.resetRange (Reg.to_CFG (i - 416)) 32) with tout := SMap.set {} d.tout (i - 416) {} }
    else if 500 ≤ i then d.resetRange (Reg.lt_CFG (i - 500)) 16
    else d
  let d := tins.foldl input d
  let d := ecs.foldl (fun (d : Dev) (n : Nat) => { (d.resetRange (Reg.ec_CFG n) 128) with ec := SMap.set {} d.ec n {} }) d
  let d := eps.foldl (fun (d : Dev) (e : Nat) => d.resetRange (Reg.ep_EP e) 4) d
  lgs.foldl (fun (d : Dev) (g : Nat) => d.resetRange (Reg.lg_CFG g) 16) d

/-- The descriptors and directory entries that a partition owned are emptied (R291 step 3). -/
def emptyObjects (d : Dev) (p : Nat) : Dev :=
  let segs := (List.range (2^16)).filter (fun s => d.grantsSeg p s && dKind (d.desc s) != 0 && dOwner (d.desc s) == some p)
  let d := segs.foldl (fun (d : Dev) (s : Nat) => d.writeDram (d.mm.descAt + 64 * s) (List.replicate 64 0)) d
  (List.range 6).foldl (fun (d : Dev) (t : Nat) => (List.range 4096).foldl (fun (d : Dev) (v : Nat) =>
    if d.grantsEnv p v && d.envEntry t v != 0 && envEntryOwner (d.envEntry t v) == some p then
      { d with env := SMap.store 0 d.env (t * 2^20 + 8 * v) (List.replicate 8 0) } else d) d) d

/-- The first codeword of the descriptors of partition `p`'s segments that proves uncorrectable (R398). -/
def badDescOf (d : Dev) (p : Nat) : Option (Nat × Nat × Nat) :=
  ((List.range (2^16)).filter (fun s => d.grantsSeg p s)).findSome? (fun s => d.badIn (d.mm.descAt + 64 * s) 64)

/-- What a digitiser holds of its captures goes: samples, log and registers (R291). -/
def clearCapture (d : Dev) (k : Nat) : Dev :=
  { (d.resetRange (Reg.cap_CFG k) 0x400) with cap := SMap.set {} d.cap k {}, capBuf := d.capBuf.filter (fun x => decide (x.1 < logBase k ∨ logBase k + 4096 ≤ x.1) && x.1 / 2^20 != k) }

/-- What the banks and the exception registers of an engine hold of its contexts goes (R291). -/
def clearEngine (d : Dev) (e : Nat) : Dev :=
  let d := d.updEng e (fun (x : Eng) => { x with s0 := none, s1 := none, left := [], used := false, saved := [], stuck := [] })
  d.resetRange (Reg.eng_EXC e 0) 32

/-- The last items of R291: the partition's channels are OFF, its DRAM regions unwiped and its engines spares; its captures and what its engines hold of
its contexts are gone, so that the next owner sees nothing of them. Log entry 44, DESIGN CHOICE, unsafe. -/
def destroyLast (d : Dev) (p : Nat) : Ran :=
  let chs := (List.range 96).filter (fun n => d.chOwner n == some p)
  let engs := (List.range 64).filter (fun e => d.engOwner e == some p)
  let d := ((List.range 6).filter (fun k => d.mdOwner k == some p)).foldl clearCapture d
  let d := engs.foldl clearEngine d
  let d := chs.foldl (fun (d : Dev) (n : Nat) => d.setFld (Reg.chn_CFG n) 0 2 0) d
  let d := (d.partRegions p).foldl (fun (d : Dev) (r : Nat × Nat) => d.unwipe (r.1 / 2^20) (r.2 / 2^20)) d
  let d := engs.foldl (fun (d : Dev) (e : Nat) => d.setEngOwner e none true) d
  { (d.setFld (Reg.part_STATE p) 0 2 0).ok with reseal := chs }

/-- Step `k` of destroying a created partition that holds no admitted context (R291). Log entry 44, DESIGN CHOICE, unsafe. -/
def destroyStep (d : Dev) (p k : Nat) : Ran ⊕ (Dev × Nat) :=
  match k with
  | 1 => .inr ({ d with ctx := d.ctx.filter (fun x => !d.grantsCtx p (x.1 / 256)), prog := d.prog.filter (fun x => !d.grantsProg p (x.1 / 4)) }, 2)
  | 2 => .inr (d.emptyObjects p, 3)
  | 3 => .inr ({ d with mailbox := d.mailbox.filter (fun x => !d.grantsMb p (x.1 / 64)) }, 4)
  | 4 => .inr (d.resetFabric p, 5)
  | _ => .inl (d.destroyLast p)

/-- One step of PART_DESTROY (R282, R291), after `k` steps; STATE shows that the partition is being destroyed (R295). Log entry 44, DESIGN CHOICE, unsafe. -/
def partDestroyStep (d : Dev) (c : HostCmd) (k : Nat) : Ran ⊕ (Dev × Nat) :=
  let p := c.p 0
  let mine := d.admitted.filter (fun x => d.ctxRecOwner x == some p)
  if c.fn.val ≠ 0 then .inl (d.stop 0x04)
  else if 12 ≤ p ∨ 1 < c.p 1 then .inl (d.stop 0x02)
  else if k ≠ 0 then
    if d.dramDown then .inl (d.stop 0x10)
    else match if k = 2 then d.badDescOf p else none with
      | some q => .inl ((d.freezeAt 7 false q).stop 0x11)
      | none => d.destroyStep p k
  else if !d.partOn p ∨ (c.p 1 = 0 ∧ !mine.isEmpty) then .inl (d.stop 0x05)
  else if d.dramDown then .inl (d.stop 0x10)
  else
    let d := d.setFld (Reg.part_STATE p) 0 2 3
    let d := mine.foldl (fun (d : Dev) (x : Nat) => (d.stopCtx x true).releaseCtx x) d
    .inr (d.endCmds (fun x => x.cmd.fn.val == p + 1) 0x14, 1)

/-- PART_DESTROY (R291) as a whole. -/
def partDestroy (d : Dev) (c : HostCmd) : Ran := allSteps (fun d k => d.partDestroyStep c k) 6 d 0

end Dev

/-- Working limits of the named channels return to their seals (R291). -/
def Guard.reseal (g : Guard) (chs : List Nat) : Guard :=
  { g with ch := chs.foldl (fun (m : SMap GuardCh) (n : Nat) =>
      SMap.upd {} m n (fun k => { k with lo := k.sealLo, hi := k.sealHi, slew := k.sealS, pwr := k.sealPwr })) g.ch }

end Sys2Proof.Machine
end

