-- ==== Sys2Proof/Machine/DramCmds.lean ====
section
/-! DEFINITION. The host commands on waveform DRAM (R400 to R405): ending a freeze, and moving a DMC's contents out, training it and
moving them back. -/
namespace Sys2Proof.Machine
namespace Dev

/-- DRAM_UNFREEZE (R400). Log entry 53, DEDUCED, unsafe. -/
def dramUnfreeze (d : Dev) (c : HostCmd) : Ran :=
  if c.fn.val ≠ 0 then d.stop 0x04
  else if d.dsafe then d.stop 0x05
  else if !d.frozen then d.ok
  else
    let n := d.frzN
    let zero (d : Dev) (i : Nat) : Dev :=
      let a := d.rdN (Reg.frzAddr_LO i) + 2^32 * d.rdN (Reg.frzAddr_HI i)
      (d.touch true a 128).storeDram a (List.replicate 128 0)
    let d := (List.range n).foldl zero d
    let d := { ((d.resetRange Reg.dramG_FRZ_INFO 4).resetRange Reg.dramG_FRZ_AT_LO 8).resetRange (Reg.frzAddr_LO 0) 128 with frzN := 0 }
    let d := (List.range 8).foldl (fun (d : Dev) (m : Nat) => d.resetRange (Reg.qsnap_A m 0) 64) d
    let d := (d.setBit Reg.dramG_STATUS 0 false).raise Reg.dramG_EVENTS 2
    ((List.range 6).foldl (fun (d : Dev) k => d.drainFifo k (d.capState k == 3)) d).ok n

def outBit (d : Dev) (m : Nat) : Bool := d.bit Reg.dramG_STATUS (4 + m)
def setOutBit (d : Dev) (m : Nat) (b : Bool) : Dev := d.setBit Reg.dramG_STATUS (4 + m) b
def setDmcState (d : Dev) (m s : Nat) : Dev := (d.setFld (Reg.dram_STATUS m) 0 3 s).setBit Reg.dramG_STATUS 3 (s == 1)

/-- A DMC failed training (R402, R403): the flags and the record. -/
def trainFail (d : Dev) (m : Nat) : Dev :=
  ((d.raise (Reg.dram_EVENTS m) 64).raise Reg.dramG_EVENTS 8).faultMp 0x53 m [d.rdN (Reg.dram_TRAIN m)]

/-- The lowest DMC on which the admitted charges do not fit with DMC `m` out (R405). -/
def spreadFails (d : Dev) (m : Nat) : Option Nat :=
  (List.range 8).find? (fun o => o != m && decide (d.availBw (!d.normalRefresh) < d.need d.admList (List.range 96) (some m) o))

/-- Why DMC `m` may not be moved (R405): status and RESULT; (0, 0) where it may. -/
def moveRefused (d : Dev) (m : Nat) : Nat × Nat :=
  if d.dramDown then (0x10, 0)
  else match (List.range 8).find? (fun o => o != m && (d.outBit o || d.dmcState o == 1)) with
    | some o => (0x05, 0x300 + o)
    | none =>
      if d.dmcState m ≠ 0 ∨ d.outBit m then (0, 0)
      else if d.mm.res * 2^18 < ceilDiv (d.unitsUsed m) 7 then (0x02, 0x200)
      else match d.spreadFails m with
        | some o => (0x05, 0x100 + o)
        | none => (0, 0)

/-- Switch up to `k` chunks of the DMC that migrates; a chunk that a queued request concerns waits (R404). -/
def switchChunks (d : Dev) (m : Nat) : Nat → Dev
  | 0 => d
  | k + 1 => match d.nextChunk m with
    | some c => if d.frozen || d.chunkBusy m c then d else (d.switchChunk m c).switchChunks m k
    | none => d

/-- Requests for the DMC that a move empties are queued (R404). -/
def moveBusy (d : Dev) (c : HostCmd) : Bool := d.dmc.any (fun x => (x.2.waiting ++ x.2.ctl).any (fun r => (d.home r.addr).1 == c.p 0))

/-- Steps 2 to 9 of R401 on DMC `m`: whether they pass, where they fail and how long they take is free. Log entry 52, DEDUCED, unsafe. -/
def train (d : Dev) (m : Nat) : Bool × Dev :=
  let (v, d) := d.free
  let ms := v / 64 % 201
  if v % 2 = 0 then (true, (d.wrN (Reg.dram_TRAIN m) (9 + ms * 2^16)).setBit Reg.dramG_STATUS (12 + m) true)
  else
    let s := 2 + v / 2 % 8
    (false, (d.wrN (Reg.dram_TRAIN m) (s - 1 + s * 2^4 + ms * 2^16)).setBit Reg.dramG_STATUS (12 + m) false)

/-- RESULT of a move (R403): outcome, and the MiB of `copied` chunks, rounded up. -/
def moveDone (d : Dev) (outcome copied : Nat) : Ran := (d.raise Reg.dramG_EVENTS 16).ok (outcome + ceilDiv copied 16 * 2^8)
/-- A freeze ends a move (R283, R404): RESULT holds the bytes moved, of which earlier steps had copied `moved` chunks and this one, from `d` to `d'`, the
difference. -/
def moveStopped (d' d : Dev) (status moved : Nat) : Ran :=
  let n (d : Dev) : Nat := (d.moved.filter (fun p => p.2)).length
  d'.stop status ((moved + (n d' - n d) + (n d - n d')) * 2^16 % 2^32)

/-- One step of DRAM_RETRAIN or DRAM_MIGRATE of DMC `m` (R403, R404); the chunks that its steps have moved are counted, those copied out in `at_`'s low 32
bits and those copied back above. A DRAM_MIGRATE that finds a copy-back begun copies out again what has come back. -/
def moveStep (d : Dev) (c : HostCmd) (retrain : Bool) (at_ : Nat) : Ran ⊕ (Dev × Nat) :=
  let m := c.p 0
  let copied := at_ % 2^32
  let moved := copied + at_ / 2^32
  let held (d : Dev) : Nat := (d.moved.filter (fun p => p.2)).length
  if c.fn.val ≠ 0 then .inl (d.stop 0x04)
  else if 8 ≤ m then .inl (d.stop 0x02)
  else if d.dsafe ∧ at_ = 0 then .inl (d.stop 0x05)
  else if d.dramDown ∧ moved ≠ 0 then .inl (d.moveStopped d 0x10 moved)
  else
    let r := d.moveRefused m
    if r.1 ≠ 0 then .inl (d.stop r.1 r.2)
    else if d.outBit m then
      if d.dmcState m = 1 then
        if !retrain then .inr (d.setOutBit m false, at_)
        else if (d.nextChunk m).isSome then
          let d' := d.switchChunks m 4
          if d'.frozen then .inl (d'.moveStopped d 0x11 moved) else .inr (d', at_ + (held d - held d') * 2^32)
        else .inl (((d.setOutBit m false).setDmcState m 0).moveDone 0 copied)
      else if !retrain then .inl (d.moveDone 2 copied)
      else if d.dmcState m = 3 then
        match d.train m with
        | (true, d) =>
          let all := (d.chunksOf m).foldl (fun (x : SMap Bool) k => SMap.set false x k true) d.moved
          .inr ({ d with moved := all }.setDmcState m 1, at_)
        | (false, d) => .inl (((d.setDmcState m 2).trainFail m).moveDone 1 copied)
      else .inr (d.setDmcState m 3, at_)
    else if (d.nextChunk m).isSome then
      let d' := (d.setDmcState m 1).switchChunks m 4
      if d'.frozen then .inl (d'.moveStopped d 0x11 moved) else .inr (d', at_ + (held d' - held d))
    else .inr ((d.setOutBit m true).setDmcState m 2, at_)

/-- Every step of a move: `chunksOf` bounds the copies out and back. -/
def moveAll (d : Dev) (c : HostCmd) (retrain : Bool) : Ran :=
  allSteps (fun d n => d.moveStep c retrain n) (2 * (d.chunksOf (c.p 0)).length + 2 * d.moved.length + 8) d 0

/-- DRAM_RETRAIN (R403). -/
def dramRetrain (d : Dev) (c : HostCmd) : Ran := d.moveAll c true
/-- DRAM_MIGRATE (R403). -/
def dramMigrate (d : Dev) (c : HostCmd) : Ran := d.moveAll c false

end Dev
end Sys2Proof.Machine
end

