-- ==== Sys2Proof/Machine/Trust.lean ====
section
/-! DEFINITION. The configuration flash, images and their verification (R300 to R310), the limits block, the commands that write images,
firmware and calibration sets (R314, R315, R339), attestation (R322), tokens and the fuses (R316 to R320), and the recovery
mailbox (R330). -/
namespace Sys2Proof.Machine

/-! ## Fuses (R316, R317) -/

/-- State of a key slot: 0 empty, 1 valid, 2 revoked. -/
def Fuses.key (f : Fuses) (k : Nat) : Nat := SMap.get 0 f.keys k
/-- The digest fused in a key slot. -/
def Fuses.keyDigest (f : Fuses) (k : Nat) : List Byte := SMap.get [] f.digest k
/-- The owner slots in state valid. -/
def Fuses.owners (f : Fuses) : List Nat := [2, 3, 4, 5].filter (fun k => f.key k == 1)
/-- SVN fuses burn only: the fused SVN never falls (R316). -/
def Fuses.raiseSvn (f : Fuses) (n : Nat) : Fuses := { f with svn := max f.svn (min 64 n) }
/-- The life-cycle state only moves forward (R317). -/
def Fuses.advance (f : Fuses) (n : Nat) : Fuses := { f with lc := max f.lc n }

/-! ## The flash (R300) -/

namespace Dev

/-- S: the flash's size, at most 1 GiB. -/
def flashS (d : Dev) : Nat := min d.flashSize (2^30)
/-- The flash can be used: its SFDP table is read and reports 64 MiB or more. -/
def flashOk (d : Dev) : Bool := decide (2^26 ≤ d.flashSize)
/-- The size of an image slot. -/
def slotSize (d : Dev) : Nat := (d.flashS - 2^24) / 2
/-- The first byte of an image slot. -/
def slotAt (d : Dev) (slot : Nat) : Nat := 2^24 + slot * d.slotSize

/-- Whether a flash operation fails is free: the flash reports it. -/
def flashFails (d : Dev) : Bool × Dev := let (v, d) := d.free; (v % 2 == 1, d)

/-- A directory copy's SEQ when it is valid. -/
def dirSeq (d : Dev) (copy : Nat) : Option Nat :=
  let b := d.flashBytes (4096 * copy) 64
  if fieldAt b 0 4 = 0x5249445A ∧ crcOk b 0 60 then some (fieldAt b 4 4) else none
/-- The directory copy that counts. -/
def dirCopy (d : Dev) : Option Nat :=
  match d.dirSeq 0, d.dirSeq 1 with
  | some a, some b => some (if a < b then 1 else 0)
  | some _, none => some 0
  | none, some _ => some 1
  | none, none => none
/-- ACTIVE and TRY of the directory (R300, R312); TRY is 0xFF for none. -/
def dirFields (d : Dev) : Nat × Nat :=
  match d.dirCopy with
  | some k => let b := d.flashBytes (4096 * k) 64; (fieldAt b 8 1 % 2, fieldAt b 9 1)
  | none => (0, 0xFF)
/-- The MP rewrites the other copy when it changes the directory. -/
def writeDir (d : Dev) (active try_ : Nat) : Dev :=
  let copy := match d.dirCopy with
    | some k => 1 - k
    | none => 0
  let seq := match d.dirCopy with
    | some k => (d.dirSeq k).getD 0 + 1
    | none => 1
  let b := leBytes 0x5249445A 4 ++ leBytes seq 4 ++ leBytes active 1 ++ leBytes try_ 1 ++ List.replicate 50 0
  d.flashStore (4096 * copy) (b ++ leBytes (crc32c b).toNat 4)

end Dev

/-! ## Images (R301 to R306) -/

/-- A section-table entry. -/
structure Section where
  typ    : Nat
  ofs    : Nat
  len    : Nat
  param  : Nat
  digest : List Byte
deriving DecidableEq, Repr

namespace Dev

/-- `k` bytes from offset `o` of the image in a slot. -/
def img (d : Dev) (slot o k : Nat) : List Byte := d.flashBytes (d.slotAt slot + o) k
def imgSections (d : Dev) (slot : Nat) : List Section :=
  (List.range (fieldAt (d.img slot 0 64) 12 2)).map (fun i =>
    let e := d.img slot (64 + 96 * i) 96
    ⟨fieldAt e 0 2, fieldAt e 8 4, fieldAt e 12 4, fieldAt e 16 8, e.drop 32⟩)
/-- The message M of R304: the digest of the header and the section table. -/
def manifest (d : Dev) (slot : Nat) : List Byte := Crypto.sha512 (d.img slot 0 (64 + 96 * (d.imgSections slot).length))
/-- The bytes of a section. -/
def sectionBytes (d : Dev) (slot : Nat) (s : Section) : List Byte := d.img slot s.ofs s.len
/-- BUILD, SVN and RAISE_SVN of an image. -/
def imgBuild (d : Dev) (slot : Nat) : Nat := fieldAt (d.img slot 0 64) 32 4
def imgSvn (d : Dev) (slot : Nat) : Nat := fieldAt (d.img slot 0 64) 16 4
def imgRaises (d : Dev) (slot : Nat) : Bool := bitsOf (fieldAt (d.img slot 0 64) 21 1) 0 1 == 1
/-- The section of a type. -/
def sectionOf (d : Dev) (slot typ : Nat) : Option Section := (d.imgSections slot).find? (fun s => s.typ == typ)

/-- The header is good (R301, R306). Log entry 47, DEDUCED, unsafe. -/
def headerOk (d : Dev) (slot : Nat) : Bool :=
  let h := d.img slot 0 64
  let n := fieldAt h 12 2
  let count (t : Nat) : Nat := ((d.imgSections slot).filter (fun s => s.typ == t)).length
  fieldAt h 0 4 == 0x4D495A43 && fieldAt h 4 2 == 1 && fieldAt h 6 2 == 64 && decide (fieldAt h 8 4 ≤ d.slotSize) && decide (1 ≤ n ∧ n ≤ 4096) &&
  count 1 == 1 && count 2 == 1 && count 3 == 1 && decide (count 4 ≤ 1) && decide (count 12 ≤ 1)

/-- A signature block signs a message under the key in its slot (R304). -/
def signs (f : Fuses) (b : List Byte) (k : Nat) (m : List Byte) : Bool :=
  let pub := (b.drop 32).take 32
  fieldAt b 0 1 == k && f.key k == 1 && Crypto.sha512 pub == f.keyDigest k && Crypto.ed25519Verify pub m ((b.drop 64).take 64)

/-- The image's signature is valid in the life-cycle state (R304, R317). Log entry 47, DEDUCED, unsafe. -/
def imageSigned (f : Fuses) (d : Dev) (slot : Nat) : Bool :=
  let b := d.img slot (64 + 96 * (d.imgSections slot).length) 128
  let k := fieldAt b 0 1
  (if f.lc = 0 ∨ f.lc = 3 then k == 0 else decide (2 ≤ k ∧ k ≤ 5)) && signs f b k (d.manifest slot)

/-- A firmware header verifies (R305). -/
def firmwareOk (f : Fuses) (bs : List Byte) : Bool := signs f (bs.take 128) 0 (Crypto.sha512 (bs.drop 128))

/-- Firmware sections of an image verify. -/
def firmwaresOk (f : Fuses) (d : Dev) (slot : Nat) : Bool :=
  ((d.imgSections slot).filter (fun s => s.typ == 1 || s.typ == 2)).all (fun s => firmwareOk f (d.sectionBytes slot s))

end Dev

/-! ## The limits block (R308 to R310) -/

/-- Word `w` at byte offset `o` of a block. -/
def blockWord (b : List Byte) (o w : Nat) : Nat := fieldAt b (o + 4 * w) 4

/-- The guard that a channel record sets (R309): `none` where a field is out of range, a reserved one too. An entry that is absent has the values of a
channel without one (R187). -/
def limitsCh (b : List Byte) (n : Nat) : Option GuardCh :=
  let w (i : Nat) : Nat := blockWord b (0x40 + 32 * n) i
  let lo := sext 16 (w 0)
  let hi := sext 16 (w 0 / 2^16)
  let slew := bitsOf (w 1) 0 16
  let win := bitsOf (w 1) 16 5
  let safe := sext 16 (w 3 / 2^16)
  let v := bitsOf (w 3) 8 8
  if bitsOf (w 1) 31 1 = 0 then some {}
  else if lo ≤ hi ∧ 1 ≤ slew ∧ 4 ≤ win ∧ win ≤ 20 ∧ lo ≤ safe ∧ safe ≤ hi ∧ bitsOf (w 3) 0 8 ≤ 192 ∧ 50 ≤ v ∧ v ≤ 200 ∧
      bitsOf (w 1) 24 7 = 0 ∧ w 2 / 2^30 = 0 ∧ zeroAt b (0x50 + 32 * n) 16 then
    some { sealLo := lo, sealHi := hi, sealS := slew, sealPwr := bitsOf (w 2) 0 30, win := win, safeEn := bitsOf (w 1) 21 1 == 1,
           fsMax := bitsOf (w 3) 0 8, vMax := v, curOk := bitsOf (w 1) 22 1 == 1, voltOk := bitsOf (w 1) 23 1 == 1,
           lo := lo, hi := hi, slew := slew, pwr := bitsOf (w 2) 0 30, safe := safe }
  else none

/-- Word `w` of partition `p`'s entry in a limits block. -/
def limitsPart (b : List Byte) (p w : Nat) : Nat := blockWord b (0xC60 + 64 * p) w

/-- An entry of the partition table is in range (R310). -/
def partEntryOk (w : Nat → Nat) : Bool :=
  let cb := bitsOf (w 1) 0 14
  let cc := bitsOf (w 1) 14 14
  let e := bitsOf (w 0) 13 7
  bitsOf (w 0) 27 5 == 0 && decide (1 ≤ e ∧ e ≤ 64) && decide (bitsOf (w 0) 20 7 ≤ 100) &&
  cb % 16 == 0 && cc % 16 == 0 && decide (cb + cc ≤ 10240) && bitsOf (w 1) 28 4 == 0 &&
  decide (1 ≤ bitsOf (w 2) 8 9 ∧ bitsOf (w 2) 0 8 + bitsOf (w 2) 8 9 ≤ 256) && w 2 / 2^17 == 0 &&
  bitsOf (w 4) 12 4 == 0 && w 4 / 2^28 == 0 && w 5 / 2^16 == 0 && w 7 / 2^24 == 0 && w 9 / 2^18 == 0 && w 10 / 2^26 == 0 &&
  decide (bitsOf (w 10) 0 6 + bitsOf (w 10) 6 7 ≤ 64) && decide (bitsOf (w 10) 13 6 + bitsOf (w 10) 19 7 ≤ 64) && w 15 == 0

/-- Two ranges of numbers, given by base and count, share one; an empty range shares none. -/
def meet (a n b m : Nat) : Bool := decide (0 < n ∧ 0 < m ∧ a < b + m ∧ b < a + n)

/-- The allocations of two entries overlap (R310). -/
def partsOverlap (v w : Nat → Nat) : Bool :=
  let mask (x y : Nat) : Bool := x &&& y != 0
  let seg (lo hi : Nat → Nat) : Bool := meet (lo 0) (hi 0 + 1 - lo 0) (lo 1) (hi 1 + 1 - lo 1)
  let pick (i : Nat) : Nat → Nat := if i = 0 then v else w
  mask (bitsOf (v 0) 1 12) (bitsOf (w 0) 1 12) ||
  meet (bitsOf (v 1) 0 14) (bitsOf (v 1) 14 14) (bitsOf (w 1) 0 14) (bitsOf (w 1) 14 14) ||
  meet (bitsOf (v 2) 0 8) (bitsOf (v 2) 8 9) (bitsOf (w 2) 0 8) (bitsOf (w 2) 8 9) ||
  seg (fun i => bitsOf (pick i 3) 0 16) (fun i => bitsOf (pick i 3) 16 16) ||
  seg (fun i => bitsOf (pick i 4) 0 12) (fun i => bitsOf (pick i 4) 16 12) ||
  mask (v 5) (w 5) || mask (v 6) (w 6) || mask (v 7) (w 7) || mask (v 8) (w 8) || mask (bitsOf (v 9) 0 12) (bitsOf (w 9) 0 12) ||
  meet (bitsOf (v 10) 0 6) (bitsOf (v 10) 6 7) (bitsOf (w 10) 0 6) (bitsOf (w 10) 6 7) ||
  meet (bitsOf (v 10) 13 6) (bitsOf (v 10) 19 7) (bitsOf (w 10) 13 6) (bitsOf (w 10) 19 7) ||
  (List.range 4).any (fun i => (List.range 4).any (fun j => meet (v (11 + i) % 2^16) (v (11 + i) / 2^16) (w (11 + j) % 2^16) (w (11 + j) / 2^16)))

/-- A limits block passes R308 to R310. Log entry 47, DEDUCED, unsafe. -/
def limitsOk (b : List Byte) : Bool :=
  let ps := (List.range 12).filter (fun p => limitsPart b p 0 % 2 == 1)
  b.length == 3936 && blockWord b 0 0 % 2^16 == 1 && decide (bitsOf (blockWord b 0 0) 16 8 ≤ 50) && blockWord b 0 0 / 2^25 == 0 &&
  decide (10 ≤ blockWord b 0 1 ∧ blockWord b 0 1 ≤ 10000) && zeroAt b 8 56 &&
  (List.range 96).all (fun n => (limitsCh b n).isSome) &&
  ps.all (fun p => partEntryOk (limitsPart b p)) &&
  ps.all (fun p => ps.all (fun q => p == q || !partsOverlap (limitsPart b p) (limitsPart b q))) &&
  decide ((ps.map (fun p => bitsOf (limitsPart b p 0) 13 7)).foldl (· + ·) 0 ≤ 64) &&
  decide ((ps.map (fun p => bitsOf (limitsPart b p 0) 20 7)).foldl (· + ·) 0 ≤ 100)

/-- The guard that a limits block sets, with the working limits at the seals (R187, R227); in BLANK every seal has the value of an
absent entry (R317). Log entry 6, DESIGN CHOICE, unsafe. -/
def limitsGuard (f : Fuses) (b : List Byte) : Guard :=
  if f.lc = 0 then {}
  else
    { ch := (List.range 96).foldl (fun (m : SMap GuardCh) (n : Nat) => SMap.set {} m n ((limitsCh b n).getD {})) [],
      tout := (List.range 8).foldl (fun (m : SMap GuardTo) (k : Nat) => SMap.set {} m k ⟨blockWord b (0xC40 + 4 * k) 0, blockWord b (0xC40 + 4 * k) 0⟩) [] }

namespace Dev

/-- LIMITS applied (R307, R308, R310): the partition table, the host reservation, the refresh mode and the watchdog's period. -/
def applyLimits (d : Dev) (b : List Byte) : Dev :=
  let ptab := (List.range 192).foldl (fun (m : SMap Word) (i : Nat) => SMap.set 0 m i (BitVec.ofNat 32 (limitsPart b (i / 16) (i % 16)))) []
  let d := { d with ptab := ptab, limH := bitsOf (blockWord b 0 0) 16 8, normalRefresh := bitsOf (blockWord b 0 0) 24 1 == 1,
                    wdtMs := blockWord b 0 1, sec := { d.sec with limits := true, limDig := Crypto.sha512 b } }
  d.tableReserves

/-! ## Verification (R306, R314) -/

/-- Section `s` is well placed and its type known (R303). -/
def sectionShape (d : Dev) (slot : Nat) (s : Section) : Bool :=
  decide (1 ≤ s.typ ∧ s.typ ≤ 12) && s.ofs % 4096 == 0 && decide (s.ofs + s.len ≤ fieldAt (d.img slot 0 64) 8 4) &&
  (s.typ != 1 || decide (128 ≤ s.len ∧ s.len ≤ 2^22)) && (s.typ != 2 || decide (128 ≤ s.len ∧ s.len ≤ 2^16 + 128))

/-- Section `s` passes its digest, and LIMITS its own rules. -/
def sectionOk (d : Dev) (slot : Nat) (s : Section) : Bool :=
  let bs := d.sectionBytes slot s
  d.sectionShape slot s && Crypto.sha512 bs == s.digest && (s.typ != 3 || limitsOk bs)

/-- Why the image in a slot is not valid, by the codes of R314; 0 where it is. `all` says that every section is read, and not only
firmware and LIMITS; `states` that LC_MASK counts. -/
def imageError (f : Fuses) (d : Dev) (slot : Nat) (all states : Bool) : Nat :=
  let h := d.img slot 0 64
  let secs := d.imgSections slot
  if !d.headerOk slot ∨ (states ∧ bitsOf (fieldAt h 20 1) f.lc 1 = 0) then 1
  else if !d.imageSigned f slot then 2
  else if !d.firmwaresOk f slot then 3
  else if fieldAt h 24 8 ≠ 0 ∧ fieldAt h 24 8 ≠ f.serial then 4
  else if 64 < d.imgSvn slot ∨ (f.lc = 2 ∧ d.imgSvn slot < f.svn) then 5
  else match (List.range secs.length).find? (fun i => match secs[i]? with
      | some s => if all || s.typ == 1 || s.typ == 3 then !d.sectionOk slot s else !d.sectionShape slot s
      | none => false) with
    | some i => 0x100 + i
    | none => 0
where
  imageSigned (d : Dev) (f : Fuses) (slot : Nat) : Bool := Dev.imageSigned f d slot
  firmwaresOk (d : Dev) (f : Fuses) (slot : Nat) : Bool := Dev.firmwaresOk f d slot

/-! ## IMAGE_WRITE (R314) -/

def bootSlot (d : Dev) : Nat := d.fld Reg.sec_STATUS 3 1

/-- Program `bs` at offset `o` of a slot, erasing each 64 KiB block before its first write: the flash reports a failure, or not. A write at 0
erases the first block and clears the slot's verified state whatever the flash reports. -/
def programSlot (d : Dev) (slot o : Nat) (bs : List Byte) : Bool × Dev :=
  let ranges := if o = 0 then [] else SMap.get [] d.sec.wrote slot
  let touched (b : Nat) : Bool := b == 0 || ranges.any (fun r => decide (r.1 / 2^16 ≤ b ∧ b ≤ (r.1 + r.2 - 1) / 2^16 ∧ r.2 ≠ 0))
  let first := o / 2^16
  let d := if o = 0 then
      let d := d.flashErase (d.slotAt slot) 1
      { d with sec := { d.sec with wrote := SMap.set [] d.sec.wrote slot [], verified := SMap.set false d.sec.verified slot false } }
    else d
  let blocks := (List.range (ceilDiv (o % 2^16 + bs.length) (2^16))).map (fun i => first + i)
  let d := (blocks.filter (fun b => !touched b)).foldl (fun (d : Dev) (b : Nat) => d.flashErase (d.slotAt slot + b * 2^16) (2^16)) d
  let (bad, d) := d.flashFails
  if bad then (true, d)
  else
    (false, { (d.flashStore (d.slotAt slot + o) bs) with sec := { d.sec with wrote := SMap.set [] d.sec.wrote slot (ranges ++ [(o, bs.length)]) } })

/-- The rules of R314 on a write of `len` bytes at offset `o` of a slot. -/
def slotWriteOk (d : Dev) (slot o len : Nat) (last : Bool) : Bool :=
  let ranges := if o = 0 then [] else SMap.get [] d.sec.wrote slot
  o % 256 == 0 && (last || len % 256 == 0) && decide (o + len ≤ d.slotSize) && !ranges.any (fun r => overlap (o, len) r)

/-- IMAGE_WRITE (R314). Log entry 48, DEDUCED, unsafe. -/
def imageWrite (f : Fuses) (d : Dev) (c : HostCmd) : Ran :=
  let slot := c.p 0
  let last := c.p 2 == 1
  if c.fn.val ≠ 0 then d.stop 0x04
  else if 1 < slot ∨ 1 < c.p 2 ∨ !c.aligned ∨ !d.slotWriteOk slot (c.p 1) c.len.toNat last then d.stop 0x02
  else if slot = d.bootSlot ∨ !d.flashOk then d.stop 0x05
  else d.takeBuf c c.len.toNat (fun bs =>
    match d.programSlot slot (c.p 1) bs with
    | (true, d) => d.stop 0x13
    | (false, d) =>
      if !last then d.ok
      else
        let e := imageError f d slot true false
        if e = 0 then ({ d with sec := { d.sec with verified := SMap.set false d.sec.verified slot true } }).ok 0 else d.stop 0x12 e)

/-! ## FW_SWAP (R315, R147) -/

/-- A command that FW_SWAP must not run beside. -/
def swapBlocked (d : Dev) : Bool := d.host.inflight.any (fun x => x.ended.isNone && !x.dup && [0x40, 0x41, 0x48, 0x4A].contains x.cmd.opcode.toNat)

/-- Microcode written into every engine bank's inactive slot (R147). -/
def loadMicrocode (d : Dev) (code : List Byte) : Dev :=
  (List.range 64).foldl (fun (d : Dev) (e : Nat) =>
    let base := e * 2^18 + (if d.bit (Reg.eng_STATUS e) 25 then 0 else 2^16)
    let kept := d.bank.filter (fun p => decide (p.1 < base ∨ base + 2^16 ≤ p.1))
    ({ d with bank := SMap.store 0 kept base code }).updEng e (fun (x : Eng) => { x with mcNew := true })) d

/-- FW_SWAP (R315). Log entry 48, DEDUCED, unsafe. -/
def fwSwap (f : Fuses) (d : Dev) (c : HostCmd) : Ran :=
  let slot := 1 - d.bootSlot
  let uc := c.p 0 == 1
  if c.fn.val ≠ 0 then d.stop 0x04
  else if 1 < c.p 0 then d.stop 0x02
  else if d.dsafe ∨ d.swapBlocked ∨ !SMap.get false d.sec.verified slot then d.stop 0x05
  else match d.sectionOf slot (if uc then 2 else 1), d.sectionOf slot (if uc then 1 else 2) with
    | some s, some _ =>
      let bs := d.sectionBytes slot s
      let other := if uc then d.sec.mpAbi else d.sec.ucAbi
      if s.param ≠ other then d.stop 0x02
      else if Crypto.sha512 bs ≠ s.digest ∨ !firmwareOk f bs then d.stop 0x12
      else
        let dig := Crypto.sha512 (bs.drop 128)
        let b := d.imgBuild slot
        if uc then
          let d := d.loadMicrocode (bs.drop 128)
          let d := { d with sec := { d.sec with ucDig := dig, ucAbi := s.param } }
          ((d.setBit Reg.sec_STATUS 11 (slot == 1)).wrN Reg.glob_BUILD_UC b).ok b
        else
          let d := { d with sec := { d.sec with mpDig := dig, mpAbi := s.param } }
          ((d.setBit Reg.sec_STATUS 10 (slot == 1)).wrN Reg.glob_BUILD_MP b).ok b
    | _, _ => d.stop 0x05

/-! ## CAL_WRITE (R339) -/

/-- The registers that show the calibration slots (R351). -/
def showSlots (d : Dev) : Dev :=
  let use := d.calInUse
  let d := (d.setBit Reg.cal_STATUS 0 (use == some 1)).setBit Reg.cal_STATUS 1 (d.calSlotSeq 0).isSome
  (d.setBit Reg.cal_STATUS 2 (d.calSlotSeq 1).isSome).wrN Reg.cal_SLOT_SEQ ((use.bind d.calSlotSeq).getD 0)

/-- The slot that CAL_WRITE writes (R339): the one not in use, or slot A. -/
def calTarget (d : Dev) : Nat := if d.calInUse = some 0 then 1 else 0

/-- The SEQ that it gets. -/
def calNextSeq (d : Dev) : Nat := match d.calInUse with
  | some s => (d.calSlotSeq s).getD 0 + 1
  | none => 1

/-- The header block's 64 bytes of a slot with the sets of the tiles in the mask `tiles` (R337). -/
def calHeader (seq tiles : Nat) : List Byte :=
  let h := leBytes 0x534C4143 4 ++ leBytes seq 4 ++ leBytes tiles 1 ++ List.replicate 51 0
  h ++ leBytes (crc32c h).toNat 4

/-- The commit record of a slot with the header `h` (R337). -/
def calCommit (seq : Nat) (h : List Byte) : List Byte :=
  let k := leBytes 0x544D4F43 4 ++ leBytes seq 4 ++ h.drop 60
  k ++ leBytes (crc32c k).toNat 4

/-- The sets that CAL_WRITE copies beside the new one for tile `t` (R339): the valid sets of the slot in use. -/
def calKept (f : Fuses) (d : Dev) (t : Nat) : List (Nat × List Byte) :=
  (List.range 6).filterMap (fun k =>
    if k = t then none
    else d.calInUse.bind (fun s => if d.calSlotHas s k ∧ setError f.serial k (d.calSlotSet s k) = 0 then some (k, d.calSlotSet s k) else none))

/-- A set of the target slot. -/
def calPut (d : Dev) (p : Nat × List Byte) : Dev := d.flashStore (calSlotAt d.calTarget + 0x10000 + 0x10000 * p.1) p.2

/-- The target slot reads back with a correct CRC of its header and of every set (R339). -/
def calReadsBack (f : Fuses) (d : Dev) : Bool :=
  let k := d.calTarget
  let h := d.flashBytes (calSlotAt k) 64
  fieldAt h 0 4 == 0x534C4143 && crcOk h 0 60 && (List.range 6).all (fun t => !d.calSlotHas k t || setError f.serial t (d.calSlotSet k t) == 0)

/-- One step of CAL_WRITE (R282, R339, R340): the set is checked, the target slot erased, its commit block first, and the new set written; the
copies; the header; the slot is read back, and committed. The flash may fail in each. -/
def calWriteStep (f : Fuses) (d : Dev) (c : HostCmd) (stage : Nat) : Ran ⊕ (Dev × Nat) :=
  let t := c.p 0
  let a := calSlotAt d.calTarget
  let kept := calKept f d t
  let wrote (d : Dev) (bad : Bool) : Ran ⊕ (Dev × Nat) := if bad then .inl (d.showSlots.stop 0x13) else .inr (d.showSlots, stage + 1)
  if c.fn.val ≠ 0 then .inl (d.stop 0x04)
  else if 6 ≤ t ∨ !c.aligned then .inl (d.stop 0x02)
  else match stage with
    | 0 =>
      let r := d.takeBuf c c.len.toNat (fun bs =>
        let e := setError f.serial t bs
        if e ≠ 0 then d.stop 0x02 e
        else
          let (bad, d) := (((d.flashErase (a + 0x1F0000) 1).flashErase a 0x70000).calPut (t, bs)).flashFails
          if bad then d.showSlots.stop 0x13 else d.showSlots.ok)
      if r.status = 0 then .inr (r.dev, 1) else .inl r
    | 1 =>
      let (bad, d) := (kept.foldl (fun (d : Dev) p => d.calPut p) d).flashFails
      wrote d bad
    | 2 =>
      let (bad, d) := (d.flashStore a (calHeader d.calNextSeq (kept.foldl (fun n p => n + 2^p.1) (2^t)))).flashFails
      wrote d bad
    | _ =>
      let seq := d.calNextSeq
      let set := d.calSlotSet d.calTarget t
      let (bad, d) := d.flashFails
      if bad ∨ !calReadsBack f d then .inl (d.showSlots.stop 0x13)
      else
        let d := d.flashStore (a + 0x1F0000) (calCommit seq (d.flashBytes a 64))
        .inl (((d.loadSet t set 1).showSlots.raise Reg.cal_EVENTS 1).ok seq)

/-- CAL_WRITE (R339) as a whole. -/
def calWrite (f : Fuses) (d : Dev) (c : HostCmd) : Ran := allSteps (fun d n => calWriteStep f d c n) 4 d 0

/-! ## ATTEST (R321 to R323) -/

def akSecret (f : Fuses) : List Byte := Crypto.hkdf f.secret ("CZ9600 AK".toUTF8.toList.map (fun b => BitVec.ofNat 8 b.toNat) ++ [BitVec.ofNat 8 f.lc])

/-- The attestation report (R322). -/
def attestReport (f : Fuses) (d : Dev) (fn : Nat) (nonce : List Byte) : List Byte :=
  let pad (k : Nat) (l : List Byte) : List Byte := (l ++ List.replicate k 0).take k
  let flags := (if d.timeValid then 1 else 0) + (if fn = 0 then 0 else 2) + (fn - 1) * 4 + (if debugOpen f d then 64 else 0) +
    (if d.bit Reg.sec_STATUS 4 then 128 else 0)
  let ak := pad 32 (Crypto.ed25519Public (akSecret f))
  let head := leBytes 1 2 ++ leBytes f.lc 1 ++ leBytes flags 1 ++ leBytes f.svn 4 ++ leBytes f.serial 8 ++ leBytes d.nowT 8 ++ pad 32 nonce ++
    pad 64 d.sec.manifest ++ pad 64 d.sec.mpDig ++ pad 64 d.sec.ucDig ++ pad 64 d.sec.limDig ++ ak
  let head := head ++ pad 64 (Crypto.ed25519Sign (idkSecret f) (Crypto.sha512 (ak ++ leBytes f.lc 1 ++ leBytes f.serial 8))) ++
    pad 32 (Crypto.ed25519Public (idkSecret f))
  head ++ pad 64 (Crypto.ed25519Sign (akSecret f) (Crypto.sha512 head))

/-- ATTEST (R322). -/
def attest (f : Fuses) (d : Dev) (c : HostCmd) : Ran :=
  if c.len.toNat < 504 ∨ !c.aligned then d.stop 0x02
  else d.giveBuf c (attestReport f d c.fn.val ((List.range 8).flatMap (fun i => leBytes (c.p i) 4))) 504

/-! ## Choosing the slot (R311) -/

/-- CONFIRM (R311, R316): the booted slot becomes ACTIVE; in PRODUCTION an image with RAISE_SVN raises the fused SVN. -/
def confirmed (f : Fuses) (d : Dev) : Fuses × Dev :=
  let slot := d.bootSlot
  let d' := (((d.writeDir slot d.dirFields.2).setBit Reg.sec_STATUS 7 true).setBit Reg.sec_BOOT_CTL 0 false)
  if !d.sec.booted ∨ d.recovery then (f, d.setBit Reg.sec_BOOT_CTL 0 false)
  else (if f.lc = 2 ∧ d.imgRaises slot then f.raiseSvn (d.imgSvn slot) else f, d')

/-- TRY_EN (R311): the directory names the slot to try at the next start. -/
def setTry (d : Dev) (slot : Nat) : Dev :=
  ((d.writeDir d.dirFields.1 slot).setBit Reg.sec_BOOT_CTL 2 (slot == 1)).setBit Reg.sec_BOOT_CTL 1 false

/-! ## Tokens (R318, R319) -/

/-- The bytes of SEC.TOKEN. -/
def tokenBytes (d : Dev) : List Byte := wordBytes ((List.range 48).map (fun i => d.rd (Reg.sec_TOKEN i)))

/-- A life-cycle change that R319 allows with the signer in slot `k`. -/
def lcAllowed (f : Fuses) (k target : Nat) : Bool :=
  let owner := decide (2 ≤ k ∧ k ≤ 5)
  (owner && ((f.lc == 0 && target == 1) || (f.lc == 1 && target == 2) || (f.lc == 2 && target == 3))) ||
  (f.lc != 0 && decide (f.lc < 4) && target == 4 && (owner || k == 1))

/-- RESULT of a token (R319), 0 where it acts. -/
def tokenResult (f : Fuses) (d : Dev) : Nat :=
  let t := d.tokenBytes
  let kind := fieldAt t 0 1
  let k := fieldAt t 1 1
  let target := fieldAt t 2 1
  let owner := decide (2 ≤ k ∧ k ≤ 5)
  let free := f.lc == 0 && kind == 2 && decide (2 ≤ target ∧ target ≤ 5) && f.key target == 0
  let pub := (t.drop 96).take 32
  let good := f.key k == 1 && Crypto.sha512 pub == f.keyDigest k && Crypto.ed25519Verify pub (Crypto.sha512 (t.take 128)) ((t.drop 128).take 64)
  if !free ∧ !good then 1
  else if fieldAt t 8 8 ≠ f.serial then 3
  else if fieldAt t 16 8 ≠ d.rd64 Reg.sec_NONCE_LO then 4
  else if free then 0
  else match kind with
    | 1 =>
      if lcAllowed f k target then (if target < 4 ∧ f.owners.isEmpty then 5 else 0)
      else if (List.range 6).any (fun k => lcAllowed f k target) then 2 else 5
    | 2 =>
      if f.lc ≠ 1 ∧ f.lc ≠ 2 then 5 else if !owner ∨ !decide (2 ≤ target ∧ target ≤ 5) ∨ f.key target ≠ 0 then 2 else 0
    | 3 =>
      if f.lc ≠ 1 ∧ f.lc ≠ 2 then 5
      else if !owner ∨ !decide (2 ≤ target ∧ target ≤ 5) ∨ f.key target ≠ 1 then 2
      else if f.owners = [target] then 7
      else if k = target then 2 else 0
    | 4 => if f.lc = 2 then (if owner then 0 else 2) else if f.lc = 3 then (if k = 1 then 0 else 2) else 5
    | _ => 5

/-- What an accepted token does to the fuses (R317, R319, R320). -/
def tokenFuses (f : Fuses) (d : Dev) : Fuses :=
  let t := d.tokenBytes
  let target := fieldAt t 2 1
  match fieldAt t 0 1 with
  | 1 => f.advance target
  | 2 => { f with keys := SMap.set 0 f.keys target 1, digest := SMap.set [] f.digest target ((t.drop 24).take 64) }
  | 3 => { f with keys := SMap.set 0 f.keys target 2 }
  | _ => f

/-- A new token nonce is drawn (R318). Log entry 10, DESIGN CHOICE, unsafe. -/
def newNonce (d : Dev) : Dev := let (v, d) := d.free; d.wr64 Reg.sec_NONCE_LO v

/-- Submit the token (R318 to R320): it is refused with its RESULT, or it acts; whether a fuse program fails is free. An accepted
life-cycle change is a device reset. -/
def token (f : Fuses) (g : Guard) (d : Dev) : Fuses × Guard × Dev :=
  let kind := fieldAt d.tokenBytes 0 1
  let (v, e) := d.free
  let r := let r := tokenResult f d; if r = 0 ∧ kind ≠ 4 ∧ v % 2 = 1 then 6 else r
  let shut (e : Dev) : Dev := (e.setFld Reg.sec_TOKEN_CTL 0 16 (r * 2^8)).newNonce
  if r ≠ 0 then (f, g, (shut e).raise Reg.sec_EVENTS 2)
  else
    let f' := tokenFuses f d
    let e := (shut e).raise Reg.sec_EVENTS 1
    if kind = 1 then
      let x := resetAll false 16 g e
      (f', x.1, x.2)
    else (f', g, if kind = 4 then e.setBit Reg.sec_STATUS 8 true else e)

/-! ## The recovery mailbox (R330) -/

/-- REC_CTL (R330): GO programs the mailbox into a slot, and with LAST verifies it; a valid slot is booted after a reset. -/
def recGo (f : Fuses) (g : Guard) (d : Dev) (v : Nat) : Guard × Dev :=
  let slot := bitsOf v 2 1
  let len := 256 * bitsOf v 4 16
  let last := bitsOf v 1 1 == 1
  let shut (d : Dev) (err : Bool) : Dev := (d.wrN Reg.sec_REC_CTL (v % 2^20 - bitsOf v 0 1 - bitsOf v 3 1 * 8)).setBit Reg.sec_REC_CTL 3 err
  if bitsOf v 0 1 = 0 then (g, shut d (d.bit Reg.sec_REC_CTL 3))
  else if !d.flashOk ∨ 2^16 < len ∨ !d.slotWriteOk slot (d.rdN Reg.sec_REC_OFS) len last then (g, shut d true)
  else
    let bs := wordBytes ((List.range (len / 4)).map (fun i => d.rd (Reg.sec_REC_BUF i)))
    match d.programSlot slot (d.rdN Reg.sec_REC_OFS) bs with
    | (true, d) => (g, shut d true)
    | (false, d) =>
      if !last then (g, shut d false)
      else if imageError f d slot true true = 0 then
        resetAll false 32 g { d with aon := { d.aon with nextSlot := some (slot == 1), failCode := none } }
      else (g, shut d true)

end Dev
end Sys2Proof.Machine
end

