-- ==== Sys2Proof/Machine/Host.lean ====
section
/-! DEFINITION. The host link (R268 to R295): carrying out host commands, fetching them, the two executors, completions and
interrupts, doorbells, windows, resets of the interface, and the MP watchdog (R328). -/
namespace Sys2Proof.Machine

/-- A command that may change the fuses and the guard as well as the device. -/
def State.onTrust (s : State) (f : Fuses → Guard → Dev → Fuses × Guard × Dev) : Host.Outcome State Fault Refusal :=
  .next { s with fuses := (f s.fuses s.guard s.dev).1, guard := (f s.fuses s.guard s.dev).2.1, dev := (f s.fuses s.guard s.dev).2.2 }

/-- A command that reads the fuses and may change the guard and the device. -/
def State.onSealed (s : State) (f : Fuses → Guard → Dev → Guard × Dev) : Host.Outcome State Fault Refusal :=
  .next { s with guard := (f s.fuses s.guard s.dev).1, dev := (f s.fuses s.guard s.dev).2 }

namespace Dev

/-! ## Carrying out a command (R283, R284) -/

/-- Carry out a command by its opcode (R284); an opcode the table does not hold is BAD_OPCODE. Log entry 17, DESIGN CHOICE, safe. -/
def runCmd (f : Fuses) (d : Dev) (c : HostCmd) : Ran :=
  match c.opcode.toNat with
  | 0x00 => d.ok
  | 0x01 => d.memWrite c
  | 0x02 => d.memRead c
  | 0x03 => d.wipe c
  | 0x08 => d.segWrite c
  | 0x09 => d.segRead c
  | 0x0A => d.reload c
  | 0x0B => d.envWrite c
  | 0x10 => d.progWrite c
  | 0x11 => d.progRead c
  | 0x18 => d.ctxWrite c
  | 0x19 => d.ctxRead c
  | 0x1A => d.ctxClear c
  | 0x20 => d.admitC c
  | 0x21 => d.releaseC c
  | 0x22 => d.ctxStart c
  | 0x23 => d.ctxStop c
  | 0x28 => d.engRetire c
  | 0x29 => d.engRestore c
  | 0x2A => d.engBankRead c
  | 0x30 => d.capReadC c
  | 0x38 => d.partCreate c
  | 0x39 => d.partDestroy c
  | 0x40 => d.dramRetrain c
  | 0x41 => d.dramMigrate c
  | 0x42 => d.dramUnfreeze c
  | 0x48 => imageWrite f d c
  | 0x49 => fwSwap f d c
  | 0x4A => calWrite f d c
  | 0x4B => attest f d c
  | _ => d.stop 0x01

/-- A command with an opcode is carried out now: its function is fetched from (R268), and DRAM serves what it accesses (R366, R407); a move waits, too, for
the requests that are queued for the DMC it empties (R404). -/
def ready (d : Dev) (op : Nat) (c : HostCmd) : Bool :=
  d.fetches c.fn.val && !d.mustWait op c && !((op == 0x40 || op == 0x41) && !d.dramDown && d.moveBusy c)

/-- A command row carried out whole, when its command is ready: its completion awaits its write (R276). Log entry 17, DESIGN CHOICE, safe. -/
def row (op : Nat) (run : Dev → Ran) (c : HostCmd) (d : Dev) : Dev :=
  if !d.ready op c then d
  else
    let r := run d
    let e := r.dev.cqeOf c r.status r.result false
    { r.dev with host := { r.dev.host with cqes := r.dev.host.cqes ++ [e] } }

/-! ## Fetching (R275, R277 to R280) -/

/-- The command that the 64 bytes of a submission entry hold (R275), and whether its reserved bits are zero. -/
def parseEntry (fn : Fn) (sq : Fin 64) (bs : List Byte) : HostCmd × Bool :=
  let w (i : Nat) : Nat := leNat ((bs.drop (4 * i)).take 4)
  (⟨fn, sq, BitVec.ofNat 8 (w 0), bitsOf (w 0) 8 1 == 1, bitsOf (w 0) 9 1 == 1, BitVec.ofNat 16 (w 0 / 2^16), BitVec.ofNat 32 (w 1),
    BitVec.ofNat 64 (w 2 + 2^32 * w 3), BitVec.ofNat 32 (w 4), (List.range 10).map (fun i => BitVec.ofNat 32 (w (6 + i)))⟩,
   bitsOf (w 0) 10 6 == 0 && w 5 == 0)

/-- The numbers below `n` in round-robin order after `x`. -/
def turns (n x : Nat) : List Nat := (List.range n).map (fun i => (x + 1 + i) % n)

/-- The SQ that is fetched from next and the entries its turn then counts: the SQ of the present turn up to 8 entries, else the next SQ of the
next function that has one to fetch from (R277). -/
def fetchPick (d : Dev) : Option (Fin 64 × Nat) :=
  let fn := SMap.get 0 d.host.rr 0
  let q := SMap.get 0 d.host.rr (1 + fn) % 64
  if d.host.turn < 8 ∧ d.qFn q = fn ∧ d.fetchable q then some (Fin.ofNat 64 q, d.host.turn + 1)
  else match (turns 13 fn).find? (fun f => (List.range 64).any (fun q => d.qFn q == f && d.fetchable q)) with
    | none => none
    | some f => ((turns 64 (SMap.get 0 d.host.rr (1 + f))).find? (fun q => d.qFn q == f && d.fetchable q)).map (fun q => (Fin.ofNat 64 q, 1))

/-- A fetched command joins the commands in flight. -/
def addInflight (d : Dev) (x : InFlight) : Dev := { d with host := { d.host with inflight := d.host.inflight ++ [x] } }
/-- A fetched command ends at once, without having been entered in the record of serials. -/
def endAtOnce (d : Dev) (c : HostCmd) (status result : Nat) (dup : Bool) : Dev :=
  let d := d.addInflight ⟨c, 0, some (status, result), dup⟩
  { d with host := { d.host with cqes := d.host.cqes ++ [d.cqeOf c status result dup] } }

/-- A serial is newer than another (R280): their difference is positive as a signed 32-bit number. -/
def newerSerial (s newest : Nat) : Bool := decide (0 < sext 32 (s + 2^32 - newest % 2^32))

/-- Take a fetched command in (R279, R280): a duplicate, one with a TAG that is in flight, an old one, or a new one; `clean` says that its
reserved bits are zero (R275). Log entry 35, DESIGN CHOICE, unsafe. -/
def takeIn (d : Dev) (c : HostCmd) (clean : Bool) : Dev :=
  let q := c.sq.val
  let s := c.serial.toNat
  match (SMap.get [] d.host.serials q).find? (fun r => r.serial == s) with
  | some r =>
    let d := d.bump (Reg.q_DUP_CNT q)
    (match r.ended with
     | some e => d.endAtOnce c e.1 e.2 true
     | none => d.addInflight ⟨c, 0, none, true⟩)
  | none =>
    if d.host.inflight.any (fun x => x.cmd.sq == c.sq && x.cmd.tag == c.tag) then d.endAtOnce c 0x0E 0 false
    else if (match SMap.get none d.host.newest q with | some n => !newerSerial s n | none => false) then d.endAtOnce c 0x0F 0 false
    else
      let old := SMap.get [] d.host.serials q
      let record := old.drop (old.length + 1 - 2048) ++ [⟨s, none⟩]
      let d := { d with host := { d.host with serials := SMap.set [] d.host.serials q record, newest := SMap.set none d.host.newest q (some s) } }
      let x : InFlight := ⟨c, 0, none, false⟩
      let d := d.addInflight x
      if clean then d else d.conclude x 0x02 0

end Dev

/-- COMMAND_FETCH (R277, R278): one entry is fetched, if any SQ may be fetched from. -/
def commandFetchD (d : Dev) : Dev :=
  match d.fetchPick with
  | none => d
  | some (q, turn) =>
    let fn : Fn := Fin.ofNat 13 (d.qFn q)
    let (c, clean) := Dev.parseEntry fn q (d.hostBytes (d.rd64 (Reg.q_SQ_BASE_LO q) / 4096 * 4096 + 64 * d.sqHead q) 64)
    let d := d.wrN (Reg.q_SQ_HEAD q) ((d.sqHead q + 1) % 512)
    let d := { d with host := { d.host with rr := SMap.set 0 (SMap.set 0 d.host.rr 0 fn.val) (1 + fn.val) q.val, turn := turn } }
    d.takeIn c clean

namespace Dev

/-! ## The executors (R281, R282) -/

/-- The host DMA engine carries out a command, not the MP: a transfer between host memory and DRAM or an on-chip store (R282). -/
def isDma (c : HostCmd) : Bool := [0x01, 0x02, 0x08, 0x09, 0x0B, 0x10, 0x11, 0x18, 0x19, 0x2A, 0x30].contains c.opcode.toNat

/-- The objects a command names (R281), as kind, first number and count: 0 segment, 1 envelope, 2 program store, 3 context, 4 engine, 5 DMC, 6
digitiser, 7 partition, 8 flash slot, 9 the calibration area (R339). -/
def objects (d : Dev) (c : HostCmd) : List (Nat × Nat × Nat) :=
  match c.opcode.toNat with
  | 0x08 => [(0, c.p 0, 1)]
  | 0x09 => [(0, c.p 0, 1)]
  | 0x0A => [(0, c.p 0, 1)]
  | 0x0B => [(1, bitsOf (c.p 0) 0 12, 1)]
  | 0x10 => [(2, c.p 0, c.len.toNat / 16)]
  | 0x11 => [(2, c.p 0, c.len.toNat / 16)]
  | 0x18 => [(3, c.p 0, 1)]
  | 0x19 => [(3, c.p 0, 1)]
  | 0x1A => [(3, c.p 0, 1)]
  | 0x20 => ((leWords (d.hostBytes c.addr.toNat (min 1024 c.len.toNat))).map (fun w => (3, w.toNat, 1)))
  | 0x21 => [(3, c.p 0, 1)]
  | 0x22 => (3, c.p 0, 1) :: (if c.p 1 < 64 then [(4, c.p 1, 1)] else [])
  | 0x23 => [(3, c.p 0, 1)]
  | 0x28 => [(4, c.p 0, 1)]
  | 0x29 => [(4, c.p 0, 1)]
  | 0x2A => [(4, c.p 0, 1)]
  | 0x30 => [(6, c.p 0 % 8, 1)]
  | 0x38 => [(7, c.p 0, 1)]
  | 0x39 => [(7, c.p 0, 1)]
  | 0x40 => [(5, c.p 0, 1)]
  | 0x41 => [(5, c.p 0, 1)]
  | 0x48 => [(8, c.p 0, 1)]
  | 0x49 => [(8, 1 - d.bootSlot, 1)]
  | 0x4A => [(9, 0, 1)]
  | _ => []

/-- Two commands name the same object. -/
def sameObject (d : Dev) (a b : HostCmd) : Bool := (d.objects a).any (fun x => (d.objects b).any (fun y => x.1 == y.1 && meet x.2.1 x.2.2 y.2.1 y.2.2))

/-- The commands in flight that an executor may run a step of, in fetch order: not ended, no duplicate, not held by FENCE, and with no
earlier command on the same object (R278, R281). -/
def runnable (d : Dev) (dma : Bool) : List InFlight :=
  let l := d.host.inflight
  (List.range l.length).filterMap (fun i =>
    match l[i]? with
    | none => none
    | some x =>
      let before := l.take i
      if x.ended.isNone && !x.dup && isDma x.cmd == dma &&
         !(x.cmd.fence && before.any (fun y => y.cmd.sq == x.cmd.sq)) &&
         !(before.any (fun y => y.ended.isNone && !y.dup && d.sameObject y.cmd x.cmd)) then some x else none)

/-- The command whose step an executor runs next: the next function with work in round-robin order, and within it the next SQ (R282). -/
def nextWork (d : Dev) (dma : Bool) : Option InFlight :=
  let l := d.runnable dma
  let e := if dma then 1 else 0
  match (turns 13 (SMap.get 0 d.host.rr (32 + e))).find? (fun f => l.any (fun x => x.cmd.fn.val == f)) with
  | none => none
  | some f =>
    match (turns 64 (SMap.get 0 d.host.rr (64 + 16 * e + f))).find? (fun q => l.any (fun x => x.cmd.fn.val == f && x.cmd.sq.val == q)) with
    | none => none
    | some q => l.find? (fun x => x.cmd.fn.val == f && x.cmd.sq.val == q)

/-- The device while a command's host buffer comes from `x`. -/
def fedBy (d : Dev) (x : Feed) : Dev := { d with host := { d.host with feed := x } }
/-- A command's place among the buffers that are being taken. -/
def bufKey (c : HostCmd) : Nat := c.sq.val * 2^16 + c.tag.toNat

/-- One step of a command that takes its whole host buffer before it acts (R282): it moves at most 262,144 bytes, and the step that moves the last of
them carries the command out. What the command tests before its first read, every step tests. Log entry 76, DESIGN CHOICE, unsafe. -/
def takeStep (f : Fuses) (d : Dev) (c : HostCmd) (moved : Nat) : Ran ⊕ (Dev × Nat) :=
  let len := c.len.toNat
  let r := runCmd f (d.fedBy .probe) c
  if len ≤ 262144 then .inl (runCmd f d c)
  else if r.status ≠ 0 then .inl { r with dev := r.dev.fedBy .host }
  else
    let k := stepBytes len moved
    let n := d.dmaSpan c.fn.val (c.addr.toNat + moved) k false
    if n < k then .inl ((d.dmaDenied c.fn.val).stop 0x0C (moved + n))
    else if d.host.rdErr then .inl d.dmaError
    else
      let bs := (if moved = 0 then [] else SMap.get [] d.host.taken (bufKey c)) ++ d.hostBytes (c.addr.toNat + moved) k
      let keep (bs : List Byte) : Dev := { d with host := { d.host with taken := SMap.set [] d.host.taken (bufKey c) bs } }
      if moved + k < len then .inr (keep bs, moved + k)
      else
        let r := runCmd f ((keep []).fedBy (.held bs)) c
        .inl { r with dev := r.dev.fedBy .host }

/-- One step of a command (R282), `moved` into it. Log entry 76, DESIGN CHOICE, unsafe. -/
def stepCmd (f : Fuses) (d : Dev) (c : HostCmd) (moved : Nat) : Ran ⊕ (Dev × Nat) :=
  match c.opcode.toNat with
  | 0x01 => d.memWriteStep c moved
  | 0x02 => d.memReadStep c moved
  | 0x40 => d.moveStep c true moved
  | 0x41 => d.moveStep c false moved
  | 0x11 => d.progReadStep c moved
  | 0x0A => d.reloadStep c moved
  | 0x30 => d.capReadStep c moved
  | 0x39 => d.partDestroyStep c moved
  | 0x0B => takeStep f d c moved
  | 0x10 => takeStep f d c moved
  | 0x48 => takeStep f d c moved
  | 0x4A => calWriteStep f d c moved
  | _ => .inl (runCmd f d c)

end Dev

/-- What a step of the executor leaves: the host's answer to its reads is spent. -/
def Dev.answered (d : Dev) : Dev := { d with host := { d.host with rdErr := false } }

/-- EXECUTOR_STEP (R282): an executor, the host DMA engine or the MP, completes one step; `w.hostError` says that the host answers its read of host
memory with an error (R283), and `w.errors` are the codewords in which devices have come to err by then (R396). A step that must wait for DRAM is not
completed. -/
def executorStepG (w : ExecStep) (f : Fuses) (g : Guard) (d : Dev) : Guard × Dev :=
  match d.nextWork w.dma with
  | none => (g, d)
  | some x =>
    if d.mustWait x.cmd.opcode.toNat x.cmd then (g, d)
    else
    let e := if w.dma then 1 else 0
    let d := d.spoil w.errors
    let d := { d with host := { d.host with rdErr := w.hostError, rr := SMap.set 0 (SMap.set 0 d.host.rr (32 + e) x.cmd.fn.val) (64 + 16 * e + x.cmd.fn.val) x.cmd.sq.val } }
    match d.stepCmd f x.cmd x.moved with
    | .inl r => (g.reseal r.reseal, (r.dev.conclude x r.status r.result).answered)
    | .inr (d, n) =>
      (g, { d with host := { d.host with rdErr := false, inflight := d.host.inflight.map (fun y => if Dev.endsWith x y && !y.dup then { y with moved := n } else y) } })

/-! ## Completions and interrupts (R276, R278, R286) -/

/-- The 16 bytes of a completion entry (R276). -/
def Cqe.bytes (e : Cqe) (head : Nat) (phase : Bool) : List Byte :=
  leBytes (e.tag % 2^16 + e.sq * 2^16 + (if e.dup then 2^22 else 0) + e.status * 2^24) 4 ++ leBytes e.serial 4 ++ leBytes e.result 4 ++
    leBytes (head + (if phase then 2^31 else 0)) 4

/-- CQ `q` signals its vector; none of its entries awaits a signal any more (R286). -/
def Dev.signalCq (d : Dev) (q : Nat) : Dev :=
  let d := d.signal (d.qFn q) (d.fld (Reg.q_CQ_CTL q) 1 7)
  { d with host := { d.host with unsig := SMap.set 0 d.host.unsig q 0 } }

/-- COMPLETION_WRITE (R276, R278): the completion that has waited longest on CQ `q` is written, if there is room; its command is no longer
in flight. Log entry 35, DESIGN CHOICE, unsafe. -/
def completionWriteD (q : Fin 64) (d : Dev) : Dev :=
  match d.host.cqes.find? (fun e => e.cq == q.val) with
  | none => d
  | some e =>
    if !d.bit (Reg.q_CQ_CTL q) 0 then d
    else if d.cqFull q then d.raise (Dev.fnKey e.fn Reg.host_EVENTS) 8
    else
      let tail := d.fld (Reg.q_CQ_TAIL q) 0 10
      let phase := d.bit (Reg.q_CQ_TAIL q) 31
      let d := d.hostStore (d.rd64 (Reg.q_CQ_BASE_LO q) / 4096 * 4096 + 16 * tail) (e.bytes (d.sqHead e.sq) phase)
      let phase := if tail = 1023 then !phase else phase
      let d := d.wrN (Reg.q_CQ_TAIL q) ((tail + 1) % 1024 + (if phase then 2^31 else 0))
      let mine (x : InFlight) : Bool := x.cmd.sq.val == e.sq && x.cmd.tag.toNat == e.tag && x.cmd.serial.toNat == e.serial && x.dup == e.dup && x.ended.isSome
      let d := { d with host := { d.host with cqes := d.host.cqes.erase e,
                                              inflight := d.host.inflight.eraseIdx (d.host.inflight.findIdx mine) } }
      if e.irq then d.signalCq q else { d with host := { d.host with unsig := SMap.upd 0 d.host.unsig q (· + 1) } }

/-- CQ_INTERRUPT (R286): CQ `q` signals its vector for entries not yet signalled, once IRQ_CNT of them are written, at once where IRQ_TIME is 0,
or when IRQ_TIME has passed since the first (`timer`). -/
def cqInterruptD (q : Fin 64) (timer : Bool) (d : Dev) : Dev :=
  let n := SMap.get 0 d.host.unsig q
  let cnt := max 1 (d.fld (Reg.q_CQ_CTL q) 8 8)
  if n = 0 ∨ !(timer ∨ cnt ≤ n ∨ d.fld (Reg.q_CQ_CTL q) 16 16 = 0) then d
  else d.signalCq q

/-- EVT_HOLDOFF (R286): a hold-off of the event interrupt ends; flags that set during it are signalled, which starts the next. -/
def evtHoldoffD (fn : Fn) (d : Dev) : Dev :=
  let k := fn.val
  let pend := SMap.get false d.host.evtPend k
  let d := { d with host := { d.host with evtHold := SMap.set false d.host.evtHold k false, evtPend := SMap.set false d.host.evtPend k false } }
  if pend then d.eventIrq k else d

/-! ## Doorbells and queue control (R274, R287, R294) -/

/-- SQ_TAIL (R274). -/
def sqTailD (fn : Fn) (q : Fin 64) (v : Word) (d : Dev) : Dev :=
  d.access fn (Reg.q_SQ_TAIL q) (d.qOwner q) (fun d =>
    if 512 ≤ v.toNat then d.raise (Dev.fnKey fn Reg.host_EVENTS) 16 else (d.wr (Reg.q_SQ_TAIL q) v).endParity (Reg.q_SQ_TAIL q))

/-- CQ_HEAD (R274). -/
def cqHeadD (fn : Fn) (q : Fin 64) (v : Word) (d : Dev) : Dev :=
  d.access fn (Reg.q_CQ_HEAD q) (d.qOwner q) (fun d =>
    if 1024 ≤ v.toNat then d.raise (Dev.fnKey fn Reg.host_EVENTS) 16 else (d.wr (Reg.q_CQ_HEAD q) v).endParity (Reg.q_CQ_HEAD q))

/-- The reset of one SQ (R287 step 1, R280, R294): its commands in flight end without a completion, the first command after it is always new,
and hardware clears RESET when done. Log entry 35, DESIGN CHOICE, unsafe. -/
def Dev.resetSq (d : Dev) (q : Nat) : Dev := ((d.dropCmds (fun x => x == q)).clearSerials q).setBit (Reg.q_SQ_CTL q) 1 false

/-- SQ_RESET (R287): a write of 1 to SQ_CTL.RESET. -/
def sqResetD (fn : Fn) (q : Fin 64) (d : Dev) : Dev :=
  d.access fn (Reg.q_SQ_CTL q) (d.qOwner q) (fun d => d.resetSq q)

/-- The CQ is enabled (R294): the tail returns to 0 and PHASE to 1; nothing on it awaits a signal. -/
def Dev.enableCq (d : Dev) (q : Nat) : Dev :=
  let d := (d.setBit (Reg.q_CQ_CTL q) 0 true).wrN (Reg.q_CQ_TAIL q) (2^31)
  { d with host := { d.host with unsig := SMap.set 0 d.host.unsig q 0 } }

/-- CQ_ENABLE (R294): CQ_CTL.EN is set; on a CQ that is enabled already nothing changes. -/
def cqEnableD (fn : Fn) (q : Fin 64) (d : Dev) : Dev :=
  d.access fn (Reg.q_CQ_CTL q) (d.qOwner q) (fun d => if d.bit (Reg.q_CQ_CTL q) 0 then d else d.enableCq q)

/-! ## Resets of the interface and the configuration space (R268, R287, R288, R299) -/

/-- FUNCTION_LEVEL_RESET of the virtual function of partition `p` (R287). -/
def functionLevelResetD (p : Fin 12) (d : Dev) : Dev := d.resetFn (p.val + 1)

/-- HOT_RESET (R288): the PF's FLR or a hot reset. -/
def hotResetD (d : Dev) : Dev :=
  let d := (List.range 13).foldl (fun (d : Dev) (fn : Nat) => d.resetFn fn) d
  { d with host := { d.host with vfEnable := false } }

/-- LINK_DOWN (R288): the host interface of every function is reset and no context stops. Log entry 36, DEDUCED, unsafe. -/
def linkDownD (d : Dev) : Dev :=
  let d := (d.dropCmds (fun _ => true)).setFld Reg.host_STATUS 21 6 0
  let d := (List.range 13).foldl (fun (d : Dev) (fn : Nat) => d.resetHostRegs fn) d
  { d with host := { d.host with linkUp := false } }

/-- PCIE_LINK_UP (R267, R292, R299): the link has trained at a speed and width, as HOST.STATUS codes them, the width no wider than the port. -/
def pcieLinkUpD (speed : Fin 6) (width : Fin 5) (d : Dev) : Dev :=
  { (d.setFld Reg.host_STATUS 21 6 (speed.val + 8 * min width.val d.host.maxWidth)) with host := { d.host with linkUp := true } }

/-- VF_ENABLE (R268): VF Enable and NumVFs of the SR-IOV capability are written. -/
def vfEnableD (en : Bool) (numVFs : Fin 13) (d : Dev) : Dev := { d with host := { d.host with vfEnable := en, numVFs := numVFs } }

/-! ## Windows (R271 to R273, R293) -/

/-- The DMA window commits (R293): the range and permissions that stand in its registers hold for later requests. Log entry 32, DESIGN CHOICE, unsafe. -/
def Dev.commitDmaw (d : Dev) (fn w : Nat) (ctl : Nat) : Dev :=
  let a := Dev.fnKey fn (Reg.dmaw_BASE_LO w)
  let d := (d.wrN (a + 12) (ctl % 8)).endParity (a + 12)
  { d with host := { d.host with dmaw := SMap.set (0, 0, 0) d.host.dmaw (fn * 16 + w) (d.rd64 a / 4096, d.rdN (a + 8), ctl % 8) } }

/-- DMA_WINDOW_WRITE (R293). -/
def dmaWindowWriteD (fn : Fn) (w : Fin 16) (ctl : Word) (d : Dev) : Dev :=
  d.access fn (Reg.dmaw_CTL w) (Dev.fnOwner fn.val) (fun d => d.commitDmaw fn w ctl.toNat)

/-- A BAR2 window commits (R271, R419): a low word and a high word. Log entry 32, DESIGN CHOICE, unsafe. -/
def Dev.commitBar2 (d : Dev) (fn w lo hi : Nat) : Dev :=
  let a := Dev.fnKey fn (Reg.host_BAR2_WIN_LO w)
  (((d.wrN a (lo / 4096 * 4096 + lo % 2)).wrN (a + 4) (hi % 2^9)).endParity a).endParity (a + 4)

/-- BAR2_WINDOW_WRITE (R271, R419): a write of BAR2_WIN[w].HI, with the low word that the function has staged, or the present one. -/
def bar2WindowWriteD (fn : Fn) (w : Fin 16) (hi : Word) (d : Dev) : Dev :=
  d.access fn (Reg.host_BAR2_WIN_HI w) (Dev.fnOwner fn.val) (fun d =>
    let a := Dev.fnKey fn (Reg.host_BAR2_WIN_LO w)
    let lo := ((SMap.get none d.stage a).getD (d.rd a)).toNat
    ({ d with stage := SMap.set none d.stage a none }).commitBar2 fn w lo hi.toNat)

/-- The DRAM byte a BAR2 access of `len` bytes starts at, when its window is enabled and its whole range may be accessed (R271, R423). -/
def Dev.bar2At (d : Dev) (fn off len : Nat) : Option Nat :=
  let w := off / 2^32
  let a := Dev.fnKey fn (Reg.host_BAR2_WIN_LO w)
  let addr := d.rdN a / 4096 * 4096 + d.rdN (a + 4) % 2^9 * 2^32 + off % 2^32
  if d.bit a 0 ∧ !d.corrupt a 8 ∧ off % 2^32 + len ≤ 2^32 ∧ d.dramRegion (Dev.fnOwner fn) addr len then some addr else none

/-- A BAR2 access is denied (R271). -/
def Dev.bar2Denied (d : Dev) (fn : Nat) : Dev := (d.raise (Dev.fnKey fn Reg.host_EVENTS) 2).bump (Dev.fnKey fn Reg.host_BAR2_DENY_CNT)
/-- What a BAR2 read returns. -/
def Dev.bar2Gives (d : Dev) (bs : List Byte) : Dev := { d with host := { d.host with bar2Out := bs } }

/-- BAR2_READ (R271, R272). Log entry 37, DEDUCED, unsafe. -/
def bar2ReadD (fn : Fn) (off : BitVec 36) (len : Fin 4097) (d : Dev) : Dev :=
  if !d.barAwake then d.bar2Gives (List.replicate len 0)
  else match d.bar2At fn off.toNat len with
    | none => (d.bar2Denied fn).bar2Gives (List.replicate len 0)
    | some a =>
      if d.dramDown then (d.raise (Dev.fnKey fn Reg.host_EVENTS) 4).bar2Gives (List.replicate len 0)
      else if d.stallsAt a len then d
      else match d.meetBad 6 a len with
        | some d => (d.raise (Dev.fnKey fn Reg.host_EVENTS) 4).bar2Gives (List.replicate len 0)
        | none => (d.served false a len).bar2Gives (d.dramRead a len)

/-- BAR2_WRITE (R271, R272). Log entry 37, DEDUCED, unsafe. -/
def bar2WriteD (fn : Fn) (off : BitVec 36) (data : List Byte) (d : Dev) : Dev :=
  if !d.barAwake then d
  else match d.bar2At fn off.toNat data.length with
    | none => d.bar2Denied fn
    | some a =>
      if d.dramDown then d.raise (Dev.fnKey fn Reg.host_EVENTS) 4
      else if d.stallsAt a data.length then d
      else match d.badPart a data.length with
        | some q => (d.freezeAt 6 true q).raise (Dev.fnKey fn Reg.host_EVENTS) 4
        | none => d.writeDram a data

/-! ## The MP watchdog (R328) -/

/-- WATCHDOG_EXPIRY (R328): the safe hold of every channel with cause watchdog, the fault and its count; commands in flight end ABORTED. In STANDBY
the watchdog is suspended (R371). -/
def watchdogExpiryD (d : Dev) : Dev :=
  if d.standby then d
  else
    let d := (d.bump Reg.sec_WDT_CNT).raise Reg.sec_EVENTS 8
    let d := (List.range 96).foldl (fun (d : Dev) (n : Nat) => d.setHold n 16) d
    let d := d.faultNow 9 0x90 0 0 [d.rdN Reg.sec_WDT_CNT]
    d.endCmds (fun _ => true) 0x14

/-- WATCHDOG_SERVICE (R328): the MP services the watchdog, and its cause of the safe hold is no longer present. -/
def watchdogServiceD (d : Dev) : Dev := d.clearCauseAll 16

/-! ## The rows -/

/-- NOP (R284). -/
def execNop (c : HostCmd) (s : State) : Host.Outcome State Fault Refusal :=
  s.onDev (Dev.row 0x00 (fun d => d.ok) c)

/-- MEM_WRITE (R285). -/
def execMemWrite (c : HostCmd) (s : State) : Host.Outcome State Fault Refusal :=
  s.onDev (Dev.row 0x01 (fun d => d.memWrite c) c)

/-- MEM_READ (R285). -/
def execMemRead (c : HostCmd) (s : State) : Host.Outcome State Fault Refusal :=
  s.onDev (Dev.row 0x02 (fun d => d.memRead c) c)

/-- WIPE (R324). -/
def execWipe (c : HostCmd) (s : State) : Host.Outcome State Fault Refusal :=
  s.onDev (Dev.row 0x03 (fun d => d.wipe c) c)

/-- SEG_WRITE (R60). -/
def execSegWrite (c : HostCmd) (s : State) : Host.Outcome State Fault Refusal :=
  s.onDev (Dev.row 0x08 (fun d => d.segWrite c) c)

/-- SEG_READ (R284). -/
def execSegRead (c : HostCmd) (s : State) : Host.Outcome State Fault Refusal :=
  s.onDev (Dev.row 0x09 (fun d => d.segRead c) c)

/-- RELOAD (R69). -/
def execReload (c : HostCmd) (s : State) : Host.Outcome State Fault Refusal :=
  s.onDev (Dev.row 0x0A (fun d => d.reload c) c)

/-- ENV_WRITE (R163). -/
def execEnvWrite (c : HostCmd) (s : State) : Host.Outcome State Fault Refusal :=
  s.onDev (Dev.row 0x0B (fun d => d.envWrite c) c)

/-- PROG_WRITE (R471). -/
def execProgWrite (c : HostCmd) (s : State) : Host.Outcome State Fault Refusal :=
  s.onDev (Dev.row 0x10 (fun d => d.progWrite c) c)

/-- PROG_READ (R471). -/
def execProgRead (c : HostCmd) (s : State) : Host.Outcome State Fault Refusal :=
  s.onDev (Dev.row 0x11 (fun d => d.progRead c) c)

/-- CTX_WRITE (R122). -/
def execCtxWrite (c : HostCmd) (s : State) : Host.Outcome State Fault Refusal :=
  s.onDev (Dev.row 0x18 (fun d => d.ctxWrite c) c)

/-- CTX_READ (R284). -/
def execCtxRead (c : HostCmd) (s : State) : Host.Outcome State Fault Refusal :=
  s.onDev (Dev.row 0x19 (fun d => d.ctxRead c) c)

/-- CTX_CLEAR (R122). -/
def execCtxClear (c : HostCmd) (s : State) : Host.Outcome State Fault Refusal :=
  s.onDev (Dev.row 0x1A (fun d => d.ctxClear c) c)

/-- ADMIT (R75). -/
def execAdmitCtx (c : HostCmd) (s : State) : Host.Outcome State Fault Refusal :=
  s.onDev (Dev.row 0x20 (fun d => d.admitC c) c)

/-- RELEASE (R75). -/
def execRelease (c : HostCmd) (s : State) : Host.Outcome State Fault Refusal :=
  s.onDev (Dev.row 0x21 (fun d => d.releaseC c) c)

/-- CTX_START (R126). -/
def execCtxStart (c : HostCmd) (s : State) : Host.Outcome State Fault Refusal :=
  s.onDev (Dev.row 0x22 (fun d => d.ctxStart c) c)

/-- CTX_STOP (R128). -/
def execCtxStop (c : HostCmd) (s : State) : Host.Outcome State Fault Refusal :=
  s.onDev (Dev.row 0x23 (fun d => d.ctxStop c) c)

/-- ENG_RETIRE (R145). -/
def execEngRetire (c : HostCmd) (s : State) : Host.Outcome State Fault Refusal :=
  s.onDev (Dev.row 0x28 (fun d => d.engRetire c) c)

/-- ENG_RESTORE (R145). -/
def execEngRestore (c : HostCmd) (s : State) : Host.Outcome State Fault Refusal :=
  s.onDev (Dev.row 0x29 (fun d => d.engRestore c) c)

/-- ENG_BANK_READ (R121). -/
def execEngBankRead (c : HostCmd) (s : State) : Host.Outcome State Fault Refusal :=
  s.onDev (Dev.row 0x2A (fun d => d.engBankRead c) c)

/-- CAP_READ (R262). -/
def execCapRead (c : HostCmd) (s : State) : Host.Outcome State Fault Refusal :=
  s.onDev (Dev.row 0x30 (fun d => d.capReadC c) c)

/-- PART_CREATE (R290). -/
def execPartCreate (c : HostCmd) (s : State) : Host.Outcome State Fault Refusal :=
  s.onDev (Dev.row 0x38 (fun d => d.partCreate c) c)

/-- DRAM_RETRAIN (R403). -/
def execDramRetrain (c : HostCmd) (s : State) : Host.Outcome State Fault Refusal :=
  s.onDev (Dev.row 0x40 (fun d => d.dramRetrain c) c)

/-- DRAM_MIGRATE (R403). -/
def execDramMigrate (c : HostCmd) (s : State) : Host.Outcome State Fault Refusal :=
  s.onDev (Dev.row 0x41 (fun d => d.dramMigrate c) c)

/-- DRAM_UNFREEZE (R400). -/
def execDramUnfreeze (c : HostCmd) (s : State) : Host.Outcome State Fault Refusal :=
  s.onDev (Dev.row 0x42 (fun d => d.dramUnfreeze c) c)

/-- IMAGE_WRITE (R314). -/
def execImageWrite (c : HostCmd) (s : State) : Host.Outcome State Fault Refusal :=
  s.onFused (fun f _ => Dev.row 0x48 (fun d => Dev.imageWrite f d c) c)

/-- FW_SWAP (R315). -/
def execFwSwap (c : HostCmd) (s : State) : Host.Outcome State Fault Refusal :=
  s.onFused (fun f _ => Dev.row 0x49 (fun d => Dev.fwSwap f d c) c)

/-- CAL_WRITE (R339). -/
def execCalWrite (c : HostCmd) (s : State) : Host.Outcome State Fault Refusal :=
  s.onFused (fun f _ => Dev.row 0x4A (fun d => Dev.calWrite f d c) c)

/-- ATTEST (R322). -/
def execAttest (c : HostCmd) (s : State) : Host.Outcome State Fault Refusal :=
  s.onFused (fun f _ => Dev.row 0x4B (fun d => Dev.attest f d c) c)

/-- PART_DESTROY as a row: the working limits of the partition's channels return to their seals (R291). -/
def partDestroyG (c : HostCmd) (g : Guard) (d : Dev) : Guard × Dev :=
  (if d.ready 0x39 c then g.reseal (d.partDestroy c).reseal else g, Dev.row 0x39 (fun d => d.partDestroy c) c d)

/-- PART_DESTROY (R291). -/
def execPartDestroy (c : HostCmd) (s : State) : Host.Outcome State Fault Refusal :=
  s.onGuard (partDestroyG c)

/-- EXECUTOR_STEP (R282). -/
def execExecutorStep (w : ExecStep) (s : State) : Host.Outcome State Fault Refusal :=
  s.onSealed (executorStepG w)

/-- SQ_TAIL (R274). -/
def execSqTail (fn : Fn) (q : Fin 64) (v : Word) (s : State) : Host.Outcome State Fault Refusal :=
  s.onDev (sqTailD fn q v)

/-- CQ_HEAD (R274). -/
def execCqHead (fn : Fn) (q : Fin 64) (v : Word) (s : State) : Host.Outcome State Fault Refusal :=
  s.onDev (cqHeadD fn q v)

/-- COMMAND_FETCH (R277). -/
def execCommandFetch (s : State) : Host.Outcome State Fault Refusal :=
  s.onDev commandFetchD

/-- COMPLETION_WRITE (R276). -/
def execCompletionWrite (q : Fin 64) (s : State) : Host.Outcome State Fault Refusal :=
  s.onDev (completionWriteD q)

/-- CQ_INTERRUPT (R286). -/
def execCqInterrupt (q : Fin 64) (timer : Bool) (s : State) : Host.Outcome State Fault Refusal :=
  s.onDev (cqInterruptD q timer)

/-- EVT_HOLDOFF (R286). -/
def execEvtHoldoff (fn : Fn) (s : State) : Host.Outcome State Fault Refusal :=
  s.onDev (evtHoldoffD fn)

/-- SQ_RESET (R287). -/
def execSqReset (fn : Fn) (q : Fin 64) (s : State) : Host.Outcome State Fault Refusal :=
  s.onDev (sqResetD fn q)

/-- CQ_ENABLE (R294). -/
def execCqEnable (fn : Fn) (q : Fin 64) (s : State) : Host.Outcome State Fault Refusal :=
  s.onDev (cqEnableD fn q)

/-- FUNCTION_LEVEL_RESET (R287). -/
def execFunctionLevelReset (p : Fin 12) (s : State) : Host.Outcome State Fault Refusal :=
  s.onDev (functionLevelResetD p)

/-- HOT_RESET (R288). -/
def execHotReset (s : State) : Host.Outcome State Fault Refusal :=
  s.onDev hotResetD

/-- LINK_DOWN (R288). -/
def execLinkDown (s : State) : Host.Outcome State Fault Refusal :=
  s.onDev linkDownD

/-- PCIE_LINK_UP (R299). -/
def execPcieLinkUp (speed : Fin 6) (width : Fin 5) (s : State) : Host.Outcome State Fault Refusal :=
  s.onDev (pcieLinkUpD speed width)

/-- VF_ENABLE (R268). -/
def execVfEnable (en : Bool) (numVFs : Fin 13) (s : State) : Host.Outcome State Fault Refusal :=
  s.onDev (vfEnableD en numVFs)

/-- DMA_WINDOW_WRITE (R293). -/
def execDmaWindowWrite (fn : Fn) (w : Fin 16) (ctl : Word) (s : State) : Host.Outcome State Fault Refusal :=
  s.onDev (dmaWindowWriteD fn w ctl)

/-- BAR2_WINDOW_WRITE (R271). -/
def execBar2WindowWrite (fn : Fn) (w : Fin 16) (hi : Word) (s : State) : Host.Outcome State Fault Refusal :=
  s.onDev (bar2WindowWriteD fn w hi)

/-- BAR2_READ (R271). -/
def execBar2Read (fn : Fn) (off : BitVec 36) (len : Fin 4097) (s : State) : Host.Outcome State Fault Refusal :=
  s.onDev (bar2ReadD fn off len)

/-- BAR2_WRITE (R271). -/
def execBar2Write (fn : Fn) (off : BitVec 36) (data : List Byte) (s : State) : Host.Outcome State Fault Refusal :=
  s.onDev (bar2WriteD fn off data)

/-- WATCHDOG_EXPIRY (R328). -/
def execWatchdogExpiry (s : State) : Host.Outcome State Fault Refusal :=
  s.onDev watchdogExpiryD

/-- WATCHDOG_SERVICE (R328). -/
def execWatchdogService (s : State) : Host.Outcome State Fault Refusal :=
  s.onDev watchdogServiceD

end Sys2Proof.Machine
end

