-- ==== Sys2Proof/Machine/RegWrite.lean ====
section
/-! DEFINITION. Writes to BAR0 registers (R5 to R7, R413 to R424): what every write passes, and what each block's own chapter says
of a write to it. -/
namespace Sys2Proof.Machine

/-- A write on its way to a register: the requester whose staging words it uses (R419), the function it acts as, the register's BAR0
offset and key, its place, the bits written with their values, the word a read would return, and its row. -/
structure Acc where
  req    : Nat
  fn     : Nat
  off    : Nat
  key    : Nat
  blk    : Block
  i      : Nat
  r      : Nat
  narrow : Bool
  set    : Nat
  val    : Nat
  old    : Nat
  row    : RegRow
deriving DecidableEq, Repr

namespace Acc

/-- Every bit of a word. -/
def ones : Nat := 0xFFFFFFFF
/-- The bits that software may write. -/
def mask (a : Acc) : Nat := if a.row.rc then ones else a.row.rw ||| a.row.rwb ||| a.row.rws
/-- The word that results from the write: written bits over the word a read would return (R415, R418, R420). -/
def new (a : Acc) : Nat :=
  let m := a.mask &&& a.set
  (a.old &&& (ones ^^^ m)) ||| (a.val &&& m)
/-- The write changes one of the bits of `m`. -/
def changes (a : Acc) (m : Nat) : Bool := (a.old ^^^ a.new) &&& m != 0
/-- A one-shot bit is written as 1 (R416). -/
def shot (a : Acc) (i : Nat) : Bool := bitsOf (a.set &&& a.val) i 1 == 1
/-- The resulting word with its one-shot bits `m` as written now. -/
def cmd (a : Acc) (m : Nat) : Word := BitVec.ofNat 32 ((a.new &&& (ones ^^^ m)) ||| (a.set &&& a.val &&& m))
/-- A field of the resulting word. -/
def f (a : Acc) (lo w : Nat) : Nat := bitsOf a.new lo w

end Acc

namespace Dev

/-- Store the writable bits of a register; its mismatch ends (R424). -/
def put (d : Dev) (a : Acc) : Dev :=
  (d.wrN a.key ((d.rdN a.key &&& (Acc.ones ^^^ a.mask)) ||| (a.new &&& a.mask))).endParity a.key

/-- The word in force stays what it is until the block's boundary (R415). -/
def holdWord (d : Dev) (key : Nat) : Dev := if d.held key then d else { d with inforce := SMap.set none d.inforce key (some (d.rd key)) }

/-- A buffered write of a running block (R415). Log entry 33, DESIGN CHOICE, unsafe. -/
def putHeld (d : Dev) (a : Acc) : Dev := (d.holdWord a.key).put a

/-- The write is refused as a whole (R413, R414). -/
def no (d : Dev) (a : Acc) (cause : Nat) : Dev := d.refuse a.fn a.off cause a.narrow

/-- Store, or refuse with the cause of the first test that fails. Log entry 30, DEDUCED, unsafe. -/
def checked (d : Dev) (a : Acc) (tests : List (Bool × Nat)) (k : Dev → Dev) : Dev :=
  match tests.find? (fun t => t.1) with
  | some t => d.no a t.2
  | none => k d

/-! ## Channels (R183, R192 to R206) -/

/-- A channel's output stage powers up for the first time after a reset with OUT_SAFE_N low: the level counts as a falling edge (R195,
R449), stamped at the first TB tick. Log entry 31, DESIGN CHOICE, unsafe. Log entry 51, DEDUCED, unsafe. -/
def powerUp (g : Guard) (d : Dev) (n : Nat) : Dev :=
  let first := !(d.chanOf n).powered
  let d := d.updChan n (fun (c : Chan) => { c with powered := true })
  if !(first && d.safePin) then d
  else if d.timeState = 2 then safeFall 0 g d
  else { d with safeEdge := true }

/-- An admitted context names channel `n`. -/
def namedByAdmitted (d : Dev) (n : Nat) : Bool := d.admitted.any (fun c => (d.ctxChans c).contains n)

/-- CHN.CFG (R124, R180, R192, R199, R202, R373). A channel that leaves OFF after an APPLY while the SPLL is not locked is held until it locks (R362). A channel that becomes static gives the STATIC_CODE in force until its first strobe (R198). -/
def commitChnCfg (g : Guard) (d : Dev) (a : Acc) : Dev :=
  let n := a.i
  let volts := a.f 11 1 == 1
  let allowed := if volts then (g.of n).voltOk else (g.of n).curOk
  if d.isClaimed n && a.changes 0xFFC38F3 ∨ d.namedByAdmitted n && a.changes 0xF0 then d.no a 5
  else if a.f 0 2 = 3 ∨ 2 ≤ a.f 12 2 ∨ (volts ∧ a.f 12 2 = 1) ∨ a.f 4 4 = 0 ∨ 10 < a.f 4 4 ∨ (volts ∧ d.fld (Reg.chn_OUT_CFG n) 8 8 < 50) ∨ 2 ^ a.f 4 4 ≤ a.f 18 10 then d.no a 6
  else if a.changes 0x800 ∧ !allowed then d.loosen a.fn a.off n
  else if a.f 0 2 = 2 ∧ d.lgOwner (d.fld (Reg.chn_STATIC_CFG n) 0 4) ≠ d.chOwner n then d.no a 7
  else
    let up := bitsOf a.old 0 2 == 0 && a.f 0 2 != 0
    let d := if (d.chanOf n).cur.isSome then d.putHeld a else (d.putHeld a).boundary n d.nowT
    let d := if a.f 0 2 = 2 ∧ bitsOf a.old 0 2 ≠ 2 then Dev.drive g d n d.nowT (sext 16 (d.effFld (Reg.chn_STATIC_CODE n) 0 16)) else d
    let d := if a.changes 0x800 then d.beginSettle n else d
    let d := if up then (d.beginSettle n).powerUp g n else d
    let d := if up ∧ d.rdN Reg.clk_SPLL_ACT ≠ 0 ∧ !d.bit Reg.clk_STATUS 0 then d.setHold n 4 else d
    if up ∧ d.dsafe then d.setHold n 0 else d

/-- CHN.OUT_CFG (R192). -/
def commitOutCfg (g : Guard) (d : Dev) (a : Acc) : Dev :=
  let n := a.i
  let k := g.of n
  if d.isClaimed n && a.changes 0xFFFF then d.no a 5
  else if 192 < a.f 0 8 ∨ k.fsMax < a.f 0 8 ∨ 200 < a.f 8 8 ∨ k.vMax < a.f 8 8 then d.loosen a.fn a.off n
  else if d.bit (Reg.chn_CFG n) 11 ∧ a.f 8 8 < 50 then d.no a 6
  else
    let d := d.put a
    if a.changes 0xFFFF then d.beginSettle n else d

/-- GAIN, OFFSET and IDLE_CODE: a channel that plays holds the value to its next boundary, and any other takes it at once (R202). -/
def putTrim (d : Dev) (a : Acc) : Dev :=
  let d := d.putHeld a
  if (d.chanOf a.i).cur.isSome then d else d.boundary a.i d.nowT

/-- Registers of CHN other than the guard's (R85, R169 to R171, R202 to R204). Log entry 31, DESIGN CHOICE, unsafe. -/
def commitChn (g : Guard) (d : Dev) (a : Acc) : Dev :=
  let n := a.i
  match a.r with
  | 0x0 => commitChnCfg g d a
  | 0x30 => commitOutCfg g d a
  | 0x10 => d.putTrim a
  | 0x14 => d.putTrim a
  | 0x18 => d.putTrim a
  | 0x20 => if d.isClaimed n then d.putHeld a else (d.put a).settle a.key
  | 0x1804 => if a.shot 0 then holdRelD (Fin.ofNat 13 a.fn) (Fin.ofNat 96 n) g d else d
  | 0x1808 =>
    let d := d.putHeld a
    let w := d.rd a.key
    d.updChan n (fun (c : Chan) => { c with statics := (d.nowT / 16, w) :: c.statics })
  | 0x180C => d.checked a [(d.lgOwner (a.f 0 4) != d.chOwner n, 7)] (fun d => d.put a)
  | 0x2400 => frCmdD (Fin.ofNat 13 a.fn) (Fin.ofNat 96 n) (a.cmd 0x10000) d
  | 0x3000 => d.checked a [((d.isClaimed n || d.namedByAdmitted n) && a.changes 0x1FFFF00, 5), (a.f 8 8 != 0 && (decide (a.f 8 8 < 4) || decide (128 < a.f 8 8)), 6)]
      (fun d => d.put a)
  | _ => d.put a

/-! ## Engines (R130, R150) -/

/-- An engine's static fields are locked: its owner has an admitted context (R150). -/
def engLocked (d : Dev) (e : Nat) : Bool := d.admitted.any (fun c => d.ctxRecOwner c == d.engOwner e)

def commitEng (d : Dev) (a : Acc) : Dev :=
  let e := a.i
  match a.r with
  | 0x0 => d.checked a [(d.engLocked e && a.changes 2, 5)] (fun d => d.put a)
  | 0x30 => d.checked a [(d.engLocked e && a.changes 0xFFFF, 5), (a.f 0 16 == 0, 6)] (fun d => d.put a)
  | 0x10 =>
    let bound := (d.engCtx e).isSome
    let d := if bound && a.changes 0x3FFF then d.putHeld a else if bound then d.put a else (d.put a).settle a.key
    if a.changes 0x10000 ∨ (!bound && a.changes 0x3FFF) then d.restage e else d
  | _ => d.put a

/-! ## The event fabric (R210 to R227, R235 to R242) -/

/-- Function `fn` may select source `s` (R210). -/
def mayListen (d : Dev) (fn s : Nat) : Bool :=
  if s < 576 then sees fn (d.chOwner (s / 6))
  else if s < 832 then sees fn (d.engOwner ((s - 576) / 4))
  else if s < 928 ∨ (986 ≤ s ∧ s < 1018) then d.bit (Reg.srcOwn_OWN s) 5 || sees fn (d.srcOwner s)
  else true

/-- The sources that an event channel's written CFG and CTL select (R211). -/
def namedSources (cfg ctl : Nat) : List Nat :=
  [(10, bitsOf cfg 0 10), (11, bitsOf cfg 10 10), (12, bitsOf cfg 20 10), (13, bitsOf ctl 0 10)].filterMap (fun p => if bitsOf ctl p.1 1 = 1 then some p.2 else none)

/-- The event channels that task input `i` is set to select. -/
def tinSelects (d : Dev) (i : Nat) : List Nat :=
  let s := d.rdN (Reg.tin_SEL i)
  (if bitsOf s 8 1 = 1 then [bitsOf s 0 8] else []) ++ (if bitsOf s 18 1 = 1 then [bitsOf s 10 8] else [])

/-- The least LAT of input `i` under R221, where `delay` is the DELAY of each event channel. -/
def latFloor (d : Dev) (i : Nat) (delay : Nat → Nat) : Nat :=
  let pipe := if 368 ≤ i ∧ i < 400 then
      ((List.range 96).filter (fun n => bitsOf (d.rdN (Reg.fi_CHSET (i - 368) (n / 32))) (n % 32) 1 == 1)).foldl (fun m n => max m (d.lPipe n)) 8
    else 8
  latMin i + 16 * (pipe - 8) + 16 * ((d.tinSelects i).map delay).foldl max 0

/-- The inputs that R221 tests against dl_min. -/
def latTested (i : Nat) : Bool := decide (368 ≤ i ∧ i < 500)

/-- A new DELAY of event channel `n` would make some task input's LAT too short (R218). -/
def delayBreaks (d : Dev) (n delay : Nat) : Bool :=
  (List.range 132).any (fun k =>
    let i := 368 + k
    (d.tinSelects i).contains n && decide (d.rdN (Reg.tin_LAT i) < d.latFloor i (fun m => if m = n then delay else d.fld (Reg.ec_DELAY m) 0 12)))

/-- EN of an event channel changes (R215, R218): set, the count is loaded with PHASE; cleared, held firings are discarded and the count is 0. -/
def ecEnable (d : Dev) (n : Nat) (on_ : Bool) : Dev :=
  if on_ then d.setCount n ((d.eff (Reg.ec_DIV n)).toNat / 2^16)
  else ((d.updEc n (fun (e : EcSt) => { e with hold := [] })).showHeld n).setCount n 0

def commitEc (d : Dev) (a : Acc) : Dev :=
  let n := a.i
  let may (cfg ctl : Nat) : Bool := (namedSources cfg ctl).all (fun s => d.mayListen a.fn s)
  match a.r with
  | 0x0 => d.checked a [(!may a.new (d.rdN (Reg.ec_CTL n)), 7)] (fun d => (d.putHeld a).applyEc n)
  | 0x4 => d.checked a [(!may (d.rdN (Reg.ec_CFG n)) a.new, 7), (a.f 20 2 == 3, 6)] (fun d =>
      let d := if a.changes 0x37FFFF then d.putHeld a else d.put a
      if a.changes (2^22) then (if a.f 22 1 = 1 then ((d.setCount n 0).applyEc n).ecEnable n true else (d.ecEnable n false).applyEc n) else d.applyEc n)
  | 0x8 => d.checked a [(decide (a.f 0 16 < a.f 16 16), 6)] (fun d => (d.putHeld a).applyEc n)
  | 0xC => d.checked a [(d.delayBreaks n (a.f 0 12), 5)] (fun d => (d.putHeld a).applyEc n)
  | 0x20 => d.checked a [(a.new == 0 || decide (d.rdN (Reg.ec_GATE_PERIOD n) < a.new), 6)] (fun d => (d.putHeld a).applyEc n)
  | 0x24 => d.checked a [(decide (a.new < d.rdN (Reg.ec_GATE_WIDTH n)), 6)] (fun d => (d.putHeld a).applyEc n)
  | _ => d.put a

/-- What a write of task input `i` or of its consumer holds applies as soon as no action waits (R236). Log entry 33, DESIGN CHOICE, unsafe. -/
def applyInput (d : Dev) (i : Nat) : Dev :=
  if 368 ≤ i ∧ i < 400 then d.applyFi (i - 368)
  else
    let d := d.applyTin i
    if 416 ≤ i ∧ i < 424 then d.applyTo (i - 416) else d

def commitTin (d : Dev) (a : Acc) : Dev :=
  let i := a.i
  let mine (n : Nat) : Bool := d.ecOwner n == d.tinOwner i
  match a.r with
  | 0x0 => d.checked a [((a.f 8 1 == 1 && !mine (a.f 0 8)) || (a.f 18 1 == 1 && !mine (a.f 10 8)), 7)] (fun d => (d.putHeld a).applyInput i)
  | 0x4 =>
    if i < 256 ∨ 500 ≤ i then d
    else d.checked a [(decide (a.new < latMin i) || (latTested i && decide (a.new < d.latFloor i (fun m => d.fld (Reg.ec_DELAY m) 0 12))), 6)]
      (fun d => (d.putHeld a).applyInput i)
  | _ => d.put a

/-- A launch input is static: the context it names is admitted, or the one it would name (R225, R238). -/
def liLocked (d : Dev) (k new : Nat) : Bool :=
  let cfg := d.rdN (Reg.li_CFG k)
  (bitsOf cfg 14 1 == 1 && d.isAdmitted (bitsOf cfg 0 14)) || (bitsOf new 14 1 == 1 && d.isAdmitted (bitsOf new 0 14))

def commitLi (d : Dev) (a : Acc) : Dev :=
  match a.r with
  | 0x0 => d.checked a [(d.liLocked a.i a.new && a.changes Acc.ones, 5), (a.f 14 1 == 1 && d.ctxOwner (a.f 0 14) != d.liOwner a.i, 7)] (fun d => d.put a)
  | 0x4 => d.checked a [(d.liLocked a.i 0 && a.changes Acc.ones, 5)] (fun d => d.put a)
  | _ => d.put a

def commitFi (d : Dev) (a : Acc) : Dev :=
  let k := a.i
  let foreign : Bool := decide (0x10 ≤ a.r) && (List.range 32).any (fun b => a.f b 1 == 1 && d.chOwner (8 * a.r - 0x80 + b) != d.fiOwner k)
  d.checked a [(a.r == 0 && decide (5 ≤ a.f 0 3), 6), (foreign, 7)] (fun d => (d.putHeld a).applyInput (368 + k))

def commitTo (g : Guard) (d : Dev) (a : Acc) : Dev :=
  let k := a.i
  match a.r with
  | 0x0 => (d.putHeld a).applyInput (416 + k)
  | 0x4 => d.checked a [(decide (a.f 0 24 < 16) || decide ((g.ofTo k).gap < a.f 0 24 + 16), 6)] (fun d => (d.putHeld a).applyInput (416 + k))
  | _ => d.put a

/-- Load groups (R199, R206). -/
def commitLg (d : Dev) (a : Acc) : Dev :=
  let locked := !(d.members a.i).isEmpty
  match a.r with
  | 0x0 => d.checked a [(locked && a.changes 0x1F1, 5), (a.fn != 0 && a.changes 0x1F0, 7)] (fun d => d.put a)
  | 0x4 => d.checked a [(locked && a.changes Acc.ones, 5), (decide (a.new < 320), 6)] (fun d => d.put a)
  | _ => d.put a

/-! ## Trigger inputs, marker lines and captures (R243 to R265) -/

/-- A buffered write of a trigger input: an enabled one holds it to the next tick boundary (R263, R415). Log entry 74, DESIGN CHOICE, unsafe. -/
def putTi (d : Dev) (m : Nat) (f : Dev → Dev) : Dev := if d.effFld (Reg.ti_CFG m) 0 1 = 1 then f d else (f d).applyTi m

def commitTi (d : Dev) (a : Acc) : Dev :=
  let m := a.i
  match a.r with
  | 0x0 => d.checked a [(d.effFld a.key 0 1 == 1 && a.changes 8, 5), (a.f 12 2 == 3 || a.f 4 2 == 3, 6)] (fun d => d.putTi m (fun d => d.putHeld a))
  | 0x4 =>
    let level := sext 12 (a.f 0 12)
    d.checked a [(decide (level < -2000) || decide (2000 < level) || decide (200 < a.f 16 8), 6)] (fun d => d.putTi m (fun d => d.putHeld a))
  | 0x28 => if a.shot 0 then triggerArmD (Fin.ofNat 13 a.fn) (Fin.ofNat 16 m) d else d
  | _ => d.putTi m (fun d => d.putHeld a)

def commitMk (d : Dev) (a : Acc) : Dev :=
  let ch := bitsOf a.old 2 7
  match a.r with
  | 0x0 => d.checked a [(d.isClaimed ch && a.changes Acc.ones, 5), (decide (95 < a.f 2 7), 6), (!sees a.fn (d.chOwner (a.f 2 7)), 7)] (fun d => (d.put a).refreshLine a.i d.nowT true)
  | 0x4 =>
    let cfg := d.rdN (Reg.mk_CFG a.i)
    if bitsOf cfg 0 2 ≠ 0 ∧ d.isClaimed (bitsOf cfg 2 7) then d.putHeld a else (d.put a).settle a.key
  | _ => d.put a

/-- CAP.CTL: an abort first, then APPLY, then ARM and TRIG. -/
def commitCapCtl (d : Dev) (a : Acc) : Dev :=
  let k : Fin 6 := Fin.ofNat 6 a.i
  let d := if a.shot 3 then abortD k d else d
  let d := if a.shot 0 then captureApplyD (Fin.ofNat 13 a.fn) k d else d
  let d := if a.shot 1 then captureArmD k true d else d
  if a.shot 2 then captureTriggerD k true d else d

/-! ## Host, clocks, power, DRAM and the rest -/

def commitQ (d : Dev) (a : Acc) : Dev :=
  let q := a.i
  match a.r with
  | 0x10 => d.checked a [(bitsOf a.old 0 1 == 1 && a.changes 0x3F00, 5), (d.qOwner (a.f 8 6) != d.qOwner q, 7)] (fun d =>
      let d := if bitsOf a.old 0 1 = 0 ∧ a.f 0 1 = 1 then (d.put a).clearSerials q else d.put a
      if a.shot 1 then d.resetSq q else d.setBit a.key 1 false)
  | 0x24 => if bitsOf a.old 0 1 = 0 ∧ a.f 0 1 = 1 then (d.put a).enableCq q else d.put a
  | _ => d.put a

/-- PWR.SC_OFF (R374): a bank that is turned off loses its contents. -/
def commitScOff (d : Dev) (a : Acc) : Dev :=
  let w := (a.r - 0x40) / 4
  let live := d.admList.flatMap (fun x => x.2)
  let turned := ((List.range 32).filter (fun b => a.f b 1 == 1 && bitsOf a.old b 1 == 0)).map (fun b => 32 * w + b)
  let busy (n : Nat) : Bool := d.isClaimed n || (d.chanOf n).resident.any (fun r => live.contains r.seg && d.namedByAdmitted n)
  d.checked a [(turned.any busy, 5)] (fun d => turned.foldl (fun (d : Dev) (n : Nat) => (d.clearBank n).setScState n 0) (d.put a))

def commitPwr (d : Dev) (a : Acc) : Dev :=
  if 0x40 ≤ a.r then d.commitScOff a
  else if a.r = 0x20 then d.checked a [(decide (1680 < sext 16 a.new), 6)] (fun d => d.put a)
  else d.put a

def commitDram (d : Dev) (a : Acc) : Dev :=
  match a.r with
  | 0x0 => d.checked a [(a.f 16 16 == 0, 6)] (fun d =>
      let d := d.put a
      if !a.changes 1 then d else if a.f 0 1 = 1 then d.enterSr a.i else d.exitSr a.i)
  | _ => d.checked a [(decide (0x20 ≤ a.r ∧ a.r < 0x48) && decide (a.f 0 16 < 100), 6)] (fun d => d.put a)

/-- LINK.CFG (R55): clearing ENABLE takes the ports and the numbering down. -/
def commitLink (d : Dev) (a : Acc) : Dev :=
  d.checked a [(bitsOf a.old 10 1 == 1 && a.f 10 1 == 1 && a.changes 0x3F3, 5)] (fun d =>
    let d := d.put a
    if bitsOf a.old 10 1 = 1 ∧ a.f 10 1 = 0 then
      { (((d.wrN (Reg.port_STATE 0) 0).wrN (Reg.port_STATE 1) 0).setFld Reg.link_STATUS 0 10 0) with ports := [] }
    else d)

/-- Marks of the SEC block that act through the fuses are left standing for `oneShots`. Log entry 31, DESIGN CHOICE, unsafe. -/
def commitSec (d : Dev) (a : Acc) : Dev :=
  match a.r with
  | 0x8 => (d.put a).wrN a.key ((a.cmd 3).toNat)
  | 0x40 => if a.shot 0 then d.setBit a.key 0 true else d
  | _ => if (a.r = 0x54 ∨ 0x10000 ≤ a.r) ∧ !d.recovery then d else d.put a

/-- A write of a register of one of the blocks that have no part in the guard (R413). -/
def commit (g : Guard) (d : Dev) (a : Acc) : Dev :=
  let fn : Fn := Fin.ofNat 13 a.fn
  if a.row.rc then
    (if a.blk = .engIn then d.put { a with key := Reg.tin_OVR_CNT (if a.i % 5 = 4 then 256 + a.i / 5 else 4 * (a.i / 5) + a.i % 5) } else d.put a)
  else match a.blk with
  | .time => if a.r = 0x18 then timeSetArmD (a.cmd 0x10000) d else d.put a
  | .alarm => if a.r = 0xC then d.putHeld a else d.put a
  | .link => d.commitLink a
  | .chn => d.commitChn g a
  | .eng => d.commitEng a
  | .tile => d.checked a [(decide (a.f 0 16 < 100), 6)] (fun d => d.put a)
  | .lg => d.commitLg a
  | .evt => if a.r = 8 then doorbellD fn (BitVec.ofNat 32 a.val) d else d.put a
  | .srcOwn => if (832 ≤ a.i ∧ a.i < 928) ∨ (986 ≤ a.i ∧ a.i < 1018) then d.put a else d
  | .ec => d.commitEc a
  | .tin => d.commitTin a
  | .grp => if a.r = 4 then grpCmdD fn (Fin.ofNat 32 a.i) (a.cmd 2) d else d.put a
  | .li => d.commitLi a
  | .fi => d.commitFi a
  | .to => d.commitTo g a
  | .lt => (d.putHeld a).applyLt a.i
  | .ep => d.checked a [(a.fn != 0 && a.changes 0x1F00, 7)] (fun d => d.put a)
  | .ti => d.commitTi a
  | .mk => d.commitMk a
  | .cap => if a.r = 0x28 then d.commitCapCtl a else d.put a
  | .msix => (d.put a).msixUnmask a.fn (a.r / 16)
  | .dmaw => if a.r = 0xC then d.commitDmaw a.fn a.i a.new else d.put a
  | .q => if a.r = 8 then sqTailD fn (Fin.ofNat 64 a.i) (BitVec.ofNat 32 a.val) d
          else if a.r = 0x1C then cqHeadD fn (Fin.ofNat 64 a.i) (BitVec.ofNat 32 a.val) d else d.commitQ a
  | .sec => d.commitSec a
  | .calTile =>
    if a.r = 0 then freezeD (Fin.ofNat 6 a.i) (BitVec.ofNat 32 a.new) d
    else if a.r = 4 then (if a.shot 0 then runD (Fin.ofNat 6 a.i) d else d)
    else d.checked a [(a.r == 0x14 && decide (a.f 0 16 < 100), 6)] (fun d => d.put a)
  | .clk => if a.r = 0x20 then applyD (a.cmd 1) d else d.checked a [((a.r == 0x10 || a.r == 0x14) && d.bit Reg.clk_STATUS 8, 5)] (fun d => (d.put a).showCeil)
  | .pwr => d.commitPwr a
  | .dram => d.commitDram a
  | .faultQ => if a.r = 4 then ackD (Fin.ofNat 14 a.i) (BitVec.ofNat 32 a.val) d else d.put a
  | _ => d.put a

/-! ## Pairs (R419) -/

/-- The frame-command registers are locked while a command is held (R169). -/
def frLocked (d : Dev) (a : Acc) : Bool := a.blk == .chn && decide (0x2404 ≤ a.r ∧ a.r ≤ 0x2418) && d.bit (Reg.chn_FR_CMD a.i) 17

/-- APPLY_AT is locked while an APPLY is pending (R361). -/
def applyLocked (d : Dev) (a : Acc) : Bool := a.blk == .clk && d.bit Reg.clk_STATUS 8

/-- A pair's low word is held in the requester's staging word. -/
def stageLow (d : Dev) (a : Acc) : Dev :=
  if d.frLocked a || d.applyLocked a then d.no a 5 else { d with stage := SMap.set none d.stage (fnKey a.req a.off) (some (BitVec.ofNat 32 a.val)) }

/-- The row of the low word of a pair whose high word is at `off`. -/
def lowMask (off : Nat) : Nat :=
  match regRow (off - 4) with
  | some x => if x.rc then Acc.ones else x.rw ||| x.rwb ||| x.rws
  | none => 0

/-- A write of a pair's high word commits both words, or is refused and leaves both as they are; the staging word is empty again. -/
def commitHigh (d : Dev) (a : Acc) : Dev :=
  let k := fnKey a.req (a.off - 4)
  let low := ((SMap.get none d.stage k).getD (d.rd (a.key - 4))).toNat &&& lowMask a.off
  let d := { d with stage := SMap.set none d.stage k none }
  let hi := a.val &&& a.mask
  let same := low == d.rdN (a.key - 4) && hi == d.rdN a.key
  let both (d : Dev) : Dev := (((d.wrN (a.key - 4) low).wrN a.key hi).endParity (a.key - 4)).endParity a.key
  let held (d : Dev) : Dev := both ((d.holdWord (a.key - 4)).holdWord a.key)
  match a.blk with
  | .chn =>
    if d.frLocked a then d.no a 5
    else if a.r = 0x2428 then (both d).runQuery a.i
    else both d
  | .ec => (held d).applyEc a.i
  | .fi => (held d).applyInput (368 + a.i)
  | .ti => d.putTi a.i held
  | .q => d.checked a [(!same && d.bit (if a.r = 4 then Reg.q_SQ_CTL a.i else Reg.q_CQ_CTL a.i) 0, 5)] both
  | .clk => d.checked a [(d.applyLocked a, 5)] both
  | .host => d.commitBar2 a.fn ((a.r - 0x104) / 8) low hi
  | .pwr =>
    let was := d.rd64 Reg.pwr_ENG_BANK_OFF_LO
    let turned := (low + 2^32 * hi) &&& ((2^64 - 1) ^^^ was)
    let back := was &&& ((2^64 - 1) ^^^ (low + 2^32 * hi))
    d.checked a [((List.range 64).any (fun e => bitsOf turned e 1 == 1 && ((d.engCtx e).isSome || (d.engOwner e).isSome)), 5)] (fun d =>
      (List.range 64).foldl (fun (d : Dev) (e : Nat) => if bitsOf (turned ||| back) e 1 = 1 then d.clearEngBank e else d) (both d))
  | _ => both d

end Dev

/-! ## The write path -/

/-- TO.GAP (R227): never below the seal, and WIDTH stays within GAP - 16. -/
def writeGap (g : Guard) (d : Dev) (a : Acc) : Guard × Dev :=
  let k := g.ofTo a.i
  if a.new < k.sealGap then (g, d.no a 8)
  else if a.new < d.fld (Reg.to_WIDTH a.i) 0 24 + 16 then (g, d.no a 6)
  else ({ g with tout := SMap.set {} g.tout a.i { k with gap := a.new } }, d.endParity a.key)

/-- A write of a register that is no pair word and no status register reaches its block (R413). Log entry 30, DEDUCED, unsafe. -/
def writeReg (f : Fuses) (g : Guard) (d : Dev) (a : Acc) : Guard × Dev :=
  let fn : Fn := Fin.ofNat 13 a.fn
  let ch : Fin 96 := Fin.ofNat 96 a.i
  let v : Word := BitVec.ofNat 32 a.new
  if a.blk = .chn ∧ a.r = 0x1000 then guardWriteG fn ch 0 v g d
  else if a.blk = .chn ∧ a.r = 0x1004 then guardWriteG fn ch 1 v g d
  else if a.blk = .chn ∧ a.r = 0x1008 then guardWriteG fn ch 2 v g d
  else if a.blk = .chn ∧ a.r = 0x1800 then safeCodeG fn ch v g d
  else if a.blk = .to ∧ a.r = 8 then writeGap g d a
  else if a.blk = .sec ∧ a.r = 0x50 then (if d.recovery then Dev.recGo f g d (a.cmd 1).toNat else (g, d))
  else if a.blk = .sec ∧ a.r = 0x10 then (if a.val = 0xA5 then resetAll false 8 g d else (g, d))
  else (g, d.commit g a)

/-- A clearing write (R5, R6, R414): a stale SEQ changes nothing and is counted. Clearing TIME.EVENTS.LATE clears LATE_MAX (R54), and clearing a
channel's TRIP takes the trip out of the causes of its hold (R196, R204). -/
def Dev.clearingWrite (d : Dev) (a : Acc) : Dev :=
  let v : Word := BitVec.ofNat 32 a.val
  if bitsOf a.val 24 8 ≠ d.rdN a.key / 2^24 then d.staleClr a.fn a.off
  else
    let d := d.clearFlags a.key v
    if a.key = Reg.time_EVENTS ∧ bitsOf a.val 0 1 = 1 then d.wrN Reg.time_LATE_MAX 0
    else if a.blk = .chn ∧ a.r = 8 ∧ bitsOf a.val 6 1 = 1 then d.clearCause a.i 1
    else d

/-- A doorbell (R418). -/
def isBell (b : Block) (r : Nat) : Bool :=
  match b with
  | .q => r == 8 || r == 0x1C
  | .evt => r == 8
  | .sec => r == 0x10
  | _ => false

/-- The bits that byte enables name. -/
def beMask (be : BitVec 4) : Nat := (List.range 4).foldl (fun n k => if be.getLsbD k then n + 0xFF * 256^k else n) 0

/-- A write that reaches a register (R417 to R420): by its kind it clears flags, stages or commits a pair, or goes to its block. `alias` says
that it came through a masked alias. -/
def reachReg (f : Fuses) (g : Guard) (d : Dev) (a : Acc) (aliased : Bool) : Guard × Dev :=
  if a.row.rsq ≠ 0 then
    if a.narrow then (g, d.accessErr a.fn a.off 3 true true)
    else if aliased then (g, d.accessErr a.fn a.off 4 true false)
    else (g, d.clearingWrite a)
  else if isBell a.blk a.r ∨ a.row.pair ≠ 0 ∨ a.row.wo ∨ (aliased ∧ a.narrow) then
    if a.narrow then (g, d.accessErr a.fn a.off 3 true true)
    else if aliased then (g, d.accessErr a.fn a.off 4 true false)
    else if a.row.wo ∨ a.row.pair = 0 ∨ a.blk = .dmaw then (let y := writeReg f g d a; (y.1, d.accepted y.2 a.fn a.key))
    else if a.mask = 0 then (g, d)
    else if a.row.pair = 1 then (g, d.stageLow a)
    else (g, d.commitHigh a)
  else
    let y := if a.mask = 0 then (g, d) else writeReg f g d a
    (y.1, d.accepted y.2 a.fn a.key)

/-- ACC_LAST names the offset and width of the access itself, an alias included, when the access has entered its record (R426). -/
def Dev.locateLast (before d : Dev) (fn off : Nat) (narrow : Bool) : Dev :=
  if before.accFirst fn ∧ !d.accFirst fn then
    (d.setFld (Dev.fnKey fn Reg.glob_ACC_LAST) 2 26 (off / 4)).setFld (Dev.fnKey fn Reg.glob_ACC_LAST) 0 1 (if narrow then 1 else 0)
  else d

/-- A write at `off` of the register map (R7, R270, R411, R421): requester `req` acting as function `fn`, byte enables `be`, value `v`; `answers`
says whether the register's home answers. -/
def mapWrite (f : Fuses) (g : Guard) (d : Dev) (req fn off : Nat) (be : BitVec 4) (v : Nat) (answers : Nat → Bool) : Guard × Dev :=
  let whole := off / 4 * 4
  let part := whole / 0x4000000
  let at_ := whole % 0x4000000
  let narrow := be != 0xF
  match locate at_, regRow at_ with
    | some (b, i, r), some x =>
      if 2 < part ∨ !(d.vis b i r).sees fn then (g, d.accessErr fn whole 1 true narrow)
      else if !answers at_ then (g, d.accessErr fn whole 2 true narrow)
      else
        let set := if part = 0 then beMask be else if part = 1 then v / 2^16 else v / 2^16 * 2^16
        let val := if part = 0 then v else if part = 1 then v % 2^16 else v % 2^16 * 2^16
        let key := if Dev.perFn b r then Dev.fnKey fn at_ else at_
        let y := reachReg f g d ⟨req, fn, at_, key, b, i, r, narrow, set, val, d.shown f g fn at_ b i r, x⟩ (part != 0)
        (y.1, d.locateLast y.2 fn whole narrow)
    | _, _ => (g, d.accessErr fn whole 1 true narrow)

/-- A write to BAR0, which the device does not answer in STANDBY (R411). -/
def bar0Write (f : Fuses) (g : Guard) (d : Dev) (req fn off : Nat) (be : BitVec 4) (v : Nat) : Guard × Dev :=
  if d.standby then (g, d) else mapWrite f g d req fn off be v d.awake

/-- One-shot bits that act through the fuses (R311, R319): a CONFIRM, a TRY_EN and a token GO that stand are carried out. -/
def oneShots (f : Fuses) (x : Guard × Dev) : Fuses × Guard × Dev :=
  let c := if x.2.bit Reg.sec_BOOT_CTL 0 then Dev.confirmed f x.2 else (f, x.2)
  let d := if c.2.bit Reg.sec_BOOT_CTL 1 then c.2.setTry (c.2.fld Reg.sec_BOOT_CTL 2 1) else c.2
  if d.bit Reg.sec_TOKEN_CTL 0 then Dev.token c.1 x.1 d else (c.1, x.1, d)

/-- A host write to BAR0. -/
def hostWrite (fn : Fn) (off : Nat) (be : BitVec 4) (v : Word) (f : Fuses) (g : Guard) (d : Dev) : Fuses × Guard × Dev :=
  oneShots f (bar0Write f g d fn.val fn.val off be v.toNat)

/-- A host read of BAR0 (R418): the bytes of the register that the access addresses. -/
def hostRead (fn : Fn) (off : Nat) (be : BitVec 4) (f : Fuses) (g : Guard) (d : Dev) : Dev :=
  let y := Dev.bar0Read f g d fn.val fn.val off (be != 0xF)
  { y.2 with host := { y.2.host with barOut := y.1 &&& BitVec.ofNat 32 (beMask be) } }

/-- REGISTER_WRITE (R413), and the read of a register that the same host access may be (R418). Log entry 88, DESIGN CHOICE, safe. -/
def execRegisterWrite (fn : Fn) (off : BitVec 28) (x : BarAccess) (v : Word) (s : State) : Host.Outcome State Fault Refusal :=
  match x with
  | .write be => s.onTrust (hostWrite fn off.toNat be v)
  | .read be => s.onFused (hostRead fn off.toNat be)

/-- CLEARING_WRITE (R6): a 32-bit write. -/
def execClearingWrite (fn : Fn) (off : BitVec 28) (v : Word) (s : State) : Host.Outcome State Fault Refusal :=
  s.onTrust (hostWrite fn off.toNat 0xF v)

/-- MASKED_WRITE (R7): a 32-bit write at an alias, A + 0x0400_0000 or A + 0x0800_0000. -/
def execMaskedWrite (fn : Fn) (off : BitVec 28) (v : Word) (s : State) : Host.Outcome State Fault Refusal :=
  s.onTrust (hostWrite fn off.toNat 0xF v)

end Sys2Proof.Machine
end

