-- ==== Sys2Proof/Machine/Mgmt.lean ====
section
/-! DEFINITION. The management port (R451): a requester of its own, 14, that reads as the PF and answers in every power state. -/
namespace Sys2Proof.Machine

/-- The home of a register answers the management port: in STANDBY only AON, which holds PWR, and REF do (R369, R410, R451). -/
def Dev.mgmtAwake (d : Dev) (off : Nat) : Bool :=
  if d.standby then (match locate off with
    | some (.pwr, _, _) => true
    | _ => (off == Reg.time_COARSE_LO || off == Reg.time_COARSE_HI) && d.time.refOk)
  else d.awakeRead off

/-- The port's address on its bus (R450, R451): static, until an I3C controller assigns another. -/
def Dev.mgmtAddress (d : Dev) : Nat := (d.host.mgmtDyn.map (fun a => a.toNat)).getD (0x58 + d.aon.mgmtAddr.toNat)

/-- MGMT_ALERT_N is asserted (R451): some class of faults holds a record, or THERM_N is asserted. -/
def Dev.mgmtAlert (d : Dev) : Bool := d.fld Reg.fault_STATUS 0 14 != 0 || d.therm

/-- What the port returns: the word read, and whether the transfer was NACKed. -/
def Dev.mgmtSays (d : Dev) (word : Nat) (nack : Bool) : Dev := { d with host := { d.host with mgmtOut := word, mgmtNack := nack } }

/-- The register at an offset as the port reads it, and the device after the read (R451): SEC offsets read 0. -/
def mgmtWord (off : BitVec 28) (f : Fuses) (g : Guard) (d : Dev) : Word × Dev :=
  let a := off.toNat / 4 * 4
  match locate a with
  | some (.sec, _, _) => (0, d)
  | _ => Dev.readReg f g d 14 0 a (d.mgmtAwake a) false

/-- MGMT_READ (R451): a READ returns the word, and one whose data transfer begins too soon is NACKed. SETDASA and ENTDAA assign the port's address, and any
command byte but the three is NACKed. Log entry 88, DESIGN CHOICE, safe. -/
def mgmtReadF (x : MgmtAccess) (f : Fuses) (g : Guard) (d : Dev) : Dev :=
  match x with
  | .reg off => let y := mgmtWord off f g d; y.2.mgmtSays y.1.toNat false
  | .early off => (mgmtWord off f g d).2.mgmtSays d.host.mgmtOut true
  | .setAddress a => { d with host := { d.host with mgmtDyn := some a, mgmtNack := false } }
  | .other _ => d.mgmtSays d.host.mgmtOut true

/-- The port may write at an offset: in the PWR block, or a SCRATCH register. -/
def mgmtMay (off : Nat) : Bool :=
  match locate off with
  | some (.pwr, _, _) => true
  | some (.glob, _, r) => decide (0x80 ≤ r ∧ r < 0x90)
  | _ => false

/-- MGMT_WRITE (R451): any other write is NACKed and changes nothing. -/
def mgmtWriteF (off : BitVec 28) (v : Word) (f : Fuses) (g : Guard) (d : Dev) : Dev :=
  let a := off.toNat / 4 * 4
  if mgmtMay a then ((mapWrite f g d 14 0 a 0xF v.toNat d.mgmtAwake).2).mgmtSays d.host.mgmtOut false else d.mgmtSays d.host.mgmtOut true

/-- MGMT_WAKE (R372, R451): a wake source where PWR.WAKE.MGMT is 1, NACKed otherwise. -/
def mgmtWakeD (d : Dev) : Dev :=
  if bitsOf (d.pwrNow Reg.pwr_WAKE) 16 1 = 1 then (if d.standby then d.leaveStandby 4 false else d).mgmtSays d.host.mgmtOut false
  else d.mgmtSays d.host.mgmtOut true

/-- MGMT_READ (R451). -/
def execMgmtRead (x : MgmtAccess) (s : State) : Host.Outcome State Fault Refusal :=
  s.onFused (mgmtReadF x)

/-- MGMT_WRITE (R451). -/
def execMgmtWrite (off : BitVec 28) (v : Word) (s : State) : Host.Outcome State Fault Refusal :=
  s.onFused (mgmtWriteF off v)

/-- MGMT_WAKE (R451). -/
def execMgmtWake (s : State) : Host.Outcome State Fault Refusal :=
  s.onDev mgmtWakeD

end Sys2Proof.Machine
end

