-- ==== Sys2Proof/Machine/Boot.lean ====
section
/-! DEFINITION. Resets (R296), the start from the configuration image (R298 to R313), DRAM training at start (R401, R402), and the
one-shot commands that act through the fuses (R311, R318 to R320, R330). -/
namespace Sys2Proof.Machine
namespace Dev

/-! ## What a start reports (R312, R425) -/

def setPhase (d : Dev) (n : Nat) : Dev := d.setFld Reg.glob_STATUS 16 4 n
/-- The start ends LIMITED. -/
def setLimited (d : Dev) : Dev := (d.setBit Reg.glob_STATUS 6 true).setBit Reg.sec_STATUS 6 true
def limited (d : Dev) : Bool := d.bit Reg.sec_STATUS 6
/-- No slot is valid: RECOVERY. -/
def setRecovery (d : Dev) : Dev := (d.setBit Reg.glob_STATUS 7 true).setBit Reg.sec_STATUS 5 true
/-- DRAM is unusable (R380). -/
def setUnusable (d : Dev) : Dev := (d.setBit Reg.dramG_STATUS 1 true).setLimited

/-- Record `r` of section `s` is refused (R307): counted, the first one named, and the start LIMITED. -/
def refuseRecord (d : Dev) (s r : Nat) : Dev :=
  let d := (d.raise Reg.sec_EVENTS 4).bump Reg.sec_IMG_REFUSED_CNT
  let d := if d.sec.imgBad then d else d.wrN Reg.sec_IMG_FIRST (s % 2^12 + r % 2^20 * 2^12)
  ({ d with sec := { d.sec with imgBad := true } }).setLimited

/-- Apply records 0 to n - 1 of section `s` in order; `put` answers `none` for one that is refused. Log entry 45, DESIGN CHOICE, unsafe. -/
def applyRecords (d : Dev) (s n : Nat) (put : Dev → Nat → Option Dev) : Dev :=
  (List.range n).foldl (fun (d : Dev) (r : Nat) => (put d r).getD (d.refuseRecord s r)) d

/-! ## Memory map (R382, R383) -/

/-- A window entry of a MEMMAP: base, size in GiB, and DMC set. -/
def winAt (b : List Byte) (i : Nat) : Nat × Nat × Nat :=
  (fieldAt b (64 + 16 * i) 2, fieldAt b (66 + 16 * i) 2, fieldAt b (68 + 16 * i) 1)

/-- GiB of DMC `m`'s layout without the reserve. -/
def layoutGib (il m : Nat) (wins : List (Nat × Nat × Nat)) : Nat :=
  wins.foldl (fun k w => if bitsOf w.2.2 m 1 = 1 then k + w.2.1 / (setDmcs w.2.2).length else k) (il / 8)

/-- A MEMMAP section keeps its field rules and fits DMCs of `gib` GiB. -/
def memMapOk (b : List Byte) (gib : Nat) : Bool :=
  let n := bitsOf (fieldAt b 0 4) 16 4
  let il := fieldAt b 4 2
  let res := fieldAt b 6 2
  let desc := bitsOf (fieldAt b 8 4) 0 21
  let wins := (List.range n).map (winAt b)
  fieldAt b 0 2 == 1 && decide (n ≤ 8) && b.length == 64 + 16 * n && bitsOf (fieldAt b 0 4) 20 12 == 0 &&
  il % 8 == 0 && desc % 4 == 0 && decide (desc + 4 ≤ il * 1024) && bitsOf (fieldAt b 8 4) 21 11 == 0 && zeroAt b 12 52 &&
  (List.range n).all (fun i => zeroAt b (69 + 16 * i) 11) &&
  wins.all (fun w => w.2.2 != 0 && w.2.1 % (setDmcs w.2.2).length == 0 && decide (il ≤ w.1)) &&
  (List.range n).all (fun i => (List.range i).all (fun j => !meet (winAt b i).1 (winAt b i).2.1 (winAt b j).1 (winAt b j).2.1)) &&
  (List.range 8).all (fun m => decide (layoutGib il m wins + res ≤ gib))

/-- The memory map that a MEMMAP section gives, or the one without a section. -/
def memMapOf (gib : Nat) : Option (List Byte) → MemMap
  | none => { il := 8 * gib, descAt := 8 * gib * 2^30 - 2^22 }
  | some b =>
    { il := fieldAt b 4 2, res := fieldAt b 6 2, descAt := bitsOf (fieldAt b 8 4) 0 21 * 2^20,
      pins := (List.range (bitsOf (fieldAt b 0 4) 16 4)).map (fun i => let w := winAt b i; (w.1 * 2^30, w.2.1 * 2^30, w.2.2)) }

/-- A DIMM is supported (R379). -/
def dimmOk (x : Dimm) : Bool :=
  x.rdimm && x.x4 && !x.stacked && decide (1 ≤ x.ranks ∧ x.ranks ≤ 2 ∧ x.density ≤ 2 ∧ 4800 ≤ x.rate) && x.gib == x.ranks * (32 + 16 * x.density)

/-- The installed DIMMs are supported, and every DMC carries the same (R379, R380). -/
def popOk (d : Dev) : Bool :=
  let all := (List.range 8).map (fun m => SMap.get [] d.dimms m)
  let shape (l : List Dimm) : List (Nat × Nat × Nat) := l.map (fun x => (x.gib, x.ranks, x.density))
  let first := shape (all.headD [])
  all.all (fun l => l.all dimmOk && shape l == first) && decide (1 ≤ first.length ∧ first.length ≤ 2) && first.all (fun x => x == first.headD (0, 0, 0))

/-- DRAM.POP of the DIMMs on DMC0 (R406), the same as on every other where DRAM is usable. Log entry 7, DESIGN CHOICE, unsafe. -/
def popWord (d : Dev) : Nat :=
  let l := SMap.get [] d.dimms 0
  match l with
  | [] => 0
  | x :: _ => x.gib % 2^8 + l.length % 4 * 2^8 + x.ranks % 4 * 2^10 + x.density % 4 * 2^12

/-- Put a memory map into force. -/
def setMap (d : Dev) (m : MemMap) : Dev :=
  let d := ({ d with mm := m }).wrN Reg.dramG_MAP (m.il + m.res * 2^16)
  d.wrN Reg.glob_DRAM_SIZE (m.pins.foldl (fun k w => k + w.2.1 / 2^30) m.il)

/-- The population and the memory map (R380, R383): one that does not fit leaves DRAM unusable. Log entry 45, DESIGN CHOICE, unsafe. -/
def applyMap (d : Dev) (b : Option (List Byte)) : Dev :=
  let gib := dmcGib d.popWord
  let d := d.wrN Reg.dramG_POP d.popWord
  if !d.popOk then d.setUnusable
  else
    let d := d.setBit Reg.dramG_STATUS 2 (d.dimms.all (fun p => p.2.length == 1 && p.2.all (fun x => decide (6400 ≤ x.rate))))
    if b.all (fun x => memMapOk x gib) then d.setMap (memMapOf gib b) else d.setUnusable

/-! ## Sections (R303, R307) -/

/-- CAL (R338): each tile takes the first valid set of the slot in use, the other slot and the image. -/
def calStart (d : Dev) (serial slot : Nat) : Dev :=
  let use := d.calInUse
  let good (t : Nat) (b : List Byte) : Option (List Byte) := if setError serial t b = 0 then some b else none
  let area (s t : Nat) : Option (List Byte) := if (d.calSlotSeq s).isSome ∧ d.calSlotHas s t then good t (d.calSlotSet s t) else none
  let fromImage (t : Nat) : Option (List Byte) :=
    ((d.imgSections slot).filter (fun s => s.typ == 6 && s.param % 8 == t)).findSome? (fun s => good t (d.sectionBytes slot s))
  let tile (e : Dev) (t : Nat) : Dev :=
    match use.bind (fun s => area s t) with
    | some b => e.loadSet t b 1
    | none =>
      let e := if (use.any (fun s => d.calSlotHas s t)) then e.raise Reg.cal_EVENTS 4 else e
      match use.bind (fun s => area (1 - s) t) with
      | some b => e.loadSet t b 2
      | none => match fromImage t with
        | some b => e.loadSet t b 3
        | none => e.loadSet t [] 0
  let d := (List.range 6).foldl tile d
  let d := if (d.calSlotSeq 0).isNone ∨ (d.calSlotSeq 1).isNone then d.raise Reg.cal_EVENTS 2 else d
  d.showSlots

/-- An ENV section, as ENV_WRITE on the tiles of its mask: entries out of range are refused, the rest is written. -/
def applyEnv (d : Dev) (s tiles : Nat) (b : List Byte) : Dev :=
  let ts := (List.range 6).filter (fun t => bitsOf tiles t 1 == 1)
  let samples := b.drop 0x8000
  if b.length < 0x8000 ∨ b.length % 4 ≠ 0 ∨ 0x100000 < b.length then d.refuseRecord s 0
  else
    let put (d : Dev) (v : Nat) : Option Dev :=
      let n := fieldAt b (8 * v) 8
      if envEntryOk n then some (ts.foldl (fun (d : Dev) (t : Nat) => { d with env := SMap.store 0 d.env (t * 2^20 + 8 * v) (leBytes n 8) }) d) else none
    let d := d.applyRecords s 4096 put
    ts.foldl (fun (d : Dev) (t : Nat) => { d with env := SMap.store 0 d.env (t * 2^20 + 0x8000) samples }) d

/-- A PROG section, each entry as PROG_WRITE of the physical function. -/
def applyProg (d : Dev) (s base : Nat) (b : List Byte) : Dev :=
  d.applyRecords s (ceilDiv b.length 16) (fun d r =>
    let a := base + r
    let e := (b.drop (16 * r)).take 16
    if a < 2^20 ∧ e.length = 16 ∧ !d.progLocked a ∧ d.entryOk none a (leNat e) then some (d.putEntries a e) else none)

/-- A CTX section, each record image as CTX_WRITE with RESET_PC = 1. -/
def applyCtx (d : Dev) (s base : Nat) (b : List Byte) : Dev :=
  d.applyRecords s (ceilDiv b.length 1024) (fun d r =>
    let x := base + r
    let ws := leWords ((b.drop (1024 * r)).take 1024)
    if x < 10240 ∧ ws.length = 256 ∧ d.ctxState x ≤ 1 ∧ d.setOk (d.ctxOwner x) (chsetOf ws) then some (d.putCtx x ws true) else none)

/-- A DESC section, each descriptor as SEG_WRITE. -/
def applyDesc (d : Dev) (s base : Nat) (b : List Byte) : Dev :=
  d.applyRecords s (ceilDiv b.length 64) (fun d r =>
    let x := base + r
    let ws := leWords ((b.drop (64 * r)).take 64)
    if x < 2^16 ∧ ws.length = 16 ∧ d.descOk ws ∧ descReserved ws ∧ !d.segLocked x then
      some (d.writeDram (d.mm.descAt + 64 * x) (wordBytes (sealDesc (d.desc x) ws none)))
    else none)

/-- A SEGDATA section: its bytes go to DRAM space, as MEM_WRITE puts them there. -/
def applyData (d : Dev) (s base : Nat) (b : List Byte) : Dev :=
  if base % 4096 ≠ 0 ∨ !d.dramRegion none base b.length then d.refuseRecord s 0 else d.writeDram base b

/-- Microcode goes into slot A of every engine bank, and from there into its instruction cache (R121). -/
def loadEngines (d : Dev) (code : List Byte) : Dev :=
  (List.range 64).foldl (fun (d : Dev) (e : Nat) => ({ d with bank := SMap.store 0 d.bank (e * 2^18) code }).fillCache e 0) d

end Dev

/-- What a start works on: the fuses, the guard and the device. -/
abbrev Parts := Fuses × Guard × Dev

/-- Change the device alone. -/
def Parts.onDev (x : Parts) (k : Dev → Dev) : Parts := (x.1, x.2.1, k x.2.2)

/-- Section `i` fails its digest after others were applied: the device restarts to the other slot (R306, R312). -/
def Parts.restart (x : Parts) (slot i : Nat) : Parts :=
  let r := resetAll false 32 x.2.1 { x.2.2 with aon := { x.2.2.aon with nextSlot := some (slot == 0), failCode := some (0x100 + i) } }
  (x.1, r.1, r.2)

/-- Apply every section of a type, in table order, each after its digest is checked; a start that was reset does no more. -/
def Parts.sections (x : Parts) (slot typ : Nat) (act : Nat → Section → Parts → Parts) : Parts :=
  let secs := ((x.2.2.imgSections slot).zipIdx).filter (fun p => p.1.typ == typ)
  secs.foldl (fun (x : Parts) (p : Section × Nat) =>
    if !x.2.2.sec.booted then x
    else if !x.2.2.sectionOk slot p.1 then x.restart slot p.2
    else act p.2 p.1 x) x

/-- A REGS section (R307): each record is a write to BAR0, refused when it enters the record of refused accesses, and where
it names a DMA window, to which the MP has no write path (R273, R326). -/
def Parts.regs (slot i : Nat) (s : Section) (x : Parts) : Parts :=
  let b := x.2.2.sectionBytes slot s
  (List.range (s.len / 8)).foldl (fun (x : Parts) (r : Nat) =>
    if !x.2.2.sec.booted then x
    else
      let dmaw := (locate (fieldAt b (8 * r) 4 / 4 * 4 % 0x4000000)).any (fun l => l.1 == .dmaw)
      if dmaw then Parts.onDev x (fun d => d.refuseRecord i r)
      else
      let before := x.2.2.rd (Dev.fnKey 0 Reg.glob_ACC_EVENTS)
      let y := oneShots x.1 (mapWrite x.1 x.2.1 x.2.2 13 0 (fieldAt b (8 * r) 4) 0xF (fieldAt b (8 * r + 4) 4) x.2.2.awake)
      if y.2.2.sec.booted && y.2.2.rd (Dev.fnKey 0 Reg.glob_ACC_EVENTS) != before then Parts.onDev y (fun d => d.refuseRecord i r) else y) x

/-- LIMITS closes the seals (R187, R307). -/
def Parts.limits (slot : Nat) (_ : Nat) (s : Section) (x : Parts) : Parts :=
  let b := x.2.2.sectionBytes slot s
  (x.1, limitsGuard x.1 b, (x.2.2.applyLimits b).setPhase 2)

/-- The part of a start that nothing waits for: LIMITS, MEMMAP, microcode, REGS, CAL, ENV and PROG, with DRAM training
started (R298, R307). -/
def Parts.firstSections (x : Parts) (slot : Nat) : Parts :=
  let idle : Nat → Section → Parts → Parts := fun _ _ x => x
  let go (x : Parts) (k : Dev → Dev) : Parts := if x.2.2.sec.booted then x.onDev k else x
  let x := x.sections slot 3 (Parts.limits slot)
  let x := x.sections slot 4 (fun _ s x => x.onDev (fun d => d.applyMap (some (d.sectionBytes slot s))))
  let x := go x (fun d =>
    let d := if (d.sectionOf slot 4).isNone then d.applyMap none else d
    let d := if d.bit Reg.dramG_STATUS 1 then d else (List.range 8).foldl (fun (d : Dev) (m : Nat) => d.setFld (Reg.dram_STATUS m) 0 3 3) d
    d.setPhase 3)
  let x := x.sections slot 2 (fun _ s x => x.onDev (fun d => d.loadEngines ((d.sectionBytes slot s).drop 128)))
  let x := x.sections slot 5 (Parts.regs slot)
  let x := go x (fun d => d.setPhase 4)
  let x := x.sections slot 6 idle
  let x := go x (fun d => d.calStart x.1.serial slot)
  let x := x.sections slot 7 (fun i s x => x.onDev (fun d => d.applyEnv i s.param (d.sectionBytes slot s)))
  x.sections slot 10 (fun i s x => x.onDev (fun d => d.applyProg i s.param (d.sectionBytes slot s)))

/-- The mask ROM boots a valid slot (R298, R323): the firmware runs, and its measurements stand. -/
def Dev.bootSlotOf (d : Dev) (slot : Nat) : Dev :=
  let bs (typ : Nat) : List Byte := match d.sectionOf slot typ with
    | some s => d.sectionBytes slot s
    | none => []
  let abi (typ : Nat) : Nat := match d.sectionOf slot typ with
    | some s => s.param
    | none => 0
  let d := { d with sec := { d.sec with manifest := d.manifest slot, mpDig := Crypto.sha512 ((bs 1).drop 128), ucDig := Crypto.sha512 ((bs 2).drop 128),
                                        mpAbi := abi 1, ucAbi := abi 2 } }
  let one := slot == 1
  let d := ((d.setBit Reg.sec_STATUS 3 one).setBit Reg.sec_STATUS 10 one).setBit Reg.sec_STATUS 11 one
  let d := d.setBit Reg.sec_STATUS 7 (d.dirFields.1 == slot)
  ((d.wrN Reg.glob_BUILD_MP (d.imgBuild slot)).wrN Reg.glob_BUILD_UC (d.imgBuild slot)).setPhase 1

/-- The other slot boots in place of a failing one (R312): FALLBACK, and the fault. -/
def Dev.fellBack (d : Dev) (failing code : Nat) : Dev :=
  let d := (d.setBit Reg.glob_STATUS 5 true).setBit Reg.sec_STATUS 4 true
  d.fault 11 { code := 0xB0, kind := 8, obj := failing, time := d.nowT, detail := [code], fw := true }

/-- BOOT (R298, R306, R311, R312): the mask ROM chooses a slot and the MP applies its first sections. Log entry 45, DESIGN CHOICE, unsafe. Log entry 46, DESIGN CHOICE, unsafe. -/
def bootT (f : Fuses) (g : Guard) (d : Dev) : Parts :=
  if d.sec.booted ∨ d.standby then (f, g, d)
  else
    let forced := d.aon.nextSlot
    let failed := d.aon.failCode
    let d := ({ d with sec := { d.sec with booted := true }, aon := { d.aon with nextSlot := none, failCode := none } }).newNonce
    if f.lc = 4 then (f, g, d)
    else if !d.flashOk then (f, g, d.setRecovery)
    else
      let dir := d.dirFields
      let d := if forced.isNone ∧ dir.2 ≤ 1 then d.writeDir dir.1 0xFF else d
      let slot := match forced with
        | some b => if b then 1 else 0
        | none => if dir.2 ≤ 1 then dir.2 else dir.1
      match Dev.imageError f d slot false true, Dev.imageError f d (1 - slot) false true with
      | 0, _ =>
        let d := match failed with
          | some c => d.fellBack (1 - slot) c
          | none => d
        Parts.firstSections (f, g, d.bootSlotOf slot) slot
      | c, 0 => if failed.isSome then (f, g, d.setRecovery) else Parts.firstSections (f, g, (d.fellBack slot c).bootSlotOf (1 - slot)) (1 - slot)
      | _, _ => (f, g, d.setRecovery)

namespace Dev

/-! ## Training at start (R401, R402) -/

/-- What a DMC's training leaves in its registers: how long it took, and where a failing one failed, are free. -/
def trainedAtStart (d : Dev) (m : Nat) (pass : Bool) : Dev :=
  let (v, d) := d.free
  let ms := v / 16 % 251
  if pass then ((d.wrN (Reg.dram_TRAIN m) (9 + ms * 2^16)).setBit Reg.dramG_STATUS (12 + m) true).setFld (Reg.dram_STATUS m) 0 3 0
  else
    let s := v % 9 + 1
    (((d.wrN (Reg.dram_TRAIN m) (s - 1 + s * 2^4 + ms * 2^16)).setBit Reg.dramG_STATUS (12 + m) false).setFld (Reg.dram_STATUS m) 0 3 2).trainFail m

/-- Training of every DMC ends (R402): one that fails is out from the start where the reserve holds its layout; otherwise DRAM is
unusable. -/
def trainAll (d : Dev) (trained : BitVec 8) : Dev :=
  let failed := (List.range 8).filter (fun m => !trained.getLsbD m)
  let d := (List.range 8).foldl (fun (d : Dev) (m : Nat) => d.trainedAtStart m (trained.getLsbD m)) d
  match failed with
  | [] => d
  | [m] =>
    let k := layoutGib d.mm.il m (d.mm.pins.map (fun w => (w.1 / 2^30, w.2.1 / 2^30, w.2.2))) * 2^18
    if ceilDiv k 7 ≤ d.mm.res * 2^18 then (d.setOutBit m true).setLimited else (d.setDmcState m 4).setUnusable
  | ms => (ms.foldl (fun (d : Dev) (m : Nat) => d.setDmcState m 4) d).setUnusable

/-- The sections that wait for DRAM (R307): CTX, DESC and SEGDATA; the last two are skipped while DRAM is unusable (R312). START's
digest is checked with them. Log entry 45, DESIGN CHOICE, unsafe. -/
def lastSections (x : Parts) (slot : Nat) : Parts :=
  let x := x.sections slot 11 (fun i s x => x.onDev (fun d => d.applyCtx i s.param (d.sectionBytes slot s)))
  let x := x.sections slot 12 (fun _ _ x => x)
  if x.2.2.bit Reg.dramG_STATUS 1 then x
  else
    let x := x.sections slot 8 (fun i s x => x.onDev (fun d => d.applyDesc i s.param (d.sectionBytes slot s)))
    x.sections slot 9 (fun i s x => x.onDev (fun d => d.applyData i s.param (d.sectionBytes slot s)))

end Dev

/-- DRAM_TRAINING_DONE (R401, R402): training ends and the sections that wait for it are applied. -/
def dramTrainingDoneT (trained : BitVec 8) (f : Fuses) (g : Guard) (d : Dev) : Parts :=
  if !d.sec.booted ∨ d.startPhase ≠ 4 ∨ d.standby then (f, g, d)
  else
    let d := if d.bit Reg.dramG_STATUS 1 then d else d.trainAll trained
    let d := if d.bit Reg.dramG_STATUS 1 then d else d.setBit Reg.glob_STATUS 3 true
    let x := Dev.lastSections (f, g, d) d.bootSlot
    if x.2.2.sec.booted then x.onDev (fun d => d.setPhase 5) else x

/-! ## The START section (R313) -/

namespace Dev

/-- The bytes of the image's START section. -/
def startBytes (d : Dev) : Option (List Byte) := (d.sectionOf d.bootSlot 12).map (fun s => d.sectionBytes d.bootSlot s)
/-- The listed contexts with their engines. -/
def startList (b : List Byte) : List (Nat × Nat) :=
  (List.range (min 256 (bitsOf (fieldAt b 12 4) 0 9))).map (fun i => let w := fieldAt b (16 + 4 * i) 4; (bitsOf w 0 14, bitsOf w 14 7))

/-- The autonomous start is given up (R313): the fault names the first failed record; without one its details are free. Log entry 46, DESIGN CHOICE, unsafe. -/
def startRefused (d : Dev) (b : List Byte) (m : Option Miss) : Dev :=
  let (v, d) := d.free
  let obj := ((startList b).head?.map (fun p => p.1)).getD (v % 2^14)
  let detail := match m with
    | some m => [m.check, m.obj]
    | none => [v / 2^14 % 2^8, v / 2^22]
  d.fault 11 { code := 0xB2, kind := 3, obj := obj, time := d.nowT, detail := detail, fw := true, part := (d.ctxOwner obj).getD 0, pf := (d.ctxOwner obj).isNone }

/-- Create the partitions of CREATE, in ascending order, up to the first that is refused. Log entry 46, DESIGN CHOICE, unsafe. -/
def startCreate (d : Dev) (b : List Byte) : Bool × Dev :=
  ((List.range 12).filter (fun p => bitsOf (fieldAt b 0 4) (8 + p) 1 == 1)).foldl (fun (x : Bool × Dev) (p : Nat) =>
    if !x.1 then x
    else
      let r := x.2.createPart p
      (r.status == 0, r.dev)) (true, d)

/-- Admit the listed contexts of each owner together, up to the first admission that is refused. Log entry 46, DESIGN CHOICE, unsafe. -/
def startAdmit (d : Dev) (b : List Byte) : Option Verdict × Dev :=
  let cs := (startList b).map (fun p => p.1)
  ((cs.map d.ctxOwner).eraseDups).foldl (fun (x : Option Verdict × Dev) (o : Option Nat) =>
    if x.1.isSome then x
    else
      let v := x.2.admission o (cs.filter (fun c => x.2.ctxOwner c == o))
      (if v.status = 0 then none else some v, v.dev)) (none, d)

/-- With AUTO the listed contexts start, unless a creation or an admission is refused (R313). Log entry 46, DESIGN CHOICE, unsafe. -/
def startContexts (d : Dev) (b : List Byte) : Dev :=
  match d.startCreate b with
  | (false, d) => d.startRefused b none
  | (true, d) => match d.startAdmit b with
    | (some v, d) => d.startRefused b v.first
    | (none, d) => (startList b).foldl (fun (d : Dev) (p : Nat × Nat) => if 0x40 < p.2 then d else (d.startCtx p.1 p.2).dev) d

/-- The start is complete: the device fetches submission rings (R10, R298). -/
def startDone (d : Dev) : Dev :=
  let d := { d with sec := { d.sec with autoWait := false } }
  let d := if d.limited then d.fault 11 { code := 0xB1, time := d.nowT, detail := [d.rdN Reg.sec_IMG_FIRST], fw := true } else d
  ((d.setBit Reg.glob_STATUS 1 true).setBit Reg.glob_STATUS 2 true).setPhase 6

/-- The end of the START section; `timed` says that the time-set it asks for is complete. -/
def startEnd (d : Dev) (b : List Byte) (timed : Bool) : Dev :=
  let d := if fieldAt b 0 4 / 2 % 2 = 0 ∨ d.limited then d else if timed then d.startContexts b else d.startRefused b none
  d.startDone

/-- The first part of the START section: the start rule (R193) and the time-set it asks for (R38). -/
def startBegin (d : Dev) (b : List Byte) : Dev :=
  let w := fieldAt b 0 4
  let d := if w % 2 = 1 then (List.range 96).foldl (fun (d : Dev) (n : Nat) => d.setHold n 32) d else d
  if bitsOf w 2 2 = 3 then d.startEnd b true
  else
    let d := timeSetArmD (BitVec.ofNat 32 (bitsOf w 2 2 + bitsOf w 4 4 * 2^4 + 2^16)) (d.wr64 Reg.time_SET_LO (fieldAt b 4 8))
    if d.bit Reg.time_STATUS 4 then { d with sec := { d.sec with autoWait := true, setLost := false } } else d.startEnd b false

end Dev

/-- START_SECTION (R313): the MP carries out the START section. While the time-set it asked for awaits its edge nothing more
happens. -/
def startSectionD (d : Dev) : Dev :=
  if !d.sec.booted ∨ d.startPhase ≠ 5 ∨ d.standby then d
  else match d.startBytes with
    | none => d.startDone
    | some b =>
      if !d.sec.autoWait then d.startBegin b
      else if d.bit Reg.time_STATUS 4 then d
      else d.startEnd b (!d.sec.setLost)

/-- START_TIME_SET_TIMEOUT (R313): 10 ms have passed and the time-set is not complete. -/
def startTimeSetTimeoutD (d : Dev) : Dev :=
  if !d.sec.autoWait ∨ d.startPhase ≠ 5 ∨ !d.bit Reg.time_STATUS 4 then d
  else match d.startBytes with
    | none => d
    | some b => d.startEnd b false

/-! ## Resets (R296, R331) -/

/-- DEVICE_RESET (R296): the sources as RESET_CAUSE numbers them; with the first it is a power-on reset. -/
def deviceResetG (sources : BitVec 6) (g : Guard) (d : Dev) : Guard × Dev :=
  if sources = 0 then (g, d) else resetAll (sources.getLsbD 0) sources.toNat g d

/-- SEC_RESET (R331): a write of 0xA5 to SEC.RESET; other values are ignored. -/
def secResetG (v : Word) (g : Guard) (d : Dev) : Guard × Dev :=
  if d.standby ∨ v ≠ 0xA5 then (g, d) else resetAll false 8 g d

/-! ## Commands that act through the fuses -/

/-- CONFIRM (R311). -/
def confirmT (f : Fuses) (g : Guard) (d : Dev) : Parts :=
  if d.standby then (f, g, d) else let r := Dev.confirmed f d; (r.1, g, r.2)

/-- TRY_EN (R311). -/
def tryEnD (slot : Bool) (d : Dev) : Dev := if d.standby then d else d.setTry (if slot then 1 else 0)

/-- A token of kind `k` is submitted (R318, R319): what it does is the token's; one of another kind is not this command. -/
def tokenOf (k : Nat) (f : Fuses) (g : Guard) (d : Dev) : Parts :=
  if d.standby ∨ fieldAt d.tokenBytes 0 1 ≠ k then (f, g, d) else Dev.token f g d

/-- LC_CHANGE (R320). -/
def lcChangeT (f : Fuses) (g : Guard) (d : Dev) : Parts := tokenOf 1 f g d
/-- ADD_KEY (R319). -/
def addKeyT (f : Fuses) (g : Guard) (d : Dev) : Parts := tokenOf 2 f g d
/-- REVOKE_KEY (R319). -/
def revokeKeyT (f : Fuses) (g : Guard) (d : Dev) : Parts := tokenOf 3 f g d
/-- DEBUG_UNLOCK (R319). -/
def debugUnlockT (f : Fuses) (g : Guard) (d : Dev) : Parts := tokenOf 4 f g d

/-- REC_CTL (R330): the mailbox answers in RECOVERY only. Log entry 48, DEDUCED, unsafe. -/
def recCtlS (v : Word) (f : Fuses) (g : Guard) (d : Dev) : Guard × Dev :=
  if d.standby ∨ !d.recovery then (g, d) else Dev.recGo f g d v.toNat

/-- DEVICE_RESET (R296). -/
def execDeviceReset (sources : BitVec 6) (s : State) : Host.Outcome State Fault Refusal :=
  s.onGuard (deviceResetG sources)

/-- SEC_RESET (R331). -/
def execSecReset (v : Word) (s : State) : Host.Outcome State Fault Refusal :=
  s.onGuard (secResetG v)

/-- BOOT (R298). -/
def execBoot (s : State) : Host.Outcome State Fault Refusal :=
  s.onTrust bootT

/-- DRAM_TRAINING_DONE (R401). -/
def execDramTrainingDone (trained : BitVec 8) (s : State) : Host.Outcome State Fault Refusal :=
  s.onTrust (dramTrainingDoneT trained)

/-- CONFIRM (R311). -/
def execConfirm (s : State) : Host.Outcome State Fault Refusal :=
  s.onTrust confirmT

/-- LC_CHANGE (R320). -/
def execLcChange (s : State) : Host.Outcome State Fault Refusal :=
  s.onTrust lcChangeT

/-- ADD_KEY (R319). -/
def execAddKey (s : State) : Host.Outcome State Fault Refusal :=
  s.onTrust addKeyT

/-- REVOKE_KEY (R319). -/
def execRevokeKey (s : State) : Host.Outcome State Fault Refusal :=
  s.onTrust revokeKeyT

/-- DEBUG_UNLOCK (R319). -/
def execDebugUnlock (s : State) : Host.Outcome State Fault Refusal :=
  s.onTrust debugUnlockT

/-- START_SECTION (R313). -/
def execStartSection (s : State) : Host.Outcome State Fault Refusal :=
  s.onDev startSectionD

/-- START_TIME_SET_TIMEOUT (R313). -/
def execStartTimeSetTimeout (s : State) : Host.Outcome State Fault Refusal :=
  s.onDev startTimeSetTimeoutD

/-- TRY_EN (R311). -/
def execTryEn (slot : Bool) (s : State) : Host.Outcome State Fault Refusal :=
  s.onDev (tryEnD slot)

/-- REC_CTL (R330). -/
def execRecCtl (v : Word) (s : State) : Host.Outcome State Fault Refusal :=
  s.onSealed (recCtlS v)

end Sys2Proof.Machine
end

