-- ==== Sys2Proof/Machine/Dispatch.lean ====
section
/-! DEFINITION. The dispatch: one arm for every command, each a direct call of its meaning. -/
namespace Sys2Proof.Machine

/-- The effect of a command on everything but the queue. -/
def exec (i : Instr) (s : State) : Host.Outcome State Fault Refusal :=
  match i with
  | .nop c => Sys2Proof.Machine.execNop c s
  | .memWrite c => Sys2Proof.Machine.execMemWrite c s
  | .memRead c => Sys2Proof.Machine.execMemRead c s
  | .wipe c => Sys2Proof.Machine.execWipe c s
  | .segWrite c => Sys2Proof.Machine.execSegWrite c s
  | .segRead c => Sys2Proof.Machine.execSegRead c s
  | .reload c => Sys2Proof.Machine.execReload c s
  | .envWrite c => Sys2Proof.Machine.execEnvWrite c s
  | .progWrite c => Sys2Proof.Machine.execProgWrite c s
  | .progRead c => Sys2Proof.Machine.execProgRead c s
  | .ctxWrite c => Sys2Proof.Machine.execCtxWrite c s
  | .ctxRead c => Sys2Proof.Machine.execCtxRead c s
  | .ctxClear c => Sys2Proof.Machine.execCtxClear c s
  | .admitCtx c => Sys2Proof.Machine.execAdmitCtx c s
  | .release c => Sys2Proof.Machine.execRelease c s
  | .ctxStart c => Sys2Proof.Machine.execCtxStart c s
  | .ctxStop c => Sys2Proof.Machine.execCtxStop c s
  | .engRetire c => Sys2Proof.Machine.execEngRetire c s
  | .engRestore c => Sys2Proof.Machine.execEngRestore c s
  | .engBankRead c => Sys2Proof.Machine.execEngBankRead c s
  | .capRead c => Sys2Proof.Machine.execCapRead c s
  | .partCreate c => Sys2Proof.Machine.execPartCreate c s
  | .partDestroy c => Sys2Proof.Machine.execPartDestroy c s
  | .dramRetrain c => Sys2Proof.Machine.execDramRetrain c s
  | .dramMigrate c => Sys2Proof.Machine.execDramMigrate c s
  | .dramUnfreeze c => Sys2Proof.Machine.execDramUnfreeze c s
  | .imageWrite c => Sys2Proof.Machine.execImageWrite c s
  | .fwSwap c => Sys2Proof.Machine.execFwSwap c s
  | .calWrite c => Sys2Proof.Machine.execCalWrite c s
  | .attest c => Sys2Proof.Machine.execAttest c s
  | .sqTail fn q v => Sys2Proof.Machine.execSqTail fn q v s
  | .cqHead fn q v => Sys2Proof.Machine.execCqHead fn q v s
  | .commandFetch => Sys2Proof.Machine.execCommandFetch s
  | .executorStep x => Sys2Proof.Machine.execExecutorStep x s
  | .completionWrite q => Sys2Proof.Machine.execCompletionWrite q s
  | .cqInterrupt q timer => Sys2Proof.Machine.execCqInterrupt q timer s
  | .evtHoldoff fn => Sys2Proof.Machine.execEvtHoldoff fn s
  | .sqReset fn q => Sys2Proof.Machine.execSqReset fn q s
  | .cqEnable fn q => Sys2Proof.Machine.execCqEnable fn q s
  | .functionLevelReset p => Sys2Proof.Machine.execFunctionLevelReset p s
  | .hotReset => Sys2Proof.Machine.execHotReset s
  | .linkDown => Sys2Proof.Machine.execLinkDown s
  | .dmaWindowWrite fn w ctl => Sys2Proof.Machine.execDmaWindowWrite fn w ctl s
  | .bar2Read fn off len => Sys2Proof.Machine.execBar2Read fn off len s
  | .bar2Write fn off data => Sys2Proof.Machine.execBar2Write fn off data s
  | .bar2WindowWrite fn w hi => Sys2Proof.Machine.execBar2WindowWrite fn w hi s
  | .mailboxWrite fn off data => Sys2Proof.Machine.execMailboxWrite fn off data s
  | .unstampedPost fn off data => Sys2Proof.Machine.execUnstampedPost fn off data s
  | .stampedPost fn off data => Sys2Proof.Machine.execStampedPost fn off data s
  | .doorbell fn v => Sys2Proof.Machine.execDoorbell fn v s
  | .registerWrite fn off x v => Sys2Proof.Machine.execRegisterWrite fn off x v s
  | .clearingWrite fn off v => Sys2Proof.Machine.execClearingWrite fn off v s
  | .maskedWrite fn off v => Sys2Proof.Machine.execMaskedWrite fn off v s
  | .parityScrub at_ lanes => Sys2Proof.Machine.execParityScrub at_ lanes s
  | .mgmtRead x => Sys2Proof.Machine.execMgmtRead x s
  | .mgmtWrite off v => Sys2Proof.Machine.execMgmtWrite off v s
  | .mgmtWake => Sys2Proof.Machine.execMgmtWake s
  | .halt e => Sys2Proof.Machine.execHalt e s
  | .play r => Sys2Proof.Machine.execPlay r s
  | .gap e => Sys2Proof.Machine.execGap e s
  | .loop e => Sys2Proof.Machine.execLoop e s
  | .next e => Sys2Proof.Machine.execNext e s
  | .br e => Sys2Proof.Machine.execBr e s
  | .reg e => Sys2Proof.Machine.execReg e s
  | .frame e => Sys2Proof.Machine.execFrame e s
  | .mark e => Sys2Proof.Machine.execMark e s
  | .event e => Sys2Proof.Machine.execEvent e s
  | .tset e => Sys2Proof.Machine.execTset e s
  | .switch e => Sys2Proof.Machine.execSwitch e s
  | .nopEntry e => Sys2Proof.Machine.execNopEntry e s
  | .lineFetch e => Sys2Proof.Machine.execLineFetch e s
  | .waitRelease e => Sys2Proof.Machine.execWaitRelease e s
  | .eventInputFiring e k => Sys2Proof.Machine.execEventInputFiring e k s
  | .swFiring e => Sys2Proof.Machine.execSwFiring e s
  | .scheduledSwitch e => Sys2Proof.Machine.execScheduledSwitch e s
  | .staging e copy => Sys2Proof.Machine.execStaging e copy s
  | .swCfgApply e => Sys2Proof.Machine.execSwCfgApply e s
  | .selfTest e pass => Sys2Proof.Machine.execSelfTest e pass s
  | .patrol e failAt touched => Sys2Proof.Machine.execPatrol e failAt touched s
  | .engMoved e => Sys2Proof.Machine.execEngMoved e s
  | .microcodeChange e => Sys2Proof.Machine.execMicrocodeChange e s
  | .launchRecord e => Sys2Proof.Machine.execLaunchRecord e s
  | .launch c => Sys2Proof.Machine.execLaunch c s
  | .passStart ch => Sys2Proof.Machine.execPassStart ch s
  | .segEnd ch => Sys2Proof.Machine.execSegEnd ch s
  | .markerEdge ch b => Sys2Proof.Machine.execMarkerEdge ch b s
  | .underrun t k atHead => Sys2Proof.Machine.execUnderrun t k atHead s
  | .ringFill b => Sys2Proof.Machine.execRingFill b s
  | .launchInput k => Sys2Proof.Machine.execLaunchInput k s
  | .frameInput k => Sys2Proof.Machine.execFrameInput k s
  | .frCmd fn ch v => Sys2Proof.Machine.execFrCmd fn ch v s
  | .setf ch f => Sys2Proof.Machine.execSetf ch f s
  | .setp ch f => Sys2Proof.Machine.execSetp ch f s
  | .addp ch f => Sys2Proof.Machine.execAddp ch f s
  | .setc ch f => Sys2Proof.Machine.execSetc ch f s
  | .choff ch f => Sys2Proof.Machine.execChoff ch f s
  | .init ch f => Sys2Proof.Machine.execInit ch f s
  | .frameQuery fn ch hi => Sys2Proof.Machine.execFrameQuery fn ch hi s
  | .eventChannelFiring n => Sys2Proof.Machine.execEventChannelFiring n s
  | .deliver n => Sys2Proof.Machine.execDeliver n s
  | .ecApply n => Sys2Proof.Machine.execEcApply n s
  | .grpCmd fn g v => Sys2Proof.Machine.execGrpCmd fn g v s
  | .groupEnable g => Sys2Proof.Machine.execGroupEnable g s
  | .groupDisable g => Sys2Proof.Machine.execGroupDisable g s
  | .groupChange g => Sys2Proof.Machine.execGroupChange g s
  | .triggerOutput k => Sys2Proof.Machine.execTriggerOutput k s
  | .triggerOutputAction k => Sys2Proof.Machine.execTriggerOutputAction k s
  | .pulseEnd k => Sys2Proof.Machine.execPulseEnd k s
  | .linkTransmit k => Sys2Proof.Machine.execLinkTransmit k s
  | .loadStrobe g => Sys2Proof.Machine.execLoadStrobe g s
  | .staticLoad g => Sys2Proof.Machine.execStaticLoad g s
  | .loadN lane => Sys2Proof.Machine.execLoadN lane s
  | .outSafeN lane => Sys2Proof.Machine.execOutSafeN lane s
  | .outSafeNRelease => Sys2Proof.Machine.execOutSafeNRelease s
  | .holdRel fn ch => Sys2Proof.Machine.execHoldRel fn ch s
  | .settleEnd ch => Sys2Proof.Machine.execSettleEnd ch s
  | .safeCode fn ch v => Sys2Proof.Machine.execSafeCode fn ch v s
  | .guardWrite fn ch which v => Sys2Proof.Machine.execGuardWrite fn ch which v s
  | .trip t k => Sys2Proof.Machine.execTrip t k s
  | .d2dErr t k => Sys2Proof.Machine.execD2dErr t k s
  | .rotationSwap ch => Sys2Proof.Machine.execRotationSwap ch s
  | .spareMeasurement ch trim => Sys2Proof.Machine.execSpareMeasurement ch trim s
  | .triggerCrossing m rising lane => Sys2Proof.Machine.execTriggerCrossing m rising lane s
  | .levelSettle m => Sys2Proof.Machine.execLevelSettle m s
  | .triggerArm fn m => Sys2Proof.Machine.execTriggerArm fn m s
  | .syncEdge => Sys2Proof.Machine.execSyncEdge s
  | .alarm a => Sys2Proof.Machine.execAlarm a s
  | .alarmEnable a => Sys2Proof.Machine.execAlarmEnable a s
  | .timeSetArm v => Sys2Proof.Machine.execTimeSetArm v s
  | .timeSet => Sys2Proof.Machine.execTimeSet s
  | .tbAnchor => Sys2Proof.Machine.execTbAnchor s
  | .refLost => Sys2Proof.Machine.execRefLost s
  | .apply v => Sys2Proof.Machine.execApply v s
  | .applyCancel v => Sys2Proof.Machine.execApplyCancel v s
  | .refSwap v => Sys2Proof.Machine.execRefSwap v s
  | .applyEdge => Sys2Proof.Machine.execApplyEdge s
  | .refSwapDone timedOut => Sys2Proof.Machine.execRefSwapDone timedOut s
  | .lockWindow xpll w => Sys2Proof.Machine.execLockWindow xpll w s
  | .acquisitionTimeout xpll => Sys2Proof.Machine.execAcquisitionTimeout xpll s
  | .xpllBypass => Sys2Proof.Machine.execXpllBypass s
  | .xpllLock => Sys2Proof.Machine.execXpllLock s
  | .standby => Sys2Proof.Machine.execStandby s
  | .wake w => Sys2Proof.Machine.execWake w s
  | .tileState t => Sys2Proof.Machine.execTileState t s
  | .bankRetention b => Sys2Proof.Machine.execBankRetention b s
  | .bankWake b => Sys2Proof.Machine.execBankWake b s
  | .selfRefreshIdle d => Sys2Proof.Machine.execSelfRefreshIdle d s
  | .junctionReading t => Sys2Proof.Machine.execJunctionReading t s
  | .deviceReset sources => Sys2Proof.Machine.execDeviceReset sources s
  | .secReset v => Sys2Proof.Machine.execSecReset v s
  | .boot => Sys2Proof.Machine.execBoot s
  | .dramTrainingDone trained => Sys2Proof.Machine.execDramTrainingDone trained s
  | .startSection => Sys2Proof.Machine.execStartSection s
  | .startTimeSetTimeout => Sys2Proof.Machine.execStartTimeSetTimeout s
  | .watchdogExpiry => Sys2Proof.Machine.execWatchdogExpiry s
  | .confirm => Sys2Proof.Machine.execConfirm s
  | .tryEn slot => Sys2Proof.Machine.execTryEn slot s
  | .lcChange => Sys2Proof.Machine.execLcChange s
  | .addKey => Sys2Proof.Machine.execAddKey s
  | .revokeKey => Sys2Proof.Machine.execRevokeKey s
  | .debugUnlock => Sys2Proof.Machine.execDebugUnlock s
  | .recCtl v => Sys2Proof.Machine.execRecCtl v s
  | .backgroundWipe => Sys2Proof.Machine.execBackgroundWipe s
  | .granuleFill g => Sys2Proof.Machine.execGranuleFill g s
  | .dramRequest port addr len write openHint data ns => Sys2Proof.Machine.execDramRequest port addr len write openHint data ns s
  | .arbitration d ns => Sys2Proof.Machine.execArbitration d ns s
  | .requestComplete d ns errors => Sys2Proof.Machine.execRequestComplete d ns errors s
  | .refreshDue d => Sys2Proof.Machine.execRefreshDue d s
  | .dimmReading d sensors => Sys2Proof.Machine.execDimmReading d sensors s
  | .zqCalibration d => Sys2Proof.Machine.execZqCalibration d s
  | .patrolScrub d local_ x => Sys2Proof.Machine.execPatrolScrub d local_ x s
  | .caParity d => Sys2Proof.Machine.execCaParity d s
  | .chunkSwitch d => Sys2Proof.Machine.execChunkSwitch d s
  | .ack c v => Sys2Proof.Machine.execAck c v s
  | .captureApply fn d => Sys2Proof.Machine.execCaptureApply fn d s
  | .captureArm d software => Sys2Proof.Machine.execCaptureArm d software s
  | .captureTrigger d software => Sys2Proof.Machine.execCaptureTrigger d software s
  | .abort d => Sys2Proof.Machine.execAbort d s
  | .digitiserSample d raw busy => Sys2Proof.Machine.execDigitiserSample d raw busy s
  | .chainReset d => Sys2Proof.Machine.execChainReset d s
  | .calibrationBorrow d start => Sys2Proof.Machine.execCalibrationBorrow d start s
  | .temperatureUpdate t mean => Sys2Proof.Machine.execTemperatureUpdate t mean s
  | .trimStep t => Sys2Proof.Machine.execTrimStep t s
  | .run t => Sys2Proof.Machine.execRun t s
  | .runDone t ofs gain => Sys2Proof.Machine.execRunDone t ofs gain s
  | .freeze t v => Sys2Proof.Machine.execFreeze t v s
  | .check ch meas constant => Sys2Proof.Machine.execCheck ch meas constant s
  | .portUp p lanes => Sys2Proof.Machine.execPortUp p lanes s
  | .topo p f => Sys2Proof.Machine.execTopo p f s
  | .echo p => Sys2Proof.Machine.execEcho p s
  | .timeSync set => Sys2Proof.Machine.execTimeSync set s
  | .timeSyncReceive p f => Sys2Proof.Machine.execTimeSyncReceive p f s
  | .eventFrame p f => Sys2Proof.Machine.execEventFrame p f s
  | .resultFrame p f => Sys2Proof.Machine.execResultFrame p f s
  | .crcError p => Sys2Proof.Machine.execCrcError p s
  | .nak p f => Sys2Proof.Machine.execNak p f s
  | .portDown p => Sys2Proof.Machine.execPortDown p s
  | .refDetected khz => Sys2Proof.Machine.execRefDetected khz s
  | .pcieLinkUp speed width => Sys2Proof.Machine.execPcieLinkUp speed width s
  | .vfEnable en numVFs => Sys2Proof.Machine.execVfEnable en numVFs s
  | .echoReq p f => Sys2Proof.Machine.execEchoReq p f s
  | .echoRsp p f t1 t4 => Sys2Proof.Machine.execEchoRsp p f t1 t4 s
  | .badType p f => Sys2Proof.Machine.execBadType p f s
  | .extest selected => Sys2Proof.Machine.execExtest selected s
  | .watchdogService => Sys2Proof.Machine.execWatchdogService s

end Sys2Proof.Machine
end

