-- ==== Sys2Proof/Machine/Ticks.lean ====
section
/-! DEFINITION. One tick with no command waiting: what the block does by the clock alone (log entry 4, DESIGN CHOICE, unsafe). -/
namespace Sys2Proof.Machine

/-- Every channel that is not OFF gives its word to the guard, with the saturations of the word (R173, R184), and the pattern lines their
bits (R247). Streams are tested for their prefill and for missing data before (R72, R73). Log entry 4, DESIGN CHOICE, unsafe. Log entry 16, DESIGN CHOICE, unsafe. -/
def Dev.playTick (g : Guard) (d : Dev) : Dev :=
  let d := (d.testPrefill.liveChans.foldl (fun (d : Dev) (n : Nat) => d.takeUnderrun n) d.testPrefill)
  (d.liveChans.foldl (fun (d : Dev) (n : Nat) => playWord g d n d.nowT) d).patternTick d.nowT

/-- The refreshes that an idle DMC owes are issued once PANIC has ended (R392). -/
def Dev.payIdle (d : Dev) : Dev :=
  (List.range 8).foldl (fun (d : Dev) (m : Nat) =>
    if d.owed m = 0 ∨ d.dmcPanic m ∨ !(d.dmcOf m).ctl.isEmpty ∨ d.inSr m then d else d.setOwed m 0) d

/-- A tick passes: in RUN 16 tDC, in COARSE a REF-domain edge unless the reference is being swapped (R32 to R34, R368); the channels play,
each link port sends a frame, idle DMCs pay the refreshes they owe, and the trigger inputs take what was written of them (R263); an OUT_SAFE_N that was
low as a stage powered up counts as falling now (R449). Log entry 4, DESIGN CHOICE, unsafe. -/
def Dev.tick (g : Guard) (d : Dev) : Dev :=
  let d := if d.timeValid then d.playTick g else d
  let d := ((d.transmit 0).transmit 1).payIdle
  if d.timeState = 2 then
    let d := if d.safeEdge then safeFall 0 g d else d
    let d := d.elapse (16 * 2^32)
    { d with time := { d.time with now := d.time.now + 16 } }.applyTis
  else if d.timeState = 1 ∧ !d.bit Reg.clk_STATUS 9 then d.elapse (d.rho - d.time.ph)
  else d

end Sys2Proof.Machine
end

