-- ==== Sys2Proof/Machine/Step.lean ====
section
/-! DEFINITION. One step of the block: the command at the front of the queue is carried out with the queue's rest. On an empty
queue one tick of the TB domain passes (log entry 4, DESIGN CHOICE, unsafe). -/
namespace Sys2Proof.Machine

/-- One step: `exec` of the command in front, or, with no command waiting, the passing of one tick. Log entry 4, DESIGN CHOICE, unsafe. Log entry 63, DESIGN CHOICE, safe. -/
def step (s : State) : Host.Outcome State Fault Refusal :=
  match s.pending with
  | [] => s.onGuarded (fun g d => d.tick g)
  | c :: rest => exec c { s with pending := rest }

/-- The command that a table word spells, put at the front of the queue; no row of the table gives bits, so no word spells
one and the state stays as it is. Log entry 13, DESIGN CHOICE, safe. -/
def State.withFetchWord (s : State) (nbits w : Nat) : State :=
  match Sys2Proof.decodeTableWord nbits w with
  | some c => { s with pending := c :: s.pending }
  | none => s

end Sys2Proof.Machine
end

