-- ==== Sys2Proof/Safety.lean ====
section
/-! DEFINITION. What claims about the block are stated in: which part of the state a command may touch, when an engine issues an
entry, what a launching entry sends, the arithmetic of a frame, the canonical form of the memories, and the promises of the guard. -/
namespace Sys2Proof

/-- The ECC of the engine's bank found no uncorrectable word (R142). -/
abbrev BankEcc.readable (x : BankEcc) : Prop := ∀ off, x ≠ .uncorrectable off

end Sys2Proof

namespace Sys2Proof.Machine

/-- Nothing but the device changed: the guard, the fuses and the queue of commands are as before. -/
def State.sameTrust (s t : State) : Prop := t.guard = s.guard ∧ t.fuses = s.fuses ∧ t.pending = s.pending

/-- The command answers a next state in which only the device differs, and the device satisfies `post`. -/
def State.runs (s : State) (i : Instr) (post : Dev → Prop) : Prop :=
  ∃ t, exec i s = .next t ∧ s.sameTrust t ∧ post t.dev

/-- The same for a command that may also change the guard. -/
def State.runsG (s : State) (i : Instr) (post : Guard → Dev → Prop) : Prop :=
  ∃ t, exec i s = .next t ∧ t.fuses = s.fuses ∧ t.pending = s.pending ∧ post t.guard t.dev

/-- A firing of source `src` with a stamp has reached every event channel that selects it (R207, R211). Log entry 68, DESIGN CHOICE, unsafe. -/
def Dev.fired (d d' : Dev) (src stamp : Nat) : Prop := ∀ n ∈ d.listeners src, ∃ x ∈ (d'.ecOf n).inbox, x.fire.src = src ∧ x.fire.stamp = stamp

/-! ## Issue of an entry -/

/-- Context `c` runs on engine `e` and may come to issue: it is bound and RUNNING and awaits neither a switch nor a move, and the engine
is not retired (R87, R114, R145). -/
abbrev Dev.runsOn (d : Dev) (e c : Nat) : Prop :=
  d.engCtx e = some c ∧ d.ctxState c = 3 ∧ (d.engOf e).swWait = none ∧ (d.engOf e).moving = none ∧ d.bit (Reg.eng_STATUS e) 24 = false

/-- The entry at the PC of a context, as a 128-bit number (R86). -/
def Dev.entryOf (d : Dev) (c : Nat) : Nat := d.entryAt (d.ctxPc c)

/-- Engine `e` may issue the entry at the PC of context `c`, which has opcode `op` (R87, R90, R95): the PC lies in its owner's slice, its line has come
from the program store, a wait has been released, and an issue slot and a pending-launch place are free. -/
abbrev Dev.mayIssue (d : Dev) (e c op : Nat) : Prop :=
  d.runsOn e c ∧ d.progIn (d.ctxRecOwner c) (d.ctxPc c) = true ∧ (d.engOf e).lines.contains (d.ctxPc c / 8) = true ∧ ent (d.entryOf c) 0 0 4 = op ∧
  (ent (d.entryOf c) 0 6 4 = 0 ∨ (d.engOf e).released = true) ∧
  (d.timeState ≠ 2 ∨ (d.engOf e).slotTick ≤ d.nowT / 16) ∧ d.engPend e < 32

/-- It may issue, and device time is valid where the entry launches (R35, R119). -/
abbrev Dev.issues (d : Dev) (e c op : Nat) : Prop :=
  d.mayIssue e c op ∧ (launching (d.entryOf c) = true → d.timeValid = true)

/-- The requested time that a launching entry's BASE and TIME name, before its range is tested (R91). -/
def Dev.requested (d : Dev) (c n : Nat) : Int :=
  match ent n 0 4 2 with
  | 0 => d.ctx64 c 8
  | 1 => d.ctx64 c 4 + ent n 2 0 32
  | 2 => d.ctx64 c 10 + (BitVec.ofNat 32 (ent n 2 0 32)).toInt
  | _ => d.ctx64 c 6 + ent n 2 0 32

/-- The requested time is a device time, and a REL_EVT entry finds a release held (R91, R98). -/
abbrev Dev.timeOk (d : Dev) (c n t : Nat) : Prop :=
  d.requested c n = t ∧ t < 2^64 ∧ (ent n 0 4 2 = 3 → d.isHeld c = true)

/-- From `d` to `d'`, context `c` on engine `e` sent one launch record of a kind, for its channel set and a requested time: the record has
the next LSN, the release is no longer held, and the PC moves to the next entry (R27, R87, R98). -/
def Dev.sends (d d' : Dev) (e c : Nat) (kind : LKind) (t : Nat) : Prop :=
  d'.launches = d.launches ++ [({
    eng := e, ctx := c, lsn := (d.ctxFld c 3 0 16 + 1) % 2^16, chans := d.ctxChans c, kind := kind, treq := t, tmin := (d.engOf e).tsw,
    gen := if d.isHeld c then d.ctxFld c 2 28 3 + 1 else 0,
    coarse := ent (d.entryOf c) 0 4 2 == 3 && d.ctxFld c 2 25 1 == 1, li := none, accepted := false, teff := 0, descs := [],
    src := e } : Launch)] ∧
  d'.ctxFld c 3 0 16 = (d.ctxFld c 3 0 16 + 1) % 2^16 ∧ d'.ctx64 c 10 = t ∧ d'.isHeld c = false ∧ d'.ctxPc c = d.ctxPc c + 1

/-- The tests of BR, as relations between numbers (R100). -/
def compares (cmp : Nat) (a b : Word) : Prop :=
  match cmp with
  | 0 => a = b
  | 1 => a ≠ b
  | 2 => a.toInt < b.toInt
  | 3 => b.toInt ≤ a.toInt
  | 4 => a.toNat < b.toNat
  | 5 => b.toNat ≤ a.toNat
  | 6 => a &&& b = b
  | _ => a &&& b ≠ 0

/-- The condition of the BR at the PC of context `c` on engine `e` holds (R100). -/
def Dev.brHolds (d : Dev) (e c : Nat) : Prop :=
  let n := d.entryOf c
  let k := ent n 1 20 2
  let b := if ent n 1 28 1 = 1 then BitVec.ofNat 32 (ent n 3 0 32) else d.xReg c (ent n 1 24 4)
  match ent n 0 11 3 with
  | 0 => True
  | 1 => SMap.get none d.ei (e * 4 + k) ≠ none
  | 2 => d.isHeld c = true ∧ d.ctxFld c 2 31 1 = 0 ∧ d.ctxFld c 2 26 2 = k
  | 3 => compares (ent n 0 14 3) (d.xReg c (ent n 1 20 4)) b
  | _ => compares (ent n 0 14 3) (SMap.get 0 d.mailbox (ent n 0 20 12) &&& BitVec.ofNat 32 (ent n 2 0 32)) b

/-- The PC of a context as the context store holds it, where its mirror may have stopped (R141, R142). -/
abbrev Dev.storePc (d : Dev) (c : Nat) : Nat := bitsOf (d.storeW c 2).toNat 0 20

/-- An entry was not issued and its context stopped with an exception, and what is kept of it is the context store's (R119, R141, R148,
R149). -/
def State.excepts (s : State) (i : Instr) (c code : Nat) : Prop :=
  s.runs i (fun d => d.ctxState c = 5 ∧ d.ctxFld c 48 0 8 = code ∧ d.ctxPc c = s.dev.storePc c ∧ d.launches = s.dev.launches)

/-! ## Frames -/

/-- The phase and the frequency of a frame at device time `t`, modulo 2^48, by the formula of R153. -/
def FrameRec.phaseAt (r : FrameRec) (t : Nat) : Int :=
  let d : Int := (t : Int) - r.epoch
  (r.phase + r.freq * d + (BitVec.ofNat 32 r.rate).toInt * (d * (d - 1) / 2)) % 2^48
def FrameRec.freqAt (r : FrameRec) (t : Nat) : Int := (r.freq + (BitVec.ofNat 32 r.rate).toInt * ((t : Int) - r.epoch)) % 2^48

/-- The next action of frame `f` of a channel, launches that wait among them, is `a`, it waits at the channel, and its effective time `teff`, no earlier
than those of the actions before it, has come while device time is valid (R156, R157). -/
abbrev Dev.frameDue (d : Dev) (ch f teff : Nat) (a : FrAct) : Prop :=
  (d.frOrder ch f).head? = some (teff, a) ∧ (d.actsOn ch f).contains a = true ∧ d.due teff = true ∧ d.timeValid = true

/-! ## Registers and consumers -/

/-- A function's access to a register is carried out: the device is not in STANDBY, the function sees the register's owner, and the
register's home is awake (R270, R410, R411). -/
abbrev Dev.answers (d : Dev) (fn off : Nat) (owner : Option Nat) : Prop :=
  d.standby = false ∧ Dev.sees fn owner = true ∧ d.awake off = true

/-- The firing `h` is the oldest at task input `i`, whose consumer can take it for stamp + LAT, which is not past (R28, R223). -/
abbrev Dev.takesAt (d : Dev) (i : Nat) (h : Held) (r : List Held) (t : Nat) : Prop :=
  d.timeValid = true ∧ (d.tinOf i).inbox = h :: r ∧ d.tinBad i = false ∧ h.fire.coarse = false ∧ h.fire.late = false ∧
  t = h.fire.stamp + d.latOf i ∧ t < 2^64 ∧ d.nowT ≤ t

/-- The frame, whose CRC holds, is the next in SEQ order at an Immor port that is up (R43, R48). -/
abbrev Dev.inOrder (d : Dev) (p : Nat) (f : LinkFrame) : Prop :=
  d.portUp p = true ∧ frameIntact f = true ∧ f.seq.toNat = ((d.portOf p).rxSeq + 1) % 2^16

/-- From `d` to `d'` one frame joined the transmit queue of a port, at its end, and satisfies `post`. -/
def Dev.queues (d d' : Dev) (p : Nat) (post : LinkFrame → Prop) : Prop := ∃ i, (d'.portOf p).txq = (d.portOf p).txq ++ [i] ∧ i.seq = none ∧ post i.frame

/-- The changes that a group awaits, with their times and values (R219). -/
def Dev.groupChanges (d : Dev) (g : Nat) : List (Nat × Bool) :=
  (d.tinOf (436 + g)).acts.map (fun a => (a.time, true)) ++ (d.tinOf (468 + g)).acts.map (fun a => (a.time, false)) ++ (d.grpOf g).cmds

/-- A channel's record in a canonical map, where reading it finds what was stored last. -/
abbrev Dev.chanWf (d : Dev) : Prop := SMap.wf (fun _ => ({} : Chan)) d.chan = true

/-- Nothing but the path reaches the DAC of a channel in the tick at hand: device time runs, the channel is on, and no safe code stands or falls
due there (R183, R193). -/
abbrev Dev.drives (g : Guard) (d : Dev) (ch : Nat) : Prop :=
  d.timeValid = true ∧ d.chMode ch ≠ 0 ∧ d.safed g ch = false ∧ (∀ q ∈ (d.chanOf ch).cur.toList ++ (d.chanOf ch).prev, q.undr = none) ∧
  d.testPrefill.underrunDue ch = none ∧ (d.chanOf ch).badWord ≠ some (d.nowT / 16) ∧ (d.chanOf ch).drivenTo ≤ d.nowT

/-- The code that leaves the guard for the path's code `x`, after `before` (R184): clamped, then no further from `before` than the slew limit. Log entry 6, DESIGN CHOICE, unsafe. -/
def GuardCh.next (k : GuardCh) (x before : Int) : Int := max (before - k.slew) (min (before + k.slew) (max k.lo (min k.hi x)))

/-! ## Host commands and host memory -/

/-- The command answers a next state that satisfies `post`, with the rest of the queue as before. -/
def State.leads (s : State) (i : Instr) (post : State → Prop) : Prop := ∃ t, exec i s = .next t ∧ t.pending = s.pending ∧ post t

/-- Every request to a range of host memory passes the window check, and no write of it goes to another card (R273). -/
def Dev.windowed (d : Dev) (fn addr len : Nat) (write : Bool) : Prop :=
  ∀ k < len, d.pageOk fn ((addr + k) / 4096) write = true ∧ (write = true → d.pagePeer fn ((addr + k) / 4096) = false)

/-- Every request of a write to a range of host memory passes the window check, and all of it goes to another card (R273). -/
def Dev.peered (d : Dev) (fn addr len : Nat) : Prop :=
  ∀ k < len, d.pageOk fn ((addr + k) / 4096) true = true ∧ d.pagePeer fn ((addr + k) / 4096) = true

/-- No executor holds a command's host buffer, and the host answers reads of it (R282, R283). -/
abbrev Dev.quiet (d : Dev) : Prop := d.host.feed = .host ∧ d.host.rdErr = false

/-- No request for DMC `x` is queued (R404). -/
def Dev.moveFree (d : Dev) (x : Nat) : Prop := ∀ y ∈ d.dmc, ∀ r ∈ y.2.waiting ++ y.2.ctl, (d.home r.addr).1 ≠ x

/-- The newest completion that awaits its write is that of command `c`, with a status and a RESULT (R276). -/
def Dev.completesWith (d : Dev) (c : HostCmd) (status result : Nat) : Prop :=
  ∃ e, d.host.cqes.getLast? = some e ∧ e.fn = c.fn ∧ e.sq = c.sq ∧ e.tag = c.tag.toNat ∧ e.serial = c.serial.toNat ∧ e.status = status ∧
    e.result = result ∧ e.dup = false ∧ e.irq = c.irq

/-- A host command's row ends with a status and a RESULT, and the device satisfies `post`. -/
def State.ends (s : State) (i : Instr) (c : HostCmd) (status result : Nat) (post : Dev → Prop) : Prop :=
  s.runs i (fun d' => d'.completesWith c status result ∧ post d')

/-! ## What commands leave alone, and what every step keeps -/

/-- Every byte and word of the memories is as before: program store, envelopes, engine banks, channel banks, waveform DRAM, capture memory, host
memory, flash and result mailbox. -/
def Dev.sameMemory (d d' : Dev) : Prop :=
  d'.prog = d.prog ∧ d'.env = d.env ∧ d'.bank = d.bank ∧ d'.sc = d.sc ∧ d'.dram = d.dram ∧ d'.wiped = d.wiped ∧ d'.capBuf = d.capBuf ∧
  d'.hostMem = d.hostMem ∧ d'.flash = d.flash ∧ d'.mailbox = d.mailbox

/-- The promises of a channel's guard (R187, R194): the working limits lie within their seals, and SAFE_CODE within the sealed clamp. Log entry 6, DESIGN CHOICE, unsafe. -/
def GuardCh.sound (k : GuardCh) : Prop :=
  k.sealLo ≤ k.lo ∧ k.lo ≤ k.hi ∧ k.hi ≤ k.sealHi ∧ 1 ≤ k.slew ∧ k.slew ≤ k.sealS ∧ k.pwr ≤ k.sealPwr ∧ k.sealLo ≤ k.safe ∧ k.safe ≤ k.sealHi

/-- The promises of the whole guard: those of every channel, and GAP of every trigger output is at least its seal (R227). -/
def Guard.sound (g : Guard) : Prop := (∀ n, (g.of n).sound) ∧ ∀ k, (g.ofTo k).sealGap ≤ (g.ofTo k).gap

/-- What fuses only ever do (R316, R317): the life-cycle state and the fused SVN do not fall, a revoked key stays revoked, and a valid one keeps
its digest while it is valid. Log entry 10, DESIGN CHOICE, unsafe. -/
def Fuses.onlyAdvance (f f' : Fuses) : Prop :=
  f.lc ≤ f'.lc ∧ f.svn ≤ f'.svn ∧ (∀ k, f.key k = 2 → f'.key k = 2) ∧ (∀ k, f.key k = 1 → f'.key k = 1 ∨ f'.key k = 2) ∧
  ∀ k, f.key k = 1 → f'.key k = 1 → f'.keyDigest k = f.keyDigest k

end Sys2Proof.Machine
end

