-- ==== Sys2Proof/Certificates/Slice0/Obligations.lean ====
section
/-! DEFINITION. The statements for the provers. A clause `s.runs i post` says that command `i` answers a next state in which the guard,
the fuses and the queue are as before and the device satisfies `post`. -/

open Sys2Proof Sys2Proof.Machine

/-! ## Sequence entries (chapter 4) -/

/-- REG writes X[XD] from A and B by its function, and nothing else of the context but its PC (R116); an LDMB outside the mailbox slice
raises MB_RANGE. That LDRS counts a context's beginning from its creation is the model's reading (log entry 78). -/
def Obligations.RegWritesOneRegister : Prop :=
  ∀ (s : State) (e : Fin 64) (c : Nat), s.dev.issues e c 6 → s.dev.ctxPc c + 1 < 2^20 →
    let d := s.dev
    let n := d.entryOf c
    let f := ent n 0 11 4
    let a := d.xReg c (ent n 1 4 4)
    let b := if ent n 1 12 1 = 1 then BitVec.ofNat 32 (ent n 3 0 32) else d.xReg c (ent n 1 8 4)
    f ≠ 15 →
    (f = 11 ∧ d.mbIn (d.ctxRecOwner c) (b.toNat % 4096) = false → s.excepts (.reg e) c 6) ∧
    ((f = 11 → d.mbIn (d.ctxRecOwner c) (b.toNat % 4096) = true) →
      s.runs (.reg e) (fun d' =>
        let v := d'.xReg c (ent n 1 0 4)
        (f = 0 → v = b) ∧ (f = 1 → v.toNat = (a.toNat + b.toNat) % 2^32) ∧ (f = 2 → v.toNat = (a.toNat + (2^32 - b.toNat)) % 2^32) ∧
        (f = 3 → v.toNat = min (a.toNat + b.toNat) 0xFFFFFFFF) ∧ (f = 4 → v.toNat = a.toNat - b.toNat) ∧
        (f = 5 → v = a &&& b) ∧ (f = 6 → v = a ||| b) ∧ (f = 7 → v = a ^^^ b) ∧
        (f = 8 → v.toNat = a.toNat * 2^(b.toNat % 64) % 2^32) ∧ (f = 9 → v.toNat = a.toNat / 2^(b.toNat % 64)) ∧
        (f = 10 → v.toInt = a.toInt / 2^(b.toNat % 64)) ∧ (f = 11 → v = SMap.get 0 d.mailbox (b.toNat % 4096)) ∧
        (f = 12 → v.toNat = min (d.ctx64 c 6 - d.ctx64 c 4) 0xFFFFFFFF) ∧ (f = 13 → v.toNat = min a.toNat b.toNat) ∧
        (f = 14 → v.toNat = max a.toNat b.toNat) ∧
        d'.ctxPc c = d.ctxPc c + 1 ∧ (∀ w, w ≠ 2 → w ≠ 12 + ent n 1 0 4 → d'.ctxW c w = d.ctxW c w) ∧ d'.launches = d.launches))

/-- LOOP pushes its count and the next address, or skips the body for a count of 0, or raises STACK_OVF at depth 8; NEXT goes round again
while more than one pass remains, pops the level otherwise, and raises STACK_UNDER at depth 0 (R103). -/
def Obligations.LoopAndNext : Prop :=
  ∀ (s : State) (e : Fin 64) (c : Nat),
    let d := s.dev
    let n := d.entryOf c
    let depth := d.ctxFld c 2 20 4
    let cnt := if ent n 0 11 1 = 1 then (d.xReg c (ent n 1 0 4)).toNat else ent n 3 0 32
    let top := 28 + 2 * (depth - 1)
    (d.issues e c 3 →
      (cnt = 0 → ent n 0 12 20 + 1 < 2^20 → s.runs (.loop e) (fun d' =>
        d'.ctxPc c = ent n 0 12 20 + 1 ∧ d'.ctxFld c 2 20 4 = depth ∧ ∀ w, w ≠ 2 → d'.ctxW c w = d.ctxW c w)) ∧
      (cnt ≠ 0 → depth = 8 → s.excepts (.loop e) c 3) ∧
      (cnt ≠ 0 → depth < 8 → d.ctxPc c + 1 < 2^20 → s.runs (.loop e) (fun d' =>
        d'.ctxPc c = d.ctxPc c + 1 ∧ d'.ctxFld c 2 20 4 = depth + 1 ∧ (d'.ctxW c (28 + 2 * depth)).toNat = cnt ∧
        d'.ctxFld c (29 + 2 * depth) 0 20 = d.ctxPc c + 1 ∧
        ∀ w, w ≠ 2 → w ≠ 28 + 2 * depth → w ≠ 29 + 2 * depth → d'.ctxW c w = d.ctxW c w))) ∧
    (d.issues e c 4 →
      (depth = 0 → s.excepts (.next e) c 4) ∧
      (1 ≤ depth → depth ≤ 8 → 1 < (d.ctxW c top).toNat → s.runs (.next e) (fun d' =>
        d'.ctxPc c = d.ctxFld c (top + 1) 0 20 ∧ d'.ctxFld c 2 20 4 = depth ∧ (d'.ctxW c top).toNat = (d.ctxW c top).toNat - 1 ∧
        ∀ w, w ≠ 2 → w ≠ top → d'.ctxW c w = d.ctxW c w)) ∧
      (1 ≤ depth → depth ≤ 8 → (d.ctxW c top).toNat ≤ 1 → d.ctxPc c + 1 < 2^20 → s.runs (.next e) (fun d' =>
        d'.ctxPc c = d.ctxPc c + 1 ∧ d'.ctxFld c 2 20 4 = depth - 1 ∧ ∀ w, w ≠ 2 → d'.ctxW c w = d.ctxW c w)))

/-- BR: where its condition holds and POP does not pass the depth, POP levels are popped and the PC goes to TARGET, and a condition on an
event input consumes the latched firing as a release; where it does not hold, the program goes on and nothing is popped; a POP beyond the
depth raises STACK_UNDER (R100, R102). -/
def Obligations.BrJumps : Prop :=
  ∀ (s : State) (e : Fin 64) (c : Nat), s.dev.issues e c 5 →
    let d := s.dev
    let n := d.entryOf c
    let depth := d.ctxFld c 2 20 4
    let k := ent n 1 20 2
    (¬ d.brHolds e c → d.ctxPc c + 1 < 2^20 → s.runs (.br e) (fun d' =>
      d'.ctxPc c = d.ctxPc c + 1 ∧ d'.ctxFld c 2 20 4 = depth ∧ d'.ei = d.ei ∧ ∀ w, w ≠ 2 → d'.ctxW c w = d.ctxW c w)) ∧
    (d.brHolds e c → depth < ent n 0 17 3 → s.excepts (.br e) c 4) ∧
    (d.brHolds e c → ent n 0 17 3 ≤ depth → s.runs (.br e) (fun d' =>
      d'.ctxPc c = ent n 1 0 20 ∧ d'.ctxFld c 2 20 4 = depth - ent n 0 17 3 ∧
      (ent n 0 11 3 ≠ 1 → d'.ei = d.ei ∧ ∀ w, w ≠ 2 → d'.ctxW c w = d.ctxW c w) ∧
      (ent n 0 11 3 = 1 → SMap.get none d'.ei (e * 4 + k) = none ∧ d'.isHeld c = true ∧ d'.ctxFld c 2 26 2 = k ∧
        ∀ l, SMap.get none d.ei (e * 4 + k) = some l → l.stamp < 2^64 → d'.ctx64 c 6 = l.stamp)))

/-- TSET sets the anchor in its four modes; NOP does nothing apart from its wait; HALT ends the program: its context is HALTED, its engine
idle, and the pending launches stay (R115, R117); that its PC stays at the HALT is the model's choice (log entry 77). -/
def Obligations.TsetNopHalt : Prop :=
  ∀ (s : State) (e : Fin 64) (c : Nat),
    let d := s.dev
    let n := d.entryOf c
    let imm := ent n 2 0 32 + 2^32 * ent n 3 0 32
    let v := match ent n 0 11 2 with
      | 0 => imm
      | 1 => d.ctx64 c 4 + imm
      | 2 => d.ctx64 c 6 + imm
      | _ => d.ctx64 c 10 + imm
    (d.issues e c 10 →
      (ent n 0 11 2 = 2 → d.isHeld c = false → s.excepts (.tset e) c 2) ∧
      ((ent n 0 11 2 = 2 → d.isHeld c = true) → 2^64 ≤ v → s.excepts (.tset e) c 7 ∧
        s.runs (.tset e) (fun d' => d'.ctxW c 4 = d.storeW c 4 ∧ d'.ctxW c 5 = d.storeW c 5)) ∧
      ((ent n 0 11 2 = 2 → d.isHeld c = true) → v < 2^64 → d.ctxPc c + 1 < 2^20 → s.runs (.tset e) (fun d' =>
        d'.ctx64 c 4 = v ∧ d'.ctxPc c = d.ctxPc c + 1 ∧ ∀ w, w ≠ 2 → w ≠ 4 → w ≠ 5 → d'.ctxW c w = d.ctxW c w))) ∧
    (d.issues e c 15 → d.ctxPc c + 1 < 2^20 → s.runs (.nopEntry e) (fun d' =>
      d'.ctxPc c = d.ctxPc c + 1 ∧ (∀ w, w ≠ 2 → d'.ctxW c w = d.ctxW c w) ∧ d'.launches = d.launches)) ∧
    (d.issues e c 0 → d.ctxEng c = some e.val → s.runs (.halt e) (fun d' =>
      d'.ctxState c = 4 ∧ d'.engCtx e = none ∧ d'.ctxPc c = d.storePc c ∧ d'.launches = d.launches))

/-- PLAY, GAP, FRAME, MARK, EVENT and SWITCH each send one launch record for the requested time of R91; PLAY and GAP move the requested
end E by their length and the others leave it; SWITCH ends the turn of its context (R87, R92, R105 to R114). -/
def Obligations.LaunchingEntriesSendRecords : Prop :=
  ∀ (s : State) (e : Fin 64) (c t : Nat), s.dev.ctxPc c + 1 < 2^20 →
    let d := s.dev
    let n := d.entryOf c
    let segs := d.playSegs c n (d.ctxChans c).length
    let dur := d.passDur (d.ctxChans c) segs
    let val := if ent n 0 14 1 = 1 then (d.xReg c (ent n 1 5 4)).toNat + 2^32 * ((d.xReg c (ent n 1 5 4 + 1)).toNat % 2^16)
      else ent n 3 0 32 + 2^32 * ent n 1 16 16
    d.timeOk c n t →
    (∀ ecc : BankEcc, ecc.readable → d.issues e c 1 → (∀ x ∈ segs.zip (d.ctxChans c), d.badSegOn c x.2 x.1 = false) →
      t + dur * (ent n 0 12 16 + 1) < 2^64 → s.runs (.play ⟨e, ecc⟩) (fun d' =>
        d.sends d' e c (.play segs (ent n 0 12 16 + 1) (if ent n 1 20 1 = 1 then some (ent n 1 21 5) else none) (ent n 1 16 2) (ent n 1 18 2)
          (ent n 3 0 16) (ent n 3 16 16) (ent n 1 30 1 == 1) dur) t ∧ d'.ctx64 c 8 = t + dur * (ent n 0 12 16 + 1))) ∧
    (d.issues e c 2 → t + ent n 3 0 32 < 2^64 →
      s.runs (.gap e) (fun d' => d.sends d' e c (.gap (ent n 3 0 32)) t ∧ d'.ctx64 c 8 = t + ent n 3 0 32)) ∧
    (d.issues e c 7 → s.runs (.frame e) (fun d' =>
      d.sends d' e c (.frame (ent n 0 11 3) (ent n 1 0 5) (if ent n 0 11 3 = 3 then val % 2^32 else val)) t ∧ d'.ctx64 c 8 = d.ctx64 c 8)) ∧
    (d.issues e c 8 → s.runs (.mark e) (fun d' =>
      d.sends d' e c (.mark (ent n 1 0 2) (ent n 1 2 2) (ent n 3 0 16)) t ∧ d'.ctx64 c 8 = d.ctx64 c 8)) ∧
    (d.issues e c 9 → s.runs (.event e) (fun d' => d.sends d' e c (.event (ent n 0 11 2)) t ∧ d'.ctx64 c 8 = d.ctx64 c 8)) ∧
    (d.issues e c 11 → s.runs (.switch e) (fun d' =>
      d.sends d' e c (.switch (ent n 1 0 14)) t ∧ d'.ctx64 c 8 = d.ctx64 c 8 ∧ (d'.engOf e).swWait = some (ent n 1 0 14, t)))

/-- The exceptions that entries of several kinds share (R119): in each case the entry is not issued and its context stops. BAD_SEG of a
PLAY, NO_STAMP and TIME_RANGE of the six launching entries, TIME_LOST of them, and PROG_RANGE of every entry. A bank word that the ECC cannot
correct retires the engine with BANK_UNCORR, and nothing is issued (R142, R145). -/
def Obligations.EntriesRaiseExceptions : Prop :=
  ∀ (s : State) (e : Fin 64) (c : Nat),
    let d := s.dev
    let n := d.entryOf c
    let segs := d.playSegs c n (d.ctxChans c).length
    let launches : List (Nat × Instr) := [(1, .play ⟨e, .clean⟩), (1, .play ⟨e, .corrected⟩), (2, .gap e), (7, .frame e), (8, .mark e), (9, .event e), (11, .switch e)]
    let others : List (Nat × Instr) := [(0, .halt e), (3, .loop e), (4, .next e), (5, .br e), (6, .reg e), (10, .tset e), (15, .nopEntry e)]
    (∀ ecc : BankEcc, ecc.readable → d.issues e c 1 → (∃ x ∈ segs.zip (d.ctxChans c), d.badSegOn c x.2 x.1 = true) → s.excepts (.play ⟨e, ecc⟩) c 1) ∧
    (∀ p ∈ launches, d.issues e c p.1 → (p.1 = 1 → ∀ x ∈ segs.zip (d.ctxChans c), d.badSegOn c x.2 x.1 = false) →
      (ent n 0 4 2 = 3 → d.isHeld c = false → s.excepts p.2 c 2) ∧
      ((ent n 0 4 2 = 3 → d.isHeld c = true) → (d.requested c n < 0 ∨ 2^64 ≤ d.requested c n) → s.excepts p.2 c 7)) ∧
    (∀ p ∈ launches, d.mayIssue e c p.1 → d.timeValid = false → s.excepts p.2 c 8) ∧
    (∀ p ∈ launches ++ others, d.runsOn e c → d.progIn (d.ctxRecOwner c) (d.ctxPc c) = false → s.excepts p.2 c 5) ∧
    (∀ off : BitVec 18, d.engCtx e = some c → d.bit (Reg.eng_STATUS e) 24 = false → s.runs (.play ⟨e, .uncorrectable off⟩) (fun d' =>
      d'.bit (Reg.eng_STATUS e) 24 = true ∧ d'.ctxFld c 48 0 8 = 0x21 ∧ d'.launches.map (fun l => l.lsn) = d.launches.map (fun l => l.lsn)))

/-! ## Engines and contexts (chapter 5) -/

/-- A firing at an engine's event input: an empty latch takes it, and a full one loses it, with OVERRUN, the count and the stamp of the
first loss (R94). The earliest latched firing that the wait accepts releases the waiting entry: it consumes its latch, sets RS, RGEN and RIN,
and is held (R95, R96). -/
def Obligations.EventInputsLatchAndRelease : Prop :=
  ∀ (s : State) (e : Fin 64) (k : Fin 4),
    let d := s.dev
    let i := e.val * 4 + k.val
    (∀ h r, (d.tinOf i).inbox = h :: r →
      (SMap.get none d.ei i = none → d.tinBad i = false → s.runs (.eventInputFiring e k) (fun d' =>
        SMap.get none d'.ei i = some ⟨h.fire.stamp, h.fire.gen, h.fire.coarse⟩ ∧ (d'.tinOf i).inbox = r ∧
        ∀ j, j ≠ i → SMap.get none d'.ei j = SMap.get none d.ei j)) ∧
      (SMap.get none d.ei i ≠ none → h.fire.stamp < 2^64 → s.runs (.eventInputFiring e k) (fun d' =>
        d'.ei = d.ei ∧ (d'.tinOf i).inbox = r ∧ d'.bit (Reg.tin_EVENTS i) 1 = true ∧
        d'.rdN (Reg.tin_OVR_CNT i) = min (2^32 - 1) (d.rdN (Reg.tin_OVR_CNT i) + 1) ∧
        d'.rd64 (Reg.tin_OVR_FIRST_LO i) = if d.bit (Reg.tin_EVENTS i) 1 then d.rd64 (Reg.tin_OVR_FIRST_LO i) else h.fire.stamp))) ∧
    (∀ (c : Nat) (l : Latch),
      let n := d.entryOf c
      d.runsOn e c → (d.engOf e).released = false → d.progIn (d.ctxRecOwner c) (d.ctxPc c) = true →
      bitsOf (ent n 0 6 4) k 1 = 1 → SMap.get none d.ei i = some l → l.stamp < 2^64 → l.gen < 8 → (ent n 0 10 1 = 1 → d.ctx64 c 10 ≤ l.stamp) →
      (∀ (j : Fin 4) l', bitsOf (ent n 0 6 4) j 1 = 1 → SMap.get none d.ei (e * 4 + j) = some l' →
        (ent n 0 10 1 = 1 → d.ctx64 c 10 ≤ l'.stamp) → l.stamp < l'.stamp ∨ (l.stamp = l'.stamp ∧ k ≤ j)) →
      s.runs (.waitRelease e) (fun d' =>
        (d'.engOf e).released = true ∧ SMap.get none d'.ei i = none ∧ d'.ctx64 c 6 = l.stamp ∧ d'.ctxFld c 2 28 3 = l.gen ∧
        d'.ctxFld c 2 26 2 = k ∧ d'.isHeld c = true ∧ d'.ctxPc c = d.ctxPc c ∧ d'.launches = d.launches))

/-- A switch: at a firing of an enabled switch input with a current copy in slot S0, and at the time of a SWITCH entry with a current copy,
the engine takes the target, which becomes RUNNING; the outgoing context becomes ADMITTED; at the firing its launches at or past the
cut-off are withdrawn and the target holds the firing as its release (R129 to R134). -/
def Obligations.SwitchesTakeTheTarget : Prop :=
  ∀ (s : State) (e : Fin 64) (c target : Nat),
    let d := s.dev
    c ≠ target → target < 2^14 → d.engCtx e = some c → d.switchFails target (d.engOwner e) (some c) = none →
    (∀ h r, (d.tinOf (256 + e)).inbox = h :: r → d.swTarget e = some target → d.tinBad (256 + e) = false →
      d.timeValid = true → d.current (d.engOf e).s0 target = true → (d.engOf e).moving = none → d.bit (Reg.eng_STATUS e) 24 = false →
      h.fire.stamp + d.latOf (256 + e) < 2^64 →
      s.runs (.swFiring e) (fun d' =>
        d'.engCtx e = some target ∧ d'.ctxState target = 3 ∧ d'.ctxState c = 2 ∧ d'.ctx64 target 6 = h.fire.stamp ∧ d'.isHeld target = true ∧
        d'.launches = d.launches.filter (fun l => !(l.ctx == c && decide (h.fire.stamp + d.latOf (256 + e) ≤ l.judged))))) ∧
    (∀ t, (d.engOf e).swWait = some (target, t) → d.due t = true → d.timeValid = true →
      (∀ l ∈ d.launches, l.ctx = c → d.awaitsSwitch l = false → l.accepted = false → t ≤ l.treq) →
      (d.current (d.engOf e).s0 target = true ∨ d.current (d.engOf e).s1 target = true) →
      s.runs (.scheduledSwitch e) (fun d' =>
        d'.engCtx e = some target ∧ d'.ctxState target = 3 ∧ d'.ctxState c = 2 ∧
        d'.launches = d.launches.filter (fun l => !(l.eng == e.val && d.awaitsSwitch l))))

/-- The engine's own work: a line of the program at the PC is fetched; a staging slot's copy completes; a written switch target applies; the
patrol goes to its next window, and a failed window or self-test retires the engine; a moved context is bound; microcode changes to the
other half of the cache. A write that meets the engine's in one bank word is a collision; the ECC corrects a word, or the engine is retired,
or, of a word of the live record, its mirror stops (R120, R130, R136, R140, R142, R143, R145, R147). -/
def Obligations.EngineUpkeep : Prop :=
  ∀ (s : State) (e : Fin 64),
    let d := s.dev
    let x := d.engOf e
    (∀ c, d.engCtx e = some c → d.ctxPc c / 8 ∉ x.lines → s.runs (.lineFetch e) (fun d' =>
      d.ctxPc c / 8 ∈ (d'.engOf e).lines ∧ d' = { d with eng := d'.eng })) ∧
    (∀ g : Staged, g.done = false →
      let copied (n : Staged) : Prop := n.ctx = g.ctx ∧ n.ver = g.ver ∧ n.done = true ∧ (∀ i < 128, n.recd[i]? = some (d.storeW g.ctx i)) ∧
        ∀ i < 64, n.prog[i]? = some (SMap.get 0 d.prog ((4 * d.ctxPc g.ctx + i) % 2^22))
      (x.s1 = some g → s.runs (.staging e ⟨1, .clean, false⟩) (fun d' =>
        (∃ n, (d'.engOf e).s1 = some n ∧ copied n) ∧ (d'.engOf e).s0 = x.s0 ∧ d' = { d with eng := d'.eng })) ∧
      (d.swTarget e = some g.ctx → x.s0 = some g → s.runs (.staging e ⟨0, .clean, false⟩) (fun d' =>
        (∃ n, (d'.engOf e).s0 = some n ∧ copied n) ∧ (d'.engOf e).s1 = x.s1 ∧ d' = { d with eng := d'.eng }))) ∧
    (∀ k : Fin 2, s.runs (.staging e ⟨k, .clean, true⟩) (fun d' => d'.bit (Reg.eng_EVENTS e) 2 = true ∧
      d'.rdN (Reg.eng_COLLIDE e) = min (2^32 - 1) (d.rdN (Reg.eng_COLLIDE e) + 1) ∧ d.fired d' 979 d.nowT)) ∧
    (∀ k : Fin 2, s.runs (.staging e ⟨k, .corrected, false⟩) (fun d' => d'.bit (Reg.eng_EVENTS e) 3 = true ∧
      d'.rdN (Reg.eng_BANK_CORR_CNT e) = min (2^32 - 1) (d.rdN (Reg.eng_BANK_CORR_CNT e) + 1) ∧ d'.launches = d.launches)) ∧
    (∀ (k : Fin 2) (off : BitVec 18), d.bit (Reg.eng_STATUS e) 24 = false →
      (off.toNat < 0x20000 ∨ 0x20400 ≤ off.toNat → s.runs (.staging e ⟨k, .uncorrectable off, false⟩) (fun d' => d'.bit (Reg.eng_STATUS e) 24 = true)) ∧
      (0x20000 ≤ off.toNat → off.toNat < 0x20400 → s.runs (.staging e ⟨k, .uncorrectable off, false⟩) (fun d' =>
        d' = { d with eng := d'.eng } ∧ ∀ c, d.engCtx e = some c → ∀ w, Dev.isHot w = true → w / 2 = (off.toNat - 0x20000) / 8 →
          w ∈ (d'.engOf e).stuck.map (·.1)))) ∧
    (d.held (Reg.eng_SW_CFG e) = true → s.runs (.swCfgApply e) (fun d' =>
      d'.held (Reg.eng_SW_CFG e) = false ∧ d'.eff (Reg.eng_SW_CFG e) = d.rd (Reg.eng_SW_CFG e) ∧ d' = { d with eng := d'.eng, inforce := d'.inforce })) ∧
    (s.runs (.selfTest e true) (fun d' => d' = d)) ∧
    (d.bit (Reg.eng_CFG e) 2 = true → d.bit (Reg.eng_STATUS e) 24 = false → s.runs (.selfTest e false) (fun d' =>
      d'.bit (Reg.eng_STATUS e) 24 = true ∧ d'.bit (Reg.pool_IN_SERVICE_LO + 4 * (e / 32)) (e % 32) = false)) ∧
    (d.bit (Reg.eng_CFG e) 1 = true → d.bit (Reg.eng_STATUS e) 24 = false →
      (s.runs (.patrol e none false) (fun d' =>
        d' = d.setFld (Reg.eng_PATROL e) 16 7 (d.fld (Reg.eng_PATROL e) 16 7 + 1))) ∧
      (d.fld (Reg.eng_PATROL e) 16 7 ≠ 64 → ∀ a, s.runs (.patrol e (some a) false) (fun d' => d'.bit (Reg.eng_STATUS e) 24 = true))) ∧
    (∀ c o, x.moving = some o → d.engCtx e = some c → s.runs (.engMoved e) (fun d' =>
      (d'.engOf e).moving = none ∧ d'.rdN Reg.pool_MOVES = min (2^32 - 1) (d.rdN Reg.pool_MOVES + 1) ∧ d'.launches = d.launches)) ∧
    (x.mcNew = true → s.runs (.microcodeChange e) (fun d' =>
      d'.bit (Reg.eng_STATUS e) 25 = !d.bit (Reg.eng_STATUS e) 25 ∧ (d'.engOf e).mcNew = false))

/-! ## Launches and playout (chapters 2 to 4) -/

/-- A record is accepted at the requested time, or, where the channels cannot meet it, at the earliest time they can: not before the switch
cut-off, the end of what a channel has accepted, or the first tick the pipeline can meet (R26, R27). -/
def Obligations.LaunchesAreAccepted : Prop :=
  ∀ (s : State) (e : Fin 64) (l : Launch),
    let d := s.dev
    let lp := l.chans.foldl (fun m n => max m (d.lPipe n)) 0
    d.timeValid = true → d.launches.find? (fun l => l.eng == e.val && !l.accepted && !d.awaitsSwitch l) = some l →
    (∀ n ∈ l.chans, d.stale n l = false) →
    s.runs (.launchRecord e) (fun d' =>
      ∃ l', d'.launches = d.launches.erase l ++ [l'] ∧ l'.accepted = true ∧ l'.ctx = l.ctx ∧ l'.lsn = l.lsn ∧ l'.chans = l.chans ∧ l'.treq = l.treq ∧
        l.treq ≤ l'.teff ∧ l.tmin ≤ l'.teff ∧ (l.kind.isSpan = true → ∀ n ∈ l.chans, d.chanEnd n ≤ l'.teff) ∧
        (l.treq / 16 < d.nowT / 16 + lp → (d.nowT / 16 + lp) * 16 ≤ l'.teff) ∧
        (l.coarse = false → l.tmin ≤ l.treq → d.nowT / 16 + lp ≤ l.treq / 16 →
          (l.kind.isSpan = true → ∀ n ∈ l.chans, d.chanEnd n ≤ l.treq) → l'.teff = l.treq))

/-- A launch acts at its effective time: it leaves the pending launches; a PLAY or GAP starts on every channel of its set, a FRAME action
reaches every channel, and an EVENT fires the engine's user source with the effective time as its stamp (R26, R108, R110 to R113). -/
def Obligations.LaunchesActAtTheirTime : Prop :=
  ∀ (s : State) (c : Fin 10240) (l : Launch),
    let d := s.dev
    d.chanWf → d.timeValid = true → l.chans.Nodup →
    Dev.firstLaunch (d.launches.filter (fun l => l.ctx == c.val && l.accepted && d.due l.teff)) = some l →
    s.runs (.launch c) (fun d' => d'.launches = d.launches.erase l ∧
      (l.kind.isSpan = true → ∀ n ∈ l.chans, ∃ q, (d'.chanOf n).cur = some q ∧ q.ctx = l.ctx ∧ q.lsn = l.lsn ∧ q.start = l.teff) ∧
      (∀ fact f v, l.kind = .frame fact f v → ∀ n ∈ l.chans,
        (d'.chanOf n).frActs = (d.chanOf n).frActs ++ [⟨0, fact, f, v, 0, l.treq, l.teff, true, l.arr⟩]) ∧
      (∀ u, l.kind = .event u → l.gen < 8 → ∀ n ∈ d.listeners (576 + 4 * l.src + u),
        ∃ x ∈ (d'.ecOf n).inbox, x.fire.stamp = l.teff ∧ x.fire.gen = l.gen))

/-- Playing: a pass is followed by the next at its time, a last pass ends the play, a marker's next edge sets its level, an underrun gives
safe code from its first missing sample, or from the end of a head whose ring lacks its prefill, and the fill engine requests the next burst
of a stream through its tile's port (R66, R70, R72, R73, R108, R109, R183). -/
def Obligations.PlayoutGoesOn : Prop :=
  ∀ (s : State) (ch : Fin 96),
    let d := s.dev
    d.chanWf → d.timeValid = true →
    (∀ p, (d.chanOf ch).cur = some p → p.pass + 1 < p.passes → d.due (p.start + (p.pass + 1) * p.dur) = true →
      s.runs (.passStart ch) (fun d' => (d'.chanOf ch).cur = some { p with pass := p.pass + 1 } ∧ d'.launches = d.launches)) ∧
    (∀ p, (d.chanOf ch).cur = some p → d.due p.stop = true →
      s.runs (.segEnd ch) (fun d' => (d'.chanOf ch).cur = none ∧ (d'.chanOf ch).prev.head? = some p ∧ d'.launches = d.launches)) ∧
    (∀ (b : Fin 2) (x : Edge), (d.edges.filter (fun y => y.ch == ch.val && y.mark == b.val && y.time == x.time)).getLast? = some x →
      (∀ y ∈ d.edges, y.ch = ch → y.mark = b → x.time ≤ y.time) → d.due x.time = true →
      s.runs (.markerEdge ch b) (fun d' =>
        (if b = 0 then (d'.chanOf ch).mkA else (d'.chanOf ch).mkB) = x.level ∧
        d'.edges = d.edges.filter (fun y => !(y.ch == ch.val && y.mark == b.val && y.time == x.time)))) ∧
    (∀ p t, (d.chanOf ch).cur = some p → dStreamed p.desc = true → p.seg.isSome = true → p.undr = none → p.gen < 8 → t < p.stop →
      d.due t = true →
      let undergoes (atHead : Bool) (post : Dev → Prop) : Prop := s.runs (.underrun (chTile ch) (chLane ch) atHead) (fun d' => (∃ q, (d'.chanOf ch).cur = some q ∧ q.undr = some t ∧
        q.ctx = p.ctx ∧ q.lsn = p.lsn ∧ q.start = p.start) ∧ d.fired d' (6 * ch + 4) t ∧ d'.bit (Reg.chn_SC_EVENTS ch) 0 = true ∧
        d'.launches = d.launches ∧ post d')
      (dHead p.desc = 0 ∨ d.headEnd ch p < d.nowT → d.firstMissing ch p = some t → undergoes false (fun _ => True)) ∧
      (dHead p.desc ≠ 0 → t = d.headEnd ch p → d.nowT ≤ t → d.shortOf ch p.ctx p.lsn = true →
        undergoes true (fun d' => d'.bit (Reg.chn_SC_EVENTS ch) 1 = true))) ∧
    ((d.chanOf ch).cur = none → ∀ atHead, s.runs (.underrun (chTile ch) (chLane ch) atHead) (fun d' => d' = d)) ∧
    (∀ x (ns : Nat), (d.chanOf ch).streams.find? (fun s => decide (s.asked < s.bytes * s.passes)) = some x → d.dramShut = false → d.standby = false →
      let at_ := x.asked % max 1 x.bytes
      let n := min 512 (x.bytes - at_)
      d.ringUsed ch + n ≤ (d.ringOf ch).2 → d.fld (Reg.chn_SC_STATUS ch) 0 2 = 2 → d.readsOut (ch / 16) + n / 64 ≤ 64 →
      SMap.get false d.wiped ((x.addr + at_) / 2^20) = true →
      s.runs (.ringFill ⟨ch, ns⟩) (fun d' => (d'.chanOf ch).ringWr = (d.chanOf ch).ringWr + n ∧ d'.dram = d.dram ∧ d'.sc = d.sc ∧
        ∃ r, (d'.dmcOf (d.place (x.addr + at_)).1).waiting = (d.dmcOf (d.place (x.addr + at_)).1).waiting ++ [r] ∧ r.port = ch.val / 16 ∧
          r.addr = x.addr + at_ ∧ r.len = n ∧ r.write = false ∧ r.fill = some (ch.val, x.ctx, x.lsn, x.asked)))

/-- A launch input gives its context a PLAY at stamp + LAT; a frame input gives its action to every channel of its set that belongs to its owner, at
stamp + LAT where the channels can still meet it (R19, R224, R226). -/
def Obligations.LaunchAndFrameInputs : Prop :=
  ∀ (s : State) (h : Held) (r : List Held) (t : Nat),
    let d := s.dev
    (∀ (k : Fin 48) (e : Nat),
      let c := d.fld (Reg.li_CFG k) 0 14
      d.takesAt (320 + k) h r t → d.liShut k = false → d.liFull k = false → d.ctxEng c = some e →
      s.runs (.launchInput k) (fun d' => ∃ l, d'.launches = d.launches ++ [l] ∧ l.ctx = c ∧ l.eng = e ∧ l.treq = t ∧ l.chans = d.ctxChans c ∧
        l.lsn = (d.ctxFld c 3 0 16 + 1) % 2^16 ∧ l.gen = h.fire.gen + 1 ∧ l.li = some k.val ∧ l.accepted = false ∧ (d'.tinOf (320 + k)).inbox = r)) ∧
    (∀ (k : Fin 32),
      let has (n : Nat) : Prop := bitsOf (d.eff (Reg.fi_CHSET k (n / 32))).toNat (n % 32) 1 = 1 ∧ d.chOwner n = d.fiOwner k
      let cfg := (d.eff (Reg.fi_CFG k)).toNat
      d.takesAt (368 + k) h r t → d.fiWaiting k < 4 → d.corrupt (Reg.fi_CFG k) 64 = false →
      (∀ n < 96, has n → d.nowT / 16 + d.lPipe n ≤ t / 16) →
      s.runs (.frameInput k) (fun d' => (d'.tinOf (368 + k)).inbox = r ∧
        (∀ n < 96, has n → ∃ a, (d'.chanOf n).frActs = (d.chanOf n).frActs ++ [a] ∧ a.prio = k.val + 1 ∧ a.fact = bitsOf cfg 0 3 ∧
          a.frame = bitsOf cfg 8 5 ∧ a.t = t ∧ a.teff = t) ∧
        ∀ n, (96 ≤ n ∨ ¬ has n) → d'.chanOf n = d.chanOf n))

/-! ## Phase frames (chapter 6) -/

/-- The six frame actions: at epoch time T, or at the frame's epoch where that is later, the record becomes the row of the table (R155),
with phase and frequency by the formula; the channel's other frames stay. -/
def Obligations.FrameActionsReplaceTheRecord : Prop :=
  ∀ (s : State) (ch : Fin 96) (f : Fin 32) (teff : Nat) (a : FrAct), s.dev.frameDue ch f teff a →
    let d := s.dev
    let r := d.frameOf ch f
    let T := max a.t r.epoch
    let after (i : Instr) (post : FrameRec → Prop) : Prop := s.runs i (fun d' =>
      post (d'.frameOf ch f) ∧ (d'.frameOf ch f).epoch = T ∧ (d'.chanOf ch).frActs = (d.chanOf ch).frActs.erase a ∧
      ∀ ch' f' : Nat, f' < 32 → (ch' ≠ ch ∨ f' ≠ f) → d'.frameOf ch' f' = d.frameOf ch' f')
    (a.fact = 0 → after (.setf ch f) (fun x => x.freq = a.v % 2^48 ∧ (x.phase : Int) = r.phaseAt T ∧ x.rate = r.rate)) ∧
    (a.fact = 1 → after (.setp ch f) (fun x => (x.freq : Int) = r.freqAt T ∧ x.phase = a.v % 2^48 ∧ x.rate = r.rate)) ∧
    (a.fact = 2 → after (.addp ch f) (fun x => (x.freq : Int) = r.freqAt T ∧ (x.phase : Int) = (r.phaseAt T + a.v) % 2^48 ∧ x.rate = r.rate)) ∧
    (a.fact = 3 → after (.setc ch f) (fun x => (x.freq : Int) = r.freqAt T ∧ (x.phase : Int) = r.phaseAt T ∧ x.rate = a.v % 2^32)) ∧
    (a.fact = 4 → after (.choff ch f) (fun x => (x.freq : Int) = r.freqAt T ∧ (x.phase : Int) = r.phaseAt T ∧ x.rate = 0)) ∧
    (a.fact = 5 → after (.init ch f) (fun x => x.freq = a.v % 2^48 ∧ x.phase = a.v2 % 2^48 ∧ x.rate = 0))

/-- A host frame command with GO is held until its time, and a query gives the frame's phase and frequency at its time and changes no frame
(R169, R170). -/
def Obligations.HostFrameCommandsAndQueries : Prop :=
  ∀ (s : State) (fn : Fn) (ch : Fin 96) (v : Word),
    let d := s.dev
    (d.answers fn (Reg.chn_FR_CMD ch) (d.chOwner ch) → d.bit (Reg.chn_FR_CMD ch) 17 = false → v.toNat % 8 < 6 → v.getLsbD 16 = true →
      d.nowT / 16 + d.lPipe ch ≤ d.rd64 (Reg.chn_FR_AT_LO ch) / 16 →
      s.runs (.frCmd fn ch v) (fun d' => d'.bit (Reg.chn_FR_CMD ch) 17 = true ∧ d'.bit (Reg.chn_FR_CMD ch) 16 = false ∧
        (d'.chanOf ch).frActs = (d.chanOf ch).frActs ++ [⟨100, v.toNat % 8, bitsOf v.toNat 8 5, d.rd64 (Reg.chn_FR_VAL_LO ch),
          d.rd64 (Reg.chn_FR_VAL2_LO ch), d.rd64 (Reg.chn_FR_AT_LO ch), d.rd64 (Reg.chn_FR_AT_LO ch), false, d.arrCtr⟩])) ∧
    (d.answers fn (Reg.chn_FRQ_AT_HI ch) (d.chOwner ch) →
      let t := d.pairLow fn (Reg.chn_FRQ_AT_LO ch) + 2^32 * v.toNat
      let r := d.frameOf ch (d.fld (Reg.chn_FRQ_CTL ch) 0 5)
      s.runs (.frameQuery fn ch v) (fun d' => d'.bit (Reg.chn_FRQ_CTL ch) 31 = true ∧ (d'.rd64 (Reg.chn_FRQ_PH_LO ch) : Int) = r.phaseAt t ∧
        (d'.rd64 (Reg.chn_FRQ_F_LO ch) : Int) = r.freqAt t ∧ d'.frames = d.frames))

/-! ## The event fabric (chapter 8) -/

/-- An event channel handles its next firing: one that its group or gate stops is counted and goes no further; a divider that has counted
down gives an output firing at tick + DELAY and starts again from DIV, and any other count falls by one. A held firing whose delay is over reaches
every task input that selects the channel and is counted; buffered values of a channel with no count and no held firing apply (R211, R213 to
R218, R221, R222). -/
def Obligations.EventChannelsDivideAndDeliver : Prop :=
  ∀ (s : State) (n : Fin 256),
    let d := s.dev
    (∀ h : Held,
      let ctl := (d.eff (Reg.ec_CTL n)).toNat
      let f := h.fire
      let gate := gatePasses (bitsOf ctl 20 2) (d.eff64 (Reg.ec_GATE_OPEN_LO n)) (d.eff64 (Reg.ec_GATE_CLOSE_LO n))
        (d.eff (Reg.ec_GATE_WIDTH n)).toNat (d.eff (Reg.ec_GATE_PERIOD n)).toNat f.stamp
      let on := (d.groupAt (bitsOf ctl 14 5) f.stamp).1
      firstHeld ((d.ecOf n).inbox.filter (fun h => decide (h.tick < d.nowT / 16))) = some h → d.bit (Reg.ec_CTL n) 22 = true →
      d.corrupt (Reg.ec_CFG n) 128 = false →
      ((on = false ∨ gate = false) → s.runs (.eventChannelFiring n) (fun d' =>
        (d'.ecOf n).hold = (d.ecOf n).hold ∧ d'.ecCount n = d.ecCount n ∧ d'.rdN (Reg.ec_GATED_CNT n) = min (2^32 - 1) (d.rdN (Reg.ec_GATED_CNT n) + 1))) ∧
      (on = true → gate = true → d.ecCount n ≠ 0 → s.runs (.eventChannelFiring n) (fun d' =>
        (d'.ecOf n).hold = (d.ecOf n).hold ∧ d'.ecCount n = d.ecCount n - 1)) ∧
      (on = true → gate = true → d.ecCount n = 0 → (d.ecOf n).hold = [] → s.runs (.eventChannelFiring n) (fun d' =>
        (d'.ecOf n).hold = [⟨f, h.tick + d.ecDelay n⟩] ∧ d'.ecCount n = bitsOf (d.eff (Reg.ec_DIV n)).toNat 0 16))) ∧
    (∀ h r, (d.ecOf n).hold = h :: r → d.corrupt (Reg.ec_CFG n) 128 = false → h.tick < d.nowT / 16 →
      (∀ x ∈ (d.ecOf n).inbox, h.tick < x.tick + d.ecDelay n) →
      s.runs (.deliver n) (fun d' => (d'.ecOf n).hold = r ∧ d'.rdN (Reg.ec_FIRE_CNT n) = min (2^32 - 1) (d.rdN (Reg.ec_FIRE_CNT n) + 1) ∧
        ∀ i ∈ d.selecting n, (d.tinOf i).inbox = [] → (d'.tinOf i).inbox = [⟨h.fire, h.tick⟩])) ∧
    (d.ecCount n = 0 → (d.ecOf n).hold = [] → s.runs (.ecApply n) (fun d' => ∀ a ∈ Dev.ecBuffered n, d'.held a = false ∧ d'.rd a = d.rd a))

/-- Changes of a group: firings at its two inputs schedule an enable and a disable at stamp + LAT, a command with GO one at AT, and at its time
a change takes effect, a disable winning over an enable at the same time (R219, R237). -/
def Obligations.GroupsChange : Prop :=
  ∀ (s : State) (g : Fin 32),
    let d := s.dev
    (∀ h r t, d.groupWaiting g < 4 →
      (d.takesAt (436 + g) h r t → (d.tinOf (436 + g)).acts.length < 4 → s.runs (.groupEnable g) (fun d' =>
        (d'.tinOf (436 + g)).acts = (d.tinOf (436 + g)).acts ++ [⟨t, h.fire.stamp, h.fire.gen, 1⟩] ∧ (d'.tinOf (436 + g)).inbox = r)) ∧
      (d.takesAt (468 + g) h r t → (d.tinOf (468 + g)).acts.length < 4 → s.runs (.groupDisable g) (fun d' =>
        (d'.tinOf (468 + g)).acts = (d.tinOf (468 + g)).acts ++ [⟨t, h.fire.stamp, h.fire.gen, 0⟩] ∧ (d'.tinOf (468 + g)).inbox = r))) ∧
    (∀ (fn : Fn) (v : Word), d.answers fn (Reg.grp_CMD g) (Dev.ownerField (d.fld (Reg.grp_STATE g) 5 4) (d.bit (Reg.grp_STATE g) 9)) →
      d.groupWaiting g < 4 → v.getLsbD 1 = true → s.runs (.grpCmd fn g v) (fun d' =>
        (d'.grpOf g).cmds = (d.grpOf g).cmds ++ [(d.rd64 (Reg.grp_AT_LO g), v.getLsbD 0)])) ∧
    (∀ p ∈ d.groupChanges g, (∀ q ∈ d.groupChanges g, p.1 ≤ q.1) → d.due p.1 = true → d.timeValid = true →
      s.runs (.groupChange g) (fun d' => d'.bit (Reg.grp_STATE g) 0 = !((d.groupChanges g).any (fun q => q.1 == p.1 && !q.2)) ∧
        (d'.grpOf g).cmds = (d.grpOf g).cmds.filter (fun q => q.1 != p.1)))
/-! ## Static mode, safe code and the guard (chapter 7) -/

/-- Static loads: a load strobe, or an edge on LOAD_N for the groups that take it, is scheduled for stamp + LAT; at that time each member takes the last
code that was written in time, and codes written later wait (R198 to R201). -/
def Obligations.StaticLoadsApply : Prop :=
  ∀ (s : State) (g : Fin 16),
    let d := s.dev
    let i := 400 + g.val
    (∀ h r t, d.lgBad g = false → d.fromPin g = false → d.takesAt i h r t → (d.tinOf i).acts.length < 4 →
      s.runs (.loadStrobe g) (fun d' => (d'.tinOf i).acts = (d.tinOf i).acts ++ [⟨t, h.fire.stamp, h.fire.gen, 0⟩] ∧ (d'.tinOf i).inbox = r)) ∧
    (∀ lane : Fin 16, d.timeValid = true → d.timeState = 2 → d.time.now + 16 ≤ 2^64 → (∀ t0, d.loadnAt = some t0 → t0 + 16 ≤ d.time.now + lane) →
      s.runs (.loadN lane) (fun d' => d'.loadnAt = some (d.time.now + lane.val) ∧ d'.rd64 Reg.lgPage_LOADN_AT_LO = d.time.now + lane ∧
        (d.fromPin g = true → d.lgBad g = false → d.time.now + lane + d.rdN (Reg.lg_LAT g) < 2^64 →
          (d'.tinOf i).acts = (d.tinOf i).acts ++ [⟨d.time.now + lane + d.rdN (Reg.lg_LAT g), d.time.now + lane, 0, 0⟩]))) ∧
    (∀ a, Dev.earliest (d.tinOf i).acts = some a → d.due a.time = true → d.timeValid = true →
      s.runs (.staticLoad g) (fun d' => (d'.tinOf i).acts = (d.tinOf i).acts.erase a ∧
        d'.rdN (Reg.lg_STROBES g) = min (2^32 - 1) (d.rdN (Reg.lg_STROBES g) + 1) ∧
        let t := if a.value = 1 then max a.time d.nextTick else a.time
        ∀ n ∈ d.members g, ∀ later p rest, (d.chanOf n).statics = later ++ p :: rest → (∀ x ∈ later, t / 16 < x.1 + 2) → p.1 + 2 ≤ t / 16 →
          (d'.chanOf n).statics = later ∧ (d'.chanOf n).path = (p.2.extractLsb' 0 16).toInt ∧ (later = [] → d'.held (Reg.chn_STATIC_CODE n) = false)))

/-- The guard at work, in a tick (the step on an empty queue: log entry 4): each of the sixteen codes that a channel gives leaves the guard
clamped, and then changed by at most the slew limit from the code that the DAC took before (R184); a word changed by either is flagged (R185). -/
def Obligations.GuardLimitsTheCode : Prop :=
  ∀ (s : State) (ch : Fin 96),
    let d := s.dev
    let k := s.guard.of ch
    let before := (d.chanOf ch).code
    let x := (d.chanOf ch).path
    s.pending = [] → d.drives s.guard ch → k.lo ≤ k.hi → ∃ t, step s = .next t ∧ t.guard = s.guard ∧ t.pending = [] ∧
      (let code := (t.dev.chanOf ch).code
       (code - before).natAbs ≤ 16 * k.slew ∧ (k.lo ≤ before → before ≤ k.hi → k.lo ≤ code ∧ code ≤ k.hi) ∧
       (d.chMode ch = 2 →
         code = (k.next x)^[16] before ∧
         (x < k.lo ∨ k.hi < x → t.dev.bit (Reg.chn_OUT_EVENTS ch) 4 = true) ∧
         (k.next x before ≠ max k.lo (min k.hi x) → t.dev.bit (Reg.chn_OUT_EVENTS ch) 5 = true)))

/-- Writes of the guard's working limits and of SAFE_CODE: a value within the seals is taken, and any other is refused with GUARD_LOOSEN and
leaves the guard as it is (R187, R194). -/
def Obligations.GuardWritesStayWithinTheSeals : Prop :=
  ∀ (s : State) (fn : Fn) (ch : Fin 96) (v : Word),
    let d := s.dev
    let k := s.guard.of ch
    let lo := (v.extractLsb' 0 16).toInt
    let hi := (v.extractLsb' 16 16).toInt
    let takes (i : Instr) (ok : Prop) (k' : GuardCh) : Prop :=
      (ok → s.runsG i (fun g' d' => g'.of ch = k' ∧ (∀ n, n ≠ ch.val → g'.of n = s.guard.of n) ∧ g'.tout = s.guard.tout ∧ d'.launches = d.launches)) ∧
      (¬ ok → s.runs i (fun d' => d'.bit (Reg.chn_OUT_EVENTS ch) 7 = true ∧ d'.bit (Dev.fnKey fn Reg.glob_ACC_EVENTS) 4 = true))
    (d.answers fn (Reg.chn_GUARD_CLAMP ch) (d.chOwner ch) →
      takes (.guardWrite fn ch 0 v) (k.sealLo ≤ lo ∧ lo ≤ hi ∧ hi ≤ k.sealHi) { k with lo := lo, hi := hi }) ∧
    (d.answers fn (Reg.chn_GUARD_SLEW ch) (d.chOwner ch) →
      takes (.guardWrite fn ch 1 v) (1 ≤ v.toNat % 2^16 ∧ v.toNat % 2^16 ≤ k.sealS) { k with slew := v.toNat % 2^16 }) ∧
    (d.answers fn (Reg.chn_GUARD_PWR ch) (d.chOwner ch) →
      takes (.guardWrite fn ch 2 v) (v.toNat % 2^30 ≤ k.sealPwr) { k with pwr := v.toNat % 2^30 }) ∧
    (d.answers fn (Reg.chn_SAFE_CODE ch) (d.chOwner ch) →
      takes (.safeCode fn ch v) (k.sealLo ≤ lo ∧ lo ≤ k.sealHi) { k with safe := lo })

/-- The power limit: each tick (a step on an empty queue: log entry 4) adds the squares of the codes that the DAC took to the block's sum; a block whose sum exceeds
PWR × 16 × 2^WIN awaits its trip, which sets TRIP and the safe hold, records the block's end and fires the guard-hit source; with no such
block nothing happens (R184, R186). -/
def Obligations.PowerLimitTrips : Prop :=
  ∀ (s : State) (ch : Fin 96),
    let d := s.dev
    let k := s.guard.of ch
    let c := d.chanOf ch
    let blk := 16 * 2^k.win
    let start := d.nowT / blk * blk
    let sum := (if c.pwrBlk = start then c.pwrSum else 0) + 16 * c.path.natAbs^2
    (s.pending = [] → d.drives s.guard ch → d.chMode ch = 2 → k.lo ≤ c.path → c.path ≤ k.hi → c.code = c.path → ∃ t, step s = .next t ∧
      (t.dev.chanOf ch).pwrBlk = start ∧ (t.dev.chanOf ch).pwrSum = sum ∧
      (t.dev.chanOf ch).trips = if d.nowT + 16 = start + blk ∧ k.pwr * blk < sum then c.trips ++ [start + blk] else c.trips) ∧
    (∀ t r, c.trips = t :: r → t < 2^64 → d.genAt ch (t - 1) < 8 → s.runs (.trip (chTile ch) (chLane ch)) (fun d' =>
      d'.bit (Reg.chn_OUT_EVENTS ch) 6 = true ∧ (d'.chanOf ch).hold = true ∧ d'.bit (Reg.chn_SAFE_CTL ch) 4 = true ∧
      d'.rd64 (Reg.chn_TRIP_AT_LO ch) = t ∧ d.fired d' (6 * ch + 5) t ∧ (d'.chanOf ch).trips = r ∧ (d'.chanOf ch).code = c.code)) ∧
    (c.trips = [] → s.runs (.trip (chTile ch) (chLane ch)) (fun d' => d' = d))

/-- Safe code: OUT_SAFE_N falling flags every channel with SAFE_EN and, with SAFE_LATCH, holds it; its rise lets
the path slew from the safe code that stood; HOLD_REL releases a hold that no cause keeps and is refused otherwise; the settle ends by itself; a word in error gives SAFE_CODE, and more than 16
in 1 ms hold the channel; EXTEST holds every channel, but not in RETIRED (R193, R195 to R197, R329). -/
def Obligations.SafeCodeStands : Prop :=
  ∀ (s : State),
    let d := s.dev
    (∀ lane : Fin 16, d.safePin = false → s.runs (.outSafeN lane) (fun d' => d'.safePin = true ∧ d'.bit Reg.lgPage_LG_STATUS 0 = true ∧
      ∀ n < 96, ((s.guard.of n).safeEn = true → d'.bit (Reg.chn_OUT_EVENTS n) 1 = true ∧
          (d.bit Reg.lgPage_LG_CTL 0 = true → (d'.chanOf n).hold = true)) ∧
        ((s.guard.of n).safeEn = false ∨ d.bit Reg.lgPage_LG_CTL 0 = false → d'.chanOf n = d.chanOf n))) ∧
    (s.runs .outSafeNRelease (fun d' => d' = { d with safePin := false, safeEdge := false, mkLine := d'.mkLine, chan := d'.chan } ∧ ∀ n < 96,
      d'.chanOf n = if d.safePin = true ∧ (s.guard.of n).safeEn = true then { d.chanOf n with code := (s.guard.of n).safe } else d.chanOf n)) ∧
    (∀ (fn : Fn) (ch : Fin 96), d.answers fn (Reg.chn_SAFE_CTL ch) (d.chOwner ch) →
      (d.holdPersists ch = false → (d.chanOf ch).hold = true → s.runs (.holdRel fn ch) (fun d' =>
        (d'.chanOf ch).hold = false ∧ d'.fld (Reg.chn_SAFE_CTL ch) 4 8 = 0)) ∧
      (d.holdPersists ch = true → s.runs (.holdRel fn ch) (fun d' => d'.bit (Reg.chn_OUT_EVENTS ch) 9 = true ∧ d'.chan = d.chan))) ∧
    (∀ (ch : Fin 96) t, (d.chanOf ch).settle = some t → t ≤ d.nowT → s.runs (.settleEnd ch) (fun d' =>
      (d'.chanOf ch).settle = none ∧ d'.bit (Reg.chn_SAFE_CTL ch) 10 = false ∧
      ((d.chanOf ch).settleOnly = true → d.dsafe = false → (d'.chanOf ch).hold = false) ∧
      ((d.chanOf ch).settleOnly = false → (d'.chanOf ch).hold = (d.chanOf ch).hold))) ∧
    (∀ ch : Fin 96,
      let before := (d.chanOf ch).d2d.filter (fun t => decide (d.nowT < t + d.nsToT 1000000))
      s.runs (.d2dErr (chTile ch) (chLane ch)) (fun d' => (∀ t x, t / 16 = d.nowT / 16 → Dev.dacTakes s.guard d' ch t x = (s.guard.of ch).safe) ∧
        d'.bit (Reg.chn_OUT_EVENTS ch) 8 = true ∧ d'.rdN (Reg.chn_D2D_ERR_CNT ch) = min (2^32 - 1) (d.rdN (Reg.chn_D2D_ERR_CNT ch) + 1) ∧
        (16 ≤ before.length → (d'.chanOf ch).hold = true) ∧
        (before.length < 16 → (d'.chanOf ch).hold = (d.chanOf ch).hold ∧ (d'.chanOf ch).d2d = d.nowT :: before))) ∧
    (∀ b, s.runs (.extest b) (fun d' => d' = { d with extest := b && s.fuses.lc != 4 }))

/-! ## Trigger outputs and inputs (chapters 8 and 9) -/

/-- A trigger output acts at stamp + LAT in its mode, unless it would assert within GAP of its last asserting edge; a PULSE deasserts at its
end (R227). -/
def Obligations.TriggerOutputsAct : Prop :=
  ∀ (s : State) (k : Fin 8),
    let d := s.dev
    let i := 416 + k.val
    let level := d.bit (Reg.to_STATUS k) 0
    let mode := bitsOf (d.eff (Reg.to_CFG k)).toNat 0 2
    (∀ h r t, d.takesAt i h r t → (d.tinOf i).acts.length < 4 → s.runs (.triggerOutput k) (fun d' =>
      (d'.tinOf i).acts = (d.tinOf i).acts ++ [⟨t, h.fire.stamp, h.fire.gen, 0⟩] ∧ (d'.tinOf i).inbox = r)) ∧
    (∀ a, Dev.earliest (d.tinOf i).acts = some a → d.due a.time = true → d.timeValid = true → d.dsafe = false → d.toBad k = false →
      let asserts := level = false ∧ mode ≠ 2
      let close := (∃ t, (d.toutOf k).lastOn = some t ∧ a.time < t + (s.guard.ofTo k).gap) ∨ (s.guard.ofTo k).sealGap = 0xFFFFFFFF
      (asserts → close → s.runs (.triggerOutputAction k) (fun d' => d'.bit (Reg.to_STATUS k) 0 = level ∧ d'.toutOf k = d.toutOf k ∧
        d'.rdN (Reg.to_RATE_CNT k) = min (2^32 - 1) (d.rdN (Reg.to_RATE_CNT k) + 1) ∧ d'.bit (Reg.tin_EVENTS i) 1 = true ∧ d'.bit (Reg.tin_EVENTS i) 3 = true)) ∧
      (¬ (asserts ∧ close) → s.runs (.triggerOutputAction k) (fun d' =>
        (d'.bit (Reg.to_STATUS k) 0 = if mode = 2 then false else if mode = 3 then !level else true) ∧
        ((d'.toutOf k).pulseEnd = if mode = 0 then some (a.time + bitsOf (d.eff (Reg.to_WIDTH k)).toNat 0 24) else none) ∧
        (asserts → (d'.toutOf k).lastOn = some a.time) ∧ (d'.tinOf i).acts = (d.tinOf i).acts.erase a))) ∧
    (∀ t, (d.toutOf k).pulseEnd = some t → d.due t = true → d.timeValid = true → s.runs (.pulseEnd k) (fun d' =>
      d'.bit (Reg.to_STATUS k) 0 = false ∧ (d'.toutOf k).pulseEnd = none ∧ (d'.toutOf k).lastOn = (d.toutOf k).lastOn))

/-- A trigger input: a crossing that passes the tests is accepted with its stamp and fires its polarity's source; one that does not qualify,
and one that finds the input held off or disarmed, is counted; the settle ends, and ARM arms (R243 to R246). -/
def Obligations.TriggerInputsAccept : Prop :=
  ∀ (s : State) (m : Fin 16),
    let d := s.dev
    (∀ (rising : Bool) (lane : Fin 16),
      let t := d.tiStamp m (d.time.now + lane)
      let d1 := (d.setBit (Reg.ti_STATUS m) 0 rising).updTi m (fun x => { x with hist := ((t, rising) :: x.hist).take 64 })
      let cfg := (d.eff (Reg.ti_CFG m)).toNat
      d.standby = false → d.timeState = 2 → d.time.now + 16 ≤ 2^64 → d.bit (Reg.ti_STATUS m) 3 = false → bitsOf cfg 0 1 = 1 → bitsOf cfg (if rising then 1 else 2) 1 = 1 →
      d.corrupt (Reg.ti_CFG m) 128 = false →
      (d1.qualifies m t = false → s.runs (.triggerCrossing m rising lane) (fun d' =>
        d'.rdN (Reg.ti_QFAIL_CNT m) = min (2^32 - 1) (d.rdN (Reg.ti_QFAIL_CNT m) + 1) ∧ d'.ec = d.ec)) ∧
      (d1.qualifies m t = true → d.bit (Reg.ti_STATUS m) 2 = false → (d.bit (Reg.ti_STATUS m) 1 = false ∨ t < (d.tiOf m).armAt) →
        s.runs (.triggerCrossing m rising lane) (fun d' =>
          d'.rdN (Reg.ti_MISSED_CNT m) = min (2^32 - 1) (d.rdN (Reg.ti_MISSED_CNT m) + 1) ∧ d'.ec = d.ec)) ∧
      (d1.qualifies m t = true → d.bit (Reg.ti_STATUS m) 2 = false → d.bit (Reg.ti_STATUS m) 1 = true → (d.tiOf m).armAt ≤ t →
        (∀ t0, (if rising then (d.tiOf m).rise else (d.tiOf m).fall) = some t0 → t0 + 16 ≤ t) →
        s.runs (.triggerCrossing m rising lane) (fun d' => d'.rd64 (Reg.ti_LAST_LO m) = t ∧ d'.bit (Reg.ti_EVENTS m) 0 = true ∧
          d.fired d' (832 + 2 * m + (if rising then 0 else 1)) t))) ∧
    ((d.tiOf m).settle ≤ d.nowT → s.runs (.levelSettle m) (fun d' => d' = d.setBit (Reg.ti_STATUS m) 3 false)) ∧
    (∀ fn : Fn, d.answers fn (Reg.ti_CTL m) (d.srcOwner (832 + 2 * m)) → s.runs (.triggerArm fn m) (fun d' =>
      d'.bit (Reg.ti_STATUS m) 1 = true ∧ d'.ec = d.ec))

/-! ## Device time (chapter 2) -/

/-- SYNC, alarms and the reference: a SYNC edge is stamped with the time of its REF-domain edge and fires SYNC; an alarm fires with its time and,
with a PERIOD, again a period later; an enable applies; the reference's return makes device time COARSE (R34, R39, R40). -/
def Obligations.SyncAndAlarmsFire : Prop :=
  ∀ (s : State),
    let d := s.dev
    (d.time.refOk = true → d.accEdge / 2^32 < 2^64 → s.runs .syncEdge (fun d' =>
      d'.rd64 Reg.time_SYNC_LO = d.accEdge / 2^32 ∧ d'.time.lastSync = some d.time.refN ∧ d.fired d' 981 (d.accEdge / 2^32))) ∧
    (∀ a : Fin 64,
      let t := SMap.get 0 d.time.alarms a
      let p := d.rdN (Reg.alarm_PERIOD a)
      (d.timeValid = true → d.bit (Reg.alarm_CTL a) 1 = true → d.due t = true → d.corrupt (Reg.alarm_AT_LO a) 16 = false → s.runs (.alarm a) (fun d' =>
        d.fired d' (864 + a) t ∧ (p = 0 → d'.bit (Reg.alarm_CTL a) 1 = false) ∧
        (p ≠ 0 → t + p < 2^64 → d'.bit (Reg.alarm_CTL a) 1 = true ∧ SMap.get 0 d'.time.alarms a = t + p))) ∧
      (d.timeValid = true → d.held (Reg.alarm_CTL a) = true → d.fld (Reg.alarm_CTL a) 0 1 = 1 → d.nowT ≤ d.rd64 (Reg.alarm_AT_LO a) →
        s.runs (.alarmEnable a) (fun d' => d'.bit (Reg.alarm_CTL a) 1 = true ∧ SMap.get 0 d'.time.alarms a = d.rd64 (Reg.alarm_AT_LO a) ∧ d'.ec = d.ec)) ∧
      (d.timeValid = true → d.held (Reg.alarm_CTL a) = true → d.fld (Reg.alarm_CTL a) 0 1 = 0 →
        s.runs (.alarmEnable a) (fun d' => d'.bit (Reg.alarm_CTL a) 1 = false ∧ d'.ec = d.ec))) ∧
    (∀ khz : BitVec 32, s.runs (.refDetected khz) (fun d' => d'.rdN Reg.clk_REF_MEAS = khz.toNat ∧ d'.bit Reg.clk_STATUS 7 = true ∧
      d'.time = { d.time with refOk := true } ∧ d'.timeState = if d.timeState = 0 then 1 else d.timeState))

/-- The time-set: ARM arms it unless a channel is claimed or STATIC or a launch is pending; in mode 0 the first REF-domain edge after the arm
takes the written time and device time is COARSE, or refuses the set where a channel or a launch has come to use device time (log entry 72);
TB's first edge carries the smallest multiple of 16 above the accumulator at its anchor edge, unless that edge has passed, and device time is
RUN (R33, R34, R38). -/
def Obligations.TimeIsSetAndAnchored : Prop :=
  ∀ (s : State),
    let d := s.dev
    (∀ v : Word, d.answers 0 Reg.time_SET_CTL none → v.getLsbD 16 = true →
      ((∀ n < 96, d.isClaimed n = false ∧ d.chMode n ≠ 2) → d.launches = [] → (v.toNat % 4 = 3 → d.isMaster = false) →
        s.runs (.timeSetArm v) (fun d' => d'.bit Reg.time_STATUS 4 = true ∧ d'.time.mode = v.toNat % 4 ∧ d'.time.armN = d.time.refN)) ∧
      ((∃ n < 96, d.isClaimed n = true ∨ d.chMode n = 2) ∨ d.launches ≠ [] →
        s.runs (.timeSetArm v) (fun d' => d'.bit Reg.time_STATUS 4 = d.bit Reg.time_STATUS 4 ∧ d'.bit Reg.time_EVENTS 1 = true ∧ d'.time = d.time))) ∧
    (d.bit Reg.time_STATUS 4 = true → d.time.refOk = true → d.time.mode = 0 → d.time.armN < d.time.refN → d.time.syncAt = none →
      ((∀ n < 96, d.isClaimed n = false ∧ d.chMode n ≠ 2) → d.launches = [] →
        s.runs .timeSet (fun d' => d'.time.acc = d.rd64 Reg.time_SET_LO * 2^32 + d.sinceEdge (d.time.armN + 1) ∧ d'.timeState = 1 ∧
          d'.timeValid = false ∧ d'.bit Reg.time_STATUS 4 = false ∧ d'.rd64 Reg.time_SET_AT_LO = d.rd64 Reg.time_SET_LO ∧ d'.bit Reg.time_EVENTS 2 = true)) ∧
      ((∃ n < 96, d.isClaimed n = true ∨ d.chMode n = 2) ∨ d.launches ≠ [] →
        s.runs .timeSet (fun d' => d'.time.acc = d.time.acc ∧ d'.timeState = d.timeState ∧ d'.bit Reg.time_STATUS 4 = false ∧
          d'.bit Reg.time_EVENTS 1 = true))) ∧
    (d.timeState = 1 → d.time.refOk = true → d.bit Reg.clk_STATUS 0 = true → s.runs .tbAnchor (fun d' =>
      let a := d.time.anchor.getD d.accEdge
      d'.timeState = 2 ∧ d'.timeValid = true ∧ d'.time.now % 16 = 0 ∧ a < d'.time.now * 2^32 ∧ d.time.acc ≤ d'.time.now * 2^32 ∧
      (d.time.acc ≤ (a / 2^32 / 16 + 1) * 16 * 2^32 → d'.time.now = (a / 2^32 / 16 + 1) * 16) ∧ d'.time.acc = d'.time.now * 2^32))

/-! ## Capture (chapter 9) -/

/-- A capture's states: a valid configuration is applied; an arm takes effect at its action time; a trigger of an armed capture gives its stamp;
ABORT ends; the chain resets, and calibration takes the digitiser, first on input 17 and then on 16, and gives it back with what it measured (R254 to
R259, R265, R345, R349). -/
def Obligations.CapturesArmAndTrigger : Prop :=
  ∀ (s : State) (k : Fin 6),
    let d := s.dev
    let cfg := d.rdN (Reg.cap_CFG k)
    let pre := d.rdN (Reg.cap_PRE k)
    let post := d.rd64 (Reg.cap_POST_LO k) % 2^40
    let base := d.rd64 (Reg.cap_RING_BASE_LO k) % 2^41
    let size := d.rd64 (Reg.cap_RING_SIZE_LO k) % 2^41
    let log := d.rdN (Reg.cap_LOG k)
    let owner := d.mdOwner k
    let i := 424 + k.val
    (∀ fn : Fn, d.answers fn (Reg.cap_CTL k) owner → post ≠ 0 →
      pre + post ≤ (if bitsOf cfg 21 1 = 0 then 2^20 else size) / (if bitsOf cfg 20 1 = 1 then 2 else 4) →
      (bitsOf cfg 21 1 = 1 → base % 4096 = 0 ∧ size % 4096 = 0 ∧ d.dramRegion owner base size = true) →
      (bitsOf cfg 0 5 < 16 → d.chOwner (16 * k + bitsOf cfg 0 5) = owner) → bitsOf cfg 0 5 ≤ 17 →
      (bitsOf log 8 1 = 1 → d.ecOwner (bitsOf log 0 8) = owner) → (bitsOf log 24 1 = 1 → d.ecOwner (bitsOf log 16 8) = owner) →
      1 ≤ bitsOf cfg 5 12 → bitsOf cfg 5 12 ≤ 2048 → d.capState k ≠ 1 → d.capState k ≠ 2 → d.corrupt (Reg.cap_CFG k) 1024 = false →
      s.runs (.captureApply fn k) (fun d' =>
        let c := d'.capOf k
        c.sel = bitsOf cfg 0 5 ∧ c.dec = bitsOf cfg 5 12 ∧ c.fmt = bitsOf cfg 20 1 ∧ c.target = bitsOf cfg 21 1 ∧ (c.ovr = true ↔ bitsOf cfg 22 1 = 1) ∧
        (c.en = true ↔ bitsOf cfg 23 1 = 1) ∧ c.pre = pre ∧ c.post = post ∧ c.base = base ∧ c.size = size)) ∧
    (d.armBusy k = false → (d.tinOf i).acts = [] →
      let arms (ins : Instr) (t stamp gen host : Nat) (post : Dev → Prop) : Prop := s.runs ins (fun d' =>
        (if d.due t then d'.capState k = 1 ∧ (d'.capOf k).armAt = t ∧ (d'.capOf k).valid = 0 ∧ (d'.tinOf i).acts = []
         else d'.capState k = d.capState k ∧ (d'.tinOf i).acts = [⟨t, stamp, gen, host⟩]) ∧ post d')
      (d.timeValid = true → d.tinBad i = false → d.nowT + d.latOf i < 2^64 →
        arms (.captureArm k true) (d.nowT + d.latOf i) d.nowT 0 1 (fun _ => True)) ∧
      (∀ h r t, d.takesAt i h r t → h.fire.src ≠ Dev.hostSrc → arms (.captureArm k false) t h.fire.stamp h.fire.gen 0 (fun d' => (d'.tinOf i).inbox = r))) ∧
    (∀ a, d.timeValid = true → (d.tinOf i).acts = [a] → d.due a.time = true →
      (d.armBusy k = false → s.runs (.captureArm k false) (fun d' =>
        d'.capState k = 1 ∧ (d'.capOf k).armAt = a.time ∧ (d'.capOf k).valid = 0 ∧ (d'.tinOf i).acts = [])) ∧
      (d.armBusy k = true → s.runs (.captureArm k false) (fun d' => d'.capState k = d.capState k ∧ d'.capOf k = d.capOf k ∧ (d'.tinOf i).acts = []))) ∧
    (d.timeValid = true → d.nowT + d.latOf (430 + k) < 2^64 → d.capState k = 1 → d.tinBad (430 + k) = false → d.corrupt (Reg.cap_CFG k) 1024 = false → s.runs (.captureTrigger k true) (fun d' =>
      (d'.capState k = 2 ∨ d'.capState k = 3) ∧ d'.rd64 (Reg.cap_TRIG_AT_LO k) = d.nowT)) ∧
    (∀ h r t, d.takesAt (430 + k) h r t → d.capState k = 1 → d.corrupt (Reg.cap_CFG k) 1024 = false → s.runs (.captureTrigger k false) (fun d' =>
      (d'.capState k = 2 ∨ d'.capState k = 3) ∧ d'.rd64 (Reg.cap_TRIG_AT_LO k) = h.fire.stamp)) ∧
    (s.runs (.abort k) (fun d' => d'.capState k = (if d.capState k = 2 then 3 else 0) ∧ (d'.capOf k).valid = (d.capOf k).valid ∧
      (d.capState k ≠ 2 → d'.capOf k = d.capOf k))) ∧
    (((d.capOf k).en = true ∨ d.borrowed k = true) → s.runs (.chainReset k) (fun d' =>
      (d'.capOf k).valid = 0 ∧ (d'.capOf k).discard = settleLen (d.capOf k).dc ∧ d'.capState k = d.capState k)) ∧
    ((d.capState k = 0 ∨ d.capState k = 3) → d.borrowed k = false → s.runs (.calibrationBorrow k none) (fun d' =>
      d'.borrowed k = true ∧ d'.capState k = d.capState k ∧ (d'.capOf k).selNow = if (d.calOf k).borrows = 1 then 16 else 17)) ∧
    (∀ v : Int, d.borrowed k = true → (d.capOf k).bor.bind (fun b => b.check) = none → s.runs (.calibrationBorrow k (some v)) (fun d' =>
      d'.borrowed k = false ∧ (d'.calOf k).borrows = (d.calOf k).borrows - 1 ∧ (d'.capOf k).selNow = (d.capOf k).sel ∧
      ((d.calOf k).borrows = 2 → (d'.calOf k).mdMeas = some (v, (d.mdTrims k).2)) ∧
      ((d.calOf k).borrows = 1 → (d'.calOf k).mdMeas = some ((d.mdTrims k).1, v))))

/-- A sample of an armed capture, the output of its chain for the raw samples taken, goes to the ring's place and to no other byte of the on-chip
buffer for target 0; for target 1 it enters the FIFO, which gives whole bursts of 512 bytes to the DRAM ring and nothing while the port is busy
or DRAM serves nothing there; a full FIFO restarts an armed capture's ring and sets OVF (R250 to R253, R256, R259, R260). -/
def Obligations.CapturesStoreSamples : Prop :=
  ∀ (s : State) (k : Fin 6) (raw : List Int) (busy : Bool),
    let d := s.dev
    let c := d.capOf k
    let last := c.nextLbl / d.kM + 33 * c.dc + 1
    let chain := ((List.range (last + 1 - c.rawN)).map (fun i => raw.getD i 0)).foldl Dev.takeRaw c
    let bytes := Dev.sampleBytes c.fmt (max (-8388608) (min 8388607 (Dev.chainOut chain)))
    d.timeValid = true → c.en = true → last * d.kM ≤ d.nowT → c.discard = 0 → d.borrowed k = false →
    d.capState k = 1 → c.armAt ≤ c.nextLbl → c.trigT = none →
    let stores (post : Dev → Prop) : Prop := s.runs (.digitiserSample k raw busy) (fun d' =>
      (d'.capOf k).valid = c.valid + 1 ∧ (d'.capOf k).lastLbl = c.nextLbl ∧ (d'.capOf k).wr = (c.wr + 1) % max 1 c.capacity ∧
      (d'.capOf k).nextLbl = c.nextLbl + 2 * c.dc * d.kM ∧ post d')
    let waits : Prop := busy = true ∨ d.dramShut = true ∨ d.stallsAt (c.base + c.fifoAt) 512 = true
    (c.target = 0 → stores (fun d' => SMap.bytes 0 d'.capBuf (k * 2^20 + c.wr * c.width) bytes.length = bytes ∧ d'.dram = d.dram ∧
      ∀ a, a < k * 2^20 + c.wr * c.width ∨ k * 2^20 + c.wr * c.width + bytes.length ≤ a → SMap.get 0 d'.capBuf a = SMap.get 0 d.capBuf a)) ∧
    (c.target = 1 → c.fifo.length + bytes.length < 512 ∨ waits → c.fifo.length + c.width ≤ 65536 →
      stores (fun d' => d'.capBuf = d.capBuf ∧ d'.dram = d.dram ∧ (d'.capOf k).fifo = c.fifo ++ bytes)) ∧
    (c.target = 1 → waits → 65536 < c.fifo.length + c.width → s.runs (.digitiserSample k raw busy) (fun d' =>
      d'.bit (Reg.cap_EVENTS k) 4 = true ∧ d'.capState k = 1 ∧ (d'.capOf k).valid = 0 ∧ (d'.capOf k).wr = 0 ∧ (d'.capOf k).fifo = [])) ∧
    (c.target = 1 → c.fifo.length + bytes.length = 512 → ¬ waits → d.badPart (c.base + c.fifoAt) 512 = none →
      stores (fun d' => d'.capBuf = d.capBuf ∧ d'.dramRead (c.base + c.fifoAt) 512 = c.fifo ++ bytes ∧ (d'.capOf k).fifo = [] ∧
        ∀ a, a < c.base + c.fifoAt ∨ c.base + c.fifoAt + 512 ≤ a → d'.dramByte a = d.dramByte a))
/-! ## The Immor link and the mailboxes (chapters 2 and 8) -/

/-- Ports: lanes that lock bring an enabled port up with both directions at SEQ 0; its loss takes it down and opens a ring; TOPO numbers a
device; a frame in error is answered with a NAK that names the missing SEQ, and a NAK brings the kept frames again from the one it names; a
frame of an unknown type is counted. Lanes that stop short of a port that is up show how far they came, and a frame whose CRC does not hold has
no effect but its NAK (R42 to R45, R48, R49). -/
def Obligations.LinkPortsKeepOrder : Prop :=
  ∀ (s : State) (p : Fin 2),
    let d := s.dev
    (d.linkOn = true → d.bit Reg.link_CFG p = true →
      (s.runs (.portUp p ⟨true, true, true⟩) (fun d' => d'.portUp p = true ∧ (d'.portOf p).txSeq = 0 ∧ (d'.portOf p).rxSeq = 0xFFFF ∧ (d'.portOf p).kept = [])) ∧
      (∀ locked deskewed numbered : Bool, ¬ (locked = true ∧ deskewed = true ∧ numbered = true) → s.runs (.portUp p ⟨locked, deskewed, numbered⟩) (fun d' =>
        d' = d.wrN (Reg.port_STATE p) ((if locked = true then 1 else 0) + (if locked = true ∧ deskewed = true then 2 else 0))))) ∧
    (d.portUp p = true → s.runs (.portDown p) (fun d' => d'.portUp p = false ∧ d'.bit Reg.link_EVENTS 0 = true ∧ d'.ringUp = false)) ∧
    (d.portUp p = true → s.runs (.crcError p) (fun d' =>
      d'.rdN (Reg.port_CRC_ERR p) = min (2^32 - 1) (d.rdN (Reg.port_CRC_ERR p) + 1) ∧ (d'.portOf p).rxSeq = (d.portOf p).rxSeq ∧
      d.queues d' p (fun f => f.typ = 0x20#8 ∧ f.w4.toNat = ((d.portOf p).rxSeq + 1) % 2^16))) ∧
    (∀ f (t1 t4 : Nat), d.portUp p = true → frameIntact f = false →
      ∀ i ∈ [Instr.topo p f, .timeSyncReceive p f, .eventFrame p f, .resultFrame p f, .nak p f, .echoReq p f, .echoRsp p f t1 t4, .badType p f],
        s.runs i (fun d' => d'.rdN (Reg.port_CRC_ERR p) = min (2^32 - 1) (d.rdN (Reg.port_CRC_ERR p) + 1) ∧ d'.mailbox = d.mailbox ∧ d'.ec = d.ec ∧
          d.queues d' p (fun f => f.typ = 0x20#8 ∧ f.w4.toNat = ((d.portOf p).rxSeq + 1) % 2^16))) ∧
    (∀ f, d.inOrder p f →
      (¬ [0x00#8, 0x01#8, 0x02#8, 0x03#8, 0x10#8, 0x11#8, 0x20#8, 0x30#8].contains f.typ → s.runs (.badType p f) (fun d' =>
        d'.rdN (Reg.port_BAD_TYPE p) = min (2^32 - 1) (d.rdN (Reg.port_BAD_TYPE p) + 1) ∧ (d'.portOf p).rxSeq = f.seq.toNat ∧
        (d'.portOf p).txq = (d.portOf p).txq)) ∧
      (f.w4.toNat % 2^16 ≠ (d.portOf p).txSeq → (∃ k ∈ (d.portOf p).kept, k.1 = f.w4.toNat % 2^16) → s.runs (.nak p f) (fun d' =>
        ∃ i is, (d'.portOf p).txq = i :: is ++ (d.portOf p).txq.filter (fun i => i.seq.isNone) ∧ i.seq = some (f.w4.toNat % 2^16) ∧
          (∀ j ∈ i :: is, ∃ k ∈ (d.portOf p).kept, j.seq = some k.1 ∧ j.frame = k.2) ∧ (d'.portOf p).rxSeq = f.seq.toNat)) ∧
      (f.w4.toNat % 2^16 ≠ (d.portOf p).txSeq → (∀ k ∈ (d.portOf p).kept, k.1 ≠ f.w4.toNat % 2^16) → s.runs (.nak p f) (fun d' =>
        d'.portUp p = false ∧ d'.bit Reg.link_EVENTS 6 = true ∧ (d'.portOf p).txSeq = 0 ∧ (d'.portOf p).kept = [] ∧
        (d'.portOf p).txq.map (fun i => i.frame) = (d.portOf p).kept.reverse.map (fun k => k.2) ++
          ((d.portOf p).txq.filter (fun i => i.seq.isNone)).map (fun i => i.frame))) ∧
      (p = 0 → d.isMaster = false → bitsOf f.w4.toNat 8 1 = 0 → bitsOf f.w4.toNat 4 4 < 15 → s.runs (.topo p f) (fun d' =>
        d'.devNum = bitsOf f.w4.toNat 0 4 ∧ d'.devCount = bitsOf f.w4.toNat 4 4 + 2)) ∧
      (p = 1 → s.runs (.topo p f) (fun d' => d'.devCount = bitsOf f.w4.toNat 4 4 + 1 ∧ d'.ringUp = false)))

/-- Delays and time on the link: ECHO_REQ is sent at its ticks and answered, the answer gives the delay, the master sends TIME_SYNC, and an
armed follower takes the time of a SET frame of another EPOCH (R50 to R53). -/
def Obligations.LinkMeasuresAndSetsTime : Prop :=
  ∀ (s : State) (p : Fin 2),
    let d := s.dev
    (d.portUp p = true → d.timeValid = true → d.time.now / 16 % 2^20 = 0 → d.time.now < 2^64 → s.runs (.echo p) (fun d' =>
      d.queues d' p (fun f => f.typ = 0x02#8 ∧ f.stamp.toNat = d.time.now))) ∧
    (∀ f, d.inOrder p f → s.runs (.echoReq p f) (fun d' => (d'.portOf p).rxSeq = f.seq.toNat ∧
      d.queues d' p (fun g => g.typ = 0x03#8 ∧ g.stamp = BitVec.ofNat 64 (d.time16 / 16)))) ∧
    (∀ f (t1 t4 : Nat), d.inOrder p f → s.runs (.echoRsp p f t1 t4) (fun d' =>
      let t2 : Int := (f.w4.toNat + 2^32 * f.w5.toNat) * 16 + bitsOf f.w6.toNat 4 4
      let t3 : Int := f.stamp.toNat * 16 + bitsOf f.w6.toNat 0 4
      (d'.rdN (Reg.port_DELAY p) : Int) = ((((t4 : Int) - t1) - (t3 - t2)) / 2) % 2^32 ∧ (d'.portOf p).rxSeq = f.seq.toNat)) ∧
    (∀ set, d.isMaster = true → d.linkOn = true → d.bit Reg.link_STATUS 8 = true → d.timeValid = true → d.portUp p = true → 0 < d.bcastLimit p →
      (if set then d.time.setFrame = true else d.time.now / 16 % 2^16 = 0) →
      s.runs (.timeSync set) (fun d' => (set = true → d'.time.setFrame = false) ∧
        d.queues d' p (fun f => f.typ = 0x01#8 ∧ f.bcast = true ∧ f.w4 = d.rd Reg.time_RATIO_LO ∧ f.w5 = d.rd Reg.time_RATIO_HI ∧
          f.stamp = BitVec.ofNat 64 d.time.now))) ∧
    (∀ f, d.inOrder p f → f.w4.toNat + 2^32 * f.w5.toNat = d.rd64 Reg.time_RATIO_LO →
      let m : Int := f.stamp.toNat * 16 + bitsOf f.w6.toNat 0 4 + ((d.rdN (Reg.port_DELAY p) : Int) + (d.rd (Reg.port_ASYM p)).toInt)
      (bitsOf f.w6.toNat 8 8 = d.epoch → d.timeValid = true → 16 < (m - d.time16).natAbs → s.runs (.timeSyncReceive p f) (fun d' =>
        d'.bit Reg.link_EVENTS 5 = true ∧ d'.time = d.time)) ∧
      (bitsOf f.w6.toNat 8 8 ≠ d.epoch → bitsOf f.w6.toNat 16 1 = 1 → d.time.linkSet = none → d.bit Reg.time_STATUS 4 = true → d.time.mode = 3 →
        d.fld Reg.time_SET_CTL 0 2 = 3 → d.isMaster = false → s.runs (.timeSyncReceive p f) (fun d' =>
          d'.time.linkSet = some (m.toNat, d.time.acc, bitsOf f.w6.toNat 8 8))))

/-- Events and results over the link: an EVENT frame for this device fires its endpoint's source with the frame's stamp and generation, or is
counted; a RESULT frame writes its word where MB_LINK allows the block, or is counted; a firing at a link-transmit input leaves as an EVENT
frame one generation higher, on each of its ports whose queue has room, and one of generation 7 does not leave (R44, R46, R228, R231 to R233). -/
def Obligations.LinkCarriesEvents : Prop :=
  ∀ (s : State) (p : Fin 2) (f : LinkFrame),
    let d := s.dev
    let x := d.rdN (Reg.ep_EP (bitsOf f.w4.toNat 0 12))
    let i := bitsOf f.w4.toNat 0 12
    (d.inOrder p f → d.carries p = true → (f.bcast = true ∨ f.dstDev.val = d.devNum) →
      (bitsOf x 4 1 = 1 → bitsOf x 6 1 = 1 → s.runs (.eventFrame p f) (fun d' =>
        d.fired d' (986 + bitsOf x 0 4) f.stamp.toNat ∧ d'.rdN Reg.evt_POST_CNT = min (2^32 - 1) (d.rdN Reg.evt_POST_CNT + 1))) ∧
      ((bitsOf x 4 1 = 0 ∨ bitsOf x 6 1 = 0) → s.runs (.eventFrame p f) (fun d' =>
        d'.ec = d.ec ∧ d'.rdN Reg.evt_BAD_EP_CNT = min (2^32 - 1) (d.rdN Reg.evt_BAD_EP_CNT + 1))) ∧
      (bitsOf (d.rd64 Reg.evt_MB_LINK_LO) (i / 64) 1 = 1 → s.runs (.resultFrame p f) (fun d' =>
        ∀ j, SMap.get 0 d'.mailbox j = if j = i then f.w5 else SMap.get 0 d.mailbox j)) ∧
      (bitsOf (d.rd64 Reg.evt_MB_LINK_LO) (i / 64) 1 = 0 → s.runs (.resultFrame p f) (fun d' =>
        d'.mailbox = d.mailbox ∧ d'.rdN Reg.evt_LINK_REJECT_CNT = min (2^32 - 1) (d.rdN Reg.evt_LINK_REJECT_CNT + 1)))) ∧
    (∀ (k : Fin 12) (h : Held) (r : List Held),
      let cfg := (d.eff (Reg.lt_CFG k)).toNat
      (d.tinOf (500 + k)).inbox = h :: r →
      (h.fire.gen < 7 → bitsOf cfg 16 1 = 0 → d.route (bitsOf cfg 12 4) = some p.val → d.carries p = true → (d.portOf p).txq.length < 256 → d.dsafe = false →
        d.tinBad (500 + k) = false → d.corrupt (Reg.lt_CFG k) 16 = false → s.runs (.linkTransmit k) (fun d' =>
          (d'.tinOf (500 + k)).inbox = r ∧ d'.rdN (Reg.lt_SENT k) = min (2^32 - 1) (d.rdN (Reg.lt_SENT k) + 1) ∧
          d.queues d' p (fun g => g.typ = 0x10#8 ∧ g.gen.val = h.fire.gen + 1 ∧ g.stamp = BitVec.ofNat 64 h.fire.stamp ∧ g.dstDev.val = bitsOf cfg 12 4))) ∧
      (h.fire.gen < 7 → d.ltDead k = false → p.val ∈ d.ltPorts k →
        ((d.portOf p).txq.length < 256 → s.runs (.linkTransmit k) (fun d' => (d'.tinOf (500 + k)).inbox = r ∧
          d.queues d' p (fun g => g.typ = 0x10#8 ∧ g.gen.val = h.fire.gen + 1 ∧ g.bcast = (bitsOf cfg 16 1 == 1)))) ∧
        (256 ≤ (d.portOf p).txq.length → s.runs (.linkTransmit k) (fun d' => (d'.tinOf (500 + k)).inbox = r ∧ (d'.portOf p).txq = (d.portOf p).txq ∧
          d'.rdN (Reg.port_TX_DROP p) = min (2^32 - 1) (d.rdN (Reg.port_TX_DROP p) + 1) ∧ d'.bit (Reg.tin_EVENTS (500 + k)) 1 = true))) ∧
      (7 ≤ h.fire.gen → s.runs (.linkTransmit k) (fun d' => d'.ports = d.ports ∧ d'.bit (Reg.tin_EVENTS (500 + k)) 4 = true ∧ (d'.tinOf (500 + k)).inbox = r)))

/-- Posts from a host: words of the result mailbox land within the function's blocks and nowhere else; a post to a valid endpoint fires its
source, stamped now or with the stamp it carries; a doorbell bit fires its source (R230, R231, R233, R234). -/
def Obligations.HostPostsFireAndLand : Prop :=
  ∀ (s : State) (fn : Fn),
    let d := s.dev
    (∀ (off : BitVec 14) (data : List Byte) (k : Nat), d.barAwake = true → off.toNat % 4 = 0 → data.length = 4 * k → off.toNat + 4 * k ≤ 2^14 →
      s.runs (.mailboxWrite fn off data) (fun d' => ∀ j,
        SMap.get 0 d'.mailbox j = if off.toNat / 4 ≤ j ∧ j < off.toNat / 4 + k ∧ (fn.val = 0 ∨ d.mbOwner (j / 64) = some (fn.val - 1))
          then BitVec.ofNat 32 (leNat ((data.drop (4 * j - off.toNat)).take 4)) else SMap.get 0 d.mailbox j)) ∧
    (∀ (e : Fin 4096) (off : BitVec 14) (data : List Byte),
      let x := d.rdN (Reg.ep_EP e)
      d.barAwake = true → off.toNat = 4 * e → data.length = 4 → bitsOf x 4 1 = 1 → bitsOf x 5 1 = 1 →
      Dev.sees fn (Dev.ownerField (bitsOf x 8 4) (bitsOf x 12 1 == 1)) = true →
      s.runs (.unstampedPost fn off data) (fun d' => d.fired d' (986 + bitsOf x 0 4) d.nowT ∧
        d'.rdN (Dev.fnKey fn Reg.evt_POST_CNT) = min (2^32 - 1) (d.rdN (Dev.fnKey fn Reg.evt_POST_CNT) + 1))) ∧
    (∀ (e : Fin 4096) (off : BitVec 16) (data : List Byte),
      let x := d.rdN (Reg.ep_EP e)
      d.barAwake = true → off.toNat = 16 * e → data.length = 16 → bitsOf x 4 1 = 1 → bitsOf x 5 1 = 1 → bitsOf x 7 1 = 1 →
      Dev.sees fn (Dev.ownerField (bitsOf x 8 4) (bitsOf x 12 1 == 1)) = true →
      s.runs (.stampedPost fn off data) (fun d' => d.fired d' (986 + bitsOf x 0 4) (min (leNat (data.take 8)) d.nowT))) ∧
    (∀ v : Word, d.answers fn Reg.evt_DOORBELL (Dev.fnOwner fn) → s.runs (.doorbell fn v) (fun d' =>
      ∀ k < 16, v.getLsbD k = true → Dev.sees fn (d.srcOwner (1002 + k)) = true → d.fired d' (1002 + k) d.nowT))

/-! ## Self-calibration (chapter 12) -/

/-- Temperature and trims: an update shows θ, the mean of the last ten readings plus TS_OFS, and one further than THRESH from θ of the last run fires
TILE_TEMP; a step moves every working value that no measurement replaced towards its target by at most STEP, and none of a frozen tile or while the
SPLL has lost its lock; a set that came meanwhile then applies whole. That the mean is rounded to the nearest and taken over the readings there are is the
model's choice: log entry 85 (R341 to R345, R348, R441). -/
def Obligations.TrimsFollowTheTemperature : Prop :=
  ∀ (s : State) (t : Fin 6),
    let d := s.dev
    (∀ new : List Int, new ≠ [] →
      let rs := (new ++ (d.calOf t).readings).take 10
      let theta := rhe (rs.foldl (· + ·) 0) rs.length + setTsOfs (d.calOf t).set
      let moved := (theta - sext 16 (d.fld (Reg.calTile_TEMP t) 16 16)).natAbs
      s.runs (.temperatureUpdate t new) (fun d' => d'.fld (Reg.calTile_TEMP t) 0 16 = toBits 16 theta ∧ (d'.calOf t).readings = rs ∧
        (d.fld (Reg.calTile_CFG t) 0 9 < moved → d.fired d' (964 + t) d.nowT) ∧ (moved ≤ d.fld (Reg.calTile_CFG t) 0 9 → d'.ec = d.ec ∧ d'.chan = d.chan))) ∧
    (let late := (d.calOf t).loaded = false ∧ (d.calOf t).set ≠ [] ∧ d.trimsWait = false
     (¬ late → d.calFrozen t = true ∨ d.trimsWait = true → s.runs (.trimStep t) (fun d' => d'.chan = d.chan)) ∧
     (¬ late → d.calFrozen t = false → d.trimsWait = false → s.runs (.trimStep t) (fun d' => ∀ n < 96,
       (n / 16 = t.val → ∀ j < 74, d.isMeasured n j = false →
         let step := (d.fld (Reg.calTile_CFG t) 16 8 : Int)
         d'.workOf n j = d.workOf n j + max (-step) (min step (d.trimTarget n j - d.workOf n j))) ∧
       (n / 16 ≠ t.val → d'.chanOf n = d.chanOf n))) ∧
     (late → s.runs (.trimStep t) (fun d' => (d'.calOf t).loaded = true ∧ ∀ n < 96, (n / 16 = t.val → ∀ j < 74, d.isMeasured n j = false →
       d'.workOf n j = d.trimTarget n j) ∧ (n / 16 ≠ t.val → d'.chanOf n = d.chanOf n))))

/-- Runs: RUN starts a run, or leaves it pending while one is in progress or the tile is frozen; a run whose parts are complete ends, with
RUN_DONE; FREEZE takes a valid configuration and refuses a STEP of 0 and a THRESH outside 8 to 320, and a frozen tile's pending run starts
as FREEZE clears (R344, R348, R349, R352). -/
def Obligations.CalibrationRunsGoOn : Prop :=
  ∀ (s : State) (t : Fin 6),
    let d := s.dev
    let st := Reg.calTile_STATUS t
    (d.answers 0 (Reg.calTile_CTL t) none →
      (d.bit st 2 = true ∨ d.calFrozen t = true → s.runs (.run t) (fun d' => d'.bit st 3 = true ∧ d'.bit st 2 = d.bit st 2 ∧ d'.chan = d.chan)) ∧
      (d.bit st 2 = false → d.calFrozen t = false → s.runs (.run t) (fun d' =>
        d'.bit st 2 = true ∧ d'.bit st 3 = false ∧ (d'.calOf t).borrows = 2 ∧ d'.fld (Reg.calTile_TEMP t) 16 16 = d.fld (Reg.calTile_TEMP t) 0 16 ∧
        ∀ n < 96, n / 16 = t.val → (d'.chanOf n).passLeft = if d.rotates n then 64 else 0))) ∧
    (d.bit st 2 = true → (d.calOf t).borrows = 0 → (∀ n < 96, n / 16 = t.val → d.rotates n = true → (d.chanOf n).passLeft = 0) →
      s.runs (.runDone t () ()) (fun d' => d'.bit (Reg.calTile_EVENTS t) 0 = true ∧
        d'.rdN (Reg.calTile_RUN_CNT t) = min (2^32 - 1) (d.rdN (Reg.calTile_RUN_CNT t) + 1) ∧ d'.bit st 2 = (d.bit st 3 && !d.calFrozen t))) ∧
    (∀ v : Word, d.answers 0 (Reg.calTile_CFG t) none → d.parity = [] →
      let th := v.toNat % 2^9
      (bitsOf v.toNat 16 8 ≠ 0 → 8 ≤ th → th ≤ 320 → s.runs (.freeze t v) (fun d' =>
        d'.rd (Reg.calTile_CFG t) = v &&& 0x07FF01FF#32 ∧ (d.bit st 3 = true → d.bit st 2 = false → v.getLsbD 25 = false → d'.bit st 2 = true))) ∧
      ((bitsOf v.toNat 16 8 = 0 ∨ th < 8 ∨ 320 < th) → s.runs (.freeze t v) (fun d' =>
        d'.rd (Reg.calTile_CFG t) = d.rd (Reg.calTile_CFG t) ∧ d'.bit Reg.glob_ACC_EVENTS 2 = true)))

/-- Rotation and checks: once in a period, a measured spare takes the place of the next source, which becomes the spare (that the first swap is
due at once is the model's choice: log entry 73); a measurement sets the spare's trim, at the limit where it
lies outside 2 LSB, which marks the first such source bad; a check skips a channel that the set does not fit, borrows the digitiser for the one that comes
next, and ends with the residual of its 16 samples, rounded to the nearest, against CHK_LIMIT, and one whose code changed is counted and discarded (that the
turn passes over channels that cannot be checked is the model's choice: log entry 85) (R190, R345 to R347, R350). -/
def Obligations.SourcesRotateAndAreChecked : Prop :=
  ∀ (s : State) (ch : Fin 96),
    let d := s.dev
    let sp := d.fld (Reg.chn_DAC_STATUS ch) 0 6
    (d.rotates ch = true → (d.chanOf ch).measured = true → d.swapDue ch = true → s.runs (.rotationSwap ch) (fun d' =>
      d'.fld (Reg.chn_DAC_STATUS ch) 0 6 = (sp + 1) % 64 ∧ (d'.chanOf ch).measured = false ∧ (d'.chanOf ch).swapAt = some d.nowT ∧
      (d'.chanOf ch).map = (d.chanOf ch).map.map (fun p => if p = (sp + 1) % 64 then sp else p) ∧
      d'.rdN (Reg.tile_ROT_CNT (ch.val / 16)) = min (2^32 - 1) (d.rdN (Reg.tile_ROT_CNT (ch.val / 16)) + 1))) ∧
    ((d.rotates ch = false ∨ (d.chanOf ch).measured = false ∨ ∃ t, (d.chanOf ch).swapAt = some t ∧ d.nowT < t + d.swapPeriod ch) →
      s.runs (.rotationSwap ch) (fun d' => d' = d)) ∧
    (∀ trim : Int, d.chMode ch ≠ 0 → d.timeValid = true →
      let kept := max (-128) (min 128 trim)
      s.runs (.spareMeasurement ch trim) (fun d' => SMap.get none (d'.chanOf ch).meas sp = some kept ∧ d'.workOf ch sp = 16 * kept ∧
        (d'.chanOf ch).measured = true ∧ (kept = trim → (d'.chanOf ch).bad = (d.chanOf ch).bad) ∧
        (kept ≠ trim → (d'.chanOf ch).bad = some ((d.chanOf ch).bad.getD sp) ∧ d'.bit (Reg.calTile_EVENTS (ch.val / 16)) 3 = true))) ∧
    (∀ constant : Bool,
      let t := ch.val / 16
      let k := ch.val % 16
      let set := (d.calOf t).set
      let st := Reg.calCh_CHK_STATUS ch
      let g := interpolate set (d.theta t) (chkG set k)
      let o := interpolate set (d.theta t) (chkO set k)
      let mode := if d.bit (Reg.chn_CFG ch) 11 then 1 else 0
      (d.bit (Reg.calTile_CFG t) 26 = true →
        ((setPoints set = 0 ∨ g ≤ 0 ∨ chkMode set k 0 % 2 ≠ mode ∨ chkFs set k 0 ≠ d.fld (Reg.chn_OUT_CFG ch) (8 * mode) 8 ∨ d.chMode ch = 0) →
          s.runs (.check ch true constant) (fun d' => d' = d.setBit st 2 true)) ∧
        (d.nextCheck s.guard t = some ch.val → d.borrowed t = false → d.capState t ≠ 1 → d.capState t ≠ 2 → s.runs (.check ch true constant) (fun d' =>
          d'.borrowed t = true ∧ d'.capState t = d.capState t ∧ (d'.capOf t).discard = settleLen 128 ∧
          (d'.capOf t).bor = some { sel := k, check := some (ch.val, d.dacCode s.guard ch) }))) ∧
      (∀ (b : Borrow) (code : Int), (d.capOf t).bor = some b → b.check = some (ch.val, code) → 16 ≤ b.got →
        (constant = false ∨ d.still s.guard ch = false ∨ d.dacCode s.guard ch ≠ code → s.runs (.check ch false constant) (fun d' => d'.rd st = d.rd st ∧
          d'.rdN (Reg.calTile_CHK_ABORT_CNT t) = min (2^32 - 1) (d.rdN (Reg.calTile_CHK_ABORT_CNT t) + 1) ∧ d'.borrowed t = false)) ∧
        (0 < g → constant = true → d.still s.guard ch = true → d.dacCode s.guard ch = code → s.runs (.check ch false constant) (fun d' => ∃ r : Int,
          2 * (r * (1000 * g) - 16 * (2 * 76294 * b.sum - 1000 * (g * code + 2048 * o))).natAbs ≤ 1000 * g.toNat ∧
          d'.rdN (Reg.calCh_CHK_RES ch) = toBits 16 (max (-32768) (min 32767 r)) ∧ d'.bit st 0 = true ∧ d'.bit st 2 = false ∧
          (d'.bit st 1 = true ↔ d.fld (Reg.calTile_CHK_LIMIT t) 0 12 < r.natAbs) ∧ d'.borrowed t = false))))

/-! ## Clocks, power and resets (chapter 13) -/

/-- A write of APPLY_CTL with GO checks the shadow set in the order of R362, arms it where every check passes, and gives the number of the
first check that failed otherwise; GO with CANCEL withdraws a pending APPLY; a reference swap is armed the same way; in the device safe state every
GO ends with RESULT 2 (R361, R362, R368, R437). -/
def Obligations.ApplyChecksAndArms : Prop :=
  ∀ (s : State) (v : Word), s.dev.answers 0 Reg.clk_APPLY_CTL none →
    let d := s.dev
    let n := d.shadowSet
    let a := d.activeSet
    let running := ∃ k < 96, d.isClaimed k = true ∨ d.chMode k = 2
    let changes := n.dref ≠ a.dref ∨ n.m * a.p ≠ a.m * n.p
    let meas := d.rdN Reg.clk_REF_MEAS
    let wrongRef := meas = 0 ∨ (d.clk.fref ≠ 0 ∧ 2 * (n.dref * d.clk.fref) < 100 * (max (n.dref * d.clk.fref) (meas * a.dref) - min (n.dref * d.clk.fref) (meas * a.dref)))
    let armed := d.bit Reg.time_STATUS 4
    let fails (i : Instr) (k : Nat) : Prop := s.runs i (fun d' => d'.fld Reg.clk_APPLY_CTL 8 8 = k ∧ d'.bit Reg.clk_STATUS 8 = d.bit Reg.clk_STATUS 8 ∧
      d'.bit Reg.clk_EVENTS 5 = true ∧ d'.clk = d.clk)
    (d.dsafe = true → fails (.applyCancel v) 2 ∧ fails (.refSwap v) 2 ∧ (v.getLsbD 0 = true → fails (.apply v) 2)) ∧
    (d.dsafe = false → s.runs (.applyCancel v) (fun d' => d'.bit Reg.clk_STATUS 8 = false ∧ d'.clk = d.clk)) ∧
    (v.getLsbD 0 = true → v.getLsbD 1 = false → v.getLsbD 2 = false → d.corrupt Reg.clk_SPLL_SH 16 = false →
      (n.ok d.fref = false → d.dsafe = false → fails (.apply v) 1) ∧
      (n.ok d.fref = true → changes → running → fails (.apply v) 2) ∧
      (n.ok d.fref = true → ¬ (changes ∧ running) → d.dsafe = false →
        (wrongRef → fails (.apply v) 3) ∧
        (¬ wrongRef → armed = true → fails (.apply v) 4) ∧
        (¬ wrongRef → armed = false → n ≠ a → s.runs (.apply v) (fun d' =>
          d'.bit Reg.clk_STATUS 8 = true ∧ d'.fld Reg.clk_APPLY_CTL 8 8 = 0 ∧ d'.clk = { d.clk with swap := false } ∧ d'.time = d.time)))) ∧
    (v.getLsbD 2 = false → d.corrupt Reg.clk_SPLL_SH 16 = false → n.ok 0 = true → ¬ running → d.dsafe = false → armed = false →
      s.runs (.refSwap v) (fun d' => d'.bit Reg.clk_STATUS 8 = true ∧ d'.clk = { d.clk with swap := true } ∧ d'.time = d.time))

/-- At its edge a pending set runs: device time is COARSE, ρ is that of the set, every channel that is not OFF is held, and the SPLL acquires,
or stops for a reference swap; a lost reference stops device time; a swap ends with a reference that agrees with the new set, goes on without one, and
after 10 ms loses the reference. That a reference agrees within 2 % of one that the set allows is the model's reading: log entry 50 (R36, R37, R361,
R368). -/
def Obligations.ClockSetsAndReferencesChange : Prop :=
  ∀ (s : State),
    let d := s.dev
    (d.bit Reg.clk_STATUS 8 = true → d.time.refOk = true → d.rd64 Reg.clk_APPLY_AT_LO * 2^32 ≤ d.accEdge → s.runs .applyEdge (fun d' =>
      d'.bit Reg.clk_STATUS 8 = false ∧ d'.rd Reg.clk_SPLL_ACT = d.rd Reg.clk_SPLL_SH ∧ d'.rd Reg.clk_SPLL_ACT_FRAC = d.rd Reg.clk_SPLL_SH_FRAC ∧
      d'.timeState = 1 ∧ d'.timeValid = false ∧ d'.rd64 Reg.time_RATIO_LO = d.shadowSet.rho % 2^64 ∧ d'.bit Reg.clk_EVENTS 4 = true ∧
      (∀ n < 96, d.chMode n ≠ 0 → (d'.chanOf n).hold = true) ∧
      (d.clk.swap = true → d'.bit Reg.clk_STATUS 9 = true ∧ d'.spll = 0) ∧ (d.clk.swap = false → d'.spll = 1))) ∧
    (d.time.refOk = true → d.bit Reg.clk_STATUS 9 = false → s.runs .refLost (fun d' =>
      d'.time.refOk = false ∧ d'.timeState = 0 ∧ d'.timeValid = false ∧ d'.bit Reg.time_STATUS 1 = false ∧ d'.rdN Reg.clk_REF_MEAS = 0 ∧
      d'.bit Reg.clk_STATUS 7 = false ∧ d'.bit Reg.time_EVENTS 4 = true ∧ (d.spll = 2 → d'.spll = 1 ∧ d'.bit Reg.clk_STATUS 0 = false))) ∧
    (d.bit Reg.clk_STATUS 9 = true →
      let agrees := d.time.refOk = true ∧ d.activeSet.near (d.rdN Reg.clk_REF_MEAS) = true
      (agrees → ∀ b, s.runs (.refSwapDone b) (fun d' => d'.bit Reg.clk_STATUS 9 = false ∧ d'.bit Reg.time_STATUS 1 = false ∧ d'.spll = 1 ∧
        d'.clk.fref = d.rdN Reg.clk_REF_MEAS ∧ d'.bit Reg.clk_EVENTS 9 = true)) ∧
      (¬ agrees → s.runs (.refSwapDone false) (fun d' => d' = d)) ∧
      (¬ agrees → s.runs (.refSwapDone true) (fun d' => d'.bit Reg.clk_STATUS 9 = false ∧ d'.time.refOk = false ∧ d'.timeState = 0)))

/-- Lock: three windows in a row within 2 of the expected count declare lock; a locked PLL loses it by more than 8, and 3 to 8 warn; cycles
missing from the reference take the lock, and the accumulator adds nothing for them; an attempt that does not lock in time starts again and the
third stops the PLL; in holdover the DMCs are put in self-refresh for PCIE_REFCLK, and they return with the XPLL (R359, R360, R365, R366, R470). -/
def Obligations.PllsLockAndLose : Prop :=
  ∀ (s : State) (count : Nat),
    let d := s.dev
    let a := d.activeSet
    let e := d.fref / (100 * a.dref) * a.m / 4
    let off := (max (count * 2^32) e - min (count * 2^32) e)
    let xoff := max count 25000 - min count 25000
    let one := 2^32
    (d.time.refOk = true → d.spll = 1 →
      (off ≤ 2 * one → d.clk.sGood < 2 → s.runs (.lockWindow false ⟨count, 0, none⟩) (fun d' => d'.spll = 1 ∧ d'.clk = { d.clk with sGood := d.clk.sGood + 1 })) ∧
      (off ≤ 2 * one → 2 ≤ d.clk.sGood → s.runs (.lockWindow false ⟨count, 0, none⟩) (fun d' => d'.spll = 2 ∧ d'.bit Reg.clk_STATUS 0 = true ∧ d'.bit Reg.clk_EVENTS 1 = true)) ∧
      (2 * one < off → s.runs (.lockWindow false ⟨count, 0, none⟩) (fun d' => d'.spll = 1 ∧ d'.clk = { d.clk with sGood := 0 }))) ∧
    (d.time.refOk = true → d.spll = 2 →
      (8 * one < off → s.runs (.lockWindow false ⟨count, 0, none⟩) (fun d' => d'.spll = 1 ∧ d'.bit Reg.clk_STATUS 0 = false ∧ d'.timeState = 1 ∧
        ∀ n < 96, d.chMode n ≠ 0 → (d'.chanOf n).hold = true)) ∧
      (3 * one ≤ off → off ≤ 8 * one → s.runs (.lockWindow false ⟨count, 0, none⟩) (fun d' => d'.spll = 2 ∧ d'.bit Reg.clk_EVENTS 6 = true ∧ d'.time = d.time ∧
        d'.rdN Reg.clk_LOCK_WARN_CNT = min (2^32 - 1) (d.rdN Reg.clk_LOCK_WARN_CNT + 1)))) ∧
    (∀ missed, 0 < missed → d.time.refOk = true → (d.spll = 1 ∨ d.spll = 2) →
      (2000 * missed * a.dref < d.fref → s.runs (.lockWindow false ⟨count, missed, none⟩) (fun d' => d'.spll = 1 ∧ d'.clk.sGood = 0 ∧
        d'.time.acc = d.time.acc - missed * d.rho ∧ d'.time.refN = d.time.refN - missed ∧ (d.spll = 2 → d'.timeState = 1 ∧ d'.bit Reg.clk_STATUS 0 = false))) ∧
      (d.fref ≤ 2000 * missed * a.dref → s.runs (.lockWindow false ⟨count, missed, none⟩) (fun d' => d'.time.refOk = false ∧ d'.timeState = 0))) ∧
    (d.standby = false → d.clk.xFail = false →
      (d.bit Reg.clk_STATUS 4 = true → 8 < xoff → s.runs (.lockWindow true ⟨count, 0, none⟩) (fun d' =>
        d'.bit Reg.clk_STATUS 6 = true ∧ d'.bit Reg.clk_STATUS 4 = false ∧ d'.time = d.time ∧ ∀ n < 96, d.chMode n ≠ 0 → (d'.chanOf n).hold = true)) ∧
      (d.bit Reg.clk_STATUS 4 = false → xoff ≤ 2 → 2 ≤ d.clk.xGood → s.runs (.lockWindow true ⟨count, 0, none⟩) (fun d' =>
        d'.bit Reg.clk_STATUS 4 = true ∧ d'.bit Reg.clk_STATUS 6 = false ∧ d'.bit Reg.clk_EVENTS 3 = true))) ∧
    (d.spll = 1 → s.runs (.acquisitionTimeout false) (fun d' => d'.clk.sTries = d.clk.sTries + 1 ∧ d'.spll = if 2 ≤ d.clk.sTries then 3 else 1)) ∧
    (d.bit Reg.clk_STATUS 4 = false → d.clk.xFail = false → d.standby = false → s.runs (.acquisitionTimeout true) (fun d' =>
      d'.clk.xTries = d.clk.xTries + 1 ∧ (d'.clk.xFail = true ↔ 2 ≤ d.clk.xTries) ∧ (2 ≤ d.clk.xTries → d'.bit Reg.clk_STATUS 5 = true))) ∧
    (d.bit Reg.clk_STATUS 6 = true → d.bit Reg.clk_STATUS 5 = false → s.runs .xpllBypass (fun d' =>
      d'.bit Reg.clk_STATUS 5 = true ∧ ∀ m < 8, d'.inSr m = true ∧ d'.owed m = 0)) ∧
    (d.bit Reg.clk_STATUS 4 = true → d.bit Reg.clk_STATUS 5 = true → s.runs .xpllLock (fun d' =>
      d'.bit Reg.clk_STATUS 5 = false ∧ ∀ m < 8, d.bit (Reg.dram_CFG m) 0 = false → d'.inSr m = false))

/-- Power: STANDBY is entered only where nothing hinders it, and its wake sources end it; a tile's state is that of its channels; an unused bank
enters retention and wakes when it is accessed; the junction temperature raises its alarm and THERM_N (R67, R370 to R376). -/
def Obligations.PowerStatesChange : Prop :=
  ∀ (s : State),
    let d := s.dev
    let keep := bitsOf (d.pwrNow Reg.pwr_RET) 2 1 = 1
    (d.standby = false → d.bit Reg.pwr_CTL 0 = true →
      (d.mayStandby = true → s.runs .standby (fun d' => d'.standby = true ∧ d'.d3hot = true ∧ d'.timeValid = false ∧ d'.spll = 0 ∧
        ∀ n < 96, d'.scState n = if d.scState n = 0 then 0 else if keep then 1 else 0)) ∧
      (d.mayStandby = false → s.runs .standby (fun d' => d'.standby = false ∧ d'.d3hot = true ∧ d'.bit Reg.pwr_EVENTS 0 = true ∧ d'.time = d.time))) ∧
    (d.standby = true →
      (s.runs (.wake .d0) (fun d' => d'.standby = false ∧ d'.d3hot = false ∧ d'.rdN Reg.pwr_WAKE_CAUSE = 1)) ∧
      (∀ m : Fin 16, bitsOf (d.pwrNow Reg.pwr_WAKE) m 1 = 1 → s.runs (.wake (.triggerInput m)) (fun d' =>
        d'.standby = false ∧ d'.host.pme = true ∧ d'.rdN Reg.pwr_WAKE_CAUSE = 2 + 16 * m)) ∧
      (bitsOf (d.pwrNow Reg.pwr_WAKE) 16 1 = 1 → s.runs (.wake .management) (fun d' => d'.standby = false ∧ d'.rdN Reg.pwr_WAKE_CAUSE = 4))) ∧
    (s.runsG (.wake .powerOn) (fun g' d' => g' = {} ∧ d'.rdN Reg.sec_RESET_CAUSE = 1 ∧ d'.chan = [] ∧ d'.dram = [] ∧ d'.timeValid = false)) ∧
    (∀ t : Fin 6, s.runs (.tileState t) (fun d' =>
      (d'.bit Reg.pwr_STATUS (6 + t) = true ↔ (∃ n < 96, n / 16 = t.val ∧ (d.isClaimed n = true ∨ d.chMode n ≠ 0)) ∨ (d.capOf t).en = true ∨ d.borrowed t = true) ∧
      (d'.bit Reg.pwr_STATUS (12 + t) = true ↔ (∃ n < 96, n / 16 = t.val ∧ (d.isClaimed n = true ∨ d.chMode n = 2)) ∨ (d.capOf t).en = true ∨ d.borrowed t = true))) ∧
    (∀ e : Fin 64,
      (bitsOf (d.pwrNow Reg.pwr_RET) 0 1 = 1 → d.engCtx e = none → d.engBankOff e = false →
        s.runs (.bankRetention (.engine e)) (fun d' => (d'.engOf e).asleep = true)) ∧
      (d.standby = false → d.clk.waking = false → s.runs (.bankWake (.engine e)) (fun d' => (d'.engOf e).asleep = false))) ∧
    (∀ n : Fin 96,
      (bitsOf (d.pwrNow Reg.pwr_RET) 1 1 = 1 → d.isClaimed n = false → d.scState n = 2 →
        s.runs (.bankRetention (.segment n)) (fun d' => d'.scState n = 1 ∧ d'.sc = d.sc)) ∧
      (d.standby = false → d.clk.waking = false → d.scOff n = false → s.runs (.bankWake (.segment n)) (fun d' => d'.scState n = 2 ∧
        ∀ a, SMap.get 0 d'.sc a = if a / 2^19 = n ∧ d.scState n = 0 then 0 else SMap.get 0 d.sc a))) ∧
    (∀ t : Int,
      let alarm := sext 16 (bitsOf (d.pwrNow Reg.pwr_TJ_ALARM) 0 16)
      s.runs (.junctionReading t) (fun d' => d'.fld Reg.pwr_TJ 0 16 = toBits 16 t ∧
        d'.fld Reg.pwr_TJ 16 16 = toBits 16 (max (sext 16 (d.fld Reg.pwr_TJ 16 16)) t) ∧
        (alarm < t → sext 16 (d.fld Reg.pwr_TJ 0 16) ≤ alarm → d'.bit Reg.pwr_EVENTS 2 = true ∧ d.fired d' 970 d.nowT) ∧
        (d'.therm = true ↔ d.therm = true ∨ 1840 ≤ t)))

/-! ## Waveform DRAM (chapter 14) -/

/-- A DRAM request: operands that form none, and an address outside the populated space, stop; a request that may be served joins the queue of
the DMC that holds its address; a read of an unwiped granule makes no access, nor does one beyond the port's 64 outstanding reads, and a write wipes its granule (R324,
R386, R387, R389). -/
def Obligations.DramRequestsQueue : Prop :=
  ∀ (s : State) (port : Fin 11) (addr : BitVec 41) (len : Fin 513) (w hint : Bool) (data : List Byte) (ns : Nat),
    let d := s.dev
    let a := addr.toNat
    let g := a / 2^20
    let i := Instr.dramRequest port addr len w hint data ns
    let formed := 64 ≤ len.val ∧ len.val % 64 = 0 ∧ len.val ≤ 512 ∧ a / 4096 = (a + len - 1) / 4096 ∧ (w = true → data.length = len.val)
    (¬ formed → exec i s = .refused .illFormed) ∧
    (formed → d.populated a = false → exec i s = .fault .noSuchAddress) ∧
    (formed → d.populated a = true →
      (d.dramShut = true → s.runs i (fun d' => d' = d)) ∧
      (d.dramShut = false → w = false → SMap.get false d.wiped g = false → s.runs i (fun d' => d' = d)) ∧
      (d.dramShut = false → w = false → 64 < d.readsOut port + len / 64 → s.runs i (fun d' => d' = d)) ∧
      (d.dramShut = false → (w = true ∨ (SMap.get false d.wiped g = true ∧ d.readsOut port + len / 64 ≤ 64)) →
        s.runs i (fun d' =>
          let m := (d.place a).1
          ∃ r, (d'.dmcOf m).waiting = (d.dmcOf m).waiting ++ [r] ∧ (d'.dmcOf m).ctl = (d.dmcOf m).ctl ∧ r.port = port.val ∧ r.addr = a ∧ r.len = len.val ∧
            r.write = w ∧ r.data = data ∧ r.arrive = ns ∧ (port.val ≠ 10 → r.deadline = some (ns + d.ltOf m port)) ∧
            (w = true → SMap.get false d'.wiped g = true) ∧ ∀ x, d'.dramByte x = d.dramByte x)))

/-- Arbitration: a tile port in PANIC with a request waiting is served first, in turn; otherwise the most urgent request wins, then the earlier
deadline, then the lower port; port 10 only where nothing else waits (R390). -/
def Obligations.ArbiterChooses : Prop :=
  ∀ (s : State) (m : Fin 8) (ns : Nat) (r : Req),
    let d := s.dev
    let x := d.dmcOf m
    let takes (rr : Nat) : Prop := s.runs (.arbitration m ns) (fun d' =>
      (d'.dmcOf m).ctl = x.ctl ++ [r] ∧ (d'.dmcOf m).waiting = x.waiting.erase r ∧ (d'.dmcOf m).rr = rr)
    d.dramShut = false → d.inSr m = false → d.dmcState m ≠ 3 → d.dmcState m ≠ 4 → x.ctl.length < 8 → r ∈ x.waiting →
    (∀ k < 6, let p := (x.rr + 1 + k) % 6
      d.portPanic p = true → x.waiting.find? (fun q => q.port == p) = some r →
      (∀ j < k, d.portPanic ((x.rr + 1 + j) % 6) = true → ∀ q ∈ x.waiting, q.port ≠ (x.rr + 1 + j) % 6) → takes p) ∧
    ((∀ q ∈ x.waiting, d.portPanic q.port = true → 6 ≤ q.port) →
      (r.port ≠ 10 → (∀ q ∈ x.waiting, q.port ≠ 10 → q ≠ r →
        Dev.urgency q ns < Dev.urgency r ns ∨ (Dev.urgency q ns = Dev.urgency r ns ∧ (r.deadline.getD 0 < q.deadline.getD 0 ∨
          (r.deadline.getD 0 = q.deadline.getD 0 ∧ r.port < q.port)))) → takes x.rr) ∧
      (x.waiting.head? = some r → (∀ q ∈ x.waiting, q.port = 10) → takes x.rr))

/-- A request is done: it leaves the controller queue; a write's bytes, and no others, land in DRAM; a read, a write of part of a codeword or a scrub
that meets one erring device is corrected and counted, with the device, rank and DIMM that the address selects; one that meets several, like a parity
error of an RCD, freezes the subsystem (R385 to R387, R396 to R398). That several erring devices are uncorrectable is the model's choice: log entry 86. -/
def Obligations.RequestsComplete : Prop :=
  ∀ (s : State) (m : Fin 8) (ns : Nat) (i : Fin 20) (map : BitVec 20) (dig : BitVec 24),
    let d := s.dev
    let one (a : Nat) (d' : Dev) : Prop := d'.rdN a = min (2^32 - 1) (d.rdN a + 1)
    let corr (a : Nat) (d' : Dev) : Prop :=
      let q := d.place a
      one (Reg.dram_CORR_CNT q.1) d' ∧ d'.rdN (Reg.dram_CORR_DEV q.1) = i + 32 * (d.cell q.2).rank + 64 * (d.cell q.2).dimm ∧ d'.frozen = d.frozen
    (∀ r q, (d.dmcOf m).ctl = r :: q → (∀ f, r.fill = some f → f.1 < 96) → d.badCw = [] →
      (r.write = true → r.data.length = r.len → 0 < r.len → s.runs (.requestComplete m ns []) (fun d' => (d'.dmcOf m).ctl = q ∧
        d'.dramRead r.addr r.len = r.data ∧ ∀ a, (a < r.addr ∨ r.addr + r.len ≤ a) → d'.dramByte a = d.dramByte a)) ∧
      (r.write = false → s.runs (.requestComplete m ns []) (fun d' => (d'.dmcOf m).ctl = q ∧ d'.dram = d.dram ∧
        d'.rd64 (Reg.dram_RD_BYTES_LO m) = min (2^64 - 1) (d.rd64 (Reg.dram_RD_BYTES_LO m) + r.len))) ∧
      (∀ cw, r.addr < cw * 128 + 128 → cw * 128 < r.addr + r.len → SMap.get false d.wiped (cw / 2^13) = true →
        (r.write = false ∨ cw * 128 < r.addr ∨ r.addr + r.len < cw * 128 + 128) →
        s.runs (.requestComplete m ns [⟨cw, BitVec.twoPow 20 i, dig⟩]) (fun d' => (d'.dmcOf m).ctl = q ∧ corr (cw * 128) d') ∧
        (map ≠ 0 → Dev.correctable map.toNat = false →
          s.runs (.requestComplete m ns [⟨cw, map, dig⟩]) (fun d' => (d'.dmcOf m).ctl = q ∧ d'.frozen = true)))) ∧
    (s.runs (.zqCalibration m) (fun d' => d' = d)) ∧
    (∀ (l : BitVec 39) a, d.servedAddr m l.toNat = some a → d.dramShut = false → d.bit (Reg.dram_CFG m) 1 = true → d.corrupt (Reg.dram_CFG m) 0x100 = false →
      SMap.get false d.wiped (a / 2^20) = true → d.forcedSr m = false → d.wipeWaits m = false → d.badCw = [] →
      (s.runs (.patrolScrub m l ⟨ns, 0, dig⟩) (fun d' => d'.dram = d.dram ∧ d'.frozen = d.frozen)) ∧
      (s.runs (.patrolScrub m l ⟨ns, BitVec.twoPow 20 i, dig⟩) (fun d' => corr (a / 128 * 128) d' ∧ d'.dram = d.dram)) ∧
      (map ≠ 0 → Dev.correctable map.toNat = false → s.runs (.patrolScrub m l ⟨ns, map, dig⟩) (fun d' => d'.frozen = true))) ∧
    (s.runs (.caParity m) (fun d' => d'.frozen = true ∧ d'.bit (Reg.dram_EVENTS m) 1 = true))

/-- Refresh, temperature and upkeep of a DMC: an owed refresh is issued, postponed or forced; a DIMM above 85 °C or a silent sensor doubles the
rate; an idle DMC enters self-refresh; the next chunk of a migration is switched; a wipe changes no byte that a port sees (R324, R325,
R375, R381, R392, R393, R404). -/
def Obligations.DramKeepsItself : Prop :=
  ∀ (s : State) (m : Fin 8),
    let d := s.dev
    let o := d.owed m
    let panic := d.dmcPanic m = true ∧ d.frozen = false
    let idle := (d.dmcOf m).ctl = [] ∨ d.frozen = true
    (d.inSr m = false → d.dmcState m ≠ 4 →
      (o < 4 → ¬ panic → idle → s.runs (.refreshDue m) (fun d' => d'.owed m = 0)) ∧
      (o < 4 → ¬ panic → ¬ idle → s.runs (.refreshDue m) (fun d' => d'.owed m = o + 1)) ∧
      (o < 4 → panic → s.runs (.refreshDue m) (fun d' => d'.owed m = o + 1 ∧
        d'.rdN (Reg.dram_REF_POSTPONED_CNT m) = min (2^32 - 1) (d.rdN (Reg.dram_REF_POSTPONED_CNT m) + 1))) ∧
      (4 ≤ o → s.runs (.refreshDue m) (fun d' => d'.owed m = 4 ∧ (panic → d'.bit (Reg.dram_EVENTS m) 3 = true)))) ∧
    (∀ sensors : List (Option Int),
      let old := (d.dmcOf m).silent
      let lost := ∃ i : Nat, sensors[i]? = some none ∧ 2 ≤ old.getD i 0
      s.runs (.dimmReading m sensors) (fun d' =>
        (∀ i : Nat, sensors[i]? = some none → (d'.dmcOf m).silent[i]? = some (old.getD i 0 + 1)) ∧
        (∀ (i : Nat) (t : Int), sensors[i]? = some (some t) → (d'.dmcOf m).silent[i]? = some 0) ∧
        (lost → d'.bit (Reg.dram_STATUS m) 3 = true) ∧
        ∀ t, some t ∈ sensors → (∀ u, some u ∈ sensors → u ≤ t) → d'.fld (Reg.dram_TEMP m) 0 16 = toBits 16 t ∧
          (¬ lost → d'.bit (Reg.dram_STATUS m) 3 = if 1360 < t then true else if t ≤ 1328 then false else d.bit (Reg.dram_STATUS m) 3))) ∧
    (bitsOf (d.pwrNow Reg.pwr_SR_IDLE) 0 16 ≠ 0 → d.standby = false → d.inSr m = false → d.hasCharge m = false → (d.dmcOf m).waiting = [] →
      (d.dmcOf m).ctl = [] → s.runs (.selfRefreshIdle m) (fun d' => d'.inSr m = true ∧ d'.owed m = 0)) ∧
    (∀ c, d.frozen = false → d.dmcState m = 1 → d.nextChunk m = some c → d.badCw = [] → (∀ x ∈ d.dmc, x.2.waiting = [] ∧ x.2.ctl = []) →
      s.runs (.chunkSwitch m) (fun d' => SMap.get false d'.moved c = !d.bit Reg.dramG_STATUS (4 + m) ∧ d'.dram = d.dram)) ∧
    (∀ g, d.dramShut = false → d.standby = false → (∀ k < 8, d.wipeWaits k = false ∧ d.forcedSr k = false) → d.firstUnwiped = some g → s.runs .backgroundWipe (fun d' =>
      SMap.get false d'.wiped g = true ∧ ∀ a, d'.dramByte a = d.dramByte a)) ∧
    (∀ g : Fin 2097152, d.dramShut = false → d.populated (g.val * 2^20) = true → s.runs (.granuleFill g) (fun d' =>
      SMap.get false d'.wiped g = true ∧ ∀ a, d'.dramByte a = d.dramByte a))

/-! ## Resets, start and trust (chapter 11) -/

/-- A reset clears the block and its guard and shows its cause; a device reset keeps ALIGNED, the accumulator and DSAFE_LAST. The MP watchdog
holds the channels and ends the commands in flight; its service removes the cause of the holds (R296, R328, R331). -/
def Obligations.ResetsClearTheBlock : Prop :=
  ∀ (s : State),
    let d := s.dev
    let cleared (d' : Dev) : Prop := d'.chan = [] ∧ d'.launches = [] ∧ d'.prog = [] ∧ d'.ctx = [] ∧ d'.dram = [] ∧ d'.sc = [] ∧ d'.mailbox = [] ∧
      d'.faults = [] ∧ d'.timeValid = false ∧ d'.sec.booted = false ∧ d'.flash = d.flash ∧ d'.hostMem = d.hostMem
    (∀ src : BitVec 6, src ≠ 0 → s.runsG (.deviceReset src) (fun g' d' => g' = {} ∧ cleared d' ∧ d'.rdN Reg.sec_RESET_CAUSE = src.toNat ∧
      (src.getLsbD 0 = false → d'.bit Reg.time_STATUS 1 = d.bit Reg.time_STATUS 1 ∧ (∀ i < 16, d'.rd (Reg.fault_DSAFE_LAST i) = d.rd (Reg.fault_DSAFE_LAST i)) ∧
        d'.time.acc = if d.timeValid then d.time.now * 2^32 else d.time.acc))) ∧
    (d.standby = false → s.runsG (.secReset 0xA5) (fun g' d' => g' = {} ∧ cleared d' ∧ d'.rdN Reg.sec_RESET_CAUSE = 8)) ∧
    (∀ v : Word, v ≠ 0xA5 → s.runs (.secReset v) (fun d' => d' = d)) ∧
    (d.standby = false → s.runs .watchdogExpiry (fun d' => d'.bit Reg.sec_EVENTS 3 = true ∧ d'.rdN Reg.sec_WDT_CNT = min (2^32 - 1) (d.rdN Reg.sec_WDT_CNT + 1) ∧
      (∀ n < 96, (d'.chanOf n).hold = true ∧ d'.bit (Reg.chn_SAFE_CTL n) 8 = true) ∧
      ∀ x ∈ d'.host.inflight, x.dup = false → x.ended ≠ none)) ∧
    (s.runs .watchdogService (fun d' => d'.chan = d.chan ∧ ∀ n < 96, d'.bit (Reg.chn_SAFE_CTL n) 8 = false))

/-- A start: a flash that cannot be used, and two slots without a valid image, end in RECOVERY; a valid slot's LIMITS set the guard and the start
goes on to DRAM training, a slot that is not valid giving way to the other; training ends the wait for DRAM; START ends it, or waits for its
time-set (R298, R307, R312, R313, R401, R402). -/
def Obligations.StartsFromTheImage : Prop :=
  ∀ (s : State),
    let d := s.dev
    let ok (slot : Nat) : Prop := Dev.imageError s.fuses d slot false true = 0
    let whole (slot : Nat) : Prop := ∀ x ∈ d.imgSections slot, d.sectionOk slot x = true ∧ x.typ ≠ 5
    let started (slot : Nat) (t : State) : Prop := t.fuses = s.fuses ∧ t.dev.sec.booted = true ∧ t.dev.startPhase = 4 ∧
      t.dev.bit Reg.sec_STATUS 3 = (slot == 1) ∧ ∀ x, d.sectionOf slot 3 = some x → t.guard = limitsGuard s.fuses (d.sectionBytes slot x)
    let first := d.dirFields.1
    (d.sec.booted = false → d.standby = false → s.fuses.lc ≠ 4 →
      (d.flashOk = false → s.leads .boot (fun t => t.fuses = s.fuses ∧ t.guard = s.guard ∧ t.dev.sec.booted = true ∧ t.dev.recovery = true)) ∧
      (d.flashOk = true → d.aon = {} → 2 ≤ d.dirFields.2 →
        (ok first → whole first → s.leads .boot (started first)) ∧
        (¬ ok first → ok (1 - first) → whole (1 - first) → s.leads .boot (fun t => started (1 - first) t ∧ t.dev.bit Reg.sec_STATUS 4 = true)) ∧
        (¬ ok first → ¬ ok (1 - first) → s.leads .boot (fun t => t.fuses = s.fuses ∧ t.guard = s.guard ∧ t.dev.recovery = true)))) ∧
    (d.sec.booted = true → d.startPhase = 4 → d.standby = false → d.bit Reg.dramG_STATUS 1 = false → whole d.bootSlot →
      (s.leads (.dramTrainingDone 0xFF) (fun t => t.fuses = s.fuses ∧ t.guard = s.guard ∧ t.dev.startPhase = 5 ∧ t.dev.bit Reg.glob_STATUS 3 = true ∧
        ∀ m < 8, t.dev.dmcState m = 0)) ∧
      (s.leads (.dramTrainingDone 0) (fun t => t.fuses = s.fuses ∧ t.guard = s.guard ∧ t.dev.startPhase = 5 ∧ t.dev.bit Reg.dramG_STATUS 1 = true))) ∧
    (d.sec.booted = true → d.startPhase = 5 → d.standby = false →
      let ended (d' : Dev) : Prop := d'.startPhase = 6 ∧ d'.bit Reg.glob_STATUS 1 = true ∧ d'.bit Reg.glob_STATUS 2 = true ∧ d'.sec.autoWait = false
      (d.startBytes = none → s.runs .startSection ended) ∧
      (∀ b, d.startBytes = some b → d.sec.autoWait = false → fieldAt b 0 4 % 2 = 1 → bitsOf (fieldAt b 0 4) 2 2 = 3 → bitsOf (fieldAt b 0 4) 1 1 = 0 →
        s.runs .startSection (fun d' => ended d' ∧ ∀ n < 96, (d'.chanOf n).hold = true ∧ d'.bit (Reg.chn_SAFE_CTL n) 9 = true)) ∧
      (∀ b, d.startBytes = some b → d.sec.autoWait = true → d.bit Reg.time_STATUS 4 = true →
        (s.runs .startSection (fun d' => d' = d)) ∧ (bitsOf (fieldAt b 0 4) 1 1 = 0 → s.runs .startTimeSetTimeout ended)))

/-- Fuses: CONFIRM makes the booted slot ACTIVE and raises the fused SVN where the image asks for it in PRODUCTION; a token that is refused changes no
fuse, and one that acts burns what its kind says, unless a fuse program fails; the recovery mailbox programs a slot (R311, R316 to R320, R330). -/
def Obligations.FusesFollowTokens : Prop :=
  ∀ (s : State),
    let d := s.dev
    let f := s.fuses
    let t := d.tokenBytes
    let target := fieldAt t 2 1
    (d.standby = false → d.sec.booted = true → d.recovery = false → s.leads .confirm (fun u =>
      u.guard = s.guard ∧ u.dev.bit Reg.sec_STATUS 7 = true ∧ u.dev.flash = (d.writeDir d.bootSlot d.dirFields.2).flash ∧
      u.fuses = { f with svn := if f.lc = 2 ∧ d.imgRaises d.bootSlot = true then max f.svn (min 64 (d.imgSvn d.bootSlot)) else f.svn })) ∧
    (∀ slot : Bool, d.standby = false → s.runs (.tryEn slot) (fun d' =>
      d'.flash = (d.writeDir d.dirFields.1 (if slot then 1 else 0)).flash ∧ d'.bit Reg.sec_BOOT_CTL 1 = false ∧ d'.bit Reg.sec_BOOT_CTL 2 = slot)) ∧
    (d.standby = false →
      let acts (i : Instr) (k : Nat) (f' : Fuses) (post : Guard → Dev → Prop) : Prop := fieldAt t 0 1 = k →
        (Dev.tokenResult f d ≠ 0 → s.leads i (fun u => u.fuses = f ∧ u.guard = s.guard ∧ u.dev.fld Reg.sec_TOKEN_CTL 8 8 = Dev.tokenResult f d ∧
          u.dev.bit Reg.sec_EVENTS 1 = true)) ∧
        (Dev.tokenResult f d = 0 → s.leads i (fun u => (u.fuses = f' ∧ post u.guard u.dev) ∨
          (k ≠ 4 ∧ u.fuses = f ∧ u.guard = s.guard ∧ u.dev.fld Reg.sec_TOKEN_CTL 8 8 = 6))) ∧
        ((fieldAt t 8 8 ≠ f.serial ∨ fieldAt t 16 8 ≠ d.rd64 Reg.sec_NONCE_LO) → s.leads i (fun u => u.fuses = f ∧ u.guard = s.guard))
      acts .lcChange 1 { f with lc := max f.lc target } (fun g' d' => g' = {} ∧ d'.rdN Reg.sec_RESET_CAUSE = 16) ∧
      acts .addKey 2 { f with keys := SMap.set 0 f.keys target 1, digest := SMap.set [] f.digest target ((t.drop 24).take 64) }
        (fun g' d' => g' = s.guard ∧ d'.bit Reg.sec_EVENTS 0 = true) ∧
      acts .revokeKey 3 { f with keys := SMap.set 0 f.keys target 2 } (fun g' d' => g' = s.guard ∧ d'.bit Reg.sec_EVENTS 0 = true) ∧
      acts .debugUnlock 4 f (fun g' d' => g' = s.guard ∧ d'.bit Reg.sec_STATUS 8 = true)) ∧
    (∀ v : Word,
      let slot := bitsOf v.toNat 2 1
      let len := 256 * bitsOf v.toNat 4 16
      let ofs := d.rdN Reg.sec_REC_OFS
      d.standby = false → d.recovery = true → v.getLsbD 0 = true → v.getLsbD 1 = false → d.flashOk = true → len ≤ 2^16 → d.slotWriteOk slot ofs len false = true →
      s.runs (.recCtl v) (fun d' => d'.bit Reg.sec_REC_CTL 0 = false ∧
        (d'.bit Reg.sec_REC_CTL 3 = true ∨ d'.flashBytes (d.slotAt slot + ofs) len = (wordBytes ((List.range (len / 4)).map (fun i => d.rd (Reg.sec_REC_BUF i)))))))

/-! ## Host commands (R284) -/

/-- NOP, MEM_WRITE, MEM_READ and WIPE: a range that the function may not use ends with NOT_OWNED before any byte moves, and one while DRAM is down with
DRAM_FROZEN; a command whose host buffer passes the window check moves every byte, and no other, through a PEER window to the other card
(R273, R285, R324). -/
def Obligations.HostMemoryCommandsMove : Prop :=
  ∀ (s : State) (c : HostCmd), s.dev.fetches c.fn = true →
    let d := s.dev
    let a := c.p64 0
    let len := c.len.toNat
    let wlen := c.p64 2
    let host := c.addr.toNat
    (s.ends (.nop c) c 0 0 (fun d' => d' = { d with host := d'.host })) ∧
    (∀ i ∈ [Instr.memWrite c, Instr.memRead c], c.aligned = true → a % 64 = 0 → len % 64 = 0 →
      (d.dramRegion c.owner a len = false → d.stallsAt a len = false → s.ends i c 0x03 0 (fun d' => d' = { d with host := d'.host })) ∧
      (d.dramRegion c.owner a len = true → d.dramDown = true → s.ends i c 0x10 0 (fun d' => d' = { d with host := d'.host }))) ∧
    (c.aligned = true → a % 64 = 0 → len % 64 = 0 → d.dramRegion c.owner a len = true → d.dramDown = false → d.stallsAt a len = false → d.badCw = [] →
      (d.quiet → d.windowed c.fn host len false → s.ends (.memWrite c) c 0 len (fun d' => d'.hostMem = d.hostMem ∧
        d'.dramRead a len = d.hostBytes host len ∧ ∀ x, (x < a ∨ a + len ≤ x) → d'.dramByte x = d.dramByte x)) ∧
      (d.windowed c.fn host len true → s.ends (.memRead c) c 0 len (fun d' => d'.dram = d.dram ∧ d'.hostBytes host len = d.dramRead a len ∧
        ∀ x, (x < host ∨ host + len ≤ x) → SMap.get 0 d'.hostMem x = SMap.get 0 d.hostMem x)) ∧
      (d.peered c.fn host len → s.ends (.memRead c) c 0 len (fun d' => d'.dram = d.dram ∧ d'.hostMem = d.hostMem ∧
        (d'.host.peerOut.drop d.host.peerOut.length).flatMap (fun x => x.2) = d.dramRead a len))) ∧
    (a % 2^20 = 0 → wlen % 2^20 = 0 → d.dramRegion c.owner a wlen = true → d.dramDown = false → s.ends (.wipe c) c 0 (wlen / 2^20) (fun d' =>
      ∀ x, d'.dramByte x = if a ≤ x ∧ x < a + wlen then 0 else d.dramByte x))

/-- SEG_WRITE writes a descriptor with the next VER, its owner and its CHECK; SEG_READ returns one; RELOAD answers with the banks that hold the
segment; ENV_WRITE puts a directory entry and its samples into each of its tiles (R60, R69, R162, R163). -/
def Obligations.SegmentsAndEnvelopesAreWritten : Prop :=
  ∀ (s : State) (c : HostCmd), s.dev.fetches c.fn = true →
    let d := s.dev
    let x := c.p 0
    let host := c.addr.toNat
    let len := c.len.toNat
    let old := d.desc x
    let ver := (dfld old 0 24 8 + 1) % 256
    let ws := leWords (d.hostBytes host 64)
    (x < 2^16 → Dev.sees c.fn (d.segOwner x) = true → d.dramDown = false → d.badCw = [] → d.stallsAt (d.mm.descAt + 64 * x) 64 = false →
      (c.aligned = true → d.quiet → d.windowed c.fn host 64 false → d.descOk ws = true → Dev.descReserved (Dev.sealDesc old ws c.owner) = true →
        d.segLocked x = false → s.ends (.segWrite c) c 0 ver (fun d' =>
        let new := d'.desc x
        dfld new 0 24 8 = ver ∧ dfld new 0 0 16 = dfld ws 0 0 16 ∧ (∀ i, 1 ≤ i → i < 15 → new.getD i 0 = ws.getD i 0) ∧ dCheckOk new = true ∧
        dfld new 0 16 5 = (if c.fn.val = 0 then dfld ws 0 16 5 else c.fn.val - 1) ∧
        ∀ a, (a < d.mm.descAt + 64 * x ∨ d.mm.descAt + 64 * x + 64 ≤ a) → d'.dramByte a = d.dramByte a)) ∧
      (c.aligned = true → d.windowed c.fn host 64 true → s.ends (.segRead c) c 0 (dfld old 0 24 8) (fun d' =>
        d'.dram = d.dram ∧ d'.hostBytes host 64 = d.dramRead (d.mm.descAt + 64 * x) 64)) ∧
      (d.stallsAt (dAddr old) (dBytes old) = false → s.ends (.reload c) c 0 ((d.chan.map (fun p => (p.2.resident.filter (fun r => r.seg == x)).length)).sum) (fun d' => d'.dram = d.dram))) ∧
    (let v := bitsOf x 0 12
     let tile := bitsOf x 16 3
     let n := leNat (d.hostBytes host 8)
     let samples := d.hostBytes (host + 8) (len - 8)
     let base := bitsOf n 0 18
     let entry := match c.owner with
       | some p => n - bitsOf n 20 5 * 2^20 + p * 2^20
       | none => n
     let mine (t : Nat) : Prop := t < 6 ∧ (d.chOwner (16 * t) = c.owner ∨ d.chOwner (16 * t + 8) = c.owner)
     let has (t : Nat) : Prop := (tile = 7 ∧ mine t) ∨ (tile = t ∧ t < 6)
     x < 2^19 → bitsOf x 12 4 = 0 → tile ≠ 6 → 8 ≤ len → len % 4 = 0 → c.aligned = true → Dev.sees c.fn (d.envOwner v) = true → (tile ≠ 7 → c.fn.val = 0 ∨ mine tile) →
     d.quiet → d.windowed c.fn host len false → Dev.envEntryOk entry = true → base + (len - 8) / 4 ≤ 253952 →
     (∀ t, has t → (c.fn.val = 0 ∨ d.envEntry t v = 0 ∨ Dev.envEntryOwner (d.envEntry t v) = c.owner) ∧ d.envBlocked t v entry base samples = false) →
     s.ends (.envWrite c) c 0 ((len - 8) / 4) (fun d' => d'.dram = d.dram ∧
       (∀ t, has t → d'.envEntry t v = entry ∧ SMap.bytes 0 d'.env (t * 2^20 + 0x8000 + 4 * base) (len - 8) = samples) ∧
       ∀ t < 6, ¬ has t → ∀ a < 2^20, SMap.get 0 d'.env (t * 2^20 + a) = SMap.get 0 d.env (t * 2^20 + a)))


/-- Programs and contexts: PROG_WRITE writes every entry, or none where one fails its checks; PROG_READ returns them; CTX_WRITE takes the fields of
the image that are the host's, CTX_READ returns the record, CTX_CLEAR frees a READY context (R88, R122 to R124, R284, R471). -/
def Obligations.ProgramsAndContextsAreWritten : Prop :=
  ∀ (s : State) (c : HostCmd), s.dev.fetches c.fn = true → c.aligned = true →
    let d := s.dev
    let x := c.p 0
    let host := c.addr.toNat
    let len := c.len.toNat
    let n := len / 16
    let only (d' : Dev) : Prop := d' = { d with host := d'.host }
    let entry (i : Nat) : Nat := leNat (d.hostBytes (host + 16 * i) 16)
    let fine (i : Nat) : Prop := d.entryOk c.owner (x + i) (entry i) = true
    (len % 16 = 0 → x < 2^20 → x + n ≤ 2^20 → (∀ i < n, Dev.sees c.fn (d.progOwner (x + i)) = true) →
      (d.quiet → d.windowed c.fn host len false → (∀ i < n, d.progLocked (x + i) = false) →
        ((∀ i < n, fine i) → s.ends (.progWrite c) c 0 n (fun d' =>
          ∀ a < 2^20, d'.entryAt a = if x ≤ a ∧ a < x + n then entry (a - x) else d.entryAt a)) ∧
        (∀ i < n, (∀ j < i, fine j) → ¬ fine i → s.ends (.progWrite c) c 0x07 i only)) ∧
      (0 < n → (∃ i < n, d.progLocked (x + i) = true) → s.ends (.progWrite c) c 0x05 0 only) ∧
      (d.windowed c.fn host len true → s.ends (.progRead c) c 0 n (fun d' =>
        d'.prog = d.prog ∧ ∀ i < n, leNat (d'.hostBytes (host + 16 * i) 16) = d.entryAt (x + i)))) ∧
    (x < 10240 → Dev.sees c.fn (d.ctxOwner x) = true →
      let w (i : Nat) : Word := BitVec.ofNat 32 (leNat (d.hostBytes (host + 4 * i) 4))
      let ws := (List.range 256).map w
      (c.p 1 ≤ 1 → d.quiet → d.windowed c.fn host 1024 false → d.ctxState x ≤ 1 →
        (d.setOk (d.ctxOwner x) (Dev.chsetOf ws) = false → s.ends (.ctxWrite c) c 0x08 0 only) ∧
        (d.setOk (d.ctxOwner x) (Dev.chsetOf ws) = true → s.ends (.ctxWrite c) c 0 0 (fun d' =>
          d'.ctxState x = 1 ∧ d'.ctxFld x 1 0 20 = (w 1).toNat % 2^20 ∧ d'.ctxRecOwner x = d.ctxOwner x ∧
          (∀ i, (i = 4 ∨ i = 5 ∨ (12 ≤ i ∧ i < 28) ∨ (44 ≤ i ∧ i < 47) ∨ (64 ≤ i ∧ i < 128)) → d'.ctxW x i = w i) ∧
          (c.p 1 = 1 ∨ d.ctxState x = 0 → d'.ctxPc x = (w 1).toNat % 2^20 ∧ d'.ctxFld x 2 20 4 = 0 ∧ d'.isHeld x = false ∧ d'.ctx64 x 8 = 0 ∧ d'.ctx64 x 10 = 0) ∧
          (c.p 1 = 0 → d.ctxState x = 1 → d'.ctxW x 2 = d.ctxW x 2) ∧
          ∀ y i, y ≠ x → i < 256 → d'.ctxW y i = d.ctxW y i))) ∧
      (c.p 1 ≤ 1 → 1 < d.ctxState x → s.ends (.ctxWrite c) c 0x05 0 only) ∧
      (d.windowed c.fn host 1024 true → s.ends (.ctxRead c) c 0 (d.ctxState x) (fun d' =>
        d'.ctx = d.ctx ∧ ∀ i < 256, leNat (d'.hostBytes (host + 4 * i) 4) = (d.storeW x i).toNat)) ∧
      (d.ctxState x = 1 → s.ends (.ctxClear c) c 0 0 (fun d' => ∀ y i, i < 256 → d'.ctxW y i = if y = x then 0 else d.ctxW y i)) ∧
      (d.ctxState x ≠ 1 → s.ends (.ctxClear c) c 0x05 0 only))

/-- ADMIT admits every context of its list, or none; RELEASE returns a context that does not run to READY; CTX_START binds an admitted context to an
idle engine of its owner and claims its channels, unless another context claims one; CTX_STOP returns a running context to ADMITTED at its
entry boundary (R75, R122, R126 to R128). That a set which has come to hold another owner's channel is SET_INVALID is the model's choice (log entry 22). -/
def Obligations.ContextsAreAdmittedAndRun : Prop :=
  ∀ (s : State) (c : HostCmd), s.dev.fetches c.fn = true →
    let d := s.dev
    let x := c.p 0
    let len := c.len.toNat
    let host := c.addr.toNat
    let only (d' : Dev) : Prop := d' = { d with host := d'.host }
    (let req := (leWords (d.hostBytes host len)).map (fun w => w.toNat)
     let v := d.admission c.owner req
     32 ≤ c.p 2 → len % 4 = 0 → len ≠ 0 → len ≤ 1024 → c.aligned = true → d.dsafe = false → d.dramDown = false →
     d.stallsAt 0 d.ilBytes = false → d.badCw = [] → d.quiet → d.windowed c.fn host len false → d.windowed c.fn (c.p64 0) (c.p 2) true →
     (v.status = 0 → s.ends (.admitCtx c) c 0 0 (fun d' => ∀ y ∈ req, (d.ctxState y = 1 → d'.ctxState y = 2) ∧ d'.isAdmitted y = true)) ∧
     (v.status ≠ 0 → s.ends (.admitCtx c) c v.status v.result (fun d' => d' = { d with host := d'.host, hostMem := d'.hostMem }))) ∧
    (x < 10240 → Dev.sees c.fn (d.ctxOwner x) = true →
      (d.ctxState x = 2 ∨ d.ctxState x = 4 ∨ d.ctxState x = 5 → s.ends (.release c) c 0 0 (fun d' =>
        d'.ctxState x = 1 ∧ d'.admOf x = none ∧ (∀ y, y ≠ x → d'.admOf y = d.admOf y) ∧ d'.launches = d.launches)) ∧
      (d.ctxState x = 3 → s.ends (.release c) c 0x05 0 only) ∧ (d.ctxState x < 2 → s.ends (.release c) c 0 0 only) ∧
      (d.dsafe = false → (d.ctxState x = 2 ∨ d.ctxState x = 4 ∨ d.ctxState x = 5) → ∀ e < 64,
        let free (k : Nat) : Prop := d.engIdle k = true ∧ d.isSpare k = false ∧ d.engOwner k = d.ctxRecOwner x
        ((c.p 1 = e ∧ d.engIdle e = true ∧ d.engOwner e = d.ctxRecOwner x ∧ Dev.sees c.fn (d.engOwner e) = true) ∨ (c.p 1 = 64 ∧ free e ∧ ∀ k < e, ¬ free k)) →
        (d.foreignChan x ≠ none → s.ends (.ctxStart c) c 0x08 0 only) ∧
        (d.foreignChan x = none → d.conflict x none = none → s.ends (.ctxStart c) c 0 e (fun d' =>
          d'.engCtx e = some x ∧ d'.ctxEng x = some e ∧ d'.ctxState x = 3 ∧ (∀ n ∈ d.ctxChans x, (d'.chanOf n).claim = some x) ∧
          (d.current (d.engOf e).s0 x = false → d.current (d.engOf e).s1 x = false →
            d'.ctxPc x = if d.ctxState x = 4 then d.ctxFld x 1 0 20 else d.storePc x) ∧ d'.launches = d.launches)) ∧
        (d.foreignChan x = none → d.conflict x none ≠ none → s.ends (.ctxStart c) c 0x0A 0 only)) ∧
      (c.p 1 ≤ 1 →
        (∀ e, d.ctxState x = 3 → d.ctxEng x = some e → s.ends (.ctxStop c) c 0 (d.ctxPc x) (fun d' =>
          d'.ctxState x = 2 ∧ d'.engCtx e = none ∧ d'.ctxPc x = d.storePc x ∧
          d'.launches = d.launches.filter (fun l => !(c.p 1 == 1 && l.ctx == x && decide (d.nowT + 528 ≤ l.judged))))) ∧
        (d.ctxState x ≠ 3 → s.ends (.ctxStop c) c 0 (d.ctxPc x) only)))

/-- Engines, captures and partitions: a retired engine leaves service, its context moving to a replacement or returning to ADMITTED; a retired engine
may be restored; a bank and a capture's record are read; a partition takes its engines, and gives its objects back with the guard at its seals;
the commands of the physical function end with PF_ONLY in a virtual one (R121, R145, R262, R284, R290, R291). -/
def Obligations.EnginesAndPartitionsChange : Prop :=
  ∀ (s : State) (c : HostCmd), s.dev.fetches c.fn = true →
    let d := s.dev
    let e := c.p 0
    let host := c.addr.toNat
    let len := c.len.toNat
    let retired (d' : Dev) : Prop := d'.bit (Reg.eng_STATUS e) 24 = true ∧ d'.bit (Reg.pool_IN_SERVICE_LO + 4 * (e / 32)) (e % 32) = false
    (c.fn.val ≠ 0 → d.stallsAt 0 d.ilBytes = false → d.stallsAt d.mm.descAt (2^22) = false → d.moveFree e → ∀ i ∈ [Instr.engRetire c, .engRestore c, .partCreate c, .partDestroy c, .dramRetrain c, .dramMigrate c, .dramUnfreeze c, .imageWrite c,
      .fwSwap c, .calWrite c], s.ends i c 0x04 0 (fun d' => d' = { d with host := d'.host })) ∧
    (c.fn.val = 0 → e < 64 →
      (d.bit (Reg.eng_STATUS e) 24 = true → s.ends (.engRetire c) c 0 0xFFFFFFFE (fun d' => d' = { d with host := d'.host })) ∧
      (d.bit (Reg.eng_STATUS e) 24 = false →
        (d.engCtx e = none → s.ends (.engRetire c) c 0 0xFFFFFFFE (fun d' => retired d' ∧ d'.launches = d.launches)) ∧
        (∀ x r, d.engCtx e = some x → d.replacement e = some r → s.ends (.engRetire c) c 0 r (fun d' =>
          retired d' ∧ d'.engCtx r = some x ∧ d'.engCtx e = none ∧ d'.ctxFld x 0 8 6 = r ∧ d'.ctxState x = d.ctxState x ∧
          d'.launches = d.launches.map (fun l => if l.ctx == x then { l with eng := r } else l))) ∧
        (∀ x, d.engCtx e = some x → d.replacement e = none → s.ends (.engRetire c) c 0 0xFFFFFFFF (fun d' => retired d' ∧ d'.ctxState x = 2))) ∧
      (d.bit (Reg.eng_STATUS e) 24 = false → s.ends (.engRestore c) c 0 0 (fun d' => d' = { d with host := d'.host })) ∧
      (d.bit (Reg.eng_STATUS e) 24 = true → s.ends (.engRestore c) c 0 0 (fun d' =>
        d' = { d with host := d'.host, freeCtr := d'.freeCtr } ∨
        (d'.bit (Reg.eng_STATUS e) 24 = false ∧ d'.isSpare e = true ∧ d'.engOwner e = none ∧ d'.launches = d.launches ∧
          d'.bit (Reg.pool_IN_SERVICE_LO + 4 * (e / 32)) (e % 32) = true)))) ∧
    (e < 64 → c.p 1 % 8 = 0 → len % 8 = 0 → c.p 1 + len ≤ 2^18 → c.aligned = true → Dev.sees c.fn (d.engOwner e) = true → d.windowed c.fn host len true →
      s.ends (.engBankRead c) c 0 len (fun d' => d'.bank = d.bank ∧ ∀ i < len,
        let o := c.p 1 + i
        (o < 0x20000 → SMap.get 0 d'.hostMem (host + i) = SMap.get 0 d.bank (e * 2^18 + o)) ∧
        ∀ x, d.engCtx e = some x → 0x20000 ≤ o → o < 0x20400 →
          (SMap.get 0 d'.hostMem (host + i)).toNat = (d.ctxW x ((o - 0x20000) / 4)).toNat / 256 ^ (o % 4) % 256)) ∧
    (∀ k < 6, ∀ log : Bool, e = k + (if log then 256 else 0) → c.aligned = true → Dev.sees c.fn (d.mdOwner k) = true → d.capState k ≠ 1 → d.capState k ≠ 2 →
      (log = false → (d.capOf k).target = 1 → d.dramDown = false ∧ d.badCw = [] ∧ d.stallsAt (d.capOf k).base (d.capOf k).size = false) →
      let bs := (if log then SMap.bytes 0 d.capBuf (Dev.logBase k) (16 * d.fld (Reg.cap_LOG_N k) 0 9) else d.capRecord k).take len
      d.windowed c.fn host bs.length true → s.ends (.capRead c) c 0 bs.length (fun d' => d'.capBuf = d.capBuf ∧ d'.hostBytes host bs.length = bs)) ∧
    (c.fn.val = 0 → e < 12 →
      (d.partDefined e = true → d.partOn e = false → d.dsafe = false → (∀ n < 96, d.grantsHalf e (n / 8) = true → d.isClaimed n = false) →
        (∀ x, d.grantsCtx e x = true → d.ctxState x = 0) → (∀ r ∈ d.partRegions e, ∀ q ∈ d.pfRanges, Dev.overlap r q = false) →
        d.askedEngines e ≤ (d.heldEngines e).length + d.spareEngines.length →
        s.ends (.partCreate c) c 0 (d.askedEngines e) (fun d' => d'.partOn e = true ∧ (∀ p, p < 12 → p ≠ e → d'.partOn p = d.partOn p))) ∧
      (d.partOn e = true → c.p 1 ≤ 1 → d.dramDown = false → d.badCw = [] → d.stallsAt d.mm.descAt (2^22) = false → (∀ x ∈ d.admitted, d.ctxRecOwner x ≠ some e) →
        s.runsG (.partDestroy c) (fun g' d' => d'.completesWith c 0 0 ∧ d'.partOn e = false ∧
          (∀ n < 96, d.chOwner n = some e → d'.chMode n = 0 ∧ g'.of n = { (s.guard.of n) with
            lo := (s.guard.of n).sealLo, hi := (s.guard.of n).sealHi, slew := (s.guard.of n).sealS, pwr := (s.guard.of n).sealPwr }) ∧
          (∀ n < 96, d.chOwner n ≠ some e → g'.of n = s.guard.of n) ∧
          (∀ x w, d.grantsCtx e x = true → w < 256 → d'.ctxW x w = 0) ∧ (∀ a, d.grantsProg e a = true → d'.entryAt a = 0) ∧
          (∀ m, d.grantsMb e (m / 64) = true → SMap.get 0 d'.mailbox m = 0))))

/-- Repair, firmware and sets: DRAM_UNFREEZE zeroes the codewords of the record and ends the freeze; a DMC with nothing to copy is moved out, trained and
put back, or kept out; IMAGE_WRITE programs a slot; FW_SWAP runs the other slot's firmware; CAL_WRITE puts a valid set into force; ATTEST reports
(R147, R314, R315, R322, R339, R400, R403). -/
def Obligations.RepairsAndImagesAreCarriedOut : Prop :=
  ∀ (s : State) (c : HostCmd), s.dev.fetches c.fn = true →
    let d := s.dev
    let f := s.fuses
    let x := c.p 0
    let host := c.addr.toNat
    let len := c.len.toNat
    let buf := d.hostBytes host len
    (c.fn.val = 0 → d.dsafe = false →
      (d.frozen = true → d.frzN ≤ 8 → s.ends (.dramUnfreeze c) c 0 d.frzN (fun d' => d'.frozen = false ∧
        ((∀ k < 6, (d.capOf k).fifo = []) → ∀ i < d.frzN, SMap.bytes 0 d'.dram (d.rd64 (Reg.frzAddr_LO i)) 128 = List.replicate 128 0))) ∧
      (d.frozen = false → s.ends (.dramUnfreeze c) c 0 0 (fun d' => d' = { d with host := d'.host })) ∧
      (x < 8 → d.dramDown = false → (∀ o < 8, o ≠ x → d.outBit o = false ∧ d.dmcState o ≠ 1) → d.dmcState x = 0 → d.outBit x = false →
        ceilDiv (d.unitsUsed x) 7 ≤ d.mm.res * 2^18 → d.spreadFails x = none → d.wiped = [] → d.moved = [] →
        d.stallsAt 0 d.ilBytes = false → d.moveFree x →
        (s.ends (.dramMigrate c) c 0 2 (fun d' => d'.dmcState x = 2 ∧ d'.outBit x = true ∧ d'.dram = d.dram)) ∧
        (s.runs (.dramRetrain c) (fun d' => d'.dram = d.dram ∧ ((d'.completesWith c 0 0 ∧ d'.dmcState x = 0 ∧ d'.outBit x = false) ∨
          (d'.completesWith c 0 1 ∧ d'.dmcState x = 2 ∧ d'.outBit x = true)))))) ∧
    (c.fn.val = 0 → c.aligned = true → d.quiet → d.windowed c.fn host len false →
      (x ≤ 1 → c.p 2 = 0 → d.slotWriteOk x (c.p 1) len false = true → x ≠ d.bootSlot → d.flashOk = true →
        s.runs (.imageWrite c) (fun d' => d'.completesWith c 0x13 0 ∨ (d'.completesWith c 0 0 ∧ d'.flashBytes (d.slotAt x + c.p 1) len = buf))) ∧
      (x < 6 →
        (setError f.serial x buf ≠ 0 → s.ends (.calWrite c) c 0x02 (setError f.serial x buf) (fun d' => d' = { d with host := d'.host })) ∧
        (setError f.serial x buf = 0 → s.runs (.calWrite c) (fun d' => (d'.completesWith c 0x13 0 ∧ d'.calT = d.calT) ∨
          ((∃ q, d'.completesWith c 0 q) ∧ (d'.calOf x).set = buf ∧ d'.bit Reg.cal_EVENTS 0 = true))))) ∧
    (c.fn.val = 0 → d.dsafe = false → d.swapBlocked = false → SMap.get false d.sec.verified (1 - d.bootSlot) = true →
      ∀ mp uc, d.sectionOf (1 - d.bootSlot) 1 = some mp → d.sectionOf (1 - d.bootSlot) 2 = some uc →
        let good (b : List Byte) (p : Section) : Prop := Crypto.sha512 b = p.digest ∧ Dev.firmwareOk f b = true
        (x = 0 → mp.param = d.sec.ucAbi → good (d.sectionBytes (1 - d.bootSlot) mp) mp → s.ends (.fwSwap c) c 0 (d.imgBuild (1 - d.bootSlot)) (fun d' =>
          d'.bit Reg.sec_STATUS 10 = (1 - d.bootSlot == 1) ∧ d'.sec.mpDig = Crypto.sha512 ((d.sectionBytes (1 - d.bootSlot) mp).drop 128) ∧ d'.bank = d.bank)) ∧
        (x = 1 → uc.param = d.sec.mpAbi → good (d.sectionBytes (1 - d.bootSlot) uc) uc → s.ends (.fwSwap c) c 0 (d.imgBuild (1 - d.bootSlot)) (fun d' =>
          d'.bit Reg.sec_STATUS 11 = (1 - d.bootSlot == 1) ∧ ∀ e < 64, (d'.engOf e).mcNew = true))) ∧
    (504 ≤ len → c.aligned = true → d.windowed c.fn host 504 true → s.ends (.attest c) c 0 504 (fun d' =>
      let at_ (o k : Nat) : Nat := leNat (d'.hostBytes (host + o) k)
      at_ 0 2 = 1 ∧ at_ 2 1 = f.lc % 256 ∧ at_ 4 4 = f.svn % 2^32 ∧ at_ 8 8 = f.serial % 2^64 ∧ at_ 16 8 = d.nowT % 2^64 ∧
      ∀ i < 8, at_ (24 + 4 * i) 4 = c.p i))

/-! ## The host interface (chapter 10) -/

/-- Queues: an entry is fetched from the SQ whose turn it is, and a duplicate, a TAG in flight and an old serial are answered at once (that they are
tested in this order is the model's choice: log entry 35); an executor
runs a command's step; a completion is written into its CQ while that has room; CQs and events signal; tails and heads are checked; an SQ is reset and a
CQ enabled (R274 to R282, R286, R287, R294). -/
def Obligations.QueuesServeCommands : Prop :=
  ∀ (s : State) (q : Fin 64) (fn : Fn),
    let d := s.dev
    let base := d.rd64 (Reg.q_SQ_BASE_LO q) / 4096 * 4096 + 64 * d.sqHead q
    let w (i : Nat) : Nat := leNat (d.hostBytes (base + 4 * i) 4)
    let tail := d.fld (Reg.q_CQ_TAIL q) 0 10
    (∀ turn, d.fetchPick = some (q, turn) →
      let ser := (SMap.get [] d.host.serials q).find? (fun r => r.serial == w 1)
      let busy := d.host.inflight.any (fun x => x.cmd.sq == q && x.cmd.tag == BitVec.ofNat 16 (w 0 / 2^16))
      let fresh := ∀ n, SMap.get none d.host.newest q = some n → Dev.newerSerial (w 1) n = true
      let joins (post : InFlight → Prop) : Prop := s.runs .commandFetch (fun d' => d'.sqHead q = (d.sqHead q + 1) % 512 ∧
        ∃ x, d'.host.inflight = d.host.inflight ++ [x] ∧ x.cmd.sq = q ∧ x.cmd.opcode.toNat = w 0 % 2^8 ∧ x.cmd.tag.toNat = w 0 / 2^16 ∧
          x.cmd.serial.toNat = w 1 ∧ x.cmd.addr.toNat = w 2 + 2^32 * w 3 ∧ x.cmd.len.toNat = w 4 ∧ post x)
      (∀ r e, ser = some r → r.ended = some e → joins (fun x => x.dup = true ∧ x.ended = some e)) ∧
      (∀ r, ser = some r → r.ended = none → joins (fun x => x.dup = true ∧ x.ended = none)) ∧
      (ser = none → busy = true → joins (fun x => x.dup = false ∧ x.ended = some (0x0E, 0))) ∧
      (ser = none → busy = false → ¬ fresh → joins (fun x => x.dup = false ∧ x.ended = some (0x0F, 0))) ∧
      (ser = none → busy = false → fresh → bitsOf (w 0) 10 6 = 0 → w 5 = 0 → joins (fun x => x.dup = false ∧ x.ended = none ∧ x.moved = 0))) ∧
    (∀ x, d.host.inflight = [x] → x.ended = none → x.dup = false → x.cmd.opcode = 0 → s.runs (.executorStep ⟨false, false, []⟩) (fun d' =>
      d'.host.inflight = [{ x with ended := some (0, 0) }] ∧ d'.completesWith x.cmd 0 0 ∧ d'.dram = d.dram)) ∧
    (∀ e, d.host.cqes.find? (fun e => e.cq == q.val) = some e → d.bit (Reg.q_CQ_CTL q) 0 = true →
      (d.cqFull q = true → s.runs (.completionWrite q) (fun d' => d'.host.cqes = d.host.cqes ∧ d'.hostMem = d.hostMem ∧
        d'.bit (Dev.fnKey e.fn Reg.host_EVENTS) 3 = true)) ∧
      (d.cqFull q = false → e.tag < 2^16 → e.sq < 64 → e.status < 2^8 → e.serial < 2^32 → s.runs (.completionWrite q) (fun d' =>
        let at_ := d.rd64 (Reg.q_CQ_BASE_LO q) / 4096 * 4096 + 16 * tail
        leNat (d'.hostBytes at_ 4) = e.tag + e.sq * 2^16 + (if e.dup then 2^22 else 0) + e.status * 2^24 ∧ leNat (d'.hostBytes (at_ + 4) 4) = e.serial ∧
        leNat (d'.hostBytes (at_ + 8) 4) = e.result % 2^32 ∧ leNat (d'.hostBytes (at_ + 12) 4) = d.sqHead e.sq + (if d.bit (Reg.q_CQ_TAIL q) 31 then 2^31 else 0) ∧
        d'.fld (Reg.q_CQ_TAIL q) 0 10 = (tail + 1) % 1024 ∧ d'.host.cqes = d.host.cqes.erase e ∧
        ∀ a, (a < at_ ∨ at_ + 16 ≤ a) → SMap.get 0 d'.hostMem a = SMap.get 0 d.hostMem a))) ∧
    (∀ timer : Bool,
      let n := SMap.get 0 d.host.unsig q
      let due := n ≠ 0 ∧ (timer = true ∨ max 1 (d.fld (Reg.q_CQ_CTL q) 8 8) ≤ n ∨ d.fld (Reg.q_CQ_CTL q) 16 16 = 0)
      (due → s.runs (.cqInterrupt q timer) (fun d' => SMap.get 0 d'.host.unsig q = 0 ∧
        d'.host.irqs = d.host.irqs ++ [(d.qFn q, d.fld (Reg.q_CQ_CTL q) 1 7)])) ∧
      (¬ due → s.runs (.cqInterrupt q timer) (fun d' => d' = d))) ∧
    (SMap.get false d.host.evtPend fn = false → s.runs (.evtHoldoff fn) (fun d' => SMap.get false d'.host.evtHold fn = false ∧ d'.host.irqs = d.host.irqs)) ∧
    (SMap.get false d.host.evtPend fn = true → s.runs (.evtHoldoff fn) (fun d' => SMap.get false d'.host.evtHold fn = true ∧
      SMap.get false d'.host.evtPend fn = false ∧ d'.host.irqs = d.host.irqs ++ [(fn.val, d.fld (Dev.fnKey fn Reg.host_IRQ) 0 7)])) ∧
    (∀ v : Word,
      (d.answers fn (Reg.q_SQ_TAIL q) (d.qOwner q) →
        (v.toNat < 512 → s.runs (.sqTail fn q v) (fun d' => d'.rd (Reg.q_SQ_TAIL q) = v ∧ d'.host = d.host)) ∧
        (512 ≤ v.toNat → s.runs (.sqTail fn q v) (fun d' => d'.rd (Reg.q_SQ_TAIL q) = d.rd (Reg.q_SQ_TAIL q) ∧ d'.bit (Dev.fnKey fn Reg.host_EVENTS) 4 = true))) ∧
      (d.answers fn (Reg.q_CQ_HEAD q) (d.qOwner q) →
        (v.toNat < 1024 → s.runs (.cqHead fn q v) (fun d' => d'.rd (Reg.q_CQ_HEAD q) = v ∧ d'.host = d.host)) ∧
        (1024 ≤ v.toNat → s.runs (.cqHead fn q v) (fun d' => d'.rd (Reg.q_CQ_HEAD q) = d.rd (Reg.q_CQ_HEAD q) ∧ d'.bit (Dev.fnKey fn Reg.host_EVENTS) 4 = true)))) ∧
    (d.answers fn (Reg.q_SQ_CTL q) (d.qOwner q) → s.runs (.sqReset fn q) (fun d' =>
      d'.sqInflight q = [] ∧ SMap.get [] d'.host.serials q = [] ∧ d'.bit (Reg.q_SQ_CTL q) 1 = false ∧ d'.hostMem = d.hostMem ∧
      ∀ x ∈ d.host.inflight, x.cmd.sq ≠ q → x ∈ d'.host.inflight)) ∧
    (d.answers fn (Reg.q_CQ_CTL q) (d.qOwner q) → s.runs (.cqEnable fn q) (fun d' => d'.bit (Reg.q_CQ_CTL q) 0 = true ∧
      (d.bit (Reg.q_CQ_CTL q) 0 = false → d'.rdN (Reg.q_CQ_TAIL q) = 2^31 ∧ SMap.get 0 d'.host.unsig q = 0)))

/-- Functions and windows: a function-level reset ends its commands and stops its contexts; a hot reset does so for every function; a link that goes
down stops no context; a DMA or BAR2 window commits; a BAR2 access reaches DRAM through an enabled window, and is denied otherwise
(R268, R271, R272, R287, R288, R293, R299). -/
def Obligations.FunctionsAndWindowsWork : Prop :=
  ∀ (s : State),
    let d := s.dev
    (∀ p : Fin 12, s.runs (.functionLevelReset p) (fun d' => d'.bit (Dev.fnKey (p.val + 1) Reg.host_EVENTS) 5 = true ∧
      (∀ x ∈ d'.host.inflight, d.qFn x.cmd.sq ≠ p.val + 1) ∧ ∀ e c, e < 64 → d.engCtx e = some c → d.ctxState c = 3 → d.ctxRecOwner c = some p.val → d'.ctxState c = 2)) ∧
    (s.runs .hotReset (fun d' => d'.host.vfEnable = false ∧ d'.bit (Dev.fnKey 0 Reg.host_EVENTS) 5 = true)) ∧
    (s.runs .linkDown (fun d' => d'.host.linkUp = false ∧ d'.host.inflight = [] ∧ d'.host.cqes = [] ∧ d'.ctx = d.ctx ∧ d'.launches = d.launches)) ∧
    (∀ sp w, s.runs (.pcieLinkUp sp w) (fun d' => d'.host = { d.host with linkUp := true } ∧ d'.fld Reg.host_STATUS 21 3 = sp ∧
      d'.fld Reg.host_STATUS 24 3 = min w.val d.host.maxWidth)) ∧
    (∀ en n, s.runs (.vfEnable en n) (fun d' => d' = { d with host := { d.host with vfEnable := en, numVFs := n } })) ∧
    (∀ (fn : Fn) (w : Fin 16) (v : Word),
      let a := Dev.fnKey fn (Reg.dmaw_BASE_LO w)
      let b := Dev.fnKey fn (Reg.host_BAR2_WIN_LO w)
      let lo := ((SMap.get none d.stage b).getD (d.rd b)).toNat
      (d.answers fn (Reg.dmaw_CTL w) (Dev.fnOwner fn) → s.runs (.dmaWindowWrite fn w v) (fun d' =>
        SMap.get (0, 0, 0) d'.host.dmaw (fn.val * 16 + w.val) = (d.rd64 a / 4096, d.rdN (a + 8), v.toNat % 8) ∧
        ∀ k, k ≠ fn.val * 16 + w.val → SMap.get (0, 0, 0) d'.host.dmaw k = SMap.get (0, 0, 0) d.host.dmaw k)) ∧
      (d.answers fn (Reg.host_BAR2_WIN_HI w) (Dev.fnOwner fn) → s.runs (.bar2WindowWrite fn w v) (fun d' =>
        d'.rdN b = lo / 4096 * 4096 + lo % 2 ∧ d'.rdN (b + 4) = v.toNat % 2^9 ∧ d'.dram = d.dram))) ∧
    (∀ (fn : Fn) (off : BitVec 36) (len : Fin 4097) (data : List Byte), d.barAwake = true →
      let w := off.toNat / 2^32
      let b := Dev.fnKey fn (Reg.host_BAR2_WIN_LO w)
      let a := d.rdN b / 4096 * 4096 + d.rdN (b + 4) % 2^9 * 2^32 + off.toNat % 2^32
      let open_ (k : Nat) : Prop := d.bit b 0 = true ∧ d.corrupt b 8 = false ∧ off.toNat % 2^32 + k ≤ 2^32 ∧ d.dramRegion (Dev.fnOwner fn) a k = true
      (open_ len → d.dramDown = false → d.badCw = [] → d.stallsAt a len = false → s.runs (.bar2Read fn off len) (fun d' =>
        d'.host = { d.host with bar2Out := d.dramRead a len } ∧ d'.dram = d.dram)) ∧
      (open_ data.length → d.dramDown = false → d.badCw = [] → d.stallsAt a data.length = false → s.runs (.bar2Write fn off data) (fun d' =>
        d'.dramRead a data.length = data ∧ ∀ x, (x < a ∨ a + data.length ≤ x) → d'.dramByte x = d.dramByte x)) ∧
      (¬ open_ len → s.runs (.bar2Read fn off len) (fun d' => d'.host.bar2Out = List.replicate len 0 ∧ d'.dram = d.dram ∧
        d'.bit (Dev.fnKey fn Reg.host_EVENTS) 1 = true ∧ d'.rdN (Dev.fnKey fn Reg.host_BAR2_DENY_CNT) = min (2^32 - 1) (d.rdN (Dev.fnKey fn Reg.host_BAR2_DENY_CNT) + 1))) ∧
      (¬ open_ data.length → s.runs (.bar2Write fn off data) (fun d' => d'.dram = d.dram ∧ d'.bit (Dev.fnKey fn Reg.host_EVENTS) 1 = true)))

/-! ## Registers, the management port and faults (chapters 1, 15 and 16) -/

/-- Host accesses to registers: a write stores the bytes its enables name, a masked alias the bits of its mask, and a read returns the bytes its enables name;
a clearing write with the current SEQ clears the flags written as 1 and leaves the others, and one with a stale SEQ is counted and changes nothing; an
access where no register lies is counted; in STANDBY nothing answers (R5 to R7, R411, R413, R414, R418, R420, R423). -/
def Obligations.RegistersTakeWrites : Prop :=
  ∀ (s : State) (fn : Fn),
    let d := s.dev
    let glob := d.corrupt 0 0x100 || d.corrupt (Dev.fnKey fn 0) 0x100
    d.bit Reg.sec_BOOT_CTL 0 = false → d.bit Reg.sec_BOOT_CTL 1 = false → d.bit Reg.sec_TOKEN_CTL 0 = false →
    (∀ (r : Fin 4) (v : Word), d.standby = false →
      let at_ := 0x80 + 4 * r.val
      let k := Dev.fnKey fn (Reg.glob_SCRATCH r)
      let old : Word := if glob then 0 else d.rd k
      let others (d' : Dev) : Prop := (∀ a, a ≠ k → d'.rd a = d.rd a) ∧ d.sameMemory d'
      (∀ be : BitVec 4, s.runs (.registerWrite fn (BitVec.ofNat 28 at_) (.write be) v) (fun d' => others d' ∧
        ∀ i < 32, (d'.rd k).getLsbD i = if be.getLsbD (i / 8) then v.getLsbD i else old.getLsbD i)) ∧
      (∀ be : BitVec 4, SMap.get none d.latch k = none → s.runs (.registerWrite fn (BitVec.ofNat 28 at_) (.read be) v) (fun d' =>
        d' = { d with host := { d.host with barOut := d'.host.barOut } } ∧
        ∀ i < 32, d'.host.barOut.getLsbD i = (be.getLsbD (i / 8) && old.getLsbD i))) ∧
      s.runs (.maskedWrite fn (BitVec.ofNat 28 (at_ + 0x4000000)) v) (fun d' => others d' ∧
        ∀ i < 32, (d'.rd k).getLsbD i = if i < 16 ∧ v.getLsbD (16 + i) = true then v.getLsbD i else old.getLsbD i) ∧
      s.runs (.maskedWrite fn (BitVec.ofNat 28 (at_ + 0x8000000)) v) (fun d' => others d' ∧
        ∀ i < 32, (d'.rd k).getLsbD i = if 16 ≤ i ∧ v.getLsbD i = true then v.getLsbD (i - 16) else old.getLsbD i)) ∧
    (∀ (off : BitVec 28) (v : Word) (b : Block) (i r : Nat) (x : RegRow), d.standby = false →
      let a := off.toNat
      let k := if Dev.perFn b r then Dev.fnKey fn a else a
      a % 4 = 0 → a < 0x4000000 → locate a = some (b, i, r) → regRow a = some x → x.rsq ≠ 0 → (d.vis b i r).sees fn = true → d.awake a = true →
      (v.toNat / 2^24 = d.rdN k / 2^24 → s.runs (.clearingWrite fn off v) (fun d' =>
        d'.rd k = d.rd k &&& ~~~ (v &&& 0x00FFFFFF#32) ∧ d.sameMemory d' ∧
        ∀ y, y ≠ k → y ≠ Reg.time_LATE_MAX → (b = .chn → y ≠ Reg.chn_SAFE_CTL i) → d'.rd y = d.rd y)) ∧
      (v.toNat / 2^24 ≠ d.rdN k / 2^24 → s.runs (.clearingWrite fn off v) (fun d' =>
        (k ≠ Dev.fnKey fn Reg.glob_ACC_EVENTS → d'.rd k = d.rd k) ∧ d.sameMemory d' ∧
        d'.rdN (Dev.fnKey fn Reg.glob_STALE_CLR_CNT) = min (2^32 - 1) (d.rdN (Dev.fnKey fn Reg.glob_STALE_CLR_CNT) + 1)))) ∧
    (∀ (off : BitVec 28) (be : BitVec 4) (v : Word),
      (d.standby = false → regRow (off.toNat / 4 * 4 % 0x4000000) = none → s.runs (.registerWrite fn off (.write be) v) (fun d' =>
        d.sameMemory d' ∧ d'.rdN (Dev.fnKey fn Reg.glob_ACCESS_ERR_CNT) = min (2^32 - 1) (d.rdN (Dev.fnKey fn Reg.glob_ACCESS_ERR_CNT) + 1))) ∧
      (d.standby = true →
        (∀ i ∈ [Instr.registerWrite fn off (.write be) v, .clearingWrite fn off v, .maskedWrite fn off v], s.runs i (fun d' => d' = d)) ∧
        s.runs (.registerWrite fn off (.read be) v) (fun d' => d' = { d with host := { d.host with barOut := 0 } })))

/-- Parity, acknowledgement and the management port: a mismatch is known, counted and flagged once; an ACK that matches the head record of a fault
queue removes it, and any other changes no queue; the port reads SEC as zero, writes SCRATCH and PWR only, and wakes the device where
PWR.WAKE allows it (R422, R423, R433, R451). -/
def Obligations.ScrubAcknowledgeAndManage : Prop :=
  ∀ (s : State),
    let d := s.dev
    (∀ (fn : Fn) (off : BitVec 28) (lanes : BitVec 4) (b : Block) (i r : Nat) (x : RegRow),
      let a := off.toNat
      let k := if Dev.perFn b r then Dev.fnKey fn a else a
      let known := SMap.get 0 d.parity k
      a % 4 = 0 → locate a = some (b, i, r) → regRow a = some x → hasParity b r x = true → lanes ≠ 0 →
      (known ≠ 0 → s.runs (.parityScrub ⟨fn, off⟩ lanes) (fun d' => SMap.get 0 d'.parity k = known ||| lanes.toNat ∧ d' = { d with parity := d'.parity })) ∧
      (known = 0 → s.runs (.parityScrub ⟨fn, off⟩ lanes) (fun d' => SMap.get 0 d'.parity k = lanes.toNat ∧ d'.bit Reg.glob_ACC_EVENTS 6 = true ∧
        d'.rdN Reg.glob_PARITY_CNT = min (2^32 - 1) (d.rdN Reg.glob_PARITY_CNT + 1)))) ∧
    (∀ (c : Fin 14) (v : Word), d.answers 0 (Reg.faultQ_ACK c) none →
      (∀ r rest, d.faultQ c = r :: rest → v.toNat % 2^16 = r.id → v.toNat / 2^16 % 2^8 = r.also → s.runs (.ack c v) (fun d' =>
        d'.faultQ c = rest ∧ (d'.bit Reg.fault_STATUS c = !rest.isEmpty) ∧ (∀ k, k ≠ c.val → d'.faultQ k = d.faultQ k))) ∧
      ((∀ r rest, d.faultQ c = r :: rest → ¬ (v.toNat % 2^16 = r.id ∧ v.toNat / 2^16 % 2^8 = r.also)) → s.runs (.ack c v) (fun d' =>
        d'.faults = d.faults ∧ d'.bit Reg.fault_EVENTS 3 = true))) ∧
    (∀ (off : BitVec 28) (v : Word),
      let a := off.toNat / 4 * 4
      (∀ i r, locate a = some (.sec, i, r) → s.runs (.mgmtRead (.reg off)) (fun d' => d' = d.mgmtSays 0 false)) ∧
      (s.runs (.mgmtRead (.early off)) (fun d' => d'.host = (d.mgmtSays d.host.mgmtOut true).host)) ∧
      (mgmtMay a = false → s.runs (.mgmtWrite off v) (fun d' => d' = d.mgmtSays d.host.mgmtOut true)) ∧
      (∀ r : Fin 4, d.standby = false → a = Reg.glob_SCRATCH r →
        (SMap.get none d.latch (Dev.fnKey 14 a) = none → d.corrupt 0 0x100 = false → s.runs (.mgmtRead (.reg off)) (fun d' => d' = d.mgmtSays (d.rdN a) false)) ∧
        s.runs (.mgmtWrite off v) (fun d' => d'.rd a = v ∧ (∀ k, k ≠ a → d'.rd k = d.rd k) ∧ d'.host.mgmtNack = false))) ∧
    (∀ x : BitVec 7, s.runs (.mgmtRead (.setAddress x)) (fun d' => d' = { d with host := { d.host with mgmtDyn := some x, mgmtNack := false } })) ∧
    (∀ x, s.runs (.mgmtRead (.other x)) (fun d' => d' = d.mgmtSays d.host.mgmtOut true)) ∧
    (bitsOf (d.pwrNow Reg.pwr_WAKE) 16 1 = 1 → s.runs .mgmtWake (fun d' => d'.standby = false ∧ d'.host.mgmtNack = false)) ∧
    (bitsOf (d.pwrNow Reg.pwr_WAKE) 16 1 = 0 → s.runs .mgmtWake (fun d' => d' = d.mgmtSays d.host.mgmtOut true))

/-! ## The whole block -/

/-- A step takes the command at the front of the queue and carries it out with the queue's rest, and every command completes in every state:
it answers a next state with the queue's rest, but for a DRAM_REQUEST, of which the rules of R383 and R386 decide. On an empty queue one tick
passes, which is the model's choice (log entry 4): nothing is refused, the guard and the fuses stay, and device time in RUN grows by 16. -/
def Obligations.StepTakesTheFront : Prop :=
  (∀ (c : Instr) (s : State), step { s with pending := c :: s.pending } = exec c s) ∧
  (∀ (c : Instr) (s : State), (∀ p g len w h data ns, c ≠ .dramRequest p g len w h data ns) → ∃ t, exec c s = .next t ∧ t.pending = s.pending) ∧
  (∀ s : State, s.pending = [] → ∃ t, step s = .next t ∧ s.sameTrust t ∧
    (s.dev.timeState = 2 → t.dev.time.now = s.dev.time.now + 16))

/-- What reset leaves: every register reads as its table gives it; no time, no launch, no claim, no command; every channel is OFF and every engine
idle; every memory reads as zero; and the guard keeps its promises. A value that no rule states is the model's choice: the guard's registers
(log entry 6), bookkeeping fields (log entry 68) and what unwritten memory reads as (log entry 12). -/
def Obligations.ResetIsAsStated : Prop :=
  let s := State.reset
  let d := s.dev
  s.pending = [] ∧ s.guard.sound ∧ (∀ a, d.rd a = regReset a ∧ d.held a = false ∧ d.corrupt a 4 = false) ∧
  d.rd Reg.glob_ID = 0x9600B100#32 ∧ d.timeState = 0 ∧ d.timeValid = false ∧ d.launches = [] ∧ d.faults = [] ∧ d.host.inflight = [] ∧ d.host.cqes = [] ∧
  (∀ n < 96, d.chMode n = 0 ∧ d.isClaimed n = false) ∧ (∀ e < 64, d.engCtx e = none) ∧
  (∀ a, d.dramByte a = 0 ∧ d.entryAt a = 0 ∧ SMap.get 0 d.env a = 0 ∧ SMap.get 0 d.sc a = 0 ∧ SMap.get 0 d.mailbox a = 0) ∧ ∀ c, d.ctxState c = 0

/-- What commands leave alone: each answers a next state in which the device differs in no more than the parts named, in every state and for
every operand; the guard and the fuses stay. -/
def Obligations.CommandsKeepTheirFrames : Prop :=
  ∀ (s : State) (e : Fin 64) (ch : Fin 96) (f : Fin 32) (n : Fin 256) (m : Fin 8) (t : Fin 6) (p : Fin 2) (g : LinkFrame) (fn : Fn) (q : Fin 64) (v : Word) (ecc : BankEcc)
      (w : Fin 16) (off : BitVec 14) (off' : BitVec 16) (data : List Byte) (rs : List Int) (b b2 b3 : Bool) (sp : Fin 6) (wd : Fin 5)
      (nv : Fin 13),
    let d := s.dev
    (∀ i ∈ [Instr.halt e, .play ⟨e, ecc⟩, .gap e, .loop e, .next e, .br e, .reg e, .frame e, .mark e, .event e, .tset e, .switch e, .nopEntry e],
      s.runs i (fun d' => d.sameMemory d' ∧ d'.time = d.time ∧ d'.frames = d.frames ∧ d'.tin = d.tin ∧ d'.clk = d.clk ∧ d'.dmc = d.dmc ∧ d'.cap = d.cap)) ∧
    (∀ i ∈ [Instr.setf ch f, .setp ch f, .addp ch f, .setc ch f, .choff ch f, .init ch f], s.runs i (fun d' =>
      d' = { d with chan := d'.chan, frames := d'.frames, inforce := d'.inforce, regs := d'.regs })) ∧
    (∀ i ∈ [Instr.selfRefreshIdle m, .tileState t, .watchdogService], s.runs i (fun d' => d' = { d with regs := d'.regs })) ∧
    (s.runs (.zqCalibration m) (fun d' => d' = d)) ∧
    (∀ i ∈ [Instr.apply v, .applyCancel v, .refSwap v, .xpllBypass], s.runs i (fun d' => d' = { d with clk := d'.clk, parity := d'.parity, accKept := d'.accKept, regs := d'.regs })) ∧
    (∀ i ∈ [Instr.temperatureUpdate t rs, .trimStep t, .run t, .runDone t () (), .freeze t v, .rotationSwap ch], s.runs i (fun d' =>
      d' = { d with calT := d'.calT, chan := d'.chan, ec := d'.ec, parity := d'.parity, accKept := d'.accKept, regs := d'.regs })) ∧
    (∀ i ∈ [Instr.unstampedPost fn off data, .stampedPost fn off' data, .doorbell fn v, .refreshDue m], s.runs i (fun d' =>
      d' = { d with ec := d'.ec, parity := d'.parity, accKept := d'.accKept, regs := d'.regs })) ∧
    (∀ i ∈ [Instr.abort t, .xpllLock], s.runs i (fun d' => d'.prog = d.prog ∧ d'.env = d.env ∧ d'.bank = d.bank ∧ d'.hostMem = d.hostMem ∧
      d'.flash = d.flash ∧ d'.mailbox = d.mailbox ∧ d'.time = d.time ∧ d'.frames = d.frames ∧ d'.calT = d.calT)) ∧
    (∀ i ∈ [Instr.portUp p ⟨b, b2, b3⟩, .echo p, .crcError p, .echoReq p g, .badType p g], s.runs i (fun d' => d' = { d with ports := d'.ports, regs := d'.regs })) ∧
    (∀ i ∈ [Instr.sqTail fn q v, .cqHead fn q v, .cqEnable fn q, .sqReset fn q, .cqInterrupt q b, .evtHoldoff fn, .dmaWindowWrite fn w v, .pcieLinkUp sp wd,
        .vfEnable b nv, .bar2WindowWrite fn w v], s.runs i (fun d' =>
      d' = { d with host := d'.host, parity := d'.parity, accKept := d'.accKept, stage := d'.stage, regs := d'.regs })) ∧
    (∀ i ∈ [Instr.passStart ch, .segEnd ch, .holdRel fn ch, .settleEnd ch, .frCmd fn ch v], s.runs i (fun d' =>
      d' = { d with chan := d'.chan, ec := d'.ec, inforce := d'.inforce, parity := d'.parity, accKept := d'.accKept, arrCtr := d'.arrCtr, regs := d'.regs })) ∧
    (s.runs .backgroundWipe (fun d' => d' = { d with dram := d'.dram, badCw := d'.badCw, wiped := d'.wiped, dmc := d'.dmc, regs := d'.regs })) ∧
    (s.runs (.ecApply n) (fun d' => d' = { d with inforce := d'.inforce, regs := d'.regs }))

/-- Every step keeps what trust rests on: fuses only advance (R316, R317), and a guard that keeps its promises keeps them: working limits within
their seals, SAFE_CODE within the sealed clamp, GAP at least its seal (R187, R194, R227). -/
def Obligations.EveryStepKeepsTheTrust : Prop :=
  ∀ (s t : State), step s = .next t → s.fuses.onlyAdvance t.fuses ∧ (s.guard.sound → t.guard.sound)
end

