-- ==== Sys2Proof/Laws/Sparse.lean ====
section
/-! SUPPORT. Sparse maps: what a read sees after a change, and that every change keeps the canonical form. -/
namespace Sys2Proof.Machine.SMap
variable {α : Type}

@[simp] theorem get_nil (d : α) (k : Nat) : get d [] k = d := rfl

theorem get_cons (d : α) (p : Nat × α) (m : SMap α) (k : Nat) : get d (p :: m) k = if p.1 = k then p.2 else get d m k := by
  unfold get; by_cases h : p.1 = k <;> simp [h]

theorem get_erase_same (d : α) (m : SMap α) (k : Nat) : get d (erase m k) k = d := by
  induction m with
  | nil => rfl
  | cons p r ih =>
    by_cases h : p.1 = k
    · simpa [erase, h] using ih
    · have : erase (p :: r) k = p :: erase r k := by simp [erase, h]
      rw [this, get_cons, if_neg h, ih]

theorem get_erase_ne (d : α) (m : SMap α) {k j : Nat} (h : j ≠ k) : get d (erase m k) j = get d m j := by
  induction m with
  | nil => rfl
  | cons p r ih =>
    by_cases hp : p.1 = k
    · have : erase (p :: r) k = erase r k := by simp [erase, hp]
      rw [this, ih, get_cons, if_neg (by omega)]
    · have : erase (p :: r) k = p :: erase r k := by simp [erase, hp]
      rw [this, get_cons, get_cons, ih]

/-- Sorted keys, as a proposition about the head and the tail. -/
theorem sorted_cons (p : Nat × α) (m : SMap α) :
    sorted (p :: m) = true ↔ (∀ q ∈ m, p.1 < q.1) ∧ sorted m = true := by
  induction m generalizing p with
  | nil => simp [sorted]
  | cons q r ih =>
    have h1 : sorted (p :: q :: r) = (decide (p.1 < q.1) && sorted (q :: r)) := rfl
    rw [h1, Bool.and_eq_true, decide_eq_true_iff]
    constructor
    · rintro ⟨h, hs⟩
      refine ⟨?_, hs⟩
      intro x hx
      rcases List.mem_cons.1 hx with rfl | hx
      · exact h
      · exact lt_trans h (((ih q).1 hs).1 x hx)
    · rintro ⟨h, hs⟩
      exact ⟨h q (List.mem_cons_self ..), hs⟩

theorem sorted_filter (f : Nat × α → Bool) (m : SMap α) (h : sorted m = true) : sorted (m.filter f) = true := by
  induction m with
  | nil => rfl
  | cons p r ih =>
    obtain ⟨h1, h2⟩ := (sorted_cons p r).1 h
    by_cases hp : f p
    · rw [List.filter_cons_of_pos hp]
      exact (sorted_cons _ _).2 ⟨fun q hq => h1 q (List.mem_filter.1 hq).1, ih h2⟩
    · rw [List.filter_cons_of_neg hp]; exact ih h2

theorem sorted_map (f : Nat → α → α) (m : SMap α) (h : sorted m = true) :
    sorted (m.map (fun p => (p.1, f p.1 p.2))) = true := by
  induction m with
  | nil => rfl
  | cons p r ih =>
    obtain ⟨h1, h2⟩ := (sorted_cons p r).1 h
    rw [List.map_cons]
    refine (sorted_cons _ _).2 ⟨?_, ih h2⟩
    intro q hq
    obtain ⟨x, hx, rfl⟩ := List.mem_map.1 hq
    exact h1 x hx

theorem mem_ins (m : SMap α) (k : Nat) (v : α) (q : Nat × α) (h : q ∈ ins m k v) : q = (k, v) ∨ q ∈ m := by
  induction m with
  | nil => simpa [ins] using h
  | cons p r ih =>
    unfold ins at h
    split at h
    · simpa using h
    · rcases List.mem_cons.1 h with rfl | h
      · simp
      · rcases ih h with h | h <;> simp [h]

theorem sorted_ins (m : SMap α) (k : Nat) (v : α) (h : sorted m = true) (hk : ∀ q ∈ m, q.1 ≠ k) :
    sorted (ins m k v) = true := by
  induction m with
  | nil => rfl
  | cons p r ih =>
    obtain ⟨h1, h2⟩ := (sorted_cons p r).1 h
    unfold ins
    split
    · rename_i hlt
      refine (sorted_cons _ _).2 ⟨?_, h⟩
      intro q hq
      rcases List.mem_cons.1 hq with rfl | hq
      · exact hlt
      · exact lt_trans hlt (h1 q hq)
    · rename_i hlt
      refine (sorted_cons _ _).2 ⟨?_, ih h2 (fun q hq => hk q (List.mem_cons_of_mem _ hq))⟩
      intro q hq
      rcases mem_ins r k v q hq with rfl | hq
      · have := hk p (List.mem_cons_self ..); simp only; omega
      · exact h1 q hq

theorem get_ins (d : α) (m : SMap α) (k : Nat) (v : α) (j : Nat) (hk : ∀ q ∈ m, q.1 ≠ k) :
    get d (ins m k v) j = if k = j then v else get d m j := by
  induction m with
  | nil => rw [ins, get_cons]
  | cons p r ih =>
    have hp := hk p (List.mem_cons_self ..)
    unfold ins
    split
    · rw [get_cons]
    · rw [get_cons, ih (fun q hq => hk q (List.mem_cons_of_mem _ hq)), get_cons]
      by_cases h : k = j
      · subst h; simp [hp]
      · simp [h]

theorem erase_no (m : SMap α) (k : Nat) (q : Nat × α) (h : q ∈ erase m k) : q.1 ≠ k := by
  have := (List.mem_filter.1 h).2; simpa using this

/-- What a read sees after a write. -/
theorem get_set [DecidableEq α] (d d' : α) (m : SMap α) (k j : Nat) (v : α) (hd : k = j → d' = d) :
    get d (set d' m k v) j = if k = j then v else get d m j := by
  unfold set
  by_cases h : k = j
  · subst h; rw [hd rfl]
    split
    · next hv => simp [get_erase_same, hv]
    · rw [get_ins _ _ _ _ _ (erase_no m k)]; simp
  · rw [if_neg h]
    split
    · exact get_erase_ne d m (Ne.symm h)
    · rw [get_ins _ _ _ _ _ (erase_no m k), if_neg h]; exact get_erase_ne d m (Ne.symm h)

@[simp] theorem get_set_same [DecidableEq α] (d : α) (m : SMap α) (k : Nat) (v : α) : get d (set d m k v) k = v := by
  rw [get_set d d m k k v (fun _ => rfl), if_pos rfl]

theorem get_set_ne [DecidableEq α] (d d' : α) (m : SMap α) {k j : Nat} (v : α) (h : k ≠ j) :
    get d (set d' m k v) j = get d m j := by
  rw [get_set d d' m k j v (fun e => absurd e h), if_neg h]

@[simp] theorem get_upd_same [DecidableEq α] (d : α) (m : SMap α) (k : Nat) (f : α → α) :
    get d (upd d m k f) k = f (get d m k) := get_set_same ..

theorem get_upd_ne [DecidableEq α] (d : α) (m : SMap α) {k j : Nat} (f : α → α) (h : k ≠ j) :
    get d (upd d m k f) j = get d m j := get_set_ne _ _ _ _ h

/-! ## The canonical form -/

theorem wf_iff [DecidableEq α] (d : Nat → α) (m : SMap α) :
    wf d m = true ↔ sorted m = true ∧ ∀ p ∈ m, p.2 ≠ d p.1 := by
  simp [wf, List.all_eq_true]

theorem wf_nil [DecidableEq α] (d : Nat → α) : wf d [] = true := rfl

theorem wf_filter [DecidableEq α] (d : Nat → α) (f : Nat × α → Bool) (m : SMap α) (h : wf d m = true) :
    wf d (m.filter f) = true := by
  obtain ⟨h1, h2⟩ := (wf_iff d m).1 h
  exact (wf_iff _ _).2 ⟨sorted_filter f m h1, fun p hp => h2 p (List.mem_filter.1 hp).1⟩

theorem wf_erase [DecidableEq α] (d : Nat → α) (m : SMap α) (k : Nat) (h : wf d m = true) : wf d (erase m k) = true :=
  wf_filter d _ m h

/-- A write keeps the canonical form. -/
theorem wf_set [DecidableEq α] (d : Nat → α) (m : SMap α) (k : Nat) (v : α) (h : wf d m = true) :
    wf d (set (d k) m k v) = true := by
  unfold set
  split
  · exact wf_erase d m k h
  · next hv =>
    obtain ⟨h1, h2⟩ := (wf_iff d _).1 (wf_erase d m k h)
    refine (wf_iff _ _).2 ⟨sorted_ins _ _ _ h1 (erase_no m k), fun p hp => ?_⟩
    rcases mem_ins _ _ _ _ hp with rfl | hp
    · exact hv
    · exact h2 p hp

theorem wf_upd [DecidableEq α] (d : α) (m : SMap α) (k : Nat) (f : α → α) (h : wf (fun _ => d) m = true) :
    wf (fun _ => d) (upd d m k f) = true := wf_set (fun _ => d) m k _ h

theorem wf_mapVals [DecidableEq α] (d : α) (m : SMap α) (f : Nat → α → α) (h : wf (fun _ => d) m = true) :
    wf (fun _ => d) (mapVals d m f) = true := by
  obtain ⟨h1, _⟩ := (wf_iff _ m).1 h
  refine (wf_iff _ _).2 ⟨sorted_filter _ _ (sorted_map f m h1), fun p hp => ?_⟩
  simpa using (List.mem_filter.1 hp).2

theorem wf_store (d : Byte) (m : SMap Byte) (a : Nat) (bs : List Byte) (h : wf (fun _ => d) m = true) :
    wf (fun _ => d) (store d m a bs) = true := by
  induction bs generalizing m a with
  | nil => exact h
  | cons b r ih => exact ih _ _ (wf_set (fun _ => d) m a b h)

/-! ## Storing bytes -/

/-- A store leaves every byte outside its range. -/
theorem get_store_out (d : Byte) (m : SMap Byte) (a : Nat) (bs : List Byte) (j : Nat) (h : j < a ∨ a + bs.length ≤ j) :
    get d (store d m a bs) j = get d m j := by
  induction bs generalizing m a with
  | nil => rfl
  | cons b r ih =>
    simp only [List.length_cons] at h
    rw [store, ih _ _ (by omega), get_set_ne _ _ _ _ (by omega)]

/-- A store puts byte `i` of its data at `a + i`. -/
theorem get_store_in (d : Byte) (m : SMap Byte) (a : Nat) (bs : List Byte) (i : Nat) (h : i < bs.length) :
    get d (store d m a bs) (a + i) = bs[i] := by
  induction bs generalizing m a i with
  | nil => simp at h
  | cons b r ih =>
    cases i with
    | zero => rw [store, get_store_out _ _ _ _ _ (by omega)]; simp
    | succ i =>
      rw [store, show a + (i + 1) = a + 1 + i by omega, ih _ _ _ (by simpa using h)]; simp

/-- The bytes of a store read back. -/
theorem bytes_store (d : Byte) (m : SMap Byte) (a : Nat) (bs : List Byte) : bytes d (store d m a bs) a bs.length = bs := by
  apply List.ext_getElem
  · simp [bytes]
  · intro i h1 h2
    simp only [bytes, List.getElem_map, List.getElem_range]
    exact get_store_in d m a bs i h2

/-- The bytes read back from within a store. -/
theorem bytes_store_in (d : Byte) (m : SMap Byte) (a : Nat) (bs : List Byte) (o k : Nat) (h : o + k ≤ bs.length) :
    bytes d (store d m a bs) (a + o) k = (bs.drop o).take k := by
  apply List.ext_getElem
  · simp [bytes]; omega
  · intro i h1 h2
    simp [bytes] at h1
    simp only [bytes, List.getElem_map, List.getElem_range, Nat.add_assoc]
    rw [get_store_in _ _ _ _ _ (by omega)]; simp

/-- A store leaves the bytes outside it. -/
theorem bytes_store_out (d : Byte) (m : SMap Byte) (a : Nat) (bs : List Byte) (o k : Nat) (h : o + k ≤ a ∨ a + bs.length ≤ o) :
    bytes d (store d m a bs) o k = bytes d m o k := by
  apply List.map_congr_left
  intro i hi
  simp at hi
  exact get_store_out _ _ _ _ _ (by omega)

end Sys2Proof.Machine.SMap
end

