-- ==== Sys2Proof/Laws/State.lean ====
section
/-! SUPPORT. One lemma per field per update: what an update of one piece of the device leaves as it was. No later proof
unfolds a record update. -/
namespace Sys2Proof.Machine.Dev

section wrFields
variable (d : Dev) (a : Nat) (v : Word)
@[simp] theorem wr_inforce : (d.wr a v).inforce = d.inforce := (show ∀ r, ({ d with regs := r } : Dev).inforce = d.inforce from fun _ => rfl) _
@[simp] theorem wr_latch : (d.wr a v).latch = d.latch := (show ∀ r, ({ d with regs := r } : Dev).latch = d.latch from fun _ => rfl) _
@[simp] theorem wr_stage : (d.wr a v).stage = d.stage := (show ∀ r, ({ d with regs := r } : Dev).stage = d.stage from fun _ => rfl) _
@[simp] theorem wr_parity : (d.wr a v).parity = d.parity := (show ∀ r, ({ d with regs := r } : Dev).parity = d.parity from fun _ => rfl) _
@[simp] theorem wr_freeCtr : (d.wr a v).freeCtr = d.freeCtr := (show ∀ r, ({ d with regs := r } : Dev).freeCtr = d.freeCtr from fun _ => rfl) _
@[simp] theorem wr_time : (d.wr a v).time = d.time := (show ∀ r, ({ d with regs := r } : Dev).time = d.time from fun _ => rfl) _
@[simp] theorem wr_ports : (d.wr a v).ports = d.ports := (show ∀ r, ({ d with regs := r } : Dev).ports = d.ports from fun _ => rfl) _
@[simp] theorem wr_chan : (d.wr a v).chan = d.chan := (show ∀ r, ({ d with regs := r } : Dev).chan = d.chan from fun _ => rfl) _
@[simp] theorem wr_frames : (d.wr a v).frames = d.frames := (show ∀ r, ({ d with regs := r } : Dev).frames = d.frames from fun _ => rfl) _
@[simp] theorem wr_launches : (d.wr a v).launches = d.launches := (show ∀ r, ({ d with regs := r } : Dev).launches = d.launches from fun _ => rfl) _
@[simp] theorem wr_edges : (d.wr a v).edges = d.edges := (show ∀ r, ({ d with regs := r } : Dev).edges = d.edges from fun _ => rfl) _
@[simp] theorem wr_mkLine : (d.wr a v).mkLine = d.mkLine := (show ∀ r, ({ d with regs := r } : Dev).mkLine = d.mkLine from fun _ => rfl) _
@[simp] theorem wr_eng : (d.wr a v).eng = d.eng := (show ∀ r, ({ d with regs := r } : Dev).eng = d.eng from fun _ => rfl) _
@[simp] theorem wr_ei : (d.wr a v).ei = d.ei := (show ∀ r, ({ d with regs := r } : Dev).ei = d.ei from fun _ => rfl) _
@[simp] theorem wr_ec : (d.wr a v).ec = d.ec := (show ∀ r, ({ d with regs := r } : Dev).ec = d.ec from fun _ => rfl) _
@[simp] theorem wr_tin : (d.wr a v).tin = d.tin := (show ∀ r, ({ d with regs := r } : Dev).tin = d.tin from fun _ => rfl) _
@[simp] theorem wr_grp : (d.wr a v).grp = d.grp := (show ∀ r, ({ d with regs := r } : Dev).grp = d.grp from fun _ => rfl) _
@[simp] theorem wr_tout : (d.wr a v).tout = d.tout := (show ∀ r, ({ d with regs := r } : Dev).tout = d.tout from fun _ => rfl) _
@[simp] theorem wr_ti : (d.wr a v).ti = d.ti := (show ∀ r, ({ d with regs := r } : Dev).ti = d.ti from fun _ => rfl) _
@[simp] theorem wr_cap : (d.wr a v).cap = d.cap := (show ∀ r, ({ d with regs := r } : Dev).cap = d.cap from fun _ => rfl) _
@[simp] theorem wr_prog : (d.wr a v).prog = d.prog := (show ∀ r, ({ d with regs := r } : Dev).prog = d.prog from fun _ => rfl) _
@[simp] theorem wr_ctx : (d.wr a v).ctx = d.ctx := (show ∀ r, ({ d with regs := r } : Dev).ctx = d.ctx from fun _ => rfl) _
@[simp] theorem wr_env : (d.wr a v).env = d.env := (show ∀ r, ({ d with regs := r } : Dev).env = d.env from fun _ => rfl) _
@[simp] theorem wr_bank : (d.wr a v).bank = d.bank := (show ∀ r, ({ d with regs := r } : Dev).bank = d.bank from fun _ => rfl) _
@[simp] theorem wr_sc : (d.wr a v).sc = d.sc := (show ∀ r, ({ d with regs := r } : Dev).sc = d.sc from fun _ => rfl) _
@[simp] theorem wr_capBuf : (d.wr a v).capBuf = d.capBuf := (show ∀ r, ({ d with regs := r } : Dev).capBuf = d.capBuf from fun _ => rfl) _
@[simp] theorem wr_mailbox : (d.wr a v).mailbox = d.mailbox := (show ∀ r, ({ d with regs := r } : Dev).mailbox = d.mailbox from fun _ => rfl) _
@[simp] theorem wr_dram : (d.wr a v).dram = d.dram := (show ∀ r, ({ d with regs := r } : Dev).dram = d.dram from fun _ => rfl) _
@[simp] theorem wr_wiped : (d.wr a v).wiped = d.wiped := (show ∀ r, ({ d with regs := r } : Dev).wiped = d.wiped from fun _ => rfl) _
@[simp] theorem wr_badCw : (d.wr a v).badCw = d.badCw := (show ∀ r, ({ d with regs := r } : Dev).badCw = d.badCw from fun _ => rfl) _
@[simp] theorem wr_mm : (d.wr a v).mm = d.mm := (show ∀ r, ({ d with regs := r } : Dev).mm = d.mm from fun _ => rfl) _
@[simp] theorem wr_ptab : (d.wr a v).ptab = d.ptab := (show ∀ r, ({ d with regs := r } : Dev).ptab = d.ptab from fun _ => rfl) _
@[simp] theorem wr_limH : (d.wr a v).limH = d.limH := (show ∀ r, ({ d with regs := r } : Dev).limH = d.limH from fun _ => rfl) _
@[simp] theorem wr_wdtMs : (d.wr a v).wdtMs = d.wdtMs := (show ∀ r, ({ d with regs := r } : Dev).wdtMs = d.wdtMs from fun _ => rfl) _
@[simp] theorem wr_normalRefresh : (d.wr a v).normalRefresh = d.normalRefresh := (show ∀ r, ({ d with regs := r } : Dev).normalRefresh = d.normalRefresh from fun _ => rfl) _
@[simp] theorem wr_hostMem : (d.wr a v).hostMem = d.hostMem := (show ∀ r, ({ d with regs := r } : Dev).hostMem = d.hostMem from fun _ => rfl) _
@[simp] theorem wr_adm : (d.wr a v).adm = d.adm := (show ∀ r, ({ d with regs := r } : Dev).adm = d.adm from fun _ => rfl) _
@[simp] theorem wr_host : (d.wr a v).host = d.host := (show ∀ r, ({ d with regs := r } : Dev).host = d.host from fun _ => rfl) _
@[simp] theorem wr_faults : (d.wr a v).faults = d.faults := (show ∀ r, ({ d with regs := r } : Dev).faults = d.faults from fun _ => rfl) _
@[simp] theorem wr_faultId : (d.wr a v).faultId = d.faultId := (show ∀ r, ({ d with regs := r } : Dev).faultId = d.faultId from fun _ => rfl) _
@[simp] theorem wr_safePin : (d.wr a v).safePin = d.safePin := (show ∀ r, ({ d with regs := r } : Dev).safePin = d.safePin from fun _ => rfl) _
@[simp] theorem wr_therm : (d.wr a v).therm = d.therm := (show ∀ r, ({ d with regs := r } : Dev).therm = d.therm from fun _ => rfl) _
@[simp] theorem wr_extest : (d.wr a v).extest = d.extest := (show ∀ r, ({ d with regs := r } : Dev).extest = d.extest from fun _ => rfl) _
@[simp] theorem wr_loadnAt : (d.wr a v).loadnAt = d.loadnAt := (show ∀ r, ({ d with regs := r } : Dev).loadnAt = d.loadnAt from fun _ => rfl) _
@[simp] theorem wr_clk : (d.wr a v).clk = d.clk := (show ∀ r, ({ d with regs := r } : Dev).clk = d.clk from fun _ => rfl) _
@[simp] theorem wr_calT : (d.wr a v).calT = d.calT := (show ∀ r, ({ d with regs := r } : Dev).calT = d.calT from fun _ => rfl) _
@[simp] theorem wr_dmc : (d.wr a v).dmc = d.dmc := (show ∀ r, ({ d with regs := r } : Dev).dmc = d.dmc from fun _ => rfl) _
@[simp] theorem wr_moved : (d.wr a v).moved = d.moved := (show ∀ r, ({ d with regs := r } : Dev).moved = d.moved from fun _ => rfl) _
@[simp] theorem wr_frzN : (d.wr a v).frzN = d.frzN := (show ∀ r, ({ d with regs := r } : Dev).frzN = d.frzN from fun _ => rfl) _
@[simp] theorem wr_sec : (d.wr a v).sec = d.sec := (show ∀ r, ({ d with regs := r } : Dev).sec = d.sec from fun _ => rfl) _
@[simp] theorem wr_aon : (d.wr a v).aon = d.aon := (show ∀ r, ({ d with regs := r } : Dev).aon = d.aon from fun _ => rfl) _
@[simp] theorem wr_standby : (d.wr a v).standby = d.standby := (show ∀ r, ({ d with regs := r } : Dev).standby = d.standby from fun _ => rfl) _
@[simp] theorem wr_d3hot : (d.wr a v).d3hot = d.d3hot := (show ∀ r, ({ d with regs := r } : Dev).d3hot = d.d3hot from fun _ => rfl) _
@[simp] theorem wr_flash : (d.wr a v).flash = d.flash := (show ∀ r, ({ d with regs := r } : Dev).flash = d.flash from fun _ => rfl) _
@[simp] theorem wr_flashSize : (d.wr a v).flashSize = d.flashSize := (show ∀ r, ({ d with regs := r } : Dev).flashSize = d.flashSize from fun _ => rfl) _
@[simp] theorem wr_dimms : (d.wr a v).dimms = d.dimms := (show ∀ r, ({ d with regs := r } : Dev).dimms = d.dimms from fun _ => rfl) _
@[simp] theorem wr_descC : (d.wr a v).descC = d.descC := (show ∀ r, ({ d with regs := r } : Dev).descC = d.descC from fun _ => rfl) _
@[simp] theorem wr_arrCtr : (d.wr a v).arrCtr = d.arrCtr := (show ∀ r, ({ d with regs := r } : Dev).arrCtr = d.arrCtr from fun _ => rfl) _
@[simp] theorem wr_icache : (d.wr a v).icache = d.icache := (show ∀ r, ({ d with regs := r } : Dev).icache = d.icache from fun _ => rfl) _
@[simp] theorem wr_widthPin : (d.wr a v).widthPin = d.widthPin := (show ∀ r, ({ d with regs := r } : Dev).widthPin = d.widthPin from fun _ => rfl) _
@[simp] theorem wr_accKept : (d.wr a v).accKept = d.accKept := (show ∀ r, ({ d with regs := r } : Dev).accKept = d.accKept from fun _ => rfl) _
@[simp] theorem wr_safeEdge : (d.wr a v).safeEdge = d.safeEdge := (show ∀ r, ({ d with regs := r } : Dev).safeEdge = d.safeEdge from fun _ => rfl) _
@[simp] theorem wr_mgmtPin : (d.wr a v).mgmtPin = d.mgmtPin := (show ∀ r, ({ d with regs := r } : Dev).mgmtPin = d.mgmtPin from fun _ => rfl) _
end wrFields

section wrNFields
variable (d : Dev) (a n : Nat)
@[simp] theorem wrN_inforce : (d.wrN a n).inforce = d.inforce := wr_inforce d a (BitVec.ofNat 32 n)
@[simp] theorem wrN_latch : (d.wrN a n).latch = d.latch := wr_latch d a (BitVec.ofNat 32 n)
@[simp] theorem wrN_stage : (d.wrN a n).stage = d.stage := wr_stage d a (BitVec.ofNat 32 n)
@[simp] theorem wrN_parity : (d.wrN a n).parity = d.parity := wr_parity d a (BitVec.ofNat 32 n)
@[simp] theorem wrN_freeCtr : (d.wrN a n).freeCtr = d.freeCtr := wr_freeCtr d a (BitVec.ofNat 32 n)
@[simp] theorem wrN_time : (d.wrN a n).time = d.time := wr_time d a (BitVec.ofNat 32 n)
@[simp] theorem wrN_ports : (d.wrN a n).ports = d.ports := wr_ports d a (BitVec.ofNat 32 n)
@[simp] theorem wrN_chan : (d.wrN a n).chan = d.chan := wr_chan d a (BitVec.ofNat 32 n)
@[simp] theorem wrN_frames : (d.wrN a n).frames = d.frames := wr_frames d a (BitVec.ofNat 32 n)
@[simp] theorem wrN_launches : (d.wrN a n).launches = d.launches := wr_launches d a (BitVec.ofNat 32 n)
@[simp] theorem wrN_edges : (d.wrN a n).edges = d.edges := wr_edges d a (BitVec.ofNat 32 n)
@[simp] theorem wrN_mkLine : (d.wrN a n).mkLine = d.mkLine := wr_mkLine d a (BitVec.ofNat 32 n)
@[simp] theorem wrN_eng : (d.wrN a n).eng = d.eng := wr_eng d a (BitVec.ofNat 32 n)
@[simp] theorem wrN_ei : (d.wrN a n).ei = d.ei := wr_ei d a (BitVec.ofNat 32 n)
@[simp] theorem wrN_ec : (d.wrN a n).ec = d.ec := wr_ec d a (BitVec.ofNat 32 n)
@[simp] theorem wrN_tin : (d.wrN a n).tin = d.tin := wr_tin d a (BitVec.ofNat 32 n)
@[simp] theorem wrN_grp : (d.wrN a n).grp = d.grp := wr_grp d a (BitVec.ofNat 32 n)
@[simp] theorem wrN_tout : (d.wrN a n).tout = d.tout := wr_tout d a (BitVec.ofNat 32 n)
@[simp] theorem wrN_ti : (d.wrN a n).ti = d.ti := wr_ti d a (BitVec.ofNat 32 n)
@[simp] theorem wrN_cap : (d.wrN a n).cap = d.cap := wr_cap d a (BitVec.ofNat 32 n)
@[simp] theorem wrN_prog : (d.wrN a n).prog = d.prog := wr_prog d a (BitVec.ofNat 32 n)
@[simp] theorem wrN_ctx : (d.wrN a n).ctx = d.ctx := wr_ctx d a (BitVec.ofNat 32 n)
@[simp] theorem wrN_env : (d.wrN a n).env = d.env := wr_env d a (BitVec.ofNat 32 n)
@[simp] theorem wrN_bank : (d.wrN a n).bank = d.bank := wr_bank d a (BitVec.ofNat 32 n)
@[simp] theorem wrN_sc : (d.wrN a n).sc = d.sc := wr_sc d a (BitVec.ofNat 32 n)
@[simp] theorem wrN_capBuf : (d.wrN a n).capBuf = d.capBuf := wr_capBuf d a (BitVec.ofNat 32 n)
@[simp] theorem wrN_mailbox : (d.wrN a n).mailbox = d.mailbox := wr_mailbox d a (BitVec.ofNat 32 n)
@[simp] theorem wrN_dram : (d.wrN a n).dram = d.dram := wr_dram d a (BitVec.ofNat 32 n)
@[simp] theorem wrN_wiped : (d.wrN a n).wiped = d.wiped := wr_wiped d a (BitVec.ofNat 32 n)
@[simp] theorem wrN_badCw : (d.wrN a n).badCw = d.badCw := wr_badCw d a (BitVec.ofNat 32 n)
@[simp] theorem wrN_mm : (d.wrN a n).mm = d.mm := wr_mm d a (BitVec.ofNat 32 n)
@[simp] theorem wrN_ptab : (d.wrN a n).ptab = d.ptab := wr_ptab d a (BitVec.ofNat 32 n)
@[simp] theorem wrN_limH : (d.wrN a n).limH = d.limH := wr_limH d a (BitVec.ofNat 32 n)
@[simp] theorem wrN_wdtMs : (d.wrN a n).wdtMs = d.wdtMs := wr_wdtMs d a (BitVec.ofNat 32 n)
@[simp] theorem wrN_normalRefresh : (d.wrN a n).normalRefresh = d.normalRefresh := wr_normalRefresh d a (BitVec.ofNat 32 n)
@[simp] theorem wrN_hostMem : (d.wrN a n).hostMem = d.hostMem := wr_hostMem d a (BitVec.ofNat 32 n)
@[simp] theorem wrN_adm : (d.wrN a n).adm = d.adm := wr_adm d a (BitVec.ofNat 32 n)
@[simp] theorem wrN_host : (d.wrN a n).host = d.host := wr_host d a (BitVec.ofNat 32 n)
@[simp] theorem wrN_faults : (d.wrN a n).faults = d.faults := wr_faults d a (BitVec.ofNat 32 n)
@[simp] theorem wrN_faultId : (d.wrN a n).faultId = d.faultId := wr_faultId d a (BitVec.ofNat 32 n)
@[simp] theorem wrN_safePin : (d.wrN a n).safePin = d.safePin := wr_safePin d a (BitVec.ofNat 32 n)
@[simp] theorem wrN_therm : (d.wrN a n).therm = d.therm := wr_therm d a (BitVec.ofNat 32 n)
@[simp] theorem wrN_extest : (d.wrN a n).extest = d.extest := wr_extest d a (BitVec.ofNat 32 n)
@[simp] theorem wrN_loadnAt : (d.wrN a n).loadnAt = d.loadnAt := wr_loadnAt d a (BitVec.ofNat 32 n)
@[simp] theorem wrN_clk : (d.wrN a n).clk = d.clk := wr_clk d a (BitVec.ofNat 32 n)
@[simp] theorem wrN_calT : (d.wrN a n).calT = d.calT := wr_calT d a (BitVec.ofNat 32 n)
@[simp] theorem wrN_dmc : (d.wrN a n).dmc = d.dmc := wr_dmc d a (BitVec.ofNat 32 n)
@[simp] theorem wrN_moved : (d.wrN a n).moved = d.moved := wr_moved d a (BitVec.ofNat 32 n)
@[simp] theorem wrN_frzN : (d.wrN a n).frzN = d.frzN := wr_frzN d a (BitVec.ofNat 32 n)
@[simp] theorem wrN_sec : (d.wrN a n).sec = d.sec := wr_sec d a (BitVec.ofNat 32 n)
@[simp] theorem wrN_aon : (d.wrN a n).aon = d.aon := wr_aon d a (BitVec.ofNat 32 n)
@[simp] theorem wrN_standby : (d.wrN a n).standby = d.standby := wr_standby d a (BitVec.ofNat 32 n)
@[simp] theorem wrN_d3hot : (d.wrN a n).d3hot = d.d3hot := wr_d3hot d a (BitVec.ofNat 32 n)
@[simp] theorem wrN_flash : (d.wrN a n).flash = d.flash := wr_flash d a (BitVec.ofNat 32 n)
@[simp] theorem wrN_flashSize : (d.wrN a n).flashSize = d.flashSize := wr_flashSize d a (BitVec.ofNat 32 n)
@[simp] theorem wrN_dimms : (d.wrN a n).dimms = d.dimms := wr_dimms d a (BitVec.ofNat 32 n)
@[simp] theorem wrN_descC : (d.wrN a n).descC = d.descC := wr_descC d a (BitVec.ofNat 32 n)
@[simp] theorem wrN_arrCtr : (d.wrN a n).arrCtr = d.arrCtr := wr_arrCtr d a (BitVec.ofNat 32 n)
@[simp] theorem wrN_icache : (d.wrN a n).icache = d.icache := wr_icache d a (BitVec.ofNat 32 n)
@[simp] theorem wrN_widthPin : (d.wrN a n).widthPin = d.widthPin := wr_widthPin d a (BitVec.ofNat 32 n)
@[simp] theorem wrN_accKept : (d.wrN a n).accKept = d.accKept := wr_accKept d a (BitVec.ofNat 32 n)
@[simp] theorem wrN_safeEdge : (d.wrN a n).safeEdge = d.safeEdge := wr_safeEdge d a (BitVec.ofNat 32 n)
@[simp] theorem wrN_mgmtPin : (d.wrN a n).mgmtPin = d.mgmtPin := wr_mgmtPin d a (BitVec.ofNat 32 n)
end wrNFields

section setFldFields
variable (d : Dev) (a lo w v : Nat)
@[simp] theorem setFld_inforce : (d.setFld a lo w v).inforce = d.inforce := wrN_inforce d a (d.rdN a - bitsOf (d.rdN a) lo w * 2^lo + v % 2^w * 2^lo)
@[simp] theorem setFld_latch : (d.setFld a lo w v).latch = d.latch := wrN_latch d a (d.rdN a - bitsOf (d.rdN a) lo w * 2^lo + v % 2^w * 2^lo)
@[simp] theorem setFld_stage : (d.setFld a lo w v).stage = d.stage := wrN_stage d a (d.rdN a - bitsOf (d.rdN a) lo w * 2^lo + v % 2^w * 2^lo)
@[simp] theorem setFld_parity : (d.setFld a lo w v).parity = d.parity := wrN_parity d a (d.rdN a - bitsOf (d.rdN a) lo w * 2^lo + v % 2^w * 2^lo)
@[simp] theorem setFld_freeCtr : (d.setFld a lo w v).freeCtr = d.freeCtr := wrN_freeCtr d a (d.rdN a - bitsOf (d.rdN a) lo w * 2^lo + v % 2^w * 2^lo)
@[simp] theorem setFld_time : (d.setFld a lo w v).time = d.time := wrN_time d a (d.rdN a - bitsOf (d.rdN a) lo w * 2^lo + v % 2^w * 2^lo)
@[simp] theorem setFld_ports : (d.setFld a lo w v).ports = d.ports := wrN_ports d a (d.rdN a - bitsOf (d.rdN a) lo w * 2^lo + v % 2^w * 2^lo)
@[simp] theorem setFld_chan : (d.setFld a lo w v).chan = d.chan := wrN_chan d a (d.rdN a - bitsOf (d.rdN a) lo w * 2^lo + v % 2^w * 2^lo)
@[simp] theorem setFld_frames : (d.setFld a lo w v).frames = d.frames := wrN_frames d a (d.rdN a - bitsOf (d.rdN a) lo w * 2^lo + v % 2^w * 2^lo)
@[simp] theorem setFld_launches : (d.setFld a lo w v).launches = d.launches := wrN_launches d a (d.rdN a - bitsOf (d.rdN a) lo w * 2^lo + v % 2^w * 2^lo)
@[simp] theorem setFld_edges : (d.setFld a lo w v).edges = d.edges := wrN_edges d a (d.rdN a - bitsOf (d.rdN a) lo w * 2^lo + v % 2^w * 2^lo)
@[simp] theorem setFld_mkLine : (d.setFld a lo w v).mkLine = d.mkLine := wrN_mkLine d a (d.rdN a - bitsOf (d.rdN a) lo w * 2^lo + v % 2^w * 2^lo)
@[simp] theorem setFld_eng : (d.setFld a lo w v).eng = d.eng := wrN_eng d a (d.rdN a - bitsOf (d.rdN a) lo w * 2^lo + v % 2^w * 2^lo)
@[simp] theorem setFld_ei : (d.setFld a lo w v).ei = d.ei := wrN_ei d a (d.rdN a - bitsOf (d.rdN a) lo w * 2^lo + v % 2^w * 2^lo)
@[simp] theorem setFld_ec : (d.setFld a lo w v).ec = d.ec := wrN_ec d a (d.rdN a - bitsOf (d.rdN a) lo w * 2^lo + v % 2^w * 2^lo)
@[simp] theorem setFld_tin : (d.setFld a lo w v).tin = d.tin := wrN_tin d a (d.rdN a - bitsOf (d.rdN a) lo w * 2^lo + v % 2^w * 2^lo)
@[simp] theorem setFld_grp : (d.setFld a lo w v).grp = d.grp := wrN_grp d a (d.rdN a - bitsOf (d.rdN a) lo w * 2^lo + v % 2^w * 2^lo)
@[simp] theorem setFld_tout : (d.setFld a lo w v).tout = d.tout := wrN_tout d a (d.rdN a - bitsOf (d.rdN a) lo w * 2^lo + v % 2^w * 2^lo)
@[simp] theorem setFld_ti : (d.setFld a lo w v).ti = d.ti := wrN_ti d a (d.rdN a - bitsOf (d.rdN a) lo w * 2^lo + v % 2^w * 2^lo)
@[simp] theorem setFld_cap : (d.setFld a lo w v).cap = d.cap := wrN_cap d a (d.rdN a - bitsOf (d.rdN a) lo w * 2^lo + v % 2^w * 2^lo)
@[simp] theorem setFld_prog : (d.setFld a lo w v).prog = d.prog := wrN_prog d a (d.rdN a - bitsOf (d.rdN a) lo w * 2^lo + v % 2^w * 2^lo)
@[simp] theorem setFld_ctx : (d.setFld a lo w v).ctx = d.ctx := wrN_ctx d a (d.rdN a - bitsOf (d.rdN a) lo w * 2^lo + v % 2^w * 2^lo)
@[simp] theorem setFld_env : (d.setFld a lo w v).env = d.env := wrN_env d a (d.rdN a - bitsOf (d.rdN a) lo w * 2^lo + v % 2^w * 2^lo)
@[simp] theorem setFld_bank : (d.setFld a lo w v).bank = d.bank := wrN_bank d a (d.rdN a - bitsOf (d.rdN a) lo w * 2^lo + v % 2^w * 2^lo)
@[simp] theorem setFld_sc : (d.setFld a lo w v).sc = d.sc := wrN_sc d a (d.rdN a - bitsOf (d.rdN a) lo w * 2^lo + v % 2^w * 2^lo)
@[simp] theorem setFld_capBuf : (d.setFld a lo w v).capBuf = d.capBuf := wrN_capBuf d a (d.rdN a - bitsOf (d.rdN a) lo w * 2^lo + v % 2^w * 2^lo)
@[simp] theorem setFld_mailbox : (d.setFld a lo w v).mailbox = d.mailbox := wrN_mailbox d a (d.rdN a - bitsOf (d.rdN a) lo w * 2^lo + v % 2^w * 2^lo)
@[simp] theorem setFld_dram : (d.setFld a lo w v).dram = d.dram := wrN_dram d a (d.rdN a - bitsOf (d.rdN a) lo w * 2^lo + v % 2^w * 2^lo)
@[simp] theorem setFld_wiped : (d.setFld a lo w v).wiped = d.wiped := wrN_wiped d a (d.rdN a - bitsOf (d.rdN a) lo w * 2^lo + v % 2^w * 2^lo)
@[simp] theorem setFld_badCw : (d.setFld a lo w v).badCw = d.badCw := wrN_badCw d a (d.rdN a - bitsOf (d.rdN a) lo w * 2^lo + v % 2^w * 2^lo)
@[simp] theorem setFld_mm : (d.setFld a lo w v).mm = d.mm := wrN_mm d a (d.rdN a - bitsOf (d.rdN a) lo w * 2^lo + v % 2^w * 2^lo)
@[simp] theorem setFld_ptab : (d.setFld a lo w v).ptab = d.ptab := wrN_ptab d a (d.rdN a - bitsOf (d.rdN a) lo w * 2^lo + v % 2^w * 2^lo)
@[simp] theorem setFld_limH : (d.setFld a lo w v).limH = d.limH := wrN_limH d a (d.rdN a - bitsOf (d.rdN a) lo w * 2^lo + v % 2^w * 2^lo)
@[simp] theorem setFld_wdtMs : (d.setFld a lo w v).wdtMs = d.wdtMs := wrN_wdtMs d a (d.rdN a - bitsOf (d.rdN a) lo w * 2^lo + v % 2^w * 2^lo)
@[simp] theorem setFld_normalRefresh : (d.setFld a lo w v).normalRefresh = d.normalRefresh := wrN_normalRefresh d a (d.rdN a - bitsOf (d.rdN a) lo w * 2^lo + v % 2^w * 2^lo)
@[simp] theorem setFld_hostMem : (d.setFld a lo w v).hostMem = d.hostMem := wrN_hostMem d a (d.rdN a - bitsOf (d.rdN a) lo w * 2^lo + v % 2^w * 2^lo)
@[simp] theorem setFld_adm : (d.setFld a lo w v).adm = d.adm := wrN_adm d a (d.rdN a - bitsOf (d.rdN a) lo w * 2^lo + v % 2^w * 2^lo)
@[simp] theorem setFld_host : (d.setFld a lo w v).host = d.host := wrN_host d a (d.rdN a - bitsOf (d.rdN a) lo w * 2^lo + v % 2^w * 2^lo)
@[simp] theorem setFld_faults : (d.setFld a lo w v).faults = d.faults := wrN_faults d a (d.rdN a - bitsOf (d.rdN a) lo w * 2^lo + v % 2^w * 2^lo)
@[simp] theorem setFld_faultId : (d.setFld a lo w v).faultId = d.faultId := wrN_faultId d a (d.rdN a - bitsOf (d.rdN a) lo w * 2^lo + v % 2^w * 2^lo)
@[simp] theorem setFld_safePin : (d.setFld a lo w v).safePin = d.safePin := wrN_safePin d a (d.rdN a - bitsOf (d.rdN a) lo w * 2^lo + v % 2^w * 2^lo)
@[simp] theorem setFld_therm : (d.setFld a lo w v).therm = d.therm := wrN_therm d a (d.rdN a - bitsOf (d.rdN a) lo w * 2^lo + v % 2^w * 2^lo)
@[simp] theorem setFld_extest : (d.setFld a lo w v).extest = d.extest := wrN_extest d a (d.rdN a - bitsOf (d.rdN a) lo w * 2^lo + v % 2^w * 2^lo)
@[simp] theorem setFld_loadnAt : (d.setFld a lo w v).loadnAt = d.loadnAt := wrN_loadnAt d a (d.rdN a - bitsOf (d.rdN a) lo w * 2^lo + v % 2^w * 2^lo)
@[simp] theorem setFld_clk : (d.setFld a lo w v).clk = d.clk := wrN_clk d a (d.rdN a - bitsOf (d.rdN a) lo w * 2^lo + v % 2^w * 2^lo)
@[simp] theorem setFld_calT : (d.setFld a lo w v).calT = d.calT := wrN_calT d a (d.rdN a - bitsOf (d.rdN a) lo w * 2^lo + v % 2^w * 2^lo)
@[simp] theorem setFld_dmc : (d.setFld a lo w v).dmc = d.dmc := wrN_dmc d a (d.rdN a - bitsOf (d.rdN a) lo w * 2^lo + v % 2^w * 2^lo)
@[simp] theorem setFld_moved : (d.setFld a lo w v).moved = d.moved := wrN_moved d a (d.rdN a - bitsOf (d.rdN a) lo w * 2^lo + v % 2^w * 2^lo)
@[simp] theorem setFld_frzN : (d.setFld a lo w v).frzN = d.frzN := wrN_frzN d a (d.rdN a - bitsOf (d.rdN a) lo w * 2^lo + v % 2^w * 2^lo)
@[simp] theorem setFld_sec : (d.setFld a lo w v).sec = d.sec := wrN_sec d a (d.rdN a - bitsOf (d.rdN a) lo w * 2^lo + v % 2^w * 2^lo)
@[simp] theorem setFld_aon : (d.setFld a lo w v).aon = d.aon := wrN_aon d a (d.rdN a - bitsOf (d.rdN a) lo w * 2^lo + v % 2^w * 2^lo)
@[simp] theorem setFld_standby : (d.setFld a lo w v).standby = d.standby := wrN_standby d a (d.rdN a - bitsOf (d.rdN a) lo w * 2^lo + v % 2^w * 2^lo)
@[simp] theorem setFld_d3hot : (d.setFld a lo w v).d3hot = d.d3hot := wrN_d3hot d a (d.rdN a - bitsOf (d.rdN a) lo w * 2^lo + v % 2^w * 2^lo)
@[simp] theorem setFld_flash : (d.setFld a lo w v).flash = d.flash := wrN_flash d a (d.rdN a - bitsOf (d.rdN a) lo w * 2^lo + v % 2^w * 2^lo)
@[simp] theorem setFld_flashSize : (d.setFld a lo w v).flashSize = d.flashSize := wrN_flashSize d a (d.rdN a - bitsOf (d.rdN a) lo w * 2^lo + v % 2^w * 2^lo)
@[simp] theorem setFld_dimms : (d.setFld a lo w v).dimms = d.dimms := wrN_dimms d a (d.rdN a - bitsOf (d.rdN a) lo w * 2^lo + v % 2^w * 2^lo)
@[simp] theorem setFld_descC : (d.setFld a lo w v).descC = d.descC := wrN_descC d a (d.rdN a - bitsOf (d.rdN a) lo w * 2^lo + v % 2^w * 2^lo)
@[simp] theorem setFld_arrCtr : (d.setFld a lo w v).arrCtr = d.arrCtr := wrN_arrCtr d a (d.rdN a - bitsOf (d.rdN a) lo w * 2^lo + v % 2^w * 2^lo)
@[simp] theorem setFld_icache : (d.setFld a lo w v).icache = d.icache := wrN_icache d a (d.rdN a - bitsOf (d.rdN a) lo w * 2^lo + v % 2^w * 2^lo)
@[simp] theorem setFld_widthPin : (d.setFld a lo w v).widthPin = d.widthPin := wrN_widthPin d a (d.rdN a - bitsOf (d.rdN a) lo w * 2^lo + v % 2^w * 2^lo)
@[simp] theorem setFld_accKept : (d.setFld a lo w v).accKept = d.accKept := wrN_accKept d a (d.rdN a - bitsOf (d.rdN a) lo w * 2^lo + v % 2^w * 2^lo)
@[simp] theorem setFld_safeEdge : (d.setFld a lo w v).safeEdge = d.safeEdge := wrN_safeEdge d a (d.rdN a - bitsOf (d.rdN a) lo w * 2^lo + v % 2^w * 2^lo)
@[simp] theorem setFld_mgmtPin : (d.setFld a lo w v).mgmtPin = d.mgmtPin := wrN_mgmtPin d a (d.rdN a - bitsOf (d.rdN a) lo w * 2^lo + v % 2^w * 2^lo)
end setFldFields

section setBitFields
variable (d : Dev) (a i : Nat) (b : Bool)
@[simp] theorem setBit_inforce : (d.setBit a i b).inforce = d.inforce := setFld_inforce d a i 1 (if b then 1 else 0)
@[simp] theorem setBit_latch : (d.setBit a i b).latch = d.latch := setFld_latch d a i 1 (if b then 1 else 0)
@[simp] theorem setBit_stage : (d.setBit a i b).stage = d.stage := setFld_stage d a i 1 (if b then 1 else 0)
@[simp] theorem setBit_parity : (d.setBit a i b).parity = d.parity := setFld_parity d a i 1 (if b then 1 else 0)
@[simp] theorem setBit_freeCtr : (d.setBit a i b).freeCtr = d.freeCtr := setFld_freeCtr d a i 1 (if b then 1 else 0)
@[simp] theorem setBit_time : (d.setBit a i b).time = d.time := setFld_time d a i 1 (if b then 1 else 0)
@[simp] theorem setBit_ports : (d.setBit a i b).ports = d.ports := setFld_ports d a i 1 (if b then 1 else 0)
@[simp] theorem setBit_chan : (d.setBit a i b).chan = d.chan := setFld_chan d a i 1 (if b then 1 else 0)
@[simp] theorem setBit_frames : (d.setBit a i b).frames = d.frames := setFld_frames d a i 1 (if b then 1 else 0)
@[simp] theorem setBit_launches : (d.setBit a i b).launches = d.launches := setFld_launches d a i 1 (if b then 1 else 0)
@[simp] theorem setBit_edges : (d.setBit a i b).edges = d.edges := setFld_edges d a i 1 (if b then 1 else 0)
@[simp] theorem setBit_mkLine : (d.setBit a i b).mkLine = d.mkLine := setFld_mkLine d a i 1 (if b then 1 else 0)
@[simp] theorem setBit_eng : (d.setBit a i b).eng = d.eng := setFld_eng d a i 1 (if b then 1 else 0)
@[simp] theorem setBit_ei : (d.setBit a i b).ei = d.ei := setFld_ei d a i 1 (if b then 1 else 0)
@[simp] theorem setBit_ec : (d.setBit a i b).ec = d.ec := setFld_ec d a i 1 (if b then 1 else 0)
@[simp] theorem setBit_tin : (d.setBit a i b).tin = d.tin := setFld_tin d a i 1 (if b then 1 else 0)
@[simp] theorem setBit_grp : (d.setBit a i b).grp = d.grp := setFld_grp d a i 1 (if b then 1 else 0)
@[simp] theorem setBit_tout : (d.setBit a i b).tout = d.tout := setFld_tout d a i 1 (if b then 1 else 0)
@[simp] theorem setBit_ti : (d.setBit a i b).ti = d.ti := setFld_ti d a i 1 (if b then 1 else 0)
@[simp] theorem setBit_cap : (d.setBit a i b).cap = d.cap := setFld_cap d a i 1 (if b then 1 else 0)
@[simp] theorem setBit_prog : (d.setBit a i b).prog = d.prog := setFld_prog d a i 1 (if b then 1 else 0)
@[simp] theorem setBit_ctx : (d.setBit a i b).ctx = d.ctx := setFld_ctx d a i 1 (if b then 1 else 0)
@[simp] theorem setBit_env : (d.setBit a i b).env = d.env := setFld_env d a i 1 (if b then 1 else 0)
@[simp] theorem setBit_bank : (d.setBit a i b).bank = d.bank := setFld_bank d a i 1 (if b then 1 else 0)
@[simp] theorem setBit_sc : (d.setBit a i b).sc = d.sc := setFld_sc d a i 1 (if b then 1 else 0)
@[simp] theorem setBit_capBuf : (d.setBit a i b).capBuf = d.capBuf := setFld_capBuf d a i 1 (if b then 1 else 0)
@[simp] theorem setBit_mailbox : (d.setBit a i b).mailbox = d.mailbox := setFld_mailbox d a i 1 (if b then 1 else 0)
@[simp] theorem setBit_dram : (d.setBit a i b).dram = d.dram := setFld_dram d a i 1 (if b then 1 else 0)
@[simp] theorem setBit_wiped : (d.setBit a i b).wiped = d.wiped := setFld_wiped d a i 1 (if b then 1 else 0)
@[simp] theorem setBit_badCw : (d.setBit a i b).badCw = d.badCw := setFld_badCw d a i 1 (if b then 1 else 0)
@[simp] theorem setBit_mm : (d.setBit a i b).mm = d.mm := setFld_mm d a i 1 (if b then 1 else 0)
@[simp] theorem setBit_ptab : (d.setBit a i b).ptab = d.ptab := setFld_ptab d a i 1 (if b then 1 else 0)
@[simp] theorem setBit_limH : (d.setBit a i b).limH = d.limH := setFld_limH d a i 1 (if b then 1 else 0)
@[simp] theorem setBit_wdtMs : (d.setBit a i b).wdtMs = d.wdtMs := setFld_wdtMs d a i 1 (if b then 1 else 0)
@[simp] theorem setBit_normalRefresh : (d.setBit a i b).normalRefresh = d.normalRefresh := setFld_normalRefresh d a i 1 (if b then 1 else 0)
@[simp] theorem setBit_hostMem : (d.setBit a i b).hostMem = d.hostMem := setFld_hostMem d a i 1 (if b then 1 else 0)
@[simp] theorem setBit_adm : (d.setBit a i b).adm = d.adm := setFld_adm d a i 1 (if b then 1 else 0)
@[simp] theorem setBit_host : (d.setBit a i b).host = d.host := setFld_host d a i 1 (if b then 1 else 0)
@[simp] theorem setBit_faults : (d.setBit a i b).faults = d.faults := setFld_faults d a i 1 (if b then 1 else 0)
@[simp] theorem setBit_faultId : (d.setBit a i b).faultId = d.faultId := setFld_faultId d a i 1 (if b then 1 else 0)
@[simp] theorem setBit_safePin : (d.setBit a i b).safePin = d.safePin := setFld_safePin d a i 1 (if b then 1 else 0)
@[simp] theorem setBit_therm : (d.setBit a i b).therm = d.therm := setFld_therm d a i 1 (if b then 1 else 0)
@[simp] theorem setBit_extest : (d.setBit a i b).extest = d.extest := setFld_extest d a i 1 (if b then 1 else 0)
@[simp] theorem setBit_loadnAt : (d.setBit a i b).loadnAt = d.loadnAt := setFld_loadnAt d a i 1 (if b then 1 else 0)
@[simp] theorem setBit_clk : (d.setBit a i b).clk = d.clk := setFld_clk d a i 1 (if b then 1 else 0)
@[simp] theorem setBit_calT : (d.setBit a i b).calT = d.calT := setFld_calT d a i 1 (if b then 1 else 0)
@[simp] theorem setBit_dmc : (d.setBit a i b).dmc = d.dmc := setFld_dmc d a i 1 (if b then 1 else 0)
@[simp] theorem setBit_moved : (d.setBit a i b).moved = d.moved := setFld_moved d a i 1 (if b then 1 else 0)
@[simp] theorem setBit_frzN : (d.setBit a i b).frzN = d.frzN := setFld_frzN d a i 1 (if b then 1 else 0)
@[simp] theorem setBit_sec : (d.setBit a i b).sec = d.sec := setFld_sec d a i 1 (if b then 1 else 0)
@[simp] theorem setBit_aon : (d.setBit a i b).aon = d.aon := setFld_aon d a i 1 (if b then 1 else 0)
@[simp] theorem setBit_standby : (d.setBit a i b).standby = d.standby := setFld_standby d a i 1 (if b then 1 else 0)
@[simp] theorem setBit_d3hot : (d.setBit a i b).d3hot = d.d3hot := setFld_d3hot d a i 1 (if b then 1 else 0)
@[simp] theorem setBit_flash : (d.setBit a i b).flash = d.flash := setFld_flash d a i 1 (if b then 1 else 0)
@[simp] theorem setBit_flashSize : (d.setBit a i b).flashSize = d.flashSize := setFld_flashSize d a i 1 (if b then 1 else 0)
@[simp] theorem setBit_dimms : (d.setBit a i b).dimms = d.dimms := setFld_dimms d a i 1 (if b then 1 else 0)
@[simp] theorem setBit_descC : (d.setBit a i b).descC = d.descC := setFld_descC d a i 1 (if b then 1 else 0)
@[simp] theorem setBit_arrCtr : (d.setBit a i b).arrCtr = d.arrCtr := setFld_arrCtr d a i 1 (if b then 1 else 0)
@[simp] theorem setBit_icache : (d.setBit a i b).icache = d.icache := setFld_icache d a i 1 (if b then 1 else 0)
@[simp] theorem setBit_widthPin : (d.setBit a i b).widthPin = d.widthPin := setFld_widthPin d a i 1 (if b then 1 else 0)
@[simp] theorem setBit_accKept : (d.setBit a i b).accKept = d.accKept := setFld_accKept d a i 1 (if b then 1 else 0)
@[simp] theorem setBit_safeEdge : (d.setBit a i b).safeEdge = d.safeEdge := setFld_safeEdge d a i 1 (if b then 1 else 0)
@[simp] theorem setBit_mgmtPin : (d.setBit a i b).mgmtPin = d.mgmtPin := setFld_mgmtPin d a i 1 (if b then 1 else 0)
end setBitFields

section wr64Fields
variable (d : Dev) (a v : Nat)
@[simp] theorem wr64_inforce : (d.wr64 a v).inforce = d.inforce := (wrN_inforce (d.wrN a v) (a + 4) (v / 2^32)).trans (wrN_inforce d a v)
@[simp] theorem wr64_latch : (d.wr64 a v).latch = d.latch := (wrN_latch (d.wrN a v) (a + 4) (v / 2^32)).trans (wrN_latch d a v)
@[simp] theorem wr64_stage : (d.wr64 a v).stage = d.stage := (wrN_stage (d.wrN a v) (a + 4) (v / 2^32)).trans (wrN_stage d a v)
@[simp] theorem wr64_parity : (d.wr64 a v).parity = d.parity := (wrN_parity (d.wrN a v) (a + 4) (v / 2^32)).trans (wrN_parity d a v)
@[simp] theorem wr64_freeCtr : (d.wr64 a v).freeCtr = d.freeCtr := (wrN_freeCtr (d.wrN a v) (a + 4) (v / 2^32)).trans (wrN_freeCtr d a v)
@[simp] theorem wr64_time : (d.wr64 a v).time = d.time := (wrN_time (d.wrN a v) (a + 4) (v / 2^32)).trans (wrN_time d a v)
@[simp] theorem wr64_ports : (d.wr64 a v).ports = d.ports := (wrN_ports (d.wrN a v) (a + 4) (v / 2^32)).trans (wrN_ports d a v)
@[simp] theorem wr64_chan : (d.wr64 a v).chan = d.chan := (wrN_chan (d.wrN a v) (a + 4) (v / 2^32)).trans (wrN_chan d a v)
@[simp] theorem wr64_frames : (d.wr64 a v).frames = d.frames := (wrN_frames (d.wrN a v) (a + 4) (v / 2^32)).trans (wrN_frames d a v)
@[simp] theorem wr64_launches : (d.wr64 a v).launches = d.launches := (wrN_launches (d.wrN a v) (a + 4) (v / 2^32)).trans (wrN_launches d a v)
@[simp] theorem wr64_edges : (d.wr64 a v).edges = d.edges := (wrN_edges (d.wrN a v) (a + 4) (v / 2^32)).trans (wrN_edges d a v)
@[simp] theorem wr64_mkLine : (d.wr64 a v).mkLine = d.mkLine := (wrN_mkLine (d.wrN a v) (a + 4) (v / 2^32)).trans (wrN_mkLine d a v)
@[simp] theorem wr64_eng : (d.wr64 a v).eng = d.eng := (wrN_eng (d.wrN a v) (a + 4) (v / 2^32)).trans (wrN_eng d a v)
@[simp] theorem wr64_ei : (d.wr64 a v).ei = d.ei := (wrN_ei (d.wrN a v) (a + 4) (v / 2^32)).trans (wrN_ei d a v)
@[simp] theorem wr64_ec : (d.wr64 a v).ec = d.ec := (wrN_ec (d.wrN a v) (a + 4) (v / 2^32)).trans (wrN_ec d a v)
@[simp] theorem wr64_tin : (d.wr64 a v).tin = d.tin := (wrN_tin (d.wrN a v) (a + 4) (v / 2^32)).trans (wrN_tin d a v)
@[simp] theorem wr64_grp : (d.wr64 a v).grp = d.grp := (wrN_grp (d.wrN a v) (a + 4) (v / 2^32)).trans (wrN_grp d a v)
@[simp] theorem wr64_tout : (d.wr64 a v).tout = d.tout := (wrN_tout (d.wrN a v) (a + 4) (v / 2^32)).trans (wrN_tout d a v)
@[simp] theorem wr64_ti : (d.wr64 a v).ti = d.ti := (wrN_ti (d.wrN a v) (a + 4) (v / 2^32)).trans (wrN_ti d a v)
@[simp] theorem wr64_cap : (d.wr64 a v).cap = d.cap := (wrN_cap (d.wrN a v) (a + 4) (v / 2^32)).trans (wrN_cap d a v)
@[simp] theorem wr64_prog : (d.wr64 a v).prog = d.prog := (wrN_prog (d.wrN a v) (a + 4) (v / 2^32)).trans (wrN_prog d a v)
@[simp] theorem wr64_ctx : (d.wr64 a v).ctx = d.ctx := (wrN_ctx (d.wrN a v) (a + 4) (v / 2^32)).trans (wrN_ctx d a v)
@[simp] theorem wr64_env : (d.wr64 a v).env = d.env := (wrN_env (d.wrN a v) (a + 4) (v / 2^32)).trans (wrN_env d a v)
@[simp] theorem wr64_bank : (d.wr64 a v).bank = d.bank := (wrN_bank (d.wrN a v) (a + 4) (v / 2^32)).trans (wrN_bank d a v)
@[simp] theorem wr64_sc : (d.wr64 a v).sc = d.sc := (wrN_sc (d.wrN a v) (a + 4) (v / 2^32)).trans (wrN_sc d a v)
@[simp] theorem wr64_capBuf : (d.wr64 a v).capBuf = d.capBuf := (wrN_capBuf (d.wrN a v) (a + 4) (v / 2^32)).trans (wrN_capBuf d a v)
@[simp] theorem wr64_mailbox : (d.wr64 a v).mailbox = d.mailbox := (wrN_mailbox (d.wrN a v) (a + 4) (v / 2^32)).trans (wrN_mailbox d a v)
@[simp] theorem wr64_dram : (d.wr64 a v).dram = d.dram := (wrN_dram (d.wrN a v) (a + 4) (v / 2^32)).trans (wrN_dram d a v)
@[simp] theorem wr64_wiped : (d.wr64 a v).wiped = d.wiped := (wrN_wiped (d.wrN a v) (a + 4) (v / 2^32)).trans (wrN_wiped d a v)
@[simp] theorem wr64_badCw : (d.wr64 a v).badCw = d.badCw := (wrN_badCw (d.wrN a v) (a + 4) (v / 2^32)).trans (wrN_badCw d a v)
@[simp] theorem wr64_mm : (d.wr64 a v).mm = d.mm := (wrN_mm (d.wrN a v) (a + 4) (v / 2^32)).trans (wrN_mm d a v)
@[simp] theorem wr64_ptab : (d.wr64 a v).ptab = d.ptab := (wrN_ptab (d.wrN a v) (a + 4) (v / 2^32)).trans (wrN_ptab d a v)
@[simp] theorem wr64_limH : (d.wr64 a v).limH = d.limH := (wrN_limH (d.wrN a v) (a + 4) (v / 2^32)).trans (wrN_limH d a v)
@[simp] theorem wr64_wdtMs : (d.wr64 a v).wdtMs = d.wdtMs := (wrN_wdtMs (d.wrN a v) (a + 4) (v / 2^32)).trans (wrN_wdtMs d a v)
@[simp] theorem wr64_normalRefresh : (d.wr64 a v).normalRefresh = d.normalRefresh := (wrN_normalRefresh (d.wrN a v) (a + 4) (v / 2^32)).trans (wrN_normalRefresh d a v)
@[simp] theorem wr64_hostMem : (d.wr64 a v).hostMem = d.hostMem := (wrN_hostMem (d.wrN a v) (a + 4) (v / 2^32)).trans (wrN_hostMem d a v)
@[simp] theorem wr64_adm : (d.wr64 a v).adm = d.adm := (wrN_adm (d.wrN a v) (a + 4) (v / 2^32)).trans (wrN_adm d a v)
@[simp] theorem wr64_host : (d.wr64 a v).host = d.host := (wrN_host (d.wrN a v) (a + 4) (v / 2^32)).trans (wrN_host d a v)
@[simp] theorem wr64_faults : (d.wr64 a v).faults = d.faults := (wrN_faults (d.wrN a v) (a + 4) (v / 2^32)).trans (wrN_faults d a v)
@[simp] theorem wr64_faultId : (d.wr64 a v).faultId = d.faultId := (wrN_faultId (d.wrN a v) (a + 4) (v / 2^32)).trans (wrN_faultId d a v)
@[simp] theorem wr64_safePin : (d.wr64 a v).safePin = d.safePin := (wrN_safePin (d.wrN a v) (a + 4) (v / 2^32)).trans (wrN_safePin d a v)
@[simp] theorem wr64_therm : (d.wr64 a v).therm = d.therm := (wrN_therm (d.wrN a v) (a + 4) (v / 2^32)).trans (wrN_therm d a v)
@[simp] theorem wr64_extest : (d.wr64 a v).extest = d.extest := (wrN_extest (d.wrN a v) (a + 4) (v / 2^32)).trans (wrN_extest d a v)
@[simp] theorem wr64_loadnAt : (d.wr64 a v).loadnAt = d.loadnAt := (wrN_loadnAt (d.wrN a v) (a + 4) (v / 2^32)).trans (wrN_loadnAt d a v)
@[simp] theorem wr64_clk : (d.wr64 a v).clk = d.clk := (wrN_clk (d.wrN a v) (a + 4) (v / 2^32)).trans (wrN_clk d a v)
@[simp] theorem wr64_calT : (d.wr64 a v).calT = d.calT := (wrN_calT (d.wrN a v) (a + 4) (v / 2^32)).trans (wrN_calT d a v)
@[simp] theorem wr64_dmc : (d.wr64 a v).dmc = d.dmc := (wrN_dmc (d.wrN a v) (a + 4) (v / 2^32)).trans (wrN_dmc d a v)
@[simp] theorem wr64_moved : (d.wr64 a v).moved = d.moved := (wrN_moved (d.wrN a v) (a + 4) (v / 2^32)).trans (wrN_moved d a v)
@[simp] theorem wr64_frzN : (d.wr64 a v).frzN = d.frzN := (wrN_frzN (d.wrN a v) (a + 4) (v / 2^32)).trans (wrN_frzN d a v)
@[simp] theorem wr64_sec : (d.wr64 a v).sec = d.sec := (wrN_sec (d.wrN a v) (a + 4) (v / 2^32)).trans (wrN_sec d a v)
@[simp] theorem wr64_aon : (d.wr64 a v).aon = d.aon := (wrN_aon (d.wrN a v) (a + 4) (v / 2^32)).trans (wrN_aon d a v)
@[simp] theorem wr64_standby : (d.wr64 a v).standby = d.standby := (wrN_standby (d.wrN a v) (a + 4) (v / 2^32)).trans (wrN_standby d a v)
@[simp] theorem wr64_d3hot : (d.wr64 a v).d3hot = d.d3hot := (wrN_d3hot (d.wrN a v) (a + 4) (v / 2^32)).trans (wrN_d3hot d a v)
@[simp] theorem wr64_flash : (d.wr64 a v).flash = d.flash := (wrN_flash (d.wrN a v) (a + 4) (v / 2^32)).trans (wrN_flash d a v)
@[simp] theorem wr64_flashSize : (d.wr64 a v).flashSize = d.flashSize := (wrN_flashSize (d.wrN a v) (a + 4) (v / 2^32)).trans (wrN_flashSize d a v)
@[simp] theorem wr64_dimms : (d.wr64 a v).dimms = d.dimms := (wrN_dimms (d.wrN a v) (a + 4) (v / 2^32)).trans (wrN_dimms d a v)
@[simp] theorem wr64_descC : (d.wr64 a v).descC = d.descC := (wrN_descC (d.wrN a v) (a + 4) (v / 2^32)).trans (wrN_descC d a v)
@[simp] theorem wr64_arrCtr : (d.wr64 a v).arrCtr = d.arrCtr := (wrN_arrCtr (d.wrN a v) (a + 4) (v / 2^32)).trans (wrN_arrCtr d a v)
@[simp] theorem wr64_icache : (d.wr64 a v).icache = d.icache := (wrN_icache (d.wrN a v) (a + 4) (v / 2^32)).trans (wrN_icache d a v)
@[simp] theorem wr64_widthPin : (d.wr64 a v).widthPin = d.widthPin := (wrN_widthPin (d.wrN a v) (a + 4) (v / 2^32)).trans (wrN_widthPin d a v)
@[simp] theorem wr64_accKept : (d.wr64 a v).accKept = d.accKept := (wrN_accKept (d.wrN a v) (a + 4) (v / 2^32)).trans (wrN_accKept d a v)
@[simp] theorem wr64_safeEdge : (d.wr64 a v).safeEdge = d.safeEdge := (wrN_safeEdge (d.wrN a v) (a + 4) (v / 2^32)).trans (wrN_safeEdge d a v)
@[simp] theorem wr64_mgmtPin : (d.wr64 a v).mgmtPin = d.mgmtPin := (wrN_mgmtPin (d.wrN a v) (a + 4) (v / 2^32)).trans (wrN_mgmtPin d a v)
end wr64Fields

section raiseFields
variable (d : Dev) (a m : Nat)
@[simp] theorem raise_inforce : (d.raise a m).inforce = d.inforce := wrN_inforce d a ((d.rdN a / 2^24 + 1) % 256 * 2^24 + ((d.rdN a % 2^24) ||| m))
@[simp] theorem raise_latch : (d.raise a m).latch = d.latch := wrN_latch d a ((d.rdN a / 2^24 + 1) % 256 * 2^24 + ((d.rdN a % 2^24) ||| m))
@[simp] theorem raise_stage : (d.raise a m).stage = d.stage := wrN_stage d a ((d.rdN a / 2^24 + 1) % 256 * 2^24 + ((d.rdN a % 2^24) ||| m))
@[simp] theorem raise_parity : (d.raise a m).parity = d.parity := wrN_parity d a ((d.rdN a / 2^24 + 1) % 256 * 2^24 + ((d.rdN a % 2^24) ||| m))
@[simp] theorem raise_freeCtr : (d.raise a m).freeCtr = d.freeCtr := wrN_freeCtr d a ((d.rdN a / 2^24 + 1) % 256 * 2^24 + ((d.rdN a % 2^24) ||| m))
@[simp] theorem raise_time : (d.raise a m).time = d.time := wrN_time d a ((d.rdN a / 2^24 + 1) % 256 * 2^24 + ((d.rdN a % 2^24) ||| m))
@[simp] theorem raise_ports : (d.raise a m).ports = d.ports := wrN_ports d a ((d.rdN a / 2^24 + 1) % 256 * 2^24 + ((d.rdN a % 2^24) ||| m))
@[simp] theorem raise_chan : (d.raise a m).chan = d.chan := wrN_chan d a ((d.rdN a / 2^24 + 1) % 256 * 2^24 + ((d.rdN a % 2^24) ||| m))
@[simp] theorem raise_frames : (d.raise a m).frames = d.frames := wrN_frames d a ((d.rdN a / 2^24 + 1) % 256 * 2^24 + ((d.rdN a % 2^24) ||| m))
@[simp] theorem raise_launches : (d.raise a m).launches = d.launches := wrN_launches d a ((d.rdN a / 2^24 + 1) % 256 * 2^24 + ((d.rdN a % 2^24) ||| m))
@[simp] theorem raise_edges : (d.raise a m).edges = d.edges := wrN_edges d a ((d.rdN a / 2^24 + 1) % 256 * 2^24 + ((d.rdN a % 2^24) ||| m))
@[simp] theorem raise_mkLine : (d.raise a m).mkLine = d.mkLine := wrN_mkLine d a ((d.rdN a / 2^24 + 1) % 256 * 2^24 + ((d.rdN a % 2^24) ||| m))
@[simp] theorem raise_eng : (d.raise a m).eng = d.eng := wrN_eng d a ((d.rdN a / 2^24 + 1) % 256 * 2^24 + ((d.rdN a % 2^24) ||| m))
@[simp] theorem raise_ei : (d.raise a m).ei = d.ei := wrN_ei d a ((d.rdN a / 2^24 + 1) % 256 * 2^24 + ((d.rdN a % 2^24) ||| m))
@[simp] theorem raise_ec : (d.raise a m).ec = d.ec := wrN_ec d a ((d.rdN a / 2^24 + 1) % 256 * 2^24 + ((d.rdN a % 2^24) ||| m))
@[simp] theorem raise_tin : (d.raise a m).tin = d.tin := wrN_tin d a ((d.rdN a / 2^24 + 1) % 256 * 2^24 + ((d.rdN a % 2^24) ||| m))
@[simp] theorem raise_grp : (d.raise a m).grp = d.grp := wrN_grp d a ((d.rdN a / 2^24 + 1) % 256 * 2^24 + ((d.rdN a % 2^24) ||| m))
@[simp] theorem raise_tout : (d.raise a m).tout = d.tout := wrN_tout d a ((d.rdN a / 2^24 + 1) % 256 * 2^24 + ((d.rdN a % 2^24) ||| m))
@[simp] theorem raise_ti : (d.raise a m).ti = d.ti := wrN_ti d a ((d.rdN a / 2^24 + 1) % 256 * 2^24 + ((d.rdN a % 2^24) ||| m))
@[simp] theorem raise_cap : (d.raise a m).cap = d.cap := wrN_cap d a ((d.rdN a / 2^24 + 1) % 256 * 2^24 + ((d.rdN a % 2^24) ||| m))
@[simp] theorem raise_prog : (d.raise a m).prog = d.prog := wrN_prog d a ((d.rdN a / 2^24 + 1) % 256 * 2^24 + ((d.rdN a % 2^24) ||| m))
@[simp] theorem raise_ctx : (d.raise a m).ctx = d.ctx := wrN_ctx d a ((d.rdN a / 2^24 + 1) % 256 * 2^24 + ((d.rdN a % 2^24) ||| m))
@[simp] theorem raise_env : (d.raise a m).env = d.env := wrN_env d a ((d.rdN a / 2^24 + 1) % 256 * 2^24 + ((d.rdN a % 2^24) ||| m))
@[simp] theorem raise_bank : (d.raise a m).bank = d.bank := wrN_bank d a ((d.rdN a / 2^24 + 1) % 256 * 2^24 + ((d.rdN a % 2^24) ||| m))
@[simp] theorem raise_sc : (d.raise a m).sc = d.sc := wrN_sc d a ((d.rdN a / 2^24 + 1) % 256 * 2^24 + ((d.rdN a % 2^24) ||| m))
@[simp] theorem raise_capBuf : (d.raise a m).capBuf = d.capBuf := wrN_capBuf d a ((d.rdN a / 2^24 + 1) % 256 * 2^24 + ((d.rdN a % 2^24) ||| m))
@[simp] theorem raise_mailbox : (d.raise a m).mailbox = d.mailbox := wrN_mailbox d a ((d.rdN a / 2^24 + 1) % 256 * 2^24 + ((d.rdN a % 2^24) ||| m))
@[simp] theorem raise_dram : (d.raise a m).dram = d.dram := wrN_dram d a ((d.rdN a / 2^24 + 1) % 256 * 2^24 + ((d.rdN a % 2^24) ||| m))
@[simp] theorem raise_wiped : (d.raise a m).wiped = d.wiped := wrN_wiped d a ((d.rdN a / 2^24 + 1) % 256 * 2^24 + ((d.rdN a % 2^24) ||| m))
@[simp] theorem raise_badCw : (d.raise a m).badCw = d.badCw := wrN_badCw d a ((d.rdN a / 2^24 + 1) % 256 * 2^24 + ((d.rdN a % 2^24) ||| m))
@[simp] theorem raise_mm : (d.raise a m).mm = d.mm := wrN_mm d a ((d.rdN a / 2^24 + 1) % 256 * 2^24 + ((d.rdN a % 2^24) ||| m))
@[simp] theorem raise_ptab : (d.raise a m).ptab = d.ptab := wrN_ptab d a ((d.rdN a / 2^24 + 1) % 256 * 2^24 + ((d.rdN a % 2^24) ||| m))
@[simp] theorem raise_limH : (d.raise a m).limH = d.limH := wrN_limH d a ((d.rdN a / 2^24 + 1) % 256 * 2^24 + ((d.rdN a % 2^24) ||| m))
@[simp] theorem raise_wdtMs : (d.raise a m).wdtMs = d.wdtMs := wrN_wdtMs d a ((d.rdN a / 2^24 + 1) % 256 * 2^24 + ((d.rdN a % 2^24) ||| m))
@[simp] theorem raise_normalRefresh : (d.raise a m).normalRefresh = d.normalRefresh := wrN_normalRefresh d a ((d.rdN a / 2^24 + 1) % 256 * 2^24 + ((d.rdN a % 2^24) ||| m))
@[simp] theorem raise_hostMem : (d.raise a m).hostMem = d.hostMem := wrN_hostMem d a ((d.rdN a / 2^24 + 1) % 256 * 2^24 + ((d.rdN a % 2^24) ||| m))
@[simp] theorem raise_adm : (d.raise a m).adm = d.adm := wrN_adm d a ((d.rdN a / 2^24 + 1) % 256 * 2^24 + ((d.rdN a % 2^24) ||| m))
@[simp] theorem raise_host : (d.raise a m).host = d.host := wrN_host d a ((d.rdN a / 2^24 + 1) % 256 * 2^24 + ((d.rdN a % 2^24) ||| m))
@[simp] theorem raise_faults : (d.raise a m).faults = d.faults := wrN_faults d a ((d.rdN a / 2^24 + 1) % 256 * 2^24 + ((d.rdN a % 2^24) ||| m))
@[simp] theorem raise_faultId : (d.raise a m).faultId = d.faultId := wrN_faultId d a ((d.rdN a / 2^24 + 1) % 256 * 2^24 + ((d.rdN a % 2^24) ||| m))
@[simp] theorem raise_safePin : (d.raise a m).safePin = d.safePin := wrN_safePin d a ((d.rdN a / 2^24 + 1) % 256 * 2^24 + ((d.rdN a % 2^24) ||| m))
@[simp] theorem raise_therm : (d.raise a m).therm = d.therm := wrN_therm d a ((d.rdN a / 2^24 + 1) % 256 * 2^24 + ((d.rdN a % 2^24) ||| m))
@[simp] theorem raise_extest : (d.raise a m).extest = d.extest := wrN_extest d a ((d.rdN a / 2^24 + 1) % 256 * 2^24 + ((d.rdN a % 2^24) ||| m))
@[simp] theorem raise_loadnAt : (d.raise a m).loadnAt = d.loadnAt := wrN_loadnAt d a ((d.rdN a / 2^24 + 1) % 256 * 2^24 + ((d.rdN a % 2^24) ||| m))
@[simp] theorem raise_clk : (d.raise a m).clk = d.clk := wrN_clk d a ((d.rdN a / 2^24 + 1) % 256 * 2^24 + ((d.rdN a % 2^24) ||| m))
@[simp] theorem raise_calT : (d.raise a m).calT = d.calT := wrN_calT d a ((d.rdN a / 2^24 + 1) % 256 * 2^24 + ((d.rdN a % 2^24) ||| m))
@[simp] theorem raise_dmc : (d.raise a m).dmc = d.dmc := wrN_dmc d a ((d.rdN a / 2^24 + 1) % 256 * 2^24 + ((d.rdN a % 2^24) ||| m))
@[simp] theorem raise_moved : (d.raise a m).moved = d.moved := wrN_moved d a ((d.rdN a / 2^24 + 1) % 256 * 2^24 + ((d.rdN a % 2^24) ||| m))
@[simp] theorem raise_frzN : (d.raise a m).frzN = d.frzN := wrN_frzN d a ((d.rdN a / 2^24 + 1) % 256 * 2^24 + ((d.rdN a % 2^24) ||| m))
@[simp] theorem raise_sec : (d.raise a m).sec = d.sec := wrN_sec d a ((d.rdN a / 2^24 + 1) % 256 * 2^24 + ((d.rdN a % 2^24) ||| m))
@[simp] theorem raise_aon : (d.raise a m).aon = d.aon := wrN_aon d a ((d.rdN a / 2^24 + 1) % 256 * 2^24 + ((d.rdN a % 2^24) ||| m))
@[simp] theorem raise_standby : (d.raise a m).standby = d.standby := wrN_standby d a ((d.rdN a / 2^24 + 1) % 256 * 2^24 + ((d.rdN a % 2^24) ||| m))
@[simp] theorem raise_d3hot : (d.raise a m).d3hot = d.d3hot := wrN_d3hot d a ((d.rdN a / 2^24 + 1) % 256 * 2^24 + ((d.rdN a % 2^24) ||| m))
@[simp] theorem raise_flash : (d.raise a m).flash = d.flash := wrN_flash d a ((d.rdN a / 2^24 + 1) % 256 * 2^24 + ((d.rdN a % 2^24) ||| m))
@[simp] theorem raise_flashSize : (d.raise a m).flashSize = d.flashSize := wrN_flashSize d a ((d.rdN a / 2^24 + 1) % 256 * 2^24 + ((d.rdN a % 2^24) ||| m))
@[simp] theorem raise_dimms : (d.raise a m).dimms = d.dimms := wrN_dimms d a ((d.rdN a / 2^24 + 1) % 256 * 2^24 + ((d.rdN a % 2^24) ||| m))
@[simp] theorem raise_descC : (d.raise a m).descC = d.descC := wrN_descC d a ((d.rdN a / 2^24 + 1) % 256 * 2^24 + ((d.rdN a % 2^24) ||| m))
@[simp] theorem raise_arrCtr : (d.raise a m).arrCtr = d.arrCtr := wrN_arrCtr d a ((d.rdN a / 2^24 + 1) % 256 * 2^24 + ((d.rdN a % 2^24) ||| m))
@[simp] theorem raise_icache : (d.raise a m).icache = d.icache := wrN_icache d a ((d.rdN a / 2^24 + 1) % 256 * 2^24 + ((d.rdN a % 2^24) ||| m))
@[simp] theorem raise_widthPin : (d.raise a m).widthPin = d.widthPin := wrN_widthPin d a ((d.rdN a / 2^24 + 1) % 256 * 2^24 + ((d.rdN a % 2^24) ||| m))
@[simp] theorem raise_accKept : (d.raise a m).accKept = d.accKept := wrN_accKept d a ((d.rdN a / 2^24 + 1) % 256 * 2^24 + ((d.rdN a % 2^24) ||| m))
@[simp] theorem raise_safeEdge : (d.raise a m).safeEdge = d.safeEdge := wrN_safeEdge d a ((d.rdN a / 2^24 + 1) % 256 * 2^24 + ((d.rdN a % 2^24) ||| m))
@[simp] theorem raise_mgmtPin : (d.raise a m).mgmtPin = d.mgmtPin := wrN_mgmtPin d a ((d.rdN a / 2^24 + 1) % 256 * 2^24 + ((d.rdN a % 2^24) ||| m))
end raiseFields

section addSatFields
variable (d : Dev) (a n : Nat)
@[simp] theorem addSat_inforce : (d.addSat a n).inforce = d.inforce := wrN_inforce d a (min (2^32 - 1) (d.rdN a + n))
@[simp] theorem addSat_latch : (d.addSat a n).latch = d.latch := wrN_latch d a (min (2^32 - 1) (d.rdN a + n))
@[simp] theorem addSat_stage : (d.addSat a n).stage = d.stage := wrN_stage d a (min (2^32 - 1) (d.rdN a + n))
@[simp] theorem addSat_parity : (d.addSat a n).parity = d.parity := wrN_parity d a (min (2^32 - 1) (d.rdN a + n))
@[simp] theorem addSat_freeCtr : (d.addSat a n).freeCtr = d.freeCtr := wrN_freeCtr d a (min (2^32 - 1) (d.rdN a + n))
@[simp] theorem addSat_time : (d.addSat a n).time = d.time := wrN_time d a (min (2^32 - 1) (d.rdN a + n))
@[simp] theorem addSat_ports : (d.addSat a n).ports = d.ports := wrN_ports d a (min (2^32 - 1) (d.rdN a + n))
@[simp] theorem addSat_chan : (d.addSat a n).chan = d.chan := wrN_chan d a (min (2^32 - 1) (d.rdN a + n))
@[simp] theorem addSat_frames : (d.addSat a n).frames = d.frames := wrN_frames d a (min (2^32 - 1) (d.rdN a + n))
@[simp] theorem addSat_launches : (d.addSat a n).launches = d.launches := wrN_launches d a (min (2^32 - 1) (d.rdN a + n))
@[simp] theorem addSat_edges : (d.addSat a n).edges = d.edges := wrN_edges d a (min (2^32 - 1) (d.rdN a + n))
@[simp] theorem addSat_mkLine : (d.addSat a n).mkLine = d.mkLine := wrN_mkLine d a (min (2^32 - 1) (d.rdN a + n))
@[simp] theorem addSat_eng : (d.addSat a n).eng = d.eng := wrN_eng d a (min (2^32 - 1) (d.rdN a + n))
@[simp] theorem addSat_ei : (d.addSat a n).ei = d.ei := wrN_ei d a (min (2^32 - 1) (d.rdN a + n))
@[simp] theorem addSat_ec : (d.addSat a n).ec = d.ec := wrN_ec d a (min (2^32 - 1) (d.rdN a + n))
@[simp] theorem addSat_tin : (d.addSat a n).tin = d.tin := wrN_tin d a (min (2^32 - 1) (d.rdN a + n))
@[simp] theorem addSat_grp : (d.addSat a n).grp = d.grp := wrN_grp d a (min (2^32 - 1) (d.rdN a + n))
@[simp] theorem addSat_tout : (d.addSat a n).tout = d.tout := wrN_tout d a (min (2^32 - 1) (d.rdN a + n))
@[simp] theorem addSat_ti : (d.addSat a n).ti = d.ti := wrN_ti d a (min (2^32 - 1) (d.rdN a + n))
@[simp] theorem addSat_cap : (d.addSat a n).cap = d.cap := wrN_cap d a (min (2^32 - 1) (d.rdN a + n))
@[simp] theorem addSat_prog : (d.addSat a n).prog = d.prog := wrN_prog d a (min (2^32 - 1) (d.rdN a + n))
@[simp] theorem addSat_ctx : (d.addSat a n).ctx = d.ctx := wrN_ctx d a (min (2^32 - 1) (d.rdN a + n))
@[simp] theorem addSat_env : (d.addSat a n).env = d.env := wrN_env d a (min (2^32 - 1) (d.rdN a + n))
@[simp] theorem addSat_bank : (d.addSat a n).bank = d.bank := wrN_bank d a (min (2^32 - 1) (d.rdN a + n))
@[simp] theorem addSat_sc : (d.addSat a n).sc = d.sc := wrN_sc d a (min (2^32 - 1) (d.rdN a + n))
@[simp] theorem addSat_capBuf : (d.addSat a n).capBuf = d.capBuf := wrN_capBuf d a (min (2^32 - 1) (d.rdN a + n))
@[simp] theorem addSat_mailbox : (d.addSat a n).mailbox = d.mailbox := wrN_mailbox d a (min (2^32 - 1) (d.rdN a + n))
@[simp] theorem addSat_dram : (d.addSat a n).dram = d.dram := wrN_dram d a (min (2^32 - 1) (d.rdN a + n))
@[simp] theorem addSat_wiped : (d.addSat a n).wiped = d.wiped := wrN_wiped d a (min (2^32 - 1) (d.rdN a + n))
@[simp] theorem addSat_badCw : (d.addSat a n).badCw = d.badCw := wrN_badCw d a (min (2^32 - 1) (d.rdN a + n))
@[simp] theorem addSat_mm : (d.addSat a n).mm = d.mm := wrN_mm d a (min (2^32 - 1) (d.rdN a + n))
@[simp] theorem addSat_ptab : (d.addSat a n).ptab = d.ptab := wrN_ptab d a (min (2^32 - 1) (d.rdN a + n))
@[simp] theorem addSat_limH : (d.addSat a n).limH = d.limH := wrN_limH d a (min (2^32 - 1) (d.rdN a + n))
@[simp] theorem addSat_wdtMs : (d.addSat a n).wdtMs = d.wdtMs := wrN_wdtMs d a (min (2^32 - 1) (d.rdN a + n))
@[simp] theorem addSat_normalRefresh : (d.addSat a n).normalRefresh = d.normalRefresh := wrN_normalRefresh d a (min (2^32 - 1) (d.rdN a + n))
@[simp] theorem addSat_hostMem : (d.addSat a n).hostMem = d.hostMem := wrN_hostMem d a (min (2^32 - 1) (d.rdN a + n))
@[simp] theorem addSat_adm : (d.addSat a n).adm = d.adm := wrN_adm d a (min (2^32 - 1) (d.rdN a + n))
@[simp] theorem addSat_host : (d.addSat a n).host = d.host := wrN_host d a (min (2^32 - 1) (d.rdN a + n))
@[simp] theorem addSat_faults : (d.addSat a n).faults = d.faults := wrN_faults d a (min (2^32 - 1) (d.rdN a + n))
@[simp] theorem addSat_faultId : (d.addSat a n).faultId = d.faultId := wrN_faultId d a (min (2^32 - 1) (d.rdN a + n))
@[simp] theorem addSat_safePin : (d.addSat a n).safePin = d.safePin := wrN_safePin d a (min (2^32 - 1) (d.rdN a + n))
@[simp] theorem addSat_therm : (d.addSat a n).therm = d.therm := wrN_therm d a (min (2^32 - 1) (d.rdN a + n))
@[simp] theorem addSat_extest : (d.addSat a n).extest = d.extest := wrN_extest d a (min (2^32 - 1) (d.rdN a + n))
@[simp] theorem addSat_loadnAt : (d.addSat a n).loadnAt = d.loadnAt := wrN_loadnAt d a (min (2^32 - 1) (d.rdN a + n))
@[simp] theorem addSat_clk : (d.addSat a n).clk = d.clk := wrN_clk d a (min (2^32 - 1) (d.rdN a + n))
@[simp] theorem addSat_calT : (d.addSat a n).calT = d.calT := wrN_calT d a (min (2^32 - 1) (d.rdN a + n))
@[simp] theorem addSat_dmc : (d.addSat a n).dmc = d.dmc := wrN_dmc d a (min (2^32 - 1) (d.rdN a + n))
@[simp] theorem addSat_moved : (d.addSat a n).moved = d.moved := wrN_moved d a (min (2^32 - 1) (d.rdN a + n))
@[simp] theorem addSat_frzN : (d.addSat a n).frzN = d.frzN := wrN_frzN d a (min (2^32 - 1) (d.rdN a + n))
@[simp] theorem addSat_sec : (d.addSat a n).sec = d.sec := wrN_sec d a (min (2^32 - 1) (d.rdN a + n))
@[simp] theorem addSat_aon : (d.addSat a n).aon = d.aon := wrN_aon d a (min (2^32 - 1) (d.rdN a + n))
@[simp] theorem addSat_standby : (d.addSat a n).standby = d.standby := wrN_standby d a (min (2^32 - 1) (d.rdN a + n))
@[simp] theorem addSat_d3hot : (d.addSat a n).d3hot = d.d3hot := wrN_d3hot d a (min (2^32 - 1) (d.rdN a + n))
@[simp] theorem addSat_flash : (d.addSat a n).flash = d.flash := wrN_flash d a (min (2^32 - 1) (d.rdN a + n))
@[simp] theorem addSat_flashSize : (d.addSat a n).flashSize = d.flashSize := wrN_flashSize d a (min (2^32 - 1) (d.rdN a + n))
@[simp] theorem addSat_dimms : (d.addSat a n).dimms = d.dimms := wrN_dimms d a (min (2^32 - 1) (d.rdN a + n))
@[simp] theorem addSat_descC : (d.addSat a n).descC = d.descC := wrN_descC d a (min (2^32 - 1) (d.rdN a + n))
@[simp] theorem addSat_arrCtr : (d.addSat a n).arrCtr = d.arrCtr := wrN_arrCtr d a (min (2^32 - 1) (d.rdN a + n))
@[simp] theorem addSat_icache : (d.addSat a n).icache = d.icache := wrN_icache d a (min (2^32 - 1) (d.rdN a + n))
@[simp] theorem addSat_widthPin : (d.addSat a n).widthPin = d.widthPin := wrN_widthPin d a (min (2^32 - 1) (d.rdN a + n))
@[simp] theorem addSat_accKept : (d.addSat a n).accKept = d.accKept := wrN_accKept d a (min (2^32 - 1) (d.rdN a + n))
@[simp] theorem addSat_safeEdge : (d.addSat a n).safeEdge = d.safeEdge := wrN_safeEdge d a (min (2^32 - 1) (d.rdN a + n))
@[simp] theorem addSat_mgmtPin : (d.addSat a n).mgmtPin = d.mgmtPin := wrN_mgmtPin d a (min (2^32 - 1) (d.rdN a + n))
end addSatFields

section bumpFields
variable (d : Dev) (a : Nat)
@[simp] theorem bump_inforce : (d.bump a).inforce = d.inforce := addSat_inforce d a 1
@[simp] theorem bump_latch : (d.bump a).latch = d.latch := addSat_latch d a 1
@[simp] theorem bump_stage : (d.bump a).stage = d.stage := addSat_stage d a 1
@[simp] theorem bump_parity : (d.bump a).parity = d.parity := addSat_parity d a 1
@[simp] theorem bump_freeCtr : (d.bump a).freeCtr = d.freeCtr := addSat_freeCtr d a 1
@[simp] theorem bump_time : (d.bump a).time = d.time := addSat_time d a 1
@[simp] theorem bump_ports : (d.bump a).ports = d.ports := addSat_ports d a 1
@[simp] theorem bump_chan : (d.bump a).chan = d.chan := addSat_chan d a 1
@[simp] theorem bump_frames : (d.bump a).frames = d.frames := addSat_frames d a 1
@[simp] theorem bump_launches : (d.bump a).launches = d.launches := addSat_launches d a 1
@[simp] theorem bump_edges : (d.bump a).edges = d.edges := addSat_edges d a 1
@[simp] theorem bump_mkLine : (d.bump a).mkLine = d.mkLine := addSat_mkLine d a 1
@[simp] theorem bump_eng : (d.bump a).eng = d.eng := addSat_eng d a 1
@[simp] theorem bump_ei : (d.bump a).ei = d.ei := addSat_ei d a 1
@[simp] theorem bump_ec : (d.bump a).ec = d.ec := addSat_ec d a 1
@[simp] theorem bump_tin : (d.bump a).tin = d.tin := addSat_tin d a 1
@[simp] theorem bump_grp : (d.bump a).grp = d.grp := addSat_grp d a 1
@[simp] theorem bump_tout : (d.bump a).tout = d.tout := addSat_tout d a 1
@[simp] theorem bump_ti : (d.bump a).ti = d.ti := addSat_ti d a 1
@[simp] theorem bump_cap : (d.bump a).cap = d.cap := addSat_cap d a 1
@[simp] theorem bump_prog : (d.bump a).prog = d.prog := addSat_prog d a 1
@[simp] theorem bump_ctx : (d.bump a).ctx = d.ctx := addSat_ctx d a 1
@[simp] theorem bump_env : (d.bump a).env = d.env := addSat_env d a 1
@[simp] theorem bump_bank : (d.bump a).bank = d.bank := addSat_bank d a 1
@[simp] theorem bump_sc : (d.bump a).sc = d.sc := addSat_sc d a 1
@[simp] theorem bump_capBuf : (d.bump a).capBuf = d.capBuf := addSat_capBuf d a 1
@[simp] theorem bump_mailbox : (d.bump a).mailbox = d.mailbox := addSat_mailbox d a 1
@[simp] theorem bump_dram : (d.bump a).dram = d.dram := addSat_dram d a 1
@[simp] theorem bump_wiped : (d.bump a).wiped = d.wiped := addSat_wiped d a 1
@[simp] theorem bump_badCw : (d.bump a).badCw = d.badCw := addSat_badCw d a 1
@[simp] theorem bump_mm : (d.bump a).mm = d.mm := addSat_mm d a 1
@[simp] theorem bump_ptab : (d.bump a).ptab = d.ptab := addSat_ptab d a 1
@[simp] theorem bump_limH : (d.bump a).limH = d.limH := addSat_limH d a 1
@[simp] theorem bump_wdtMs : (d.bump a).wdtMs = d.wdtMs := addSat_wdtMs d a 1
@[simp] theorem bump_normalRefresh : (d.bump a).normalRefresh = d.normalRefresh := addSat_normalRefresh d a 1
@[simp] theorem bump_hostMem : (d.bump a).hostMem = d.hostMem := addSat_hostMem d a 1
@[simp] theorem bump_adm : (d.bump a).adm = d.adm := addSat_adm d a 1
@[simp] theorem bump_host : (d.bump a).host = d.host := addSat_host d a 1
@[simp] theorem bump_faults : (d.bump a).faults = d.faults := addSat_faults d a 1
@[simp] theorem bump_faultId : (d.bump a).faultId = d.faultId := addSat_faultId d a 1
@[simp] theorem bump_safePin : (d.bump a).safePin = d.safePin := addSat_safePin d a 1
@[simp] theorem bump_therm : (d.bump a).therm = d.therm := addSat_therm d a 1
@[simp] theorem bump_extest : (d.bump a).extest = d.extest := addSat_extest d a 1
@[simp] theorem bump_loadnAt : (d.bump a).loadnAt = d.loadnAt := addSat_loadnAt d a 1
@[simp] theorem bump_clk : (d.bump a).clk = d.clk := addSat_clk d a 1
@[simp] theorem bump_calT : (d.bump a).calT = d.calT := addSat_calT d a 1
@[simp] theorem bump_dmc : (d.bump a).dmc = d.dmc := addSat_dmc d a 1
@[simp] theorem bump_moved : (d.bump a).moved = d.moved := addSat_moved d a 1
@[simp] theorem bump_frzN : (d.bump a).frzN = d.frzN := addSat_frzN d a 1
@[simp] theorem bump_sec : (d.bump a).sec = d.sec := addSat_sec d a 1
@[simp] theorem bump_aon : (d.bump a).aon = d.aon := addSat_aon d a 1
@[simp] theorem bump_standby : (d.bump a).standby = d.standby := addSat_standby d a 1
@[simp] theorem bump_d3hot : (d.bump a).d3hot = d.d3hot := addSat_d3hot d a 1
@[simp] theorem bump_flash : (d.bump a).flash = d.flash := addSat_flash d a 1
@[simp] theorem bump_flashSize : (d.bump a).flashSize = d.flashSize := addSat_flashSize d a 1
@[simp] theorem bump_dimms : (d.bump a).dimms = d.dimms := addSat_dimms d a 1
@[simp] theorem bump_descC : (d.bump a).descC = d.descC := addSat_descC d a 1
@[simp] theorem bump_arrCtr : (d.bump a).arrCtr = d.arrCtr := addSat_arrCtr d a 1
@[simp] theorem bump_icache : (d.bump a).icache = d.icache := addSat_icache d a 1
@[simp] theorem bump_widthPin : (d.bump a).widthPin = d.widthPin := addSat_widthPin d a 1
@[simp] theorem bump_accKept : (d.bump a).accKept = d.accKept := addSat_accKept d a 1
@[simp] theorem bump_safeEdge : (d.bump a).safeEdge = d.safeEdge := addSat_safeEdge d a 1
@[simp] theorem bump_mgmtPin : (d.bump a).mgmtPin = d.mgmtPin := addSat_mgmtPin d a 1
end bumpFields

section addSat64Fields
variable (d : Dev) (a n : Nat)
@[simp] theorem addSat64_inforce : (d.addSat64 a n).inforce = d.inforce := wr64_inforce d a (min (2^64 - 1) (d.rd64 a + n))
@[simp] theorem addSat64_latch : (d.addSat64 a n).latch = d.latch := wr64_latch d a (min (2^64 - 1) (d.rd64 a + n))
@[simp] theorem addSat64_stage : (d.addSat64 a n).stage = d.stage := wr64_stage d a (min (2^64 - 1) (d.rd64 a + n))
@[simp] theorem addSat64_parity : (d.addSat64 a n).parity = d.parity := wr64_parity d a (min (2^64 - 1) (d.rd64 a + n))
@[simp] theorem addSat64_freeCtr : (d.addSat64 a n).freeCtr = d.freeCtr := wr64_freeCtr d a (min (2^64 - 1) (d.rd64 a + n))
@[simp] theorem addSat64_time : (d.addSat64 a n).time = d.time := wr64_time d a (min (2^64 - 1) (d.rd64 a + n))
@[simp] theorem addSat64_ports : (d.addSat64 a n).ports = d.ports := wr64_ports d a (min (2^64 - 1) (d.rd64 a + n))
@[simp] theorem addSat64_chan : (d.addSat64 a n).chan = d.chan := wr64_chan d a (min (2^64 - 1) (d.rd64 a + n))
@[simp] theorem addSat64_frames : (d.addSat64 a n).frames = d.frames := wr64_frames d a (min (2^64 - 1) (d.rd64 a + n))
@[simp] theorem addSat64_launches : (d.addSat64 a n).launches = d.launches := wr64_launches d a (min (2^64 - 1) (d.rd64 a + n))
@[simp] theorem addSat64_edges : (d.addSat64 a n).edges = d.edges := wr64_edges d a (min (2^64 - 1) (d.rd64 a + n))
@[simp] theorem addSat64_mkLine : (d.addSat64 a n).mkLine = d.mkLine := wr64_mkLine d a (min (2^64 - 1) (d.rd64 a + n))
@[simp] theorem addSat64_eng : (d.addSat64 a n).eng = d.eng := wr64_eng d a (min (2^64 - 1) (d.rd64 a + n))
@[simp] theorem addSat64_ei : (d.addSat64 a n).ei = d.ei := wr64_ei d a (min (2^64 - 1) (d.rd64 a + n))
@[simp] theorem addSat64_ec : (d.addSat64 a n).ec = d.ec := wr64_ec d a (min (2^64 - 1) (d.rd64 a + n))
@[simp] theorem addSat64_tin : (d.addSat64 a n).tin = d.tin := wr64_tin d a (min (2^64 - 1) (d.rd64 a + n))
@[simp] theorem addSat64_grp : (d.addSat64 a n).grp = d.grp := wr64_grp d a (min (2^64 - 1) (d.rd64 a + n))
@[simp] theorem addSat64_tout : (d.addSat64 a n).tout = d.tout := wr64_tout d a (min (2^64 - 1) (d.rd64 a + n))
@[simp] theorem addSat64_ti : (d.addSat64 a n).ti = d.ti := wr64_ti d a (min (2^64 - 1) (d.rd64 a + n))
@[simp] theorem addSat64_cap : (d.addSat64 a n).cap = d.cap := wr64_cap d a (min (2^64 - 1) (d.rd64 a + n))
@[simp] theorem addSat64_prog : (d.addSat64 a n).prog = d.prog := wr64_prog d a (min (2^64 - 1) (d.rd64 a + n))
@[simp] theorem addSat64_ctx : (d.addSat64 a n).ctx = d.ctx := wr64_ctx d a (min (2^64 - 1) (d.rd64 a + n))
@[simp] theorem addSat64_env : (d.addSat64 a n).env = d.env := wr64_env d a (min (2^64 - 1) (d.rd64 a + n))
@[simp] theorem addSat64_bank : (d.addSat64 a n).bank = d.bank := wr64_bank d a (min (2^64 - 1) (d.rd64 a + n))
@[simp] theorem addSat64_sc : (d.addSat64 a n).sc = d.sc := wr64_sc d a (min (2^64 - 1) (d.rd64 a + n))
@[simp] theorem addSat64_capBuf : (d.addSat64 a n).capBuf = d.capBuf := wr64_capBuf d a (min (2^64 - 1) (d.rd64 a + n))
@[simp] theorem addSat64_mailbox : (d.addSat64 a n).mailbox = d.mailbox := wr64_mailbox d a (min (2^64 - 1) (d.rd64 a + n))
@[simp] theorem addSat64_dram : (d.addSat64 a n).dram = d.dram := wr64_dram d a (min (2^64 - 1) (d.rd64 a + n))
@[simp] theorem addSat64_wiped : (d.addSat64 a n).wiped = d.wiped := wr64_wiped d a (min (2^64 - 1) (d.rd64 a + n))
@[simp] theorem addSat64_badCw : (d.addSat64 a n).badCw = d.badCw := wr64_badCw d a (min (2^64 - 1) (d.rd64 a + n))
@[simp] theorem addSat64_mm : (d.addSat64 a n).mm = d.mm := wr64_mm d a (min (2^64 - 1) (d.rd64 a + n))
@[simp] theorem addSat64_ptab : (d.addSat64 a n).ptab = d.ptab := wr64_ptab d a (min (2^64 - 1) (d.rd64 a + n))
@[simp] theorem addSat64_limH : (d.addSat64 a n).limH = d.limH := wr64_limH d a (min (2^64 - 1) (d.rd64 a + n))
@[simp] theorem addSat64_wdtMs : (d.addSat64 a n).wdtMs = d.wdtMs := wr64_wdtMs d a (min (2^64 - 1) (d.rd64 a + n))
@[simp] theorem addSat64_normalRefresh : (d.addSat64 a n).normalRefresh = d.normalRefresh := wr64_normalRefresh d a (min (2^64 - 1) (d.rd64 a + n))
@[simp] theorem addSat64_hostMem : (d.addSat64 a n).hostMem = d.hostMem := wr64_hostMem d a (min (2^64 - 1) (d.rd64 a + n))
@[simp] theorem addSat64_adm : (d.addSat64 a n).adm = d.adm := wr64_adm d a (min (2^64 - 1) (d.rd64 a + n))
@[simp] theorem addSat64_host : (d.addSat64 a n).host = d.host := wr64_host d a (min (2^64 - 1) (d.rd64 a + n))
@[simp] theorem addSat64_faults : (d.addSat64 a n).faults = d.faults := wr64_faults d a (min (2^64 - 1) (d.rd64 a + n))
@[simp] theorem addSat64_faultId : (d.addSat64 a n).faultId = d.faultId := wr64_faultId d a (min (2^64 - 1) (d.rd64 a + n))
@[simp] theorem addSat64_safePin : (d.addSat64 a n).safePin = d.safePin := wr64_safePin d a (min (2^64 - 1) (d.rd64 a + n))
@[simp] theorem addSat64_therm : (d.addSat64 a n).therm = d.therm := wr64_therm d a (min (2^64 - 1) (d.rd64 a + n))
@[simp] theorem addSat64_extest : (d.addSat64 a n).extest = d.extest := wr64_extest d a (min (2^64 - 1) (d.rd64 a + n))
@[simp] theorem addSat64_loadnAt : (d.addSat64 a n).loadnAt = d.loadnAt := wr64_loadnAt d a (min (2^64 - 1) (d.rd64 a + n))
@[simp] theorem addSat64_clk : (d.addSat64 a n).clk = d.clk := wr64_clk d a (min (2^64 - 1) (d.rd64 a + n))
@[simp] theorem addSat64_calT : (d.addSat64 a n).calT = d.calT := wr64_calT d a (min (2^64 - 1) (d.rd64 a + n))
@[simp] theorem addSat64_dmc : (d.addSat64 a n).dmc = d.dmc := wr64_dmc d a (min (2^64 - 1) (d.rd64 a + n))
@[simp] theorem addSat64_moved : (d.addSat64 a n).moved = d.moved := wr64_moved d a (min (2^64 - 1) (d.rd64 a + n))
@[simp] theorem addSat64_frzN : (d.addSat64 a n).frzN = d.frzN := wr64_frzN d a (min (2^64 - 1) (d.rd64 a + n))
@[simp] theorem addSat64_sec : (d.addSat64 a n).sec = d.sec := wr64_sec d a (min (2^64 - 1) (d.rd64 a + n))
@[simp] theorem addSat64_aon : (d.addSat64 a n).aon = d.aon := wr64_aon d a (min (2^64 - 1) (d.rd64 a + n))
@[simp] theorem addSat64_standby : (d.addSat64 a n).standby = d.standby := wr64_standby d a (min (2^64 - 1) (d.rd64 a + n))
@[simp] theorem addSat64_d3hot : (d.addSat64 a n).d3hot = d.d3hot := wr64_d3hot d a (min (2^64 - 1) (d.rd64 a + n))
@[simp] theorem addSat64_flash : (d.addSat64 a n).flash = d.flash := wr64_flash d a (min (2^64 - 1) (d.rd64 a + n))
@[simp] theorem addSat64_flashSize : (d.addSat64 a n).flashSize = d.flashSize := wr64_flashSize d a (min (2^64 - 1) (d.rd64 a + n))
@[simp] theorem addSat64_dimms : (d.addSat64 a n).dimms = d.dimms := wr64_dimms d a (min (2^64 - 1) (d.rd64 a + n))
@[simp] theorem addSat64_descC : (d.addSat64 a n).descC = d.descC := wr64_descC d a (min (2^64 - 1) (d.rd64 a + n))
@[simp] theorem addSat64_arrCtr : (d.addSat64 a n).arrCtr = d.arrCtr := wr64_arrCtr d a (min (2^64 - 1) (d.rd64 a + n))
@[simp] theorem addSat64_icache : (d.addSat64 a n).icache = d.icache := wr64_icache d a (min (2^64 - 1) (d.rd64 a + n))
@[simp] theorem addSat64_widthPin : (d.addSat64 a n).widthPin = d.widthPin := wr64_widthPin d a (min (2^64 - 1) (d.rd64 a + n))
@[simp] theorem addSat64_accKept : (d.addSat64 a n).accKept = d.accKept := wr64_accKept d a (min (2^64 - 1) (d.rd64 a + n))
@[simp] theorem addSat64_safeEdge : (d.addSat64 a n).safeEdge = d.safeEdge := wr64_safeEdge d a (min (2^64 - 1) (d.rd64 a + n))
@[simp] theorem addSat64_mgmtPin : (d.addSat64 a n).mgmtPin = d.mgmtPin := wr64_mgmtPin d a (min (2^64 - 1) (d.rd64 a + n))
end addSat64Fields

section settleFields
variable (d : Dev) (a : Nat)
@[simp] theorem settle_regs : (d.settle a).regs = d.regs := (show ∀ r, ({ d with inforce := r } : Dev).regs = d.regs from fun _ => rfl) _
@[simp] theorem settle_latch : (d.settle a).latch = d.latch := (show ∀ r, ({ d with inforce := r } : Dev).latch = d.latch from fun _ => rfl) _
@[simp] theorem settle_stage : (d.settle a).stage = d.stage := (show ∀ r, ({ d with inforce := r } : Dev).stage = d.stage from fun _ => rfl) _
@[simp] theorem settle_parity : (d.settle a).parity = d.parity := (show ∀ r, ({ d with inforce := r } : Dev).parity = d.parity from fun _ => rfl) _
@[simp] theorem settle_freeCtr : (d.settle a).freeCtr = d.freeCtr := (show ∀ r, ({ d with inforce := r } : Dev).freeCtr = d.freeCtr from fun _ => rfl) _
@[simp] theorem settle_time : (d.settle a).time = d.time := (show ∀ r, ({ d with inforce := r } : Dev).time = d.time from fun _ => rfl) _
@[simp] theorem settle_ports : (d.settle a).ports = d.ports := (show ∀ r, ({ d with inforce := r } : Dev).ports = d.ports from fun _ => rfl) _
@[simp] theorem settle_chan : (d.settle a).chan = d.chan := (show ∀ r, ({ d with inforce := r } : Dev).chan = d.chan from fun _ => rfl) _
@[simp] theorem settle_frames : (d.settle a).frames = d.frames := (show ∀ r, ({ d with inforce := r } : Dev).frames = d.frames from fun _ => rfl) _
@[simp] theorem settle_launches : (d.settle a).launches = d.launches := (show ∀ r, ({ d with inforce := r } : Dev).launches = d.launches from fun _ => rfl) _
@[simp] theorem settle_edges : (d.settle a).edges = d.edges := (show ∀ r, ({ d with inforce := r } : Dev).edges = d.edges from fun _ => rfl) _
@[simp] theorem settle_mkLine : (d.settle a).mkLine = d.mkLine := (show ∀ r, ({ d with inforce := r } : Dev).mkLine = d.mkLine from fun _ => rfl) _
@[simp] theorem settle_eng : (d.settle a).eng = d.eng := (show ∀ r, ({ d with inforce := r } : Dev).eng = d.eng from fun _ => rfl) _
@[simp] theorem settle_ei : (d.settle a).ei = d.ei := (show ∀ r, ({ d with inforce := r } : Dev).ei = d.ei from fun _ => rfl) _
@[simp] theorem settle_ec : (d.settle a).ec = d.ec := (show ∀ r, ({ d with inforce := r } : Dev).ec = d.ec from fun _ => rfl) _
@[simp] theorem settle_tin : (d.settle a).tin = d.tin := (show ∀ r, ({ d with inforce := r } : Dev).tin = d.tin from fun _ => rfl) _
@[simp] theorem settle_grp : (d.settle a).grp = d.grp := (show ∀ r, ({ d with inforce := r } : Dev).grp = d.grp from fun _ => rfl) _
@[simp] theorem settle_tout : (d.settle a).tout = d.tout := (show ∀ r, ({ d with inforce := r } : Dev).tout = d.tout from fun _ => rfl) _
@[simp] theorem settle_ti : (d.settle a).ti = d.ti := (show ∀ r, ({ d with inforce := r } : Dev).ti = d.ti from fun _ => rfl) _
@[simp] theorem settle_cap : (d.settle a).cap = d.cap := (show ∀ r, ({ d with inforce := r } : Dev).cap = d.cap from fun _ => rfl) _
@[simp] theorem settle_prog : (d.settle a).prog = d.prog := (show ∀ r, ({ d with inforce := r } : Dev).prog = d.prog from fun _ => rfl) _
@[simp] theorem settle_ctx : (d.settle a).ctx = d.ctx := (show ∀ r, ({ d with inforce := r } : Dev).ctx = d.ctx from fun _ => rfl) _
@[simp] theorem settle_env : (d.settle a).env = d.env := (show ∀ r, ({ d with inforce := r } : Dev).env = d.env from fun _ => rfl) _
@[simp] theorem settle_bank : (d.settle a).bank = d.bank := (show ∀ r, ({ d with inforce := r } : Dev).bank = d.bank from fun _ => rfl) _
@[simp] theorem settle_sc : (d.settle a).sc = d.sc := (show ∀ r, ({ d with inforce := r } : Dev).sc = d.sc from fun _ => rfl) _
@[simp] theorem settle_capBuf : (d.settle a).capBuf = d.capBuf := (show ∀ r, ({ d with inforce := r } : Dev).capBuf = d.capBuf from fun _ => rfl) _
@[simp] theorem settle_mailbox : (d.settle a).mailbox = d.mailbox := (show ∀ r, ({ d with inforce := r } : Dev).mailbox = d.mailbox from fun _ => rfl) _
@[simp] theorem settle_dram : (d.settle a).dram = d.dram := (show ∀ r, ({ d with inforce := r } : Dev).dram = d.dram from fun _ => rfl) _
@[simp] theorem settle_wiped : (d.settle a).wiped = d.wiped := (show ∀ r, ({ d with inforce := r } : Dev).wiped = d.wiped from fun _ => rfl) _
@[simp] theorem settle_badCw : (d.settle a).badCw = d.badCw := (show ∀ r, ({ d with inforce := r } : Dev).badCw = d.badCw from fun _ => rfl) _
@[simp] theorem settle_mm : (d.settle a).mm = d.mm := (show ∀ r, ({ d with inforce := r } : Dev).mm = d.mm from fun _ => rfl) _
@[simp] theorem settle_ptab : (d.settle a).ptab = d.ptab := (show ∀ r, ({ d with inforce := r } : Dev).ptab = d.ptab from fun _ => rfl) _
@[simp] theorem settle_limH : (d.settle a).limH = d.limH := (show ∀ r, ({ d with inforce := r } : Dev).limH = d.limH from fun _ => rfl) _
@[simp] theorem settle_wdtMs : (d.settle a).wdtMs = d.wdtMs := (show ∀ r, ({ d with inforce := r } : Dev).wdtMs = d.wdtMs from fun _ => rfl) _
@[simp] theorem settle_normalRefresh : (d.settle a).normalRefresh = d.normalRefresh := (show ∀ r, ({ d with inforce := r } : Dev).normalRefresh = d.normalRefresh from fun _ => rfl) _
@[simp] theorem settle_hostMem : (d.settle a).hostMem = d.hostMem := (show ∀ r, ({ d with inforce := r } : Dev).hostMem = d.hostMem from fun _ => rfl) _
@[simp] theorem settle_adm : (d.settle a).adm = d.adm := (show ∀ r, ({ d with inforce := r } : Dev).adm = d.adm from fun _ => rfl) _
@[simp] theorem settle_host : (d.settle a).host = d.host := (show ∀ r, ({ d with inforce := r } : Dev).host = d.host from fun _ => rfl) _
@[simp] theorem settle_faults : (d.settle a).faults = d.faults := (show ∀ r, ({ d with inforce := r } : Dev).faults = d.faults from fun _ => rfl) _
@[simp] theorem settle_faultId : (d.settle a).faultId = d.faultId := (show ∀ r, ({ d with inforce := r } : Dev).faultId = d.faultId from fun _ => rfl) _
@[simp] theorem settle_safePin : (d.settle a).safePin = d.safePin := (show ∀ r, ({ d with inforce := r } : Dev).safePin = d.safePin from fun _ => rfl) _
@[simp] theorem settle_therm : (d.settle a).therm = d.therm := (show ∀ r, ({ d with inforce := r } : Dev).therm = d.therm from fun _ => rfl) _
@[simp] theorem settle_extest : (d.settle a).extest = d.extest := (show ∀ r, ({ d with inforce := r } : Dev).extest = d.extest from fun _ => rfl) _
@[simp] theorem settle_loadnAt : (d.settle a).loadnAt = d.loadnAt := (show ∀ r, ({ d with inforce := r } : Dev).loadnAt = d.loadnAt from fun _ => rfl) _
@[simp] theorem settle_clk : (d.settle a).clk = d.clk := (show ∀ r, ({ d with inforce := r } : Dev).clk = d.clk from fun _ => rfl) _
@[simp] theorem settle_calT : (d.settle a).calT = d.calT := (show ∀ r, ({ d with inforce := r } : Dev).calT = d.calT from fun _ => rfl) _
@[simp] theorem settle_dmc : (d.settle a).dmc = d.dmc := (show ∀ r, ({ d with inforce := r } : Dev).dmc = d.dmc from fun _ => rfl) _
@[simp] theorem settle_moved : (d.settle a).moved = d.moved := (show ∀ r, ({ d with inforce := r } : Dev).moved = d.moved from fun _ => rfl) _
@[simp] theorem settle_frzN : (d.settle a).frzN = d.frzN := (show ∀ r, ({ d with inforce := r } : Dev).frzN = d.frzN from fun _ => rfl) _
@[simp] theorem settle_sec : (d.settle a).sec = d.sec := (show ∀ r, ({ d with inforce := r } : Dev).sec = d.sec from fun _ => rfl) _
@[simp] theorem settle_aon : (d.settle a).aon = d.aon := (show ∀ r, ({ d with inforce := r } : Dev).aon = d.aon from fun _ => rfl) _
@[simp] theorem settle_standby : (d.settle a).standby = d.standby := (show ∀ r, ({ d with inforce := r } : Dev).standby = d.standby from fun _ => rfl) _
@[simp] theorem settle_d3hot : (d.settle a).d3hot = d.d3hot := (show ∀ r, ({ d with inforce := r } : Dev).d3hot = d.d3hot from fun _ => rfl) _
@[simp] theorem settle_flash : (d.settle a).flash = d.flash := (show ∀ r, ({ d with inforce := r } : Dev).flash = d.flash from fun _ => rfl) _
@[simp] theorem settle_flashSize : (d.settle a).flashSize = d.flashSize := (show ∀ r, ({ d with inforce := r } : Dev).flashSize = d.flashSize from fun _ => rfl) _
@[simp] theorem settle_dimms : (d.settle a).dimms = d.dimms := (show ∀ r, ({ d with inforce := r } : Dev).dimms = d.dimms from fun _ => rfl) _
@[simp] theorem settle_descC : (d.settle a).descC = d.descC := (show ∀ r, ({ d with inforce := r } : Dev).descC = d.descC from fun _ => rfl) _
@[simp] theorem settle_arrCtr : (d.settle a).arrCtr = d.arrCtr := (show ∀ r, ({ d with inforce := r } : Dev).arrCtr = d.arrCtr from fun _ => rfl) _
@[simp] theorem settle_icache : (d.settle a).icache = d.icache := (show ∀ r, ({ d with inforce := r } : Dev).icache = d.icache from fun _ => rfl) _
@[simp] theorem settle_widthPin : (d.settle a).widthPin = d.widthPin := (show ∀ r, ({ d with inforce := r } : Dev).widthPin = d.widthPin from fun _ => rfl) _
@[simp] theorem settle_accKept : (d.settle a).accKept = d.accKept := (show ∀ r, ({ d with inforce := r } : Dev).accKept = d.accKept from fun _ => rfl) _
@[simp] theorem settle_safeEdge : (d.settle a).safeEdge = d.safeEdge := (show ∀ r, ({ d with inforce := r } : Dev).safeEdge = d.safeEdge from fun _ => rfl) _
@[simp] theorem settle_mgmtPin : (d.settle a).mgmtPin = d.mgmtPin := (show ∀ r, ({ d with inforce := r } : Dev).mgmtPin = d.mgmtPin from fun _ => rfl) _
end settleFields

section updChanFields
variable (d : Dev) (n : Nat) (f : Chan → Chan)
@[simp] theorem updChan_regs : (d.updChan n f).regs = d.regs := (show ∀ r, ({ d with chan := r } : Dev).regs = d.regs from fun _ => rfl) _
@[simp] theorem updChan_inforce : (d.updChan n f).inforce = d.inforce := (show ∀ r, ({ d with chan := r } : Dev).inforce = d.inforce from fun _ => rfl) _
@[simp] theorem updChan_latch : (d.updChan n f).latch = d.latch := (show ∀ r, ({ d with chan := r } : Dev).latch = d.latch from fun _ => rfl) _
@[simp] theorem updChan_stage : (d.updChan n f).stage = d.stage := (show ∀ r, ({ d with chan := r } : Dev).stage = d.stage from fun _ => rfl) _
@[simp] theorem updChan_parity : (d.updChan n f).parity = d.parity := (show ∀ r, ({ d with chan := r } : Dev).parity = d.parity from fun _ => rfl) _
@[simp] theorem updChan_freeCtr : (d.updChan n f).freeCtr = d.freeCtr := (show ∀ r, ({ d with chan := r } : Dev).freeCtr = d.freeCtr from fun _ => rfl) _
@[simp] theorem updChan_time : (d.updChan n f).time = d.time := (show ∀ r, ({ d with chan := r } : Dev).time = d.time from fun _ => rfl) _
@[simp] theorem updChan_ports : (d.updChan n f).ports = d.ports := (show ∀ r, ({ d with chan := r } : Dev).ports = d.ports from fun _ => rfl) _
@[simp] theorem updChan_frames : (d.updChan n f).frames = d.frames := (show ∀ r, ({ d with chan := r } : Dev).frames = d.frames from fun _ => rfl) _
@[simp] theorem updChan_launches : (d.updChan n f).launches = d.launches := (show ∀ r, ({ d with chan := r } : Dev).launches = d.launches from fun _ => rfl) _
@[simp] theorem updChan_edges : (d.updChan n f).edges = d.edges := (show ∀ r, ({ d with chan := r } : Dev).edges = d.edges from fun _ => rfl) _
@[simp] theorem updChan_mkLine : (d.updChan n f).mkLine = d.mkLine := (show ∀ r, ({ d with chan := r } : Dev).mkLine = d.mkLine from fun _ => rfl) _
@[simp] theorem updChan_eng : (d.updChan n f).eng = d.eng := (show ∀ r, ({ d with chan := r } : Dev).eng = d.eng from fun _ => rfl) _
@[simp] theorem updChan_ei : (d.updChan n f).ei = d.ei := (show ∀ r, ({ d with chan := r } : Dev).ei = d.ei from fun _ => rfl) _
@[simp] theorem updChan_ec : (d.updChan n f).ec = d.ec := (show ∀ r, ({ d with chan := r } : Dev).ec = d.ec from fun _ => rfl) _
@[simp] theorem updChan_tin : (d.updChan n f).tin = d.tin := (show ∀ r, ({ d with chan := r } : Dev).tin = d.tin from fun _ => rfl) _
@[simp] theorem updChan_grp : (d.updChan n f).grp = d.grp := (show ∀ r, ({ d with chan := r } : Dev).grp = d.grp from fun _ => rfl) _
@[simp] theorem updChan_tout : (d.updChan n f).tout = d.tout := (show ∀ r, ({ d with chan := r } : Dev).tout = d.tout from fun _ => rfl) _
@[simp] theorem updChan_ti : (d.updChan n f).ti = d.ti := (show ∀ r, ({ d with chan := r } : Dev).ti = d.ti from fun _ => rfl) _
@[simp] theorem updChan_cap : (d.updChan n f).cap = d.cap := (show ∀ r, ({ d with chan := r } : Dev).cap = d.cap from fun _ => rfl) _
@[simp] theorem updChan_prog : (d.updChan n f).prog = d.prog := (show ∀ r, ({ d with chan := r } : Dev).prog = d.prog from fun _ => rfl) _
@[simp] theorem updChan_ctx : (d.updChan n f).ctx = d.ctx := (show ∀ r, ({ d with chan := r } : Dev).ctx = d.ctx from fun _ => rfl) _
@[simp] theorem updChan_env : (d.updChan n f).env = d.env := (show ∀ r, ({ d with chan := r } : Dev).env = d.env from fun _ => rfl) _
@[simp] theorem updChan_bank : (d.updChan n f).bank = d.bank := (show ∀ r, ({ d with chan := r } : Dev).bank = d.bank from fun _ => rfl) _
@[simp] theorem updChan_sc : (d.updChan n f).sc = d.sc := (show ∀ r, ({ d with chan := r } : Dev).sc = d.sc from fun _ => rfl) _
@[simp] theorem updChan_capBuf : (d.updChan n f).capBuf = d.capBuf := (show ∀ r, ({ d with chan := r } : Dev).capBuf = d.capBuf from fun _ => rfl) _
@[simp] theorem updChan_mailbox : (d.updChan n f).mailbox = d.mailbox := (show ∀ r, ({ d with chan := r } : Dev).mailbox = d.mailbox from fun _ => rfl) _
@[simp] theorem updChan_dram : (d.updChan n f).dram = d.dram := (show ∀ r, ({ d with chan := r } : Dev).dram = d.dram from fun _ => rfl) _
@[simp] theorem updChan_wiped : (d.updChan n f).wiped = d.wiped := (show ∀ r, ({ d with chan := r } : Dev).wiped = d.wiped from fun _ => rfl) _
@[simp] theorem updChan_badCw : (d.updChan n f).badCw = d.badCw := (show ∀ r, ({ d with chan := r } : Dev).badCw = d.badCw from fun _ => rfl) _
@[simp] theorem updChan_mm : (d.updChan n f).mm = d.mm := (show ∀ r, ({ d with chan := r } : Dev).mm = d.mm from fun _ => rfl) _
@[simp] theorem updChan_ptab : (d.updChan n f).ptab = d.ptab := (show ∀ r, ({ d with chan := r } : Dev).ptab = d.ptab from fun _ => rfl) _
@[simp] theorem updChan_limH : (d.updChan n f).limH = d.limH := (show ∀ r, ({ d with chan := r } : Dev).limH = d.limH from fun _ => rfl) _
@[simp] theorem updChan_wdtMs : (d.updChan n f).wdtMs = d.wdtMs := (show ∀ r, ({ d with chan := r } : Dev).wdtMs = d.wdtMs from fun _ => rfl) _
@[simp] theorem updChan_normalRefresh : (d.updChan n f).normalRefresh = d.normalRefresh := (show ∀ r, ({ d with chan := r } : Dev).normalRefresh = d.normalRefresh from fun _ => rfl) _
@[simp] theorem updChan_hostMem : (d.updChan n f).hostMem = d.hostMem := (show ∀ r, ({ d with chan := r } : Dev).hostMem = d.hostMem from fun _ => rfl) _
@[simp] theorem updChan_adm : (d.updChan n f).adm = d.adm := (show ∀ r, ({ d with chan := r } : Dev).adm = d.adm from fun _ => rfl) _
@[simp] theorem updChan_host : (d.updChan n f).host = d.host := (show ∀ r, ({ d with chan := r } : Dev).host = d.host from fun _ => rfl) _
@[simp] theorem updChan_faults : (d.updChan n f).faults = d.faults := (show ∀ r, ({ d with chan := r } : Dev).faults = d.faults from fun _ => rfl) _
@[simp] theorem updChan_faultId : (d.updChan n f).faultId = d.faultId := (show ∀ r, ({ d with chan := r } : Dev).faultId = d.faultId from fun _ => rfl) _
@[simp] theorem updChan_safePin : (d.updChan n f).safePin = d.safePin := (show ∀ r, ({ d with chan := r } : Dev).safePin = d.safePin from fun _ => rfl) _
@[simp] theorem updChan_therm : (d.updChan n f).therm = d.therm := (show ∀ r, ({ d with chan := r } : Dev).therm = d.therm from fun _ => rfl) _
@[simp] theorem updChan_extest : (d.updChan n f).extest = d.extest := (show ∀ r, ({ d with chan := r } : Dev).extest = d.extest from fun _ => rfl) _
@[simp] theorem updChan_loadnAt : (d.updChan n f).loadnAt = d.loadnAt := (show ∀ r, ({ d with chan := r } : Dev).loadnAt = d.loadnAt from fun _ => rfl) _
@[simp] theorem updChan_clk : (d.updChan n f).clk = d.clk := (show ∀ r, ({ d with chan := r } : Dev).clk = d.clk from fun _ => rfl) _
@[simp] theorem updChan_calT : (d.updChan n f).calT = d.calT := (show ∀ r, ({ d with chan := r } : Dev).calT = d.calT from fun _ => rfl) _
@[simp] theorem updChan_dmc : (d.updChan n f).dmc = d.dmc := (show ∀ r, ({ d with chan := r } : Dev).dmc = d.dmc from fun _ => rfl) _
@[simp] theorem updChan_moved : (d.updChan n f).moved = d.moved := (show ∀ r, ({ d with chan := r } : Dev).moved = d.moved from fun _ => rfl) _
@[simp] theorem updChan_frzN : (d.updChan n f).frzN = d.frzN := (show ∀ r, ({ d with chan := r } : Dev).frzN = d.frzN from fun _ => rfl) _
@[simp] theorem updChan_sec : (d.updChan n f).sec = d.sec := (show ∀ r, ({ d with chan := r } : Dev).sec = d.sec from fun _ => rfl) _
@[simp] theorem updChan_aon : (d.updChan n f).aon = d.aon := (show ∀ r, ({ d with chan := r } : Dev).aon = d.aon from fun _ => rfl) _
@[simp] theorem updChan_standby : (d.updChan n f).standby = d.standby := (show ∀ r, ({ d with chan := r } : Dev).standby = d.standby from fun _ => rfl) _
@[simp] theorem updChan_d3hot : (d.updChan n f).d3hot = d.d3hot := (show ∀ r, ({ d with chan := r } : Dev).d3hot = d.d3hot from fun _ => rfl) _
@[simp] theorem updChan_flash : (d.updChan n f).flash = d.flash := (show ∀ r, ({ d with chan := r } : Dev).flash = d.flash from fun _ => rfl) _
@[simp] theorem updChan_flashSize : (d.updChan n f).flashSize = d.flashSize := (show ∀ r, ({ d with chan := r } : Dev).flashSize = d.flashSize from fun _ => rfl) _
@[simp] theorem updChan_dimms : (d.updChan n f).dimms = d.dimms := (show ∀ r, ({ d with chan := r } : Dev).dimms = d.dimms from fun _ => rfl) _
@[simp] theorem updChan_descC : (d.updChan n f).descC = d.descC := (show ∀ r, ({ d with chan := r } : Dev).descC = d.descC from fun _ => rfl) _
@[simp] theorem updChan_arrCtr : (d.updChan n f).arrCtr = d.arrCtr := (show ∀ r, ({ d with chan := r } : Dev).arrCtr = d.arrCtr from fun _ => rfl) _
@[simp] theorem updChan_icache : (d.updChan n f).icache = d.icache := (show ∀ r, ({ d with chan := r } : Dev).icache = d.icache from fun _ => rfl) _
@[simp] theorem updChan_widthPin : (d.updChan n f).widthPin = d.widthPin := (show ∀ r, ({ d with chan := r } : Dev).widthPin = d.widthPin from fun _ => rfl) _
@[simp] theorem updChan_accKept : (d.updChan n f).accKept = d.accKept := (show ∀ r, ({ d with chan := r } : Dev).accKept = d.accKept from fun _ => rfl) _
@[simp] theorem updChan_safeEdge : (d.updChan n f).safeEdge = d.safeEdge := (show ∀ r, ({ d with chan := r } : Dev).safeEdge = d.safeEdge from fun _ => rfl) _
@[simp] theorem updChan_mgmtPin : (d.updChan n f).mgmtPin = d.mgmtPin := (show ∀ r, ({ d with chan := r } : Dev).mgmtPin = d.mgmtPin from fun _ => rfl) _
end updChanFields

section updEngFields
variable (d : Dev) (e : Nat) (f : Eng → Eng)
@[simp] theorem updEng_regs : (d.updEng e f).regs = d.regs := (show ∀ r, ({ d with eng := r } : Dev).regs = d.regs from fun _ => rfl) _
@[simp] theorem updEng_inforce : (d.updEng e f).inforce = d.inforce := (show ∀ r, ({ d with eng := r } : Dev).inforce = d.inforce from fun _ => rfl) _
@[simp] theorem updEng_latch : (d.updEng e f).latch = d.latch := (show ∀ r, ({ d with eng := r } : Dev).latch = d.latch from fun _ => rfl) _
@[simp] theorem updEng_stage : (d.updEng e f).stage = d.stage := (show ∀ r, ({ d with eng := r } : Dev).stage = d.stage from fun _ => rfl) _
@[simp] theorem updEng_parity : (d.updEng e f).parity = d.parity := (show ∀ r, ({ d with eng := r } : Dev).parity = d.parity from fun _ => rfl) _
@[simp] theorem updEng_freeCtr : (d.updEng e f).freeCtr = d.freeCtr := (show ∀ r, ({ d with eng := r } : Dev).freeCtr = d.freeCtr from fun _ => rfl) _
@[simp] theorem updEng_time : (d.updEng e f).time = d.time := (show ∀ r, ({ d with eng := r } : Dev).time = d.time from fun _ => rfl) _
@[simp] theorem updEng_ports : (d.updEng e f).ports = d.ports := (show ∀ r, ({ d with eng := r } : Dev).ports = d.ports from fun _ => rfl) _
@[simp] theorem updEng_chan : (d.updEng e f).chan = d.chan := (show ∀ r, ({ d with eng := r } : Dev).chan = d.chan from fun _ => rfl) _
@[simp] theorem updEng_frames : (d.updEng e f).frames = d.frames := (show ∀ r, ({ d with eng := r } : Dev).frames = d.frames from fun _ => rfl) _
@[simp] theorem updEng_launches : (d.updEng e f).launches = d.launches := (show ∀ r, ({ d with eng := r } : Dev).launches = d.launches from fun _ => rfl) _
@[simp] theorem updEng_edges : (d.updEng e f).edges = d.edges := (show ∀ r, ({ d with eng := r } : Dev).edges = d.edges from fun _ => rfl) _
@[simp] theorem updEng_mkLine : (d.updEng e f).mkLine = d.mkLine := (show ∀ r, ({ d with eng := r } : Dev).mkLine = d.mkLine from fun _ => rfl) _
@[simp] theorem updEng_ei : (d.updEng e f).ei = d.ei := (show ∀ r, ({ d with eng := r } : Dev).ei = d.ei from fun _ => rfl) _
@[simp] theorem updEng_ec : (d.updEng e f).ec = d.ec := (show ∀ r, ({ d with eng := r } : Dev).ec = d.ec from fun _ => rfl) _
@[simp] theorem updEng_tin : (d.updEng e f).tin = d.tin := (show ∀ r, ({ d with eng := r } : Dev).tin = d.tin from fun _ => rfl) _
@[simp] theorem updEng_grp : (d.updEng e f).grp = d.grp := (show ∀ r, ({ d with eng := r } : Dev).grp = d.grp from fun _ => rfl) _
@[simp] theorem updEng_tout : (d.updEng e f).tout = d.tout := (show ∀ r, ({ d with eng := r } : Dev).tout = d.tout from fun _ => rfl) _
@[simp] theorem updEng_ti : (d.updEng e f).ti = d.ti := (show ∀ r, ({ d with eng := r } : Dev).ti = d.ti from fun _ => rfl) _
@[simp] theorem updEng_cap : (d.updEng e f).cap = d.cap := (show ∀ r, ({ d with eng := r } : Dev).cap = d.cap from fun _ => rfl) _
@[simp] theorem updEng_prog : (d.updEng e f).prog = d.prog := (show ∀ r, ({ d with eng := r } : Dev).prog = d.prog from fun _ => rfl) _
@[simp] theorem updEng_ctx : (d.updEng e f).ctx = d.ctx := (show ∀ r, ({ d with eng := r } : Dev).ctx = d.ctx from fun _ => rfl) _
@[simp] theorem updEng_env : (d.updEng e f).env = d.env := (show ∀ r, ({ d with eng := r } : Dev).env = d.env from fun _ => rfl) _
@[simp] theorem updEng_bank : (d.updEng e f).bank = d.bank := (show ∀ r, ({ d with eng := r } : Dev).bank = d.bank from fun _ => rfl) _
@[simp] theorem updEng_sc : (d.updEng e f).sc = d.sc := (show ∀ r, ({ d with eng := r } : Dev).sc = d.sc from fun _ => rfl) _
@[simp] theorem updEng_capBuf : (d.updEng e f).capBuf = d.capBuf := (show ∀ r, ({ d with eng := r } : Dev).capBuf = d.capBuf from fun _ => rfl) _
@[simp] theorem updEng_mailbox : (d.updEng e f).mailbox = d.mailbox := (show ∀ r, ({ d with eng := r } : Dev).mailbox = d.mailbox from fun _ => rfl) _
@[simp] theorem updEng_dram : (d.updEng e f).dram = d.dram := (show ∀ r, ({ d with eng := r } : Dev).dram = d.dram from fun _ => rfl) _
@[simp] theorem updEng_wiped : (d.updEng e f).wiped = d.wiped := (show ∀ r, ({ d with eng := r } : Dev).wiped = d.wiped from fun _ => rfl) _
@[simp] theorem updEng_badCw : (d.updEng e f).badCw = d.badCw := (show ∀ r, ({ d with eng := r } : Dev).badCw = d.badCw from fun _ => rfl) _
@[simp] theorem updEng_mm : (d.updEng e f).mm = d.mm := (show ∀ r, ({ d with eng := r } : Dev).mm = d.mm from fun _ => rfl) _
@[simp] theorem updEng_ptab : (d.updEng e f).ptab = d.ptab := (show ∀ r, ({ d with eng := r } : Dev).ptab = d.ptab from fun _ => rfl) _
@[simp] theorem updEng_limH : (d.updEng e f).limH = d.limH := (show ∀ r, ({ d with eng := r } : Dev).limH = d.limH from fun _ => rfl) _
@[simp] theorem updEng_wdtMs : (d.updEng e f).wdtMs = d.wdtMs := (show ∀ r, ({ d with eng := r } : Dev).wdtMs = d.wdtMs from fun _ => rfl) _
@[simp] theorem updEng_normalRefresh : (d.updEng e f).normalRefresh = d.normalRefresh := (show ∀ r, ({ d with eng := r } : Dev).normalRefresh = d.normalRefresh from fun _ => rfl) _
@[simp] theorem updEng_hostMem : (d.updEng e f).hostMem = d.hostMem := (show ∀ r, ({ d with eng := r } : Dev).hostMem = d.hostMem from fun _ => rfl) _
@[simp] theorem updEng_adm : (d.updEng e f).adm = d.adm := (show ∀ r, ({ d with eng := r } : Dev).adm = d.adm from fun _ => rfl) _
@[simp] theorem updEng_host : (d.updEng e f).host = d.host := (show ∀ r, ({ d with eng := r } : Dev).host = d.host from fun _ => rfl) _
@[simp] theorem updEng_faults : (d.updEng e f).faults = d.faults := (show ∀ r, ({ d with eng := r } : Dev).faults = d.faults from fun _ => rfl) _
@[simp] theorem updEng_faultId : (d.updEng e f).faultId = d.faultId := (show ∀ r, ({ d with eng := r } : Dev).faultId = d.faultId from fun _ => rfl) _
@[simp] theorem updEng_safePin : (d.updEng e f).safePin = d.safePin := (show ∀ r, ({ d with eng := r } : Dev).safePin = d.safePin from fun _ => rfl) _
@[simp] theorem updEng_therm : (d.updEng e f).therm = d.therm := (show ∀ r, ({ d with eng := r } : Dev).therm = d.therm from fun _ => rfl) _
@[simp] theorem updEng_extest : (d.updEng e f).extest = d.extest := (show ∀ r, ({ d with eng := r } : Dev).extest = d.extest from fun _ => rfl) _
@[simp] theorem updEng_loadnAt : (d.updEng e f).loadnAt = d.loadnAt := (show ∀ r, ({ d with eng := r } : Dev).loadnAt = d.loadnAt from fun _ => rfl) _
@[simp] theorem updEng_clk : (d.updEng e f).clk = d.clk := (show ∀ r, ({ d with eng := r } : Dev).clk = d.clk from fun _ => rfl) _
@[simp] theorem updEng_calT : (d.updEng e f).calT = d.calT := (show ∀ r, ({ d with eng := r } : Dev).calT = d.calT from fun _ => rfl) _
@[simp] theorem updEng_dmc : (d.updEng e f).dmc = d.dmc := (show ∀ r, ({ d with eng := r } : Dev).dmc = d.dmc from fun _ => rfl) _
@[simp] theorem updEng_moved : (d.updEng e f).moved = d.moved := (show ∀ r, ({ d with eng := r } : Dev).moved = d.moved from fun _ => rfl) _
@[simp] theorem updEng_frzN : (d.updEng e f).frzN = d.frzN := (show ∀ r, ({ d with eng := r } : Dev).frzN = d.frzN from fun _ => rfl) _
@[simp] theorem updEng_sec : (d.updEng e f).sec = d.sec := (show ∀ r, ({ d with eng := r } : Dev).sec = d.sec from fun _ => rfl) _
@[simp] theorem updEng_aon : (d.updEng e f).aon = d.aon := (show ∀ r, ({ d with eng := r } : Dev).aon = d.aon from fun _ => rfl) _
@[simp] theorem updEng_standby : (d.updEng e f).standby = d.standby := (show ∀ r, ({ d with eng := r } : Dev).standby = d.standby from fun _ => rfl) _
@[simp] theorem updEng_d3hot : (d.updEng e f).d3hot = d.d3hot := (show ∀ r, ({ d with eng := r } : Dev).d3hot = d.d3hot from fun _ => rfl) _
@[simp] theorem updEng_flash : (d.updEng e f).flash = d.flash := (show ∀ r, ({ d with eng := r } : Dev).flash = d.flash from fun _ => rfl) _
@[simp] theorem updEng_flashSize : (d.updEng e f).flashSize = d.flashSize := (show ∀ r, ({ d with eng := r } : Dev).flashSize = d.flashSize from fun _ => rfl) _
@[simp] theorem updEng_dimms : (d.updEng e f).dimms = d.dimms := (show ∀ r, ({ d with eng := r } : Dev).dimms = d.dimms from fun _ => rfl) _
@[simp] theorem updEng_descC : (d.updEng e f).descC = d.descC := (show ∀ r, ({ d with eng := r } : Dev).descC = d.descC from fun _ => rfl) _
@[simp] theorem updEng_arrCtr : (d.updEng e f).arrCtr = d.arrCtr := (show ∀ r, ({ d with eng := r } : Dev).arrCtr = d.arrCtr from fun _ => rfl) _
@[simp] theorem updEng_icache : (d.updEng e f).icache = d.icache := (show ∀ r, ({ d with eng := r } : Dev).icache = d.icache from fun _ => rfl) _
@[simp] theorem updEng_widthPin : (d.updEng e f).widthPin = d.widthPin := (show ∀ r, ({ d with eng := r } : Dev).widthPin = d.widthPin from fun _ => rfl) _
@[simp] theorem updEng_accKept : (d.updEng e f).accKept = d.accKept := (show ∀ r, ({ d with eng := r } : Dev).accKept = d.accKept from fun _ => rfl) _
@[simp] theorem updEng_safeEdge : (d.updEng e f).safeEdge = d.safeEdge := (show ∀ r, ({ d with eng := r } : Dev).safeEdge = d.safeEdge from fun _ => rfl) _
@[simp] theorem updEng_mgmtPin : (d.updEng e f).mgmtPin = d.mgmtPin := (show ∀ r, ({ d with eng := r } : Dev).mgmtPin = d.mgmtPin from fun _ => rfl) _
end updEngFields

section updTinFields
variable (d : Dev) (i : Nat) (f : TinSt → TinSt)
@[simp] theorem updTin_regs : (d.updTin i f).regs = d.regs := (show ∀ r, ({ d with tin := r } : Dev).regs = d.regs from fun _ => rfl) _
@[simp] theorem updTin_inforce : (d.updTin i f).inforce = d.inforce := (show ∀ r, ({ d with tin := r } : Dev).inforce = d.inforce from fun _ => rfl) _
@[simp] theorem updTin_latch : (d.updTin i f).latch = d.latch := (show ∀ r, ({ d with tin := r } : Dev).latch = d.latch from fun _ => rfl) _
@[simp] theorem updTin_stage : (d.updTin i f).stage = d.stage := (show ∀ r, ({ d with tin := r } : Dev).stage = d.stage from fun _ => rfl) _
@[simp] theorem updTin_parity : (d.updTin i f).parity = d.parity := (show ∀ r, ({ d with tin := r } : Dev).parity = d.parity from fun _ => rfl) _
@[simp] theorem updTin_freeCtr : (d.updTin i f).freeCtr = d.freeCtr := (show ∀ r, ({ d with tin := r } : Dev).freeCtr = d.freeCtr from fun _ => rfl) _
@[simp] theorem updTin_time : (d.updTin i f).time = d.time := (show ∀ r, ({ d with tin := r } : Dev).time = d.time from fun _ => rfl) _
@[simp] theorem updTin_ports : (d.updTin i f).ports = d.ports := (show ∀ r, ({ d with tin := r } : Dev).ports = d.ports from fun _ => rfl) _
@[simp] theorem updTin_chan : (d.updTin i f).chan = d.chan := (show ∀ r, ({ d with tin := r } : Dev).chan = d.chan from fun _ => rfl) _
@[simp] theorem updTin_frames : (d.updTin i f).frames = d.frames := (show ∀ r, ({ d with tin := r } : Dev).frames = d.frames from fun _ => rfl) _
@[simp] theorem updTin_launches : (d.updTin i f).launches = d.launches := (show ∀ r, ({ d with tin := r } : Dev).launches = d.launches from fun _ => rfl) _
@[simp] theorem updTin_edges : (d.updTin i f).edges = d.edges := (show ∀ r, ({ d with tin := r } : Dev).edges = d.edges from fun _ => rfl) _
@[simp] theorem updTin_mkLine : (d.updTin i f).mkLine = d.mkLine := (show ∀ r, ({ d with tin := r } : Dev).mkLine = d.mkLine from fun _ => rfl) _
@[simp] theorem updTin_eng : (d.updTin i f).eng = d.eng := (show ∀ r, ({ d with tin := r } : Dev).eng = d.eng from fun _ => rfl) _
@[simp] theorem updTin_ei : (d.updTin i f).ei = d.ei := (show ∀ r, ({ d with tin := r } : Dev).ei = d.ei from fun _ => rfl) _
@[simp] theorem updTin_ec : (d.updTin i f).ec = d.ec := (show ∀ r, ({ d with tin := r } : Dev).ec = d.ec from fun _ => rfl) _
@[simp] theorem updTin_grp : (d.updTin i f).grp = d.grp := (show ∀ r, ({ d with tin := r } : Dev).grp = d.grp from fun _ => rfl) _
@[simp] theorem updTin_tout : (d.updTin i f).tout = d.tout := (show ∀ r, ({ d with tin := r } : Dev).tout = d.tout from fun _ => rfl) _
@[simp] theorem updTin_ti : (d.updTin i f).ti = d.ti := (show ∀ r, ({ d with tin := r } : Dev).ti = d.ti from fun _ => rfl) _
@[simp] theorem updTin_cap : (d.updTin i f).cap = d.cap := (show ∀ r, ({ d with tin := r } : Dev).cap = d.cap from fun _ => rfl) _
@[simp] theorem updTin_prog : (d.updTin i f).prog = d.prog := (show ∀ r, ({ d with tin := r } : Dev).prog = d.prog from fun _ => rfl) _
@[simp] theorem updTin_ctx : (d.updTin i f).ctx = d.ctx := (show ∀ r, ({ d with tin := r } : Dev).ctx = d.ctx from fun _ => rfl) _
@[simp] theorem updTin_env : (d.updTin i f).env = d.env := (show ∀ r, ({ d with tin := r } : Dev).env = d.env from fun _ => rfl) _
@[simp] theorem updTin_bank : (d.updTin i f).bank = d.bank := (show ∀ r, ({ d with tin := r } : Dev).bank = d.bank from fun _ => rfl) _
@[simp] theorem updTin_sc : (d.updTin i f).sc = d.sc := (show ∀ r, ({ d with tin := r } : Dev).sc = d.sc from fun _ => rfl) _
@[simp] theorem updTin_capBuf : (d.updTin i f).capBuf = d.capBuf := (show ∀ r, ({ d with tin := r } : Dev).capBuf = d.capBuf from fun _ => rfl) _
@[simp] theorem updTin_mailbox : (d.updTin i f).mailbox = d.mailbox := (show ∀ r, ({ d with tin := r } : Dev).mailbox = d.mailbox from fun _ => rfl) _
@[simp] theorem updTin_dram : (d.updTin i f).dram = d.dram := (show ∀ r, ({ d with tin := r } : Dev).dram = d.dram from fun _ => rfl) _
@[simp] theorem updTin_wiped : (d.updTin i f).wiped = d.wiped := (show ∀ r, ({ d with tin := r } : Dev).wiped = d.wiped from fun _ => rfl) _
@[simp] theorem updTin_badCw : (d.updTin i f).badCw = d.badCw := (show ∀ r, ({ d with tin := r } : Dev).badCw = d.badCw from fun _ => rfl) _
@[simp] theorem updTin_mm : (d.updTin i f).mm = d.mm := (show ∀ r, ({ d with tin := r } : Dev).mm = d.mm from fun _ => rfl) _
@[simp] theorem updTin_ptab : (d.updTin i f).ptab = d.ptab := (show ∀ r, ({ d with tin := r } : Dev).ptab = d.ptab from fun _ => rfl) _
@[simp] theorem updTin_limH : (d.updTin i f).limH = d.limH := (show ∀ r, ({ d with tin := r } : Dev).limH = d.limH from fun _ => rfl) _
@[simp] theorem updTin_wdtMs : (d.updTin i f).wdtMs = d.wdtMs := (show ∀ r, ({ d with tin := r } : Dev).wdtMs = d.wdtMs from fun _ => rfl) _
@[simp] theorem updTin_normalRefresh : (d.updTin i f).normalRefresh = d.normalRefresh := (show ∀ r, ({ d with tin := r } : Dev).normalRefresh = d.normalRefresh from fun _ => rfl) _
@[simp] theorem updTin_hostMem : (d.updTin i f).hostMem = d.hostMem := (show ∀ r, ({ d with tin := r } : Dev).hostMem = d.hostMem from fun _ => rfl) _
@[simp] theorem updTin_adm : (d.updTin i f).adm = d.adm := (show ∀ r, ({ d with tin := r } : Dev).adm = d.adm from fun _ => rfl) _
@[simp] theorem updTin_host : (d.updTin i f).host = d.host := (show ∀ r, ({ d with tin := r } : Dev).host = d.host from fun _ => rfl) _
@[simp] theorem updTin_faults : (d.updTin i f).faults = d.faults := (show ∀ r, ({ d with tin := r } : Dev).faults = d.faults from fun _ => rfl) _
@[simp] theorem updTin_faultId : (d.updTin i f).faultId = d.faultId := (show ∀ r, ({ d with tin := r } : Dev).faultId = d.faultId from fun _ => rfl) _
@[simp] theorem updTin_safePin : (d.updTin i f).safePin = d.safePin := (show ∀ r, ({ d with tin := r } : Dev).safePin = d.safePin from fun _ => rfl) _
@[simp] theorem updTin_therm : (d.updTin i f).therm = d.therm := (show ∀ r, ({ d with tin := r } : Dev).therm = d.therm from fun _ => rfl) _
@[simp] theorem updTin_extest : (d.updTin i f).extest = d.extest := (show ∀ r, ({ d with tin := r } : Dev).extest = d.extest from fun _ => rfl) _
@[simp] theorem updTin_loadnAt : (d.updTin i f).loadnAt = d.loadnAt := (show ∀ r, ({ d with tin := r } : Dev).loadnAt = d.loadnAt from fun _ => rfl) _
@[simp] theorem updTin_clk : (d.updTin i f).clk = d.clk := (show ∀ r, ({ d with tin := r } : Dev).clk = d.clk from fun _ => rfl) _
@[simp] theorem updTin_calT : (d.updTin i f).calT = d.calT := (show ∀ r, ({ d with tin := r } : Dev).calT = d.calT from fun _ => rfl) _
@[simp] theorem updTin_dmc : (d.updTin i f).dmc = d.dmc := (show ∀ r, ({ d with tin := r } : Dev).dmc = d.dmc from fun _ => rfl) _
@[simp] theorem updTin_moved : (d.updTin i f).moved = d.moved := (show ∀ r, ({ d with tin := r } : Dev).moved = d.moved from fun _ => rfl) _
@[simp] theorem updTin_frzN : (d.updTin i f).frzN = d.frzN := (show ∀ r, ({ d with tin := r } : Dev).frzN = d.frzN from fun _ => rfl) _
@[simp] theorem updTin_sec : (d.updTin i f).sec = d.sec := (show ∀ r, ({ d with tin := r } : Dev).sec = d.sec from fun _ => rfl) _
@[simp] theorem updTin_aon : (d.updTin i f).aon = d.aon := (show ∀ r, ({ d with tin := r } : Dev).aon = d.aon from fun _ => rfl) _
@[simp] theorem updTin_standby : (d.updTin i f).standby = d.standby := (show ∀ r, ({ d with tin := r } : Dev).standby = d.standby from fun _ => rfl) _
@[simp] theorem updTin_d3hot : (d.updTin i f).d3hot = d.d3hot := (show ∀ r, ({ d with tin := r } : Dev).d3hot = d.d3hot from fun _ => rfl) _
@[simp] theorem updTin_flash : (d.updTin i f).flash = d.flash := (show ∀ r, ({ d with tin := r } : Dev).flash = d.flash from fun _ => rfl) _
@[simp] theorem updTin_flashSize : (d.updTin i f).flashSize = d.flashSize := (show ∀ r, ({ d with tin := r } : Dev).flashSize = d.flashSize from fun _ => rfl) _
@[simp] theorem updTin_dimms : (d.updTin i f).dimms = d.dimms := (show ∀ r, ({ d with tin := r } : Dev).dimms = d.dimms from fun _ => rfl) _
@[simp] theorem updTin_descC : (d.updTin i f).descC = d.descC := (show ∀ r, ({ d with tin := r } : Dev).descC = d.descC from fun _ => rfl) _
@[simp] theorem updTin_arrCtr : (d.updTin i f).arrCtr = d.arrCtr := (show ∀ r, ({ d with tin := r } : Dev).arrCtr = d.arrCtr from fun _ => rfl) _
@[simp] theorem updTin_icache : (d.updTin i f).icache = d.icache := (show ∀ r, ({ d with tin := r } : Dev).icache = d.icache from fun _ => rfl) _
@[simp] theorem updTin_widthPin : (d.updTin i f).widthPin = d.widthPin := (show ∀ r, ({ d with tin := r } : Dev).widthPin = d.widthPin from fun _ => rfl) _
@[simp] theorem updTin_accKept : (d.updTin i f).accKept = d.accKept := (show ∀ r, ({ d with tin := r } : Dev).accKept = d.accKept from fun _ => rfl) _
@[simp] theorem updTin_safeEdge : (d.updTin i f).safeEdge = d.safeEdge := (show ∀ r, ({ d with tin := r } : Dev).safeEdge = d.safeEdge from fun _ => rfl) _
@[simp] theorem updTin_mgmtPin : (d.updTin i f).mgmtPin = d.mgmtPin := (show ∀ r, ({ d with tin := r } : Dev).mgmtPin = d.mgmtPin from fun _ => rfl) _
end updTinFields

section updEcFields
variable (d : Dev) (n : Nat) (f : EcSt → EcSt)
@[simp] theorem updEc_regs : (d.updEc n f).regs = d.regs := (show ∀ r, ({ d with ec := r } : Dev).regs = d.regs from fun _ => rfl) _
@[simp] theorem updEc_inforce : (d.updEc n f).inforce = d.inforce := (show ∀ r, ({ d with ec := r } : Dev).inforce = d.inforce from fun _ => rfl) _
@[simp] theorem updEc_latch : (d.updEc n f).latch = d.latch := (show ∀ r, ({ d with ec := r } : Dev).latch = d.latch from fun _ => rfl) _
@[simp] theorem updEc_stage : (d.updEc n f).stage = d.stage := (show ∀ r, ({ d with ec := r } : Dev).stage = d.stage from fun _ => rfl) _
@[simp] theorem updEc_parity : (d.updEc n f).parity = d.parity := (show ∀ r, ({ d with ec := r } : Dev).parity = d.parity from fun _ => rfl) _
@[simp] theorem updEc_freeCtr : (d.updEc n f).freeCtr = d.freeCtr := (show ∀ r, ({ d with ec := r } : Dev).freeCtr = d.freeCtr from fun _ => rfl) _
@[simp] theorem updEc_time : (d.updEc n f).time = d.time := (show ∀ r, ({ d with ec := r } : Dev).time = d.time from fun _ => rfl) _
@[simp] theorem updEc_ports : (d.updEc n f).ports = d.ports := (show ∀ r, ({ d with ec := r } : Dev).ports = d.ports from fun _ => rfl) _
@[simp] theorem updEc_chan : (d.updEc n f).chan = d.chan := (show ∀ r, ({ d with ec := r } : Dev).chan = d.chan from fun _ => rfl) _
@[simp] theorem updEc_frames : (d.updEc n f).frames = d.frames := (show ∀ r, ({ d with ec := r } : Dev).frames = d.frames from fun _ => rfl) _
@[simp] theorem updEc_launches : (d.updEc n f).launches = d.launches := (show ∀ r, ({ d with ec := r } : Dev).launches = d.launches from fun _ => rfl) _
@[simp] theorem updEc_edges : (d.updEc n f).edges = d.edges := (show ∀ r, ({ d with ec := r } : Dev).edges = d.edges from fun _ => rfl) _
@[simp] theorem updEc_mkLine : (d.updEc n f).mkLine = d.mkLine := (show ∀ r, ({ d with ec := r } : Dev).mkLine = d.mkLine from fun _ => rfl) _
@[simp] theorem updEc_eng : (d.updEc n f).eng = d.eng := (show ∀ r, ({ d with ec := r } : Dev).eng = d.eng from fun _ => rfl) _
@[simp] theorem updEc_ei : (d.updEc n f).ei = d.ei := (show ∀ r, ({ d with ec := r } : Dev).ei = d.ei from fun _ => rfl) _
@[simp] theorem updEc_tin : (d.updEc n f).tin = d.tin := (show ∀ r, ({ d with ec := r } : Dev).tin = d.tin from fun _ => rfl) _
@[simp] theorem updEc_grp : (d.updEc n f).grp = d.grp := (show ∀ r, ({ d with ec := r } : Dev).grp = d.grp from fun _ => rfl) _
@[simp] theorem updEc_tout : (d.updEc n f).tout = d.tout := (show ∀ r, ({ d with ec := r } : Dev).tout = d.tout from fun _ => rfl) _
@[simp] theorem updEc_ti : (d.updEc n f).ti = d.ti := (show ∀ r, ({ d with ec := r } : Dev).ti = d.ti from fun _ => rfl) _
@[simp] theorem updEc_cap : (d.updEc n f).cap = d.cap := (show ∀ r, ({ d with ec := r } : Dev).cap = d.cap from fun _ => rfl) _
@[simp] theorem updEc_prog : (d.updEc n f).prog = d.prog := (show ∀ r, ({ d with ec := r } : Dev).prog = d.prog from fun _ => rfl) _
@[simp] theorem updEc_ctx : (d.updEc n f).ctx = d.ctx := (show ∀ r, ({ d with ec := r } : Dev).ctx = d.ctx from fun _ => rfl) _
@[simp] theorem updEc_env : (d.updEc n f).env = d.env := (show ∀ r, ({ d with ec := r } : Dev).env = d.env from fun _ => rfl) _
@[simp] theorem updEc_bank : (d.updEc n f).bank = d.bank := (show ∀ r, ({ d with ec := r } : Dev).bank = d.bank from fun _ => rfl) _
@[simp] theorem updEc_sc : (d.updEc n f).sc = d.sc := (show ∀ r, ({ d with ec := r } : Dev).sc = d.sc from fun _ => rfl) _
@[simp] theorem updEc_capBuf : (d.updEc n f).capBuf = d.capBuf := (show ∀ r, ({ d with ec := r } : Dev).capBuf = d.capBuf from fun _ => rfl) _
@[simp] theorem updEc_mailbox : (d.updEc n f).mailbox = d.mailbox := (show ∀ r, ({ d with ec := r } : Dev).mailbox = d.mailbox from fun _ => rfl) _
@[simp] theorem updEc_dram : (d.updEc n f).dram = d.dram := (show ∀ r, ({ d with ec := r } : Dev).dram = d.dram from fun _ => rfl) _
@[simp] theorem updEc_wiped : (d.updEc n f).wiped = d.wiped := (show ∀ r, ({ d with ec := r } : Dev).wiped = d.wiped from fun _ => rfl) _
@[simp] theorem updEc_badCw : (d.updEc n f).badCw = d.badCw := (show ∀ r, ({ d with ec := r } : Dev).badCw = d.badCw from fun _ => rfl) _
@[simp] theorem updEc_mm : (d.updEc n f).mm = d.mm := (show ∀ r, ({ d with ec := r } : Dev).mm = d.mm from fun _ => rfl) _
@[simp] theorem updEc_ptab : (d.updEc n f).ptab = d.ptab := (show ∀ r, ({ d with ec := r } : Dev).ptab = d.ptab from fun _ => rfl) _
@[simp] theorem updEc_limH : (d.updEc n f).limH = d.limH := (show ∀ r, ({ d with ec := r } : Dev).limH = d.limH from fun _ => rfl) _
@[simp] theorem updEc_wdtMs : (d.updEc n f).wdtMs = d.wdtMs := (show ∀ r, ({ d with ec := r } : Dev).wdtMs = d.wdtMs from fun _ => rfl) _
@[simp] theorem updEc_normalRefresh : (d.updEc n f).normalRefresh = d.normalRefresh := (show ∀ r, ({ d with ec := r } : Dev).normalRefresh = d.normalRefresh from fun _ => rfl) _
@[simp] theorem updEc_hostMem : (d.updEc n f).hostMem = d.hostMem := (show ∀ r, ({ d with ec := r } : Dev).hostMem = d.hostMem from fun _ => rfl) _
@[simp] theorem updEc_adm : (d.updEc n f).adm = d.adm := (show ∀ r, ({ d with ec := r } : Dev).adm = d.adm from fun _ => rfl) _
@[simp] theorem updEc_host : (d.updEc n f).host = d.host := (show ∀ r, ({ d with ec := r } : Dev).host = d.host from fun _ => rfl) _
@[simp] theorem updEc_faults : (d.updEc n f).faults = d.faults := (show ∀ r, ({ d with ec := r } : Dev).faults = d.faults from fun _ => rfl) _
@[simp] theorem updEc_faultId : (d.updEc n f).faultId = d.faultId := (show ∀ r, ({ d with ec := r } : Dev).faultId = d.faultId from fun _ => rfl) _
@[simp] theorem updEc_safePin : (d.updEc n f).safePin = d.safePin := (show ∀ r, ({ d with ec := r } : Dev).safePin = d.safePin from fun _ => rfl) _
@[simp] theorem updEc_therm : (d.updEc n f).therm = d.therm := (show ∀ r, ({ d with ec := r } : Dev).therm = d.therm from fun _ => rfl) _
@[simp] theorem updEc_extest : (d.updEc n f).extest = d.extest := (show ∀ r, ({ d with ec := r } : Dev).extest = d.extest from fun _ => rfl) _
@[simp] theorem updEc_loadnAt : (d.updEc n f).loadnAt = d.loadnAt := (show ∀ r, ({ d with ec := r } : Dev).loadnAt = d.loadnAt from fun _ => rfl) _
@[simp] theorem updEc_clk : (d.updEc n f).clk = d.clk := (show ∀ r, ({ d with ec := r } : Dev).clk = d.clk from fun _ => rfl) _
@[simp] theorem updEc_calT : (d.updEc n f).calT = d.calT := (show ∀ r, ({ d with ec := r } : Dev).calT = d.calT from fun _ => rfl) _
@[simp] theorem updEc_dmc : (d.updEc n f).dmc = d.dmc := (show ∀ r, ({ d with ec := r } : Dev).dmc = d.dmc from fun _ => rfl) _
@[simp] theorem updEc_moved : (d.updEc n f).moved = d.moved := (show ∀ r, ({ d with ec := r } : Dev).moved = d.moved from fun _ => rfl) _
@[simp] theorem updEc_frzN : (d.updEc n f).frzN = d.frzN := (show ∀ r, ({ d with ec := r } : Dev).frzN = d.frzN from fun _ => rfl) _
@[simp] theorem updEc_sec : (d.updEc n f).sec = d.sec := (show ∀ r, ({ d with ec := r } : Dev).sec = d.sec from fun _ => rfl) _
@[simp] theorem updEc_aon : (d.updEc n f).aon = d.aon := (show ∀ r, ({ d with ec := r } : Dev).aon = d.aon from fun _ => rfl) _
@[simp] theorem updEc_standby : (d.updEc n f).standby = d.standby := (show ∀ r, ({ d with ec := r } : Dev).standby = d.standby from fun _ => rfl) _
@[simp] theorem updEc_d3hot : (d.updEc n f).d3hot = d.d3hot := (show ∀ r, ({ d with ec := r } : Dev).d3hot = d.d3hot from fun _ => rfl) _
@[simp] theorem updEc_flash : (d.updEc n f).flash = d.flash := (show ∀ r, ({ d with ec := r } : Dev).flash = d.flash from fun _ => rfl) _
@[simp] theorem updEc_flashSize : (d.updEc n f).flashSize = d.flashSize := (show ∀ r, ({ d with ec := r } : Dev).flashSize = d.flashSize from fun _ => rfl) _
@[simp] theorem updEc_dimms : (d.updEc n f).dimms = d.dimms := (show ∀ r, ({ d with ec := r } : Dev).dimms = d.dimms from fun _ => rfl) _
@[simp] theorem updEc_descC : (d.updEc n f).descC = d.descC := (show ∀ r, ({ d with ec := r } : Dev).descC = d.descC from fun _ => rfl) _
@[simp] theorem updEc_arrCtr : (d.updEc n f).arrCtr = d.arrCtr := (show ∀ r, ({ d with ec := r } : Dev).arrCtr = d.arrCtr from fun _ => rfl) _
@[simp] theorem updEc_icache : (d.updEc n f).icache = d.icache := (show ∀ r, ({ d with ec := r } : Dev).icache = d.icache from fun _ => rfl) _
@[simp] theorem updEc_widthPin : (d.updEc n f).widthPin = d.widthPin := (show ∀ r, ({ d with ec := r } : Dev).widthPin = d.widthPin from fun _ => rfl) _
@[simp] theorem updEc_accKept : (d.updEc n f).accKept = d.accKept := (show ∀ r, ({ d with ec := r } : Dev).accKept = d.accKept from fun _ => rfl) _
@[simp] theorem updEc_safeEdge : (d.updEc n f).safeEdge = d.safeEdge := (show ∀ r, ({ d with ec := r } : Dev).safeEdge = d.safeEdge from fun _ => rfl) _
@[simp] theorem updEc_mgmtPin : (d.updEc n f).mgmtPin = d.mgmtPin := (show ∀ r, ({ d with ec := r } : Dev).mgmtPin = d.mgmtPin from fun _ => rfl) _
end updEcFields

section updGrpFields
variable (d : Dev) (g : Nat) (f : GrpSt → GrpSt)
@[simp] theorem updGrp_regs : (d.updGrp g f).regs = d.regs := (show ∀ r, ({ d with grp := r } : Dev).regs = d.regs from fun _ => rfl) _
@[simp] theorem updGrp_inforce : (d.updGrp g f).inforce = d.inforce := (show ∀ r, ({ d with grp := r } : Dev).inforce = d.inforce from fun _ => rfl) _
@[simp] theorem updGrp_latch : (d.updGrp g f).latch = d.latch := (show ∀ r, ({ d with grp := r } : Dev).latch = d.latch from fun _ => rfl) _
@[simp] theorem updGrp_stage : (d.updGrp g f).stage = d.stage := (show ∀ r, ({ d with grp := r } : Dev).stage = d.stage from fun _ => rfl) _
@[simp] theorem updGrp_parity : (d.updGrp g f).parity = d.parity := (show ∀ r, ({ d with grp := r } : Dev).parity = d.parity from fun _ => rfl) _
@[simp] theorem updGrp_freeCtr : (d.updGrp g f).freeCtr = d.freeCtr := (show ∀ r, ({ d with grp := r } : Dev).freeCtr = d.freeCtr from fun _ => rfl) _
@[simp] theorem updGrp_time : (d.updGrp g f).time = d.time := (show ∀ r, ({ d with grp := r } : Dev).time = d.time from fun _ => rfl) _
@[simp] theorem updGrp_ports : (d.updGrp g f).ports = d.ports := (show ∀ r, ({ d with grp := r } : Dev).ports = d.ports from fun _ => rfl) _
@[simp] theorem updGrp_chan : (d.updGrp g f).chan = d.chan := (show ∀ r, ({ d with grp := r } : Dev).chan = d.chan from fun _ => rfl) _
@[simp] theorem updGrp_frames : (d.updGrp g f).frames = d.frames := (show ∀ r, ({ d with grp := r } : Dev).frames = d.frames from fun _ => rfl) _
@[simp] theorem updGrp_launches : (d.updGrp g f).launches = d.launches := (show ∀ r, ({ d with grp := r } : Dev).launches = d.launches from fun _ => rfl) _
@[simp] theorem updGrp_edges : (d.updGrp g f).edges = d.edges := (show ∀ r, ({ d with grp := r } : Dev).edges = d.edges from fun _ => rfl) _
@[simp] theorem updGrp_mkLine : (d.updGrp g f).mkLine = d.mkLine := (show ∀ r, ({ d with grp := r } : Dev).mkLine = d.mkLine from fun _ => rfl) _
@[simp] theorem updGrp_eng : (d.updGrp g f).eng = d.eng := (show ∀ r, ({ d with grp := r } : Dev).eng = d.eng from fun _ => rfl) _
@[simp] theorem updGrp_ei : (d.updGrp g f).ei = d.ei := (show ∀ r, ({ d with grp := r } : Dev).ei = d.ei from fun _ => rfl) _
@[simp] theorem updGrp_ec : (d.updGrp g f).ec = d.ec := (show ∀ r, ({ d with grp := r } : Dev).ec = d.ec from fun _ => rfl) _
@[simp] theorem updGrp_tin : (d.updGrp g f).tin = d.tin := (show ∀ r, ({ d with grp := r } : Dev).tin = d.tin from fun _ => rfl) _
@[simp] theorem updGrp_tout : (d.updGrp g f).tout = d.tout := (show ∀ r, ({ d with grp := r } : Dev).tout = d.tout from fun _ => rfl) _
@[simp] theorem updGrp_ti : (d.updGrp g f).ti = d.ti := (show ∀ r, ({ d with grp := r } : Dev).ti = d.ti from fun _ => rfl) _
@[simp] theorem updGrp_cap : (d.updGrp g f).cap = d.cap := (show ∀ r, ({ d with grp := r } : Dev).cap = d.cap from fun _ => rfl) _
@[simp] theorem updGrp_prog : (d.updGrp g f).prog = d.prog := (show ∀ r, ({ d with grp := r } : Dev).prog = d.prog from fun _ => rfl) _
@[simp] theorem updGrp_ctx : (d.updGrp g f).ctx = d.ctx := (show ∀ r, ({ d with grp := r } : Dev).ctx = d.ctx from fun _ => rfl) _
@[simp] theorem updGrp_env : (d.updGrp g f).env = d.env := (show ∀ r, ({ d with grp := r } : Dev).env = d.env from fun _ => rfl) _
@[simp] theorem updGrp_bank : (d.updGrp g f).bank = d.bank := (show ∀ r, ({ d with grp := r } : Dev).bank = d.bank from fun _ => rfl) _
@[simp] theorem updGrp_sc : (d.updGrp g f).sc = d.sc := (show ∀ r, ({ d with grp := r } : Dev).sc = d.sc from fun _ => rfl) _
@[simp] theorem updGrp_capBuf : (d.updGrp g f).capBuf = d.capBuf := (show ∀ r, ({ d with grp := r } : Dev).capBuf = d.capBuf from fun _ => rfl) _
@[simp] theorem updGrp_mailbox : (d.updGrp g f).mailbox = d.mailbox := (show ∀ r, ({ d with grp := r } : Dev).mailbox = d.mailbox from fun _ => rfl) _
@[simp] theorem updGrp_dram : (d.updGrp g f).dram = d.dram := (show ∀ r, ({ d with grp := r } : Dev).dram = d.dram from fun _ => rfl) _
@[simp] theorem updGrp_wiped : (d.updGrp g f).wiped = d.wiped := (show ∀ r, ({ d with grp := r } : Dev).wiped = d.wiped from fun _ => rfl) _
@[simp] theorem updGrp_badCw : (d.updGrp g f).badCw = d.badCw := (show ∀ r, ({ d with grp := r } : Dev).badCw = d.badCw from fun _ => rfl) _
@[simp] theorem updGrp_mm : (d.updGrp g f).mm = d.mm := (show ∀ r, ({ d with grp := r } : Dev).mm = d.mm from fun _ => rfl) _
@[simp] theorem updGrp_ptab : (d.updGrp g f).ptab = d.ptab := (show ∀ r, ({ d with grp := r } : Dev).ptab = d.ptab from fun _ => rfl) _
@[simp] theorem updGrp_limH : (d.updGrp g f).limH = d.limH := (show ∀ r, ({ d with grp := r } : Dev).limH = d.limH from fun _ => rfl) _
@[simp] theorem updGrp_wdtMs : (d.updGrp g f).wdtMs = d.wdtMs := (show ∀ r, ({ d with grp := r } : Dev).wdtMs = d.wdtMs from fun _ => rfl) _
@[simp] theorem updGrp_normalRefresh : (d.updGrp g f).normalRefresh = d.normalRefresh := (show ∀ r, ({ d with grp := r } : Dev).normalRefresh = d.normalRefresh from fun _ => rfl) _
@[simp] theorem updGrp_hostMem : (d.updGrp g f).hostMem = d.hostMem := (show ∀ r, ({ d with grp := r } : Dev).hostMem = d.hostMem from fun _ => rfl) _
@[simp] theorem updGrp_adm : (d.updGrp g f).adm = d.adm := (show ∀ r, ({ d with grp := r } : Dev).adm = d.adm from fun _ => rfl) _
@[simp] theorem updGrp_host : (d.updGrp g f).host = d.host := (show ∀ r, ({ d with grp := r } : Dev).host = d.host from fun _ => rfl) _
@[simp] theorem updGrp_faults : (d.updGrp g f).faults = d.faults := (show ∀ r, ({ d with grp := r } : Dev).faults = d.faults from fun _ => rfl) _
@[simp] theorem updGrp_faultId : (d.updGrp g f).faultId = d.faultId := (show ∀ r, ({ d with grp := r } : Dev).faultId = d.faultId from fun _ => rfl) _
@[simp] theorem updGrp_safePin : (d.updGrp g f).safePin = d.safePin := (show ∀ r, ({ d with grp := r } : Dev).safePin = d.safePin from fun _ => rfl) _
@[simp] theorem updGrp_therm : (d.updGrp g f).therm = d.therm := (show ∀ r, ({ d with grp := r } : Dev).therm = d.therm from fun _ => rfl) _
@[simp] theorem updGrp_extest : (d.updGrp g f).extest = d.extest := (show ∀ r, ({ d with grp := r } : Dev).extest = d.extest from fun _ => rfl) _
@[simp] theorem updGrp_loadnAt : (d.updGrp g f).loadnAt = d.loadnAt := (show ∀ r, ({ d with grp := r } : Dev).loadnAt = d.loadnAt from fun _ => rfl) _
@[simp] theorem updGrp_clk : (d.updGrp g f).clk = d.clk := (show ∀ r, ({ d with grp := r } : Dev).clk = d.clk from fun _ => rfl) _
@[simp] theorem updGrp_calT : (d.updGrp g f).calT = d.calT := (show ∀ r, ({ d with grp := r } : Dev).calT = d.calT from fun _ => rfl) _
@[simp] theorem updGrp_dmc : (d.updGrp g f).dmc = d.dmc := (show ∀ r, ({ d with grp := r } : Dev).dmc = d.dmc from fun _ => rfl) _
@[simp] theorem updGrp_moved : (d.updGrp g f).moved = d.moved := (show ∀ r, ({ d with grp := r } : Dev).moved = d.moved from fun _ => rfl) _
@[simp] theorem updGrp_frzN : (d.updGrp g f).frzN = d.frzN := (show ∀ r, ({ d with grp := r } : Dev).frzN = d.frzN from fun _ => rfl) _
@[simp] theorem updGrp_sec : (d.updGrp g f).sec = d.sec := (show ∀ r, ({ d with grp := r } : Dev).sec = d.sec from fun _ => rfl) _
@[simp] theorem updGrp_aon : (d.updGrp g f).aon = d.aon := (show ∀ r, ({ d with grp := r } : Dev).aon = d.aon from fun _ => rfl) _
@[simp] theorem updGrp_standby : (d.updGrp g f).standby = d.standby := (show ∀ r, ({ d with grp := r } : Dev).standby = d.standby from fun _ => rfl) _
@[simp] theorem updGrp_d3hot : (d.updGrp g f).d3hot = d.d3hot := (show ∀ r, ({ d with grp := r } : Dev).d3hot = d.d3hot from fun _ => rfl) _
@[simp] theorem updGrp_flash : (d.updGrp g f).flash = d.flash := (show ∀ r, ({ d with grp := r } : Dev).flash = d.flash from fun _ => rfl) _
@[simp] theorem updGrp_flashSize : (d.updGrp g f).flashSize = d.flashSize := (show ∀ r, ({ d with grp := r } : Dev).flashSize = d.flashSize from fun _ => rfl) _
@[simp] theorem updGrp_dimms : (d.updGrp g f).dimms = d.dimms := (show ∀ r, ({ d with grp := r } : Dev).dimms = d.dimms from fun _ => rfl) _
@[simp] theorem updGrp_descC : (d.updGrp g f).descC = d.descC := (show ∀ r, ({ d with grp := r } : Dev).descC = d.descC from fun _ => rfl) _
@[simp] theorem updGrp_arrCtr : (d.updGrp g f).arrCtr = d.arrCtr := (show ∀ r, ({ d with grp := r } : Dev).arrCtr = d.arrCtr from fun _ => rfl) _
@[simp] theorem updGrp_icache : (d.updGrp g f).icache = d.icache := (show ∀ r, ({ d with grp := r } : Dev).icache = d.icache from fun _ => rfl) _
@[simp] theorem updGrp_widthPin : (d.updGrp g f).widthPin = d.widthPin := (show ∀ r, ({ d with grp := r } : Dev).widthPin = d.widthPin from fun _ => rfl) _
@[simp] theorem updGrp_accKept : (d.updGrp g f).accKept = d.accKept := (show ∀ r, ({ d with grp := r } : Dev).accKept = d.accKept from fun _ => rfl) _
@[simp] theorem updGrp_safeEdge : (d.updGrp g f).safeEdge = d.safeEdge := (show ∀ r, ({ d with grp := r } : Dev).safeEdge = d.safeEdge from fun _ => rfl) _
@[simp] theorem updGrp_mgmtPin : (d.updGrp g f).mgmtPin = d.mgmtPin := (show ∀ r, ({ d with grp := r } : Dev).mgmtPin = d.mgmtPin from fun _ => rfl) _
end updGrpFields

section updPortFields
variable (d : Dev) (p : Nat) (f : Port → Port)
@[simp] theorem updPort_regs : (d.updPort p f).regs = d.regs := (show ∀ r, ({ d with ports := r } : Dev).regs = d.regs from fun _ => rfl) _
@[simp] theorem updPort_inforce : (d.updPort p f).inforce = d.inforce := (show ∀ r, ({ d with ports := r } : Dev).inforce = d.inforce from fun _ => rfl) _
@[simp] theorem updPort_latch : (d.updPort p f).latch = d.latch := (show ∀ r, ({ d with ports := r } : Dev).latch = d.latch from fun _ => rfl) _
@[simp] theorem updPort_stage : (d.updPort p f).stage = d.stage := (show ∀ r, ({ d with ports := r } : Dev).stage = d.stage from fun _ => rfl) _
@[simp] theorem updPort_parity : (d.updPort p f).parity = d.parity := (show ∀ r, ({ d with ports := r } : Dev).parity = d.parity from fun _ => rfl) _
@[simp] theorem updPort_freeCtr : (d.updPort p f).freeCtr = d.freeCtr := (show ∀ r, ({ d with ports := r } : Dev).freeCtr = d.freeCtr from fun _ => rfl) _
@[simp] theorem updPort_time : (d.updPort p f).time = d.time := (show ∀ r, ({ d with ports := r } : Dev).time = d.time from fun _ => rfl) _
@[simp] theorem updPort_chan : (d.updPort p f).chan = d.chan := (show ∀ r, ({ d with ports := r } : Dev).chan = d.chan from fun _ => rfl) _
@[simp] theorem updPort_frames : (d.updPort p f).frames = d.frames := (show ∀ r, ({ d with ports := r } : Dev).frames = d.frames from fun _ => rfl) _
@[simp] theorem updPort_launches : (d.updPort p f).launches = d.launches := (show ∀ r, ({ d with ports := r } : Dev).launches = d.launches from fun _ => rfl) _
@[simp] theorem updPort_edges : (d.updPort p f).edges = d.edges := (show ∀ r, ({ d with ports := r } : Dev).edges = d.edges from fun _ => rfl) _
@[simp] theorem updPort_mkLine : (d.updPort p f).mkLine = d.mkLine := (show ∀ r, ({ d with ports := r } : Dev).mkLine = d.mkLine from fun _ => rfl) _
@[simp] theorem updPort_eng : (d.updPort p f).eng = d.eng := (show ∀ r, ({ d with ports := r } : Dev).eng = d.eng from fun _ => rfl) _
@[simp] theorem updPort_ei : (d.updPort p f).ei = d.ei := (show ∀ r, ({ d with ports := r } : Dev).ei = d.ei from fun _ => rfl) _
@[simp] theorem updPort_ec : (d.updPort p f).ec = d.ec := (show ∀ r, ({ d with ports := r } : Dev).ec = d.ec from fun _ => rfl) _
@[simp] theorem updPort_tin : (d.updPort p f).tin = d.tin := (show ∀ r, ({ d with ports := r } : Dev).tin = d.tin from fun _ => rfl) _
@[simp] theorem updPort_grp : (d.updPort p f).grp = d.grp := (show ∀ r, ({ d with ports := r } : Dev).grp = d.grp from fun _ => rfl) _
@[simp] theorem updPort_tout : (d.updPort p f).tout = d.tout := (show ∀ r, ({ d with ports := r } : Dev).tout = d.tout from fun _ => rfl) _
@[simp] theorem updPort_ti : (d.updPort p f).ti = d.ti := (show ∀ r, ({ d with ports := r } : Dev).ti = d.ti from fun _ => rfl) _
@[simp] theorem updPort_cap : (d.updPort p f).cap = d.cap := (show ∀ r, ({ d with ports := r } : Dev).cap = d.cap from fun _ => rfl) _
@[simp] theorem updPort_prog : (d.updPort p f).prog = d.prog := (show ∀ r, ({ d with ports := r } : Dev).prog = d.prog from fun _ => rfl) _
@[simp] theorem updPort_ctx : (d.updPort p f).ctx = d.ctx := (show ∀ r, ({ d with ports := r } : Dev).ctx = d.ctx from fun _ => rfl) _
@[simp] theorem updPort_env : (d.updPort p f).env = d.env := (show ∀ r, ({ d with ports := r } : Dev).env = d.env from fun _ => rfl) _
@[simp] theorem updPort_bank : (d.updPort p f).bank = d.bank := (show ∀ r, ({ d with ports := r } : Dev).bank = d.bank from fun _ => rfl) _
@[simp] theorem updPort_sc : (d.updPort p f).sc = d.sc := (show ∀ r, ({ d with ports := r } : Dev).sc = d.sc from fun _ => rfl) _
@[simp] theorem updPort_capBuf : (d.updPort p f).capBuf = d.capBuf := (show ∀ r, ({ d with ports := r } : Dev).capBuf = d.capBuf from fun _ => rfl) _
@[simp] theorem updPort_mailbox : (d.updPort p f).mailbox = d.mailbox := (show ∀ r, ({ d with ports := r } : Dev).mailbox = d.mailbox from fun _ => rfl) _
@[simp] theorem updPort_dram : (d.updPort p f).dram = d.dram := (show ∀ r, ({ d with ports := r } : Dev).dram = d.dram from fun _ => rfl) _
@[simp] theorem updPort_wiped : (d.updPort p f).wiped = d.wiped := (show ∀ r, ({ d with ports := r } : Dev).wiped = d.wiped from fun _ => rfl) _
@[simp] theorem updPort_badCw : (d.updPort p f).badCw = d.badCw := (show ∀ r, ({ d with ports := r } : Dev).badCw = d.badCw from fun _ => rfl) _
@[simp] theorem updPort_mm : (d.updPort p f).mm = d.mm := (show ∀ r, ({ d with ports := r } : Dev).mm = d.mm from fun _ => rfl) _
@[simp] theorem updPort_ptab : (d.updPort p f).ptab = d.ptab := (show ∀ r, ({ d with ports := r } : Dev).ptab = d.ptab from fun _ => rfl) _
@[simp] theorem updPort_limH : (d.updPort p f).limH = d.limH := (show ∀ r, ({ d with ports := r } : Dev).limH = d.limH from fun _ => rfl) _
@[simp] theorem updPort_wdtMs : (d.updPort p f).wdtMs = d.wdtMs := (show ∀ r, ({ d with ports := r } : Dev).wdtMs = d.wdtMs from fun _ => rfl) _
@[simp] theorem updPort_normalRefresh : (d.updPort p f).normalRefresh = d.normalRefresh := (show ∀ r, ({ d with ports := r } : Dev).normalRefresh = d.normalRefresh from fun _ => rfl) _
@[simp] theorem updPort_hostMem : (d.updPort p f).hostMem = d.hostMem := (show ∀ r, ({ d with ports := r } : Dev).hostMem = d.hostMem from fun _ => rfl) _
@[simp] theorem updPort_adm : (d.updPort p f).adm = d.adm := (show ∀ r, ({ d with ports := r } : Dev).adm = d.adm from fun _ => rfl) _
@[simp] theorem updPort_host : (d.updPort p f).host = d.host := (show ∀ r, ({ d with ports := r } : Dev).host = d.host from fun _ => rfl) _
@[simp] theorem updPort_faults : (d.updPort p f).faults = d.faults := (show ∀ r, ({ d with ports := r } : Dev).faults = d.faults from fun _ => rfl) _
@[simp] theorem updPort_faultId : (d.updPort p f).faultId = d.faultId := (show ∀ r, ({ d with ports := r } : Dev).faultId = d.faultId from fun _ => rfl) _
@[simp] theorem updPort_safePin : (d.updPort p f).safePin = d.safePin := (show ∀ r, ({ d with ports := r } : Dev).safePin = d.safePin from fun _ => rfl) _
@[simp] theorem updPort_therm : (d.updPort p f).therm = d.therm := (show ∀ r, ({ d with ports := r } : Dev).therm = d.therm from fun _ => rfl) _
@[simp] theorem updPort_extest : (d.updPort p f).extest = d.extest := (show ∀ r, ({ d with ports := r } : Dev).extest = d.extest from fun _ => rfl) _
@[simp] theorem updPort_loadnAt : (d.updPort p f).loadnAt = d.loadnAt := (show ∀ r, ({ d with ports := r } : Dev).loadnAt = d.loadnAt from fun _ => rfl) _
@[simp] theorem updPort_clk : (d.updPort p f).clk = d.clk := (show ∀ r, ({ d with ports := r } : Dev).clk = d.clk from fun _ => rfl) _
@[simp] theorem updPort_calT : (d.updPort p f).calT = d.calT := (show ∀ r, ({ d with ports := r } : Dev).calT = d.calT from fun _ => rfl) _
@[simp] theorem updPort_dmc : (d.updPort p f).dmc = d.dmc := (show ∀ r, ({ d with ports := r } : Dev).dmc = d.dmc from fun _ => rfl) _
@[simp] theorem updPort_moved : (d.updPort p f).moved = d.moved := (show ∀ r, ({ d with ports := r } : Dev).moved = d.moved from fun _ => rfl) _
@[simp] theorem updPort_frzN : (d.updPort p f).frzN = d.frzN := (show ∀ r, ({ d with ports := r } : Dev).frzN = d.frzN from fun _ => rfl) _
@[simp] theorem updPort_sec : (d.updPort p f).sec = d.sec := (show ∀ r, ({ d with ports := r } : Dev).sec = d.sec from fun _ => rfl) _
@[simp] theorem updPort_aon : (d.updPort p f).aon = d.aon := (show ∀ r, ({ d with ports := r } : Dev).aon = d.aon from fun _ => rfl) _
@[simp] theorem updPort_standby : (d.updPort p f).standby = d.standby := (show ∀ r, ({ d with ports := r } : Dev).standby = d.standby from fun _ => rfl) _
@[simp] theorem updPort_d3hot : (d.updPort p f).d3hot = d.d3hot := (show ∀ r, ({ d with ports := r } : Dev).d3hot = d.d3hot from fun _ => rfl) _
@[simp] theorem updPort_flash : (d.updPort p f).flash = d.flash := (show ∀ r, ({ d with ports := r } : Dev).flash = d.flash from fun _ => rfl) _
@[simp] theorem updPort_flashSize : (d.updPort p f).flashSize = d.flashSize := (show ∀ r, ({ d with ports := r } : Dev).flashSize = d.flashSize from fun _ => rfl) _
@[simp] theorem updPort_dimms : (d.updPort p f).dimms = d.dimms := (show ∀ r, ({ d with ports := r } : Dev).dimms = d.dimms from fun _ => rfl) _
@[simp] theorem updPort_descC : (d.updPort p f).descC = d.descC := (show ∀ r, ({ d with ports := r } : Dev).descC = d.descC from fun _ => rfl) _
@[simp] theorem updPort_arrCtr : (d.updPort p f).arrCtr = d.arrCtr := (show ∀ r, ({ d with ports := r } : Dev).arrCtr = d.arrCtr from fun _ => rfl) _
@[simp] theorem updPort_icache : (d.updPort p f).icache = d.icache := (show ∀ r, ({ d with ports := r } : Dev).icache = d.icache from fun _ => rfl) _
@[simp] theorem updPort_widthPin : (d.updPort p f).widthPin = d.widthPin := (show ∀ r, ({ d with ports := r } : Dev).widthPin = d.widthPin from fun _ => rfl) _
@[simp] theorem updPort_accKept : (d.updPort p f).accKept = d.accKept := (show ∀ r, ({ d with ports := r } : Dev).accKept = d.accKept from fun _ => rfl) _
@[simp] theorem updPort_safeEdge : (d.updPort p f).safeEdge = d.safeEdge := (show ∀ r, ({ d with ports := r } : Dev).safeEdge = d.safeEdge from fun _ => rfl) _
@[simp] theorem updPort_mgmtPin : (d.updPort p f).mgmtPin = d.mgmtPin := (show ∀ r, ({ d with ports := r } : Dev).mgmtPin = d.mgmtPin from fun _ => rfl) _
end updPortFields

section setFrameFields
variable (d : Dev) (ch f : Nat) (r : FrameRec)
@[simp] theorem setFrame_regs : (d.setFrame ch f r).regs = d.regs := (show ∀ r, ({ d with frames := r } : Dev).regs = d.regs from fun _ => rfl) _
@[simp] theorem setFrame_inforce : (d.setFrame ch f r).inforce = d.inforce := (show ∀ r, ({ d with frames := r } : Dev).inforce = d.inforce from fun _ => rfl) _
@[simp] theorem setFrame_latch : (d.setFrame ch f r).latch = d.latch := (show ∀ r, ({ d with frames := r } : Dev).latch = d.latch from fun _ => rfl) _
@[simp] theorem setFrame_stage : (d.setFrame ch f r).stage = d.stage := (show ∀ r, ({ d with frames := r } : Dev).stage = d.stage from fun _ => rfl) _
@[simp] theorem setFrame_parity : (d.setFrame ch f r).parity = d.parity := (show ∀ r, ({ d with frames := r } : Dev).parity = d.parity from fun _ => rfl) _
@[simp] theorem setFrame_freeCtr : (d.setFrame ch f r).freeCtr = d.freeCtr := (show ∀ r, ({ d with frames := r } : Dev).freeCtr = d.freeCtr from fun _ => rfl) _
@[simp] theorem setFrame_time : (d.setFrame ch f r).time = d.time := (show ∀ r, ({ d with frames := r } : Dev).time = d.time from fun _ => rfl) _
@[simp] theorem setFrame_ports : (d.setFrame ch f r).ports = d.ports := (show ∀ r, ({ d with frames := r } : Dev).ports = d.ports from fun _ => rfl) _
@[simp] theorem setFrame_chan : (d.setFrame ch f r).chan = d.chan := (show ∀ r, ({ d with frames := r } : Dev).chan = d.chan from fun _ => rfl) _
@[simp] theorem setFrame_launches : (d.setFrame ch f r).launches = d.launches := (show ∀ r, ({ d with frames := r } : Dev).launches = d.launches from fun _ => rfl) _
@[simp] theorem setFrame_edges : (d.setFrame ch f r).edges = d.edges := (show ∀ r, ({ d with frames := r } : Dev).edges = d.edges from fun _ => rfl) _
@[simp] theorem setFrame_mkLine : (d.setFrame ch f r).mkLine = d.mkLine := (show ∀ r, ({ d with frames := r } : Dev).mkLine = d.mkLine from fun _ => rfl) _
@[simp] theorem setFrame_eng : (d.setFrame ch f r).eng = d.eng := (show ∀ r, ({ d with frames := r } : Dev).eng = d.eng from fun _ => rfl) _
@[simp] theorem setFrame_ei : (d.setFrame ch f r).ei = d.ei := (show ∀ r, ({ d with frames := r } : Dev).ei = d.ei from fun _ => rfl) _
@[simp] theorem setFrame_ec : (d.setFrame ch f r).ec = d.ec := (show ∀ r, ({ d with frames := r } : Dev).ec = d.ec from fun _ => rfl) _
@[simp] theorem setFrame_tin : (d.setFrame ch f r).tin = d.tin := (show ∀ r, ({ d with frames := r } : Dev).tin = d.tin from fun _ => rfl) _
@[simp] theorem setFrame_grp : (d.setFrame ch f r).grp = d.grp := (show ∀ r, ({ d with frames := r } : Dev).grp = d.grp from fun _ => rfl) _
@[simp] theorem setFrame_tout : (d.setFrame ch f r).tout = d.tout := (show ∀ r, ({ d with frames := r } : Dev).tout = d.tout from fun _ => rfl) _
@[simp] theorem setFrame_ti : (d.setFrame ch f r).ti = d.ti := (show ∀ r, ({ d with frames := r } : Dev).ti = d.ti from fun _ => rfl) _
@[simp] theorem setFrame_cap : (d.setFrame ch f r).cap = d.cap := (show ∀ r, ({ d with frames := r } : Dev).cap = d.cap from fun _ => rfl) _
@[simp] theorem setFrame_prog : (d.setFrame ch f r).prog = d.prog := (show ∀ r, ({ d with frames := r } : Dev).prog = d.prog from fun _ => rfl) _
@[simp] theorem setFrame_ctx : (d.setFrame ch f r).ctx = d.ctx := (show ∀ r, ({ d with frames := r } : Dev).ctx = d.ctx from fun _ => rfl) _
@[simp] theorem setFrame_env : (d.setFrame ch f r).env = d.env := (show ∀ r, ({ d with frames := r } : Dev).env = d.env from fun _ => rfl) _
@[simp] theorem setFrame_bank : (d.setFrame ch f r).bank = d.bank := (show ∀ r, ({ d with frames := r } : Dev).bank = d.bank from fun _ => rfl) _
@[simp] theorem setFrame_sc : (d.setFrame ch f r).sc = d.sc := (show ∀ r, ({ d with frames := r } : Dev).sc = d.sc from fun _ => rfl) _
@[simp] theorem setFrame_capBuf : (d.setFrame ch f r).capBuf = d.capBuf := (show ∀ r, ({ d with frames := r } : Dev).capBuf = d.capBuf from fun _ => rfl) _
@[simp] theorem setFrame_mailbox : (d.setFrame ch f r).mailbox = d.mailbox := (show ∀ r, ({ d with frames := r } : Dev).mailbox = d.mailbox from fun _ => rfl) _
@[simp] theorem setFrame_dram : (d.setFrame ch f r).dram = d.dram := (show ∀ r, ({ d with frames := r } : Dev).dram = d.dram from fun _ => rfl) _
@[simp] theorem setFrame_wiped : (d.setFrame ch f r).wiped = d.wiped := (show ∀ r, ({ d with frames := r } : Dev).wiped = d.wiped from fun _ => rfl) _
@[simp] theorem setFrame_badCw : (d.setFrame ch f r).badCw = d.badCw := (show ∀ r, ({ d with frames := r } : Dev).badCw = d.badCw from fun _ => rfl) _
@[simp] theorem setFrame_mm : (d.setFrame ch f r).mm = d.mm := (show ∀ r, ({ d with frames := r } : Dev).mm = d.mm from fun _ => rfl) _
@[simp] theorem setFrame_ptab : (d.setFrame ch f r).ptab = d.ptab := (show ∀ r, ({ d with frames := r } : Dev).ptab = d.ptab from fun _ => rfl) _
@[simp] theorem setFrame_limH : (d.setFrame ch f r).limH = d.limH := (show ∀ r, ({ d with frames := r } : Dev).limH = d.limH from fun _ => rfl) _
@[simp] theorem setFrame_wdtMs : (d.setFrame ch f r).wdtMs = d.wdtMs := (show ∀ r, ({ d with frames := r } : Dev).wdtMs = d.wdtMs from fun _ => rfl) _
@[simp] theorem setFrame_normalRefresh : (d.setFrame ch f r).normalRefresh = d.normalRefresh := (show ∀ r, ({ d with frames := r } : Dev).normalRefresh = d.normalRefresh from fun _ => rfl) _
@[simp] theorem setFrame_hostMem : (d.setFrame ch f r).hostMem = d.hostMem := (show ∀ r, ({ d with frames := r } : Dev).hostMem = d.hostMem from fun _ => rfl) _
@[simp] theorem setFrame_adm : (d.setFrame ch f r).adm = d.adm := (show ∀ r, ({ d with frames := r } : Dev).adm = d.adm from fun _ => rfl) _
@[simp] theorem setFrame_host : (d.setFrame ch f r).host = d.host := (show ∀ r, ({ d with frames := r } : Dev).host = d.host from fun _ => rfl) _
@[simp] theorem setFrame_faults : (d.setFrame ch f r).faults = d.faults := (show ∀ r, ({ d with frames := r } : Dev).faults = d.faults from fun _ => rfl) _
@[simp] theorem setFrame_faultId : (d.setFrame ch f r).faultId = d.faultId := (show ∀ r, ({ d with frames := r } : Dev).faultId = d.faultId from fun _ => rfl) _
@[simp] theorem setFrame_safePin : (d.setFrame ch f r).safePin = d.safePin := (show ∀ r, ({ d with frames := r } : Dev).safePin = d.safePin from fun _ => rfl) _
@[simp] theorem setFrame_therm : (d.setFrame ch f r).therm = d.therm := (show ∀ r, ({ d with frames := r } : Dev).therm = d.therm from fun _ => rfl) _
@[simp] theorem setFrame_extest : (d.setFrame ch f r).extest = d.extest := (show ∀ r, ({ d with frames := r } : Dev).extest = d.extest from fun _ => rfl) _
@[simp] theorem setFrame_loadnAt : (d.setFrame ch f r).loadnAt = d.loadnAt := (show ∀ r, ({ d with frames := r } : Dev).loadnAt = d.loadnAt from fun _ => rfl) _
@[simp] theorem setFrame_clk : (d.setFrame ch f r).clk = d.clk := (show ∀ r, ({ d with frames := r } : Dev).clk = d.clk from fun _ => rfl) _
@[simp] theorem setFrame_calT : (d.setFrame ch f r).calT = d.calT := (show ∀ r, ({ d with frames := r } : Dev).calT = d.calT from fun _ => rfl) _
@[simp] theorem setFrame_dmc : (d.setFrame ch f r).dmc = d.dmc := (show ∀ r, ({ d with frames := r } : Dev).dmc = d.dmc from fun _ => rfl) _
@[simp] theorem setFrame_moved : (d.setFrame ch f r).moved = d.moved := (show ∀ r, ({ d with frames := r } : Dev).moved = d.moved from fun _ => rfl) _
@[simp] theorem setFrame_frzN : (d.setFrame ch f r).frzN = d.frzN := (show ∀ r, ({ d with frames := r } : Dev).frzN = d.frzN from fun _ => rfl) _
@[simp] theorem setFrame_sec : (d.setFrame ch f r).sec = d.sec := (show ∀ r, ({ d with frames := r } : Dev).sec = d.sec from fun _ => rfl) _
@[simp] theorem setFrame_aon : (d.setFrame ch f r).aon = d.aon := (show ∀ r, ({ d with frames := r } : Dev).aon = d.aon from fun _ => rfl) _
@[simp] theorem setFrame_standby : (d.setFrame ch f r).standby = d.standby := (show ∀ r, ({ d with frames := r } : Dev).standby = d.standby from fun _ => rfl) _
@[simp] theorem setFrame_d3hot : (d.setFrame ch f r).d3hot = d.d3hot := (show ∀ r, ({ d with frames := r } : Dev).d3hot = d.d3hot from fun _ => rfl) _
@[simp] theorem setFrame_flash : (d.setFrame ch f r).flash = d.flash := (show ∀ r, ({ d with frames := r } : Dev).flash = d.flash from fun _ => rfl) _
@[simp] theorem setFrame_flashSize : (d.setFrame ch f r).flashSize = d.flashSize := (show ∀ r, ({ d with frames := r } : Dev).flashSize = d.flashSize from fun _ => rfl) _
@[simp] theorem setFrame_dimms : (d.setFrame ch f r).dimms = d.dimms := (show ∀ r, ({ d with frames := r } : Dev).dimms = d.dimms from fun _ => rfl) _
@[simp] theorem setFrame_descC : (d.setFrame ch f r).descC = d.descC := (show ∀ r, ({ d with frames := r } : Dev).descC = d.descC from fun _ => rfl) _
@[simp] theorem setFrame_arrCtr : (d.setFrame ch f r).arrCtr = d.arrCtr := (show ∀ r, ({ d with frames := r } : Dev).arrCtr = d.arrCtr from fun _ => rfl) _
@[simp] theorem setFrame_icache : (d.setFrame ch f r).icache = d.icache := (show ∀ r, ({ d with frames := r } : Dev).icache = d.icache from fun _ => rfl) _
@[simp] theorem setFrame_widthPin : (d.setFrame ch f r).widthPin = d.widthPin := (show ∀ r, ({ d with frames := r } : Dev).widthPin = d.widthPin from fun _ => rfl) _
@[simp] theorem setFrame_accKept : (d.setFrame ch f r).accKept = d.accKept := (show ∀ r, ({ d with frames := r } : Dev).accKept = d.accKept from fun _ => rfl) _
@[simp] theorem setFrame_safeEdge : (d.setFrame ch f r).safeEdge = d.safeEdge := (show ∀ r, ({ d with frames := r } : Dev).safeEdge = d.safeEdge from fun _ => rfl) _
@[simp] theorem setFrame_mgmtPin : (d.setFrame ch f r).mgmtPin = d.mgmtPin := (show ∀ r, ({ d with frames := r } : Dev).mgmtPin = d.mgmtPin from fun _ => rfl) _
end setFrameFields

section updCapFields
variable (d : Dev) (k : Nat) (f : CapSt → CapSt)
@[simp] theorem updCap_regs : (d.updCap k f).regs = d.regs := (show ∀ r, ({ d with cap := r } : Dev).regs = d.regs from fun _ => rfl) _
@[simp] theorem updCap_inforce : (d.updCap k f).inforce = d.inforce := (show ∀ r, ({ d with cap := r } : Dev).inforce = d.inforce from fun _ => rfl) _
@[simp] theorem updCap_latch : (d.updCap k f).latch = d.latch := (show ∀ r, ({ d with cap := r } : Dev).latch = d.latch from fun _ => rfl) _
@[simp] theorem updCap_stage : (d.updCap k f).stage = d.stage := (show ∀ r, ({ d with cap := r } : Dev).stage = d.stage from fun _ => rfl) _
@[simp] theorem updCap_parity : (d.updCap k f).parity = d.parity := (show ∀ r, ({ d with cap := r } : Dev).parity = d.parity from fun _ => rfl) _
@[simp] theorem updCap_freeCtr : (d.updCap k f).freeCtr = d.freeCtr := (show ∀ r, ({ d with cap := r } : Dev).freeCtr = d.freeCtr from fun _ => rfl) _
@[simp] theorem updCap_time : (d.updCap k f).time = d.time := (show ∀ r, ({ d with cap := r } : Dev).time = d.time from fun _ => rfl) _
@[simp] theorem updCap_ports : (d.updCap k f).ports = d.ports := (show ∀ r, ({ d with cap := r } : Dev).ports = d.ports from fun _ => rfl) _
@[simp] theorem updCap_chan : (d.updCap k f).chan = d.chan := (show ∀ r, ({ d with cap := r } : Dev).chan = d.chan from fun _ => rfl) _
@[simp] theorem updCap_frames : (d.updCap k f).frames = d.frames := (show ∀ r, ({ d with cap := r } : Dev).frames = d.frames from fun _ => rfl) _
@[simp] theorem updCap_launches : (d.updCap k f).launches = d.launches := (show ∀ r, ({ d with cap := r } : Dev).launches = d.launches from fun _ => rfl) _
@[simp] theorem updCap_edges : (d.updCap k f).edges = d.edges := (show ∀ r, ({ d with cap := r } : Dev).edges = d.edges from fun _ => rfl) _
@[simp] theorem updCap_mkLine : (d.updCap k f).mkLine = d.mkLine := (show ∀ r, ({ d with cap := r } : Dev).mkLine = d.mkLine from fun _ => rfl) _
@[simp] theorem updCap_eng : (d.updCap k f).eng = d.eng := (show ∀ r, ({ d with cap := r } : Dev).eng = d.eng from fun _ => rfl) _
@[simp] theorem updCap_ei : (d.updCap k f).ei = d.ei := (show ∀ r, ({ d with cap := r } : Dev).ei = d.ei from fun _ => rfl) _
@[simp] theorem updCap_ec : (d.updCap k f).ec = d.ec := (show ∀ r, ({ d with cap := r } : Dev).ec = d.ec from fun _ => rfl) _
@[simp] theorem updCap_tin : (d.updCap k f).tin = d.tin := (show ∀ r, ({ d with cap := r } : Dev).tin = d.tin from fun _ => rfl) _
@[simp] theorem updCap_grp : (d.updCap k f).grp = d.grp := (show ∀ r, ({ d with cap := r } : Dev).grp = d.grp from fun _ => rfl) _
@[simp] theorem updCap_tout : (d.updCap k f).tout = d.tout := (show ∀ r, ({ d with cap := r } : Dev).tout = d.tout from fun _ => rfl) _
@[simp] theorem updCap_ti : (d.updCap k f).ti = d.ti := (show ∀ r, ({ d with cap := r } : Dev).ti = d.ti from fun _ => rfl) _
@[simp] theorem updCap_prog : (d.updCap k f).prog = d.prog := (show ∀ r, ({ d with cap := r } : Dev).prog = d.prog from fun _ => rfl) _
@[simp] theorem updCap_ctx : (d.updCap k f).ctx = d.ctx := (show ∀ r, ({ d with cap := r } : Dev).ctx = d.ctx from fun _ => rfl) _
@[simp] theorem updCap_env : (d.updCap k f).env = d.env := (show ∀ r, ({ d with cap := r } : Dev).env = d.env from fun _ => rfl) _
@[simp] theorem updCap_bank : (d.updCap k f).bank = d.bank := (show ∀ r, ({ d with cap := r } : Dev).bank = d.bank from fun _ => rfl) _
@[simp] theorem updCap_sc : (d.updCap k f).sc = d.sc := (show ∀ r, ({ d with cap := r } : Dev).sc = d.sc from fun _ => rfl) _
@[simp] theorem updCap_capBuf : (d.updCap k f).capBuf = d.capBuf := (show ∀ r, ({ d with cap := r } : Dev).capBuf = d.capBuf from fun _ => rfl) _
@[simp] theorem updCap_mailbox : (d.updCap k f).mailbox = d.mailbox := (show ∀ r, ({ d with cap := r } : Dev).mailbox = d.mailbox from fun _ => rfl) _
@[simp] theorem updCap_dram : (d.updCap k f).dram = d.dram := (show ∀ r, ({ d with cap := r } : Dev).dram = d.dram from fun _ => rfl) _
@[simp] theorem updCap_wiped : (d.updCap k f).wiped = d.wiped := (show ∀ r, ({ d with cap := r } : Dev).wiped = d.wiped from fun _ => rfl) _
@[simp] theorem updCap_badCw : (d.updCap k f).badCw = d.badCw := (show ∀ r, ({ d with cap := r } : Dev).badCw = d.badCw from fun _ => rfl) _
@[simp] theorem updCap_mm : (d.updCap k f).mm = d.mm := (show ∀ r, ({ d with cap := r } : Dev).mm = d.mm from fun _ => rfl) _
@[simp] theorem updCap_ptab : (d.updCap k f).ptab = d.ptab := (show ∀ r, ({ d with cap := r } : Dev).ptab = d.ptab from fun _ => rfl) _
@[simp] theorem updCap_limH : (d.updCap k f).limH = d.limH := (show ∀ r, ({ d with cap := r } : Dev).limH = d.limH from fun _ => rfl) _
@[simp] theorem updCap_wdtMs : (d.updCap k f).wdtMs = d.wdtMs := (show ∀ r, ({ d with cap := r } : Dev).wdtMs = d.wdtMs from fun _ => rfl) _
@[simp] theorem updCap_normalRefresh : (d.updCap k f).normalRefresh = d.normalRefresh := (show ∀ r, ({ d with cap := r } : Dev).normalRefresh = d.normalRefresh from fun _ => rfl) _
@[simp] theorem updCap_hostMem : (d.updCap k f).hostMem = d.hostMem := (show ∀ r, ({ d with cap := r } : Dev).hostMem = d.hostMem from fun _ => rfl) _
@[simp] theorem updCap_adm : (d.updCap k f).adm = d.adm := (show ∀ r, ({ d with cap := r } : Dev).adm = d.adm from fun _ => rfl) _
@[simp] theorem updCap_host : (d.updCap k f).host = d.host := (show ∀ r, ({ d with cap := r } : Dev).host = d.host from fun _ => rfl) _
@[simp] theorem updCap_faults : (d.updCap k f).faults = d.faults := (show ∀ r, ({ d with cap := r } : Dev).faults = d.faults from fun _ => rfl) _
@[simp] theorem updCap_faultId : (d.updCap k f).faultId = d.faultId := (show ∀ r, ({ d with cap := r } : Dev).faultId = d.faultId from fun _ => rfl) _
@[simp] theorem updCap_safePin : (d.updCap k f).safePin = d.safePin := (show ∀ r, ({ d with cap := r } : Dev).safePin = d.safePin from fun _ => rfl) _
@[simp] theorem updCap_therm : (d.updCap k f).therm = d.therm := (show ∀ r, ({ d with cap := r } : Dev).therm = d.therm from fun _ => rfl) _
@[simp] theorem updCap_extest : (d.updCap k f).extest = d.extest := (show ∀ r, ({ d with cap := r } : Dev).extest = d.extest from fun _ => rfl) _
@[simp] theorem updCap_loadnAt : (d.updCap k f).loadnAt = d.loadnAt := (show ∀ r, ({ d with cap := r } : Dev).loadnAt = d.loadnAt from fun _ => rfl) _
@[simp] theorem updCap_clk : (d.updCap k f).clk = d.clk := (show ∀ r, ({ d with cap := r } : Dev).clk = d.clk from fun _ => rfl) _
@[simp] theorem updCap_calT : (d.updCap k f).calT = d.calT := (show ∀ r, ({ d with cap := r } : Dev).calT = d.calT from fun _ => rfl) _
@[simp] theorem updCap_dmc : (d.updCap k f).dmc = d.dmc := (show ∀ r, ({ d with cap := r } : Dev).dmc = d.dmc from fun _ => rfl) _
@[simp] theorem updCap_moved : (d.updCap k f).moved = d.moved := (show ∀ r, ({ d with cap := r } : Dev).moved = d.moved from fun _ => rfl) _
@[simp] theorem updCap_frzN : (d.updCap k f).frzN = d.frzN := (show ∀ r, ({ d with cap := r } : Dev).frzN = d.frzN from fun _ => rfl) _
@[simp] theorem updCap_sec : (d.updCap k f).sec = d.sec := (show ∀ r, ({ d with cap := r } : Dev).sec = d.sec from fun _ => rfl) _
@[simp] theorem updCap_aon : (d.updCap k f).aon = d.aon := (show ∀ r, ({ d with cap := r } : Dev).aon = d.aon from fun _ => rfl) _
@[simp] theorem updCap_standby : (d.updCap k f).standby = d.standby := (show ∀ r, ({ d with cap := r } : Dev).standby = d.standby from fun _ => rfl) _
@[simp] theorem updCap_d3hot : (d.updCap k f).d3hot = d.d3hot := (show ∀ r, ({ d with cap := r } : Dev).d3hot = d.d3hot from fun _ => rfl) _
@[simp] theorem updCap_flash : (d.updCap k f).flash = d.flash := (show ∀ r, ({ d with cap := r } : Dev).flash = d.flash from fun _ => rfl) _
@[simp] theorem updCap_flashSize : (d.updCap k f).flashSize = d.flashSize := (show ∀ r, ({ d with cap := r } : Dev).flashSize = d.flashSize from fun _ => rfl) _
@[simp] theorem updCap_dimms : (d.updCap k f).dimms = d.dimms := (show ∀ r, ({ d with cap := r } : Dev).dimms = d.dimms from fun _ => rfl) _
@[simp] theorem updCap_descC : (d.updCap k f).descC = d.descC := (show ∀ r, ({ d with cap := r } : Dev).descC = d.descC from fun _ => rfl) _
@[simp] theorem updCap_arrCtr : (d.updCap k f).arrCtr = d.arrCtr := (show ∀ r, ({ d with cap := r } : Dev).arrCtr = d.arrCtr from fun _ => rfl) _
@[simp] theorem updCap_icache : (d.updCap k f).icache = d.icache := (show ∀ r, ({ d with cap := r } : Dev).icache = d.icache from fun _ => rfl) _
@[simp] theorem updCap_widthPin : (d.updCap k f).widthPin = d.widthPin := (show ∀ r, ({ d with cap := r } : Dev).widthPin = d.widthPin from fun _ => rfl) _
@[simp] theorem updCap_accKept : (d.updCap k f).accKept = d.accKept := (show ∀ r, ({ d with cap := r } : Dev).accKept = d.accKept from fun _ => rfl) _
@[simp] theorem updCap_safeEdge : (d.updCap k f).safeEdge = d.safeEdge := (show ∀ r, ({ d with cap := r } : Dev).safeEdge = d.safeEdge from fun _ => rfl) _
@[simp] theorem updCap_mgmtPin : (d.updCap k f).mgmtPin = d.mgmtPin := (show ∀ r, ({ d with cap := r } : Dev).mgmtPin = d.mgmtPin from fun _ => rfl) _
end updCapFields

section updTiFields
variable (d : Dev) (m : Nat) (f : TiSt → TiSt)
@[simp] theorem updTi_regs : (d.updTi m f).regs = d.regs := (show ∀ r, ({ d with ti := r } : Dev).regs = d.regs from fun _ => rfl) _
@[simp] theorem updTi_inforce : (d.updTi m f).inforce = d.inforce := (show ∀ r, ({ d with ti := r } : Dev).inforce = d.inforce from fun _ => rfl) _
@[simp] theorem updTi_latch : (d.updTi m f).latch = d.latch := (show ∀ r, ({ d with ti := r } : Dev).latch = d.latch from fun _ => rfl) _
@[simp] theorem updTi_stage : (d.updTi m f).stage = d.stage := (show ∀ r, ({ d with ti := r } : Dev).stage = d.stage from fun _ => rfl) _
@[simp] theorem updTi_parity : (d.updTi m f).parity = d.parity := (show ∀ r, ({ d with ti := r } : Dev).parity = d.parity from fun _ => rfl) _
@[simp] theorem updTi_freeCtr : (d.updTi m f).freeCtr = d.freeCtr := (show ∀ r, ({ d with ti := r } : Dev).freeCtr = d.freeCtr from fun _ => rfl) _
@[simp] theorem updTi_time : (d.updTi m f).time = d.time := (show ∀ r, ({ d with ti := r } : Dev).time = d.time from fun _ => rfl) _
@[simp] theorem updTi_ports : (d.updTi m f).ports = d.ports := (show ∀ r, ({ d with ti := r } : Dev).ports = d.ports from fun _ => rfl) _
@[simp] theorem updTi_chan : (d.updTi m f).chan = d.chan := (show ∀ r, ({ d with ti := r } : Dev).chan = d.chan from fun _ => rfl) _
@[simp] theorem updTi_frames : (d.updTi m f).frames = d.frames := (show ∀ r, ({ d with ti := r } : Dev).frames = d.frames from fun _ => rfl) _
@[simp] theorem updTi_launches : (d.updTi m f).launches = d.launches := (show ∀ r, ({ d with ti := r } : Dev).launches = d.launches from fun _ => rfl) _
@[simp] theorem updTi_edges : (d.updTi m f).edges = d.edges := (show ∀ r, ({ d with ti := r } : Dev).edges = d.edges from fun _ => rfl) _
@[simp] theorem updTi_mkLine : (d.updTi m f).mkLine = d.mkLine := (show ∀ r, ({ d with ti := r } : Dev).mkLine = d.mkLine from fun _ => rfl) _
@[simp] theorem updTi_eng : (d.updTi m f).eng = d.eng := (show ∀ r, ({ d with ti := r } : Dev).eng = d.eng from fun _ => rfl) _
@[simp] theorem updTi_ei : (d.updTi m f).ei = d.ei := (show ∀ r, ({ d with ti := r } : Dev).ei = d.ei from fun _ => rfl) _
@[simp] theorem updTi_ec : (d.updTi m f).ec = d.ec := (show ∀ r, ({ d with ti := r } : Dev).ec = d.ec from fun _ => rfl) _
@[simp] theorem updTi_tin : (d.updTi m f).tin = d.tin := (show ∀ r, ({ d with ti := r } : Dev).tin = d.tin from fun _ => rfl) _
@[simp] theorem updTi_grp : (d.updTi m f).grp = d.grp := (show ∀ r, ({ d with ti := r } : Dev).grp = d.grp from fun _ => rfl) _
@[simp] theorem updTi_tout : (d.updTi m f).tout = d.tout := (show ∀ r, ({ d with ti := r } : Dev).tout = d.tout from fun _ => rfl) _
@[simp] theorem updTi_cap : (d.updTi m f).cap = d.cap := (show ∀ r, ({ d with ti := r } : Dev).cap = d.cap from fun _ => rfl) _
@[simp] theorem updTi_prog : (d.updTi m f).prog = d.prog := (show ∀ r, ({ d with ti := r } : Dev).prog = d.prog from fun _ => rfl) _
@[simp] theorem updTi_ctx : (d.updTi m f).ctx = d.ctx := (show ∀ r, ({ d with ti := r } : Dev).ctx = d.ctx from fun _ => rfl) _
@[simp] theorem updTi_env : (d.updTi m f).env = d.env := (show ∀ r, ({ d with ti := r } : Dev).env = d.env from fun _ => rfl) _
@[simp] theorem updTi_bank : (d.updTi m f).bank = d.bank := (show ∀ r, ({ d with ti := r } : Dev).bank = d.bank from fun _ => rfl) _
@[simp] theorem updTi_sc : (d.updTi m f).sc = d.sc := (show ∀ r, ({ d with ti := r } : Dev).sc = d.sc from fun _ => rfl) _
@[simp] theorem updTi_capBuf : (d.updTi m f).capBuf = d.capBuf := (show ∀ r, ({ d with ti := r } : Dev).capBuf = d.capBuf from fun _ => rfl) _
@[simp] theorem updTi_mailbox : (d.updTi m f).mailbox = d.mailbox := (show ∀ r, ({ d with ti := r } : Dev).mailbox = d.mailbox from fun _ => rfl) _
@[simp] theorem updTi_dram : (d.updTi m f).dram = d.dram := (show ∀ r, ({ d with ti := r } : Dev).dram = d.dram from fun _ => rfl) _
@[simp] theorem updTi_wiped : (d.updTi m f).wiped = d.wiped := (show ∀ r, ({ d with ti := r } : Dev).wiped = d.wiped from fun _ => rfl) _
@[simp] theorem updTi_badCw : (d.updTi m f).badCw = d.badCw := (show ∀ r, ({ d with ti := r } : Dev).badCw = d.badCw from fun _ => rfl) _
@[simp] theorem updTi_mm : (d.updTi m f).mm = d.mm := (show ∀ r, ({ d with ti := r } : Dev).mm = d.mm from fun _ => rfl) _
@[simp] theorem updTi_ptab : (d.updTi m f).ptab = d.ptab := (show ∀ r, ({ d with ti := r } : Dev).ptab = d.ptab from fun _ => rfl) _
@[simp] theorem updTi_limH : (d.updTi m f).limH = d.limH := (show ∀ r, ({ d with ti := r } : Dev).limH = d.limH from fun _ => rfl) _
@[simp] theorem updTi_wdtMs : (d.updTi m f).wdtMs = d.wdtMs := (show ∀ r, ({ d with ti := r } : Dev).wdtMs = d.wdtMs from fun _ => rfl) _
@[simp] theorem updTi_normalRefresh : (d.updTi m f).normalRefresh = d.normalRefresh := (show ∀ r, ({ d with ti := r } : Dev).normalRefresh = d.normalRefresh from fun _ => rfl) _
@[simp] theorem updTi_hostMem : (d.updTi m f).hostMem = d.hostMem := (show ∀ r, ({ d with ti := r } : Dev).hostMem = d.hostMem from fun _ => rfl) _
@[simp] theorem updTi_adm : (d.updTi m f).adm = d.adm := (show ∀ r, ({ d with ti := r } : Dev).adm = d.adm from fun _ => rfl) _
@[simp] theorem updTi_host : (d.updTi m f).host = d.host := (show ∀ r, ({ d with ti := r } : Dev).host = d.host from fun _ => rfl) _
@[simp] theorem updTi_faults : (d.updTi m f).faults = d.faults := (show ∀ r, ({ d with ti := r } : Dev).faults = d.faults from fun _ => rfl) _
@[simp] theorem updTi_faultId : (d.updTi m f).faultId = d.faultId := (show ∀ r, ({ d with ti := r } : Dev).faultId = d.faultId from fun _ => rfl) _
@[simp] theorem updTi_safePin : (d.updTi m f).safePin = d.safePin := (show ∀ r, ({ d with ti := r } : Dev).safePin = d.safePin from fun _ => rfl) _
@[simp] theorem updTi_therm : (d.updTi m f).therm = d.therm := (show ∀ r, ({ d with ti := r } : Dev).therm = d.therm from fun _ => rfl) _
@[simp] theorem updTi_extest : (d.updTi m f).extest = d.extest := (show ∀ r, ({ d with ti := r } : Dev).extest = d.extest from fun _ => rfl) _
@[simp] theorem updTi_loadnAt : (d.updTi m f).loadnAt = d.loadnAt := (show ∀ r, ({ d with ti := r } : Dev).loadnAt = d.loadnAt from fun _ => rfl) _
@[simp] theorem updTi_clk : (d.updTi m f).clk = d.clk := (show ∀ r, ({ d with ti := r } : Dev).clk = d.clk from fun _ => rfl) _
@[simp] theorem updTi_calT : (d.updTi m f).calT = d.calT := (show ∀ r, ({ d with ti := r } : Dev).calT = d.calT from fun _ => rfl) _
@[simp] theorem updTi_dmc : (d.updTi m f).dmc = d.dmc := (show ∀ r, ({ d with ti := r } : Dev).dmc = d.dmc from fun _ => rfl) _
@[simp] theorem updTi_moved : (d.updTi m f).moved = d.moved := (show ∀ r, ({ d with ti := r } : Dev).moved = d.moved from fun _ => rfl) _
@[simp] theorem updTi_frzN : (d.updTi m f).frzN = d.frzN := (show ∀ r, ({ d with ti := r } : Dev).frzN = d.frzN from fun _ => rfl) _
@[simp] theorem updTi_sec : (d.updTi m f).sec = d.sec := (show ∀ r, ({ d with ti := r } : Dev).sec = d.sec from fun _ => rfl) _
@[simp] theorem updTi_aon : (d.updTi m f).aon = d.aon := (show ∀ r, ({ d with ti := r } : Dev).aon = d.aon from fun _ => rfl) _
@[simp] theorem updTi_standby : (d.updTi m f).standby = d.standby := (show ∀ r, ({ d with ti := r } : Dev).standby = d.standby from fun _ => rfl) _
@[simp] theorem updTi_d3hot : (d.updTi m f).d3hot = d.d3hot := (show ∀ r, ({ d with ti := r } : Dev).d3hot = d.d3hot from fun _ => rfl) _
@[simp] theorem updTi_flash : (d.updTi m f).flash = d.flash := (show ∀ r, ({ d with ti := r } : Dev).flash = d.flash from fun _ => rfl) _
@[simp] theorem updTi_flashSize : (d.updTi m f).flashSize = d.flashSize := (show ∀ r, ({ d with ti := r } : Dev).flashSize = d.flashSize from fun _ => rfl) _
@[simp] theorem updTi_dimms : (d.updTi m f).dimms = d.dimms := (show ∀ r, ({ d with ti := r } : Dev).dimms = d.dimms from fun _ => rfl) _
@[simp] theorem updTi_descC : (d.updTi m f).descC = d.descC := (show ∀ r, ({ d with ti := r } : Dev).descC = d.descC from fun _ => rfl) _
@[simp] theorem updTi_arrCtr : (d.updTi m f).arrCtr = d.arrCtr := (show ∀ r, ({ d with ti := r } : Dev).arrCtr = d.arrCtr from fun _ => rfl) _
@[simp] theorem updTi_icache : (d.updTi m f).icache = d.icache := (show ∀ r, ({ d with ti := r } : Dev).icache = d.icache from fun _ => rfl) _
@[simp] theorem updTi_widthPin : (d.updTi m f).widthPin = d.widthPin := (show ∀ r, ({ d with ti := r } : Dev).widthPin = d.widthPin from fun _ => rfl) _
@[simp] theorem updTi_accKept : (d.updTi m f).accKept = d.accKept := (show ∀ r, ({ d with ti := r } : Dev).accKept = d.accKept from fun _ => rfl) _
@[simp] theorem updTi_safeEdge : (d.updTi m f).safeEdge = d.safeEdge := (show ∀ r, ({ d with ti := r } : Dev).safeEdge = d.safeEdge from fun _ => rfl) _
@[simp] theorem updTi_mgmtPin : (d.updTi m f).mgmtPin = d.mgmtPin := (show ∀ r, ({ d with ti := r } : Dev).mgmtPin = d.mgmtPin from fun _ => rfl) _
end updTiFields

section updToutFields
variable (d : Dev) (k : Nat) (f : ToSt → ToSt)
@[simp] theorem updTout_regs : (d.updTout k f).regs = d.regs := (show ∀ r, ({ d with tout := r } : Dev).regs = d.regs from fun _ => rfl) _
@[simp] theorem updTout_inforce : (d.updTout k f).inforce = d.inforce := (show ∀ r, ({ d with tout := r } : Dev).inforce = d.inforce from fun _ => rfl) _
@[simp] theorem updTout_latch : (d.updTout k f).latch = d.latch := (show ∀ r, ({ d with tout := r } : Dev).latch = d.latch from fun _ => rfl) _
@[simp] theorem updTout_stage : (d.updTout k f).stage = d.stage := (show ∀ r, ({ d with tout := r } : Dev).stage = d.stage from fun _ => rfl) _
@[simp] theorem updTout_parity : (d.updTout k f).parity = d.parity := (show ∀ r, ({ d with tout := r } : Dev).parity = d.parity from fun _ => rfl) _
@[simp] theorem updTout_freeCtr : (d.updTout k f).freeCtr = d.freeCtr := (show ∀ r, ({ d with tout := r } : Dev).freeCtr = d.freeCtr from fun _ => rfl) _
@[simp] theorem updTout_time : (d.updTout k f).time = d.time := (show ∀ r, ({ d with tout := r } : Dev).time = d.time from fun _ => rfl) _
@[simp] theorem updTout_ports : (d.updTout k f).ports = d.ports := (show ∀ r, ({ d with tout := r } : Dev).ports = d.ports from fun _ => rfl) _
@[simp] theorem updTout_chan : (d.updTout k f).chan = d.chan := (show ∀ r, ({ d with tout := r } : Dev).chan = d.chan from fun _ => rfl) _
@[simp] theorem updTout_frames : (d.updTout k f).frames = d.frames := (show ∀ r, ({ d with tout := r } : Dev).frames = d.frames from fun _ => rfl) _
@[simp] theorem updTout_launches : (d.updTout k f).launches = d.launches := (show ∀ r, ({ d with tout := r } : Dev).launches = d.launches from fun _ => rfl) _
@[simp] theorem updTout_edges : (d.updTout k f).edges = d.edges := (show ∀ r, ({ d with tout := r } : Dev).edges = d.edges from fun _ => rfl) _
@[simp] theorem updTout_mkLine : (d.updTout k f).mkLine = d.mkLine := (show ∀ r, ({ d with tout := r } : Dev).mkLine = d.mkLine from fun _ => rfl) _
@[simp] theorem updTout_eng : (d.updTout k f).eng = d.eng := (show ∀ r, ({ d with tout := r } : Dev).eng = d.eng from fun _ => rfl) _
@[simp] theorem updTout_ei : (d.updTout k f).ei = d.ei := (show ∀ r, ({ d with tout := r } : Dev).ei = d.ei from fun _ => rfl) _
@[simp] theorem updTout_ec : (d.updTout k f).ec = d.ec := (show ∀ r, ({ d with tout := r } : Dev).ec = d.ec from fun _ => rfl) _
@[simp] theorem updTout_tin : (d.updTout k f).tin = d.tin := (show ∀ r, ({ d with tout := r } : Dev).tin = d.tin from fun _ => rfl) _
@[simp] theorem updTout_grp : (d.updTout k f).grp = d.grp := (show ∀ r, ({ d with tout := r } : Dev).grp = d.grp from fun _ => rfl) _
@[simp] theorem updTout_ti : (d.updTout k f).ti = d.ti := (show ∀ r, ({ d with tout := r } : Dev).ti = d.ti from fun _ => rfl) _
@[simp] theorem updTout_cap : (d.updTout k f).cap = d.cap := (show ∀ r, ({ d with tout := r } : Dev).cap = d.cap from fun _ => rfl) _
@[simp] theorem updTout_prog : (d.updTout k f).prog = d.prog := (show ∀ r, ({ d with tout := r } : Dev).prog = d.prog from fun _ => rfl) _
@[simp] theorem updTout_ctx : (d.updTout k f).ctx = d.ctx := (show ∀ r, ({ d with tout := r } : Dev).ctx = d.ctx from fun _ => rfl) _
@[simp] theorem updTout_env : (d.updTout k f).env = d.env := (show ∀ r, ({ d with tout := r } : Dev).env = d.env from fun _ => rfl) _
@[simp] theorem updTout_bank : (d.updTout k f).bank = d.bank := (show ∀ r, ({ d with tout := r } : Dev).bank = d.bank from fun _ => rfl) _
@[simp] theorem updTout_sc : (d.updTout k f).sc = d.sc := (show ∀ r, ({ d with tout := r } : Dev).sc = d.sc from fun _ => rfl) _
@[simp] theorem updTout_capBuf : (d.updTout k f).capBuf = d.capBuf := (show ∀ r, ({ d with tout := r } : Dev).capBuf = d.capBuf from fun _ => rfl) _
@[simp] theorem updTout_mailbox : (d.updTout k f).mailbox = d.mailbox := (show ∀ r, ({ d with tout := r } : Dev).mailbox = d.mailbox from fun _ => rfl) _
@[simp] theorem updTout_dram : (d.updTout k f).dram = d.dram := (show ∀ r, ({ d with tout := r } : Dev).dram = d.dram from fun _ => rfl) _
@[simp] theorem updTout_wiped : (d.updTout k f).wiped = d.wiped := (show ∀ r, ({ d with tout := r } : Dev).wiped = d.wiped from fun _ => rfl) _
@[simp] theorem updTout_badCw : (d.updTout k f).badCw = d.badCw := (show ∀ r, ({ d with tout := r } : Dev).badCw = d.badCw from fun _ => rfl) _
@[simp] theorem updTout_mm : (d.updTout k f).mm = d.mm := (show ∀ r, ({ d with tout := r } : Dev).mm = d.mm from fun _ => rfl) _
@[simp] theorem updTout_ptab : (d.updTout k f).ptab = d.ptab := (show ∀ r, ({ d with tout := r } : Dev).ptab = d.ptab from fun _ => rfl) _
@[simp] theorem updTout_limH : (d.updTout k f).limH = d.limH := (show ∀ r, ({ d with tout := r } : Dev).limH = d.limH from fun _ => rfl) _
@[simp] theorem updTout_wdtMs : (d.updTout k f).wdtMs = d.wdtMs := (show ∀ r, ({ d with tout := r } : Dev).wdtMs = d.wdtMs from fun _ => rfl) _
@[simp] theorem updTout_normalRefresh : (d.updTout k f).normalRefresh = d.normalRefresh := (show ∀ r, ({ d with tout := r } : Dev).normalRefresh = d.normalRefresh from fun _ => rfl) _
@[simp] theorem updTout_hostMem : (d.updTout k f).hostMem = d.hostMem := (show ∀ r, ({ d with tout := r } : Dev).hostMem = d.hostMem from fun _ => rfl) _
@[simp] theorem updTout_adm : (d.updTout k f).adm = d.adm := (show ∀ r, ({ d with tout := r } : Dev).adm = d.adm from fun _ => rfl) _
@[simp] theorem updTout_host : (d.updTout k f).host = d.host := (show ∀ r, ({ d with tout := r } : Dev).host = d.host from fun _ => rfl) _
@[simp] theorem updTout_faults : (d.updTout k f).faults = d.faults := (show ∀ r, ({ d with tout := r } : Dev).faults = d.faults from fun _ => rfl) _
@[simp] theorem updTout_faultId : (d.updTout k f).faultId = d.faultId := (show ∀ r, ({ d with tout := r } : Dev).faultId = d.faultId from fun _ => rfl) _
@[simp] theorem updTout_safePin : (d.updTout k f).safePin = d.safePin := (show ∀ r, ({ d with tout := r } : Dev).safePin = d.safePin from fun _ => rfl) _
@[simp] theorem updTout_therm : (d.updTout k f).therm = d.therm := (show ∀ r, ({ d with tout := r } : Dev).therm = d.therm from fun _ => rfl) _
@[simp] theorem updTout_extest : (d.updTout k f).extest = d.extest := (show ∀ r, ({ d with tout := r } : Dev).extest = d.extest from fun _ => rfl) _
@[simp] theorem updTout_loadnAt : (d.updTout k f).loadnAt = d.loadnAt := (show ∀ r, ({ d with tout := r } : Dev).loadnAt = d.loadnAt from fun _ => rfl) _
@[simp] theorem updTout_clk : (d.updTout k f).clk = d.clk := (show ∀ r, ({ d with tout := r } : Dev).clk = d.clk from fun _ => rfl) _
@[simp] theorem updTout_calT : (d.updTout k f).calT = d.calT := (show ∀ r, ({ d with tout := r } : Dev).calT = d.calT from fun _ => rfl) _
@[simp] theorem updTout_dmc : (d.updTout k f).dmc = d.dmc := (show ∀ r, ({ d with tout := r } : Dev).dmc = d.dmc from fun _ => rfl) _
@[simp] theorem updTout_moved : (d.updTout k f).moved = d.moved := (show ∀ r, ({ d with tout := r } : Dev).moved = d.moved from fun _ => rfl) _
@[simp] theorem updTout_frzN : (d.updTout k f).frzN = d.frzN := (show ∀ r, ({ d with tout := r } : Dev).frzN = d.frzN from fun _ => rfl) _
@[simp] theorem updTout_sec : (d.updTout k f).sec = d.sec := (show ∀ r, ({ d with tout := r } : Dev).sec = d.sec from fun _ => rfl) _
@[simp] theorem updTout_aon : (d.updTout k f).aon = d.aon := (show ∀ r, ({ d with tout := r } : Dev).aon = d.aon from fun _ => rfl) _
@[simp] theorem updTout_standby : (d.updTout k f).standby = d.standby := (show ∀ r, ({ d with tout := r } : Dev).standby = d.standby from fun _ => rfl) _
@[simp] theorem updTout_d3hot : (d.updTout k f).d3hot = d.d3hot := (show ∀ r, ({ d with tout := r } : Dev).d3hot = d.d3hot from fun _ => rfl) _
@[simp] theorem updTout_flash : (d.updTout k f).flash = d.flash := (show ∀ r, ({ d with tout := r } : Dev).flash = d.flash from fun _ => rfl) _
@[simp] theorem updTout_flashSize : (d.updTout k f).flashSize = d.flashSize := (show ∀ r, ({ d with tout := r } : Dev).flashSize = d.flashSize from fun _ => rfl) _
@[simp] theorem updTout_dimms : (d.updTout k f).dimms = d.dimms := (show ∀ r, ({ d with tout := r } : Dev).dimms = d.dimms from fun _ => rfl) _
@[simp] theorem updTout_descC : (d.updTout k f).descC = d.descC := (show ∀ r, ({ d with tout := r } : Dev).descC = d.descC from fun _ => rfl) _
@[simp] theorem updTout_arrCtr : (d.updTout k f).arrCtr = d.arrCtr := (show ∀ r, ({ d with tout := r } : Dev).arrCtr = d.arrCtr from fun _ => rfl) _
@[simp] theorem updTout_icache : (d.updTout k f).icache = d.icache := (show ∀ r, ({ d with tout := r } : Dev).icache = d.icache from fun _ => rfl) _
@[simp] theorem updTout_widthPin : (d.updTout k f).widthPin = d.widthPin := (show ∀ r, ({ d with tout := r } : Dev).widthPin = d.widthPin from fun _ => rfl) _
@[simp] theorem updTout_accKept : (d.updTout k f).accKept = d.accKept := (show ∀ r, ({ d with tout := r } : Dev).accKept = d.accKept from fun _ => rfl) _
@[simp] theorem updTout_safeEdge : (d.updTout k f).safeEdge = d.safeEdge := (show ∀ r, ({ d with tout := r } : Dev).safeEdge = d.safeEdge from fun _ => rfl) _
@[simp] theorem updTout_mgmtPin : (d.updTout k f).mgmtPin = d.mgmtPin := (show ∀ r, ({ d with tout := r } : Dev).mgmtPin = d.mgmtPin from fun _ => rfl) _
end updToutFields

section setCtxWFields
variable (d : Dev) (c w : Nat) (v : Word)
@[simp] theorem setCtxW_regs : (d.setCtxW c w v).regs = d.regs := (show ∀ r, ({ d with ctx := r } : Dev).regs = d.regs from fun _ => rfl) _
@[simp] theorem setCtxW_inforce : (d.setCtxW c w v).inforce = d.inforce := (show ∀ r, ({ d with ctx := r } : Dev).inforce = d.inforce from fun _ => rfl) _
@[simp] theorem setCtxW_latch : (d.setCtxW c w v).latch = d.latch := (show ∀ r, ({ d with ctx := r } : Dev).latch = d.latch from fun _ => rfl) _
@[simp] theorem setCtxW_stage : (d.setCtxW c w v).stage = d.stage := (show ∀ r, ({ d with ctx := r } : Dev).stage = d.stage from fun _ => rfl) _
@[simp] theorem setCtxW_parity : (d.setCtxW c w v).parity = d.parity := (show ∀ r, ({ d with ctx := r } : Dev).parity = d.parity from fun _ => rfl) _
@[simp] theorem setCtxW_freeCtr : (d.setCtxW c w v).freeCtr = d.freeCtr := (show ∀ r, ({ d with ctx := r } : Dev).freeCtr = d.freeCtr from fun _ => rfl) _
@[simp] theorem setCtxW_time : (d.setCtxW c w v).time = d.time := (show ∀ r, ({ d with ctx := r } : Dev).time = d.time from fun _ => rfl) _
@[simp] theorem setCtxW_ports : (d.setCtxW c w v).ports = d.ports := (show ∀ r, ({ d with ctx := r } : Dev).ports = d.ports from fun _ => rfl) _
@[simp] theorem setCtxW_chan : (d.setCtxW c w v).chan = d.chan := (show ∀ r, ({ d with ctx := r } : Dev).chan = d.chan from fun _ => rfl) _
@[simp] theorem setCtxW_frames : (d.setCtxW c w v).frames = d.frames := (show ∀ r, ({ d with ctx := r } : Dev).frames = d.frames from fun _ => rfl) _
@[simp] theorem setCtxW_launches : (d.setCtxW c w v).launches = d.launches := (show ∀ r, ({ d with ctx := r } : Dev).launches = d.launches from fun _ => rfl) _
@[simp] theorem setCtxW_edges : (d.setCtxW c w v).edges = d.edges := (show ∀ r, ({ d with ctx := r } : Dev).edges = d.edges from fun _ => rfl) _
@[simp] theorem setCtxW_mkLine : (d.setCtxW c w v).mkLine = d.mkLine := (show ∀ r, ({ d with ctx := r } : Dev).mkLine = d.mkLine from fun _ => rfl) _
@[simp] theorem setCtxW_eng : (d.setCtxW c w v).eng = d.eng := (show ∀ r, ({ d with ctx := r } : Dev).eng = d.eng from fun _ => rfl) _
@[simp] theorem setCtxW_ei : (d.setCtxW c w v).ei = d.ei := (show ∀ r, ({ d with ctx := r } : Dev).ei = d.ei from fun _ => rfl) _
@[simp] theorem setCtxW_ec : (d.setCtxW c w v).ec = d.ec := (show ∀ r, ({ d with ctx := r } : Dev).ec = d.ec from fun _ => rfl) _
@[simp] theorem setCtxW_tin : (d.setCtxW c w v).tin = d.tin := (show ∀ r, ({ d with ctx := r } : Dev).tin = d.tin from fun _ => rfl) _
@[simp] theorem setCtxW_grp : (d.setCtxW c w v).grp = d.grp := (show ∀ r, ({ d with ctx := r } : Dev).grp = d.grp from fun _ => rfl) _
@[simp] theorem setCtxW_tout : (d.setCtxW c w v).tout = d.tout := (show ∀ r, ({ d with ctx := r } : Dev).tout = d.tout from fun _ => rfl) _
@[simp] theorem setCtxW_ti : (d.setCtxW c w v).ti = d.ti := (show ∀ r, ({ d with ctx := r } : Dev).ti = d.ti from fun _ => rfl) _
@[simp] theorem setCtxW_cap : (d.setCtxW c w v).cap = d.cap := (show ∀ r, ({ d with ctx := r } : Dev).cap = d.cap from fun _ => rfl) _
@[simp] theorem setCtxW_prog : (d.setCtxW c w v).prog = d.prog := (show ∀ r, ({ d with ctx := r } : Dev).prog = d.prog from fun _ => rfl) _
@[simp] theorem setCtxW_env : (d.setCtxW c w v).env = d.env := (show ∀ r, ({ d with ctx := r } : Dev).env = d.env from fun _ => rfl) _
@[simp] theorem setCtxW_bank : (d.setCtxW c w v).bank = d.bank := (show ∀ r, ({ d with ctx := r } : Dev).bank = d.bank from fun _ => rfl) _
@[simp] theorem setCtxW_sc : (d.setCtxW c w v).sc = d.sc := (show ∀ r, ({ d with ctx := r } : Dev).sc = d.sc from fun _ => rfl) _
@[simp] theorem setCtxW_capBuf : (d.setCtxW c w v).capBuf = d.capBuf := (show ∀ r, ({ d with ctx := r } : Dev).capBuf = d.capBuf from fun _ => rfl) _
@[simp] theorem setCtxW_mailbox : (d.setCtxW c w v).mailbox = d.mailbox := (show ∀ r, ({ d with ctx := r } : Dev).mailbox = d.mailbox from fun _ => rfl) _
@[simp] theorem setCtxW_dram : (d.setCtxW c w v).dram = d.dram := (show ∀ r, ({ d with ctx := r } : Dev).dram = d.dram from fun _ => rfl) _
@[simp] theorem setCtxW_wiped : (d.setCtxW c w v).wiped = d.wiped := (show ∀ r, ({ d with ctx := r } : Dev).wiped = d.wiped from fun _ => rfl) _
@[simp] theorem setCtxW_badCw : (d.setCtxW c w v).badCw = d.badCw := (show ∀ r, ({ d with ctx := r } : Dev).badCw = d.badCw from fun _ => rfl) _
@[simp] theorem setCtxW_mm : (d.setCtxW c w v).mm = d.mm := (show ∀ r, ({ d with ctx := r } : Dev).mm = d.mm from fun _ => rfl) _
@[simp] theorem setCtxW_ptab : (d.setCtxW c w v).ptab = d.ptab := (show ∀ r, ({ d with ctx := r } : Dev).ptab = d.ptab from fun _ => rfl) _
@[simp] theorem setCtxW_limH : (d.setCtxW c w v).limH = d.limH := (show ∀ r, ({ d with ctx := r } : Dev).limH = d.limH from fun _ => rfl) _
@[simp] theorem setCtxW_wdtMs : (d.setCtxW c w v).wdtMs = d.wdtMs := (show ∀ r, ({ d with ctx := r } : Dev).wdtMs = d.wdtMs from fun _ => rfl) _
@[simp] theorem setCtxW_normalRefresh : (d.setCtxW c w v).normalRefresh = d.normalRefresh := (show ∀ r, ({ d with ctx := r } : Dev).normalRefresh = d.normalRefresh from fun _ => rfl) _
@[simp] theorem setCtxW_hostMem : (d.setCtxW c w v).hostMem = d.hostMem := (show ∀ r, ({ d with ctx := r } : Dev).hostMem = d.hostMem from fun _ => rfl) _
@[simp] theorem setCtxW_adm : (d.setCtxW c w v).adm = d.adm := (show ∀ r, ({ d with ctx := r } : Dev).adm = d.adm from fun _ => rfl) _
@[simp] theorem setCtxW_host : (d.setCtxW c w v).host = d.host := (show ∀ r, ({ d with ctx := r } : Dev).host = d.host from fun _ => rfl) _
@[simp] theorem setCtxW_faults : (d.setCtxW c w v).faults = d.faults := (show ∀ r, ({ d with ctx := r } : Dev).faults = d.faults from fun _ => rfl) _
@[simp] theorem setCtxW_faultId : (d.setCtxW c w v).faultId = d.faultId := (show ∀ r, ({ d with ctx := r } : Dev).faultId = d.faultId from fun _ => rfl) _
@[simp] theorem setCtxW_safePin : (d.setCtxW c w v).safePin = d.safePin := (show ∀ r, ({ d with ctx := r } : Dev).safePin = d.safePin from fun _ => rfl) _
@[simp] theorem setCtxW_therm : (d.setCtxW c w v).therm = d.therm := (show ∀ r, ({ d with ctx := r } : Dev).therm = d.therm from fun _ => rfl) _
@[simp] theorem setCtxW_extest : (d.setCtxW c w v).extest = d.extest := (show ∀ r, ({ d with ctx := r } : Dev).extest = d.extest from fun _ => rfl) _
@[simp] theorem setCtxW_loadnAt : (d.setCtxW c w v).loadnAt = d.loadnAt := (show ∀ r, ({ d with ctx := r } : Dev).loadnAt = d.loadnAt from fun _ => rfl) _
@[simp] theorem setCtxW_clk : (d.setCtxW c w v).clk = d.clk := (show ∀ r, ({ d with ctx := r } : Dev).clk = d.clk from fun _ => rfl) _
@[simp] theorem setCtxW_calT : (d.setCtxW c w v).calT = d.calT := (show ∀ r, ({ d with ctx := r } : Dev).calT = d.calT from fun _ => rfl) _
@[simp] theorem setCtxW_dmc : (d.setCtxW c w v).dmc = d.dmc := (show ∀ r, ({ d with ctx := r } : Dev).dmc = d.dmc from fun _ => rfl) _
@[simp] theorem setCtxW_moved : (d.setCtxW c w v).moved = d.moved := (show ∀ r, ({ d with ctx := r } : Dev).moved = d.moved from fun _ => rfl) _
@[simp] theorem setCtxW_frzN : (d.setCtxW c w v).frzN = d.frzN := (show ∀ r, ({ d with ctx := r } : Dev).frzN = d.frzN from fun _ => rfl) _
@[simp] theorem setCtxW_sec : (d.setCtxW c w v).sec = d.sec := (show ∀ r, ({ d with ctx := r } : Dev).sec = d.sec from fun _ => rfl) _
@[simp] theorem setCtxW_aon : (d.setCtxW c w v).aon = d.aon := (show ∀ r, ({ d with ctx := r } : Dev).aon = d.aon from fun _ => rfl) _
@[simp] theorem setCtxW_standby : (d.setCtxW c w v).standby = d.standby := (show ∀ r, ({ d with ctx := r } : Dev).standby = d.standby from fun _ => rfl) _
@[simp] theorem setCtxW_d3hot : (d.setCtxW c w v).d3hot = d.d3hot := (show ∀ r, ({ d with ctx := r } : Dev).d3hot = d.d3hot from fun _ => rfl) _
@[simp] theorem setCtxW_flash : (d.setCtxW c w v).flash = d.flash := (show ∀ r, ({ d with ctx := r } : Dev).flash = d.flash from fun _ => rfl) _
@[simp] theorem setCtxW_flashSize : (d.setCtxW c w v).flashSize = d.flashSize := (show ∀ r, ({ d with ctx := r } : Dev).flashSize = d.flashSize from fun _ => rfl) _
@[simp] theorem setCtxW_dimms : (d.setCtxW c w v).dimms = d.dimms := (show ∀ r, ({ d with ctx := r } : Dev).dimms = d.dimms from fun _ => rfl) _
@[simp] theorem setCtxW_descC : (d.setCtxW c w v).descC = d.descC := (show ∀ r, ({ d with ctx := r } : Dev).descC = d.descC from fun _ => rfl) _
@[simp] theorem setCtxW_arrCtr : (d.setCtxW c w v).arrCtr = d.arrCtr := (show ∀ r, ({ d with ctx := r } : Dev).arrCtr = d.arrCtr from fun _ => rfl) _
@[simp] theorem setCtxW_icache : (d.setCtxW c w v).icache = d.icache := (show ∀ r, ({ d with ctx := r } : Dev).icache = d.icache from fun _ => rfl) _
@[simp] theorem setCtxW_widthPin : (d.setCtxW c w v).widthPin = d.widthPin := (show ∀ r, ({ d with ctx := r } : Dev).widthPin = d.widthPin from fun _ => rfl) _
@[simp] theorem setCtxW_accKept : (d.setCtxW c w v).accKept = d.accKept := (show ∀ r, ({ d with ctx := r } : Dev).accKept = d.accKept from fun _ => rfl) _
@[simp] theorem setCtxW_safeEdge : (d.setCtxW c w v).safeEdge = d.safeEdge := (show ∀ r, ({ d with ctx := r } : Dev).safeEdge = d.safeEdge from fun _ => rfl) _
@[simp] theorem setCtxW_mgmtPin : (d.setCtxW c w v).mgmtPin = d.mgmtPin := (show ∀ r, ({ d with ctx := r } : Dev).mgmtPin = d.mgmtPin from fun _ => rfl) _
end setCtxWFields

section storeDramFields
variable (d : Dev) (a : Nat) (bs : List Byte)
@[simp] theorem storeDram_regs : (d.storeDram a bs).regs = d.regs := (show ∀ r q, ({ d with dram := r, badCw := q } : Dev).regs = d.regs from fun _ _ => rfl) _ _
@[simp] theorem storeDram_inforce : (d.storeDram a bs).inforce = d.inforce := (show ∀ r q, ({ d with dram := r, badCw := q } : Dev).inforce = d.inforce from fun _ _ => rfl) _ _
@[simp] theorem storeDram_latch : (d.storeDram a bs).latch = d.latch := (show ∀ r q, ({ d with dram := r, badCw := q } : Dev).latch = d.latch from fun _ _ => rfl) _ _
@[simp] theorem storeDram_stage : (d.storeDram a bs).stage = d.stage := (show ∀ r q, ({ d with dram := r, badCw := q } : Dev).stage = d.stage from fun _ _ => rfl) _ _
@[simp] theorem storeDram_parity : (d.storeDram a bs).parity = d.parity := (show ∀ r q, ({ d with dram := r, badCw := q } : Dev).parity = d.parity from fun _ _ => rfl) _ _
@[simp] theorem storeDram_freeCtr : (d.storeDram a bs).freeCtr = d.freeCtr := (show ∀ r q, ({ d with dram := r, badCw := q } : Dev).freeCtr = d.freeCtr from fun _ _ => rfl) _ _
@[simp] theorem storeDram_time : (d.storeDram a bs).time = d.time := (show ∀ r q, ({ d with dram := r, badCw := q } : Dev).time = d.time from fun _ _ => rfl) _ _
@[simp] theorem storeDram_ports : (d.storeDram a bs).ports = d.ports := (show ∀ r q, ({ d with dram := r, badCw := q } : Dev).ports = d.ports from fun _ _ => rfl) _ _
@[simp] theorem storeDram_chan : (d.storeDram a bs).chan = d.chan := (show ∀ r q, ({ d with dram := r, badCw := q } : Dev).chan = d.chan from fun _ _ => rfl) _ _
@[simp] theorem storeDram_frames : (d.storeDram a bs).frames = d.frames := (show ∀ r q, ({ d with dram := r, badCw := q } : Dev).frames = d.frames from fun _ _ => rfl) _ _
@[simp] theorem storeDram_launches : (d.storeDram a bs).launches = d.launches := (show ∀ r q, ({ d with dram := r, badCw := q } : Dev).launches = d.launches from fun _ _ => rfl) _ _
@[simp] theorem storeDram_edges : (d.storeDram a bs).edges = d.edges := (show ∀ r q, ({ d with dram := r, badCw := q } : Dev).edges = d.edges from fun _ _ => rfl) _ _
@[simp] theorem storeDram_mkLine : (d.storeDram a bs).mkLine = d.mkLine := (show ∀ r q, ({ d with dram := r, badCw := q } : Dev).mkLine = d.mkLine from fun _ _ => rfl) _ _
@[simp] theorem storeDram_eng : (d.storeDram a bs).eng = d.eng := (show ∀ r q, ({ d with dram := r, badCw := q } : Dev).eng = d.eng from fun _ _ => rfl) _ _
@[simp] theorem storeDram_ei : (d.storeDram a bs).ei = d.ei := (show ∀ r q, ({ d with dram := r, badCw := q } : Dev).ei = d.ei from fun _ _ => rfl) _ _
@[simp] theorem storeDram_ec : (d.storeDram a bs).ec = d.ec := (show ∀ r q, ({ d with dram := r, badCw := q } : Dev).ec = d.ec from fun _ _ => rfl) _ _
@[simp] theorem storeDram_tin : (d.storeDram a bs).tin = d.tin := (show ∀ r q, ({ d with dram := r, badCw := q } : Dev).tin = d.tin from fun _ _ => rfl) _ _
@[simp] theorem storeDram_grp : (d.storeDram a bs).grp = d.grp := (show ∀ r q, ({ d with dram := r, badCw := q } : Dev).grp = d.grp from fun _ _ => rfl) _ _
@[simp] theorem storeDram_tout : (d.storeDram a bs).tout = d.tout := (show ∀ r q, ({ d with dram := r, badCw := q } : Dev).tout = d.tout from fun _ _ => rfl) _ _
@[simp] theorem storeDram_ti : (d.storeDram a bs).ti = d.ti := (show ∀ r q, ({ d with dram := r, badCw := q } : Dev).ti = d.ti from fun _ _ => rfl) _ _
@[simp] theorem storeDram_cap : (d.storeDram a bs).cap = d.cap := (show ∀ r q, ({ d with dram := r, badCw := q } : Dev).cap = d.cap from fun _ _ => rfl) _ _
@[simp] theorem storeDram_prog : (d.storeDram a bs).prog = d.prog := (show ∀ r q, ({ d with dram := r, badCw := q } : Dev).prog = d.prog from fun _ _ => rfl) _ _
@[simp] theorem storeDram_ctx : (d.storeDram a bs).ctx = d.ctx := (show ∀ r q, ({ d with dram := r, badCw := q } : Dev).ctx = d.ctx from fun _ _ => rfl) _ _
@[simp] theorem storeDram_env : (d.storeDram a bs).env = d.env := (show ∀ r q, ({ d with dram := r, badCw := q } : Dev).env = d.env from fun _ _ => rfl) _ _
@[simp] theorem storeDram_bank : (d.storeDram a bs).bank = d.bank := (show ∀ r q, ({ d with dram := r, badCw := q } : Dev).bank = d.bank from fun _ _ => rfl) _ _
@[simp] theorem storeDram_sc : (d.storeDram a bs).sc = d.sc := (show ∀ r q, ({ d with dram := r, badCw := q } : Dev).sc = d.sc from fun _ _ => rfl) _ _
@[simp] theorem storeDram_capBuf : (d.storeDram a bs).capBuf = d.capBuf := (show ∀ r q, ({ d with dram := r, badCw := q } : Dev).capBuf = d.capBuf from fun _ _ => rfl) _ _
@[simp] theorem storeDram_mailbox : (d.storeDram a bs).mailbox = d.mailbox := (show ∀ r q, ({ d with dram := r, badCw := q } : Dev).mailbox = d.mailbox from fun _ _ => rfl) _ _
@[simp] theorem storeDram_wiped : (d.storeDram a bs).wiped = d.wiped := (show ∀ r q, ({ d with dram := r, badCw := q } : Dev).wiped = d.wiped from fun _ _ => rfl) _ _
@[simp] theorem storeDram_mm : (d.storeDram a bs).mm = d.mm := (show ∀ r q, ({ d with dram := r, badCw := q } : Dev).mm = d.mm from fun _ _ => rfl) _ _
@[simp] theorem storeDram_ptab : (d.storeDram a bs).ptab = d.ptab := (show ∀ r q, ({ d with dram := r, badCw := q } : Dev).ptab = d.ptab from fun _ _ => rfl) _ _
@[simp] theorem storeDram_limH : (d.storeDram a bs).limH = d.limH := (show ∀ r q, ({ d with dram := r, badCw := q } : Dev).limH = d.limH from fun _ _ => rfl) _ _
@[simp] theorem storeDram_wdtMs : (d.storeDram a bs).wdtMs = d.wdtMs := (show ∀ r q, ({ d with dram := r, badCw := q } : Dev).wdtMs = d.wdtMs from fun _ _ => rfl) _ _
@[simp] theorem storeDram_normalRefresh : (d.storeDram a bs).normalRefresh = d.normalRefresh := (show ∀ r q, ({ d with dram := r, badCw := q } : Dev).normalRefresh = d.normalRefresh from fun _ _ => rfl) _ _
@[simp] theorem storeDram_hostMem : (d.storeDram a bs).hostMem = d.hostMem := (show ∀ r q, ({ d with dram := r, badCw := q } : Dev).hostMem = d.hostMem from fun _ _ => rfl) _ _
@[simp] theorem storeDram_adm : (d.storeDram a bs).adm = d.adm := (show ∀ r q, ({ d with dram := r, badCw := q } : Dev).adm = d.adm from fun _ _ => rfl) _ _
@[simp] theorem storeDram_host : (d.storeDram a bs).host = d.host := (show ∀ r q, ({ d with dram := r, badCw := q } : Dev).host = d.host from fun _ _ => rfl) _ _
@[simp] theorem storeDram_faults : (d.storeDram a bs).faults = d.faults := (show ∀ r q, ({ d with dram := r, badCw := q } : Dev).faults = d.faults from fun _ _ => rfl) _ _
@[simp] theorem storeDram_faultId : (d.storeDram a bs).faultId = d.faultId := (show ∀ r q, ({ d with dram := r, badCw := q } : Dev).faultId = d.faultId from fun _ _ => rfl) _ _
@[simp] theorem storeDram_safePin : (d.storeDram a bs).safePin = d.safePin := (show ∀ r q, ({ d with dram := r, badCw := q } : Dev).safePin = d.safePin from fun _ _ => rfl) _ _
@[simp] theorem storeDram_therm : (d.storeDram a bs).therm = d.therm := (show ∀ r q, ({ d with dram := r, badCw := q } : Dev).therm = d.therm from fun _ _ => rfl) _ _
@[simp] theorem storeDram_extest : (d.storeDram a bs).extest = d.extest := (show ∀ r q, ({ d with dram := r, badCw := q } : Dev).extest = d.extest from fun _ _ => rfl) _ _
@[simp] theorem storeDram_loadnAt : (d.storeDram a bs).loadnAt = d.loadnAt := (show ∀ r q, ({ d with dram := r, badCw := q } : Dev).loadnAt = d.loadnAt from fun _ _ => rfl) _ _
@[simp] theorem storeDram_clk : (d.storeDram a bs).clk = d.clk := (show ∀ r q, ({ d with dram := r, badCw := q } : Dev).clk = d.clk from fun _ _ => rfl) _ _
@[simp] theorem storeDram_calT : (d.storeDram a bs).calT = d.calT := (show ∀ r q, ({ d with dram := r, badCw := q } : Dev).calT = d.calT from fun _ _ => rfl) _ _
@[simp] theorem storeDram_dmc : (d.storeDram a bs).dmc = d.dmc := (show ∀ r q, ({ d with dram := r, badCw := q } : Dev).dmc = d.dmc from fun _ _ => rfl) _ _
@[simp] theorem storeDram_moved : (d.storeDram a bs).moved = d.moved := (show ∀ r q, ({ d with dram := r, badCw := q } : Dev).moved = d.moved from fun _ _ => rfl) _ _
@[simp] theorem storeDram_frzN : (d.storeDram a bs).frzN = d.frzN := (show ∀ r q, ({ d with dram := r, badCw := q } : Dev).frzN = d.frzN from fun _ _ => rfl) _ _
@[simp] theorem storeDram_sec : (d.storeDram a bs).sec = d.sec := (show ∀ r q, ({ d with dram := r, badCw := q } : Dev).sec = d.sec from fun _ _ => rfl) _ _
@[simp] theorem storeDram_aon : (d.storeDram a bs).aon = d.aon := (show ∀ r q, ({ d with dram := r, badCw := q } : Dev).aon = d.aon from fun _ _ => rfl) _ _
@[simp] theorem storeDram_standby : (d.storeDram a bs).standby = d.standby := (show ∀ r q, ({ d with dram := r, badCw := q } : Dev).standby = d.standby from fun _ _ => rfl) _ _
@[simp] theorem storeDram_d3hot : (d.storeDram a bs).d3hot = d.d3hot := (show ∀ r q, ({ d with dram := r, badCw := q } : Dev).d3hot = d.d3hot from fun _ _ => rfl) _ _
@[simp] theorem storeDram_flash : (d.storeDram a bs).flash = d.flash := (show ∀ r q, ({ d with dram := r, badCw := q } : Dev).flash = d.flash from fun _ _ => rfl) _ _
@[simp] theorem storeDram_flashSize : (d.storeDram a bs).flashSize = d.flashSize := (show ∀ r q, ({ d with dram := r, badCw := q } : Dev).flashSize = d.flashSize from fun _ _ => rfl) _ _
@[simp] theorem storeDram_dimms : (d.storeDram a bs).dimms = d.dimms := (show ∀ r q, ({ d with dram := r, badCw := q } : Dev).dimms = d.dimms from fun _ _ => rfl) _ _
@[simp] theorem storeDram_descC : (d.storeDram a bs).descC = d.descC := (show ∀ r q, ({ d with dram := r, badCw := q } : Dev).descC = d.descC from fun _ _ => rfl) _ _
@[simp] theorem storeDram_arrCtr : (d.storeDram a bs).arrCtr = d.arrCtr := (show ∀ r q, ({ d with dram := r, badCw := q } : Dev).arrCtr = d.arrCtr from fun _ _ => rfl) _ _
@[simp] theorem storeDram_icache : (d.storeDram a bs).icache = d.icache := (show ∀ r q, ({ d with dram := r, badCw := q } : Dev).icache = d.icache from fun _ _ => rfl) _ _
@[simp] theorem storeDram_widthPin : (d.storeDram a bs).widthPin = d.widthPin := (show ∀ r q, ({ d with dram := r, badCw := q } : Dev).widthPin = d.widthPin from fun _ _ => rfl) _ _
@[simp] theorem storeDram_accKept : (d.storeDram a bs).accKept = d.accKept := (show ∀ r q, ({ d with dram := r, badCw := q } : Dev).accKept = d.accKept from fun _ _ => rfl) _ _
@[simp] theorem storeDram_safeEdge : (d.storeDram a bs).safeEdge = d.safeEdge := (show ∀ r q, ({ d with dram := r, badCw := q } : Dev).safeEdge = d.safeEdge from fun _ _ => rfl) _ _
@[simp] theorem storeDram_mgmtPin : (d.storeDram a bs).mgmtPin = d.mgmtPin := (show ∀ r q, ({ d with dram := r, badCw := q } : Dev).mgmtPin = d.mgmtPin from fun _ _ => rfl) _ _
end storeDramFields

end Sys2Proof.Machine.Dev
end

