-- ==== Sys2Proof/Laws/Regs.lean ====
section
/-! SUPPORT. Reading registers and context words after a write: the same word, another word, and fields of one word. -/
namespace Sys2Proof.Machine

/-! ## Fields of a number -/

/-- A number with bits [lo + w - 1 : lo] replaced. -/
theorem put_split (n lo w v : Nat) :
    n - bitsOf n lo w * 2^lo + v * 2^lo = n / 2^(lo + w) * 2^(lo + w) + v * 2^lo + n % 2^lo := by
  have h1 : n = 2^lo * (n / 2^lo) + n % 2^lo := (Nat.div_add_mod n (2^lo)).symm
  have h2 : n / 2^lo = 2^w * (n / 2^lo / 2^w) + n / 2^lo % 2^w := (Nat.div_add_mod _ _).symm
  have h3 : n / 2^lo / 2^w = n / 2^(lo + w) := by rw [Nat.div_div_eq_div_mul, pow_add]
  have h4 : n = n / 2^(lo + w) * 2^(lo + w) + bitsOf n lo w * 2^lo + n % 2^lo := by
    unfold bitsOf
    conv_lhs => rw [h1, h2, h3]
    rw [pow_add]; ring
  have h5 : n - bitsOf n lo w * 2^lo = n / 2^(lo + w) * 2^(lo + w) + n % 2^lo := by
    conv_lhs => rw [h4]
    have : bitsOf (n / 2 ^ (lo + w) * 2 ^ (lo + w) + bitsOf n lo w * 2 ^ lo + n % 2 ^ lo) lo w = bitsOf n lo w := by rw [← h4]
    rw [this]; omega
  rw [h5]; omega

theorem put_low (n lo w v : Nat) (hv : v < 2^w) :
    n / 2^(lo + w) * 2^(lo + w) + v * 2^lo + n % 2^lo = n / 2^(lo + w) * 2^(lo + w) + (v * 2^lo + n % 2^lo) ∧
      v * 2^lo + n % 2^lo < 2^(lo + w) := by
  refine ⟨by omega, ?_⟩
  have h1 : n % 2^lo < 2^lo := Nat.mod_lt _ (by positivity)
  have h2 : (v + 1) * 2^lo ≤ 2^w * 2^lo := Nat.mul_le_mul_right _ hv
  rw [pow_add, Nat.mul_comm (2^lo)]; nlinarith

/-- The field just written. -/
theorem bitsOf_put_same (n lo w v : Nat) : bitsOf (n - bitsOf n lo w * 2^lo + v % 2^w * 2^lo) lo w = v % 2^w := by
  rw [put_split]
  unfold bitsOf
  have h1 : n % 2^lo < 2^lo := Nat.mod_lt _ (by positivity)
  have h2 : n / 2^(lo + w) * 2^(lo + w) + v % 2^w * 2^lo + n % 2^lo = n % 2^lo + 2^lo * (n / 2^(lo + w) * 2^w + v % 2^w) := by
    rw [pow_add]; ring
  rw [h2, Nat.add_mul_div_left _ _ (by positivity), Nat.div_eq_of_lt h1, Nat.zero_add, Nat.add_comm, Nat.add_mul_mod_self_right,
    Nat.mod_mod]

/-- A field above the one written. -/
theorem bitsOf_put_above (n lo w v lo' w' : Nat) (h : lo + w ≤ lo') :
    bitsOf (n - bitsOf n lo w * 2^lo + v % 2^w * 2^lo) lo' w' = bitsOf n lo' w' := by
  rw [put_split]
  obtain ⟨h1, h2⟩ := put_low n lo w (v % 2^w) (Nat.mod_lt _ (by positivity))
  obtain ⟨k, rfl⟩ := Nat.exists_eq_add_of_le h
  unfold bitsOf
  rw [h1, pow_add _ (lo + w), ← Nat.div_div_eq_div_mul, Nat.add_comm, Nat.add_mul_div_right _ _ (by positivity),
    Nat.div_eq_of_lt h2, Nat.zero_add, Nat.div_div_eq_div_mul]

/-- A field below the one written. -/
theorem bitsOf_put_below (n lo w v lo' w' : Nat) (h : lo' + w' ≤ lo) :
    bitsOf (n - bitsOf n lo w * 2^lo + v % 2^w * 2^lo) lo' w' = bitsOf n lo' w' := by
  rw [put_split]
  have key : ∀ x, bitsOf x lo' w' = x % 2^lo / 2^lo' % 2^w' := by
    intro x
    unfold bitsOf
    obtain ⟨k, rfl⟩ := Nat.exists_eq_add_of_le h
    have hx : x = x % 2^(lo' + w' + k) + 2^lo' * (2^w' * (2^k * (x / 2^(lo' + w' + k)))) := by
      conv_lhs => rw [← Nat.mod_add_div x (2^(lo' + w' + k))]
      rw [pow_add, pow_add]; ring
    conv_lhs => rw [hx, Nat.add_mul_div_left _ _ (by positivity), Nat.add_mul_mod_self_left]
  rw [key, key n]
  have h2 : n / 2^(lo + w) * 2^(lo + w) + v % 2^w * 2^lo + n % 2^lo = n % 2^lo + 2^lo * (n / 2^(lo + w) * 2^w + v % 2^w) := by
    rw [pow_add]; ring
  rw [h2, Nat.add_mul_mod_self_left, Nat.mod_mod]

theorem put_lt (n lo w v b : Nat) (hn : n < 2^b) (h : lo + w ≤ b) : n - bitsOf n lo w * 2^lo + v % 2^w * 2^lo < 2^b := by
  rw [put_split]
  obtain ⟨h1, h2⟩ := put_low n lo w (v % 2^w) (Nat.mod_lt _ (by positivity))
  obtain ⟨k, rfl⟩ := Nat.exists_eq_add_of_le h
  have h3 : n / 2^(lo + w) < 2^k := by
    apply Nat.div_lt_of_lt_mul; rwa [← pow_add]
  have h4 : (n / 2^(lo + w) + 1) * 2^(lo + w) ≤ 2^k * 2^(lo + w) := Nat.mul_le_mul_right _ h3
  rw [h1, pow_add _ (lo + w), Nat.mul_comm (2^(lo + w)) (2^k)]; nlinarith

theorem bitsOf_lt (n lo w : Nat) : bitsOf n lo w < 2^w := Nat.mod_lt _ (by positivity)

theorem bitsOf_zero (lo w : Nat) : bitsOf 0 lo w = 0 := by simp [bitsOf]

namespace Dev

/-! ## Register words -/

@[simp] theorem rd_wr_same (d : Dev) (a : Nat) (v : Word) : (d.wr a v).rd a = v := SMap.get_set_same ..

theorem rd_wr_ne (d : Dev) {a b : Nat} (v : Word) (h : a ≠ b) : (d.wr a v).rd b = d.rd b := SMap.get_set_ne _ _ _ _ h

theorem rd_congr {d d' : Dev} (h : d'.regs = d.regs) (a : Nat) : d'.rd a = d.rd a := by simp [rd, h]
theorem rdN_congr {d d' : Dev} (h : d'.regs = d.regs) (a : Nat) : d'.rdN a = d.rdN a := by rw [rdN, rdN, rd_congr h]
theorem fld_congr {d d' : Dev} (h : d'.regs = d.regs) (a lo w : Nat) : d'.fld a lo w = d.fld a lo w := by rw [fld, fld, rdN_congr h]
theorem bit_congr {d d' : Dev} (h : d'.regs = d.regs) (a i : Nat) : d'.bit a i = d.bit a i := by rw [bit, bit, rd_congr h]

theorem rdN_lt (d : Dev) (a : Nat) : d.rdN a < 2^32 := (d.rd a).isLt

@[simp] theorem rdN_wrN_same (d : Dev) (a n : Nat) : (d.wrN a n).rdN a = n % 2^32 := by
  simp [wrN, rdN, BitVec.toNat_ofNat]

theorem rd_wrN_ne (d : Dev) {a b : Nat} (n : Nat) (h : a ≠ b) : (d.wrN a n).rd b = d.rd b := rd_wr_ne d _ h
theorem rdN_wrN_ne (d : Dev) {a b : Nat} (n : Nat) (h : a ≠ b) : (d.wrN a n).rdN b = d.rdN b := by
  rw [rdN, rdN, rd_wrN_ne d n h]

theorem rd_setFld_ne (d : Dev) {a b : Nat} (lo w v : Nat) (h : a ≠ b) : (d.setFld a lo w v).rd b = d.rd b := rd_wrN_ne d _ h
theorem rdN_setFld_ne (d : Dev) {a b : Nat} (lo w v : Nat) (h : a ≠ b) : (d.setFld a lo w v).rdN b = d.rdN b := rdN_wrN_ne d _ h
theorem rd_setBit_ne (d : Dev) {a b : Nat} (i : Nat) (v : Bool) (h : a ≠ b) : (d.setBit a i v).rd b = d.rd b := rd_setFld_ne d _ _ _ h
theorem rdN_setBit_ne (d : Dev) {a b : Nat} (i : Nat) (v : Bool) (h : a ≠ b) : (d.setBit a i v).rdN b = d.rdN b := rdN_setFld_ne d _ _ _ h
theorem rd_raise_ne (d : Dev) {a b : Nat} (m : Nat) (h : a ≠ b) : (d.raise a m).rd b = d.rd b := rd_wrN_ne d _ h
theorem rdN_raise_ne (d : Dev) {a b : Nat} (m : Nat) (h : a ≠ b) : (d.raise a m).rdN b = d.rdN b := rdN_wrN_ne d _ h
theorem rd_addSat_ne (d : Dev) {a b : Nat} (m : Nat) (h : a ≠ b) : (d.addSat a m).rd b = d.rd b := rd_wrN_ne d _ h
theorem rdN_addSat_ne (d : Dev) {a b : Nat} (m : Nat) (h : a ≠ b) : (d.addSat a m).rdN b = d.rdN b := rdN_wrN_ne d _ h
theorem rd_bump_ne (d : Dev) {a b : Nat} (h : a ≠ b) : (d.bump a).rd b = d.rd b := rd_wrN_ne d _ h
theorem rdN_bump_ne (d : Dev) {a b : Nat} (h : a ≠ b) : (d.bump a).rdN b = d.rdN b := rdN_wrN_ne d _ h
theorem rd_wr64_ne (d : Dev) {a b : Nat} (v : Nat) (h : a ≠ b) (h4 : a + 4 ≠ b) : (d.wr64 a v).rd b = d.rd b := by
  rw [wr64, rd_wrN_ne _ _ h4, rd_wrN_ne _ _ h]
theorem rdN_wr64_ne (d : Dev) {a b : Nat} (v : Nat) (h : a ≠ b) (h4 : a + 4 ≠ b) : (d.wr64 a v).rdN b = d.rdN b := by
  rw [rdN, rdN, rd_wr64_ne d v h h4]

/-! ## Fields -/

/-- The field just written. -/
theorem fld_setFld_same (d : Dev) (a lo w v : Nat) (h : lo + w ≤ 32) : (d.setFld a lo w v).fld a lo w = v % 2^w := by
  rw [fld, setFld, rdN_wrN_same, Nat.mod_eq_of_lt (put_lt _ _ _ _ 32 (d.rdN_lt a) h), bitsOf_put_same]

/-- Another field of the same register. -/
theorem fld_setFld_other (d : Dev) (a lo w v lo' w' : Nat) (h : lo + w ≤ 32) (h' : lo + w ≤ lo' ∨ lo' + w' ≤ lo) :
    (d.setFld a lo w v).fld a lo' w' = d.fld a lo' w' := by
  rw [fld, setFld, rdN_wrN_same, Nat.mod_eq_of_lt (put_lt _ _ _ _ 32 (d.rdN_lt a) h)]
  rcases h' with h' | h'
  · rw [bitsOf_put_above _ _ _ _ _ _ h']; rfl
  · rw [bitsOf_put_below _ _ _ _ _ _ h']; rfl

theorem fld_wrN_same (d : Dev) (a n lo w : Nat) : (d.wrN a n).fld a lo w = bitsOf (n % 2^32) lo w := by rw [fld, rdN_wrN_same]
theorem fld_wrN_ne (d : Dev) {a b : Nat} (n lo w : Nat) (h : a ≠ b) : (d.wrN a n).fld b lo w = d.fld b lo w := by
  rw [fld, fld, rdN_wrN_ne d n h]
theorem fld_setFld_ne (d : Dev) {a b : Nat} (lo w v lo' w' : Nat) (h : a ≠ b) : (d.setFld a lo w v).fld b lo' w' = d.fld b lo' w' :=
  fld_wrN_ne d _ _ _ h
theorem fld_raise_ne (d : Dev) {a b : Nat} (m lo w : Nat) (h : a ≠ b) : (d.raise a m).fld b lo w = d.fld b lo w := fld_wrN_ne d _ _ _ h
theorem fld_bump_ne (d : Dev) {a b : Nat} (lo w : Nat) (h : a ≠ b) : (d.bump a).fld b lo w = d.fld b lo w := fld_wrN_ne d _ _ _ h
theorem fld_setBit_ne (d : Dev) {a b : Nat} (i : Nat) (v : Bool) (lo w : Nat) (h : a ≠ b) :
    (d.setBit a i v).fld b lo w = d.fld b lo w := fld_wrN_ne d _ _ _ h
theorem fld_setBit_other (d : Dev) (a i : Nat) (v : Bool) (lo w : Nat) (h : i + 1 ≤ 32) (h' : i + 1 ≤ lo ∨ lo + w ≤ i) :
    (d.setBit a i v).fld a lo w = d.fld a lo w := fld_setFld_other d a i 1 _ lo w h h'

/-- A bit is the field of width 1. -/
theorem bit_eq (d : Dev) (a i : Nat) : d.bit a i = (d.fld a i 1 == 1) := by
  simp only [bit, fld, rdN, bitsOf, BitVec.getLsbD, Nat.testBit_eq_decide_div_mod_eq]
  cases h : decide ((d.rd a).toNat / 2 ^ i % 2 = 1) <;> simp_all

@[simp] theorem bit_setBit_same (d : Dev) (a i : Nat) (b : Bool) (h : i < 32) : (d.setBit a i b).bit a i = b := by
  rw [bit_eq, setBit, fld_setFld_same _ _ _ _ _ (by omega)]; cases b <;> simp
theorem bit_setBit_other (d : Dev) (a i j : Nat) (b : Bool) (h : i < 32) (hij : i ≠ j) : (d.setBit a i b).bit a j = d.bit a j := by
  rw [bit_eq, bit_eq, setBit, fld_setFld_other _ _ _ _ _ _ _ (by omega) (by omega)]
theorem bit_setFld_other (d : Dev) (a lo w v j : Nat) (h : lo + w ≤ 32) (hj : j < lo ∨ lo + w ≤ j) :
    (d.setFld a lo w v).bit a j = d.bit a j := by
  rw [bit_eq, bit_eq, fld_setFld_other _ _ _ _ _ _ _ h (by omega)]
theorem bit_wrN_ne (d : Dev) {a b : Nat} (n j : Nat) (h : a ≠ b) : (d.wrN a n).bit b j = d.bit b j := by rw [bit, bit, rd_wrN_ne d n h]
theorem bit_setFld_ne (d : Dev) {a b : Nat} (lo w v j : Nat) (h : a ≠ b) : (d.setFld a lo w v).bit b j = d.bit b j := bit_wrN_ne d _ _ h
theorem bit_setBit_ne (d : Dev) {a b : Nat} (i : Nat) (v : Bool) (j : Nat) (h : a ≠ b) : (d.setBit a i v).bit b j = d.bit b j :=
  bit_wrN_ne d _ _ h
theorem bit_raise_ne (d : Dev) {a b : Nat} (m j : Nat) (h : a ≠ b) : (d.raise a m).bit b j = d.bit b j := bit_wrN_ne d _ _ h
theorem bit_bump_ne (d : Dev) {a b : Nat} (j : Nat) (h : a ≠ b) : (d.bump a).bit b j = d.bit b j := bit_wrN_ne d _ _ h

theorem rd64_wr64 (d : Dev) (a v : Nat) (h : v < 2^64) : (d.wr64 a v).rd64 a = v := by
  rw [rd64, wr64, rdN_wrN_same, rdN_wrN_ne _ _ (by omega), rdN_wrN_same, Nat.mod_eq_of_lt (show v / 2^32 < 2^32 by omega)]
  omega

/-! ## Flags -/

/-- What hardware raises: the flags join, SEQ counts (R6). -/
theorem rdN_raise_same (d : Dev) (a m : Nat) (h : m < 2^24) :
    (d.raise a m).rdN a = (d.rdN a / 2^24 + 1) % 256 * 2^24 + (d.rdN a % 2^24 ||| m) := by
  rw [raise, rdN_wrN_same, Nat.mod_eq_of_lt]
  have h1 : d.rdN a % 2^24 ||| m < 2^24 := Nat.or_lt_two_pow (Nat.mod_lt _ (by norm_num)) h
  have h2 := Nat.mod_lt (d.rdN a / 2^24 + 1) (show 256 > 0 by norm_num)
  omega

@[simp] theorem rdN_addSat_same (d : Dev) (a n : Nat) : (d.addSat a n).rdN a = min (2^32 - 1) (d.rdN a + n) := by
  rw [addSat, rdN_wrN_same, Nat.mod_eq_of_lt (by omega)]
@[simp] theorem rdN_bump_same (d : Dev) (a : Nat) : (d.bump a).rdN a = min (2^32 - 1) (d.rdN a + 1) := rdN_addSat_same d a 1

/-! ## Context words -/

theorem ctxW_setCtxW_same (d : Dev) (c w : Nat) (v : Word) : (d.setCtxW c w v).ctxW c w = v := SMap.get_set_same ..
theorem ctxW_setCtxW_ne (d : Dev) {c w c' w' : Nat} (v : Word) (h : c * 256 + w ≠ c' * 256 + w') :
    (d.setCtxW c w v).ctxW c' w' = d.ctxW c' w' := SMap.get_set_ne _ _ _ _ h
theorem ctxW_setCtxW_other (d : Dev) (c : Nat) {w w' : Nat} (v : Word) (h : w ≠ w') :
    (d.setCtxW c w v).ctxW c w' = d.ctxW c w' := ctxW_setCtxW_ne d v (by omega)
theorem ctxW_congr {d d' : Dev} (h : d'.ctx = d.ctx) (c w : Nat) : d'.ctxW c w = d.ctxW c w := by simp [ctxW, h]
theorem ctxFld_congr {d d' : Dev} (h : d'.ctx = d.ctx) (c w lo n : Nat) : d'.ctxFld c w lo n = d.ctxFld c w lo n := by
  rw [ctxFld, ctxFld, ctxW_congr h]

theorem ctxFld_setCtxFld_same (d : Dev) (c w lo n v : Nat) (h : lo + n ≤ 32) :
    (d.setCtxFld c w lo n v).ctxFld c w lo n = v % 2^n := by
  rw [ctxFld, setCtxFld, ctxW_setCtxW_same, BitVec.toNat_ofNat, Nat.mod_eq_of_lt (put_lt _ _ _ _ 32 (d.ctxW c w).isLt h),
    bitsOf_put_same]
theorem ctxFld_setCtxFld_other (d : Dev) (c w lo n v lo' n' : Nat) (h : lo + n ≤ 32) (h' : lo + n ≤ lo' ∨ lo' + n' ≤ lo) :
    (d.setCtxFld c w lo n v).ctxFld c w lo' n' = d.ctxFld c w lo' n' := by
  rw [ctxFld, setCtxFld, ctxW_setCtxW_same, BitVec.toNat_ofNat, Nat.mod_eq_of_lt (put_lt _ _ _ _ 32 (d.ctxW c w).isLt h)]
  rcases h' with h' | h'
  · rw [bitsOf_put_above _ _ _ _ _ _ h']; rfl
  · rw [bitsOf_put_below _ _ _ _ _ _ h']; rfl
theorem ctxW_setCtxFld_other (d : Dev) (c : Nat) {w w' : Nat} (lo n v : Nat) (h : w ≠ w') :
    (d.setCtxFld c w lo n v).ctxW c w' = d.ctxW c w' := ctxW_setCtxW_other d c _ h
theorem ctxFld_setCtxFld_ne (d : Dev) (c : Nat) {w w' : Nat} (lo n v lo' n' : Nat) (h : w ≠ w') :
    (d.setCtxFld c w lo n v).ctxFld c w' lo' n' = d.ctxFld c w' lo' n' := by rw [ctxFld, ctxFld, ctxW_setCtxFld_other d c _ _ _ h]
theorem ctxFld_setCtxW_ne (d : Dev) (c : Nat) {w w' : Nat} (v : Word) (lo n : Nat) (h : w ≠ w') :
    (d.setCtxW c w v).ctxFld c w' lo n = d.ctxFld c w' lo n := by rw [ctxFld, ctxFld, ctxW_setCtxW_other d c _ h]
theorem ctx64_setCtx64_same (d : Dev) (c w v : Nat) (h : v < 2^64) : (d.setCtx64 c w v).ctx64 c w = v := by
  rw [ctx64, setCtx64, ctxW_setCtxW_same, ctxW_setCtxW_other _ _ _ (by omega), ctxW_setCtxW_same, BitVec.toNat_ofNat,
    BitVec.toNat_ofNat, Nat.mod_eq_of_lt (show v / 2^32 < 2^32 by omega)]
  omega
theorem ctxW_setCtx64_other (d : Dev) (c : Nat) {w w' : Nat} (v : Nat) (h : w ≠ w') (h1 : w + 1 ≠ w') :
    (d.setCtx64 c w v).ctxW c w' = d.ctxW c w' := by
  rw [setCtx64, ctxW_setCtxW_other _ _ _ h1, ctxW_setCtxW_other _ _ _ h]
theorem ctxFld_setCtx64_ne (d : Dev) (c : Nat) {w w' : Nat} (v lo n : Nat) (h : w ≠ w') (h1 : w + 1 ≠ w') :
    (d.setCtx64 c w v).ctxFld c w' lo n = d.ctxFld c w' lo n := by rw [ctxFld, ctxFld, ctxW_setCtx64_other d c _ h h1]

/-! ## Records -/

@[simp] theorem chanOf_updChan_same (d : Dev) (n : Nat) (f : Chan → Chan) : (d.updChan n f).chanOf n = f (d.chanOf n) := SMap.get_set_same ..
theorem chanOf_updChan_ne (d : Dev) {n m : Nat} (f : Chan → Chan) (h : n ≠ m) : (d.updChan n f).chanOf m = d.chanOf m :=
  SMap.get_set_ne _ _ _ _ h
@[simp] theorem engOf_updEng_same (d : Dev) (n : Nat) (f : Eng → Eng) : (d.updEng n f).engOf n = f (d.engOf n) := SMap.get_set_same ..
theorem engOf_updEng_ne (d : Dev) {n m : Nat} (f : Eng → Eng) (h : n ≠ m) : (d.updEng n f).engOf m = d.engOf m :=
  SMap.get_set_ne _ _ _ _ h
@[simp] theorem tinOf_updTin_same (d : Dev) (n : Nat) (f : TinSt → TinSt) : (d.updTin n f).tinOf n = f (d.tinOf n) := SMap.get_set_same ..
@[simp] theorem ecOf_updEc_same (d : Dev) (n : Nat) (f : EcSt → EcSt) : (d.updEc n f).ecOf n = f (d.ecOf n) := SMap.get_set_same ..
theorem ecOf_updEc_ne (d : Dev) {n m : Nat} (f : EcSt → EcSt) (h : n ≠ m) : (d.updEc n f).ecOf m = d.ecOf m := SMap.get_set_ne _ _ _ _ h
@[simp] theorem grpOf_updGrp_same (d : Dev) (n : Nat) (f : GrpSt → GrpSt) : (d.updGrp n f).grpOf n = f (d.grpOf n) := SMap.get_set_same ..
@[simp] theorem portOf_updPort_same (d : Dev) (n : Nat) (f : Port → Port) : (d.updPort n f).portOf n = f (d.portOf n) := SMap.get_set_same ..
theorem portOf_updPort_ne (d : Dev) {n m : Nat} (f : Port → Port) (h : n ≠ m) : (d.updPort n f).portOf m = d.portOf m :=
  SMap.get_set_ne _ _ _ _ h
@[simp] theorem capOf_updCap_same (d : Dev) (n : Nat) (f : CapSt → CapSt) : (d.updCap n f).capOf n = f (d.capOf n) := SMap.get_set_same ..
@[simp] theorem tiOf_updTi_same (d : Dev) (n : Nat) (f : TiSt → TiSt) : (d.updTi n f).tiOf n = f (d.tiOf n) := SMap.get_set_same ..
@[simp] theorem toutOf_updTout_same (d : Dev) (n : Nat) (f : ToSt → ToSt) : (d.updTout n f).toutOf n = f (d.toutOf n) := SMap.get_set_same ..
@[simp] theorem frameOf_setFrame_same (d : Dev) (ch f : Nat) (r : FrameRec) : (d.setFrame ch f r).frameOf ch f = r := SMap.get_set_same ..
theorem frameOf_setFrame_ne (d : Dev) {ch f ch' f' : Nat} (r : FrameRec) (h : ch * 32 + f ≠ ch' * 32 + f') :
    (d.setFrame ch f r).frameOf ch' f' = d.frameOf ch' f' := SMap.get_set_ne _ _ _ _ h

end Dev
end Sys2Proof.Machine
end

