-- ==== Sys2Proof/Laws/Ops.lean ====
section
/-! SUPPORT. What the shared operations can touch. `Dev.base` is the device without its register words, the firings on their way, the
host interface's records, the host's memory and the fault queues: flags, counters, firings, late records, refused accesses and faults of the classes that do
not escalate leave it as it is. -/
namespace Sys2Proof.Machine

@[simp] theorem chanAt_tile_lane (ch : Fin 96) : chanAt (chTile ch) (chLane ch) = ch :=
  Fin.ext (Nat.div_add_mod ch.val 16)

namespace Dev

/-- The device without what notifications touch. -/
def base (d : Dev) : Dev := { d with regs := [], ec := [], accKept := [], host := {}, hostMem := [], faults := [], faultId := 0 }

theorem foldl_base {α : Type} (l : List α) (f : Dev → α → Dev) (h : ∀ d x, (f d x).base = d.base) (d : Dev) :
    (l.foldl f d).base = d.base := by
  induction l generalizing d with
  | nil => rfl
  | cons x r ih => rw [List.foldl_cons, ih, h]

/-- Folding an operation that keeps a quantity keeps it. -/
theorem foldl_keeps {α β : Type} (q : Dev → β) (l : List α) (f : Dev → α → Dev) (h : ∀ d x, q (f d x) = q d) (d : Dev) :
    q (l.foldl f d) = q d := by
  induction l generalizing d with
  | nil => rfl
  | cons x r ih => rw [List.foldl_cons, ih, h]

theorem base_regs (d : Dev) (r : SMap Word) : ({ d with regs := r } : Dev).base = d.base := rfl
theorem base_accKept (d : Dev) (r : SMap Bool) : ({ d with accKept := r } : Dev).base = d.base := rfl
theorem base_ec (d : Dev) (r : SMap EcSt) : ({ d with ec := r } : Dev).base = d.base := rfl
theorem base_host (d : Dev) (r : HostSt) : ({ d with host := r } : Dev).base = d.base := rfl
theorem base_faults (d : Dev) (r : SMap (List FaultRec)) : ({ d with faults := r } : Dev).base = d.base := rfl
theorem base_faultId (d : Dev) (r : Nat) : ({ d with faultId := r } : Dev).base = d.base := rfl

@[simp] theorem base_wr (d : Dev) (a : Nat) (v : Word) : (d.wr a v).base = d.base := base_regs d _
@[simp] theorem base_wrN (d : Dev) (a n : Nat) : (d.wrN a n).base = d.base := base_wr d a (BitVec.ofNat 32 n)
@[simp] theorem base_setFld (d : Dev) (a lo w v : Nat) : (d.setFld a lo w v).base = d.base := by unfold setFld; exact base_wrN ..
@[simp] theorem base_setBit (d : Dev) (a i : Nat) (b : Bool) : (d.setBit a i b).base = d.base := by unfold setBit; exact base_setFld ..
@[simp] theorem base_wr64 (d : Dev) (a v : Nat) : (d.wr64 a v).base = d.base := by unfold wr64; rw [base_wrN, base_wrN]
@[simp] theorem base_raise (d : Dev) (a m : Nat) : (d.raise a m).base = d.base := by unfold raise; exact base_wrN ..
@[simp] theorem base_addSat (d : Dev) (a n : Nat) : (d.addSat a n).base = d.base := by unfold addSat; exact base_wrN ..
@[simp] theorem base_bump (d : Dev) (a : Nat) : (d.bump a).base = d.base := by unfold bump; exact base_addSat ..
@[simp] theorem base_addSat64 (d : Dev) (a n : Nat) : (d.addSat64 a n).base = d.base := by unfold addSat64; exact base_wr64 ..
@[simp] theorem base_updEc (d : Dev) (n : Nat) (f : EcSt → EcSt) : (d.updEc n f).base = d.base := base_ec d _
@[simp] theorem base_clearFlags (d : Dev) (a : Nat) (v : Word) : (d.clearFlags a v).base = d.base := by
  unfold clearFlags; dsimp only; split
  · exact base_wr ..
  · rfl

@[simp] theorem base_arrive (d : Dev) (f : Firing) : (d.arrive f).base = d.base := by
  unfold arrive; exact foldl_base _ _ (fun _ _ => base_updEc ..) d

@[simp] theorem base_fireAs (d : Dev) (src stamp gen : Nat) (co la : Bool) : (d.fireAs src stamp gen co la).base = d.base := by
  unfold fireAs; split
  · exact base_arrive ..
  · simp only [base_arrive, base_bump, base_raise]; exact foldl_base _ _ (fun _ _ => base_raise ..) d

@[simp] theorem base_fire (d : Dev) (src stamp gen : Nat) : (d.fire src stamp gen).base = d.base := base_fireAs ..
@[simp] theorem base_fireNow (d : Dev) (src : Nat) : (d.fireNow src).base = d.base := base_fire ..
theorem base_msixSend (d : Dev) (fn vec : Nat) : (d.msixSend fn vec).base = d.base :=
  (show ∀ m h, ({ d with hostMem := m, host := h } : Dev).base = d.base from fun _ _ => rfl) _ _
@[simp] theorem base_signal (d : Dev) (fn vec : Nat) : (d.signal fn vec).base = d.base := by
  unfold signal; split
  · rfl
  · split
    · exact base_setBit ..
    · exact base_msixSend ..

@[simp] theorem base_recordLate (d : Dev) (s l : Nat) : (d.recordLate s l).base = d.base := by
  unfold recordLate; dsimp only; rw [base_fireNow, base_raise]; split <;> split <;> simp

@[simp] theorem base_accRecord (d : Dev) (fn off cause : Nat) (w n : Bool) (b : Nat) : (d.accRecord fn off cause w n b).base = d.base := by
  unfold accRecord; dsimp only; rw [base_raise]; split
  · exact (base_accKept _ _).trans (base_wrN ..)
  · rfl
@[simp] theorem base_accessErr (d : Dev) (fn off cause : Nat) (w n : Bool) : (d.accessErr fn off cause w n).base = d.base := by
  unfold accessErr; simp
@[simp] theorem base_refuse (d : Dev) (fn off cause : Nat) (n : Bool) : (d.refuse fn off cause n).base = d.base := by unfold refuse; simp
@[simp] theorem base_staleClr (d : Dev) (fn off : Nat) : (d.staleClr fn off).base = d.base := by unfold staleClr; simp

@[simp] theorem base_setFaultQ (d : Dev) (c : Nat) (q : List FaultRec) : (d.setFaultQ c q).base = d.base := by
  unfold setFaultQ; rw [base_setBit]; exact base_faults d _

@[simp] theorem base_notifyFault (d : Dev) (c t : Nat) : (d.notifyFault c t).base = d.base := by
  unfold notifyFault; split <;> simp

/-- A fault of a class that does not escalate touches notifications only. -/
theorem base_fault (d : Dev) (c : Nat) (r : FaultRec) (h : escalates c = false) : (d.fault c r).base = d.base := by
  unfold fault
  simp only [h, Bool.false_and, Bool.false_eq_true, if_false, base_notifyFault, base_raise]
  split
  · simp
  · split
    · simp only [base_bump, base_setFaultQ]; exact (base_faultId _ _).trans (base_bump ..)
    · simp

theorem base_faultOf (d : Dev) (c code kind obj : Nat) (o : Option Nat) (dt : List Nat) (h : escalates c = false) :
    (d.faultOf c code kind obj o dt).base = d.base := base_fault _ _ _ h
theorem base_faultNow (d : Dev) (c code kind obj : Nat) (dt : List Nat) (h : escalates c = false) :
    (d.faultNow c code kind obj dt).base = d.base := base_fault _ _ _ h

/-! ## What equal bases share -/

theorem inforce_of_base {d d' : Dev} (h : d'.base = d.base) : d'.inforce = d.inforce := (congrArg Dev.inforce h :)
theorem latch_of_base {d d' : Dev} (h : d'.base = d.base) : d'.latch = d.latch := (congrArg Dev.latch h :)
theorem stage_of_base {d d' : Dev} (h : d'.base = d.base) : d'.stage = d.stage := (congrArg Dev.stage h :)
theorem parity_of_base {d d' : Dev} (h : d'.base = d.base) : d'.parity = d.parity := (congrArg Dev.parity h :)
theorem freeCtr_of_base {d d' : Dev} (h : d'.base = d.base) : d'.freeCtr = d.freeCtr := (congrArg Dev.freeCtr h :)
theorem time_of_base {d d' : Dev} (h : d'.base = d.base) : d'.time = d.time := (congrArg Dev.time h :)
theorem ports_of_base {d d' : Dev} (h : d'.base = d.base) : d'.ports = d.ports := (congrArg Dev.ports h :)
theorem chan_of_base {d d' : Dev} (h : d'.base = d.base) : d'.chan = d.chan := (congrArg Dev.chan h :)
theorem frames_of_base {d d' : Dev} (h : d'.base = d.base) : d'.frames = d.frames := (congrArg Dev.frames h :)
theorem launches_of_base {d d' : Dev} (h : d'.base = d.base) : d'.launches = d.launches := (congrArg Dev.launches h :)
theorem edges_of_base {d d' : Dev} (h : d'.base = d.base) : d'.edges = d.edges := (congrArg Dev.edges h :)
theorem mkLine_of_base {d d' : Dev} (h : d'.base = d.base) : d'.mkLine = d.mkLine := (congrArg Dev.mkLine h :)
theorem eng_of_base {d d' : Dev} (h : d'.base = d.base) : d'.eng = d.eng := (congrArg Dev.eng h :)
theorem ei_of_base {d d' : Dev} (h : d'.base = d.base) : d'.ei = d.ei := (congrArg Dev.ei h :)
theorem tin_of_base {d d' : Dev} (h : d'.base = d.base) : d'.tin = d.tin := (congrArg Dev.tin h :)
theorem grp_of_base {d d' : Dev} (h : d'.base = d.base) : d'.grp = d.grp := (congrArg Dev.grp h :)
theorem tout_of_base {d d' : Dev} (h : d'.base = d.base) : d'.tout = d.tout := (congrArg Dev.tout h :)
theorem ti_of_base {d d' : Dev} (h : d'.base = d.base) : d'.ti = d.ti := (congrArg Dev.ti h :)
theorem cap_of_base {d d' : Dev} (h : d'.base = d.base) : d'.cap = d.cap := (congrArg Dev.cap h :)
theorem prog_of_base {d d' : Dev} (h : d'.base = d.base) : d'.prog = d.prog := (congrArg Dev.prog h :)
theorem ctx_of_base {d d' : Dev} (h : d'.base = d.base) : d'.ctx = d.ctx := (congrArg Dev.ctx h :)
theorem env_of_base {d d' : Dev} (h : d'.base = d.base) : d'.env = d.env := (congrArg Dev.env h :)
theorem bank_of_base {d d' : Dev} (h : d'.base = d.base) : d'.bank = d.bank := (congrArg Dev.bank h :)
theorem sc_of_base {d d' : Dev} (h : d'.base = d.base) : d'.sc = d.sc := (congrArg Dev.sc h :)
theorem capBuf_of_base {d d' : Dev} (h : d'.base = d.base) : d'.capBuf = d.capBuf := (congrArg Dev.capBuf h :)
theorem mailbox_of_base {d d' : Dev} (h : d'.base = d.base) : d'.mailbox = d.mailbox := (congrArg Dev.mailbox h :)
theorem dram_of_base {d d' : Dev} (h : d'.base = d.base) : d'.dram = d.dram := (congrArg Dev.dram h :)
theorem wiped_of_base {d d' : Dev} (h : d'.base = d.base) : d'.wiped = d.wiped := (congrArg Dev.wiped h :)
theorem badCw_of_base {d d' : Dev} (h : d'.base = d.base) : d'.badCw = d.badCw := (congrArg Dev.badCw h :)
theorem mm_of_base {d d' : Dev} (h : d'.base = d.base) : d'.mm = d.mm := (congrArg Dev.mm h :)
theorem ptab_of_base {d d' : Dev} (h : d'.base = d.base) : d'.ptab = d.ptab := (congrArg Dev.ptab h :)
theorem limH_of_base {d d' : Dev} (h : d'.base = d.base) : d'.limH = d.limH := (congrArg Dev.limH h :)
theorem wdtMs_of_base {d d' : Dev} (h : d'.base = d.base) : d'.wdtMs = d.wdtMs := (congrArg Dev.wdtMs h :)
theorem normalRefresh_of_base {d d' : Dev} (h : d'.base = d.base) : d'.normalRefresh = d.normalRefresh := (congrArg Dev.normalRefresh h :)
theorem adm_of_base {d d' : Dev} (h : d'.base = d.base) : d'.adm = d.adm := (congrArg Dev.adm h :)
theorem safePin_of_base {d d' : Dev} (h : d'.base = d.base) : d'.safePin = d.safePin := (congrArg Dev.safePin h :)
theorem therm_of_base {d d' : Dev} (h : d'.base = d.base) : d'.therm = d.therm := (congrArg Dev.therm h :)
theorem extest_of_base {d d' : Dev} (h : d'.base = d.base) : d'.extest = d.extest := (congrArg Dev.extest h :)
theorem loadnAt_of_base {d d' : Dev} (h : d'.base = d.base) : d'.loadnAt = d.loadnAt := (congrArg Dev.loadnAt h :)
theorem clk_of_base {d d' : Dev} (h : d'.base = d.base) : d'.clk = d.clk := (congrArg Dev.clk h :)
theorem calT_of_base {d d' : Dev} (h : d'.base = d.base) : d'.calT = d.calT := (congrArg Dev.calT h :)
theorem dmc_of_base {d d' : Dev} (h : d'.base = d.base) : d'.dmc = d.dmc := (congrArg Dev.dmc h :)
theorem moved_of_base {d d' : Dev} (h : d'.base = d.base) : d'.moved = d.moved := (congrArg Dev.moved h :)
theorem frzN_of_base {d d' : Dev} (h : d'.base = d.base) : d'.frzN = d.frzN := (congrArg Dev.frzN h :)
theorem sec_of_base {d d' : Dev} (h : d'.base = d.base) : d'.sec = d.sec := (congrArg Dev.sec h :)
theorem aon_of_base {d d' : Dev} (h : d'.base = d.base) : d'.aon = d.aon := (congrArg Dev.aon h :)
theorem standby_of_base {d d' : Dev} (h : d'.base = d.base) : d'.standby = d.standby := (congrArg Dev.standby h :)
theorem d3hot_of_base {d d' : Dev} (h : d'.base = d.base) : d'.d3hot = d.d3hot := (congrArg Dev.d3hot h :)
theorem flash_of_base {d d' : Dev} (h : d'.base = d.base) : d'.flash = d.flash := (congrArg Dev.flash h :)
theorem flashSize_of_base {d d' : Dev} (h : d'.base = d.base) : d'.flashSize = d.flashSize := (congrArg Dev.flashSize h :)
theorem dimms_of_base {d d' : Dev} (h : d'.base = d.base) : d'.dimms = d.dimms := (congrArg Dev.dimms h :)
theorem descC_of_base {d d' : Dev} (h : d'.base = d.base) : d'.descC = d.descC := (congrArg Dev.descC h :)
theorem arrCtr_of_base {d d' : Dev} (h : d'.base = d.base) : d'.arrCtr = d.arrCtr := (congrArg Dev.arrCtr h :)
theorem icache_of_base {d d' : Dev} (h : d'.base = d.base) : d'.icache = d.icache := (congrArg Dev.icache h :)
theorem safeEdge_of_base {d d' : Dev} (h : d'.base = d.base) : d'.safeEdge = d.safeEdge := (congrArg Dev.safeEdge h :)
theorem widthPin_of_base {d d' : Dev} (h : d'.base = d.base) : d'.widthPin = d.widthPin := (congrArg Dev.widthPin h :)
theorem mgmtPin_of_base {d d' : Dev} (h : d'.base = d.base) : d'.mgmtPin = d.mgmtPin := (congrArg Dev.mgmtPin h :)

end Dev
end Sys2Proof.Machine
end

