-- ==== Sys2Proof/Laws/Claims.lean ====
section
/-! SUPPORT. Leaving an engine, and the exceptions of R119: what they do to the context's record and what they leave. -/
namespace Sys2Proof.Machine
namespace Dev

theorem engOf_congr {d d' : Dev} (h : d'.eng = d.eng) (e : Nat) : d'.engOf e = d.engOf e := by unfold engOf; rw [h]

/-- The device without channels, buffered words and registers, which the settling of claims may touch. -/
def noClaims (d : Dev) : Dev := { d with chan := [], inforce := [], regs := [] }

@[simp] theorem noClaims_settle (d : Dev) (a : Nat) : (d.settle a).noClaims = d.noClaims := rfl
theorem noClaims_chan (d : Dev) (m : SMap Chan) : ({ d with chan := m } : Dev).noClaims = d.noClaims := rfl
theorem noClaims_regs (d : Dev) (m : SMap Word) : ({ d with regs := m } : Dev).noClaims = d.noClaims := rfl
@[simp] theorem noClaims_giveUpRing (d : Dev) (n : Nat) : (d.giveUpRing n).noClaims = d.noClaims := by
  unfold giveUpRing; dsimp only; split
  · exact noClaims_regs ..
  · rfl

@[simp] theorem noClaims_settleClaims (d : Dev) : (d.settleClaims).noClaims = d.noClaims := by
  unfold settleClaims; dsimp only
  split
  · exact noClaims_chan ..
  · refine (foldl_keeps noClaims _ _ ?_ _).trans ((foldl_keeps noClaims _ _ (fun d n => noClaims_giveUpRing d n) _).trans (noClaims_chan ..))
    intro d x; split <;> simp

@[simp] theorem settleClaims_ctx (d : Dev) : d.settleClaims.ctx = d.ctx := (congrArg Dev.ctx (noClaims_settleClaims d) :)
@[simp] theorem settleClaims_launches (d : Dev) : d.settleClaims.launches = d.launches := (congrArg Dev.launches (noClaims_settleClaims d) :)
@[simp] theorem settleClaims_eng (d : Dev) : d.settleClaims.eng = d.eng := (congrArg Dev.eng (noClaims_settleClaims d) :)
@[simp] theorem settleClaims_edges (d : Dev) : d.settleClaims.edges = d.edges := (congrArg Dev.edges (noClaims_settleClaims d) :)
@[simp] theorem settleClaims_ec (d : Dev) : d.settleClaims.ec = d.ec := (congrArg Dev.ec (noClaims_settleClaims d) :)
@[simp] theorem settleClaims_ei (d : Dev) : d.settleClaims.ei = d.ei := (congrArg Dev.ei (noClaims_settleClaims d) :)

/-- Settling claims writes no register but SC_LAYOUT of channels. -/
theorem settleClaims_rd (d : Dev) (a : Nat) (h : ∀ n < 96, Reg.chn_SC_LAYOUT n ≠ a) : d.settleClaims.rd a = d.rd a := by
  have giveUp (d : Dev) (n : Nat) : (d.giveUpRing n).rd a = d.rd a := by
    unfold giveUpRing; dsimp only; split
    · next hn => simp only [Bool.and_eq_true, decide_eq_true_eq] at hn; exact rd_setFld_ne _ _ _ _ (h n (by omega))
    · rfl
  unfold settleClaims; dsimp only
  split
  · rfl
  · refine (foldl_keeps (fun d => d.rd a) _ _ ?_ _).trans ((foldl_keeps (fun d => d.rd a) _ _ (fun d n => giveUp d n) _).trans rfl)
    intro d x; split <;> rfl

section fields
variable (d : Dev) (c w lo n v : Nat)
@[simp] theorem setCtxFld_regs : (d.setCtxFld c w lo n v).regs = d.regs := rfl
@[simp] theorem setCtxFld_launches : (d.setCtxFld c w lo n v).launches = d.launches := rfl
@[simp] theorem setCtxFld_eng : (d.setCtxFld c w lo n v).eng = d.eng := rfl
@[simp] theorem setCtxFld_ei : (d.setCtxFld c w lo n v).ei = d.ei := rfl
@[simp] theorem setCtxFld_chan : (d.setCtxFld c w lo n v).chan = d.chan := rfl
@[simp] theorem setCtxFld_edges : (d.setCtxFld c w lo n v).edges = d.edges := rfl
@[simp] theorem setCtxFld_time : (d.setCtxFld c w lo n v).time = d.time := rfl
@[simp] theorem setCtxFld_mailbox : (d.setCtxFld c w lo n v).mailbox = d.mailbox := rfl
@[simp] theorem setCtx64_regs : (d.setCtx64 c w v).regs = d.regs := rfl
@[simp] theorem setCtx64_launches : (d.setCtx64 c w v).launches = d.launches := rfl
@[simp] theorem setCtx64_eng : (d.setCtx64 c w v).eng = d.eng := rfl
@[simp] theorem setCtx64_ei : (d.setCtx64 c w v).ei = d.ei := rfl
@[simp] theorem setCtx64_chan : (d.setCtx64 c w v).chan = d.chan := rfl
@[simp] theorem setCtx64_time : (d.setCtx64 c w v).time = d.time := rfl
@[simp] theorem setCtxState_regs (s : Nat) : (d.setCtxState c s).regs = d.regs := rfl
@[simp] theorem setCtxState_launches (s : Nat) : (d.setCtxState c s).launches = d.launches := rfl
@[simp] theorem setCtxState_eng (s : Nat) : (d.setCtxState c s).eng = d.eng := rfl
@[simp] theorem setCtxState_ei (s : Nat) : (d.setCtxState c s).ei = d.ei := rfl
@[simp] theorem unbind_ctx (e : Nat) : (d.unbind e).ctx = d.ctx := by unfold unbind; simp
@[simp] theorem unbind_launches (e : Nat) : (d.unbind e).launches = d.launches := by unfold unbind; simp
@[simp] theorem unbind_ei (e : Nat) : (d.unbind e).ei = d.ei := by unfold unbind; simp
end fields

@[simp] theorem keepLive_ctx (d : Dev) (e c : Nat) : (d.keepLive e c).ctx = d.ctx := updEng_ctx ..
@[simp] theorem keepLive_launches (d : Dev) (e c : Nat) : (d.keepLive e c).launches = d.launches := updEng_launches ..
@[simp] theorem keepLive_ei (d : Dev) (e c : Nat) : (d.keepLive e c).ei = d.ei := updEng_ei ..
@[simp] theorem keepLive_regs (d : Dev) (e c : Nat) : (d.keepLive e c).regs = d.regs := updEng_regs ..
theorem keepLive_stopped (d : Dev) (e c : Nat) : (d.keepLive e c).stopped e = d.stopped e := by
  unfold stopped keepLive; dsimp only; rw [engOf_updEng_same]

/-- Folding an operation from the right that keeps a quantity keeps it. -/
theorem foldr_keeps {α β : Type} (q : Dev → β) (l : List α) (f : α → Dev → Dev) (h : ∀ x d, q (f x d) = q d) (d : Dev) :
    q (l.foldr f d) = q d := by
  induction l with
  | nil => rfl
  | cons x r ih => rw [List.foldr_cons, h, ih]

@[simp] theorem unmirror_launches (d : Dev) (e c : Nat) : (d.unmirror e c).launches = d.launches := by
  unfold unmirror; rw [updEng_launches]; exact foldr_keeps Dev.launches _ _ (fun _ _ => setCtxW_launches ..) _
@[simp] theorem unmirror_ei (d : Dev) (e c : Nat) : (d.unmirror e c).ei = d.ei := by
  unfold unmirror; rw [updEng_ei]; exact foldr_keeps Dev.ei _ _ (fun _ _ => setCtxW_ei ..) _
@[simp] theorem unmirror_regs (d : Dev) (e c : Nat) : (d.unmirror e c).regs = d.regs := by
  unfold unmirror; rw [updEng_regs]; exact foldr_keeps Dev.regs _ _ (fun _ _ => setCtxW_regs ..) _
@[simp] theorem unmirror_ec (d : Dev) (e c : Nat) : (d.unmirror e c).ec = d.ec := by
  unfold unmirror; rw [updEng_ec]; exact foldr_keeps Dev.ec _ _ (fun _ _ => setCtxW_ec ..) _

/-- A word goes back to its last good copy where its mirror had stopped, and stays otherwise. -/
theorem unmirror_ctxW (d : Dev) (e c w : Nat) :
    (d.unmirror e c).ctxW c w = (((d.stopped e).find? (fun p => p.1 == w)).map (fun p => p.2)).getD (d.ctxW c w) := by
  unfold unmirror
  rw [ctxW_congr (updEng_ctx ..)]
  induction d.stopped e with
  | nil => rfl
  | cons p r ih =>
    rw [List.foldr_cons, List.find?_cons]
    by_cases h : p.1 = w
    · subst h; simp [ctxW_setCtxW_same]
    · simp only [beq_eq_false_iff_ne.mpr h]; rw [ctxW_setCtxW_other _ _ _ h, ih]

/-- A context that goes back to the context store holds what the store holds of it. -/
theorem unmirror_storeW (d : Dev) (e c w : Nat) (h : d.ctxEng c = some e) : ((d.keepLive e c).unmirror e c).ctxW c w = d.storeW c w := by
  rw [unmirror_ctxW, keepLive_stopped, ctxW_congr (keepLive_ctx ..)]; unfold storeW; rw [h]

/-- Words outside the hot state are the store's at any time. -/
theorem storeW_cold (d : Dev) (c w : Nat) (h : isHot w = false) : d.storeW c w = d.ctxW c w := by
  unfold storeW; split
  · next e _ =>
    have : (d.stopped e).find? (fun p => p.1 == w) = none := by
      rw [List.find?_eq_none]; intro p hp he
      have := (List.mem_filter.mp hp).2
      rw [beq_iff_eq.mp he] at this; simp [this] at h
    rw [this]; rfl
  · rfl

theorem storeW_congr {d d' : Dev} (h : ∀ e, d'.stopped e = d.stopped e) (c w : Nat) (hw : d'.ctxW c w = d.ctxW c w) (h0 : d'.ctxW c 0 = d.ctxW c 0) :
    d'.storeW c w = d.storeW c w := by
  have he : d'.ctxEng c = d.ctxEng c := by unfold ctxEng ctxFld; rw [h0]
  unfold storeW; rw [he, hw]
  split
  · rw [h]
  · rfl

/-- A context that leaves its engine takes the state it leaves for. -/
theorem leave_state (d : Dev) (c s : Nat) (h : s < 8) : (d.leave c s).ctxState c = s := by
  unfold leave ctxState
  split
  · rw [ctxFld_congr (settleClaims_ctx _), setCtxState, ctxFld_setCtxFld_same _ _ _ _ _ _ (by omega), Nat.mod_eq_of_lt (by omega)]
  · dsimp only
    rw [ctxFld_congr (settleClaims_ctx _), ctxFld_congr (unbind_ctx _ _), ctxFld_setCtxFld_other _ _ _ _ _ _ _ _ (by omega) (by omega),
      setCtxState, ctxFld_setCtxFld_same _ _ _ _ _ _ (by omega), Nat.mod_eq_of_lt (by omega)]

/-- Leaving touches words 0, 3, 56 and 57 of the record; the others are what the context store holds. -/
theorem leave_ctxW (d : Dev) (c s w : Nat) (h0 : 0 ≠ w) (h3 : 3 ≠ w) (h56 : 56 ≠ w) (h57 : 57 ≠ w) :
    (d.leave c s).ctxW c w = d.storeW c w := by
  unfold leave
  split
  · next he =>
    rw [ctxW_congr (settleClaims_ctx _), setCtxState, ctxW_setCtxFld_other _ _ _ _ _ h0]; unfold storeW; rw [he]
  · next e he =>
    dsimp only
    rw [ctxW_congr (settleClaims_ctx _), ctxW_congr (unbind_ctx _ _), ctxW_setCtxFld_other _ _ _ _ _ h0, setCtxState,
      ctxW_setCtxFld_other _ _ _ _ _ h0, ctxW_setCtxFld_other _ _ _ _ _ h3, ctxW_setCtx64_other _ _ _ h56 h57,
      unmirror_storeW _ _ _ _ he]

@[simp] theorem leave_launches (d : Dev) (c s : Nat) : (d.leave c s).launches = d.launches := by
  unfold leave
  split
  · simp
  · dsimp only; simp
@[simp] theorem leave_ei (d : Dev) (c s : Nat) : (d.leave c s).ei = d.ei := by
  unfold leave
  split
  · simp
  · dsimp only; simp

/-- A bound context that leaves frees its engine. -/
theorem leave_engCtx (d : Dev) (c s e : Nat) (h : d.ctxEng c = some e) : (d.leave c s).engCtx e = none := by
  have hu : ∀ d : Dev, (d.unbind e).bit (Reg.eng_STATUS e) 14 = false := by
    intro d
    have h1 : (d.unbind e).fld (Reg.eng_STATUS e) 0 16 = 0 := by
      unfold unbind
      rw [fld_congr (by simp only [updEng_regs, settle_regs]) (d := d.setFld (Reg.eng_STATUS e) 0 16 0), fld_setFld_same _ _ _ _ _ (by omega), Nat.zero_mod]
    rw [bit_eq]
    have h2 : (d.unbind e).fld (Reg.eng_STATUS e) 14 1 = 0 := by
      simp only [fld, bitsOf] at h1 ⊢; omega
    rw [h2]; rfl
  unfold leave engCtx
  rw [h]; dsimp only
  have he : e < 64 := by
    unfold ctxEng at h; split at h
    · cases h; exact bitsOf_lt ..
    · cases h
  rw [bit, settleClaims_rd _ _ (by intro n hn; simp only [Reg.chn_SC_LAYOUT, Reg.eng_STATUS, chnBase]; omega), ← bit, hu]; rfl

theorem ifFire_base (d : Dev) (b : Bool) (n : Nat) : (if b = true then d.fireNow n else d).base = d.base := by
  split
  · exact base_fireNow ..
  · rfl

/-- An exception's record in the engine leaves contexts and launches. -/
@[simp] theorem putExc_ctx (d : Dev) (e : Nat) (w : List Nat) : (d.putExc e w).ctx = d.ctx := by
  unfold putExc; rw [updEng_ctx]; exact foldl_keeps Dev.ctx _ _ (fun d i => wrN_ctx ..) _
@[simp] theorem putExc_launches (d : Dev) (e : Nat) (w : List Nat) : (d.putExc e w).launches = d.launches := by
  unfold putExc; rw [updEng_launches]; exact foldl_keeps Dev.launches _ _ (fun d i => wrN_launches ..) _
/-- Nor does it touch the words whose mirror has stopped. -/
theorem putExc_stopped (d : Dev) (e : Nat) (w : List Nat) (i : Nat) : (d.putExc e w).stopped i = d.stopped i := by
  have h : ((List.range 8).foldl (fun (d : Dev) i => d.wrN (Reg.eng_EXC e i) (w.getD i 0)) d).eng = d.eng :=
    foldl_keeps Dev.eng _ _ (fun d i => wrN_eng ..) _
  unfold putExc stopped
  by_cases hi : i = e
  · subst hi; rw [engOf_updEng_same, engOf_congr h]
  · rw [engOf_updEng_ne _ _ (Ne.symm hi), engOf_congr h]

/-- An exception's record leaves every launch. -/
@[simp] theorem recordExc_launches (d : Dev) (e c code detail : Nat) : (d.recordExc e c code detail).launches = d.launches := by
  unfold recordExc
  refine (launches_of_base (base_faultOf _ _ _ _ _ _ _ rfl)).trans ?_
  refine (launches_of_base (ifFire_base _ _ _)).trans ?_
  refine (raise_launches ..).trans ?_
  exact (foldl_keeps Dev.launches _ _ (fun d i => setCtxW_launches ..) _).trans (putExc_launches ..)

theorem recordExc_eng (d : Dev) (e c code detail : Nat) : (d.recordExc e c code detail).eng = (d.putExc e (d.excWords e c code detail)).eng := by
  unfold recordExc
  refine (eng_of_base (base_faultOf _ _ _ _ _ _ _ rfl)).trans ?_
  refine (eng_of_base (ifFire_base _ _ _)).trans ?_
  refine (raise_eng ..).trans ?_
  exact foldl_keeps Dev.eng _ _ (fun d i => setCtxW_eng ..) _
theorem stopped_congr {d d' : Dev} (h : d'.eng = d.eng) (e : Nat) : d'.stopped e = d.stopped e := by unfold stopped; rw [engOf_congr h]
theorem recordExc_stopped (d : Dev) (e c code detail i : Nat) : (d.recordExc e c code detail).stopped i = d.stopped i :=
  (stopped_congr (recordExc_eng ..) i).trans (putExc_stopped ..)

/-- An exception's record changes the context's record through these writes only. -/
theorem recordExc_ctx (d : Dev) (e c code detail : Nat) :
    (d.recordExc e c code detail).ctx =
      ((List.range 8).foldl (fun (d' : Dev) i => d'.setCtxW c (48 + i) (BitVec.ofNat 32 ((d.excWords e c code detail).getD i 0)))
        (d.putExc e (d.excWords e c code detail))).ctx := by
  unfold recordExc
  refine (ctx_of_base (base_faultOf _ _ _ _ _ _ _ rfl)).trans ?_
  refine (ctx_of_base (ifFire_base _ _ _)).trans ?_
  exact raise_ctx ..

theorem recordExc_ctxW (d : Dev) (e c code detail w : Nat) (h : w < 48 ∨ 55 < w) : (d.recordExc e c code detail).ctxW c w = d.ctxW c w := by
  rw [ctxW_congr (recordExc_ctx ..)]
  generalize d.excWords e c code detail = ws
  have key : ∀ (l : List Nat) (d : Dev), (∀ i ∈ l, i < 8) →
      (l.foldl (fun d i => d.setCtxW c (48 + i) (BitVec.ofNat 32 (ws.getD i 0))) d).ctxW c w = d.ctxW c w := by
    intro l
    induction l with
    | nil => intros; rfl
    | cons i r ih =>
      intro d hl
      have hi := hl i (List.mem_cons_self ..)
      rw [List.foldl_cons, ih _ (fun j hj => hl j (List.mem_cons_of_mem _ hj)), ctxW_setCtxW_other _ _ _ (by omega)]
  exact (key _ _ (by simp)).trans (ctxW_congr (putExc_ctx ..) ..)

/-- The code of an exception's record. -/
theorem recordExc_code (d : Dev) (e c code detail : Nat) (h : code < 256) : (d.recordExc e c code detail).ctxFld c 48 0 8 = code := by
  rw [ctxFld_congr (recordExc_ctx ..)]
  have hw : bitsOf (BitVec.ofNat 32 ((d.excWords e c code detail).getD 0 0)).toNat 0 8 = code := by
    simp only [excWords, List.getD_cons_zero, BitVec.toNat_ofNat, bitsOf]; omega
  generalize d.excWords e c code detail = ws at hw ⊢
  have h8 : List.range 8 = [0, 1, 2, 3, 4, 5, 6, 7] := rfl
  simp only [h8, List.foldl_cons, List.foldl_nil]
  rw [ctxFld_setCtxW_ne _ _ _ _ _ (by omega), ctxFld_setCtxW_ne _ _ _ _ _ (by omega), ctxFld_setCtxW_ne _ _ _ _ _ (by omega),
    ctxFld_setCtxW_ne _ _ _ _ _ (by omega), ctxFld_setCtxW_ne _ _ _ _ _ (by omega), ctxFld_setCtxW_ne _ _ _ _ _ (by omega),
    ctxFld_setCtxW_ne _ _ _ _ _ (by omega)]
  rw [ctxFld, ctxW_setCtxW_same]; exact hw

/-- An exception stops its context with the record's code and leaves its PC, as the context store holds it, and every launch (R119, R141,
R149). -/
theorem raiseExc_spec (d : Dev) (e c code detail : Nat) (h : code < 256) :
    (d.raiseExc e c code detail).ctxState c = 5 ∧ (d.raiseExc e c code detail).ctxFld c 48 0 8 = code ∧
      (d.raiseExc e c code detail).ctxW c 2 = d.storeW c 2 ∧ (d.raiseExc e c code detail).launches = d.launches := by
  unfold raiseExc; dsimp only
  have hx : ∀ b : Prop, ∀ _ : Decidable b, (if b then d.raise Reg.time_EVENTS 64 else d).ctx = d.ctx := by
    intro b _; split <;> simp
  have he : ∀ b : Prop, ∀ _ : Decidable b, (if b then d.raise Reg.time_EVENTS 64 else d).eng = d.eng := by
    intro b _; split <;> simp
  have hl : ∀ b : Prop, ∀ _ : Decidable b, (if b then d.raise Reg.time_EVENTS 64 else d).launches = d.launches := by
    intro b _; split <;> simp
  have hw : ∀ w, (w < 48 ∨ 55 < w) →
      (recordExc (if code = 7 then d.raise Reg.time_EVENTS 64 else d) e c code detail).ctxW c w = d.ctxW c w := by
    intro w h; rw [recordExc_ctxW _ _ _ _ _ _ h, ctxW_congr (hx _ _)]
  refine ⟨leave_state _ _ _ (by omega), ?_, ?_, ?_⟩
  · rw [ctxFld, leave_ctxW _ _ _ _ (by omega) (by omega) (by omega) (by omega), storeW_cold _ _ _ rfl]
    exact recordExc_code _ _ _ _ _ h
  · rw [leave_ctxW _ _ _ _ (by omega) (by omega) (by omega) (by omega)]
    exact storeW_congr (fun i => (recordExc_stopped ..).trans (stopped_congr (he _ _) i)) _ _ (hw _ (by omega)) (hw _ (by omega))
  · rw [leave_launches, recordExc_launches, hl]

end Dev
end Sys2Proof.Machine
end

