-- ==== Sys2Proof/Laws/Entries.lean ====
section
/-! SUPPORT. Issue of a sequence entry: what `issue` does when it may issue, and what the bookkeeping leaves. -/
namespace Sys2Proof.Machine.Dev

/-- Where an engine issues an entry of an opcode, its body decides what happens. -/
theorem issue_of_issues {d : Dev} {e c op : Nat} (h : d.issues e c op) (body : Nat → Nat → Nat → Dev → Issued) :
    d.issue e op body = match body c (d.ctxPc c) (d.entryAt (d.ctxPc c)) d with
      | .error (code, detail) => d.raiseExc e c code detail
      | .ok (next, d') => d'.retireEntry e c next (!(op == 5 && (d.engOf e).released)) := by
  obtain ⟨⟨⟨h1, h2, h3, h4, h5⟩, h6, hl, h7, h8, h9, h10⟩, h11⟩ := h
  unfold entryOf at h7 h8 h11
  have e1 : ¬ (d.ctxState c ≠ 3 ∨ (d.engOf e).swWait.isSome ∨ (d.engOf e).moving.isSome ∨ d.bit (Reg.eng_STATUS e) 24) := by
    simp [h2, h3, h4, h5]
  have e2 : ¬ (ent (d.entryAt (d.ctxPc c)) 0 6 4 ≠ 0 ∧ (!(d.engOf e).released) = true) := by
    rcases h8 with h8 | h8 <;> simp [h8]
  have e3 : ¬ (launching (d.entryAt (d.ctxPc c)) = true ∧ (!d.timeValid) = true) := by
    intro ⟨a, b⟩; simp [h11 a] at b
  have e4 : (!(op == 5 && (d.engOf e).released) && d.timeState == 2 && decide (d.nowT / 16 < (d.engOf e).slotTick)) = false := by
    rcases h9 with h9 | h9
    · simp [h9]
    · have : ¬ d.nowT / 16 < (d.engOf e).slotTick := by omega
      simp [this]
  have e5 : (!(op == 5 && (d.engOf e).released) && decide (32 ≤ d.engPend e)) = false := by
    have : ¬ 32 ≤ d.engPend e := by omega
    simp [this]
  simp only [issue, h1, if_neg e1, h6, Bool.not_true, Bool.false_eq_true, if_false, h7, hl, or_self, ne_eq, not_true_eq_false, if_neg e2,
    if_neg e3, e4, e5] <;> rfl

/-- An entry that stays in the program store: only the context's PC moves. -/
theorem retireEntry_ctxPc (d : Dev) (e c pc : Nat) (slot : Bool) (h : pc < 2^20) : (d.retireEntry e c pc slot).ctxPc c = pc := by
  have h' : ¬ (2^20 ≤ pc) := by omega
  simp only [retireEntry, h', false_and, if_false, ctxPc]
  rw [ctxFld_congr (d := d.setCtxFld c 2 0 20 pc) (by simp only [updEng_ctx, setBit_ctx, addSat64_ctx]) c 2 0 20, ctxFld_setCtxFld_same _ _ _ _ _ _ (by omega),
    Nat.mod_eq_of_lt h]

theorem retireEntry_ctxW (d : Dev) (e c pc : Nat) (slot : Bool) (w : Nat) (h : pc < 2^20) (hw : 2 ≠ w) :
    (d.retireEntry e c pc slot).ctxW c w = d.ctxW c w := by
  have h' : ¬ (2^20 ≤ pc) := by omega
  simp only [retireEntry, h', false_and, if_false]
  rw [ctxW_congr (d := d.setCtxFld c 2 0 20 pc) (by simp only [updEng_ctx, setBit_ctx, addSat64_ctx]) c w, ctxW_setCtxFld_other _ _ _ _ _ hw]

theorem retireEntry_ctxFld2 (d : Dev) (e c pc : Nat) (slot : Bool) (lo n : Nat) (h : pc < 2^20) (hlo : 20 ≤ lo) :
    (d.retireEntry e c pc slot).ctxFld c 2 lo n = d.ctxFld c 2 lo n := by
  have h' : ¬ (2^20 ≤ pc) := by omega
  simp only [retireEntry, h', false_and, if_false]
  rw [ctxFld_congr (d := d.setCtxFld c 2 0 20 pc) (by simp only [updEng_ctx, setBit_ctx, addSat64_ctx]) c 2 lo n,
    ctxFld_setCtxFld_other _ _ _ _ _ _ _ _ (by omega) (by omega)]

theorem retireEntry_launches (d : Dev) (e c pc : Nat) (slot : Bool) (h : pc < 2^20) :
    (d.retireEntry e c pc slot).launches = d.launches := by
  have h' : ¬ (2^20 ≤ pc) := by omega
  simp only [retireEntry, h', false_and, if_false, updEng_launches, setBit_launches, addSat64_launches]
  rfl

theorem retireEntry_swWait (d : Dev) (e c pc : Nat) (slot : Bool) (h : pc < 2^20) :
    ((d.retireEntry e c pc slot).engOf e).swWait = (d.engOf e).swWait := by
  have h' : ¬ (2^20 ≤ pc) := by omega
  simp only [retireEntry, h', false_and, if_false, engOf_updEng_same]
  rfl

end Sys2Proof.Machine.Dev
end

