-- ==== Sys2Proof/WellFormed.lean ====
section
/-! DEFINITION. Which terms of `Instr` are commands: the operand shapes that the types of Syntax.lean leave loose. A term that
is not well formed stands for nothing that could reach the block. -/
namespace Sys2Proof

/-- A submission entry has the ten parameter words P0 to P9 (R275). -/
def HostCmd.wellFormed (c : HostCmd) : Bool := c.par.length == 10

/-- A frame's EVENT, RESULT and other words fit their fields by their types; TYPE is what the row is for (R44). -/
def LinkFrame.isOf (f : LinkFrame) (typ : BitVec 8) : Bool := f.typ == typ

/-- A memory write that reaches a BAR carries 1 to 4096 bytes, inside the window of `size` bytes that its row is for (R230, R271). -/
def barWrite (off size : Nat) (data : List Byte) : Bool := 1 ≤ data.length && data.length ≤ 4096 && decide (off + data.length ≤ size)

/-- The guard registers that GUARD_WRITE names are CLAMP, SLEW and PWR (R187); a sensor's reading fits its 16-bit register (R376, R381), and a
digitiser's raw sample its 14 integer bits (R259). -/
def reading (t : Int) : Bool := decide (-32768 ≤ t ∧ t ≤ 32767)

/-- The term is a command that can reach the block. -/
def Instr.wellFormed : Instr → Bool
  | .nop c | .memWrite c | .memRead c | .wipe c | .segWrite c | .segRead c | .reload c | .envWrite c | .progWrite c | .progRead c => c.wellFormed
  | .ctxWrite c | .ctxRead c | .ctxClear c | .admitCtx c | .release c | .ctxStart c | .ctxStop c | .engRetire c | .engRestore c => c.wellFormed
  | .engBankRead c | .capRead c | .partCreate c | .partDestroy c | .dramRetrain c | .dramMigrate c | .dramUnfreeze c | .imageWrite c => c.wellFormed
  | .fwSwap c | .calWrite c | .attest c => c.wellFormed
  | .bar2Read _ off len => 1 ≤ len.val && decide (off.toNat + len.val ≤ 2 ^ 36)
  | .bar2Write _ off data => barWrite off.toNat (2 ^ 36) data
  | .mailboxWrite _ off data => barWrite off.toNat 0x4000 data
  | .unstampedPost _ off data => barWrite off.toNat 0x4000 data
  | .stampedPost _ off data => barWrite off.toNat 0x10000 data
  | .registerWrite _ off x _ => off.toNat % 4 == 0 && x.be != 0
  | .clearingWrite _ off _ => off.toNat % 4 == 0
  | .maskedWrite _ off _ => off.toNat % 4 == 0
  | .mgmtRead (.reg off) => off.toNat % 4 == 0
  | .mgmtRead (.early off) => off.toNat % 4 == 0
  | .mgmtRead (.setAddress _) => true
  | .mgmtRead (.other cmd) => cmd != 0x01 && cmd != 0x02 && cmd != 0x10
  | .mgmtWrite off _ => off.toNat % 4 == 0
  | .dramRequest _ addr len write _ data _ => Machine.requestOk addr.toNat len.val write data
  | .dimmReading _ ts => decide (1 ≤ ts.length ∧ ts.length ≤ 2) && ts.all (fun t => t.all reading)
  | .digitiserSample _ raw _ => raw.all (fun x => decide (-8192 ≤ x ∧ x ≤ 8191))
  | .junctionReading t => reading t
  | .temperatureUpdate _ rs => decide (rs.length ≤ 10) && rs.all reading
  | .topo _ f => f.isOf 0x30#8
  | .timeSyncReceive _ f => f.isOf 0x01#8
  | .eventFrame _ f => f.isOf 0x10#8
  | .resultFrame _ f => f.isOf 0x11#8
  | .badType _ f => !([0x00#8, 0x01#8, 0x02#8, 0x03#8, 0x10#8, 0x11#8, 0x20#8, 0x30#8].contains f.typ)
  | .nak _ f => f.isOf 0x20#8
  | .echoReq _ f => f.isOf 0x02#8
  | .echoRsp _ f _ _ => f.isOf 0x03#8
  | .sqTail _ _ _ | .cqHead _ _ _ | .commandFetch | .executorStep _ | .completionWrite _ | .cqInterrupt _ _ | .evtHoldoff _ | .sqReset _ _
  | .cqEnable _ _ | .functionLevelReset _ | .hotReset | .linkDown | .dmaWindowWrite _ _ _ | .bar2WindowWrite _ _ _ | .doorbell _ _ | .parityScrub _ _
  | .mgmtWake | .halt _ | .play _ | .gap _ | .loop _ | .next _ | .br _ | .reg _ | .frame _ | .mark _ | .event _ | .tset _ | .switch _ | .nopEntry _
  | .lineFetch _ | .waitRelease _ | .eventInputFiring _ _ | .swFiring _ | .scheduledSwitch _ | .staging _ _ | .swCfgApply _ | .selfTest _ _
  | .patrol _ _ _ | .engMoved _ | .microcodeChange _ | .launchRecord _ | .launch _ | .passStart _ | .segEnd _ | .markerEdge _ _ | .underrun _ _ _
  | .ringFill _ | .launchInput _ | .frameInput _ | .frCmd _ _ _ | .setf _ _ | .setp _ _ | .addp _ _ | .setc _ _ | .choff _ _ | .init _ _
  | .frameQuery _ _ _ | .eventChannelFiring _ | .deliver _ | .ecApply _ | .grpCmd _ _ _ | .groupEnable _ | .groupDisable _ | .groupChange _
  | .triggerOutput _ | .triggerOutputAction _ | .pulseEnd _ | .linkTransmit _ | .loadStrobe _ | .staticLoad _ | .loadN _ | .outSafeN _
  | .outSafeNRelease | .holdRel _ _ | .settleEnd _ | .safeCode _ _ _ | .guardWrite _ _ _ _ | .trip _ _ | .d2dErr _ _ | .rotationSwap _
  | .spareMeasurement _ _ | .triggerCrossing _ _ _ | .levelSettle _ | .triggerArm _ _ | .syncEdge | .alarm _ | .alarmEnable _ | .timeSetArm _
  | .timeSet | .tbAnchor | .refLost | .apply _ | .applyCancel _ | .refSwap _ | .applyEdge | .refSwapDone _ | .lockWindow _ _ | .acquisitionTimeout _
  | .xpllBypass | .xpllLock | .standby | .wake _ | .tileState _ | .bankRetention _ | .bankWake _ | .selfRefreshIdle _ | .deviceReset _ | .secReset _
  | .boot | .dramTrainingDone _ | .startSection | .startTimeSetTimeout | .watchdogExpiry | .confirm | .tryEn _ | .lcChange | .addKey | .revokeKey
  | .debugUnlock | .recCtl _ | .backgroundWipe | .granuleFill _ | .arbitration _ _ | .requestComplete _ _ _ | .refreshDue _
  | .zqCalibration _ | .patrolScrub _ _ _ | .caParity _ | .chunkSwitch _ | .ack _ _ | .captureApply _ _ | .captureArm _ _ | .captureTrigger _ _
  | .abort _ | .chainReset _ | .calibrationBorrow _ _ | .trimStep _ | .run _ | .runDone _ _ _ | .freeze _ _ | .check _ _ _
  | .portUp _ _ | .echo _ | .timeSync _ | .crcError _ | .portDown _ | .refDetected _ | .pcieLinkUp _ _ | .vfEnable _ _ | .extest _ | .watchdogService => true

end Sys2Proof
end

