-- ==== Sys2Proof/Tests/Slice0.lean ====
section
/-! SUPPORT. Tests of the model: for every obligation with hypotheses, witnesses that concrete states and operands meet them together,
clause by clause and at their boundary values; ill-formed terms that WellFormed refuses; and effects with values from the spec's worked examples.
A witness speaks of a `Dev`: the state is `State.reset` with that device. -/

open Sys2Proof Sys2Proof.Machine

/-! ## Small states -/

/-- A device that has started, with the SPLL locked and device time in RUN at tick 100. -/
def runDev : Dev :=
  { ((((({} : Dev).setTimeState 2).setFld Reg.glob_STATUS 16 4 6).setFld Reg.clk_STATUS 0 4 9)) with time := { now := 1600, refOk := true } }

/-- runDev on a reference of 100 MHz with the running set N = 200, P = 4 and a shadow set. -/
def clockDev (sh : Nat) : Dev :=
  ((runDev.wrN Reg.clk_REF_MEAS 100000).wrN Reg.clk_SPLL_ACT (200 + 2 * 2^16)).wrN Reg.clk_SPLL_SH sh

/-- runDev with engine 3 bound to context 5, which is RUNNING at PC 16, whose line has come, with the channel set {0} and the four words of its entry; `xs` are
further words of its record. -/
def boundDev (ws : List Word) (xs : List (Nat × Word) := []) : Dev :=
  let d := { runDev.wrN (Reg.eng_STATUS 3) 0x4005 with eng := [(3, { lines := [2] })], prog := [(64, ws.getD 0 0), (65, ws.getD 1 0), (66, ws.getD 2 0), (67, ws.getD 3 0)] }
  xs.foldl (fun d p => d.setCtxW 5 p.1 p.2) (((d.setCtxW 5 0 0x430B).setCtxW 5 2 16).setCtxW 5 44 1)

/-- Partition 0 exists and holds contexts 40 to 49, block 0 of the program store and block 0 of the result mailbox. -/
def partDev (d : Dev) : Dev := { d.wrN (Reg.part_STATE 0) 2 with ptab := [(1, 40 + 10 * 2^14), (2, 2^8), (10, 2^6)] }

/-- The descriptor table begins at 0 in wiped DRAM, and segment 0 is 64 samples of a constant. -/
def segDev (d : Dev) : Dev :=
  { d with wiped := [(0, true)], dram := [(0, 2), (2, 16), (8, 64), (60, 133), (61, 187), (62, 202), (63, 75)] }

/-! ## Sequence entries -/

/-- RegWritesOneRegister: MAX; LDMB within the mailbox slice; LDMB of a word that belongs to a partition. -/
theorem witness_regWritesOneRegister :
    ((boundDev [0x7006]).issues 3 5 6 ∧ (boundDev [0x7006]).ctxPc 5 + 1 < 2^20 ∧ ent ((boundDev [0x7006]).entryOf 5) 0 11 4 = 14) ∧
    ((boundDev [0x5806]).issues 3 5 6 ∧ ent ((boundDev [0x5806]).entryOf 5) 0 11 4 = 11 ∧
      (boundDev [0x5806]).mbIn ((boundDev [0x5806]).ctxRecOwner 5) 4095 = true) ∧
    (let d := { boundDev [0x5806] with ptab := [(10, 2^6)], regs := (boundDev []).regs ++ [(Reg.part_STATE 0, 2)] };
     d.issues 3 5 6 ∧ d.mbIn (d.ctxRecOwner 5) ((d.xReg 5 0).toNat % 4096) = false) := by
  refine ⟨?_, ?_, ?_⟩ <;> decide

/-- LoopAndNext: a count of 0; depth 8; depth 7; NEXT at depth 0, with 2 passes left at depth 8, and with the last pass at depth 1. -/
theorem witness_loopAndNext :
    ((boundDev [3]).issues 3 5 3 ∧ ent ((boundDev [3]).entryOf 5) 3 0 32 = 0 ∧ ent ((boundDev [3]).entryOf 5) 0 12 20 + 1 < 2^20) ∧
    (let d := boundDev [3, 0, 0, 1] [(2, 0x800010)]; d.issues 3 5 3 ∧ ent (d.entryOf 5) 3 0 32 ≠ 0 ∧ d.ctxFld 5 2 20 4 = 8) ∧
    (let d := boundDev [3, 0, 0, 1] [(2, 0x700010)]; d.issues 3 5 3 ∧ ent (d.entryOf 5) 3 0 32 ≠ 0 ∧ d.ctxFld 5 2 20 4 = 7 ∧ d.ctxPc 5 + 1 < 2^20) ∧
    ((boundDev [4]).issues 3 5 4 ∧ (boundDev [4]).ctxFld 5 2 20 4 = 0) ∧
    (let d := boundDev [4] [(2, 0x800010), (42, 2)]; d.issues 3 5 4 ∧ d.ctxFld 5 2 20 4 = 8 ∧ 1 < (d.ctxW 5 (28 + 2 * (8 - 1))).toNat) ∧
    (let d := boundDev [4] [(2, 0x100010), (28, 1)]; d.issues 3 5 4 ∧ d.ctxFld 5 2 20 4 = 1 ∧ (d.ctxW 5 28).toNat ≤ 1 ∧ d.ctxPc 5 + 1 < 2^20) := by
  refine ⟨?_, ?_, ?_, ?_, ?_, ?_⟩ <;> decide

/-- BrJumps: RIN without a release held; ALWAYS with POP 1 at depth 0; ALWAYS with POP 7 at depth 7; EVT with a latched firing. -/
theorem witness_brJumps :
    ((boundDev [0x1005]).issues 3 5 5 ∧ ¬ (boundDev [0x1005]).brHolds 3 5 ∧ (boundDev [0x1005]).ctxPc 5 + 1 < 2^20) ∧
    ((boundDev [0x20005]).issues 3 5 5 ∧ (boundDev [0x20005]).brHolds 3 5 ∧
      (boundDev [0x20005]).ctxFld 5 2 20 4 < ent ((boundDev [0x20005]).entryOf 5) 0 17 3) ∧
    (let d := boundDev [0xE0005] [(2, 0x700010)]; d.issues 3 5 5 ∧ d.brHolds 3 5 ∧ ent (d.entryOf 5) 0 17 3 = 7 ∧ 7 ≤ d.ctxFld 5 2 20 4) ∧
    (let d := { boundDev [0x805] with ei := [(12, some ⟨2^64 - 1, 7, false⟩)] }; d.issues 3 5 5 ∧ d.brHolds 3 5 ∧ ent (d.entryOf 5) 0 11 3 = 1) := by
  refine ⟨⟨?_, fun h => absurd h.1 (by decide), ?_⟩, ⟨?_, trivial, ?_⟩, ⟨?_, trivial, ?_⟩, ⟨?_, (show SMap.get none _ _ ≠ none from ?_), ?_⟩⟩ <;> decide

/-- TsetNopHalt: mode 2 without a release; a sum of 2^64 and one of 2^64 - 1; NOP; HALT. -/
theorem witness_tsetNopHalt :
    ((boundDev [0x100A]).issues 3 5 10 ∧ ent ((boundDev [0x100A]).entryOf 5) 0 11 2 = 2 ∧ (boundDev [0x100A]).isHeld 5 = false) ∧
    (let d := boundDev [0x80A, 0, 1] [(4, 0xFFFFFFFF), (5, 0xFFFFFFFF)]; d.issues 3 5 10 ∧ ent (d.entryOf 5) 0 11 2 = 1 ∧
      2^64 ≤ d.ctx64 5 4 + ent (d.entryOf 5) 2 0 32) ∧
    (let d := boundDev [0x80A, 0, 0] [(4, 0xFFFFFFFF), (5, 0xFFFFFFFF)]; d.issues 3 5 10 ∧ d.ctx64 5 4 + ent (d.entryOf 5) 2 0 32 < 2^64) ∧
    ((boundDev [15]).issues 3 5 15 ∧ (boundDev [15]).ctxPc 5 + 1 < 2^20) ∧
    ((boundDev [0]).issues 3 5 0 ∧ (boundDev [0]).ctxEng 5 = some 3) := by
  refine ⟨?_, ?_, ?_, ?_, ?_⟩ <;> decide

/-- LaunchingEntriesSendRecords: the six entries at TA + 2000, a GAP that ends at 2^64 - 1, and a segment that may be played. -/
theorem witness_launchingEntriesSendRecords :
    (let d := boundDev [0x12, 0, 2000, 32]; d.timeOk 5 (d.entryOf 5) 2000 ∧ d.issues 3 5 2 ∧ 2000 + ent (d.entryOf 5) 3 0 32 < 2^64) ∧
    (let d := boundDev [0x12, 0, 2000, 0x82F] [(4, 0xFFFFF000), (5, 0xFFFFFFFF)]; d.timeOk 5 (d.entryOf 5) (2^64 - 0x1000 + 2000) ∧ d.issues 3 5 2 ∧
     2^64 - 0x1000 + 2000 + ent (d.entryOf 5) 3 0 32 = 2^64 - 1) ∧
    ((boundDev [0x17, 0, 2000]).timeOk 5 ((boundDev [0x17, 0, 2000]).entryOf 5) 2000 ∧ (boundDev [0x17, 0, 2000]).issues 3 5 7) ∧
    ((boundDev [0x18, 0, 2000]).timeOk 5 ((boundDev [0x18, 0, 2000]).entryOf 5) 2000 ∧ (boundDev [0x18, 0, 2000]).issues 3 5 8) ∧
    ((boundDev [0x19, 0, 2000]).timeOk 5 ((boundDev [0x19, 0, 2000]).entryOf 5) 2000 ∧ (boundDev [0x19, 0, 2000]).issues 3 5 9) ∧
    ((boundDev [0x1B, 6, 2000]).timeOk 5 ((boundDev [0x1B, 6, 2000]).entryOf 5) 2000 ∧ (boundDev [0x1B, 6, 2000]).issues 3 5 11) := by
  refine ⟨?_, ?_, ?_, ?_, ?_, ?_⟩ <;> decide

theorem witness_launchingEntriesSendRecords_play :
    let d := segDev (boundDev [0x11, 0, 2000]);
     d.timeOk 5 (d.entryOf 5) 2000 ∧ d.issues 3 5 1 ∧ d.playSegs 5 (d.entryOf 5) (d.ctxChans 5).length = [0] ∧ d.ctxChans 5 = [0] ∧ d.badSegOn 5 0 0 = false ∧
       d.ctxPc 5 + 1 < 2^20 := by decide +kernel

/-- EntriesRaiseExceptions: a PLAY of an empty segment; REL_EVT without a release; a REL_LAST time below 0 and a REL_TA time past the last; no
device time; a PC in a partition's slice of the program store; a bank word in error. -/
theorem witness_entriesRaiseExceptions :
    (let d := boundDev [0x11, 0, 2000]; d.issues 3 5 1 ∧ d.playSegs 5 (d.entryOf 5) (d.ctxChans 5).length = [0] ∧ d.ctxChans 5 = [0] ∧ d.badSegOn 5 0 0 = true) ∧
    (let d := boundDev [0x32, 0, 2000]; d.issues 3 5 2 ∧ ent (d.entryOf 5) 0 4 2 = 3 ∧ d.isHeld 5 = false) ∧
    (let d := boundDev [0x22, 0, 0xFFFFFFFF]; d.issues 3 5 2 ∧ ent (d.entryOf 5) 0 4 2 = 2 ∧ d.requested 5 (d.entryOf 5) < 0) ∧
    (let d := boundDev [0x1B, 0, 0xFFFFFFFF] [(4, 0xFFFFFFFF), (5, 0xFFFFFFFF)]; d.issues 3 5 11 ∧ 2^64 ≤ d.requested 5 (d.entryOf 5)) ∧
    (let d := (boundDev [0x12, 0, 2000]).setTimeState 1; d.mayIssue 3 5 2 ∧ d.timeValid = false) ∧
    (let d := partDev (boundDev [0]); d.runsOn 3 5 ∧ d.progIn (d.ctxRecOwner 5) (d.ctxPc 5) = false) ∧
    ((boundDev [0x11]).engCtx 3 = some 5 ∧ (boundDev [0x11]).bit (Reg.eng_STATUS 3) 24 = false) := by
  refine ⟨?_, ?_, ?_, ?_, ?_, ?_, ?_⟩ <;> decide

/-- An engine's bank may be read without an error and with a corrected one. -/
theorem witness_readable : BankEcc.clean.readable ∧ BankEcc.corrected.readable := ⟨fun _ => nofun, fun _ => nofun⟩

/-! ## Engines, launches and frames -/

/-- A firing with a stamp, of generation 0, held since tick 99. -/
def firing (stamp : Nat) : Held := ⟨⟨986, stamp, 0, false, false⟩, 99⟩

/-- A device with firing `h` at task input `i`. -/
def withFiring (d : Dev) (i : Nat) (h : Held) : Dev := d.updTin i (fun x => { x with inbox := [h] })

/-- A launch record of context 5 for channel 0. -/
def someLaunch (kind : LKind) (accepted : Bool) (t : Nat) : Launch :=
  { eng := 3, ctx := 5, lsn := 1, chans := [0], kind := kind, treq := t, tmin := 0, gen := 0, coarse := false, li := none, accepted := accepted, teff := t,
    descs := [] }

/-- A constant segment in two passes of 64 tDC on channel 0. -/
def somePlay : Play := ⟨5, 1, 0, some 0, [2, 0, 64], none, 1472, 64, 2, 0, 64, 0, 0, 0, 0, false, 0, 0, none, 0, false, none⟩

/-- Channel 0 plays, with device time as in `runDev`. -/
def playDev (p : Play) : Dev := { runDev with chan := [(0, { cur := some p })] }

/-- boundDev with the admitted context 6 as the switch target of engine 3, whose copy is current in slot 0. -/
def switchDev : Dev :=
  let d := (((boundDev [0]).setCtxW 6 0 10).setCtxW 6 44 1).wrN (Reg.eng_SW_CFG 3) 0x10006
  d.updEng 3 (fun x => { x with s0 := some ⟨6, 0, true, [], []⟩ })

/-- EventInputsLatchAndRelease: an empty latch and a full one. -/
theorem witness_eventInputsLatchAndRelease :
    (let d := withFiring runDev 12 (firing 1584); (d.tinOf 12).inbox = firing 1584 :: [] ∧ SMap.get none d.ei 12 = none ∧ d.tinBad 12 = false) ∧
    (let d := { withFiring runDev 12 (firing (2^64 - 1)) with ei := [(12, some ⟨1500, 0, false⟩)] };
     (d.tinOf 12).inbox = firing (2^64 - 1) :: [] ∧ SMap.get none d.ei 12 ≠ none ∧ (firing (2^64 - 1)).fire.stamp < 2^64) := by
  refine ⟨?_, ?_⟩ <;> decide

/-- The wait of a NOP on input 0 with FRESH: a firing at the last launch time is accepted. -/
theorem witness_waitReleases :
    let d := { boundDev [0x44F] [(10, 1500)] with ei := [(12, some ⟨1500, 7, false⟩)] }
    let n := d.entryOf 5
    (d.runsOn 3 5 ∧ (d.engOf 3).released = false ∧ d.progIn (d.ctxRecOwner 5) (d.ctxPc 5) = true ∧ bitsOf (ent n 0 6 4) 0 1 = 1 ∧
      SMap.get none d.ei 12 = some ⟨1500, 7, false⟩ ∧ ent n 0 10 1 = 1 ∧ d.ctx64 5 10 = 1500) ∧
    ∀ (j : Fin 4) (l : Latch), SMap.get none d.ei (12 + j) = some l → l.stamp = 1500 ∧ 0 ≤ j := by
  refine ⟨by decide, fun j l h => ?_⟩
  have all : ∀ j : Fin 4, j = 0 ∨ SMap.get none [((12 : Nat), some (⟨1500, 7, false⟩ : Latch))] (12 + j) = none := by decide
  rcases all j with rfl | hn
  · exact ⟨(congrArg Latch.stamp (Option.some.inj h)).symm, Nat.zero_le _⟩
  · exact absurd (h.symm.trans hn) (by simp)

/-- SwitchesTakeTheTarget: by a firing at the switch input, and by a SWITCH entry at its time. -/
theorem witness_switchesTakeTheTarget :
    (let d := withFiring switchDev 259 (firing 1584); d.engCtx 3 = some 5 ∧ d.switchFails 6 (d.engOwner 3) (some 5) = none ∧
      (d.tinOf 259).inbox = [firing 1584] ∧
     d.swTarget 3 = some 6 ∧ d.tinBad 259 = false ∧ d.current (d.engOf 3).s0 6 = true ∧ (d.engOf 3).moving = none ∧ d.bit (Reg.eng_STATUS 3) 24 = false ∧
     d.timeValid = true ∧ (firing 1584).fire.stamp + d.latOf 259 < 2^64) ∧
    (let d := switchDev.updEng 3 (fun x => { x with swWait := some (6, 1600) }); d.engCtx 3 = some 5 ∧ d.switchFails 6 (d.engOwner 3) (some 5) = none ∧
     (d.engOf 3).swWait = some (6, 1600) ∧ d.due 1600 = true ∧ d.timeValid = true ∧ d.launches = [] ∧ d.current (d.engOf 3).s0 6 = true) := by
  refine ⟨?_, ?_⟩ <;> decide

/-- EngineUpkeep: a line to fetch; a copy that is not done in slot 1 and in slot 0; a written target; a self-test; a patrol; a moved context;
microcode. -/
theorem witness_engineUpkeep :
    (let d := (boundDev [0]).updEng 3 (fun x => { x with lines := [] }); d.engCtx 3 = some 5 ∧ d.ctxPc 5 / 8 ∉ (d.engOf 3).lines) ∧
    (((boundDev [0]).updEng 3 (fun x => { x with s1 := some ⟨6, 0, false, [], []⟩ })).engOf 3).s1 = some ⟨6, 0, false, [], []⟩ ∧
    (let d := switchDev.updEng 3 (fun x => { x with s0 := some ⟨6, 0, false, [], []⟩ }); d.swTarget 3 = some 6 ∧ (d.engOf 3).s0 = some ⟨6, 0, false, [], []⟩) ∧
    (let d := { switchDev with inforce := [(Reg.eng_SW_CFG 3, some 0)] }; d.held (Reg.eng_SW_CFG 3) = true) ∧
    (let d := runDev.wrN (Reg.eng_CFG 3) 6; d.bit (Reg.eng_CFG 3) 2 = true ∧ d.bit (Reg.eng_CFG 3) 1 = true ∧ d.bit (Reg.eng_STATUS 3) 24 = false ∧
     d.fld (Reg.eng_PATROL 3) 16 7 ≠ 64) ∧
    (let d := (boundDev [0]).updEng 3 (fun x => { x with moving := some 4 }); (d.engOf 3).moving = some 4 ∧ d.engCtx 3 = some 5) ∧
    ((runDev.updEng 3 (fun x => { x with mcNew := true })).engOf 3 = { mcNew := true }) ∧
    (let off : BitVec 18 := 0x20008; 0x20000 ≤ off.toNat ∧ off.toNat < 0x20400 ∧ Dev.isHot 2 = true ∧ 2 / 2 = (off.toNat - 0x20000) / 8) ∧
    ((0x1FFFF#18).toNat < 0x20000 ∧ 0x20400 ≤ (0x20400#18).toNat) := by
  refine ⟨?_, ?_, ?_, ?_, ?_, ?_, ?_, ?_, ?_⟩ <;> decide

/-- LaunchesAreAccepted: a record in time and one that is late. -/
theorem witness_launchesAreAccepted :
    (let l := someLaunch (.gap 32) false 2000; let d := { runDev with launches := [l] };
     d.timeValid = true ∧ d.launches.find? (fun l => l.eng == 3 && !l.accepted && !d.awaitsSwitch l) = some l ∧ d.stale 0 l = false ∧
     l.treq / 16 ≥ d.nowT / 16 + d.lPipe 0 ∧ d.chanEnd 0 ≤ l.treq) ∧
    (let l := someLaunch (.gap 32) false 1600; let d := { runDev with launches := [l] };
     d.timeValid = true ∧ d.launches.find? (fun l => l.eng == 3 && !l.accepted && !d.awaitsSwitch l) = some l ∧ d.stale 0 l = false ∧
     l.treq / 16 < d.nowT / 16 + d.lPipe 0) := by
  refine ⟨?_, ?_⟩ <;> decide

/-- LaunchesActAtTheirTime: a GAP, a FRAME and an EVENT at their time. -/
theorem witness_launchesActAtTheirTime :
    (let l := someLaunch (.gap 32) true 1615; let d := { runDev with launches := [l] };
     d.chanWf ∧ d.timeValid = true ∧ l.chans.Nodup ∧ l.kind.isSpan = true ∧
     Dev.firstLaunch (d.launches.filter (fun l => l.ctx == (5 : Fin 10240).val && l.accepted && d.due l.teff)) = some l) ∧
    (let l := someLaunch (.frame 0 31 7) true 1600; let d := { runDev with launches := [l] };
     Dev.firstLaunch (d.launches.filter (fun l => l.ctx == (5 : Fin 10240).val && l.accepted && d.due l.teff)) = some l) ∧
    (let l := someLaunch (.event 3) true 1600; let d := ({ runDev with launches := [l] }.wrN (Reg.ec_CFG 9) (576 + 4 * 3 + 3)).wrN (Reg.ec_CTL 9) (2^22);
     Dev.firstLaunch (d.launches.filter (fun l => l.ctx == (5 : Fin 10240).val && l.accepted && d.due l.teff)) = some l ∧ l.gen < 8) := by
  refine ⟨?_, ?_, ?_⟩ <;> decide

/-- PlayoutGoesOn: a second pass; the end of the last; a marker's edge; an underrun of a streamed segment at its first missing sample, and one
at the end of its head; a stream that the ring has room for. -/
theorem witness_playoutGoesOn :
    (let d := playDev { somePlay with start := 1551 }; d.chanWf ∧ d.timeValid = true ∧ (d.chanOf 0).cur = some { somePlay with start := 1551 } ∧
      0 + 1 < somePlay.passes ∧
     d.due (1551 + (0 + 1) * 64) = true) ∧
    ((playDev { somePlay with start := 1487 }).due { somePlay with start := 1487 }.stop = true) ∧
    (let x : Edge := ⟨0, 1, 1615, true, 5, 1, 0⟩; let d := { runDev with edges := [x] };
     (d.edges.filter (fun y => y.ch == 0 && y.mark == (1 : Fin 2).val && y.time == x.time)).getLast? = some x ∧ (∀ y ∈ d.edges, x.time ≤ y.time) ∧
       d.due x.time = true) ∧
    (let p := { somePlay with desc := [1, 0, 64], start := 1536 }; let d := { runDev with chan := [(0, { cur := some p, streams := [⟨5, 1, 0, 128, 2, 138, 0, 138, [], 0⟩] })] };
     dStreamed p.desc = true ∧ p.seg.isSome = true ∧ p.undr = none ∧ p.gen < 8 ∧ dHead p.desc = 0 ∧ d.firstMissing 0 p = some 1610 ∧ 1610 < p.stop ∧
     d.due 1610 = true) ∧
    (let p := { somePlay with desc := [1, 0, 4000, 0, 0, 0, 1], start := 11914, dur := 8000, len := 4000 };
     let d := { runDev.setFld (Reg.chn_SC_LAYOUT 0) 16 8 2 with time := { now := 16000, refOk := true }, chan := [(0, { cur := some p, streams := [⟨5, 1, 0, 3904, 2, 0, 0, 512, [], 0⟩] })] };
     dStreamed p.desc = true ∧ dHead p.desc ≠ 0 ∧ d.headEnd 0 p = 16010 ∧ d.nowT ≤ 16010 ∧ 16010 < p.stop ∧ d.due 16010 = true ∧ d.shortOf 0 5 1 = true) ∧
    (let x : Stream := ⟨5, 1, 0, 1000, 1, 512, 0, 512, [], 0⟩; let d := { (runDev.setFld (Reg.chn_SC_STATUS 0) 0 2 2).setFld (Reg.chn_SC_LAYOUT 0) 8 8 1 with
       chan := [(0, { streams := [x], ringWr := 512 })], wiped := [(0, true)] };
     (d.chanOf 0).streams.find? (fun s => decide (s.asked < s.bytes * s.passes)) = some x ∧ d.dramShut = false ∧ d.standby = false ∧
     d.ringUsed 0 + 488 ≤ (d.ringOf 0).2 ∧ d.fld (Reg.chn_SC_STATUS 0) 0 2 = 2 ∧ d.readsOut 0 + 488 / 64 ≤ 64 ∧ SMap.get false d.wiped 0 = true) := by
  refine ⟨?_, ?_, ?_, ?_, ?_, ?_⟩ <;> decide

/-- LaunchAndFrameInputs: launch input 47 for the running context 5, and frame input 31 with the set {95}. -/
theorem witness_launchAndFrameInputs_launch :
    let d := withFiring (segDev ((boundDev [0]).wrN (Reg.li_CFG 47) 0x4005)) 367 (firing 1600); d.fld (Reg.li_CFG 47) 0 14 = 5 ∧
     d.takesAt 367 (firing 1600) [] (1600 + d.latOf 367) ∧ d.liShut 47 = false ∧ d.liFull 47 = false ∧ d.ctxEng 5 = some 3 := by decide +kernel

theorem witness_launchAndFrameInputs_frame :
    let d := withFiring ((runDev.wrN (Reg.fi_CHSET 31 2) 0x80000000).wrN (Reg.tin_LAT 399) 400) 399 (firing 1600);
     bitsOf (d.eff (Reg.fi_CHSET 31 (95 / 32))).toNat (95 % 32) 1 = 1 ∧ d.chOwner 95 = d.fiOwner 31 ∧ d.takesAt 399 (firing 1600) [] 2000 ∧ d.fiWaiting 31 < 4 ∧
     d.corrupt (Reg.fi_CFG 31) 64 = false ∧ ∀ n < 96, d.nowT / 16 + d.lPipe n ≤ 2000 / 16 := by decide

/-- FrameActionsReplaceTheRecord: each of the six actions on frame 31 of channel 95. -/
theorem witness_frameActionsReplaceTheRecord :
    ∀ fact < 6, let a : FrAct := ⟨0, fact, 31, 1, 2, 1600, 1615, false, 0⟩; let d := { runDev with chan := [(95, { frActs := [a] })] }; d.frameDue 95 31 1615 a ∧
      a.fact = fact := by decide +kernel

/-- HostFrameCommandsAndQueries: INIT with GO at a time that can be met, and a query. -/
theorem witness_hostFrameCommandsAndQueries :
    (let d := runDev.wr64 (Reg.chn_FR_AT_LO 0) 2000; d.answers 0 (Reg.chn_FR_CMD 0) (d.chOwner 0) ∧ d.bit (Reg.chn_FR_CMD 0) 17 = false ∧
     (0x10005#32).toNat % 8 < 6 ∧ (0x10005#32).getLsbD 16 = true ∧ d.nowT / 16 + d.lPipe 0 ≤ d.rd64 (Reg.chn_FR_AT_LO 0) / 16) ∧
    (runDev.answers 0 (Reg.chn_FRQ_AT_HI 0) (runDev.chOwner 0)) := by
  refine ⟨?_, ?_⟩ <;> decide

/-! ## The event fabric, the output stage, trigger inputs and device time -/

/-- An enabled event channel 200 of source 986 that is free-running and holds no firing. -/
def channelDev (hold : List Held) : Dev :=
  { (runDev.wrN (Reg.ec_CFG 200) 986).wrN (Reg.ec_CTL 200) (2^22) with ec := [(200, { inbox := [firing 1584], hold := hold })] }

/-- An action at a time that has come. -/
def someAct (t : Nat) : Act := ⟨t, 1584, 0, 1⟩

/-- EventChannelsDivideAndDeliver: a firing whose gate is shut, one that is counted, one that passes, one whose delay is over, and an idle channel.
-/
theorem witness_eventChannelsDivideAndDeliver :
    (let d := (channelDev []).wrN (Reg.ec_CTL 200) (2^22 + 2^20); let ctl := (d.eff (Reg.ec_CTL 200)).toNat;
     firstHeld ((d.ecOf 200).inbox.filter (fun h => decide (h.tick < d.nowT / 16))) = some (firing 1584) ∧ d.bit (Reg.ec_CTL 200) 22 = true ∧
     d.corrupt (Reg.ec_CFG 200) 128 = false ∧ gatePasses (bitsOf ctl 20 2) (d.eff64 (Reg.ec_GATE_OPEN_LO 200)) (d.eff64 (Reg.ec_GATE_CLOSE_LO 200))
       (d.eff (Reg.ec_GATE_WIDTH 200)).toNat (d.eff (Reg.ec_GATE_PERIOD 200)).toNat 1584 = false) ∧
    (let d := (channelDev []).setCount 200 0xFFFF; let ctl := (d.eff (Reg.ec_CTL 200)).toNat;
     firstHeld ((d.ecOf 200).inbox.filter (fun h => decide (h.tick < d.nowT / 16))) = some (firing 1584) ∧ (d.groupAt (bitsOf ctl 14 5) 1584).1 = true ∧
     gatePasses (bitsOf ctl 20 2) 0 0 0 0 1584 = true ∧ d.ecCount 200 = 0xFFFF) ∧
    (let d := channelDev []; let ctl := (d.eff (Reg.ec_CTL 200)).toNat;
     firstHeld ((d.ecOf 200).inbox.filter (fun h => decide (h.tick < d.nowT / 16))) = some (firing 1584) ∧ d.bit (Reg.ec_CTL 200) 22 = true ∧
     (d.groupAt (bitsOf ctl 14 5) 1584).1 = true ∧ gatePasses (bitsOf ctl 20 2) 0 0 0 0 1584 = true ∧ d.ecCount 200 = 0 ∧ (d.ecOf 200).hold = []) ∧
    (let d := { (channelDev []) with ec := [(200, { hold := [firing 1584] })] };
     (d.ecOf 200).hold = firing 1584 :: [] ∧ d.corrupt (Reg.ec_CFG 200) 128 = false ∧ (firing 1584).tick < d.nowT / 16 ∧ (d.ecOf 200).inbox = []) := by
  refine ⟨?_, ?_, ?_, ?_⟩ <;> decide

/-- GroupsChange: firings at both inputs of group 31, a command with GO, and an enable and a disable that tie. -/
theorem witness_groupsChange :
    ((withFiring runDev (436 + 31) (firing 1600)).takesAt (436 + 31) (firing 1600) [] (1600 + runDev.latOf 467) ∧ runDev.groupWaiting 31 < 4) ∧
    ((withFiring runDev (468 + 31) (firing 1600)).takesAt (468 + 31) (firing 1600) [] (1600 + runDev.latOf 499)) ∧
    (runDev.answers 0 (Reg.grp_CMD 31) (Dev.ownerField (runDev.fld (Reg.grp_STATE 31) 5 4) (runDev.bit (Reg.grp_STATE 31) 9)) ∧ (3#32).getLsbD 1 = true) ∧
    (let d := { runDev with grp := [(31, { cmds := [(1615, true), (1615, false)] })] };
     (1615, true) ∈ d.groupChanges 31 ∧ (∀ q ∈ d.groupChanges 31, 1615 ≤ q.1) ∧ d.due 1615 = true ∧ d.timeValid = true) := by
  refine ⟨?_, ?_, ?_, ?_⟩ <;> decide

/-- StaticLoadsApply: a strobe of group 15, an edge of LOAD_N on lane 15 for a group that takes it, and a load that one of two held codes meets in time. -/
theorem witness_staticLoadsApply :
    (let d := withFiring runDev 415 (firing 1600); d.lgBad 15 = false ∧ d.fromPin 15 = false ∧ d.takesAt 415 (firing 1600) [] (1600 + d.latOf 415) ∧
      (d.tinOf 415).acts.length < 4) ∧
    (let d := runDev.setBit (Reg.lg_CFG 15) 0 true; d.timeValid = true ∧ d.timeState = 2 ∧ d.time.now + 16 ≤ 2^64 ∧ d.loadnAt = none ∧
      d.fromPin 15 = true ∧ d.lgBad 15 = false ∧
     d.time.now + (15 : Fin 16).val + d.rdN (Reg.lg_LAT 15) < 2^64) ∧
    (let d := { (runDev.wrN (Reg.chn_CFG 7) 2).wrN (Reg.chn_STATIC_CFG 7) 15 with
       chan := [(7, { statics := [(98, 6), (97, 5)] })], inforce := [(Reg.chn_STATIC_CODE 7, some 0)], tin := [(415, { acts := [someAct 1584] })] };
     Dev.earliest (d.tinOf 415).acts = some (someAct 1584) ∧ d.due 1584 = true ∧ d.timeValid = true ∧ 7 ∈ d.members 15 ∧
     (d.chanOf 7).statics = [(98, 6)] ++ (97, 5) :: [] ∧ 1584 / 16 < 98 + 2 ∧ 97 + 2 ≤ 1584 / 16) := by
  refine ⟨?_, ?_, ?_⟩ <;> decide

/-- A guard that lets channel 95 move between -100 and 100 by 10. -/
def someGuard : Guard :=
  { ch := [(95, { sealLo := -200, sealHi := 200, sealS := 50, sealPwr := 1000, lo := -100, hi := 100, slew := 10, pwr := 500, safeEn := true })] }

/-- Channel 95 in STATIC, whose path asks for `x` after the code `before`. -/
def staticDev (x before : Int) : Dev := { runDev.wrN (Reg.chn_CFG 95) 2 with chan := [(95, { path := x, code := before })] }

/-- GuardLimitsTheCode: a channel in STATIC, with a code beyond the clamp and the slew limit, and one in SEQUENCED. -/
theorem witness_guardLimitsTheCode :
    (let d := staticDev 101 0; d.drives someGuard 95 ∧ d.chMode 95 = 2 ∧ (someGuard.of 95).lo ≤ (someGuard.of 95).hi ∧ (someGuard.of 95).hi < (d.chanOf 95).path ∧
      (someGuard.of 95).next 101 0 ≠ max (someGuard.of 95).lo (min (someGuard.of 95).hi 101)) ∧
    ((runDev.wrN (Reg.chn_CFG 95) 1).drives someGuard 95 ∧ (runDev.wrN (Reg.chn_CFG 95) 1).chMode 95 = 1) := by
  refine ⟨?_, ?_⟩ <;> decide +kernel

/-- GuardWritesStayWithinTheSeals: a value at the seal and one past it, of each of the four registers. -/
theorem witness_guardWritesStayWithinTheSeals :
    (runDev.answers 0 (Reg.chn_GUARD_CLAMP 95) (runDev.chOwner 95) ∧ runDev.answers 0 (Reg.chn_SAFE_CODE 95) (runDev.chOwner 95)) ∧
    (let k := someGuard.of 95; (k.sealLo ≤ -200 ∧ (-200 : Int) ≤ 200 ∧ 200 ≤ k.sealHi) ∧ ¬ (k.sealLo ≤ -201 ∧ (-201 : Int) ≤ 200 ∧ 200 ≤ k.sealHi)) ∧
    (runDev.answers 0 (Reg.chn_GUARD_SLEW 95) (runDev.chOwner 95) ∧ (1 ≤ 50 ∧ 50 ≤ (someGuard.of 95).sealS) ∧ ¬ (51 ≤ (someGuard.of 95).sealS)) ∧
    (runDev.answers 0 (Reg.chn_GUARD_PWR 95) (runDev.chOwner 95) ∧ 1000 ≤ (someGuard.of 95).sealPwr ∧ ¬ (1001 ≤ (someGuard.of 95).sealPwr)) := by
  refine ⟨?_, ?_, ?_, ?_⟩ <;> decide

/-- PowerLimitTrips: the last tick of a block of channel 95; a block that awaits its trip, and none. -/
theorem witness_powerLimitTrips :
    (let d := { staticDev 100 100 with time := { now := 240, refOk := true } }; let k := someGuard.of 95;
     d.drives someGuard 95 ∧ d.chMode 95 = 2 ∧ k.lo ≤ (d.chanOf 95).path ∧ (d.chanOf 95).path ≤ k.hi ∧ (d.chanOf 95).code = (d.chanOf 95).path ∧
     d.nowT + 16 = 16 * 2^k.win) ∧
    (let d := { runDev with chan := [(95, { trips := [1600] })] }; (d.chanOf 95).trips = 1600 :: [] ∧ d.genAt 95 (1600 - 1) < 8 ∧ (d.chanOf 94).trips = []) := by
  refine ⟨?_, ?_⟩ <;> decide +kernel

/-- SafeCodeStands: a channel with SAFE_EN and the latch; a hold that nothing keeps and one that the watchdog keeps; a settle that is over;
the sixteenth error of a millisecond and the one after it. -/
theorem witness_safeCodeStands :
    (runDev.safePin = false ∧ (someGuard.of 95).safeEn = true ∧ (runDev.setBit Reg.lgPage_LG_CTL 0 true).bit Reg.lgPage_LG_CTL 0 = true ∧
      (someGuard.of 94).safeEn = false) ∧
    (let d := { runDev with chan := [(95, { hold := true })] }; d.answers 0 (Reg.chn_SAFE_CTL 95) (d.chOwner 95) ∧ d.holdPersists 95 = false ∧
      (d.chanOf 95).hold = true) ∧
    ((runDev.setHold 95 16).answers 0 (Reg.chn_SAFE_CTL 95) none ∧ (runDev.setHold 95 16).holdPersists 95 = true) ∧
    (let d := { runDev with chan := [(95, { hold := true, settle := some 1600, settleOnly := true })] };
     (d.chanOf 95).settle = some 1600 ∧ 1600 ≤ d.nowT ∧ (d.chanOf 95).settleOnly = true ∧ d.dsafe = false) ∧
    (let d := clockDev 0; let before (k : Nat) : List Nat := (List.replicate k 1600).filter (fun t => decide (d.nowT < t + d.nsToT 1000000));
     (before 15).length < 16 ∧ 16 ≤ (before 16).length) := by
  refine ⟨?_, ?_, ?_, ?_, ?_⟩ <;> decide

/-- TriggerOutputsAct: a firing; an action within GAP of the last assertion and one at GAP; the end of a pulse. -/
theorem witness_triggerOutputsAct :
    (let d := withFiring runDev 423 (firing 1600); d.takesAt 423 (firing 1600) [] (1600 + d.latOf 423) ∧ (d.tinOf 423).acts.length < 4) ∧
    (let d := { runDev with tin := [(423, { acts := [someAct 1600] })], tout := [(7, { lastOn := some 1501 })] }; let g : Guard := { tout := [(7, ⟨50, 100⟩)] };
     Dev.earliest (d.tinOf 423).acts = some (someAct 1600) ∧ d.due 1600 = true ∧ d.timeValid = true ∧ d.dsafe = false ∧ d.toBad 7 = false ∧
     d.bit (Reg.to_STATUS 7) 0 = false ∧ bitsOf (d.eff (Reg.to_CFG 7)).toNat 0 2 ≠ 2 ∧ (d.toutOf 7).lastOn = some 1501 ∧ 1600 < 1501 + (g.ofTo 7).gap) ∧
    (let g : Guard := { tout := [(7, ⟨50, 100⟩)] }; ¬ (1600 < 1500 + (g.ofTo 7).gap) ∧ (g.ofTo 7).sealGap ≠ 0xFFFFFFFF) ∧
    (let d := { runDev with tout := [(7, { pulseEnd := some 1615 })] }; (d.toutOf 7).pulseEnd = some 1615 ∧ d.due 1615 = true ∧ d.timeValid = true) := by
  refine ⟨?_, ?_, ?_, ?_⟩ <;> decide

/-- Trigger input 15 takes both polarities; `q` are the qualifier bits. -/
def triggerDev (q status : Nat) : Dev := (runDev.wrN (Reg.ti_CFG 15) (7 + q)).wrN (Reg.ti_STATUS 15) status

/-- TriggerInputsAccept: an edge that does not qualify, one that finds the input disarmed, one that is accepted, the end of the settle and an arm. -/
theorem witness_triggerInputsAccept :
    (let d := triggerDev 0x20 0; let t := d.tiStamp 15 (1600 + 15);
     d.standby = false ∧ d.timeState = 2 ∧ d.time.now + 16 ≤ 2^64 ∧ d.bit (Reg.ti_STATUS 15) 3 = false ∧ bitsOf (d.eff (Reg.ti_CFG 15)).toNat 0 3 = 7 ∧ d.corrupt (Reg.ti_CFG 15) 128 = false ∧
     (d.setBit (Reg.ti_STATUS 15) 0 true |>.updTi 15 (fun x => { x with hist := ((t, true) :: x.hist).take 64 })).qualifies 15 t = false) ∧
    (let d := triggerDev 0 0; let t := d.tiStamp 15 (1600 + 15);
     (d.setBit (Reg.ti_STATUS 15) 0 true |>.updTi 15 (fun x => { x with hist := ((t, true) :: x.hist).take 64 })).qualifies 15 t = true ∧
     d.bit (Reg.ti_STATUS 15) 2 = false ∧ d.bit (Reg.ti_STATUS 15) 1 = false) ∧
    (let d := triggerDev 0 2; let t := d.tiStamp 15 1600;
     (d.setBit (Reg.ti_STATUS 15) 0 false |>.updTi 15 (fun x => { x with hist := ((t, false) :: x.hist).take 64 })).qualifies 15 t = true ∧
     d.bit (Reg.ti_STATUS 15) 2 = false ∧ d.bit (Reg.ti_STATUS 15) 1 = true ∧ (d.tiOf 15).armAt ≤ t ∧ (d.tiOf 15).fall = none) ∧
    ((runDev.tiOf 15).settle ≤ runDev.nowT ∧ runDev.answers 0 (Reg.ti_CTL 15) (runDev.srcOwner (832 + 2 * 15))) := by
  refine ⟨?_, ?_, ?_, ?_⟩ <;> decide

/-- SyncAndAlarmsFire: SYNC; an alarm at its time with the largest PERIOD; an enable and a disable that wait. -/
theorem witness_syncAndAlarmsFire :
    (runDev.time.refOk = true ∧ runDev.accEdge / 2^32 < 2^64) ∧
    (let d := { (runDev.wrN (Reg.alarm_CTL 63) 3).wrN (Reg.alarm_PERIOD 63) 0xFFFFFFFF with time := { now := 1600, alarms := [(63, 1615)] } };
     d.timeValid = true ∧ d.bit (Reg.alarm_CTL 63) 1 = true ∧ d.due (SMap.get 0 d.time.alarms 63) = true ∧ d.corrupt (Reg.alarm_AT_LO 63) 16 = false ∧
     d.rdN (Reg.alarm_PERIOD 63) ≠ 0 ∧ 1615 + d.rdN (Reg.alarm_PERIOD 63) < 2^64) ∧
    (let d := { (runDev.wrN (Reg.alarm_CTL 63) 1).wr64 (Reg.alarm_AT_LO 63) 1600 with inforce := [(Reg.alarm_CTL 63, some 0)] };
     d.held (Reg.alarm_CTL 63) = true ∧ d.fld (Reg.alarm_CTL 63) 0 1 = 1 ∧ d.nowT ≤ d.rd64 (Reg.alarm_AT_LO 63)) ∧
    (let d := { runDev.wrN (Reg.alarm_CTL 63) 2 with inforce := [(Reg.alarm_CTL 63, some 0)] }; d.held (Reg.alarm_CTL 63) = true ∧
      d.fld (Reg.alarm_CTL 63) 0 1 = 0) := by
  refine ⟨?_, ?_, ?_, ?_⟩ <;> decide

/-- TimeIsSetAndAnchored: ARM of an idle device, and beside a STATIC channel; the time-set one edge after its arm, and one that a channel has come to stand
in the way of; the anchor. -/
theorem witness_timeIsSetAndAnchored :
    (runDev.answers 0 Reg.time_SET_CTL none ∧ (0x10000#32).getLsbD 16 = true ∧ (∀ n < 96, runDev.isClaimed n = false ∧ runDev.chMode n ≠ 2) ∧
      runDev.launches = []) ∧
    ((runDev.wrN (Reg.chn_CFG 95) 2).chMode 95 = 2) ∧
    (let d := { runDev.setBit Reg.time_STATUS 4 true with time := { now := 1600, refOk := true, refN := 1 } };
     d.bit Reg.time_STATUS 4 = true ∧ d.time.refOk = true ∧ d.time.mode = 0 ∧ d.time.armN < d.time.refN ∧ d.time.syncAt = none ∧
     (∀ n < 96, d.isClaimed n = false ∧ d.chMode n ≠ 2) ∧ d.launches = [] ∧ { d with chan := [(95, { claim := some 5 })] }.isClaimed 95 = true) ∧
    (let d := { runDev.setTimeState 1 with time := { acc := 1600 * 2^32, refOk := true } }; d.timeState = 1 ∧ d.time.refOk = true ∧
      d.bit Reg.clk_STATUS 0 = true) := by
  refine ⟨?_, ?_, ?_, ?_⟩ <;> decide


/-! ## Capture, the link, posts, calibration and clocks -/

/-- Capture 5 writes 64 KiB blocks of a ring at 16 MiB, or the on-chip buffer, with the largest record it allows. -/
def captureDev (cfg pre post : Nat) : Dev :=
  { (((runDev.wrN (Reg.cap_CFG 5) cfg).wrN (Reg.cap_PRE 5) pre).wr64 (Reg.cap_POST_LO 5) post) with mm := { il := 1 } }
    |>.wr64 (Reg.cap_RING_BASE_LO 5) 0x1000000 |>.wr64 (Reg.cap_RING_SIZE_LO 5) 0x10000

/-- Digitiser 5 is lent for what `b` says. -/
def lentDev (b : Borrow) (borrows : Nat) : Dev :=
  { runDev.setBit (Reg.cap_STATUS 5) 2 true with cap := [(5, { bor := some b })], calT := [(5, { borrows := borrows })] }

/-- CapturesArmAndTrigger: the on-chip buffer full with DEC 2048 and SEL 17, a DRAM ring, arms at once and later, one that is refused, triggers, a
reset, and the two borrows of a run. -/
theorem witness_capturesArmAndTrigger :
    (let d := captureDev (17 + 2048 * 2^5 + 2^20) 1 (2^19 - 1); d.answers 0 (Reg.cap_CTL 5) (d.mdOwner 5) ∧ 2^19 - 1 ≠ 0 ∧ 1 + (2^19 - 1) ≤ 2^20 / 2 ∧
     bitsOf (d.rdN (Reg.cap_CFG 5)) 0 5 = 17 ∧ bitsOf (d.rdN (Reg.cap_CFG 5)) 5 12 = 2048 ∧ d.capState 5 ≠ 1 ∧ d.capState 5 ≠ 2 ∧
     bitsOf (d.rdN (Reg.cap_LOG 5)) 8 1 = 0 ∧ d.corrupt (Reg.cap_CFG 5) 1024 = false) ∧
    (let d := captureDev (2^5 + 2^21) 0 16384; d.rd64 (Reg.cap_POST_LO 5) % 2^40 = 16384 ∧ 16384 ≤ d.rd64 (Reg.cap_RING_SIZE_LO 5) % 2^41 / 4 ∧
     d.dramRegion (d.mdOwner 5) (d.rd64 (Reg.cap_RING_BASE_LO 5) % 2^41) (d.rd64 (Reg.cap_RING_SIZE_LO 5) % 2^41) = true ∧ d.chOwner 80 = d.mdOwner 5) ∧
    (let d := runDev.wrN (Reg.tin_LAT 429) 15; d.timeValid = true ∧ d.armBusy 5 = false ∧ (d.tinOf 429).acts = [] ∧ d.tinBad 429 = false ∧
      d.due (d.nowT + d.latOf 429) = true) ∧
    (let d := withFiring (runDev.wrN (Reg.tin_LAT 429) 16) 429 (firing 1600); d.armBusy 5 = false ∧ (d.tinOf 429).acts = [] ∧ d.takesAt 429 (firing 1600) [] 1616 ∧
      (firing 1600).fire.src ≠ Dev.hostSrc ∧ d.due 1616 = false) ∧
    (let d := { runDev with tin := [(429, { acts := [someAct 1615] })] }; (d.tinOf 429).acts = [someAct 1615] ∧ d.due (someAct 1615).time = true ∧
      d.timeValid = true ∧ d.armBusy 5 = false ∧ (d.setFld (Reg.cap_STATUS 5) 0 2 2).armBusy 5 = true) ∧
    (let d := withFiring (runDev.setFld (Reg.cap_STATUS 5) 0 2 1) 435 (firing 1600); d.timeValid = true ∧ d.capState 5 = 1 ∧ d.tinBad 435 = false ∧
      d.nowT + d.latOf 435 < 2^64 ∧ d.corrupt (Reg.cap_CFG 5) 1024 = false ∧
     d.takesAt 435 (firing 1600) [] (1600 + d.latOf 435)) ∧
    (let d := { runDev.setBit (Reg.cap_STATUS 5) 2 true with cap := [(5, { en := true })] }; (d.capOf 5).en = true ∧ d.borrowed 5 = true) ∧
    (runDev.capState 5 = 0 ∧ runDev.borrowed 5 = false ∧ (lentDev { sel := 17 } 1).calOf 5 = { borrows := 1 }) ∧
    (∀ k < 2, let d := lentDev { sel := 17 - k } (2 - k); d.borrowed 5 = true ∧ (d.capOf 5).bor.bind (fun b => b.check) = none ∧ (d.calOf 5).borrows = 2 - k) := by
  refine ⟨?_, ?_, ?_, ?_, ?_, ?_, ?_, ?_, ?_⟩ <;> decide

/-- CapturesStoreSamples: an armed capture with its first sample, to either target. -/
theorem witness_capturesStoreSamples :
    ∀ t < 2, let d := { runDev.setFld (Reg.cap_STATUS 5) 0 2 1 with cap := [(5, { en := true, target := t })] };
     d.timeValid = true ∧ (d.capOf 5).en = true ∧ ((d.capOf 5).nextLbl / d.kM + 33 * (d.capOf 5).dc + 1) * d.kM ≤ d.nowT ∧
       (d.capOf 5).discard = 0 ∧ d.borrowed 5 = false ∧ d.capState 5 = 1 ∧ d.dramShut = false ∧ d.stallsAt 0 512 = false ∧ d.badPart 0 512 = none ∧
       (d.setBit Reg.dramG_STATUS 1 true).dramShut = true ∧
     (d.capOf 5).armAt ≤ (d.capOf 5).nextLbl ∧ (d.capOf 5).trigT = none ∧ (d.capOf 5).target = t := by decide

/-- CapturesStoreSamples: a FIFO that a sample fills up to a burst, and one that is full. -/
theorem witness_capturesStoreSamples_fifo :
    (∀ v, (List.replicate 508 (0#8)).length + (Dev.sampleBytes 0 v).length = 512) ∧
    65536 < (List.replicate 65533 (0#8)).length + ({ en := true, target := 1, fifo := List.replicate 65533 (0#8) } : CapSt).width := by
  constructor
  · intro v; rw [List.length_replicate]; rfl
  · rw [List.length_replicate]; show 65536 < 65533 + 4; decide

/-- A device on a link whose port 1 is up, with some bits of LINK.CFG and LINK.STATUS. -/
def linkDev (cfg status : Nat) : Dev := ((runDev.wrN Reg.link_CFG (0x403 + cfg)).wrN Reg.link_STATUS status).setBit (Reg.port_STATE 1) 2 true

/-- The first frame of a port, of a type and with its words 4 to 6. -/
def someFrame (typ : BitVec 8) (w4 w5 w6 : Word) : LinkFrame := sealFrame ⟨typ, 1, 0, true, 0, 0, 0, 0, 3200, w4, w5, w6, 0⟩

/-- LinkPortsKeepOrder: a port that comes up; a frame of no known type; a NAK that names a kept frame, and one that names none; TOPO at IL0 and at IL1; a
frame whose CRC does not hold. -/
theorem witness_linkPortsKeepOrder :
    (runDev.linkOn = false ∧ (linkDev 0 0).linkOn = true ∧ (linkDev 0 0).bit Reg.link_CFG 0 = true ∧ (linkDev 0 0).portUp 1 = true) ∧
    (let f := someFrame 0x31 0 0 0; (linkDev 0 0).inOrder 1 f ∧ ¬ [0x00#8, 0x01#8, 0x02#8, 0x03#8, 0x10#8, 0x11#8, 0x20#8, 0x30#8].contains f.typ) ∧
    (let f := someFrame 0x20 0xFFFF 0 0; let d := { linkDev 0 0 with ports := [(1, { kept := [(0xFFFF, f)] })] };
     d.inOrder 1 f ∧ f.w4.toNat % 2^16 ≠ (d.portOf 1).txSeq ∧ ∃ k ∈ (d.portOf 1).kept, k.1 = f.w4.toNat % 2^16) ∧
    (let f := someFrame 0x20 0xFFFE 0 0; let d := { linkDev 0 0 with ports := [(1, { kept := [(0xFFFF, f)] })] };
     d.inOrder 1 f ∧ f.w4.toNat % 2^16 ≠ (d.portOf 1).txSeq ∧ ∀ k ∈ (d.portOf 1).kept, k.1 ≠ f.w4.toNat % 2^16) ∧
    (let f := someFrame 0x30 0xE1 0 0; let d := (linkDev 0 0).setBit (Reg.port_STATE 0) 2 true;
     d.inOrder 0 f ∧ d.inOrder 1 f ∧ d.isMaster = false ∧ bitsOf f.w4.toNat 8 1 = 0 ∧ bitsOf f.w4.toNat 4 4 < 15) ∧
    (frameIntact { someFrame 0x30 0xE1 0 0 with crc := 0 } = false) := by
  refine ⟨?_, ?_, ?_, ?_, ?_, ?_⟩ <;> decide +kernel

/-- LinkMeasuresAndSetsTime: ECHO at its tick; an answer; the master's TIME_SYNC in both forms; a frame of the epoch that is off by more than a
tick, and one that sets the time. -/
theorem witness_linkMeasuresAndSetsTime :
    (let d := { linkDev 0 0 with time := { now := 2^24 } }; d.portUp 1 = true ∧ d.timeValid = true ∧ d.time.now / 16 % 2^20 = 0 ∧ d.time.now < 2^64) ∧
    ((linkDev 0 0).inOrder 1 (someFrame 0x03 0 0 0)) ∧
    (let d := { linkDev 0x200 0x100 with time := { now := 2^20, setFrame := true } }; d.isMaster = true ∧ d.linkOn = true ∧
      d.bit Reg.link_STATUS 8 = true ∧ d.timeValid = true ∧
     d.portUp 1 = true ∧ 0 < d.bcastLimit 1 ∧ d.time.setFrame = true ∧ d.time.now / 16 % 2^16 = 0) ∧
    (let d := linkDev 0 0; let f := someFrame 0x01 (d.rd Reg.time_RATIO_LO) (d.rd Reg.time_RATIO_HI) 0;
     let m : Int := f.stamp.toNat * 16 + bitsOf f.w6.toNat 0 4 + ((d.rdN (Reg.port_DELAY 1) : Int) + (d.rd (Reg.port_ASYM 1)).toInt);
     d.inOrder 1 f ∧ f.w4.toNat + 2^32 * f.w5.toNat = d.rd64 Reg.time_RATIO_LO ∧ bitsOf f.w6.toNat 8 8 = d.epoch ∧ d.timeValid = true ∧
       16 < (m - d.time16).natAbs) ∧
    (let d := ({ linkDev 0 0 with time := { now := 1600, mode := 3 } }.wrN Reg.time_SET_CTL 3).setBit Reg.time_STATUS 4 true; let f := someFrame 0x01 (d.rd Reg.time_RATIO_LO) (d.rd Reg.time_RATIO_HI) 0x1FF00;
     d.inOrder 1 f ∧ bitsOf f.w6.toNat 8 8 ≠ d.epoch ∧ bitsOf f.w6.toNat 16 1 = 1 ∧ d.time.linkSet = none ∧ d.bit Reg.time_STATUS 4 = true ∧ d.time.mode = 3 ∧
     d.fld Reg.time_SET_CTL 0 2 = 3 ∧ d.isMaster = false) := by
  refine ⟨?_, ?_, ?_, ?_, ?_⟩ <;> decide +kernel

/-- LinkCarriesEvents: an EVENT for a valid endpoint and for one that is not; a RESULT in block 63; a firing of generation 6 and one of generation
7; a port with room and one whose queue is full. -/
theorem witness_linkCarriesEvents :
    (let d := (linkDev 0 0x100).wrN (Reg.ep_EP 4095) 0x5F; let f := someFrame 0x10 4095 0 0; let x := d.rdN (Reg.ep_EP (bitsOf f.w4.toNat 0 12));
     d.inOrder 1 f ∧ d.carries 1 = true ∧ f.bcast = true ∧ bitsOf x 4 1 = 1 ∧ bitsOf x 6 1 = 1) ∧
    (let d := linkDev 0 0x100; let f := someFrame 0x10 4095 0 0; d.inOrder 1 f ∧ d.carries 1 = true ∧
      bitsOf (d.rdN (Reg.ep_EP (bitsOf f.w4.toNat 0 12))) 4 1 = 0) ∧
    (let d := (linkDev 0 0x100).wr64 Reg.evt_MB_LINK_LO (2^63); bitsOf (d.rd64 Reg.evt_MB_LINK_LO) (4095 / 64) 1 = 1 ∧
      bitsOf (d.rd64 Reg.evt_MB_LINK_LO) (4031 / 64) 1 = 0 ∧
     d.inOrder 1 (someFrame 0x11 4095 0 0) ∧ d.carries 1 = true) ∧
    (let h : Held := ⟨⟨986, 1584, 6, false, false⟩, 99⟩; let d := withFiring ((linkDev 0x100 0x131).wrN (Reg.lt_CFG 11) 0x2000) 511 h; let cfg := (d.eff (Reg.lt_CFG 11)).toNat;
     (d.tinOf 511).inbox = [h] ∧ h.fire.gen < 7 ∧ bitsOf cfg 16 1 = 0 ∧ d.route (bitsOf cfg 12 4) = some 1 ∧ d.carries 1 = true ∧
       (d.portOf 1).txq.length < 256 ∧
     d.dsafe = false ∧ d.tinBad 511 = false ∧ d.corrupt (Reg.lt_CFG 11) 16 = false ∧ d.ltDead 11 = false ∧ 1 ∈ d.ltPorts 11) ∧
    (7 ≤ (⟨986, 1584, 7, false, false⟩ : Firing).gen ∧ 256 ≤ (List.replicate 256 (⟨someFrame 0x10 0 0 0, none, none⟩ : TxItem)).length) := by
  refine ⟨?_, ?_, ?_, ?_, ?_⟩ <;> decide +kernel

/-- HostPostsFireAndLand: the last two words of the mailbox; endpoint 4095 with both kinds of post; every doorbell bit. -/
theorem witness_hostPostsFireAndLand :
    (runDev.barAwake = true ∧ (0x3FF8#14).toNat % 4 = 0 ∧ (List.replicate 8 (1#8)).length = 4 * 2 ∧ (0x3FF8#14).toNat + 4 * 2 ≤ 2^14) ∧
    (let d := runDev.wrN (Reg.ep_EP 4095) 0xBF; let x := d.rdN (Reg.ep_EP 4095); d.barAwake = true ∧ (0x3FFC#14).toNat = 4 * 4095 ∧
      (0xFFF0#16).toNat = 16 * 4095 ∧
     bitsOf x 4 1 = 1 ∧ bitsOf x 5 1 = 1 ∧ bitsOf x 7 1 = 1 ∧ Dev.sees 0 (Dev.ownerField (bitsOf x 8 4) (bitsOf x 12 1 == 1)) = true) ∧
    (runDev.answers 0 Reg.evt_DOORBELL (Dev.fnOwner 0) ∧ ∀ k < 16, (0xFFFF#32).getLsbD k = true ∧ Dev.sees 0 (runDev.srcOwner (1002 + k)) = true) := by
  refine ⟨?_, ?_, ?_⟩ <;> decide

/-- A set of one point with GAIN 1000 for the check of channel 0. -/
def oneSet : List Byte := List.replicate 7 0 ++ [1] ++ List.replicate (pointAt 0 + 102) 0 ++ [0xE8, 3]

/-- TrimsFollowTheTemperature: means at THRESH and one above it; a tile that is frozen, one whose SPLL has lost its lock, one that is neither, and a set
that came late. -/
theorem witness_trimsFollowTheTemperature :
    (let th := runDev.fld (Reg.calTile_CFG 5) 0 9; let mean (x : Int) := rhe (([x, x + 1, x].take 10).foldl (· + ·) 0) 3 + setTsOfs (runDev.calOf 5).set;
     th < (mean (th + 1) - sext 16 (runDev.fld (Reg.calTile_TEMP 5) 16 16)).natAbs ∧
     (mean th - sext 16 (runDev.fld (Reg.calTile_TEMP 5) 16 16)).natAbs ≤ th) ∧
    ((runDev.calOf 5).set = [] ∧ runDev.calFrozen 5 = false ∧ runDev.trimsWait = false ∧ (runDev.setBit (Reg.calTile_CFG 5) 25 true).calFrozen 5 = true ∧
      ({ runDev.setFld Reg.clk_STATUS 0 4 4 with clk := { locked := true } }).trimsWait = true ∧ runDev.isMeasured 95 73 = false) ∧
    (let d := { runDev with calT := [(5, { set := oneSet })] }; (d.calOf 5).loaded = false ∧ (d.calOf 5).set ≠ [] ∧ d.trimsWait = false) := by
  refine ⟨?_, ?_, ?_⟩ <;> decide

/-- CalibrationRunsGoOn: RUN of a tile that runs, of one that is frozen and of one that is neither; a run that is complete; THRESH at 8, 320 and
321. -/
theorem witness_calibrationRunsGoOn :
    (runDev.answers 0 (Reg.calTile_CTL 5) none ∧ runDev.bit (Reg.calTile_STATUS 5) 2 = false ∧ runDev.calFrozen 5 = false) ∧
    ((runDev.setBit (Reg.calTile_STATUS 5) 2 true).bit (Reg.calTile_STATUS 5) 2 = true ∧ (runDev.setBit (Reg.calTile_CFG 5) 25 true).calFrozen 5 = true) ∧
    (let d := runDev.setBit (Reg.calTile_STATUS 5) 2 true; d.bit (Reg.calTile_STATUS 5) 2 = true ∧ (d.calOf 5).borrows = 0 ∧
     ∀ n < 96, n / 16 = 5 → d.rotates n = true → (d.chanOf n).passLeft = 0) ∧
    (runDev.answers 0 (Reg.calTile_CFG 5) none ∧ runDev.parity = [] ∧ (0x10008#32).toNat % 2^9 = 8 ∧ (0x10140#32).toNat % 2^9 = 320 ∧
      (0x10141#32).toNat % 2^9 = 321 ∧
     bitsOf (0x10008#32).toNat 16 8 ≠ 0) := by
  refine ⟨?_, ?_, ?_, ?_⟩ <;> decide

/-- Channel 0, which is at its idle level, may be checked against a set. -/
def checkDev : Dev := { (runDev.wrN (Reg.chn_CFG 0) 1).setBit (Reg.calTile_CFG 0) 26 true with calT := [(0, { set := oneSet, loaded := true })] }

/-- SourcesRotateAndAreChecked: a channel whose spare is measured, and one that has just swapped; no set; a channel to check, and one whose check has its 16
samples. -/
theorem witness_sourcesRotateAndAreChecked :
    (let d := { (runDev.wrN (Reg.chn_CFG 95) 1).setBit (Reg.tile_ROT 5) 16 true with chan := [(95, { measured := true })] };
     d.rotates 95 = true ∧ (d.chanOf 95).measured = true ∧ d.swapDue 95 = true ∧ d.chMode 95 ≠ 0 ∧ d.timeValid = true) ∧
    (let d := { clockDev 0 with chan := [(95, { swapAt := some 1600 })] }; (d.chanOf 95).swapAt = some 1600 ∧ d.nowT < 1600 + d.swapPeriod 95) ∧
    ((runDev.chanOf 95).measured = false ∧ (max (-128) (min 128 128) : Int) = 128 ∧ (max (-128) (min 128 129) : Int) ≠ 129) ∧
    (let d := runDev.setBit (Reg.calTile_CFG 5) 26 true; d.bit (Reg.calTile_CFG 5) 26 = true ∧ setPoints (d.calOf 5).set = 0) ∧
    (let d := checkDev; d.bit (Reg.calTile_CFG 0) 26 = true ∧ d.nextCheck {} 0 = some 0 ∧ d.borrowed 0 = false ∧ d.capState 0 ≠ 1 ∧ d.capState 0 ≠ 2) ∧
    (let b : Borrow := { sel := 0, check := some (0, 0), sum := 5, got := 16 }; let d := { checkDev with cap := [(0, { bor := some b })] }; let set := (d.calOf 0).set;
     (d.capOf 0).bor = some b ∧ b.check = some (0, 0) ∧ 16 ≤ b.got ∧ d.dacCode {} 0 = 0 ∧ d.still {} 0 = true ∧ 0 < interpolate set (d.theta 0) (chkG set 0)) := by
  refine ⟨?_, ?_, ?_, ?_, ?_, ?_⟩ <;> decide


/-! ## Clocks, power and DRAM -/

/-- ApplyChecksAndArms: the safe state; N of 39; another rate beside a STATIC channel; a reference that is 3 % off; an armed time-set; a set that is armed. 164/4
keeps R356. -/
theorem witness_applyChecksAndArms :
    ((clockDev 0).dsafe = false ∧ ((clockDev 0).setBit Reg.fault_STATUS 16 true).dsafe = true) ∧
    (let d := clockDev (39 + 2 * 2^16); d.dsafe = false ∧ d.answers 0 Reg.clk_APPLY_CTL none ∧ (1#32).getLsbD 0 = true ∧ (1#32).getLsbD 1 = false ∧ (1#32).getLsbD 2 = false ∧
     d.corrupt Reg.clk_SPLL_SH 16 = false ∧ d.shadowSet.ok d.fref = false) ∧
    (let d := (clockDev (164 + 2 * 2^16)).wrN (Reg.chn_CFG 95) 2; let n := d.shadowSet; let a := d.activeSet; d.answers 0 Reg.clk_APPLY_CTL none ∧
      n.ok d.fref = true ∧
     n.m * a.p ≠ a.m * n.p ∧ d.chMode 95 = 2) ∧
    (let d := { clockDev (164 + 2 * 2^16) with clk := { fref := 97000 } }; let n := d.shadowSet; let a := d.activeSet; n.ok d.fref = true ∧ d.dsafe = false ∧
     (∀ k < 96, d.isClaimed k = false ∧ d.chMode k ≠ 2) ∧ d.clk.fref ≠ 0 ∧
       2 * (100000 * a.dref) < 100 * (max (n.dref * d.clk.fref) (100000 * a.dref) - min (n.dref * d.clk.fref) (100000 * a.dref))) ∧
    (let d := { (clockDev (164 + 2 * 2^16)).setBit Reg.time_STATUS 4 true with clk := { fref := 98000 } }; let n := d.shadowSet; let a := d.activeSet; n.ok d.fref = true ∧ d.dsafe = false ∧
     ¬ (2 * (100000 * a.dref) < 100 * (max (n.dref * d.clk.fref) (100000 * a.dref) - min (n.dref * d.clk.fref) (100000 * a.dref))) ∧
       d.bit Reg.time_STATUS 4 = true) ∧
    (let d := clockDev (164 + 2 * 2^16); d.shadowSet.ok d.fref = true ∧ d.rdN Reg.clk_REF_MEAS ≠ 0 ∧ d.clk.fref = 0 ∧ d.bit Reg.time_STATUS 4 = false ∧
      d.shadowSet ≠ d.activeSet ∧
     d.shadowSet.ok 0 = true ∧ d.dsafe = false) := by
  refine ⟨?_, ?_, ?_, ?_, ?_, ?_⟩ <;> decide

/-- ClockSetsAndReferencesChange: an APPLY whose edge has come; a reference that is lost; a swap in progress with a reference that agrees,
and with none. -/
theorem witness_clockSetsAndReferencesChange :
    (let d := (clockDev (164 + 2 * 2^16)).setBit Reg.clk_STATUS 8 true; d.bit Reg.clk_STATUS 8 = true ∧ d.time.refOk = true ∧
      d.rd64 Reg.clk_APPLY_AT_LO * 2^32 ≤ d.accEdge) ∧
    (runDev.time.refOk = true ∧ runDev.bit Reg.clk_STATUS 9 = false) ∧
    (let d := (clockDev 0).setBit Reg.clk_STATUS 9 true; d.bit Reg.clk_STATUS 9 = true ∧ d.time.refOk = true ∧ d.activeSet.near (d.rdN Reg.clk_REF_MEAS) = true ∧
      d.activeSet.near 0 = false) := by
  refine ⟨?_, ?_, ?_⟩ <;> decide

/-- PllsLockAndLose: the SPLL as it acquires and as it is locked; 49 missing cycles of 100 MHz, and 50, which take 0.5 µs; the XPLL locked, unlocked and in holdover. Counts 2, 3, 8 and 9 off the 5000
expected. -/
theorem witness_pllsLockAndLose :
    (let d := (clockDev 0).setFld Reg.clk_STATUS 2 2 1; let e := d.fref / (100 * d.activeSet.dref) * d.activeSet.m / 4;
     d.time.refOk = true ∧ d.spll = 1 ∧ e = 50000 * 2^32 ∧ 2^32 * 50002 - e ≤ 2 * 2^32 ∧ 2 * 2^32 < 2^32 * 50003 - e ∧ d.clk.sGood < 2) ∧
    (let d := { (clockDev 0).setFld Reg.clk_STATUS 2 2 1 with clk := { sGood := 2 } }; 2 ≤ d.clk.sGood ∧ d.spll = 1) ∧
    (let d := clockDev 0; d.spll = 2 ∧ 8 * 2^32 < 50009 * 2^32 - 50000 * 2^32 ∧ 3 * 2^32 ≤ 50003 * 2^32 - 50000 * 2^32 ∧
      50008 * 2^32 - 50000 * 2^32 ≤ 8 * 2^32 ∧ 2000 * 49 * d.activeSet.dref < d.fref ∧ d.fref ≤ 2000 * 50 * d.activeSet.dref) ∧
    (let d := runDev.setBit Reg.clk_STATUS 4 true; d.standby = false ∧ d.clk.xFail = false ∧ d.bit Reg.clk_STATUS 4 = true ∧
      8 < max 25009 25000 - min 25009 25000 ∧
     (d.setBit Reg.clk_STATUS 5 true).bit Reg.clk_STATUS 5 = true) ∧
    (let d := { runDev.setBit Reg.clk_STATUS 4 false with clk := { xGood := 2 } }; d.bit Reg.clk_STATUS 4 = false ∧ 2 ≤ d.clk.xGood ∧ d.standby = false ∧
      d.clk.xFail = false) ∧
    (let d := runDev.setBit Reg.clk_STATUS 6 true; d.bit Reg.clk_STATUS 6 = true ∧ d.bit Reg.clk_STATUS 5 = false) := by
  refine ⟨?_, ?_, ?_, ?_, ?_, ?_⟩ <;> decide

/-- PowerStatesChange: STANDBY where nothing hinders it and beside a STATIC channel; each wake source; banks that may rest and wake; the alarm and
THERM_N at 115 °C. -/
theorem witness_powerStatesChange :
    (let d := runDev.setBit Reg.pwr_CTL 0 true; d.standby = false ∧ d.bit Reg.pwr_CTL 0 = true ∧ d.mayStandby = true ∧
      (d.wrN (Reg.chn_CFG 95) 2).mayStandby = false) ∧
    (let d := { runDev.wrN Reg.pwr_WAKE 0x1FFFF with standby := true }; d.standby = true ∧ (∀ m < 16, bitsOf (d.pwrNow Reg.pwr_WAKE) m 1 = 1) ∧
      bitsOf (d.pwrNow Reg.pwr_WAKE) 16 1 = 1) ∧
    (let d := (runDev.wrN Reg.pwr_RET 3).setFld (Reg.chn_SC_STATUS 95) 0 2 2; bitsOf (d.pwrNow Reg.pwr_RET) 0 1 = 1 ∧ d.engCtx 63 = none ∧
      d.engBankOff 63 = false ∧
     bitsOf (d.pwrNow Reg.pwr_RET) 1 1 = 1 ∧ d.isClaimed 95 = false ∧ d.scState 95 = 2 ∧ d.standby = false ∧ d.clk.waking = false ∧ d.scOff 95 = false) ∧
    (let alarm := sext 16 (bitsOf (runDev.pwrNow Reg.pwr_TJ_ALARM) 0 16); alarm < 1840 ∧ sext 16 (runDev.fld Reg.pwr_TJ 0 16) ≤ alarm) := by
  refine ⟨?_, ?_, ?_, ?_⟩ <;> decide

/-- DRAM of 8 GiB in use, with granule 0 wiped and the descriptor table outside it. -/
def dramDev : Dev := { runDev with mm := { il := 8, descAt := 7 * 2^30 }, wiped := [(0, true)] }

/-- A read of 64 bytes that waits at DMC 0. -/
def someReq (port : Nat) (deadline : Option Nat) : Req := ⟨port, 0, 0, 64, false, false, [], 0, deadline, 100, none⟩

/-- DramRequestsQueue: a length of 0, an address past the end, and reads of a wiped and of an unwiped granule. -/
theorem witness_dramRequestsQueue :
    (¬ (64 ≤ 0) ∧ dramDev.populated (8 * 2^30) = false ∧ dramDev.populated (8 * 2^30 - 64) = true ∧ dramDev.dramShut = false) ∧
    (SMap.get false dramDev.wiped (2^20 / 2^20) = false ∧ SMap.get false dramDev.wiped (64 / 2^20) = true ∧ dramDev.dmc = [] ∧
     64 ≤ 512 ∧ 512 % 64 = 0 ∧ (2^20 - 512) / 4096 = (2^20 - 512 + 512 - 1) / 4096 ∧ dramDev.readsOut 0 + 512 / 64 ≤ 64 ∧
     64 < { dramDev with dmc := [(0, { waiting := List.replicate 64 (someReq 0 none) })] }.readsOut 0 + 512 / 64) ∧
    ((dramDev.setBit Reg.dramG_STATUS 1 true).dramShut = true) := by
  refine ⟨?_, ?_, ?_⟩ <;> decide

/-- ArbiterChooses: a tile in PANIC; the earlier of two deadlines; patrol traffic alone. -/
theorem witness_arbiterChooses :
    (let d := { (dramDev.setFld (Reg.chn_SC_LAYOUT 0) 8 8 8).setFld (Reg.chn_SC_LAYOUT 0) 16 8 2 with
       chan := [(0, { streams := [⟨5, 1, 0, 10000, 1, 512, 0, 512, [], 0⟩], ringWr := 512 })], dmc := [(0, { waiting := [someReq 0 (some 100)] })] }; let x := d.dmcOf 0;
     d.dramShut = false ∧ d.inSr 0 = false ∧ d.dmcState 0 ≠ 3 ∧ d.dmcState 0 ≠ 4 ∧ x.ctl.length < 8 ∧ (x.rr + 1 + 0) % 6 = 0 ∧ d.portPanic 0 = true ∧
     x.waiting.find? (fun q => q.port == 0) = some (someReq 0 (some 100))) ∧
    (let d := { dramDev with dmc := [(0, { waiting := [someReq 9 (some 100), someReq 8 (some 99)] })] }; let r := someReq 8 (some 99);
     r ∈ (d.dmcOf 0).waiting ∧ (∀ q ∈ (d.dmcOf 0).waiting, d.portPanic q.port = true → 6 ≤ q.port) ∧ r.port ≠ 10 ∧
       ∀ q ∈ (d.dmcOf 0).waiting, q.port ≠ 10 → q ≠ r →
     Dev.urgency q 0 < Dev.urgency r 0 ∨ (Dev.urgency q 0 = Dev.urgency r 0 ∧
       (r.deadline.getD 0 < q.deadline.getD 0 ∨ (r.deadline.getD 0 = q.deadline.getD 0 ∧ r.port < q.port)))) ∧
    (let d := { dramDev with dmc := [(0, { waiting := [someReq 10 none] })] }; (d.dmcOf 0).waiting.head? = some (someReq 10 none) ∧
      (∀ q ∈ (d.dmcOf 0).waiting, q.port = 10)) := by
  refine ⟨?_, ?_, ?_⟩ <;> decide

/-- RequestsComplete: a write of half a codeword and a read in the controller queue, which meet one erring device, or two; a patrolled codeword. -/
theorem witness_requestsComplete :
    (let r : Req := ⟨0, 0, 0, 64, true, false, List.replicate 64 1, 0, none, 0, none⟩; let d := { dramDev with dmc := [(0, { ctl := [r, someReq 0 none] })] };
     (d.dmcOf 0).ctl = [r, someReq 0 none] ∧ r.fill = none ∧ d.badCw = [] ∧ r.write = true ∧ r.data.length = r.len ∧ 0 < r.len ∧ (someReq 0 none).write = false ∧
     r.addr < 0 * 128 + 128 ∧ 0 * 128 < r.addr + r.len ∧ SMap.get false d.wiped (0 / 2^13) = true ∧ r.addr + r.len < 0 * 128 + 128) ∧
    ((3#20) ≠ 0 ∧ Dev.correctable (3#20).toNat = false) ∧
    (let d := dramDev.wrN (Reg.dram_CFG 7) 2; d.servedAddr 7 0 = some (7 * 4096) ∧ d.forcedSr 7 = false ∧ d.wipeWaits 7 = false ∧ d.dramShut = false ∧ d.bit (Reg.dram_CFG 7) 1 = true ∧
      d.corrupt (Reg.dram_CFG 7) 0x100 = false ∧
     SMap.get false d.wiped (7 * 4096 / 2^20) = true ∧ d.inSr 7 = false ∧ d.badCw = []) := by
  refine ⟨?_, ?_, ?_⟩ <;> decide

/-- DramKeepsItself: 3 refreshes owed by a DMC that is idle, busy and in PANIC, and 4 owed; a DIMM that is hot beside one whose sensor is silent for the third
time; an idle DMC; a chunk to switch; a granule to wipe. -/
theorem witness_dramKeepsItself :
    (let d := dramDev.setOwed 7 3; d.inSr 7 = false ∧ d.dmcState 7 ≠ 4 ∧ d.owed 7 < 4 ∧ d.dmcPanic 7 = false ∧ (d.dmcOf 7).ctl = [] ∧
      4 ≤ (dramDev.setOwed 7 4).owed 7) ∧
    (let d := { dramDev.setOwed 7 3 with dmc := [(7, { ctl := [someReq 9 none] })] }; d.dmcPanic 7 = false ∧ (d.dmcOf 7).ctl ≠ [] ∧ d.frozen = false) ∧
    (let d := { ((dramDev.setOwed 7 3).setFld (Reg.chn_SC_LAYOUT 0) 8 8 8).setFld (Reg.chn_SC_LAYOUT 0) 16 8 2 with
       chan := [(0, { streams := [⟨5, 1, 0, 10000, 1, 512, 0, 512, [], 0⟩], ringWr := 512 })], dmc := [(7, { waiting := [someReq 0 none] })] }; d.dmcPanic 7 = true ∧
         d.frozen = false) ∧
    (let d := { dramDev with dmc := [(7, { silent := [2] })] }; let x : List (Option Int) := [none, some 1361]; x[0]? = some none ∧ 2 ≤ (d.dmcOf 7).silent.getD 0 0 ∧
      some (1361 : Int) ∈ x ∧ ¬ (2 ≤ dramDev.dmc.length)) ∧
    (let d := dramDev.wrN Reg.pwr_SR_IDLE 1; bitsOf (d.pwrNow Reg.pwr_SR_IDLE) 0 16 ≠ 0 ∧ d.standby = false ∧ d.inSr 7 = false ∧ d.hasCharge 7 = false ∧
      (d.dmcOf 7).waiting = [] ∧
     (d.dmcOf 7).ctl = []) ∧
    (let d := { (dramDev.setFld (Reg.dram_STATUS 7) 0 3 1) with moved := [] }; d.frozen = false ∧ d.dmcState 7 = 1 ∧ d.nextChunk 7 = some 0 ∧
      d.badCw = [] ∧ d.dmc = []) ∧
    (dramDev.dramShut = false ∧ dramDev.standby = false ∧ (∀ k < 8, dramDev.wipeWaits k = false ∧ dramDev.forcedSr k = false) ∧ dramDev.firstUnwiped = some 1 ∧ dramDev.populated ((8191 : Nat) * 2^20) = true) := by
  refine ⟨?_, ?_, ?_, ?_, ?_, ?_, ?_⟩ <;> decide


/-! ## Resets, start and trust -/

/-- ResetsClearTheBlock: a reset that is no power-on reset, in a device that runs; the watchdog and its service need nothing. -/
theorem witness_resetsClearTheBlock :
    (2#6) ≠ 0 ∧ (2#6).getLsbD 0 = false ∧ runDev.timeValid = true ∧ runDev.standby = false ∧ (0xA4#32) ≠ 0xA5 := by decide

/-- StartsFromTheImage: a flash that is too small; an erased flash; training and START without an image; START that waits for its time-set. -/
theorem witness_startsFromTheImage :
    ((({} : Dev).sec.booted = false ∧ ({} : Dev).standby = false) ∧ ({} : Fuses).lc ≠ 4 ∧ { ({} : Dev) with flashSize := 2^26 - 1 }.flashOk = false ∧
      ({} : Dev).flashOk = true) ∧
    (({} : Dev).aon = {} ∧ 2 ≤ ({} : Dev).dirFields.2 ∧ Dev.imageError {} {} 0 false true = 1 ∧ Dev.imageError {} {} 1 false true = 1) ∧
    (let d := { ({} : Dev).setFld Reg.glob_STATUS 16 4 4 with flash := [(2^24 + 12, 0), (2^24 + 13, 0)], sec := { booted := true } };
     d.sec.booted = true ∧ d.startPhase = 4 ∧ d.standby = false ∧ d.bit Reg.dramG_STATUS 1 = false ∧ d.imgSections d.bootSlot = []) ∧
    (let d := { ({} : Dev).setFld Reg.glob_STATUS 16 4 5 with flash := [(2^24 + 12, 0), (2^24 + 13, 0)], sec := { booted := true } }; d.startPhase = 5 ∧
      d.startBytes = none) := by
  refine ⟨?_, ?_, ?_, ?_⟩ <;> decide

/-- The flash of an image whose one section is a START of the words `ws`. -/
def startFlash (ws : List Word) : SMap Byte :=
  let put (o : Nat) (bs : List Byte) : SMap Byte := bs.zipIdx.map (fun p => (2^24 + o + p.2, p.1))
  put 12 [1, 0] ++ put 64 (wordBytes [12, 0, 4096, BitVec.ofNat 32 (4 * ws.length), 0, 0]) ++ put 4096 (wordBytes ws)

/-- START with SAFE_START and without a context, and START that still waits. -/
theorem witness_startsFromTheImage_start :
    (let d := { ({} : Dev).setFld Reg.glob_STATUS 16 4 5 with flash := startFlash [13, 0, 0, 0], sec := { booted := true } }; d.startPhase = 5 ∧
     d.startBytes = some (wordBytes [13, 0, 0, 0]) ∧ d.sec.autoWait = false ∧ fieldAt (wordBytes [13, 0, 0, 0]) 0 4 % 2 = 1 ∧
     bitsOf (fieldAt (wordBytes [13, 0, 0, 0]) 0 4) 2 2 = 3 ∧ bitsOf (fieldAt (wordBytes [13, 0, 0, 0]) 0 4) 1 1 = 0) ∧
    (let d := { (({} : Dev).setFld Reg.glob_STATUS 16 4 5).setBit Reg.time_STATUS 4 true with flash := startFlash [13, 0, 0, 0], sec := { booted := true, autoWait := true } };
     d.startBytes = some (wordBytes [13, 0, 0, 0]) ∧ d.sec.autoWait = true ∧ d.bit Reg.time_STATUS 4 = true) := by
  refine ⟨?_, ?_⟩ <;> decide

/-- FusesFollowTokens: CONFIRM and TRY in a started device; ADD_KEY of a blank device; a token with a wrong signer; another serial; a slot to
program. -/
theorem witness_fusesFollowTokens :
    (let d := { runDev with sec := { booted := true } }; d.standby = false ∧ d.sec.booted = true ∧ d.recovery = false) ∧
    (let d := (({} : Dev).wr (Reg.sec_TOKEN 0) 0x050002).wr (Reg.sec_TOKEN 1) 0; fieldAt d.tokenBytes 0 1 = 2 ∧ fieldAt d.tokenBytes 2 1 = 5 ∧
      Dev.tokenResult {} d = 0 ∧ d.standby = false) ∧
    (∀ k < 5, 1 ≤ k → let d := ({} : Dev).wr (Reg.sec_TOKEN 0) (BitVec.ofNat 32 (k + 2^16)); fieldAt d.tokenBytes 0 1 = k ∧ Dev.tokenResult {} d ≠ 0 ∧
      fieldAt d.tokenBytes 8 8 ≠ 7) ∧
    (let d := ({} : Dev).setBit Reg.glob_STATUS 7 true; d.standby = false ∧ d.recovery = true ∧ (0x1000F1#32).getLsbD 0 = true ∧
      (0x1000F1#32).getLsbD 1 = false ∧ d.flashOk = true ∧
     256 * bitsOf (0x1000F1#32).toNat 4 16 ≤ 2^16 ∧ d.slotWriteOk 0 (d.rdN Reg.sec_REC_OFS) (256 * bitsOf (0x1000F1#32).toNat 4 16) false = true) := by
  refine ⟨?_, ?_, ?_, ?_⟩ <;> decide

/-- The seed of the first test of RFC 8032. -/
def someSeed : List Byte := wordBytes [0x9DB1619D, 0x605AFDEF, 0xF44A84BA, 0xC42CEC92, 0x69C54944, 0x1969327B, 0x03AC3B70, 0x607FAE1C]

/-- Its public key. -/
def somePub : List Byte := wordBytes [0x01985AD7, 0xB70AB182, 0xD3FE4BD5, 0x3A0764C9, 0xF372E10E, 0x2523A6DA, 0x681A02AF, 0x1A5107F7]

/-- The device whose token of slot 2 moves BLANK to DEVELOP, signed under that key. -/
def tokenDev : Dev :=
  let sig : List Word := [0x28F6E7B0, 0x32244307, 0x5ABF0C35, 0xE687C1D4, 0x05FFE87D, 0xF6A28FC7, 0x32934515, 0xDAF5B52C, 0x3F16CC69, 0xF335A0DA,
    0xE5386354, 0x346E5EAB, 0x61833B39, 0x5B22C2AE, 0x7A1299BA, 0x09827875]
  let put (d : Dev) (k : Nat) (ws : List Word) : Dev := ws.zipIdx.foldl (fun (d : Dev) x => d.wr (Reg.sec_TOKEN (k + x.2)) x.1) d
  put (put (put {} 0 [0x010201]) 24 (leWords somePub)) 32 sig

/-- The token acts: its signature verifies under the key whose digest slot 2 holds. -/
theorem witness_tokenActs :
    let f : Fuses := { keys := [(2, 1)], digest := [(2, Crypto.sha512 somePub)] }
    fieldAt tokenDev.tokenBytes 0 1 = 1 ∧ Dev.tokenResult f tokenDev = 0 := by decide +kernel

/-! ## A valid image -/

/-- Firmware without code, signed under that key. -/
def someFw : List Byte :=
  List.replicate 32 0 ++ somePub ++
  wordBytes ([0x5496C105, 0xB4A1E13F, 0xF794BD45, 0x0484F267, 0x21D84125, 0x670206CA, 0x5C1480DB, 0x9F1F4124] ++
    [0x0460F7A8, 0xA95A1E4C, 0x292EF78F, 0xF73423CA, 0xBAD28921, 0xA022DB78, 0xBADA8356, 0x073DAD9C])
/-- The digest of that firmware. -/
def fwDigest : List Byte :=
  wordBytes ([0xC90F3EEB, 0x79497430, 0xEC85BC65, 0xB44D417F, 0x2A1FC5F0, 0xB6E3CBC7, 0xCB72396A, 0x26839F94] ++
    [0x0A49DC10, 0x6C17D7D5, 0x599EC776, 0xAA86C03D, 0x583BBF84, 0x1151C698, 0xD045D9CB, 0x0D33AEEC])
/-- A limits block without an entry. -/
@[irreducible]
def someLimits : List Byte := wordBytes [1, 10] ++ List.replicate 3928 0
/-- Its digest. -/
def limitsDigest : List Byte :=
  wordBytes ([0x35C564A9, 0x104618A6, 0x0B81F46A, 0x8D90F04B, 0x11DA6B31, 0xE92EBEB8, 0x44C66ADE, 0xCFC95C17] ++
    [0x4B410EF5, 0x1A9B02E5, 0x0F307FFA, 0x3C1E5E26, 0xB73EEB51, 0xF159FDD5, 0x6F77133A, 0x7E5C60D6])
/-- The sections of an image: the firmware twice, and the limits block. -/
def someSections : List Section := [⟨1, 4096, 128, 0, fwDigest⟩, ⟨2, 8192, 128, 0, fwDigest⟩, ⟨3, 12288, 3936, 0, limitsDigest⟩]
/-- Its header, its section table and its signature block under slot 2. -/
def someHead : List Byte :=
  wordBytes ([0x4D495A43, 0x00400001, 0x00003F60, 3, 0, 2] ++ List.replicate 10 0) ++
  someSections.flatMap (fun s => wordBytes [BitVec.ofNat 32 s.typ, 0, BitVec.ofNat 32 s.ofs, BitVec.ofNat 32 s.len, 0, 0, 0, 0] ++ s.digest) ++
  (2 :: List.replicate 31 0) ++ somePub ++
  wordBytes ([0x8358FD7E, 0xE1200830, 0x3FF981FF, 0x5E834F48, 0x9DCD78AC, 0x33AAC8F9, 0xB807D355, 0x80C2EDE6] ++
    [0x39A6E6C8, 0xD4DB917C, 0x067852C5, 0x5898A1A7, 0x52044555, 0xA0349093, 0xC80F820E, 0x0EDB3EC1])
/-- The flash that holds this image from byte `a` on. -/
@[irreducible]
def imageFlash (a : Nat) : SMap Byte :=
  SMap.store 0xFF (SMap.store 0xFF (SMap.store 0xFF (SMap.store 0xFF [] a someHead) (a + 4096) someFw) (a + 8192) someFw) (a + 12288) someLimits
/-- The fuses under which it is valid. -/
def imageFuses : Fuses := { lc := 1, keys := [(0, 1), (2, 1)], digest := [(0, Crypto.sha512 somePub), (2, Crypto.sha512 somePub)] }

/-- A device whose flash holds the image in slot `k`. -/
def imageDev (k : Nat) : Dev := { ({} : Dev) with flash := imageFlash (({} : Dev).slotAt k) }

theorem someHead_length : someHead.length = 480 := by decide +kernel
theorem someFw_length : someFw.length = 128 := by decide +kernel
theorem someLimits_length : someLimits.length = 3936 := by decide +kernel

theorem slotAt_withFlash (d : Dev) (m : SMap Byte) (j : Nat) : ({ d with flash := m }).slotAt j = d.slotAt j := rfl
theorem slotSize_withFlash (d : Dev) (m : SMap Byte) : ({ d with flash := m }).slotSize = d.slotSize := rfl
theorem imageDev_slotAt (k j : Nat) : (imageDev k).slotAt j = ({} : Dev).slotAt j := slotAt_withFlash ..
theorem imageDev_slotSize (k : Nat) : (imageDev k).slotSize = ({} : Dev).slotSize := slotSize_withFlash ..
theorem image_head (k o n : Nat) (h : o + n ≤ 480) : (imageDev k).img k o n = (someHead.drop o).take n := by
  show SMap.bytes 0xFF (imageFlash _) _ _ = _
  have h1 := someHead_length
  have h2 := someFw_length
  have h3 := someLimits_length
  unfold imageFlash
  rw [imageDev_slotAt, SMap.bytes_store_out _ _ _ _ _ _ (by omega), SMap.bytes_store_out _ _ _ _ _ _ (by omega), SMap.bytes_store_out _ _ _ _ _ _ (by omega),
    SMap.bytes_store_in _ _ _ _ _ _ (by omega)]

theorem image_mp (k : Nat) : (imageDev k).img k 4096 128 = someFw := by
  show SMap.bytes 0xFF (imageFlash _) _ _ = _
  have h2 := someFw_length
  have h3 := someLimits_length
  unfold imageFlash
  rw [imageDev_slotAt, SMap.bytes_store_out _ _ _ _ _ _ (by omega), SMap.bytes_store_out _ _ _ _ _ _ (by omega)]
  have := SMap.bytes_store 0xFF (SMap.store 0xFF [] (({} : Dev).slotAt k) someHead) (({} : Dev).slotAt k + 4096) someFw
  rwa [h2] at this

theorem image_uc (k : Nat) : (imageDev k).img k 8192 128 = someFw := by
  show SMap.bytes 0xFF (imageFlash _) _ _ = _
  have h2 := someFw_length
  have h3 := someLimits_length
  unfold imageFlash
  rw [imageDev_slotAt, SMap.bytes_store_out _ _ _ _ _ _ (by omega), ← h2, SMap.bytes_store]

theorem image_limits (k : Nat) : (imageDev k).img k 12288 3936 = someLimits := by
  show SMap.bytes 0xFF (imageFlash _) _ _ = _
  have h3 := someLimits_length
  unfold imageFlash
  rw [imageDev_slotAt, ← h3, SMap.bytes_store]

theorem image_sections (k : Nat) : (imageDev k).imgSections k = someSections := by
  unfold Dev.imgSections
  rw [image_head k 0 64 (by omega), show fieldAt ((someHead.drop 0).take 64) 12 2 = 3 by decide +kernel,
    List.map_congr_left (g := fun i => let e := (someHead.drop (64 + 96 * i)).take 96; (⟨fieldAt e 0 2, fieldAt e 8 4, fieldAt e 12 4, fieldAt e 16 8, e.drop 32⟩ : Section))]
  · decide +kernel
  · intro i hi
    simp at hi
    rw [image_head k _ _ (by omega)]

theorem image_headerOk (k : Nat) : (imageDev k).headerOk k = true := by
  unfold Dev.headerOk
  rw [image_head k 0 64 (by omega), image_sections, imageDev_slotSize]
  decide +kernel

theorem fw_ok : Dev.firmwareOk imageFuses someFw = true := by decide +kernel
theorem image_signed (k : Nat) : Dev.imageSigned imageFuses (imageDev k) k = true := by
  unfold Dev.imageSigned Dev.manifest
  rw [image_sections, image_head k _ _ (by decide), image_head k _ _ (by decide)]
  decide +kernel
theorem image_firmwares (k : Nat) : Dev.firmwaresOk imageFuses (imageDev k) k = true := by
  unfold Dev.firmwaresOk Dev.sectionBytes
  rw [image_sections]
  show ([(⟨1, 4096, 128, 0, fwDigest⟩ : Section), ⟨2, 8192, 128, 0, fwDigest⟩].all _) = true
  simp only [List.all_cons, List.all_nil, image_mp, image_uc, fw_ok, Bool.and_true]

theorem fw_digest : Crypto.sha512 someFw = fwDigest := by decide +kernel
theorem limits_digest : Crypto.sha512 someLimits = limitsDigest := by decide +kernel
theorem someLimits_zero (o n : Nat) (h : 8 ≤ o) : (someLimits.drop o).take n = List.replicate (min n (3936 - o)) 0 := by
  have hw : (wordBytes [1, 10]).length = 8 := by decide
  unfold someLimits
  rw [List.drop_append, hw, List.drop_eq_nil_of_le (by omega), List.nil_append, List.drop_replicate, List.take_replicate]
  congr 1; omega

theorem leNat_zeros (n : Nat) : leNat (List.replicate n 0) = 0 := by
  induction n with
  | zero => rfl
  | succ n ih => rw [List.replicate_succ, leNat, ih]; rfl

theorem someLimits_field (o n : Nat) (h : 8 ≤ o) : fieldAt someLimits o n = 0 := by
  unfold fieldAt; rw [someLimits_zero o n h, leNat_zeros]

theorem limits_ok : limitsOk someLimits = true := by
  have hc (n : Nat) : limitsCh someLimits n = some {} := by
    unfold limitsCh blockWord
    simp [someLimits_field _ _ (show 8 ≤ 64 + 32 * n + 4 by omega), bitsOf]
  have hp (p w : Nat) : limitsPart someLimits p w = 0 := someLimits_field _ _ (by omega)
  have h0 : blockWord someLimits 0 0 = 1 := by decide +kernel
  have h1 : blockWord someLimits 0 1 = 10 := by decide +kernel
  have hz : zeroAt someLimits 8 56 = true := by
    unfold zeroAt; rw [someLimits_zero _ _ (by omega)]; simp
  unfold limitsOk
  simp [hc, hp, h0, h1, hz, someLimits_length, bitsOf]

theorem image_sectionOk (k : Nat) : ∀ s ∈ (imageDev k).imgSections k, (imageDev k).sectionOk k s = true ∧ s.typ ≠ 5 := by
  rw [image_sections]
  unfold Dev.sectionOk Dev.sectionShape Dev.sectionBytes
  rw [image_head k 0 64 (by omega)]
  simp only [someSections, List.forall_mem_cons, image_mp, image_uc, image_limits, fw_digest, limits_digest, limits_ok, List.not_mem_nil, false_imp_iff,
    implies_true, and_true]
  decide +kernel

/-- The image is valid in either slot. -/
theorem image_ok (k : Nat) : Dev.imageError imageFuses (imageDev k) k false true = 0 := by
  have hs := image_sectionOk k
  rw [image_sections] at hs
  have h1 : (imageDev k).sectionOk k ⟨1, 4096, 128, 0, fwDigest⟩ = true := (hs _ (by simp [someSections])).1
  have h2 : (imageDev k).sectionOk k ⟨2, 8192, 128, 0, fwDigest⟩ = true := (hs _ (by simp [someSections])).1
  have h3 : (imageDev k).sectionOk k ⟨3, 12288, 3936, 0, limitsDigest⟩ = true := (hs _ (by simp [someSections])).1
  have h4 : (imageDev k).sectionShape k ⟨2, 8192, 128, 0, fwDigest⟩ = true := by
    unfold Dev.sectionOk at h2; simp only [Bool.and_eq_true] at h2; exact h2.1.1
  unfold Dev.imageError Dev.imgSvn
  simp only [image_headerOk, image_signed, image_firmwares, image_head k 0 64 (by omega), image_sections]
  rw [if_neg (by decide +kernel), if_neg (by decide), if_neg (by decide), if_neg (by decide +kernel), if_neg (by decide +kernel)]
  simp [someSections, List.range_succ, h1, h3, h4]

theorem image_section (k : Nat) (typ : Nat) : (imageDev k).sectionOf k typ = someSections.find? (fun s => s.typ == typ) := by
  unfold Dev.sectionOf; rw [image_sections]

/-- The flash is erased outside the image. -/
theorem imageFlash_out (a o n : Nat) (h : o + n ≤ a ∨ a + 16224 ≤ o) : SMap.bytes 0xFF (imageFlash a) o n = List.replicate n 0xFF := by
  have h1 := someHead_length
  have h2 := someFw_length
  have h3 := someLimits_length
  unfold imageFlash
  rw [SMap.bytes_store_out _ _ _ _ _ _ (by omega), SMap.bytes_store_out _ _ _ _ _ _ (by omega), SMap.bytes_store_out _ _ _ _ _ _ (by omega),
    SMap.bytes_store_out _ _ _ _ _ _ (by omega)]
  apply List.ext_getElem <;> simp [SMap.bytes, SMap.get]

theorem slots : ({} : Dev).slotAt 0 = 16777216 ∧ ({} : Dev).slotAt 1 = 41943040 := by decide

theorem flashBytes_withFlash (d : Dev) (m : SMap Byte) (o n : Nat) : ({ d with flash := m }).flashBytes o n = SMap.bytes 0xFF m o n := rfl
theorem imageDev_flashBytes (k o n : Nat) : (imageDev k).flashBytes o n = SMap.bytes 0xFF (imageFlash (({} : Dev).slotAt k)) o n :=
  flashBytes_withFlash ..

/-- Erased flash holds no directory copy. -/
theorem dirSeq_erased (d : Dev) (c : Nat) (h : d.flashBytes (4096 * c) 64 = List.replicate 64 0xFF) : d.dirSeq c = none := by
  unfold Dev.dirSeq
  simp only [h]
  exact if_neg (by decide +kernel)

theorem slot_low (k : Nat) (h : k ≤ 1) : 16777216 ≤ ({} : Dev).slotAt k := by
  obtain ⟨s0, s1⟩ := slots
  have : k = 0 ∨ k = 1 := by omega
  rcases this with rfl | rfl <;> omega

theorem image_dirSeq (k : Nat) (h : k ≤ 1) (c : Nat) (hc : c < 2) : (imageDev k).dirSeq c = none := by
  have hk := slot_low k h
  exact dirSeq_erased _ _ (by rw [imageDev_flashBytes, imageFlash_out _ _ _ (by omega)])

theorem dirFields_none (d : Dev) (h0 : d.dirSeq 0 = none) (h1 : d.dirSeq 1 = none) : d.dirFields = (0, 0xFF) := by
  unfold Dev.dirFields Dev.dirCopy
  simp only [h0, h1]

/-- The flash holds no directory. -/
theorem image_dir (k : Nat) (h : k ≤ 1) : (imageDev k).dirFields = (0, 0xFF) :=
  dirFields_none _ (image_dirSeq k h 0 (by decide)) (image_dirSeq k h 1 (by decide))

/-- The other slot holds no image. -/
theorem image_other (k : Nat) (h : k ≤ 1) : Dev.imageError imageFuses (imageDev k) (1 - k) false true = 1 := by
  have hh : (imageDev k).headerOk (1 - k) = false := by
    unfold Dev.headerOk Dev.img
    obtain ⟨s0, s1⟩ := slots
    have hk : k = 0 ∨ k = 1 := by omega
    rw [imageDev_slotAt, imageDev_flashBytes, imageFlash_out _ _ _ (by rcases hk with rfl | rfl <;> simp only [Nat.sub_zero, Nat.sub_self] <;> omega)]
    rfl
  unfold Dev.imageError
  simp [hh]

/-- A new device with any flash. -/
theorem new_withFlash (m : SMap Byte) : let d := { ({} : Dev) with flash := m }; d.sec.booted = false ∧ d.standby = false ∧ d.flashOk = true ∧ d.aon = {} :=
  ⟨rfl, rfl, rfl, rfl⟩

/-- StartsFromTheImage: a valid image in the slot that boots, and one that only the other slot holds. -/
theorem witness_startsFromTheImage_valid (k : Nat) (h : k ≤ 1) :
    let d := imageDev k
    (d.sec.booted = false ∧ d.standby = false ∧ d.flashOk = true ∧ d.aon = {}) ∧ imageFuses.lc ≠ 4 ∧ 2 ≤ d.dirFields.2 ∧ d.dirFields.1 = 0 ∧
    Dev.imageError imageFuses d k false true = 0 ∧ (∀ x ∈ d.imgSections k, d.sectionOk k x = true ∧ x.typ ≠ 5) ∧
    Dev.imageError imageFuses d (1 - k) false true ≠ 0 := by
  refine ⟨new_withFlash _, by decide, ?_, ?_, image_ok k, image_sectionOk k, ?_⟩
  · rw [image_dir k h]; decide
  · rw [image_dir k h]
  · rw [image_other k h]; decide

theorem dsafe_new (m : SMap Byte) (x : SecSt) : ({ ({} : Dev) with flash := m, sec := x }).dsafe = false :=
  (by decide : ({} : Dev).dsafe = false)
theorem bootSlot_new (m : SMap Byte) (x : SecSt) : ({ ({} : Dev) with flash := m, sec := x }).bootSlot = 0 :=
  (by decide : ({} : Dev).bootSlot = 0)

/-- RepairsAndImagesAreCarriedOut: the firmware of the image that slot 1 holds, verified, may run. -/
theorem witness_repairsAndImagesAreCarriedOut_swap :
    let d := { imageDev 1 with sec := { verified := [(1, true)] } }
    d.dsafe = false ∧ d.swapBlocked = false ∧ SMap.get false d.sec.verified (1 - d.bootSlot) = true ∧
    d.sectionOf (1 - d.bootSlot) 1 = some ⟨1, 4096, 128, 0, fwDigest⟩ ∧ d.sectionOf (1 - d.bootSlot) 2 = some ⟨2, 8192, 128, 0, fwDigest⟩ ∧
    0 = d.sec.ucAbi ∧ 0 = d.sec.mpAbi ∧
    ∀ x ∈ [(⟨1, 4096, 128, 0, fwDigest⟩ : Section), ⟨2, 8192, 128, 0, fwDigest⟩], Crypto.sha512 (d.sectionBytes (1 - d.bootSlot) x) = x.digest ∧
      Dev.firmwareOk imageFuses (d.sectionBytes (1 - d.bootSlot) x) = true := by
  intro d
  have h0 : d.bootSlot = 0 := bootSlot_new ..
  have hs : d.imgSections 1 = someSections := image_sections 1
  have hf (o n : Nat) : d.img 1 o n = (imageDev 1).img 1 o n := rfl
  refine ⟨dsafe_new .., rfl, by rw [h0]; rfl, ?_, ?_, rfl, rfl, ?_⟩
  · rw [h0]; unfold Dev.sectionOf; rw [hs]; decide
  · rw [h0]; unfold Dev.sectionOf; rw [hs]; decide
  · rw [h0]; unfold Dev.sectionBytes
    simp [hf, image_mp, image_uc, fw_digest, fw_ok]

/-! ## Host commands -/

/-- A device whose physical function may send commands, with the first 16 pages of host memory open to it and 8 GiB of DRAM. -/
def hostDev : Dev :=
  { dramDev.setBit Reg.glob_STATUS 1 true with host := { linkUp := true, vfEnable := true, numVFs := 12, dmaw := [(0, 0, 16, 3), (16, 0, 16, 3)] } }

/-- A command of the physical function from SQ 0, with a host buffer at 0. -/
def cmd (len : Word) (par : List Word) (fn : Fn := 0) : HostCmd := ⟨fn, 0, 0, false, false, 7, 1, 0, len, par⟩

/-- hostDev whose first window passes its writes on to another card. -/
def peerDev : Dev := { hostDev with host := { hostDev.host with dmaw := [(0, 0, 16, 7)] } }

/-- The buffers of the commands below, which lie in one page, pass the window check. -/
theorem witness_windowed (len : Nat) (hl : len ≤ 4096) :
    hostDev.quiet ∧ hostDev.windowed 0 0 len false ∧ hostDev.windowed 0 0 len true ∧ peerDev.peered 0 0 len := by
  refine ⟨by decide, fun k hk => ?_, fun k hk => ?_, fun k hk => ?_⟩ <;> rw [show (0 + k) / 4096 = 0 by omega] <;> decide

/-- HostMemoryCommandsMove: a range past the end, DRAM that is unusable, the last 64 bytes before the descriptor table, and a granule to wipe. -/
theorem witness_hostMemoryCommandsMove :
    (hostDev.fetches 0 = true ∧ (cmd 64 [0, 2]).aligned = true ∧ (cmd 64 [0, 2]).p64 0 = 2^33 ∧ hostDev.dramRegion (cmd 64 [0, 2]).owner (2^33) 64 = false ∧
      hostDev.stallsAt (2^33) 64 = false) ∧
    (hostDev.stallsAt (7 * 2^30 - 64) 64 = false ∧ peerDev.dramRegion none (7 * 2^30 - 64) 64 = true ∧ hostDev.dramRegion none (7 * 2^30 - 64) 64 = true ∧ (7 * 2^30 - 64) % 64 = 0 ∧ hostDev.dramDown = false ∧ hostDev.badCw = [] ∧
     (hostDev.setBit Reg.dramG_STATUS 1 true).dramDown = true ∧ (hostDev.setBit Reg.dramG_STATUS 1 true).dramRegion none (7 * 2^30 - 64) 64 = true) ∧
    ((cmd 0 [0x100000, 0, 0x100000, 0]).p64 0 % 2^20 = 0 ∧ (cmd 0 [0x100000, 0, 0x100000, 0]).p64 2 % 2^20 = 0 ∧
      hostDev.dramRegion none (2^20) (2^20) = true) := by
  refine ⟨?_, ?_, ?_⟩ <;> decide

/-- hostDev with some bytes of host memory. -/
def withHost (m : SMap Byte) : Dev := { hostDev with hostMem := m }

/-- SegmentsAndEnvelopesAreWritten: a descriptor of 64 constant samples for segment 65535; an envelope of one sample for number 4095 of every tile.
-/
theorem witness_segmentsAndEnvelopesAreWritten :
    (let d := withHost [(0, 2), (8, 64)]; let c := cmd 64 [0xFFFF]; d.fetches c.fn = true ∧ c.p 0 < 2^16 ∧ Dev.sees c.fn (d.segOwner (c.p 0)) = true ∧
      d.dramDown = false ∧ d.badCw = [] ∧
     c.aligned = true ∧ d.descOk (leWords (d.hostBytes 0 64)) = true ∧ d.segLocked (c.p 0) = false ∧ d.quiet ∧
     Dev.descReserved (Dev.sealDesc (d.desc (c.p 0)) (leWords (d.hostBytes 0 64)) c.owner) = true ∧ d.stallsAt (d.mm.descAt + 64 * c.p 0) 64 = false ∧
     d.stallsAt (dAddr (d.desc (c.p 0))) (dBytes (d.desc (c.p 0))) = false) ∧
    (let d := withHost [(8, 1)]; let c := cmd 12 [0x70FFF]; let n := leNat (d.hostBytes 0 8); c.p 0 < 2^19 ∧ bitsOf (c.p 0) 12 4 = 0 ∧
      bitsOf (c.p 0) 16 3 = 7 ∧ 8 ≤ c.len.toNat ∧
     c.len.toNat % 4 = 0 ∧ Dev.sees c.fn (d.envOwner (bitsOf (c.p 0) 0 12)) = true ∧ Dev.envEntryOk n = true ∧ bitsOf n 0 18 + (12 - 8) / 4 ≤ 253952 ∧
     ∀ t < 6, d.chOwner (16 * t) = c.owner ∧ d.envEntry t 4095 = 0 ∧ d.envBlocked t 4095 n 0 (d.hostBytes 8 4) = false) := by
  refine ⟨?_, ?_⟩ <;> decide

/-- ProgramsAndContextsAreWritten: a HALT and a NOP at the top of the store; an entry that fails its checks; a locked entry; a record for a FREE
context and one that is admitted. -/
theorem witness_programsAndContextsAreWritten :
    (let d := withHost [(16, 15)]; let c := cmd 32 [0xFFFFE]; d.fetches c.fn = true ∧ c.aligned = true ∧ c.len.toNat % 16 = 0 ∧ c.p 0 < 2^20 ∧
      c.p 0 + 32 / 16 ≤ 2^20 ∧
     ∀ i < 2, Dev.sees c.fn (d.progOwner (c.p 0 + i)) = true ∧ d.progLocked (c.p 0 + i) = false ∧
     d.entryOk c.owner (c.p 0 + i) (leNat (d.hostBytes (16 * i) 16)) = true) ∧
    (let d := withHost [(0, 13)]; ¬ d.entryOk none 0 (leNat (d.hostBytes 0 16)) = true) ∧
    (let d := { hostDev with adm := [(5, some ⟨[], [16], [], false⟩)] }; d.progLocked 16 = true) ∧
    (let d := withHost [(176, 1)]; let ws := (List.range 256).map (fun i => BitVec.ofNat 32 (leNat (d.hostBytes (4 * i) 4))); let c := cmd 1024 [10239, 1];
     c.p 0 < 10240 ∧ Dev.sees c.fn (d.ctxOwner (c.p 0)) = true ∧ c.p 1 ≤ 1 ∧ d.ctxState (c.p 0) ≤ 1 ∧ d.setOk (d.ctxOwner (c.p 0)) (Dev.chsetOf ws) = true) ∧
    (let ws := (List.range 256).map (fun i => BitVec.ofNat 32 (leNat (hostDev.hostBytes (4 * i) 4))); hostDev.setOk (hostDev.ctxOwner 5) (Dev.chsetOf ws) = false) ∧
    ((hostDev.setCtxW 5 0 9).ctxState 5 = 1 ∧ 1 < (hostDev.setCtxW 5 0 10).ctxState 5) := by
  refine ⟨?_, ?_, ?_, ?_, ?_, ?_⟩ <;> decide +kernel

/-- hostDev with context 5, which owns channel 0, in a state. -/
def ctxDev (st : Nat) : Dev := (hostDev.setCtxW 5 0 (BitVec.ofNat 32 (8 + st))).setCtxW 5 44 1

/-- ContextsAreAdmittedAndRun: RELEASE and CTX_START of an admitted context, on a given engine and on any, and beside a claim; CTX_STOP of a
running one. -/
theorem witness_contextsAreAdmittedAndRun :
    (let d := ctxDev 2; (cmd 0 [5, 63]).p 0 < 10240 ∧ Dev.sees 0 (d.ctxOwner 5) = true ∧ d.ctxState 5 = 2 ∧ d.dsafe = false ∧ (cmd 0 [5, 63]).p 1 = 63 ∧
      d.engIdle 63 = true ∧
     d.engOwner 63 = d.ctxRecOwner 5 ∧ Dev.sees 0 (d.engOwner 63) = true ∧ d.foreignChan 5 = none ∧ d.conflict 5 none = none ∧
     d.current (d.engOf 63).s0 5 = false ∧ d.current (d.engOf 63).s1 5 = false) ∧
    (let d := ctxDev 2; (cmd 0 [5, 64]).p 1 = 64 ∧ (d.engIdle 0 = true ∧ d.isSpare 0 = false ∧ d.engOwner 0 = d.ctxRecOwner 5)) ∧
    (let d := { ctxDev 2 with chan := [(0, { claim := some 6 })] }; d.foreignChan 5 = none ∧ d.conflict 5 none ≠ none) ∧
    (let d := { (ctxDev 2).wrN (Reg.part_STATE 0) 2 with ptab := [(0, 2)] }; d.ctxRecOwner 5 = none ∧ Dev.sees 0 (d.ctxOwner 5) = true ∧ d.foreignChan 5 ≠ none) ∧
    ((ctxDev 3).ctxState 5 = 3 ∧ (ctxDev 4).ctxState 5 = 4 ∧ (ctxDev 5).ctxState 5 = 5 ∧ (ctxDev 1).ctxState 5 < 2) ∧
    (let d := (ctxDev 3).setCtxW 5 0 0x430B; d.ctxState 5 = 3 ∧ d.ctxEng 5 = some 3 ∧ (cmd 0 [5, 1]).p 1 ≤ 1) ∧
    (let c := cmd 4 [0x100, 0, 32]; let d := withHost [(0, 5)]; 32 ≤ c.p 2 ∧ c.len.toNat % 4 = 0 ∧ c.len.toNat ≠ 0 ∧ c.len.toNat ≤ 1024 ∧ d.dsafe = false ∧
      d.dramDown = false ∧ d.stallsAt 0 d.ilBytes = false ∧ d.badCw = [] ∧ d.quiet ∧
     (d.admission c.owner [5]).status ≠ 0 ∧ ((ctxDev 1).admission c.owner [5]).status = 0) := by
  refine ⟨?_, ?_, ?_, ?_, ?_, ?_, ?_⟩ <;> decide +kernel

/-- The limits block defines partition 11 with no more than one engine. -/
def tableDev : Dev := { hostDev with ptab := [(176, 1 + 1 * 2^13)] }

/-- EnginesAndPartitionsChange: a command from a virtual function; engines that are idle, bound and retired; a bank; a capture; a partition to
create and one to destroy. -/
theorem witness_enginesAndPartitionsChange :
    (let c := cmd 0 [] 1; let d := { partDev hostDev with ptab := [] }; c.fn.val ≠ 0 ∧ d.fetches c.fn = true ∧
      d.stallsAt 0 d.ilBytes = false ∧ d.stallsAt d.mm.descAt (2^22) = false ∧ d.dmc = []) ∧
    ((cmd 0 [63]).p 0 < 64 ∧ hostDev.bit (Reg.eng_STATUS 63) 24 = false ∧ hostDev.engCtx 63 = none ∧
      (hostDev.setBit (Reg.eng_STATUS 63) 24 true).bit (Reg.eng_STATUS 63) 24 = true) ∧
    (let d := (ctxDev 3).setCtxW 5 0 0x430B |>.wrN (Reg.eng_STATUS 3) 0x4005; d.engCtx 3 = some 5 ∧ d.replacement 3 = some 0) ∧
    (let d := (List.range 63).foldl (fun (d : Dev) e => d.setBit (Reg.eng_STATUS (if e < 3 then e else e + 1)) 24 true) ((ctxDev 3).wrN (Reg.eng_STATUS 3) 0x4005); d.engCtx 3 = some 5 ∧ d.replacement 3 = none) ∧
    (let c := cmd 8 [63, 0x1FFF8]; c.p 1 % 8 = 0 ∧ c.len.toNat % 8 = 0 ∧ c.p 1 + c.len.toNat ≤ 0x20000 ∧ Dev.sees c.fn (hostDev.engOwner 63) = true) ∧
    (Dev.sees 0 (hostDev.mdOwner 5) = true ∧ hostDev.capState 5 ≠ 1 ∧ hostDev.capState 5 ≠ 2 ∧ (hostDev.capOf 5).target = 0 ∧
      hostDev.stallsAt 0 0 = false ∧ 5 + (if true then 256 else 0) = 261) ∧
    (let d := tableDev.setBit (Reg.eng_STATUS 63) 23 true; d.partDefined 11 = true ∧ d.partOn 11 = false ∧ d.dsafe = false ∧
      (∀ n < 96, d.grantsHalf 11 (n / 8) = true → d.isClaimed n = false) ∧
     d.partRegions 11 = [] ∧ d.askedEngines 11 = 1 ∧ d.askedEngines 11 ≤ (d.heldEngines 11).length + d.spareEngines.length ∧ d.ctx = []) ∧
    (let d := tableDev.wrN (Reg.part_STATE 11) 2; d.partOn 11 = true ∧ (cmd 0 [11, 1]).p 1 ≤ 1 ∧ d.dramDown = false ∧ d.badCw = [] ∧
      d.stallsAt d.mm.descAt (2^22) = false ∧ d.admitted = []) := by
  refine ⟨?_, ?_, ?_, ?_, ?_, ?_, ?_, ?_⟩ <;> decide +kernel

/-- A calibration set of tile 5 with one temperature point and every trim zero, as bytes of host memory. -/
def someSet : SMap Byte :=
  [(0, 67), (1, 67), (2, 65), (3, 76), (4, 1), (6, 5), (7, 1), (60, 30), (61, 202), (62, 66), (63, 167), (1660, 225), (1661, 121), (1662, 190), (1663, 173)]

/-- RepairsAndImagesAreCarriedOut: a freeze to end; a DMC with nothing to copy; a slot to program; a set of another form, and a valid one; microcode and
firmware of the other slot. -/
theorem witness_repairsAndImagesAreCarriedOut :
    ((let d := hostDev.setBit Reg.dramG_STATUS 0 true; d.frozen = true ∧ d.frzN ≤ 8 ∧ ∀ k < 6, (d.capOf k).fifo = []) ∧ hostDev.frozen = false ∧ hostDev.dsafe = false) ∧
    (let d := { hostDev with wiped := [] }; (cmd 0 [7]).p 0 < 8 ∧ d.dramDown = false ∧ (∀ o < 8, o ≠ 7 → d.outBit o = false ∧ d.dmcState o ≠ 1) ∧
      d.dmcState 7 = 0 ∧ d.outBit 7 = false ∧
     ceilDiv (d.unitsUsed 7) 7 ≤ d.mm.res * 2^18 ∧ d.spreadFails 7 = none ∧ d.wiped = [] ∧ d.moved = [] ∧
     d.stallsAt 0 d.ilBytes = false ∧ d.dmc = []) ∧
    (let c := cmd 256 [1, 0, 0]; c.p 0 ≤ 1 ∧ c.p 2 = 0 ∧ hostDev.slotWriteOk (c.p 0) (c.p 1) c.len.toNat false = true ∧ c.p 0 ≠ hostDev.bootSlot ∧
      hostDev.flashOk = true) ∧
    (setError 0 5 (hostDev.hostBytes 0 64) ≠ 0 ∧ setError 0 5 ((withHost someSet).hostBytes 0 1664) = 0) ∧
    (hostDev.swapBlocked = false ∧ SMap.get false [((1 : Nat), true)] (1 - hostDev.bootSlot) = true) ∧
    (504 ≤ (cmd 504 []).len.toNat ∧ (cmd 504 []).aligned = true) := by
  refine ⟨?_, ?_, ?_, ?_, ?_, ?_⟩ <;> decide +kernel

/-! ## The host interface, registers and the management port -/

/-- SQ 63 has one entry to fetch, a NOP with TAG 7 and serial 1, and CQ 63 is enabled. -/
def queueDev : Dev :=
  let d := (((hostDev.setBit (Reg.q_SQ_CTL 63) 0 true).setFld (Reg.q_SQ_CTL 63) 8 6 63).wrN (Reg.q_SQ_TAIL 63) 1).setBit (Reg.q_CQ_CTL 63) 0 true
  { d with hostMem := [(2, 7), (4, 1)] }

/-- The completion of a command. -/
def someCqe : Cqe := ⟨0, 63, 63, 7, 1, 0, 0, false, true⟩

/-- QueuesServeCommands: an entry to fetch, new, ended before, in progress, with its TAG in flight and with an old serial; a NOP to run; a
completion for a CQ with room and for a full one; signals; tails and heads at their limits. -/
theorem witness_queuesServeCommands :
    (let d := queueDev; d.fetchPick = some (63, 1) ∧ d.host.inflight = [] ∧ SMap.get [] d.host.serials 63 = [] ∧ SMap.get none d.host.newest 63 = none ∧
     bitsOf (leNat (d.hostBytes 0 4)) 10 6 = 0 ∧ leNat (d.hostBytes 20 4) = 0) ∧
    (let d := { queueDev with host := { queueDev.host with serials := [(63, [⟨1, some (0, 0)⟩])] } }; d.fetchPick = some (63, 1) ∧
     (SMap.get [] d.host.serials 63).find? (fun r => r.serial == 1) = some ⟨1, some (0, 0)⟩) ∧
    (let d := { queueDev with host := { queueDev.host with newest := [(63, some 1)] } }; d.fetchPick = some (63, 1) ∧ Dev.newerSerial 1 1 = false ∧
      Dev.newerSerial 1 0 = true) ∧
    (let x : InFlight := ⟨{ cmd 0 [] with sq := 63 }, 0, none, false⟩; let d := { queueDev with host := { queueDev.host with inflight := [x] } }; d.fetchPick = some (63, 1) ∧
     d.host.inflight.any (fun x => x.cmd.sq == 63 && x.cmd.tag == 7) = true ∧ x.ended = none ∧ x.dup = false ∧ x.cmd.opcode = 0) ∧
    (let d := { queueDev with host := { queueDev.host with cqes := [someCqe] } }; d.host.cqes.find? (fun e => e.cq == 63) = some someCqe ∧
      d.bit (Reg.q_CQ_CTL 63) 0 = true ∧
     d.cqFull 63 = false ∧ someCqe.tag < 2^16 ∧ someCqe.sq < 64 ∧ someCqe.status < 2^8 ∧ someCqe.serial < 2^32) ∧
    (let d := { queueDev.wrN (Reg.q_CQ_HEAD 63) 1 with host := { queueDev.host with cqes := [someCqe] } }; d.cqFull 63 = true) ∧
    (let d := { queueDev with host := { queueDev.host with unsig := [(63, 1)], evtPend := [(12, true)] } }; SMap.get 0 d.host.unsig 63 ≠ 0 ∧
      SMap.get false d.host.evtPend 12 = true) ∧
    (runDev.answers 0 (Reg.q_SQ_TAIL 63) (runDev.qOwner 63) ∧ runDev.answers 0 (Reg.q_CQ_HEAD 63) (runDev.qOwner 63) ∧
      runDev.answers 0 (Reg.q_SQ_CTL 63) (runDev.qOwner 63) ∧
     runDev.answers 0 (Reg.q_CQ_CTL 63) (runDev.qOwner 63)) := by
  refine ⟨?_, ?_, ?_, ?_, ?_, ?_, ?_, ?_⟩ <;> decide

/-- FunctionsAndWindowsWork: windows to write; the last 64 bytes of an enabled BAR2 window, and a window that is off. -/
theorem witness_functionsAndWindowsWork :
    (runDev.answers 12 (Reg.dmaw_CTL 15) (Dev.fnOwner 12) ∧ runDev.answers 12 (Reg.host_BAR2_WIN_HI 15) (Dev.fnOwner 12)) ∧
    (let d := { hostDev.wrN (Reg.host_BAR2_WIN_LO 15) 1 with mm := { il := 8, descAt := 2^30 } }; let off : BitVec 36 := 15 * 2^32 + 2^32 - 64#36; let b := Dev.fnKey 0 (Reg.host_BAR2_WIN_LO 15);
     d.barAwake = true ∧ off.toNat / 2^32 = 15 ∧ d.bit b 0 = true ∧ d.corrupt b 8 = false ∧ off.toNat % 2^32 + 64 ≤ 2^32 ∧
     d.dramRegion none (d.rdN b / 4096 * 4096 + d.rdN (b + 4) % 2^9 * 2^32 + off.toNat % 2^32) 64 = true ∧
     d.stallsAt (d.rdN b / 4096 * 4096 + d.rdN (b + 4) % 2^9 * 2^32 + off.toNat % 2^32) 64 = false ∧ d.dramDown = false ∧ d.badCw = []) ∧
    (hostDev.bit (Dev.fnKey 0 (Reg.host_BAR2_WIN_LO 15)) 0 = false) := by
  refine ⟨?_, ?_, ?_⟩ <;> decide

/-- RegistersTakeWrites: no command register busy, and no latched half; a flag register with its SEQ, and with another; an offset where no register lies;
STANDBY. -/
theorem witness_registersTakeWrites :
    (let d := runDev; d.standby = false ∧ d.bit Reg.sec_BOOT_CTL 0 = false ∧ d.bit Reg.sec_BOOT_CTL 1 = false ∧ d.bit Reg.sec_TOKEN_CTL 0 = false ∧
      SMap.get none d.latch (Dev.fnKey 12 (Reg.glob_SCRATCH 3)) = none ∧ { d with standby := true }.standby = true) ∧
    (let d := runDev.wrN (Reg.eng_EVENTS 63) 0x05000001; let a := Reg.eng_EVENTS 63; a % 4 = 0 ∧ a < 0x4000000 ∧ (locate a).map (fun x => x.2.1) = some 63 ∧
     (locate a).any (fun x => Dev.perFn x.1 x.2.2) = false ∧ (regRow a).any (fun x => x.rsq != 0) = true ∧ (locate a).any (fun x => (d.vis x.1 x.2.1 x.2.2).sees 0) = true ∧ d.awake a = true ∧
       (0x05000001#32).toNat / 2^24 = d.rdN a / 2^24 ∧
     (0x04000001#32).toNat / 2^24 ≠ d.rdN a / 2^24) ∧
    (regRow ((0x3FFFFFC#28).toNat / 4 * 4 % 0x4000000) = none) := by
  refine ⟨?_, ?_, ?_⟩ <;> decide

/-- ScrubAcknowledgeAndManage: a register with parity, before and after a mismatch, and a virtual function's copy of one; a head record and an ACK that matches it; SEC, SCRATCH and a
register that the port may not write. -/
theorem witness_scrubAcknowledgeAndManage :
    (let a := Reg.tin_SEL 0; a % 4 = 0 ∧ (locate a).any (fun x => (regRow a).any (fun y => hasParity x.1 x.2.2 y)) = true ∧
      SMap.get 0 runDev.parity a = 0 ∧ SMap.get 0 [(a, 1)] a ≠ 0) ∧
    (let a := Reg.glob_SCRATCH 3; (locate a).any (fun x => Dev.perFn x.1 x.2.2 && (regRow a).any (fun y => hasParity x.1 x.2.2 y)) = true ∧
      SMap.get 0 runDev.parity (Dev.fnKey 12 a) = 0 ∧ SMap.get 0 [(Dev.fnKey 12 a, 1)] (Dev.fnKey 12 a) ≠ 0) ∧
    (let r : FaultRec := { code := 1, id := 0xFFFF, also := 0xFF }; let d := { runDev with faults := [(13, [r])] }; d.answers 0 (Reg.faultQ_ACK 13) none ∧
      d.faultQ 13 = r :: [] ∧
     (0xFFFFFF#32).toNat % 2^16 = r.id ∧ (0xFFFFFF#32).toNat / 2^16 % 2^8 = r.also) ∧
    ((locate Reg.sec_STATUS).map (fun x => x.1) = some .sec ∧ mgmtMay Reg.sec_STATUS = false ∧ Reg.glob_SCRATCH 3 = (Reg.glob_SCRATCH 3) / 4 * 4 ∧
     SMap.get none runDev.latch (Dev.fnKey 14 (Reg.glob_SCRATCH 3)) = none ∧ runDev.corrupt 0 0x100 = false ∧ runDev.standby = false) ∧
    (bitsOf ((runDev.wrN Reg.pwr_WAKE 0x10000).pwrNow Reg.pwr_WAKE) 16 1 = 1 ∧ bitsOf ((runDev.wrN Reg.pwr_WAKE 0).pwrNow Reg.pwr_WAKE) 16 1 = 0) := by
  refine ⟨?_, ?_, ?_, ?_, ?_⟩ <;> decide

/-- EveryStepKeepsTheTrust: a step from reset. -/
theorem witness_everyStepKeepsTheTrust : ∃ t, step { State.reset with pending := [.extest true] } = .next t ∧ t.dev.extest = true := ⟨_, rfl, by decide⟩


/-! ## Terms that are no commands -/

/-- One ill-formed term for each check of WellFormed.lean. -/
theorem test_illFormed :
    (∀ n ∈ [0, 9, 11], Instr.wellFormed (.nop (cmd 0 (List.replicate n 0))) = false) ∧ Instr.wellFormed (.bar2Read 0 0 0) = false ∧
    Instr.wellFormed (.bar2Read 0 (BitVec.ofNat 36 (2^36 - 1)) 2) = false ∧ Instr.wellFormed (.bar2Write 0 0 []) = false ∧
    Instr.wellFormed (.mailboxWrite 0 0x3FFF [1, 2]) = false ∧ Instr.wellFormed (.unstampedPost 0 0x3FFF [1, 2]) = false ∧
    Instr.wellFormed (.stampedPost 0 0xFFFF [1, 2]) = false ∧ Instr.wellFormed (.registerWrite 0 2 (.write 1) 0) = false ∧
    Instr.wellFormed (.registerWrite 0 0 (.write 0) 0) = false ∧ Instr.wellFormed (.registerWrite 0 0 (.read 0) 0) = false ∧ Instr.wellFormed (.clearingWrite 0 1 0) = false ∧ Instr.wellFormed (.maskedWrite 0 3 0) = false ∧
    Instr.wellFormed (.mgmtRead (.reg 1)) = false ∧ Instr.wellFormed (.mgmtRead (.early 2)) = false ∧ Instr.wellFormed (.mgmtRead (.other 1)) = false ∧ Instr.wellFormed (.mgmtWrite 2 0) = false ∧ Instr.wellFormed (.dramRequest 0 0 0 false false [] 0) = false ∧
    Instr.wellFormed (.dramRequest 0 4032 128 false false [] 0) = false ∧ Instr.wellFormed (.dramRequest 0 0 64 true false [] 0) = false ∧
    Instr.wellFormed (.dramRequest 0 0 100 false false [] 0) = false ∧ Instr.wellFormed (.digitiserSample 0 [8192] false) = false ∧ Instr.wellFormed (.dimmReading 0 [some 32768]) = false ∧ Instr.wellFormed (.dimmReading 0 []) = false ∧
    Instr.wellFormed (.dimmReading 0 [none, none, none]) = false ∧
    Instr.wellFormed (.junctionReading (-32769)) = false ∧ Instr.wellFormed (.temperatureUpdate 0 [32768]) = false ∧ Instr.wellFormed (.temperatureUpdate 0 (List.replicate 11 0)) = false := by decide
theorem test_illFormedFrames : let f := someFrame 0x2F 0 0 0
    Instr.wellFormed (.topo 0 f) = false ∧ Instr.wellFormed (.timeSyncReceive 0 f) = false ∧ Instr.wellFormed (.eventFrame 0 f) = false ∧
    Instr.wellFormed (.resultFrame 0 f) = false ∧ Instr.wellFormed (.badType 0 (someFrame 0x30 0 0 0)) = false ∧ Instr.wellFormed (.nak 0 f) = false ∧
    Instr.wellFormed (.echoReq 0 f) = false ∧ Instr.wellFormed (.echoRsp 0 f 0 0) = false := by decide

/-! ## Effects, with values from the spec's worked examples -/

/-- The state after a command on a device and a guard. -/
def after (i : Instr) (d : Dev) (g : Guard := {}) : State :=
  match exec i { dev := d, guard := g } with
  | .next t => t
  | _ => {}

/-- R155's example: SETF of F01 of CH05 at 1,000,000,040 keeps the phase at 0.875 turn. -/
theorem test_setf : let a : FrAct := ⟨0, 0, 1, 0x0A0000000000, 0, 1000000040, 1000000040, true, 0⟩
    ((after (.setf 5 1) { runDev with time := { now := 1000000032 }, chan := [(5, { frActs := [a] })], frames := [(161, { freq := 0x0C0000000000 })] }).dev).frameOf 5 1 =
      ⟨0x0A0000000000, 0xE00000000000, 1000000040, 0⟩ := by decide

/-- The chirp's example: CHOFF 10,000 tDC after a SETC with rate 2^20. The frequency is the example's sum 2^44 + 2^20 × 10,000, which it prints with
its digits shifted (log entry 9). -/
theorem test_choff : let a : FrAct := ⟨0, 4, 2, 0, 0, 10160, 10160, true, 0⟩
    ((after (.choff 5 2) { runDev with time := { now := 10160 }, chan := [(5, { frActs := [a] })], frames := [(162, ⟨2^44, 0, 160, 2^20⟩)] }).dev).frameOf 5 2 =
      ⟨2^44 + 2^20 * 10000, 0x2FADCF800000, 10160, 0⟩ := by decide

/-- R6's example: 0x0300_0001 clears flag 0 under SEQ 3 and is stale under SEQ 4. -/
theorem test_clearingWrite : let a := Reg.eng_EVENTS 7
    (after (.clearingWrite 0 (BitVec.ofNat 28 a) 0x03000001) (runDev.wrN a 0x03000005)).dev.rdN a = 0x03000004 ∧
    (after (.clearingWrite 0 (BitVec.ofNat 28 a) 0x03000001) (runDev.wrN a 0x04000005)).dev.rdN a = 0x04000005 := by decide

/-- R7's example: 0x0004_0004 at the low alias sets bit 2 alone. -/
theorem test_maskedWrite : (after (.maskedWrite 0 0x4000080 0x00040004) (runDev.wrN (Reg.glob_SCRATCH 0) 0xA0)).dev.rdN (Reg.glob_SCRATCH 0) = 0xA4 := by decide

/-- Chapter 15's example, step 3: the upper half of GUARD_CLAMP of CH37 takes 0x6800, and 0x7800 is refused. -/
theorem test_guardClamp : let g : Guard := { ch := [(37, { sealLo := -28672, sealHi := 28672, lo := -28672, hi := 24576 })] }
    ((after (.registerWrite 0 0xA15000 (.write 0xC) 0x68000000) runDev g).guard.of 37).hi = 26624 ∧
    ((after (.registerWrite 0 0xA15000 (.write 0xC) 0x78000000) runDev g).guard.of 37).hi = 24576 := by decide

/-- R356's examples at 100 MHz: the sets for 5.0, 4.0625, 3.3 and 2.875 GS/s, and ρ of the second. -/
theorem test_dividerSets :
    (DivSet.ok ⟨1, 200 * 2^32, 4⟩ 100000 = true ∧ DivSet.fdc ⟨1, 200 * 2^32, 4⟩ 100000 = 5000000) ∧
    (DivSet.ok ⟨1, 162 * 2^32 + 2^31, 4⟩ 100000 = true ∧ DivSet.fdc ⟨1, 162 * 2^32 + 2^31, 4⟩ 100000 = 4062500) ∧
    (DivSet.ok ⟨1, 132 * 2^32, 4⟩ 100000 = true ∧ DivSet.fdc ⟨1, 132 * 2^32, 4⟩ 100000 = 3300000) ∧
    (DivSet.ok ⟨1, 115 * 2^32, 4⟩ 100000 = true ∧ DivSet.fdc ⟨1, 115 * 2^32, 4⟩ 100000 = 2875000) ∧
    DivSet.rho ⟨1, 162 * 2^32 + 2^31, 4⟩ = 0x28A0000000 := by decide

/-- Chapter 7's power limit of 0x0800_0000, the mean square of 11,585.2 LSB, in blocks of 256 codes: a block of codes 11,584 passes, and one of 23,170
awaits its trip. -/
theorem test_trip : let g : Guard := { ch := [(0, { pwr := 0x08000000 })] }
    let trips (code : Int) : List Nat := match step { dev := { runDev.wrN (Reg.chn_CFG 0) 2 with
        time := { now := 2544, refOk := true }, chan := [(0, { code := code, path := code, pwrBlk := 2304, pwrSum := 240 * code.natAbs^2 })] }, guard := g } with
      | .next t => (t.dev.chanOf 0).trips
      | _ => []
    trips 23170 = [2560] ∧ trips 11584 = [] := by
  decide +kernel

/-- The example of LOAD_N: an edge stamped 7,000,000,003 with LAT = 400 loads at 7,000,000,403. -/
theorem test_loadN : let d := { (runDev.setBit (Reg.lg_CFG 2) 0 true).wrN (Reg.lg_LAT 2) 400 with time := { now := 7000000000 } }
    ((after (.loadN 3) d).dev.tinOf 402).acts.map (fun a => a.time) = [7000000403] := by decide +kernel

/-- Chapter 12's example: OFS of 400 at 25 °C and 480 at 45 °C is 6,912 at 33 °C and 7,136 at 36.5 °C, in 1/16 unit. -/
theorem test_interpolate : let s : List Byte := List.replicate 7 0 ++ [2] ++ List.replicate 56 0 ++ [0x90, 1] ++ List.replicate 1598 0 ++ [0xD0, 2]
    let ofs (i : Nat) : Int := if i = 0 then 400 else 480
    interpolate s 528 ofs = 6912 ∧ interpolate s 584 ofs = 7136 := by decide +kernel

/-- CRC-32C's published check value (log entry 5). -/
theorem test_crc32c : crc32c [0x31, 0x32, 0x33, 0x34, 0x35, 0x36, 0x37, 0x38, 0x39] = 0xE3069283 := by decide +kernel

/-- SHA-512 of "abc" (FIPS 180-4). -/
theorem test_sha512 : Crypto.sha512 [0x61, 0x62, 0x63] = Crypto.toBe 0xDDAF35A193617ABACC417349AE20413112E6FA4E89A97EA20A9EEEE64B55D39A2192992A274FC1A836BA3C23A3FEEBBD454D4423643CE80E2A9AC94FA54CA49F 64 := by
  decide +kernel

/-- The first test of RFC 8032: the public key, and the signature of the empty message. -/
theorem test_ed25519 : Crypto.ed25519Public someSeed = somePub ∧
    Crypto.ed25519Sign someSeed [] = wordBytes [0x004356E5, 0x72AC60C3, 0xCCE28690, 0x8A826E80, 0x1E7F8784, 0x74D9E5B8, 0x65E073D8, 0x55014922,
      0x1582B85F, 0xAC3BA390, 0x70391EC6, 0x6BB4F91C, 0xF0F55BD2, 0x24BE5B59, 0x43415165, 0x0B107A8E] := by decide +kernel

/-- REG at an engine: X1 = X2 - IMM wraps, the PC advances, and nothing is launched. -/
theorem test_reg : let d := (after (.reg 3) (boundDev [0x1006, 0x1021, 0, 1] [(14, 0)])).dev
    d.xReg 5 1 = 0xFFFFFFFF ∧ d.ctxPc 5 = 17 := by decide

/-- The switch of a context on a step of the whole block: the command in front is carried out and the queue's rest stays. -/
theorem test_step : (match step { dev := boundDev [0], pending := [.halt 3, .tbAnchor] } with
    | .next t => decide (t.pending = [.tbAnchor]) && t.dev.ctxState 5 == 4
    | _ => false) = true := by decide

/-- The host's probe leaves a state as it is: no row of the table has bits. -/
theorem test_withFetchWord (s : State) : s.withFetchWord 32 0 = s := rfl
end

/-! PROOFS. Sequence entries (chapter 4): LOOP and NEXT, and BR. An entry that issues is either retired or raises an exception
(`issue_of_issues`); the rules below say with one equation per entry which of the two it does, and what the parts of the context's
record hold afterwards. -/
namespace Sys2Proof.Machine

/-! ## A command that changes the device alone -/

theorem State.runs_of_onDev {s : State} {i : Instr} {f : Dev → Dev} {d' : Dev} {post : Dev → Prop} (hexec : exec i s = s.onDev f)
    (hdev : f s.dev = d') (hpost : post d') : s.runs i post :=
  ⟨{ s with dev := f s.dev }, hexec, ⟨rfl, rfl, rfl⟩, hdev ▸ hpost⟩

theorem State.excepts_of_raiseExc {s : State} {i : Instr} {f : Dev → Dev} {e c code detail : Nat} (hexec : exec i s = s.onDev f)
    (hdev : f s.dev = s.dev.raiseExc e c code detail) (hcode : code < 256) : s.excepts i c code := by
  obtain ⟨hstate, hrec, hword, hlaunch⟩ := Dev.raiseExc_spec s.dev e c code detail hcode
  exact State.runs_of_onDev hexec hdev ⟨hstate, hrec, by rw [Dev.ctxPc, Dev.ctxFld, hword], hlaunch⟩

theorem exec_loop (e : Fin 64) (s : State) : exec (.loop e) s = s.onDev (loopD e) := rfl
theorem exec_next (e : Fin 64) (s : State) : exec (.next e) s = s.onDev (nextD e) := rfl
theorem exec_br (e : Fin 64) (s : State) : exec (.br e) s = s.onDev (brD e) := rfl

theorem ent_lt (n w lo k : Nat) : ent n w lo k < 2^k := bitsOf_lt ..

namespace Dev

theorem ctxFld_lt (d : Dev) (c w lo n : Nat) : d.ctxFld c w lo n < 2^n := bitsOf_lt ..

theorem ctx64_congr {d d' : Dev} {c w : Nat} (hlow : d'.ctxW c w = d.ctxW c w) (hhigh : d'.ctxW c (w + 1) = d.ctxW c (w + 1)) :
    d'.ctx64 c w = d.ctx64 c w := by
  rw [ctx64, ctx64, hlow, hhigh]

theorem retireEntry_ei (d : Dev) (e c pc : Nat) (slot : Bool) (h : pc < 2^20) : (d.retireEntry e c pc slot).ei = d.ei := by
  have hin : ¬ 2^20 ≤ pc := by omega
  simp only [retireEntry, hin, false_and, if_false, updEng_ei, setBit_ei, addSat64_ei, setCtxFld_ei]

/-- What a retired entry shows of its context: the next PC, the loop stack's depth and every word but that of the PC. -/
theorem retireEntry_record (d : Dev) (e c pc : Nat) (slot : Bool) (h : pc < 2^20) :
    (d.retireEntry e c pc slot).ctxPc c = pc ∧ (d.retireEntry e c pc slot).ctxFld c 2 20 4 = d.ctxFld c 2 20 4 ∧
      ∀ w, w ≠ 2 → (d.retireEntry e c pc slot).ctxW c w = d.ctxW c w :=
  ⟨retireEntry_ctxPc _ _ _ _ _ h, retireEntry_ctxFld2 _ _ _ _ _ _ _ h le_rfl, fun _ hw => retireEntry_ctxW _ _ _ _ _ _ h hw.symm⟩

theorem retireEntry_isHeld (d : Dev) (e c pc : Nat) (slot : Bool) (h : pc < 2^20) : (d.retireEntry e c pc slot).isHeld c = d.isHeld c := by
  rw [isHeld, isHeld, retireEntry_ctxFld2 _ _ _ _ _ _ _ h (by omega)]

theorem retireEntry_ctx64 (d : Dev) (e c pc : Nat) (slot : Bool) {w : Nat} (h : pc < 2^20) (hw : 2 < w) :
    (d.retireEntry e c pc slot).ctx64 c w = d.ctx64 c w :=
  ctx64_congr (retireEntry_ctxW _ _ _ _ _ _ h (by omega)) (retireEntry_ctxW _ _ _ _ _ _ h (by omega))

/-! ## The loop stack (R103) -/

/-- The depth of a context's loop stack replaced, and the rest of its word 2 kept. -/
def setDepth (d : Dev) (c k : Nat) : Dev := d.setCtxFld c 2 20 4 k

@[simp] theorem setDepth_ei (d : Dev) (c k : Nat) : (d.setDepth c k).ei = d.ei := setCtxFld_ei ..

theorem setDepth_depth (d : Dev) (c k : Nat) (h : k < 16) : (d.setDepth c k).ctxFld c 2 20 4 = k :=
  (ctxFld_setCtxFld_same _ _ _ _ _ _ (by omega)).trans (Nat.mod_eq_of_lt h)

/-- A context whose loop stack loses `k` levels; the stack of `d` and that of `d'`, which takes the depth, may differ. -/
theorem setDepth_fewer (d d' : Dev) (c k : Nat) : (d'.setDepth c (d.ctxFld c 2 20 4 - k)).ctxFld c 2 20 4 = d.ctxFld c 2 20 4 - k :=
  setDepth_depth _ _ _ ((Nat.sub_le _ _).trans_lt (d.ctxFld_lt c 2 20 4))

theorem setDepth_ctxW (d : Dev) (c k : Nat) {w : Nat} (h : 2 ≠ w) : (d.setDepth c k).ctxW c w = d.ctxW c w :=
  ctxW_setCtxFld_other d c _ _ _ h

theorem setDepth_ctxFld (d : Dev) (c k : Nat) {w : Nat} (lo n : Nat) (h : 2 ≠ w) : (d.setDepth c k).ctxFld c w lo n = d.ctxFld c w lo n :=
  ctxFld_setCtxFld_ne d c _ _ _ _ _ h

theorem setDepth_ctxFld_above (d : Dev) (c k lo n : Nat) (h : 24 ≤ lo) : (d.setDepth c k).ctxFld c 2 lo n = d.ctxFld c 2 lo n :=
  ctxFld_setCtxFld_other _ _ _ _ _ _ _ _ (by omega) (by omega)

/-- A level of `cnt` passes that return to the address behind the PC, pushed on a context's loop stack. -/
def pushLevel (d : Dev) (c cnt : Nat) : Dev :=
  let depth := d.ctxFld c 2 20 4
  ((d.setCtxW c (28 + 2 * depth) (BitVec.ofNat 32 cnt)).setCtxFld c (29 + 2 * depth) 0 20 (d.ctxPc c + 1)).setDepth c (depth + 1)

section pushLevel
variable (d : Dev) (c cnt : Nat)

theorem pushLevel_depth (h : d.ctxFld c 2 20 4 < 8) : (d.pushLevel c cnt).ctxFld c 2 20 4 = d.ctxFld c 2 20 4 + 1 :=
  setDepth_depth _ _ _ (by omega)

theorem pushLevel_count (h : cnt < 2^32) : ((d.pushLevel c cnt).ctxW c (28 + 2 * d.ctxFld c 2 20 4)).toNat = cnt := by
  rw [pushLevel, setDepth_ctxW _ _ _ (by omega), ctxW_setCtxFld_other _ _ _ _ _ (by omega), ctxW_setCtxW_same, BitVec.toNat_ofNat,
    Nat.mod_eq_of_lt h]

theorem pushLevel_return (h : d.ctxPc c + 1 < 2^20) :
    (d.pushLevel c cnt).ctxFld c (29 + 2 * d.ctxFld c 2 20 4) 0 20 = d.ctxPc c + 1 := by
  rw [pushLevel, setDepth_ctxFld _ _ _ _ _ (by omega), ctxFld_setCtxFld_same _ _ _ _ _ _ (by omega), Nat.mod_eq_of_lt h]

theorem pushLevel_ctxW {w : Nat} (hdepth : 2 ≠ w) (hcnt : 28 + 2 * d.ctxFld c 2 20 4 ≠ w) (hret : 29 + 2 * d.ctxFld c 2 20 4 ≠ w) :
    (d.pushLevel c cnt).ctxW c w = d.ctxW c w := by
  rw [pushLevel, setDepth_ctxW _ _ _ hdepth, ctxW_setCtxFld_other _ _ _ _ _ hret, ctxW_setCtxW_other _ _ _ hcnt]

end pushLevel

/-! ## What LOOP and NEXT do at issue (R103) -/

/-- The passes that the LOOP at the PC of context `c` asks for: those of its register, or of its COUNT field. -/
def loopCount (d : Dev) (c : Nat) : Nat :=
  if ent (d.entryOf c) 0 11 1 = 1 then (d.xReg c (ent (d.entryOf c) 1 0 4)).toNat else ent (d.entryOf c) 3 0 32

theorem loopCount_lt (d : Dev) (c : Nat) : d.loopCount c < 2^32 := by
  unfold loopCount
  split
  · exact BitVec.isLt _
  · exact ent_lt ..

theorem loopD_of_issues {d : Dev} {e : Fin 64} {c : Nat} (h : d.issues e c 3) :
    loopD e d =
      if d.loopCount c = 0 then d.retireEntry e c (ent (d.entryOf c) 0 12 20 + 1) true
      else if d.ctxFld c 2 20 4 = 8 then d.raiseExc e c 3 0
      else (d.pushLevel c (d.loopCount c)).retireEntry e c (d.ctxPc c + 1) true := by
  rw [loopD, issue_of_issues h]
  unfold loopCount entryOf
  dsimp only
  split_ifs <;> rfl

/-- The word of the top level's remaining count, where the stack is not empty. -/
def topWord (d : Dev) (c : Nat) : Nat := 28 + 2 * (d.ctxFld c 2 20 4 - 1)

/-- One pass fewer remains on the top level. -/
def countDown (d : Dev) (c : Nat) : Dev := d.setCtxW c (d.topWord c) (BitVec.ofNat 32 ((d.ctxW c (d.topWord c)).toNat - 1))

theorem countDown_count (d : Dev) (c : Nat) :
    ((d.countDown c).ctxW c (d.topWord c)).toNat = (d.ctxW c (d.topWord c)).toNat - 1 := by
  have hfits : (d.ctxW c (d.topWord c)).toNat - 1 < 2^32 := (Nat.sub_le _ _).trans_lt (BitVec.isLt _)
  rw [countDown, ctxW_setCtxW_same, BitVec.toNat_ofNat, Nat.mod_eq_of_lt hfits]

theorem countDown_depth (d : Dev) (c : Nat) : (d.countDown c).ctxFld c 2 20 4 = d.ctxFld c 2 20 4 :=
  ctxFld_setCtxW_ne _ _ _ _ _ (by unfold topWord; omega)

theorem countDown_ctxW (d : Dev) (c : Nat) {w : Nat} (h : d.topWord c ≠ w) : (d.countDown c).ctxW c w = d.ctxW c w :=
  ctxW_setCtxW_other _ _ _ h

theorem nextD_of_issues {d : Dev} {e : Fin 64} {c : Nat} (h : d.issues e c 4) :
    nextD e d =
      if d.ctxFld c 2 20 4 = 0 then d.raiseExc e c 4 0
      else if 1 < (d.ctxW c (d.topWord c)).toNat then (d.countDown c).retireEntry e c (d.ctxFld c (d.topWord c + 1) 0 20) true
      else (d.setDepth c (d.ctxFld c 2 20 4 - 1)).retireEntry e c (d.ctxPc c + 1) true := by
  rw [nextD, issue_of_issues h]
  unfold countDown topWord
  dsimp only
  split_ifs <;> rfl

/-! ## The release that a BR takes (R95) -/

section takeRelease
variable (d : Dev) (e c k : Nat) (l : Latch)

theorem takeRelease_ei : (d.takeRelease e c k l).ei = SMap.set none d.ei (e * 4 + k) none := by
  simp only [takeRelease, setCtxFld_ei, setCtx64_ei, wrN_ei]

theorem takeRelease_isHeld : (d.takeRelease e c k l).isHeld c = true := by
  unfold takeRelease isHeld
  dsimp only
  repeat rw [ctxFld_setCtxFld_other _ _ _ _ _ _ _ _ (by omega) (by omega)]
  rw [ctxFld_setCtxFld_same _ _ _ _ _ _ (by omega)]
  rfl

theorem takeRelease_input (h : k < 4) : (d.takeRelease e c k l).ctxFld c 2 26 2 = k := by
  unfold takeRelease
  dsimp only
  repeat rw [ctxFld_setCtxFld_other _ _ _ _ _ _ _ _ (by omega) (by omega)]
  rw [ctxFld_setCtxFld_same _ _ _ _ _ _ (by omega)]
  omega

theorem takeRelease_stamp (h : l.stamp < 2^64) : (d.takeRelease e c k l).ctx64 c 6 = l.stamp := by
  unfold takeRelease
  dsimp only
  repeat rw [ctx64_congr (ctxW_setCtxFld_other _ _ _ _ _ (by omega)) (ctxW_setCtxFld_other _ _ _ _ _ (by omega))]
  exact ctx64_setCtx64_same _ _ _ _ h

end takeRelease

/-! ## What BR does at issue (R100, R102) -/

theorem cmpHolds_iff_compares (cmp : Nat) (a b : Word) : cmpHolds cmp a b = true ↔ compares cmp a b := by
  unfold cmpHolds compares
  split <;> simp [BitVec.slt, BitVec.ult]

/-- The condition of the BR at the PC of context `c` on engine `e`, as the engine computes it. -/
def brCond (d : Dev) (e c : Nat) : Bool :=
  let n := d.entryOf c
  let k := ent n 1 20 2
  let b := if ent n 1 28 1 = 1 then BitVec.ofNat 32 (ent n 3 0 32) else d.xReg c (ent n 1 24 4)
  match ent n 0 11 3 with
  | 0 => true
  | 1 => (SMap.get none d.ei (e * 4 + k)).isSome
  | 2 => d.isHeld c && d.ctxFld c 2 31 1 == 0 && d.ctxFld c 2 26 2 == k
  | 3 => cmpHolds (ent n 0 14 3) (d.xReg c (ent n 1 20 4)) b
  | _ => cmpHolds (ent n 0 14 3) (SMap.get 0 d.mailbox (ent n 0 20 12) &&& BitVec.ofNat 32 (ent n 2 0 32)) b

theorem brCond_iff_brHolds (d : Dev) (e c : Nat) : d.brCond e c = true ↔ d.brHolds e c := by
  unfold brCond brHolds
  dsimp only
  generalize ent (d.entryOf c) 0 11 3 = kind
  match kind with
  | 0 => simp
  | 1 => simp [Option.isSome_iff_ne_none]
  | 2 => simp [and_assoc]
  | 3 => exact cmpHolds_iff_compares ..
  | _ + 4 => exact cmpHolds_iff_compares ..

/-- The event input that the BR at the PC of context `c` names. -/
def brInput (d : Dev) (c : Nat) : Nat := ent (d.entryOf c) 1 20 2

/-- The device of a BR that jumps: a condition on an event input that has latched a firing consumes it (R95), any other consumes nothing. -/
def brConsumed (d : Dev) (e c : Nat) : Dev :=
  match ent (d.entryOf c) 0 11 3, SMap.get none d.ei (e * 4 + d.brInput c) with
  | 1, some l => d.takeRelease e c (d.brInput c) l
  | _, _ => d

theorem brInput_latched_of_brHolds {d : Dev} {e c : Nat} (hck : ent (d.entryOf c) 0 11 3 = 1) (h : d.brHolds e c) :
    ∃ l, SMap.get none d.ei (e * 4 + d.brInput c) = some l := by
  unfold brHolds at h
  dsimp only at h
  rw [hck] at h
  exact Option.ne_none_iff_exists'.mp h

theorem brConsumed_of_latched {d : Dev} {e c : Nat} {l : Latch} (hck : ent (d.entryOf c) 0 11 3 = 1)
    (hl : SMap.get none d.ei (e * 4 + d.brInput c) = some l) : d.brConsumed e c = d.takeRelease e c (d.brInput c) l := by
  unfold brConsumed
  rw [hck, hl]
  rfl

theorem brConsumed_of_ne {d : Dev} {e c : Nat} (hck : ent (d.entryOf c) 0 11 3 ≠ 1) : d.brConsumed e c = d := by
  unfold brConsumed
  split
  · contradiction
  · rfl

/-- The device of a BR that jumps, before its bookkeeping: the release is consumed, and POP levels are popped. -/
def brJumped (d : Dev) (e c : Nat) : Dev := (d.brConsumed e c).setDepth c (d.ctxFld c 2 20 4 - ent (d.entryOf c) 0 17 3)

theorem brJumped_depth (d : Dev) (e c : Nat) : (d.brJumped e c).ctxFld c 2 20 4 = d.ctxFld c 2 20 4 - ent (d.entryOf c) 0 17 3 :=
  setDepth_fewer ..

theorem brJumped_of_ne {d : Dev} {e c : Nat} (hck : ent (d.entryOf c) 0 11 3 ≠ 1) :
    (d.brJumped e c).ei = d.ei ∧ ∀ w, w ≠ 2 → (d.brJumped e c).ctxW c w = d.ctxW c w := by
  rw [brJumped, brConsumed_of_ne hck]
  exact ⟨setDepth_ei .., fun w hw => setDepth_ctxW _ _ _ hw.symm⟩

theorem brJumped_of_latched {d : Dev} {e c : Nat} {l : Latch} (hck : ent (d.entryOf c) 0 11 3 = 1)
    (hl : SMap.get none d.ei (e * 4 + d.brInput c) = some l) :
    SMap.get none (d.brJumped e c).ei (e * 4 + d.brInput c) = none ∧ (d.brJumped e c).isHeld c = true ∧
      (d.brJumped e c).ctxFld c 2 26 2 = d.brInput c ∧ (l.stamp < 2^64 → (d.brJumped e c).ctx64 c 6 = l.stamp) := by
  rw [brJumped, brConsumed_of_latched hck hl]
  refine ⟨?_, ?_, ?_, fun hstamp => ?_⟩
  · rw [setDepth_ei, takeRelease_ei, SMap.get_set_same]
  · rw [isHeld, setDepth_ctxFld_above _ _ _ _ _ le_rfl]
    exact takeRelease_isHeld ..
  · rw [setDepth_ctxFld_above _ _ _ _ _ (by omega), takeRelease_input _ _ _ _ _ (ent_lt ..)]
  · rw [ctx64_congr (setDepth_ctxW _ _ _ (by omega)) (setDepth_ctxW _ _ _ (by omega)), takeRelease_stamp _ _ _ _ _ hstamp]

theorem brD_of_issues {d : Dev} {e : Fin 64} {c : Nat} (h : d.issues e c 5) :
    brD e d =
      if d.brCond e c = true then
        if d.ctxFld c 2 20 4 < ent (d.entryOf c) 0 17 3 then d.raiseExc e c 4 0
        else (d.brJumped e c).retireEntry e c (ent (d.entryOf c) 1 0 20) (!(d.engOf e).released)
      else d.retireEntry e c (d.ctxPc c + 1) (!(d.engOf e).released) := by
  rw [brD, issue_of_issues h]
  change (match (if !d.brCond e c then .ok (after (d.ctxPc c), d) else if d.ctxFld c 2 20 4 < ent (d.entryOf c) 0 17 3 then .error (4, 0)
    else .ok (ent (d.entryOf c) 1 0 20, d.brJumped e c) : Issued) with
    | .error (code, detail) => d.raiseExc e c code detail
    | .ok (next, d') => d'.retireEntry e c next (!(d.engOf e).released)) = _
  cases d.brCond e c
  case false => rfl
  case true =>
    simp only [Bool.not_true, Bool.false_eq_true, if_false, if_true]
    split_ifs <;> rfl

end Dev

/-- Settles O2: an issued LOOP skips, overflows or pushes (`loopD_of_issues`), and an issued NEXT underflows, goes round or pops
(`nextD_of_issues`). -/
theorem loopAndNext : Obligations.LoopAndNext := by
  unfold Obligations.LoopAndNext
  intro s e c d n depth cnt top
  refine ⟨fun hissue => ?_, fun hissue => ?_⟩
  · have hloop := Dev.loopD_of_issues hissue
    refine ⟨fun hcnt hend => ?skip, fun hcnt hdepth => ?full, fun hcnt hdepth hnext => ?push⟩
    case skip =>
      rw [if_pos (show d.loopCount c = 0 from hcnt)] at hloop
      exact State.runs_of_onDev (exec_loop e s) hloop (Dev.retireEntry_record _ _ _ _ _ hend)
    case full =>
      rw [if_neg (show ¬ d.loopCount c = 0 from hcnt), if_pos hdepth] at hloop
      exact State.excepts_of_raiseExc (exec_loop e s) hloop (by omega)
    case push =>
      rw [if_neg (show ¬ d.loopCount c = 0 from hcnt), if_neg (show ¬ d.ctxFld c 2 20 4 = 8 from hdepth.ne)] at hloop
      obtain ⟨hpc, hstack, hword⟩ := Dev.retireEntry_record (d.pushLevel c (d.loopCount c)) e c _ true hnext
      refine State.runs_of_onDev (exec_loop e s) hloop ⟨hpc, ?_, ?_, ?_, fun w hw hcw hrw => ?_⟩
      · rw [hstack, Dev.pushLevel_depth _ _ _ hdepth]
      · rw [hword _ (by omega)]
        exact Dev.pushLevel_count _ _ _ (d.loopCount_lt c)
      · rw [Dev.ctxFld, hword _ (by omega)]
        exact Dev.pushLevel_return _ _ _ hnext
      · rw [hword w hw, Dev.pushLevel_ctxW _ _ _ hw.symm hcw.symm hrw.symm]
  · have hnext := Dev.nextD_of_issues hissue
    refine ⟨fun hdepth => ?empty, fun hlow _ htop => ?again, fun hlow _ htop hafter => ?pop⟩
    case empty =>
      rw [if_pos hdepth] at hnext
      exact State.excepts_of_raiseExc (exec_next e s) hnext (by omega)
    case again =>
      rw [if_neg (show ¬ d.ctxFld c 2 20 4 = 0 by omega), if_pos (show 1 < (d.ctxW c (d.topWord c)).toNat from htop)] at hnext
      obtain ⟨hpc, hstack, hword⟩ := Dev.retireEntry_record (d.countDown c) e c _ true (d.ctxFld_lt c (top + 1) 0 20)
      exact State.runs_of_onDev (exec_next e s) hnext ⟨hpc, hstack.trans (Dev.countDown_depth ..),
        (congrArg BitVec.toNat (hword top (by omega))).trans (Dev.countDown_count ..),
        fun w hw htw => (hword w hw).trans (Dev.countDown_ctxW _ _ htw.symm)⟩
    case pop =>
      rw [if_neg (show ¬ d.ctxFld c 2 20 4 = 0 by omega), if_neg (show ¬ 1 < (d.ctxW c (d.topWord c)).toNat from htop.not_gt)] at hnext
      obtain ⟨hpc, hstack, hword⟩ := Dev.retireEntry_record (d.setDepth c (depth - 1)) e c _ true hafter
      exact State.runs_of_onDev (exec_next e s) hnext ⟨hpc, hstack.trans (Dev.setDepth_fewer ..),
        fun w hw => (hword w hw).trans (Dev.setDepth_ctxW _ _ _ hw.symm)⟩

/-- Settles O3: an issued BR goes on, underflows or jumps (`brD_of_issues`), and a jump on an event input keeps the release it consumed through
the depth and the PC that are written after it (`brJumped_of_latched`). -/
theorem brJumps : Obligations.BrJumps := by
  unfold Obligations.BrJumps
  intro s e c hissue d n depth k
  have hbr := Dev.brD_of_issues hissue
  refine ⟨fun hcond hnext => ?goesOn, fun hcond hpop => ?underflow, fun hcond hpop => ?jump⟩
  case goesOn =>
    rw [if_neg (mt (d.brCond_iff_brHolds e c).mp hcond)] at hbr
    obtain ⟨hpc, hstack, hword⟩ := Dev.retireEntry_record d e c _ (!(d.engOf e).released) hnext
    exact State.runs_of_onDev (exec_br e s) hbr ⟨hpc, hstack, Dev.retireEntry_ei _ _ _ _ _ hnext, hword⟩
  case underflow =>
    rw [if_pos ((d.brCond_iff_brHolds e c).mpr hcond), if_pos hpop] at hbr
    exact State.excepts_of_raiseExc (exec_br e s) hbr (by omega)
  case jump =>
    rw [if_pos ((d.brCond_iff_brHolds e c).mpr hcond), if_neg (show ¬ d.ctxFld c 2 20 4 < ent (d.entryOf c) 0 17 3 from hpop.not_gt)] at hbr
    have htarget := ent_lt n 1 0 20
    obtain ⟨hpc, hstack, hword⟩ := Dev.retireEntry_record (d.brJumped e c) e c _ (!(d.engOf e).released) htarget
    have hei := Dev.retireEntry_ei (d.brJumped e c) e c _ (!(d.engOf e).released) htarget
    refine State.runs_of_onDev (exec_br e s) hbr ⟨hpc, hstack.trans (Dev.brJumped_depth ..), fun hck => ?_, fun hck => ?_⟩
    · obtain ⟨hkeepEi, hkeepW⟩ := Dev.brJumped_of_ne (e := e) hck
      exact ⟨hei.trans hkeepEi, fun w hw => (hword w hw).trans (hkeepW w hw)⟩
    · obtain ⟨l, hl⟩ := Dev.brInput_latched_of_brHolds hck hcond
      obtain ⟨hempty, hheld, hinput, hrs⟩ := Dev.brJumped_of_latched hck hl
      refine ⟨hei ▸ hempty, (Dev.retireEntry_isHeld _ _ _ _ _ htarget).trans hheld,
        (Dev.retireEntry_ctxFld2 _ _ _ _ _ _ _ htarget (by omega)).trans hinput, fun l' hl' hstamp => ?_⟩
      obtain rfl : l = l' := Option.some.inj (hl.symm.trans hl')
      exact (Dev.retireEntry_ctx64 _ _ _ _ _ htarget (by omega)).trans (hrs hstamp)

end Sys2Proof.Machine

/-! PROOFS. Phase frames (chapter 6): the six frame actions. A frame action that is due replaces one record and leaves the channel's list of
waiting actions (`takeAction_of_frameDue`); what else it writes are flags, counters and buffered words, which hold neither. -/
namespace Sys2Proof.Machine

/-! ## The arithmetic of a frame (R153) -/

theorem coe_toBits (w : Nat) (i : Int) : (toBits w i : Int) = i % 2^w := by
  rw [toBits, Int.toNat_of_nonneg (Int.emod_nonneg _ (by positivity)), Nat.cast_pow, Nat.cast_ofNat]

theorem sext_eq_toInt_ofNat (n : Nat) : sext 32 n = (BitVec.ofNat 32 n).toInt := by
  rw [BitVec.toInt_eq_toNat_cond, BitVec.toNat_ofNat, sext]
  split_ifs <;> omega

namespace FrameRec
variable (r : FrameRec) (v v2 t : Nat)

theorem eval_phase : ((r.eval t).1 : Int) = r.phaseAt t := by
  rw [eval, coe_toBits, sext_eq_toInt_ofNat]
  rfl

theorem eval_freq : ((r.eval t).2 : Int) = r.freqAt t := by
  rw [eval, coe_toBits, sext_eq_toInt_ofNat]
  rfl

/-! ## The rows of the table of actions (R155), at the later of the action's time and the frame's epoch (R157) -/

theorem act_setf : r.act 0 v v2 t = ⟨v % 2^48, (r.eval (max t r.epoch)).1, max t r.epoch, r.rate⟩ := rfl
theorem act_setp : r.act 1 v v2 t = ⟨(r.eval (max t r.epoch)).2, v % 2^48, max t r.epoch, r.rate⟩ := rfl
theorem act_addp :
    r.act 2 v v2 t = ⟨(r.eval (max t r.epoch)).2, ((r.eval (max t r.epoch)).1 + v) % 2^48, max t r.epoch, r.rate⟩ := rfl
theorem act_setc : r.act 3 v v2 t = ⟨(r.eval (max t r.epoch)).2, (r.eval (max t r.epoch)).1, max t r.epoch, v % 2^32⟩ := rfl
theorem act_choff : r.act 4 v v2 t = ⟨(r.eval (max t r.epoch)).2, (r.eval (max t r.epoch)).1, max t r.epoch, 0⟩ := rfl
theorem act_init : r.act 5 v v2 t = ⟨v % 2^48, v2 % 2^48, max t r.epoch, 0⟩ := rfl

theorem act_epoch (fact : Nat) : (r.act fact v v2 t).epoch = max t r.epoch := by
  unfold act
  dsimp only
  split <;> rfl

end FrameRec

namespace Dev

/-! ## What a due action does to the device (R155 to R157) -/

@[simp] theorem applyFi_frames (d : Dev) (k : Nat) : (d.applyFi k).frames = d.frames := by
  unfold applyFi
  split
  · rfl
  · exact foldl_keeps Dev.frames _ _ (fun d a => settle_frames d a) d

@[simp] theorem applyFi_chan (d : Dev) (k : Nat) : (d.applyFi k).chan = d.chan := by
  unfold applyFi
  split
  · rfl
  · exact foldl_keeps Dev.chan _ _ (fun d a => settle_chan d a) d

/-- The flags and the count of an action that found a later epoch (`order`) or takes effect after its time (`late`). -/
def flagAction (d : Dev) (ch : Nat) (order late : Prop) [Decidable order] [Decidable late] : Dev :=
  let d := if order ∨ late then d.raise (Reg.chn_SYN_EVENTS ch) ((if order then 4 else 0) + (if late then 2 else 0)) else d
  if late then (d.bump (Reg.chn_FR_LATE_CNT ch)).raise (Reg.chn_OUT_EVENTS ch) 1 else d

section flagAction
variable (d : Dev) (ch : Nat) (order late : Prop) [Decidable order] [Decidable late]

@[simp] theorem flagAction_frames : (d.flagAction ch order late).frames = d.frames := by
  unfold flagAction
  split_ifs <;> simp

@[simp] theorem flagAction_chan : (d.flagAction ch order late).chan = d.chan := by
  unfold flagAction
  split_ifs <;> simp

end flagAction

/-- The source of an action that has taken effect is free again: a host command no longer pends, and a frame input's held words may apply. -/
def endAction (d : Dev) (ch prio : Nat) : Dev :=
  if prio = 100 then d.setBit (Reg.chn_FR_CMD ch) 17 false
  else if prio = 0 then d else d.applyFi (prio - 1)

@[simp] theorem endAction_frames (d : Dev) (ch prio : Nat) : (d.endAction ch prio).frames = d.frames := by
  unfold endAction
  split_ifs <;> simp

@[simp] theorem endAction_chan (d : Dev) (ch prio : Nat) : (d.endAction ch prio).chan = d.chan := by
  unfold endAction
  split_ifs <;> simp

/-- The record that an action leaves in its frame. -/
def actedFrame (d : Dev) (ch f : Nat) (a : FrAct) : FrameRec := (d.frameOf ch f).act a.fact a.v a.v2 a.t

/-- The device whose frame has the record that the action leaves, and whose channel awaits the action no more. -/
def replacedBy (d : Dev) (ch f teff : Nat) (a : FrAct) : Dev :=
  (d.replaceFrame ch f teff (d.actedFrame ch f a)).updChan ch (fun c => { c with frActs := c.frActs.erase a })

theorem replacedBy_frames (d : Dev) (ch f teff : Nat) (a : FrAct) :
    (d.replacedBy ch f teff a).frames = (d.setFrame ch f (d.actedFrame ch f a)).frames := by
  rw [replacedBy, updChan_frames, replaceFrame, updChan_frames]

theorem replacedBy_frActs (d : Dev) (ch f teff : Nat) (a : FrAct) :
    ((d.replacedBy ch f teff a).chanOf ch).frActs = (d.chanOf ch).frActs.erase a := by
  rw [replacedBy, chanOf_updChan_same, replaceFrame, chanOf_updChan_same]
  rfl

theorem takeAction_of_frameDue {d : Dev} {ch f teff : Nat} {a : FrAct} (h : d.frameDue ch f teff a) :
    d.takeAction ch f a.fact =
      ((d.replacedBy ch f teff a).flagAction ch (a.t < (d.frameOf ch f).epoch) (a.t < teff)).endAction ch a.prio := by
  obtain ⟨hnext, hwaits, hdue, hvalid⟩ := h
  have htaken : ¬ ((!(d.actsOn ch f).contains a) = true ∨ a.fact ≠ a.fact ∨ (!d.due teff) = true ∨ (!d.timeValid) = true) := by
    rw [hwaits, hdue, hvalid]
    simp
  rw [takeAction, hnext]
  exact if_neg htaken

theorem takeAction_frameOf {d : Dev} {ch f teff : Nat} {a : FrAct} (h : d.frameDue ch f teff a) (ch' f' : Nat) :
    (d.takeAction ch f a.fact).frameOf ch' f' = (d.setFrame ch f (d.actedFrame ch f a)).frameOf ch' f' := by
  rw [takeAction_of_frameDue h, frameOf, endAction_frames, flagAction_frames, replacedBy_frames, frameOf]

theorem takeAction_frActs {d : Dev} {ch f teff : Nat} {a : FrAct} (h : d.frameDue ch f teff a) :
    ((d.takeAction ch f a.fact).chanOf ch).frActs = (d.chanOf ch).frActs.erase a := by
  rw [takeAction_of_frameDue h, chanOf, endAction_chan, flagAction_chan, ← chanOf, replacedBy_frActs]

end Dev

theorem exec_setf (ch : Fin 96) (f : Fin 32) (s : State) : exec (.setf ch f) s = s.onDev (fun d => d.takeAction ch f 0) := rfl
theorem exec_setp (ch : Fin 96) (f : Fin 32) (s : State) : exec (.setp ch f) s = s.onDev (fun d => d.takeAction ch f 1) := rfl
theorem exec_addp (ch : Fin 96) (f : Fin 32) (s : State) : exec (.addp ch f) s = s.onDev (fun d => d.takeAction ch f 2) := rfl
theorem exec_setc (ch : Fin 96) (f : Fin 32) (s : State) : exec (.setc ch f) s = s.onDev (fun d => d.takeAction ch f 3) := rfl
theorem exec_choff (ch : Fin 96) (f : Fin 32) (s : State) : exec (.choff ch f) s = s.onDev (fun d => d.takeAction ch f 4) := rfl
theorem exec_init (ch : Fin 96) (f : Fin 32) (s : State) : exec (.init ch f) s = s.onDev (fun d => d.takeAction ch f 5) := rfl

/-- A command that takes the due action of a frame: the frame's record becomes the action's, at the later of its time and the frame's epoch, the
action waits no more, and every other frame stays. -/
theorem State.runs_of_takeAction {s : State} {i : Instr} {ch : Nat} {f : Fin 32} {teff fact : Nat} {a : FrAct} {post : FrameRec → Prop}
    (hdue : s.dev.frameDue ch f teff a) (hexec : exec i s = s.onDev (fun d => d.takeAction ch f fact)) (hfact : a.fact = fact)
    (hpost : post ((s.dev.frameOf ch f).act fact a.v a.v2 a.t)) :
    s.runs i (fun d' => post (d'.frameOf ch f) ∧ (d'.frameOf ch f).epoch = max a.t (s.dev.frameOf ch f).epoch ∧
      (d'.chanOf ch).frActs = (s.dev.chanOf ch).frActs.erase a ∧
      ∀ ch' f' : Nat, f' < 32 → (ch' ≠ ch ∨ f' ≠ f) → d'.frameOf ch' f' = s.dev.frameOf ch' f') := by
  subst hfact
  have hrecord : (s.dev.takeAction ch f a.fact).frameOf ch f = (s.dev.frameOf ch f).act a.fact a.v a.v2 a.t :=
    (Dev.takeAction_frameOf hdue ch f).trans (Dev.frameOf_setFrame_same ..)
  refine State.runs_of_onDev hexec rfl ⟨hrecord ▸ hpost, ?_, Dev.takeAction_frActs hdue, fun ch' f' hf' hother => ?_⟩
  · rw [hrecord, FrameRec.act_epoch]
  · have hkey : ch * 32 + f.val ≠ ch' * 32 + f' := by omega
    exact (Dev.takeAction_frameOf hdue ch' f').trans (Dev.frameOf_setFrame_ne _ _ hkey)

/-- Settles O14: each command takes the action that is due (`State.runs_of_takeAction`), whose record is its row of the table (`act_setf` to
`act_init`), evaluated by the formula of R153 (`eval_phase`, `eval_freq`). -/
theorem frameActionsReplaceTheRecord : Obligations.FrameActionsReplaceTheRecord := by
  unfold Obligations.FrameActionsReplaceTheRecord
  intro s ch f teff a hdue d r T after
  have htakes {i : Instr} {fact : Nat} {post : FrameRec → Prop} (hexec : exec i s = s.onDev (fun d => d.takeAction ch f fact))
      (hfact : a.fact = fact) (hpost : post (r.act fact a.v a.v2 a.t)) : after i post := State.runs_of_takeAction hdue hexec hfact hpost
  -- From here `after` is known by `htakes` alone, so that unification does not look into it.
  clear_value after
  have hphase : ((r.eval T).1 : Int) = r.phaseAt T := r.eval_phase T
  have hfreq : ((r.eval T).2 : Int) = r.freqAt T := r.eval_freq T
  have hsum : (((r.eval T).1 + a.v) % 2^48 : Nat) = (r.phaseAt T + a.v) % 2^48 := by
    rw [← hphase]
    rfl
  refine ⟨fun h => ?setf, fun h => ?setp, fun h => ?addp, fun h => ?setc, fun h => ?choff, fun h => ?init⟩
  case setf =>
    refine htakes (exec_setf ch f s) h ?_
    rw [FrameRec.act_setf]
    exact ⟨rfl, hphase, rfl⟩
  case setp =>
    refine htakes (exec_setp ch f s) h ?_
    rw [FrameRec.act_setp]
    exact ⟨hfreq, rfl, rfl⟩
  case addp =>
    refine htakes (exec_addp ch f s) h ?_
    rw [FrameRec.act_addp]
    exact ⟨hfreq, hsum, rfl⟩
  case setc =>
    refine htakes (exec_setc ch f s) h ?_
    rw [FrameRec.act_setc]
    exact ⟨hfreq, hphase, rfl⟩
  case choff =>
    refine htakes (exec_choff ch f s) h ?_
    rw [FrameRec.act_choff]
    exact ⟨hfreq, hphase, rfl⟩
  case init =>
    refine htakes (exec_init ch f s) h ?_
    rw [FrameRec.act_init]
    exact ⟨rfl, rfl, rfl⟩

end Sys2Proof.Machine

/-! PROOFS. Parity, acknowledgement and the management port (chapter 16, R451). A mismatch is recorded in `Dev.globals`: the known mismatches and
the physical function's words of GLOBAL. Nothing that the safe state of an object or a fault record sets off writes there, which is shown
operation by operation; the clauses then are short. -/

namespace Sys2Proof.Machine
namespace Dev

/-- What a parity mismatch is recorded in: the known mismatches, and the physical function's registers of GLOBAL, which hold its flag and its
count (R423, R426) and lie below 0x100. -/
def globals (d : Dev) : SMap Nat × (Fin 0x100 → Word) := (d.parity, fun a => d.rd a)

/-! ## Writes beyond GLOBAL, and the parts of the device that are no registers

That a register named below lies beyond GLOBAL is closed by `grind`, which unfolds its address, where the address has an index. -/

section writes
variable (d : Dev) {a : Nat} (h : 0x100 ≤ a)
include h
theorem globals_wr (v : Word) : (d.wr a v).globals = d.globals :=
  Prod.ext (wr_parity d a v) (funext fun k => rd_wr_ne d v (by omega))
theorem globals_wrN (n : Nat) : (d.wrN a n).globals = d.globals := globals_wr d h _
theorem globals_setFld (lo w v : Nat) : (d.setFld a lo w v).globals = d.globals := globals_wrN d h _
theorem globals_setBit (i : Nat) (b : Bool) : (d.setBit a i b).globals = d.globals := globals_setFld d h ..
theorem globals_raise (m : Nat) : (d.raise a m).globals = d.globals := globals_wrN d h _
theorem globals_addSat (n : Nat) : (d.addSat a n).globals = d.globals := globals_wrN d h _
theorem globals_bump : (d.bump a).globals = d.globals := globals_addSat d h _
theorem globals_wr64 (v : Nat) : (d.wr64 a v).globals = d.globals :=
  (globals_wrN _ (by omega) _).trans (globals_wrN d h _)
theorem globals_addSat64 (n : Nat) : (d.addSat64 a n).globals = d.globals := globals_wr64 d h _
end writes

theorem globals_settle (d : Dev) (a : Nat) : (d.settle a).globals = d.globals := rfl
theorem globals_updChan (d : Dev) (n : Nat) (f : Chan → Chan) : (d.updChan n f).globals = d.globals := rfl
theorem globals_updEng (d : Dev) (e : Nat) (f : Eng → Eng) : (d.updEng e f).globals = d.globals := rfl
theorem globals_updEc (d : Dev) (n : Nat) (f : EcSt → EcSt) : (d.updEc n f).globals = d.globals := rfl
theorem globals_updTout (d : Dev) (k : Nat) (f : ToSt → ToSt) : (d.updTout k f).globals = d.globals := rfl
theorem globals_updCap (d : Dev) (k : Nat) (f : CapSt → CapSt) : (d.updCap k f).globals = d.globals := rfl
theorem globals_updDmc (d : Dev) (m : Nat) (f : Dmc → Dmc) : (d.updDmc m f).globals = d.globals := rfl
theorem globals_mkLine (d : Dev) (m : SMap MkLine) : ({ d with mkLine := m } : Dev).globals = d.globals := rfl
theorem globals_faultId (d : Dev) (n : Nat) : ({ d with faultId := n } : Dev).globals = d.globals := rfl
theorem globals_badCw (d : Dev) (m : SMap (Option (Nat × Nat))) : ({ d with badCw := m } : Dev).globals = d.globals := rfl
theorem globals_frzN (d : Dev) (n : Nat) : ({ d with frzN := n } : Dev).globals = d.globals := rfl
theorem globals_storeDram (d : Dev) (a : Nat) (bs : List Byte) : (d.storeDram a bs).globals = d.globals := rfl
theorem globals_setCtxW (d : Dev) (c w : Nat) (v : Word) : (d.setCtxW c w v).globals = d.globals := rfl
theorem globals_setCtxFld (d : Dev) (c w lo n v : Nat) : (d.setCtxFld c w lo n v).globals = d.globals := rfl
theorem globals_setCtxState (d : Dev) (c s : Nat) : (d.setCtxState c s).globals = d.globals := rfl
theorem globals_setCtx64 (d : Dev) (c w v : Nat) : (d.setCtx64 c w v).globals = d.globals := rfl

/-! ## Firings, interrupts and fault records -/

theorem globals_arrive (d : Dev) (f : Firing) : (d.arrive f).globals = d.globals :=
  foldl_keeps globals _ _ (fun d n => globals_updEc d n _) d
theorem globals_fireAs (d : Dev) (src stamp gen : Nat) (coarse late : Bool) : (d.fireAs src stamp gen coarse late).globals = d.globals := by
  unfold fireAs
  split
  · exact globals_arrive ..
  · have hloop := foldl_keeps globals (d.listeners src) (fun d n => d.raise (Reg.ec_EVENTS n) 1) (fun d n => globals_raise d (by grind) _) d
    simp (disch := grind) only [globals_arrive, globals_bump, globals_raise, hloop]
theorem globals_fire (d : Dev) (src stamp gen : Nat) : (d.fire src stamp gen).globals = d.globals := globals_fireAs ..
theorem globals_fireNow (d : Dev) (src : Nat) : (d.fireNow src).globals = d.globals := globals_fire ..
theorem globals_signal (d : Dev) (fn vec : Nat) : (d.signal fn vec).globals = d.globals := by
  unfold signal
  split
  · rfl
  · split
    · exact globals_setBit d (by unfold msixPba fnKey; omega) ..
    · rfl
theorem globals_setFaultQ (d : Dev) (c : Nat) (q : List FaultRec) : (d.setFaultQ c q).globals = d.globals := by
  unfold setFaultQ
  exact globals_setBit { d with faults := SMap.set [] d.faults c q } (by decide) c _
theorem globals_notifyFault (d : Dev) (c t : Nat) : (d.notifyFault c t).globals = d.globals := by
  unfold notifyFault
  split
  · rw [globals_signal, globals_fire]
  · rfl

/-! ## Contexts that stop, and safe holds -/

theorem globals_setHold (d : Dev) (n mask : Nat) : (d.setHold n mask).globals = d.globals := by
  unfold setHold
  rw [globals_updChan, globals_setFld d (by grind)]
theorem globals_holdLive (d : Dev) (mask : Nat) : (d.holdLive mask).globals = d.globals :=
  foldl_keeps globals _ _ (fun d n => globals_setHold d n mask) d
theorem globals_giveUpRing (d : Dev) (n : Nat) : (d.giveUpRing n).globals = d.globals := by
  unfold giveUpRing
  dsimp only
  split
  · exact globals_setFld d (by grind) ..
  · rfl
theorem globals_settleClaims (d : Dev) : d.settleClaims.globals = d.globals := by
  unfold settleClaims
  dsimp only
  split
  · rfl
  · refine (foldl_keeps globals _ _ (fun d k => ?_) _).trans (foldl_keeps globals _ _ globals_giveUpRing _)
    split <;> rfl
theorem globals_unmirror (d : Dev) (e c : Nat) : (d.unmirror e c).globals = d.globals := by
  unfold unmirror
  rw [globals_updEng]
  exact foldr_keeps globals _ _ (fun (p : Nat × Word) d => globals_setCtxW d c p.1 p.2) d
theorem globals_unbind (d : Dev) (e : Nat) : (d.unbind e).globals = d.globals := by
  unfold unbind
  rw [globals_updEng, globals_settle, globals_setFld d (by grind)]
theorem globals_leave (d : Dev) (c s : Nat) : (d.leave c s).globals = d.globals := by
  unfold leave
  split
  · rw [globals_settleClaims]
    rfl
  · rw [globals_settleClaims, globals_unbind, globals_setCtxFld, globals_setCtxState, globals_setCtxFld, globals_setCtx64, globals_unmirror]
    rfl
theorem globals_stopCtx (d : Dev) (c : Nat) (wd : Bool) : (d.stopCtx c wd).globals = d.globals := by
  unfold stopCtx
  split
  · rw [globals_leave]
    split <;> rfl
  · rfl
theorem globals_stopAll (d : Dev) (f : Nat → Bool) (wd : Bool) : (d.stopAll f wd).globals = d.globals :=
  foldl_keeps globals _ _ (fun d c => globals_stopCtx d c wd) d

theorem globals_enterDsafe (d : Dev) (c : Nat) (w : List Nat) : (d.enterDsafe c w).globals = d.globals := by
  unfold enterDsafe
  dsimp only
  rw [foldl_keeps globals (List.range 8) _ (fun d k => by rw [globals_updTout, globals_setBit d (by grind)]), globals_mkLine,
    globals_holdLive, globals_stopAll, foldl_keeps globals (List.range 16) _ (fun d i => globals_wrN d (by grind) _),
    globals_setFld _ (by decide), globals_setBit d (by decide)]

/-- A fault record of any class leaves the record of mismatches, also where it escalates to the device safe state. -/
theorem globals_fault (d : Dev) (c : Nat) (r : FaultRec) : (d.fault c r).globals = d.globals := by
  have entered (d' : Dev) (esc : Bool) (w : List Nat) : (if esc && !d'.dsafe then d'.enterDsafe c w else d').globals = d'.globals := by
    split
    · exact globals_enterDsafe ..
    · rfl
  unfold fault
  dsimp only
  rw [entered, globals_notifyFault, globals_raise _ (by decide)]
  split
  · rw [globals_setFaultQ, globals_bump d (by grind)]
  · split
    · rw [globals_bump _ (by decide), globals_setFaultQ, globals_faultId, globals_bump d (by grind)]
    · rw [globals_setFaultQ, globals_bump _ (by grind), globals_bump d (by grind)]
theorem globals_faultOf (d : Dev) (c code kind obj : Nat) (owner : Option Nat) (detail : List Nat) :
    (d.faultOf c code kind obj owner detail).globals = d.globals := globals_fault ..
theorem globals_faultNow (d : Dev) (c code kind obj : Nat) (detail : List Nat) : (d.faultNow c code kind obj detail).globals = d.globals :=
  globals_fault ..

/-! ## Capture data on their way to DRAM -/

theorem globals_wipeIn (d : Dev) (g : Nat) : (d.wipeIn g).globals = d.globals := by
  unfold wipeIn
  split
  · rfl
  · dsimp only
    split
    · rw [globals_raise _ (by decide), globals_setBit _ (by decide)]
      rfl
    · rfl
theorem globals_dramWrite (d : Dev) (a : Nat) (bs : List Byte) : (d.dramWrite a bs).globals = d.globals := by
  unfold dramWrite
  dsimp only
  rw [globals_storeDram]
  split
  · rfl
  · exact foldl_keeps globals _ _ (fun d i => globals_wipeIn d _) d
theorem globals_setOwed (d : Dev) (m o : Nat) : (d.setOwed m o).globals = d.globals := by
  unfold setOwed
  exact globals_setFld d (by grind) ..
theorem globals_exitSr (d : Dev) (m : Nat) : (d.exitSr m).globals = d.globals := by
  unfold exitSr
  split
  · rfl
  · rw [globals_setBit _ (by grind), globals_setOwed]
theorem globals_rowAfter (d : Dev) (m l : Nat) (openHint : Bool) : (d.rowAfter m l openHint).globals = d.globals := globals_updDmc ..
theorem globals_touch (d : Dev) (write : Bool) (a n : Nat) : (d.touch write a n).globals = d.globals := by
  -- `touch` is unfolded as a function: at its arguments the kernel would evaluate `place`.
  suffices h : ∀ f, f = touch → (f d write a n).globals = d.globals from h touch rfl
  intro f hf
  delta touch at hf
  subst hf
  beta_reduce
  obtain ⟨m, l⟩ := d.place a
  have haddr : 0x100 ≤ if write then Reg.dram_WR_BYTES_LO m else Reg.dram_RD_BYTES_LO m := by split <;> grind
  dsimp only
  rw [globals_rowAfter, globals_addSat64 _ haddr]
  split
  · exact globals_exitSr ..
  · rfl
theorem globals_fillPass (d : Dev) (g : Nat) : (d.fillPass g).globals = d.globals := by
  unfold fillPass
  split
  · rfl
  · rw [foldl_keeps globals _ _ (fun d p => globals_touch ..)]
theorem globals_correctedBy (d : Dev) (m l map : Nat) : (d.correctedBy m l map).globals = d.globals := by
  unfold correctedBy
  extract_lets x tick device times storm counted fired noted
  have hcounted : counted.globals = d.globals := by
    unfold counted
    rw [globals_wrN _ (by grind), globals_raise _ (by grind), globals_bump d (by grind)]
  have hfired : fired.globals = counted.globals := by
    unfold fired
    split
    · rfl
    · exact globals_fireNow ..
  have hnoted : noted.globals = fired.globals := globals_updDmc ..
  split
  · rw [globals_faultOf, hnoted, hfired, hcounted]
  · rw [hnoted, hfired, hcounted]
theorem globals_correct (d : Dev) (write : Bool) (a len : Nat) : (d.correct write a len).globals = d.globals := by
  unfold correct
  refine foldl_keeps globals _ _ (fun d q => ?_) _
  obtain ⟨m, l⟩ := d.place (q.1 * 128)
  exact (globals_badCw ..).trans (globals_correctedBy ..)
theorem globals_served (d : Dev) (write : Bool) (a n : Nat) : (d.served write a n).globals = d.globals := by
  have part (d : Dev) (p : Nat × Nat) :
      (if !write && !SMap.get false d.wiped (p.1 / 2^20) then d else d.touch write p.1 p.2).globals = d.globals := by
    split
    · rfl
    · exact globals_touch ..
  unfold served
  dsimp only
  rw [globals_correct, foldl_keeps globals _ _ part]
  split
  · rw [foldl_keeps globals _ _ (fun d i => globals_fillPass ..)]
  · rfl
theorem globals_writeDram (d : Dev) (a : Nat) (bs : List Byte) : (d.writeDram a bs).globals = d.globals := by
  unfold writeDram
  rw [globals_dramWrite, globals_served]
theorem globals_freezeBy (d : Dev) (m port addr loc : Nat) (readPart ca held : Bool) (map digest : Nat) :
    (d.freezeBy m port addr loc readPart ca held map digest).globals = d.globals := by
  unfold freezeBy
  extract_lets put raised another extra info snapped marked kept limited dated paid fired
  have hput (d : Dev) (i : Nat) : (put d i).globals = d.globals := by
    unfold put
    rw [globals_wrN _ (by grind), globals_wrN _ (by grind), globals_wrN _ (by grind), globals_wrN _ (by grind)]
  have hraised : raised.globals = d.globals := globals_raise d (by grind) 2
  split
  · split
    · exact hraised
    · split
      · rw [globals_setFld _ (by decide), globals_frzN, hput, hraised]
      · rw [globals_badCw, globals_bump _ (by decide), hraised]
  · have hsnapped : snapped.globals = raised.globals :=
      foldl_keeps globals _ _ (fun d x => foldl_keeps globals _ _ (fun d q => by rw [globals_wrN _ (by grind), globals_wrN _ (by grind)]) _) _
    have hmarked : marked.globals = snapped.globals := by
      unfold marked
      rw [globals_wrN _ (by decide), globals_setBit _ (by decide)]
    have hkept : kept.globals = marked.globals := by
      unfold kept
      split
      · exact hput ..
      · rfl
    have hdated : dated.globals = kept.globals := by
      unfold dated
      rw [globals_raise _ (by decide), globals_wr64 _ (by decide), globals_frzN]
    have hpaid : paid.globals = dated.globals := foldl_keeps globals _ _ (fun d x => globals_setOwed ..) _
    rw [globals_faultOf, globals_fireNow, hpaid, hdated, hkept, hmarked, hsnapped, hraised]
theorem globals_freezeAt (d : Dev) (port : Nat) (readPart : Bool) (q : Nat × Nat × Nat) : (d.freezeAt port readPart q).globals = d.globals := by
  -- As for `touch`, the kernel is kept from evaluating `place`.
  suffices h : ∀ f, f = freezeAt → (f d port readPart q).globals = d.globals from h freezeAt rfl
  intro f hf
  delta freezeAt at hf
  subst hf
  beta_reduce
  obtain ⟨m, l⟩ := d.place (q.1 * 128)
  exact globals_freezeBy ..
theorem globals_drainBytes (d : Dev) (k n : Nat) : (d.drainBytes k n).globals = d.globals := by
  unfold drainBytes
  dsimp only
  split
  · rfl
  · split
    · exact globals_freezeAt ..
    · rw [globals_updCap, globals_writeDram]
theorem globals_drainFifo (d : Dev) (k : Nat) (all : Bool) : (d.drainFifo k all).globals = d.globals := by
  have step (d : Dev) : (if d.dramShut then d else d.drainBytes k 512).globals = d.globals := by
    split
    · rfl
    · exact globals_drainBytes ..
  unfold drainFifo
  split
  · rfl
  · extract_lets drained
    have hdrained : drained.globals = d.globals := foldl_keeps globals _ _ (fun d _ => step d) d
    split
    · rw [globals_drainBytes, hdrained]
    · exact hdrained
theorem globals_setCapState (d : Dev) (k s : Nat) : (d.setCapState k s).globals = d.globals := by
  unfold setCapState
  exact globals_setFld d (by grind) ..
theorem globals_capDone (d : Dev) (k ev : Nat) : (d.capDone k ev).globals = d.globals := by
  unfold capDone
  rw [globals_fireNow, globals_raise _ (by grind), globals_setCapState, globals_drainFifo]
theorem globals_abortD (d : Dev) (k : Fin 6) : (abortD k d).globals = d.globals := by
  unfold abortD
  split
  · exact globals_setCapState ..
  · exact globals_capDone ..
  · exact globals_setCapState ..
  · rfl

theorem globals_showHeld (d : Dev) (n : Nat) : (d.showHeld n).globals = d.globals := by
  unfold showHeld
  rw [globals_setBit d (by grind)]
theorem globals_refreshLine (d : Dev) (k t : Nat) (direct : Bool) : (d.refreshLine k t direct).globals = d.globals := by
  unfold refreshLine
  dsimp only
  split
  · rfl
  · split <;> rfl

/-- The safe state of an object (R423) leaves the record of mismatches. -/
theorem globals_paritySafe (d : Dev) (b : Block) (i : Nat) : (d.paritySafe b i).globals = d.globals := by
  unfold paritySafe
  split
  · exact globals_setHold ..
  · rw [globals_showHeld, globals_updEc]
  · rw [globals_updTout, globals_setBit d (by grind)]
  · exact globals_refreshLine ..
  · split
    · exact globals_abortD ..
    · rfl
  · rfl

end Dev

/-! ## Flags, and what a mismatch records -/

namespace Dev

/-- The device with other known mismatches. -/
def withParity (d : Dev) (p : SMap Nat) : Dev := { d with parity := p }

theorem withParity_rd (d : Dev) (p : SMap Nat) (a : Nat) : (d.withParity p).rd a = d.rd a := rfl
theorem withParity_bit (d : Dev) (p : SMap Nat) (a i : Nat) : (d.withParity p).bit a i = d.bit a i := rfl
theorem withParity_faults (d : Dev) (p : SMap Nat) : (d.withParity p).faults = d.faults := rfl
theorem withParity_faultQ (d : Dev) (p : SMap Nat) (c : Nat) : (d.withParity p).faultQ c = d.faultQ c := rfl

theorem parity_of_globals {d d' : Dev} (h : d'.globals = d.globals) : d'.parity = d.parity := congrArg Prod.fst h
theorem rd_of_globals {d d' : Dev} {a : Nat} (h : d'.globals = d.globals) (ha : a < 0x100) : d'.rd a = d.rd a :=
  congrFun (congrArg Prod.snd h) ⟨a, ha⟩

/-- A raised flag stands beside those that stood (R6). -/
theorem bit_raise_same (d : Dev) (a m i : Nat) (hm : m < 2^24) (hi : i < 24) : (d.raise a m).bit a i = (d.bit a i || m.testBit i) := by
  change ((d.raise a m).rdN a).testBit i = ((d.rdN a).testBit i || m.testBit i)
  have hflags : d.rdN a % 2^24 ||| m < 2^24 := Nat.or_lt_two_pow (Nat.mod_lt _ (by norm_num)) hm
  rw [rdN_raise_same d a m hm, Nat.mul_comm, Nat.testBit_two_pow_mul_add _ hflags, if_pos hi, Nat.testBit_or, Nat.testBit_mod_two_pow,
    decide_eq_true hi, Bool.true_and]

/-- The byte lanes found mismatched join those known of a register's copy (R422). -/
def joinLanes (d : Dev) (key : Nat) (lanes : BitVec 4) : Dev :=
  d.withParity (SMap.set 0 d.parity key (SMap.get 0 d.parity key ||| lanes.toNat))

theorem joinLanes_get (d : Dev) (key : Nat) (lanes : BitVec 4) :
    SMap.get 0 (d.joinLanes key lanes).parity key = SMap.get 0 d.parity key ||| lanes.toNat := SMap.get_set_same ..
theorem joinLanes_rdN (d : Dev) (key : Nat) (lanes : BitVec 4) (a : Nat) : (d.joinLanes key lanes).rdN a = d.rdN a := rfl

/-- A mismatch that was not known is counted and flagged (R423, R426). -/
def flagMismatch (d : Dev) (last : Nat) : Dev :=
  let d := if d.rdN (fnKey 0 Reg.glob_ACC_EVENTS) % 128 = 0 then { d with accKept := SMap.set false d.accKept 0 false } else d
  ((d.wrN Reg.glob_PARITY_LAST last).bump Reg.glob_PARITY_CNT).raise Reg.glob_ACC_EVENTS 64

theorem flagMismatch_parity (d : Dev) (last : Nat) : (d.flagMismatch last).parity = d.parity := by
  unfold flagMismatch
  dsimp only
  rw [raise_parity, bump_parity, wrN_parity]
  split <;> rfl
theorem flagMismatch_flag (d : Dev) (last : Nat) : (d.flagMismatch last).bit Reg.glob_ACC_EVENTS 6 = true := by
  unfold flagMismatch
  rw [bit_raise_same _ _ _ _ (by norm_num) (by norm_num), show Nat.testBit 64 6 = true from rfl, Bool.or_true]
theorem flagMismatch_count (d : Dev) (last : Nat) :
    (d.flagMismatch last).rdN Reg.glob_PARITY_CNT = min (2^32 - 1) (d.rdN Reg.glob_PARITY_CNT + 1) := by
  unfold flagMismatch
  dsimp only
  rw [rdN_raise_ne _ _ (by decide), rdN_bump_same, rdN_wrN_ne _ _ (by decide)]
  split <;> rfl

end Dev

/-! ## PARITY_SCRUB (R422, R423) -/

theorem exec_parityScrub (x : RegCopy) (lanes : BitVec 4) (s : State) : exec (.parityScrub x lanes) s = s.onDev (parityScrubD x lanes) := rfl

section parityScrub
variable {d : Dev} {fn : Fn} {off : BitVec 28} {lanes : BitVec 4} {b : Block} {i r : Nat} {x : RegRow}
  (haligned : off.toNat % 4 = 0) (hplace : locate off.toNat = some (b, i, r)) (hrow : regRow off.toNat = some x)
  (hparity : hasParity b r x = true) (hlanes : lanes ≠ 0) {key : Nat} (hkey : (if Dev.perFn b r then Dev.fnKey fn off.toNat else off.toNat) = key)
include haligned hplace hrow hparity hlanes hkey

theorem parityScrubD_of_known (hknown : SMap.get 0 d.parity key ≠ 0) :
    parityScrubD ⟨fn, off⟩ lanes d = d.joinLanes key lanes := by
  have hword : off.toNat / 4 * 4 = off.toNat := by omega
  simp only [parityScrubD, hword, hplace, hrow, hparity, hlanes, hkey, Bool.not_true, Bool.false_eq_true, or_self, if_false, if_pos hknown]
  rfl

theorem parityScrubD_of_new (hnew : SMap.get 0 d.parity key = 0) :
    ∃ last, (parityScrubD ⟨fn, off⟩ lanes d).globals =
      ((d.joinLanes key lanes).flagMismatch last).globals := by
  have hword : off.toNat / 4 * 4 = off.toNat := by omega
  refine ⟨off.toNat + lanes.toNat * 2^28, ?_⟩
  simp only [parityScrubD, hword, hplace, hrow, hparity, hlanes, hkey, Bool.not_true, Bool.false_eq_true, or_self, if_false, hnew, ne_eq,
    not_true_eq_false]
  simp only [Dev.flagMismatch, Dev.joinLanes, Dev.withParity, hnew]
  split
  · rw [Dev.globals_faultOf, Dev.globals_paritySafe]
  · rw [Dev.globals_faultNow, Dev.globals_paritySafe]
end parityScrub

/-! ## Accepted writes -/

namespace Dev

/-- An accepted write ends a mismatch of its register (R424); where that lies in no channel, nothing else changes. -/
theorem endParity_of_not_chn (d : Dev) {key : Nat} (h : ∀ n r, locate key ≠ some (.chn, n, r)) :
    d.endParity key = d.withParity (SMap.set 0 d.parity key 0) := by
  unfold endParity
  split
  · next n r hplace => exact absurd hplace (h n r)
  · rfl

theorem accepted_of_not_chn (before d : Dev) (fn : Nat) {key : Nat} (h : ∀ n r, locate key ≠ some (.chn, n, r)) :
    ∃ p, accepted before d fn key = d.withParity p := by
  unfold accepted
  split
  · exact ⟨d.parity, rfl⟩
  · exact ⟨_, endParity_of_not_chn d h⟩

theorem access_of_answers {d : Dev} {fn off : Nat} {owner : Option Nat} (h : d.answers fn off owner) (f : Dev → Dev) :
    d.access fn off owner f = accepted d (f d) fn (keyOf fn off) := by
  obtain ⟨hstandby, hsees, hawake⟩ := h
  simp only [access, hstandby, hsees, hawake, Bool.false_eq_true, if_false, Bool.not_true]

/-! ## Fault queues (R427, R430) -/

theorem setFaultQ_faults (d : Dev) (c : Nat) (q : List FaultRec) : (d.setFaultQ c q).faults = SMap.set [] d.faults c q := by
  unfold setFaultQ
  rw [setBit_faults]
theorem setFaultQ_same (d : Dev) (c : Nat) (q : List FaultRec) : (d.setFaultQ c q).faultQ c = q := by
  rw [faultQ, setFaultQ_faults, SMap.get_set_same]
theorem setFaultQ_other (d : Dev) {c k : Nat} (q : List FaultRec) (h : c ≠ k) : (d.setFaultQ c q).faultQ k = d.faultQ k := by
  rw [faultQ, setFaultQ_faults, SMap.get_set_ne _ _ _ _ h, faultQ]
theorem setFaultQ_status (d : Dev) (c : Nat) (q : List FaultRec) (h : c < 32) : (d.setFaultQ c q).bit Reg.fault_STATUS c = !q.isEmpty := by
  unfold setFaultQ
  rw [bit_setBit_same _ _ _ _ h]

end Dev

/-! ## ACK (R433) -/

theorem exec_ack (c : Fin 14) (v : Word) (s : State) : exec (.ack c v) s = s.onDev (ackD c v) := rfl

theorem locate_faultQ_ACK : ∀ c : Fin 14, locate (Reg.faultQ_ACK c) = some (.faultQ, c.val, 4) := by decide

theorem faultQ_ACK_not_chn (c : Fin 14) (n r : Nat) : locate (Reg.faultQ_ACK c) ≠ some (.chn, n, r) := by simp [locate_faultQ_ACK c]

theorem keyOf_faultQ_ACK (c : Fin 14) : Dev.keyOf 0 (Reg.faultQ_ACK c) = Reg.faultQ_ACK c := by
  rw [Dev.keyOf, locate_faultQ_ACK c]
  rfl

/-- The ID and ALSO written match a record (R433). -/
def FaultRec.acked (x : FaultRec) (v : Word) : Prop := v.toNat % 2^16 = x.id ∧ v.toNat / 2^16 % 2^8 = x.also

theorem FaultRec.acked_iff (x : FaultRec) (v : Word) : (bitsOf v.toNat 0 16 = x.id ∧ bitsOf v.toNat 16 8 = x.also) ↔ x.acked v := by
  simp only [bitsOf, pow_zero, Nat.div_one, acked]

section ack
variable {d : Dev} {c : Fin 14} {v : Word} (hanswers : d.answers 0 (Reg.faultQ_ACK c) none)
include hanswers

theorem ackD_of_acked {x : FaultRec} {rest : List FaultRec} (hqueue : d.faultQ c = x :: rest) (hacked : x.acked v) :
    ∃ p, ackD c v d = (d.setFaultQ c rest).withParity p := by
  unfold ackD
  rw [Dev.access_of_answers hanswers, keyOf_faultQ_ACK]
  simp only [hqueue, if_pos ((x.acked_iff v).2 hacked)]
  exact Dev.accepted_of_not_chn _ _ _ (faultQ_ACK_not_chn c)

theorem ackD_of_not_acked (hother : ∀ x rest, d.faultQ c = x :: rest → ¬ x.acked v) :
    ∃ p, ackD c v d = (d.raise Reg.fault_EVENTS 8).withParity p := by
  unfold ackD
  rw [Dev.access_of_answers hanswers, keyOf_faultQ_ACK]
  cases hqueue : d.faultQ c with
  | nil => exact Dev.accepted_of_not_chn _ _ _ (faultQ_ACK_not_chn c)
  | cons x rest =>
    simp only [if_neg (mt (x.acked_iff v).1 (hother x rest hqueue))]
    exact Dev.accepted_of_not_chn _ _ _ (faultQ_ACK_not_chn c)
end ack

/-! ## The management port (R451) -/

namespace Dev
theorem mgmtSays_standby (d : Dev) (word : Nat) (nack : Bool) : (d.mgmtSays word nack).standby = d.standby := rfl
theorem mgmtSays_nack (d : Dev) (word : Nat) (nack : Bool) : (d.mgmtSays word nack).host.mgmtNack = nack := rfl
theorem mgmtSays_rd (d : Dev) (word : Nat) (nack : Bool) (a : Nat) : (d.mgmtSays word nack).rd a = d.rd a := rfl
end Dev

theorem State.runs_of_onFused {s : State} {i : Instr} {f : Fuses → Guard → Dev → Dev} {post : Dev → Prop} (hexec : exec i s = s.onFused f)
    (hpost : post (f s.fuses s.guard s.dev)) : s.runs i post :=
  ⟨{ s with dev := f s.fuses s.guard s.dev }, hexec, ⟨rfl, rfl, rfl⟩, hpost⟩

theorem exec_mgmtRead (x : MgmtAccess) (s : State) : exec (.mgmtRead x) s = s.onFused (mgmtReadF x) := rfl
theorem exec_mgmtWrite (off : BitVec 28) (v : Word) (s : State) : exec (.mgmtWrite off v) s = s.onFused (mgmtWriteF off v) := rfl
theorem exec_mgmtWake (s : State) : exec .mgmtWake s = s.onDev mgmtWakeD := rfl

section port
variable (f : Fuses) (g : Guard) (d : Dev)

/-- SEC offsets read 0, and the read takes nothing (R451). -/
theorem mgmtWord_of_sec {off : BitVec 28} {i r : Nat} (hplace : locate (off.toNat / 4 * 4) = some (.sec, i, r)) : mgmtWord off f g d = (0, d) := by
  simp only [mgmtWord, hplace]

theorem accessErr_host (fn off cause : Nat) (write narrow : Bool) : (d.accessErr fn off cause write narrow).host = d.host := by
  unfold Dev.accessErr Dev.accRecord
  dsimp only
  rw [Dev.raise_host]
  split <;> simp only [Dev.wrN_host, Dev.bump_host]

/-- A read records at most a latch or a refused access, so that the host interface stays as it is. -/
theorem readReg_host (req fn off : Nat) (homeAwake narrow : Bool) : (Dev.readReg f g d req fn off homeAwake narrow).2.host = d.host := by
  unfold Dev.readReg
  split
  · split
    · rfl
    · split
      · exact accessErr_host ..
      · split
        · rfl
        · split
          · rfl
          · refine Dev.foldl_keeps Dev.host _ _ (fun d k => ?_) d
            rfl
  · rfl

theorem mgmtWord_host (off : BitVec 28) : (mgmtWord off f g d).2.host = d.host := by
  unfold mgmtWord
  dsimp only
  split
  · rfl
  · exact readReg_host ..

end port

/-! ## SCRATCH (R425) -/

theorem locate_glob_SCRATCH : ∀ r : Fin 4, locate (Reg.glob_SCRATCH r) = some (.glob, 0, 0x80 + 4 * r.val) := by decide
theorem regRow_glob_SCRATCH : ∀ r : Fin 4, regRow (Reg.glob_SCRATCH r) = some ((RegRow.mk' 0x80 0 0xFFFFFFFF 0 0).arr 4 4) := by decide
theorem mgmtMay_glob_SCRATCH : ∀ r : Fin 4, mgmtMay (Reg.glob_SCRATCH r) = true := by decide
theorem fnKey_zero (off : Nat) : Dev.fnKey 0 off = off := by simp [Dev.fnKey]

theorem vis_glob_sees (d : Dev) (i r : Nat) : (d.vis .glob i r).sees 0 = true := by
  unfold Dev.vis
  dsimp only
  split <;> rfl

/-- The lowest block of the map answers in every power state but STANDBY (R409). -/
theorem awake_of_lt (d : Dev) {off : Nat} (h : off < 0x100000) : d.awake off = true := by
  have hoff : off % 0x4000000 = off := Nat.mod_eq_of_lt (by omega)
  unfold Dev.awake
  dsimp only
  rw [hoff, if_pos (Or.inl h)]

theorem mgmtAwake_of_lt {d : Dev} {off : Nat} (hstandby : d.standby = false) (h : off < 0x100000) : d.mgmtAwake off = true := by
  have hoff : ¬ (0x0800000 ≤ off ∧ off < 0x0E00000 ∧ off % 0x4000 = 0x2428) := by omega
  simp only [Dev.mgmtAwake, hstandby, Bool.false_eq_true, if_false, Dev.awakeRead, if_neg hoff, awake_of_lt d h]

theorem readReg_glob_SCRATCH (f : Fuses) (g : Guard) {d : Dev} (r : Fin 4) (narrow : Bool)
    (hlatch : SMap.get none d.latch (Dev.fnKey 14 (Reg.glob_SCRATCH r)) = none) (hcorrupt : d.corrupt 0 0x100 = false) :
    Dev.readReg f g d 14 0 (Reg.glob_SCRATCH r) true narrow = (d.rd (Reg.glob_SCRATCH r), d) := by
  have hshown : BitVec.ofNat 32 (d.shown f g 0 (Reg.glob_SCRATCH r) .glob 0 (0x80 + 4 * r.val)) = d.rd (Reg.glob_SCRATCH r) := by
    have hraw : d.shown f g 0 (Reg.glob_SCRATCH r) .glob 0 (0x80 + 4 * r.val) = d.rdN (Reg.glob_SCRATCH r) := by
      fin_cases r <;> simp [Dev.shown, hcorrupt, fnKey_zero]
    rw [hraw, Dev.rdN, BitVec.ofNat_toNat, BitVec.setWidth_eq]
  simp only [Dev.readReg, locate_glob_SCRATCH r, regRow_glob_SCRATCH r, vis_glob_sees, hlatch, hshown]
  rfl

/-! ## Writes of a register that software may write whole (R415, R420) -/

/-- Where software may write every bit and the access writes every bit, the written word is stored. -/
theorem put_of_whole (d : Dev) (a : Acc) (hmask : a.mask = Acc.ones) (hset : a.set = Acc.ones) : d.put a = (d.wrN a.key a.val).endParity a.key := by
  have hval : a.val &&& Acc.ones = a.val % 2^32 := Nat.and_two_pow_sub_one_eq_mod a.val 32
  have hnew : a.new = a.val % 2^32 := by
    simp only [Acc.new, hmask, hset, Nat.and_self, Nat.xor_self, Nat.and_zero, Nat.zero_or, hval]
  have hlow : a.val % 2^32 &&& Acc.ones = a.val % 2^32 := by
    rw [← hval, Nat.and_assoc, Nat.and_self]
  have hword : BitVec.ofNat 32 (a.val % 2^32) = BitVec.ofNat 32 a.val := BitVec.eq_of_toNat_eq (by simp)
  unfold Dev.put
  rw [hnew, hmask, Nat.xor_self, Nat.and_zero, Nat.zero_or, hlow, Dev.wrN, hword, ← Dev.wrN]

/-- ACC_LAST is corrected only by the access that has entered its record (R426). -/
theorem locateLast_of_accFirst {before d : Dev} {fn : Nat} (h : d.accFirst fn = before.accFirst fn) (off : Nat) (narrow : Bool) :
    Dev.locateLast before d fn off narrow = d := by
  unfold Dev.locateLast
  rw [h, if_neg (by simp)]

section reach
variable (f : Fuses) (g : Guard) (d : Dev) (a : Acc)

/-- A write of a register with no flags, no pair and no doorbell goes to its block (R413). -/
theorem reachReg_of_plain (hrsq : a.row.rsq = 0) (hbell : isBell a.blk a.r = false) (hpair : a.row.pair = 0) (hwo : a.row.wo = false)
    (hmask : a.mask ≠ 0) : reachReg f g d a false = ((writeReg f g d a).1, d.accepted (writeReg f g d a).2 a.fn a.key) := by
  simp [reachReg, hrsq, hbell, hpair, hwo, hmask]

theorem writeReg_of_glob (hblk : a.blk = .glob) (hrc : a.row.rc = false) : writeReg f g d a = (g, d.put a) := by
  simp [writeReg, Dev.commit, hblk, hrc]
end reach

/-- The management port's write of a SCRATCH register, whose word reads as `old`. -/
def scratchWrite (r : Fin 4) (v : Word) (old : Nat) : Acc :=
  { req := 14, fn := 0, off := Reg.glob_SCRATCH r, key := Reg.glob_SCRATCH r, blk := .glob, i := 0, r := 0x80 + 4 * r.val, narrow := false,
    set := Acc.ones, val := v.toNat, old := old, row := (RegRow.mk' 0x80 0 0xFFFFFFFF 0 0).arr 4 4 }

theorem scratchWrite_mask (r : Fin 4) (v : Word) (old : Nat) : (scratchWrite r v old).mask = Acc.ones := by
  simp [Acc.mask, scratchWrite, RegRow.mk', RegRow.arr, Acc.ones]

theorem reachReg_scratchWrite (f : Fuses) (g : Guard) (d : Dev) (r : Fin 4) (v : Word) (old : Nat) :
    ∃ p, (reachReg f g d (scratchWrite r v old) false).2 = (d.wr (Reg.glob_SCRATCH r) v).withParity p := by
  have hchn (n q : Nat) : locate (Reg.glob_SCRATCH r) ≠ some (.chn, n, q) := by simp [locate_glob_SCRATCH r]
  rw [reachReg_of_plain f g d _ rfl rfl rfl rfl (by rw [scratchWrite_mask]; decide), writeReg_of_glob f g d _ rfl rfl,
    put_of_whole d _ (scratchWrite_mask ..) rfl]
  obtain ⟨p, hp⟩ := Dev.accepted_of_not_chn d ((d.wrN (Reg.glob_SCRATCH r) v.toNat).endParity (Reg.glob_SCRATCH r)) 0 hchn
  refine ⟨p, hp.trans ?_⟩
  rw [Dev.endParity_of_not_chn _ hchn, Dev.wrN, BitVec.ofNat_toNat, BitVec.setWidth_eq]
  rfl

/-- The map leads the port's write to the register, which answers and which the port sees as the physical function. -/
theorem mapWrite_scratchWrite (f : Fuses) (g : Guard) (d : Dev) (r : Fin 4) (v : Word) {answers : Nat → Bool}
    (hanswers : answers (Reg.glob_SCRATCH r) = true) :
    mapWrite f g d 14 0 (Reg.glob_SCRATCH r) 0xF v.toNat answers =
      (let y := reachReg f g d (scratchWrite r v (d.shown f g 0 (Reg.glob_SCRATCH r) .glob 0 (0x80 + 4 * r.val))) false
       (y.1, d.locateLast y.2 0 (Reg.glob_SCRATCH r) false)) := by
  obtain ⟨hwhole, hplain, hat⟩ : Reg.glob_SCRATCH r / 4 * 4 = Reg.glob_SCRATCH r ∧ Reg.glob_SCRATCH r / 0x4000000 = 0 ∧
      Reg.glob_SCRATCH r % 0x4000000 = Reg.glob_SCRATCH r := by
    refine ⟨?_, ?_, ?_⟩ <;> unfold Reg.glob_SCRATCH <;> omega
  have hcopy : (if Dev.perFn .glob (0x80 + 4 * r.val) then Dev.fnKey 0 (Reg.glob_SCRATCH r) else Reg.glob_SCRATCH r) = Reg.glob_SCRATCH r := by
    rw [fnKey_zero, ite_self]
  unfold mapWrite
  simp only [hwhole, hplain, hat, locate_glob_SCRATCH r, regRow_glob_SCRATCH r, vis_glob_sees, hanswers, hcopy]
  rfl

/-- The port's write of a SCRATCH register stores the word, and beside it ends at most a mismatch there (R424, R451). -/
theorem mapWrite_glob_SCRATCH (f : Fuses) (g : Guard) (d : Dev) (r : Fin 4) (v : Word) {answers : Nat → Bool}
    (hanswers : answers (Reg.glob_SCRATCH r) = true) :
    ∃ p, (mapWrite f g d 14 0 (Reg.glob_SCRATCH r) 0xF v.toNat answers).2 = (d.wr (Reg.glob_SCRATCH r) v).withParity p := by
  obtain ⟨p, hreach⟩ := reachReg_scratchWrite f g d r v (d.shown f g 0 (Reg.glob_SCRATCH r) .glob 0 (0x80 + 4 * r.val))
  have hflags : ((d.wr (Reg.glob_SCRATCH r) v).withParity p).rd (Dev.fnKey 0 Reg.glob_ACC_EVENTS) = d.rd (Dev.fnKey 0 Reg.glob_ACC_EVENTS) :=
    Dev.rd_wr_ne d v (by rw [fnKey_zero]; unfold Reg.glob_SCRATCH Reg.glob_ACC_EVENTS; omega)
  have hfirst : ((d.wr (Reg.glob_SCRATCH r) v).withParity p).accFirst 0 = d.accFirst 0 := by
    unfold Dev.accFirst
    rw [Dev.rdN, hflags, ← Dev.rdN]
    rfl
  refine ⟨p, ?_⟩
  rw [mapWrite_scratchWrite f g d r v hanswers]
  dsimp only
  rw [hreach, locateLast_of_accFirst hfirst]

/-! ## A wake (R372) -/

namespace Dev
theorem setHold_standby (d : Dev) (n mask : Nat) : (d.setHold n mask).standby = d.standby := by
  unfold setHold
  rw [updChan_standby, setFld_standby]
theorem beginSettle_standby (d : Dev) (n : Nat) : (d.beginSettle n).standby = d.standby := by
  unfold beginSettle
  rw [updChan_standby, setHold_standby]
theorem settleTile_standby (d : Dev) (t : Nat) : (d.settleTile t).standby = d.standby := by
  unfold settleTile
  dsimp only
  rw [setFld_standby, setBit_standby, setBit_standby]
theorem acquire_standby (d : Dev) : d.acquire.standby = d.standby := by
  unfold acquire
  dsimp only
  rw [setBit_standby, setBit_standby, setFld_standby]
theorem settled_standby (d : Dev) (n : Nat) : (if d.chMode n = 0 then d else d.beginSettle n).standby = d.standby := by
  split
  · rfl
  · exact beginSettle_standby ..
theorem acquired_standby (d : Dev) : (if d.rdN Reg.clk_SPLL_ACT = 0 then d else d.acquire).standby = d.standby := by
  split
  · rfl
  · exact acquire_standby ..
theorem clk_standby (d : Dev) (c : ClkSt) : ({ d with clk := c } : Dev).standby = d.standby := rfl

/-- A wake ends STANDBY, and nothing that it starts begins it again (R372). -/
theorem leaveStandby_standby (d : Dev) (cause : Nat) (host : Bool) : (d.leaveStandby cause host).standby = false := by
  unfold leaveStandby
  dsimp only
  rw [foldl_keeps Dev.standby _ _ settleTile_standby, foldl_keeps Dev.standby _ _ settled_standby, clk_standby, setBit_standby,
    setBit_standby, acquired_standby, raise_standby, wrN_standby]

end Dev

theorem mgmtWakeD_of_enabled {d : Dev} (h : bitsOf (d.pwrNow Reg.pwr_WAKE) 16 1 = 1) :
    (mgmtWakeD d).standby = false ∧ (mgmtWakeD d).host.mgmtNack = false := by
  unfold mgmtWakeD
  rw [if_pos h]
  refine ⟨?_, Dev.mgmtSays_nack ..⟩
  rw [Dev.mgmtSays_standby]
  split
  · exact Dev.leaveStandby_standby ..
  · next hstandby => exact Bool.eq_false_iff.2 hstandby
theorem mgmtWakeD_of_disabled {d : Dev} (h : bitsOf (d.pwrNow Reg.pwr_WAKE) 16 1 = 0) : mgmtWakeD d = d.mgmtSays d.host.mgmtOut true := by
  unfold mgmtWakeD
  rw [if_neg (by rw [h]; decide)]

/-! ## The obligation -/

namespace State
variable (s : State)

/-- A mismatch that is known adds its lanes and nothing else; one that is not is recorded, flagged and counted (R422, R423). -/
theorem parityScrub_records {fn : Fn} {off : BitVec 28} {lanes : BitVec 4} {b : Block} {i r : Nat} {x : RegRow} (haligned : off.toNat % 4 = 0)
    (hplace : locate off.toNat = some (b, i, r)) (hrow : regRow off.toNat = some x) (hparity : hasParity b r x = true) (hlanes : lanes ≠ 0)
    {key : Nat} (hkey : (if Dev.perFn b r then Dev.fnKey fn off.toNat else off.toNat) = key) :
    (SMap.get 0 s.dev.parity key ≠ 0 → s.runs (.parityScrub ⟨fn, off⟩ lanes) (fun d' =>
      SMap.get 0 d'.parity key = SMap.get 0 s.dev.parity key ||| lanes.toNat ∧ d' = { s.dev with parity := d'.parity })) ∧
    (SMap.get 0 s.dev.parity key = 0 → s.runs (.parityScrub ⟨fn, off⟩ lanes) (fun d' =>
      SMap.get 0 d'.parity key = lanes.toNat ∧ d'.bit Reg.glob_ACC_EVENTS 6 = true ∧
      d'.rdN Reg.glob_PARITY_CNT = min (2^32 - 1) (s.dev.rdN Reg.glob_PARITY_CNT + 1))) := by
  refine ⟨fun hknown => ?_, fun hnew => ?_⟩
  · exact runs_of_onDev (exec_parityScrub ..) (parityScrubD_of_known haligned hplace hrow hparity hlanes hkey hknown)
      ⟨Dev.joinLanes_get .., rfl⟩
  · obtain ⟨last, hscrub⟩ := parityScrubD_of_new haligned hplace hrow hparity hlanes hkey hnew
    refine runs_of_onDev (exec_parityScrub ..) rfl ⟨?lanes, ?flag, ?count⟩
    case lanes => rw [Dev.parity_of_globals hscrub, Dev.flagMismatch_parity, Dev.joinLanes_get, hnew, Nat.zero_or]
    case flag => rw [Dev.bit, Dev.rd_of_globals hscrub (by decide), ← Dev.bit, Dev.flagMismatch_flag]
    case count => rw [Dev.rdN, Dev.rd_of_globals hscrub (by decide), ← Dev.rdN, Dev.flagMismatch_count, Dev.joinLanes_rdN]

/-- An ACK that matches the head record removes it; any other changes no queue and is flagged (R433). -/
theorem ack_removes {c : Fin 14} (v : Word) (hanswers : s.dev.answers 0 (Reg.faultQ_ACK c) none) :
    (∀ x rest, s.dev.faultQ c = x :: rest → x.acked v → s.runs (.ack c v) (fun d' =>
      d'.faultQ c = rest ∧ (d'.bit Reg.fault_STATUS c = !rest.isEmpty) ∧ ∀ k, k ≠ c.val → d'.faultQ k = s.dev.faultQ k)) ∧
    ((∀ x rest, s.dev.faultQ c = x :: rest → ¬ x.acked v) → s.runs (.ack c v) (fun d' =>
      d'.faults = s.dev.faults ∧ d'.bit Reg.fault_EVENTS 3 = true)) := by
  refine ⟨fun x rest hqueue hacked => ?_, fun hother => ?_⟩
  · obtain ⟨p, hack⟩ := ackD_of_acked hanswers hqueue hacked
    refine runs_of_onDev (exec_ack ..) hack ⟨?_, ?_, fun k hk => ?_⟩
    · rw [Dev.withParity_faultQ, Dev.setFaultQ_same]
    · rw [Dev.withParity_bit, Dev.setFaultQ_status _ _ _ (by omega)]
    · rw [Dev.withParity_faultQ, Dev.setFaultQ_other _ _ hk.symm]
  · obtain ⟨p, hack⟩ := ackD_of_not_acked hanswers hother
    refine runs_of_onDev (exec_ack ..) hack ⟨?_, ?_⟩
    · rw [Dev.withParity_faults, Dev.raise_faults]
    · rw [Dev.withParity_bit, Dev.bit_raise_same _ _ _ _ (by norm_num) (by norm_num), show Nat.testBit 8 3 = true from rfl, Bool.or_true]

theorem mgmtRead_of_sec {off : BitVec 28} {i r : Nat} (hplace : locate (off.toNat / 4 * 4) = some (.sec, i, r)) :
    s.runs (.mgmtRead (.reg off)) (fun d' => d' = s.dev.mgmtSays 0 false) := by
  refine runs_of_onFused (exec_mgmtRead ..) ?_
  simp only [mgmtReadF, mgmtWord_of_sec _ _ _ hplace]
  rfl

theorem mgmtRead_early (off : BitVec 28) :
    s.runs (.mgmtRead (.early off)) (fun d' => d'.host = (s.dev.mgmtSays s.dev.host.mgmtOut true).host) := by
  refine runs_of_onFused (exec_mgmtRead ..) ?_
  simp only [mgmtReadF, Dev.mgmtSays, mgmtWord_host]

theorem mgmtWrite_of_not_may {off : BitVec 28} (v : Word) (hmay : mgmtMay (off.toNat / 4 * 4) = false) :
    s.runs (.mgmtWrite off v) (fun d' => d' = s.dev.mgmtSays s.dev.host.mgmtOut true) := by
  refine runs_of_onFused (exec_mgmtWrite ..) ?_
  simp only [mgmtWriteF, hmay, Bool.false_eq_true, if_false]

section scratch
variable {off : BitVec 28} {r : Fin 4} (hstandby : s.dev.standby = false) (hplace : off.toNat / 4 * 4 = Reg.glob_SCRATCH r)
include hstandby hplace

theorem mgmtRead_of_scratch (hlatch : SMap.get none s.dev.latch (Dev.fnKey 14 (Reg.glob_SCRATCH r)) = none) (hcorrupt : s.dev.corrupt 0 0x100 = false) :
    s.runs (.mgmtRead (.reg off)) (fun d' => d' = s.dev.mgmtSays (s.dev.rdN (Reg.glob_SCRATCH r)) false) := by
  have hawake : s.dev.mgmtAwake (Reg.glob_SCRATCH r) = true := mgmtAwake_of_lt hstandby (by unfold Reg.glob_SCRATCH; omega)
  refine runs_of_onFused (exec_mgmtRead ..) ?_
  simp only [mgmtReadF, mgmtWord, hplace, locate_glob_SCRATCH r, hawake, readReg_glob_SCRATCH _ _ r _ hlatch hcorrupt]
  rfl

theorem mgmtWrite_of_scratch (v : Word) : s.runs (.mgmtWrite off v) (fun d' => d'.rd (Reg.glob_SCRATCH r) = v ∧
    (∀ k, k ≠ Reg.glob_SCRATCH r → d'.rd k = s.dev.rd k) ∧ d'.host.mgmtNack = false) := by
  have hawake : s.dev.mgmtAwake (Reg.glob_SCRATCH r) = true := mgmtAwake_of_lt hstandby (by unfold Reg.glob_SCRATCH; omega)
  have hmay : mgmtMay (Reg.glob_SCRATCH r) = true := mgmtMay_glob_SCRATCH r
  obtain ⟨p, hwrite⟩ := mapWrite_glob_SCRATCH s.fuses s.guard s.dev r v hawake
  refine runs_of_onFused (exec_mgmtWrite ..) ?_
  simp only [mgmtWriteF, hplace, hmay, if_true, hwrite, Dev.mgmtSays_rd, Dev.withParity_rd, Dev.mgmtSays_nack, and_true]
  exact ⟨Dev.rd_wr_same .., fun k hk => Dev.rd_wr_ne _ _ hk.symm⟩
end scratch

end State

/-- Settles O56: a scrub by what the safe state and the fault record leave (`State.parityScrub_records`), an ACK by what it does to the head
record (`State.ack_removes`), and the management port by what its reads, writes and wake do. -/
theorem scrubAcknowledgeAndManage : Obligations.ScrubAcknowledgeAndManage := by
  unfold Obligations.ScrubAcknowledgeAndManage
  intro s d
  refine ⟨?scrub, ?ack, ?port, fun x => ?address, fun x => ?other, fun hwake => ?wake, fun hwake => ?noWake⟩
  case scrub =>
    intro fn off lanes b i r x a k known haligned hplace hrow hparity hlanes
    exact s.parityScrub_records haligned hplace hrow hparity hlanes rfl
  case ack =>
    intro c v hanswers
    obtain ⟨hmatch, hother⟩ := s.ack_removes v hanswers
    exact ⟨fun x rest hqueue hid halso => hmatch x rest hqueue ⟨hid, halso⟩, hother⟩
  case port =>
    intro off v a
    refine ⟨fun i r hplace => s.mgmtRead_of_sec hplace, s.mgmtRead_early off, fun hmay => s.mgmtWrite_of_not_may v hmay, ?_⟩
    intro r hstandby hplace
    rw [hplace]
    exact ⟨s.mgmtRead_of_scratch hstandby hplace, s.mgmtWrite_of_scratch hstandby hplace v⟩
  case address => exact State.runs_of_onFused (exec_mgmtRead ..) rfl
  case other => exact State.runs_of_onFused (exec_mgmtRead ..) rfl
  case wake => exact State.runs_of_onDev (exec_mgmtWake s) rfl (mgmtWakeD_of_enabled hwake)
  case noWake => exact State.runs_of_onDev (exec_mgmtWake s) rfl (mgmtWakeD_of_disabled hwake)

end Sys2Proof.Machine

/-! PROOFS. What trust rests on, and how commands answer: fuses only advance, a sound guard stays sound, and every command but a
DRAM_REQUEST answers a next state. A command changes the fuses or the guard only through the few operations below; each is shown to keep
the promises once, and the dispatch is walked through at the end. -/
namespace Sys2Proof.Machine

/-! ## Fuses (R316, R317) -/

namespace Fuses
variable (f : Fuses)

theorem onlyAdvance_refl : f.onlyAdvance f := ⟨le_rfl, le_rfl, fun _ h => h, fun _ h => .inl h, fun _ _ _ => rfl⟩

theorem onlyAdvance_trans {f f' f'' : Fuses} (h : f.onlyAdvance f') (h' : f'.onlyAdvance f'') : f.onlyAdvance f'' := by
  obtain ⟨hlc, hsvn, hrevoked, hvalid, hdigest⟩ := h
  obtain ⟨hlc', hsvn', hrevoked', hvalid', hdigest'⟩ := h'
  refine ⟨hlc.trans hlc', hsvn.trans hsvn', fun k hk => hrevoked' k (hrevoked k hk), fun k hk => ?_, fun k hk hk'' => ?_⟩
  · exact (hvalid k hk).elim (hvalid' k) fun h => .inr (hrevoked' k h)
  · obtain h1 | h2 := hvalid k hk
    · exact (hdigest' k h1 hk'').trans (hdigest k hk h1)
    · exact absurd (hrevoked' k h2) (by omega)

theorem raiseSvn_onlyAdvance (n : Nat) : f.onlyAdvance (f.raiseSvn n) :=
  ⟨le_rfl, le_max_left .., fun _ h => h, fun _ h => .inl h, fun _ _ _ => rfl⟩

theorem advance_onlyAdvance (n : Nat) : f.onlyAdvance (f.advance n) :=
  ⟨le_max_left .., le_rfl, fun _ h => h, fun _ h => .inl h, fun _ _ _ => rfl⟩

/-- A key may enter an empty slot (R319). -/
theorem addKey_onlyAdvance {k : Nat} (h : f.key k = 0) (b : List Byte) :
    f.onlyAdvance { f with keys := SMap.set 0 f.keys k 1, digest := SMap.set [] f.digest k b } := by
  have hkey : ∀ j v, f.key j = v → v ≠ 0 → SMap.get 0 (SMap.set 0 f.keys k 1) j = v ∧ k ≠ j := by
    intro j v hj hv
    have hkj : k ≠ j := by rintro rfl; exact hv (hj.symm.trans h)
    exact ⟨(SMap.get_set_ne _ _ _ _ hkj).trans hj, hkj⟩
  refine ⟨le_rfl, le_rfl, fun j hj => (hkey j 2 hj two_ne_zero).1, fun j hj => .inl (hkey j 1 hj one_ne_zero).1, fun j hj _ => ?_⟩
  exact SMap.get_set_ne _ _ _ _ (hkey j 1 hj one_ne_zero).2

theorem revokeKey_onlyAdvance (k : Nat) : f.onlyAdvance { f with keys := SMap.set 0 f.keys k 2 } := by
  have hkey : ∀ j, SMap.get 0 (SMap.set 0 f.keys k 2) j = if k = j then 2 else f.key j := by
    intro j
    split
    · next hkj => rw [← hkj, SMap.get_set_same]
    · next hkj => exact SMap.get_set_ne _ _ _ _ hkj
  refine ⟨le_rfl, le_rfl, fun j hj => ?_, fun j hj => ?_, fun _ _ _ => rfl⟩ <;> rw [key, hkey] <;> split <;> simp_all
end Fuses

/-- A token that acts adds a key only to an empty slot (R319). -/
theorem key_of_tokenResult {f : Fuses} {d : Dev} (hresult : Dev.tokenResult f d = 0) (hkind : fieldAt d.tokenBytes 0 1 = 2) :
    f.key (fieldAt d.tokenBytes 2 1) = 0 := by
  by_contra hkey
  simp only [Dev.tokenResult, hkind] at hresult
  split_ifs at hresult <;> simp_all

theorem tokenFuses_onlyAdvance {f : Fuses} {d : Dev} (hresult : Dev.tokenResult f d = 0) : f.onlyAdvance (Dev.tokenFuses f d) := by
  unfold Dev.tokenFuses
  dsimp only
  split
  · exact f.advance_onlyAdvance _
  · next hkind => exact f.addKey_onlyAdvance (key_of_tokenResult hresult hkind) _
  · exact f.revokeKey_onlyAdvance _
  · exact f.onlyAdvance_refl

/-! ## The guard (R187, R194, R227) -/

namespace Guard
variable {g : Guard}

theorem default_sound : ({} : Guard).sound := by
  refine ⟨fun n => ?_, fun k => le_rfl⟩
  simp [of, GuardCh.sound]

theorem set_sound (h : g.sound) (n : Nat) {k : GuardCh} (hk : k.sound) : ({ g with ch := SMap.set {} g.ch n k } : Guard).sound := by
  refine ⟨fun j => ?_, h.2⟩
  by_cases hj : n = j
  · rw [of, ← hj, SMap.get_set_same]; exact hk
  · rw [of, SMap.get_set_ne _ _ _ _ hj]; exact h.1 j

theorem setTo_sound (h : g.sound) (n : Nat) {k : GuardTo} (hk : k.sealGap ≤ k.gap) :
    ({ g with tout := SMap.set {} g.tout n k } : Guard).sound := by
  refine ⟨h.1, fun j => ?_⟩
  by_cases hj : n = j
  · rw [ofTo, ← hj, SMap.get_set_same]; exact hk
  · rw [ofTo, SMap.get_set_ne _ _ _ _ hj]; exact h.2 j

/-- The working limits at the seals keep the promises of the seals. -/
theorem resealed_sound {k : GuardCh} (h : k.sound) :
    ({ k with lo := k.sealLo, hi := k.sealHi, slew := k.sealS, pwr := k.sealPwr } : GuardCh).sound := by
  obtain ⟨hlo, hle, hhi, hslew, hseal, hpwr, hsafe, hsafe'⟩ := h
  exact ⟨le_rfl, hlo.trans (hle.trans hhi), le_rfl, hslew.trans hseal, le_rfl, le_rfl, hsafe, hsafe'⟩

theorem reseal_sound (h : g.sound) (chs : List Nat) : (g.reseal chs).sound := by
  have hchs : ∀ (l : List Nat) (m : SMap GuardCh), ({ g with ch := m } : Guard).sound → ({ g with ch := l.foldl (fun m n =>
      SMap.upd {} m n (fun k => { k with lo := k.sealLo, hi := k.sealHi, slew := k.sealS, pwr := k.sealPwr })) m } : Guard).sound := by
    intro l
    induction l with
    | nil => exact fun _ h => h
    | cons n r ih => exact fun m h => ih _ (set_sound h n (resealed_sound (h.1 n)))
  exact hchs chs g.ch h

end Guard

theorem GuardCh.tighten_sound {c k : GuardCh} {which : Fin 3} {v : Word} (hc : c.sound) (h : c.tighten which v = some k) : k.sound := by
  obtain ⟨hlo, hle, hhi, hslew, hseal, hpwr, hsafe, hsafe'⟩ := hc
  unfold tighten at h
  dsimp only at h
  split_ifs at h with _ hin _ hin hin <;> obtain rfl := Option.some.inj h
  · exact ⟨hin.1, hin.2.1, hin.2.2, hslew, hseal, hpwr, hsafe, hsafe'⟩
  · exact ⟨hlo, hle, hhi, hin.1, hin.2, hpwr, hsafe, hsafe'⟩
  · exact ⟨hlo, hle, hhi, hslew, hseal, hin, hsafe, hsafe'⟩

/-- A channel record of a limits block keeps the promises (R309). -/
theorem limitsCh_sound {b : List Byte} {n : Nat} {k : GuardCh} (h : limitsCh b n = some k) : k.sound := by
  unfold limitsCh at h
  dsimp only at h
  split_ifs at h with _ hin <;> obtain rfl := Option.some.inj h
  · simp [GuardCh.sound]
  · obtain ⟨hle, hslew, _, _, hlo, hhi, _⟩ := hin
    exact ⟨le_rfl, hle, le_rfl, hslew, le_rfl, le_rfl, hlo, hhi⟩

theorem limitsGuard_sound (f : Fuses) (b : List Byte) : (limitsGuard f b).sound := by
  unfold limitsGuard
  split
  · exact Guard.default_sound
  · have hch : ∀ (l : List Nat) (m : SMap GuardCh), ({ ch := m } : Guard).sound →
        ({ ch := l.foldl (fun m n => SMap.set {} m n ((limitsCh b n).getD {})) m } : Guard).sound := by
      intro l
      induction l with
      | nil => exact fun _ h => h
      | cons n r ih =>
        refine fun m h => ih _ (Guard.set_sound h n ?_)
        cases hrec : limitsCh b n with
        | none => simp [GuardCh.sound]
        | some k => exact limitsCh_sound hrec
    have hto : ∀ (l : List Nat) (g : Guard), g.sound → ({ g with tout := l.foldl (fun (m : SMap GuardTo) (k : Nat) =>
        SMap.set {} m k ⟨blockWord b (0xC40 + 4 * k) 0, blockWord b (0xC40 + 4 * k) 0⟩) g.tout } : Guard).sound := by
      intro l
      induction l with
      | nil => exact fun _ h => h
      | cons k r ih => exact fun g h => ih _ (Guard.setTo_sound h k le_rfl)
    exact hto (List.range 8) _ (hch (List.range 96) [] Guard.default_sound)

/-! ## What the guard's commands answer -/

/-- A choice between two answers whose guards are sound. -/
theorem ite_sound {α : Type} {c : Prop} [Decidable c] {x y : Guard × α} (hx : c → x.1.sound) (hy : ¬ c → y.1.sound) : (if c then x else y).1.sound :=
  iteInduction (motive := fun x : Guard × α => x.1.sound) hx hy

section guardParts
variable {g : Guard} (h : g.sound) (f : Fuses) (d : Dev)
include h

theorem guardAccess_sound (fn off owner : Nat) (pf : Bool) {k : Guard → Dev → Guard × Dev} (hk : (k g d).1.sound) :
    (guardAccess fn off owner pf g d k).1.sound :=
  ite_sound (fun _ => h) fun _ => ite_sound (fun _ => h) fun _ => ite_sound (fun _ => h) fun _ => hk

theorem safeCodeG_sound (fn : Fn) (ch : Fin 96) (v : Word) : (safeCodeG fn ch v g d).1.sound := by
  unfold safeCodeG
  refine guardAccess_sound h d _ _ _ _ (ite_sound (fun hin => ?_) fun _ => h)
  obtain ⟨hlo, hle, hhi, hslew, hseal, hpwr, _, _⟩ := h.1 ch
  exact Guard.set_sound h _ ⟨hlo, hle, hhi, hslew, hseal, hpwr, hin.1, hin.2⟩

theorem guardWriteG_sound (fn : Fn) (ch : Fin 96) (which : Fin 3) (v : Word) : (guardWriteG fn ch which v g d).1.sound := by
  refine guardAccess_sound h d _ _ _ _ ?_
  cases hk : (g.of ch.val).tighten which v with
  | none => exact h
  | some k => exact Guard.set_sound h _ (GuardCh.tighten_sound (h.1 ch) hk)

theorem writeGap_sound (a : Acc) : (writeGap g d a).1.sound :=
  ite_sound (fun _ => h) fun hseal => ite_sound (fun _ => h) fun _ => Guard.setTo_sound h _ (Nat.le_of_not_lt hseal)

omit h in
theorem resetAll_sound (powerOn : Bool) (cause : Nat) (g : Guard) : (resetAll powerOn cause g d).1.sound := Guard.default_sound

theorem recGo_sound (v : Nat) : (Dev.recGo f g d v).1.sound := by
  refine ite_sound (fun _ => h) fun _ => ite_sound (fun _ => h) fun _ => ?_
  dsimp only
  split
  · exact h
  · exact ite_sound (fun _ => h) fun _ => ite_sound (fun _ => resetAll_sound ..) fun _ => h

theorem writeReg_sound (a : Acc) : (writeReg f g d a).1.sound := by
  refine ite_sound (fun _ => guardWriteG_sound h ..) fun _ => ite_sound (fun _ => guardWriteG_sound h ..) fun _ =>
    ite_sound (fun _ => guardWriteG_sound h ..) fun _ => ite_sound (fun _ => safeCodeG_sound h ..) fun _ => ite_sound (fun _ => writeGap_sound h ..) fun _ =>
    ite_sound (fun _ => ?recovery) fun _ => ite_sound (fun _ => ?reset) fun _ => h
  case recovery => exact ite_sound (fun _ => recGo_sound h ..) fun _ => h
  case reset => exact ite_sound (fun _ => resetAll_sound ..) fun _ => h

theorem reachReg_sound (a : Acc) (aliased : Bool) : (reachReg f g d a aliased).1.sound := by
  have hwrite := writeReg_sound h f d a
  refine ite_sound (fun _ => ?clearing) fun _ => ite_sound (fun _ => ?word) fun _ => ite_sound (fun _ => h) fun _ => hwrite
  case clearing => exact ite_sound (fun _ => h) fun _ => ite_sound (fun _ => h) fun _ => h
  case word =>
    exact ite_sound (fun _ => h) fun _ => ite_sound (fun _ => h) fun _ => ite_sound (fun _ => hwrite) fun _ =>
      ite_sound (fun _ => h) fun _ => ite_sound (fun _ => h) fun _ => h

theorem mapWrite_sound (req fn off : Nat) (be : BitVec 4) (v : Nat) (answers : Nat → Bool) : (mapWrite f g d req fn off be v answers).1.sound := by
  unfold mapWrite
  extract_lets
  split
  · exact ite_sound (fun _ => h) fun _ => ite_sound (fun _ => h) fun _ => reachReg_sound h ..
  · exact h

theorem bar0Write_sound (req fn off : Nat) (be : BitVec 4) (v : Nat) : (bar0Write f g d req fn off be v).1.sound :=
  ite_sound (fun _ => h) fun _ => mapWrite_sound h ..

theorem wakeG_sound (w : WakeSource) : (wakeG w g d).1.sound := by
  cases w
  case powerOn => exact resetAll_sound (g := g) ..
  all_goals exact h

theorem partDestroyG_sound (c : HostCmd) : (partDestroyG c g d).1.sound :=
  iteInduction (motive := Guard.sound) (fun _ => Guard.reseal_sound h _) fun _ => h

theorem executorStepG_sound (w : ExecStep) : (executorStepG w f g d).1.sound := by
  unfold executorStepG
  split
  · exact h
  · refine ite_sound (fun _ => h) fun _ => ?_
    extract_lets
    split
    · exact Guard.reseal_sound h _
    · exact h

theorem deviceResetG_sound (sources : BitVec 6) : (deviceResetG sources g d).1.sound :=
  ite_sound (fun _ => h) fun _ => resetAll_sound ..

theorem secResetG_sound (v : Word) : (secResetG v g d).1.sound :=
  ite_sound (fun _ => h) fun _ => resetAll_sound ..

theorem recCtlS_sound (v : Word) : (recCtlS v f g d).1.sound :=
  ite_sound (fun _ => h) fun _ => recGo_sound h ..
end guardParts

/-! ## What the commands that act through the fuses answer -/

/-- Fuses have only advanced from `x` to `y`, and the guard is sound where it was. -/
def Parts.keepsTrust (x y : Parts) : Prop := x.1.onlyAdvance y.1 ∧ (x.2.1.sound → y.2.1.sound)

namespace Parts

theorem keepsTrust_refl (x : Parts) : x.keepsTrust x := ⟨x.1.onlyAdvance_refl, id⟩

theorem keepsTrust_trans {x y z : Parts} (h : x.keepsTrust y) (h' : y.keepsTrust z) : x.keepsTrust z :=
  ⟨Fuses.onlyAdvance_trans h.1 h'.1, fun hg => h'.2 (h.2 hg)⟩

theorem onDev_keepsTrust (x : Parts) (k : Dev → Dev) : x.keepsTrust (x.onDev k) := x.keepsTrust_refl

/-- Where the fuses stay, only the guard is asked about. -/
theorem keepsTrust_of_guard {f : Fuses} {g g' : Guard} {d d' : Dev} (h : g.sound → g'.sound) : Parts.keepsTrust (f, g, d) (f, g', d') :=
  ⟨f.onlyAdvance_refl, h⟩

theorem foldl_keepsTrust {α : Type} (l : List α) {act : Parts → α → Parts} (hact : ∀ (x : Parts) (a : α), x.keepsTrust (act x a)) (x : Parts) :
    x.keepsTrust (l.foldl act x) := by
  induction l generalizing x with
  | nil => exact x.keepsTrust_refl
  | cons a r ih => exact keepsTrust_trans (hact x a) (ih _)

theorem restart_keepsTrust (x : Parts) (slot i : Nat) : x.keepsTrust (x.restart slot i) := keepsTrust_of_guard fun _ => Guard.default_sound

/-- A choice between two answers that both keep the trust. -/
theorem keepsTrust_ite {x y z : Parts} {c : Prop} [Decidable c] (hy : c → x.keepsTrust y) (hz : ¬ c → x.keepsTrust z) :
    x.keepsTrust (if c then y else z) :=
  iteInduction hy hz

theorem sections_keepsTrust {x y : Parts} (h : x.keepsTrust y) (slot typ : Nat) {act : Nat → Section → Parts → Parts}
    (hact : ∀ (i : Nat) (s : Section) (x : Parts), x.keepsTrust (act i s x)) : x.keepsTrust (y.sections slot typ act) := by
  refine keepsTrust_trans h (foldl_keepsTrust _ (fun x p => ?_) y)
  exact keepsTrust_ite (fun _ => x.keepsTrust_refl) fun _ => keepsTrust_ite (fun _ => x.restart_keepsTrust _ _) fun _ => hact _ _ x

theorem limits_keepsTrust (slot i : Nat) (s : Section) (x : Parts) : x.keepsTrust (Parts.limits slot i s x) :=
  keepsTrust_of_guard fun _ => limitsGuard_sound _ _
end Parts

theorem confirmed_onlyAdvance (f : Fuses) (d : Dev) : f.onlyAdvance (Dev.confirmed f d).1 := by
  unfold Dev.confirmed
  dsimp only
  split_ifs
  exacts [f.onlyAdvance_refl, f.raiseSvn_onlyAdvance _, f.onlyAdvance_refl]

/-- Where a token is not refused, nor its fuse program fails, the fuses advance. -/
theorem tokenFuses_onlyAdvance_of_not_refused (f : Fuses) (d : Dev) (v : Nat)
    (h : ¬ (if Dev.tokenResult f d = 0 ∧ fieldAt d.tokenBytes 0 1 ≠ 4 ∧ v % 2 = 1 then 6 else Dev.tokenResult f d) ≠ 0) :
    f.onlyAdvance (Dev.tokenFuses f d) := by
  refine tokenFuses_onlyAdvance ?_
  split_ifs at h
  · omega
  · exact not_not.1 h

theorem token_keepsTrust (f : Fuses) (g : Guard) (d : Dev) : Parts.keepsTrust (f, g, d) (Dev.token f g d) := by
  unfold Dev.token
  generalize d.free = p
  obtain ⟨v, e⟩ := p
  extract_lets
  refine Parts.keepsTrust_ite (fun _ => Parts.keepsTrust_of_guard id) fun hr => ?_
  have hacts : f.onlyAdvance (Dev.tokenFuses f d) := tokenFuses_onlyAdvance_of_not_refused f d v hr
  refine Parts.keepsTrust_ite (fun _ => ⟨hacts, fun _ => ?_⟩) fun _ => ⟨hacts, id⟩
  exact Guard.default_sound

/-- The fuses after a CONFIRM that may stand. -/
theorem confirmed_ite_onlyAdvance (f : Fuses) (d : Dev) (b : Bool) : f.onlyAdvance (if b then Dev.confirmed f d else (f, d)).1 :=
  iteInduction (motive := fun x : Fuses × Dev => f.onlyAdvance x.1) (fun _ => confirmed_onlyAdvance f d) fun _ => f.onlyAdvance_refl

theorem oneShots_keepsTrust (f : Fuses) (x : Guard × Dev) : Parts.keepsTrust (f, x.1, x.2) (oneShots f x) := by
  have hconfirm := confirmed_ite_onlyAdvance f x.2 (x.2.bit Reg.sec_BOOT_CTL 0)
  unfold oneShots
  generalize (if x.2.bit Reg.sec_BOOT_CTL 0 then Dev.confirmed f x.2 else (f, x.2)) = c at hconfirm ⊢
  have hx : Parts.keepsTrust (f, x.1, x.2) (c.1, x.1, if c.2.bit Reg.sec_BOOT_CTL 1 then c.2.setTry (c.2.fld Reg.sec_BOOT_CTL 2 1) else c.2) :=
    ⟨hconfirm, id⟩
  exact Parts.keepsTrust_ite (fun _ => Parts.keepsTrust_trans hx (token_keepsTrust _ _ _)) fun _ => hx

theorem hostWrite_keepsTrust (fn : Fn) (off : Nat) (be : BitVec 4) (v : Word) (f : Fuses) (g : Guard) (d : Dev) :
    Parts.keepsTrust (f, g, d) (hostWrite fn off be v f g d) :=
  Parts.keepsTrust_trans (y := (f, _, _)) (Parts.keepsTrust_of_guard fun h => bar0Write_sound h ..) (oneShots_keepsTrust f _)

theorem mapWrite_oneShots_keepsTrust (x : Parts) (req fn off : Nat) (be : BitVec 4) (v : Nat) (answers : Nat → Bool) :
    x.keepsTrust (oneShots x.1 (mapWrite x.1 x.2.1 x.2.2 req fn off be v answers)) :=
  Parts.keepsTrust_trans (y := (x.1, _, _)) (Parts.keepsTrust_of_guard fun h => mapWrite_sound h ..) (oneShots_keepsTrust _ _)

namespace Parts
variable (x : Parts) (slot : Nat)

theorem regs_keepsTrust (i : Nat) (s : Section) (x : Parts) : x.keepsTrust (Parts.regs slot i s x) := by
  refine foldl_keepsTrust _ (fun x r => keepsTrust_ite (fun _ => x.keepsTrust_refl) fun _ => keepsTrust_ite (fun _ => x.onDev_keepsTrust _) fun _ => ?_) x
  exact keepsTrust_ite (fun _ => keepsTrust_trans (mapWrite_oneShots_keepsTrust x ..) (onDev_keepsTrust _ _))
    fun _ => mapWrite_oneShots_keepsTrust x ..

theorem sections_onDev_keepsTrust {x y : Parts} (h : x.keepsTrust y) (typ : Nat) (k : Nat → Section → Dev → Dev) :
    x.keepsTrust (y.sections slot typ (fun i s x => x.onDev (k i s))) :=
  sections_keepsTrust h slot typ fun i s x => x.onDev_keepsTrust (k i s)

/-- Device work between the sections of a start, skipped after a reset. -/
theorem booted_onDev_keepsTrust {x y : Parts} (h : x.keepsTrust y) (k : Dev → Dev) : x.keepsTrust (if y.2.2.sec.booted then y.onDev k else y) :=
  keepsTrust_ite (fun _ => h) fun _ => h

theorem firstSections_keepsTrust : x.keepsTrust (x.firstSections slot) := by
  unfold firstSections
  extract_lets _ _ limited mapped trained microcode regs ready idled calibrated enveloped
  have hlimited : x.keepsTrust limited := sections_keepsTrust x.keepsTrust_refl slot 3 (limits_keepsTrust slot)
  have hmapped : x.keepsTrust mapped := sections_onDev_keepsTrust slot hlimited 4 _
  have htrained : x.keepsTrust trained := booted_onDev_keepsTrust hmapped _
  have hmicrocode : x.keepsTrust microcode := sections_onDev_keepsTrust slot htrained 2 _
  have hregs : x.keepsTrust regs := sections_keepsTrust hmicrocode slot 5 (regs_keepsTrust slot)
  have hready : x.keepsTrust ready := booted_onDev_keepsTrust hregs _
  have hidled : x.keepsTrust idled := sections_keepsTrust hready slot 6 fun _ _ x => x.keepsTrust_refl
  have hcalibrated : x.keepsTrust calibrated := booted_onDev_keepsTrust hidled _
  have henveloped : x.keepsTrust enveloped := sections_onDev_keepsTrust slot hcalibrated 7 _
  exact sections_onDev_keepsTrust slot henveloped 10 _

theorem lastSections_keepsTrust : x.keepsTrust (Dev.lastSections x slot) := by
  have h12 := fun k => sections_keepsTrust (sections_onDev_keepsTrust slot x.keepsTrust_refl 11 k) slot 12 fun _ _ x => x.keepsTrust_refl
  exact keepsTrust_ite (fun _ => h12 _) fun _ => sections_onDev_keepsTrust slot (sections_onDev_keepsTrust slot (h12 _) 8 _) 9 _
end Parts

section fuseParts
variable (f : Fuses) (g : Guard) (d : Dev)

theorem bootT_keepsTrust : Parts.keepsTrust (f, g, d) (bootT f g d) := by
  have hsame : ∀ d', Parts.keepsTrust (f, g, d) (f, g, d') := fun d' => Parts.keepsTrust_of_guard id
  have hsections : ∀ d' slot, Parts.keepsTrust (f, g, d) (Parts.firstSections (f, g, d') slot) :=
    fun d' slot => Parts.keepsTrust_trans (hsame d') (Parts.firstSections_keepsTrust _ slot)
  refine Parts.keepsTrust_ite (fun _ => hsame _) fun _ => Parts.keepsTrust_ite (fun _ => hsame _) fun _ => Parts.keepsTrust_ite (fun _ => hsame _) fun _ => ?_
  extract_lets
  split
  · exact hsections _ _
  · exact Parts.keepsTrust_ite (fun _ => hsame _) fun _ => hsections _ _
  · exact hsame _

theorem dramTrainingDoneT_keepsTrust (trained : BitVec 8) : Parts.keepsTrust (f, g, d) (dramTrainingDoneT trained f g d) := by
  refine Parts.keepsTrust_ite (fun _ => Parts.keepsTrust_refl _) fun _ => Parts.booted_onDev_keepsTrust ?_ _
  exact Parts.keepsTrust_trans (y := (f, g, _)) (Parts.keepsTrust_of_guard id) (Parts.lastSections_keepsTrust _ _)

theorem confirmT_keepsTrust : Parts.keepsTrust (f, g, d) (confirmT f g d) :=
  Parts.keepsTrust_ite (fun _ => Parts.keepsTrust_refl _) fun _ => ⟨confirmed_onlyAdvance f d, id⟩

theorem tokenOf_keepsTrust (k : Nat) : Parts.keepsTrust (f, g, d) (tokenOf k f g d) :=
  Parts.keepsTrust_ite (fun _ => Parts.keepsTrust_refl _) fun _ => token_keepsTrust f g d
end fuseParts

/-! ## The dispatch -/

/-- From `s` to `t` fuses have only advanced, and the guard is sound where it was. -/
def State.keepsTrust (s t : State) : Prop := Parts.keepsTrust (s.fuses, s.guard, s.dev) (t.fuses, t.guard, t.dev)

namespace State
variable {s t : State}

theorem keepsTrust_of_dev {d : Dev} (h : Host.Outcome.next { s with dev := d } = (.next t : Host.Outcome State Fault Refusal)) : s.keepsTrust t := by
  obtain rfl := Host.Outcome.next.inj h
  exact Parts.keepsTrust_of_guard id

theorem keepsTrust_of_onGuard {f : Guard → Dev → Guard × Dev} (hf : ∀ {g} (_ : g.sound) d, (f g d).1.sound) (h : s.onGuard f = .next t) :
    s.keepsTrust t := by
  obtain rfl := Host.Outcome.next.inj h
  exact Parts.keepsTrust_of_guard fun hg => hf hg _

theorem keepsTrust_of_onSealed {f : Fuses → Guard → Dev → Guard × Dev} (hf : ∀ {g} (_ : g.sound) f' d, (f f' g d).1.sound)
    (h : s.onSealed f = .next t) : s.keepsTrust t := by
  obtain rfl := Host.Outcome.next.inj h
  exact Parts.keepsTrust_of_guard fun hg => hf hg _ _

theorem keepsTrust_of_onTrust {f : Fuses → Guard → Dev → Fuses × Guard × Dev} (hf : ∀ f' g d, Parts.keepsTrust (f', g, d) (f f' g d))
    (h : s.onTrust f = .next t) : s.keepsTrust t := by
  obtain rfl := Host.Outcome.next.inj h
  exact hf _ _ _

/-- Every command keeps the trust: all but those named change the device alone. -/
theorem exec_keepsTrust {i : Instr} (h : exec i s = .next t) : s.keepsTrust t := by
  cases i
  case safeCode fn ch v => exact keepsTrust_of_onGuard (fun hg d => safeCodeG_sound hg d fn ch v) h
  case guardWrite fn ch which v => exact keepsTrust_of_onGuard (fun hg d => guardWriteG_sound hg d fn ch which v) h
  case wake w => exact keepsTrust_of_onGuard (fun hg d => wakeG_sound hg d w) h
  case partDestroy c => exact keepsTrust_of_onGuard (fun hg d => partDestroyG_sound hg d c) h
  case deviceReset sources => exact keepsTrust_of_onGuard (fun hg d => deviceResetG_sound hg d sources) h
  case secReset v => exact keepsTrust_of_onGuard (fun hg d => secResetG_sound hg d v) h
  case executorStep w => exact keepsTrust_of_onSealed (fun hg f d => executorStepG_sound hg f d w) h
  case recCtl v => exact keepsTrust_of_onSealed (fun hg f d => recCtlS_sound hg f d v) h
  case registerWrite fn off x v =>
    cases x with
    | write be => exact keepsTrust_of_onTrust (hostWrite_keepsTrust fn off.toNat be v) h
    | read be => exact keepsTrust_of_dev h
  case clearingWrite fn off v => exact keepsTrust_of_onTrust (hostWrite_keepsTrust fn off.toNat 0xF v) h
  case maskedWrite fn off v => exact keepsTrust_of_onTrust (hostWrite_keepsTrust fn off.toNat 0xF v) h
  case boot => exact keepsTrust_of_onTrust bootT_keepsTrust h
  case dramTrainingDone trained => exact keepsTrust_of_onTrust (fun f g d => dramTrainingDoneT_keepsTrust f g d trained) h
  case confirm => exact keepsTrust_of_onTrust confirmT_keepsTrust h
  case lcChange => exact keepsTrust_of_onTrust (fun f g d => tokenOf_keepsTrust f g d 1) h
  case addKey => exact keepsTrust_of_onTrust (fun f g d => tokenOf_keepsTrust f g d 2) h
  case revokeKey => exact keepsTrust_of_onTrust (fun f g d => tokenOf_keepsTrust f g d 3) h
  case debugUnlock => exact keepsTrust_of_onTrust (fun f g d => tokenOf_keepsTrust f g d 4) h
  case dramRequest port addr len write openHint data ns =>
    simp only [exec, execDramRequest] at h
    split_ifs at h
    exact keepsTrust_of_dev h
  all_goals exact keepsTrust_of_dev h

end State

/-- Settles O60: a tick changes the device alone, and so do most commands; the others keep the trust by what their own operation does
(`State.exec_keepsTrust`). -/
theorem everyStepKeepsTheTrust : Obligations.EveryStepKeepsTheTrust := by
  intro s t hstep
  unfold step at hstep
  split at hstep
  · exact State.keepsTrust_of_dev hstep
  · exact State.exec_keepsTrust (s := { s with pending := _ }) hstep

end Sys2Proof.Machine

/-! PROOFS. Sequence entries (chapter 4): REG, TSET, NOP and HALT. Each entry that issues has one equation that says which state it is retired from, or
which exception it raises. -/
namespace Sys2Proof.Machine

theorem exec_reg (e : Fin 64) (s : State) : exec (.reg e) s = s.onDev (regD e) := rfl
theorem exec_tset (e : Fin 64) (s : State) : exec (.tset e) s = s.onDev (tsetD e) := rfl
theorem exec_nopEntry (e : Fin 64) (s : State) : exec (.nopEntry e) s = s.onDev (nopEntryD e) := rfl
theorem exec_halt (e : Fin 64) (s : State) : exec (.halt e) s = s.onDev (haltD e) := rfl

/-! ## The functions of REG (R116) -/

section regFunc
variable (a b : Word)

theorem regFunc_sub : (regFunc 2 a b).toNat = (a.toNat + (2^32 - b.toNat)) % 2^32 := by
  rw [regFunc, BitVec.toNat_sub, Nat.add_comm]

theorem regFunc_addSat : (regFunc 3 a b).toNat = min (a.toNat + b.toNat) 0xFFFFFFFF :=
  (BitVec.toNat_ofNat ..).trans (Nat.mod_eq_of_lt (by omega))

theorem regFunc_subSat : (regFunc 4 a b).toNat = a.toNat - b.toNat :=
  (BitVec.toNat_ofNat ..).trans (Nat.mod_eq_of_lt (by omega))

theorem regFunc_shl : (regFunc 8 a b).toNat = a.toNat * 2^(b.toNat % 64) % 2^32 := by
  change (if 32 ≤ b.toNat % 64 then 0 else a <<< (b.toNat % 64)).toNat = _
  split
  · next h => exact (Nat.mod_eq_zero_of_dvd ((pow_dvd_pow 2 h).mul_left _)).symm
  · rw [BitVec.toNat_shiftLeft, Nat.shiftLeft_eq]

theorem regFunc_shr : (regFunc 9 a b).toNat = a.toNat / 2^(b.toNat % 64) := by
  change (if 32 ≤ b.toNat % 64 then 0 else a >>> (b.toNat % 64)).toNat = _
  split
  · next h => exact (Nat.div_eq_of_lt (a.isLt.trans_le (Nat.pow_le_pow_right two_pos h))).symm
  · rw [BitVec.toNat_ushiftRight, Nat.shiftRight_eq_div_pow]

theorem regFunc_sar : (regFunc 10 a b).toInt = a.toInt / 2^(b.toNat % 64) := by
  change (if 32 ≤ b.toNat % 64 then (if a.msb then BitVec.allOnes 32 else 0) else a.sshiftRight (b.toNat % 64)).toInt = _
  split
  · next h =>
    have hpow : (2 : Int)^32 ≤ 2^(b.toNat % 64) := pow_le_pow_right₀ one_le_two h
    have hlow := BitVec.le_toInt a
    have hhigh := BitVec.toInt_lt (x := a)
    split
    · next hneg =>
      have hlt : a.toInt < 0 := by rwa [BitVec.msb_eq_toInt, decide_eq_true_eq] at hneg
      exact (Int.ediv_eq_neg_one_of_neg_of_le hlt (by omega)).symm
    · next hpos =>
      have hle : 0 ≤ a.toInt := by rw [BitVec.msb_eq_toInt, decide_eq_true_eq] at hpos; omega
      exact (Int.ediv_eq_zero_of_lt hle (by omega)).symm
  · rw [BitVec.toInt_sshiftRight, Int.shiftRight_eq_div_pow]
    norm_cast

theorem regFunc_min : (regFunc 13 a b).toNat = min a.toNat b.toNat := by
  unfold regFunc
  simp only [BitVec.ult, decide_eq_true_eq]
  split_ifs <;> omega

theorem regFunc_max : (regFunc 14 a b).toNat = max a.toNat b.toNat := by
  unfold regFunc
  simp only [BitVec.ult, decide_eq_true_eq]
  split_ifs <;> omega
end regFunc

namespace Dev

/-- The second operand of the REG at the PC of context `c`: its immediate word or a register. -/
def regB (d : Dev) (c : Nat) : Word :=
  if ent (d.entryOf c) 1 12 1 = 1 then BitVec.ofNat 32 (ent (d.entryOf c) 3 0 32) else d.xReg c (ent (d.entryOf c) 1 8 4)

/-- What the REG at the PC of context `c` computes. -/
def regValue (d : Dev) (c : Nat) : Word :=
  if ent (d.entryOf c) 0 11 4 = 11 then SMap.get 0 d.mailbox ((d.regB c).toNat % 4096)
  else if ent (d.entryOf c) 0 11 4 = 12 then BitVec.ofNat 32 (min (2^32 - 1) (d.rsOf c - d.ctx64 c 4))
  else regFunc (ent (d.entryOf c) 0 11 4) (d.xReg c (ent (d.entryOf c) 1 4 4)) (d.regB c)

theorem regD_of_issues {d : Dev} {e : Fin 64} {c : Nat} (h : d.issues e c 6) :
    regD e d =
      if ent (d.entryOf c) 0 11 4 = 11 ∧ d.mbIn (d.ctxRecOwner c) ((d.regB c).toNat % 4096) = false then d.raiseExc e c 6 ((d.regB c).toNat % 4096)
      else (d.setXReg c (ent (d.entryOf c) 1 0 4) (d.regValue c)).retireEntry e c (d.ctxPc c + 1) true := by
  rw [regD, issue_of_issues h]
  unfold regValue regB entryOf
  dsimp only
  simp only [Bool.not_eq_eq_eq_not, Bool.not_true]
  split_ifs <;> rfl

/-- A retired entry leaves the record but for the PC, and the launches, as its own effect left them. -/
theorem retireEntry_keeps {d d' : Dev} {e c pc : Nat} {slot : Bool} (h : pc < 2^20) (hctx : ∀ w, w ≠ 2 → d'.ctxW c w = d.ctxW c w)
    (hlaunches : d'.launches = d.launches) :
    (d'.retireEntry e c pc slot).ctxPc c = pc ∧ (∀ w, w ≠ 2 → (d'.retireEntry e c pc slot).ctxW c w = d.ctxW c w) ∧
      (d'.retireEntry e c pc slot).launches = d.launches :=
  ⟨retireEntry_ctxPc _ _ _ _ _ h, fun w hw => (retireEntry_ctxW _ _ _ _ _ _ h hw.symm).trans (hctx w hw),
    (retireEntry_launches _ _ _ _ _ h).trans hlaunches⟩

theorem setXReg_xReg (d : Dev) (c i : Nat) (v : Word) : (d.setXReg c i v).xReg c i = v := ctxW_setCtxW_same ..

theorem setXReg_ctxW (d : Dev) (c : Nat) {i w : Nat} (v : Word) (hi : i < 16) (hw : w ≠ 12 + i) : (d.setXReg c i v).ctxW c w = d.ctxW c w :=
  ctxW_setCtxW_other _ _ _ (by omega)

/-- REG where it raises nothing: its result in X[XD], and nothing else of the context but the PC. -/
theorem regRetired_spec (d : Dev) (e c i : Nat) (v : Word) {pc : Nat} (slot : Bool) (h : pc < 2^20) (hi : i < 16) :
    ((d.setXReg c i v).retireEntry e c pc slot).xReg c i = v ∧ ((d.setXReg c i v).retireEntry e c pc slot).ctxPc c = pc ∧
      (∀ w, w ≠ 2 → w ≠ 12 + i → ((d.setXReg c i v).retireEntry e c pc slot).ctxW c w = d.ctxW c w) ∧
      ((d.setXReg c i v).retireEntry e c pc slot).launches = d.launches := by
  refine ⟨?_, retireEntry_ctxPc _ _ _ _ _ h, fun w hw hx => ?_, (retireEntry_launches _ _ _ _ _ h).trans (setCtxW_launches ..)⟩
  · exact (retireEntry_ctxW _ _ _ _ _ _ h (by omega)).trans (setXReg_xReg ..)
  · exact (retireEntry_ctxW _ _ _ _ _ _ h hw.symm).trans (setXReg_ctxW _ _ _ hi hx)

/-- A word whose function is not one of those that read the mailbox or the anchor. -/
theorem regValue_of_func {d : Dev} {c f : Nat} (h : ent (d.entryOf c) 0 11 4 = f) (h11 : f ≠ 11) (h12 : f ≠ 12) :
    d.regValue c = regFunc f (d.xReg c (ent (d.entryOf c) 1 4 4)) (d.regB c) := by
  rw [regValue, h, if_neg h11, if_neg h12]

theorem regValue_of_ldmb {d : Dev} {c : Nat} (h : ent (d.entryOf c) 0 11 4 = 11) : d.regValue c = SMap.get 0 d.mailbox ((d.regB c).toNat % 4096) := by
  rw [regValue, if_pos h]

theorem regValue_of_ldrs {d : Dev} {c : Nat} (h : ent (d.entryOf c) 0 11 4 = 12) :
    (d.regValue c).toNat = min (d.ctx64 c 6 - d.ctx64 c 4) 0xFFFFFFFF := by
  rw [regValue, h, if_neg (by decide), if_pos rfl, BitVec.toNat_ofNat, rsOf]
  omega

end Dev

/-- Settles O1: an LDMB outside the slice raises its exception, and any other REG is retired with its result (`Dev.regD_of_issues`). -/
theorem regWritesOneRegister : Obligations.RegWritesOneRegister := by
  intro s e c hissues hpc d n f a b _
  have hreg := Dev.regD_of_issues hissues
  refine ⟨fun hrange => ?outside, fun hrange => ?inside⟩
  case outside => exact State.excepts_of_raiseExc (exec_reg e s) (hreg.trans (if_pos hrange)) (by decide)
  case inside =>
    refine State.runs_of_onDev (exec_reg e s) (hreg.trans (if_neg fun h => Bool.false_ne_true (h.2.symm.trans (hrange h.1)))) ?_
    obtain ⟨hvalue, hnext, hother, hlaunches⟩ := d.regRetired_spec e c (ent n 1 0 4) (d.regValue c) true hpc (ent_lt ..)
    have hfunc {k : Nat} (h : f = k) (h11 : k ≠ 11) (h12 : k ≠ 12) := hvalue.trans (Dev.regValue_of_func h h11 h12)
    dsimp only
    refine ⟨fun h => ?mov, fun h => ?add, fun h => ?sub, fun h => ?addSat, fun h => ?subSat, fun h => ?and, fun h => ?or, fun h => ?xor,
      fun h => ?shl, fun h => ?shr, fun h => ?sar, fun h => ?ldmb, fun h => ?ldrs, fun h => ?min, fun h => ?max, hnext, hother, hlaunches⟩
    case mov => exact hfunc h (by decide) (by decide)
    case add => exact (congrArg BitVec.toNat (hfunc h (by decide) (by decide))).trans (BitVec.toNat_add ..)
    case sub => exact (congrArg BitVec.toNat (hfunc h (by decide) (by decide))).trans (regFunc_sub ..)
    case addSat => exact (congrArg BitVec.toNat (hfunc h (by decide) (by decide))).trans (regFunc_addSat ..)
    case subSat => exact (congrArg BitVec.toNat (hfunc h (by decide) (by decide))).trans (regFunc_subSat ..)
    case and => exact hfunc h (by decide) (by decide)
    case or => exact hfunc h (by decide) (by decide)
    case xor => exact hfunc h (by decide) (by decide)
    case shl => exact (congrArg BitVec.toNat (hfunc h (by decide) (by decide))).trans (regFunc_shl ..)
    case shr => exact (congrArg BitVec.toNat (hfunc h (by decide) (by decide))).trans (regFunc_shr ..)
    case sar => exact (congrArg BitVec.toInt (hfunc h (by decide) (by decide))).trans (regFunc_sar ..)
    case ldmb => exact hvalue.trans (Dev.regValue_of_ldmb h)
    case ldrs => exact (congrArg BitVec.toNat hvalue).trans (Dev.regValue_of_ldrs h)
    case min => exact (congrArg BitVec.toNat (hfunc h (by decide) (by decide))).trans (regFunc_min ..)
    case max => exact (congrArg BitVec.toNat (hfunc h (by decide) (by decide))).trans (regFunc_max ..)

namespace Dev

/-! ## TSET, NOP and HALT (R115, R117) -/

/-- The anchor that the TSET at the PC of context `c` names. -/
def tsetValue (d : Dev) (c : Nat) : Nat :=
  let imm := ent (d.entryOf c) 2 0 32 + 2^32 * ent (d.entryOf c) 3 0 32
  match ent (d.entryOf c) 0 11 2 with
  | 0 => imm
  | 1 => d.ctx64 c 4 + imm
  | 2 => d.ctx64 c 6 + imm
  | _ => d.ctx64 c 10 + imm

theorem tsetD_of_issues {d : Dev} {e : Fin 64} {c : Nat} (h : d.issues e c 10) :
    tsetD e d =
      if ent (d.entryOf c) 0 11 2 = 2 ∧ d.isHeld c = false then d.raiseExc e c 2 0
      else if 2^64 ≤ d.tsetValue c then d.raiseExc e c 7 (timeDetail (d.entryOf c))
      else (d.setCtx64 c 4 (d.tsetValue c)).retireEntry e c (d.ctxPc c + 1) true := by
  rw [tsetD, issue_of_issues h]
  unfold tsetValue entryOf
  dsimp only
  generalize ent (d.entryAt (d.ctxPc c)) 0 11 2 = mode
  match mode with
  | 0 => simp only [OfNat.zero_ne_ofNat, false_and, if_false]; split_ifs <;> rfl
  | 1 => simp only [OfNat.one_ne_ofNat, false_and, if_false]; split_ifs <;> rfl
  | 2 =>
    cases hheld : d.isHeld c
    · simp
    · simp only [rsOf, Bool.true_eq_false, and_false, if_false, if_true]; split_ifs with hv <;> simp only [hv] <;> rfl
  | k + 3 => simp only [show k + 3 ≠ 2 by omega, false_and, if_false]; split_ifs <;> rfl

theorem nopEntryD_of_issues {d : Dev} {e : Fin 64} {c : Nat} (h : d.issues e c 15) :
    nopEntryD e d = d.retireEntry e c (d.ctxPc c + 1) true := by
  rw [nopEntryD, issue_of_issues h]
  rfl

theorem retireEntry_run (d : Dev) (e c pc : Nat) (slot : Bool) (h : pc < 2^20) :
    ((d.retireEntry e c pc slot).engOf e).run = (d.engOf e).run + 1 := by
  have hin : ¬ 2^20 ≤ pc := by omega
  simp only [retireEntry, hin, false_and, if_false, engOf_updEng_same]
  rfl

theorem haltD_of_issues {d : Dev} {e : Fin 64} {c : Nat} (h : d.issues e c 0) : haltD e d = (d.retireEntry e c (d.ctxPc c) true).leave c 4 := by
  have hpc : d.ctxPc c < 2^20 := ctxFld_lt ..
  have hstate : (d.retireEntry e c (d.ctxPc c) true).ctxState c = d.ctxState c := by
    rw [ctxState, ctxState, ctxFld, ctxFld, retireEntry_ctxW _ _ _ _ _ _ hpc (by decide)]
  have hissue : d.issue e 0 (fun _ pc _ d => .ok (pc, d)) = d.retireEntry e c (d.ctxPc c) true := issue_of_issues h _
  obtain ⟨⟨⟨hctx, hrunning, hswitch, hmoving, hservice⟩, _⟩, _⟩ := id h
  have hrun := retireEntry_run d e c (d.ctxPc c) true hpc
  unfold haltD
  simp only [hissue, hctx, hrunning, hswitch, hmoving, hservice, hstate, hrun]
  simp

/-- An entry that stays at its PC changes no word of the record. -/
theorem retireEntry_ctxW_of_pc (d : Dev) (e c : Nat) (slot : Bool) (w : Nat) : (d.retireEntry e c (d.ctxPc c) slot).ctxW c w = d.ctxW c w := by
  have hpc : d.ctxPc c < 2^20 := ctxFld_lt ..
  by_cases hw : 2 = w
  · subst hw
    have hin : ¬ 2^20 ≤ d.ctxPc c := by omega
    simp only [retireEntry, hin, false_and, if_false]
    rw [ctxW_congr (d := d.setCtxFld c 2 0 20 (d.ctxPc c)) (by simp only [updEng_ctx, setBit_ctx, addSat64_ctx]), setCtxFld, ctxW_setCtxW_same,
      Nat.mod_eq_of_lt hpc, ctxPc, ctxFld, Nat.sub_add_cancel ?_, BitVec.ofNat_toNat, BitVec.setWidth_eq]
    rw [bitsOf, pow_zero, mul_one, Nat.div_one]
    exact Nat.mod_le ..
  · exact retireEntry_ctxW _ _ _ _ _ _ hpc hw

theorem retireEntry_stopped (d : Dev) (e c pc : Nat) (slot : Bool) (h : pc < 2^20) (i : Nat) : (d.retireEntry e c pc slot).stopped i = d.stopped i := by
  have hin : ¬ 2^20 ≤ pc := by omega
  have heng : ((d.setCtxFld c 2 0 20 pc |>.addSat64 (Reg.eng_ISSUED_LO e) 1).setBit (Reg.eng_STATUS e) 15 false).eng = d.eng := by
    rw [setBit_eng, addSat64_eng, setCtxFld_eng]
  simp only [retireEntry, hin, false_and, if_false]
  unfold stopped
  by_cases hi : e = i
  · rw [← hi, engOf_updEng_same, engOf_congr heng]
  · rw [engOf_updEng_ne _ _ hi, engOf_congr heng]

/-- A context that halts leaves its engine; its record is what the context store holds. -/
theorem halted_spec {d : Dev} {e c : Nat} (heng : d.ctxEng c = some e) :
    let d' := (d.retireEntry e c (d.ctxPc c) true).leave c 4
    d'.ctxState c = 4 ∧ d'.engCtx e = none ∧ d'.ctxPc c = d.storePc c ∧ d'.launches = d.launches := by
  have hpc : d.ctxPc c < 2^20 := ctxFld_lt ..
  have heng' : (d.retireEntry e c (d.ctxPc c) true).ctxEng c = some e := by
    rw [← heng, ctxEng, ctxEng, ctxFld, ctxFld, ctxFld, ctxFld, retireEntry_ctxW_of_pc]
  have hstore : (d.retireEntry e c (d.ctxPc c) true).storeW c 2 = d.storeW c 2 :=
    storeW_congr (retireEntry_stopped _ _ _ _ _ hpc) _ _ (retireEntry_ctxW_of_pc ..) (retireEntry_ctxW_of_pc ..)
  refine ⟨leave_state _ _ _ (by decide), leave_engCtx _ _ _ _ heng', ?_, (leave_launches ..).trans (retireEntry_launches _ _ _ _ _ hpc)⟩
  rw [ctxPc, ctxFld, leave_ctxW _ _ _ _ (by decide) (by decide) (by decide) (by decide), hstore]

/-- An exception leaves the words of the hot state as the context store holds them (R141). -/
theorem raiseExc_ctxW (d : Dev) (e c code detail : Nat) {w : Nat} (h0 : 0 ≠ w) (h3 : 3 ≠ w) (h48 : w < 48) :
    (d.raiseExc e c code detail).ctxW c w = d.storeW c w := by
  unfold raiseExc
  extract_lets d₁
  have hctx : d₁.ctx = d.ctx := iteInduction (motive := fun x : Dev => x.ctx = d.ctx) (fun _ => raise_ctx ..) fun _ => rfl
  have heng : d₁.eng = d.eng := iteInduction (motive := fun x : Dev => x.eng = d.eng) (fun _ => raise_eng ..) fun _ => rfl
  have hkept : ∀ w, w < 48 → (d₁.recordExc e c code detail).ctxW c w = d.ctxW c w := fun w hw =>
    (recordExc_ctxW _ _ _ _ _ _ (.inl hw)).trans (ctxW_congr hctx ..)
  rw [leave_ctxW _ _ _ _ h0 h3 (by omega) (by omega)]
  exact storeW_congr (fun i => (recordExc_stopped ..).trans (stopped_congr heng i)) _ _ (hkept w h48) (hkept 0 (by decide))

end Dev

/-- Settles O4: TSET by what it does to the anchor or raises, NOP and HALT by their equations (`Dev.tsetD_of_issues`, `Dev.nopEntryD_of_issues`,
`Dev.haltD_of_issues`). -/
theorem tsetNopHalt : Obligations.TsetNopHalt := by
  intro s e c d n imm v
  refine ⟨fun hissues => ?tset, fun hissues hpc => ?nop, fun hissues heng => ?halt⟩
  case tset =>
    have htset := Dev.tsetD_of_issues hissues
    refine ⟨fun hmode hheld => ?noStamp, fun hheld hrange => ?range, fun hheld hrange hpc => ?set⟩
    case noStamp => exact State.excepts_of_raiseExc (exec_tset e s) (htset.trans (if_pos ⟨hmode, hheld⟩)) (by decide)
    all_goals have hstamp := htset.trans (if_neg fun h => Bool.false_ne_true (h.2.symm.trans (hheld h.1)))
    case range =>
      have hraise := hstamp.trans (if_pos hrange)
      refine ⟨State.excepts_of_raiseExc (exec_tset e s) hraise (by decide), State.runs_of_onDev (exec_tset e s) hraise ?_⟩
      exact ⟨d.raiseExc_ctxW _ _ _ _ (by decide) (by decide) (by decide), d.raiseExc_ctxW _ _ _ _ (by decide) (by decide) (by decide)⟩
    case set =>
      refine State.runs_of_onDev (exec_tset e s) (hstamp.trans (if_neg hrange.not_ge)) ⟨?_, Dev.retireEntry_ctxPc _ _ _ _ _ hpc, fun w hw h4 h5 => ?_⟩
      · exact (Dev.retireEntry_ctx64 _ _ _ _ _ hpc (by decide)).trans (Dev.ctx64_setCtx64_same _ _ _ _ hrange)
      · exact (Dev.retireEntry_ctxW _ _ _ _ _ _ hpc hw.symm).trans (Dev.ctxW_setCtx64_other _ _ _ h4.symm h5.symm)
  case nop => exact State.runs_of_onDev (exec_nopEntry e s) (Dev.nopEntryD_of_issues hissues) (Dev.retireEntry_keeps hpc (fun _ _ => rfl) rfl)
  case halt => exact State.runs_of_onDev (exec_halt e s) (Dev.haltD_of_issues hissues) (Dev.halted_spec heng)

end Sys2Proof.Machine

/-! PROOFS. Sequence entries (chapter 4): the entries that launch, and the exceptions. A launching entry that issues either raises the exception of
its requested time or sends one record (`sendLaunch_of_treq`); what else it does is its own. -/
namespace Sys2Proof.Machine

theorem exec_play (r : BankRead) (s : State) : exec (.play r) s = s.onDev (playEccD r.eng r.ecc) := rfl
theorem exec_gap (e : Fin 64) (s : State) : exec (.gap e) s = s.onDev (gapD e) := rfl
theorem exec_frame (e : Fin 64) (s : State) : exec (.frame e) s = s.onDev (frameD e) := rfl
theorem exec_mark (e : Fin 64) (s : State) : exec (.mark e) s = s.onDev (markD e) := rfl
theorem exec_event (e : Fin 64) (s : State) : exec (.event e) s = s.onDev (eventD e) := rfl
theorem exec_switch (e : Fin 64) (s : State) : exec (.switch e) s = s.onDev (switchD e) := rfl

namespace Dev

/-! ## The requested time (R91) -/

/-- The requested time as the entry forms it. -/
theorem treqOf_eq (d : Dev) (c n : Nat) :
    d.treqOf c n =
      if ent n 0 4 2 = 3 ∧ d.isHeld c = false then .error 2
      else if d.requested c n < 0 ∨ 2^64 ≤ d.requested c n then .error 7
      else .ok (d.requested c n).toNat := by
  have hlow : (d.ctx64 c 8 : Int) < 2^64 := by
    have h0 := (d.ctxW c 8).isLt
    have h1 := (d.ctxW c 9).isLt
    unfold ctx64
    norm_num
    omega
  have hmode : ent n 0 4 2 < 4 := ent_lt n 0 4 2
  unfold treqOf requested
  generalize ent n 0 4 2 = mode at hmode ⊢
  match mode with
  | 0 => simp; omega
  | 1 => simp
  | 2 => simp [sext_eq_toInt_ofNat]
  | 3 =>
    cases d.isHeld c
    · simp
    · simp [rsOf]
      rfl
  | k + 4 => omega

theorem treqOf_of_timeOk {d : Dev} {c n t : Nat} (h : d.timeOk c n t) : d.treqOf c n = .ok t := by
  obtain ⟨hreq, hrange, hheld⟩ := h
  have hin : ¬ ((t : Int) < 0 ∨ 2^64 ≤ (t : Int)) := by omega
  rw [treqOf_eq, if_neg fun h => Bool.false_ne_true (h.2.symm.trans (hheld h.1)), hreq, if_neg hin, Int.toNat_natCast]

/-! ## The record that a launching entry sends (R27, R87, R92, R98) -/

section record
variable (e c n t : Nat) (kind : LKind) (d : Dev)

theorem record_launches : (sendLaunch.record e c n kind t d).launches = d.launches ++ [({
    eng := e, ctx := c, lsn := (d.ctxFld c 3 0 16 + 1) % 2^16, chans := d.ctxChans c, kind := kind, treq := t, tmin := (d.engOf e).tsw,
    gen := if d.isHeld c then d.ctxFld c 2 28 3 + 1 else 0, coarse := ent n 0 4 2 == 3 && d.ctxFld c 2 25 1 == 1, li := none, accepted := false,
    teff := 0, descs := [], src := e } : Launch)] := rfl

theorem record_lsn : (sendLaunch.record e c n kind t d).ctxFld c 3 0 16 = (d.ctxFld c 3 0 16 + 1) % 2^16 := by
  unfold sendLaunch.record
  rw [ctxFld_setCtxFld_other _ _ _ _ _ _ _ _ (by omega) (by omega), ctxFld_setCtxFld_ne _ _ _ _ _ _ _ (by omega),
    ctxFld_setCtxFld_ne _ _ _ _ _ _ _ (by omega), ctxFld_setCtx64_ne _ _ _ _ _ (by omega) (by omega), ctxFld_setCtxFld_same _ _ _ _ _ _ (by omega),
    Nat.mod_mod]

theorem record_ctxW {w : Nat} (h2 : 2 ≠ w) (h3 : 3 ≠ w) (h10 : 10 ≠ w) (h11 : 11 ≠ w) : (sendLaunch.record e c n kind t d).ctxW c w = d.ctxW c w := by
  unfold sendLaunch.record
  rw [ctxW_setCtxFld_other _ _ _ _ _ h3, ctxW_setCtxFld_other _ _ _ _ _ h2, ctxW_setCtxFld_other _ _ _ _ _ h2, ctxW_setCtx64_other _ _ _ h10 h11,
    ctxW_setCtxFld_other _ _ _ _ _ h3]
  rfl

theorem record_treq (h : t < 2^64) : (sendLaunch.record e c n kind t d).ctx64 c 10 = t := by
  have hword : ∀ w, 2 ≠ w → 3 ≠ w → (sendLaunch.record e c n kind t d).ctxW c w = ((d.setCtxFld c 3 0 16 ((d.ctxFld c 3 0 16 + 1) % 2^16)).setCtx64 c 10 t).ctxW c w := by
    intro w h2 h3
    unfold sendLaunch.record
    rw [ctxW_setCtxFld_other _ _ _ _ _ h3, ctxW_setCtxFld_other _ _ _ _ _ h2, ctxW_setCtxFld_other _ _ _ _ _ h2]
    rfl
  rw [ctx64_congr (hword 10 (by decide) (by decide)) (hword 11 (by decide) (by decide)), ctx64_setCtx64_same _ _ _ _ h]

theorem record_isHeld : (sendLaunch.record e c n kind t d).isHeld c = false := by
  unfold sendLaunch.record isHeld
  rw [ctxFld_setCtxFld_ne _ _ _ _ _ _ _ (by omega), ctxFld_setCtxFld_other _ _ _ _ _ _ _ _ (by omega) (by omega),
    ctxFld_setCtxFld_same _ _ _ _ _ _ (by omega)]
  rfl
end record

/-- The device of an entry whose record has gone, whatever else the entry changed of the device, is one that sent it. -/
theorem sends_of_record {d d' : Dev} {e c t : Nat} {kind : LKind} {slot : Bool} (hpc : d.ctxPc c + 1 < 2^20) (ht : t < 2^64)
    (hlaunches : d'.launches = (sendLaunch.record e c (d.entryOf c) kind t d).launches)
    (hctx : ∀ w, w ≠ 8 → w ≠ 9 → d'.ctxW c w = (sendLaunch.record e c (d.entryOf c) kind t d).ctxW c w) :
    d.sends (d'.retireEntry e c (d.ctxPc c + 1) slot) e c kind t := by
  have hfld : ∀ w lo k, w ≠ 8 → w ≠ 9 → d'.ctxFld c w lo k = (sendLaunch.record e c (d.entryOf c) kind t d).ctxFld c w lo k := by
    intro w lo k h8 h9
    rw [ctxFld, ctxFld, hctx w h8 h9]
  refine ⟨?_, ?_, ?_, ?_, retireEntry_ctxPc _ _ _ _ _ hpc⟩
  · rw [retireEntry_launches _ _ _ _ _ hpc, hlaunches, record_launches]
  · rw [ctxFld, retireEntry_ctxW _ _ _ _ _ _ hpc (by decide), ← ctxFld, hfld _ _ _ (by decide) (by decide), record_lsn]
  · rw [retireEntry_ctx64 _ _ _ _ _ hpc (by decide), ctx64_congr (hctx 10 (by decide) (by decide)) (hctx 11 (by decide) (by decide)), record_treq _ _ _ _ _ _ ht]
  · rw [retireEntry_isHeld _ _ _ _ _ hpc, isHeld, hfld _ _ _ (by decide) (by decide), ← isHeld, record_isHeld]

/-! ## The device of an entry that sent its record -/

/-- A launching entry without a requested end of its own sends its record. -/
theorem sendLaunch_of_treq {d : Dev} {e c n t : Nat} {kind : LKind} {tend : Nat → Option Nat} (h : d.treqOf c n = .ok t) (hend : tend t = none) :
    sendLaunch e c n d kind tend = .ok (sendLaunch.record e c n kind t d) := by
  unfold sendLaunch
  rw [h]
  dsimp only
  rw [hend]

/-- A PLAY or GAP whose requested end is a device time sends its record and moves E. -/
theorem sendLaunch_of_end {d : Dev} {e c n t x : Nat} {kind : LKind} {tend : Nat → Option Nat} (h : d.treqOf c n = .ok t) (hend : tend t = some x)
    (hx : x < 2^64) : sendLaunch e c n d kind tend = .ok ((sendLaunch.record e c n kind t d).setCtx64 c 8 x) := by
  unfold sendLaunch
  rw [h]
  dsimp only
  rw [hend]
  exact if_neg hx.not_ge

theorem sendLaunch_of_error {d : Dev} {e c n code : Nat} {kind : LKind} {tend : Nat → Option Nat} (h : d.treqOf c n = .error code) :
    sendLaunch e c n d kind tend = .error (code, if code = 7 then timeDetail n else 0) := by
  unfold sendLaunch
  rw [h]

/-- The two outcomes of a launching entry whose record goes: E moved to a time, or as it was. -/
theorem sends_keeping_end {d : Dev} {e c t : Nat} {kind : LKind} {slot : Bool} (hpc : d.ctxPc c + 1 < 2^20) (ht : t < 2^64) :
    d.sends ((sendLaunch.record e c (d.entryOf c) kind t d).retireEntry e c (d.ctxPc c + 1) slot) e c kind t ∧
      ((sendLaunch.record e c (d.entryOf c) kind t d).retireEntry e c (d.ctxPc c + 1) slot).ctx64 c 8 = d.ctx64 c 8 := by
  refine ⟨sends_of_record hpc ht rfl fun _ _ _ => rfl, ?_⟩
  rw [retireEntry_ctx64 _ _ _ _ _ hpc (by decide), ctx64_congr (record_ctxW _ _ _ _ _ _ (by decide) (by decide) (by decide) (by decide))
    (record_ctxW _ _ _ _ _ _ (by decide) (by decide) (by decide) (by decide))]

theorem sends_moving_end {d d' : Dev} {e c t x : Nat} {kind : LKind} {slot : Bool} (hpc : d.ctxPc c + 1 < 2^20) (ht : t < 2^64) (hx : x < 2^64)
    (hlaunches : d'.launches = ((sendLaunch.record e c (d.entryOf c) kind t d).setCtx64 c 8 x).launches)
    (hctx : d'.ctx = ((sendLaunch.record e c (d.entryOf c) kind t d).setCtx64 c 8 x).ctx) :
    d.sends (d'.retireEntry e c (d.ctxPc c + 1) slot) e c kind t ∧ (d'.retireEntry e c (d.ctxPc c + 1) slot).ctx64 c 8 = x := by
  refine ⟨sends_of_record hpc ht (hlaunches.trans (setCtx64_launches ..)) fun w h8 h9 => (ctxW_congr hctx ..).trans (ctxW_setCtx64_other _ _ _ h8.symm h9.symm), ?_⟩
  rw [retireEntry_ctx64 _ _ _ _ _ hpc (by decide), ctx64_congr (ctxW_congr hctx ..) (ctxW_congr hctx ..), ctx64_setCtx64_same _ _ _ _ hx]


/-! ## GAP, FRAME, MARK, EVENT and SWITCH (R110 to R114) -/

/-- What a launching entry sends, or raises, is what it is retired with; `more` is what it does besides (SWITCH ends its context's turn). -/
def launched (d : Dev) (e c : Nat) (kind : LKind) (tend : Nat → Option Nat) (more : Dev → Dev) : Dev :=
  match sendLaunch e c (d.entryOf c) d kind tend with
  | .error (code, detail) => d.raiseExc e c code detail
  | .ok d' => (more d').retireEntry e c (d.ctxPc c + 1) true

/-- An entry whose body sends a record and goes on. -/
theorem issue_launched {d : Dev} {e c op : Nat} (h : d.issues e c op) (hop : op ≠ 5) {kind : LKind} {tend : Nat → Option Nat} {more : Dev → Dev}
    {body : Nat → Nat → Nat → Dev → Issued}
    (hbody : body c (d.ctxPc c) (d.entryOf c) d = (sendLaunch e c (d.entryOf c) d kind tend).map (fun d' => (d.ctxPc c + 1, more d'))) :
    d.issue e op body = d.launched e c kind tend more := by
  have hslot : (!(op == 5 && (d.engOf e).released)) = true := by simp [hop]
  rw [issue_of_issues h, ← entryOf, hbody, hslot, launched]
  cases sendLaunch e c (d.entryOf c) d kind tend <;> rfl

theorem launched_of_error {d : Dev} {e c code : Nat} {kind : LKind} {tend : Nat → Option Nat} {more : Dev → Dev} (h : d.treqOf c (d.entryOf c) = .error code) :
    d.launched e c kind tend more = d.raiseExc e c code (if code = 7 then timeDetail (d.entryOf c) else 0) := by
  rw [launched, sendLaunch_of_error h]

theorem launched_of_treq {d : Dev} {e c t : Nat} {kind : LKind} {tend : Nat → Option Nat} {more : Dev → Dev} (h : d.treqOf c (d.entryOf c) = .ok t)
    (hend : tend t = none) : d.launched e c kind tend more = (more (sendLaunch.record e c (d.entryOf c) kind t d)).retireEntry e c (d.ctxPc c + 1) true := by
  rw [launched, sendLaunch_of_treq h hend]

theorem launched_of_end {d : Dev} {e c t x : Nat} {kind : LKind} {tend : Nat → Option Nat} {more : Dev → Dev} (h : d.treqOf c (d.entryOf c) = .ok t)
    (hend : tend t = some x) (hx : x < 2^64) :
    d.launched e c kind tend more = (more ((sendLaunch.record e c (d.entryOf c) kind t d).setCtx64 c 8 x)).retireEntry e c (d.ctxPc c + 1) true := by
  rw [launched, sendLaunch_of_end h hend hx]

/-- The value that the FRAME at the PC of context `c` gives its action (R111). -/
def frameValue (d : Dev) (c : Nat) : Nat :=
  if ent (d.entryOf c) 0 14 1 = 1 then (d.xReg c (ent (d.entryOf c) 1 5 4)).toNat + 2^32 * ((d.xReg c (ent (d.entryOf c) 1 5 4 + 1)).toNat % 2^16)
  else ent (d.entryOf c) 3 0 32 + 2^32 * ent (d.entryOf c) 1 16 16

/-- The context on an engine ends its turn for a SWITCH (R114): it waits for its time, and slot S1 is staged with the target. -/
def awaitSwitch (e target c : Nat) (d : Dev) : Dev :=
  let x := d.engOf e
  let ver := d.ctxFld target 0 16 8
  let s1 := match x.s1 with
    | some s => if s.ctx = target ∧ s.ver = ver then some s else some ⟨target, ver, false, [], []⟩
    | none => some ⟨target, ver, false, [], []⟩
  d.updEng e (fun x => { x with swWait := some (target, d.ctx64 c 10), s1 := s1 })

section entries
variable {d : Dev} {e : Fin 64} {c : Nat}

theorem gapD_of_issues (h : d.issues e c 2) :
    gapD e d = d.launched e c (.gap (ent (d.entryOf c) 3 0 32)) (fun t => some (t + ent (d.entryOf c) 3 0 32)) id := by
  rw [gapD, issueLaunch]
  exact issue_launched h (by decide) rfl

theorem frameD_of_issues (h : d.issues e c 7) :
    frameD e d = d.launched e c (.frame (ent (d.entryOf c) 0 11 3) (ent (d.entryOf c) 1 0 5)
      (if ent (d.entryOf c) 0 11 3 = 3 then d.frameValue c % 2^32 else d.frameValue c)) (fun _ => none) id :=
  issue_launched h (by decide) rfl

theorem markD_of_issues (h : d.issues e c 8) :
    markD e d = d.launched e c (.mark (ent (d.entryOf c) 1 0 2) (ent (d.entryOf c) 1 2 2) (ent (d.entryOf c) 3 0 16)) (fun _ => none) id := by
  rw [markD, issueLaunch]
  exact issue_launched h (by decide) rfl

theorem eventD_of_issues (h : d.issues e c 9) : eventD e d = d.launched e c (.event (ent (d.entryOf c) 0 11 2)) (fun _ => none) id := by
  rw [eventD, issueLaunch]
  exact issue_launched h (by decide) rfl

theorem switchD_of_issues (h : d.issues e c 11) :
    switchD e d = d.launched e c (.switch (ent (d.entryOf c) 1 0 14)) (fun _ => none) (awaitSwitch e (ent (d.entryOf c) 1 0 14) c) :=
  issue_launched h (by decide) rfl
end entries

/-- A SWITCH that sent its record waits for its time, and its context's record is as any launching entry leaves it. -/
theorem switched_spec {d : Dev} {e c t target : Nat} (hpc : d.ctxPc c + 1 < 2^20) (ht : t < 2^64) :
    let d' := (awaitSwitch e target c (sendLaunch.record e c (d.entryOf c) (.switch target) t d)).retireEntry e c (d.ctxPc c + 1) true
    d.sends d' e c (.switch target) t ∧ d'.ctx64 c 8 = d.ctx64 c 8 ∧ (d'.engOf e).swWait = some (target, t) := by
  obtain ⟨hsends, hend⟩ := sends_keeping_end (kind := .switch target) (slot := true) (e := e) hpc ht
  have hctx : ∀ w, w ≠ 2 → (awaitSwitch e target c (sendLaunch.record e c (d.entryOf c) (.switch target) t d)).ctxW c w =
      (sendLaunch.record e c (d.entryOf c) (.switch target) t d).ctxW c w := fun w _ => ctxW_congr (updEng_ctx ..) c w
  refine ⟨sends_of_record hpc ht (updEng_launches ..) fun w _ _ => ctxW_congr (updEng_ctx ..) c w, ?_, ?_⟩
  · rw [← hend, retireEntry_ctx64 _ _ _ _ _ hpc (by decide), retireEntry_ctx64 _ _ _ _ _ hpc (by decide),
      ctx64_congr (hctx 8 (by decide)) (hctx 9 (by decide))]
  · rw [retireEntry_swWait _ _ _ _ _ hpc, awaitSwitch, engOf_updEng_same]
    exact congrArg (fun t => some (target, t)) (record_treq _ _ _ _ _ _ ht)

/-! ## PLAY (R105 to R109) -/

/-- The segments of the PLAY at the PC of context `c`, with their channels. -/
def playPairs (d : Dev) (c : Nat) : List (Nat × Nat) := (d.playSegs c (d.entryOf c) (d.ctxChans c).length).zip (d.ctxChans c)

/-- The first segment with its channel that the PLAY at the PC of context `c` may not play. -/
def playBad (d : Dev) (c : Nat) : Option (Nat × Nat) := (d.playPairs c).find? (fun p => d.badSegOn c p.2 p.1)

theorem playBad_eq_none_iff {d : Dev} {c : Nat} : d.playBad c = none ↔ ∀ x ∈ d.playPairs c, d.badSegOn c x.2 x.1 = false := by
  simp [playBad, List.find?_eq_none]

/-- The kind of the record that the PLAY at the PC of context `c` sends. -/
def playKind (d : Dev) (c : Nat) : LKind :=
  let n := d.entryOf c
  let segs := d.playSegs c n (d.ctxChans c).length
  .play segs (ent n 0 12 16 + 1) (if ent n 1 20 1 = 1 then some (ent n 1 21 5) else none) (ent n 1 16 2) (ent n 1 18 2) (ent n 3 0 16) (ent n 3 16 16)
    (ent n 1 30 1 == 1) (d.passDur (d.ctxChans c) segs)

/-- How long the PLAY at the PC of context `c` lasts, all its passes. -/
def playLen (d : Dev) (c : Nat) : Nat :=
  d.passDur (d.ctxChans c) (d.playSegs c (d.entryOf c) (d.ctxChans c).length) * (ent (d.entryOf c) 0 12 16 + 1)

/-- The streams that the PLAY at the PC of context `c` starts once its record has gone. -/
def playStreams (d : Dev) (c : Nat) (d' : Dev) : Dev :=
  d'.addStreams c (d'.ctxFld c 3 0 16) (ent (d.entryOf c) 0 12 16 + 1) (d.ctxChans c) (d.playSegs c (d.entryOf c) (d.ctxChans c).length)

theorem playD_of_issues {d : Dev} {e : Fin 64} {c : Nat} (h : d.issues e c 1) (hgood : d.playBad c = none) :
    playD e d = d.launched e c (d.playKind c) (fun t => some (t + d.playLen c)) (d.playStreams c) := by
  have hctx : d.engCtx e = some c := h.1.1.1
  unfold playBad playPairs entryOf at hgood
  unfold playD
  simp only [hctx, hgood, Option.map_none]
  exact issue_launched h (by decide) rfl

/-- A PLAY of a bad segment raises BAD_SEG; a descriptor that fails its CHECK is a fault besides (R61). -/
theorem playD_of_bad {d : Dev} {e : Fin 64} {c : Nat} (h : d.issues e c 1) {p : Nat × Nat} (hbad : d.playBad c = some p) :
    playD e d = (d.raiseExc e c 1 p.1).descCrcAt c (p.2 / 16) p.1 := by
  obtain ⟨⟨⟨hctx, hrunning, _⟩, _⟩, _⟩ := id h
  obtain ⟨hstate, hcode, _⟩ := raiseExc_spec d e c 1 p.1 (by decide)
  unfold playBad playPairs entryOf at hbad
  unfold playD
  simp only [hctx, hbad, Option.map_some, issue_of_issues h, hrunning, hstate, hcode, and_self, if_true]

/-- An exception that is none of a bad segment leaves a PLAY as any other entry. -/
theorem playD_of_raised {d : Dev} {e : Fin 64} {c code detail : Nat} (hctx : d.engCtx e = some c) (hcode : code < 256) (hne : code ≠ 1)
    (hissue : ∀ body, d.issue e 1 body = d.raiseExc e c code detail) : playD e d = d.raiseExc e c code detail := by
  obtain ⟨_, hrec, _⟩ := raiseExc_spec d e c code detail hcode
  unfold playD
  simp only [hctx, hissue]
  cases List.find? _ _ with
  | none => rfl
  | some p => exact if_neg fun h => hne (hrec.symm.trans h.2.2)

theorem descCrcAt_ctx (d : Dev) (c t s : Nat) : (d.descCrcAt c t s).ctx = d.ctx :=
  iteInduction (motive := fun x : Dev => x.ctx = d.ctx) (fun _ => ctx_of_base (base_faultOf _ _ _ _ _ _ _ rfl)) fun _ => rfl
theorem descCrcAt_launches (d : Dev) (c t s : Nat) : (d.descCrcAt c t s).launches = d.launches :=
  iteInduction (motive := fun x : Dev => x.launches = d.launches) (fun _ => launches_of_base (base_faultOf _ _ _ _ _ _ _ rfl)) fun _ => rfl

theorem addStreams_ctx (d : Dev) (c lsn passes : Nat) (chans segs : List Nat) : (d.addStreams c lsn passes chans segs).ctx = d.ctx := by
  refine foldl_keeps Dev.ctx _ _ (fun d p => ?_) d
  exact iteInduction (motive := fun x : Dev => x.ctx = d.ctx) (fun _ => updChan_ctx ..) fun _ => rfl
theorem addStreams_launches (d : Dev) (c lsn passes : Nat) (chans segs : List Nat) : (d.addStreams c lsn passes chans segs).launches = d.launches := by
  refine foldl_keeps Dev.launches _ _ (fun d p => ?_) d
  exact iteInduction (motive := fun x : Dev => x.launches = d.launches) (fun _ => updChan_launches ..) fun _ => rfl

/-! ## Changes of registers alone -/

/-- Only registers differ. -/
def onlyRegs (d d' : Dev) : Prop := ∃ r, d' = { d with regs := r }

theorem onlyRegs_wr (d : Dev) (a : Nat) (v : Word) : d.onlyRegs (d.wr a v) := ⟨_, rfl⟩
theorem onlyRegs_trans {d d' d'' : Dev} (h : d.onlyRegs d') (h' : d'.onlyRegs d'') : d.onlyRegs d'' := by
  obtain ⟨r, rfl⟩ := h
  obtain ⟨r', rfl⟩ := h'
  exact ⟨r', rfl⟩
theorem onlyRegs_wrN (d : Dev) (a n : Nat) : d.onlyRegs (d.wrN a n) := onlyRegs_wr ..
theorem onlyRegs_raise (d : Dev) (a m : Nat) : d.onlyRegs (d.raise a m) := by unfold raise; exact onlyRegs_wrN ..
theorem onlyRegs_bump (d : Dev) (a : Nat) : d.onlyRegs (d.bump a) := by unfold bump addSat; exact onlyRegs_wrN ..

/-! ## A corrected error of the bank (R142) changes two registers of its engine -/

section bankCorrected
variable (d : Dev) (e : Nat)

theorem bankCorrected_onlyRegs : d.onlyRegs (d.bankCorrected e) := onlyRegs_trans (onlyRegs_raise ..) (onlyRegs_bump ..)

theorem bankCorrected_rd {a : Nat} (hevents : Reg.eng_EVENTS e ≠ a) (hcount : Reg.eng_BANK_CORR_CNT e ≠ a) : (d.bankCorrected e).rd a = d.rd a := by
  rw [bankCorrected, rd_bump_ne _ hcount, rd_raise_ne _ _ hevents]

theorem bankCorrected_rd_low {a : Nat} (h : a < 0x400000) : (d.bankCorrected e).rd a = d.rd a := bankCorrected_rd _ _ (by grind) (by grind)
theorem bankCorrected_rd_STATUS (i : Nat) : (d.bankCorrected e).rd (Reg.eng_STATUS i) = d.rd (Reg.eng_STATUS i) :=
  bankCorrected_rd _ _ (by grind) (by grind)
theorem bankCorrected_rd_high {a : Nat} (he : e < 64) (h : 0x500000 ≤ a) : (d.bankCorrected e).rd a = d.rd a :=
  bankCorrected_rd _ _ (by grind) (by grind)

variable {d e}

theorem bankCorrected_engCtx (i : Nat) : (d.bankCorrected e).engCtx i = d.engCtx i := by
  simp only [engCtx, bit, fld, rdN, bankCorrected_rd_STATUS]
  rfl
theorem bankCorrected_timeState : (d.bankCorrected e).timeState = d.timeState := by
  simp only [timeState, fld, rdN, bankCorrected_rd_low d e (show Reg.time_STATUS < 0x400000 by decide)]
theorem bankCorrected_timeValid : (d.bankCorrected e).timeValid = d.timeValid := by
  simp only [timeValid, bit, bankCorrected_rd_low d e (show Reg.time_STATUS < 0x400000 by decide)]
theorem bankCorrected_nowT : (d.bankCorrected e).nowT = d.nowT := by
  obtain ⟨r, hr⟩ := bankCorrected_onlyRegs d e
  rw [nowT, bankCorrected_timeState, hr]
  rfl
theorem bankCorrected_progIn (he : e < 64) (o : Option Nat) (a : Nat) : (d.bankCorrected e).progIn o a = d.progIn o a := by
  obtain ⟨r, hr⟩ := bankCorrected_onlyRegs d e
  have hpart : ∀ p, (d.bankCorrected e).partOn p = d.partOn p := fun p => by
    simp only [partOn, fld, rdN, bankCorrected_rd_high d e he (show 0x500000 ≤ Reg.part_STATE p by grind)]
    rfl
  simp only [progIn, progOwner, partWhere, hpart]
  rw [hr]
  rfl

/-- An engine that may issue, or issues, still does when an error of its bank has been corrected. -/
theorem bankCorrected_runsOn {c : Nat} (h : d.runsOn e c) : (d.bankCorrected e).runsOn e c := by
  obtain ⟨hctx, hstate, hswitch, hmoving, hservice⟩ := h
  obtain ⟨r, hr⟩ := bankCorrected_onlyRegs d e
  refine ⟨(bankCorrected_engCtx e).trans hctx, ?_, ?_, ?_, by rw [bit, bankCorrected_rd_STATUS]; exact hservice⟩ <;> rw [hr] <;> assumption

theorem bankCorrected_mayIssue {c op : Nat} (he : e < 64) (h : d.mayIssue e c op) : (d.bankCorrected e).mayIssue e c op := by
  obtain ⟨hruns, hin, hline, hop, hwait, hslot, hpend⟩ := h
  have htime := bankCorrected_timeState (d := d) (e := e)
  have hnow := bankCorrected_nowT (d := d) (e := e)
  have hprog := bankCorrected_progIn (d := d) he
  obtain ⟨r, hr⟩ := bankCorrected_onlyRegs d e
  refine ⟨bankCorrected_runsOn hruns, ?_, ?_, ?_, ?_, ?_, ?_⟩
  · rw [hprog, hr]; exact hin
  · rw [hr]; exact hline
  · rw [hr]; exact hop
  · rw [hr]; exact hwait
  · rw [htime, hnow, hr]; exact hslot
  · rw [hr]; exact hpend

theorem bankCorrected_issues {c op : Nat} (he : e < 64) (h : d.issues e c op) : (d.bankCorrected e).issues e c op := by
  refine ⟨bankCorrected_mayIssue he h.1, fun hlaunch => bankCorrected_timeValid.trans (h.2 ?_)⟩
  obtain ⟨r, hr⟩ := bankCorrected_onlyRegs d e
  rw [hr] at hlaunch
  exact hlaunch

theorem bankCorrected_passDur (he : e < 64) (chans segs : List Nat) : (d.bankCorrected e).passDur chans segs = d.passDur chans segs := by
  have hI : ∀ n, (d.bankCorrected e).chI n = d.chI n := fun n => by
    simp only [chI, fld, rdN, bankCorrected_rd_high d e he (show 0x500000 ≤ Reg.chn_CFG n by unfold Reg.chn_CFG chnBase; omega)]
  obtain ⟨r, hr⟩ := bankCorrected_onlyRegs d e
  simp only [passDur, hI]
  rw [hr]
  rfl
end bankCorrected


/-! ## The device of which a PLAY is issued, whatever the ECC found (R142) -/

/-- `d₁` is `d` as an engine reads it: it issues and plays what it does in `d`, and registers alone differ. -/
structure readsAs (e : Nat) (d d₁ : Dev) : Prop where
  regs : d.onlyRegs d₁
  runs : ∀ {c}, d.runsOn e c → d₁.runsOn e c
  may : ∀ {c op}, d.mayIssue e c op → d₁.mayIssue e c op
  issue : ∀ {c op}, d.issues e c op → d₁.issues e c op
  time : d₁.timeValid = d.timeValid
  prog : ∀ o a, d₁.progIn o a = d.progIn o a
  dur : ∀ chans segs, d₁.passDur chans segs = d.passDur chans segs

theorem readsAs_refl (e : Nat) (d : Dev) : d.readsAs e d := ⟨⟨_, rfl⟩, id, id, id, rfl, fun _ _ => rfl, fun _ _ => rfl⟩
theorem readsAs_bankCorrected {e : Nat} (he : e < 64) (d : Dev) : readsAs e d (d.bankCorrected e) :=
  ⟨bankCorrected_onlyRegs d e, bankCorrected_runsOn, bankCorrected_mayIssue he, bankCorrected_issues he, bankCorrected_timeValid,
    bankCorrected_progIn he, bankCorrected_passDur he⟩

/-- With no uncorrectable word, PLAY is issued of a device that reads as the one at hand. -/
theorem playEccD_of_readable {d : Dev} {e : Fin 64} {c : Nat} {ecc : BankEcc} (h : ecc.readable) (hruns : d.runsOn e c) :
    ∃ d₁, readsAs e d d₁ ∧ playEccD e ecc d = playD e d₁ := by
  obtain ⟨hctx, _, _, _, hservice⟩ := hruns
  have hbound : ¬ ((d.engCtx e).isNone = true ∨ d.bit (Reg.eng_STATUS e) 24 = true) := by simp [hctx, hservice]
  unfold playEccD
  rw [if_neg hbound]
  match ecc with
  | .clean => exact ⟨d, readsAs_refl _ d, rfl⟩
  | .corrected => exact ⟨_, readsAs_bankCorrected e.isLt d, rfl⟩
  | .uncorrectable off => exact absurd rfl (h off)

section readsAs
variable {d d₁ : Dev} {e : Nat} (h : readsAs e d d₁)
include h

theorem readsAs_playBad (c : Nat) : d₁.playBad c = d.playBad c := by
  obtain ⟨r, rfl⟩ := h.regs
  rfl
theorem readsAs_playLen (c : Nat) : d₁.playLen c = d.playLen c := by
  unfold playLen
  rw [h.dur]
  obtain ⟨r, rfl⟩ := h.regs
  rfl
theorem readsAs_playKind (c : Nat) : d₁.playKind c = d.playKind c := by
  unfold playKind
  dsimp only
  rw [h.dur]
  obtain ⟨r, rfl⟩ := h.regs
  rfl
theorem readsAs_sends {d' : Dev} {c t : Nat} {kind : LKind} (hs : d₁.sends d' e c kind t) : d.sends d' e c kind t := by
  obtain ⟨r, rfl⟩ := h.regs
  exact hs
theorem readsAs_treqOf (c n : Nat) : d₁.treqOf c n = d.treqOf c n := by
  obtain ⟨r, rfl⟩ := h.regs
  rfl
end readsAs

/-- A PLAY that may be played, from a device that reads as the one at hand. -/
theorem playD_sends {d d₁ : Dev} {e : Fin 64} {c t : Nat} (h : readsAs e d d₁) (hissues : d.issues e c 1) (hgood : d.playBad c = none)
    (hpc : d.ctxPc c + 1 < 2^20) (htime : d.timeOk c (d.entryOf c) t) (hend : t + d.playLen c < 2^64) :
    d.sends (playD e d₁) e c (d.playKind c) t ∧ (playD e d₁).ctx64 c 8 = t + d.playLen c := by
  have htreq := (readsAs_treqOf h c (d.entryOf c)).trans (treqOf_of_timeOk htime)
  have hplay := playD_of_issues (h.issue hissues) ((readsAs_playBad h c).trans hgood)
  rw [readsAs_playKind h, readsAs_playLen h] at hplay
  obtain ⟨r, rfl⟩ := id h.regs
  rw [hplay, launched_of_end (tend := fun t => some (t + d.playLen c)) htreq rfl hend]
  exact sends_moving_end hpc htime.2.1 hend (addStreams_launches ..) (addStreams_ctx ..)
end Dev

/-- Settles O5: the requested time is a device time, so the entry's record goes; what else each entry changes is on no word of its context's record
but E. -/
theorem launchingEntriesSendRecords : Obligations.LaunchingEntriesSendRecords := by
  intro s e c t hpc d n segs dur val htime
  have htreq := Dev.treqOf_of_timeOk htime
  have ht : t < 2^64 := htime.2.1
  refine ⟨fun ecc hecc hissues hgood hend => ?play, fun hissues hend => ?gap, fun hissues => ?frame, fun hissues => ?mark, fun hissues => ?event,
    fun hissues => ?switch⟩
  case play =>
    obtain ⟨d₁, hreads, hplay⟩ := Dev.playEccD_of_readable hecc hissues.1.1
    exact State.runs_of_onDev (exec_play ⟨e, ecc⟩ s) hplay (Dev.playD_sends hreads hissues (Dev.playBad_eq_none_iff.mpr hgood) hpc htime hend)
  case gap =>
    exact State.runs_of_onDev (exec_gap e s) ((Dev.gapD_of_issues hissues).trans (Dev.launched_of_end htreq rfl hend))
      (Dev.sends_moving_end hpc ht hend rfl rfl)
  case frame =>
    exact State.runs_of_onDev (exec_frame e s) ((Dev.frameD_of_issues hissues).trans (Dev.launched_of_treq htreq rfl)) (Dev.sends_keeping_end hpc ht)
  case mark =>
    exact State.runs_of_onDev (exec_mark e s) ((Dev.markD_of_issues hissues).trans (Dev.launched_of_treq htreq rfl)) (Dev.sends_keeping_end hpc ht)
  case event =>
    exact State.runs_of_onDev (exec_event e s) ((Dev.eventD_of_issues hissues).trans (Dev.launched_of_treq htreq rfl)) (Dev.sends_keeping_end hpc ht)
  case switch =>
    exact State.runs_of_onDev (exec_switch e s) ((Dev.switchD_of_issues hissues).trans (Dev.launched_of_treq htreq rfl)) (Dev.switched_spec hpc ht)

end Sys2Proof.Machine

/-! PROOFS. What firings, interrupts and faults leave of the registers: a firing below generation 8 writes none, an interrupt none but a
pending-bit array, and a fault of a class that does not escalate those of the FAULT block besides. -/
namespace Sys2Proof.Machine
namespace Dev

theorem arrive_regs (d : Dev) (f : Firing) : (d.arrive f).regs = d.regs := by
  unfold arrive
  exact foldl_keeps Dev.regs (d.listeners f.src) _ (fun d n => updEc_regs d n _) d
theorem fireAs_regs (d : Dev) (src stamp gen : Nat) (co la : Bool) (h : gen < 8) : (d.fireAs src stamp gen co la).regs = d.regs := by
  unfold fireAs
  rw [if_pos h, arrive_regs]
theorem fire_regs (d : Dev) (src stamp gen : Nat) (h : gen < 8) : (d.fire src stamp gen).regs = d.regs := fireAs_regs _ _ _ _ _ _ h
@[simp] theorem fireNow_regs (d : Dev) (src : Nat) : (d.fireNow src).regs = d.regs := fire_regs _ _ _ _ (by decide)

/-- Folding an operation that keeps a quantity, for each element of the list, keeps it. -/
theorem foldl_keeps_mem {α β : Type} (q : Dev → β) (l : List α) (f : Dev → α → Dev) (h : ∀ x ∈ l, ∀ d, q (f d x) = q d) (d : Dev) :
    q (l.foldl f d) = q d := by
  induction l generalizing d with
  | nil => rfl
  | cons x r ih => rw [List.foldl_cons, ih (fun y hy => h y (List.mem_cons_of_mem _ hy)), h x List.mem_cons_self]

/-- Equal registers read alike. -/
theorem rd_of_regs {d d' : Dev} (h : d'.regs = d.regs) (a : Nat) : d'.rd a = d.rd a := by
  unfold rd
  rw [h]

theorem rd_signal_low (d : Dev) (fn vec : Nat) {a : Nat} (ha : a < 0x1300000) : (d.signal fn vec).rd a = d.rd a := by
  have hne : msixPba fn vec ≠ a := by unfold msixPba fnKey; omega
  unfold signal
  refine iteInduction (motive := fun x : Dev => x.rd a = d.rd a) (fun _ => rfl) fun _ => ?_
  exact iteInduction (motive := fun x : Dev => x.rd a = d.rd a) (fun _ => rd_setBit_ne _ _ _ hne) fun _ => rfl

theorem rd_notifyFault_low (d : Dev) (c t : Nat) {a : Nat} (ha : a < 0x1300000) : (d.notifyFault c t).rd a = d.rd a := by
  unfold notifyFault
  refine iteInduction (motive := fun x : Dev => x.rd a = d.rd a) (fun _ => ?_) fun _ => rfl
  rw [rd_signal_low _ _ _ ha, rd_of_regs (fire_regs _ _ _ _ (by decide))]

theorem rd_setFaultQ_low (d : Dev) (c : Nat) (q : List FaultRec) {a : Nat} (ha : a < 0x1700000) : (d.setFaultQ c q).rd a = d.rd a :=
  rd_setBit_ne _ _ _ (by grind)

/-- A fault that does not escalate writes no register below the HOST block. -/
theorem rd_fault_low (d : Dev) (c : Nat) (r : FaultRec) (h : escalates c = false) {a : Nat} (ha : a < 0x1300000) : (d.fault c r).rd a = d.rd a := by
  have hbump : ∀ (d : Dev) b, 0x1700000 ≤ b → (d.bump b).rd a = d.rd a := fun d b hb => rd_bump_ne _ (by omega)
  have hq : ∀ (d : Dev) c q, (d.setFaultQ c q).rd a = d.rd a := fun d c q => rd_setFaultQ_low d c q (by omega)
  have hocc : 0x1700000 ≤ Reg.faultQ_OCC_CNT c := by grind
  have hovf : 0x1700000 ≤ Reg.faultQ_OVF_CNT c := by grind
  have hevents : Reg.fault_EVENTS ≠ a := by grind
  unfold fault
  simp only [h, Bool.false_and, Bool.false_eq_true, if_false]
  rw [rd_notifyFault_low _ _ _ ha, rd_raise_ne _ _ hevents]
  split
  · rw [hq, hbump _ _ hocc]
  · split
    · rw [hbump _ Reg.fault_TOTAL (by decide), hq]
      exact hbump _ _ hocc
    · rw [hq, hbump _ _ hovf, hbump _ _ hocc]

theorem rd_faultOf_low (d : Dev) (c code kind obj : Nat) (o : Option Nat) (dt : List Nat) (h : escalates c = false) {a : Nat} (ha : a < 0x1300000) :
    (d.faultOf c code kind obj o dt).rd a = d.rd a := rd_fault_low _ _ _ h ha
theorem rd_faultNow_low (d : Dev) (c code kind obj : Nat) (dt : List Nat) (h : escalates c = false) {a : Nat} (ha : a < 0x1300000) :
    (d.faultNow c code kind obj dt).rd a = d.rd a := rd_fault_low _ _ _ h ha

/-- The binding of an engine is read of its STATUS. -/
theorem engCtx_of_rd {d d' : Dev} {e : Nat} (h : d'.rd (Reg.eng_STATUS e) = d.rd (Reg.eng_STATUS e)) : d'.engCtx e = d.engCtx e := by
  unfold engCtx bit fld rdN
  rw [h]

end Dev
end Sys2Proof.Machine

/-! PROOFS. The exceptions that entries of several kinds share (R119), and an engine's fault (R142, R145). -/
namespace Sys2Proof.Machine

namespace Dev

/-! ## Entries that raise an exception -/

section raises
variable {d : Dev} {e c op : Nat}

/-- A launching entry while device time is not valid raises TIME_LOST, whether it waits or not. -/
theorem issue_of_timeLost (h : d.mayIssue e c op) (hl : launching (d.entryOf c) = true) (htime : d.timeValid = false)
    (hop : op ≠ 5) (body : Nat → Nat → Nat → Dev → Issued) : d.issue e op body = d.raiseExc e c 8 0 := by
  obtain ⟨⟨hctx, hstate, hswitch, hmoving, hservice⟩, hin, hline, hent, hwait, hslot, hpend⟩ := h
  have hslot' : ¬ (d.timeState = 2 ∧ d.nowT / 16 < (d.engOf e).slotTick) := fun h => hslot.elim (· h.1) h.2.not_ge
  have hwait' : ¬ (¬ ent (d.entryOf c) 0 6 4 = 0 ∧ (d.engOf e).released = false) := fun h =>
    hwait.elim h.1 fun h1 => Bool.false_ne_true (h.2.symm.trans h1)
  unfold issue
  rw [hctx]
  unfold entryOf at hent hl hwait'
  have hline' : d.ctxPc c / 8 ∈ (d.engOf e).lines := List.contains_iff_mem.mp hline
  simp [hstate, hswitch, hmoving, hservice, hin, hent, hline', hl, htime, hop, hpend.not_ge, hwait', hslot']

/-- An engine whose context's PC has left its owner's program slice raises PROG_RANGE, whatever entry is tried. -/
theorem issue_of_outside (h : d.runsOn e c) (hin : d.progIn (d.ctxRecOwner c) (d.ctxPc c) = false) (body : Nat → Nat → Nat → Dev → Issued) :
    d.issue e op body = d.raiseExc e c 5 (d.ctxPc c) := by
  obtain ⟨hctx, hstate, hswitch, hmoving, hservice⟩ := h
  unfold issue
  rw [hctx]
  simp [hstate, hswitch, hmoving, hservice, hin]

/-- A HALT that raises an exception does not halt its context besides. -/
theorem haltD_of_outside {e : Fin 64} (h : d.runsOn e c) (hin : d.progIn (d.ctxRecOwner c) (d.ctxPc c) = false) :
    haltD e d = d.raiseExc e c 5 (d.ctxPc c) := by
  obtain ⟨hstate, _⟩ := raiseExc_spec d e c 5 (d.ctxPc c) (by decide)
  unfold haltD
  simp only [issue_of_outside h hin, h.1, hstate]
  simp

end raises

/-! ## An engine's retirement (R145) -/

/-- What the retirement of engine `e` ends with: it leaves its owner's reservation and service. -/
def endRetire (d : Dev) (e : Nat) : Dev :=
  (((d.setEngOwner e none false).setBit (Reg.pool_IN_SERVICE_LO + 4 * (e / 32)) (e % 32) false).setBit (Reg.eng_STATUS e) 24 true).updEng e
    (fun x => { x with s0 := none, s1 := none, lines := [] })

/-- Context `c` of engine `e`, bound to engine `r`, with its pending launches. -/
def rebind (d : Dev) (e c r : Nat) : Dev :=
  let x := d.engOf e
  let d := (d.setFld (Reg.eng_STATUS r) 0 16 (2^14 + c)).setBit (Reg.eng_STATUS r) 15 (d.bit (Reg.eng_STATUS e) 15)
  let d := d.setCtxFld c 0 8 6 r
  let d := d.updEng r (fun y => { y with used := true, moving := some e, run := 0, released := x.released, swWait := x.swWait,
                                         swLate := x.swLate, tsw := x.tsw, s1 := none, lines := [] })
  { d with launches := d.launches.map (fun (l : Launch) => if l.ctx == c then { l with eng := r } else l) }

/-- Context `c` moves from engine `e` to its replacement `r`. -/
def handOver (d : Dev) (e c r : Nat) : Dev :=
  let owner := d.engOwner e
  let d := ((d.keepLive e c).unmirror e c).setCtx64 c 56 ((d.ctx64 c 56 + (d.engOf e).run) % 2^64)
  let d := if d.isSpare r then d.setEngOwner r owner false else d
  ((d.moveInputs e r).rebind e c r).unbind e

/-- The fault that a context's move to engine `r` records. -/
def moveRec (d : Dev) (e r time : Nat) (exc : List Nat) : FaultRec :=
  { code := 0x23, kind := 2, obj := e, time := time, detail := exc, part := (d.engOwner e).getD 0, pf := (d.engOwner e).isNone, aux := r }

theorem retire_of_replacement {d : Dev} {e c r : Nat} {exc : List Nat} (hctx : d.engCtx e = some c) (hfound : d.replacement e = some r) :
    d.retire e exc = ((d.handOver e c r).fault 6 (d.moveRec e r (d.handOver e c r).nowT exc)).endRetire e := by
  unfold retire
  rw [hctx, hfound]
  rfl

theorem retire_of_alone {d : Dev} {e c : Nat} {exc : List Nat} (hctx : d.engCtx e = some c) (hfound : d.replacement e = none) :
    d.retire e exc = ((d.leave c 2).faultOf 6 0x24 2 e (d.engOwner e) exc).endRetire e := by
  unfold retire
  rw [hctx, hfound]
  rfl

theorem retire_of_idle {d : Dev} {e : Nat} {exc : List Nat} (hctx : d.engCtx e = none) :
    d.retire e exc = (if exc.isEmpty then d else d.faultOf 6 (exc.getD 0 0 % 2^8) 2 e (d.engOwner e) exc).endRetire e := by
  unfold retire
  rw [hctx]
  rfl

section endRetire
variable (d : Dev) (e : Nat)

theorem endRetire_out : (d.endRetire e).bit (Reg.eng_STATUS e) 24 = true := by
  unfold endRetire
  rw [bit_congr (updEng_regs ..), bit_setBit_same _ _ _ _ (by decide)]

theorem endRetire_inService (he : e < 64) : (d.endRetire e).bit (Reg.pool_IN_SERVICE_LO + 4 * (e / 32)) (e % 32) = false := by
  have hne : Reg.eng_STATUS e ≠ Reg.pool_IN_SERVICE_LO + 4 * (e / 32) := by grind
  unfold endRetire
  rw [bit_congr (updEng_regs ..), bit_setBit_ne _ _ _ _ hne, bit_setBit_same _ _ _ _ (Nat.mod_lt _ (by decide))]

theorem setEngOwner_base (o : Option Nat) (spare : Bool) : (d.setEngOwner e o spare).base = (d.updEng e (fun x => { x with owner := o })).base := by
  unfold setEngOwner
  simp only [base_setBit, base_setFld]

theorem endRetire_ctx : (d.endRetire e).ctx = d.ctx := by
  unfold endRetire
  rw [updEng_ctx, setBit_ctx, setBit_ctx, ctx_of_base (setEngOwner_base ..), updEng_ctx]
theorem endRetire_launches : (d.endRetire e).launches = d.launches := by
  unfold endRetire
  rw [updEng_launches, setBit_launches, setBit_launches, launches_of_base (setEngOwner_base ..), updEng_launches]

end endRetire

section handOver

theorem moveTin_ctx (d : Dev) (i j : Nat) : (d.moveTin i j).ctx = d.ctx := by
  unfold moveTin
  extract_lets regs d'
  clear_value regs
  have hfold : d'.ctx = d.ctx := by
    refine foldl_keeps Dev.ctx regs _ ?_ d
    intro d r
    rfl
  exact hfold

theorem moveTin_launches (d : Dev) (i j : Nat) : (d.moveTin i j).launches = d.launches := by
  unfold moveTin
  extract_lets regs d'
  clear_value regs
  have hfold : d'.launches = d.launches := by
    refine foldl_keeps Dev.launches regs _ ?_ d
    intro d r
    rfl
  exact hfold

theorem moveInputs_ctx (d : Dev) (e r : Nat) : (d.moveInputs e r).ctx = d.ctx := by
  unfold moveInputs
  generalize List.range 4 = ks
  extract_lets d₁ d₂ d₃
  have h₁ : d₁.ctx = d.ctx := by
    refine foldl_keeps Dev.ctx ks _ ?_ d
    intro d k
    exact moveTin_ctx ..
  have h₂ : d₂.ctx = d₁.ctx := moveTin_ctx ..
  rw [updEng_ctx]
  clear_value d₂
  exact h₂.trans h₁

theorem moveInputs_launches (d : Dev) (e r : Nat) : (d.moveInputs e r).launches = d.launches := by
  unfold moveInputs
  generalize List.range 4 = ks
  extract_lets d₁ d₂ d₃
  have h₁ : d₁.launches = d.launches := by
    refine foldl_keeps Dev.launches ks _ ?_ d
    intro d k
    exact moveTin_launches ..
  have h₂ : d₂.launches = d₁.launches := moveTin_launches ..
  rw [updEng_launches]
  clear_value d₂
  exact h₂.trans h₁

variable (d : Dev) (e c r : Nat)

theorem rebind_ctx : (d.rebind e c r).ctx = (d.setCtxFld c 0 8 6 r).ctx := by
  unfold rebind
  extract_lets x d₁ d₂ d₃
  have h₃ : d₃.ctx = d₂.ctx := updEng_ctx ..
  exact h₃
theorem rebind_launches :
    (d.rebind e c r).launches = d.launches.map (fun (l : Launch) => if l.ctx == c then { l with eng := r } else l) := by
  unfold rebind
  extract_lets x d₁ d₂ d₃
  have h₃ : d₃.launches = d₂.launches := updEng_launches ..
  exact congrArg (List.map _) h₃

/-- The words that a context's move changes are its counter of entries, its engine, and the hot ones whose mirror had stopped. -/
theorem handOver_ctxW {w : Nat} (h0 : 0 ≠ w) (h56 : 56 ≠ w) (h57 : 57 ≠ w) :
    (d.handOver e c r).ctxW c w = ((d.keepLive e c).unmirror e c).ctxW c w := by
  unfold handOver
  extract_lets owner d₁ d₂
  have h₁ : d₁.ctxW c w = ((d.keepLive e c).unmirror e c).ctxW c w := ctxW_setCtx64_other _ _ _ h56 h57
  have h₂ : d₂.ctx = d₁.ctx := iteInduction (motive := fun x : Dev => x.ctx = d₁.ctx)
    (fun _ => (ctx_of_base (setEngOwner_base ..)).trans (updEng_ctx ..)) fun _ => rfl
  rw [ctxW_congr (unbind_ctx ..), ctxW_congr (rebind_ctx ..), ctxW_setCtxFld_other _ _ _ _ _ h0, ctxW_congr (moveInputs_ctx ..), ctxW_congr h₂, h₁]

theorem handOver_launches :
    (d.handOver e c r).launches = d.launches.map (fun (l : Launch) => if l.ctx == c then { l with eng := r } else l) := by
  unfold handOver
  extract_lets owner d₁ d₂
  have h₁ : d₁.launches = d.launches := by rw [setCtx64_launches, unmirror_launches, keepLive_launches]
  have h₂ : d₂.launches = d₁.launches := iteInduction (motive := fun x : Dev => x.launches = d₁.launches)
    (fun _ => (launches_of_base (setEngOwner_base ..)).trans (updEng_launches ..)) fun _ => rfl
  rw [unbind_launches, rebind_launches, moveInputs_launches, h₂, h₁]

end handOver

/-- An engine's retirement keeps the cold words of its context's record but the counter of entries, and every launch with its LSN. -/
theorem retire_keeps {d : Dev} {e c w : Nat} {exc : List Nat} (hctx : d.engCtx e = some c) (h0 : 0 ≠ w) (h3 : 3 ≠ w) (h56 : 56 ≠ w) (h57 : 57 ≠ w)
    (hcold : isHot w = false) :
    (d.retire e exc).ctxW c w = d.ctxW c w ∧ (d.retire e exc).launches.map (fun l => l.lsn) = d.launches.map (fun l => l.lsn) := by
  cases hfound : d.replacement e with
  | some r =>
    have hbase : ∀ (d : Dev) rec, (d.fault 6 rec).base = d.base := fun d rec => base_fault d 6 rec rfl
    rw [retire_of_replacement hctx hfound]
    constructor
    · rw [ctxW_congr (endRetire_ctx ..), ctxW_congr (ctx_of_base (hbase ..)), handOver_ctxW _ _ _ _ h0 h56 h57, unmirror_ctxW, keepLive_stopped,
        ctxW_congr (keepLive_ctx ..)]
      have hnone : (d.stopped e).find? (fun p => p.1 == w) = none := by
        rw [List.find?_eq_none]
        intro p hp hw
        have hhot := (List.mem_filter.mp hp).2
        rw [beq_iff_eq.mp hw, hcold] at hhot
        simp at hhot
      rw [hnone]
      rfl
    · rw [endRetire_launches, launches_of_base (hbase ..), handOver_launches, List.map_map]
      refine List.map_congr_left fun l _ => ?_
      exact iteInduction (motive := fun x : Launch => x.lsn = l.lsn) (fun _ => rfl) fun _ => rfl
  | none =>
    have hbase : ∀ (d : Dev) k, (d.faultOf 6 0x24 2 e k exc).base = d.base := fun d k => base_faultOf d 6 _ _ _ _ _ rfl
    rw [retire_of_alone hctx hfound]
    constructor
    · rw [ctxW_congr (endRetire_ctx ..), ctxW_congr (ctx_of_base (hbase ..)), leave_ctxW _ _ _ _ h0 h3 h56 h57, storeW_cold _ _ _ hcold]
    · rw [endRetire_launches, launches_of_base (hbase ..), leave_launches]

theorem retire_out (d : Dev) (e : Nat) (exc : List Nat) : (d.retire e exc).bit (Reg.eng_STATUS e) 24 = true := by
  cases hctx : d.engCtx e with
  | none => rw [retire_of_idle hctx, endRetire_out]
  | some c =>
    cases hfound : d.replacement e with
    | none => rw [retire_of_alone hctx hfound, endRetire_out]
    | some r => rw [retire_of_replacement hctx hfound, endRetire_out]

/-- What an engine's fault has recorded before the engine is retired. -/
def faulted (d : Dev) (e c code detail flag : Nat) : Dev :=
  let w := d.excWords e c code detail
  let d := (List.range 8).foldl (fun (d : Dev) i => d.setCtxW c (48 + i) (BitVec.ofNat 32 (w.getD i 0))) (d.putExc e w)
  let d := d.raise (Reg.eng_EVENTS e) (1 + flag)
  if d.bit (Reg.eng_CFG e) 0 then d.fireNow 978 else d

section faulted
variable (d : Dev) (e c code detail flag : Nat)

/-- The record of a fault is the record of an exception. -/
theorem faulted_ctx : (d.faulted e c code detail flag).ctx = (d.recordExc e c code detail).ctx := by
  unfold faulted
  extract_lets w d₁ d₂
  have h₂ : d₂.ctx = d₁.ctx := raise_ctx ..
  exact (ctx_of_base (ifFire_base ..)).trans (h₂.trans (recordExc_ctx ..).symm)

theorem faulted_launches : (d.faulted e c code detail flag).launches = d.launches := by
  unfold faulted
  extract_lets w d₁ d₂
  have h₁ : d₁.launches = d.launches := (foldl_keeps Dev.launches _ _ (fun d i => setCtxW_launches ..) _).trans (putExc_launches ..)
  have h₂ : d₂.launches = d₁.launches := raise_launches ..
  exact (launches_of_base (ifFire_base ..)).trans (h₂.trans h₁)

theorem putExc_rd_STATUS (w : List Nat) (i : Nat) : (d.putExc e w).rd (Reg.eng_STATUS i) = d.rd (Reg.eng_STATUS i) := by
  unfold putExc
  rw [rd_of_regs (updEng_regs ..)]
  refine foldl_keeps_mem (fun x => x.rd (Reg.eng_STATUS i)) _ _ (fun k hk d => rd_wrN_ne _ _ ?_) d
  have := List.mem_range.mp hk
  grind

/-- No engine's binding is touched. -/
theorem faulted_engCtx (i : Nat) : (d.faulted e c code detail flag).engCtx i = d.engCtx i := by
  have hne : Reg.eng_EVENTS e ≠ Reg.eng_STATUS i := by grind
  unfold faulted
  extract_lets w d₁ d₂
  have h₁ : d₁.rd (Reg.eng_STATUS i) = d.rd (Reg.eng_STATUS i) :=
    (rd_of_regs (foldl_keeps Dev.regs _ _ (fun d i => setCtxW_regs ..) _) _).trans (putExc_rd_STATUS ..)
  have h₂ : d₂.rd (Reg.eng_STATUS i) = d₁.rd (Reg.eng_STATUS i) := rd_raise_ne _ _ hne
  have h₃ : ∀ b : Bool, (if b = true then d₂.fireNow 978 else d₂).regs = d₂.regs := fun b =>
    iteInduction (motive := fun x : Dev => x.regs = d₂.regs) (fun _ => fireNow_regs ..) fun _ => rfl
  exact engCtx_of_rd ((rd_of_regs (h₃ _) _).trans (h₂.trans h₁))

end faulted

theorem engineFault_of_bound {d : Dev} {e c : Nat} (code detail flag : Nat) (hctx : d.engCtx e = some c) :
    d.engineFault e code detail flag = (d.faulted e c code detail flag).retire e (d.excWords e c code detail) := by
  have hputs : (d.putExc e (d.excWords e c code detail)).engCtx e = some c := (engCtx_of_rd (putExc_rd_STATUS ..)).trans hctx
  unfold engineFault
  rw [hctx]
  simp only [excWordsOf, hputs]
  rfl

/-- An uncorrectable word of the bank retires the engine with its code in the record of the context that was bound, and issues nothing. -/
theorem engineFault_spec {d : Dev} {e c : Nat} (code detail flag : Nat) (hctx : d.engCtx e = some c) (hcode : code < 256) :
    (d.engineFault e code detail flag).bit (Reg.eng_STATUS e) 24 = true ∧ (d.engineFault e code detail flag).ctxFld c 48 0 8 = code ∧
      (d.engineFault e code detail flag).launches.map (fun l => l.lsn) = d.launches.map (fun l => l.lsn) := by
  rw [engineFault_of_bound _ _ _ hctx]
  obtain ⟨hword, hlsn⟩ := retire_keeps (w := 48) (exc := d.excWords e c code detail) ((faulted_engCtx d e c code detail flag e).trans hctx)
    (by decide) (by decide) (by decide) (by decide) (by decide)
  refine ⟨retire_out .., ?_, hlsn.trans (by rw [faulted_launches])⟩
  rw [ctxFld, hword, ← ctxFld, ctxFld_congr (faulted_ctx ..), recordExc_code _ _ _ _ _ hcode]

end Dev

/-! ## The seven ways to issue a launching entry -/

/-- An exception raised on a device that differs in registers alone from the one at hand. -/
theorem State.excepts_of_raised {s : State} {i : Instr} {f : Dev → Dev} {e c code detail : Nat} {d₁ : Dev} (hregs : s.dev.onlyRegs d₁)
    (hexec : exec i s = s.onDev f) (hdev : f s.dev = d₁.raiseExc e c code detail) (hcode : code < 256) : s.excepts i c code := by
  obtain ⟨hstate, hrec, hword, hlaunch⟩ := Dev.raiseExc_spec d₁ e c code detail hcode
  obtain ⟨r, rfl⟩ := hregs
  exact State.runs_of_onDev hexec hdev ⟨hstate, hrec, by rw [Dev.ctxPc, Dev.ctxFld, hword]; rfl, hlaunch⟩

/-- Command `i` issues the launching entry of opcode `op`: a record goes, or the exception that every issue meets is raised. -/
structure issuesAs (s : State) (i : Instr) (e : Fin 64) (c op : Nat) : Prop where
  isLaunch : ∀ n, ent n 0 0 4 = op → launching n = true
  notBranch : op ≠ 5
  launch : s.dev.issues e c op → (op = 1 → s.dev.playBad c = none) → ∀ {code}, s.dev.treqOf c (s.dev.entryOf c) = .error code → code < 256 →
    s.excepts i c code
  raise : s.dev.runsOn e c → ∀ code detail, code < 256 → code ≠ 1 →
    (∀ d₁, Dev.readsAs e s.dev d₁ → ∀ body, d₁.issue e op body = d₁.raiseExc e c code detail) → s.excepts i c code

theorem play_issuesAs (s : State) (e : Fin 64) (c : Nat) (ecc : BankEcc) (h : ecc.readable) : issuesAs s (.play ⟨e, ecc⟩) e c 1 where
  isLaunch n hop := by simp [launching, hop]
  notBranch := by decide
  launch hissues hgood {code} herr hcode := by
    obtain ⟨d₁, hreads, hplay⟩ := Dev.playEccD_of_readable h hissues.1.1
    have hlaunched := Dev.playD_of_issues (hreads.issue hissues) ((Dev.readsAs_playBad hreads c).trans (hgood rfl))
    have herr₁ : d₁.treqOf c (d₁.entryOf c) = .error code := by
      obtain ⟨r, rfl⟩ := hreads.regs
      exact herr
    exact State.excepts_of_raised hreads.regs (exec_play _ s) (hplay.trans (hlaunched.trans (Dev.launched_of_error herr₁))) hcode
  raise hruns _ _ hcode hne hissue := by
    obtain ⟨d₁, hreads, hplay⟩ := Dev.playEccD_of_readable h hruns
    exact State.excepts_of_raised hreads.regs (exec_play _ s)
      (hplay.trans (Dev.playD_of_raised (hreads.runs hruns).1 hcode hne (hissue d₁ hreads))) hcode

/-- A launching entry whose command is its issue. -/
theorem issuesAs_of_issue {s : State} {i : Instr} {e : Fin 64} {c op : Nat} {f : Dev → Dev} {body : Nat → Nat → Nat → Dev → Dev.Issued}
    {kind : LKind} {tend : Nat → Option Nat} {more : Dev → Dev} (hop : op ∈ [2, 7, 8, 9, 11])
    (hexec : exec i s = s.onDev f) (hissue : f s.dev = s.dev.issue e op body)
    (hlaunched : s.dev.issues e c op → f s.dev = s.dev.launched e c kind tend more) : issuesAs s i e c op where
  isLaunch n hn := by
    rw [← hn] at hop
    simp only [List.mem_cons, List.not_mem_nil, or_false] at hop
    rcases hop with h | h | h | h | h <;> simp [launching, h]
  notBranch h := by simp [h] at hop
  launch hissues _ {_} herr hcode := State.excepts_of_raiseExc hexec ((hlaunched hissues).trans (Dev.launched_of_error herr)) hcode
  raise _ _ _ hcode _ hraise :=
    State.excepts_of_raiseExc hexec (hissue.trans (hraise _ (Dev.readsAs_refl e s.dev) body)) hcode

/-- The launching entries with their opcodes. -/
def launchingEntries (e : Fin 64) : List (Nat × Instr) :=
  [(1, .play ⟨e, .clean⟩), (1, .play ⟨e, .corrected⟩), (2, .gap e), (7, .frame e), (8, .mark e), (9, .event e), (11, .switch e)]
/-- The other entries with their opcodes. -/
def otherEntries (e : Fin 64) : List (Nat × Instr) :=
  [(0, .halt e), (3, .loop e), (4, .next e), (5, .br e), (6, .reg e), (10, .tset e), (15, .nopEntry e)]

theorem launchingEntries_issuesAs (s : State) (e : Fin 64) (c : Nat) : ∀ p ∈ launchingEntries e, issuesAs s p.2 e c p.1 := by
  unfold launchingEntries
  simp only [List.forall_mem_cons, List.not_mem_nil, false_imp_iff, implies_true, and_true]
  refine ⟨play_issuesAs s e c .clean (by simp [BankEcc.readable]), play_issuesAs s e c .corrected (by simp [BankEcc.readable]), ?gap, ?frame, ?mark,
    ?event, ?switch⟩
  case gap => exact issuesAs_of_issue (by decide) (exec_gap e s) (by unfold gapD Dev.issueLaunch; rfl) Dev.gapD_of_issues
  case frame => exact issuesAs_of_issue (by decide) (exec_frame e s) (by unfold frameD; rfl) Dev.frameD_of_issues
  case mark => exact issuesAs_of_issue (by decide) (exec_mark e s) (by unfold markD Dev.issueLaunch; rfl) Dev.markD_of_issues
  case event => exact issuesAs_of_issue (by decide) (exec_event e s) (by unfold eventD Dev.issueLaunch; rfl) Dev.eventD_of_issues
  case switch => exact issuesAs_of_issue (by decide) (exec_switch e s) (by unfold switchD; rfl) Dev.switchD_of_issues

/-- An entry that does not launch raises PROG_RANGE as any other. -/
theorem otherEntries_outside {s : State} {e : Fin 64} {c : Nat} (hruns : s.dev.runsOn e c)
    (hin : s.dev.progIn (s.dev.ctxRecOwner c) (s.dev.ctxPc c) = false) : ∀ p ∈ otherEntries e, s.excepts p.2 c 5 := by
  have hraise : ∀ (i : Instr) f op body, exec i s = s.onDev f → f s.dev = s.dev.issue e op body → s.excepts i c 5 := fun i f op body hexec hissue =>
    State.excepts_of_raiseExc hexec (hissue.trans (Dev.issue_of_outside hruns hin body)) (by decide)
  unfold otherEntries
  simp only [List.forall_mem_cons, List.not_mem_nil, false_imp_iff, implies_true, and_true]
  exact ⟨State.excepts_of_raiseExc (exec_halt e s) (Dev.haltD_of_outside hruns hin) (by decide), hraise _ _ _ _ (exec_loop e s) rfl,
    hraise _ _ _ _ (exec_next e s) rfl, hraise _ _ _ _ (exec_br e s) rfl, hraise _ _ _ _ (exec_reg e s) rfl, hraise _ _ _ _ (exec_tset e s) rfl,
    hraise _ _ _ _ (exec_nopEntry e s) rfl⟩

/-- Settles O6: what every issue tests raises its exception for every entry; what the requested time meets, for every entry that launches. -/
theorem entriesRaiseExceptions : Obligations.EntriesRaiseExceptions := by
  intro s e c d n segs launches others
  refine ⟨fun ecc hecc hissues hbad => ?badSeg, fun p hp hissues hgood => ?time, fun p hp hmay htime => ?timeLost, fun p hp hruns hin => ?outside,
    fun off hctx hservice => ?uncorrectable⟩
  case badSeg =>
    obtain ⟨d₁, hreads, hplay⟩ := Dev.playEccD_of_readable hecc hissues.1.1
    cases hfirst : d.playBad c with
    | none =>
      obtain ⟨x, hx, hxbad⟩ := hbad
      exact absurd (Dev.playBad_eq_none_iff.mp hfirst x hx) (by rw [hxbad]; decide)
    | some p =>
      have hraised := Dev.playD_of_bad (hreads.issue hissues) ((Dev.readsAs_playBad hreads c).trans hfirst)
      obtain ⟨hstate, hrec, hword, hlaunch⟩ := Dev.raiseExc_spec d₁ e c 1 p.1 (by decide)
      have hctx := Dev.descCrcAt_ctx (d₁.raiseExc e c 1 p.1) c (p.2 / 16) p.1
      obtain ⟨r, rfl⟩ := id hreads.regs
      refine State.runs_of_onDev (exec_play ⟨e, ecc⟩ s) (hplay.trans hraised) ⟨?_, ?_, ?_, (Dev.descCrcAt_launches ..).trans hlaunch⟩
      · rw [Dev.ctxState, Dev.ctxFld_congr hctx]
        exact hstate
      · rw [Dev.ctxFld_congr hctx, hrec]
      · rw [Dev.ctxPc, Dev.ctxFld_congr hctx, Dev.ctxFld, hword]
        rfl
  case time =>
    have hissue : ∀ code, d.treqOf c n = .error code → code < 256 → s.excepts p.2 c code := fun code =>
      (launchingEntries_issuesAs s e c p hp).launch hissues fun hop => Dev.playBad_eq_none_iff.mpr (hgood hop)
    have htreq := d.treqOf_eq c n
    refine ⟨fun hbase hheld => hissue 2 (htreq.trans (if_pos ⟨hbase, hheld⟩)) (by decide), fun hheld hrange => hissue 7 (htreq.trans ?_) (by decide)⟩
    rw [if_neg fun h => Bool.false_ne_true (h.2.symm.trans (hheld h.1)), if_pos hrange]
  case timeLost =>
    have has := launchingEntries_issuesAs s e c p hp
    exact has.raise hmay.1 8 0 (by decide) (by decide) fun d₁ hreads body =>
      Dev.issue_of_timeLost (hreads.may hmay) (has.isLaunch _ (hreads.may hmay).2.2.2.1) (hreads.time.trans htime) has.notBranch body
  case outside =>
    rcases List.mem_append.mp hp with hp | hp
    · refine (launchingEntries_issuesAs s e c p hp).raise hruns 5 (d.ctxPc c) (by decide) (by decide) fun d₁ hreads body => ?_
      have hin₁ : d₁.progIn (d₁.ctxRecOwner c) (d₁.ctxPc c) = false := by
        rw [hreads.prog]
        obtain ⟨r, rfl⟩ := hreads.regs
        exact hin
      have hraise := Dev.issue_of_outside (op := p.1) (hreads.runs hruns) hin₁ body
      obtain ⟨r, rfl⟩ := id hreads.regs
      exact hraise
    · exact otherEntries_outside hruns hin p hp
  case uncorrectable =>
    refine State.runs_of_onDev (exec_play ⟨e, .uncorrectable off⟩ s) ?_ (Dev.engineFault_spec 0x21 off.toNat 0 hctx (by decide))
    have hbound : ¬ ((d.engCtx e).isNone = true ∨ d.bit (Reg.eng_STATUS e) 24 = true) := by
      rw [hctx, hservice]
      simp
    exact if_neg hbound

end Sys2Proof.Machine

/-! PROOFS. Task inputs (R223): the firing that a consumer takes, and one that it loses. -/
namespace Sys2Proof.Machine
namespace Dev

theorem tinOf_updTin_ne (d : Dev) {i j : Nat} (f : TinSt → TinSt) (h : i ≠ j) : (d.updTin i f).tinOf j = d.tinOf j := SMap.get_upd_ne _ _ _ h

/-- The oldest firing at task input `i` has been taken and `r` remain. -/
def taken (d : Dev) (i : Nat) (r : List Held) (gen : Nat) : Dev :=
  (d.updTin i (fun t => { t with inbox := r })).setFld (Reg.tin_STATE i) 4 3 gen

theorem takeFiring_of_inbox {d : Dev} {i : Nat} {h : Held} {r : List Held} (hin : (d.tinOf i).inbox = h :: r) :
    d.takeFiring i = some (h.fire, d.taken i r h.fire.gen) := by
  unfold takeFiring
  rw [hin]
  rfl

section taken
variable (d : Dev) (i : Nat) (r : List Held) (gen : Nat)

theorem taken_inbox : ((d.taken i r gen).tinOf i).inbox = r := by
  unfold taken
  rw [tinOf, setFld_tin]
  exact congrArg TinSt.inbox (tinOf_updTin_same ..)
theorem taken_acts (j : Nat) : ((d.taken i r gen).tinOf j).acts = (d.tinOf j).acts := by
  unfold taken
  rw [tinOf, setFld_tin]
  by_cases hj : i = j
  · subst hj
    exact (congrArg TinSt.acts (tinOf_updTin_same d i _)).trans rfl
  · exact congrArg TinSt.acts (tinOf_updTin_ne d _ hj)
theorem taken_rd {a : Nat} (h : Reg.tin_STATE i ≠ a) : (d.taken i r gen).rd a = d.rd a := by
  unfold taken
  rw [rd_setFld_ne _ _ _ _ h, rd_of_regs (updTin_regs ..)]
theorem taken_parity : (d.taken i r gen).parity = d.parity := (setFld_parity ..).trans (updTin_parity ..)
theorem taken_tinBad (j : Nat) : (d.taken i r gen).tinBad j = d.tinBad j := by
  unfold tinBad corrupt
  rw [taken_parity]
theorem taken_latOf (j : Nat) : (d.taken i r gen).latOf j = d.latOf j := by
  have hne : Reg.tin_STATE i ≠ Reg.tin_LAT j := by grind
  unfold latOf eff
  rw [taken_rd _ _ _ _ hne]
  unfold taken
  rw [setFld_inforce, updTin_inforce]
theorem taken_timeState : (d.taken i r gen).timeState = d.timeState := by
  have hne : Reg.tin_STATE i ≠ Reg.time_STATUS := by grind
  simp only [timeState, fld, rdN, taken_rd _ _ _ _ hne]
theorem taken_timeValid : (d.taken i r gen).timeValid = d.timeValid := by
  have hne : Reg.tin_STATE i ≠ Reg.time_STATUS := by grind
  simp only [timeValid, bit, taken_rd _ _ _ _ hne]
end taken

/-! ## A firing that is lost -/

/-- The engine of an input flags its loss. -/
def lossFlagged (d : Dev) (i : Nat) : Dev :=
  if i < 256 then d.raise (Reg.eng_EVENTS (i / 4)) (2 ^ (8 + i % 4))
  else if i < 320 then d.raise (Reg.eng_EVENTS (i - 256)) (2 ^ 12)
  else d

/-- The stamp of the first loss since OVERRUN was cleared. -/
def firstLoss (d : Dev) (i stamp : Nat) : Dev := if d.bit (Reg.tin_EVENTS i) 1 then d else d.wr64 (Reg.tin_OVR_FIRST_LO i) stamp

theorem overrun_eq (d : Dev) (i stamp : Nat) :
    d.overrun i stamp = (((d.firstLoss i stamp).raise (Reg.tin_EVENTS i) 2).bump (Reg.tin_OVR_CNT i)).lossFlagged i := rfl

theorem onlyRegs_ite {d d' d'' : Dev} {p : Prop} [Decidable p] (h : d.onlyRegs d') (h' : d.onlyRegs d'') : d.onlyRegs (if p then d' else d'') :=
  iteInduction (motive := fun x => d.onlyRegs x) (fun _ => h) fun _ => h'
theorem onlyRegs_refl (d : Dev) : d.onlyRegs d := ⟨_, rfl⟩

section overrun
variable (d : Dev) (i stamp : Nat)

theorem lossFlagged_onlyRegs : d.onlyRegs (d.lossFlagged i) := onlyRegs_ite (onlyRegs_raise ..) (onlyRegs_ite (onlyRegs_raise ..) (onlyRegs_refl d))
theorem firstLoss_onlyRegs : d.onlyRegs (d.firstLoss i stamp) :=
  onlyRegs_ite (onlyRegs_refl d) (onlyRegs_trans (onlyRegs_wrN ..) (onlyRegs_wrN ..))
theorem overrun_onlyRegs : d.onlyRegs (d.overrun i stamp) := by
  rw [overrun_eq]
  exact onlyRegs_trans (onlyRegs_trans (onlyRegs_trans (firstLoss_onlyRegs ..) (onlyRegs_raise ..)) (onlyRegs_bump ..)) (lossFlagged_onlyRegs ..)

theorem lossFlagged_rd {a : Nat} (h : ∀ e, Reg.eng_EVENTS e ≠ a) : (d.lossFlagged i).rd a = d.rd a :=
  iteInduction (motive := fun x : Dev => x.rd a = d.rd a) (fun _ => rd_raise_ne _ _ (h _)) fun _ =>
    iteInduction (motive := fun x : Dev => x.rd a = d.rd a) (fun _ => rd_raise_ne _ _ (h _)) fun _ => rfl

theorem lossFlagged_rd_low {a : Nat} (h : a < 0x400000) : (d.lossFlagged i).rd a = d.rd a := lossFlagged_rd _ _ fun e => by grind

/-- OVERRUN is flagged, the loss counted, and the stamp of the first kept (R223). -/
theorem overrun_bit (hi : i < 512) : (d.overrun i stamp).bit (Reg.tin_EVENTS i) 1 = true := by
  have hlow : Reg.tin_EVENTS i < 0x400000 := by grind
  have hne : Reg.tin_OVR_CNT i ≠ Reg.tin_EVENTS i := by grind
  rw [overrun_eq, bit, lossFlagged_rd_low _ _ hlow, ← bit, bit_bump_ne _ _ hne, bit_raise_same _ _ _ _ (by decide) (by decide)]
  exact Bool.or_true _

theorem overrun_count (hi : i < 512) : (d.overrun i stamp).rdN (Reg.tin_OVR_CNT i) = min (2^32 - 1) (d.rdN (Reg.tin_OVR_CNT i) + 1) := by
  have hlow : Reg.tin_OVR_CNT i < 0x400000 := by grind
  have hevents : Reg.tin_EVENTS i ≠ Reg.tin_OVR_CNT i := by grind
  have hfirst : Reg.tin_OVR_FIRST_LO i ≠ Reg.tin_OVR_CNT i := by grind
  have hfirst4 : Reg.tin_OVR_FIRST_LO i + 4 ≠ Reg.tin_OVR_CNT i := by grind
  have hkeep : (d.firstLoss i stamp).rdN (Reg.tin_OVR_CNT i) = d.rdN (Reg.tin_OVR_CNT i) :=
    iteInduction (motive := fun x : Dev => x.rdN (Reg.tin_OVR_CNT i) = d.rdN (Reg.tin_OVR_CNT i)) (fun _ => rfl)
      fun _ => rdN_wr64_ne _ _ hfirst hfirst4
  rw [overrun_eq, rdN, lossFlagged_rd_low _ _ hlow, ← rdN, rdN_bump_same, rdN_raise_ne _ _ hevents, hkeep]

theorem overrun_first (hi : i < 512) (hstamp : stamp < 2^64) :
    (d.overrun i stamp).rd64 (Reg.tin_OVR_FIRST_LO i) = if d.bit (Reg.tin_EVENTS i) 1 then d.rd64 (Reg.tin_OVR_FIRST_LO i) else stamp := by
  have hkeep : ∀ a, a = Reg.tin_OVR_FIRST_LO i ∨ a = Reg.tin_OVR_FIRST_LO i + 4 → (d.overrun i stamp).rdN a = (d.firstLoss i stamp).rdN a := by
    intro a ha
    have hlow : a < 0x400000 := by grind
    have hevents : Reg.tin_EVENTS i ≠ a := by grind
    have hcount : Reg.tin_OVR_CNT i ≠ a := by grind
    rw [overrun_eq, rdN, lossFlagged_rd_low _ _ hlow, ← rdN, rdN_bump_ne _ hcount, rdN_raise_ne _ _ hevents]
  rw [rd64, hkeep _ (.inl rfl), hkeep _ (.inr rfl), ← rd64]
  unfold firstLoss
  split
  · rfl
  · exact rd64_wr64 _ _ _ hstamp

end overrun

end Dev
end Sys2Proof.Machine

/-! PROOFS. Waits (R94 to R96): the latches of an engine's event inputs, and the release of a waiting entry. -/
namespace Sys2Proof.Machine

theorem exec_eventInputFiring (e : Fin 64) (k : Fin 4) (s : State) : exec (.eventInputFiring e k) s = s.onDev (eventInputFiringD e k) := rfl
theorem exec_waitRelease (e : Fin 64) (s : State) : exec (.waitRelease e) s = s.onDev (waitReleaseD e) := rfl

namespace Dev

/-! ## A firing at an event input -/

/-- The latch of input `k` of engine `e` takes a firing. -/
def latchFiring (d : Dev) (e k : Nat) (f : Firing) : Dev :=
  ({ d with ei := SMap.set none d.ei (e * 4 + k) (some ⟨f.stamp, f.gen, f.coarse⟩) }).wrN (Reg.engIn_STATE e k) (1 + (if f.coarse then 2 else 0) + f.gen * 4)

theorem taken_ei (d : Dev) (i : Nat) (r : List Held) (gen : Nat) : (d.taken i r gen).ei = d.ei := (setFld_ei ..).trans (updTin_ei ..)

theorem latchFiring_ei (d : Dev) (e k : Nat) (f : Firing) :
    (d.latchFiring e k f).ei = SMap.set none d.ei (e * 4 + k) (some ⟨f.stamp, f.gen, f.coarse⟩) := wrN_ei ..
theorem latchFiring_tin (d : Dev) (e k : Nat) (f : Firing) : (d.latchFiring e k f).tin = d.tin := wrN_tin ..

theorem eventInputFiringD_of_empty {d : Dev} {e : Fin 64} {k : Fin 4} {h : Held} {r : List Held} (hin : (d.tinOf (e * 4 + k)).inbox = h :: r)
    (hlatch : SMap.get none d.ei (e * 4 + k) = none) (hbad : d.tinBad (e * 4 + k) = false) :
    eventInputFiringD e k d = (d.taken (e * 4 + k) r h.fire.gen).latchFiring e k h.fire := by
  unfold eventInputFiringD
  simp only [takeFiring_of_inbox hin, taken_ei, hlatch, taken_tinBad, hbad]
  rfl

theorem eventInputFiringD_of_full {d : Dev} {e : Fin 64} {k : Fin 4} {h : Held} {r : List Held} (hin : (d.tinOf (e * 4 + k)).inbox = h :: r)
    (hlatch : SMap.get none d.ei (e * 4 + k) ≠ none) :
    eventInputFiringD e k d = (d.taken (e * 4 + k) r h.fire.gen).overrun (e * 4 + k) h.fire.stamp := by
  obtain ⟨l, hl⟩ := Option.ne_none_iff_exists'.mp hlatch
  unfold eventInputFiringD
  simp only [takeFiring_of_inbox hin, taken_ei, hl]

/-! ## The firing that releases a wait -/

/-- The firing that is kept of two: an earlier one takes its place. -/
def earlier (b : Option (Nat × Latch)) (p : Nat × Latch) : Option (Nat × Latch) :=
  match b with
  | none => some p
  | some q => if p.2.stamp < q.2.stamp then some p else some q

/-- The first of the earliest firings of a list: all before it are later, and none after it is earlier. -/
theorem foldl_earlier {before after : List (Nat × Latch)} {p : Nat × Latch} (hbefore : ∀ q ∈ before, p.2.stamp < q.2.stamp)
    (hafter : ∀ q ∈ after, p.2.stamp ≤ q.2.stamp) : (before ++ p :: after).foldl earlier none = some p := by
  have hlater : ∀ (l : List (Nat × Latch)) b, (∀ q ∈ l, p.2.stamp < q.2.stamp) → (∀ q ∈ b, p.2.stamp < q.2.stamp) →
      ∀ q ∈ l.foldl earlier b, p.2.stamp < q.2.stamp := by
    intro l
    induction l with
    | nil => exact fun b _ hb => hb
    | cons x r ih =>
      intro b hl hb
      refine ih _ (fun q hq => hl q (List.mem_cons_of_mem _ hq)) fun q hq => ?_
      have hx := hl x List.mem_cons_self
      cases b with
      | none => exact (Option.mem_some.mp hq) ▸ hx
      | some y =>
        have hy := hb y rfl
        by_cases hxy : x.2.stamp < y.2.stamp
        · rw [show earlier (some y) x = some x from if_pos hxy] at hq
          exact (Option.mem_some.mp hq) ▸ hx
        · rw [show earlier (some y) x = some y from if_neg hxy] at hq
          exact (Option.mem_some.mp hq) ▸ hy
  have hkept : ∀ l : List (Nat × Latch), (∀ q ∈ l, p.2.stamp ≤ q.2.stamp) → l.foldl earlier (some p) = some p := by
    intro l
    induction l with
    | nil => exact fun _ => rfl
    | cons x r ih =>
      intro hl
      rw [List.foldl_cons, show earlier (some p) x = some p from if_neg (hl x List.mem_cons_self).not_gt,
        ih fun q hq => hl q (List.mem_cons_of_mem _ hq)]
  have hp : earlier (before.foldl earlier none) p = some p := by
    have hb := hlater before none hbefore (by simp)
    cases hq : before.foldl earlier none with
    | none => rfl
    | some q => exact if_pos (hb q hq)
  rw [List.foldl_append, List.foldl_cons, hp, hkept after hafter]

/-- The latched firings that a wait discards: those stamped before its context's last launch, where the entry asks for it (R96). -/
def outOfDate (d : Dev) (e c : Nat) : List (Nat × Latch) :=
  if ent (d.entryOf c) 0 10 1 = 1 then (d.latched e (ent (d.entryOf c) 0 6 4)).filter (fun p => p.2.stamp < d.ctx64 c 10) else []

/-- Latched firings are discarded. -/
def discard (d : Dev) (e : Nat) (ps : List (Nat × Latch)) : Dev :=
  ps.foldl (fun d p => ({ d with ei := SMap.set none d.ei (e * 4 + p.1) none }).wrN (Reg.engIn_STATE e p.1) 0) d

theorem discard_ctx (d : Dev) (e : Nat) (ps : List (Nat × Latch)) : (d.discard e ps).ctx = d.ctx := by
  refine foldl_keeps Dev.ctx ps _ ?_ d
  intro d p
  rfl
theorem discard_launches (d : Dev) (e : Nat) (ps : List (Nat × Latch)) : (d.discard e ps).launches = d.launches := by
  refine foldl_keeps Dev.launches ps _ ?_ d
  intro d p
  rfl

theorem discard_ei (d : Dev) (e : Nat) (ps : List (Nat × Latch)) (j : Nat) :
    SMap.get none (d.discard e ps).ei (e * 4 + j) = if j ∈ ps.map (·.1) then none else SMap.get none d.ei (e * 4 + j) := by
  unfold discard
  induction ps generalizing d with
  | nil => rfl
  | cons p r ih =>
    rw [List.foldl_cons, ih]
    by_cases hj : j = p.1
    · subst hj
      have hgone : ∀ (d' : Dev), d'.ei = SMap.set none d.ei (e * 4 + p.1) none → SMap.get none d'.ei (e * 4 + p.1) = none :=
        fun d' h => by rw [h, SMap.get_set_same]
      rw [hgone _ rfl, ite_self, if_pos (show p.1 ∈ (p :: r).map (·.1) from List.mem_cons_self)]
    · have hne : e * 4 + p.1 ≠ e * 4 + j := by omega
      have hkeep : ∀ (d' : Dev), d'.ei = SMap.set none d.ei (e * 4 + p.1) none → SMap.get none d'.ei (e * 4 + j) = SMap.get none d.ei (e * 4 + j) :=
        fun d' h => by rw [h, SMap.get_set_ne _ _ _ _ hne]
      have hmem : j ∈ (p :: r).map (·.1) ↔ j ∈ r.map (·.1) := by simp [hj]
      rw [hkeep _ rfl]
      simp only [hmem]

theorem mem_latched {d : Dev} {e mask j : Nat} {l : Latch} :
    (j, l) ∈ d.latched e mask ↔ j < 4 ∧ bitsOf mask j 1 = 1 ∧ SMap.get none d.ei (e * 4 + j) = some l := by
  unfold latched
  rw [List.mem_filterMap]
  constructor
  · rintro ⟨k, hk, hsome⟩
    split at hsome
    · next hmask =>
      obtain ⟨l', hl', heq⟩ := Option.map_eq_some_iff.mp hsome
      cases heq
      exact ⟨List.mem_range.mp hk, hmask, hl'⟩
    · cases hsome
  · rintro ⟨hj, hmask, hl⟩
    exact ⟨j, List.mem_range.mpr hj, by rw [if_pos hmask, hl]; rfl⟩

/-- The earliest latched firing of a mask, ties going to the lowest input. -/
theorem foldl_latched {d : Dev} {e mask k : Nat} {l : Latch} (hk : k < 4) (hmask : bitsOf mask k 1 = 1) (hl : SMap.get none d.ei (e * 4 + k) = some l)
    (hfirst : ∀ j l', (j, l') ∈ d.latched e mask → l.stamp < l'.stamp ∨ l.stamp = l'.stamp ∧ k ≤ j) :
    (d.latched e mask).foldl earlier none = some (k, l) := by
  have hrange : List.range 4 = List.range k ++ k :: (List.range' (k + 1) (3 - k)) := by
    interval_cases k <;> rfl
  have hsplit : ∃ before after, d.latched e mask = before ++ (k, l) :: after ∧ (∀ q ∈ before, q.1 < k) := by
    unfold latched
    rw [hrange, List.filterMap_append, List.filterMap_cons, if_pos hmask, hl]
    refine ⟨_, _, rfl, fun q hq => ?_⟩
    obtain ⟨j, hj, hsome⟩ := List.mem_filterMap.mp hq
    split at hsome
    · obtain ⟨l', _, heq⟩ := Option.map_eq_some_iff.mp hsome
      exact heq ▸ List.mem_range.mp hj
    · cases hsome
  obtain ⟨before, after, heq, hbefore⟩ := hsplit
  rw [heq]
  refine foldl_earlier (fun q hq => ?_) fun q hq => ?_
  · have hlt := hbefore q hq
    have := hfirst q.1 q.2 (by rw [heq]; exact List.mem_append_left _ hq)
    dsimp only
    omega
  · have := hfirst q.1 q.2 (by rw [heq]; exact List.mem_append_right _ (List.mem_cons_of_mem _ hq))
    dsimp only
    omega

/-- The release goes to the waiting entry. -/
def releaseWait (d : Dev) (e c k : Nat) (l : Latch) : Dev :=
  ((d.takeRelease e c k l).setBit (Reg.eng_STATUS e) 15 false).updEng e (fun y => { y with released := true })

theorem waitReleaseD_of_best {d : Dev} {e : Fin 64} {c k : Nat} {l : Latch} (hruns : d.runsOn e c) (hwaits : (d.engOf e).released = false)
    (hin : d.progIn (d.ctxRecOwner c) (d.ctxPc c) = true) (hmask : ent (d.entryOf c) 0 6 4 ≠ 0)
    (hbest : ((d.discard e (d.outOfDate e c)).latched e (ent (d.entryOf c) 0 6 4)).foldl earlier none = some (k, l)) :
    waitReleaseD e d = (d.discard e (d.outOfDate e c)).releaseWait e c k l := by
  obtain ⟨hctx, hstate, hswitch, hmoving, _⟩ := hruns
  have hgo : ¬ (d.ctxState c ≠ 3 ∨ (d.engOf e).released = true ∨ (d.engOf e).swWait.isSome = true ∨ (d.engOf e).moving.isSome = true ∨
      ent (d.entryOf c) 0 6 4 = 0 ∨ (!d.progIn (d.ctxRecOwner c) (d.ctxPc c)) = true) := by
    rw [hstate, hwaits, hswitch, hmoving, hin]
    simp [hmask]
  unfold waitReleaseD
  rw [hctx]
  refine (if_neg hgo).trans ?_
  change (match ((d.discard e (d.outOfDate e c)).latched e (ent (d.entryOf c) 0 6 4)).foldl earlier none with
    | none => (d.discard e (d.outOfDate e c)).setBit (Reg.eng_STATUS e) 15 true
    | some (k, l) => (d.discard e (d.outOfDate e c)).releaseWait e c k l) = _
  rw [hbest]

section releaseWait
variable (d : Dev) (e c k : Nat) (l : Latch)

theorem releaseWait_ctx : (d.releaseWait e c k l).ctx = (d.takeRelease e c k l).ctx := (updEng_ctx ..).trans (setBit_ctx ..)
theorem releaseWait_ei : (d.releaseWait e c k l).ei = SMap.set none d.ei (e * 4 + k) none :=
  (updEng_ei ..).trans ((setBit_ei ..).trans (takeRelease_ei ..))
theorem releaseWait_launches : (d.releaseWait e c k l).launches = d.launches := by
  unfold releaseWait takeRelease
  simp only [updEng_launches, setBit_launches, setCtxFld_launches, setCtx64_launches, wrN_launches]
theorem releaseWait_released : ((d.releaseWait e c k l).engOf e).released = true := by
  unfold releaseWait
  rw [engOf_updEng_same]

theorem takeRelease_gen (h : l.gen < 8) : (d.takeRelease e c k l).ctxFld c 2 28 3 = l.gen := by
  unfold takeRelease
  dsimp only
  rw [ctxFld_setCtxFld_other _ _ _ _ _ _ _ _ (by omega) (by omega), ctxFld_setCtxFld_same _ _ _ _ _ _ (by omega), Nat.mod_eq_of_lt (by omega)]

theorem takeRelease_ctxPc : (d.takeRelease e c k l).ctxPc c = d.ctxPc c := by
  unfold takeRelease ctxPc
  dsimp only
  repeat rw [ctxFld_setCtxFld_other _ _ _ _ _ _ _ _ (by omega) (by omega)]
  rw [ctxFld_setCtx64_ne _ _ _ _ _ (by omega) (by omega)]
  rfl

end releaseWait

end Dev

/-- Settles O7: the latch decides what a firing does, and of the latched firings that the wait accepts the fold keeps the first earliest. -/
theorem eventInputsLatchAndRelease : Obligations.EventInputsLatchAndRelease := by
  intro s e k d i
  have hi : i < 512 := by
    have he := e.isLt
    have hk := k.isLt
    omega
  refine ⟨fun h r hin => ⟨fun hlatch hbad => ?empty, fun hlatch hstamp => ?full⟩, fun c l => ?release⟩
  case empty =>
    refine State.runs_of_onDev (exec_eventInputFiring e k s) (Dev.eventInputFiringD_of_empty hin hlatch hbad) ⟨?_, ?_, fun j hj => ?_⟩
    · rw [Dev.latchFiring_ei, SMap.get_set_same]
    · rw [Dev.tinOf, Dev.latchFiring_tin]
      exact Dev.taken_inbox d i r h.fire.gen
    · rw [Dev.latchFiring_ei, SMap.get_set_ne _ _ _ _ hj.symm, Dev.taken_ei]
  case full =>
    obtain ⟨regs, hregs⟩ := Dev.overrun_onlyRegs (d.taken i r h.fire.gen) i h.fire.stamp
    have hevents : Reg.tin_STATE i ≠ Reg.tin_EVENTS i := by grind
    have hcount : Reg.tin_STATE i ≠ Reg.tin_OVR_CNT i := by grind
    have hlo : Reg.tin_STATE i ≠ Reg.tin_OVR_FIRST_LO i := by grind
    have hhi : Reg.tin_STATE i ≠ Reg.tin_OVR_FIRST_LO i + 4 := by grind
    refine State.runs_of_onDev (exec_eventInputFiring e k s) (Dev.eventInputFiringD_of_full hin hlatch)
      ⟨?_, ?_, Dev.overrun_bit _ _ _ hi, (Dev.overrun_count _ _ _ hi).trans ?_, (Dev.overrun_first _ _ _ hi hstamp).trans ?_⟩
    · rw [hregs]
      exact Dev.taken_ei d i r h.fire.gen
    · rw [hregs]
      exact Dev.taken_inbox d i r h.fire.gen
    · rw [Dev.rdN, Dev.taken_rd _ _ _ _ hcount]
      rfl
    · rw [Dev.bit, Dev.taken_rd _ _ _ _ hevents, Dev.rd64, Dev.rdN, Dev.rdN, Dev.taken_rd _ _ _ _ hlo, Dev.taken_rd _ _ _ _ hhi]
      rfl
  case release =>
    intro n hruns hwaits hprog hmask hl hstamp hgen hnew hfirst
    have hstale : ∀ j l', SMap.get none d.ei (e * 4 + j) = some l' → (j, l') ∉ d.outOfDate e c →
        j < 4 → bitsOf (ent n 0 6 4) j 1 = 1 → ent n 0 10 1 = 1 → d.ctx64 c 10 ≤ l'.stamp := by
      intro j l' hj hnot hlt hbit hask
      by_contra hlate
      refine hnot ?_
      unfold Dev.outOfDate
      rw [if_pos hask]
      exact List.mem_filter.mpr ⟨Dev.mem_latched.mpr ⟨hlt, hbit, hj⟩, by simpa using hlate⟩
    have hmem : ∀ j, j ∈ (d.outOfDate e c).map (·.1) ↔ ∃ l', SMap.get none d.ei (e * 4 + j) = some l' ∧ (j, l') ∈ d.outOfDate e c := by
      intro j
      have hlatched : ∀ p ∈ d.outOfDate e c, SMap.get none d.ei (e * 4 + p.1) = some p.2 := by
        intro p hp
        unfold Dev.outOfDate at hp
        split at hp
        · exact (Dev.mem_latched.mp (List.mem_filter.mp hp).1).2.2
        · cases hp
      rw [List.mem_map]
      constructor
      · rintro ⟨p, hp, rfl⟩
        exact ⟨p.2, hlatched p hp, hp⟩
      · rintro ⟨l', _, hp⟩
        exact ⟨_, hp, rfl⟩
    have hkeep : SMap.get none (d.discard e (d.outOfDate e c)).ei (e * 4 + k) = some l := by
      rw [Dev.discard_ei, if_neg, hl]
      intro hk
      obtain ⟨l', hl', hp⟩ := (hmem _).mp hk
      rw [hl] at hl'
      cases hl'
      unfold Dev.outOfDate at hp
      split at hp
      · next hask =>
        have hlate := (List.mem_filter.mp hp).2
        simp only [decide_eq_true_eq] at hlate
        exact absurd (hnew hask) hlate.not_ge
      · cases hp
    have hbest : ((d.discard e (d.outOfDate e c)).latched e (ent n 0 6 4)).foldl Dev.earlier none = some (k.val, l) := by
      refine Dev.foldl_latched k.isLt hmask hkeep fun j l' hj => ?_
      obtain ⟨hlt, hbit, hget⟩ := Dev.mem_latched.mp hj
      rw [Dev.discard_ei] at hget
      split at hget
      · cases hget
      · next hnot =>
        have hnot' : (j, l') ∉ d.outOfDate e c := fun h => hnot ((hmem j).mpr ⟨l', hget, h⟩)
        exact (hfirst ⟨j, hlt⟩ l' hbit hget (hstale j l' hget hnot' hlt hbit)).imp id fun h => ⟨h.1, h.2⟩
    have hmask0 : ent n 0 6 4 ≠ 0 := by
      intro h0
      rw [h0] at hmask
      simp [bitsOf] at hmask
    have hctx : ∀ w lo m, (d.discard e (d.outOfDate e c)).ctxFld c w lo m = d.ctxFld c w lo m := fun w lo m => Dev.ctxFld_congr (Dev.discard_ctx ..) ..
    refine State.runs_of_onDev (exec_waitRelease e s) (Dev.waitReleaseD_of_best hruns hwaits hprog hmask0 hbest) ⟨Dev.releaseWait_released .., ?_, ?_, ?_,
      ?_, ?_, ?_, (Dev.releaseWait_launches ..).trans (Dev.discard_launches ..)⟩
    · rw [Dev.releaseWait_ei]
      exact SMap.get_set_same ..
    · rw [Dev.ctx64_congr (Dev.ctxW_congr (Dev.releaseWait_ctx ..) ..) (Dev.ctxW_congr (Dev.releaseWait_ctx ..) ..), Dev.takeRelease_stamp _ _ _ _ _ hstamp]
    · rw [Dev.ctxFld_congr (Dev.releaseWait_ctx ..), Dev.takeRelease_gen _ _ _ _ _ hgen]
    · rw [Dev.ctxFld_congr (Dev.releaseWait_ctx ..), Dev.takeRelease_input _ _ _ _ _ k.isLt]
    · rw [Dev.isHeld, Dev.ctxFld_congr (Dev.releaseWait_ctx ..)]
      exact Dev.takeRelease_isHeld ..
    · rw [Dev.ctxPc, Dev.ctxFld_congr (Dev.releaseWait_ctx ..)]
      exact (Dev.takeRelease_ctxPc ..).trans (hctx 2 0 20)

end Sys2Proof.Machine

/-! PROOFS. Switching (R129 to R134): what binding a context to an engine, its channels' claims and its leaving do to the context store. -/
namespace Sys2Proof.Machine

theorem exec_swFiring (e : Fin 64) (s : State) : exec (.swFiring e) s = s.onDev (swFiringD e) := rfl
theorem exec_scheduledSwitch (e : Fin 64) (s : State) : exec (.scheduledSwitch e) s = s.onDev (scheduledSwitchD e) := rfl

namespace Dev

/-! ## Changes of one context's record -/

/-- Every word of the records of contexts other than `c` is as before. -/
structure onCtx (c : Nat) (d d' : Dev) : Prop where
  same : ∀ c' w, c ≠ c' → w < 256 → d'.ctxW c' w = d.ctxW c' w

section onCtx
variable {c : Nat} {d d' d'' : Dev}

theorem onCtx_of_ctx (h : d'.ctx = d.ctx) : onCtx c d d' := ⟨fun c' w _ _ => ctxW_congr h c' w⟩
theorem onCtx_trans (h : onCtx c d d') (h' : onCtx c d' d'') : onCtx c d d'' :=
  ⟨fun c' w hc hw => (h'.same c' w hc hw).trans (h.same c' w hc hw)⟩
theorem onCtx_setCtxW (d : Dev) {w : Nat} (v : Word) (hw : w < 256) : onCtx c d (d.setCtxW c w v) :=
  ⟨fun _ _ hc _ => ctxW_setCtxW_ne d v (by omega)⟩
theorem onCtx_setCtxFld (d : Dev) {w : Nat} (lo n v : Nat) (hw : w < 256) : onCtx c d (d.setCtxFld c w lo n v) := onCtx_setCtxW d _ hw
theorem onCtx_setCtx64 (d : Dev) {w : Nat} (v : Nat) (hw : w < 255) : onCtx c d (d.setCtx64 c w v) :=
  onCtx_trans (onCtx_setCtxW d _ (by omega)) (onCtx_setCtxW _ _ (by omega))
theorem onCtx_fld (h : onCtx c d d') {c' : Nat} (hc : c ≠ c') {w : Nat} (hw : w < 256) (lo n : Nat) : d'.ctxFld c' w lo n = d.ctxFld c' w lo n := by
  rw [ctxFld, ctxFld, h.same c' w hc hw]

theorem onCtx_unmirror (d : Dev) (e c : Nat) : onCtx c d (d.unmirror e c) := by
  refine ⟨fun c' w hc hw => ?_⟩
  unfold unmirror
  rw [ctxW_congr (updEng_ctx ..)]
  have hhot : ∀ p ∈ d.stopped e, p.1 < 256 := by
    intro p hp
    have := (List.mem_filter.mp hp).2
    simp only [isHot, decide_eq_true_eq] at this
    omega
  revert hhot
  induction d.stopped e with
  | nil => exact fun _ => rfl
  | cons p r ih =>
    intro hhot
    rw [List.foldr_cons, ← ih fun q hq => hhot q (List.mem_cons_of_mem _ hq)]
    exact (onCtx_setCtxW _ _ (hhot p List.mem_cons_self)).same c' w hc hw

theorem onCtx_leave (d : Dev) (c s : Nat) : onCtx c d (d.leave c s) := by
  unfold leave
  split
  · exact onCtx_trans (onCtx_setCtxFld _ _ _ _ (by decide)) (onCtx_of_ctx (settleClaims_ctx ..))
  · next e _ =>
    extract_lets d₁ d₂
    have h₁ : onCtx c d d₁ := onCtx_trans (onCtx_trans (onCtx_of_ctx (keepLive_ctx ..)) (onCtx_unmirror ..)) (onCtx_setCtx64 _ _ (by decide))
    have h₂ : onCtx c d₁ d₂ := onCtx_setCtxFld _ _ _ _ (by decide)
    have h₃ : onCtx c d₂ ((d₂.setCtxState c s).setCtxFld c 0 8 7 0) := onCtx_trans (onCtx_setCtxFld _ _ _ _ (by decide)) (onCtx_setCtxFld _ _ _ _ (by decide))
    exact onCtx_trans h₁ (onCtx_trans h₂ (onCtx_trans h₃ (onCtx_of_ctx ((settleClaims_ctx ..).trans (unbind_ctx ..)))))

theorem onCtx_switchOut (d : Dev) (c : Nat) : onCtx c d (d.switchOut c) := onCtx_trans (onCtx_setCtxFld d 16 8 _ (w := 0) (by decide)) (onCtx_leave ..)
end onCtx

/-! ## A context takes an engine -/

/-- The channels of a context's set, claimed for it. -/
def claimed (d : Dev) (c : Nat) : Dev :=
  (d.ctxChans c).foldl (fun d n => (d.updChan n (fun x => { x with claim := some c })).setFld (Reg.chn_SC_STATUS n) 0 2 2) d

theorem claimFor_eq (d : Dev) (c : Nat) : d.claimFor c = (d.claimed c).setCtxState c 3 := rfl

section claimed
variable (d : Dev) (c : Nat)

theorem claimed_ctx : (d.claimed c).ctx = d.ctx := foldl_keeps Dev.ctx _ _ (fun _ _ => (setFld_ctx ..).trans (updChan_ctx ..)) d
theorem claimed_launches : (d.claimed c).launches = d.launches := foldl_keeps Dev.launches _ _ (fun _ _ => (setFld_launches ..).trans (updChan_launches ..)) d

theorem claimFor_state : (d.claimFor c).ctxState c = 3 := by
  rw [claimFor_eq, ctxState, setCtxState, ctxFld_setCtxFld_same _ _ _ _ _ _ (by omega)]
  rfl
theorem claimFor_launches : (d.claimFor c).launches = d.launches := by
  rw [claimFor_eq, setCtxState_launches, claimed_launches]
theorem onCtx_claimFor : onCtx c d (d.claimFor c) := onCtx_trans (onCtx_of_ctx (claimed_ctx ..)) (onCtx_setCtxFld _ _ _ _ (by decide))

end claimed

section bindEng
variable (d : Dev) (e c tsw : Nat)

theorem bindEng_ctx : (d.bindEng e c tsw).ctx = (((d.setCtxFld c 0 8 6 e).setCtxFld c 0 14 1 1).setCtxW c 58 (d.ctxW c 58 + 1)).ctx := by
  unfold bindEng
  extract_lets d₁ lines d₂
  have h₂ : d₂.ctx = d₁.ctx := setFld_ctx ..
  rw [updEng_ctx, h₂]
theorem bindEng_launches : (d.bindEng e c tsw).launches = d.launches := by
  unfold bindEng
  extract_lets d₁ lines d₂
  have h₂ : d₂.launches = d₁.launches := setFld_launches ..
  rw [updEng_launches, h₂]
  exact (setCtxW_launches ..).trans ((setCtxFld_launches ..).trans (setCtxFld_launches ..))
theorem bindEng_state : (d.bindEng e c tsw).ctxState c = d.ctxState c := by
  rw [ctxState, ctxFld_congr (bindEng_ctx ..), ctxFld_setCtxW_ne _ _ _ _ _ (by decide), ctxFld_setCtxFld_other _ _ _ _ _ _ _ _ (by decide) (by decide),
    ctxFld_setCtxFld_other _ _ _ _ _ _ _ _ (by decide) (by decide), ctxState]
theorem onCtx_bindEng : onCtx c d (d.bindEng e c tsw) :=
  onCtx_trans (onCtx_trans (onCtx_trans (onCtx_setCtxFld d 8 6 e (w := 0) (by decide)) (onCtx_setCtxFld _ 14 1 1 (w := 0) (by decide)))
    (onCtx_setCtxW _ _ (w := 58) (by decide))) (onCtx_of_ctx (bindEng_ctx ..))

/-- STATUS names the context that an engine has taken. -/
theorem engCtx_of_bound {d' : Dev} {v : Nat} (hv : v < 2^14) (h : d'.fld (Reg.eng_STATUS e) 0 16 = 2^14 + v) : d'.engCtx e = some v := by
  have h16 : d'.rdN (Reg.eng_STATUS e) % 2^16 = 2^14 + v := by simpa [fld, bitsOf] using h
  have hbit : d'.bit (Reg.eng_STATUS e) 14 = true := by
    rw [bit_eq, fld, bitsOf, show d'.rdN (Reg.eng_STATUS e) / 2^14 % 2^1 = 1 by omega]
    rfl
  have hfld : d'.fld (Reg.eng_STATUS e) 0 14 = v := by
    rw [fld, bitsOf]
    omega
  rw [engCtx, if_pos hbit, hfld]

theorem bindEng_engCtx (hc : c < 2^14) : (d.bindEng e c tsw).engCtx e = some c := by
  refine engCtx_of_bound e hc ?_
  unfold bindEng
  extract_lets d₁ lines d₂
  rw [fld_congr (updEng_regs ..), fld_setFld_same _ _ _ _ _ (by decide), Nat.mod_eq_of_lt (by omega)]

end bindEng

/-! ## A switch -/

section switchTo
variable (d : Dev) (e c target tsw : Nat) (s : Option Staged)

theorem loadHot_launches : (d.loadHot target s).launches = d.launches := by
  unfold loadHot
  split
  · rw [setCtxFld_launches]
    exact foldl_keeps Dev.launches _ _ (fun _ _ => setCtxW_launches ..) d
  · rfl

theorem onCtx_loadHot : onCtx target d (d.loadHot target s) := by
  unfold loadHot
  split
  · next x =>
    refine onCtx_trans ?_ (onCtx_setCtxFld _ _ _ _ (by decide))
    have hhot : ∀ p ∈ x.recd.zipIdx.filter (fun p => isHot p.2), p.2 < 256 := by
      intro p hp
      have := (List.mem_filter.mp hp).2
      simp only [isHot, decide_eq_true_eq] at this
      omega
    exact ⟨fun c' w hc hw => foldl_keeps_mem (fun d => d.ctxW c' w) _ _ (fun p hp d => (onCtx_setCtxW d p.1 (hhot p hp)).same c' w hc hw) d⟩
  · exact onCtx_of_ctx rfl

/-- The device in which the target has claimed its channels and the outgoing context has left. -/
def switching : Dev := (((d.loadHot target s).claimFor target).switchOut c).settle (Reg.eng_SW_CFG e)

theorem switchTo_eq : d.switchTo e (some c) target tsw s = (d.switching e c target s).bindEng e target tsw := rfl

theorem switchOut_state : (d.switchOut c).ctxState c = 2 := leave_state _ _ _ (by decide)
theorem switchOut_launches : (d.switchOut c).launches = d.launches := by
  unfold switchOut
  rw [leave_launches, setCtxFld_launches]

theorem switchTo_launches : (d.switchTo e (some c) target tsw s).launches = d.launches := by
  rw [switchTo_eq, bindEng_launches]
  unfold switching
  rw [settle_launches, switchOut_launches, claimFor_launches, loadHot_launches]

variable {c target}

theorem switchTo_target (h : c ≠ target) : (d.switchTo e (some c) target tsw s).ctxState target = 3 := by
  rw [switchTo_eq, bindEng_state, ctxState, switching, ctxFld_congr (settle_ctx ..), onCtx_fld (onCtx_switchOut ..) h (by decide), ← ctxState, claimFor_state]
theorem switchTo_out (h : c ≠ target) : (d.switchTo e (some c) target tsw s).ctxState c = 2 := by
  rw [switchTo_eq, ctxState, onCtx_fld (onCtx_bindEng ..) h.symm (by decide), switching, ctxFld_congr (settle_ctx ..), ← ctxState, switchOut_state]
theorem switchTo_engCtx (h : target < 2^14) : (d.switchTo e (some c) target tsw s).engCtx e = some target := bindEng_engCtx _ _ _ _ h

end switchTo

section switchDone
variable (d : Dev) (e : Nat)

theorem switchDone_onlyRegs : d.onlyRegs (d.switchDone e) := onlyRegs_trans (onlyRegs_raise ..) (onlyRegs_bump ..)
theorem switchDone_ctx : (d.switchDone e).ctx = d.ctx := (bump_ctx ..).trans (raise_ctx ..)
theorem switchDone_launches : (d.switchDone e).launches = d.launches := (bump_launches ..).trans (raise_launches ..)
theorem switchDone_engCtx : (d.switchDone e).engCtx e = d.engCtx e := by
  have hcount : Reg.eng_SWITCH_CNT e ≠ Reg.eng_STATUS e := by grind
  have hevents : Reg.eng_EVENTS e ≠ Reg.eng_STATUS e := by grind
  refine engCtx_of_rd ?_
  rw [switchDone, rd_bump_ne _ hcount, rd_raise_ne _ _ hevents]

end switchDone

/-- What a switch leaves: the target runs on the engine, and the outgoing context is ADMITTED. -/
theorem switched_contexts {d d' : Dev} {e c target tsw : Nat} {s : Option Staged} (h : c ≠ target) (ht : target < 2^14)
    (hctx : ∀ c', d'.ctxState c' = (d.switchTo e (some c) target tsw s).ctxState c') (hregs : d'.regs = (d.switchTo e (some c) target tsw s).regs) :
    (d'.switchDone e).engCtx e = some target ∧ (d'.switchDone e).ctxState target = 3 ∧ (d'.switchDone e).ctxState c = 2 := by
  refine ⟨?_, ?_, ?_⟩
  · rw [switchDone_engCtx, engCtx_of_rd (rd_of_regs hregs _), switchTo_engCtx _ _ _ _ ht]
  · rw [ctxState, ctxFld_congr (switchDone_ctx ..), ← ctxState, hctx, switchTo_target _ _ _ _ h]
  · rw [ctxState, ctxFld_congr (switchDone_ctx ..), ← ctxState, hctx, switchTo_out _ _ _ _ h]

/-! ## A firing at a switch input (R132) -/

/-- Two devices between which registers of task inputs alone differ, with what waits at the inputs. -/
structure sameButInputs (d d' : Dev) : Prop where
  only : ∃ r m, d' = { d with regs := r, tin := m }
  rd : ∀ a, a < 0x220000 ∨ 0x230000 ≤ a → d'.rd a = d.rd a

theorem sameButInputs_taken (d : Dev) {i : Nat} (hi : i < 512) (r : List Held) (gen : Nat) : sameButInputs d (d.taken i r gen) where
  only := ⟨_, _, rfl⟩
  rd a ha := taken_rd _ _ _ _ (by grind)

section sameButInputs
variable {d d' : Dev} (h : sameButInputs d d')
include h

theorem sameButInputs_chMode (n : Nat) : d'.chMode n = d.chMode n := by
  unfold chMode fld rdN
  rw [h.rd _ (by unfold Reg.chn_CFG chnBase; omega)]
theorem sameButInputs_chOwner (n : Nat) : d'.chOwner n = d.chOwner n := by
  have hpart : ∀ p, d'.partOn p = d.partOn p := fun p => by
    unfold partOn fld rdN
    rw [h.rd _ (by grind)]
  unfold chOwner partWhere
  simp only [hpart]
  obtain ⟨r, m, rfl⟩ := h.only
  rfl
theorem sameButInputs_switchFails (target : Nat) (o out : Option Nat) : d'.switchFails target o out = d.switchFails target o out := by
  have hforeign : d'.foreignChan target = d.foreignChan target := by
    unfold foreignChan
    simp only [sameButInputs_chOwner h]
    obtain ⟨r, m, rfl⟩ := h.only
    rfl
  have hconflict : d'.conflict target out = d.conflict target out := by
    unfold conflict
    simp only [sameButInputs_chMode h]
    obtain ⟨r, m, rfl⟩ := h.only
    rfl
  unfold switchFails
  simp only [hforeign, hconflict]
  obtain ⟨r, m, rfl⟩ := h.only
  rfl
theorem sameButInputs_swTarget (e : Nat) : d'.swTarget e = d.swTarget e := by
  have hrd : d'.rd (Reg.eng_SW_CFG e) = d.rd (Reg.eng_SW_CFG e) := h.rd _ (by grind)
  unfold swTarget effFld eff bit
  simp only [hrd]
  obtain ⟨r, m, rfl⟩ := h.only
  rfl
theorem sameButInputs_current (s : Option Staged) (c : Nat) : d'.current s c = d.current s c := by
  obtain ⟨r, m, rfl⟩ := h.only
  rfl
theorem sameButInputs_engOf (e : Nat) : d'.engOf e = d.engOf e := by
  obtain ⟨r, m, rfl⟩ := h.only
  rfl
theorem sameButInputs_engCtx (e : Nat) : d'.engCtx e = d.engCtx e := engCtx_of_rd (h.rd _ (by grind))
end sameButInputs

theorem recordLate_launches (d : Dev) (stamp lateness : Nat) : (d.recordLate stamp lateness).launches = d.launches := by
  refine (launches_of_base (base_fireNow ..)).trans ?_
  refine (raise_launches ..).trans ?_
  refine (iteInduction (motive := fun z : Dev => z.launches = _) (fun _ => wrN_launches ..) fun _ => rfl).trans ?_
  refine (bump_launches ..).trans ?_
  exact iteInduction (motive := fun z : Dev => z.launches = d.launches) (fun _ => rfl) fun _ => wr64_launches ..

/-- What the time at which a consumer acts records, where it acts late. -/
theorem actTime_spec {d : Dev} {i lat : Nat} {f : Firing} (h : f.stamp + lat < 2^64) :
    ∃ t d', d.actTime i lat f = (some t, d') ∧ d'.launches = d.launches := by
  unfold actTime
  rw [if_neg h.not_ge]
  split
  · exact ⟨_, _, rfl, (recordLate_launches ..).trans (raise_launches ..)⟩
  · exact ⟨_, _, rfl, rfl⟩

/-- The words of the target's record that hold the firing as its release. -/
def releaseWords (d : Dev) (target : Nat) (f : Firing) : Dev :=
  (((d.setCtx64 target 6 f.stamp).setCtxFld target 2 24 4 (1 + (if f.coarse then 2 else 0) + 12)).setCtxFld target 2 28 3 f.gen).setCtxFld target 2 31 1 1
/-- The target of a switch holds the firing as its release. -/
def holdRelease (d : Dev) (e target : Nat) (f : Firing) : Dev := (d.releaseWords target f).updEng e (fun x => { x with s0 := none })

section holdRelease
variable (d : Dev) (e target : Nat) (f : Firing)

theorem releaseWords_launches : (d.releaseWords target f).launches = d.launches := by
  unfold releaseWords
  rw [setCtxFld_launches, setCtxFld_launches, setCtxFld_launches, setCtx64_launches]
theorem releaseWords_regs : (d.releaseWords target f).regs = d.regs := by
  unfold releaseWords
  rw [setCtxFld_regs, setCtxFld_regs, setCtxFld_regs, setCtx64_regs]
theorem holdRelease_ctx : (d.holdRelease e target f).ctx = (d.releaseWords target f).ctx := updEng_ctx ..
theorem holdRelease_launches : (d.holdRelease e target f).launches = d.launches := (updEng_launches ..).trans (releaseWords_launches ..)
theorem holdRelease_regs : (d.holdRelease e target f).regs = d.regs := (updEng_regs ..).trans (releaseWords_regs ..)
theorem holdRelease_word {c w : Nat} (h6 : 6 ≠ w) (h7 : 7 ≠ w) (h2 : 2 ≠ w) (hw : w < 256) : (d.holdRelease e target f).ctxW c w = d.ctxW c w := by
  rw [ctxW_congr (holdRelease_ctx ..)]
  unfold releaseWords
  by_cases hc : target = c
  · subst hc
    rw [ctxW_setCtxFld_other _ _ _ _ _ h2, ctxW_setCtxFld_other _ _ _ _ _ h2, ctxW_setCtxFld_other _ _ _ _ _ h2, ctxW_setCtx64_other _ _ _ h6 h7]
  · exact (onCtx_trans (onCtx_trans (onCtx_trans (onCtx_setCtx64 d f.stamp (w := 6) (by decide)) (onCtx_setCtxFld _ 24 4 _ (w := 2) (by decide)))
      (onCtx_setCtxFld _ 28 3 _ (w := 2) (by decide))) (onCtx_setCtxFld _ 31 1 _ (w := 2) (by decide))).same c w hc hw
theorem holdRelease_stamp (h : f.stamp < 2^64) : (d.holdRelease e target f).ctx64 target 6 = f.stamp := by
  rw [ctx64_congr (ctxW_congr (holdRelease_ctx ..) ..) (ctxW_congr (holdRelease_ctx ..) ..)]
  have hword : ∀ w, 2 ≠ w → ((((d.setCtx64 target 6 f.stamp).setCtxFld target 2 24 4 (1 + (if f.coarse then 2 else 0) + 12)).setCtxFld target 2 28 3
      f.gen).setCtxFld target 2 31 1 1).ctxW target w = (d.setCtx64 target 6 f.stamp).ctxW target w := fun w h2 => by
    rw [ctxW_setCtxFld_other _ _ _ _ _ h2, ctxW_setCtxFld_other _ _ _ _ _ h2, ctxW_setCtxFld_other _ _ _ _ _ h2]
  unfold releaseWords
  rw [ctx64_congr (hword 6 (by decide)) (hword 7 (by decide)), ctx64_setCtx64_same _ _ _ _ h]
/-- The low bits of a field are those of the wider one. -/
theorem ctxFld_of_wider (d : Dev) (c w lo : Nat) {k n : Nat} (h : k ≤ n) : d.ctxFld c w lo k = d.ctxFld c w lo n % 2^k := by
  unfold ctxFld bitsOf
  rw [Nat.mod_mod_of_dvd _ (pow_dvd_pow 2 h)]

theorem holdRelease_isHeld : (d.holdRelease e target f).isHeld target = true := by
  have hfield : (d.holdRelease e target f).ctxFld target 2 24 4 = (1 + (if f.coarse then 2 else 0) + 12) % 2^4 := by
    rw [ctxFld_congr (holdRelease_ctx ..), releaseWords, ctxFld_setCtxFld_other _ _ _ _ _ _ _ _ (by decide) (by decide),
      ctxFld_setCtxFld_other _ _ _ _ _ _ _ _ (by decide) (by decide), ctxFld_setCtxFld_same _ _ _ _ _ _ (by decide)]
  rw [isHeld, ctxFld_of_wider _ _ _ _ (show 1 ≤ 4 by decide), hfield]
  cases f.coarse <;> rfl

end holdRelease

theorem swFiringD_of_current {d : Dev} {e : Fin 64} {c target : Nat} {h : Held} {r : List Held} (hin : (d.tinOf (256 + e)).inbox = h :: r)
    (hctx : d.engCtx e = some c) (hne : c ≠ target) (htarget : d.swTarget e = some target) (hbad : d.tinBad (256 + e) = false)
    (htime : d.timeValid = true) (hcopy : d.current (d.engOf e).s0 target = true) (hmoving : (d.engOf e).moving = none)
    (hservice : d.bit (Reg.eng_STATUS e) 24 = false) (hmay : d.switchFails target (d.engOwner e) (some c) = none)
    (hstamp : h.fire.stamp + d.latOf (256 + e) < 2^64) :
    ∃ (d₁ : Dev) (s : Option Staged), d₁.launches = d.launches ∧ swFiringD e d = (((d₁.withdraw c (h.fire.stamp + d.latOf (256 + e))).switchTo e (some c) target
      (h.fire.stamp + d.latOf (256 + e)) s).holdRelease e target h.fire).switchDone e := by
  have hi : 256 + e.val < 512 := by have := e.isLt; omega
  have hsame := sameButInputs_taken d hi r h.fire.gen
  have hlat := taken_latOf d (256 + e) r h.fire.gen (256 + e)
  obtain ⟨t, d₁, hact, hlaunches⟩ := actTime_spec (d := d.taken (256 + e) r h.fire.gen) (i := 256 + e) (lat := d.latOf (256 + e)) (f := h.fire) hstamp
  have hgo : ¬ (some c = some target ∨ (d.taken (256 + e) r h.fire.gen).tinBad (256 + e) = true ∨
      (!(d.taken (256 + e) r h.fire.gen).current (d.engOf e).s0 target) = true ∨ (d.taken (256 + e) r h.fire.gen).bit (Reg.eng_STATUS e) 24 = true ∨
      (d.engOf e).moving.isSome = true) := by
    have hstatus : (d.taken (256 + e) r h.fire.gen).rd (Reg.eng_STATUS e) = d.rd (Reg.eng_STATUS e) := hsame.rd _ (by grind)
    rw [taken_tinBad, sameButInputs_current hsame, hcopy, hbad, hmoving, bit, hstatus, ← bit, hservice]
    simp [hne]
  refine ⟨d₁, (d₁.withdraw c (h.fire.stamp + d.latOf (256 + e))).engOf e |>.s0, hlaunches.trans ?_, ?_⟩
  · exact (setFld_launches ..).trans (updTin_launches ..)
  · unfold swFiringD
    rw [htime]
    simp only [takeFiring_of_inbox hin, sameButInputs_engCtx hsame, hctx, sameButInputs_swTarget hsame, htarget, sameButInputs_engOf hsame]
    refine (if_neg hgo).trans ?_
    have hfails : (d.taken (256 + e) r h.fire.gen).switchFails target ((d.taken (256 + e) r h.fire.gen).engOwner e) (some c) = none := by
      rw [sameButInputs_switchFails hsame, engOwner, sameButInputs_engOf hsame, ← engOwner, hmay]
    simp only [hlat, hact, hfails]
    rfl

/-! ## The time of a SWITCH entry (R114) -/

/-- The device in which the launches of the SWITCH that an engine awaits have left. -/
def switchLeft (d : Dev) (e : Nat) : Dev := { d with launches := d.launches.filter (fun l => !(l.eng == e && d.awaitsSwitch l)) }

/-- A switch that is late is recorded, at its channels and with its time. -/
def recordLateSwitch (d : Dev) (c t : Nat) : Dev :=
  ((d.ctxChans c).foldl (fun d n => (d.raise (Reg.chn_OUT_EVENTS n) 1).bump (Reg.chn_LATE_CNT n)) d).recordLate t
    (((d.ctxChans c).foldl (fun d n => (d.raise (Reg.chn_OUT_EVENTS n) 1).bump (Reg.chn_LATE_CNT n)) d).nextTick - t)

theorem recordLateSwitch_launches (d : Dev) (c t : Nat) : (d.recordLateSwitch c t).launches = d.launches :=
  (recordLate_launches ..).trans (foldl_keeps Dev.launches _ _ (fun _ _ => (bump_launches ..).trans (raise_launches ..)) d)

theorem scheduledSwitchD_of_due {d : Dev} {e : Fin 64} {c target t : Nat} (hctx : d.engCtx e = some c) (hwait : (d.engOf e).swWait = some (target, t))
    (hdue : d.due t = true) (htime : d.timeValid = true)
    (hearlier : ∀ l ∈ d.launches, l.ctx = c → d.awaitsSwitch l = false → l.accepted = false → t ≤ l.treq)
    (hmay : d.switchFails target (d.engOwner e) (some c) = none)
    (hcopy : d.current (d.engOf e).s0 target = true ∨ d.current (d.engOf e).s1 target = true) :
    ∃ (d₁ : Dev) (s : Option Staged) (f : Eng → Eng), d₁.launches = (d.switchLeft e).launches ∧
      scheduledSwitchD e d = ((d₁.switchTo e (some c) target 0 s).updEng e f).switchDone e := by
  have hgo : ¬ ((!d.due t) = true ∨ (!d.timeValid) = true ∨
      d.launches.any (fun l => l.ctx == c && !d.awaitsSwitch l && !l.accepted && decide (l.treq < t)) = true) := by
    rw [hdue, htime]
    simp only [Bool.not_true, Bool.false_eq_true, false_or, List.any_eq_true, Bool.and_eq_true, beq_iff_eq, Bool.not_eq_true', decide_eq_true_eq]
    rintro ⟨l, hl, ⟨⟨hc, hsw⟩, hacc⟩, hlt⟩
    exact absurd (hearlier l hl hc hsw hacc) hlt.not_ge
  unfold scheduledSwitchD
  rw [hctx, hwait]
  dsimp only
  rw [if_neg hgo, hmay]
  dsimp only
  rw [if_pos hcopy.symm]
  refine ⟨_, _, _, ?_, rfl⟩
  exact iteInduction (motive := fun x : Dev => x.launches = (d.switchLeft e).launches) (fun _ => recordLateSwitch_launches (d.switchLeft e) c t) fun _ => rfl

end Dev

/-- Settles O8: at either kind of switch the device is that of `switchTo`, of which `switched_contexts` says the contexts. -/
theorem switchesTakeTheTarget : Obligations.SwitchesTakeTheTarget := by
  intro s e c target d hne ht hctx hmay
  refine ⟨fun h r hin htarget hbad htime hcopy hmoving hservice hstamp => ?firing, fun t hwait hdue htime hearlier hcopy => ?entry⟩
  case firing =>
    obtain ⟨d₁, slot, hlaunches, hsw⟩ := Dev.swFiringD_of_current hin hctx hne htarget hbad htime hcopy hmoving hservice hmay hstamp
    have hword : ∀ c', ((((d₁.withdraw c (h.fire.stamp + d.latOf (256 + e))).switchTo e (some c) target (h.fire.stamp + d.latOf (256 + e)) slot).holdRelease e target
        h.fire)).ctxState c' = _ := fun c' => congrArg (fun v : Word => bitsOf v.toNat 0 3) (Dev.holdRelease_word _ _ _ _ (by decide) (by decide) (by decide) (by decide))
    obtain ⟨hbound, hrun, hout⟩ := Dev.switched_contexts (e := e) hne ht hword (Dev.holdRelease_regs ..)
    refine State.runs_of_onDev (exec_swFiring e s) hsw ⟨hbound, hrun, hout, ?_, ?_, ?_⟩
    · rw [Dev.ctx64_congr (Dev.ctxW_congr (Dev.switchDone_ctx ..) ..) (Dev.ctxW_congr (Dev.switchDone_ctx ..) ..), Dev.holdRelease_stamp]
      exact lt_of_le_of_lt (Nat.le_add_right ..) hstamp
    · rw [Dev.isHeld, Dev.ctxFld_congr (Dev.switchDone_ctx ..)]
      exact Dev.holdRelease_isHeld ..
    · rw [Dev.switchDone_launches, Dev.holdRelease_launches, Dev.switchTo_launches]
      exact congrArg (List.filter _) hlaunches
  case entry =>
    obtain ⟨d₁, slot, f, hlaunches, hsw⟩ := Dev.scheduledSwitchD_of_due hctx hwait hdue htime hearlier hmay hcopy
    obtain ⟨hbound, hrun, hout⟩ := Dev.switched_contexts (e := e) (d := d₁) (d' := (d₁.switchTo e (some c) target 0 slot).updEng e f) (tsw := 0) (s := slot)
      hne ht (fun c' => congrArg (fun v : Word => bitsOf v.toNat 0 3) (Dev.ctxW_congr (Dev.updEng_ctx ..) c' 0)) (Dev.updEng_regs ..)
    refine State.runs_of_onDev (exec_scheduledSwitch e s) hsw ⟨hbound, hrun, hout, ?_⟩
    rw [Dev.switchDone_launches, Dev.updEng_launches, Dev.switchTo_launches, hlaunches]
    rfl

end Sys2Proof.Machine

/-! PROOFS. Firings (R207 to R211): the event channels that listen to a source, and what a firing puts into their inboxes. -/
namespace Sys2Proof.Machine

namespace SMap
variable {α : Type}

/-- A test that fails at key `k` does not see a store there. -/
theorem filter_ins (P : Nat × α → Bool) (m : SMap α) (k : Nat) (v : α) (h : P (k, v) = false) : (ins m k v).filter P = m.filter P := by
  induction m with
  | nil => simp [ins, h]
  | cons p r ih =>
    unfold ins
    split
    · rw [List.filter_cons, h]
      rfl
    · rw [List.filter_cons, List.filter_cons, ih]

theorem filter_set [DecidableEq α] (P : Nat × α → Bool) (d : α) (m : SMap α) (k : Nat) (v : α) (h : ∀ v, P (k, v) = false) :
    (set d m k v).filter P = m.filter P := by
  have herase : (erase m k).filter P = m.filter P := by
    unfold erase
    rw [List.filter_filter]
    refine List.filter_congr fun p _ => ?_
    by_cases hp : p.1 = k
    · obtain ⟨j, v'⟩ := p
      cases hp
      rw [h v', Bool.false_and]
    · simp [hp]
  unfold set
  split
  · exact herase
  · rw [filter_ins P _ _ _ (h v), herase]

end SMap

namespace Dev

/-! ## The channels that listen -/

/-- A register of an event channel (R222). -/
def inEc (a : Nat) : Prop := 0x210000 ≤ a ∧ a < 0x218000

/-- Of what the event channels listen to, nothing differs. -/
structure sameListeners (d d' : Dev) : Prop where
  listed : ∀ P : Nat × Word → Bool, (∀ p, ¬ inEc p.1 → P p = false) → d'.regs.filter P = d.regs.filter P
  rd : ∀ a, inEc a → d'.rd a = d.rd a
  held : ∀ a, inEc a → SMap.get none d'.inforce a = SMap.get none d.inforce a
  parity : d'.parity = d.parity

/-- Event channel `n`, where it selects source `src` and no mismatch stands at it. -/
def hears (d : Dev) (src n : Nat) : Option Nat :=
  let ctl := (d.eff (Reg.ec_CTL n)).toNat
  let cfg := (d.eff (Reg.ec_CFG n)).toNat
  if d.corrupt (0x0210000 + 128 * n) 128 then none
  else if (bitsOf ctl 10 1 = 1 ∧ bitsOf cfg 0 10 = src) ∨ (bitsOf ctl 11 1 = 1 ∧ bitsOf cfg 10 10 = src) ∨
     (bitsOf ctl 12 1 = 1 ∧ bitsOf cfg 20 10 = src) ∨ (bitsOf ctl 13 1 = 1 ∧ bitsOf ctl 0 10 = src)
  then some n else none

/-- A register that shows an event channel enabled. -/
def showsEnabled (p : Nat × Word) : Bool := 0x0210000 ≤ p.1 && p.1 < 0x0218000 && (p.1 - 0x0210000) % 128 == 4 && p.2.getLsbD 22

theorem listeners_eq (d : Dev) (src : Nat) :
    d.listeners src = (d.regs.filter showsEnabled).filterMap (fun p => d.hears src ((p.1 - 0x0210000) / 128)) := rfl

theorem showsEnabled_inEc {p : Nat × Word} (h : showsEnabled p = true) : inEc p.1 := by
  unfold showsEnabled at h
  simp only [Bool.and_eq_true, decide_eq_true_eq] at h
  exact h.1.1

theorem hears_of_same {d d' : Dev} (h : sameListeners d d') (src : Nat) {n : Nat} (hn : n < 256) : d'.hears src n = d.hears src n := by
  have heff : ∀ a, inEc a → d'.eff a = d.eff a := fun a ha => by rw [eff, eff, h.rd a ha, h.held a ha]
  have hctl : inEc (Reg.ec_CTL n) := by unfold inEc; grind
  have hcfg : inEc (Reg.ec_CFG n) := by unfold inEc; grind
  unfold hears corrupt
  rw [heff _ hctl, heff _ hcfg, h.parity]

theorem listeners_of_same {d d' : Dev} (h : sameListeners d d') (src : Nat) : d'.listeners src = d.listeners src := by
  have hlisted := h.listed showsEnabled fun p hp => Bool.eq_false_iff.mpr fun hs => hp (showsEnabled_inEc hs)
  rw [listeners_eq, listeners_eq, hlisted]
  refine List.filterMap_congr fun p hp => hears_of_same h src ?_
  have hin := showsEnabled_inEc (List.mem_filter.mp hp).2
  unfold inEc at hin
  omega

theorem sameListeners_refl (d : Dev) : sameListeners d d := ⟨fun _ _ => rfl, fun _ _ => rfl, fun _ _ => rfl, rfl⟩
theorem sameListeners_trans {d d' d'' : Dev} (h : sameListeners d d') (h' : sameListeners d' d'') : sameListeners d d'' :=
  ⟨fun P hP => (h'.listed P hP).trans (h.listed P hP), fun a ha => (h'.rd a ha).trans (h.rd a ha), fun a ha => (h'.held a ha).trans (h.held a ha),
    h'.parity.trans h.parity⟩
theorem sameListeners_of_fields {d d' : Dev} (hregs : d'.regs = d.regs) (hheld : d'.inforce = d.inforce) (hparity : d'.parity = d.parity) :
    sameListeners d d' :=
  ⟨fun _ _ => by rw [hregs], fun a _ => rd_of_regs hregs a, fun _ _ => by rw [hheld], hparity⟩

section sameListeners
variable (d : Dev) {a : Nat} (h : ¬ inEc a)
include h

theorem sameListeners_wr (v : Word) : sameListeners d (d.wr a v) where
  listed P hP := SMap.filter_set P _ _ _ _ fun v => hP (a, v) h
  rd b hb := rd_wr_ne d v (by rintro rfl; exact h hb)
  held _ _ := rfl
  parity := rfl
theorem sameListeners_wrN (n : Nat) : sameListeners d (d.wrN a n) := sameListeners_wr d h _
theorem sameListeners_setFld (lo w v : Nat) : sameListeners d (d.setFld a lo w v) := sameListeners_wrN d h _
theorem sameListeners_setBit (i : Nat) (b : Bool) : sameListeners d (d.setBit a i b) := sameListeners_wrN d h _
theorem sameListeners_raise (m : Nat) : sameListeners d (d.raise a m) := sameListeners_wrN d h _
theorem sameListeners_bump : sameListeners d (d.bump a) := sameListeners_wrN d h _
theorem sameListeners_settle : sameListeners d (d.settle a) where
  listed _ _ := rfl
  rd _ _ := rfl
  held b hb := by
    have hne : a ≠ b := by
      rintro rfl
      exact h hb
    exact SMap.get_set_ne none none d.inforce none hne
  parity := rfl
theorem sameListeners_wr64 (h4 : ¬ inEc (a + 4)) (v : Nat) : sameListeners d (d.wr64 a v) :=
  sameListeners_trans (sameListeners_wrN d h _) (sameListeners_wrN _ h4 _)
end sameListeners

theorem sameListeners_ite {d d' d'' : Dev} {p : Prop} [Decidable p] (h : sameListeners d d') (h' : sameListeners d d'') :
    sameListeners d (if p then d' else d'') := iteInduction (motive := fun x => sameListeners d x) (fun _ => h) fun _ => h'

theorem sameListeners_foldl {α : Type} (l : List α) (f : Dev → α → Dev) (h : ∀ d x, sameListeners d (f d x)) (d : Dev) :
    sameListeners d (l.foldl f d) := by
  induction l generalizing d with
  | nil => exact sameListeners_refl d
  | cons x r ih => exact sameListeners_trans (h d x) (ih _)

/-! ## What a firing leaves in the inboxes -/

/-- No firing that has reached an event channel is lost. -/
structure inboxGrows (d d' : Dev) : Prop where
  keeps : ∀ n, ∀ x ∈ (d.ecOf n).inbox, x ∈ (d'.ecOf n).inbox

theorem inboxGrows_refl (d : Dev) : inboxGrows d d := ⟨fun _ _ h => h⟩
theorem inboxGrows_trans {d d' d'' : Dev} (h : inboxGrows d d') (h' : inboxGrows d' d'') : inboxGrows d d'' :=
  ⟨fun n x hx => h'.keeps n x (h.keeps n x hx)⟩
theorem inboxGrows_of_ec {d d' : Dev} (h : d'.ec = d.ec) : inboxGrows d d' := by
  refine ⟨fun n x hx => ?_⟩
  rw [ecOf, h]
  exact hx

theorem mem_inbox_updEc (d : Dev) (n : Nat) (h : Held) : h ∈ ((d.updEc n (fun e => { e with inbox := e.inbox ++ [h] })).ecOf n).inbox := by
  rw [ecOf_updEc_same]
  exact List.mem_append_right _ List.mem_cons_self

theorem inboxGrows_updEc (d : Dev) (n : Nat) (h : Held) : inboxGrows d (d.updEc n (fun e => { e with inbox := e.inbox ++ [h] })) := by
  refine ⟨fun m x hx => ?_⟩
  by_cases hn : n = m
  · subst hn
    rw [ecOf_updEc_same]
    exact List.mem_append_left _ hx
  · rw [ecOf_updEc_ne _ _ hn]
    exact hx

theorem inboxGrows_foldl {α : Type} (l : List α) (f : Dev → α → Dev) (h : ∀ d x, inboxGrows d (f d x)) (d : Dev) : inboxGrows d (l.foldl f d) := by
  induction l generalizing d with
  | nil => exact inboxGrows_refl d
  | cons x r ih => exact inboxGrows_trans (h d x) (ih _)

/-- Every listener has the firing in its inbox. -/
theorem arrive_inbox (d : Dev) (f : Firing) {n : Nat} (hn : n ∈ d.listeners f.src) : ∃ x ∈ ((d.arrive f).ecOf n).inbox, x.fire = f := by
  unfold arrive
  revert hn
  generalize d.listeners f.src = ns
  intro hn
  induction ns generalizing d with
  | nil => cases hn
  | cons m r ih =>
    rw [List.foldl_cons]
    by_cases hm : n ∈ r
    · exact ih _ hm
    · have hhead : n = m := (List.mem_cons.mp hn).resolve_right hm
      subst hhead
      exact ⟨⟨f, d.nowT / 16⟩, (inboxGrows_foldl r _ (fun d k => inboxGrows_updEc d k _) _).keeps n _ (mem_inbox_updEc d n _), rfl⟩

theorem inboxGrows_arrive (d : Dev) (f : Firing) : inboxGrows d (d.arrive f) :=
  inboxGrows_foldl _ _ (fun d n => inboxGrows_updEc d n ⟨f, d.nowT / 16⟩) d

theorem inboxGrows_fireAs (d : Dev) (src stamp gen : Nat) (co la : Bool) : inboxGrows d (d.fireAs src stamp gen co la) := by
  unfold fireAs
  split
  · exact inboxGrows_arrive ..
  · refine inboxGrows_trans ?_ (inboxGrows_arrive ..)
    refine inboxGrows_of_ec ?_
    rw [bump_ec, raise_ec]
    exact foldl_keeps Dev.ec _ _ (fun _ _ => raise_ec ..) d
theorem inboxGrows_fire (d : Dev) (src stamp gen : Nat) : inboxGrows d (d.fire src stamp gen) := inboxGrows_fireAs ..
theorem inboxGrows_fireNow (d : Dev) (src : Nat) : inboxGrows d (d.fireNow src) := inboxGrows_fire ..

/-- A source that fires reaches every listener, whatever comes after. -/
theorem fired_of_fireAs {d d₁ d' : Dev} {src stamp gen : Nat} {co la : Bool} (hgen : gen < 8) (hlisten : sameListeners d d₁)
    (hgrow : inboxGrows (d₁.fireAs src stamp gen co la) d') : d.fired d' src stamp := by
  intro n hn
  rw [← listeners_of_same hlisten] at hn
  unfold fireAs at hgrow
  rw [if_pos hgen] at hgrow
  obtain ⟨x, hx, hfire⟩ := arrive_inbox d₁ ⟨src, stamp, gen, co, la⟩ hn
  exact ⟨x, hgrow.keeps n x hx, by rw [hfire], by rw [hfire]⟩

theorem fired_of_fire {d d₁ d' : Dev} {src stamp gen : Nat} (hgen : gen < 8) (hlisten : sameListeners d d₁)
    (hgrow : inboxGrows (d₁.fire src stamp gen) d') : d.fired d' src stamp := fired_of_fireAs hgen hlisten hgrow

theorem sameListeners_fire (d : Dev) (src stamp gen : Nat) (h : gen < 8) : sameListeners d (d.fire src stamp gen) :=
  sameListeners_of_fields (fire_regs _ _ _ _ h) (congrArg Dev.inforce (base_fire d src stamp gen) :) (congrArg Dev.parity (base_fire d src stamp gen) :)
theorem sameListeners_fireNow (d : Dev) (src : Nat) : sameListeners d (d.fireNow src) := sameListeners_fire _ _ _ _ (by decide)

end Dev
end Sys2Proof.Machine

/-! PROOFS. An engine's own work (R120, R130, R136, R140 to R147): line fetches, staging, the switch target, the online tests and moves. -/
namespace Sys2Proof.Machine

theorem exec_lineFetch (e : Fin 64) (s : State) : exec (.lineFetch e) s = s.onDev (lineFetchD e) := rfl
theorem exec_staging (e : Fin 64) (x : SlotCopy) (s : State) : exec (.staging e x) s = s.onDev (stagingD e x) := rfl
theorem exec_swCfgApply (e : Fin 64) (s : State) : exec (.swCfgApply e) s = s.onDev (swCfgApplyD e) := rfl
theorem exec_selfTest (e : Fin 64) (pass : Bool) (s : State) : exec (.selfTest e pass) s = s.onDev (selfTestD e pass) := rfl
theorem exec_patrol (e : Fin 64) (a : Option (BitVec 18)) (b : Bool) (s : State) : exec (.patrol e a b) s = s.onDev (patrolD e a b) := rfl
theorem exec_engMoved (e : Fin 64) (s : State) : exec (.engMoved e) s = s.onDev (engMovedD e) := rfl
theorem exec_microcodeChange (e : Fin 64) (s : State) : exec (.microcodeChange e) s = s.onDev (microcodeChangeD e) := rfl

namespace Dev

/-! ## Line fetches (R136) -/

/-- The prefetch queue takes the line of the PC before any other. -/
theorem lineFetchD_of_missing {d : Dev} {e : Fin 64} {c : Nat} (hctx : d.engCtx e = some c) (hmiss : d.ctxPc c / 8 ∉ (d.engOf e).lines) :
    ∃ kept, lineFetchD e d = d.updEng e (fun y => { y with lines := kept ++ [d.ctxPc c / 8] }) := by
  unfold lineFetchD
  rw [hctx]
  dsimp only
  generalize hahead : List.eraseDups (α := Nat) _ = ahead
  obtain ⟨rest, rfl⟩ : ∃ rest, ahead = d.ctxPc c / 8 :: rest := by
    rw [← hahead]
    simp only [List.cons_append, List.eraseDups_cons]
    exact ⟨_, rfl⟩
  have hfirst : ∀ kept : List Nat, d.ctxPc c / 8 ∉ kept → (d.ctxPc c / 8 :: rest).find? (fun x => !kept.contains x) = some (d.ctxPc c / 8) := by
    intro kept hk
    rw [List.find?_cons_of_pos]
    simpa using hk
  rw [hfirst]
  · exact ⟨_, rfl⟩
  · exact fun h => hmiss (List.mem_filter.mp h).1

/-! ## Staging (R130) -/

/-- The engines' records alone differ, and engine `e` keeps the words whose mirror stopped. -/
structure stages (d d' : Dev) (e : Nat) : Prop where
  only : d' = { d with eng := d'.eng }
  stuck : (d'.engOf e).stuck = (d.engOf e).stuck

theorem stages_updEng (d : Dev) (e : Nat) (f : Eng → Eng) (h : (f (d.engOf e)).stuck = (d.engOf e).stuck) : stages d (d.updEng e f) e :=
  ⟨rfl, (congrArg Eng.stuck (engOf_updEng_same ..)).trans h⟩
theorem stages_refl (d : Dev) (e : Nat) : stages d d e := ⟨rfl, rfl⟩

theorem staged_stages (d : Dev) (e : Nat) (slot : Fin 2) : stages d (d.staged e slot) e := by
  have hput : ∀ (s : Staged) ver, stages d (d.updEng e (fun x => { x with s0 := some s, left := slotHolds x ver s })) e :=
    fun s ver => stages_updEng d e _ rfl
  unfold staged
  dsimp only
  split
  · split
    · exact stages_refl d e
    · split
      · split
        · exact hput _ _
        · split
          · exact stages_refl d e
          · exact hput _ _
      · split
        · exact stages_refl d e
        · exact hput _ _
  · split
    · split
      · exact stages_refl d e
      · exact stages_updEng d e _ rfl
    · exact stages_refl d e

/-- The copy that a slot holds once it is complete. -/
theorem fullCopy_spec (d : Dev) (c ver : Nat) :
    (d.fullCopy c ver).ctx = c ∧ (d.fullCopy c ver).ver = ver ∧ (d.fullCopy c ver).done = true ∧
      (∀ i < 128, (d.fullCopy c ver).recd[i]? = some (d.storeW c i)) ∧
      ∀ i < 64, (d.fullCopy c ver).prog[i]? = some (SMap.get 0 d.prog ((4 * d.ctxPc c + i) % 2^22)) := by
  refine ⟨rfl, rfl, rfl, fun i hi => ?_, fun i hi => ?_⟩
  · simp [fullCopy, hi]
  · simp [fullCopy, entryWords, hi]

theorem staged_s1 {d : Dev} {e : Nat} {g : Staged} (hs : (d.engOf e).s1 = some g) (hdone : g.done = false) :
    d.staged e 1 = d.updEng e (fun x => { x with s1 := some (d.fullCopy g.ctx g.ver), left := slotHolds x 1 (d.fullCopy g.ctx g.ver) }) := by
  unfold staged
  rw [if_neg (by decide), hs]
  exact if_neg (by simp [hdone])

theorem staged_s0 {d : Dev} {e : Nat} {g : Staged} (ht : d.swTarget e = some g.ctx) (hs : (d.engOf e).s0 = some g) (hdone : g.done = false) :
    d.staged e 0 = d.updEng e (fun x => { x with s0 := some (d.fullCopy g.ctx g.ver), left := slotHolds x 0 (d.fullCopy g.ctx g.ver) }) := by
  unfold staged
  dsimp only
  rw [if_pos rfl, ht, hs]
  exact if_pos ⟨rfl, by simp [hdone]⟩

theorem stagingD_clean (d : Dev) (e : Fin 64) (k : Fin 2) : stagingD e ⟨k, .clean, false⟩ d = d.staged e k := rfl
theorem stagingD_corrected (d : Dev) (e : Fin 64) (k : Fin 2) : stagingD e ⟨k, .corrected, false⟩ d = (d.bankCorrected e).staged e k := rfl
theorem stagingD_uncorrectable (d : Dev) (e : Fin 64) (k : Fin 2) (off : BitVec 18) : stagingD e ⟨k, .uncorrectable off, false⟩ d =
    if 0x20000 ≤ off.toNat ∧ off.toNat < 0x20400 then
      match d.engCtx e with
      | some c => (d.stopMirror e c off.toNat).staged e k
      | none => d.staged e k
    else if d.bit (Reg.eng_STATUS e) 24 then d
    else d.engineFault e 0x21 off.toNat 0 := rfl

/-! ## Collisions and errors of the bank (R140, R142) -/

/-- A write meets the engine's in one word of its bank. -/
def collided (d : Dev) (e : Nat) : Dev := ((d.raise (Reg.eng_EVENTS e) 4).bump (Reg.eng_COLLIDE e)).fireNow 979

theorem nowT_of_rd {d d' : Dev} (hrd : d'.rd Reg.time_STATUS = d.rd Reg.time_STATUS) (htime : d'.time = d.time) : d'.nowT = d.nowT := by
  unfold nowT accEdge timeState fld rdN
  rw [hrd, htime]

theorem stagingD_collide (d : Dev) (e : Fin 64) (k : Fin 2) : stagingD e ⟨k, .clean, true⟩ d = (d.collided e).staged e k :=
  congrArg (fun x : Dev => x.staged e k) (if_pos rfl)

section collided
variable (d : Dev) (e : Nat)

theorem collided_rd {a : Nat} (hcount : Reg.eng_COLLIDE e ≠ a) : (d.collided e).rd a = (d.raise (Reg.eng_EVENTS e) 4).rd a := by
  unfold collided
  rw [rd_of_regs (fireNow_regs ..), rd_bump_ne _ hcount]

theorem collided_bit : (d.collided e).bit (Reg.eng_EVENTS e) 2 = true := by
  have hcount : Reg.eng_COLLIDE e ≠ Reg.eng_EVENTS e := by grind
  rw [bit, collided_rd _ _ hcount, ← bit, bit_raise_same _ _ _ _ (by decide) (by decide)]
  exact Bool.or_true _

theorem collided_count : (d.collided e).rdN (Reg.eng_COLLIDE e) = min (2^32 - 1) (d.rdN (Reg.eng_COLLIDE e) + 1) := by
  have hevents : Reg.eng_EVENTS e ≠ Reg.eng_COLLIDE e := by grind
  unfold collided
  rw [rdN_congr (fireNow_regs ..), rdN_bump_same, rdN_raise_ne _ _ hevents]

theorem collided_fired {d' : Dev} (h : inboxGrows (d.collided e) d') : d.fired d' 979 d.nowT := by
  have hevents : ¬ inEc (Reg.eng_EVENTS e) := by unfold inEc; grind
  have hcount : ¬ inEc (Reg.eng_COLLIDE e) := by unfold inEc; grind
  have hne : Reg.eng_EVENTS e ≠ Reg.time_STATUS := by grind
  have hne' : Reg.eng_COLLIDE e ≠ Reg.time_STATUS := by grind
  have hnow : ((d.raise (Reg.eng_EVENTS e) 4).bump (Reg.eng_COLLIDE e)).nowT = d.nowT := by
    refine nowT_of_rd ?_ ?_
    · rw [rd_bump_ne _ hne', rd_raise_ne _ _ hne]
    · rw [bump_time, raise_time]
  have hlisten := sameListeners_trans (sameListeners_raise d hevents 4) (sameListeners_bump (d.raise (Reg.eng_EVENTS e) 4) hcount)
  have hfired := fired_of_fire (src := 979) (stamp := ((d.raise (Reg.eng_EVENTS e) 4).bump (Reg.eng_COLLIDE e)).nowT) (gen := 0) (by decide) hlisten h
  rw [hnow] at hfired
  exact hfired
end collided

theorem bankCorrected_bit (d : Dev) (e : Nat) : (d.bankCorrected e).bit (Reg.eng_EVENTS e) 3 = true := by
  have hcount : Reg.eng_BANK_CORR_CNT e ≠ Reg.eng_EVENTS e := by grind
  unfold bankCorrected
  rw [bit_bump_ne _ _ hcount, bit_raise_same _ _ _ _ (by decide) (by decide)]
  exact Bool.or_true _
theorem bankCorrected_count (d : Dev) (e : Nat) :
    (d.bankCorrected e).rdN (Reg.eng_BANK_CORR_CNT e) = min (2^32 - 1) (d.rdN (Reg.eng_BANK_CORR_CNT e) + 1) := by
  have hevents : Reg.eng_EVENTS e ≠ Reg.eng_BANK_CORR_CNT e := by grind
  unfold bankCorrected
  rw [rdN_bump_same, rdN_raise_ne _ _ hevents]

/-- Registers and firings are as the engines' records leave them. -/
theorem stages_regs {d d' : Dev} {e : Nat} (h : stages d d' e) : d'.regs = d.regs := (congrArg Dev.regs h.only :)
theorem stages_ec {d d' : Dev} {e : Nat} (h : stages d d' e) : d'.ec = d.ec := (congrArg Dev.ec h.only :)
theorem stages_launches {d d' : Dev} {e : Nat} (h : stages d d' e) : d'.launches = d.launches := (congrArg Dev.launches h.only :)

theorem engineFault_out (d : Dev) (e code detail flag : Nat) : (d.engineFault e code detail flag).bit (Reg.eng_STATUS e) 24 = true := by
  unfold engineFault
  exact retire_out ..

theorem retire_inService (d : Dev) {e : Nat} (exc : List Nat) (he : e < 64) :
    (d.retire e exc).bit (Reg.pool_IN_SERVICE_LO + 4 * (e / 32)) (e % 32) = false := by
  cases hctx : d.engCtx e with
  | none => rw [retire_of_idle hctx, endRetire_inService _ _ he]
  | some c =>
    cases hfound : d.replacement e with
    | none => rw [retire_of_alone hctx hfound, endRetire_inService _ _ he]
    | some r => rw [retire_of_replacement hctx hfound, endRetire_inService _ _ he]

theorem engineFault_inService (d : Dev) {e : Nat} (code detail flag : Nat) (he : e < 64) :
    (d.engineFault e code detail flag).bit (Reg.pool_IN_SERVICE_LO + 4 * (e / 32)) (e % 32) = false := by
  unfold engineFault
  exact retire_inService _ _ he

/-- The two words of the record at byte `off` have no mirror any more (R141, R142). -/
theorem stopMirror_stuck (d : Dev) (e c off w : Nat) (hhot : isHot w = true) (hw : w / 2 = (off - 0x20000) / 8) :
    w ∈ ((d.stopMirror e c off).engOf e).stuck.map (·.1) := by
  unfold stopMirror
  rw [engOf_updEng_same]
  dsimp only
  rw [List.map_append, List.mem_append]
  by_cases hin : w ∈ (d.engOf e).stuck.map (·.1)
  · exact .inl hin
  · right
    have hany : (d.engOf e).stuck.any (fun p => p.1 == w) = false := by
      rw [List.any_eq_false]
      intro p hp hpw
      exact hin (List.mem_map.mpr ⟨p, hp, beq_iff_eq.mp hpw⟩)
    have hpair : w ∈ [(off - 0x20000) / 8 * 2, (off - 0x20000) / 8 * 2 + 1] := by
      simp only [List.mem_cons, List.not_mem_nil, or_false]
      omega
    rw [List.map_map]
    refine List.mem_map.mpr ⟨w, List.mem_filter.mpr ⟨hpair, ?_⟩, rfl⟩
    rw [hhot, hany]
    rfl

/-! ## A context that has moved (R145) -/

/-- The context that moved to engine `e` is bound there. -/
def moveIn (d : Dev) (e c : Nat) : Dev :=
  let d := d.setCtxFld c 0 16 8 (d.ctxFld c 0 16 8 + 1)
  let d := d.setCtxW c 58 (d.ctxW c 58 + 1)
  let lines := d.stagedLines c
  let d := d.updEng e (fun x => { x with moving := none, asleep := false, lines := lines })
  (d.raise (Reg.eng_EVENTS e) 32).bump Reg.pool_MOVES

section moveIn
variable (d : Dev) (e c : Nat)

theorem moveIn_moving : ((d.moveIn e c).engOf e).moving = none := by
  unfold moveIn
  extract_lets d₁ d₂ lines d₃
  rw [engOf_congr ((bump_eng ..).trans (raise_eng ..)), engOf_updEng_same]
theorem moveIn_count : (d.moveIn e c).rdN Reg.pool_MOVES = min (2^32 - 1) (d.rdN Reg.pool_MOVES + 1) := by
  have hne : Reg.eng_EVENTS e ≠ Reg.pool_MOVES := by grind
  unfold moveIn
  extract_lets d₁ d₂ lines d₃
  have h₃ : d₃.rdN Reg.pool_MOVES = d.rdN Reg.pool_MOVES := rdN_congr ((updEng_regs ..).trans ((setCtxW_regs ..).trans (setCtxFld_regs ..))) _
  rw [rdN_bump_same, rdN_raise_ne _ _ hne, h₃]
theorem moveIn_launches : (d.moveIn e c).launches = d.launches := by
  unfold moveIn
  extract_lets d₁ d₂ lines d₃
  have h₃ : d₃.launches = d.launches := (updEng_launches ..).trans ((setCtxW_launches ..).trans (setCtxFld_launches ..))
  exact (bump_launches ..).trans ((raise_launches ..).trans h₃)
end moveIn

end Dev

/-- Settles O9: each piece of upkeep has its equation above; what `stages` says of a staging slot's copy holds whatever the bank's ports met. -/
theorem engineUpkeep : Obligations.EngineUpkeep := by
  intro s e d x
  refine ⟨fun c hctx hmiss => ?lineFetch, fun g hdone => ⟨fun hs => ?slot1, fun ht hs => ?slot0⟩, fun k => ?collide, fun k => ?corrected,
    fun k off hservice => ⟨fun hout => ?uncorrectable, fun hlo hhi => ?live⟩, fun hheld => ?apply, ?passed, fun hcfg hservice => ?failed,
    fun hcfg hservice => ⟨?window, fun hw a => ?patrolFail⟩, fun c o hmoving hctx => ?moved, fun hnew => ?microcode⟩
  case lineFetch =>
    obtain ⟨kept, hfetch⟩ := Dev.lineFetchD_of_missing hctx hmiss
    refine State.runs_of_onDev (exec_lineFetch e s) hfetch ⟨?_, rfl⟩
    rw [Dev.engOf_updEng_same]
    exact List.mem_append_right _ List.mem_cons_self
  case slot1 =>
    refine State.runs_of_onDev (exec_staging e _ s) ((Dev.stagingD_clean d e 1).trans (Dev.staged_s1 hs hdone)) ⟨⟨d.fullCopy g.ctx g.ver, ?_, Dev.fullCopy_spec ..⟩, ?_, rfl⟩
    · rw [Dev.engOf_updEng_same]
    · rw [Dev.engOf_updEng_same]
  case slot0 =>
    refine State.runs_of_onDev (exec_staging e _ s) ((Dev.stagingD_clean d e 0).trans (Dev.staged_s0 ht hs hdone)) ⟨⟨d.fullCopy g.ctx g.ver, ?_, Dev.fullCopy_spec ..⟩, ?_, rfl⟩
    · rw [Dev.engOf_updEng_same]
    · rw [Dev.engOf_updEng_same]
  case collide =>
    have hstages := Dev.staged_stages (d.collided e) e k
    refine State.runs_of_onDev (exec_staging e ⟨k, .clean, true⟩ s) (Dev.stagingD_collide d e k) ⟨?_, ?_, ?_⟩
    · exact (Dev.bit_congr (Dev.stages_regs hstages) ..).trans (Dev.collided_bit d e)
    · exact (Dev.rdN_congr (Dev.stages_regs hstages) ..).trans (Dev.collided_count d e)
    · exact Dev.collided_fired d e (Dev.inboxGrows_of_ec (Dev.stages_ec hstages))
  case corrected =>
    have hstages := Dev.staged_stages (d.bankCorrected e) e k
    refine State.runs_of_onDev (exec_staging e ⟨k, .corrected, false⟩ s) (Dev.stagingD_corrected d e k) ⟨?_, ?_, ?_⟩
    · exact (Dev.bit_congr (Dev.stages_regs hstages) ..).trans (Dev.bankCorrected_bit d e)
    · exact (Dev.rdN_congr (Dev.stages_regs hstages) ..).trans (Dev.bankCorrected_count d e)
    · exact (Dev.stages_launches hstages).trans ((Dev.bump_launches ..).trans (Dev.raise_launches ..))
  case uncorrectable =>
    have hlive : ¬ (0x20000 ≤ off.toNat ∧ off.toNat < 0x20400) := by omega
    have hfault : stagingD e ⟨k, .uncorrectable off, false⟩ d = d.engineFault e 0x21 off.toNat 0 :=
      (Dev.stagingD_uncorrectable d e k off).trans ((if_neg hlive).trans (if_neg (by rw [hservice]; exact Bool.false_ne_true)))
    exact State.runs_of_onDev (exec_staging e _ s) hfault (Dev.engineFault_out ..)
  case live =>
    cases hctx : d.engCtx e with
    | none =>
      have hstage : stagingD e ⟨k, .uncorrectable off, false⟩ d = d.staged e k := 
        (Dev.stagingD_uncorrectable d e k off).trans ((if_pos ⟨hlo, hhi⟩).trans (by rw [hctx]))
      exact State.runs_of_onDev (exec_staging e _ s) hstage ⟨(Dev.staged_stages d e k).only, fun c hc => absurd hc (by simp)⟩
    | some c =>
      have hstage : stagingD e ⟨k, .uncorrectable off, false⟩ d = (d.stopMirror e c off.toNat).staged e k := 
        (Dev.stagingD_uncorrectable d e k off).trans ((if_pos ⟨hlo, hhi⟩).trans (by rw [hctx]))
      have hstages := Dev.staged_stages (d.stopMirror e c off.toNat) e k
      refine State.runs_of_onDev (exec_staging e _ s) hstage ⟨hstages.only, fun c' hc w hhot hw => ?_⟩
      cases hc
      rw [hstages.stuck]
      exact Dev.stopMirror_stuck d e c off.toNat w hhot hw
  case apply =>
    have happly : swCfgApplyD e d = (d.settle (Reg.eng_SW_CFG e)).restage e := if_pos hheld
    refine State.runs_of_onDev (exec_swCfgApply e s) happly ⟨?_, ?_, rfl⟩
    · rw [Dev.held, Dev.restage, Dev.updEng_inforce]
      exact congrArg Option.isSome (SMap.get_set_same none d.inforce (Reg.eng_SW_CFG e) none)
    · rw [Dev.eff, Dev.restage, Dev.updEng_inforce, Dev.rd_of_regs (Dev.updEng_regs ..)]
      exact congrArg (fun o : Option Word => o.getD (d.rd (Reg.eng_SW_CFG e))) (SMap.get_set_same none d.inforce (Reg.eng_SW_CFG e) none)
  case passed => exact State.runs_of_onDev (exec_selfTest e true s) (if_pos (.inl rfl)) rfl
  case failed =>
    have hgo : ¬ (false = true ∨ (!d.bit (Reg.eng_CFG e) 2) = true ∨ d.bit (Reg.eng_STATUS e) 24 = true) := by
      rw [hcfg, hservice]
      decide
    exact State.runs_of_onDev (exec_selfTest e false s) (if_neg hgo) ⟨Dev.engineFault_out .., Dev.engineFault_inService _ _ _ _ e.isLt⟩
  case window =>
    have hgo : ¬ ((!d.bit (Reg.eng_CFG e) 1) = true ∨ d.bit (Reg.eng_STATUS e) 24 = true) := by
      rw [hcfg, hservice]
      decide
    refine State.runs_of_onDev (exec_patrol e none false s) ((if_neg hgo).trans ?_) rfl
    exact (ite_self _)
  case patrolFail =>
    have hgo : ¬ ((!d.bit (Reg.eng_CFG e) 1) = true ∨ d.bit (Reg.eng_STATUS e) 24 = true) := by
      rw [hcfg, hservice]
      decide
    have hlive : ¬ (d.fld (Reg.eng_PATROL e) 16 7 == 64 && d.bit (Reg.eng_STATUS e) 14) = true := by simp [hw]
    exact State.runs_of_onDev (exec_patrol e (some a) false s) ((if_neg hgo).trans ((if_neg hlive).trans (if_neg Bool.false_ne_true)))
      (Dev.engineFault_out ..)
  case moved =>
    have hmove : engMovedD e d = Dev.moveIn d e c := by
      unfold engMovedD
      rw [hmoving, hctx]
      rfl
    exact State.runs_of_onDev (exec_engMoved e s) hmove ⟨Dev.moveIn_moving .., Dev.moveIn_count .., Dev.moveIn_launches ..⟩
  case microcode =>
    refine State.runs_of_onDev (exec_microcodeChange e s) (if_pos hnew) ⟨?_, ?_⟩
    · rw [Dev.bit_congr (Dev.updEng_regs ..), Dev.bit_setBit_same _ _ _ _ (by decide)]
    · rw [Dev.engOf_updEng_same]

end Sys2Proof.Machine

/-! PROOFS. What playing does to the channels: every step changes one channel's record and no pending launch; settling the claims changes claims
alone. -/
namespace Sys2Proof.Machine

namespace SMap
variable {α : Type}

theorem get_of_not_mem {d : α} {m : SMap α} {k : Nat} (h : ∀ p ∈ m, p.1 ≠ k) : get d m k = d := by
  induction m with
  | nil => rfl
  | cons p r ih => rw [get_cons, if_neg (h p List.mem_cons_self), ih fun q hq => h q (List.mem_cons_of_mem _ hq)]

/-- Removing what an unlisted key reads as changes no reading of a canonical map. -/
theorem get_filter_ne [DecidableEq α] (d : α) (m : SMap α) (k : Nat) (h : sorted m = true) :
    get d (m.filter (fun p => decide (p.2 ≠ d))) k = get d m k := by
  induction m with
  | nil => rfl
  | cons p r ih =>
    obtain ⟨hlt, hr⟩ := (sorted_cons p r).mp h
    rw [get_cons]
    by_cases hk : p.1 = k
    · rw [if_pos hk]
      by_cases hv : p.2 = d
      · rw [List.filter_cons_of_neg (by simpa using hv), ih hr, hv]
        exact get_of_not_mem fun q hq => by have := hlt q hq; omega
      · rw [List.filter_cons_of_pos (by simpa using hv), get_cons, if_pos hk]
    · rw [if_neg hk]
      by_cases hv : p.2 = d
      · rw [List.filter_cons_of_neg (by simpa using hv), ih hr]
      · rw [List.filter_cons_of_pos (by simpa using hv), get_cons, if_neg hk, ih hr]

/-- Changing the values of a map changes a reading, or leaves it where the key is unlisted. -/
theorem get_map_cases (d : α) (m : SMap α) (k : Nat) (f : Nat → α → α) :
    get d (m.map (fun p => (p.1, f p.1 p.2))) k = f k (get d m k) ∨ get d (m.map (fun p => (p.1, f p.1 p.2))) k = get d m k := by
  induction m with
  | nil => exact .inr rfl
  | cons p r ih =>
    rw [List.map_cons, get_cons, get_cons]
    by_cases hk : p.1 = k
    · rw [if_pos hk, if_pos hk]
      exact .inl (by rw [hk])
    · rw [if_neg hk, if_neg hk]
      exact ih

end SMap

namespace Dev

/-! ## Claims settled -/

theorem giveUpRing_chan (d : Dev) (n : Nat) : (d.giveUpRing n).chan = d.chan :=
  iteInduction (motive := fun x : Dev => x.chan = d.chan) (fun _ => setFld_chan ..) fun _ => rfl

/-- The channels whose claims end. -/
def endedClaims (d : Dev) : List Nat :=
  d.chan.filterMap (fun p => match p.2.claim with
    | some c => if d.holdsClaim p.1 c then none else some p.1
    | none => none)

theorem settleClaims_chan (d : Dev) : d.settleClaims.chan =
    (d.chan.map (fun p => (p.1, if d.endedClaims.contains p.1 then { p.2 with claim := none } else p.2))).filter (fun p => decide (p.2 ≠ {})) := by
  have hmap : (d.chan.map (fun p => if d.endedClaims.contains p.1 then (p.1, { p.2 with claim := none }) else p)) =
      d.chan.map (fun p => (p.1, if d.endedClaims.contains p.1 then { p.2 with claim := none } else p.2)) := by
    refine List.map_congr_left fun p _ => ?_
    split <;> rfl
  rw [← hmap]
  unfold settleClaims
  refine iteInduction (motive := fun x : Dev => x.chan = _) (fun _ => rfl) fun _ => ?_
  refine (foldl_keeps Dev.chan (List.range 32) _ ?_ _).trans ?_
  · intro d k
    exact iteInduction (motive := fun x : Dev => x.chan = d.chan) (fun _ => settle_chan ..) fun _ => rfl
  · exact foldl_keeps Dev.chan _ _ (fun d n => giveUpRing_chan d n) _

/-- A channel keeps everything but its claim. -/
theorem settleClaims_chanOf {d : Dev} (hwf : d.chanWf) (n : Nat) :
    d.settleClaims.chanOf n = d.chanOf n ∨ d.settleClaims.chanOf n = { d.chanOf n with claim := none } := by
  obtain ⟨hsorted, _⟩ := (SMap.wf_iff _ _).mp hwf
  have hget := SMap.get_map_cases ({} : Chan) d.chan n (fun k v => if d.endedClaims.contains k then { v with claim := none } else v)
  rw [chanOf, settleClaims_chan, SMap.get_filter_ne _ _ _ (SMap.sorted_map (fun k v => if d.endedClaims.contains k then { v with claim := none } else v) _ hsorted)]
  rcases hget with h | h
  · rw [h]
    split
    · exact .inr rfl
    · exact .inl rfl
  · exact .inl h

theorem settleClaims_cur {d : Dev} (hwf : d.chanWf) (n : Nat) : (d.settleClaims.chanOf n).cur = (d.chanOf n).cur := by
  rcases settleClaims_chanOf hwf n with h | h <;> rw [h]
theorem settleClaims_prev {d : Dev} (hwf : d.chanWf) (n : Nat) : (d.settleClaims.chanOf n).prev = (d.chanOf n).prev := by
  rcases settleClaims_chanOf hwf n with h | h <;> rw [h]
theorem settleClaims_frActs {d : Dev} (hwf : d.chanWf) (n : Nat) : (d.settleClaims.chanOf n).frActs = (d.chanOf n).frActs := by
  rcases settleClaims_chanOf hwf n with h | h <;> rw [h]
theorem settleClaims_mkA {d : Dev} (hwf : d.chanWf) (n : Nat) : (d.settleClaims.chanOf n).mkA = (d.chanOf n).mkA := by
  rcases settleClaims_chanOf hwf n with h | h <;> rw [h]
theorem settleClaims_mkB {d : Dev} (hwf : d.chanWf) (n : Nat) : (d.settleClaims.chanOf n).mkB = (d.chanOf n).mkB := by
  rcases settleClaims_chanOf hwf n with h | h <;> rw [h]

/-! ## Steps of one channel -/

/-- From `d` to `d'` no record of another channel than `ch` changed, no pending launch, and no firing was lost. -/
structure chanStep (ch : Nat) (d d' : Dev) : Prop where
  other : ∀ n, ch ≠ n → d'.chanOf n = d.chanOf n
  launches : d'.launches = d.launches
  wf : d.chanWf → d'.chanWf
  inbox : inboxGrows d d'

section chanStep
variable {ch : Nat} {d d' d'' : Dev}

theorem chanStep_refl (d : Dev) : chanStep ch d d := ⟨fun _ _ => rfl, rfl, id, inboxGrows_refl d⟩
theorem chanStep_trans (h : chanStep ch d d') (h' : chanStep ch d' d'') : chanStep ch d d'' :=
  ⟨fun n hn => (h'.other n hn).trans (h.other n hn), h'.launches.trans h.launches, h'.wf ∘ h.wf, inboxGrows_trans h.inbox h'.inbox⟩
theorem chanStep_ite {p : Prop} [Decidable p] (h : chanStep ch d d') (h' : chanStep ch d d'') : chanStep ch d (if p then d' else d'') :=
  iteInduction (motive := fun x => chanStep ch d x) (fun _ => h) fun _ => h'
theorem chanStep_of_same (hchan : d'.chan = d.chan) (hlaunches : d'.launches = d.launches) (hinbox : inboxGrows d d') : chanStep ch d d' :=
  ⟨fun n _ => by rw [chanOf, chanOf, hchan], hlaunches, fun h => by rw [chanWf, hchan]; exact h, hinbox⟩
theorem chanStep_updChan (d : Dev) (f : Chan → Chan) : chanStep ch d (d.updChan ch f) :=
  ⟨fun _ hn => chanOf_updChan_ne d f hn, updChan_launches .., fun h => SMap.wf_upd _ _ _ _ h, inboxGrows_of_ec (updChan_ec ..)⟩
theorem chanStep_fire (d : Dev) (src stamp gen : Nat) : chanStep ch d (d.fire src stamp gen) :=
  chanStep_of_same (chan_of_base (base_fire ..)) (launches_of_base (base_fire ..)) (inboxGrows_fire ..)
theorem chanStep_raise (d : Dev) (a m : Nat) : chanStep ch d (d.raise a m) :=
  chanStep_of_same (raise_chan ..) (raise_launches ..) (inboxGrows_of_ec (raise_ec ..))
theorem chanStep_settle (d : Dev) (a : Nat) : chanStep ch d (d.settle a) :=
  chanStep_of_same (settle_chan ..) (settle_launches ..) (inboxGrows_of_ec (settle_ec ..))

/-- Buffered values that apply at a segment boundary (R202). -/
theorem chanStep_boundary (d : Dev) (t : Nat) : chanStep ch d (d.boundary ch t) := by
  unfold boundary
  extract_lets old d₁ idle d₂
  have h₁ : chanStep ch d d₁ := chanStep_ite (chanStep_updChan ..) (chanStep_refl d)
  have h₂ : chanStep ch d₁ d₂ := chanStep_ite (chanStep_updChan ..) (chanStep_refl d₁)
  exact chanStep_trans (chanStep_trans h₁ h₂) (chanStep_trans (chanStep_trans (chanStep_settle ..) (chanStep_settle ..))
    (chanStep_trans (chanStep_settle ..) (chanStep_settle ..)))

theorem chanStep_finish (d : Dev) : chanStep ch d (d.finish ch) := by
  unfold finish
  split
  · exact chanStep_refl d
  · exact chanStep_trans (chanStep_trans (chanStep_trans (chanStep_updChan ..) (chanStep_updChan ..)) (chanStep_boundary ..)) (chanStep_fire ..)

theorem chanStep_underrunAt (d : Dev) (p : Play) (t : Nat) (miss : Bool) : chanStep ch d (d.underrunAt ch p t miss) := by
  unfold underrunAt
  extract_lets a d₁ d₂ got d₃
  have h₁ : chanStep ch d d₁ := chanStep_ite (chanStep_refl d) (chanStep_of_same (wr64_chan ..) (wr64_launches ..) (inboxGrows_of_ec (wr64_ec ..)))
  have h₂ : chanStep ch d₁ d₂ := chanStep_trans (chanStep_raise ..)
    (chanStep_of_same (addSat_chan ..) (addSat_launches ..) (inboxGrows_of_ec (addSat_ec ..)))
  have h₃ : chanStep ch d₂ d₃ := chanStep_trans (chanStep_updChan ..) (chanStep_updChan ..)
  exact chanStep_trans (chanStep_trans h₁ h₂) (chanStep_trans h₃ (chanStep_fire ..))

end chanStep
end Dev
end Sys2Proof.Machine

/-! PROOFS. Launches that act at their time (R26, R93, R108, R110 to R113). -/
namespace Sys2Proof.Machine

theorem exec_launch (c : Fin 10240) (s : State) : exec (.launch c) s = s.onDev (launchD c) := rfl

namespace Dev

theorem updChan_chanOf (d : Dev) (n : Nat) (f : Chan → Chan) : (d.updChan n f).chanOf n = f (d.chanOf n) := SMap.get_upd_same ..
theorem chanOf_of_chan {d d' : Dev} (h : d'.chan = d.chan) (n : Nat) : d'.chanOf n = d.chanOf n := by rw [chanOf, chanOf, h]

/-- A firing reaches each listener with its stamp and its generation. -/
theorem fire_inbox (d : Dev) {src gen n : Nat} (stamp : Nat) (hgen : gen < 8) (hn : n ∈ d.listeners src) :
    ∃ x ∈ ((d.fire src stamp gen).ecOf n).inbox, x.fire.stamp = stamp ∧ x.fire.gen = gen := by
  obtain ⟨x, hx, hfire⟩ := arrive_inbox d ⟨src, stamp, gen, !d.timeValid, false⟩ hn
  refine ⟨x, ?_, by rw [hfire], by rw [hfire]⟩
  rw [fire, fireAs, if_pos hgen]
  exact hx

/-- What a segment boundary leaves of a channel's record: all but the values that it shows for the last samples. -/
theorem boundary_keeps {β : Type} (q : Chan → β) (htrims : ∀ c x, q { c with trims := x } = q c) (hidles : ∀ c x, q { c with idles := x } = q c)
    (d : Dev) (ch t : Nat) : q ((d.boundary ch t).chanOf ch) = q (d.chanOf ch) := by
  unfold boundary
  extract_lets old d₁ idle d₂
  have h₁ : q (d₁.chanOf ch) = q (d.chanOf ch) := iteInduction (motive := fun x : Dev => q (x.chanOf ch) = q (d.chanOf ch))
    (fun _ => (congrArg q (updChan_chanOf ..)).trans (htrims ..)) fun _ => rfl
  have h₂ : q (d₂.chanOf ch) = q (d₁.chanOf ch) := iteInduction (motive := fun x : Dev => q (x.chanOf ch) = q (d₁.chanOf ch))
    (fun _ => (congrArg q (updChan_chanOf ..)).trans (hidles ..)) fun _ => rfl
  exact h₂.trans h₁

theorem fire_chanOf (d : Dev) (src stamp gen n : Nat) : (d.fire src stamp gen).chanOf n = d.chanOf n := chanOf_of_chan (chan_of_base (base_fire ..)) n

/-- An underrun marks what its channel plays, and leaves it playing. -/
theorem underrunAt_cur (d : Dev) (ch : Nat) (p : Play) (t : Nat) (miss : Bool) :
    ∃ got, ((d.underrunAt ch p t miss).chanOf ch).cur = (d.chanOf ch).cur.map (fun q => { q with undr := some t, got := got }) := by
  unfold underrunAt
  extract_lets a d₁ d₂ got d₃
  have h₁ : d₁.chan = d.chan := iteInduction (motive := fun x : Dev => x.chan = d.chan) (fun _ => rfl) fun _ => wr64_chan ..
  have h₂ : d₂.chan = d₁.chan := (addSat_chan ..).trans (raise_chan ..)
  refine ⟨got, ?_⟩
  have hdrop : (d₂.dropStream ch p.ctx p.lsn).chanOf ch = { d₂.chanOf ch with
    streams := (d₂.chanOf ch).streams.filter (fun s => !(s.ctx == p.ctx && s.lsn == p.lsn)) } := updChan_chanOf ..
  rw [fire_chanOf, show d₃ = (d₂.dropStream ch p.ctx p.lsn).updChan ch _ from rfl, updChan_chanOf, hdrop, chanOf_of_chan (h₂.trans h₁)]

/-- A play keeps its identity and its start. -/
def samePlay (p : Play) (o : Option Play) : Prop := ∃ q, o = some q ∧ q.ctx = p.ctx ∧ q.lsn = p.lsn ∧ q.start = p.start

theorem samePlay_underrunAt {d : Dev} {ch t : Nat} {p q : Play} {miss : Bool} (h : samePlay p (d.chanOf ch).cur) :
    samePlay p ((d.underrunAt ch q t miss).chanOf ch).cur := by
  obtain ⟨x, hx, hctx, hlsn, hstart⟩ := h
  obtain ⟨got, hcur⟩ := underrunAt_cur d ch q t miss
  refine ⟨{ x with undr := some t, got := got }, ?_, hctx, hlsn, hstart⟩
  rw [hcur, hx, Option.map_some]

section startPlay
variable (d : Dev) (ch t : Nat) (p : Play)

theorem chanStep_startPlay : chanStep ch d (d.startPlay ch t p) := by
  unfold startPlay
  extract_lets d₁ seamless d₂ a units d₃ start d₄ d₅ mask d₆
  have h₁ : chanStep ch d d₁ := chanStep_finish d
  have h₂ : chanStep ch d₁ d₂ := chanStep_boundary ..
  have h₃ : chanStep ch d₂ d₃ := chanStep_ite (chanStep_settle ..) (chanStep_refl d₂)
  have h₄ : chanStep ch d₃ d₄ := chanStep_updChan ..
  have h₅ : chanStep ch d₄ d₅ := chanStep_fire ..
  have h₆ : chanStep ch d₅ d₆ := chanStep_ite (chanStep_raise ..) (chanStep_refl d₅)
  refine chanStep_trans (chanStep_trans (chanStep_trans h₁ h₂) (chanStep_trans h₃ h₄)) (chanStep_trans (chanStep_trans h₅ h₆) ?_)
  exact chanStep_ite (chanStep_underrunAt ..) (chanStep_refl d₆)

theorem startPlay_cur : samePlay p ((d.startPlay ch t p).chanOf ch).cur := by
  unfold startPlay
  extract_lets d₁ seamless d₂ a units d₃ start d₄ d₅ mask d₆
  have h₄ : samePlay p (d₄.chanOf ch).cur := ⟨_, congrArg Chan.cur (updChan_chanOf ..), rfl, rfl, rfl⟩
  have h₅ : d₅.chanOf ch = d₄.chanOf ch := fire_chanOf ..
  have h₆ : d₆.chanOf ch = d₅.chanOf ch := iteInduction (motive := fun x : Dev => x.chanOf ch = d₅.chanOf ch) (fun _ => chanOf_of_chan (raise_chan ..) ch) fun _ => rfl
  rw [← h₅, ← h₆] at h₄
  exact iteInduction (motive := fun x : Dev => samePlay p (x.chanOf ch).cur) (fun _ => samePlay_underrunAt h₄) fun _ => h₄
end startPlay

/-! ## A launch on every channel of its set -/

/-- Steps of several channels, each once: what a step makes of its channel's record stays. -/
theorem foldl_chanSteps {α : Type} (l : List α) (chOf : α → Nat) (f : Dev → α → Dev) (hstep : ∀ d x, chanStep (chOf x) d (f d x))
    (hnodup : (l.map chOf).Nodup) (d : Dev) :
    (l.foldl f d).launches = d.launches ∧ (d.chanWf → (l.foldl f d).chanWf) ∧ (∀ n, n ∉ l.map chOf → (l.foldl f d).chanOf n = d.chanOf n) ∧
      ∀ x ∈ l, ∃ d₁, d₁.chanOf (chOf x) = d.chanOf (chOf x) ∧ (l.foldl f d).chanOf (chOf x) = (f d₁ x).chanOf (chOf x) := by
  induction l generalizing d with
  | nil => exact ⟨rfl, id, fun _ _ => rfl, fun x hx => by cases hx⟩
  | cons y r ih =>
    rw [List.map_cons, List.nodup_cons] at hnodup
    obtain ⟨hlaunches, hwf, hother, heach⟩ := ih hnodup.2 (f d y)
    have hy := hstep d y
    refine ⟨hlaunches.trans hy.launches, fun h => hwf (hy.wf h), fun n hn => ?_, fun x hx => ?_⟩
    · rw [List.map_cons, List.mem_cons, not_or] at hn
      exact (hother n hn.2).trans (hy.other n (Ne.symm hn.1))
    · rcases List.mem_cons.mp hx with rfl | hx
      · exact ⟨d, rfl, hother _ hnodup.1⟩
      · obtain ⟨d₁, hd₁, hlast⟩ := heach x hx
        have hne : chOf y ≠ chOf x := fun h => hnodup.1 (h ▸ List.mem_map_of_mem hx)
        exact ⟨d₁, hd₁.trans (hy.other _ hne), hlast⟩

/-- The kind of a launch acts. -/
def performKind (d : Dev) (l : Launch) : Dev :=
  match l.kind with
  | .play .. | .gap _ => (l.chans.zipIdx).foldl (fun (d : Dev) (p : Nat × Nat) => match playOf l p.2 with
      | some q => d.startPlay p.1 l.teff q
      | none => d) d
  | .frame fact f v => l.chans.foldl (fun (d : Dev) (n : Nat) => d.updChan n (fun (c : Chan) => { c with frActs := c.frActs ++ [(⟨0, fact, f, v, 0, l.treq, l.teff, true, l.arr⟩ : FrAct)] })) d
  | .event u => d.fire (576 + 4 * l.src + u) l.teff l.gen
  | _ => d

theorem perform_eq (d : Dev) (l : Launch) : d.perform l = ((({ d with launches := d.launches.erase l } : Dev).performKind l).setPend l.ctx).settleClaims := rfl

theorem setPend_chan (d : Dev) (c : Nat) : (d.setPend c).chan = d.chan := setCtxW_chan ..
theorem setPend_launches (d : Dev) (c : Nat) : (d.setPend c).launches = d.launches := setCtxW_launches ..
theorem setPend_ec (d : Dev) (c : Nat) : (d.setPend c).ec = d.ec := setCtxW_ec ..
theorem setPend_chanOf (d : Dev) (c n : Nat) : (d.setPend c).chanOf n = d.chanOf n := chanOf_of_chan (setPend_chan ..) n
theorem setPend_chanWf {d : Dev} (c : Nat) (h : d.chanWf) : (d.setPend c).chanWf := by
  rw [chanWf, setPend_chan]
  exact h

/-- A launch of a PLAY or GAP plays on each channel. -/
theorem playOf_of_span {l : Launch} (h : l.kind.isSpan = true) (j : Nat) :
    ∃ q, playOf l j = some q ∧ q.ctx = l.ctx ∧ q.lsn = l.lsn ∧ q.start = l.teff := by
  unfold playOf
  unfold LKind.isSpan at h
  cases hkind : l.kind with
  | play => exact ⟨_, rfl, rfl, rfl, rfl⟩
  | gap => exact ⟨_, rfl, rfl, rfl, rfl⟩
  | frame => rw [hkind] at h; cases h
  | mark => rw [hkind] at h; cases h
  | event => rw [hkind] at h; cases h
  | switch => rw [hkind] at h; cases h

/-- A PLAY or GAP starts on a channel of its set. -/
def startSpan (l : Launch) (d : Dev) (p : Nat × Nat) : Dev :=
  match playOf l p.2 with
  | some q => d.startPlay p.1 l.teff q
  | none => d

theorem performKind_of_span {l : Launch} (h : l.kind.isSpan = true) (d : Dev) : d.performKind l = l.chans.zipIdx.foldl (startSpan l) d := by
  unfold performKind
  unfold LKind.isSpan at h
  cases hkind : l.kind with
  | play => rfl
  | gap => rfl
  | frame => rw [hkind] at h; cases h
  | mark => rw [hkind] at h; cases h
  | event => rw [hkind] at h; cases h
  | switch => rw [hkind] at h; cases h

theorem chanStep_startSpan (l : Launch) (d : Dev) (p : Nat × Nat) : chanStep p.1 d (startSpan l d p) := by
  unfold startSpan
  split
  · exact chanStep_startPlay ..
  · exact chanStep_refl d

theorem startSpan_cur {l : Launch} (h : l.kind.isSpan = true) (d : Dev) (p : Nat × Nat) :
    ∃ q, ((startSpan l d p).chanOf p.1).cur = some q ∧ q.ctx = l.ctx ∧ q.lsn = l.lsn ∧ q.start = l.teff := by
  obtain ⟨q, hq, hctx, hlsn, hstart⟩ := playOf_of_span h p.2
  obtain ⟨x, hx, hxctx, hxlsn, hxstart⟩ := startPlay_cur d p.1 l.teff q
  refine ⟨x, ?_, hxctx.trans hctx, hxlsn.trans hlsn, hxstart.trans hstart⟩
  unfold startSpan
  rw [hq]
  exact hx

/-- A frame action reaches a channel of a launch's set. -/
def frameTo (fact f v : Nat) (l : Launch) (d : Dev) (n : Nat) : Dev :=
  d.updChan n (fun (c : Chan) => { c with frActs := c.frActs ++ [⟨0, fact, f, v, 0, l.treq, l.teff, true, l.arr⟩] })

/-- What the kind of a launch leaves: the launches, a canonical map, and every firing. -/
theorem performKind_keeps {l : Launch} (hnodup : l.chans.Nodup) (d : Dev) :
    (d.performKind l).launches = d.launches ∧ (d.chanWf → (d.performKind l).chanWf) := by
  have hmap : l.chans.zipIdx.map (·.1) = l.chans := List.zipIdx_map_fst ..
  cases hkind : l.kind with
  | play | gap =>
    have hspan : l.kind.isSpan = true := by rw [hkind]; rfl
    rw [performKind_of_span hspan]
    obtain ⟨hlaunches, hwf, _⟩ := foldl_chanSteps l.chans.zipIdx (·.1) (startSpan l) (chanStep_startSpan l) (by rw [hmap]; exact hnodup) d
    exact ⟨hlaunches, hwf⟩
  | frame fact f v =>
    have heq : d.performKind l = l.chans.foldl (frameTo fact f v l) d := by
      unfold performKind
      rw [hkind]
      rfl
    obtain ⟨hlaunches, hwf, _⟩ := foldl_chanSteps l.chans id (frameTo fact f v l) (fun d n => chanStep_updChan d _) (by rw [List.map_id]; exact hnodup) d
    rw [heq]
    exact ⟨hlaunches, hwf⟩
  | event u =>
    have heq : d.performKind l = d.fire (576 + 4 * l.src + u) l.teff l.gen := by
      unfold performKind
      rw [hkind]
    have hstep := chanStep_fire (ch := 0) d (576 + 4 * l.src + u) l.teff l.gen
    rw [heq]
    exact ⟨hstep.launches, hstep.wf⟩
  | mark | switch =>
    have heq : d.performKind l = d := by
      unfold performKind
      rw [hkind]
    rw [heq]
    exact ⟨rfl, id⟩

end Dev

/-- Settles O11: the kind's own action, of which settling the claims leaves all but the claims. -/
theorem launchesActAtTheirTime : Obligations.LaunchesActAtTheirTime := by
  intro s c l d hwf htime hnodup hfirst
  have hlaunch : launchD c d = d.perform l := by
    unfold launchD
    rw [htime, hfirst]
    rfl
  let d₁ : Dev := { d with launches := d.launches.erase l }
  let d₂ := d₁.performKind l
  have hmap : l.chans.zipIdx.map (·.1) = l.chans := List.zipIdx_map_fst ..
  obtain ⟨hlaunches, hkeepWf⟩ := Dev.performKind_keeps hnodup d₁
  have hwf₂ : (d₂.setPend l.ctx).chanWf := Dev.setPend_chanWf _ (hkeepWf hwf)
  refine State.runs_of_onDev (exec_launch c s) (hlaunch.trans (Dev.perform_eq d l)) ⟨?_, fun hspan n hn => ?_, fun fact f v hkind n hn => ?_,
    fun u hkind hgen n hn => ?_⟩
  · exact (Dev.settleClaims_launches (d₂.setPend l.ctx)).trans ((Dev.setPend_launches d₂ l.ctx).trans hlaunches)
  · rw [Dev.settleClaims_cur hwf₂, Dev.setPend_chanOf]
    obtain ⟨j, hj⟩ := List.mem_iff_getElem?.mp hn
    have hmem : (n, j) ∈ l.chans.zipIdx := List.mem_zipIdx_iff_getElem?.mpr hj
    obtain ⟨_, _, _, heach⟩ := Dev.foldl_chanSteps l.chans.zipIdx (·.1) (Dev.startSpan l) (Dev.chanStep_startSpan l) (by rw [hmap]; exact hnodup) d₁
    obtain ⟨d', _, hlast⟩ := heach (n, j) hmem
    have hplay := Dev.startSpan_cur hspan d' (n, j)
    rw [← hlast] at hplay
    rw [show d₂ = _ from Dev.performKind_of_span hspan d₁]
    exact hplay
  · rw [Dev.settleClaims_frActs hwf₂, Dev.setPend_chanOf]
    have heq : d₂ = l.chans.foldl (Dev.frameTo fact f v l) d₁ := by
      change d₁.performKind l = _
      unfold Dev.performKind
      rw [hkind]
      rfl
    obtain ⟨_, _, _, heach⟩ := Dev.foldl_chanSteps l.chans id (Dev.frameTo fact f v l) (fun d n => Dev.chanStep_updChan d _)
      (by rw [List.map_id]; exact hnodup) d₁
    obtain ⟨d', hd', hlast⟩ := heach n hn
    rw [heq]
    refine (congrArg Chan.frActs hlast).trans ((congrArg Chan.frActs (Dev.updChan_chanOf ..)).trans ?_)
    exact congrArg (fun x : Chan => x.frActs ++ _) hd'
  · have heq : d₂ = d₁.fire (576 + 4 * l.src + u) l.teff l.gen := by
      change d₁.performKind l = _
      unfold Dev.performKind
      rw [hkind]
    have hsame : Dev.sameListeners d d₁ := Dev.sameListeners_of_fields rfl rfl rfl
    rw [← Dev.listeners_of_same hsame] at hn
    obtain ⟨x, hx, hstamp, hxgen⟩ := Dev.fire_inbox d₁ l.teff hgen hn
    refine ⟨x, ?_, hstamp, hxgen⟩
    have hec : (d₂.setPend l.ctx).settleClaims.ec = d₂.ec := (Dev.settleClaims_ec ..).trans (Dev.setPend_ec ..)
    change x ∈ (SMap.get {} (d₂.setPend l.ctx).settleClaims.ec n).inbox
    rw [hec, heq]
    exact hx

end Sys2Proof.Machine

/-! PROOFS. Playout (R66, R70 to R73, R108, R109, R183): passes, ends, marker edges, underruns and ring fills. -/
namespace Sys2Proof.Machine

theorem exec_passStart (ch : Fin 96) (s : State) : exec (.passStart ch) s = s.onDev (passStartD ch) := rfl
theorem exec_segEnd (ch : Fin 96) (s : State) : exec (.segEnd ch) s = s.onDev (segEndD ch) := rfl
theorem exec_markerEdge (ch : Fin 96) (b : Fin 2) (s : State) : exec (.markerEdge ch b) s = s.onDev (markerEdgeD ch b) := rfl
theorem exec_underrun (t : Fin 6) (k : Fin 16) (b : Bool) (s : State) : exec (.underrun t k b) s = s.onDev (underrunD t k b) := rfl
theorem exec_ringFill (b : FillBurst) (s : State) : exec (.ringFill b) s = s.onDev (ringFillD b.ch b.ns) := rfl

namespace Dev

/-! ## Passes and ends (R108, R208) -/

theorem passStartD_of_due {d : Dev} {ch : Fin 96} {p : Play} (hcur : (d.chanOf ch).cur = some p) (hmore : p.pass + 1 < p.passes)
    (hdue : d.due (p.start + (p.pass + 1) * p.dur) = true) (htime : d.timeValid = true) :
    ((passStartD ch d).chanOf ch).cur = some { p with pass := p.pass + 1 } ∧ (passStartD ch d).launches = d.launches := by
  have hgo : ¬ (p.passes ≤ p.pass + 1 ∨ (!d.due (p.start + (p.pass + 1) * p.dur)) = true ∨ (!d.timeValid) = true) := by
    rw [hdue, htime]
    simpa using hmore
  unfold passStartD
  rw [hcur]
  dsimp only
  rw [if_neg hgo]
  have hstep := chanStep_trans (chanStep_boundary (ch := ch) d (p.start + (p.pass + 1) * p.dur))
    (chanStep_updChan _ (fun c => { c with cur := some { p with pass := p.pass + 1 } }))
  refine iteInduction (motive := fun x : Dev => (x.chanOf ch).cur = _ ∧ x.launches = d.launches) (fun _ => ⟨?_, hstep.launches⟩)
    fun _ => ⟨?_, (raise_launches ..).trans hstep.launches⟩
  · exact congrArg Chan.cur (updChan_chanOf ..)
  · exact (congrArg Chan.cur (chanOf_of_chan (raise_chan ..) _)).trans (congrArg Chan.cur (updChan_chanOf ..))

/-- The channel's record once what it played has ended. -/
theorem finish_chanOf {d : Dev} {ch : Nat} {p : Play} (hcur : (d.chanOf ch).cur = some p) :
    ((d.finish ch).chanOf ch).cur = none ∧ ((d.finish ch).chanOf ch).prev.head? = some p := by
  unfold finish
  rw [hcur]
  dsimp only
  rw [fire_chanOf, boundary_keeps Chan.cur (fun _ _ => rfl) (fun _ _ => rfl), boundary_keeps Chan.prev (fun _ _ => rfl) (fun _ _ => rfl), updChan_chanOf]
  exact ⟨rfl, rfl⟩

theorem segEndD_of_due {d : Dev} {ch : Fin 96} {p : Play} (hcur : (d.chanOf ch).cur = some p) (hdue : d.due p.stop = true)
    (htime : d.timeValid = true) : segEndD ch d = (d.finish ch).settleClaims := by
  have hgo : ¬ ((!d.due p.stop) = true ∨ (!d.timeValid) = true) := by
    rw [hdue, htime]
    decide
  unfold segEndD
  rw [hcur]
  exact if_neg hgo

/-! ## Marker edges (R109) -/

/-- A marker's edges at `t` leave, and the last of them sets its level. -/
def markEdge (d : Dev) (ch b t : Nat) (level : Bool) : Dev :=
  ({ d with edges := d.edges.filter (fun x => !(x.ch == ch && x.mark == b && x.time == t)) } : Dev).updChan ch
    (fun c => if b = 0 then { c with mkA := level } else { c with mkB := level })

theorem markEdge_level (d : Dev) (ch t : Nat) (b : Fin 2) (level : Bool) :
    (if b = 0 then ((d.markEdge ch b t level).chanOf ch).mkA else ((d.markEdge ch b t level).chanOf ch).mkB) = level := by
  unfold markEdge
  rw [updChan_chanOf]
  match b with
  | 0 => rfl
  | 1 => rfl

theorem markEdge_chanWf {d : Dev} (h : d.chanWf) (ch b t : Nat) (level : Bool) : (d.markEdge ch b t level).chanWf :=
  SMap.wf_upd {} d.chan ch (fun c => if b = 0 then { c with mkA := level } else { c with mkB := level }) h

theorem foldl_min_of_le {l : List Edge} {x : Edge} {m : Nat} (hx : x ∈ l) (hle : ∀ y ∈ l, x.time ≤ y.time) (hm : x.time ≤ m) :
    l.foldl (fun m e => min m e.time) m = x.time := by
  have hlow : ∀ (l : List Edge) m, x.time ≤ m → (∀ y ∈ l, x.time ≤ y.time) → x.time ≤ l.foldl (fun m e => min m e.time) m := by
    intro l
    induction l with
    | nil => exact fun m hm _ => hm
    | cons y r ih => exact fun m hm h => ih _ (le_min hm (h y List.mem_cons_self)) fun z hz => h z (List.mem_cons_of_mem _ hz)
  have hhigh : ∀ (l : List Edge) m, l.foldl (fun m e => min m e.time) m ≤ m := by
    intro l
    induction l with
    | nil => exact fun m => le_refl m
    | cons y r ih => exact fun m => (ih _).trans (min_le_left ..)
  have hreach : ∀ (l : List Edge) m, x ∈ l → l.foldl (fun m e => min m e.time) m ≤ x.time := by
    intro l
    induction l with
    | nil => exact fun m h => by cases h
    | cons y r ih =>
      intro m h
      rcases List.mem_cons.mp h with rfl | h
      · exact (hhigh r _).trans (min_le_right ..)
      · exact ih _ h
  exact le_antisymm (hreach l m hx) (hlow l m hm hle)

/-- Steps that change lines and firings alone. -/
def sameChans (d d' : Dev) : Prop := d'.chan = d.chan ∧ d'.edges = d.edges

theorem refreshLine_sameChans (d : Dev) (k t : Nat) (b : Bool) : sameChans d (d.refreshLine k t b) :=
  iteInduction (motive := fun x => sameChans d x) (fun _ => ⟨rfl, rfl⟩) fun _ =>
    iteInduction (motive := fun x => sameChans d x) (fun _ => ⟨rfl, rfl⟩) fun _ => ⟨rfl, rfl⟩

theorem markerEdgeD_of_due {d : Dev} {ch : Fin 96} {b : Fin 2} {x : Edge}
    (hlast : (d.edges.filter (fun y => y.ch == ch.val && y.mark == b.val && y.time == x.time)).getLast? = some x)
    (hfirst : ∀ y ∈ d.edges, y.ch = ch → y.mark = b → x.time ≤ y.time) (hdue : d.due x.time = true) (htime : d.timeValid = true) :
    ∃ d₁, sameChans (d.markEdge ch b x.time x.level) d₁ ∧ markerEdgeD ch b d = d₁.settleClaims := by
  have hgo : ¬ ((!d.due x.time) = true ∨ (!d.timeValid) = true) := by
    rw [hdue, htime]
    decide
  have hmem := List.mem_of_getLast? hlast
  have hfilter : (d.edges.filter (fun y => y.ch == ch.val && y.mark == b.val)).filter (fun y => y.time == x.time) =
      d.edges.filter (fun y => y.ch == ch.val && y.mark == b.val && y.time == x.time) := by
    rw [List.filter_filter]
    exact List.filter_congr fun y _ => Bool.and_comm ..
  have hmine : x ∈ d.edges.filter (fun y => y.ch == ch.val && y.mark == b.val) := by
    obtain ⟨hx, htest⟩ := List.mem_filter.mp hmem
    simp only [Bool.and_eq_true] at htest
    exact List.mem_filter.mpr ⟨hx, by simpa using htest.1⟩
  have hle : ∀ y ∈ d.edges.filter (fun y => y.ch == ch.val && y.mark == b.val), x.time ≤ y.time := by
    intro y hy
    obtain ⟨hy, htest⟩ := List.mem_filter.mp hy
    simp only [Bool.and_eq_true, beq_iff_eq] at htest
    exact hfirst y hy htest.1 htest.2
  rw [← hfilter] at hlast
  unfold markerEdgeD
  revert hlast hmine hle
  generalize d.edges.filter (fun y => y.ch == ch.val && y.mark == b.val) = mine
  intro hlast hmine hle
  cases mine with
  | nil => cases hmine
  | cons e0 r =>
    dsimp only
    rw [foldl_min_of_le hmine hle (hle e0 List.mem_cons_self), if_neg hgo, hlast]
    refine ⟨_, ?_, rfl⟩
    have hfire : ∀ d' : Dev, sameChans (d.markEdge ch b x.time x.level) d' → ∀ src gen, sameChans (d.markEdge ch b x.time x.level) (d'.fire src x.time gen) :=
      fun d' h src gen => ⟨(chan_of_base (base_fire ..)).trans h.1, (edges_of_base (base_fire ..)).trans h.2⟩
    have hbase : sameChans (d.markEdge ch b x.time x.level) (d.markEdge ch b x.time x.level) := ⟨rfl, rfl⟩
    have hlines : ∀ (ks : List Nat) (d' : Dev), sameChans (d.markEdge ch b x.time x.level) d' →
        sameChans (d.markEdge ch b x.time x.level) (ks.foldl (fun d k => d.refreshLine k x.time false) d') := fun ks d' h =>
      ⟨(foldl_keeps Dev.chan ks _ (fun d k => (refreshLine_sameChans d k x.time false).1) d').trans h.1,
        (foldl_keeps Dev.edges ks _ (fun d k => (refreshLine_sameChans d k x.time false).2) d').trans h.2⟩
    have hrise : ∀ (p : Prop) [Decidable p] src gen, sameChans (d.markEdge ch b x.time x.level)
        (if p then (d.markEdge ch b x.time x.level).fire src x.time gen else d.markEdge ch b x.time x.level) := fun p _ src gen =>
      iteInduction (motive := fun y => sameChans _ y) (fun _ => hfire _ hbase src gen) fun _ => hbase
    exact iteInduction (motive := fun y => sameChans (d.markEdge ch b x.time x.level) y) (fun _ => hrise ..) fun _ => hlines _ _ (hrise ..)

/-! ## Underruns (R72, R73) -/

theorem chanAt_self (ch : Fin 96) : chanAt (chTile ch) (chLane ch) = ch := by
  refine Fin.ext ?_
  unfold chanAt chTile chLane
  dsimp only
  omega

theorem chnBase_ge (n : Nat) : 0x800000 ≤ chnBase n := by
  unfold chnBase
  omega

/-- An underrun is flagged, with the missed prefill where that is its cause. -/
theorem underrunAt_bit (d : Dev) (ch : Nat) (p : Play) (t : Nat) (miss : Bool) (hgen : p.gen < 8) :
    (d.underrunAt ch p t miss).bit (Reg.chn_SC_EVENTS ch) 0 = true ∧
      (miss = true → (d.underrunAt ch p t miss).bit (Reg.chn_SC_EVENTS ch) 1 = true) := by
  have hne : Reg.chn_UNDERRUN_CNT ch ≠ Reg.chn_SC_EVENTS ch := by grind
  unfold underrunAt
  extract_lets a d₁ d₂ got d₃
  have h₂ : ∀ i, i < 24 → d₂.bit (Reg.chn_SC_EVENTS ch) i = (d₁.bit (Reg.chn_SC_EVENTS ch) i || (if miss then 3 else 1).testBit i) := by
    intro i hi
    have hm : (if miss = true then 3 else 1) < 2^24 := by split <;> decide
    exact (bit_wrN_ne _ _ _ hne).trans (bit_raise_same _ _ _ _ hm hi)
  have h₃ : d₃.regs = d₂.regs := (updChan_regs ..).trans (updChan_regs ..)
  have hkeep : ∀ i, i < 24 → (d₃.fire (6 * ch + 4) t p.gen).bit (Reg.chn_SC_EVENTS ch) i = (d₁.bit (Reg.chn_SC_EVENTS ch) i || (if miss then 3 else 1).testBit i) :=
    fun i hi => (bit_congr ((fire_regs _ _ _ _ hgen).trans h₃) ..).trans (h₂ i hi)
  refine ⟨(hkeep 0 (by decide)).trans ?_, fun hmiss => (hkeep 1 (by decide)).trans ?_⟩
  · cases miss <;> exact Bool.or_true _
  · subst hmiss
    exact Bool.or_true _

theorem underrunAt_fired (d : Dev) (ch : Nat) (p : Play) (t : Nat) (miss : Bool) (hgen : p.gen < 8) :
    d.fired (d.underrunAt ch p t miss) (6 * ch + 4) t := by
  have hbase := chnBase_ge ch
  have hevents : ¬ inEc (Reg.chn_SC_EVENTS ch) := by unfold inEc; grind
  have hfirst : ¬ inEc (Reg.chn_UNDERRUN_FIRST_LO ch) := by unfold inEc; grind
  have hfirst4 : ¬ inEc (Reg.chn_UNDERRUN_FIRST_LO ch + 4) := by unfold inEc; grind
  have hcount : ¬ inEc (Reg.chn_UNDERRUN_CNT ch) := by unfold inEc; grind
  unfold underrunAt
  extract_lets a d₁ d₂ got d₃
  have h₁ : sameListeners d d₁ := sameListeners_ite (sameListeners_refl d) (sameListeners_wr64 d hfirst hfirst4 t)
  have h₂ : sameListeners d₁ d₂ := sameListeners_trans (sameListeners_raise d₁ hevents _) (sameListeners_wrN _ hcount _)
  have h₃ : sameListeners d₂ d₃ := sameListeners_of_fields ((updChan_regs ..).trans (updChan_regs ..)) ((updChan_inforce ..).trans (updChan_inforce ..))
    ((updChan_parity ..).trans (updChan_parity ..))
  exact fired_of_fire hgen (sameListeners_trans (sameListeners_trans h₁ h₂) h₃) (inboxGrows_refl _)

theorem underrunD_of_due {d : Dev} {ch : Fin 96} {p : Play} {t : Nat} {miss : Bool} (h : d.underrunDue ch = some (p, t, miss)) :
    underrunD (chTile ch) (chLane ch) miss d = d.underrunAt ch p t miss := by
  unfold underrunD
  rw [chanAt_self, h]
  exact if_pos (beq_self_eq_true miss)

theorem underrunD_of_idle {d : Dev} {ch : Fin 96} (h : (d.chanOf ch).cur = none) (atHead : Bool) : underrunD (chTile ch) (chLane ch) atHead d = d := by
  unfold underrunD underrunDue
  rw [chanAt_self, h]

section underrunDue
variable {d : Dev} {ch t : Nat} {p : Play} (hcur : (d.chanOf ch).cur = some p) (hstream : dStreamed p.desc = true) (hseg : p.seg.isSome = true)
  (hfresh : p.undr = none) (hstop : t < p.stop) (hdue : d.due t = true) (htime : d.timeValid = true)
include hcur hstream hseg hfresh hstop hdue htime

theorem underrunDue_of_missing (hhead : dHead p.desc = 0 ∨ d.headEnd ch p < d.nowT) (hmiss : d.firstMissing ch p = some t) :
    d.underrunDue ch = some (p, t, false) := by
  have hgo : ¬ ((!dStreamed p.desc) = true ∨ p.seg.isNone = true ∨ p.undr.isSome = true ∨ (!d.timeValid) = true) := by
    rw [hstream, hfresh, htime, ← Option.not_isSome, hseg]
    decide
  have hnot : ¬ (dHead p.desc ≠ 0 ∧ d.nowT ≤ d.headEnd ch p ∧ d.due (d.headEnd ch p) = true ∧ d.headEnd ch p < p.stop ∧
      d.shortOf ch p.ctx p.lsn = true) := fun h => hhead.elim h.1 h.2.1.not_gt
  unfold underrunDue
  rw [hcur]
  dsimp only
  rw [if_neg hgo, if_neg hnot, hmiss]
  exact if_pos ⟨hdue, hstop⟩

theorem underrunDue_of_short (hhead : dHead p.desc ≠ 0) (ht : t = d.headEnd ch p) (hnow : d.nowT ≤ t) (hshort : d.shortOf ch p.ctx p.lsn = true) :
    d.underrunDue ch = some (p, t, true) := by
  have hgo : ¬ ((!dStreamed p.desc) = true ∨ p.seg.isNone = true ∨ p.undr.isSome = true ∨ (!d.timeValid) = true) := by
    rw [hstream, hfresh, htime, ← Option.not_isSome, hseg]
    decide
  unfold underrunDue
  rw [hcur]
  dsimp only
  rw [if_neg hgo, ← ht]
  exact if_pos ⟨hhead, hnow, hdue, hstop, hshort⟩
end underrunDue

/-! ## Requests that join a controller's queue (R387, R389) -/

/-- Where an address lies is read of the memory map, the registers of DRAM, and the chunks that have moved. -/
theorem place_congr {d d' : Dev} (hmm : d'.mm = d.mm) (hregs : d'.regs = d.regs) (hmoved : d'.moved = d.moved) (a : Nat) : d'.place a = d.place a := by
  have hil : d'.ilBytes = d.ilBytes := by rw [ilBytes, ilBytes, hmm]
  have hhome : d'.home a = d.home a := by
    unfold home
    rw [hil, hmm]
  have hout : d'.outDmc = d.outDmc := by
    unfold outDmc dmcState
    simp only [bit_congr hregs, fld_congr hregs]
  have hres : d'.reserveAt = d.reserveAt := by rw [reserveAt, reserveAt, rdN_congr hregs, hmm]
  obtain ⟨g, hg⟩ : ∃ g, g = @place := ⟨_, rfl⟩
  rw [← hg]
  delta place at hg
  rw [hg]
  beta_reduce
  rw [hhome]
  generalize d.home a = p
  obtain ⟨m, l⟩ := p
  dsimp only
  rw [hout, hres, hmoved, bit_congr hregs, dmcState, fld_congr hregs, ← dmcState]

/-- The DMC's port has learned the time, and self-refresh has ended where the request needs it. -/
def wokenFor (d : Dev) (m ns : Nat) : Dev := (if d.inSr m then d.exitSr m else d).setClock m ns

/-- A request that joins the queue of DMC `m`, at its local address `l`. -/
def reqAt (d : Dev) (port addr len : Nat) (write openHint : Bool) (data : List Byte) (ns : Nat) (fill : Option (Nat × Nat × Nat × Nat)) (m l : Nat) : Req :=
  ⟨port, addr, l, len, write, openHint, data, ns, if port = 10 then none else some (ns + d.ltOf m port), d.ltOf m port, fill⟩

/-- `enqueueReq` is unfolded as a function, so that the kernel does not compute where the address lies. -/
theorem enqueueReq_at {d : Dev} {m l addr : Nat} (h : d.place addr = (m, l)) (port len : Nat) (write openHint : Bool) (data : List Byte) (ns : Nat)
    (fill : Option (Nat × Nat × Nat × Nat)) : d.enqueueReq port addr len write openHint data ns fill =
      (d.wokenFor m ns).updDmc m (fun x => { x with waiting := x.waiting ++ [d.reqAt port addr len write openHint data ns fill m l] }) := by
  obtain ⟨g, hg⟩ : ∃ g, g = @enqueueReq := ⟨_, rfl⟩
  rw [← hg]
  delta enqueueReq at hg
  rw [hg]
  beta_reduce
  rw [h]
  rfl

theorem updDmc_dmcOf (d : Dev) (m : Nat) (f : Dmc → Dmc) : (d.updDmc m f).dmcOf m = f (d.dmcOf m) := SMap.get_upd_same ..
theorem updDmc_dmcOf_ne (d : Dev) {m k : Nat} (f : Dmc → Dmc) (h : m ≠ k) : (d.updDmc m f).dmcOf k = d.dmcOf k := SMap.get_upd_ne _ _ _ h

/-- Waking a DMC changes its STATUS and its clock. -/
theorem wokenFor_only (d : Dev) (m ns : Nat) : ∃ r, d.wokenFor m ns = ({ d with regs := r } : Dev).setClock m ns := by
  unfold wokenFor
  refine iteInduction (motive := fun x : Dev => ∃ r, x.setClock m ns = ({ d with regs := r } : Dev).setClock m ns) (fun _ => ?_) fun _ => ⟨_, rfl⟩
  exact iteInduction (motive := fun x : Dev => ∃ r, x.setClock m ns = ({ d with regs := r } : Dev).setClock m ns) (fun _ => ⟨_, rfl⟩) fun _ => ⟨_, rfl⟩

theorem wokenFor_waiting (d : Dev) (m ns k : Nat) : ((d.wokenFor m ns).dmcOf k).waiting = (d.dmcOf k).waiting := by
  obtain ⟨r, hr⟩ := wokenFor_only d m ns
  rw [hr, setClock]
  by_cases hk : m = k
  · subst hk
    rw [updDmc_dmcOf]
    rfl
  · rw [updDmc_dmcOf_ne _ _ hk]
    rfl

/-- The request is the last of its controller's queue. -/
theorem enqueueReq_waiting {d : Dev} {m l addr : Nat} (h : d.place addr = (m, l)) (port len : Nat) (write openHint : Bool) (data : List Byte) (ns : Nat)
    (fill : Option (Nat × Nat × Nat × Nat)) : ((d.enqueueReq port addr len write openHint data ns fill).dmcOf m).waiting =
      (d.dmcOf m).waiting ++ [d.reqAt port addr len write openHint data ns fill m l] := by
  rw [enqueueReq_at h, updDmc_dmcOf]
  dsimp only
  rw [wokenFor_waiting]

theorem enqueueReq_keeps {β : Type} (q : Dev → β) (hregs : ∀ (d : Dev) r, q { d with regs := r } = q d) (hdmc : ∀ (d : Dev) m, q { d with dmc := m } = q d)
    (d : Dev) (port addr len : Nat) (write openHint : Bool) (data : List Byte) (ns : Nat) (fill : Option (Nat × Nat × Nat × Nat)) :
    q (d.enqueueReq port addr len write openHint data ns fill) = q d := by
  cases hplace : d.place addr with
  | mk m l =>
    obtain ⟨r, hr⟩ := wokenFor_only d m ns
    rw [enqueueReq_at hplace, hr]
    exact (hdmc ..).trans ((hdmc ..).trans (hregs ..))

/-! ## Ring fills (R66, R70) -/

/-- A channel's ring takes a burst of `n` bytes of stream `x`. -/
def ringTakes (d : Dev) (ch n : Nat) (x : Stream) : Dev :=
  d.updChan ch (fun c => { c with ringWr := c.ringWr + n, streams := c.streams.map (fun y => if y == x then
    { x with asked := x.asked + n, start := if x.asked = 0 then (d.chanOf ch).ringWr else x.start } else y) })

theorem ringFillD_of_room {d : Dev} {ch : Fin 96} {ns : Nat} {x : Stream}
    (hnext : (d.chanOf ch).streams.find? (fun s => decide (s.asked < s.bytes * s.passes)) = some x) (hshut : d.dramShut = false) (hstandby : d.standby = false)
    (hroom : d.ringUsed ch + min 512 (x.bytes - x.asked % max 1 x.bytes) ≤ (d.ringOf ch).2) (hbank : d.fld (Reg.chn_SC_STATUS ch) 0 2 = 2)
    (hreads : d.readsOut (ch / 16) + min 512 (x.bytes - x.asked % max 1 x.bytes) / 64 ≤ 64)
    (hwiped : SMap.get false d.wiped ((x.addr + x.asked % max 1 x.bytes) / 2^20) = true) :
    ∃ hint, ringFillD ch ns d = (d.ringTakes ch (min 512 (x.bytes - x.asked % max 1 x.bytes)) x).enqueueReq (ch / 16) (x.addr + x.asked % max 1 x.bytes)
      (min 512 (x.bytes - x.asked % max 1 x.bytes)) false hint [] ns (some (ch.val, x.ctx, x.lsn, x.asked)) := by
  have hgo : ¬ (d.dramShut = true ∨ d.standby = true ∨ (d.ringOf ch).2 < d.ringUsed ch + min 512 (x.bytes - x.asked % max 1 x.bytes) ∨
      d.fld (Reg.chn_SC_STATUS ch) 0 2 = 1) := by
    rw [hshut, hstandby, hbank]
    simpa using hroom
  have hwiped' : ¬ (!SMap.get false (d.ringTakes ch (min 512 (x.bytes - x.asked % max 1 x.bytes)) x).wiped ((x.addr + x.asked % max 1 x.bytes) / 2^20)) = true := by
    rw [ringTakes, updChan_wiped, hwiped]
    decide
  unfold ringFillD
  dsimp only
  rw [hnext]
  dsimp only
  rw [if_neg hgo, if_neg (by rw [hbank]; decide), if_neg hreads.not_gt]
  exact ⟨_, if_neg hwiped'⟩

end Dev

/-- Settles O12: each step has its equation above; settling the claims then leaves what the channels play and show. -/
theorem playoutGoesOn : Obligations.PlayoutGoesOn := by
  intro s ch d hwf htime
  refine ⟨fun p hcur hmore hdue => ?pass, fun p hcur hdue => ?segEnd, fun b x hlast hfirst hdue => ?marker, fun p t hcur hstream hseg hfresh hgen hstop hdue => ?underrun,
    fun hcur atHead => ?idle, fun x ns hnext hshut hstandby => ?fill⟩
  case pass => exact State.runs_of_onDev (exec_passStart ch s) rfl (Dev.passStartD_of_due hcur hmore hdue htime)
  case segEnd =>
    have hstep := Dev.chanStep_finish (ch := ch) d
    obtain ⟨hnone, hprev⟩ := Dev.finish_chanOf hcur
    refine State.runs_of_onDev (exec_segEnd ch s) (Dev.segEndD_of_due hcur hdue htime) ⟨?_, ?_, (Dev.settleClaims_launches ..).trans hstep.launches⟩
    · rw [Dev.settleClaims_cur (hstep.wf hwf), hnone]
    · rw [Dev.settleClaims_prev (hstep.wf hwf), hprev]
  case marker =>
    obtain ⟨d₁, ⟨hchan, hedges⟩, hmark⟩ := Dev.markerEdgeD_of_due hlast hfirst hdue htime
    have hwf₁ : d₁.chanWf := by
      rw [Dev.chanWf, hchan]
      exact Dev.markEdge_chanWf hwf ..
    refine State.runs_of_onDev (exec_markerEdge ch b s) hmark ⟨?_, ?_⟩
    · rw [Dev.settleClaims_mkA hwf₁, Dev.settleClaims_mkB hwf₁, Dev.chanOf_of_chan hchan, Dev.markEdge_level]
    · rw [Dev.settleClaims_edges, hedges]
      exact Dev.updChan_edges ..
  case underrun =>
    have hsame : ∀ miss, Dev.samePlay p ((d.underrunAt ch p t miss).chanOf ch).cur ∧ ∃ got, ((d.underrunAt ch p t miss).chanOf ch).cur = some { p with undr := some t, got := got } := by
      intro miss
      obtain ⟨got, hgot⟩ := Dev.underrunAt_cur d ch p t miss
      rw [hcur, Option.map_some] at hgot
      exact ⟨⟨_, hgot, rfl, rfl, rfl⟩, got, hgot⟩
    have hrun : ∀ miss (post : Dev → Prop), d.underrunDue ch = some (p, t, miss) → post (d.underrunAt ch p t miss) →
        s.runs (.underrun (chTile ch) (chLane ch) miss) (fun d' => (∃ q, (d'.chanOf ch).cur = some q ∧ q.undr = some t ∧
          q.ctx = p.ctx ∧ q.lsn = p.lsn ∧ q.start = p.start) ∧ d.fired d' (6 * ch + 4) t ∧ d'.bit (Reg.chn_SC_EVENTS ch) 0 = true ∧
          d'.launches = d.launches ∧ post d') := by
      intro miss post hund hpost
      obtain ⟨_, got, hgot⟩ := hsame miss
      exact State.runs_of_onDev (exec_underrun _ _ _ s) (Dev.underrunD_of_due hund) ⟨⟨_, hgot, rfl, rfl, rfl, rfl⟩, Dev.underrunAt_fired _ _ _ _ _ hgen,
        (Dev.underrunAt_bit _ _ _ _ _ hgen).1, (Dev.chanStep_underrunAt (ch := ch) d p t miss).launches, hpost⟩
    refine ⟨fun hhead hmiss => hrun false _ (Dev.underrunDue_of_missing hcur hstream hseg hfresh hstop hdue htime hhead hmiss) trivial,
      fun hhead ht hnow hshort => ?_⟩
    exact hrun true _ (Dev.underrunDue_of_short hcur hstream hseg hfresh hstop hdue htime hhead ht hnow hshort) ((Dev.underrunAt_bit _ _ _ _ _ hgen).2 rfl)
  case idle => exact State.runs_of_onDev (exec_underrun _ _ _ s) (Dev.underrunD_of_idle hcur atHead) rfl
  case fill =>
    intro at_ n hroom hbank hreads hwiped
    obtain ⟨hint, hfill⟩ := Dev.ringFillD_of_room (ns := ns) hnext hshut hstandby hroom hbank hreads hwiped
    cases hplace : d.place (x.addr + at_) with
    | mk m l =>
      have hplace' : (d.ringTakes ch n x).place (x.addr + at_) = (m, l) :=
        (Dev.place_congr (Dev.updChan_mm ..) (Dev.updChan_regs ..) (Dev.updChan_moved ..) _).trans hplace
      refine State.runs_of_onDev (exec_ringFill ⟨ch, ns⟩ s) hfill ⟨?_, ?_, ?_, ?_⟩
      · have hchan : ∀ d' : Dev, d'.chan = (d.ringTakes ch n x).chan → (d'.chanOf ch).ringWr = (d.chanOf ch).ringWr + n := fun d' h => by
          rw [Dev.chanOf_of_chan h, Dev.ringTakes, Dev.updChan_chanOf]
        exact hchan _ (Dev.enqueueReq_keeps Dev.chan (fun _ _ => rfl) (fun _ _ => rfl) ..)
      · exact (Dev.enqueueReq_keeps Dev.dram (fun _ _ => rfl) (fun _ _ => rfl) ..).trans (Dev.updChan_dram ..)
      · exact (Dev.enqueueReq_keeps Dev.sc (fun _ _ => rfl) (fun _ _ => rfl) ..).trans (Dev.updChan_sc ..)
      · exact ⟨_, Dev.enqueueReq_waiting hplace' .., rfl, rfl, rfl, rfl, rfl⟩

end Sys2Proof.Machine

/-! PROOFS. Held firings (R223): a consumer that acts at stamp + LAT holds its action; groups (R219, R237). -/
namespace Sys2Proof.Machine

theorem exec_groupEnable (g : Fin 32) (s : State) : exec (.groupEnable g) s = s.onDev (groupEnableD g) := rfl
theorem exec_groupDisable (g : Fin 32) (s : State) : exec (.groupDisable g) s = s.onDev (groupDisableD g) := rfl
theorem exec_grpCmd (fn : Fn) (g : Fin 32) (v : Word) (s : State) : exec (.grpCmd fn g v) s = s.onDev (grpCmdD fn g v) := rfl
theorem exec_groupChange (g : Fin 32) (s : State) : exec (.groupChange g) s = s.onDev (groupChangeD g) := rfl

theorem bitsOf_one (v : Word) (i : Nat) : bitsOf v.toNat i 1 = if v.getLsbD i then 1 else 0 := by
  have hbit : v.getLsbD i = decide (v.toNat / 2^i % 2 = 1) := Nat.testBit_eq_decide_div_mod_eq
  rw [hbit, bitsOf, pow_one]
  split <;> simp_all

namespace Dev

/-! ## The time of an action -/

/-- A consumer acts at stamp + LAT where that is not past (R28). -/
theorem actTime_onTime {d : Dev} {i lat : Nat} {f : Firing} (hmax : f.stamp + lat < 2^64) (hcoarse : f.coarse = false) (hlate : f.late = false)
    (hnow : d.nowT ≤ f.stamp + lat) : d.actTime i lat f = (some (f.stamp + lat), d) := by
  have honTime : ¬ (f.coarse = true ∨ f.late = true ∨ f.stamp + lat < d.nowT) := by
    rw [hcoarse, hlate]
    simpa using hnow
  unfold actTime
  rw [if_neg hmax.not_ge, if_neg honTime]

theorem taken_nowT (d : Dev) (i : Nat) (r : List Held) (gen : Nat) : (d.taken i r gen).nowT = d.nowT := by
  have hne : Reg.tin_STATE i ≠ Reg.time_STATUS := by grind
  exact nowT_of_rd (taken_rd _ _ _ _ hne) ((setFld_time ..).trans (updTin_time ..))

/-! ## Holding and dropping an action -/

section acts
variable (d : Dev) (i : Nat) (a : Act)

theorem addAct_tinOf : (d.addAct i a).tinOf i = { d.tinOf i with acts := (d.tinOf i).acts ++ [a] } := by
  unfold addAct
  rw [tinOf, setFld_tin]
  exact tinOf_updTin_same ..
theorem addAct_tinOf_ne {j : Nat} (h : i ≠ j) : (d.addAct i a).tinOf j = d.tinOf j := by
  unfold addAct
  rw [tinOf, setFld_tin]
  exact tinOf_updTin_ne d _ h
theorem addAct_rd {b : Nat} (h : Reg.tin_STATE i ≠ b) : (d.addAct i a).rd b = d.rd b := by
  unfold addAct
  rw [rd_setFld_ne _ _ _ _ h, rd_of_regs (updTin_regs ..)]

theorem applyTin_rd (b : Nat) : (d.applyTin i).rd b = d.rd b :=
  iteInduction (motive := fun x : Dev => x.rd b = d.rd b) (fun _ => (rd_of_regs (settle_regs ..) b).trans (rd_of_regs (settle_regs ..) b)) fun _ => rfl
theorem applyTin_tin : (d.applyTin i).tin = d.tin :=
  iteInduction (motive := fun x : Dev => x.tin = d.tin) (fun _ => (settle_tin ..).trans (settle_tin ..)) fun _ => rfl

theorem dropAct_tinOf : (d.dropAct i a).tinOf i = { d.tinOf i with acts := (d.tinOf i).acts.erase a } := by
  unfold dropAct
  rw [tinOf, applyTin_tin, setFld_tin]
  exact tinOf_updTin_same ..
theorem dropAct_rd {b : Nat} (h : Reg.tin_STATE i ≠ b) : (d.dropAct i a).rd b = d.rd b := by
  unfold dropAct
  rw [applyTin_rd, rd_setFld_ne _ _ _ _ h, rd_of_regs (updTin_regs ..)]
theorem dropAct_grp : (d.dropAct i a).grp = d.grp :=
  (iteInduction (motive := fun x : Dev => x.grp = _) (fun _ => (settle_grp ..).trans (settle_grp ..)) fun _ => rfl).trans
    ((setFld_grp ..).trans (updTin_grp ..))
end acts

/-- A firing that is not late is held for stamp + LAT, and the rest waits behind it. -/
theorem holdFiring_of_takes {d : Dev} {i t value : Nat} {h : Held} {r : List Held} {busy : Bool} (htakes : d.takesAt i h r t) (hbusy : busy = false)
    (hfew : (d.tinOf i).acts.length < 4) :
    d.holdFiring i busy value = (d.taken i r h.fire.gen).addAct i ⟨t, h.fire.stamp, h.fire.gen, value⟩ := by
  obtain ⟨hvalid, hin, hbad, hcoarse, hlate, rfl, hmax, hnow⟩ := htakes
  have hact := actTime_onTime (d := d.taken i r h.fire.gen) (i := i) (lat := d.latOf i) (f := h.fire) hmax hcoarse hlate ((taken_nowT ..).trans_le hnow)
  have hgo : ¬ (busy || (d.taken i r h.fire.gen).tinBad i || decide (4 ≤ ((d.taken i r h.fire.gen).tinOf i).acts.length)) = true := by
    rw [hbusy, taken_tinBad, hbad, taken_acts, decide_eq_false hfew.not_ge]
    decide
  unfold holdFiring
  rw [hvalid, takeFiring_of_inbox hin]
  dsimp only
  rw [if_neg hgo, taken_latOf, hact]
  exact if_neg (by decide)

theorem holdFiring_acts {d : Dev} {i t value : Nat} {h : Held} {r : List Held} {busy : Bool} (htakes : d.takesAt i h r t) (hbusy : busy = false)
    (hfew : (d.tinOf i).acts.length < 4) :
    ((d.holdFiring i busy value).tinOf i).acts = (d.tinOf i).acts ++ [⟨t, h.fire.stamp, h.fire.gen, value⟩] ∧ ((d.holdFiring i busy value).tinOf i).inbox = r := by
  rw [holdFiring_of_takes htakes hbusy hfew, addAct_tinOf, taken_acts]
  exact ⟨rfl, taken_inbox ..⟩

/-! ## Groups (R219) -/

theorem groupFiring_acts {d : Dev} {g i t value : Nat} {h : Held} {r : List Held} (htakes : d.takesAt i h r t) (hwaiting : d.groupWaiting g < 4)
    (hfew : (d.tinOf i).acts.length < 4) :
    ((d.groupFiring g i value).tinOf i).acts = (d.tinOf i).acts ++ [⟨t, h.fire.stamp, h.fire.gen, value⟩] ∧ ((d.groupFiring g i value).tinOf i).inbox = r := by
  unfold groupFiring showWaiting
  rw [tinOf, setFld_tin]
  exact holdFiring_acts htakes (decide_eq_false hwaiting.not_ge) hfew

theorem setGroup_bit (d : Dev) (g t : Nat) (on_ : Bool) : (d.setGroup g t on_).bit (Reg.grp_STATE g) 0 = on_ := by
  unfold setGroup
  split
  · assumption
  · exact (congrArg (fun w : Word => w.getLsbD 0) (rd_of_regs (updGrp_regs ..) _)).trans (bit_setBit_same _ _ _ _ (by decide))

theorem setGroup_cmds (d : Dev) (g t : Nat) (on_ : Bool) : ((d.setGroup g t on_).grpOf g).cmds = (d.grpOf g).cmds := by
  unfold setGroup
  split
  · rfl
  · refine (congrArg GrpSt.cmds (grpOf_updGrp_same ..)).trans ?_
    exact congrArg (fun m : SMap GrpSt => (SMap.get {} m g).cmds) (setBit_grp ..)

/-- The first time of the changes of a group. -/
theorem foldl_min_eq {x p : Nat × Bool} {r : List (Nat × Bool)} (hp : p ∈ x :: r) (hfirst : ∀ q ∈ x :: r, p.1 ≤ q.1) :
    r.foldl (fun m y => min m y.1) x.1 = p.1 := by
  have hkept : ∀ (l : List (Nat × Bool)) m, (∀ q ∈ l, p.1 ≤ q.1) → p.1 ≤ m → (m = p.1 ∨ ∃ q ∈ l, q.1 = p.1) → l.foldl (fun m y => min m y.1) m = p.1 := by
    intro l
    induction l with
    | nil => exact fun m _ _ hm => hm.elim id fun ⟨q, hq, _⟩ => absurd hq List.not_mem_nil
    | cons y l ih =>
      intro m hl hle hm
      have hy := hl y List.mem_cons_self
      refine ih _ (fun q hq => hl q (List.mem_cons_of_mem _ hq)) (le_min hle hy) ?_
      rcases hm with hm | ⟨q, hq, heq⟩
      · exact .inl (by rw [hm]; exact min_eq_left hy)
      · rcases List.mem_cons.mp hq with rfl | hq
        · exact .inl ((min_eq_right (heq.trans_le hle)).trans heq)
        · exact .inr ⟨q, hq, heq⟩
  refine hkept r x.1 (fun q hq => hfirst q (List.mem_cons_of_mem _ hq)) (hfirst x List.mem_cons_self) ?_
  rcases List.mem_cons.mp hp with rfl | hp
  · exact .inl rfl
  · exact .inr ⟨p, hp, rfl⟩

/-- The firings of a group's two inputs that act at `t` are dropped. -/
def groupDropped (d : Dev) (g t : Nat) : Dev :=
  ((d.tinOf (468 + g)).acts.filter (fun a => a.time == t)).foldl (fun d a => d.dropAct (468 + g) a)
    (((d.tinOf (436 + g)).acts.filter (fun a => a.time == t)).foldl (fun d a => d.dropAct (436 + g) a) d)

theorem groupDropped_grp (d : Dev) (g t : Nat) : (d.groupDropped g t).grp = d.grp := by
  unfold groupDropped
  refine (foldl_keeps Dev.grp _ _ ?_ _).trans (foldl_keeps Dev.grp _ _ ?_ d)
  · exact fun d a => dropAct_grp ..
  · exact fun d a => dropAct_grp ..

theorem groupChangeD_of_first {d : Dev} {g : Fin 32} {p : Nat × Bool} (hp : p ∈ d.groupChanges g) (hfirst : ∀ q ∈ d.groupChanges g, p.1 ≤ q.1)
    (hdue : d.due p.1 = true) (hvalid : d.timeValid = true) :
    groupChangeD g d = (((d.groupDropped g p.1).updGrp g (fun x => { x with cmds := x.cmds.filter (fun c => c.1 != p.1) })).setGroup g p.1
      (!((d.groupChanges g).any (fun q => q.1 == p.1 && !q.2)))).showWaiting g := by
  obtain ⟨x, r, hall⟩ := List.exists_cons_of_ne_nil (List.ne_nil_of_mem hp)
  have ht := foldl_min_eq (hall ▸ hp) (hall ▸ hfirst)
  have hgo : ¬ ((!d.due p.1) = true ∨ (!d.timeValid) = true) := by
    rw [hdue, hvalid]
    decide
  unfold groupChangeD
  unfold groupChanges at hall
  simp only [hall, ht]
  rw [if_neg hgo, groupChanges, hall]
  rfl

theorem groupChangeD_spec {d : Dev} {g : Fin 32} {p : Nat × Bool} (hp : p ∈ d.groupChanges g) (hfirst : ∀ q ∈ d.groupChanges g, p.1 ≤ q.1)
    (hdue : d.due p.1 = true) (hvalid : d.timeValid = true) :
    (groupChangeD g d).bit (Reg.grp_STATE g) 0 = !((d.groupChanges g).any (fun q => q.1 == p.1 && !q.2)) ∧
      ((groupChangeD g d).grpOf g).cmds = (d.grpOf g).cmds.filter (fun q => q.1 != p.1) := by
  rw [groupChangeD_of_first hp hfirst hdue hvalid, showWaiting]
  constructor
  · rw [bit_setFld_other _ _ _ _ _ _ (by decide) (by decide), setGroup_bit]
  · rw [grpOf, setFld_grp, ← grpOf, setGroup_cmds]
    refine (congrArg GrpSt.cmds (grpOf_updGrp_same ..)).trans ?_
    exact congrArg (fun m : SMap GrpSt => (SMap.get {} m g).cmds.filter _) (groupDropped_grp ..)

/-- What an accepted write does besides its effect (R424): a known mismatch ends, and a channel may lose the cause of its hold. -/
structure sameButParity (d d' : Dev) : Prop where
  only : ∃ r p, d' = { d with regs := r, parity := p }
  rd : ∀ a, (∀ n, Reg.chn_SAFE_CTL n ≠ a) → d'.rd a = d.rd a

theorem sameButParity_endParity (d : Dev) (a : Nat) : d.sameButParity (d.endParity a) := by
  unfold endParity
  dsimp only
  split
  · split
    · exact ⟨⟨_, _, rfl⟩, fun _ _ => rfl⟩
    · exact ⟨⟨_, _, rfl⟩, fun b hb => rd_setFld_ne _ _ _ _ (hb _)⟩
  · exact ⟨⟨_, _, rfl⟩, fun _ _ => rfl⟩
theorem sameButParity_accepted (before d : Dev) (fn key : Nat) : d.sameButParity (accepted before d fn key) := by
  unfold accepted
  split
  · exact ⟨⟨_, _, rfl⟩, fun _ _ => rfl⟩
  · exact sameButParity_endParity ..

section access
variable {d : Dev} {fn off : Nat} {owner : Option Nat} (hans : d.answers fn off owner) (f : Dev → Dev)
include hans

/-- An access that is carried out leaves what its effect left, but for registers and mismatches. -/
theorem access_keeps {α : Type} {q : Dev → α} (hq : ∀ (d : Dev) r p, q { d with regs := r, parity := p } = q d) :
    q (d.access fn off owner f) = q (f d) := by
  rw [access_of_answers hans]
  obtain ⟨⟨r, p, h⟩, -⟩ := sameButParity_accepted d (f d) fn (keyOf fn off)
  rw [h, hq]
theorem access_rd {a : Nat} (ha : ∀ n, Reg.chn_SAFE_CTL n ≠ a) : (d.access fn off owner f).rd a = (f d).rd a := by
  rw [access_of_answers hans]
  exact (sameButParity_accepted ..).rd a ha
end access

/-- A host command with GO joins the group's changes at its AT. -/
theorem grpCmdD_cmds {d : Dev} {fn : Fn} {g : Fin 32} {v : Word}
    (hans : d.answers fn (Reg.grp_CMD g) (Dev.ownerField (d.fld (Reg.grp_STATE g) 5 4) (d.bit (Reg.grp_STATE g) 9)))
    (hwaiting : d.groupWaiting g < 4) (hgo : v.getLsbD 1 = true) :
    ((grpCmdD fn g v d).grpOf g).cmds = (d.grpOf g).cmds ++ [(d.rd64 (Reg.grp_AT_LO g), v.getLsbD 0)] := by
  have hbit : ¬ bitsOf v.toNat 1 1 = 0 := by
    rw [bitsOf_one, hgo]
    decide
  have hvalue : (bitsOf v.toNat 0 1 == 1) = v.getLsbD 0 := by
    rw [bitsOf_one]
    cases v.getLsbD 0 <;> rfl
  have hlow : Reg.grp_CMD g ≠ Reg.grp_AT_LO g := by grind
  have hhigh : Reg.grp_CMD g ≠ Reg.grp_AT_LO g + 4 := by grind
  have hsafe : ∀ n, Reg.chn_SAFE_CTL n ≠ Reg.grp_AT_LO g := fun n => by
    have := chnBase_ge n
    grind
  have hsafe4 : ∀ n, Reg.chn_SAFE_CTL n ≠ Reg.grp_AT_LO g + 4 := fun n => by
    have := chnBase_ge n
    grind
  obtain ⟨⟨r, p, hend⟩, hrd⟩ := sameButParity_endParity (d.wrN (Reg.grp_CMD g) (bitsOf v.toNat 0 1)) (Reg.grp_CMD g)
  have hgrp : ((d.wrN (Reg.grp_CMD g) (bitsOf v.toNat 0 1)).endParity (Reg.grp_CMD g)).grpOf g = d.grpOf g := by
    rw [hend]
    rfl
  have hat : ((d.wrN (Reg.grp_CMD g) (bitsOf v.toNat 0 1)).endParity (Reg.grp_CMD g)).rd64 (Reg.grp_AT_LO g) = d.rd64 (Reg.grp_AT_LO g) := by
    rw [rd64, rdN, rdN, hrd _ hsafe, hrd _ hsafe4, rd_wrN_ne _ _ hlow, rd_wrN_ne _ _ hhigh]
    rfl
  refine (access_keeps hans _ (q := fun d => (d.grpOf g).cmds) fun _ _ _ => rfl).trans ?_
  rw [if_neg hbit, if_neg hwaiting.not_ge]
  refine (congrArg (fun m : SMap GrpSt => (SMap.get {} m g).cmds) (setFld_grp ..)).trans ?_
  refine (congrArg GrpSt.cmds (grpOf_updGrp_same ..)).trans ?_
  dsimp only
  rw [hgrp, hat, hvalue]

end Dev

/-- Settles O17: the firings by the rule of a held action, the changes by the first of their times. -/
theorem groupsChange : Obligations.GroupsChange := by
  intro s g d
  refine ⟨fun h r t hwaiting => ⟨fun htakes hfew => ?_, fun htakes hfew => ?_⟩, fun fn v hans hwaiting hgo => ?_, fun p hp hfirst hdue hvalid => ?_⟩
  · exact State.runs_of_onDev (exec_groupEnable g s) rfl (Dev.groupFiring_acts htakes hwaiting hfew)
  · exact State.runs_of_onDev (exec_groupDisable g s) rfl (Dev.groupFiring_acts htakes hwaiting hfew)
  · exact State.runs_of_onDev (exec_grpCmd fn g v s) rfl (Dev.grpCmdD_cmds hans hwaiting hgo)
  · exact State.runs_of_onDev (exec_groupChange g s) rfl (Dev.groupChangeD_spec hp hfirst hdue hvalid)

end Sys2Proof.Machine

/-! PROOFS. What the codes of a tick change in a channel (R184, R185), and static loads (R198 to R201). -/
namespace Sys2Proof.Machine

theorem exec_loadStrobe (g : Fin 16) (s : State) : exec (.loadStrobe g) s = s.onDev (loadStrobeD g) := rfl
theorem exec_loadN (lane : Fin 16) (s : State) : exec (.loadN lane) s = s.onDev (loadND lane) := rfl
theorem exec_staticLoad (g : Fin 16) (s : State) : exec (.staticLoad g) s = s.onGuarded (staticLoadD g) := rfl

theorem State.runs_of_onGuarded {s : State} {i : Instr} {f : Guard → Dev → Dev} {post : Dev → Prop} (hexec : exec i s = s.onGuarded f)
    (hpost : post (f s.guard s.dev)) : s.runs i post := ⟨{ s with dev := f s.guard s.dev }, hexec, ⟨rfl, rfl, rfl⟩, hpost⟩

namespace Dev

/-! ## Registers that a firing writes -/

/-- The registers by which the event fabric shows a loop (R212). -/
def isLoopReg (a : Nat) : Prop := a = Reg.evt_EVENTS ∨ a = Reg.evt_LOOP_CNT ∨ ∃ n, a = Reg.ec_EVENTS n

theorem fireAs_rd (d : Dev) (src stamp gen : Nat) (coarse late : Bool) {a : Nat} (ha : ¬ isLoopReg a) :
    (d.fireAs src stamp gen coarse late).rd a = d.rd a := by
  unfold isLoopReg at ha
  push Not at ha
  obtain ⟨hevents, hcnt, hec⟩ := ha
  unfold fireAs
  split
  · rw [rd_of_regs (arrive_regs ..)]
  · rw [rd_of_regs (arrive_regs ..), rd_bump_ne _ hcnt.symm, rd_raise_ne _ _ hevents.symm]
    exact foldl_keeps (Dev.rd · a) _ _ (fun d n => rd_raise_ne _ _ (hec n).symm) d
theorem fire_rd (d : Dev) (src stamp gen : Nat) {a : Nat} (ha : ¬ isLoopReg a) : (d.fire src stamp gen).rd a = d.rd a := fireAs_rd _ _ _ _ _ _ ha

/-- A late action is recorded in the TIME block alone (R31). -/
theorem recordLate_rd (d : Dev) (stamp lateness : Nat) {a : Nat} (ha : a < 0x100000 ∨ 0x100100 ≤ a) : (d.recordLate stamp lateness).rd a = d.rd a := by
  have hne : ∀ b, 0x100000 ≤ b → b < 0x100100 → b ≠ a := by omega
  unfold recordLate
  extract_lets d₁ d₂ d₃
  have h₁ : d₁.rd a = d.rd a := iteInduction (motive := fun x : Dev => x.rd a = d.rd a) (fun _ => rfl)
    fun _ => rd_wr64_ne _ _ (hne _ (by decide) (by decide)) (hne _ (by decide) (by decide))
  have h₂ : d₂.rd a = d₁.rd a := rd_bump_ne _ (hne _ (by decide) (by decide))
  have h₃ : d₃.rd a = d₂.rd a := iteInduction (motive := fun x : Dev => x.rd a = d₂.rd a) (fun _ => rd_wrN_ne _ _ (hne _ (by decide) (by decide))) fun _ => rfl
  rw [rd_of_regs (fireNow_regs ..), rd_raise_ne _ _ (hne _ (by decide) (by decide)), h₃, h₂, h₁]

/-! ## The codes of a tick -/

end Dev

/-- What the codes that pass the guard leave of a channel's record. -/
def Chan.steady (c : Chan) : Chan :=
  { c with path := 0, code := 0, drivenTo := 0, hitTick := none, flagTick := none, pwrBlk := 0, pwrSum := 0, trips := [] }

namespace Dev

/-- From `d` to `d'` codes of channel `n` have passed its guard. -/
structure spanned (n : Nat) (d d' : Dev) : Prop where
  base : ∃ m, d'.base = { d.base with chan := m }
  other : ∀ m, n ≠ m → d'.chanOf m = d.chanOf m
  steady : (d'.chanOf n).steady = (d.chanOf n).steady
  rd : ∀ a, Reg.chn_OUT_EVENTS n ≠ a → Reg.chn_GUARD_CNT n ≠ a → ¬ isLoopReg a → d'.rd a = d.rd a

section spanned
variable {n : Nat} (d : Dev)

theorem spanned_refl : spanned n d d := ⟨⟨_, rfl⟩, fun _ _ => rfl, rfl, fun _ _ _ _ => rfl⟩
variable {d} in
theorem spanned_trans {d' d'' : Dev} (h : spanned n d d') (h' : spanned n d' d'') : spanned n d d'' where
  base := by
    obtain ⟨m, hm⟩ := h.base
    obtain ⟨m', hm'⟩ := h'.base
    exact ⟨m', by rw [hm', hm]⟩
  other m hm := (h'.other m hm).trans (h.other m hm)
  steady := h'.steady.trans h.steady
  rd a h₁ h₂ h₃ := (h'.rd a h₁ h₂ h₃).trans (h.rd a h₁ h₂ h₃)

theorem spanned_updChan {f : Chan → Chan} (hf : ∀ c, (f c).steady = c.steady) : spanned n d (d.updChan n f) where
  base := ⟨_, rfl⟩
  other m hm := chanOf_updChan_ne d f hm
  steady := by rw [updChan_chanOf, hf]
  rd a _ _ _ := rd_of_regs (updChan_regs ..) a
theorem spanned_wrN {a : Nat} (v : Nat) (ha : a = Reg.chn_OUT_EVENTS n ∨ a = Reg.chn_GUARD_CNT n) : spanned n d (d.wrN a v) where
  base := ⟨_, base_wrN ..⟩
  other _ _ := chanOf_of_chan (wrN_chan ..) _
  steady := congrArg Chan.steady (chanOf_of_chan (wrN_chan ..) n)
  rd b h₁ h₂ _ := rd_wrN_ne _ _ (by rcases ha with rfl | rfl <;> assumption)
theorem spanned_fire (src stamp gen : Nat) : spanned n d (d.fire src stamp gen) where
  base := ⟨_, base_fire ..⟩
  other _ _ := fire_chanOf ..
  steady := congrArg Chan.steady (fire_chanOf ..)
  rd _ _ _ ha := fire_rd _ _ _ _ ha

theorem spanned_outFlags (t mask : Nat) : spanned n d (d.outFlags n t mask) := by
  unfold outFlags
  dsimp only
  split
  · exact spanned_refl d
  · split
    · exact spanned_wrN d _ (.inl rfl)
    · exact spanned_trans (spanned_wrN d _ (.inl rfl)) (spanned_updChan _ fun _ => rfl)
theorem spanned_measure (k : GuardCh) (t sum : Nat) (whole : Bool) : spanned n d (measure k d n t sum whole) := spanned_updChan d fun _ => rfl
theorem spanned_guardHit (t : Nat) : spanned n d (d.guardHit n t) := by
  unfold guardHit
  split
  · exact spanned_refl d
  · exact spanned_trans (spanned_trans (spanned_wrN d _ (.inr rfl)) (spanned_fire ..)) (spanned_updChan _ fun _ => rfl)
theorem spanned_driveSpan (g : Guard) (t upto flags : Nat) : spanned n d (driveSpan g d n t upto flags) := by
  unfold driveSpan
  extract_lets k times codes run d₁ d₂ d₃
  have h₁ : spanned n d d₁ := spanned_updChan d fun _ => rfl
  have h₂ : spanned n d₁ d₂ := spanned_measure ..
  have h₃ : spanned n d₂ d₃ := spanned_outFlags ..
  split
  · exact spanned_outFlags ..
  · have hspan := spanned_trans (spanned_trans h₁ h₂) h₃
    split
    · exact hspan
    · exact spanned_trans hspan (spanned_guardHit ..)

theorem spanned_drive (g : Guard) (t : Nat) (x : Int) : spanned n d (drive g d n t x) :=
  spanned_trans (spanned_driveSpan ..) (spanned_updChan _ fun _ => rfl)
theorem drive_path (g : Guard) (t : Nat) (x : Int) : ((drive g d n t x).chanOf n).path = x := congrArg Chan.path (updChan_chanOf ..)
end spanned

/-! ## A fold in which each step has an object of its own -/

/-- A property that every step of a fold keeps holds at its end. -/
theorem foldl_invariant {ι : Type} {l : List ι} {f : Dev → ι → Dev} {P : Dev → Prop} (hP : ∀ d, ∀ i ∈ l, P d → P (f d i)) {d : Dev} (hd : P d) :
    P (l.foldl f d) := by
  induction l generalizing d with
  | nil => exact hd
  | cons x r ih => exact ih (fun d i hi => hP d i (List.mem_cons_of_mem _ hi)) (hP _ _ List.mem_cons_self hd)

/-- Where the steps of a fold change only what belongs to their own element, each finds what it works on as it stood. -/
theorem foldl_each {ι β : Type} {l : List ι} {f : Dev → ι → Dev} {P : Dev → Prop} {q : ι → Dev → β} (hP : ∀ d, ∀ i ∈ l, P d → P (f d i))
    (hother : ∀ d, ∀ i ∈ l, ∀ j, P d → i ≠ j → q j (f d i) = q j d) (hnodup : l.Nodup) {d : Dev} (hd : P d) {i : ι} (hi : i ∈ l) :
    ∃ d₀, P d₀ ∧ q i d₀ = q i d ∧ q i (l.foldl f d) = q i (f d₀ i) := by
  induction l generalizing d with
  | nil => cases hi
  | cons x r ih =>
    obtain ⟨hx, hr⟩ := List.nodup_cons.mp hnodup
    have hP' : ∀ d, ∀ j ∈ r, P d → P (f d j) := fun d j hj => hP d j (List.mem_cons_of_mem _ hj)
    have hnext := hP _ _ List.mem_cons_self hd
    rw [List.foldl_cons]
    rcases List.mem_cons.mp hi with rfl | hi
    · have hrest : P (r.foldl f (f d i)) ∧ q i (r.foldl f (f d i)) = q i (f d i) :=
        foldl_invariant (P := fun e => P e ∧ q i e = q i (f d i))
          (fun e j hj he => ⟨hP' e j hj he.1, (hother e j (List.mem_cons_of_mem _ hj) i he.1 fun h => hx (h ▸ hj)).trans he.2⟩) ⟨hnext, rfl⟩
      exact ⟨d, hd, rfl, hrest.2⟩
    · obtain ⟨d₀, hP₀, h₀, hlast⟩ := ih hP' (fun d j hj => hother d j (List.mem_cons_of_mem _ hj)) hr hnext hi
      have hne : x ≠ i := fun h => hx (h ▸ hi)
      exact ⟨d₀, hP₀, h₀.trans (hother _ _ List.mem_cons_self _ hd hne), hlast⟩

/-! ## A static code is applied (R198, R200) -/

/-- From `d` to `d'` a static code of channel `n` may have been applied. -/
structure staticStep (n : Nat) (d d' : Dev) : Prop where
  base : ∃ m i, d'.base = { d.base with chan := m, inforce := i }
  other : ∀ m, n ≠ m → d'.chanOf m = d.chanOf m
  inforce : ∀ a, Reg.chn_STATIC_CODE n ≠ a → SMap.get none d'.inforce a = SMap.get none d.inforce a
  rd : ∀ a, Reg.chn_OUT_EVENTS n ≠ a → Reg.chn_GUARD_CNT n ≠ a → ¬ isLoopReg a → d'.rd a = d.rd a

/-- The static codes of a channel that a strobe for device time `t` leaves waiting. -/
def staticsLeft (d : Dev) (n t : Nat) : List (Nat × Word) := (d.chanOf n).statics.takeWhile (fun x => !decide (x.1 + 2 ≤ t / 16))

/-- The last static code that was written in time leaves the waiting ones, and is in force. -/
def staticTaken (d : Dev) (n t : Nat) (v : Word) : Dev :=
  let later := d.staticsLeft n t
  let d := d.updChan n (fun (c : Chan) => { c with statics := later })
  if later.isEmpty then d.settle (Reg.chn_STATIC_CODE n) else { d with inforce := SMap.set none d.inforce (Reg.chn_STATIC_CODE n) (some v) }

theorem applyStatic_of_late {g : Guard} {d : Dev} {n t : Nat} (h : (d.chanOf n).statics.find? (fun x => decide (x.1 + 2 ≤ t / 16)) = none) :
    applyStatic g d n t = d := by
  unfold applyStatic
  simp only [h]
theorem applyStatic_of_inTime {g : Guard} {d : Dev} {n t : Nat} {p : Nat × Word}
    (h : (d.chanOf n).statics.find? (fun x => decide (x.1 + 2 ≤ t / 16)) = some p) :
    applyStatic g d n t = drive g (d.staticTaken n t p.2) n t (sext 16 (bitsOf p.2.toNat 0 16)) := by
  unfold applyStatic
  simp only [h]
  rfl

section staticTaken
variable (d : Dev) (n t : Nat) (v : Word)

theorem staticTaken_chan : (d.staticTaken n t v).chan = (d.updChan n (fun (c : Chan) => { c with statics := d.staticsLeft n t })).chan :=
  iteInduction (motive := fun x : Dev => x.chan = _) (fun _ => settle_chan ..) fun _ => rfl
theorem staticTaken_statics : ((d.staticTaken n t v).chanOf n).statics = d.staticsLeft n t := by
  rw [chanOf_of_chan (staticTaken_chan ..), updChan_chanOf]
theorem staticTaken_inforce {a : Nat} (h : Reg.chn_STATIC_CODE n ≠ a) : SMap.get none (d.staticTaken n t v).inforce a = SMap.get none d.inforce a := by
  unfold staticTaken settle
  dsimp only
  split
  · rw [SMap.get_set_ne _ _ _ _ h, updChan_inforce]
  · rw [SMap.get_set_ne _ _ _ _ h, updChan_inforce]
theorem staticTaken_held (h : d.staticsLeft n t = []) : (d.staticTaken n t v).held (Reg.chn_STATIC_CODE n) = false := by
  have hempty : (d.staticsLeft n t).isEmpty = true := by rw [h]; rfl
  unfold staticTaken
  dsimp only
  rw [if_pos hempty]
  unfold settle held
  dsimp only
  rw [SMap.get_set_same]
  rfl

theorem staticStep_staticTaken : staticStep n d (d.staticTaken n t v) where
  base := iteInduction (motive := fun x : Dev => ∃ m i, x.base = { d.base with chan := m, inforce := i }) (fun _ => ⟨_, _, rfl⟩) fun _ => ⟨_, _, rfl⟩
  other m hm := by rw [chanOf_of_chan (staticTaken_chan ..), chanOf_updChan_ne d _ hm]
  inforce _ ha := staticTaken_inforce _ _ _ _ ha
  rd a _ _ _ := iteInduction (motive := fun x : Dev => x.rd a = d.rd a) (fun _ => rfl) fun _ => rfl

theorem staticStep_applyStatic (g : Guard) : staticStep n d (applyStatic g d n t) := by
  cases hfind : (d.chanOf n).statics.find? (fun x => decide (x.1 + 2 ≤ t / 16)) with
  | none =>
    rw [applyStatic_of_late hfind]
    exact ⟨⟨_, _, rfl⟩, fun _ _ => rfl, fun _ _ => rfl, fun _ _ _ _ => rfl⟩
  | some p =>
    rw [applyStatic_of_inTime hfind]
    have htaken := staticStep_staticTaken d n t p.2
    have hdrive := spanned_drive (n := n) (d.staticTaken n t p.2) g t (sext 16 (bitsOf p.2.toNat 0 16))
    obtain ⟨m, i, hbase⟩ := htaken.base
    obtain ⟨m', hbase'⟩ := hdrive.base
    have hforce := congrArg Dev.inforce hbase'
    refine ⟨⟨m', i, by rw [hbase', hbase]⟩, fun k hk => (hdrive.other k hk).trans (htaken.other k hk), fun a ha => ?_,
      fun a h₁ h₂ h₃ => (hdrive.rd a h₁ h₂ h₃).trans (htaken.rd a h₁ h₂ h₃)⟩
    rw [← htaken.inforce a ha]
    exact congrArg (SMap.get none · a) hforce

variable {d n t v} in
/-- At a strobe the last code that was written in time is taken, and those written later wait. -/
theorem applyStatic_spec (g : Guard) {later rest : List (Nat × Word)} {p : Nat × Word} (hstatics : (d.chanOf n).statics = later ++ p :: rest)
    (hlater : ∀ x ∈ later, t / 16 < x.1 + 2) (hp : p.1 + 2 ≤ t / 16) :
    ((applyStatic g d n t).chanOf n).statics = later ∧ ((applyStatic g d n t).chanOf n).path = (p.2.extractLsb' 0 16).toInt ∧
      (later = [] → (applyStatic g d n t).held (Reg.chn_STATIC_CODE n) = false) := by
  have hfind : (d.chanOf n).statics.find? (fun x => decide (x.1 + 2 ≤ t / 16)) = some p := by
    rw [hstatics, List.find?_append, List.find?_eq_none.mpr fun x hx => by simpa using hlater x hx, Option.none_or, List.find?_cons_of_pos (by simpa using hp)]
  have hleft : d.staticsLeft n t = later := by
    unfold staticsLeft
    rw [hstatics, List.takeWhile_append_of_pos fun x hx => by simpa using hlater x hx, List.takeWhile_cons_of_neg (by simpa using hp), List.append_nil]
  have hcode : sext 16 (bitsOf p.2.toNat 0 16) = (p.2.extractLsb' 0 16).toInt := by
    unfold sext bitsOf
    rw [BitVec.toInt_eq_toNat_cond, BitVec.extractLsb'_toNat]
    simp only [Nat.shiftRight_zero, pow_zero, Nat.div_one, Nat.mod_mod]
    split <;> split <;> omega
  rw [applyStatic_of_inTime hfind]
  have hdrive := spanned_drive (n := n) (d.staticTaken n t p.2) g t (sext 16 (bitsOf p.2.toNat 0 16))
  refine ⟨(congrArg Chan.statics hdrive.steady).trans ((staticTaken_statics ..).trans hleft), (drive_path ..).trans hcode, fun hnone => ?_⟩
  obtain ⟨m, hbase⟩ := hdrive.base
  refine (congrArg (fun i : SMap (Option Word) => (SMap.get none i (Reg.chn_STATIC_CODE n)).isSome) (congrArg Dev.inforce hbase :)).trans ?_
  exact staticTaken_held _ _ _ _ (hleft.trans hnone)
end staticTaken

/-! ## A strobe's static codes are loaded (R198, R199) -/

/-- Registers that say whose a channel is and what it takes are as before, and so is the partition table. -/
structure sameGrants (d d' : Dev) : Prop where
  ptab : d'.ptab = d.ptab
  part : ∀ p, d'.rd (Reg.part_STATE p) = d.rd (Reg.part_STATE p)
  chan : ∀ n, d'.rd (Reg.chn_CFG n) = d.rd (Reg.chn_CFG n) ∧ d'.rd (Reg.chn_STATIC_CFG n) = d.rd (Reg.chn_STATIC_CFG n)
  group : ∀ g, d'.rd (Reg.lg_CFG g) = d.rd (Reg.lg_CFG g)

section sameGrants
variable {d d' : Dev} (h : sameGrants d d')
include h

theorem sameGrants_partOn (p : Nat) : d'.partOn p = d.partOn p := by
  unfold partOn fld rdN
  rw [h.part]
theorem sameGrants_chOwner (n : Nat) : d'.chOwner n = d.chOwner n := by
  unfold chOwner partWhere grantsHalf ptabW
  simp only [sameGrants_partOn h, h.ptab]
theorem sameGrants_lgOwner (g : Nat) : d'.lgOwner g = d.lgOwner g := by
  unfold lgOwner fld bit rdN
  simp only [h.group, sameGrants_partOn h]
theorem sameGrants_members (g : Nat) : d'.members g = d.members g := by
  unfold members chMode fld rdN
  simp only [(h.chan _).1, (h.chan _).2, sameGrants_chOwner h, sameGrants_lgOwner h]
end sameGrants

/-- The strobe is taken: an edge stamped in COARSE is recorded as late (R35), the action is dropped and the strobe counted. -/
def strobeTaken (d : Dev) (g : Nat) (a : Act) (t : Nat) : Dev :=
  ((if a.value = 1 then (d.raise (Reg.tin_EVENTS (400 + g)) 4).recordLate a.stamp (t - a.time) else d).dropAct (400 + g) a).bump (Reg.lg_STROBES g)

theorem staticLoadD_of_due {d : Dev} {g : Guard} {lg : Fin 16} {a : Act} (ha : earliest (d.tinOf (400 + lg)).acts = some a) (hdue : d.due a.time = true)
    (hvalid : d.timeValid = true) {t : Nat} (ht : t = if a.value = 1 then max a.time d.nextTick else a.time) :
    staticLoadD lg g d = ((d.strobeTaken lg a t).members lg).foldl (fun d n => applyStatic g d n t) (d.strobeTaken lg a t) := by
  have hgo : ¬ ((!d.due a.time) = true ∨ (!d.timeValid) = true) := by
    rw [hdue, hvalid]
    decide
  subst ht
  unfold staticLoadD
  rw [ha]
  dsimp only
  rw [if_neg hgo]
  rfl

theorem chn_STATIC_CODE_ne {i j : Nat} (h : i ≠ j) : Reg.chn_STATIC_CODE i ≠ Reg.chn_STATIC_CODE j := by
  unfold Reg.chn_STATIC_CODE chnBase
  omega

/-- No load group's register lies within a channel. -/
theorem chnBase_ne_lg (n g : Nat) (hg : g < 16) (r : Nat) (hr : r < 0x4000) : Reg.lg_STROBES g ≠ chnBase n + r := by
  unfold Reg.lg_STROBES chnBase
  omega

section strobeTaken
variable (d : Dev) (g : Nat) (a : Act) (t : Nat)

/-- What is recorded of a strobe that acts late. -/
def strobeLate : Dev := if a.value = 1 then (d.raise (Reg.tin_EVENTS (400 + g)) 4).recordLate a.stamp (t - a.time) else d

theorem strobeLate_base : (d.strobeLate g a t).base = d.base :=
  iteInduction (motive := fun x : Dev => x.base = d.base) (fun _ => (base_recordLate ..).trans (base_raise ..)) fun _ => rfl
theorem strobeTaken_eq : d.strobeTaken g a t = ((d.strobeLate g a t).dropAct (400 + g) a).bump (Reg.lg_STROBES g) := rfl
theorem strobeTaken_rd {b : Nat} (h : b < 0x100000 ∨ 0x230000 ≤ b) (hne : Reg.lg_STROBES g ≠ b) (hg : g < 16) :
    (d.strobeTaken g a t).rd b = d.rd b := by
  have hevents : Reg.tin_EVENTS (400 + g) ≠ b := by grind
  have hstate : Reg.tin_STATE (400 + g) ≠ b := by grind
  have hlate : b < 0x100000 ∨ 0x100100 ≤ b := by omega
  rw [strobeTaken_eq, rd_bump_ne _ hne, dropAct_rd _ _ _ hstate]
  exact iteInduction (motive := fun x : Dev => x.rd b = d.rd b) (fun _ => (recordLate_rd _ _ _ hlate).trans (rd_raise_ne _ _ hevents)) fun _ => rfl
theorem strobeTaken_acts : ((d.strobeTaken g a t).tinOf (400 + g)).acts = (d.tinOf (400 + g)).acts.erase a := by
  rw [strobeTaken_eq, tinOf, bump_tin, ← tinOf, dropAct_tinOf]
  exact congrArg (fun m : SMap TinSt => (SMap.get {} m (400 + g)).acts.erase a) (tin_of_base (strobeLate_base ..))
theorem strobeTaken_count (hg : g < 16) : (d.strobeTaken g a t).rdN (Reg.lg_STROBES g) = min (2^32 - 1) (d.rdN (Reg.lg_STROBES g) + 1) := by
  have hevents : Reg.tin_EVENTS (400 + g) ≠ Reg.lg_STROBES g := by grind
  have hstate : Reg.tin_STATE (400 + g) ≠ Reg.lg_STROBES g := by grind
  have hlate : (d.strobeLate g a t).rd (Reg.lg_STROBES g) = d.rd (Reg.lg_STROBES g) :=
    iteInduction (motive := fun x : Dev => x.rd _ = d.rd _) (fun _ => (recordLate_rd _ _ _ (.inr (by grind))).trans (rd_raise_ne _ _ hevents)) fun _ => rfl
  rw [strobeTaken_eq, rdN_bump_same, rdN, dropAct_rd _ _ _ hstate, hlate]
  rfl
theorem applyTin_chan (i : Nat) : (d.applyTin i).chan = d.chan :=
  iteInduction (motive := fun x : Dev => x.chan = d.chan) (fun _ => (settle_chan ..).trans (settle_chan ..)) fun _ => rfl
theorem applyTin_ptab (i : Nat) : (d.applyTin i).ptab = d.ptab :=
  iteInduction (motive := fun x : Dev => x.ptab = d.ptab) (fun _ => (settle_ptab ..).trans (settle_ptab ..)) fun _ => rfl
theorem strobeTaken_chan : (d.strobeTaken g a t).chan = d.chan :=
  ((bump_chan ..).trans ((applyTin_chan ..).trans ((setFld_chan ..).trans (updTin_chan ..)))).trans (chan_of_base (strobeLate_base d g a t))
theorem strobeTaken_ptab : (d.strobeTaken g a t).ptab = d.ptab :=
  ((bump_ptab ..).trans ((applyTin_ptab ..).trans ((setFld_ptab ..).trans (updTin_ptab ..)))).trans (ptab_of_base (strobeLate_base d g a t))
theorem sameGrants_strobeTaken (hg : g < 16) : sameGrants d (d.strobeTaken g a t) where
  ptab := strobeTaken_ptab ..
  part p := strobeTaken_rd _ _ _ _ (.inr (by grind)) (by grind) hg
  chan n := by
    have hbase := chnBase_ge n
    have hsep := chnBase_ne_lg n
    exact ⟨strobeTaken_rd _ _ _ _ (.inr (by grind)) (hsep _ hg 0 (by decide)) hg, strobeTaken_rd _ _ _ _ (.inr (by grind)) (hsep _ hg 0x180c (by decide)) hg⟩
  group n := strobeTaken_rd _ _ _ _ (.inr (by grind)) (by grind) hg
end strobeTaken

theorem staticLoadD_spec {d : Dev} {g : Guard} {lg : Fin 16} {a : Act} (ha : earliest (d.tinOf (400 + lg)).acts = some a) (hdue : d.due a.time = true)
    (hvalid : d.timeValid = true) {t : Nat} (ht : t = if a.value = 1 then max a.time d.nextTick else a.time) :
    ((staticLoadD lg g d).tinOf (400 + lg)).acts = (d.tinOf (400 + lg)).acts.erase a ∧
      (staticLoadD lg g d).rdN (Reg.lg_STROBES lg) = min (2^32 - 1) (d.rdN (Reg.lg_STROBES lg) + 1) ∧
      ∀ n ∈ d.members lg, ∃ d₀ : Dev, d₀.chanOf n = d.chanOf n ∧ (staticLoadD lg g d).chanOf n = (applyStatic g d₀ n t).chanOf n ∧
        (staticLoadD lg g d).held (Reg.chn_STATIC_CODE n) = (applyStatic g d₀ n t).held (Reg.chn_STATIC_CODE n) := by
  have hmembers := sameGrants_members (sameGrants_strobeTaken d lg a t lg.isLt) lg
  rw [staticLoadD_of_due ha hdue hvalid ht, hmembers]
  have htin : ((d.members lg).foldl (fun d n => applyStatic g d n t) (d.strobeTaken lg a t)).tin = (d.strobeTaken lg a t).tin := by
    refine foldl_keeps Dev.tin _ _ ?_ _
    intro d n
    obtain ⟨m, i, hbase⟩ := (staticStep_applyStatic d n t g).base
    exact (congrArg Dev.tin hbase :)
  have hcount : ((d.members lg).foldl (fun d n => applyStatic g d n t) (d.strobeTaken lg a t)).rd (Reg.lg_STROBES lg) = (d.strobeTaken lg a t).rd (Reg.lg_STROBES lg) := by
    refine foldl_keeps (Dev.rd · _) _ _ ?_ _
    intro d n
    have hsep := chnBase_ne_lg n lg lg.isLt
    exact (staticStep_applyStatic d n t g).rd _ (hsep 8 (by decide)).symm (hsep 0x1020 (by decide)).symm (by unfold isLoopReg; grind)
  refine ⟨?_, ?_, fun n hn => ?_⟩
  · rw [tinOf, htin]
    exact strobeTaken_acts ..
  · rw [rdN, hcount]
    exact strobeTaken_count _ _ _ _ lg.isLt
  · have hnodup : (d.members lg).Nodup := List.nodup_range.filter _
    obtain ⟨d₀, -, hbefore, hafter⟩ := foldl_each (P := fun _ => True) (f := fun d n => applyStatic g d n t)
      (q := fun n d => (d.chanOf n, SMap.get none d.inforce (Reg.chn_STATIC_CODE n))) (fun _ _ _ _ => trivial)
      (fun d i _ j _ hij => Prod.ext ((staticStep_applyStatic d i t g).other j hij) ((staticStep_applyStatic d i t g).inforce _ (chn_STATIC_CODE_ne hij)))
      hnodup (d := d.strobeTaken lg a t) trivial hn
    obtain ⟨hchan, -⟩ := Prod.mk.inj hbefore
    obtain ⟨hchan', hforce'⟩ := Prod.mk.inj hafter
    exact ⟨d₀, hchan.trans (chanOf_of_chan (strobeTaken_chan ..) n), hchan', congrArg Option.isSome hforce'⟩

/-! ## An edge of LOAD_N (R199, R201) -/

/-- What an edge of LOAD_N at `t`, in RUN, schedules at load group `g`. -/
def edgeAt (t : Nat) (d : Dev) (g : Nat) : Dev :=
  if d.fromPin g && !d.lgBad g then
    match d.actTime (400 + g) (d.rdN (Reg.lg_LAT g)) ⟨1023, t, 0, false, false⟩ with
    | (none, d) => d
    | (some x, d) => d.addAct (400 + g) ⟨x, t, 0, 0⟩
  else d

/-- The time of the last edge is kept. -/
def edgeNoted (d : Dev) (t : Nat) : Dev := { d with loadnAt := some t }
/-- The edge's stamp is kept and shown (R201). -/
def edgeStamped (d : Dev) (t : Nat) : Dev := ((d.edgeNoted t).wr64 Reg.lgPage_LOADN_AT_LO t).raise Reg.lgPage_LG_STATUS 2

/-- From `d` to `d'` input states and the TIME block's flags may have changed. -/
structure edgeKeeps (d d' : Dev) : Prop where
  only : ∃ r m, d' = { d with regs := r, tin := m }
  rd : ∀ a, a < 0x10000c ∨ (0x100010 ≤ a ∧ a < 0x220000) ∨ 0x230000 ≤ a → d'.rd a = d.rd a

section edgeKeeps
variable {d d' : Dev} (h : edgeKeeps d d')
include h

theorem edgeKeeps_nowT : d'.nowT = d.nowT := by
  refine nowT_of_rd (h.rd _ (by decide)) ?_
  obtain ⟨r, m, rfl⟩ := h.only
  rfl
theorem edgeKeeps_group (g : Nat) : d'.fromPin g = d.fromPin g ∧ d'.lgBad g = d.lgBad g ∧ d'.rdN (Reg.lg_LAT g) = d.rdN (Reg.lg_LAT g) := by
  refine ⟨?_, ?_, congrArg BitVec.toNat (h.rd _ (by grind))⟩
  · unfold fromPin bit
    rw [h.rd _ (by grind)]
  · obtain ⟨r, m, rfl⟩ := h.only
    rfl
end edgeKeeps

section edgeAt
variable {d : Dev} {t : Nat} (hnow : d.nowT ≤ t) (g : Nat)
include hnow

theorem edgeAt_eq : edgeAt t d g =
    if d.fromPin g && !d.lgBad g then
      if 2^64 ≤ t + d.rdN (Reg.lg_LAT g) then d.raise Reg.time_EVENTS 64 else d.addAct (400 + g) ⟨t + d.rdN (Reg.lg_LAT g), t, 0, 0⟩
    else d := by
  unfold edgeAt
  refine ite_congr rfl (fun _ => ?_) fun _ => rfl
  by_cases hmax : 2^64 ≤ t + d.rdN (Reg.lg_LAT g)
  · rw [if_pos hmax]
    unfold actTime
    rw [if_pos hmax]
  · rw [if_neg hmax, actTime_onTime (f := ⟨1023, t, 0, false, false⟩) (not_le.mp hmax) rfl rfl (hnow.trans (Nat.le_add_right ..))]

theorem edgeKeeps_edgeAt (hg : g < 16) : edgeKeeps d (edgeAt t d g) := by
  rw [edgeAt_eq hnow]
  split
  · split
    · exact ⟨⟨_, _, rfl⟩, fun a ha => rd_raise_ne _ _ (by grind)⟩
    · exact ⟨⟨_, _, rfl⟩, fun a ha => addAct_rd _ _ _ (by grind)⟩
  · exact ⟨⟨_, _, rfl⟩, fun _ _ => rfl⟩
theorem edgeAt_other {j : Nat} (hj : g ≠ j) : (edgeAt t d g).tinOf (400 + j) = d.tinOf (400 + j) := by
  have hne : 400 + g ≠ 400 + j := by omega
  rw [edgeAt_eq hnow]
  split
  · split
    · rw [tinOf, raise_tin, ← tinOf]
    · exact addAct_tinOf_ne _ _ _ hne
  · rfl
theorem edgeAt_acts (hpin : d.fromPin g = true) (hbad : d.lgBad g = false) (hmax : t + d.rdN (Reg.lg_LAT g) < 2^64) :
    ((edgeAt t d g).tinOf (400 + g)).acts = (d.tinOf (400 + g)).acts ++ [⟨t + d.rdN (Reg.lg_LAT g), t, 0, 0⟩] := by
  have hgo : (d.fromPin g && !d.lgBad g) = true := by
    rw [hpin, hbad]
    rfl
  rw [edgeAt_eq hnow, if_pos hgo, if_neg hmax.not_ge, addAct_tinOf]
end edgeAt

theorem edgeStamped_rd (d : Dev) (t : Nat) {a : Nat} (ha : a < 0xF80000 ∨ 0xF80100 ≤ a) : (d.edgeStamped t).rd a = d.rd a := by
  have hlow : Reg.lgPage_LOADN_AT_LO ≠ a := by grind
  have hhigh : Reg.lgPage_LOADN_AT_LO + 4 ≠ a := by grind
  have hstatus : Reg.lgPage_LG_STATUS ≠ a := by grind
  unfold edgeStamped
  rw [rd_raise_ne _ _ hstatus, rd_wr64_ne _ _ hlow hhigh]
  rfl
theorem edgeStamped_loadnAt (d : Dev) (t : Nat) : (d.edgeStamped t).loadnAt = some t := (raise_loadnAt ..).trans (wr64_loadnAt ..)
theorem edgeStamped_tin (d : Dev) (t : Nat) : (d.edgeStamped t).tin = d.tin := (raise_tin ..).trans (wr64_tin ..)
theorem edgeStamped_parity (d : Dev) (t : Nat) : (d.edgeStamped t).parity = d.parity := (raise_parity ..).trans (wr64_parity ..)
theorem edgeStamped_nowT (d : Dev) (t : Nat) : (d.edgeStamped t).nowT = d.nowT := nowT_of_rd (edgeStamped_rd d t (.inl (by decide)))
    ((raise_time ..).trans (wr64_time ..))
theorem edgeStamped_stamp (d : Dev) {t : Nat} (ht : t < 2^64) : (d.edgeStamped t).rd64 Reg.lgPage_LOADN_AT_LO = t := by
  unfold edgeStamped rd64
  rw [rdN_raise_ne _ _ (by decide), rdN_raise_ne _ _ (by decide)]
  exact rd64_wr64 _ _ _ ht

theorem loadND_of_run {d : Dev} {lane : Fin 16} (hvalid : d.timeValid = true) (hrun : d.timeState = 2)
    (hfirst : ∀ t₀, d.loadnAt = some t₀ → t₀ + 16 ≤ d.time.now + lane) :
    loadND lane d = (List.range 16).foldl (edgeAt (d.time.now + lane)) (d.edgeStamped (d.time.now + lane)) := by
  have hstamp : d.stampAt lane = (d.time.now + lane, false) := if_pos hrun
  have hvalid' : (d.edgeStamped (d.time.now + lane)).timeValid = true := by
    unfold timeValid bit
    rw [edgeStamped_rd d _ (.inl (by decide))]
    exact hvalid
  have hgo : ¬ (!(d.edgeStamped (d.time.now + lane)).timeValid) = true := by
    rw [hvalid']
    decide
  unfold loadND
  rw [hstamp]
  cases hat : d.loadnAt with
  | none => exact (if_neg Bool.false_ne_true).trans (if_neg hgo)
  | some t₀ =>
    have hlater : ¬ decide (d.time.now + lane.val < t₀ + 16) = true := by simpa using hfirst t₀ hat
    exact (if_neg hlater).trans (if_neg hgo)

/-- An edge of LOAD_N is stamped, and each group that takes its strobes from the pin schedules one for stamp + LAT. -/
theorem loadND_spec {d : Dev} {g lane : Fin 16} (hvalid : d.timeValid = true) (hrun : d.timeState = 2) (hend : d.time.now + 16 ≤ 2^64)
    (hfirst : ∀ t₀, d.loadnAt = some t₀ → t₀ + 16 ≤ d.time.now + lane) :
    (loadND lane d).loadnAt = some (d.time.now + lane.val) ∧ (loadND lane d).rd64 Reg.lgPage_LOADN_AT_LO = d.time.now + lane ∧
      (d.fromPin g = true → d.lgBad g = false → d.time.now + lane + d.rdN (Reg.lg_LAT g) < 2^64 →
        ((loadND lane d).tinOf (400 + g)).acts =
          (d.tinOf (400 + g)).acts ++ [⟨d.time.now + lane + d.rdN (Reg.lg_LAT g), d.time.now + lane, 0, 0⟩]) := by
  have hnow : ∀ d', edgeKeeps (d.edgeStamped (d.time.now + lane)) d' → d'.nowT ≤ d.time.now + lane := by
    intro d' h
    rw [edgeKeeps_nowT h, edgeStamped_nowT, nowT, if_pos hrun]
    exact Nat.le_add_right ..
  have hstep : ∀ d', ∀ i ∈ List.range 16, edgeKeeps (d.edgeStamped (d.time.now + lane)) d' →
      edgeKeeps (d.edgeStamped (d.time.now + lane)) (edgeAt (d.time.now + lane) d' i) := by
    intro d' i hi h
    have h' := edgeKeeps_edgeAt (hnow d' h) i (List.mem_range.mp hi)
    obtain ⟨r, m, hd'⟩ := h.only
    obtain ⟨r', m', hd''⟩ := h'.only
    exact ⟨⟨r', m', by rw [hd'', hd']⟩, fun a ha => (h'.rd a ha).trans (h.rd a ha)⟩
  have hrefl : edgeKeeps (d.edgeStamped (d.time.now + lane)) (d.edgeStamped (d.time.now + lane)) := ⟨⟨_, _, rfl⟩, fun _ _ => rfl⟩
  have hall := foldl_invariant hstep hrefl
  rw [loadND_of_run hvalid hrun hfirst]
  refine ⟨?_, ?_, fun hpin hbad hmax => ?_⟩
  · obtain ⟨r, m, h⟩ := hall.only
    rw [h]
    exact edgeStamped_loadnAt d _
  · have hlane := lane.isLt
    rw [rd64, rdN, rdN, hall.rd _ (by decide), hall.rd _ (by decide)]
    exact edgeStamped_stamp d (by omega)
  · obtain ⟨d₀, hP, hbefore, hafter⟩ := foldl_each (q := fun i d => d.tinOf (400 + i)) hstep
      (fun d' i hi j h hij => edgeAt_other (hnow d' h) i hij) List.nodup_range hrefl (List.mem_range.mpr g.isLt)
    obtain ⟨hpin', hbad', hlat'⟩ := edgeKeeps_group hP g
    have hpin₀ : (d.edgeStamped (d.time.now + lane)).fromPin g = d.fromPin g := by
      unfold fromPin bit
      rw [edgeStamped_rd d _ (.inr (by grind))]
    have hlat₀ : (d.edgeStamped (d.time.now + lane)).rdN (Reg.lg_LAT g) = d.rdN (Reg.lg_LAT g) := by
      unfold rdN
      rw [edgeStamped_rd d _ (.inr (by grind))]
    have hbad₀ : (d.edgeStamped (d.time.now + lane)).lgBad g = d.lgBad g := by
      unfold lgBad corrupt
      rw [edgeStamped_parity]
    rw [hlat₀] at hlat'
    have hacts := edgeAt_acts (hnow d₀ hP) g (hpin'.trans (hpin₀.trans hpin)) (hbad'.trans (hbad₀.trans hbad)) (by rw [hlat']; exact hmax)
    rw [congrArg TinSt.acts hafter, hacts, hlat', congrArg TinSt.acts hbefore]
    exact congrArg (fun m : SMap TinSt => (SMap.get {} m (400 + g)).acts ++ _) (edgeStamped_tin ..)

end Dev

/-- Settles O18: a strobe is held as any firing is; an edge of LOAD_N holds one for each of its groups; a strobe's members take their codes one
after the other, and each finds its own as it stood. -/
theorem staticLoadsApply : Obligations.StaticLoadsApply := by
  intro s g d i
  refine ⟨fun h r t hbad hpin htakes hfew => ?_, fun lane hvalid hrun hend hfirst => ?_, fun a ha hdue hvalid => ?_⟩
  · refine State.runs_of_onDev (exec_loadStrobe g s) (if_neg (ne_true_of_eq_false hbad)) ?_
    exact Dev.holdFiring_acts htakes hpin hfew
  · exact State.runs_of_onDev (exec_loadN lane s) rfl (Dev.loadND_spec hvalid hrun hend hfirst)
  · obtain ⟨hacts, hcount, heach⟩ := Dev.staticLoadD_spec (g := s.guard) ha hdue hvalid rfl
    refine State.runs_of_onGuarded (exec_staticLoad g s) ⟨hacts, hcount, fun n hn later p rest hstatics hlater hp => ?_⟩
    obtain ⟨d₀, hbefore, hafter, hheld⟩ := heach n hn
    obtain ⟨hleft, hpath, hdone⟩ := Dev.applyStatic_spec s.guard (by rw [hbefore]; exact hstatics) hlater hp
    rw [hafter, hheld]
    exact ⟨hleft, hpath, hdone⟩

end Sys2Proof.Machine

/-! PROOFS. Trigger outputs (R223, R227). -/
namespace Sys2Proof.Machine

theorem exec_triggerOutput (k : Fin 8) (s : State) : exec (.triggerOutput k) s = s.onDev (triggerOutputD k) := rfl
theorem exec_triggerOutputAction (k : Fin 8) (s : State) : exec (.triggerOutputAction k) s = s.onGuarded (triggerOutputActionD k) := rfl
theorem exec_pulseEnd (k : Fin 8) (s : State) : exec (.pulseEnd k) s = s.onDev (pulseEndD k) := rfl

namespace Dev

/-! ## The loss of an action at a rate limit -/

section overrunWith
variable (d : Dev) {i : Nat} (stamp flags : Nat) (hi : 320 ≤ i)
include hi

theorem overrunWith_eq : d.overrunWith i stamp flags = ((d.firstLoss i stamp).raise (Reg.tin_EVENTS i) (2 + flags)).bump (Reg.tin_OVR_CNT i) :=
  (if_neg (by omega)).trans (if_neg (by omega))
theorem overrunWith_rd {a : Nat} (ha : a < 0x220000 ∨ 0x230000 ≤ a) (hmax : i < 512) : (d.overrunWith i stamp flags).rd a = d.rd a := by
  have hcnt : Reg.tin_OVR_CNT i ≠ a := by grind
  have hevents : Reg.tin_EVENTS i ≠ a := by grind
  have hfirst : Reg.tin_OVR_FIRST_LO i ≠ a := by grind
  have hfirst4 : Reg.tin_OVR_FIRST_LO i + 4 ≠ a := by grind
  rw [overrunWith_eq d _ _ hi, rd_bump_ne _ hcnt, rd_raise_ne _ _ hevents]
  exact iteInduction (motive := fun x : Dev => x.rd a = d.rd a) (fun _ => rfl) fun _ => rd_wr64_ne _ _ hfirst hfirst4
theorem overrunWith_bit (hflags : flags < 16) {j : Nat} (hj : j < 24) (hset : (2 + flags).testBit j = true) :
    (d.overrunWith i stamp flags).bit (Reg.tin_EVENTS i) j = true := by
  have hne : Reg.tin_OVR_CNT i ≠ Reg.tin_EVENTS i := by grind
  rw [overrunWith_eq d _ _ hi, bit_bump_ne _ _ hne, bit_raise_same _ _ _ _ (by omega) hj, hset, Bool.or_true]
theorem overrunWith_tout : (d.overrunWith i stamp flags).tout = d.tout := by
  rw [overrunWith_eq d _ _ hi]
  exact ((bump_tout ..).trans (raise_tout ..)).trans (iteInduction (motive := fun x : Dev => x.tout = d.tout) (fun _ => rfl) fun _ => wr64_tout ..)
end overrunWith

/-! ## The end of an action -/

section applyTo
variable (d : Dev) (k i : Nat) (a : Act)

theorem applyTo_rd (b : Nat) : (d.applyTo k).rd b = d.rd b :=
  iteInduction (motive := fun x : Dev => x.rd b = d.rd b) (fun _ => (rd_of_regs (settle_regs ..) b).trans (rd_of_regs (settle_regs ..) b)) fun _ => rfl
theorem applyTo_tin : (d.applyTo k).tin = d.tin :=
  iteInduction (motive := fun x : Dev => x.tin = d.tin) (fun _ => (settle_tin ..).trans (settle_tin ..)) fun _ => rfl
theorem applyTo_tout : (d.applyTo k).tout = d.tout :=
  iteInduction (motive := fun x : Dev => x.tout = d.tout) (fun _ => (settle_tout ..).trans (settle_tout ..)) fun _ => rfl
theorem applyTin_tout : (d.applyTin i).tout = d.tout :=
  iteInduction (motive := fun x : Dev => x.tout = d.tout) (fun _ => (settle_tout ..).trans (settle_tout ..)) fun _ => rfl
theorem dropAct_tout : (d.dropAct i a).tout = d.tout := (applyTin_tout ..).trans ((setFld_tout ..).trans (updTin_tout ..))

/-- The action has been dealt with. -/
def actDone : Dev := (d.dropAct (416 + k) a).applyTo k

theorem actDone_rd {b : Nat} (h : Reg.tin_STATE (416 + k) ≠ b) : (d.actDone k a).rd b = d.rd b := (applyTo_rd ..).trans (dropAct_rd _ _ _ h)
theorem actDone_toutOf : (d.actDone k a).toutOf k = d.toutOf k :=
  congrArg (fun m : SMap ToSt => SMap.get ({} : ToSt) m k) ((applyTo_tout ..).trans (dropAct_tout ..))
theorem actDone_acts : ((d.actDone k a).tinOf (416 + k)).acts = (d.tinOf (416 + k)).acts.erase a :=
  (congrArg (fun m : SMap TinSt => (SMap.get {} m (416 + k)).acts) (applyTo_tin ..)).trans (congrArg TinSt.acts (dropAct_tinOf ..))
end applyTo

/-! ## An action (R227) -/

/-- The action would assert trigger output `k`. -/
abbrev toAsserts (d : Dev) (k : Nat) : Prop := d.bit (Reg.to_STATUS k) 0 = false ∧ bitsOf (d.eff (Reg.to_CFG k)).toNat 0 2 ≠ 2
/-- An assertion at `t` would come within GAP of the last. -/
abbrev toClose (d : Dev) (r : GuardTo) (k t : Nat) : Prop := (∃ t₀, (d.toutOf k).lastOn = some t₀ ∧ t < t₀ + r.gap) ∨ r.sealGap = 0xFFFFFFFF

/-- The level that an action gives trigger output `k` in its mode. -/
def toNext (d : Dev) (k : Nat) : Bool :=
  let mode := bitsOf (d.eff (Reg.to_CFG k)).toNat 0 2
  if mode = 2 then false else if mode = 3 then !d.bit (Reg.to_STATUS k) 0 else true

/-- The level changes as the mode says. -/
def toActed (d : Dev) (k t : Nat) : Dev :=
  (d.setBit (Reg.to_STATUS k) 0 (d.toNext k)).updTout k (fun (x : ToSt) =>
    { x with lastOn := if !d.bit (Reg.to_STATUS k) 0 && bitsOf (d.eff (Reg.to_CFG k)).toNat 0 2 != 2 then some t else x.lastOn,
             pulseEnd := if bitsOf (d.eff (Reg.to_CFG k)).toNat 0 2 = 0 then some (t + bitsOf (d.eff (Reg.to_WIDTH k)).toNat 0 24) else none })

theorem toAsserts_iff (d : Dev) (k : Nat) : (!d.bit (Reg.to_STATUS k) 0 && bitsOf (d.eff (Reg.to_CFG k)).toNat 0 2 != 2) = true ↔ d.toAsserts k := by
  unfold toAsserts
  simp
theorem toActed_toutOf (d : Dev) (k t : Nat) : (d.toActed k t).toutOf k =
    { d.toutOf k with
      lastOn := if !d.bit (Reg.to_STATUS k) 0 && bitsOf (d.eff (Reg.to_CFG k)).toNat 0 2 != 2 then some t else (d.toutOf k).lastOn,
      pulseEnd := if bitsOf (d.eff (Reg.to_CFG k)).toNat 0 2 = 0 then some (t + bitsOf (d.eff (Reg.to_WIDTH k)).toNat 0 24) else none } := by
  unfold toActed
  rw [toutOf_updTout_same, toutOf, setBit_tout]
  rfl

/-- Whether an action at `t` would assert too soon, as the trigger output tests it. -/
def toLimited (d : Dev) (r : GuardTo) (k t : Nat) : Bool :=
  !d.bit (Reg.to_STATUS k) 0 && bitsOf (d.eff (Reg.to_CFG k)).toNat 0 2 != 2 &&
    ((match (d.toutOf k).lastOn with | some t₀ => decide (t < t₀ + r.gap) | none => false) || r.sealGap == 0xFFFFFFFF)

theorem toLimited_iff (d : Dev) (r : GuardTo) (k t : Nat) : d.toLimited r k t = true ↔ d.toAsserts k ∧ d.toClose r k t := by
  unfold toLimited toAsserts toClose
  cases (d.toutOf k).lastOn <;> simp

theorem toActed_bit (d : Dev) (k t : Nat) : (d.toActed k t).bit (Reg.to_STATUS k) 0 = d.toNext k := by
  unfold toActed
  rw [bit, rd_of_regs (updTout_regs ..), ← bit]
  exact bit_setBit_same _ _ _ _ (by decide)

section action
variable {d : Dev} {g : Guard} {k : Fin 8} {a : Act} (ha : earliest (d.tinOf (416 + k)).acts = some a) (hdue : d.due a.time = true)
  (hvalid : d.timeValid = true) (hsafe : d.dsafe = false) (hbad : d.toBad k = false)
include ha hdue hvalid hsafe hbad

theorem triggerOutputActionD_eq : triggerOutputActionD k g d =
    if d.toLimited (g.ofTo k) k a.time = true then
      ((d.overrunWith (416 + k) a.stamp 8).bump (Reg.to_RATE_CNT k)).actDone k a
    else (d.toActed k a.time).actDone k a := by
  have hgo : ¬ ((!d.due a.time) = true ∨ (!d.timeValid) = true) := by
    rw [hdue, hvalid]
    decide
  have hsafe' : ¬ (d.dsafe || d.toBad k) = true := by
    rw [hsafe, hbad]
    decide
  unfold triggerOutputActionD
  dsimp only
  rw [ha]
  dsimp only
  rw [if_neg hgo, if_neg hsafe']
  rfl

/-- An action that would assert too soon is lost and counted. -/
theorem triggerOutputActionD_of_close (hasserts : d.toAsserts k) (hclose : d.toClose (g.ofTo k) k a.time) :
    (triggerOutputActionD k g d).bit (Reg.to_STATUS k) 0 = d.bit (Reg.to_STATUS k) 0 ∧ (triggerOutputActionD k g d).toutOf k = d.toutOf k ∧
      (triggerOutputActionD k g d).rdN (Reg.to_RATE_CNT k) = min (2^32 - 1) (d.rdN (Reg.to_RATE_CNT k) + 1) ∧
      (triggerOutputActionD k g d).bit (Reg.tin_EVENTS (416 + k)) 1 = true ∧ (triggerOutputActionD k g d).bit (Reg.tin_EVENTS (416 + k)) 3 = true := by
  have hstatus : Reg.tin_STATE (416 + k) ≠ Reg.to_STATUS k := by grind
  have hstatus' : Reg.to_RATE_CNT k ≠ Reg.to_STATUS k := by grind
  have hevents : Reg.tin_STATE (416 + k) ≠ Reg.tin_EVENTS (416 + k) := by grind
  have hevents' : Reg.to_RATE_CNT k ≠ Reg.tin_EVENTS (416 + k) := by grind
  have hcount : Reg.tin_STATE (416 + k) ≠ Reg.to_RATE_CNT k := by grind
  have hhigh : 320 ≤ 416 + k.val := by omega
  have hkept : ∀ b, 0x230000 ≤ b → (d.overrunWith (416 + k) a.stamp 8).rd b = d.rd b := fun b hb => overrunWith_rd _ _ _ hhigh (.inr hb) (by omega)
  have hflag : ∀ j < 24, (2 + 8).testBit j = true →
      (((d.overrunWith (416 + k) a.stamp 8).bump (Reg.to_RATE_CNT k)).actDone k a).bit (Reg.tin_EVENTS (416 + k)) j = true := fun j hj hset => by
    rw [bit, actDone_rd _ _ _ hevents, rd_bump_ne _ hevents', ← bit]
    exact overrunWith_bit d _ _ hhigh (by decide) hj hset
  rw [triggerOutputActionD_eq ha hdue hvalid hsafe hbad, if_pos ((toLimited_iff ..).mpr ⟨hasserts, hclose⟩)]
  refine ⟨?_, ?_, ?_, hflag 1 (by decide) (by decide), hflag 3 (by decide) (by decide)⟩
  · rw [bit, actDone_rd _ _ _ hstatus, rd_bump_ne _ hstatus', hkept _ (by grind)]
    rfl
  · rw [actDone_toutOf, toutOf, bump_tout, overrunWith_tout _ _ _ hhigh]
    rfl
  · rw [rdN, actDone_rd _ _ _ hcount, ← rdN, rdN_bump_same, rdN, hkept _ (by grind)]
    rfl

/-- Any other action sets the level as the mode says. -/
theorem triggerOutputActionD_of_free (hfree : ¬ (d.toAsserts k ∧ d.toClose (g.ofTo k) k a.time)) :
    (triggerOutputActionD k g d).bit (Reg.to_STATUS k) 0 = d.toNext k ∧
      (((triggerOutputActionD k g d).toutOf k).pulseEnd = if bitsOf (d.eff (Reg.to_CFG k)).toNat 0 2 = 0 then
        some (a.time + bitsOf (d.eff (Reg.to_WIDTH k)).toNat 0 24) else none) ∧
      (d.toAsserts k → ((triggerOutputActionD k g d).toutOf k).lastOn = some a.time) ∧
      ((triggerOutputActionD k g d).tinOf (416 + k)).acts = (d.tinOf (416 + k)).acts.erase a := by
  have hstatus : Reg.tin_STATE (416 + k) ≠ Reg.to_STATUS k := by grind
  rw [triggerOutputActionD_eq ha hdue hvalid hsafe hbad, if_neg (mt (toLimited_iff ..).mp hfree), actDone_toutOf, toActed_toutOf]
  refine ⟨?_, rfl, fun hasserts => if_pos ((toAsserts_iff ..).mpr hasserts), ?_⟩
  · rw [bit, actDone_rd _ _ _ hstatus, ← bit, toActed_bit]
  · rw [actDone_acts]
    exact congrArg (fun m : SMap TinSt => (SMap.get {} m (416 + k)).acts.erase a) ((updTout_tin ..).trans (setBit_tin ..))
end action

/-- A PULSE deasserts at its end. -/
theorem pulseEndD_of_due {d : Dev} {k : Fin 8} {t : Nat} (hend : (d.toutOf k).pulseEnd = some t) (hdue : d.due t = true) (hvalid : d.timeValid = true) :
    (pulseEndD k d).bit (Reg.to_STATUS k) 0 = false ∧ (pulseEndD k d).toutOf k = { d.toutOf k with pulseEnd := none } := by
  have hgo : ¬ ((!d.due t) = true ∨ (!d.timeValid) = true) := by
    rw [hdue, hvalid]
    decide
  unfold pulseEndD
  rw [hend]
  dsimp only
  rw [if_neg hgo]
  constructor
  · rw [bit, rd_of_regs (updTout_regs ..), ← bit]
    exact bit_setBit_same _ _ _ _ (by decide)
  · rw [toutOf_updTout_same, toutOf, setBit_tout]
    rfl

end Dev

/-- Settles O23: an action is held as any firing's is; one that would assert too soon is lost and counted, and any other sets the level. -/
theorem triggerOutputsAct : Obligations.TriggerOutputsAct := by
  intro s k d i level mode
  refine ⟨fun h r t htakes hfew => ?_, fun a ha hdue hvalid hsafe hbad => ⟨fun hasserts hclose => ?_, fun hfree => ?_⟩, fun t hend hdue hvalid => ?_⟩
  · exact State.runs_of_onDev (exec_triggerOutput k s) rfl (Dev.holdFiring_acts htakes rfl hfew)
  · exact State.runs_of_onGuarded (exec_triggerOutputAction k s) (Dev.triggerOutputActionD_of_close ha hdue hvalid hsafe hbad hasserts hclose)
  · exact State.runs_of_onGuarded (exec_triggerOutputAction k s) (Dev.triggerOutputActionD_of_free ha hdue hvalid hsafe hbad hfree)
  · obtain ⟨hbit, hout⟩ := Dev.pulseEndD_of_due hend hdue hvalid
    refine State.runs_of_onDev (exec_pulseEnd k s) rfl ⟨hbit, ?_, ?_⟩
    · rw [hout]
    · rw [hout]

end Sys2Proof.Machine

/-! PROOFS. Launch inputs and frame inputs (R224, R226). -/
namespace Sys2Proof.Machine

theorem exec_launchInput (k : Fin 48) (s : State) : exec (.launchInput k) s = s.onDev (launchInputD k) := rfl
theorem exec_frameInput (k : Fin 32) (s : State) : exec (.frameInput k) s = s.onDev (frameInputD k) := rfl

namespace Dev

/-! ## Launch inputs (R224) -/

/-- A launch of an input joins the pending ones, with its streams. -/
def inputIssued (d : Dev) (l : Launch) (e passes : Nat) (segs : List Nat) : Dev :=
  (((({ d with launches := d.launches ++ [l] } : Dev).setCtxFld l.ctx 3 0 16 l.lsn).setPend l.ctx).updEng e (fun y => { y with slotTick := d.nowT / 16 + 2 })).addStreams
    l.ctx l.lsn passes l.chans segs

theorem addStreams_tin (d : Dev) (c lsn passes : Nat) (chans segs : List Nat) : (d.addStreams c lsn passes chans segs).tin = d.tin := by
  refine foldl_keeps Dev.tin _ _ (fun d p => ?_) d
  exact iteInduction (motive := fun x : Dev => x.tin = d.tin) (fun _ => updChan_tin ..) fun _ => rfl

theorem inputIssued_launches (d : Dev) (l : Launch) (e passes : Nat) (segs : List Nat) :
    (d.inputIssued l e passes segs).launches = d.launches ++ [l] :=
  (addStreams_launches ..).trans ((updEng_launches ..).trans ((setPend_launches ..).trans (setCtxFld_launches ..)))
theorem inputIssued_tin (d : Dev) (l : Launch) (e passes : Nat) (segs : List Nat) : (d.inputIssued l e passes segs).tin = d.tin :=
  (addStreams_tin ..).trans ((updEng_tin ..).trans ((setCtxW_tin ..).trans (setCtxW_tin ..)))

theorem taken_ctx (d : Dev) (i : Nat) (r : List Held) (gen : Nat) : (d.taken i r gen).ctx = d.ctx := (setFld_ctx ..).trans (updTin_ctx ..)
theorem taken_launches (d : Dev) (i : Nat) (r : List Held) (gen : Nat) : (d.taken i r gen).launches = d.launches :=
  (setFld_launches ..).trans (updTin_launches ..)
theorem ctxFld_of_ctx {d d' : Dev} (h : d'.ctx = d.ctx) (c w lo n : Nat) : d'.ctxFld c w lo n = d.ctxFld c w lo n := by
  unfold ctxFld ctxW
  rw [h]
theorem ctxChans_of_ctx {d d' : Dev} (h : d'.ctx = d.ctx) (c : Nat) : d'.ctxChans c = d.ctxChans c := by
  unfold ctxChans
  simp only [ctxFld_of_ctx h]

/-- The launch is the PLAY of launch input `k`'s context, bound to engine `e`, for a firing `f` that acts at `t`. -/
structure inputLaunch (d : Dev) (k e t : Nat) (f : Firing) (l : Launch) : Prop where
  ctx : l.ctx = d.fld (Reg.li_CFG k) 0 14
  eng : l.eng = e
  treq : l.treq = t
  chans : l.chans = d.ctxChans (d.fld (Reg.li_CFG k) 0 14)
  lsn : l.lsn = (d.ctxFld (d.fld (Reg.li_CFG k) 0 14) 3 0 16 + 1) % 2^16
  gen : l.gen = f.gen + 1
  li : l.li = some k
  accepted : l.accepted = false

theorem launchInputD_of_takes {d : Dev} {k : Fin 48} {e t : Nat} {h : Held} {r : List Held} (htakes : d.takesAt (320 + k) h r t)
    (hshut : d.liShut k = false) (hfull : d.liFull k = false) (heng : d.ctxEng (d.fld (Reg.li_CFG k) 0 14) = some e) :
    ∃ l passes segs, d.inputLaunch k e t h.fire l ∧ launchInputD k d = (d.taken (320 + k) r h.fire.gen).inputIssued l e passes segs := by
  obtain ⟨hvalid, hin, -, -, -, ht, hmax, -⟩ := htakes
  have hctx := taken_ctx d (320 + k) r h.fire.gen
  have heng' : (d.taken (320 + k) r h.fire.gen).ctxEng (bitsOf (d.rdN (Reg.li_CFG k)) 0 14) = some e := by
    unfold ctxEng
    rw [ctxFld_of_ctx hctx, ctxFld_of_ctx hctx]
    exact heng
  have hlat : ¬ 2^64 ≤ h.fire.stamp + (d.taken (320 + k) r h.fire.gen).latOf (320 + k) := by
    rw [taken_latOf, ← ht]
    exact hmax.not_ge
  unfold launchInputD
  dsimp only
  rw [hvalid, hshut, hfull, if_neg (by decide), if_neg (by decide), if_neg (by decide), takeFiring_of_inbox hin]
  dsimp only
  rw [heng']
  dsimp only
  rw [if_neg hlat]
  refine ⟨_, _, _, ⟨rfl, rfl, ?_, ctxChans_of_ctx hctx _, ?_, rfl, rfl, rfl⟩, rfl⟩
  · rw [ht, taken_latOf]
  · exact congrArg (fun x => (x + 1) % 2^16) (ctxFld_of_ctx hctx ..)

/-! ## Frame inputs (R226) -/

/-- The channels that frame input `k` reaches: those of its set that belong to its owner. -/
def fiChans (d : Dev) (k : Nat) : List Nat :=
  (List.range 96).filter (fun n => bitsOf (d.eff (Reg.fi_CHSET k (n / 32))).toNat (n % 32) 1 == 1 && d.chOwner n == d.fiOwner k)

theorem mem_fiChans {d : Dev} {k n : Nat} :
    n ∈ d.fiChans k ↔ n < 96 ∧ bitsOf (d.eff (Reg.fi_CHSET k (n / 32))).toNat (n % 32) 1 = 1 ∧ d.chOwner n = d.fiOwner k := by
  simp [fiChans]

/-- An action that waits on some channels waits on each of them, and on no other. -/
theorem holdAct_chanOf (d : Dev) {chs : List Nat} (a : FrAct) (hnodup : chs.Nodup) :
    (∀ n ∈ chs, ((d.holdAct chs a).chanOf n).frActs = (d.chanOf n).frActs ++ [a]) ∧ ∀ n, n ∉ chs → (d.holdAct chs a).chanOf n = d.chanOf n := by
  have hother : ∀ (d : Dev) (m n : Nat), m ≠ n → (d.updChan m (fun c => { c with frActs := c.frActs ++ [a] })).chanOf n = d.chanOf n :=
    fun d m n hmn => chanOf_updChan_ne d _ hmn
  unfold holdAct
  refine ⟨fun n hn => ?_, fun n hn => ?_⟩
  · obtain ⟨d₀, -, hbefore, hafter⟩ := foldl_each (P := fun _ => True) (q := fun n d => d.chanOf n)
      (f := fun d n => d.updChan n (fun c => { c with frActs := c.frActs ++ [a] })) (fun _ _ _ _ => trivial)
      (fun d m _ n _ hmn => hother d m n hmn) hnodup (d := { d with arrCtr := d.arrCtr + 1 }) trivial hn
    rw [hafter, updChan_chanOf, hbefore]
    rfl
  · refine (foldl_keeps_mem (Dev.chanOf · n) chs _ (fun m hm d => ?_) _).trans rfl
    exact hother d m n fun h => hn (h ▸ hm)

theorem holdAct_tin (d : Dev) (chs : List Nat) (a : FrAct) : (d.holdAct chs a).tin = d.tin := by
  refine (foldl_keeps Dev.tin _ _ (fun d n => ?_) _).trans rfl
  exact updChan_tin ..

/-- Where every channel can still meet it, an action keeps its time. -/
theorem frameEff_of_meets {d : Dev} {chs : List Nat} {t : Nat} (hnow : d.nowT ≤ t) (hmeets : ∀ n ∈ chs, d.nowT / 16 + d.lPipe n ≤ t / 16) :
    d.frameEff (chs.foldl (fun m n => max m (d.lPipe n)) 0) t = t := by
  have hmost : ∀ (l : List Nat) m, (∀ n ∈ l, d.nowT / 16 + d.lPipe n ≤ t / 16) → d.nowT / 16 + m ≤ t / 16 →
      d.nowT / 16 + l.foldl (fun m n => max m (d.lPipe n)) m ≤ t / 16 := by
    intro l
    induction l with
    | nil => exact fun _ _ h => h
    | cons n r ih =>
      intro m hl hm
      have hn := hl n List.mem_cons_self
      refine ih _ (fun x hx => hl x (List.mem_cons_of_mem _ hx)) ?_
      dsimp only
      rcases max_choice m (d.lPipe n) with h | h <;> rw [h] <;> assumption
  have hnow' : d.nowT / 16 ≤ t / 16 := Nat.div_le_div_right hnow
  exact if_neg (hmost chs 0 hmeets hnow').not_gt

section taken
variable (d : Dev) (k : Fin 32) (r : List Held) (gen : Nat)

theorem taken_chan (i : Nat) : (d.taken i r gen).chan = d.chan := (setFld_chan ..).trans (updTin_chan ..)
theorem taken_eff {i a : Nat} (h : Reg.tin_STATE i ≠ a) : (d.taken i r gen).eff a = d.eff a := by
  unfold eff
  rw [taken_rd _ _ _ _ h]
  unfold taken
  rw [setFld_inforce, updTin_inforce]
theorem taken_fiWaiting (i : Nat) : (d.taken i r gen).fiWaiting k = d.fiWaiting k := by
  unfold fiWaiting
  rw [taken_chan]
theorem taken_fiChans : (d.taken (368 + k) r gen).fiChans k = d.fiChans k := by
  have hsame := sameButInputs_taken d (i := 368 + k) (by omega) r gen
  have howner : (d.taken (368 + k) r gen).fiOwner k = d.fiOwner k := by
    have hpart : ∀ p, (d.taken (368 + k) r gen).partOn p = d.partOn p := fun p => by
      unfold partOn fld rdN
      rw [hsame.rd _ (by grind)]
    unfold fiOwner partWhere grantsFi ptabW
    simp only [hpart]
    unfold taken
    rw [setFld_ptab, updTin_ptab]
  have hset : ∀ j, (d.taken (368 + k) r gen).eff (Reg.fi_CHSET k j) = d.eff (Reg.fi_CHSET k j) := fun j => taken_eff _ _ _ (by grind)
  unfold fiChans
  simp only [sameButInputs_chOwner hsame, howner, hset]
theorem taken_lPipe (n : Nat) : (d.taken (368 + k) r gen).lPipe n = d.lPipe n := by
  have hsame := sameButInputs_taken d (i := 368 + k) (by omega) r gen
  have hbase := chnBase_ge n
  unfold lPipe fld rdN
  rw [hsame.rd _ (.inr (by grind))]
end taken

/-- The action of frame input `k` for a firing that acts at `t`. -/
structure inputAct (d : Dev) (k t : Nat) (a : FrAct) : Prop where
  prio : a.prio = k + 1
  fact : a.fact = bitsOf (d.eff (Reg.fi_CFG k)).toNat 0 3
  frame : a.frame = bitsOf (d.eff (Reg.fi_CFG k)).toNat 8 5
  time : a.t = t
  teff : a.teff = t

theorem frameInputD_of_takes {d : Dev} {k : Fin 32} {t : Nat} {h : Held} {r : List Held} (htakes : d.takesAt (368 + k) h r t)
    (hfew : d.fiWaiting k < 4) (hgood : d.corrupt (Reg.fi_CFG k) 64 = false) (hmeets : ∀ n ∈ d.fiChans k, d.nowT / 16 + d.lPipe n ≤ t / 16) :
    ∃ a, d.inputAct k t a ∧ frameInputD k d = (d.taken (368 + k) r h.fire.gen).holdAct (d.fiChans k) a := by
  obtain ⟨hvalid, hin, hbad, hcoarse, hlate, ht, hmax, hnow⟩ := htakes
  have hgo : ¬ (4 ≤ (d.taken (368 + k) r h.fire.gen).fiWaiting k ∨ (d.taken (368 + k) r h.fire.gen).tinBad (368 + k) = true ∨
      (d.taken (368 + k) r h.fire.gen).corrupt (Reg.fi_CFG k) 64 = true) := by
    rw [taken_fiWaiting, taken_tinBad, hbad, corrupt, taken_parity, ← corrupt, hgood]
    simpa using hfew
  have hcfg : (d.taken (368 + k) r h.fire.gen).eff (Reg.fi_CFG k) = d.eff (Reg.fi_CFG k) := taken_eff _ _ _ (by grind)
  have hearly : ¬ (h.fire.coarse = true ∨ h.fire.late = true) := by
    rw [hcoarse, hlate]
    decide
  have hchans := taken_fiChans d k r h.fire.gen
  have hnow' : (d.taken (368 + k) r h.fire.gen).nowT ≤ t := (taken_nowT ..).trans_le hnow
  have hmeets' : ∀ n ∈ d.fiChans k, (d.taken (368 + k) r h.fire.gen).nowT / 16 + (d.taken (368 + k) r h.fire.gen).lPipe n ≤ t / 16 := fun n hn => by
    rw [taken_nowT, taken_lPipe]
    exact hmeets n hn
  have hlat : h.fire.stamp + (d.taken (368 + k) r h.fire.gen).latOf (368 + k) = t := by rw [taken_latOf, ht]
  have heff : (if (d.fiChans k).isEmpty then t else
      (d.taken (368 + k) r h.fire.gen).frameEff ((d.fiChans k).foldl (fun m n => max m ((d.taken (368 + k) r h.fire.gen).lPipe n)) 0) t) = t := by
    rw [frameEff_of_meets hnow' hmeets', ite_self]
  have honTime : ¬ (h.fire.coarse = true ∨ h.fire.late = true ∨ t < t) := by
    rw [hcoarse, hlate]
    simp
  unfold fiChans at hchans heff ⊢
  unfold frameInputD
  dsimp only
  rw [hvalid, if_neg (by decide), takeFiring_of_inbox hin]
  dsimp only
  rw [if_neg hgo, hlat, if_neg hmax.not_ge, if_neg hearly, hchans, heff, if_neg honTime]
  exact ⟨_, ⟨rfl, by rw [hcfg], by rw [hcfg], rfl, rfl⟩, rfl⟩

end Dev

/-- Settles O13: both inputs take the firing for stamp + LAT; what the launch and the action take of the device stands on no register of the input. -/
theorem launchAndFrameInputs : Obligations.LaunchAndFrameInputs := by
  intro s h r t d
  refine ⟨fun k e htakes hshut hfull heng => ?_, fun k htakes hfew hgood hmeets => ?_⟩
  · obtain ⟨l, passes, segs, hl, hrun⟩ := Dev.launchInputD_of_takes htakes hshut hfull heng
    refine State.runs_of_onDev (exec_launchInput k s) hrun ⟨l, ?_, hl.ctx, hl.eng, hl.treq, hl.chans, hl.lsn, hl.gen, hl.li, hl.accepted, ?_⟩
    · rw [Dev.inputIssued_launches, Dev.taken_launches]
    · rw [Dev.tinOf, Dev.inputIssued_tin]
      exact Dev.taken_inbox ..
  · obtain ⟨a, ha, hrun⟩ := Dev.frameInputD_of_takes htakes hfew hgood fun n hn => hmeets n (Dev.mem_fiChans.mp hn).1 (Dev.mem_fiChans.mp hn).2
    obtain ⟨heach, hother⟩ := Dev.holdAct_chanOf (d.taken (368 + k) r h.fire.gen) (chs := d.fiChans k) a (List.nodup_range.filter _)
    have hkept : ∀ n, (d.taken (368 + k) r h.fire.gen).chanOf n = d.chanOf n := fun n => Dev.chanOf_of_chan (Dev.taken_chan ..) n
    refine State.runs_of_onDev (exec_frameInput k s) hrun ⟨?_, fun n hn hhas => ⟨a, ?_, ha.prio, ha.fact, ha.frame, ha.time, ha.teff⟩, fun n hn => ?_⟩
    · rw [Dev.tinOf, Dev.holdAct_tin]
      exact Dev.taken_inbox ..
    · exact (heach n (Dev.mem_fiChans.mpr ⟨hn, hhas⟩)).trans (by rw [hkept])
    · have hnot : n ∉ d.fiChans k := fun hmem => hn.elim (Dev.mem_fiChans.mp hmem).1.not_ge fun hno => hno (Dev.mem_fiChans.mp hmem).2
      exact (hother n hnot).trans (hkept n)

end Sys2Proof.Machine

/-! PROOFS. Host frame commands and frame queries (R169, R170). -/
namespace Sys2Proof.Machine

theorem exec_frCmd (fn : Fn) (ch : Fin 96) (v : Word) (s : State) : exec (.frCmd fn ch v) s = s.onDev (frCmdD fn ch v) := rfl
theorem exec_frameQuery (fn : Fn) (ch : Fin 96) (v : Word) (s : State) : exec (.frameQuery fn ch v) s = s.onDev (frameQueryD fn ch v) := rfl

theorem toBits_lt (w : Nat) (i : Int) : toBits w i < 2^w := by
  have hpos : (0 : Int) < 2^w := by positivity
  have hlt := Int.emod_lt_of_pos i hpos
  rw [← coe_toBits] at hlt
  exact_mod_cast hlt

/-- Two registers of channels at different places are two registers. -/
theorem chn_place_ne (n m : Nat) {r r' : Nat} (h : r ≠ r') (hr : r < 0x4000) (hr' : r' < 0x4000) : chnBase n + r ≠ chnBase m + r' := by
  unfold chnBase
  omega

namespace Dev

/-- An accepted access of a channel leaves its other registers as its effect left them. -/
theorem access_chn_rd {d : Dev} {fn off : Nat} {owner : Option Nat} (hans : d.answers fn off owner) (f : Dev → Dev) (n : Nat) {r : Nat} (hr : r < 0x4000)
    (hne : r ≠ 0x1804) : (d.access fn off owner f).rd (chnBase n + r) = (f d).rd (chnBase n + r) :=
  access_rd hans f fun m => chn_place_ne m n hne.symm (by decide) hr

/-! ## A command is held (R169) -/

/-- The command with GO that a write `v` of FR_CMD gives, as it waits. -/
def hostAct (d : Dev) (ch : Nat) (v : Word) : FrAct :=
  { prio := 100, fact := v.toNat % 8, frame := bitsOf v.toNat 8 5, v := d.rd64 (Reg.chn_FR_VAL_LO ch), v2 := d.rd64 (Reg.chn_FR_VAL2_LO ch),
    t := d.rd64 (Reg.chn_FR_AT_LO ch), teff := d.rd64 (Reg.chn_FR_AT_LO ch), isLaunch := false, arr := d.arrCtr }

/-- The command has been written. -/
def cmdWritten (d : Dev) (ch : Nat) (v : Word) : Dev := (d.wr (Reg.chn_FR_CMD ch) (v &&& 0x1F07#32)).endParity (Reg.chn_FR_CMD ch)

theorem wr_only (d : Dev) (a : Nat) (w : Word) (r : SMap Word) (p : SMap Nat) :
    ({ d.wr a w with regs := r, parity := p } : Dev) = { d with regs := r, parity := p } := rfl

section cmdWritten
variable (d : Dev) (ch : Nat) (v : Word)

theorem cmdWritten_only : ∃ r p, d.cmdWritten ch v = { d with regs := r, parity := p } := by
  obtain ⟨⟨r, p, h⟩, -⟩ := sameButParity_endParity (d.wr (Reg.chn_FR_CMD ch) (v &&& 0x1F07#32)) (Reg.chn_FR_CMD ch)
  exact ⟨r, p, h.trans (wr_only ..)⟩
theorem cmdWritten_rd {r : Nat} (hr : r < 0x4000) (hne : r ≠ 0x1804) (hcmd : r ≠ 0x2400) : (d.cmdWritten ch v).rd (chnBase ch + r) = d.rd (chnBase ch + r) := by
  unfold cmdWritten
  rw [(sameButParity_endParity ..).rd _ fun m => chn_place_ne m ch hne.symm (by norm_num) hr, rd_wr_ne _ _ (by unfold Reg.chn_FR_CMD; omega)]
theorem cmdWritten_cmd : (d.cmdWritten ch v).rd (Reg.chn_FR_CMD ch) = v &&& 0x1F07#32 := by
  unfold cmdWritten
  rw [(sameButParity_endParity ..).rd _ fun m => chn_place_ne m ch (by norm_num) (by norm_num) (by norm_num), rd_wr_same]
theorem cmdWritten_rd64 {r : Nat} (hr : r + 4 < 0x4000) (hne : r ≠ 0x1804) (hne4 : r + 4 ≠ 0x1804) (hcmd : r ≠ 0x2400) (hcmd4 : r + 4 ≠ 0x2400) :
    (d.cmdWritten ch v).rd64 (chnBase ch + r) = d.rd64 (chnBase ch + r) := by
  unfold rd64 rdN
  rw [cmdWritten_rd d ch v (by omega) hne hcmd, Nat.add_assoc, cmdWritten_rd d ch v hr hne4 hcmd4]
theorem cmdWritten_low {a : Nat} (ha : a < 0x800000) : (d.cmdWritten ch v).rd a = d.rd a := by
  have hbase := chnBase_ge
  have hne : Reg.chn_FR_CMD ch ≠ a := by grind
  have hsafe : ∀ m, Reg.chn_SAFE_CTL m ≠ a := fun m => by
    have := hbase m
    grind
  unfold cmdWritten
  rw [(sameButParity_endParity ..).rd _ hsafe, rd_wr_ne _ _ hne]
theorem cmdWritten_hostAct : (d.cmdWritten ch v).hostAct ch v = d.hostAct ch v := by
  obtain ⟨r, p, h⟩ := cmdWritten_only d ch v
  unfold hostAct
  rw [cmdWritten_rd64 d ch v (by norm_num) (by norm_num) (by norm_num) (by norm_num) (by norm_num),
    cmdWritten_rd64 d ch v (by norm_num) (by norm_num) (by norm_num) (by norm_num) (by norm_num),
    cmdWritten_rd64 d ch v (by norm_num) (by norm_num) (by norm_num) (by norm_num) (by norm_num), h]
theorem cmdWritten_frameEff (t : Nat) : (d.cmdWritten ch v).frameEff ((d.cmdWritten ch v).lPipe ch) t = d.frameEff (d.lPipe ch) t := by
  obtain ⟨r, p, h⟩ := cmdWritten_only d ch v
  have htime : (d.cmdWritten ch v).time = d.time := by rw [h]
  have hpipe : (d.cmdWritten ch v).lPipe ch = d.lPipe ch := by
    unfold lPipe fld rdN
    rw [cmdWritten_rd d ch v (by norm_num) (by norm_num) (by norm_num)]
  unfold frameEff
  rw [hpipe, nowT_of_rd (cmdWritten_low d ch v (by norm_num)) htime]
end cmdWritten

theorem holdAct_regs (d : Dev) (chs : List Nat) (a : FrAct) : (d.holdAct chs a).regs = d.regs := by
  refine (foldl_keeps Dev.regs _ _ (fun d n => ?_) _).trans rfl
  exact updChan_regs ..

/-- A command with GO that its channel can meet is held until its time. -/
theorem frCmdD_of_go {d : Dev} {fn : Fn} {ch : Fin 96} {v : Word} (hans : d.answers fn (Reg.chn_FR_CMD ch) (d.chOwner ch))
    (hidle : d.bit (Reg.chn_FR_CMD ch) 17 = false) (hfact : v.toNat % 8 < 6) (hgo : v.getLsbD 16 = true)
    (hmeets : d.nowT / 16 + d.lPipe ch ≤ d.rd64 (Reg.chn_FR_AT_LO ch) / 16) :
    (frCmdD fn ch v d).bit (Reg.chn_FR_CMD ch) 17 = true ∧ (frCmdD fn ch v d).bit (Reg.chn_FR_CMD ch) 16 = false ∧
      ((frCmdD fn ch v d).chanOf ch).frActs = (d.chanOf ch).frActs ++ [d.hostAct ch v] := by
  have hlow : bitsOf v.toNat 0 3 = v.toNat % 8 := by
    rw [bitsOf, pow_zero, Nat.div_one]
    rfl
  have hreserved : ¬ 6 ≤ bitsOf v.toNat 0 3 := by
    rw [hlow]
    exact hfact.not_ge
  have hset : ¬ bitsOf v.toNat 16 1 = 0 := by
    rw [bitsOf_one, hgo]
    decide
  have heff : d.frameEff (d.lPipe ch) (d.rd64 (Reg.chn_FR_AT_LO ch)) = d.rd64 (Reg.chn_FR_AT_LO ch) := if_neg hmeets.not_gt
  have hat : (d.cmdWritten ch v).rd64 (Reg.chn_FR_AT_LO ch) = d.rd64 (Reg.chn_FR_AT_LO ch) :=
    cmdWritten_rd64 d ch v (by norm_num) (by norm_num) (by norm_num) (by norm_num) (by norm_num)
  have heff' : (if (d.cmdWritten ch v).timeValid then
      (d.cmdWritten ch v).frameEff ((d.cmdWritten ch v).lPipe ch) ((d.cmdWritten ch v).rd64 (Reg.chn_FR_AT_LO ch)) else
        (d.cmdWritten ch v).rd64 (Reg.chn_FR_AT_LO ch)) = (d.cmdWritten ch v).rd64 (Reg.chn_FR_AT_LO ch) := by
    rw [cmdWritten_frameEff, hat, heff, ite_self]
  have hcmd : ∃ f, frCmdD fn ch v d = d.access fn (Reg.chn_FR_CMD ch) (d.chOwner ch) f ∧
      f d = ((d.cmdWritten ch v).setBit (Reg.chn_FR_CMD ch) 17 true).holdAct [ch.val] (d.hostAct ch v) := by
    unfold frCmdD
    refine ⟨_, rfl, ?_⟩
    rw [if_neg (ne_true_of_eq_false hidle), if_neg hreserved, if_neg hset]
    rw [← cmdWritten_hostAct]
    unfold cmdWritten at heff' ⊢
    dsimp only
    rw [heff', if_neg (lt_irrefl _), hlow]
    rfl
  obtain ⟨f, haccess, hf⟩ := hcmd
  have hrd : (frCmdD fn ch v d).rd (Reg.chn_FR_CMD ch) = ((d.cmdWritten ch v).setBit (Reg.chn_FR_CMD ch) 17 true).rd (Reg.chn_FR_CMD ch) := by
    rw [haccess, access_chn_rd hans f ch (by norm_num) (by norm_num), hf, rd_of_regs (holdAct_regs ..)]
  refine ⟨?_, ?_, ?_⟩
  · rw [bit, hrd, ← bit]
    exact bit_setBit_same _ _ _ _ (by norm_num)
  · rw [bit, hrd, ← bit, bit_setBit_other _ _ _ _ _ (by norm_num) (by norm_num), bit, cmdWritten_cmd, BitVec.getLsbD_and]
    exact Bool.and_false _
  · rw [haccess, access_keeps hans f (q := fun d => (d.chanOf ch).frActs) fun _ _ _ => rfl]
    have hchan : ((d.cmdWritten ch v).setBit (Reg.chn_FR_CMD ch) 17 true).chan = d.chan := by
      obtain ⟨r, p, h⟩ := cmdWritten_only d ch v
      rw [setBit_chan, h]
    rw [hf, (holdAct_chanOf _ _ (List.nodup_singleton _)).1 _ (List.mem_singleton_self _), chanOf_of_chan hchan]

/-! ## A query (R170) -/


/-- The query time of a channel after a write of its high word. -/
theorem commitPair_rd64 (d : Dev) (fn low hi : Nat) (hhi : hi < 2^32) : (d.commitPair fn low hi).rd64 low = d.pairLow fn low + 2^32 * hi := by
  have hlow : d.pairLow fn low < 2^32 := BitVec.isLt _
  unfold commitPair rd64
  dsimp only
  rw [rdN_wrN_ne _ _ (by omega), rdN_wrN_same, rdN_wrN_same, Nat.mod_eq_of_lt hlow, Nat.mod_eq_of_lt hhi]

theorem commitPair_rd (d : Dev) (fn low hi : Nat) {a : Nat} (h : low ≠ a) (h4 : low + 4 ≠ a) : (d.commitPair fn low hi).rd a = d.rd a := by
  unfold commitPair
  dsimp only
  rw [rd_wrN_ne _ _ h4, rd_wrN_ne _ _ h]
  rfl
theorem commitPair_frames (d : Dev) (fn low hi : Nat) : (d.commitPair fn low hi).frames = d.frames := (wrN_frames ..).trans (wrN_frames ..)

section runQuery
variable (d : Dev) (ch : Nat)

/-- The frame that a channel's query names, at its query time. -/
def queried : Nat × Nat := (d.frameOf ch (d.fld (Reg.chn_FRQ_CTL ch) 0 5)).eval (d.rd64 (Reg.chn_FRQ_AT_LO ch))

theorem runQuery_eq : d.runQuery ch =
    ((d.wr64 (Reg.chn_FRQ_PH_LO ch) (d.queried ch).1).wr64 (Reg.chn_FRQ_F_LO ch) (d.queried ch).2).setBit (Reg.chn_FRQ_CTL ch) 31 true := rfl
theorem runQuery_bit : (d.runQuery ch).bit (Reg.chn_FRQ_CTL ch) 31 = true := bit_setBit_same _ _ _ _ (by norm_num)
theorem runQuery_frames : (d.runQuery ch).frames = d.frames := (setBit_frames ..).trans ((wr64_frames ..).trans (wr64_frames ..))
theorem queried_lt : (d.queried ch).1 < 2^64 ∧ (d.queried ch).2 < 2^64 :=
  ⟨(toBits_lt ..).trans (by norm_num), (toBits_lt ..).trans (by norm_num)⟩
theorem runQuery_frequency : (d.runQuery ch).rd64 (Reg.chn_FRQ_F_LO ch) = (d.queried ch).2 := by
  have hlow : Reg.chn_FRQ_CTL ch ≠ Reg.chn_FRQ_F_LO ch := by grind
  have hhigh : Reg.chn_FRQ_CTL ch ≠ Reg.chn_FRQ_F_LO ch + 4 := by grind
  rw [runQuery_eq, rd64, setBit, rdN_setFld_ne _ _ _ _ hlow, rdN_setFld_ne _ _ _ _ hhigh, ← rd64]
  exact rd64_wr64 _ _ _ (queried_lt d ch).2
theorem runQuery_phase : (d.runQuery ch).rd64 (Reg.chn_FRQ_PH_LO ch) = (d.queried ch).1 := by
  have hlow : Reg.chn_FRQ_CTL ch ≠ Reg.chn_FRQ_PH_LO ch := by grind
  have hhigh : Reg.chn_FRQ_CTL ch ≠ Reg.chn_FRQ_PH_LO ch + 4 := by grind
  have hf : ∀ a, a = Reg.chn_FRQ_PH_LO ch ∨ a = Reg.chn_FRQ_PH_LO ch + 4 → Reg.chn_FRQ_F_LO ch ≠ a ∧ Reg.chn_FRQ_F_LO ch + 4 ≠ a := by grind
  rw [runQuery_eq, rd64, setBit, rdN_setFld_ne _ _ _ _ hlow, rdN_setFld_ne _ _ _ _ hhigh, rdN_wr64_ne _ _ (hf _ (.inl rfl)).1 (hf _ (.inl rfl)).2,
    rdN_wr64_ne _ _ (hf _ (.inr rfl)).1 (hf _ (.inr rfl)).2, ← rd64]
  exact rd64_wr64 _ _ _ (queried_lt d ch).1
end runQuery

end Dev

/-- Settles O15: a command is held as a frame input's action is; a query reads the frame at the committed time. -/
theorem hostFrameCommandsAndQueries : Obligations.HostFrameCommandsAndQueries := by
  intro s fn ch v d
  refine ⟨fun hans hidle hfact hgo hmeets => ?_, fun hans => ?_⟩
  · exact State.runs_of_onDev (exec_frCmd fn ch v s) rfl (Dev.frCmdD_of_go hans hidle hfact hgo hmeets)
  · intro t r
    have hquery : (d.commitPair fn (Reg.chn_FRQ_AT_LO ch) v.toNat).queried ch = r.eval t := by
      unfold Dev.queried
      rw [Dev.commitPair_rd64 _ _ _ _ v.isLt, Dev.fld, Dev.rdN, Dev.commitPair_rd _ _ _ _ (by grind) (by grind), Dev.frameOf, Dev.commitPair_frames]
      rfl
    have hrun : frameQueryD fn ch v d = d.access fn (Reg.chn_FRQ_AT_HI ch) (d.chOwner ch)
        (fun d => (d.commitPair fn (Reg.chn_FRQ_AT_LO ch) v.toNat).runQuery ch) := rfl
    have hrd : ∀ r, r < 0x4000 → r ≠ 0x1804 → (frameQueryD fn ch v d).rd (chnBase ch + r) =
        ((d.commitPair fn (Reg.chn_FRQ_AT_LO ch) v.toNat).runQuery ch).rd (chnBase ch + r) := fun r hr hne => by
      rw [hrun, Dev.access_chn_rd hans _ ch hr hne]
    refine State.runs_of_onDev (exec_frameQuery fn ch v s) rfl ⟨?_, ?_, ?_, ?_⟩
    · rw [Dev.bit, hrd _ (by norm_num) (by norm_num), ← Dev.bit, Dev.runQuery_bit]
    · rw [Dev.rd64, Dev.rdN, Dev.rdN, hrd _ (by norm_num) (by norm_num), Nat.add_assoc, hrd _ (by norm_num) (by norm_num)]
      exact (congrArg Nat.cast (Dev.runQuery_phase ..)).trans (by rw [hquery, FrameRec.eval_phase])
    · rw [Dev.rd64, Dev.rdN, Dev.rdN, hrd _ (by norm_num) (by norm_num), Nat.add_assoc, hrd _ (by norm_num) (by norm_num)]
      exact (congrArg Nat.cast (Dev.runQuery_frequency ..)).trans (by rw [hquery, FrameRec.eval_freq])
    · rw [hrun, Dev.access_keeps hans _ (q := Dev.frames) fun _ _ _ => rfl]
      exact (Dev.runQuery_frames ..).trans (Dev.commitPair_frames ..)

end Sys2Proof.Machine

/-! PROOFS. Event channels: the firing that one handles, delivery, and buffered values (R211 to R222). -/
namespace Sys2Proof.Machine

theorem exec_eventChannelFiring (n : Fin 256) (s : State) : exec (.eventChannelFiring n) s = s.onDev (eventChannelFiringD n) := rfl
theorem exec_deliver (n : Fin 256) (s : State) : exec (.deliver n) s = s.onDev (deliverD n) := rfl
theorem exec_ecApply (n : Fin 256) (s : State) : exec (.ecApply n) s = s.onDev (ecApplyD n) := rfl

namespace Dev

/-! ## The next firing of an event channel (R211, R213 to R216) -/

/-- Whether the gate of event channel `n`, whose control is `ctl`, passes a stamp (R214). -/
def ecPasses (d : Dev) (n : Nat) (ctl : Word) (t : Nat) : Bool :=
  gatePasses (bitsOf ctl.toNat 20 2) (d.eff64 (Reg.ec_GATE_OPEN_LO n)) (d.eff64 (Reg.ec_GATE_CLOSE_LO n))
    (d.eff (Reg.ec_GATE_WIDTH n)).toNat (d.eff (Reg.ec_GATE_PERIOD n)).toNat t
/-- The state of event channel `n`'s group at a stamp, and whether the stamp precedes its history (R213). -/
def ecGroup (d : Dev) (n t : Nat) : Bool × Bool := d.groupAt (bitsOf (d.eff (Reg.ec_CTL n)).toNat 14 5) t

/-- A firing has left those that wait for event channel `n`. -/
def ecLeft (d : Dev) (n : Nat) (h : Held) : Dev := d.updEc n (fun e => { e with inbox := e.inbox.erase h })
/-- Event channel `n` has taken a firing, and flags a stamp that precedes its group's history. -/
def ecTaken (d : Dev) (n : Nat) (h : Held) : Dev :=
  if ((d.ecLeft n h).ecGroup n h.fire.stamp).2 then (d.ecLeft n h).raise (Reg.ec_EVENTS n) 4 else d.ecLeft n h

section ecTaken
variable (d : Dev) (n : Nat) (h : Held)

theorem ecTaken_rd {a : Nat} (ha : Reg.ec_EVENTS n ≠ a) : (d.ecTaken n h).rd a = d.rd a :=
  iteInduction (motive := fun x : Dev => x.rd a = d.rd a) (fun _ => (rd_raise_ne _ _ ha).trans (rd_of_regs (updEc_regs ..) a))
    fun _ => rd_of_regs (updEc_regs ..) a
theorem ecTaken_inforce : (d.ecTaken n h).inforce = d.inforce :=
  iteInduction (motive := fun x : Dev => x.inforce = d.inforce) (fun _ => (raise_inforce ..).trans (updEc_inforce ..)) fun _ => updEc_inforce ..
theorem ecTaken_eff {a : Nat} (ha : Reg.ec_EVENTS n ≠ a) : (d.ecTaken n h).eff a = d.eff a := by
  unfold eff
  rw [ecTaken_rd _ _ _ ha, ecTaken_inforce]
theorem ecTaken_hold : ((d.ecTaken n h).ecOf n).hold = (d.ecOf n).hold := by
  have hec : (d.ecTaken n h).ec = (d.ecLeft n h).ec :=
    iteInduction (motive := fun x : Dev => x.ec = (d.ecLeft n h).ec) (fun _ => raise_ec ..) fun _ => rfl
  rw [ecOf, hec]
  exact (congrArg EcSt.hold (show (d.ecLeft n h).ecOf n = _ from ecOf_updEc_same ..)).trans rfl
theorem ecLeft_group (t : Nat) : (d.ecLeft n h).ecGroup n t = d.ecGroup n t := rfl
theorem ecTaken_passes (t : Nat) : (d.ecTaken n h).ecPasses n ((d.ecLeft n h).eff (Reg.ec_CTL n)) t = d.ecPasses n (d.eff (Reg.ec_CTL n)) t := by
  have heff : ∀ a, Reg.ec_GATE_OPEN_LO n ≤ a → a ≤ Reg.ec_GATE_PERIOD n → (d.ecTaken n h).eff a = d.eff a :=
    fun a hlow hhigh => ecTaken_eff d n h (by grind)
  have hctl : (d.ecLeft n h).eff (Reg.ec_CTL n) = d.eff (Reg.ec_CTL n) := rfl
  unfold ecPasses eff64
  rw [heff _ (by grind) (by grind), heff _ (by grind) (by grind), heff _ (by grind) (by grind), heff _ (by grind) (by grind), heff _ (by grind) (by grind),
    heff _ (by grind) (by grind), hctl]
theorem ecTaken_delay : (d.ecTaken n h).ecDelay n = d.ecDelay n := by
  unfold ecDelay
  rw [ecTaken_eff _ _ _ (by grind)]
theorem ecTaken_count : (d.ecTaken n h).ecCount n = d.ecCount n := by
  unfold ecCount fld rdN
  rw [ecTaken_rd _ _ _ (by grind)]
end ecTaken

theorem setCount_count (d : Dev) {n c : Nat} (h : c < 2^16) : (d.setCount n c).ecCount n = c :=
  (fld_setFld_same _ _ _ _ _ (by decide)).trans (Nat.mod_eq_of_lt h)
theorem ecCount_lt (d : Dev) (n : Nat) : d.ecCount n < 2^16 := Nat.mod_lt _ (by decide)
theorem setCount_ecOf (d : Dev) (n c : Nat) : (d.setCount n c).ecOf n = d.ecOf n := by rw [ecOf, setCount, setFld_ec, ← ecOf]

theorem eventChannelFiringD_eq {d : Dev} {n : Fin 256} {h : Held}
    (hnext : firstHeld ((d.ecOf n).inbox.filter (fun h => decide (h.tick < d.nowT / 16))) = some h) (hon : d.bit (Reg.ec_CTL n) 22 = true)
    (hgood : d.corrupt (Reg.ec_CFG n) 128 = false) :
    eventChannelFiringD n d =
      if !((d.ecLeft n h).ecGroup n h.fire.stamp).1 || !(d.ecTaken n h).ecPasses n ((d.ecLeft n h).eff (Reg.ec_CTL n)) h.fire.stamp then (d.ecTaken n h).bump (Reg.ec_GATED_CNT n)
      else if (d.ecTaken n h).ecCount n = 0 then
        ((d.ecTaken n h).setCount n (bitsOf ((d.ecTaken n h).eff (Reg.ec_DIV n)).toNat 0 16)).holdOut n (h.tick + (d.ecTaken n h).ecDelay n) h.fire
      else (d.ecTaken n h).setCount n ((d.ecTaken n h).ecCount n - 1) := by
  have hgo : ¬ (!(d.ecLeft n h).bit (Reg.ec_CTL n) 22 || (d.ecLeft n h).corrupt (Reg.ec_CFG n) 128) = true := by
    have hon' : (d.ecLeft n h).bit (Reg.ec_CTL n) 22 = true := hon
    have hgood' : (d.ecLeft n h).corrupt (Reg.ec_CFG n) 128 = false := hgood
    rw [hon', hgood']
    decide
  unfold eventChannelFiringD
  rw [hnext]
  exact if_neg hgo

section next
variable {d : Dev} {n : Fin 256} {h : Held}
  (hnext : firstHeld ((d.ecOf n).inbox.filter (fun h => decide (h.tick < d.nowT / 16))) = some h) (hon : d.bit (Reg.ec_CTL n) 22 = true)
  (hgood : d.corrupt (Reg.ec_CFG n) 128 = false)
include hnext hon hgood

/-- A firing that the group or the gate stops is counted. -/
theorem eventChannelFiringD_of_stopped (hstop : (d.ecGroup n h.fire.stamp).1 = false ∨ d.ecPasses n (d.eff (Reg.ec_CTL n)) h.fire.stamp = false) :
    ((eventChannelFiringD n d).ecOf n).hold = (d.ecOf n).hold ∧ (eventChannelFiringD n d).ecCount n = d.ecCount n ∧
      (eventChannelFiringD n d).rdN (Reg.ec_GATED_CNT n) = min (2^32 - 1) (d.rdN (Reg.ec_GATED_CNT n) + 1) := by
  have hstatus : Reg.ec_GATED_CNT n ≠ Reg.ec_STATUS n := by grind
  have hcond : (!((d.ecLeft n h).ecGroup n h.fire.stamp).1 || !(d.ecTaken n h).ecPasses n ((d.ecLeft n h).eff (Reg.ec_CTL n)) h.fire.stamp) = true := by
    rw [ecTaken_passes, ecLeft_group]
    rcases hstop with hstop | hstop
    · rw [hstop]
      rfl
    · rw [hstop]
      exact Bool.or_true _
  rw [eventChannelFiringD_eq hnext hon hgood, if_pos hcond]
  refine ⟨?_, ?_, ?_⟩
  · rw [ecOf, bump_ec]
    exact ecTaken_hold ..
  · rw [ecCount, fld_bump_ne _ _ _ hstatus]
    exact ecTaken_count ..
  · rw [rdN_bump_same, rdN, ecTaken_rd _ _ _ (by grind)]
    rfl

variable (hgroup : (d.ecGroup n h.fire.stamp).1 = true) (hgate : d.ecPasses n (d.eff (Reg.ec_CTL n)) h.fire.stamp = true)
include hgroup hgate

theorem eventChannelFiringD_of_passes : eventChannelFiringD n d =
    if d.ecCount n = 0 then
      ((d.ecTaken n h).setCount n (bitsOf (d.eff (Reg.ec_DIV n)).toNat 0 16)).holdOut n (h.tick + d.ecDelay n) h.fire
    else (d.ecTaken n h).setCount n (d.ecCount n - 1) := by
  have hcond : ¬ (!((d.ecLeft n h).ecGroup n h.fire.stamp).1 || !(d.ecTaken n h).ecPasses n ((d.ecLeft n h).eff (Reg.ec_CTL n)) h.fire.stamp) = true := by
    rw [ecTaken_passes, ecLeft_group, hgroup, hgate]
    decide
  rw [eventChannelFiringD_eq hnext hon hgood, if_neg hcond, ecTaken_count, ecTaken_delay, ecTaken_eff _ _ _ (by grind)]

/-- A divider that has not counted down falls by one. -/
theorem eventChannelFiringD_of_counting (hcount : d.ecCount n ≠ 0) :
    ((eventChannelFiringD n d).ecOf n).hold = (d.ecOf n).hold ∧ (eventChannelFiringD n d).ecCount n = d.ecCount n - 1 := by
  have hlt := d.ecCount_lt n
  rw [eventChannelFiringD_of_passes hnext hon hgood hgroup hgate, if_neg hcount, setCount_ecOf, setCount_count _ (by omega), ecTaken_hold]
  exact ⟨rfl, rfl⟩

/-- A divider that has counted down gives an output firing, and starts again from DIV. -/
theorem eventChannelFiringD_of_zero (hcount : d.ecCount n = 0) (hhold : (d.ecOf n).hold = []) :
    ((eventChannelFiringD n d).ecOf n).hold = [⟨h.fire, h.tick + d.ecDelay n⟩] ∧
      (eventChannelFiringD n d).ecCount n = bitsOf (d.eff (Reg.ec_DIV n)).toNat 0 16 := by
  have hdiv : bitsOf (d.eff (Reg.ec_DIV n)).toNat 0 16 < 2^16 := Nat.mod_lt _ (by decide)
  have hempty : (((d.ecTaken n h).setCount n (bitsOf (d.eff (Reg.ec_DIV n)).toNat 0 16)).ecOf n).hold = [] := by rw [setCount_ecOf, ecTaken_hold, hhold]
  rw [eventChannelFiringD_of_passes hnext hon hgood hgroup hgate, if_pos hcount]
  unfold holdOut
  dsimp only
  rw [hempty]
  dsimp only [List.getLast?_nil]
  unfold showHeld
  constructor
  · rw [ecOf, setBit_ec]
    exact congrArg EcSt.hold (ecOf_updEc_same ..)
  · rw [ecCount, fld_setBit_other _ _ _ _ _ _ (by decide) (by decide)]
    exact setCount_count _ hdiv
end next

/-! ## Delivery (R211, R217, R221, R222) -/

section reach
variable (d : Dev) (i tick : Nat) (f : Firing)

/-- A firing that finds the input's line empty stands in it alone. -/
theorem reach_of_empty (h : (d.tinOf i).inbox = []) : d.reach i tick f = d.updTin i (fun t => { t with inbox := [⟨f, tick⟩] }) := by
  unfold reach
  dsimp only
  rw [h]
  rfl
theorem reach_ec : (d.reach i tick f).ec = d.ec := by
  unfold reach
  dsimp only
  split
  · split
    · exact (raise_ec ..).trans ((wrN_ec ..).trans (updTin_ec ..))
    · exact updTin_ec ..
  · exact updTin_ec ..
theorem reach_tinOf_ne {j : Nat} (h : i ≠ j) : (d.reach i tick f).tinOf j = d.tinOf j := by
  unfold reach
  dsimp only
  split
  · split
    · rw [tinOf, raise_tin, wrN_tin, ← tinOf, tinOf_updTin_ne _ _ h]
    · exact tinOf_updTin_ne _ _ h
  · exact tinOf_updTin_ne _ _ h
theorem reach_rd {a : Nat} (hi : i < 512) (ha : a < 0x220000 ∨ 0x230000 ≤ a) : (d.reach i tick f).rd a = d.rd a := by
  have hevents : Reg.tin_EVENTS i ≠ a := by grind
  have hmerged : Reg.tin_COALESCE i ≠ a := by grind
  unfold reach
  dsimp only
  split
  · split
    · rw [rd_raise_ne _ _ hevents, rd_wrN_ne _ _ hmerged, rd_of_regs (updTin_regs ..)]
    · exact rd_of_regs (updTin_regs ..) a
  · exact rd_of_regs (updTin_regs ..) a
end reach

/-- What follows a delivery leaves the event channels and the task inputs, and the registers below the HOST block but for those of the captures. -/
structure aside (d d' : Dev) : Prop where
  ec : d'.ec = d.ec
  tin : d'.tin = d.tin
  rd : ∀ a < 0x1300000, d'.rd a = d.rd a

theorem aside_signal (d : Dev) (fn vec : Nat) : aside d (d.signal fn vec) where
  ec := by
    unfold signal
    split
    · rfl
    · split
      · exact setBit_ec ..
      · rfl
  tin := tin_of_base (base_signal ..)
  rd a ha := rd_signal_low _ _ _ ha
theorem aside_eventIrq (d : Dev) (fn : Nat) : aside d (d.eventIrq fn) := by
  unfold eventIrq
  split
  · exact ⟨rfl, rfl, fun _ _ => rfl⟩
  · have h := aside_signal d fn (d.fld (fnKey fn Reg.host_IRQ) 0 7)
    exact ⟨h.ec, h.tin, h.rd⟩
theorem aside_logFiring (d : Dev) (k n : Nat) (f : Firing) : aside d (d.logFiring k n f) := by
  have hevents : ∀ a < 0x1300000, Reg.cap_EVENTS k ≠ a := by grind
  have hcount : ∀ a < 0x1300000, Reg.cap_LOG_N k ≠ a := by grind
  unfold logFiring
  dsimp only
  split
  · split
    · exact ⟨raise_ec .., raise_tin .., fun a ha => rd_raise_ne _ _ (hevents a ha)⟩
    · exact ⟨wrN_ec .., wrN_tin .., fun a ha => rd_wrN_ne _ _ (hcount a ha)⟩
  · exact ⟨rfl, rfl, fun _ _ => rfl⟩

/-- The firing reaches every input that selects event channel `n`. -/
def reached (d : Dev) (n tick : Nat) (f : Firing) : Dev := (d.selecting n).foldl (fun d i => d.reach i tick f) d
/-- Event channel `n` counts and shows a delivered firing. -/
def counted (d : Dev) (n : Nat) (f : Firing) : Dev :=
  (((d.bump (Reg.ec_FIRE_CNT n)).wr64 (Reg.ec_LAST_LO n) f.stamp).setFld (Reg.ec_STATUS n) 18 3 f.gen).raise (Reg.evt_FLAG (n / 16)) (2 ^ (n % 16))

theorem counted_ec (d : Dev) (n : Nat) (f : Firing) : (d.counted n f).ec = d.ec :=
  (raise_ec ..).trans ((setFld_ec ..).trans ((wr64_ec ..).trans (bump_ec ..)))
theorem counted_tin (d : Dev) (n : Nat) (f : Firing) : (d.counted n f).tin = d.tin :=
  (raise_tin ..).trans ((setFld_tin ..).trans ((wr64_tin ..).trans (bump_tin ..)))
theorem counted_count (d : Dev) (n : Fin 256) (f : Firing) :
    (d.counted n f).rdN (Reg.ec_FIRE_CNT n) = min (2^32 - 1) (d.rdN (Reg.ec_FIRE_CNT n) + 1) := by
  have hflag : Reg.evt_FLAG (n / 16) ≠ Reg.ec_FIRE_CNT n := by grind
  have hstatus : Reg.ec_STATUS n ≠ Reg.ec_FIRE_CNT n := by grind
  have hlast : Reg.ec_LAST_LO n ≠ Reg.ec_FIRE_CNT n := by grind
  have hlast4 : Reg.ec_LAST_LO n + 4 ≠ Reg.ec_FIRE_CNT n := by grind
  unfold counted
  rw [rdN_raise_ne _ _ hflag, rdN_setFld_ne _ _ _ _ hstatus, rdN_wr64_ne _ _ hlast hlast4, rdN_bump_same]

theorem aside_trans {d d' d'' : Dev} (h : aside d d') (h' : aside d' d'') : aside d d'' :=
  ⟨h'.ec.trans h.ec, h'.tin.trans h.tin, fun a ha => (h'.rd a ha).trans (h.rd a ha)⟩

theorem aside_deliverFiring (d : Dev) (n tick : Nat) (f : Firing) : aside ((d.reached n tick f).counted n f) (d.deliverFiring n tick f) := by
  unfold deliverFiring
  extract_lets d₁ d₂ d₃ a stood d₄ d₅
  have hirq : aside d₄ d₅ := iteInduction (motive := fun x : Dev => aside d₄ x) (fun _ => aside_eventIrq ..) fun _ => ⟨rfl, rfl, fun _ _ => rfl⟩
  have hlog : ∀ (l : List Nat) (d : Dev), aside d (l.foldl (fun d k => d.logFiring k n f) d) := by
    intro l
    induction l with
    | nil => exact fun d => ⟨rfl, rfl, fun _ _ => rfl⟩
    | cons k r ih => exact fun d => aside_trans (aside_logFiring d k n f) (ih _)
  exact aside_trans hirq (hlog _ _)

theorem reached_ec (d : Dev) (n tick : Nat) (f : Firing) : (d.reached n tick f).ec = d.ec := foldl_keeps Dev.ec _ _ (fun d i => reach_ec d i tick f) d
theorem mem_selecting_lt {d : Dev} {n i : Nat} (h : i ∈ d.selecting n) : i < 512 := by
  unfold selecting at h
  exact List.mem_range.mp (List.mem_filter.mp h).1
theorem reached_rd (d : Dev) (n tick : Nat) (f : Firing) {a : Nat} (ha : a < 0x220000 ∨ 0x230000 ≤ a) : (d.reached n tick f).rd a = d.rd a :=
  foldl_keeps_mem (Dev.rd · a) _ _ (fun i hi d => reach_rd d i tick f (mem_selecting_lt hi) ha) d
theorem reached_inbox (d : Dev) {n i : Nat} (tick : Nat) (f : Firing) (hi : i ∈ d.selecting n) (h : (d.tinOf i).inbox = []) :
    ((d.reached n tick f).tinOf i).inbox = [⟨f, tick⟩] := by
  obtain ⟨d₀, -, hbefore, hafter⟩ := foldl_each (l := d.selecting n) (P := fun _ => True) (q := fun i d => d.tinOf i)
    (f := fun d i => d.reach i tick f) (fun _ _ _ _ => trivial)
    (fun d i _ j _ hij => reach_tinOf_ne d i tick f hij) (List.nodup_range.filter _) trivial hi
  have hempty : (d₀.tinOf i).inbox = [] := by rw [hbefore, h]
  unfold reached
  rw [hafter, reach_of_empty _ _ _ _ hempty]
  exact congrArg TinSt.inbox (tinOf_updTin_same ..)

/-- The oldest firing leaves the hold line of event channel `n`. -/
def unheld (d : Dev) (n : Nat) (r : List Held) : Dev := (d.updEc n (fun e => { e with hold := r })).showHeld n

section unheld
variable (d : Dev) (n : Nat) (r : List Held)

theorem unheld_ecOf : ((d.unheld n r).ecOf n).hold = r := by
  unfold unheld showHeld
  rw [ecOf, setBit_ec]
  exact congrArg EcSt.hold (ecOf_updEc_same ..)
theorem unheld_rd {a : Nat} (h : Reg.ec_STATUS n ≠ a) : (d.unheld n r).rd a = d.rd a := by
  unfold unheld showHeld
  rw [rd_setBit_ne _ _ _ h, rd_of_regs (updEc_regs ..)]
theorem unheld_tinOf (i : Nat) : (d.unheld n r).tinOf i = d.tinOf i := by
  unfold unheld showHeld
  rw [tinOf, setBit_tin, updEc_tin, ← tinOf]
theorem unheld_selecting (m : Nat) : (d.unheld n r).selecting m = d.selecting m := by
  have heff : ∀ i, (d.unheld n r).eff (Reg.tin_SEL i) = d.eff (Reg.tin_SEL i) := fun i => by
    unfold eff
    rw [unheld_rd _ _ _ (by grind)]
    unfold unheld showHeld
    rw [setBit_inforce, updEc_inforce]
  unfold selecting
  simp only [heff]
end unheld

theorem deliverD_of_due {d : Dev} {n : Fin 256} {h : Held} {r : List Held} (hhold : (d.ecOf n).hold = h :: r)
    (hgood : d.corrupt (Reg.ec_CFG n) 128 = false) (hdue : h.tick < d.nowT / 16) (hlate : ∀ x ∈ (d.ecOf n).inbox, h.tick < x.tick + d.ecDelay n) :
    deliverD n d = (d.unheld n r).deliverFiring n h.tick h.fire := by
  have hgo : ¬ (d.nowT / 16 ≤ h.tick ∨ (d.ecOf n).inbox.any (fun x => decide (x.tick + d.ecDelay n ≤ h.tick)) = true) := by
    rw [not_or, List.any_eq_true]
    refine ⟨hdue.not_ge, fun ⟨x, hx, hle⟩ => ?_⟩
    exact absurd (hlate x hx) (of_decide_eq_true hle).not_gt
  unfold deliverD
  dsimp only
  rw [hhold]
  dsimp only
  rw [if_neg (ne_true_of_eq_false hgood), if_neg hgo]
  rfl

/-- A delivery reaches every input that selects the channel, and is counted. -/
theorem deliverD_spec {d : Dev} {n : Fin 256} {h : Held} {r : List Held} (hhold : (d.ecOf n).hold = h :: r)
    (hgood : d.corrupt (Reg.ec_CFG n) 128 = false) (hdue : h.tick < d.nowT / 16) (hlate : ∀ x ∈ (d.ecOf n).inbox, h.tick < x.tick + d.ecDelay n) :
    ((deliverD n d).ecOf n).hold = r ∧ (deliverD n d).rdN (Reg.ec_FIRE_CNT n) = min (2^32 - 1) (d.rdN (Reg.ec_FIRE_CNT n) + 1) ∧
      ∀ i ∈ d.selecting n, (d.tinOf i).inbox = [] → ((deliverD n d).tinOf i).inbox = [⟨h.fire, h.tick⟩] := by
  rw [deliverD_of_due hhold hgood hdue hlate]
  have haside := aside_deliverFiring (d.unheld n r) n h.tick h.fire
  refine ⟨?_, ?_, fun i hi hempty => ?_⟩
  · rw [ecOf, haside.ec, counted_ec, reached_ec]
    exact unheld_ecOf ..
  · rw [rdN, haside.rd _ (by grind), ← rdN, counted_count, rdN, reached_rd _ _ _ _ (.inl (by grind)), unheld_rd _ _ _ (by grind)]
    rfl
  · rw [tinOf, haside.tin, counted_tin]
    refine reached_inbox _ _ _ ?_ ?_
    · rw [unheld_selecting]
      exact hi
    · rw [unheld_tinOf, hempty]

/-! ## Buffered values (R218) -/

/-- Settling registers leaves what is written in them, and holds back none of them. -/
theorem settle_all (l : List Nat) (d : Dev) : (l.foldl (fun d a => d.settle a) d).regs = d.regs ∧
    ∀ b, b ∈ l ∨ d.held b = false → (l.foldl (fun d a => d.settle a) d).held b = false := by
  induction l generalizing d with
  | nil => exact ⟨rfl, fun b hb => hb.elim (fun h => by cases h) id⟩
  | cons a l ih =>
    obtain ⟨hregs, hheld⟩ := ih (d.settle a)
    refine ⟨hregs.trans (settle_regs ..), fun b hb => hheld b ?_⟩
    by_cases hab : a = b
    · subst hab
      refine .inr ?_
      unfold held settle
      rw [SMap.get_set_same]
      rfl
    · rcases hb with hb | hb
      · exact .inl ((List.mem_cons.mp hb).resolve_left (Ne.symm hab))
      · refine .inr ?_
        unfold held settle at *
        rw [SMap.get_set_ne _ _ _ _ hab, hb]

theorem ecApplyD_of_idle {d : Dev} {n : Fin 256} (hcount : d.ecCount n = 0) (hhold : (d.ecOf n).hold = []) :
    ∀ a ∈ ecBuffered n, (ecApplyD n d).held a = false ∧ (ecApplyD n d).rd a = d.rd a := by
  intro a ha
  obtain ⟨hregs, hheld⟩ := settle_all (ecBuffered n) d
  have hne : Reg.ec_STATUS n ≠ a := by
    unfold ecBuffered at ha
    simp only [List.mem_cons, List.not_mem_nil, or_false] at ha
    grind
  have hgo : ¬ (d.bit (Reg.ec_CTL n) 22 && (d.ecCount n != 0 || !(d.ecOf n).hold.isEmpty)) = true := by
    rw [hcount, hhold]
    simp
  unfold ecApplyD applyEc
  rw [if_neg hgo]
  dsimp only
  split
  · refine ⟨?_, (rd_setFld_ne _ _ _ _ hne).trans (rd_of_regs hregs a)⟩
    rw [← hheld a (.inl ha), held, setCount, setFld_inforce]
    rfl
  · exact ⟨hheld a (.inl ha), rd_of_regs hregs a⟩

end Dev

/-- Settles O16: the branches of the channel's next firing, a delivery, and the values that wait for an idle channel. -/
theorem eventChannelsDivideAndDeliver : Obligations.EventChannelsDivideAndDeliver := by
  intro s n d
  refine ⟨fun h => ?_, fun h r hhold hgood hdue hlate => ?_, fun hcount hhold => ?_⟩
  · intro ctl f gate on hnext hon hgood
    refine ⟨fun hstop => ?_, fun hgroup hgate hcount => ?_, fun hgroup hgate hcount hhold => ?_⟩
    · exact State.runs_of_onDev (exec_eventChannelFiring n s) rfl (Dev.eventChannelFiringD_of_stopped hnext hon hgood hstop)
    · exact State.runs_of_onDev (exec_eventChannelFiring n s) rfl (Dev.eventChannelFiringD_of_counting hnext hon hgood hgroup hgate hcount)
    · exact State.runs_of_onDev (exec_eventChannelFiring n s) rfl (Dev.eventChannelFiringD_of_zero hnext hon hgood hgroup hgate hcount hhold)
  · exact State.runs_of_onDev (exec_deliver n s) rfl (Dev.deliverD_spec hhold hgood hdue hlate)
  · exact State.runs_of_onDev (exec_ecApply n s) rfl (Dev.ecApplyD_of_idle hcount hhold)

end Sys2Proof.Machine

/-! PROOFS. Writes of the guard's working limits and of SAFE_CODE (R187, R194). -/
namespace Sys2Proof.Machine

theorem exec_guardWrite (fn : Fn) (ch : Fin 96) (which : Fin 3) (v : Word) (s : State) :
    exec (.guardWrite fn ch which v) s = s.onGuard (guardWriteG fn ch which v) := rfl
theorem exec_safeCode (fn : Fn) (ch : Fin 96) (v : Word) (s : State) : exec (.safeCode fn ch v) s = s.onGuard (safeCodeG fn ch v) := rfl

theorem sext_extract (v : Word) (lo : Nat) : sext 16 (v.toNat / 2^lo) = (v.extractLsb' lo 16).toInt := by
  unfold sext
  rw [BitVec.toInt_eq_toNat_cond, BitVec.extractLsb'_toNat, Nat.shiftRight_eq_div_pow]
  split <;> split <;> omega

/-! ## What a write of the guard does -/

theorem guardAccess_of_answers {fn off : Nat} {o : Option Nat} {g : Guard} {d : Dev} (hans : d.answers fn off o) (f : Guard → Dev → Guard × Dev) :
    guardAccess fn off (o.getD 0) o.isNone g d f = f g d := by
  obtain ⟨hstandby, hsees, hawake⟩ := hans
  have howner : Dev.ownerField (o.getD 0) o.isNone = o := by cases o <;> rfl
  unfold guardAccess
  rw [howner, hstandby, hsees, hawake]
  rfl

theorem Dev.loosen_flags (d : Dev) (fn : Fn) (off : Nat) (ch : Fin 96) :
    (d.loosen fn off ch).bit (Reg.chn_OUT_EVENTS ch) 7 = true ∧ (d.loosen fn off ch).bit (Dev.fnKey fn Reg.glob_ACC_EVENTS) 4 = true := by
  have hne : Reg.chn_OUT_EVENTS ch ≠ Dev.fnKey fn Reg.glob_ACC_EVENTS := by
    unfold Reg.chn_OUT_EVENTS chnBase Dev.fnKey Reg.glob_ACC_EVENTS
    omega
  unfold Dev.loosen
  constructor
  · rw [Dev.bit_raise_same _ _ _ _ (by decide) (by decide)]
    exact Bool.or_true _
  · rw [Dev.bit_raise_ne _ _ _ hne]
    unfold Dev.refuse Dev.accRecord
    rw [Dev.bit_raise_same _ _ _ _ (by decide) (by decide)]
    exact Bool.or_true _

/-- The guard takes a channel's limits and leaves those of the others. -/
def Guard.withCh (g : Guard) (n : Nat) (k : GuardCh) : Guard := { g with ch := SMap.set {} g.ch n k }

theorem Guard.withCh_of (g : Guard) (n : Nat) (k : GuardCh) : (g.withCh n k).of n = k ∧ ∀ m, m ≠ n → (g.withCh n k).of m = g.of m :=
  ⟨SMap.get_set_same .., fun _ hm => SMap.get_set_ne _ _ _ _ (Ne.symm hm)⟩

theorem Dev.endParity_launches (d : Dev) (a : Nat) : (d.endParity a).launches = d.launches := by
  obtain ⟨⟨r, p, h⟩, -⟩ := Dev.sameButParity_endParity d a
  rw [h]

section write
variable {s : State} {i : Instr} {fn : Fn} {ch : Fin 96} {off : Nat} {f : Guard → Dev → Guard × Dev} (hexec : exec i s = s.onGuard f)
include hexec

/-- A value within the seals is taken. -/
theorem State.runsG_of_taken {k : GuardCh} (hf : f s.guard s.dev = (s.guard.withCh ch k, s.dev.endParity off)) :
    s.runsG i (fun g' d' => g'.of ch = k ∧ (∀ n, n ≠ ch.val → g'.of n = s.guard.of n) ∧ g'.tout = s.guard.tout ∧ d'.launches = s.dev.launches) := by
  obtain ⟨hsame, hother⟩ := s.guard.withCh_of ch k
  refine ⟨_, hexec, rfl, rfl, ?_⟩
  dsimp only
  rw [hf]
  exact ⟨hsame, hother, rfl, Dev.endParity_launches ..⟩
/-- Any other is refused, and the guard stays. -/
theorem State.runs_of_loosen (hf : f s.guard s.dev = (s.guard, s.dev.loosen fn off ch)) :
    s.runs i (fun d' => d'.bit (Reg.chn_OUT_EVENTS ch) 7 = true ∧ d'.bit (Dev.fnKey fn Reg.glob_ACC_EVENTS) 4 = true) := by
  refine ⟨_, hexec, ⟨?_, rfl, rfl⟩, ?_⟩
  · exact congrArg Prod.fst hf
  · dsimp only
    rw [hf]
    exact Dev.loosen_flags ..
end write

section guardWrite
variable {s : State} {fn : Fn} {ch : Fin 96} {which : Fin 3} {v : Word} {off : Nat}
  (hoff : off = if which = 0 then Reg.chn_GUARD_CLAMP ch else if which = 1 then Reg.chn_GUARD_SLEW ch else Reg.chn_GUARD_PWR ch)
  (hans : s.dev.answers fn off (s.dev.chOwner ch))
include hoff hans

theorem guardWriteG_of_taken {k : GuardCh} (hk : (s.guard.of ch).tighten which v = some k) :
    guardWriteG fn ch which v s.guard s.dev = (s.guard.withCh ch k, s.dev.endParity off) := by
  unfold guardWriteG
  dsimp only
  rw [← hoff, guardAccess_of_answers hans, hk]
  rfl
theorem guardWriteG_of_refused (hk : (s.guard.of ch).tighten which v = none) :
    guardWriteG fn ch which v s.guard s.dev = (s.guard, s.dev.loosen fn off ch) := by
  unfold guardWriteG
  dsimp only
  rw [← hoff, guardAccess_of_answers hans, hk]

theorem State.runsG_of_tighten {k : GuardCh} (hk : (s.guard.of ch).tighten which v = some k) :
    s.runsG (.guardWrite fn ch which v) (fun g' d' =>
      g'.of ch = k ∧ (∀ n, n ≠ ch.val → g'.of n = s.guard.of n) ∧ g'.tout = s.guard.tout ∧ d'.launches = s.dev.launches) :=
  State.runsG_of_taken (off := off) (exec_guardWrite fn ch which v s) (guardWriteG_of_taken hoff hans hk)
theorem State.runs_of_not_tighten (hk : (s.guard.of ch).tighten which v = none) :
    s.runs (.guardWrite fn ch which v) (fun d' => d'.bit (Reg.chn_OUT_EVENTS ch) 7 = true ∧ d'.bit (Dev.fnKey fn Reg.glob_ACC_EVENTS) 4 = true) :=
  State.runs_of_loosen (off := off) (exec_guardWrite fn ch which v s) (guardWriteG_of_refused hoff hans hk)
end guardWrite

/-! ## The working limits and their seals -/

theorem GuardCh.tighten_clamp (k : GuardCh) (v : Word) :
    k.tighten 0 v = if k.sealLo ≤ (v.extractLsb' 0 16).toInt ∧ (v.extractLsb' 0 16).toInt ≤ (v.extractLsb' 16 16).toInt ∧
      (v.extractLsb' 16 16).toInt ≤ k.sealHi then some { k with lo := (v.extractLsb' 0 16).toInt, hi := (v.extractLsb' 16 16).toInt } else none := by
  rw [← sext_extract, ← sext_extract, pow_zero, Nat.div_one]
  rfl
theorem GuardCh.tighten_slew (k : GuardCh) (v : Word) :
    k.tighten 1 v = if 1 ≤ v.toNat % 2^16 ∧ v.toNat % 2^16 ≤ k.sealS then some { k with slew := v.toNat % 2^16 } else none := rfl
theorem GuardCh.tighten_power (k : GuardCh) (v : Word) :
    k.tighten 2 v = if v.toNat % 2^30 ≤ k.sealPwr then some { k with pwr := v.toNat % 2^30 } else none := rfl

theorem safeCodeG_of_answers {g : Guard} {d : Dev} {fn : Fn} {ch : Fin 96} {v : Word} (hans : d.answers fn (Reg.chn_SAFE_CODE ch) (d.chOwner ch)) :
    safeCodeG fn ch v g d = if (g.of ch).sealLo ≤ (v.extractLsb' 0 16).toInt ∧ (v.extractLsb' 0 16).toInt ≤ (g.of ch).sealHi then
      (g.withCh ch { g.of ch with safe := (v.extractLsb' 0 16).toInt }, d.endParity (Reg.chn_SAFE_CODE ch))
    else (g, d.loosen fn (Reg.chn_SAFE_CODE ch) ch) := by
  unfold safeCodeG
  rw [guardAccess_of_answers hans, ← sext_extract, pow_zero, Nat.div_one]
  rfl

/-- Settles O20: each write goes by its test against the seals. -/
theorem guardWritesStayWithinTheSeals : Obligations.GuardWritesStayWithinTheSeals := by
  intro s fn ch v d k lo hi takes
  have hslew : Reg.chn_GUARD_SLEW ch =
      if (1 : Fin 3) = 0 then Reg.chn_GUARD_CLAMP ch else if (1 : Fin 3) = 1 then Reg.chn_GUARD_SLEW ch else Reg.chn_GUARD_PWR ch :=
    ((if_neg (by decide)).trans (if_pos rfl)).symm
  have hpower : Reg.chn_GUARD_PWR ch =
      if (2 : Fin 3) = 0 then Reg.chn_GUARD_CLAMP ch else if (2 : Fin 3) = 1 then Reg.chn_GUARD_SLEW ch else Reg.chn_GUARD_PWR ch :=
    ((if_neg (by decide)).trans (if_neg (by decide))).symm
  refine ⟨fun hans => ⟨fun hok => ?_, fun hbad => ?_⟩, fun hans => ⟨fun hok => ?_, fun hbad => ?_⟩, fun hans => ⟨fun hok => ?_, fun hbad => ?_⟩,
    fun hans => ⟨fun hok => ?_, fun hbad => ?_⟩⟩
  · exact State.runsG_of_tighten (if_pos rfl).symm hans ((k.tighten_clamp v).trans (if_pos hok))
  · exact State.runs_of_not_tighten (if_pos rfl).symm hans ((k.tighten_clamp v).trans (if_neg hbad))
  · exact State.runsG_of_tighten hslew hans ((k.tighten_slew v).trans (if_pos hok))
  · exact State.runs_of_not_tighten hslew hans ((k.tighten_slew v).trans (if_neg hbad))
  · exact State.runsG_of_tighten hpower hans ((k.tighten_power v).trans (if_pos hok))
  · exact State.runs_of_not_tighten hpower hans ((k.tighten_power v).trans (if_neg hbad))
  · exact State.runsG_of_taken (exec_safeCode fn ch v s) ((safeCodeG_of_answers hans).trans (if_pos hok))
  · exact State.runs_of_loosen (exec_safeCode fn ch v s) ((safeCodeG_of_answers hans).trans (if_neg hbad))

end Sys2Proof.Machine

/-! PROOFS. The guard and the power limit in a tick (R184 to R186): both statements let device time stand between two tick boundaries, where the sixteen
codes of a tick fall into two words; an error of the second word then gives safe code within the tick (R197), which no hypothesis shuts out. -/
namespace Sys2Proof.Machine

/-- Channel 95 in STATIC at code 0, at a device time that is no multiple of 16; the word of the next tick, number 101, came with an error. -/
def oddDev : Dev := { runDev.wrN (Reg.chn_CFG 95) 2 with time := { now := 1608, refOk := true }, chan := [(95, { badWord := some 101 })] }

/-- A guard whose safe code for channel 95 lies many slew steps from code 0. -/
def oddGuard : Guard := { ch := [(95, { sealLo := -1000, sealHi := 1000, sealPwr := 500, lo := -1000, hi := 1000, slew := 1, pwr := 500, safe := 500 })] }

/-- The state in which that channel is driven. -/
def oddState : State := { dev := oddDev, guard := oddGuard }

theorem oddGuard_lo_le_hi : (oddGuard.of 95).lo ≤ (oddGuard.of 95).hi := by decide
theorem oddDev_drives : oddDev.drives oddGuard 95 := by decide +kernel
theorem oddDev_mode : oddDev.chMode 95 = 2 := by decide +kernel
theorem oddDev_chan : oddDev.chanOf 95 = { badWord := some 101 } := by decide +kernel

/-- Safe code reaches the DAC within the tick, and the code of the tick ends there. -/
theorem oddDev_tick_code : ((oddDev.tick oddGuard).chanOf 95).code = 500 := by decide +kernel
/-- The path gave 0 throughout, yet codes slewed back from safe code are measured. -/
theorem oddDev_tick_sum : ((oddDev.tick oddGuard).chanOf 95).pwrSum = 1743007 := by decide +kernel

theorem step_of_idle {s : State} (h : s.pending = []) : step s = s.onGuarded (fun g d => d.tick g) := by
  unfold step
  split
  · rfl
  · next hpending => rw [h] at hpending; cases hpending

theorem dev_of_idle_step {s t : State} (h : s.pending = []) (hstep : step s = .next t) : t.dev = s.dev.tick s.guard := by
  rw [step_of_idle h] at hstep
  exact congrArg State.dev (Host.Outcome.next.inj hstep).symm

/-- Refutes O19: between two tick boundaries, an error of the second word puts the safe code 500 after code 0, past the slew limit of 16 codes. -/
theorem not_guardLimitsTheCode : ¬ Obligations.GuardLimitsTheCode := by
  unfold Obligations.GuardLimitsTheCode
  intro h
  obtain ⟨t, hstep, -, -, hcode, -⟩ := h oddState 95 rfl oddDev_drives oddGuard_lo_le_hi
  have hafter : (t.dev.chanOf 95).code = 500 := by
    rw [dev_of_idle_step rfl hstep]
    exact oddDev_tick_code
  have hbefore : (oddState.dev.chanOf (95 : Fin 96)).code = 0 := congrArg Chan.code oddDev_chan
  have hslew : (oddState.guard.of (95 : Fin 96)).slew = 1 := by decide
  rw [hbefore, hslew] at hcode
  exact absurd (hcode.trans_eq' (congrArg (fun x : Int => (x - 0).natAbs) hafter)) (by decide)

/-- Refutes O21: there the safe code is also what the next codes slew from, so that the block's sum is not sixteen times the path's square. -/
theorem not_powerLimitTrips : ¬ Obligations.PowerLimitTrips := by
  unfold Obligations.PowerLimitTrips
  intro h
  obtain ⟨t, hstep, -, hsum, -⟩ := (h oddState 95).1 rfl oddDev_drives oddDev_mode (by decide) (by decide) (by decide)
  have hafter : (t.dev.chanOf 95).pwrSum = 1743007 := by
    rw [dev_of_idle_step rfl hstep]
    exact oddDev_tick_sum
  have hpath : oddState.dev.chanOf (95 : Fin 96) = { badWord := some 101 } := oddDev_chan
  rw [hpath] at hsum
  dsimp only at hsum
  rw [ite_self] at hsum
  exact absurd (hafter.symm.trans hsum) (by decide)

end Sys2Proof.Machine

/-! PROOFS. SYNC, alarms and the return of the reference (R34, R39, R40). -/
namespace Sys2Proof.Machine

theorem exec_syncEdge (s : State) : exec .syncEdge s = s.onDev syncEdgeD := rfl
theorem exec_alarm (a : Fin 64) (s : State) : exec (.alarm a) s = s.onDev (alarmD a) := rfl
theorem exec_alarmEnable (a : Fin 64) (s : State) : exec (.alarmEnable a) s = s.onDev (alarmEnableD a) := rfl
theorem exec_refDetected (khz : BitVec 32) (s : State) : exec (.refDetected khz) s = s.onDev (refDetectedD khz) := rfl

namespace Dev

/-- The device at another time. -/
def atTime (d : Dev) (x : TimeSt) : Dev := { d with time := x }

section atTime
variable (d : Dev) (x : TimeSt)
theorem atTime_time : (d.atTime x).time = x := rfl
theorem atTime_regs : (d.atTime x).regs = d.regs := rfl
theorem atTime_ec : (d.atTime x).ec = d.ec := rfl
theorem sameListeners_atTime : sameListeners d (d.atTime x) := sameListeners_of_fields rfl rfl rfl
end atTime

/-! ## SYNC (R39) -/

/-- A SYNC edge is stamped with the time of its REF-domain edge, and fires SYNC. -/
theorem syncEdgeD_spec {d : Dev} (href : d.time.refOk = true) (hmax : d.accEdge / 2^32 < 2^64) :
    (syncEdgeD d).rd64 Reg.time_SYNC_LO = d.accEdge / 2^32 ∧ (syncEdgeD d).time.lastSync = some d.time.refN ∧
      d.fired (syncEdgeD d) 981 (d.accEdge / 2^32) := by
  unfold syncEdgeD
  rw [href, if_neg (by decide)]
  extract_lets stamp chk slip d₁ now tm d₂
  have htime : d₁.time = d.time := iteInduction (motive := fun x : Dev => x.time = d.time) (fun _ => raise_time ..) fun _ => rfl
  have hflag : sameListeners d d₁ := sameListeners_ite (sameListeners_raise d (by unfold inEc; decide) _) (sameListeners_refl d)
  have hlast : d₂.time.lastSync = some d.time.refN := by
    rw [← htime]
  have hsame : sameListeners d₁ d₂ := sameListeners_atTime d₁ _
  clear_value d₂
  have hshow : sameListeners d₂ (d₂.wr64 Reg.time_SYNC_LO stamp) := sameListeners_wr64 d₂ (by unfold inEc; decide) (by unfold inEc; decide) _
  refine ⟨?_, ?_, fired_of_fireAs (gen := 0) (by decide) (sameListeners_trans (sameListeners_trans hflag hsame) hshow) (inboxGrows_refl _)⟩
  · rw [rd64, rdN_congr (fireAs_regs _ _ _ _ _ _ (by decide)), rdN_congr (fireAs_regs _ _ _ _ _ _ (by decide)), ← rd64, rd64_wr64 _ _ _ hmax]
  · rw [time_of_base (base_fireAs ..), wr64_time, hlast]

/-! ## Alarms (R40) -/

section alarmFires
variable (d : Dev) (a : Fin 64) (t : Nat) (late : Bool)

/-- The alarm's source fires. -/
def alarmFired : Dev := d.fireAs (864 + a) t 0 (!d.timeValid) late

theorem alarmFired_regs : (d.alarmFired a t late).regs = d.regs := fireAs_regs _ _ _ _ _ _ (by decide)
theorem alarmFired_time : (d.alarmFired a t late).time = d.time := time_of_base (base_fireAs ..)

theorem alarmFires_of_once (hp : d.rdN (Reg.alarm_PERIOD a) = 0) :
    d.alarmFires a t late = (d.alarmFired a t late).setBit (Reg.alarm_CTL a) 1 false := by
  have hp' : (d.alarmFired a t late).rdN (Reg.alarm_PERIOD a) = 0 := (rdN_congr (alarmFired_regs ..) _).trans hp
  exact if_pos hp'
theorem alarmFires_of_periodic (hp : d.rdN (Reg.alarm_PERIOD a) ≠ 0) (hmax : t + d.rdN (Reg.alarm_PERIOD a) < 2^64) :
    d.alarmFires a t late = ((d.alarmFired a t late).atTime
      { d.time with alarms := SMap.set 0 d.time.alarms a (t + d.rdN (Reg.alarm_PERIOD a)) }).setBit (Reg.alarm_CTL a) 1 true := by
  have hp' : (d.alarmFired a t late).rdN (Reg.alarm_PERIOD a) = d.rdN (Reg.alarm_PERIOD a) := rdN_congr (alarmFired_regs ..) _
  have hgo : ¬ (d.alarmFired a t late).rdN (Reg.alarm_PERIOD a) = 0 := hp'.trans_ne hp
  have hgo' : ¬ 2^64 ≤ t + (d.alarmFired a t late).rdN (Reg.alarm_PERIOD a) := by
    rw [hp']
    exact hmax.not_ge
  refine ((if_neg hgo).trans (if_neg hgo')).trans ?_
  rw [← hp', ← alarmFired_time d a t late]
  rfl
theorem alarmFired_fired : d.fired (d.alarmFired a t late) (864 + a) t := fired_of_fireAs (by decide) (sameListeners_refl d) (inboxGrows_refl _)
end alarmFires

theorem fired_of_grows {d d₁ d' : Dev} {src t : Nat} (h : d.fired d₁ src t) (hgrow : inboxGrows d₁ d') : d.fired d' src t := by
  intro n hn
  obtain ⟨x, hx, hfire⟩ := h n hn
  exact ⟨x, hgrow.keeps n x hx, hfire⟩

theorem alarmD_of_due {d : Dev} {a : Fin 64} (hvalid : d.timeValid = true) (hon : d.bit (Reg.alarm_CTL a) 1 = true)
    (hdue : d.due (SMap.get 0 d.time.alarms a) = true) (hgood : d.corrupt (Reg.alarm_AT_LO a) 16 = false) :
    alarmD a d = d.alarmFires a (SMap.get 0 d.time.alarms a) false := by
  unfold alarmD
  dsimp only
  rw [hvalid, hon, hdue, hgood]
  rfl

/-- An alarm fires; without a period it is off then, and with one it has its next time. -/
theorem alarmFires_spec (d : Dev) (a : Fin 64) (t : Nat) (late : Bool) :
    d.fired (d.alarmFires a t late) (864 + a) t ∧ (d.rdN (Reg.alarm_PERIOD a) = 0 → (d.alarmFires a t late).bit (Reg.alarm_CTL a) 1 = false) ∧
    (d.rdN (Reg.alarm_PERIOD a) ≠ 0 → t + d.rdN (Reg.alarm_PERIOD a) < 2^64 → (d.alarmFires a t late).bit (Reg.alarm_CTL a) 1 = true ∧
      SMap.get 0 (d.alarmFires a t late).time.alarms a = t + d.rdN (Reg.alarm_PERIOD a)) := by
  have hec : (d.alarmFires a t late).ec = (d.alarmFired a t late).ec := by
    refine iteInduction (motive := fun x : Dev => x.ec = (d.alarmFired a t late).ec) (fun _ => setBit_ec ..) fun _ => ?_
    exact iteInduction (motive := fun x : Dev => x.ec = (d.alarmFired a t late).ec) (fun _ => (setBit_ec ..).trans (raise_ec ..)) fun _ => setBit_ec ..
  refine ⟨fired_of_grows (alarmFired_fired d a t late) (inboxGrows_of_ec hec), fun hp => ?_, fun hp hmax => ?_⟩
  · rw [alarmFires_of_once d a t late hp]
    exact bit_setBit_same _ _ _ _ (by decide)
  · rw [alarmFires_of_periodic d a t late hp hmax]
    refine ⟨bit_setBit_same _ _ _ _ (by decide), ?_⟩
    rw [setBit_time]
    exact SMap.get_set_same ..

section alarmEnable
variable {d : Dev} {a : Fin 64} (hvalid : d.timeValid = true) (hheld : d.held (Reg.alarm_CTL a) = true)
include hvalid hheld

theorem alarmEnableD_of_on (hon : d.fld (Reg.alarm_CTL a) 0 1 = 1) (hnow : d.nowT ≤ d.rd64 (Reg.alarm_AT_LO a)) :
    alarmEnableD a d = ((d.settle (Reg.alarm_CTL a)).atTime
      { d.time with alarms := SMap.set 0 d.time.alarms a (d.rd64 (Reg.alarm_AT_LO a)) }).setBit (Reg.alarm_CTL a) 1 true := by
  have hon' : ¬ (d.settle (Reg.alarm_CTL a)).fld (Reg.alarm_CTL a) 0 1 = 0 := by
    rw [fld_congr (settle_regs ..), hon]
    decide
  have hat : (d.settle (Reg.alarm_CTL a)).rd64 (Reg.alarm_AT_LO a) = d.rd64 (Reg.alarm_AT_LO a) := rfl
  unfold alarmEnableD
  dsimp only
  rw [hvalid, hheld, if_neg (by decide), if_neg hon', hat, if_pos hnow]
  rfl
theorem alarmEnableD_of_off (hoff : d.fld (Reg.alarm_CTL a) 0 1 = 0) :
    alarmEnableD a d = (d.settle (Reg.alarm_CTL a)).setBit (Reg.alarm_CTL a) 1 false := by
  have hoff' : (d.settle (Reg.alarm_CTL a)).fld (Reg.alarm_CTL a) 0 1 = 0 := (fld_congr (settle_regs ..) ..).trans hoff
  unfold alarmEnableD
  dsimp only
  rw [hvalid, hheld, if_neg (by decide), if_pos hoff']
end alarmEnable

/-! ## The return of the reference (R34) -/

theorem setTimeState_timeState (d : Dev) {s : Nat} (h : s < 4) : (d.setTimeState s).timeState = s := by
  unfold setTimeState timeState
  rw [fld_setBit_other _ _ _ _ _ _ (by decide) (by decide), fld_setFld_same _ _ _ _ _ (by decide)]
  exact Nat.mod_eq_of_lt h
theorem setTimeState_timeValid (d : Dev) (s : Nat) : (d.setTimeState s).timeValid = (s == 2) := bit_setBit_same _ _ _ _ (by decide)
theorem setTimeState_rd (d : Dev) (s : Nat) {a : Nat} (h : Reg.time_STATUS ≠ a) : (d.setTimeState s).rd a = d.rd a :=
  (rd_setBit_ne _ _ _ h).trans (rd_setFld_ne _ _ _ _ h)
theorem setTimeState_time (d : Dev) (s : Nat) : (d.setTimeState s).time = d.time := (setBit_time ..).trans (setFld_time ..)

/-- The measured reference is shown. -/
def refShown (d : Dev) (khz : BitVec 32) : Dev :=
  ((d.wrN Reg.clk_REF_MEAS khz.toNat).setBit Reg.clk_STATUS 7 true).atTime { d.time with refOk := true }

theorem refShown_rd (d : Dev) (khz : BitVec 32) {a : Nat} (hmeas : Reg.clk_REF_MEAS ≠ a) (hstatus : Reg.clk_STATUS ≠ a) : (d.refShown khz).rd a = d.rd a := by
  unfold refShown
  rw [rd_congr (atTime_regs ..), rd_setBit_ne _ _ _ hstatus, rd_wrN_ne _ _ hmeas]

theorem refDetectedD_eq (d : Dev) (khz : BitVec 32) :
    refDetectedD khz d = if d.timeState = 0 then (d.refShown khz).setTimeState 1 else d.refShown khz := by
  have htime : ((d.wrN Reg.clk_REF_MEAS khz.toNat).setBit Reg.clk_STATUS 7 true).time = d.time := (setBit_time ..).trans (wrN_time ..)
  have hstate : (d.refShown khz).timeState = d.timeState := by
    unfold timeState fld rdN
    rw [refShown_rd _ _ (by decide) (by decide)]
  rw [← hstate]
  unfold refDetectedD refShown atTime
  rw [← htime]

theorem refDetectedD_spec (d : Dev) (khz : BitVec 32) :
    (refDetectedD khz d).rdN Reg.clk_REF_MEAS = khz.toNat ∧ (refDetectedD khz d).bit Reg.clk_STATUS 7 = true ∧
      (refDetectedD khz d).time = { d.time with refOk := true } ∧ (refDetectedD khz d).timeState = if d.timeState = 0 then 1 else d.timeState := by
  have hmeas : (d.refShown khz).rdN Reg.clk_REF_MEAS = khz.toNat := by
    unfold refShown
    rw [rdN_congr (atTime_regs ..), rdN_setBit_ne _ _ _ (by decide), rdN_wrN_same, Nat.mod_eq_of_lt khz.isLt]
  have hlock : (d.refShown khz).bit Reg.clk_STATUS 7 = true := by
    unfold refShown
    rw [bit_congr (atTime_regs ..)]
    exact bit_setBit_same _ _ _ _ (by decide)
  rw [refDetectedD_eq]
  by_cases h : d.timeState = 0
  · rw [if_pos h, if_pos h]
    refine ⟨?_, ?_, setTimeState_time .., setTimeState_timeState _ (by decide)⟩
    · rw [rdN, setTimeState_rd _ _ (by decide)]
      exact hmeas
    · rw [bit, setTimeState_rd _ _ (by decide)]
      exact hlock
  · rw [if_neg h, if_neg h]
    refine ⟨hmeas, hlock, rfl, ?_⟩
    unfold timeState fld rdN
    rw [refShown_rd _ _ (by decide) (by decide)]

end Dev

/-- Settles O25: each source fires after registers that no event channel listens to have changed. -/
theorem syncAndAlarmsFire : Obligations.SyncAndAlarmsFire := by
  intro s d
  refine ⟨fun href hmax => ?_, fun a => ⟨fun hvalid hon hdue hgood => ?_, fun hvalid hheld hon hnow => ?_, fun hvalid hheld hoff => ?_⟩, fun khz => ?_⟩
  · exact State.runs_of_onDev (exec_syncEdge s) rfl (Dev.syncEdgeD_spec href hmax)
  · exact State.runs_of_onDev (exec_alarm a s) (Dev.alarmD_of_due hvalid hon hdue hgood) (Dev.alarmFires_spec ..)
  · refine State.runs_of_onDev (exec_alarmEnable a s) (Dev.alarmEnableD_of_on hvalid hheld hon hnow) ⟨Dev.bit_setBit_same _ _ _ _ (by decide), ?_, Dev.setBit_ec ..⟩
    rw [Dev.setBit_time]
    exact SMap.get_set_same ..
  · exact State.runs_of_onDev (exec_alarmEnable a s) (Dev.alarmEnableD_of_off hvalid hheld hoff) ⟨Dev.bit_setBit_same _ _ _ _ (by decide), Dev.setBit_ec ..⟩
  · exact State.runs_of_onDev (exec_refDetected khz s) rfl (Dev.refDetectedD_spec s.dev khz)

end Sys2Proof.Machine

/-! PROOFS. The time-set and the anchor of TB (R33, R34, R38). -/
namespace Sys2Proof.Machine

theorem exec_timeSetArm (v : Word) (s : State) : exec (.timeSetArm v) s = s.onDev (timeSetArmD v) := rfl
theorem exec_timeSet (s : State) : exec .timeSet s = s.onDev timeSetD := rfl
theorem exec_tbAnchor (s : State) : exec .tbAnchor s = s.onDev tbAnchorD := rfl

namespace Dev

/-- No channel is claimed or STATIC, and no launch is pending. -/
theorem timeInUse_eq_false_iff {d : Dev} : d.timeInUse = false ↔ (∀ n < 96, d.isClaimed n = false ∧ d.chMode n ≠ 2) ∧ d.launches = [] := by
  unfold timeInUse
  simp only [Bool.or_eq_false_iff, List.any_eq_false, List.mem_range, Bool.or_eq_true, not_or, Bool.not_eq_true, beq_eq_false_iff_ne, Bool.not_eq_false',
    List.isEmpty_iff]
theorem timeInUse_of_use {d : Dev} (h : (∃ n < 96, d.isClaimed n = true ∨ d.chMode n = 2) ∨ d.launches ≠ []) : d.timeInUse = true := by
  refine Bool.eq_true_of_not_eq_false fun hfalse => ?_
  obtain ⟨hchans, hlaunches⟩ := timeInUse_eq_false_iff.mp hfalse
  rcases h with ⟨n, hn, hclaim | hmode⟩ | h
  · exact absurd (hclaim.symm.trans (hchans n hn).1) (by decide)
  · exact (hchans n hn).2 hmode
  · exact h hlaunches

theorem withKept_rd (d : Dev) (k : SMap Bool) (a : Nat) : ({ d with accKept := k } : Dev).rd a = d.rd a := rfl
theorem atTime_rd (d : Dev) (x : TimeSt) (a : Nat) : (d.atTime x).rd a = d.rd a := rfl

/-- A refused write is entered in its function's record alone (R414). -/
theorem refuse_rd (d : Dev) (fn off cause : Nat) {a : Nat} (hlast : fnKey fn Reg.glob_ACC_LAST ≠ a) (hevents : fnKey fn Reg.glob_ACC_EVENTS ≠ a) :
    (d.refuse fn off cause).rd a = d.rd a := by
  unfold refuse accRecord
  extract_lets d₁
  rw [rd_raise_ne _ _ hevents]
  exact iteInduction (motive := fun x : Dev => x.rd a = d.rd a) (fun _ => (withKept_rd ..).trans (rd_wrN_ne _ _ hlast)) fun _ => rfl

/-! ## Arming (R38) -/

/-- The mode of a time-set is taken. -/
def modeTaken (d : Dev) (v : Word) : Dev := (d.setFld Reg.time_SET_CTL 0 2 (bitsOf v.toNat 0 2)).setFld Reg.time_SET_CTL 4 4 (bitsOf v.toNat 4 4)

section modeTaken
variable (d : Dev) (v : Word)

theorem modeTaken_rd {a : Nat} (h : Reg.time_SET_CTL ≠ a) : (d.modeTaken v).rd a = d.rd a :=
  (rd_setFld_ne _ _ _ _ h).trans (rd_setFld_ne _ _ _ _ h)
theorem modeTaken_time : (d.modeTaken v).time = d.time := (setFld_time ..).trans (setFld_time ..)
theorem modeTaken_timeInUse : (d.modeTaken v).timeInUse = d.timeInUse := by
  have hmode : ∀ n, (d.modeTaken v).chMode n = d.chMode n := fun n => by
    have hbase := chnBase_ge n
    unfold chMode fld rdN
    rw [modeTaken_rd _ _ (by grind)]
  have hchan : (d.modeTaken v).chan = d.chan := (setFld_chan ..).trans (setFld_chan ..)
  have hlaunches : (d.modeTaken v).launches = d.launches := (setFld_launches ..).trans (setFld_launches ..)
  unfold timeInUse isClaimed chanOf
  simp only [hmode, hchan, hlaunches]
theorem modeTaken_isMaster : (d.modeTaken v).isMaster = d.isMaster := by
  unfold isMaster bit
  rw [modeTaken_rd _ _ (by decide)]
end modeTaken

section arm
variable {d : Dev} {v : Word} (hans : d.answers 0 Reg.time_SET_CTL none) (harm : v.getLsbD 16 = true)
include harm

theorem timeSetArmD_eq : ∃ f, timeSetArmD v d = d.access 0 Reg.time_SET_CTL none f ∧ f d =
    if d.timeInUse then ((d.modeTaken v).refuse 0 Reg.time_SET_CTL 5).raise Reg.time_EVENTS 2
    else if v.toNat % 4 = 3 ∧ d.isMaster then (d.modeTaken v).raise Reg.time_EVENTS 2
    else (((d.modeTaken v).setBit Reg.time_SET_CTL 16 true).setBit Reg.time_STATUS 4 true).atTime
      { d.time with mode := v.toNat % 4, armN := d.time.refN, qualAt := none, syncAt := none, linkSet := none } := by
  have hset : ¬ bitsOf v.toNat 16 1 = 0 := by
    rw [bitsOf_one, harm]
    decide
  have hmode : bitsOf v.toNat 0 2 = v.toNat % 4 := by
    rw [bitsOf, pow_zero, Nat.div_one]
    rfl
  have htime : (((d.modeTaken v).setBit Reg.time_SET_CTL 16 true).setBit Reg.time_STATUS 4 true).time = d.time :=
    (setBit_time ..).trans ((setBit_time ..).trans (modeTaken_time ..))
  unfold timeSetArmD
  refine ⟨_, rfl, ?_⟩
  rw [← modeTaken_timeInUse d v, ← modeTaken_isMaster d v, ← htime, ← hmode]
  exact if_neg hset

include hans

theorem timeSetArmD_of_free (hfree : d.timeInUse = false) (hmaster : v.toNat % 4 = 3 → d.isMaster = false) :
    (timeSetArmD v d).bit Reg.time_STATUS 4 = true ∧ (timeSetArmD v d).time.mode = v.toNat % 4 ∧ (timeSetArmD v d).time.armN = d.time.refN := by
  obtain ⟨f, haccess, hf⟩ := timeSetArmD_eq (d := d) harm
  have hnot : ¬ (v.toNat % 4 = 3 ∧ d.isMaster = true) := fun ⟨h, h'⟩ => absurd (h'.symm.trans (hmaster h)) (by decide)
  rw [if_neg (ne_true_of_eq_false hfree), if_neg hnot] at hf
  have hsafe : ∀ n, Reg.chn_SAFE_CTL n ≠ Reg.time_STATUS := fun n => by
    have := chnBase_ge n
    grind
  have htime : (timeSetArmD v d).time = (f d).time := by rw [haccess, access_keeps hans f (q := Dev.time) fun _ _ _ => rfl]
  refine ⟨?_, ?_, ?_⟩
  · rw [bit, haccess, access_rd hans f hsafe, hf, ← bit, bit_congr (atTime_regs ..)]
    exact bit_setBit_same _ _ _ _ (by decide)
  · rw [htime, hf, atTime_time]
  · rw [htime, hf, atTime_time]

theorem timeSetArmD_of_use (huse : d.timeInUse = true) :
    (timeSetArmD v d).bit Reg.time_STATUS 4 = d.bit Reg.time_STATUS 4 ∧ (timeSetArmD v d).bit Reg.time_EVENTS 1 = true ∧ (timeSetArmD v d).time = d.time := by
  obtain ⟨f, haccess, hf⟩ := timeSetArmD_eq (d := d) harm
  rw [if_pos huse] at hf
  have hsafe : ∀ n a, a < 0x800000 → Reg.chn_SAFE_CTL n ≠ a := fun n => by
    have := chnBase_ge n
    grind
  refine ⟨?_, ?_, ?_⟩
  · rw [bit, haccess, access_rd hans f fun n => hsafe n _ (by decide), hf, rd_raise_ne _ _ (by decide), refuse_rd _ _ _ _ (by decide) (by decide),
      modeTaken_rd _ _ (by decide)]
    rfl
  · rw [bit, haccess, access_rd hans f fun n => hsafe n _ (by decide), hf, ← bit, bit_raise_same _ _ _ _ (by decide) (by decide)]
    exact Bool.or_true _
  · rw [haccess, access_keeps hans f (q := Dev.time) fun _ _ _ => rfl, hf, raise_time, time_of_base (base_refuse ..), modeTaken_time]
end arm

/-! ## The edge of an armed time-set (R38) -/

theorem moveTimes_regs (d : Dev) (old new : Nat) : (d.moveTimes old new).regs = d.regs := rfl
theorem moveTimes_time (d : Dev) (old new : Nat) : (d.moveTimes old new).time = d.time := rfl

section setTime
variable (d : Dev) (v since : Nat)

/-- The accumulator has taken V, and what the device remembers has moved with it. -/
def timeTaken : Dev := (d.moveTimes (d.time.acc / 2^32) ((v + since) / 2^32)).atTime
  { d.time with acc := v + since, anchor := some v, qualAt := none, syncAt := none, linkSet := none }
/-- Device time is COARSE from the edge on, and shows its time. -/
def timeShown : Dev := ((d.timeTaken v since).wr64 Reg.time_SET_AT_LO (v / 2^32)).setTimeState 1

theorem setTime_eq : d.setTime v since =
    ((((d.timeShown v since).setBit Reg.time_STATUS 1 true).setBit Reg.time_STATUS 4 false).setBit Reg.time_SET_CTL 16 false).raise Reg.time_EVENTS 4 := rfl

theorem setTime_time : (d.setTime v since).time =
    { d.time with acc := v + since, anchor := some v, qualAt := none, syncAt := none, linkSet := none } := by
  rw [setTime_eq, raise_time, setBit_time, setBit_time, setBit_time, timeShown, setTimeState_time, wr64_time]
  rfl
theorem setTime_status_bit {i : Nat} (hi : i ≠ 1) (hi4 : i ≠ 4) : (d.setTime v since).bit Reg.time_STATUS i = (d.timeShown v since).bit Reg.time_STATUS i := by
  rw [setTime_eq, bit_raise_ne _ _ _ (by decide), bit_setBit_ne _ _ _ _ (by decide), bit_setBit_other _ _ _ _ _ (by decide) (Ne.symm hi4),
    bit_setBit_other _ _ _ _ _ (by decide) (Ne.symm hi)]
theorem setTime_timeValid : (d.setTime v since).timeValid = false := (setTime_status_bit d v since (by decide) (by decide)).trans (setTimeState_timeValid ..)
theorem setTime_timeState : (d.setTime v since).timeState = 1 := by
  unfold timeState
  rw [setTime_eq, fld_raise_ne _ _ _ _ (by decide), fld_setBit_ne _ _ _ _ _ (by decide), fld_setBit_other _ _ _ _ _ _ (by decide) (by decide),
    fld_setBit_other _ _ _ _ _ _ (by decide) (by decide)]
  exact setTimeState_timeState _ (by decide)
theorem setTime_disarmed : (d.setTime v since).bit Reg.time_STATUS 4 = false := by
  rw [setTime_eq, bit_raise_ne _ _ _ (by decide), bit_setBit_ne _ _ _ _ (by decide)]
  exact bit_setBit_same _ _ _ _ (by decide)
theorem setTime_flag : (d.setTime v since).bit Reg.time_EVENTS 2 = true := by
  rw [setTime_eq, bit_raise_same _ _ _ _ (by decide) (by decide)]
  exact Bool.or_true _
theorem rd64_lt_max (a : Nat) : d.rd64 a < 2^64 := by
  have hlow := d.rdN_lt a
  have hhigh := d.rdN_lt (a + 4)
  unfold rd64
  omega
theorem setTime_at (hv : v / 2^32 < 2^64) : (d.setTime v since).rd64 Reg.time_SET_AT_LO = v / 2^32 := by
  have hkeep : ∀ a, a = Reg.time_SET_AT_LO ∨ a = Reg.time_SET_AT_LO + 4 →
      (d.setTime v since).rdN a = ((d.timeTaken v since).wr64 Reg.time_SET_AT_LO (v / 2^32)).rdN a := by
    intro a ha
    have hne : Reg.time_STATUS ≠ a ∧ Reg.time_SET_CTL ≠ a ∧ Reg.time_EVENTS ≠ a := by grind
    rw [setTime_eq, rdN_raise_ne _ _ hne.2.2, rdN_setBit_ne _ _ _ hne.2.1, rdN_setBit_ne _ _ _ hne.1, rdN_setBit_ne _ _ _ hne.1, rdN, timeShown,
      setTimeState_rd _ _ hne.1, ← rdN]
  rw [rd64, hkeep _ (.inl rfl), hkeep _ (.inr rfl), ← rd64]
  exact rd64_wr64 _ _ _ hv
end setTime

/-- A master counts the next epoch and owes its followers a SET frame. -/
def frameOwed (d : Dev) : Dev :=
  (d.setFld Reg.link_STATUS 10 8 (d.epoch + 1)).atTime { (d.setFld Reg.link_STATUS 10 8 (d.epoch + 1)).time with setFrame := true }
/-- A time that has been set is told to the followers there are. -/
def shared (d : Dev) : Dev := if d.isMaster then d.frameOwed else d

theorem frameOwed_acc (d : Dev) : d.frameOwed.time.acc = d.time.acc := by
  unfold frameOwed
  rw [atTime_time]
  dsimp only
  rw [setFld_time]
theorem frameOwed_rd (d : Dev) {a : Nat} (h : a < Reg.link_STATUS) : d.frameOwed.rd a = d.rd a := by
  unfold frameOwed
  rw [atTime_rd]
  exact rd_setFld_ne _ _ _ _ (Nat.ne_of_gt h)
theorem shared_acc (d : Dev) : d.shared.time.acc = d.time.acc :=
  iteInduction (motive := fun x : Dev => x.time.acc = d.time.acc) (fun _ => frameOwed_acc d) fun _ => rfl
theorem shared_rd (d : Dev) {a : Nat} (h : a < Reg.link_STATUS) : d.shared.rd a = d.rd a :=
  iteInduction (motive := fun x : Dev => x.rd a = d.rd a) (fun _ => frameOwed_rd d h) fun _ => rfl

section edge
variable {d : Dev} (harmed : d.bit Reg.time_STATUS 4 = true) (href : d.time.refOk = true) (hmode : d.time.mode = 0) (hedge : d.time.armN < d.time.refN)
  (hsync : d.time.syncAt = none)
include harmed href hmode hedge

theorem timeSetD_of_use (huse : d.timeInUse = true) : timeSetD d = d.refuseSet := by
  have hgo : ¬ ((!d.bit Reg.time_STATUS 4) = true ∨ (!d.time.refOk) = true) := by
    rw [harmed, href]
    decide
  have hfirst : ¬ d.time.mode = 3 := by
    rw [hmode]
    decide
  unfold timeSetD
  rw [if_neg hgo, if_neg hfirst, if_pos (.inl ⟨hmode, hedge⟩), if_pos huse]

include hsync in
theorem timeSetD_of_free (hfree : d.timeInUse = false) : timeSetD d =
    (d.setTime (d.rd64 Reg.time_SET_LO * 2^32) (d.sinceEdge (d.time.armN + 1))).shared := by
  have hgo : ¬ ((!d.bit Reg.time_STATUS 4) = true ∨ (!d.time.refOk) = true) := by
    rw [harmed, href]
    decide
  have hfirst : ¬ d.time.mode = 3 := by
    rw [hmode]
    decide
  unfold timeSetD
  rw [if_neg hgo, if_neg hfirst, if_pos (.inl ⟨hmode, hedge⟩), if_neg (ne_true_of_eq_false hfree), hsync]
  rfl
end edge

/-- The time-set is no longer armed. -/
def disarmed (d : Dev) : Dev := (d.setBit Reg.time_STATUS 4 false).setBit Reg.time_SET_CTL 16 false
/-- The time-set of a START section has been lost. -/
def setLost (d : Dev) : Dev := { d with sec := { d.sec with setLost := d.sec.autoWait } }

theorem setLost_rd (d : Dev) (a : Nat) : d.setLost.rd a = d.rd a := rfl
theorem setLost_time (d : Dev) : d.setLost.time = d.time := rfl
theorem disarmed_time (d : Dev) : d.disarmed.setLost.time = d.time := by
  unfold disarmed
  rw [setLost_time, setBit_time, setBit_time]
theorem refuseSet_eq (d : Dev) : d.refuseSet =
    (d.disarmed.setLost.atTime { d.disarmed.setLost.time with qualAt := none, syncAt := none, linkSet := none }).raise Reg.time_EVENTS 2 := rfl

/-- A refused time-set leaves the time and disarms. -/
theorem refuseSet_spec (d : Dev) : d.refuseSet.time.acc = d.time.acc ∧ d.refuseSet.timeState = d.timeState ∧ d.refuseSet.bit Reg.time_STATUS 4 = false ∧
    d.refuseSet.bit Reg.time_EVENTS 1 = true := by
  have hstatus : d.refuseSet.rd Reg.time_STATUS = d.disarmed.rd Reg.time_STATUS := by
    rw [refuseSet_eq, rd_raise_ne _ _ (by decide), atTime_rd, setLost_rd]
  refine ⟨?_, ?_, ?_, ?_⟩
  · rw [refuseSet_eq, raise_time, atTime_time]
    dsimp only
    rw [disarmed_time]
  · unfold timeState
    rw [fld, rdN, hstatus, ← rdN, ← fld, disarmed, fld_setBit_ne _ _ _ _ _ (by decide), fld_setBit_other _ _ _ _ _ _ (by decide) (by decide)]
  · rw [bit, hstatus, ← bit, disarmed, bit_setBit_ne _ _ _ _ (by decide)]
    exact bit_setBit_same _ _ _ _ (by decide)
  · rw [refuseSet_eq, bit_raise_same _ _ _ _ (by decide) (by decide)]
    exact Bool.or_true _

/-! ## The anchor (R33) -/

/-- The clock and the state of device time are as before. -/
structure sameClock (d d' : Dev) : Prop where
  time : d'.time = d.time
  status : d'.rd Reg.time_STATUS = d.rd Reg.time_STATUS

section sameClock
variable {d d' d'' : Dev}

theorem sameClock_refl (d : Dev) : sameClock d d := ⟨rfl, rfl⟩
theorem sameClock_trans (h : sameClock d d') (h' : sameClock d' d'') : sameClock d d'' := ⟨h'.time.trans h.time, h'.status.trans h.status⟩
theorem sameClock_ite {p : Prop} [Decidable p] (h : sameClock d d') (h' : sameClock d d'') : sameClock d (if p then d' else d'') :=
  iteInduction (motive := fun x => sameClock d x) (fun _ => h) fun _ => h'
theorem sameClock_foldl {α : Type} (l : List α) {f : Dev → α → Dev} (h : ∀ d x, sameClock d (f d x)) (d : Dev) : sameClock d (l.foldl f d) := by
  induction l generalizing d with
  | nil => exact sameClock_refl d
  | cons x r ih => exact sameClock_trans (h d x) (ih _)
theorem sameClock_wrN (d : Dev) {a : Nat} (v : Nat) (h : a ≠ Reg.time_STATUS) : sameClock d (d.wrN a v) := ⟨wrN_time .., rd_wrN_ne _ _ h⟩
theorem sameClock_raise_tin (d : Dev) (i m : Nat) : sameClock d (d.raise (Reg.tin_EVENTS i) m) := sameClock_wrN d _ (by grind)
theorem sameClock_recordLate (d : Dev) (stamp lateness : Nat) : sameClock d (d.recordLate stamp lateness) where
  time := time_of_base (base_recordLate ..)
  status := by
    unfold recordLate
    extract_lets d₁ d₂ d₃
    have h₁ : d₁.rd Reg.time_STATUS = d.rd Reg.time_STATUS := iteInduction (motive := fun x : Dev => x.rd Reg.time_STATUS = d.rd Reg.time_STATUS)
      (fun _ => rfl) fun _ => rd_wr64_ne _ _ (by decide) (by decide)
    have h₂ : d₂.rd Reg.time_STATUS = d₁.rd Reg.time_STATUS := rd_bump_ne _ (by decide)
    have h₃ : d₃.rd Reg.time_STATUS = d₂.rd Reg.time_STATUS := iteInduction (motive := fun x : Dev => x.rd Reg.time_STATUS = d₂.rd Reg.time_STATUS)
      (fun _ => rd_wrN_ne _ _ (by decide)) fun _ => rfl
    rw [rd_of_regs (fireNow_regs ..), rd_raise_ne _ _ (by decide), h₃, h₂, h₁]
theorem sameClock_updChan (d : Dev) (n : Nat) (f : Chan → Chan) : sameClock d (d.updChan n f) := ⟨updChan_time .., rd_of_regs (updChan_regs ..) _⟩
theorem sameClock_rescheduleActs (d : Dev) : sameClock d d.rescheduleActs := by
  unfold rescheduleActs
  extract_lets late all d'
  have hmoved : sameClock d d' := sameClock_foldl _ (fun d n => sameClock_ite (sameClock_refl d) (sameClock_updChan ..)) d
  refine sameClock_trans hmoved (sameClock_foldl _ (fun d a => ?_) _)
  exact sameClock_ite (sameClock_refl d) (sameClock_trans (sameClock_ite (sameClock_refl d) (sameClock_raise_tin ..)) (sameClock_recordLate ..))
theorem sameClock_rescheduleHeld (d : Dev) : sameClock d d.rescheduleHeld := by
  unfold rescheduleHeld
  extract_lets now late
  refine sameClock_foldl _ (fun d p => ?_) d
  extract_lets d₁
  have h₁ : sameClock d d₁ := sameClock_foldl _ (fun d a => sameClock_trans (sameClock_raise_tin ..) (sameClock_recordLate ..)) d
  exact sameClock_ite (sameClock_trans h₁ ⟨updTin_time .., rd_of_regs (updTin_regs ..) _⟩) h₁
theorem sameClock_resetChain (d : Dev) (k : Nat) : sameClock d (d.resetChain k) := by
  have hstatus : Reg.cap_STATUS k ≠ Reg.time_STATUS := by grind
  have hph : Reg.cap_PH k ≠ Reg.time_STATUS := by grind
  exact ⟨(updCap_time ..).trans ((setFld_time ..).trans (setFld_time ..)),
    (rd_of_regs (updCap_regs ..) _).trans ((rd_setFld_ne _ _ _ _ hph).trans (rd_setFld_ne _ _ _ _ hstatus))⟩
end sameClock

theorem le_ceilDiv_mul (a : Nat) {b : Nat} (hb : 0 < b) : a ≤ ceilDiv a b * b := by
  have hdiv := Nat.div_add_mod (a + b - 1) b
  have hmod := Nat.mod_lt (a + b - 1) hb
  rw [Nat.mul_comm] at hdiv
  unfold ceilDiv
  omega
theorem ceilDiv_le_of_le_mul {a b q : Nat} (hb : 0 < b) (h : a ≤ q * b) : ceilDiv a b ≤ q := by
  unfold ceilDiv
  rw [← Nat.lt_succ_iff, Nat.div_lt_iff_lt_mul hb, Nat.succ_mul]
  omega

/-- The time at which TB is anchored: its first edge after the anchor edge, or a later one that has come. -/
def anchorTime (d : Dev) : Nat := max ((d.time.anchor.getD d.accEdge / 2^32 / 16 + 1) * 16) (ceilDiv d.time.acc (16 * 2^32) * 16)

theorem acc_le_anchorTime (d : Dev) : d.time.acc ≤ d.anchorTime * 2^32 := by
  have h := le_ceilDiv_mul d.time.acc (b := 16 * 2^32) (by decide)
  have hmax : ceilDiv d.time.acc (16 * 2^32) * 16 ≤ d.anchorTime := le_max_right ..
  rw [← Nat.mul_assoc] at h
  exact h.trans (Nat.mul_le_mul_right _ hmax)

/-- TB runs from its first edge on. -/
def anchored (d : Dev) : Dev :=
  ((d.elapse (d.anchorTime * 2^32 - d.time.acc)).atTime
    { (d.elapse (d.anchorTime * 2^32 - d.time.acc)).time with now := d.anchorTime, anchor := none }).setTimeState 2

theorem anchored_time (d : Dev) : d.anchored.time.now = d.anchorTime ∧ d.anchored.time.acc = d.anchorTime * 2^32 := by
  have hacc : (d.elapse (d.anchorTime * 2^32 - d.time.acc)).time.acc = d.time.acc + (d.anchorTime * 2^32 - d.time.acc) := rfl
  unfold anchored
  rw [setTimeState_time, atTime_time]
  refine ⟨rfl, hacc.trans ?_⟩
  exact Nat.add_sub_cancel' (acc_le_anchorTime d)

theorem tbAnchorD_of_coarse {d : Dev} (hcoarse : d.timeState = 1) (href : d.time.refOk = true) (hlock : d.bit Reg.clk_STATUS 0 = true) :
    sameClock d.anchored (tbAnchorD d) := by
  have hgo : ¬ (d.timeState ≠ 1 ∨ (!d.time.refOk) = true ∨ (!d.bit Reg.clk_STATUS 0) = true) := by
    rw [hcoarse, href, hlock]
    decide
  unfold tbAnchorD
  rw [if_neg hgo]
  refine sameClock_trans (sameClock_trans (sameClock_rescheduleActs d.anchored) (sameClock_rescheduleHeld _)) (sameClock_foldl _ (fun d k => ?_) _)
  exact sameClock_ite (sameClock_resetChain ..) (sameClock_refl d)

/-- TB's first edge carries the smallest multiple of 16 above the anchor edge's time, unless that edge has passed. -/
theorem tbAnchorD_spec {d : Dev} (hcoarse : d.timeState = 1) (href : d.time.refOk = true) (hlock : d.bit Reg.clk_STATUS 0 = true) :
    let a := d.time.anchor.getD d.accEdge
    (tbAnchorD d).timeState = 2 ∧ (tbAnchorD d).timeValid = true ∧ (tbAnchorD d).time.now % 16 = 0 ∧ a < (tbAnchorD d).time.now * 2^32 ∧
      d.time.acc ≤ (tbAnchorD d).time.now * 2^32 ∧
      (d.time.acc ≤ (a / 2^32 / 16 + 1) * 16 * 2^32 → (tbAnchorD d).time.now = (a / 2^32 / 16 + 1) * 16) ∧
      (tbAnchorD d).time.acc = (tbAnchorD d).time.now * 2^32 := by
  intro a
  have hclock := tbAnchorD_of_coarse hcoarse href hlock
  obtain ⟨hnow, hacc⟩ := anchored_time d
  rw [← hclock.time] at hnow hacc
  have hfirst : (a / 2^32 / 16 + 1) * 16 ≤ d.anchorTime := le_max_left ..
  rw [hnow]
  refine ⟨?_, ?_, ?_, ?_, acc_le_anchorTime d, fun hearly => ?_, hacc⟩
  · exact (congrArg (fun w : Word => bitsOf w.toNat 2 2) hclock.status).trans (setTimeState_timeState _ (by decide))
  · exact (congrArg (fun w : Word => w.getLsbD 0) hclock.status).trans (setTimeState_timeValid ..)
  · rcases max_choice ((a / 2^32 / 16 + 1) * 16) (ceilDiv d.time.acc (16 * 2^32) * 16) with h | h <;> rw [anchorTime, h] <;> exact Nat.mul_mod_left ..
  · omega
  · refine le_antisymm (max_le le_rfl ?_) hfirst
    refine Nat.mul_le_mul_right _ (ceilDiv_le_of_le_mul (by decide) ?_)
    rwa [Nat.mul_assoc] at hearly

end Dev

/-- Settles O26: arming and the edge go by the same test; the anchor is a matter of rounding up. -/
theorem timeIsSetAndAnchored : Obligations.TimeIsSetAndAnchored := by
  intro s d
  refine ⟨fun v hans harm => ⟨fun hchans hlaunches hmaster => ?_, fun huse => ?_⟩,
    fun harmed href hmode hedge hsync => ⟨fun hchans hlaunches => ?_, fun huse => ?_⟩, fun hcoarse href hlock => ?_⟩
  · exact State.runs_of_onDev (exec_timeSetArm v s) rfl (Dev.timeSetArmD_of_free hans harm (Dev.timeInUse_eq_false_iff.mpr ⟨hchans, hlaunches⟩) hmaster)
  · exact State.runs_of_onDev (exec_timeSetArm v s) rfl (Dev.timeSetArmD_of_use hans harm (Dev.timeInUse_of_use huse))
  · have hset := Dev.timeSetD_of_free harmed href hmode hedge hsync (Dev.timeInUse_eq_false_iff.mpr ⟨hchans, hlaunches⟩)
    have hdiv : d.rd64 Reg.time_SET_LO * 2^32 / 2^32 = d.rd64 Reg.time_SET_LO := Nat.mul_div_cancel _ (by decide)
    refine State.runs_of_onDev (exec_timeSet s) hset ⟨?_, ?_, ?_, ?_, ?_, ?_⟩
    · rw [Dev.shared_acc, Dev.setTime_time]
    · rw [Dev.timeState, Dev.fld, Dev.rdN, Dev.shared_rd _ (by decide)]
      exact Dev.setTime_timeState ..
    · rw [Dev.timeValid, Dev.bit, Dev.shared_rd _ (by decide)]
      exact Dev.setTime_timeValid ..
    · rw [Dev.bit, Dev.shared_rd _ (by decide)]
      exact Dev.setTime_disarmed ..
    · rw [Dev.rd64, Dev.rdN, Dev.rdN, Dev.shared_rd _ (by decide), Dev.shared_rd _ (by decide)]
      refine (Dev.setTime_at _ _ _ ?_).trans hdiv
      rw [hdiv]
      exact Dev.rd64_lt_max ..
    · rw [Dev.bit, Dev.shared_rd _ (by decide)]
      exact Dev.setTime_flag ..
  · exact State.runs_of_onDev (exec_timeSet s) (Dev.timeSetD_of_use harmed href hmode hedge (Dev.timeInUse_of_use huse)) (Dev.refuseSet_spec s.dev)
  · exact State.runs_of_onDev (exec_tbAnchor s) rfl (Dev.tbAnchorD_spec hcoarse href hlock)

end Sys2Proof.Machine

/-! PROOFS. What a fault, the device safe state and the traffic of DRAM leave as it is: time, the event fabric's inputs, captures, programs and
samples, and the registers of all blocks but those of channels, engines, trigger outputs, DRAM, security and faults. -/
namespace Sys2Proof.Machine
namespace Dev

/-- The register lies in a block that neither faults nor DRAM traffic write. -/
def calmReg (a : Nat) : Prop :=
  a < 0x233000 ∨ (0x234000 ≤ a ∧ a < 0x400000) ∨ (0x1200000 ≤ a ∧ a < 0x1309000) ∨ (0x1500000 ≤ a ∧ a < 0x1700000)

/-- The device without what faults, the device safe state and DRAM traffic change. -/
def calmPart (d : Dev) : Dev :=
  { d.base with ctx := [], eng := [], launches := [], edges := [], chan := [], mkLine := [], tout := [], inforce := [], dmc := [], badCw := [], dram := [],
                wiped := [], frzN := 0 }

/-- No more has changed than faults, the device safe state and DRAM traffic change; no firing is lost. -/
structure stirred (d d' : Dev) : Prop where
  calm : d'.calmPart = d.calmPart
  rd : ∀ a, calmReg a → d'.rd a = d.rd a
  hears : sameListeners d d'
  grows : inboxGrows d d'

theorem calmPart_of_base {d d' : Dev} (h : d'.base = d.base) : d'.calmPart = d.calmPart := by
  unfold calmPart
  rw [h]

section stirred
variable (d : Dev)

theorem stirred_refl : stirred d d := ⟨rfl, fun _ _ => rfl, sameListeners_refl d, inboxGrows_refl d⟩
variable {d} in
theorem stirred_trans {d' d'' : Dev} (h : stirred d d') (h' : stirred d' d'') : stirred d d'' :=
  ⟨h'.calm.trans h.calm, fun a ha => (h'.rd a ha).trans (h.rd a ha), sameListeners_trans h.hears h'.hears, inboxGrows_trans h.grows h'.grows⟩
variable {d} in
theorem stirred_ite {d' d'' : Dev} {p : Prop} [Decidable p] (h : p → stirred d d') (h' : ¬ p → stirred d d'') : stirred d (if p then d' else d'') :=
  iteInduction (motive := fun x => stirred d x) h h'
theorem stirred_foldl {α : Type} (l : List α) {f : Dev → α → Dev} (h : ∀ x ∈ l, ∀ d, stirred d (f d x)) : stirred d (l.foldl f d) := by
  induction l generalizing d with
  | nil => exact stirred_refl d
  | cons x r ih => exact stirred_trans (h x List.mem_cons_self d) (ih _ fun y hy => h y (List.mem_cons_of_mem _ hy))
theorem stirred_foldr {α : Type} (l : List α) {f : α → Dev → Dev} (h : ∀ x d, stirred d (f x d)) : stirred d (l.foldr f d) := by
  induction l with
  | nil => exact stirred_refl d
  | cons x r ih => exact stirred_trans ih (h x _)

/-- A change of parts that are not calm, and of no register. -/
theorem stirred_of_parts {d' : Dev} (hcalm : d'.calmPart = d.calmPart) (hregs : d'.regs = d.regs) (hheld : d'.inforce = d.inforce) (hec : d'.ec = d.ec) :
    stirred d d' where
  calm := hcalm
  rd a _ := rd_of_regs hregs a
  hears := sameListeners_of_fields hregs hheld (congrArg Dev.parity hcalm :)
  grows := inboxGrows_of_ec hec

theorem not_inEc_of_not_calm {a : Nat} (h : ¬ calmReg a) : ¬ inEc a := by
  unfold calmReg at h
  unfold inEc
  omega

section writes
variable {a : Nat} (h : ¬ calmReg a)
include h
theorem stirred_wrN (v : Nat) : stirred d (d.wrN a v) where
  calm := calmPart_of_base (base_wrN ..)
  rd b hb := rd_wrN_ne _ _ (by rintro rfl; exact h hb)
  hears := sameListeners_wrN d (not_inEc_of_not_calm h) v
  grows := inboxGrows_of_ec (wrN_ec ..)
theorem stirred_setFld (lo w v : Nat) : stirred d (d.setFld a lo w v) := stirred_wrN d h _
theorem stirred_setBit (i : Nat) (b : Bool) : stirred d (d.setBit a i b) := stirred_wrN d h _
theorem stirred_raise (m : Nat) : stirred d (d.raise a m) := stirred_wrN d h _
theorem stirred_addSat (n : Nat) : stirred d (d.addSat a n) := stirred_wrN d h _
theorem stirred_bump : stirred d (d.bump a) := stirred_addSat d h _
theorem stirred_wr64 (h4 : ¬ calmReg (a + 4)) (v : Nat) : stirred d (d.wr64 a v) := stirred_trans (stirred_wrN d h _) (stirred_wrN _ h4 _)
theorem stirred_settle : stirred d (d.settle a) where
  calm := rfl
  rd _ _ := rfl
  hears := sameListeners_settle d (not_inEc_of_not_calm h)
  grows := inboxGrows_of_ec rfl
end writes

theorem stirred_updChan (n : Nat) (f : Chan → Chan) : stirred d (d.updChan n f) := stirred_of_parts d rfl rfl rfl rfl
theorem stirred_updEng (e : Nat) (f : Eng → Eng) : stirred d (d.updEng e f) := stirred_of_parts d rfl rfl rfl rfl
theorem stirred_updTout (k : Nat) (f : ToSt → ToSt) : stirred d (d.updTout k f) := stirred_of_parts d rfl rfl rfl rfl
theorem stirred_updDmc (m : Nat) (f : Dmc → Dmc) : stirred d (d.updDmc m f) := stirred_of_parts d rfl rfl rfl rfl
theorem stirred_setCtxW (c w : Nat) (v : Word) : stirred d (d.setCtxW c w v) := stirred_of_parts d rfl rfl rfl rfl
theorem stirred_setCtxFld (c w lo n v : Nat) : stirred d (d.setCtxFld c w lo n v) := stirred_setCtxW ..
theorem stirred_setCtxState (c s : Nat) : stirred d (d.setCtxState c s) := stirred_setCtxFld ..
theorem stirred_setCtx64 (c w v : Nat) : stirred d (d.setCtx64 c w v) := stirred_trans (stirred_setCtxW ..) (stirred_setCtxW ..)
theorem stirred_withdraw (c t : Nat) : stirred d (d.withdraw c t) := stirred_of_parts d rfl rfl rfl rfl
theorem stirred_keepLive (e c : Nat) : stirred d (d.keepLive e c) := stirred_updEng ..
theorem stirred_badCw (m : SMap (Option (Nat × Nat))) : stirred d { d with badCw := m } := stirred_of_parts d rfl rfl rfl rfl
theorem stirred_frzN (n : Nat) : stirred d { d with frzN := n } := stirred_of_parts d rfl rfl rfl rfl
theorem stirred_faultId (n : Nat) : stirred d { d with faultId := n } := stirred_of_parts d rfl rfl rfl rfl

/-! ## Firings, interrupts and faults -/

theorem stirred_fireAs {src stamp gen : Nat} (co la : Bool) (h : gen < 8) : stirred d (d.fireAs src stamp gen co la) where
  calm := calmPart_of_base (base_fireAs ..)
  rd a _ := rd_of_regs (fireAs_regs _ _ _ _ _ _ h) a
  hears := sameListeners_of_fields (fireAs_regs _ _ _ _ _ _ h) (congrArg Dev.inforce (base_fireAs d src stamp gen co la) :)
    (congrArg Dev.parity (base_fireAs d src stamp gen co la) :)
  grows := inboxGrows_fireAs ..
theorem stirred_fire (src stamp : Nat) : stirred d (d.fire src stamp 0) := by
  unfold fire
  exact stirred_fireAs d _ _ (by decide)
theorem stirred_fireNow (src : Nat) : stirred d (d.fireNow src) := stirred_fire ..
theorem stirred_msixSend (fn vec : Nat) : stirred d (d.msixSend fn vec) := stirred_of_parts d (calmPart_of_base (base_msixSend ..)) rfl rfl rfl
theorem not_calm_msixPba {fn vec : Nat} (h : vec < msixCount fn) : ¬ calmReg (msixPba fn vec) := by
  have hvec : vec < 128 := h.trans_le (by unfold msixCount; split <;> decide)
  unfold calmReg msixPba fnKey
  omega
theorem stirred_signal (fn vec : Nat) : stirred d (d.signal fn vec) := by
  unfold signal
  exact stirred_ite (fun _ => stirred_refl d) fun h =>
    stirred_ite (fun _ => stirred_setBit d (not_calm_msixPba (Nat.lt_of_not_le h)) ..) fun _ => stirred_msixSend ..
theorem stirred_notifyFault (c t : Nat) : stirred d (d.notifyFault c t) := by
  unfold notifyFault
  exact stirred_ite (fun _ => stirred_trans (stirred_fire ..) (stirred_signal ..)) fun _ => stirred_refl d

theorem not_calm_chn {n o : Nat} (hn : n < 96) (ho : o < 0x4000) : ¬ calmReg (chnBase n + o) := by
  unfold calmReg chnBase
  omega
theorem stirred_setHold {n : Nat} (hn : n < 96) (mask : Nat) : stirred d (d.setHold n mask) := by
  unfold setHold
  exact stirred_trans (stirred_setFld d (not_calm_chn hn (by norm_num)) ..) (stirred_updChan ..)
theorem stirred_holdLive (mask : Nat) : stirred d (d.holdLive mask) := by
  unfold holdLive
  refine stirred_foldl d _ fun n hn d => stirred_setHold d ?_ mask
  exact List.mem_range.mp (List.mem_of_mem_filter hn)
theorem stirred_giveUpRing (n : Nat) : stirred d (d.giveUpRing n) := by
  unfold giveUpRing
  extract_lets a
  refine stirred_ite (fun h => ?_) fun _ => stirred_refl d
  have hn : n < 96 := by grind
  exact stirred_setFld d (not_calm_chn hn (by norm_num)) ..

/-- A line's DELAY of the marker block is calm as a register and is no event channel's. -/
theorem stirred_settle_mk (k : Nat) : stirred d (d.settle (Reg.mk_DELAY k)) where
  calm := rfl
  rd _ _ := rfl
  hears := sameListeners_settle d (by unfold inEc Reg.mk_DELAY; omega)
  grows := inboxGrows_of_ec rfl
theorem stirred_settleClaims : stirred d d.settleClaims := by
  unfold settleClaims
  extract_lets ended freed rings
  have hfreed : stirred d freed := stirred_of_parts d rfl rfl rfl rfl
  have hrings : stirred freed rings := stirred_foldl _ _ fun n _ d => stirred_giveUpRing d n
  clear_value ended freed rings
  refine stirred_ite (fun _ => hfreed) fun _ => stirred_trans (stirred_trans hfreed hrings) (stirred_foldl _ _ fun k _ d => ?_)
  exact stirred_ite (fun _ => stirred_settle_mk d k) fun _ => stirred_refl d
theorem stirred_unmirror (e c : Nat) : stirred d (d.unmirror e c) := by
  unfold unmirror
  exact stirred_trans (stirred_foldr d _ fun (p : Nat × Word) d => stirred_setCtxW d c p.1 p.2) (stirred_updEng ..)
theorem stirred_unbind {e : Nat} (he : e < 64) : stirred d (d.unbind e) := by
  have hstatus : ¬ calmReg (Reg.eng_STATUS e) := by unfold calmReg Reg.eng_STATUS; omega
  have hcfg : ¬ calmReg (Reg.eng_SW_CFG e) := by unfold calmReg Reg.eng_SW_CFG; omega
  unfold unbind
  exact stirred_trans (stirred_trans (stirred_setFld d hstatus ..) (stirred_settle _ hcfg)) (stirred_updEng ..)
theorem ctxEng_lt {c e : Nat} (h : d.ctxEng c = some e) : e < 64 := by
  unfold ctxEng at h
  split at h
  · obtain rfl := Option.some.inj h
    exact bitsOf_lt ..
  · cases h
theorem stirred_leave (c s : Nat) : stirred d (d.leave c s) := by
  unfold leave
  split
  · exact stirred_trans (stirred_setCtxState ..) (stirred_settleClaims _)
  · rename_i e he
    extract_lets d₁ d₂
    have h₁ : stirred d d₁ := stirred_trans (stirred_trans (stirred_keepLive ..) (stirred_unmirror ..)) (stirred_setCtx64 ..)
    have h₂ : stirred d₁ d₂ := stirred_setCtxFld ..
    clear_value d₁ d₂
    have hleft : stirred d₂ (((d₂.setCtxState c s).setCtxFld c 0 8 7 0).unbind e) :=
      stirred_trans (stirred_trans (stirred_setCtxState ..) (stirred_setCtxFld ..)) (stirred_unbind _ (ctxEng_lt d he))
    exact stirred_trans (stirred_trans (stirred_trans h₁ h₂) hleft) (stirred_settleClaims _)
theorem stirred_stopCtx (c : Nat) (wd : Bool) : stirred d (d.stopCtx c wd) := by
  unfold stopCtx
  extract_lets d₁
  have h₁ : stirred d d₁ := stirred_ite (fun _ => stirred_withdraw ..) fun _ => stirred_refl d
  exact stirred_ite (fun _ => stirred_trans h₁ (stirred_leave ..)) fun _ => stirred_refl d
theorem stirred_stopAll (f : Nat → Bool) (wd : Bool) : stirred d (d.stopAll f wd) := stirred_foldl d _ fun c _ d => stirred_stopCtx d c wd

/-- Every marker line that stands at 1 falls. -/
theorem stirred_mkLine (m : SMap MkLine) : stirred d { d with mkLine := m } := stirred_of_parts d rfl rfl rfl rfl
theorem stirred_enterDsafe (c : Nat) (w : List Nat) : stirred d (d.enterDsafe c w) := by
  have hfault : ∀ a, 0x1700000 ≤ a → ¬ calmReg a := fun a ha => by unfold calmReg; omega
  unfold enterDsafe
  extract_lets marked kept stopped held dark
  have hmarked : stirred d marked := stirred_trans (stirred_setBit d (hfault _ (by decide)) ..) (stirred_setFld _ (hfault _ (by decide)) ..)
  have hkept : stirred marked kept := stirred_foldl _ _ fun i _ d => stirred_wrN d (hfault _ (by grind)) _
  have hstopped : stirred kept stopped := stirred_stopAll ..
  have hheld : stirred stopped held := stirred_holdLive ..
  have hdark : stirred held dark := stirred_mkLine ..
  clear_value marked kept stopped held dark
  refine stirred_trans (stirred_trans (stirred_trans (stirred_trans (stirred_trans hmarked hkept) hstopped) hheld) hdark) ?_
  refine stirred_foldl _ _ fun k hk d => ?_
  have hto : ¬ calmReg (Reg.to_STATUS k) := by
    have := List.mem_range.mp hk
    unfold calmReg Reg.to_STATUS
    omega
  exact stirred_trans (stirred_setBit d hto ..) (stirred_updTout ..)
theorem stirred_faults (m : SMap (List FaultRec)) : stirred d { d with faults := m } := stirred_of_parts d rfl rfl rfl rfl
theorem stirred_setFaultQ (c : Nat) (q : List FaultRec) : stirred d (d.setFaultQ c q) := by
  have hstatus : ¬ calmReg Reg.fault_STATUS := by unfold calmReg; decide
  exact stirred_trans (stirred_faults d _) (stirred_setBit _ hstatus ..)
theorem stirred_fault (c : Nat) (r : FaultRec) : stirred d (d.fault c r) := by
  have hfault : ∀ a, 0x1700000 ≤ a → ¬ calmReg a := fun a ha => by unfold calmReg; omega
  have hocc : stirred d (d.bump (Reg.faultQ_OCC_CNT c)) := stirred_bump d (hfault _ (by grind))
  have hentered (d : Dev) (esc : Bool) (w : List Nat) : stirred d (if esc && !d.dsafe then d.enterDsafe c w else d) :=
    stirred_ite (fun _ => stirred_enterDsafe ..) fun _ => stirred_refl d
  have htold (d : Dev) (m t : Nat) : stirred d ((d.raise Reg.fault_EVENTS m).notifyFault c t) :=
    stirred_trans (stirred_raise d (hfault _ (by decide)) m) (stirred_notifyFault ..)
  unfold fault
  dsimp only
  refine stirred_trans (stirred_trans ?_ (htold ..)) (hentered ..)
  split
  · exact stirred_trans hocc (stirred_setFaultQ ..)
  · split
    · exact stirred_trans (stirred_trans (stirred_trans hocc (stirred_faultId ..)) (stirred_setFaultQ ..)) (stirred_bump _ (hfault _ (by decide)))
    · exact stirred_trans (stirred_trans hocc (stirred_bump _ (hfault _ (by grind)))) (stirred_setFaultQ ..)
theorem stirred_faultOf (c code kind obj : Nat) (owner : Option Nat) (detail : List Nat) : stirred d (d.faultOf c code kind obj owner detail) :=
  stirred_fault ..
theorem stirred_faultNow (c code kind obj : Nat) (detail : List Nat) : stirred d (d.faultNow c code kind obj detail) := stirred_fault ..
end stirred
end Dev
end Sys2Proof.Machine

/-! PROOFS. What the traffic of DRAM leaves as it is: the rules of DR1 for each operation that moves bytes, corrects codewords or freezes. -/
namespace Sys2Proof.Machine
namespace Dev

theorem setDmcs_lt {v m : Nat} (h : m ∈ setDmcs v) : m < 8 := List.mem_range.mp (List.mem_of_mem_filter h)
theorem getD_setDmcs_lt (v i : Nat) : (setDmcs v).getD i 0 < 8 := by
  rcases Nat.lt_or_ge i (setDmcs v).length with h | h
  · rw [List.getD_eq_getElem _ _ h]
    exact setDmcs_lt (List.getElem_mem h)
  · rw [List.getD_eq_default _ _ h]
    decide
/-- The one of eight DMCs that serves an address of the interleaved space or of a pin. -/
theorem home_lt (d : Dev) (a : Nat) : (d.home a).1 < 8 := by
  unfold home
  split
  · exact Nat.mod_lt _ (by decide)
  · extract_lets go
    have hgo : ∀ q, go.1 = some q → q.1 < 8 := by
      refine List.foldlRecOn (motive := fun st : Option (Nat × Nat) × List Nat => ∀ q, st.1 = some q → q.1 < 8) _ _ (by rintro q ⟨⟩) fun st hst w _ q hq => ?_
      dsimp only at hq
      split at hq
      · obtain rfl := Option.some.inj hq
        exact getD_setDmcs_lt ..
      · exact hst q hq
    rcases h : go.1 with _ | q
    · rw [Option.getD_none]
      decide
    · exact hgo q h
theorem getD_others_lt (m i : Nat) : ((List.range 8).filter (fun x => x != m)).getD i 0 < 8 := by
  rcases Nat.lt_or_ge i ((List.range 8).filter (fun x => x != m)).length with h | h
  · rw [List.getD_eq_getElem _ _ h]
    exact List.mem_range.mp (List.mem_of_mem_filter (List.getElem_mem h))
  · rw [List.getD_eq_default _ _ h]
    decide
theorem place_of_home (d : Dev) {a m l : Nat} (h : d.home a = (m, l)) : d.place a = (m, l) ∨ ∃ i x, d.place a = (((List.range 8).filter (fun x => x != m)).getD i 0, x) := by
  -- `place` is unfolded as a function: at its arguments the kernel would evaluate `home`.
  obtain ⟨f, hf⟩ : ∃ f, f = @place := ⟨_, rfl⟩
  rewrite [← hf]
  delta place at hf
  rewrite [hf]
  beta_reduce
  rewrite [h]
  dsimp only
  split
  · exact .inr ⟨_, _, rfl⟩
  · exact .inl rfl
theorem place_lt (d : Dev) (a : Nat) : (d.place a).1 < 8 := by
  have hhome := d.home_lt a
  obtain ⟨⟨m, l⟩, h⟩ : ∃ x, d.home a = x := ⟨_, rfl⟩
  rw [h] at hhome
  rcases place_of_home d h with hplace | ⟨i, x, hplace⟩
  · rw [hplace]
    exact hhome
  · rw [hplace]
    exact getD_others_lt m i

section traffic
variable (d : Dev)

theorem not_calm_dram {a : Nat} (h : 0x1000000 ≤ a) (h' : a < 0x1200000) : ¬ calmReg a := by
  unfold calmReg
  omega
theorem not_calm_dram_block {m o : Nat} (hm : m < 8) (ho : o < 0x10000) : ¬ calmReg (0x1000000 + 0x10000 * m + o) :=
  not_calm_dram (by omega) (by omega)

theorem stirred_setOwed {m : Nat} (hm : m < 8) (o : Nat) : stirred d (d.setOwed m o) := stirred_setFld d (not_calm_dram_block hm (by norm_num)) ..
theorem stirred_exitSr {m : Nat} (hm : m < 8) : stirred d (d.exitSr m) := by
  unfold exitSr
  exact stirred_ite (fun _ => stirred_refl d) fun _ => stirred_trans (stirred_setOwed d hm 0) (stirred_setBit _ (not_calm_dram_block hm (by norm_num)) ..)
theorem stirred_rowAfter (m l : Nat) (openHint : Bool) : stirred d (d.rowAfter m l openHint) := stirred_updDmc ..

/-- `touch` where the DMC and the local address are known. -/
def touchAt (d : Dev) (m l : Nat) (write : Bool) (n : Nat) : Dev :=
  ((if d.inSr m then d.exitSr m else d).addSat64 (if write then Reg.dram_WR_BYTES_LO m else Reg.dram_RD_BYTES_LO m) n).rowAfter m l false
theorem touch_eq (write : Bool) (a n : Nat) : d.touch write a n = d.touchAt (d.place a).1 (d.place a).2 write n := by
  obtain ⟨f, hf⟩ : ∃ f, f = @touch := ⟨_, rfl⟩
  rewrite [← hf]
  delta touch at hf
  rewrite [hf]
  beta_reduce
  rcases d.place a with ⟨m, l⟩
  rfl
theorem stirred_touchAt {m : Nat} (hm : m < 8) (l : Nat) (write : Bool) (n : Nat) : stirred d (d.touchAt m l write n) := by
  have hwoken : stirred d (if d.inSr m then d.exitSr m else d) := stirred_ite (fun _ => stirred_exitSr d hm) fun _ => stirred_refl d
  have hcounted (d : Dev) : stirred d (d.addSat64 (if write then Reg.dram_WR_BYTES_LO m else Reg.dram_RD_BYTES_LO m) n) := by
    unfold addSat64
    split <;> exact stirred_wr64 d (not_calm_dram_block hm (by norm_num)) (not_calm_dram_block hm (by norm_num)) _
  exact stirred_trans (stirred_trans hwoken (hcounted _)) (stirred_rowAfter ..)
theorem stirred_touch (write : Bool) (a n : Nat) : stirred d (d.touch write a n) := by
  rw [touch_eq]
  exact stirred_touchAt d (d.place_lt a) ..
theorem stirred_fillPass (g : Nat) : stirred d (d.fillPass g) := by
  unfold fillPass
  exact stirred_ite (fun _ => stirred_refl d) fun _ => stirred_foldl d _ fun p _ d => stirred_touch d true p.1 p.2

theorem stirred_correctedBy {m : Nat} (hm : m < 8) (l map : Nat) : stirred d (d.correctedBy m l map) := by
  have hdram : ∀ o < 0x10000, ¬ calmReg (0x1000000 + 0x10000 * m + o) := fun o ho => not_calm_dram_block hm ho
  unfold correctedBy
  extract_lets x tick device times storm counted fired noted
  have hcounted : stirred d counted :=
    stirred_trans (stirred_trans (stirred_bump d (hdram _ (by norm_num))) (stirred_raise _ (hdram _ (by norm_num)) _)) (stirred_wrN _ (hdram _ (by norm_num)) _)
  have hfired : stirred counted fired := stirred_ite (fun _ => stirred_refl _) fun _ => stirred_fireNow ..
  have hnoted : stirred fired noted := stirred_updDmc ..
  have hall := stirred_trans (stirred_trans hcounted hfired) hnoted
  clear_value noted
  exact stirred_ite (fun _ => stirred_trans hall (stirred_faultOf ..)) fun _ => hall
/-- One codeword is corrected and written back. -/
def correctOne (d : Dev) (q : Nat × Nat × Nat) : Dev :=
  { (d.correctedBy (d.place (q.1 * 128)).1 (d.place (q.1 * 128)).2 q.2.1) with badCw := SMap.set none d.badCw q.1 none }
theorem correct_eq (write : Bool) (a len : Nat) : d.correct write a len =
    ((d.errsIn write a len).filter (fun q => correctable q.2.1)).foldl correctOne d := by
  obtain ⟨f, hf⟩ : ∃ f, f = @correct := ⟨_, rfl⟩
  rewrite [← hf]
  delta correct at hf
  rewrite [hf]
  beta_reduce
  refine congrArg (fun g => List.foldl g d _) (funext fun d => funext fun q => ?_)
  unfold correctOne
  rcases d.place (q.1 * 128) with ⟨m, l⟩
  rfl
theorem stirred_correctOne (q : Nat × Nat × Nat) : stirred d (d.correctOne q) := by
  unfold correctOne
  have h := stirred_correctedBy d (d.place_lt (q.1 * 128)) (d.place (q.1 * 128)).2 q.2.1
  generalize d.correctedBy _ _ _ = d₁ at h ⊢
  exact stirred_trans h (stirred_badCw ..)
theorem stirred_correct (write : Bool) (a len : Nat) : stirred d (d.correct write a len) := by
  rw [correct_eq]
  exact stirred_foldl d _ fun q _ d => stirred_correctOne d q
theorem stirred_served (write : Bool) (a n : Nat) : stirred d (d.served write a n) := by
  unfold served
  extract_lets filled passed
  have hfilled : stirred d filled := stirred_ite (fun _ => stirred_foldl d _ fun i _ d => stirred_fillPass d _) fun _ => stirred_refl d
  have hpassed : stirred filled passed :=
    stirred_foldl _ _ fun p _ d => stirred_ite (fun _ => stirred_refl d) fun _ => stirred_touch ..
  exact stirred_trans (stirred_trans hfilled hpassed) (stirred_correct ..)

theorem stirred_freezeBy {m : Nat} (hm : m < 8) (port addr loc : Nat) (readPart ca held : Bool) (map digest : Nat) :
    stirred d (d.freezeBy m port addr loc readPart ca held map digest) := by
  have hglobal : ∀ a, 0x1080000 ≤ a → a < 0x1080200 → ¬ calmReg a := fun a h h' => not_calm_dram (by omega) (by omega)
  unfold freezeBy
  extract_lets put raised another extra info snapped marked kept limited dated paid fired
  have hput (d : Dev) (i : Nat) (hi : i < 8) : stirred d (put d i) := by
    have hreg : ∀ o < 16, ¬ calmReg (0x1080120 + 16 * i + o) := fun o ho => hglobal _ (by omega) (by omega)
    exact stirred_trans (stirred_trans (stirred_trans (stirred_wrN d (hreg _ (by norm_num)) _) (stirred_wrN _ (hreg _ (by norm_num)) _))
      (stirred_wrN _ (hreg _ (by norm_num)) _)) (stirred_wrN _ (hreg _ (by norm_num)) _)
  have hraised : stirred d raised := stirred_raise d (not_calm_dram_block hm (by norm_num)) 2
  have hsnapped : stirred raised snapped := by
    refine stirred_foldl _ _ fun x hx d => stirred_foldl _ _ fun q hq d => ?_
    have hx8 : x < 8 := List.mem_range.mp hx
    have hq8 : q.2 < 8 := by
      have hlen := List.snd_lt_of_mem_zipIdx hq
      exact hlen.trans_le (List.length_take_le ..)
    have hreg : ∀ o < 8, ¬ calmReg (0x1000100 + 0x10000 * x + 8 * q.2 + o) := fun o ho => not_calm_dram (by omega) (by omega)
    exact stirred_trans (stirred_wrN d (hreg _ (by norm_num)) _) (stirred_wrN _ (hreg _ (by norm_num)) _)
  have hmarked : stirred snapped marked := stirred_trans (stirred_setBit _ (hglobal _ (by decide) (by decide)) ..) (stirred_wrN _ (hglobal _ (by decide) (by decide)) _)
  have hkept : stirred marked kept := stirred_ite (fun _ => hput _ 0 (by decide)) fun _ => stirred_refl _
  have hlimited : stirred kept limited := stirred_frzN ..
  have hdated : stirred limited dated := stirred_trans (stirred_wr64 _ (a := Reg.dramG_FRZ_AT_LO) (hglobal _ (by decide) (by decide)) (hglobal _ (by decide) (by decide)) _)
    (stirred_raise _ (a := Reg.dramG_EVENTS) (hglobal _ (by decide) (by decide)) _)
  have hpaid : stirred dated paid := stirred_foldl _ _ fun x hx d => stirred_setOwed d (List.mem_range.mp hx) 0
  have hfired : stirred paid fired := stirred_fireNow ..
  refine stirred_ite (fun _ => ?_) fun _ => ?_
  · refine stirred_trans hraised (stirred_ite (fun _ => stirred_refl _) fun _ => stirred_ite (fun hroom => ?_) fun _ => ?_)
    · exact stirred_trans (stirred_trans (hput _ _ hroom) (stirred_frzN ..)) (stirred_setFld _ (hglobal _ (by decide) (by decide)) ..)
    · exact stirred_trans (stirred_bump _ (hglobal _ (by decide) (by decide))) (stirred_badCw ..)
  · exact stirred_trans (stirred_trans (stirred_trans (stirred_trans (stirred_trans (stirred_trans (stirred_trans (stirred_trans hraised hsnapped) hmarked) hkept) hlimited) hdated) hpaid) hfired)
      (stirred_faultOf ..)
theorem freezeAt_eq (port : Nat) (readPart : Bool) (q : Nat × Nat × Nat) : d.freezeAt port readPart q =
    d.freezeBy (d.place (q.1 * 128)).1 port (q.1 * 128) (d.place (q.1 * 128)).2 readPart false true q.2.1 q.2.2 := by
  obtain ⟨f, hf⟩ : ∃ f, f = @freezeAt := ⟨_, rfl⟩
  rewrite [← hf]
  delta freezeAt at hf
  rewrite [hf]
  beta_reduce
  rcases d.place (q.1 * 128) with ⟨m, l⟩
  rfl
theorem stirred_freezeAt (port : Nat) (readPart : Bool) (q : Nat × Nat × Nat) : stirred d (d.freezeAt port readPart q) := by
  rw [freezeAt_eq]
  exact stirred_freezeBy d (d.place_lt _) ..

/-- Granule `g` is filled with zeros and is wiped. -/
def wipedIn (d : Dev) (g : Nat) : Dev :=
  { d with dram := d.dram.filter (fun p => p.1 / 2^20 != g), wiped := SMap.set false d.wiped g true, badCw := d.badCw.filter (fun p => p.1 / 2^13 != g) }
theorem wipeIn_eq (g : Nat) : d.wipeIn g = if SMap.get false d.wiped g then d
    else if (d.wipedIn g).wipeLeft = 0 then ((d.wipedIn g).setBit Reg.sec_STATUS 9 false).raise Reg.sec_EVENTS 16 else d.wipedIn g := rfl
theorem stirred_wipeIn (g : Nat) : stirred d (d.wipeIn g) := by
  have hsec : ∀ a, 0x1400000 ≤ a → a < 0x1500000 → ¬ calmReg a := fun a h h' => by unfold calmReg; omega
  have hwiped : stirred d (d.wipedIn g) := stirred_of_parts d rfl rfl rfl rfl
  rw [wipeIn_eq]
  refine stirred_ite (fun _ => stirred_refl d) fun _ => stirred_trans hwiped (stirred_ite (fun _ => ?_) fun _ => stirred_refl _)
  exact stirred_trans (stirred_setBit _ (hsec _ (by decide) (by decide)) ..) (stirred_raise _ (hsec _ (by decide) (by decide)) _)
theorem stirred_storeDram (a : Nat) (bs : List Byte) : stirred d (d.storeDram a bs) := stirred_of_parts d rfl rfl rfl rfl
theorem stirred_dramWrite (a : Nat) (bs : List Byte) : stirred d (d.dramWrite a bs) := by
  unfold dramWrite
  extract_lets g0 g1 d₁
  have h₁ : stirred d d₁ := stirred_ite (fun _ => stirred_refl d) fun _ => stirred_foldl d _ fun i _ d => stirred_wipeIn d _
  exact stirred_trans h₁ (stirred_storeDram ..)
theorem stirred_writeDram (a : Nat) (bs : List Byte) : stirred d (d.writeDram a bs) := by
  unfold writeDram
  exact stirred_trans (stirred_served ..) (stirred_dramWrite ..)
end traffic
end Dev
end Sys2Proof.Machine

/-! PROOFS. Captures (chapter 9): what their operations leave as it is, and the states of a capture. -/
namespace Sys2Proof.Machine

theorem exec_captureApply (fn : Fn) (k : Fin 6) (s : State) : exec (.captureApply fn k) s = s.onDev (captureApplyD fn k) := rfl
theorem exec_captureArm (k : Fin 6) (software : Bool) (s : State) : exec (.captureArm k software) s = s.onDev (captureArmD k software) := rfl
theorem exec_captureTrigger (k : Fin 6) (software : Bool) (s : State) : exec (.captureTrigger k software) s = s.onDev (captureTriggerD k software) := rfl
theorem exec_abort (k : Fin 6) (s : State) : exec (.abort k) s = s.onDev (abortD k) := rfl
theorem exec_chainReset (k : Fin 6) (s : State) : exec (.chainReset k) s = s.onDev (chainResetD k) := rfl
theorem exec_calibrationBorrow (k : Fin 6) (v : Option Int) (s : State) : exec (.calibrationBorrow k v) s = s.onDev (calibrationBorrowD k v) := rfl

namespace Dev

theorem cap_of_stirred {d d' : Dev} (h : stirred d d') : d'.cap = d.cap := (congrArg Dev.cap h.calm :)
theorem capBuf_of_stirred {d d' : Dev} (h : stirred d d') : d'.capBuf = d.capBuf := (congrArg Dev.capBuf h.calm :)
theorem tin_of_stirred {d d' : Dev} (h : stirred d d') : d'.tin = d.tin := (congrArg Dev.tin h.calm :)
theorem capOf_of_cap {d d' : Dev} (h : d'.cap = d.cap) (k : Nat) : d'.capOf k = d.capOf k := congrArg (fun m : SMap CapSt => SMap.get ({} : CapSt) m k) h
theorem capState_of_rd {d d' : Dev} {k : Nat} (h : d'.rd (Reg.cap_STATUS k) = d.rd (Reg.cap_STATUS k)) : d'.capState k = d.capState k :=
  congrArg (fun w : Word => bitsOf w.toNat 0 2) h
theorem borrowed_of_rd {d d' : Dev} {k : Nat} (h : d'.rd (Reg.cap_STATUS k) = d.rd (Reg.cap_STATUS k)) : d'.borrowed k = d.borrowed k :=
  congrArg (fun w : Word => w.getLsbD 2) h
theorem setCapState_capState (d : Dev) (k : Nat) {s : Nat} (h : s < 4) : (d.setCapState k s).capState k = s :=
  (fld_setFld_same d (Reg.cap_STATUS k) 0 2 s (by decide)).trans (Nat.mod_eq_of_lt h)
theorem capState_lt (d : Dev) (k : Nat) : d.capState k < 4 := bitsOf_lt ..

/-! ## The chain's reset and a borrow (R254, R255) -/

section resetChain
variable (d : Dev) (k : Nat)

/-- A reset restarts the chain and keeps the configuration and the ring. -/
theorem resetChain_capOf : ∃ (t n phi m : Nat) (o g : Int), (d.resetChain k).capOf k =
    { d.capOf k with resetAt := t, discard := settleLen (d.capOf k).dc, valid := 0, nextLbl := n, mdOfs := o, mdGain := g, phi := phi, rawN := m,
                     raws := [], integ := [0, 0, 0, 0], diffs := [0, 0, 0, 0], cicOut := [] } := by
  unfold resetChain
  extract_lets c step cal th ph trims n d₁
  have hcap : d₁.capOf k = d.capOf k := capOf_of_cap ((setFld_cap ..).trans (setFld_cap ..)) k
  have hn : n = settleLen (d.capOf k).dc := rfl
  clear_value d₁ trims ph step n
  rw [capOf_updCap_same, hcap, hn]
  exact ⟨_, _, _, _, _, _, rfl⟩
theorem resetChain_rd {a : Nat} (hs : Reg.cap_STATUS k ≠ a) (hp : Reg.cap_PH k ≠ a) : (d.resetChain k).rd a = d.rd a := by
  unfold resetChain
  extract_lets c step cal th ph trims n d₁
  rw [rd_of_regs (updCap_regs ..)]
  exact (rd_setFld_ne _ _ _ _ hp).trans (rd_setFld_ne _ _ _ _ hs)
theorem resetChain_fld {lo w : Nat} (h : lo + w ≤ 16) : (d.resetChain k).fld (Reg.cap_STATUS k) lo w = d.fld (Reg.cap_STATUS k) lo w := by
  have hne : Reg.cap_PH k ≠ Reg.cap_STATUS k := by grind
  unfold resetChain
  extract_lets c step cal th ph trims n d₁
  rw [fld, rdN, rd_of_regs (updCap_regs ..), ← rdN, ← fld]
  exact (fld_setFld_ne _ _ _ _ _ _ hne).trans (fld_setFld_other _ _ _ _ _ _ _ (by omega) (by omega))
theorem resetChain_tin : (d.resetChain k).tin = d.tin := by
  unfold resetChain
  extract_lets c step cal th ph trims n d₁
  exact (updCap_tin ..).trans ((setFld_tin ..).trans (setFld_tin ..))
theorem resetChain_calT : (d.resetChain k).calT = d.calT := by
  unfold resetChain
  extract_lets c step cal th ph trims n d₁
  exact (updCap_calT ..).trans ((setFld_calT ..).trans (setFld_calT ..))
end resetChain

/-! ## The FIFO and DONE (R256, R260) -/

/-- Capture `k` has given bytes of its FIFO away. -/
structure drained (k : Nat) (d d' : Dev) : Prop where
  cap : ∃ q n, d'.capOf k = { d.capOf k with fifo := q, fifoAt := n }
  rd : ∀ a, calmReg a → d'.rd a = d.rd a
  tin : d'.tin = d.tin
  capBuf : d'.capBuf = d.capBuf

section drained
variable {k : Nat} {d : Dev}

theorem drained_of_stirred {d' : Dev} (h : stirred d d') : drained k d d' where
  cap := ⟨_, _, capOf_of_cap (cap_of_stirred h) k⟩
  rd := h.rd
  tin := tin_of_stirred h
  capBuf := capBuf_of_stirred h
theorem drained_refl : drained k d d := drained_of_stirred (stirred_refl d)
theorem drained_trans {d' d'' : Dev} (h : drained k d d') (h' : drained k d' d'') : drained k d d'' where
  cap := by
    obtain ⟨q, n, hcap⟩ := h.cap
    obtain ⟨q', n', hcap'⟩ := h'.cap
    exact ⟨q', n', by rw [hcap', hcap]⟩
  rd a ha := (h'.rd a ha).trans (h.rd a ha)
  tin := h'.tin.trans h.tin
  capBuf := h'.capBuf.trans h.capBuf
theorem drained_updCap {d : Dev} (q : List Byte → List Byte) (n : Nat → Nat → Nat) :
    drained k d (d.updCap k (fun c => { c with fifo := q c.fifo, fifoAt := n c.fifoAt c.size })) where
  cap := ⟨_, _, capOf_updCap_same ..⟩
  rd _ _ := rd_of_regs (updCap_regs ..) _
  tin := updCap_tin ..
  capBuf := updCap_capBuf ..
theorem drained_drainBytes (d : Dev) (n : Nat) : drained k d (d.drainBytes k n) := by
  unfold drainBytes
  extract_lets c a
  refine iteInduction (motive := fun x => drained k d x) (fun _ => drained_refl) fun _ => ?_
  split
  · exact drained_of_stirred (stirred_freezeAt ..)
  · exact drained_trans (drained_of_stirred (stirred_writeDram ..)) (drained_updCap (fun l => l.drop n) fun i s => (i + n) % max 1 s)
theorem drained_drainFifo (d : Dev) (all : Bool) : drained k d (d.drainFifo k all) := by
  have hbursts (l : List Nat) (d : Dev) : drained k d (l.foldl (fun (d : Dev) _ => if d.dramShut then d else d.drainBytes k 512) d) := by
    induction l generalizing d with
    | nil => exact drained_refl
    | cons x r ih =>
      refine drained_trans ?_ (ih _)
      exact iteInduction (motive := fun x => drained k d x) (fun _ => drained_refl) fun _ => drained_drainBytes ..
  unfold drainFifo
  extract_lets d₁
  have h₁ : drained k d d₁ := hbursts ..
  clear_value d₁
  refine iteInduction (motive := fun x => drained k d x) (fun _ => drained_refl) fun _ => ?_
  exact iteInduction (motive := fun x => drained k d x) (fun _ => drained_trans h₁ (drained_drainBytes ..)) fun _ => h₁
end drained

theorem calmReg_cap {k o : Nat} (hk : k < 6) (ho : o < 0x400) : calmReg (0x1610000 + 0x400 * k + o) := by
  unfold calmReg
  omega

section capDone
variable (d : Dev) {k : Nat} (ev : Nat)

theorem capDone_rd {a : Nat} (ha : calmReg a) (hs : Reg.cap_STATUS k ≠ a) (he : Reg.cap_EVENTS k ≠ a) : (d.capDone k ev).rd a = d.rd a := by
  unfold capDone
  rw [rd_of_regs (fireNow_regs ..), rd_raise_ne _ _ he, setCapState, rd_setFld_ne _ _ _ _ hs]
  exact (drained_drainFifo (k := k) d true).rd a ha
theorem capDone_capState : (d.capDone k ev).capState k = 3 := by
  have hne : Reg.cap_EVENTS k ≠ Reg.cap_STATUS k := by grind
  unfold capDone
  rw [capState_of_rd ((rd_of_regs (fireNow_regs ..) _).trans (rd_raise_ne _ _ hne))]
  exact setCapState_capState _ _ (by decide)
theorem capDone_capOf : ∃ q n, (d.capDone k ev).capOf k = { d.capOf k with fifo := q, fifoAt := n } := by
  obtain ⟨q, n, h⟩ := (drained_drainFifo (k := k) d true).cap
  refine ⟨q, n, ?_⟩
  rw [← h]
  unfold capDone
  exact capOf_of_cap ((cap_of_base (base_fireNow ..)).trans ((raise_cap ..).trans (setFld_cap ..))) k
end capDone

/-! ## Triggers (R256, R257) -/

/-- The state of capture `k` may have become DONE, and its trigger stamp stays. -/
structure pointed (k : Nat) (d d' : Dev) : Prop where
  state : d'.capState k = d.capState k ∨ d'.capState k = 3
  stamp : d'.rd64 (Reg.cap_TRIG_AT_LO k) = d.rd64 (Reg.cap_TRIG_AT_LO k)

section pointed
variable {k : Nat} {d : Dev}

theorem pointed_of_rd {d' : Dev} (hs : d'.rd (Reg.cap_STATUS k) = d.rd (Reg.cap_STATUS k))
    (ht : ∀ a, a = Reg.cap_TRIG_AT_LO k ∨ a = Reg.cap_TRIG_AT_LO k + 4 → d'.rd a = d.rd a) : pointed k d d' where
  state := .inl (capState_of_rd hs)
  stamp := by
    unfold rd64 rdN
    rw [ht _ (.inl rfl), ht _ (.inr rfl)]
theorem pointed_refl : pointed k d d := ⟨.inl rfl, rfl⟩
theorem pointed_trans {d' d'' : Dev} (h : pointed k d d') (h' : pointed k d' d'') : pointed k d d'' where
  state := by
    rcases h'.state with hs | hs
    · rw [hs]
      exact h.state
    · exact .inr hs
  stamp := h'.stamp.trans h.stamp
theorem pointed_wrN {a : Nat} (v : Nat) (h : a ≠ Reg.cap_STATUS k ∧ a ≠ Reg.cap_TRIG_AT_LO k ∧ a ≠ Reg.cap_TRIG_AT_LO k + 4) : pointed k d (d.wrN a v) := by
  obtain ⟨hs, hlo, hhi⟩ := h
  refine pointed_of_rd (rd_wrN_ne _ _ hs) ?_
  rintro b (rfl | rfl)
  · exact rd_wrN_ne _ _ hlo
  · exact rd_wrN_ne _ _ hhi
theorem pointed_wr64 {a : Nat} (v : Nat) (h : a ≠ Reg.cap_STATUS k ∧ a ≠ Reg.cap_TRIG_AT_LO k ∧ a ≠ Reg.cap_TRIG_AT_LO k + 4)
    (h4 : a + 4 ≠ Reg.cap_STATUS k ∧ a + 4 ≠ Reg.cap_TRIG_AT_LO k ∧ a + 4 ≠ Reg.cap_TRIG_AT_LO k + 4) : pointed k d (d.wr64 a v) :=
  pointed_trans (pointed_wrN _ h) (pointed_wrN _ h4)
theorem pointed_updCap (d : Dev) (n : Nat) (f : CapSt → CapSt) : pointed k d (d.updCap n f) :=
  pointed_of_rd (rd_of_regs (updCap_regs ..) _) fun a _ => rd_of_regs (updCap_regs ..) a
theorem pointed_recordLate (d : Dev) (stamp lateness : Nat) : pointed k d (d.recordLate stamp lateness) := by
  refine pointed_of_rd (recordLate_rd _ _ _ (.inr (by grind))) ?_
  rintro b (rfl | rfl) <;> exact recordLate_rd _ _ _ (.inr (by grind))
theorem pointed_capDone (hk : k < 6) (d : Dev) (ev : Nat) : pointed k d (d.capDone k ev) where
  state := .inr (capDone_capState ..)
  stamp := by
    have hlo : Reg.cap_STATUS k ≠ Reg.cap_TRIG_AT_LO k ∧ Reg.cap_EVENTS k ≠ Reg.cap_TRIG_AT_LO k := by grind
    have hhi : Reg.cap_STATUS k ≠ Reg.cap_TRIG_AT_LO k + 4 ∧ Reg.cap_EVENTS k ≠ Reg.cap_TRIG_AT_LO k + 4 := by grind
    unfold rd64 rdN
    rw [capDone_rd d ev (calmReg_cap hk (by norm_num)) hlo.1 hlo.2, capDone_rd d ev (calmReg_cap (o := 0x38) hk (by norm_num)) hhi.1 hhi.2]
theorem pointed_capFlags (d : Dev) (ev : Nat) : pointed k d (d.capFlags k ev) := by
  unfold capFlags raise
  exact iteInduction (motive := fun x => pointed k d x) (fun _ => pointed_refl) fun _ => pointed_wrN _ (by grind)
theorem pointed_setPoint (hk : k < 6) (d : Dev) (back ev : Nat) : pointed k d (d.setPoint k back ev) := by
  unfold setPoint
  extract_lets c cap before pre idx d₁ d₂ d₃ ev'
  have h₁ : pointed k d d₁ := pointed_updCap ..
  have h₂ : pointed k d₁ d₂ := pointed_trans (pointed_wr64 _ (by grind) (by grind)) (pointed_wrN _ (by grind))
  have h₃ : pointed k d₂ d₃ := pointed_trans (pointed_wr64 _ (by grind) (by grind)) (pointed_wr64 _ (by grind) (by grind))
  have h := pointed_trans (pointed_trans h₁ h₂) h₃
  clear_value d₃
  exact iteInduction (motive := fun x => pointed k d x) (fun _ => pointed_trans h (pointed_capDone hk ..)) fun _ => pointed_trans h (pointed_capFlags ..)
theorem pointed_raise_tin (d : Dev) (i m : Nat) : pointed k d (d.raise (Reg.tin_EVENTS i) m) := pointed_wrN _ (by grind)
theorem pointed_findPoint (hk : k < 6) (d : Dev) (t : Nat) : pointed k d (d.findPoint k t) := by
  unfold findPoint
  extract_lets c n back gone d₁ d₂
  have h₁ : pointed k d d₁ := iteInduction (motive := fun x => pointed k d x) (fun _ => pointed_raise_tin ..) fun _ => pointed_refl
  have h₂ : pointed k d₁ d₂ := iteInduction (motive := fun x => pointed k d₁ x) (fun _ => pointed_recordLate ..) fun _ => pointed_refl
  have h := pointed_trans h₁ h₂
  clear_value d₂
  refine iteInduction (motive := fun x => pointed k d x) (fun _ => pointed_refl) fun _ => ?_
  exact iteInduction (motive := fun x => pointed k d x) (fun _ => pointed_setPoint hk ..) fun _ => pointed_trans h (pointed_setPoint hk ..)

/-- An accepted trigger gives its stamp; the capture is TRIGGERED or already DONE. -/
theorem doTrigger_spec (hk : k < 6) (d : Dev) {stamp : Nat} (t : Nat) (hstamp : stamp < 2^64) :
    ((d.doTrigger k stamp t).capState k = 2 ∨ (d.doTrigger k stamp t).capState k = 3) ∧ (d.doTrigger k stamp t).rd64 (Reg.cap_TRIG_AT_LO k) = stamp := by
  have hne : Reg.cap_TRIG_AT_LO k ≠ Reg.cap_STATUS k ∧ Reg.cap_TRIG_AT_LO k + 4 ≠ Reg.cap_STATUS k := by grind
  unfold doTrigger
  extract_lets d₁ d₂
  have hstate : d₁.capState k = 2 := by
    rw [capState_of_rd (rd_wr64_ne _ _ hne.1 hne.2)]
    exact setCapState_capState _ _ (by decide)
  have hat : d₁.rd64 (Reg.cap_TRIG_AT_LO k) = stamp := rd64_wr64 _ _ _ hstamp
  have h : pointed k d₁ (d₂.findPoint k t) := pointed_trans (pointed_updCap ..) (pointed_findPoint hk ..)
  clear_value d₁ d₂
  rw [h.stamp]
  exact ⟨h.state.imp_left fun hs => hs.trans hstate, hat⟩
end pointed
end Dev
end Sys2Proof.Machine

/-! PROOFS. The states of captures (R254 to R259, R265, R345, R349). -/
namespace Sys2Proof.Machine
namespace Dev

/-! ## Applying a configuration -/

section apply
variable {d : Dev} {fn : Fn} {k : Fin 6} (hans : d.answers fn (Reg.cap_CTL k) (d.mdOwner k))
  (hpost : d.rd64 (Reg.cap_POST_LO k) % 2^40 ≠ 0)
  (hroom : d.rdN (Reg.cap_PRE k) + d.rd64 (Reg.cap_POST_LO k) % 2^40 ≤
    (if bitsOf (d.rdN (Reg.cap_CFG k)) 21 1 = 0 then 2^20 else d.rd64 (Reg.cap_RING_SIZE_LO k) % 2^41) / (if bitsOf (d.rdN (Reg.cap_CFG k)) 20 1 = 1 then 2 else 4))
  (hring : bitsOf (d.rdN (Reg.cap_CFG k)) 21 1 = 1 → d.rd64 (Reg.cap_RING_BASE_LO k) % 2^41 % 4096 = 0 ∧ d.rd64 (Reg.cap_RING_SIZE_LO k) % 2^41 % 4096 = 0 ∧
    d.dramRegion (d.mdOwner k) (d.rd64 (Reg.cap_RING_BASE_LO k) % 2^41) (d.rd64 (Reg.cap_RING_SIZE_LO k) % 2^41) = true)
  (hchan : bitsOf (d.rdN (Reg.cap_CFG k)) 0 5 < 16 → d.chOwner (16 * k + bitsOf (d.rdN (Reg.cap_CFG k)) 0 5) = d.mdOwner k)
  (hsel : bitsOf (d.rdN (Reg.cap_CFG k)) 0 5 ≤ 17)
  (hlogA : bitsOf (d.rdN (Reg.cap_LOG k)) 8 1 = 1 → d.ecOwner (bitsOf (d.rdN (Reg.cap_LOG k)) 0 8) = d.mdOwner k)
  (hlogB : bitsOf (d.rdN (Reg.cap_LOG k)) 24 1 = 1 → d.ecOwner (bitsOf (d.rdN (Reg.cap_LOG k)) 16 8) = d.mdOwner k)
  (hdec : 1 ≤ bitsOf (d.rdN (Reg.cap_CFG k)) 5 12) (hdec' : bitsOf (d.rdN (Reg.cap_CFG k)) 5 12 ≤ 2048) (harmed : d.capState k ≠ 1) (htrig : d.capState k ≠ 2)
  (hparity : d.corrupt (Reg.cap_CFG k) 1024 = false)
include hans hpost hroom hring hchan hsel hlogA hlogB hdec hdec' harmed htrig hparity

theorem captureApplyD_capOf :
    let cfg := d.rdN (Reg.cap_CFG k)
    let c := (captureApplyD fn k d).capOf k
    c.sel = bitsOf cfg 0 5 ∧ c.dec = bitsOf cfg 5 12 ∧ c.fmt = bitsOf cfg 20 1 ∧ c.target = bitsOf cfg 21 1 ∧ (c.ovr = true ↔ bitsOf cfg 22 1 = 1) ∧
      (c.en = true ↔ bitsOf cfg 23 1 = 1) ∧ c.pre = d.rdN (Reg.cap_PRE k) ∧ c.post = d.rd64 (Reg.cap_POST_LO k) % 2^40 ∧
      c.base = d.rd64 (Reg.cap_RING_BASE_LO k) % 2^41 ∧ c.size = d.rd64 (Reg.cap_RING_SIZE_LO k) % 2^41 := by
  intro cfg c
  have hc : c = (captureApplyD fn k d).capOf k := rfl
  clear_value c
  unfold captureApplyD at hc
  extract_lets n at hc
  rw [access_keeps hans _ (q := fun d => d.capOf k) fun _ _ _ => rfl] at hc
  extract_lets cfg₀ sel dec fmt target pre post base size log phUser owner now staged ecOk s a at hc
  have hcap : staged.capacity = (if bitsOf cfg 21 1 = 0 then 2^20 else size) / (if bitsOf cfg 20 1 = 1 then 2 else 4) := by
    unfold CapSt.capacity CapSt.width
    exact (ite_div (α := Nat) ..).symm
  have hfits : ¬ (staged.capacity < pre + post ∨ post = 0) := by
    rw [hcap]
    exact not_or.mpr ⟨hroom.not_gt, hpost⟩
  have hring' : ¬ (target = 1 ∧ (base % 4096 ≠ 0 ∨ size % 4096 ≠ 0 ∨ (!d.dramRegion owner base size) = true)) := by
    rintro ⟨htarget, hbad⟩
    obtain ⟨hbase, hsize, hregion⟩ := hring htarget
    rcases hbad with hbad | hbad | hbad
    · exact hbad hbase
    · exact hbad hsize
    · rw [hregion] at hbad
      cases hbad
  have hchan' : ¬ (sel < 16 ∧ d.chOwner (16 * n + sel) ≠ owner) := fun h => h.2 (hchan h.1)
  have hlog (b e : Nat) (h : b = 1 → d.ecOwner e = owner) : ecOk (if b = 1 then some e else none) = true := by
    unfold ecOk
    split
    · next x hx =>
        split at hx
        · next hb =>
            obtain rfl := Option.some.inj hx
            exact beq_iff_eq.mpr (h hb)
        · cases hx
    · rfl
  have hlogs : ¬ ((!ecOk staged.logA) = true ∨ (!ecOk staged.logB) = true) := by
    have ha : ecOk staged.logA = true := hlog _ _ hlogA
    have hb : ecOk staged.logB = true := hlog _ _ hlogB
    rw [ha, hb]
    decide
  have hrest : ¬ (17 < sel ∨ dec = 0 ∨ 2048 < dec ∨ s = 1 ∨ s = 2 ∨ d.corrupt (Reg.cap_CFG n) 1024 = true) := by
    rintro (h | h | h | h | h | h)
    · exact hsel.not_gt h
    · exact (Nat.one_le_iff_ne_zero.mp hdec) h
    · exact hdec'.not_gt h
    · exact harmed h
    · exact htrig h
    · rw [hparity] at h
      cases h
  rw [if_neg hfits, if_neg hring', if_neg hchan', if_neg hlogs, if_neg hrest] at hc
  have hd₁ : (d.updCap n fun _ => staged).capOf n = staged := capOf_updCap_same ..
  have hall : staged.sel = sel ∧ staged.dec = dec ∧ staged.fmt = fmt ∧ staged.target = target ∧ (staged.ovr = true ↔ bitsOf cfg 22 1 = 1) ∧
      (staged.en = true ↔ bitsOf cfg 23 1 = 1) ∧ staged.pre = pre ∧ staged.post = post ∧ staged.base = base ∧ staged.size = size :=
    ⟨rfl, rfl, rfl, rfl, beq_iff_eq, beq_iff_eq, rfl, rfl, rfl, rfl⟩
  clear_value staged
  obtain ⟨_, _, _, _, _, _, hreset⟩ := resetChain_capOf (d.updCap n fun _ => staged) n
  split at hc
  · rw [hc, hreset, hd₁]
    exact hall
  · rw [hc, hd₁]
    exact hall
end apply

/-! ## Arming -/

theorem armBusy_congr {d d' : Dev} {k : Nat} (hs : d'.rd (Reg.cap_STATUS k) = d.rd (Reg.cap_STATUS k)) (hc : d'.capOf k = d.capOf k)
    (hp : d'.parity = d.parity) : d'.armBusy k = d.armBusy k := by
  unfold armBusy corrupt
  rw [capState_of_rd hs, hc, hp]

section dropAct
variable (d : Dev) (i : Nat) (a : Act)
theorem dropAct_cap : (d.dropAct i a).cap = d.cap :=
  (iteInduction (motive := fun x : Dev => x.cap = _) (fun _ => (settle_cap ..).trans (settle_cap ..)) fun _ => rfl).trans
    ((setFld_cap ..).trans (updTin_cap ..))
theorem dropAct_parity : (d.dropAct i a).parity = d.parity :=
  (iteInduction (motive := fun x : Dev => x.parity = _) (fun _ => (settle_parity ..).trans (settle_parity ..)) fun _ => rfl).trans
    ((setFld_parity ..).trans (updTin_parity ..))
end dropAct

theorem endBorrow_capState (d : Dev) (k : Nat) : (d.endBorrow k).capState k = d.capState k := by
  unfold endBorrow
  refine (resetChain_fld _ _ (by decide)).trans ?_
  rw [fld, rdN, rd_of_regs (updCap_regs ..), ← rdN, ← fld]
  exact fld_setBit_other _ _ _ _ _ _ (by decide) (by decide)
theorem endBorrow_tin (d : Dev) (k : Nat) : (d.endBorrow k).tin = d.tin := by
  unfold endBorrow
  rw [resetChain_tin, updCap_tin, setBit_tin]

section doArm
variable {d : Dev} {k : Nat} (a : Act)

theorem tin_STATE_ne_cap (i k : Nat) (hi : i < 512) (o : Nat) : Reg.tin_STATE i ≠ 0x1610000 + 0x400 * k + o := by
  unfold Reg.tin_STATE
  omega
theorem dropAct_armBusy (hk : k < 6) : (d.dropAct (424 + k) a).armBusy k = d.armBusy k :=
  armBusy_congr (dropAct_rd _ _ _ (tin_STATE_ne_cap _ _ (by omega) _)) (capOf_of_cap (dropAct_cap ..) k) (dropAct_parity ..)

/-- An arm that finds the capture free starts its ring. -/
theorem doArm_of_free (hk : k < 6) (hfree : d.armBusy k = false) : (d.doArm k a).capState k = 1 ∧ ((d.doArm k a).capOf k).armAt = a.time ∧
    ((d.doArm k a).capOf k).valid = 0 ∧ (d.doArm k a).tinOf (424 + k) = { d.tinOf (424 + k) with acts := (d.tinOf (424 + k)).acts.erase a } := by
  have hbusy : ¬ (d.dropAct (424 + k) a).armBusy k = true := by
    rw [dropAct_armBusy a hk, hfree]
    decide
  unfold doArm
  extract_lets d₀ d₁ d₂ d₃
  have hlog : Reg.cap_LOG_N k ≠ Reg.cap_STATUS k ∧ Reg.cap_PRE_ACT k ≠ Reg.cap_STATUS k ∧ Reg.cap_POST_ACT_LO k ≠ Reg.cap_STATUS k ∧
    Reg.cap_POST_ACT_LO k + 4 ≠ Reg.cap_STATUS k := by grind
  obtain ⟨hlogN, hpre, hlo, hhi⟩ := hlog
  have hstate₂ : d₂.capState k = 1 := by
    rw [capState_of_rd ((rd_wr64_ne _ _ hlo hhi).trans ((rd_wrN_ne _ _ hpre).trans (rd_wrN_ne _ _ hlogN)))]
    exact setCapState_capState _ _ (by decide)
  have htin₂ : d₂.tin = d₀.tin := (wr64_tin ..).trans ((wrN_tin ..).trans ((wrN_tin ..).trans (setFld_tin ..)))
  have h₃ : d₃.capState k = d₂.capState k ∧ d₃.tin = d₂.tin :=
    iteInduction (motive := fun x : Dev => x.capState k = d₂.capState k ∧ x.tin = d₂.tin) (fun _ => ⟨endBorrow_capState .., endBorrow_tin ..⟩) fun _ => ⟨rfl, rfl⟩
  clear_value d₁ d₂ d₃
  rw [if_neg hbusy]
  refine ⟨?_, ?_, ?_, ?_⟩
  · rw [capState_of_rd (rd_of_regs (updCap_regs ..) _), h₃.1, hstate₂]
  · rw [capOf_updCap_same]
  · rw [capOf_updCap_same]
  · refine Eq.trans ?_ (dropAct_tinOf d (424 + k) a)
    exact congrArg (fun m : SMap TinSt => SMap.get ({} : TinSt) m (424 + k)) ((updCap_tin ..).trans (h₃.2.trans htin₂))

theorem capLost_onlyRegs (d : Dev) (k i stamp : Nat) (host : Bool) : d.onlyRegs (d.capLost k i stamp host) := by
  unfold capLost
  exact iteInduction (motive := fun x => d.onlyRegs x) (fun _ => onlyRegs_raise ..) fun _ => overrun_onlyRegs ..
theorem capLost_status (d : Dev) {k i : Nat} (hi : 320 ≤ i ∧ i < 512) (stamp : Nat) (host : Bool) :
    (d.capLost k i stamp host).rd (Reg.cap_STATUS k) = d.rd (Reg.cap_STATUS k) := by
  have hne : Reg.cap_EVENTS k ≠ Reg.cap_STATUS k := by grind
  unfold capLost
  exact iteInduction (motive := fun x : Dev => x.rd (Reg.cap_STATUS k) = _) (fun _ => rd_raise_ne _ _ hne)
    fun _ => overrunWith_rd d stamp 0 hi.1 (.inr (by grind)) hi.2

/-- An arm that finds the capture busy by its time is lost. -/
theorem doArm_of_busy (hk : k < 6) (hbusy : d.armBusy k = true) : (d.doArm k a).capState k = d.capState k ∧ (d.doArm k a).capOf k = d.capOf k ∧
    ((d.doArm k a).tinOf (424 + k)).acts = (d.tinOf (424 + k)).acts.erase a := by
  unfold doArm
  dsimp only
  rw [if_pos ((dropAct_armBusy a hk).trans hbusy)]
  have hrd := capLost_status (d.dropAct (424 + k) a) (k := k) (i := 424 + k) (by omega) a.stamp (a.value == 1)
  obtain ⟨r, hr⟩ := capLost_onlyRegs (d.dropAct (424 + k) a) k (424 + k) a.stamp (a.value == 1)
  refine ⟨?_, ?_, ?_⟩
  · rw [capState_of_rd (hrd.trans (dropAct_rd _ _ _ (tin_STATE_ne_cap _ _ (by omega) _)))]
  · rw [hr]
    exact capOf_of_cap (dropAct_cap ..) k
  · rw [hr]
    exact congrArg TinSt.acts (dropAct_tinOf ..)
end doArm

/-! ## CAPTURE_ARM -/

/-- What an arm's held action does in the same command: it takes effect where its time has come. -/
def armHeld (d : Dev) (k : Nat) (a : Act) : Dev := if d.due a.time then (d.addAct (424 + k) a).doArm k a else d.addAct (424 + k) a

theorem addAct_cap (d : Dev) (i : Nat) (a : Act) : (d.addAct i a).cap = d.cap := (setFld_cap ..).trans (updTin_cap ..)
theorem addAct_parity (d : Dev) (i : Nat) (a : Act) : (d.addAct i a).parity = d.parity := (setFld_parity ..).trans (updTin_parity ..)
theorem addAct_nowT (d : Dev) (i : Nat) (a : Act) : (d.addAct i a).nowT = d.nowT := by
  have hne : Reg.tin_STATE i ≠ Reg.time_STATUS := by grind
  exact nowT_of_rd (addAct_rd _ _ _ hne) ((setFld_time ..).trans (updTin_time ..))
theorem due_of_nowT {d d' : Dev} (h : d'.nowT = d.nowT) (t : Nat) : d'.due t = d.due t := by
  unfold due
  rw [h]

theorem addAct_armBusy (d : Dev) {k : Nat} (hk : k < 6) (a : Act) : (d.addAct (424 + k) a).armBusy k = d.armBusy k :=
  armBusy_congr (addAct_rd _ _ _ (tin_STATE_ne_cap _ _ (by omega) _)) (capOf_of_cap (addAct_cap ..) k) (addAct_parity ..)

theorem taken_cap (d : Dev) (i : Nat) (r : List Held) (gen : Nat) : (d.taken i r gen).cap = d.cap := (setFld_cap ..).trans (updTin_cap ..)

theorem armHeld_spec {d : Dev} {k : Nat} (hk : k < 6) (hfree : d.armBusy k = false) (hacts : (d.tinOf (424 + k)).acts = []) (a : Act) :
    (if d.due a.time then (d.armHeld k a).capState k = 1 ∧ ((d.armHeld k a).capOf k).armAt = a.time ∧ ((d.armHeld k a).capOf k).valid = 0 ∧
        ((d.armHeld k a).tinOf (424 + k)).acts = []
     else (d.armHeld k a).capState k = d.capState k ∧ ((d.armHeld k a).tinOf (424 + k)).acts = [a]) ∧
      ((d.armHeld k a).tinOf (424 + k)).inbox = (d.tinOf (424 + k)).inbox := by
  have htin : (d.addAct (424 + k) a).tinOf (424 + k) = { d.tinOf (424 + k) with acts := [a] } := by
    rw [addAct_tinOf, hacts]
    rfl
  unfold armHeld
  cases d.due a.time with
  | true =>
    rw [if_pos rfl, if_pos rfl]
    obtain ⟨hstate, hat, hcount, hdone⟩ := doArm_of_free a hk ((addAct_armBusy d hk a).trans hfree)
    rw [htin] at hdone
    rw [hdone]
    exact ⟨⟨hstate, hat, hcount, List.erase_cons_head ..⟩, rfl⟩
  | false =>
    rw [if_neg Bool.false_ne_true, if_neg Bool.false_ne_true, htin]
    exact ⟨⟨capState_of_rd (addAct_rd _ _ _ (tin_STATE_ne_cap _ _ (by omega) _)), rfl⟩, rfl⟩

theorem taken_armBusy (d : Dev) {k : Nat} (hk : k < 6) (r : List Held) (gen : Nat) : (d.taken (424 + k) r gen).armBusy k = d.armBusy k :=
  armBusy_congr (taken_rd _ _ _ _ (tin_STATE_ne_cap _ _ (by omega) _)) (capOf_of_cap (taken_cap ..) k) (taken_parity ..)
/-- The same of a firing that is taken first. -/
theorem armHeld_of_taken {d : Dev} {k : Nat} (hk : k < 6) (hfree : d.armBusy k = false) (hacts : (d.tinOf (424 + k)).acts = []) (r : List Held) (gen : Nat)
    (a : Act) :
    (if d.due a.time then ((d.taken (424 + k) r gen).armHeld k a).capState k = 1 ∧ (((d.taken (424 + k) r gen).armHeld k a).capOf k).armAt = a.time ∧
        (((d.taken (424 + k) r gen).armHeld k a).capOf k).valid = 0 ∧ (((d.taken (424 + k) r gen).armHeld k a).tinOf (424 + k)).acts = []
     else ((d.taken (424 + k) r gen).armHeld k a).capState k = d.capState k ∧ (((d.taken (424 + k) r gen).armHeld k a).tinOf (424 + k)).acts = [a]) ∧
      (((d.taken (424 + k) r gen).armHeld k a).tinOf (424 + k)).inbox = r := by
  have h := armHeld_spec hk ((taken_armBusy d hk r gen).trans hfree) ((taken_acts ..).trans hacts) a
  rwa [due_of_nowT (taken_nowT ..), capState_of_rd (taken_rd _ _ _ _ (tin_STATE_ne_cap _ _ (by omega) _)), taken_inbox] at h

section arm
variable {d : Dev} {k : Fin 6}

theorem earliest_singleton (a : Act) : earliest [a] = some a := rfl

/-- What is held is performed where it is due. -/
theorem perform_armHeld {d₀ : Dev} {a : Act} (hacts : (d₀.tinOf (424 + k.val)).acts = []) :
    (match earliest ((d₀.addAct (424 + k.val) a).tinOf (424 + k.val)).acts with
      | some b => if (d₀.addAct (424 + k.val) a).due b.time then (d₀.addAct (424 + k.val) a).doArm k.val b else d₀.addAct (424 + k.val) a
      | none => d₀.addAct (424 + k.val) a) = d₀.armHeld k a := by
  rw [addAct_tinOf, hacts]
  dsimp only [List.nil_append, earliest_singleton]
  rw [due_of_nowT (addAct_nowT ..)]
  rfl

theorem captureArmD_of_software (hvalid : d.timeValid = true) (hfree : d.armBusy k = false) (hacts : (d.tinOf (424 + k.val)).acts = [])
    (hbad : d.tinBad (424 + k.val) = false) (hmax : d.nowT + d.latOf (424 + k.val) < 2^64) :
    captureArmD k true d = d.armHeld k ⟨d.nowT + d.latOf (424 + k.val), d.nowT, 0, 1⟩ := by
  have hact := actTime_onTime (d := d) (i := 424 + k.val) (lat := d.latOf (424 + k.val)) (f := ⟨hostSrc, d.nowT, 0, false, false⟩) hmax rfl rfl (Nat.le_add_right ..)
  have hgo : ¬ (d.tinBad (424 + k.val) || decide (4 ≤ (d.tinOf (424 + k.val)).acts.length)) = true := by
    rw [hbad, hacts]
    decide
  have hbusy : ¬ d.armBusy k = true := by
    rw [hfree]
    decide
  unfold captureArmD
  dsimp only
  rw [if_pos rfl, if_pos hvalid, if_neg hbusy, if_neg hgo, hact]
  exact perform_armHeld hacts

theorem captureArmD_of_takes {h : Held} {r : List Held} {t : Nat} (htakes : d.takesAt (424 + k.val) h r t) (hsrc : h.fire.src ≠ hostSrc)
    (hfree : d.armBusy k = false) (hacts : (d.tinOf (424 + k.val)).acts = []) :
    captureArmD k false d = (d.taken (424 + k.val) r h.fire.gen).armHeld k ⟨t, h.fire.stamp, h.fire.gen, 0⟩ := by
  obtain ⟨hvalid, hin, hbad, hcoarse, hlate, rfl, hmax, hnow⟩ := htakes
  have hact := actTime_onTime (d := d.taken (424 + k.val) r h.fire.gen) (i := 424 + k.val) (lat := d.latOf (424 + k.val)) (f := h.fire) hmax hcoarse hlate
    ((taken_nowT ..).trans_le hnow)
  have hacts' : ((d.taken (424 + k.val) r h.fire.gen).tinOf (424 + k.val)).acts = [] := (taken_acts ..).trans hacts
  have hgo : ¬ ((d.taken (424 + k.val) r h.fire.gen).tinBad (424 + k.val) ||
      decide (4 ≤ ((d.taken (424 + k.val) r h.fire.gen).tinOf (424 + k.val)).acts.length)) = true := by
    rw [taken_tinBad, hbad, hacts']
    decide
  have hbusy : ¬ (d.taken (424 + k.val) r h.fire.gen).armBusy k = true := by
    rw [taken_armBusy d k.isLt, hfree]
    decide
  have hhost : (h.fire.src == hostSrc) = false := beq_eq_false_iff_ne.mpr hsrc
  unfold captureArmD
  dsimp only
  rw [if_neg Bool.false_ne_true, hvalid, hacts, takeFiring_of_inbox hin]
  dsimp only [earliest, Option.filter]
  rw [if_neg (by decide), if_neg hbusy, if_neg hgo, taken_latOf, hact, hhost]
  exact perform_armHeld hacts'

/-- An arm that was held acts at its time. -/
theorem captureArmD_of_due {a : Act} (hvalid : d.timeValid = true) (hacts : (d.tinOf (424 + k.val)).acts = [a]) (hdue : d.due a.time = true) :
    captureArmD k false d = d.doArm k a := by
  unfold captureArmD
  dsimp only
  rw [if_neg Bool.false_ne_true, hvalid, hacts, earliest_singleton, Option.filter_some, hdue]
  rfl

/-! ## CAPTURE_TRIGGER -/

theorem captureTriggerD_of_software (hvalid : d.timeValid = true) (hmax : d.nowT + d.latOf (430 + k.val) < 2^64) (harmed : d.capState k = 1)
    (hbad : d.tinBad (430 + k.val) = false) (hparity : d.corrupt (Reg.cap_CFG k) 1024 = false) :
    captureTriggerD k true d = d.doTrigger k d.nowT (d.nowT + d.latOf (430 + k.val)) := by
  have hgo : ¬ (d.trigBusy k || d.tinBad (430 + k.val)) = true := by
    rw [trigBusy, harmed, hparity, hbad]
    decide
  unfold captureTriggerD
  dsimp only
  rw [if_pos rfl, if_pos hvalid, if_neg hgo, if_neg hmax.not_ge]
  exact if_neg (by decide)

theorem captureTriggerD_of_takes {h : Held} {r : List Held} {t : Nat} (htakes : d.takesAt (430 + k.val) h r t) (harmed : d.capState k = 1)
    (hparity : d.corrupt (Reg.cap_CFG k) 1024 = false) :
    captureTriggerD k false d = (d.taken (430 + k.val) r h.fire.gen).doTrigger k h.fire.stamp t := by
  obtain ⟨hvalid, hin, hbad, hcoarse, hlate, rfl, hmax, hnow⟩ := htakes
  have hgo : ¬ ((d.taken (430 + k.val) r h.fire.gen).trigBusy k || (d.taken (430 + k.val) r h.fire.gen).tinBad (430 + k.val)) = true := by
    rw [trigBusy, capState_of_rd (taken_rd _ _ _ _ (tin_STATE_ne_cap _ _ (by omega) _)), corrupt, taken_parity, ← corrupt, harmed, hparity, taken_tinBad, hbad]
    decide
  have honTime : ¬ (h.fire.coarse = true ∨ h.fire.late = true) := by
    rw [hcoarse, hlate]
    decide
  unfold captureTriggerD
  dsimp only
  rw [if_neg Bool.false_ne_true, hvalid, takeFiring_of_inbox hin]
  dsimp only
  rw [if_neg (by decide), if_neg hgo, taken_latOf, if_neg hmax.not_ge, if_neg honTime]
end arm

/-! ## ABORT, CHAIN_RESET and CALIBRATION_BORROW -/

theorem abortD_spec (d : Dev) (k : Fin 6) : (abortD k d).capState k = (if d.capState k = 2 then 3 else 0) ∧
    ((abortD k d).capOf k).valid = (d.capOf k).valid ∧ (d.capState k ≠ 2 → (abortD k d).capOf k = d.capOf k) := by
  have hidle : (d.setCapState k 0).capState k = 0 ∧ ((d.setCapState k 0).capOf k).valid = (d.capOf k).valid ∧ (d.setCapState k 0).capOf k = d.capOf k := by
    have hcap := capOf_of_cap (setFld_cap d (Reg.cap_STATUS k) 0 2 0) k
    exact ⟨setCapState_capState _ _ (by decide), congrArg CapSt.valid hcap, hcap⟩
  have hlt := d.capState_lt k
  obtain h | h | h | h : d.capState k = 0 ∨ d.capState k = 1 ∨ d.capState k = 2 ∨ d.capState k = 3 := by omega
  all_goals
    unfold abortD
    rw [h]
  · exact ⟨h, rfl, fun _ => rfl⟩
  · exact ⟨hidle.1, hidle.2.1, fun _ => hidle.2.2⟩
  · obtain ⟨q, n, hcap⟩ := capDone_capOf d (k := k.val) 0
    have hvalid : ((d.capDone k.val 0).capOf k.val).valid = (d.capOf k).valid := by rw [hcap]
    exact ⟨capDone_capState .., hvalid, fun hne => absurd rfl hne⟩
  · exact ⟨hidle.1, hidle.2.1, fun _ => hidle.2.2⟩

theorem chainResetD_spec {d : Dev} {k : Fin 6} (hon : (d.capOf k).en = true ∨ d.borrowed k = true) :
    ((chainResetD k d).capOf k).valid = 0 ∧ ((chainResetD k d).capOf k).discard = settleLen (d.capOf k).dc ∧ (chainResetD k d).capState k = d.capState k := by
  have hgo : ((d.capOf k).en || d.borrowed k) = true := Bool.or_eq_true_iff.mpr hon
  obtain ⟨_, _, _, _, _, _, hreset⟩ := resetChain_capOf d k
  unfold chainResetD
  rw [if_pos hgo, hreset]
  exact ⟨rfl, rfl, resetChain_fld _ _ (by decide)⟩

theorem resetChain_borrowed (d : Dev) (k : Nat) : (d.resetChain k).borrowed k = d.borrowed k := by
  unfold borrowed
  rw [bit_eq, bit_eq, resetChain_fld _ _ (by decide)]

/-- The digitiser is lent, or given back, and the chain restarts on the input that the selector then shows. -/
def lentTo (d : Dev) (k : Nat) (b : Option Borrow) : Dev := (d.setBit (Reg.cap_STATUS k) 2 b.isSome).updCap k (fun c => { c with bor := b })

theorem startBorrow_eq (d : Dev) (k : Nat) (b : Borrow) : d.startBorrow k b = (d.lentTo k (some b)).resetChain k := rfl
theorem endBorrow_eq (d : Dev) (k : Nat) : d.endBorrow k = (d.lentTo k none).resetChain k := rfl

theorem lentTo_spec (d : Dev) (k : Nat) (b : Option Borrow) : ((d.lentTo k b).resetChain k).borrowed k = b.isSome ∧
    ((d.lentTo k b).resetChain k).capState k = d.capState k ∧ (((d.lentTo k b).resetChain k).capOf k).selNow = (b.map (fun b => b.sel)).getD (d.capOf k).sel := by
  have hrd (a : Nat) : (d.lentTo k b).rd a = (d.setBit (Reg.cap_STATUS k) 2 b.isSome).rd a := rd_of_regs (updCap_regs ..) a
  have hcap : (d.lentTo k b).capOf k = { d.capOf k with bor := b } := by
    unfold lentTo
    rw [capOf_updCap_same, capOf_of_cap (setBit_cap ..)]
  obtain ⟨_, _, _, _, _, _, hreset⟩ := resetChain_capOf (d.lentTo k b) k
  refine ⟨?_, ?_, ?_⟩
  · rw [resetChain_borrowed, borrowed, bit, hrd, ← bit, bit_setBit_same _ _ _ _ (by decide)]
  · refine (resetChain_fld _ _ (by decide)).trans ?_
    rw [fld, rdN, hrd, ← rdN, ← fld]
    exact fld_setBit_other _ _ _ _ _ _ (by decide) (by decide)
  · rw [hreset, hcap]
    rfl

theorem lentTo_calOf (d : Dev) (k : Nat) (b : Option Borrow) (f : CalTile → CalTile) :
    (((d.updCal k f).lentTo k b).resetChain k).calOf k = f (d.calOf k) := by
  have hcalT : (((d.updCal k f).lentTo k b).resetChain k).calT = (d.updCal k f).calT := (resetChain_calT ..).trans ((updCap_calT ..).trans (setBit_calT ..))
  unfold calOf
  rw [hcalT]
  exact SMap.get_set_same ..

theorem calibrationBorrowD_of_none {d : Dev} {k : Fin 6} (hstate : d.capState k = 0 ∨ d.capState k = 3) (hfree : d.borrowed k = false) :
    (calibrationBorrowD k none d).borrowed k = true ∧ (calibrationBorrowD k none d).capState k = d.capState k ∧
      ((calibrationBorrowD k none d).capOf k).selNow = if (d.calOf k).borrows = 1 then 16 else 17 := by
  have hne : Reg.calTile_STATUS k ≠ Reg.cap_STATUS k := by grind
  unfold calibrationBorrowD
  dsimp only
  rw [if_neg (ne_true_of_eq_false hfree), if_pos hstate, startBorrow_eq]
  obtain ⟨hlent, hkept, hsel⟩ := lentTo_spec (d.setBit (Reg.calTile_STATUS k) 6 false) k (some { sel := if (d.calOf k).borrows = 1 then 16 else 17 })
  exact ⟨hlent, hkept.trans (capState_of_rd (rd_setBit_ne _ _ _ hne)), hsel⟩

theorem calibrationBorrowD_of_some {d : Dev} {k : Fin 6} {v : Int} (hlent : d.borrowed k = true) (hcheck : (d.capOf k).bor.bind (fun b => b.check) = none) :
    (calibrationBorrowD k (some v) d).borrowed k = false ∧ ((calibrationBorrowD k (some v) d).calOf k).borrows = (d.calOf k).borrows - 1 ∧
      ((calibrationBorrowD k (some v) d).capOf k).selNow = (d.capOf k).sel ∧
      ((d.calOf k).borrows = 2 → ((calibrationBorrowD k (some v) d).calOf k).mdMeas = some (v, (d.mdTrims k).2)) ∧
      ((d.calOf k).borrows = 1 → ((calibrationBorrowD k (some v) d).calOf k).mdMeas = some ((d.mdTrims k).1, v)) := by
  have hgo : (d.borrowed k && ((d.capOf k).bor.bind (fun b => b.check)).isNone) = true := by
    rw [hlent, hcheck]
    rfl
  unfold calibrationBorrowD
  dsimp only
  rw [if_pos hgo, endBorrow_eq, lentTo_calOf]
  obtain ⟨hback, -, hsel⟩ := lentTo_spec (d.updCal k (fun t => { t with
    borrows := (d.calOf k).borrows - 1,
    mdMeas := if (d.calOf k).borrows = 2 then some (v, (d.mdTrims k).2) else if (d.calOf k).borrows = 1 then some ((d.mdTrims k).1, v) else (d.calOf k).mdMeas }))
    k none
  refine ⟨hback, rfl, hsel, fun h => ?_, fun h => ?_⟩
  · exact if_pos h
  · have hne : ¬ (d.calOf k).borrows = 2 := by
      rw [h]
      decide
    exact (if_neg hne).trans (if_pos h)
end Dev

/-- Settles O27: each operation reduces to the state that it gives the capture; a trigger's later effects leave its stamp. -/
theorem capturesArmAndTrigger : Obligations.CapturesArmAndTrigger := by
  intro s k d cfg pre post base size log owner i
  refine ⟨fun fn hans hpost hroom hring hchan hsel hlogA hlogB hdec hdec' harmed htrig hparity => ?_,
    fun hfree hacts => ⟨fun hvalid hbad hmax => ?_, fun h r t htakes hsrc => ?_⟩,
    fun a hvalid hacts hdue => ⟨fun hfree => ?_, fun hbusy => ?_⟩, fun hvalid hmax harmed hbad hparity => ?_, fun h r t htakes harmed hparity => ?_, ?_,
    fun hon => ?_, fun hstate hfree => ?_, fun v hlent hcheck => ?_⟩
  · exact State.runs_of_onDev (exec_captureApply fn k s) rfl
      (Dev.captureApplyD_capOf hans hpost hroom hring hchan hsel hlogA hlogB hdec hdec' harmed htrig hparity)
  · exact State.runs_of_onDev (exec_captureArm k true s) (Dev.captureArmD_of_software hvalid hfree hacts hbad hmax)
      ⟨(Dev.armHeld_spec (d := s.dev) k.isLt hfree hacts ⟨s.dev.nowT + s.dev.latOf (424 + k.val), s.dev.nowT, 0, 1⟩).1, trivial⟩
  · exact State.runs_of_onDev (exec_captureArm k false s) (Dev.captureArmD_of_takes htakes hsrc hfree hacts) 
      (Dev.armHeld_of_taken (d := s.dev) k.isLt hfree hacts r h.fire.gen ⟨t, h.fire.stamp, h.fire.gen, 0⟩)
  · obtain ⟨hstate, hat, hcount, htin⟩ := Dev.doArm_of_free a k.isLt hfree
    refine State.runs_of_onDev (exec_captureArm k false s) (Dev.captureArmD_of_due hvalid hacts hdue) ⟨hstate, hat, hcount, ?_⟩
    rw [htin, hacts]
    exact List.erase_cons_head ..
  · obtain ⟨hstate, hcap, htin⟩ := Dev.doArm_of_busy a k.isLt hbusy
    refine State.runs_of_onDev (exec_captureArm k false s) (Dev.captureArmD_of_due hvalid hacts hdue) ⟨hstate, hcap, ?_⟩
    rw [htin, hacts]
    exact List.erase_cons_head ..
  · exact State.runs_of_onDev (exec_captureTrigger k true s) (Dev.captureTriggerD_of_software hvalid hmax harmed hbad hparity)
      (Dev.doTrigger_spec k.isLt s.dev _ ((Nat.le_add_right ..).trans_lt hmax))
  · obtain ⟨-, -, -, -, -, ht, hmax, -⟩ := id htakes
    exact State.runs_of_onDev (exec_captureTrigger k false s) (Dev.captureTriggerD_of_takes htakes harmed hparity)
      (Dev.doTrigger_spec k.isLt _ _ (by omega))
  · exact State.runs_of_onDev (exec_abort k s) rfl (Dev.abortD_spec s.dev k)
  · exact State.runs_of_onDev (exec_chainReset k s) rfl (Dev.chainResetD_spec hon)
  · exact State.runs_of_onDev (exec_calibrationBorrow k none s) rfl (Dev.calibrationBorrowD_of_none hstate hfree)
  · exact State.runs_of_onDev (exec_calibrationBorrow k (some v) s) rfl (Dev.calibrationBorrowD_of_some hlent hcheck)

end Sys2Proof.Machine

/-! PROOFS. The contents of DRAM: what a write stores and leaves, and what the traffic that commands cause leaves. -/
namespace Sys2Proof.Machine

namespace SMap
variable {α : Type}

/-- A map cut down to the keys that pass a test. -/
theorem get_filter_keys (d : α) (m : SMap α) (f : Nat → Bool) (k : Nat) : get d (m.filter (fun p => f p.1)) k = if f k then get d m k else d := by
  induction m with
  | nil => exact (ite_self _).symm
  | cons p r ih =>
    unfold get at ih ⊢
    cases hp : f p.1 with
    | false =>
      rw [List.filter_cons_of_neg (by rw [hp]; decide), ih, List.find?_cons]
      cases hk : p.1 == k with
      | false => rfl
      | true =>
        obtain rfl := beq_iff_eq.mp hk
        rw [hp]
        rfl
    | true =>
      rw [List.filter_cons_of_pos (p := fun p : Nat × α => f p.1) hp, List.find?_cons, List.find?_cons]
      cases hk : p.1 == k with
      | false => exact ih
      | true =>
        obtain rfl := beq_iff_eq.mp hk
        rw [hp]
        rfl
end SMap

namespace Dev

/-- The bytes that DRAM holds and the granules that are wiped. -/
def contents (d : Dev) : SMap Byte × SMap Bool := (d.dram, d.wiped)

theorem dram_of_contents {d d' : Dev} (h : d'.contents = d.contents) : d'.dram = d.dram := congrArg Prod.fst h
theorem wiped_of_contents {d d' : Dev} (h : d'.contents = d.contents) : d'.wiped = d.wiped := congrArg Prod.snd h
theorem contents_of_base {d d' : Dev} (h : d'.base = d.base) : d'.contents = d.contents := Prod.ext (dram_of_base h) (wiped_of_base h)
theorem dramByte_of_contents {d d' : Dev} (h : d'.contents = d.contents) (a : Nat) : d'.dramByte a = d.dramByte a := by
  unfold dramByte
  rw [dram_of_contents h, wiped_of_contents h]
theorem dramRead_of_contents {d d' : Dev} (h : d'.contents = d.contents) (a n : Nat) : d'.dramRead a n = d.dramRead a n :=
  List.map_congr_left fun _ _ => dramByte_of_contents h _

/-! ## Traffic moves no byte of its own -/

section traffic
variable (d : Dev)

theorem contents_updDmc (m : Nat) (f : Dmc → Dmc) : (d.updDmc m f).contents = d.contents := rfl
theorem contents_exitSr (m : Nat) : (d.exitSr m).contents = d.contents := by
  unfold exitSr
  exact iteInduction (motive := fun x : Dev => x.contents = d.contents) (fun _ => rfl)
    fun _ => contents_of_base ((base_setBit ..).trans (base_setFld ..))
theorem contents_touch (write : Bool) (a n : Nat) : (d.touch write a n).contents = d.contents := by
  rw [touch_eq]
  unfold touchAt
  have hwoken : (if d.inSr (d.place a).1 then d.exitSr (d.place a).1 else d).contents = d.contents :=
    iteInduction (motive := fun x : Dev => x.contents = d.contents) (fun _ => contents_exitSr ..) fun _ => rfl
  exact (contents_updDmc ..).trans ((contents_of_base (base_addSat64 ..)).trans hwoken)
theorem contents_fillPass (g : Nat) : (d.fillPass g).contents = d.contents := by
  unfold fillPass
  exact iteInduction (motive := fun x : Dev => x.contents = d.contents) (fun _ => rfl) fun _ => foldl_keeps contents _ _ (fun d p => contents_touch ..) d
theorem contents_correctedBy (m l map : Nat) : (d.correctedBy m l map).contents = d.contents := by
  unfold correctedBy
  extract_lets x tick device times storm counted fired noted
  have hcounted : counted.contents = d.contents := contents_of_base ((base_wrN ..).trans ((base_raise ..).trans (base_bump ..)))
  have hfired : fired.contents = counted.contents :=
    iteInduction (motive := fun x : Dev => x.contents = counted.contents) (fun _ => rfl) fun _ => contents_of_base (base_fireNow ..)
  have hnoted : noted.contents = d.contents := (contents_updDmc ..).trans (hfired.trans hcounted)
  clear_value noted
  exact iteInduction (motive := fun x : Dev => x.contents = d.contents) (fun _ => (contents_of_base (base_faultOf _ _ _ _ _ _ _ rfl)).trans hnoted) fun _ => hnoted
theorem contents_correctOne (q : Nat × Nat × Nat) : (d.correctOne q).contents = d.contents := by
  have h := contents_correctedBy d (d.place (q.1 * 128)).1 (d.place (q.1 * 128)).2 q.2.1
  unfold correctOne
  generalize d.correctedBy _ _ _ = d₁ at h ⊢
  exact h
theorem contents_correct (write : Bool) (a len : Nat) : (d.correct write a len).contents = d.contents := by
  rw [correct_eq]
  exact foldl_keeps contents _ _ (fun d q => contents_correctOne d q) d
theorem contents_served (write : Bool) (a n : Nat) : (d.served write a n).contents = d.contents := by
  unfold served
  extract_lets filled passed
  have hfilled : filled.contents = d.contents := iteInduction (motive := fun x : Dev => x.contents = d.contents)
    (fun _ => foldl_keeps contents _ _ (fun d i => contents_fillPass ..) d) fun _ => rfl
  have hpassed : passed.contents = filled.contents := foldl_keeps contents _ _
    (fun d p => iteInduction (motive := fun x : Dev => x.contents = d.contents) (fun _ => rfl) fun _ => contents_touch ..) filled
  exact (contents_correct ..).trans (hpassed.trans hfilled)

/-! ## Wiping and writing (R324) -/

theorem dramByte_wipedIn {g : Nat} (h : SMap.get false d.wiped g = false) (a : Nat) : (d.wipedIn g).dramByte a = d.dramByte a := by
  unfold dramByte wipedIn
  dsimp only
  rw [SMap.get_filter_keys (0 : Byte) d.dram (fun k => k / 2^20 != g) a]
  by_cases hg : g = a / 2^20
  · subst hg
    rw [SMap.get_set_same, if_pos rfl, h, bne_self_eq_false]
  · have hne : (a / 2^20 != g) = true := bne_iff_ne.mpr (Ne.symm hg)
    rw [SMap.get_set_ne _ _ _ _ hg, hne, if_pos rfl]
theorem contents_wipeIn (g : Nat) : (d.wipeIn g).contents = if SMap.get false d.wiped g then d.contents else (d.wipedIn g).contents := by
  rw [wipeIn_eq]
  split
  · rfl
  · exact iteInduction (motive := fun x : Dev => x.contents = (d.wipedIn g).contents)
      (fun _ => contents_of_base ((base_raise ..).trans (base_setBit ..))) fun _ => rfl
theorem dramByte_wipeIn (g a : Nat) : (d.wipeIn g).dramByte a = d.dramByte a := by
  have hcontents := contents_wipeIn d g
  cases h : SMap.get false d.wiped g with
  | true =>
    rw [h, if_pos rfl] at hcontents
    exact dramByte_of_contents hcontents a
  | false =>
    rw [h, if_neg Bool.false_ne_true] at hcontents
    exact (dramByte_of_contents hcontents a).trans (dramByte_wipedIn d h a)
theorem wiped_wipeIn (g : Nat) : SMap.get false (d.wipeIn g).wiped g = true := by
  have hcontents := contents_wipeIn d g
  cases h : SMap.get false d.wiped g with
  | true =>
    rw [h, if_pos rfl] at hcontents
    rw [wiped_of_contents hcontents, h]
  | false =>
    rw [h, if_neg Bool.false_ne_true] at hcontents
    rw [wiped_of_contents hcontents, wipedIn, SMap.get_set_same]
theorem wiped_wipeIn_of_wiped {g i : Nat} (h : SMap.get false d.wiped i = true) : SMap.get false (d.wipeIn g).wiped i = true := by
  by_cases hi : g = i
  · subst hi
    exact wiped_wipeIn ..
  · have hcontents := contents_wipeIn d g
    split at hcontents
    · rw [wiped_of_contents hcontents, h]
    · rw [wiped_of_contents hcontents, wipedIn, SMap.get_set_ne _ _ _ _ hi, h]

/-- The granules `l` from `g` on have been filled with zeros. -/
def wipeFrom (d : Dev) (g : Nat) (l : List Nat) : Dev := l.foldl (fun d i => d.wipeIn (g + i)) d

theorem dramByte_wipeFrom (g : Nat) (l : List Nat) (a : Nat) : (d.wipeFrom g l).dramByte a = d.dramByte a :=
  foldl_keeps (fun d => d.dramByte a) l _ (fun d i => dramByte_wipeIn d (g + i) a) d
variable {d} in
theorem wiped_wipeFrom_of_wiped {g i : Nat} (l : List Nat) (h : SMap.get false d.wiped i = true) : SMap.get false (d.wipeFrom g l).wiped i = true := by
  induction l generalizing d with
  | nil => exact h
  | cons x r ih => exact ih (d := d.wipeIn (g + x)) (wiped_wipeIn_of_wiped d h)
theorem wiped_wipeFrom {g i : Nat} {l : List Nat} (h : i ∈ l) : SMap.get false (d.wipeFrom g l).wiped (g + i) = true := by
  induction l generalizing d with
  | nil => cases h
  | cons x r ih =>
    rcases List.mem_cons.mp h with rfl | h
    · exact wiped_wipeFrom_of_wiped (d := d.wipeIn (g + i)) r (wiped_wipeIn d (g + i))
    · exact ih (d := d.wipeIn (g + x)) h

/-- A write stores its bytes and leaves every other (R386). -/
theorem dramWrite_eq (a : Nat) (bs : List Byte) : d.dramWrite a bs =
    (if bs.isEmpty then d else d.wipeFrom (a / 2^20) (List.range ((a + bs.length - 1) / 2^20 - a / 2^20 + 1))).storeDram a bs := rfl
theorem dramByte_dramWrite_out (a : Nat) (bs : List Byte) {x : Nat} (h : x < a ∨ a + bs.length ≤ x) : (d.dramWrite a bs).dramByte x = d.dramByte x := by
  have hwiped : (if bs.isEmpty then d else d.wipeFrom (a / 2^20) (List.range ((a + bs.length - 1) / 2^20 - a / 2^20 + 1))).dramByte x = d.dramByte x :=
    iteInduction (motive := fun y : Dev => y.dramByte x = d.dramByte x) (fun _ => rfl) fun _ => dramByte_wipeFrom ..
  rw [dramWrite_eq, ← hwiped]
  generalize (if bs.isEmpty then d else d.wipeFrom (a / 2^20) (List.range ((a + bs.length - 1) / 2^20 - a / 2^20 + 1))) = d₁
  unfold dramByte storeDram
  dsimp only
  rw [SMap.get_store_out _ _ _ _ _ h]
theorem dramByte_dramWrite_in (a : Nat) (bs : List Byte) {i : Nat} (h : i < bs.length) : (d.dramWrite a bs).dramByte (a + i) = bs[i] := by
  have hsome : ¬ bs.isEmpty = true := by
    rw [List.isEmpty_iff]
    rintro rfl
    cases h
  have hmem : (a + i) / 2^20 - a / 2^20 ∈ List.range ((a + bs.length - 1) / 2^20 - a / 2^20 + 1) := by
    have hle : (a + i) / 2^20 ≤ (a + bs.length - 1) / 2^20 := Nat.div_le_div_right (by omega)
    rw [List.mem_range]
    omega
  have hgranule := wiped_wipeFrom d (g := a / 2^20) hmem
  rw [Nat.add_sub_cancel' (Nat.div_le_div_right (Nat.le_add_right ..))] at hgranule
  rw [dramWrite_eq, if_neg hsome]
  generalize d.wipeFrom (a / 2^20) (List.range ((a + bs.length - 1) / 2^20 - a / 2^20 + 1)) = d₁ at hgranule ⊢
  unfold dramByte storeDram
  dsimp only
  rw [hgranule, if_pos rfl]
  exact SMap.get_store_in _ _ _ _ _ h
theorem dramRead_dramWrite (a : Nat) (bs : List Byte) : (d.dramWrite a bs).dramRead a bs.length = bs := by
  refine List.ext_getElem (by simp [dramRead]) fun i h h' => ?_
  simp only [dramRead, List.getElem_map, List.getElem_range]
  exact dramByte_dramWrite_in d a bs h'

theorem dramRead_writeDram (a : Nat) (bs : List Byte) : (d.writeDram a bs).dramRead a bs.length = bs := dramRead_dramWrite ..
theorem dramByte_writeDram_out (a : Nat) (bs : List Byte) {x : Nat} (h : x < a ∨ a + bs.length ≤ x) : (d.writeDram a bs).dramByte x = d.dramByte x :=
  (dramByte_dramWrite_out _ a bs h).trans (dramByte_of_contents (contents_served ..) x)
end traffic
end Dev
end Sys2Proof.Machine

/-! PROOFS. What the DRAM subsystem's answers depend on: its registers, the clocks, and its own state. -/
namespace Sys2Proof.Machine
namespace Dev

/-- DRAM and the clocks stand as before: registers, maps and contents. -/
structure dramAlike (d d' : Dev) : Prop where
  rd : ∀ a, 0x1000000 ≤ a → a < 0x1201000 → d'.rd a = d.rd a
  clk : d'.clk = d.clk
  mm : d'.mm = d.mm
  moved : d'.moved = d.moved
  badCw : d'.badCw = d.badCw
  contents : d'.contents = d.contents

theorem any_congr_mem {α : Type} {l : List α} {f g : α → Bool} (h : ∀ x ∈ l, f x = g x) : l.any f = l.any g := by
  rw [Bool.eq_iff_iff, List.any_eq_true, List.any_eq_true]
  exact exists_congr fun x => and_congr_right fun hx => by rw [h x hx]

section dramAlike
variable {d d' : Dev} (h : dramAlike d d')
include h

theorem bit_of_dramAlike {a : Nat} (ha : 0x1000000 ≤ a) (ha' : a < 0x1201000) (i : Nat) : d'.bit a i = d.bit a i :=
  congrArg (fun w : Word => w.getLsbD i) (h.rd a ha ha')
theorem fld_of_dramAlike {a : Nat} (ha : 0x1000000 ≤ a) (ha' : a < 0x1201000) (lo w : Nat) : d'.fld a lo w = d.fld a lo w :=
  congrArg (fun x : Word => bitsOf x.toNat lo w) (h.rd a ha ha')
theorem frozen_of_dramAlike : d'.frozen = d.frozen := bit_of_dramAlike h (by decide) (by decide) 0
theorem dramShut_of_dramAlike : d'.dramShut = d.dramShut := by
  unfold dramShut
  rw [frozen_of_dramAlike h, bit_of_dramAlike h (by decide) (by decide), bit_of_dramAlike h (by decide) (by decide), bit_of_dramAlike h (by decide) (by decide), h.clk]
theorem home_of_dramAlike (a : Nat) : d'.home a = d.home a := by
  unfold home ilBytes
  rw [h.mm]
theorem dmcState_of_dramAlike {m : Nat} (hm : m < 8) : d'.dmcState m = d.dmcState m := fld_of_dramAlike h (by grind) (by grind) 0 3
theorem outDmc_of_dramAlike : d'.outDmc = d.outDmc := by
  unfold outDmc
  refine List.find?_congr fun m hm => ?_
  rw [bit_of_dramAlike h (by decide) (by decide), dmcState_of_dramAlike h (List.mem_range.mp hm)]
theorem reserveAt_of_dramAlike : d'.reserveAt = d.reserveAt := by
  unfold reserveAt
  rw [rdN, h.rd _ (by decide) (by decide), ← rdN, h.mm]
theorem place_of_dramAlike (a : Nat) : d'.place a = d.place a := by
  obtain ⟨f, hf⟩ : ∃ f, f = @place := ⟨_, rfl⟩
  rewrite [← hf]
  delta place at hf
  rewrite [hf]
  beta_reduce
  have hhome := d.home_lt a
  rewrite [home_of_dramAlike h, outDmc_of_dramAlike h, h.moved, reserveAt_of_dramAlike h]
  generalize d.home a = x at hhome ⊢
  obtain ⟨m, l⟩ := x
  dsimp only at hhome ⊢
  rw [bit_of_dramAlike h (by decide) (by decide), dmcState_of_dramAlike h hhome]
theorem forcedSr_of_dramAlike {m : Nat} (hm : m < 8) : d'.forcedSr m = d.forcedSr m := by
  unfold forcedSr inSr
  rw [bit_of_dramAlike h (by grind) (by grind), bit_of_dramAlike h (by grind) (by grind)]
theorem stallsAt_of_dramAlike (a n : Nat) : d'.stallsAt a n = d.stallsAt a n := by
  have hforced : (List.range 8).any d'.forcedSr = (List.range 8).any d.forcedSr :=
    any_congr_mem fun m hm => forcedSr_of_dramAlike h (List.mem_range.mp hm)
  have hparts (l : List (Nat × Nat)) : l.any (fun p => d'.forcedSr (d'.place p.1).1) = l.any (fun p => d.forcedSr (d.place p.1).1) :=
    any_congr_mem fun p _ => by rw [place_of_dramAlike h, forcedSr_of_dramAlike h (d.place_lt p.1)]
  unfold stallsAt dramPaused
  rw [frozen_of_dramAlike h, bit_of_dramAlike h (by decide) (by decide), bit_of_dramAlike h (by decide) (by decide), bit_of_dramAlike h (by decide) (by decide),
    h.clk, hforced, hparts]
theorem kM_of_dramAlike : d'.kM = d.kM := by
  have hrdN (a : Nat) (ha : 0x1000000 ≤ a) (ha' : a < 0x1201000) : d'.rdN a = d.rdN a := congrArg BitVec.toNat (h.rd a ha ha')
  unfold kM ceilFdc activeSet fref
  rw [h.clk, hrdN _ (by decide) (by decide), hrdN _ (by decide) (by decide), hrdN _ (by decide) (by decide)]
theorem errsIn_of_dramAlike (write : Bool) (a n : Nat) : d'.errsIn write a n = d.errsIn write a n := by
  unfold errsIn
  rw [h.badCw, wiped_of_contents h.contents]
theorem badPart_of_dramAlike (a n : Nat) : d'.badPart a n = d.badPart a n := by
  unfold badPart
  rw [errsIn_of_dramAlike h]
theorem badIn_of_dramAlike (a n : Nat) : d'.badIn a n = d.badIn a n := by
  unfold badIn
  rw [errsIn_of_dramAlike h]
end dramAlike

theorem dramAlike_updCap (d : Dev) (k : Nat) (f : CapSt → CapSt) : dramAlike d (d.updCap k f) where
  rd _ _ _ := rd_of_regs (updCap_regs ..) _
  clk := updCap_clk ..
  mm := updCap_mm ..
  moved := updCap_moved ..
  badCw := updCap_badCw ..
  contents := rfl
theorem dramAlike_wrN (d : Dev) {a : Nat} (v : Nat) (ha : a < 0x1000000 ∨ 0x1201000 ≤ a) : dramAlike d (d.wrN a v) where
  rd b hb hb' := rd_wrN_ne _ _ (by omega)
  clk := wrN_clk ..
  mm := wrN_mm ..
  moved := wrN_moved ..
  badCw := wrN_badCw ..
  contents := contents_of_base (base_wrN ..)
theorem dramAlike_bump (d : Dev) {a : Nat} (ha : a < 0x1000000 ∨ 0x1201000 ≤ a) : dramAlike d (d.bump a) := dramAlike_wrN d _ ha
theorem dramAlike_refl (d : Dev) : dramAlike d d := ⟨fun _ _ _ => rfl, rfl, rfl, rfl, rfl, rfl⟩
theorem dramAlike_trans {d d' d'' : Dev} (h : dramAlike d d') (h' : dramAlike d' d'') : dramAlike d d'' where
  rd a ha ha' := (h'.rd a ha ha').trans (h.rd a ha ha')
  clk := h'.clk.trans h.clk
  mm := h'.mm.trans h.mm
  moved := h'.moved.trans h.moved
  badCw := h'.badCw.trans h.badCw
  contents := h'.contents.trans h.contents
end Dev
end Sys2Proof.Machine

/-! PROOFS. The samples of a capture (R250 to R253, R256, R259, R260). -/
namespace Sys2Proof.Machine

theorem exec_digitiserSample (k : Fin 6) (raw : List Int) (busy : Bool) (s : State) :
    exec (.digitiserSample k raw busy) s = s.onDev (digitiserSampleD k raw busy) := rfl

namespace Dev

/-! ## The chain -/

/-- Only the chain's own state differs. -/
def sameRing (c c' : CapSt) : Prop := ∃ (n : Nat) (r i f o : List Int), c' = { c with rawN := n, raws := r, integ := i, diffs := f, cicOut := o }

theorem sameRing_takeRaw (c : CapSt) (x : Int) : sameRing c (takeRaw c x) := by
  unfold takeRaw
  extract_lets raws integ c₁
  split
  · exact ⟨_, _, _, _, _, rfl⟩
  · exact ⟨_, _, _, _, _, rfl⟩
theorem sameRing_trans {c c' c'' : CapSt} (h : sameRing c c') (h' : sameRing c' c'') : sameRing c c'' := by
  obtain ⟨_, _, _, _, _, rfl⟩ := h
  obtain ⟨_, _, _, _, _, rfl⟩ := h'
  exact ⟨_, _, _, _, _, rfl⟩
theorem sameRing_foldl (l : List Int) (c : CapSt) : sameRing c (l.foldl takeRaw c) := by
  induction l generalizing c with
  | nil => exact ⟨_, _, _, _, _, rfl⟩
  | cons x r ih => exact sameRing_trans (sameRing_takeRaw c x) (ih _)

/-- The chain of capture `k` after the raw samples up to the one that completes the output of its next instant. -/
def chainFed (d : Dev) (k : Nat) (raw : List Int) : CapSt :=
  ((List.range (d.lastRaw k (d.capOf k).nextLbl + 1 - (d.capOf k).rawN)).map (fun i => raw.getD i 0)).foldl takeRaw (d.capOf k)
/-- The output is clipped. -/
def clips (d : Dev) (k : Nat) (raw : List Int) : Bool := (outWord (chainOut (d.chainFed k raw))).2
/-- The chain has given its output. -/
def emitted (d : Dev) (k : Nat) (raw : List Int) : Dev :=
  (if d.clips k raw then d.bump (Reg.cap_SAT_CNT k) else d).updCap k fun _ =>
    { d.chainFed k raw with nextLbl := (d.capOf k).nextLbl + (if d.clips k raw then d.bump (Reg.cap_SAT_CNT k) else d).capStep k, discard := (d.capOf k).discard - 1 }

theorem digitiserSampleD_eq {d : Dev} {k : Fin 6} {raw : List Int} {busy : Bool} (hvalid : d.timeValid = true) (hen : (d.capOf k).en = true)
    (hlast : d.lastRaw k (d.capOf k).nextLbl * d.kM ≤ d.nowT) (hdiscard : (d.capOf k).discard = 0) (hfree : d.borrowed k = false)
    (harmed : d.capState k = 1) (hat : (d.capOf k).armAt ≤ (d.capOf k).nextLbl) (htrig : (d.capOf k).trigT = none) :
    digitiserSampleD k raw busy d =
      if (d.emitted k raw).fifoFull k busy then
        ((d.emitted k raw).raise (Reg.cap_EVENTS k) ((if d.clips k raw then 32 else 0) ||| 16)).updCap k (fun c => { c with wr := 0, valid := 0, fifo := [], fifoAt := 0 })
      else ((d.emitted k raw).putSample k (d.capOf k).nextLbl (outWord (chainOut (d.chainFed k raw))).1 busy).capFlags k (if d.clips k raw then 32 else 0) := by
  have hgo : ¬ ((!d.timeValid) = true ∨ (!((d.capOf k).en || d.borrowed k)) = true ∨ d.nowT < d.lastRaw k (d.capOf k).nextLbl * d.kM) := by
    rw [hvalid, hen]
    simpa using hlast
  have hrd : (d.emitted k raw).rd (Reg.cap_STATUS k) = d.rd (Reg.cap_STATUS k) := by
    have hne : Reg.cap_SAT_CNT k ≠ Reg.cap_STATUS k := by grind
    refine (rd_of_regs (updCap_regs ..) _).trans ?_
    exact iteInduction (motive := fun x : Dev => x.rd (Reg.cap_STATUS k) = _) (fun _ => rd_bump_ne _ hne) fun _ => rfl
  have hkeep : ¬ (0 < (d.capOf k).discard ∨ ((d.emitted k raw).capState k ≠ 1 ∧ (d.emitted k raw).capState k ≠ 2) ∨ (d.capOf k).nextLbl < (d.capOf k).armAt) := by
    rw [capState_of_rd hrd, harmed, hdiscard]
    omega
  unfold digitiserSampleD
  dsimp only
  rw [if_neg hgo]
  change (if (d.emitted k raw).borrowed k then _
    else if 0 < (d.capOf k).discard ∨ ((d.emitted k raw).capState k ≠ 1 ∧ (d.emitted k raw).capState k ≠ 2) ∨ (d.capOf k).nextLbl < (d.capOf k).armAt then _
    else if (d.emitted k raw).fifoFull k busy then (if (d.emitted k raw).capState k = 1 then _ else _) else _) = _
  rw [borrowed_of_rd hrd, hfree, if_neg Bool.false_ne_true, if_neg hkeep, htrig, capState_of_rd hrd, harmed, if_pos rfl]
  rfl

section emitted
variable (d : Dev) (k : Nat) (raw : List Int)

theorem saturated_capStep : (if d.clips k raw then d.bump (Reg.cap_SAT_CNT k) else d).capStep k = d.capStep k := by
  refine iteInduction (motive := fun x : Dev => x.capStep k = d.capStep k) (fun _ => ?_) fun _ => rfl
  unfold capStep
  rw [capOf_of_cap (bump_cap ..), kM_of_dramAlike (dramAlike_bump d (.inr (by grind)))]
/-- The output takes the chain to the next instant. -/
theorem emitted_capOf : ∃ (n : Nat) (r i f o : List Int), (d.emitted k raw).capOf k =
    { d.capOf k with rawN := n, raws := r, integ := i, diffs := f, cicOut := o, nextLbl := (d.capOf k).nextLbl + d.capStep k,
                     discard := (d.capOf k).discard - 1 } := by
  obtain ⟨n, r, i, f, o, h⟩ := sameRing_foldl ((List.range (d.lastRaw k (d.capOf k).nextLbl + 1 - (d.capOf k).rawN)).map (fun i => raw.getD i 0)) (d.capOf k)
  refine ⟨n, r, i, f, o, ?_⟩
  unfold emitted
  rw [capOf_updCap_same, saturated_capStep, chainFed, h]
theorem emitted_dramAlike : dramAlike d (d.emitted k raw) :=
  dramAlike_trans (iteInduction (motive := fun x : Dev => dramAlike d x) (fun _ => dramAlike_bump d (.inr (by grind))) fun _ => dramAlike_refl d)
    (dramAlike_updCap ..)
theorem emitted_capBuf : (d.emitted k raw).capBuf = d.capBuf :=
  (updCap_capBuf ..).trans (iteInduction (motive := fun x : Dev => x.capBuf = d.capBuf) (fun _ => bump_capBuf ..) fun _ => rfl)
theorem emitted_rd {a : Nat} (h : Reg.cap_SAT_CNT k ≠ a) : (d.emitted k raw).rd a = d.rd a :=
  (rd_of_regs (updCap_regs ..) _).trans (iteInduction (motive := fun x : Dev => x.rd a = d.rd a) (fun _ => rd_bump_ne _ h) fun _ => rfl)
end emitted

/-! ## Storing a sample -/

/-- The ring goes on: where it stood `c`, it now stands `c'`, one sample further. -/
structure stored (c c' : CapSt) (lbl : Nat) : Prop where
  valid : c'.valid = c.valid + 1
  last : c'.lastLbl = lbl
  wr : c'.wr = (c.wr + 1) % max 1 c.capacity
  next : c'.nextLbl = c.nextLbl

/-- The ring's place goes on. -/
def ringOn (c : CapSt) (cap lbl : Nat) : CapSt := { c with wr := (c.wr + 1) % cap, valid := c.valid + 1, lastLbl := lbl }

theorem ringOn_fifo (c : CapSt) (cap lbl : Nat) : (ringOn c cap lbl).fifo = c.fifo := rfl

/-- The FIFO takes a sample. -/
def fifoTakes (d : Dev) (k : Nat) (bs : List Byte) : Dev := d.updCap k (fun c => { c with fifo := c.fifo ++ bs })
/-- Bytes enter the on-chip buffer. -/
def bufTakes (d : Dev) (a : Nat) (bs : List Byte) : Dev := { d with capBuf := SMap.store 0 d.capBuf a bs }
theorem bufTakes_capBuf (d : Dev) (a : Nat) (bs : List Byte) : (d.bufTakes a bs).capBuf = SMap.store 0 d.capBuf a bs := rfl
theorem bufTakes_contents (d : Dev) (a : Nat) (bs : List Byte) : (d.bufTakes a bs).contents = d.contents := rfl
theorem fifoTakes_capBuf (d : Dev) (k : Nat) (bs : List Byte) : (d.fifoTakes k bs).capBuf = d.capBuf := by
  unfold fifoTakes
  exact updCap_capBuf ..
theorem fifoTakes_capOf (d : Dev) (k : Nat) (bs : List Byte) : ((d.fifoTakes k bs).capOf k).fifo = (d.capOf k).fifo ++ bs ∧
    ((d.fifoTakes k bs).capOf k).base = (d.capOf k).base ∧ ((d.fifoTakes k bs).capOf k).fifoAt = (d.capOf k).fifoAt := by
  unfold fifoTakes
  rw [capOf_updCap_same]
  exact ⟨rfl, rfl, rfl⟩
theorem contents_updCap (d : Dev) (k : Nat) (f : CapSt → CapSt) : (d.updCap k f).contents = d.contents := (dramAlike_updCap d k f).contents

/-- The bytes of a sample enter the on-chip buffer, or the FIFO, which gives bursts. -/
def sampleIn (d : Dev) (k : Nat) (bs : List Byte) (busy : Bool) : Dev :=
  if (d.capOf k).target = 0 then d.bufTakes (k * 2^20 + (d.capOf k).wr * (d.capOf k).width) bs
  else if busy then d.fifoTakes k bs else (d.fifoTakes k bs).drainFifo k false

theorem drained_fifoTakes (d : Dev) (k : Nat) (bs : List Byte) : drained k d (d.fifoTakes k bs) := drained_updCap (fun l => l ++ bs) fun i _ => i

section putSample
variable (d : Dev) {k : Nat} (lbl : Nat) (v : Int) (busy : Bool)

theorem putSample_eq : d.putSample k lbl v busy =
    (d.sampleIn k (sampleBytes (d.capOf k).fmt v) busy).updCap k (fun c => ringOn c (max 1 (d.capOf k).capacity) lbl) := rfl

theorem sampleIn_capOf (bs : List Byte) : ∃ q n, (d.sampleIn k bs busy).capOf k = { d.capOf k with fifo := q, fifoAt := n } := by
  unfold sampleIn
  split
  · exact ⟨_, _, rfl⟩
  · split
    · exact (drained_fifoTakes ..).cap
    · exact (drained_trans (drained_fifoTakes ..) (drained_drainFifo ..)).cap

theorem putSample_stored : stored (d.capOf k) ((d.putSample k lbl v busy).capOf k) lbl := by
  obtain ⟨q, n, h⟩ := d.sampleIn_capOf busy (k := k) (sampleBytes (d.capOf k).fmt v)
  rw [putSample_eq, capOf_updCap_same, h]
  exact ⟨rfl, rfl, rfl, rfl⟩
end putSample

/-! ## Bursts -/

section drain
variable {d : Dev} {k : Nat}

/-- A FIFO without a whole burst, or whose bursts wait, gives nothing. -/
theorem drainFifo_of_waits (h : (d.capOf k).fifo.length < 512 ∨ d.dramShut = true ∨ d.stallsAt ((d.capOf k).base + (d.capOf k).fifoAt) 512 = true) :
    d.drainFifo k false = d := by
  have hstay (l : List Nat) (hstall : d.stallsAt ((d.capOf k).base + (d.capOf k).fifoAt) 512 = true) :
      l.foldl (fun (d : Dev) _ => if d.dramShut then d else d.drainBytes k 512) d = d := by
    induction l with
    | nil => rfl
    | cons x r ih =>
      rw [List.foldl_cons]
      suffices hone : (if d.dramShut then d else d.drainBytes k 512) = d by rw [hone, ih]
      refine iteInduction (motive := fun x => x = d) (fun _ => rfl) fun _ => ?_
      unfold drainBytes
      exact if_pos hstall
  unfold drainFifo
  extract_lets d₁
  refine iteInduction (motive := fun x => x = d) (fun _ => rfl) fun hopen => ?_
  have h₁ : d₁ = d := by
    rcases h with h | h | h
    · unfold d₁
      rw [Nat.div_eq_of_lt h]
      rfl
    · exact absurd h hopen
    · exact hstay _ h
  rw [h₁, Bool.false_and, Bool.false_and, Bool.false_and]
  rfl

/-- A whole burst goes to the ring. -/
theorem drainFifo_of_burst (hlen : (d.capOf k).fifo.length = 512) (hopen : d.dramShut = false)
    (hgo : d.stallsAt ((d.capOf k).base + (d.capOf k).fifoAt) 512 = false) (hpart : d.badPart ((d.capOf k).base + (d.capOf k).fifoAt) 512 = none) :
    d.drainFifo k false = (d.writeDram ((d.capOf k).base + (d.capOf k).fifoAt) (d.capOf k).fifo).updCap k
      (fun c => { c with fifo := c.fifo.drop 512, fifoAt := (c.fifoAt + 512) % max 1 c.size }) := by
  have hone : d.drainBytes k 512 = (d.writeDram ((d.capOf k).base + (d.capOf k).fifoAt) (d.capOf k).fifo).updCap k
      (fun c => { c with fifo := c.fifo.drop 512, fifoAt := (c.fifoAt + 512) % max 1 c.size }) := by
    unfold drainBytes
    dsimp only
    rw [hgo, hpart, List.take_of_length_le hlen.le]
    rfl
  unfold drainFifo
  dsimp only
  rw [hlen, if_neg (ne_true_of_eq_false hopen), Bool.false_and, Bool.false_and, Bool.false_and, if_neg Bool.false_ne_true]
  change (if d.dramShut then d else d.drainBytes k 512) = _
  rw [if_neg (ne_true_of_eq_false hopen), hone]
end drain

/-! ## A sample of an armed capture -/

theorem capFlags_base (d : Dev) (k ev : Nat) : (d.capFlags k ev).base = d.base := by
  unfold capFlags
  exact iteInduction (motive := fun x : Dev => x.base = d.base) (fun _ => rfl) fun _ => base_raise ..
theorem outWord_fst (v : Int) : (outWord v).1 = max (-8388608) (min 8388607 v) := by
  unfold outWord sat
  dsimp only
  split
  · omega
  · split <;> omega
theorem sampleBytes_length (c : CapSt) (v : Int) : (sampleBytes c.fmt v).length = c.width := by
  unfold sampleBytes CapSt.width
  split <;> simp [leBytes]

/-- The bytes of the sample that the chain gives next. -/
def nextBytes (d : Dev) (k : Nat) (raw : List Int) : List Byte := sampleBytes (d.capOf k).fmt (max (-8388608) (min 8388607 (chainOut (d.chainFed k raw))))
/-- The sample has been stored. -/
def sampled (d : Dev) (k : Nat) (raw : List Int) (busy : Bool) : Dev :=
  (((d.emitted k raw).sampleIn k (d.nextBytes k raw) busy).updCap k (fun c => ringOn c (max 1 (d.capOf k).capacity) (d.capOf k).nextLbl)).capFlags k
    (if d.clips k raw then 32 else 0)

section sampled
variable {d : Dev} {k : Nat} {raw : List Int} {busy : Bool}

theorem sampled_capOf : (d.sampled k raw busy).capOf k =
    ringOn (((d.emitted k raw).sampleIn k (d.nextBytes k raw) busy).capOf k) (max 1 (d.capOf k).capacity) (d.capOf k).nextLbl := by
  unfold sampled
  rw [capOf_of_cap (cap_of_base (capFlags_base ..)), capOf_updCap_same]
theorem sampled_capBuf : (d.sampled k raw busy).capBuf = ((d.emitted k raw).sampleIn k (d.nextBytes k raw) busy).capBuf :=
  (capBuf_of_base (capFlags_base ..)).trans (updCap_capBuf ..)
theorem sampled_contents : (d.sampled k raw busy).contents = ((d.emitted k raw).sampleIn k (d.nextBytes k raw) busy).contents :=
  (contents_of_base (capFlags_base ..)).trans (contents_updCap ..)

theorem emitted_ring : ((d.emitted k raw).capOf k).fmt = (d.capOf k).fmt ∧ ((d.emitted k raw).capOf k).capacity = (d.capOf k).capacity ∧
    ((d.emitted k raw).capOf k).target = (d.capOf k).target ∧ ((d.emitted k raw).capOf k).width = (d.capOf k).width ∧
    ((d.emitted k raw).capOf k).wr = (d.capOf k).wr ∧ ((d.emitted k raw).capOf k).fifo = (d.capOf k).fifo ∧
    ((d.emitted k raw).capOf k).base = (d.capOf k).base ∧ ((d.emitted k raw).capOf k).fifoAt = (d.capOf k).fifoAt := by
  obtain ⟨_, _, _, _, _, h⟩ := d.emitted_capOf k raw
  rw [h]
  exact ⟨rfl, rfl, rfl, rfl, rfl, rfl, rfl, rfl⟩

/-- What every sample stored does to the ring. -/
theorem sampled_ring : ((d.sampled k raw busy).capOf k).valid = (d.capOf k).valid + 1 ∧ ((d.sampled k raw busy).capOf k).lastLbl = (d.capOf k).nextLbl ∧
    ((d.sampled k raw busy).capOf k).wr = ((d.capOf k).wr + 1) % max 1 (d.capOf k).capacity ∧
    ((d.sampled k raw busy).capOf k).nextLbl = (d.capOf k).nextLbl + 2 * (d.capOf k).dc * d.kM := by
  obtain ⟨_, _, h⟩ := (d.emitted k raw).sampleIn_capOf busy (k := k) (d.nextBytes k raw)
  obtain ⟨_, _, _, _, _, hc⟩ := d.emitted_capOf k raw
  rw [sampled_capOf, h, hc]
  exact ⟨rfl, rfl, rfl, rfl⟩

theorem sampled_of_onChip (h : (d.capOf k).target = 0) :
    SMap.bytes 0 (d.sampled k raw busy).capBuf (k * 2^20 + (d.capOf k).wr * (d.capOf k).width) (d.nextBytes k raw).length = d.nextBytes k raw ∧
      (d.sampled k raw busy).dram = d.dram ∧
      ∀ a, a < k * 2^20 + (d.capOf k).wr * (d.capOf k).width ∨ k * 2^20 + (d.capOf k).wr * (d.capOf k).width + (d.nextBytes k raw).length ≤ a →
        SMap.get 0 (d.sampled k raw busy).capBuf a = SMap.get 0 d.capBuf a := by
  obtain ⟨-, -, htarget, hwidth, hwr, -, -, -⟩ := emitted_ring (d := d) (k := k) (raw := raw)
  have hin : (d.emitted k raw).sampleIn k (d.nextBytes k raw) busy =
      (d.emitted k raw).bufTakes (k * 2^20 + (d.capOf k).wr * (d.capOf k).width) (d.nextBytes k raw) := by
    unfold sampleIn
    rw [if_pos (htarget.trans h), hwr, hwidth]
  have hbuf := sampled_capBuf (d := d) (k := k) (raw := raw) (busy := busy)
  have hdram := dram_of_contents (sampled_contents (d := d) (k := k) (raw := raw) (busy := busy))
  rw [hin, bufTakes_capBuf, emitted_capBuf] at hbuf
  rw [hin, dram_of_contents (bufTakes_contents ..)] at hdram
  rw [hbuf, hdram]
  exact ⟨SMap.bytes_store .., dram_of_contents (emitted_dramAlike d k raw).contents, fun a ha => SMap.get_store_out _ _ _ _ _ ha⟩

/-- What waits for the ring: the burst that stands first in the FIFO. -/
def ringWaits (d : Dev) (k : Nat) (busy : Bool) : Prop :=
  busy = true ∨ d.dramShut = true ∨ d.stallsAt ((d.capOf k).base + (d.capOf k).fifoAt) 512 = true

section ring
variable (h : (d.capOf k).target = 1)
include h

theorem emitted_fifoFull : (d.emitted k raw).fifoFull k busy = true ↔ d.ringWaits k busy ∧ 65536 < (d.capOf k).fifo.length + (d.capOf k).width := by
  obtain ⟨-, -, htarget, hwidth, -, hfifo, hbase, hat⟩ := emitted_ring (d := d) (k := k) (raw := raw)
  unfold fifoFull ringWaits
  rw [htarget, h, hwidth, hfifo, hbase, hat, dramShut_of_dramAlike (emitted_dramAlike ..), stallsAt_of_dramAlike (emitted_dramAlike ..)]
  simp [or_assoc]

theorem sampleIn_of_ring (bs : List Byte) : (d.emitted k raw).sampleIn k bs busy =
    if busy then (d.emitted k raw).fifoTakes k bs else ((d.emitted k raw).fifoTakes k bs).drainFifo k false := by
  obtain ⟨-, -, htarget, -⟩ := emitted_ring (d := d) (k := k) (raw := raw)
  have hne : ¬ ((d.emitted k raw).capOf k).target = 0 := by
    rw [htarget, h]
    decide
  unfold sampleIn
  exact if_neg hne
omit h in
theorem fifoTakes_ring (bs : List Byte) : (((d.emitted k raw).fifoTakes k bs).capOf k).fifo = (d.capOf k).fifo ++ bs ∧
    (((d.emitted k raw).fifoTakes k bs).capOf k).base = (d.capOf k).base ∧ (((d.emitted k raw).fifoTakes k bs).capOf k).fifoAt = (d.capOf k).fifoAt := by
  obtain ⟨-, -, -, -, -, hfifo, hbase, hat⟩ := emitted_ring (d := d) (k := k) (raw := raw)
  obtain ⟨hfifo', hbase', hat'⟩ := fifoTakes_capOf (d.emitted k raw) k bs
  rw [hfifo] at hfifo'
  exact ⟨hfifo', hbase'.trans hbase, hat'.trans hat⟩
omit h in
theorem fifoTakes_dramAlike (bs : List Byte) : dramAlike d ((d.emitted k raw).fifoTakes k bs) := dramAlike_trans (emitted_dramAlike ..) (dramAlike_updCap ..)

/-- Short of a burst, or while bursts wait, the sample stays in the FIFO. -/
theorem sampled_of_waits (hwait : (d.capOf k).fifo.length + (d.nextBytes k raw).length < 512 ∨ d.ringWaits k busy) :
    (d.sampled k raw busy).capBuf = d.capBuf ∧ (d.sampled k raw busy).dram = d.dram ∧
      ((d.sampled k raw busy).capOf k).fifo = (d.capOf k).fifo ++ d.nextBytes k raw := by
  obtain ⟨hfifo, hbase, hat⟩ := fifoTakes_ring (d := d) (k := k) (raw := raw) (d.nextBytes k raw)
  have hlike := fifoTakes_dramAlike (d := d) (k := k) (raw := raw) (d.nextBytes k raw)
  have hin : (d.emitted k raw).sampleIn k (d.nextBytes k raw) busy = (d.emitted k raw).fifoTakes k (d.nextBytes k raw) := by
    rw [sampleIn_of_ring h]
    split
    · rfl
    · next hfree =>
        refine drainFifo_of_waits ?_
        rw [hfifo, hbase, hat, dramShut_of_dramAlike hlike, stallsAt_of_dramAlike hlike, List.length_append]
        exact hwait.imp_right fun hw => hw.resolve_left hfree
  have hbuf := sampled_capBuf (d := d) (k := k) (raw := raw) (busy := busy)
  have hdram := dram_of_contents (sampled_contents (d := d) (k := k) (raw := raw) (busy := busy))
  rw [hin, fifoTakes_capBuf, emitted_capBuf] at hbuf
  rw [hin] at hdram
  refine ⟨hbuf, hdram.trans (dram_of_contents hlike.contents), ?_⟩
  rw [sampled_capOf, hin, ringOn_fifo, hfifo]

/-- A burst that the sample completes goes to the DRAM ring. -/
theorem sampled_of_burst (hlen : (d.capOf k).fifo.length + (d.nextBytes k raw).length = 512) (hgo : ¬ d.ringWaits k busy)
    (hpart : d.badPart ((d.capOf k).base + (d.capOf k).fifoAt) 512 = none) :
    (d.sampled k raw busy).capBuf = d.capBuf ∧
      (d.sampled k raw busy).dramRead ((d.capOf k).base + (d.capOf k).fifoAt) 512 = (d.capOf k).fifo ++ d.nextBytes k raw ∧
      ((d.sampled k raw busy).capOf k).fifo = [] ∧
      ∀ a, a < (d.capOf k).base + (d.capOf k).fifoAt ∨ (d.capOf k).base + (d.capOf k).fifoAt + 512 ≤ a → (d.sampled k raw busy).dramByte a = d.dramByte a := by
  obtain ⟨hfifo, hbase, hat⟩ := fifoTakes_ring (d := d) (k := k) (raw := raw) (d.nextBytes k raw)
  have hlike := fifoTakes_dramAlike (d := d) (k := k) (raw := raw) (d.nextBytes k raw)
  unfold ringWaits at hgo
  simp only [not_or, Bool.not_eq_true] at hgo
  obtain ⟨hfree, hopen, hstall⟩ := hgo
  have hall : ((d.capOf k).fifo ++ d.nextBytes k raw).length = 512 := (List.length_append ..).trans hlen
  have hin : (d.emitted k raw).sampleIn k (d.nextBytes k raw) busy =
      (((d.emitted k raw).fifoTakes k (d.nextBytes k raw)).writeDram ((d.capOf k).base + (d.capOf k).fifoAt) ((d.capOf k).fifo ++ d.nextBytes k raw)).updCap k
        (fun c => { c with fifo := c.fifo.drop 512, fifoAt := (c.fifoAt + 512) % max 1 c.size }) := by
    rw [sampleIn_of_ring h, if_neg (ne_true_of_eq_false hfree)]
    have hburst := drainFifo_of_burst (d := (d.emitted k raw).fifoTakes k (d.nextBytes k raw)) (k := k)
    rw [hfifo, hbase, hat, dramShut_of_dramAlike hlike, stallsAt_of_dramAlike hlike, badPart_of_dramAlike hlike] at hburst
    exact hburst hall hopen hstall hpart
  have hbuf := sampled_capBuf (d := d) (k := k) (raw := raw) (busy := busy)
  have hcontents := sampled_contents (d := d) (k := k) (raw := raw) (busy := busy)
  rw [hin, updCap_capBuf, capBuf_of_stirred (stirred_writeDram ..), fifoTakes_capBuf, emitted_capBuf] at hbuf
  rw [hin, contents_updCap] at hcontents
  refine ⟨?_, ?_, ?_, fun a ha => ?_⟩
  · exact hbuf
  · rw [dramRead_of_contents hcontents, ← hall]
    exact dramRead_writeDram ..
  · rw [sampled_capOf, hin, capOf_updCap_same, capOf_of_cap (cap_of_stirred (stirred_writeDram ..)), ringOn_fifo]
    dsimp only
    rw [hfifo, List.drop_eq_nil_of_le hall.le]
  · rw [dramByte_of_contents hcontents, ← dramByte_of_contents hlike.contents a]
    rw [← hall] at ha
    exact dramByte_writeDram_out _ _ _ ha
end ring

/-- A full FIFO restarts the ring of an armed capture. -/
theorem restarted_spec (harmed : d.capState k = 1) :
    let d' := ((d.emitted k raw).raise (Reg.cap_EVENTS k) ((if d.clips k raw then 32 else 0) ||| 16)).updCap k
      (fun c => { c with wr := 0, valid := 0, fifo := [], fifoAt := 0 })
    d'.bit (Reg.cap_EVENTS k) 4 = true ∧ d'.capState k = 1 ∧ (d'.capOf k).valid = 0 ∧ (d'.capOf k).wr = 0 ∧ (d'.capOf k).fifo = [] := by
  intro d'
  have hsat : Reg.cap_SAT_CNT k ≠ Reg.cap_STATUS k := by grind
  have hevents : Reg.cap_EVENTS k ≠ Reg.cap_STATUS k := by grind
  have hrd (a : Nat) : d'.rd a = ((d.emitted k raw).raise (Reg.cap_EVENTS k) ((if d.clips k raw then 32 else 0) ||| 16)).rd a := rd_of_regs (updCap_regs ..) a
  refine ⟨?_, ?_, ?_⟩
  · rw [bit, hrd, ← bit, bit_raise_same _ _ _ _ (by split <;> decide) (by decide)]
    cases d.clips k raw <;> exact Bool.or_true _
  · rw [capState_of_rd ((hrd _).trans ((rd_raise_ne _ _ hevents).trans (emitted_rd d k raw hsat))), harmed]
  · unfold d'
    rw [capOf_updCap_same]
    exact ⟨rfl, rfl, rfl⟩
end sampled
end Dev

/-- Settles O28: the output enters the target at the ring's place; a FIFO gives a burst only where nothing holds it back. -/
theorem capturesStoreSamples : Obligations.CapturesStoreSamples := by
  intro s k raw busy d c last chain bytes hvalid hen hlast hdiscard hfree harmed hat htrig stores waits
  have heq := Dev.digitiserSampleD_eq (raw := raw) (busy := busy) hvalid hen hlast hdiscard hfree harmed hat htrig
  have hsampled : (d.emitted k raw).fifoFull k busy = false → digitiserSampleD k raw busy d = d.sampled k raw busy := by
    intro hroom
    rw [heq, if_neg (ne_true_of_eq_false hroom), Dev.putSample_eq, Dev.outWord_fst]
    obtain ⟨hfmt, hcap, -⟩ := Dev.emitted_ring (d := d) (k := k) (raw := raw)
    rw [hfmt, hcap]
    rfl
  have hstores (post : Dev → Prop) (hroom : (d.emitted k raw).fifoFull k busy = false) (hpost : post (d.sampled k raw busy)) : stores post := by
    obtain ⟨hcount, hlbl, hwr, hnext⟩ := Dev.sampled_ring (d := d) (k := k) (raw := raw) (busy := busy)
    exact State.runs_of_onDev (exec_digitiserSample k raw busy s) (hsampled hroom) ⟨hcount, hlbl, hwr, hnext, hpost⟩
  refine ⟨fun htarget => hstores _ ?_ (Dev.sampled_of_onChip htarget), fun htarget hwait hroom => hstores _ ?_ (Dev.sampled_of_waits htarget hwait),
    fun htarget hwait hfull => ?_, fun htarget hlen hgo hpart => hstores _ ?_ (Dev.sampled_of_burst htarget hlen hgo hpart)⟩
  · unfold Dev.fifoFull
    rw [(Dev.emitted_ring (d := d) (k := k) (raw := raw)).2.2.1, htarget]
    rfl
  · exact Bool.eq_false_iff.mpr fun hfull => hroom.not_gt ((Dev.emitted_fifoFull htarget).mp hfull).2
  · have hfull' : (d.emitted k raw).fifoFull k busy = true := (Dev.emitted_fifoFull htarget).mpr ⟨hwait, hfull⟩
    refine State.runs_of_onDev (exec_digitiserSample k raw busy s) (heq.trans (if_pos hfull')) (Dev.restarted_spec harmed)
  · exact Bool.eq_false_iff.mpr fun hfull => hgo ((Dev.emitted_fifoFull htarget).mp hfull).1
end Sys2Proof.Machine

/-! PROOFS. Posts from a host (R230, R231, R233, R234). -/
namespace Sys2Proof.Machine

theorem exec_mailboxWrite (fn : Fn) (off : BitVec 14) (data : List Byte) (s : State) :
    exec (.mailboxWrite fn off data) s = s.onDev (mailboxWriteD fn off data) := rfl
theorem exec_unstampedPost (fn : Fn) (off : BitVec 14) (data : List Byte) (s : State) :
    exec (.unstampedPost fn off data) s = s.onDev (unstampedPostD fn off data) := rfl
theorem exec_stampedPost (fn : Fn) (off : BitVec 16) (data : List Byte) (s : State) :
    exec (.stampedPost fn off data) s = s.onDev (stampedPostD fn off data) := rfl
theorem exec_doorbell (fn : Fn) (v : Word) (s : State) : exec (.doorbell fn v) s = s.onDev (doorbellD fn v) := rfl

namespace Dev

/-! ## Counting in block EVT -/

/-- The register is one of the first of block EVT, or a function's own copy of one. -/
def evtReg (a : Nat) : Prop := 0x200000 ≤ a % 2^28 ∧ a % 2^28 < 0x200300

/-- Beyond the registers of EVT and the inboxes, which only grow, nothing has changed. -/
structure evtOnly (d d' : Dev) : Prop where
  base : d'.base = d.base
  rd : ∀ a, ¬ evtReg a → d'.rd a = d.rd a
  hears : sameListeners d d'
  grows : inboxGrows d d'

section evtOnly
variable (d : Dev)

theorem not_inEc_of_evtReg {a : Nat} (h : evtReg a) : ¬ inEc a := by
  unfold evtReg at h
  unfold inEc
  omega
theorem evtOnly_refl : evtOnly d d := ⟨rfl, fun _ _ => rfl, sameListeners_refl d, inboxGrows_refl d⟩
variable {d} in
theorem evtOnly_trans {d' d'' : Dev} (h : evtOnly d d') (h' : evtOnly d' d'') : evtOnly d d'' :=
  ⟨h'.base.trans h.base, fun a ha => (h'.rd a ha).trans (h.rd a ha), sameListeners_trans h.hears h'.hears, inboxGrows_trans h.grows h'.grows⟩
theorem evtOnly_wrN {a : Nat} (v : Nat) (h : evtReg a) : evtOnly d (d.wrN a v) where
  base := base_wrN ..
  rd b hb := rd_wrN_ne _ _ (by rintro rfl; exact hb h)
  hears := sameListeners_wrN d (not_inEc_of_evtReg h) v
  grows := inboxGrows_of_ec (wrN_ec ..)
theorem evtOnly_bump {a : Nat} (h : evtReg a) : evtOnly d (d.bump a) := evtOnly_wrN d _ h
theorem evtOnly_raise {a : Nat} (m : Nat) (h : evtReg a) : evtOnly d (d.raise a m) := evtOnly_wrN d _ h
theorem evtOnly_fireAs {src stamp gen : Nat} (co la : Bool) (h : gen < 8) : evtOnly d (d.fireAs src stamp gen co la) where
  base := base_fireAs ..
  rd a _ := rd_of_regs (fireAs_regs _ _ _ _ _ _ h) a
  hears := sameListeners_of_fields (fireAs_regs _ _ _ _ _ _ h) (inforce_of_base (base_fireAs ..)) (parity_of_base (base_fireAs ..))
  grows := inboxGrows_fireAs ..
theorem evtOnly_fireNow (src : Nat) : evtOnly d (d.fireNow src) := by
  unfold fireNow fire
  exact evtOnly_fireAs d _ _ (by decide)

theorem evtReg_fnKey (fn : Nat) {cnt : Nat} (h : 0x200000 ≤ cnt ∧ cnt < 0x200300) : evtReg (fnKey fn cnt) := by
  unfold evtReg fnKey
  omega
theorem evtOnly_evtCount (fn : Nat) {cnt : Nat} (mask : Nat) (h : 0x200000 ≤ cnt ∧ cnt < 0x200300) : evtOnly d (d.evtCount fn cnt mask) := by
  unfold evtCount
  exact evtOnly_trans (evtOnly_bump d (evtReg_fnKey fn h)) (evtOnly_raise _ _ (by unfold evtReg; decide))
end evtOnly

theorem sees_iff (fn : Fn) (o : Option Nat) : (¬ (fn.val ≠ 0 ∧ o ≠ some (fn.val - 1))) ↔ (fn.val = 0 ∨ o = some (fn.val - 1)) := by
  rw [not_and_or, not_not, not_not]

section grants
variable {d d' : Dev} (h : evtOnly d d')
include h
theorem partOn_of_evtOnly {p : Nat} (hp : p < 12) : d'.partOn p = d.partOn p := by
  have hrd : d'.rd (Reg.part_STATE p) = d.rd (Reg.part_STATE p) := h.rd _ (by unfold evtReg Reg.part_STATE; omega)
  unfold partOn fld rdN
  rw [hrd]
theorem mbOwner_of_evtOnly (b : Nat) : d'.mbOwner b = d.mbOwner b := by
  unfold mbOwner partWhere
  refine List.find?_congr fun p hp => ?_
  have hgrants : d'.grantsMb p b = d.grantsMb p b := by
    unfold grantsMb ptabW
    rw [ptab_of_base h.base]
  dsimp only
  rw [partOn_of_evtOnly h (List.mem_range.mp hp), hgrants]
theorem nowT_of_evtOnly : d'.nowT = d.nowT := nowT_of_rd (h.rd _ (by unfold evtReg; decide)) (time_of_base h.base)
end grants

/-- What the listeners hear later they hear. -/
theorem fired_of_heard {d d₁ d' : Dev} {src t : Nat} (h : sameListeners d d₁) (hfired : d₁.fired d' src t) : d.fired d' src t := by
  intro n hn
  rw [← listeners_of_same h] at hn
  exact hfired n hn

/-! ## Forms -/

/-- Forms that a write covers whole are taken one by one. -/
theorem forms_whole (d : Dev) (fn : Nat) {w n e k : Nat} {data : List Byte} (whole : Dev → Nat → List Byte → Dev) (hw : w = 4 ∨ w = 16)
    (hlen : data.length = w * k) (hmax : e + k ≤ n) :
    d.forms fn w n (w * e) data whole = (List.range k).foldl (fun d j => whole d (e + j) ((data.drop (w * j)).take w)) d := by
  rcases Nat.eq_zero_or_pos k with rfl | hk
  · obtain rfl := List.length_eq_zero_iff.mp hlen
    rfl
  have hsome : ¬ data.isEmpty = true := by
    rw [List.isEmpty_iff]
    rintro rfl
    rw [List.length_nil] at hlen
    rcases hw with rfl | rfl <;> omega
  have hfirst : w * e / w = e := Nat.mul_div_cancel_left _ (by omega)
  have hcount : (w * e + data.length - 1) / w - e + 1 = k := by
    rw [hlen]
    rcases hw with rfl | rfl <;> omega
  unfold forms
  dsimp only
  rw [if_neg hsome, hfirst, hcount]
  refine List.foldl_ext _ _ _ fun d j hj => ?_
  have hjk := List.mem_range.mp hj
  have hfits : w * e ≤ (e + j) * w ∧ (e + j) * w + w ≤ w * e + data.length := by
    rw [hlen]
    rcases hw with rfl | rfl <;> omega
  have hplace : (e + j) * w - w * e = w * j := by
    rcases hw with rfl | rfl <;> omega
  rw [if_neg (by omega), if_pos hfits, hplace]

/-! ## The mailbox (R230, R233) -/

/-- A word that function `fn` writes lands, or is counted. -/
def mailPut (fn : Nat) (d : Dev) (i : Nat) (bs : List Byte) : Dev :=
  if fn ≠ 0 ∧ d.mbOwner (i / 64) ≠ some (fn - 1) then d.evtCount fn Reg.evt_NOT_OWNED_CNT 8
  else { d with mailbox := SMap.set 0 d.mailbox i (BitVec.ofNat 32 (leNat bs)) }

section mailPut
variable (fn : Nat) (d : Dev) (i : Nat) (bs : List Byte)

theorem mailPut_mbOwner (b : Nat) : (d.mailPut fn i bs).mbOwner b = d.mbOwner b := by
  unfold mailPut
  exact iteInduction (motive := fun x : Dev => x.mbOwner b = d.mbOwner b) (fun _ => mbOwner_of_evtOnly (evtOnly_evtCount d fn 8 (by decide)) b) fun _ => rfl
theorem mailPut_get (j : Nat) : SMap.get 0 (d.mailPut fn i bs).mailbox j =
    if i = j ∧ (fn = 0 ∨ d.mbOwner (j / 64) = some (fn - 1)) then BitVec.ofNat 32 (leNat bs) else SMap.get 0 d.mailbox j := by
  have hclosed : ¬ (fn ≠ 0 ∧ d.mbOwner (i / 64) ≠ some (fn - 1)) ↔ (fn = 0 ∨ d.mbOwner (i / 64) = some (fn - 1)) := by
    rw [not_and_or, not_not, not_not]
  unfold mailPut
  split
  · next h =>
      rw [mailbox_of_base (evtOnly_evtCount d fn 8 (by decide)).base, if_neg]
      rintro ⟨rfl, hopen⟩
      exact (hclosed.mpr hopen) h
  · next h =>
      dsimp only
      by_cases hij : i = j
      · subst hij
        rw [SMap.get_set_same, if_pos ⟨rfl, hclosed.mp h⟩]
      · rw [SMap.get_set_ne _ _ _ _ hij, if_neg fun hboth => hij hboth.1]
end mailPut

/-- Words that are written one after the other each land in their own place, where the function may write. -/
theorem foldl_mailPut (fn : Nat) (d : Dev) (e k : Nat) (word : Nat → List Byte) (j : Nat) :
    SMap.get 0 ((List.range k).foldl (fun d i => d.mailPut fn (e + i) (word i)) d).mailbox j =
      if e ≤ j ∧ j < e + k ∧ (fn = 0 ∨ d.mbOwner (j / 64) = some (fn - 1)) then BitVec.ofNat 32 (leNat (word (j - e))) else SMap.get 0 d.mailbox j := by
  have howner (l : List Nat) : (l.foldl (fun d i => d.mailPut fn (e + i) (word i)) d).mbOwner (j / 64) = d.mbOwner (j / 64) :=
    foldl_keeps (fun d => d.mbOwner (j / 64)) l _ (fun d i => mailPut_mbOwner ..) d
  induction k with
  | zero =>
    rw [if_neg (by omega)]
    rfl
  | succ k ih =>
    rw [List.range_succ, List.foldl_append, List.foldl_cons, List.foldl_nil, mailPut_get, howner, ih]
    by_cases hlast : e + k = j
    · subst hlast
      by_cases hopen : fn = 0 ∨ d.mbOwner ((e + k) / 64) = some (fn - 1)
      · rw [if_pos ⟨rfl, hopen⟩, if_pos ⟨by omega, by omega, hopen⟩, Nat.add_sub_cancel_left]
      · rw [if_neg (fun h => hopen h.2), if_neg (fun h => hopen h.2.2), if_neg (fun h => hopen h.2.2)]
    · have hiff : (j < e + k ↔ j < e + (k + 1)) := by omega
      rw [if_neg fun h => hlast h.1]
      exact if_congr (and_congr_right fun _ => and_congr_left' hiff) rfl rfl

theorem mailboxWriteD_get {d : Dev} {fn : Fn} {off : BitVec 14} {data : List Byte} {k : Nat} (hawake : d.barAwake = true) (halign : off.toNat % 4 = 0)
    (hlen : data.length = 4 * k) (hmax : off.toNat + 4 * k ≤ 2^14) (j : Nat) :
    SMap.get 0 (mailboxWriteD fn off data d).mailbox j =
      if off.toNat / 4 ≤ j ∧ j < off.toNat / 4 + k ∧ (fn.val = 0 ∨ d.mbOwner (j / 64) = some (fn.val - 1))
        then BitVec.ofNat 32 (leNat ((data.drop (4 * j - off.toNat)).take 4)) else SMap.get 0 d.mailbox j := by
  have hoff : off.toNat = 4 * (off.toNat / 4) := by omega
  have hasleep : ¬ (!d.barAwake) = true := by
    rw [hawake]
    decide
  have hput := forms_whole d fn.val (w := 4) (n := 4096) (e := off.toNat / 4) (mailPut fn.val) (.inl rfl) hlen (by omega)
  rw [← hoff] at hput
  unfold mailboxWriteD
  rw [if_neg hasleep]
  refine (congrArg (fun d : Dev => SMap.get 0 d.mailbox j) hput).trans ((foldl_mailPut ..).trans ?_)
  have hword : 4 * (j - off.toNat / 4) = 4 * j - off.toNat := by omega
  rw [hword]

/-! ## Posts (R231) -/

/-- Endpoint `e` is valid, and function `fn` may post to it. -/
abbrev takesPost (d : Dev) (fn e : Nat) : Prop :=
  bitsOf (d.rdN (Reg.ep_EP e)) 4 1 = 1 ∧ bitsOf (d.rdN (Reg.ep_EP e)) 5 1 = 1 ∧
    sees fn (ownerField (bitsOf (d.rdN (Reg.ep_EP e)) 8 4) (bitsOf (d.rdN (Reg.ep_EP e)) 12 1 == 1)) = true

/-- RX_LAST shows the post. -/
def rxShown (d : Dev) (r e stamp : Nat) : Dev := ((d.wrN (Reg.rxLast_EP r) e).wrN (Reg.rxLast_AT_LO r) stamp).wrN (Reg.rxLast_AT_HI r) (stamp / 2^32)

theorem evtOnly_rxShown (d : Dev) {r : Nat} (hr : r < 16) (e stamp : Nat) : evtOnly d (d.rxShown r e stamp) := by
  have hreg : ∀ o < 16, evtReg (0x200200 + 0x10 * r + o) := fun o ho => by
    unfold evtReg
    omega
  exact evtOnly_trans (evtOnly_trans (evtOnly_wrN d _ (hreg _ (by decide))) (evtOnly_wrN _ _ (hreg _ (by decide)))) (evtOnly_wrN _ _ (hreg _ (by decide)))

theorem postFires_spec (d : Dev) (fn : Fn) (e stamp : Nat) {gen : Nat} (coarse : Bool) (hgen : gen < 8) :
    d.fired (d.postFires fn e stamp gen coarse) (986 + bitsOf (d.rdN (Reg.ep_EP e)) 0 4) stamp ∧
      (d.postFires fn e stamp gen coarse).rdN (fnKey fn Reg.evt_POST_CNT) = min (2^32 - 1) (d.rdN (fnKey fn Reg.evt_POST_CNT) + 1) := by
  have hr : d.fld (Reg.ep_EP e) 0 4 < 16 := bitsOf_lt ..
  have hshown := evtOnly_rxShown d hr e stamp
  have hcount : ((d.rxShown (d.fld (Reg.ep_EP e) 0 4) e stamp).rdN (fnKey fn Reg.evt_POST_CNT)) = d.rdN (fnKey fn Reg.evt_POST_CNT) := by
    have hne : ∀ o < 16, 0x200200 + 0x10 * d.fld (Reg.ep_EP e) 0 4 + o ≠ fnKey fn Reg.evt_POST_CNT := fun o ho => by
      unfold fnKey Reg.evt_POST_CNT
      omega
    unfold rxShown
    rw [rdN_wrN_ne _ _ (hne _ (by decide)), rdN_wrN_ne _ _ (hne _ (by decide)), rdN_wrN_ne _ _ (hne _ (by decide))]
  refine ⟨fired_of_fireAs hgen (evtOnly_trans hshown (evtOnly_bump _ (evtReg_fnKey fn (by decide)))).hears (inboxGrows_refl _), ?_⟩
  refine (rdN_congr (fireAs_regs _ _ _ _ _ _ hgen) _).trans ((rdN_bump_same ..).trans ?_)
  exact congrArg (fun n => min (2^32 - 1) (n + 1)) hcount

theorem post_of_unstamped {d : Dev} {fn e gen : Nat} (h : d.takesPost fn e) : d.post fn e gen none = d.postFires fn e d.nowT gen (!d.timeValid) := by
  obtain ⟨hon, hlocal, hsees⟩ := h
  have hvalid : ¬ (1 = 0 ∨ 1 = 0 ∨ ((none : Option Nat).isSome = true ∧ bitsOf (d.rdN (Reg.ep_EP e)) 7 1 = 0)) := by simp
  unfold post
  dsimp only
  rw [hon, hlocal, hsees, if_neg hvalid, if_neg (by decide)]
theorem post_of_stamped {d : Dev} {fn e gen t : Nat} (h : d.takesPost fn e) (hown : bitsOf (d.rdN (Reg.ep_EP e)) 7 1 = 1) :
    d.post fn e gen (some t) = if d.nowT < t then (d.evtCount fn Reg.evt_FUTURE_CNT 4).postFires fn e d.nowT gen (!d.timeValid) else d.postFires fn e t gen false := by
  obtain ⟨hon, hlocal, hsees⟩ := h
  unfold post
  dsimp only
  rw [hon, hlocal, hsees, hown, if_neg (by simp), if_neg (by decide)]

theorem unstampedPostD_spec {d : Dev} {fn : Fn} {e : Fin 4096} {off : BitVec 14} {data : List Byte} (hawake : d.barAwake = true) (hoff : off.toNat = 4 * e)
    (hlen : data.length = 4) (h : d.takesPost fn e) :
    d.fired (unstampedPostD fn off data d) (986 + bitsOf (d.rdN (Reg.ep_EP e)) 0 4) d.nowT ∧
      (unstampedPostD fn off data d).rdN (fnKey fn Reg.evt_POST_CNT) = min (2^32 - 1) (d.rdN (fnKey fn Reg.evt_POST_CNT) + 1) := by
  have hasleep : ¬ (!d.barAwake) = true := by
    rw [hawake]
    decide
  have hone := forms_whole d fn.val (w := 4) (n := 4096) (e := e) (k := 1) (data := data) (fun (d : Dev) i bs => d.post fn.val i (leNat bs % 8) none) (.inl rfl)
    hlen (by omega)
  unfold unstampedPostD
  rw [if_neg hasleep, hoff, hone]
  change d.fired (d.post fn.val e (leNat (data.take 4) % 8) none) _ _ ∧ (d.post fn.val e (leNat (data.take 4) % 8) none).rdN _ = _
  rw [post_of_unstamped h]
  exact postFires_spec d fn e d.nowT _ (Nat.mod_lt _ (by decide))

theorem stampedPostD_fired {d : Dev} {fn : Fn} {e : Fin 4096} {off : BitVec 16} {data : List Byte} (hawake : d.barAwake = true) (hoff : off.toNat = 16 * e)
    (hlen : data.length = 16) (h : d.takesPost fn e) (hown : bitsOf (d.rdN (Reg.ep_EP e)) 7 1 = 1) :
    d.fired (stampedPostD fn off data d) (986 + bitsOf (d.rdN (Reg.ep_EP e)) 0 4) (min (leNat (data.take 8)) d.nowT) := by
  have hasleep : ¬ (!d.barAwake) = true := by
    rw [hawake]
    decide
  have hgen (n : Nat) : n % 8 < 8 := Nat.mod_lt _ (by decide)
  have hone := forms_whole d fn.val (w := 16) (n := 4096) (e := e) (k := 1) (data := data)
    (fun (d : Dev) i bs => d.post fn.val i (leNat ((bs.drop 8).take 1) % 8) (some (leNat (bs.take 8)))) (.inr rfl) hlen (by omega)
  have hbytes : ((data.drop 0).take 16).take 8 = data.take 8 := by 
    rw [List.drop_zero, List.take_take]
    rfl
  unfold stampedPostD
  rw [if_neg hasleep, hoff, hone]
  change d.fired (d.post fn.val e _ (some (leNat (((data.drop 0).take 16).take 8)))) _ _
  rw [post_of_stamped h hown, hbytes]
  split
  · next hfuture =>
      have hcounted := evtOnly_evtCount d fn.val 4 (cnt := Reg.evt_FUTURE_CNT) (by decide)
      have hep : (d.evtCount fn.val Reg.evt_FUTURE_CNT 4).rdN (Reg.ep_EP e) = d.rdN (Reg.ep_EP e) :=
        congrArg BitVec.toNat (hcounted.rd _ (by unfold evtReg Reg.ep_EP; omega))
      have hfires := (postFires_spec (d.evtCount fn.val Reg.evt_FUTURE_CNT 4) fn e d.nowT (!d.timeValid) (hgen (leNat ((((data.drop 0).take 16).drop 8).take 1)))).1
      rw [Nat.min_eq_right hfuture.le, ← hep]
      exact fired_of_heard hcounted.hears hfires
  · next hpast =>
      rw [Nat.min_eq_left (Nat.le_of_not_lt hpast)]
      exact (postFires_spec d fn e _ false (hgen _)).1

/-! ## Doorbells (R234) -/

/-- Bit `k` of a doorbell write fires its source where the function owns it. -/
def doorbellRung (fn : Nat) (v : Word) (d : Dev) (k : Nat) : Dev :=
  if bitsOf v.toNat k 1 = 0 then d
  else if !sees fn (d.srcOwner (1002 + k)) then d.evtCount fn Reg.evt_NOT_OWNED_CNT 8
  else d.fireNow (1002 + k)

theorem evtOnly_doorbellRung (fn : Nat) (v : Word) (d : Dev) (k : Nat) : evtOnly d (d.doorbellRung fn v k) :=
  iteInduction (motive := fun x => evtOnly d x) (fun _ => evtOnly_refl d) fun _ =>
    iteInduction (motive := fun x => evtOnly d x) (fun _ => evtOnly_evtCount d fn 8 (by decide)) fun _ => evtOnly_fireNow ..
theorem srcOwner_of_evtOnly {d d' : Dev} (h : evtOnly d d') {i : Nat} (hi : i < 1024) : d'.srcOwner i = d.srcOwner i := by
  have hrd : d'.rd (Reg.srcOwn_OWN i) = d.rd (Reg.srcOwn_OWN i) := h.rd _ (by unfold evtReg Reg.srcOwn_OWN; omega)
  unfold srcOwner fld bit rdN
  rw [hrd]

theorem foldl_doorbellRung_evtOnly (fn : Nat) (v : Word) (l : List Nat) (d : Dev) : evtOnly d (l.foldl (doorbellRung fn v) d) :=
  foldl_invariant (P := fun x => evtOnly d x) (fun x k _ h => evtOnly_trans h (evtOnly_doorbellRung fn v x k)) (evtOnly_refl d)
theorem foldl_doorbellRung_fired {fn : Nat} {v : Word} {l : List Nat} {d : Dev} {k : Nat} (hk : k ∈ l) (hmax : k < 16) (hbit : v.getLsbD k = true)
    (hsees : sees fn (d.srcOwner (1002 + k)) = true) : d.fired (l.foldl (doorbellRung fn v) d) (1002 + k) d.nowT := by
  induction l generalizing d with
  | nil => cases hk
  | cons x r ih =>
    have hrung := evtOnly_doorbellRung fn v d x
    rcases List.mem_cons.mp hk with rfl | hk
    · have hone : d.doorbellRung fn v k = d.fireNow (1002 + k) := by
        have hset : ¬ bitsOf v.toNat k 1 = 0 := by
          rw [bitsOf_one, hbit]
          decide
        unfold doorbellRung
        rw [if_neg hset, hsees]
        exact if_neg (by decide)
      rw [List.foldl_cons, hone]
      exact fired_of_fire (by decide) (sameListeners_refl d) (foldl_doorbellRung_evtOnly fn v r _).grows
    · have hlater := ih hk (by rwa [srcOwner_of_evtOnly hrung (by omega)])
      rw [nowT_of_evtOnly hrung] at hlater
      exact fired_of_heard hrung.hears hlater

theorem doorbellD_fired {d : Dev} {fn : Fn} {v : Word} (hans : d.answers fn Reg.evt_DOORBELL (fnOwner fn)) {k : Nat} (hmax : k < 16)
    (hbit : v.getLsbD k = true) (hsees : sees fn (d.srcOwner (1002 + k)) = true) : d.fired (doorbellD fn v d) (1002 + k) d.nowT := by
  have hec := access_keeps hans ((List.range 16).foldl (doorbellRung fn v)) (q := Dev.ec) fun _ _ _ => rfl
  have hrung := foldl_doorbellRung_fired (List.mem_range.mpr hmax) hmax hbit hsees
  exact fired_of_grows hrung (inboxGrows_of_ec hec)
end Dev

/-- Settles O32: a write covered whole is a run of forms, each of which lands, fires, or is counted in block EVT alone. -/
theorem hostPostsFireAndLand : Obligations.HostPostsFireAndLand := by
  intro s fn d
  refine ⟨fun off data k hawake halign hlen hmax => ?_, fun e off data hawake hoff hlen hon hlocal hsees => ?_,
    fun e off data hawake hoff hlen hon hlocal hown hsees => ?_, fun v hans => ?_⟩
  · exact State.runs_of_onDev (exec_mailboxWrite fn off data s) rfl (Dev.mailboxWriteD_get hawake halign hlen hmax)
  · exact State.runs_of_onDev (exec_unstampedPost fn off data s) rfl (Dev.unstampedPostD_spec hawake hoff hlen ⟨hon, hlocal, hsees⟩)
  · exact State.runs_of_onDev (exec_stampedPost fn off data s) rfl (Dev.stampedPostD_fired hawake hoff hlen ⟨hon, hlocal, hsees⟩ hown)
  · exact State.runs_of_onDev (exec_doorbell fn v s) rfl fun k hmax hbit hsees => Dev.doorbellD_fired hans hmax hbit hsees

end Sys2Proof.Machine

/-! PROOFS. Temperature and trims (R341 to R345, R348, R441). -/
namespace Sys2Proof.Machine

theorem exec_temperatureUpdate (t : Fin 6) (new : List Int) (s : State) : exec (.temperatureUpdate t new) s = s.onDev (temperatureUpdateD t new) := rfl
theorem exec_trimStep (t : Fin 6) (s : State) : exec (.trimStep t) s = s.onDev (trimStepD t) := rfl

namespace Dev

/-! ## The tile's display -/

section showTile
variable (d : Dev) (t : Nat)

theorem showTile_onlyRegs : d.onlyRegs (d.showTile t) := by
  unfold showTile
  extract_lets out was d₁
  have h₁ : d.onlyRegs d₁ := onlyRegs_trans (onlyRegs_wrN ..) (onlyRegs_wrN ..)
  exact onlyRegs_ite (onlyRegs_trans h₁ (onlyRegs_raise ..)) h₁
theorem showTile_rd {a : Nat} (hs : Reg.calTile_STATUS t ≠ a) (he : Reg.calTile_EVENTS t ≠ a) : (d.showTile t).rd a = d.rd a := by
  unfold showTile
  extract_lets out was d₁
  have h₁ : d₁.rd a = d.rd a := (rd_setBit_ne _ _ _ hs).trans (rd_setBit_ne _ _ _ hs)
  clear_value d₁
  exact iteInduction (motive := fun x : Dev => x.rd a = d.rd a) (fun _ => (rd_raise_ne _ _ he).trans h₁) fun _ => h₁
theorem showTile_bit {i : Nat} (h4 : 4 ≠ i) (h5 : 5 ≠ i) : (d.showTile t).bit (Reg.calTile_STATUS t) i = d.bit (Reg.calTile_STATUS t) i := by
  have hne : Reg.calTile_EVENTS t ≠ Reg.calTile_STATUS t := by grind
  unfold showTile
  extract_lets out was d₁
  have h₁ : d₁.bit (Reg.calTile_STATUS t) i = d.bit (Reg.calTile_STATUS t) i :=
    (bit_setBit_other _ _ _ _ _ (by decide) h4).trans (bit_setBit_other _ _ _ _ _ (by decide) h5)
  clear_value d₁
  exact iteInduction (motive := fun x : Dev => x.bit _ i = d.bit _ i) (fun _ => (bit_raise_ne _ _ _ hne).trans h₁) fun _ => h₁
theorem sameListeners_showTile : sameListeners d (d.showTile t) := by
  have hs : ¬ inEc (Reg.calTile_STATUS t) := by unfold inEc Reg.calTile_STATUS; omega
  have he : ¬ inEc (Reg.calTile_EVENTS t) := by unfold inEc Reg.calTile_EVENTS; omega
  unfold showTile
  extract_lets out was d₁
  have h₁ : sameListeners d d₁ := sameListeners_trans (sameListeners_setBit d hs ..) (sameListeners_setBit _ hs ..)
  exact sameListeners_ite (sameListeners_trans h₁ (sameListeners_raise _ he _)) h₁
theorem onlyRegs_chan {d d' : Dev} (h : d.onlyRegs d') : d'.chan = d.chan := by
  obtain ⟨r, rfl⟩ := h
  rfl
theorem onlyRegs_calT {d d' : Dev} (h : d.onlyRegs d') : d'.calT = d.calT := by
  obtain ⟨r, rfl⟩ := h
  rfl
theorem onlyRegs_ec {d d' : Dev} (h : d.onlyRegs d') : d'.ec = d.ec := by
  obtain ⟨r, rfl⟩ := h
  rfl
theorem onlyRegs_time {d d' : Dev} (h : d.onlyRegs d') : d'.time = d.time := by
  obtain ⟨r, rfl⟩ := h
  rfl
theorem calOf_of_calT {d d' : Dev} (h : d'.calT = d.calT) (t : Nat) : d'.calOf t = d.calOf t := by rw [calOf, calOf, h]
end showTile

/-! ## One channel's trims -/

/-- Only trims of channel `c`, and registers of channels, differ. -/
structure trimsOf (c : Nat) (d d' : Dev) : Prop where
  calT : d'.calT = d.calT
  rd : ∀ a, 0xE00000 ≤ a → d'.rd a = d.rd a
  meas : (d'.chanOf c).meas = (d.chanOf c).meas
  other : ∀ n, c ≠ n → d'.chanOf n = d.chanOf n

section trimsOf
variable {c : Nat} {d : Dev}

theorem trimsOf_refl : trimsOf c d d := ⟨rfl, fun _ _ => rfl, rfl, fun _ _ => rfl⟩
theorem trimsOf_trans {d' d'' : Dev} (h : trimsOf c d d') (h' : trimsOf c d' d'') : trimsOf c d d'' :=
  ⟨h'.calT.trans h.calT, fun a ha => (h'.rd a ha).trans (h.rd a ha), h'.meas.trans h.meas, fun n hn => (h'.other n hn).trans (h.other n hn)⟩
theorem trimsOf_setWork (j : Nat) (w : Int) : trimsOf c d (d.setWork c j w) where
  calT := updChan_calT ..
  rd a _ := rd_of_regs (updChan_regs ..) a
  meas := by
    unfold setWork
    rw [chanOf_updChan_same]
  other n hn := chanOf_updChan_ne _ _ hn
theorem trimsOf_showSkew (hc : c < 96) (d : Dev) : trimsOf c d (d.showSkew c) where
  calT := wrN_calT ..
  rd a ha := rd_wrN_ne _ _ (by unfold Reg.chn_SKEW_CAL chnBase; omega)
  meas := congrArg Chan.meas (chanOf_of_chan (wrN_chan ..) c)
  other n _ := chanOf_of_chan (wrN_chan ..) n

theorem theta_of_rd {d d' : Dev} {t : Nat} (h : d'.rd (Reg.calTile_TEMP t) = d.rd (Reg.calTile_TEMP t)) : d'.theta t = d.theta t := by
  unfold theta fld rdN
  rw [h]
theorem isMeasured_of_meas {d d' : Dev} {n : Nat} (h : (d'.chanOf n).meas = (d.chanOf n).meas) (j : Nat) : d'.isMeasured n j = d.isMeasured n j := by
  unfold isMeasured
  rw [h]
theorem trimTarget_of_rd {d d' : Dev} (hcal : d'.calT = d.calT) (hrd : ∀ a, 0xE00000 ≤ a → d'.rd a = d.rd a) (n j : Nat) :
    d'.trimTarget n j = d.trimTarget n j := by
  unfold trimTarget
  rw [calOf_of_calT hcal, theta_of_rd (hrd _ (by unfold Reg.calTile_TEMP; omega))]
end trimsOf

theorem setWork_workOf (d : Dev) (n j : Nat) (w : Int) : (d.setWork n j w).workOf n j = w := by
  unfold workOf setWork
  rw [chanOf_updChan_same]
  exact SMap.get_set_same ..
theorem setWork_workOf_ne (d : Dev) (n : Nat) {i j : Nat} (w : Int) (h : i ≠ j) : (d.setWork n i w).workOf n j = d.workOf n j := by
  unfold workOf setWork
  rw [chanOf_updChan_same]
  dsimp only
  rw [SMap.get_set_ne _ _ _ _ h]

/-- How the working value `w` of a trim whose target is `x` changes. -/
abbrev TrimRule := Int → Int → Int

/-- Trim `j` of channel `c` changes by a rule, unless a measurement replaced it. -/
def trimOne (r : TrimRule) (c : Nat) (d : Dev) (j : Nat) : Dev := if d.isMeasured c j then d else d.setWork c j (r (d.workOf c j) (d.trimTarget c j))
/-- Every trim of channel `c` changes by a rule. -/
def trimChan (r : TrimRule) (c : Nat) (d : Dev) : Dev := ((List.range 74).foldl (trimOne r c) d).showSkew c

section trimChan
variable (r : TrimRule) (c : Nat) (d : Dev)

theorem trimsOf_trimOne (j : Nat) : trimsOf c d (trimOne r c d j) :=
  iteInduction (motive := fun x => trimsOf c d x) (fun _ => trimsOf_refl) fun _ => trimsOf_setWork ..
theorem trimOne_workOf (j : Nat) : (trimOne r c d j).workOf c j = if d.isMeasured c j then d.workOf c j else r (d.workOf c j) (d.trimTarget c j) := by
  unfold trimOne
  split
  · rfl
  · exact setWork_workOf ..
theorem trimOne_workOf_ne {i j : Nat} (h : i ≠ j) : (trimOne r c d i).workOf c j = d.workOf c j :=
  iteInduction (motive := fun x : Dev => x.workOf c j = d.workOf c j) (fun _ => rfl) fun _ => setWork_workOf_ne _ _ _ h
theorem trimsOf_trimChan (hc : c < 96) : trimsOf c d (trimChan r c d) :=
  trimsOf_trans (foldl_invariant (P := fun x => trimsOf c d x) (fun x j _ h => trimsOf_trans h (trimsOf_trimOne r c x j)) trimsOf_refl) (trimsOf_showSkew hc _)
/-- Each trim finds its own value and target as they stood. -/
theorem trimChan_workOf {j : Nat} (hj : j < 74) :
    (trimChan r c d).workOf c j = if d.isMeasured c j then d.workOf c j else r (d.workOf c j) (d.trimTarget c j) := by
  obtain ⟨d₀, hd₀, hwork, hlast⟩ := foldl_each (l := List.range 74) (f := trimOne r c) (P := fun x => trimsOf c d x) (q := fun j d => d.workOf c j)
    (fun x j _ h => trimsOf_trans h (trimsOf_trimOne r c x j)) (fun x i _ j _ h => trimOne_workOf_ne r c x h) List.nodup_range trimsOf_refl
    (List.mem_range.mpr hj)
  have hshow : (trimChan r c d).workOf c j = ((List.range 74).foldl (trimOne r c) d).workOf c j :=
    congrArg (fun x : Chan => SMap.get 0 x.work j) (chanOf_of_chan (wrN_chan ..) c)
  rw [hshow, hlast, trimOne_workOf, hwork, isMeasured_of_meas hd₀.meas, trimTarget_of_rd hd₀.calT hd₀.rd]
end trimChan

/-! ## A tile's trims -/

/-- Only trims of tile `t`, and registers of channels, differ. -/
structure trimsIn (t : Nat) (d d' : Dev) : Prop where
  calT : d'.calT = d.calT
  rd : ∀ a, 0xE00000 ≤ a → d'.rd a = d.rd a
  other : ∀ n, n / 16 ≠ t → d'.chanOf n = d.chanOf n

theorem mem_tileChans {t n : Nat} : n ∈ tileChans t ↔ n / 16 = t := by
  unfold tileChans
  rw [List.mem_map]
  constructor
  · rintro ⟨k, hk, rfl⟩
    have := List.mem_range.mp hk
    omega
  · rintro rfl
    exact ⟨n % 16, List.mem_range.mpr (Nat.mod_lt _ (by decide)), Nat.div_add_mod n 16⟩
theorem nodup_tileChans (t : Nat) : (tileChans t).Nodup := List.nodup_range.map fun i j h => by omega

theorem trimsIn_refl (t : Nat) (d : Dev) : trimsIn t d d := ⟨rfl, fun _ _ => rfl, fun _ _ => rfl⟩
theorem trimsIn_trans {t : Nat} {d d' d'' : Dev} (h : trimsIn t d d') (h' : trimsIn t d' d'') : trimsIn t d d'' :=
  ⟨h'.calT.trans h.calT, fun a ha => (h'.rd a ha).trans (h.rd a ha), fun n hn => (h'.other n hn).trans (h.other n hn)⟩
theorem trimsIn_of_trimsOf {c : Nat} {d d' : Dev} (h : trimsOf c d d') : trimsIn (c / 16) d d' :=
  ⟨h.calT, h.rd, fun n hn => h.other n (by rintro rfl; exact hn rfl)⟩

/-- Where each channel of a tile takes its own step, each ends as that step leaves it. -/
theorem trimsIn_foldl {t : Nat} (ht : t < 6) {f : Dev → Nat → Dev} (hf : ∀ d c, c < 96 → trimsOf c d (f d c)) (d : Dev) :
    trimsIn t d ((tileChans t).foldl f d) ∧
      ∀ n, n / 16 = t → ∃ d₀, trimsIn t d d₀ ∧ d₀.chanOf n = d.chanOf n ∧ ((tileChans t).foldl f d).chanOf n = (f d₀ n).chanOf n := by
  have hstep : ∀ x, ∀ c ∈ tileChans t, trimsIn t d x → trimsIn t d (f x c) := by
    intro x c hc h
    have htile := mem_tileChans.mp hc
    have hone := trimsIn_of_trimsOf (hf x c (by omega))
    rw [htile] at hone
    exact trimsIn_trans h hone
  refine ⟨foldl_invariant (P := fun x => trimsIn t d x) hstep (trimsIn_refl t d), fun n hn => ?_⟩
  refine foldl_each (P := fun x => trimsIn t d x) (q := fun n d => d.chanOf n) hstep (fun x c hc j _ h => ?_) (nodup_tileChans t) (trimsIn_refl t d)
    (mem_tileChans.mpr hn)
  have htile := mem_tileChans.mp hc
  exact (hf x c (by omega)).other j h


/-! ## TRIM_STEP -/

/-- A working value moves towards its target by at most `s`. -/
def towards (s : Int) : TrimRule := fun w x => w + sat (-s) s (x - w)
/-- A working value takes its target. -/
def whole : TrimRule := fun _ x => x

theorem towards_self (s : Int) (hs : 0 ≤ s) (w : Int) : towards s w w = w := by
  unfold towards sat
  split
  · omega
  · split <;> omega
theorem towards_eq (s w x : Int) (hs : 0 ≤ s) : towards s w x = w + max (-s) (min s (x - w)) := by
  unfold towards sat
  split
  · omega
  · split <;> omega

theorem trimTarget_of_empty {d : Dev} {n : Nat} (h : (d.calOf (n / 16)).set = []) (j : Nat) : d.trimTarget n j = 0 := by
  unfold trimTarget
  rw [h]
  rfl

/-- Where no working value of a channel moves, each that is not replaced stands at its target. -/
theorem workOf_of_still {d : Dev} {n j : Nat} (h : d.trimsMove n = false) (hj : j < 74) (hm : d.isMeasured n j = false) : d.workOf n j = d.trimTarget n j := by
  unfold trimsMove at h
  split at h
  · next hempty =>
      rw [Bool.and_eq_true, List.isEmpty_iff, List.isEmpty_iff] at hempty
      rw [trimTarget_of_empty hempty.1, workOf, hempty.2]
      rfl
  · have hall := List.any_eq_false.mp h j (List.mem_range.mpr hj)
    rw [hm] at hall
    simpa using hall

/-- A step of a channel's trims, where any moves. -/
def trimMoved (s : Int) (d : Dev) (c : Nat) : Dev := if !d.trimsMove c then d else trimChan (towards s) c d

theorem trimsOf_trimMoved (s : Int) (d : Dev) (c : Nat) (hc : c < 96) : trimsOf c d (trimMoved s d c) :=
  iteInduction (motive := fun x => trimsOf c d x) (fun _ => trimsOf_refl) fun _ => trimsOf_trimChan _ _ _ hc
theorem trimMoved_workOf {s : Int} (hs : 0 ≤ s) (d : Dev) (c : Nat) {j : Nat} (hj : j < 74) (hm : d.isMeasured c j = false) :
    (trimMoved s d c).workOf c j = towards s (d.workOf c j) (d.trimTarget c j) := by
  unfold trimMoved
  cases h : d.trimsMove c with
  | false =>
    rw [Bool.not_false, if_pos rfl, workOf_of_still h hj hm, towards_self s hs]
  | true =>
    rw [Bool.not_true, if_neg Bool.false_ne_true, trimChan_workOf _ _ _ hj, hm, if_neg Bool.false_ne_true]

/-- The trims of tile `t` go one step on, but for a frozen tile or without the SPLL. -/
def tileStepped (t : Nat) (s : Int) (d : Dev) : Dev := if d.calFrozen t || d.trimsWait then d else (tileChans t).foldl (trimMoved s) d

theorem trimStepD_eq (t : Fin 6) (d : Dev) :
    trimStepD t d = (tileStepped t (d.fld (Reg.calTile_CFG t) 16 8 : Nat) (d.lateSet t)).showTile t := rfl

theorem workOf_of_chanOf {d d' : Dev} {n : Nat} (h : d'.chanOf n = d.chanOf n) (j : Nat) : d'.workOf n j = d.workOf n j :=
  congrArg (fun c : Chan => SMap.get 0 c.work j) h
theorem isMeasured_of_chanOf {d d' : Dev} {n : Nat} (h : d'.chanOf n = d.chanOf n) (j : Nat) : d'.isMeasured n j = d.isMeasured n j :=
  isMeasured_of_meas (congrArg Chan.meas h) j

/-- A step that goes moves every value of the tile that is not replaced. -/
theorem tileStepped_workOf {t : Nat} (ht : t < 6) {s : Int} (hs : 0 ≤ s) {d : Dev} (hfree : d.calFrozen t = false) (hwait : d.trimsWait = false) :
    trimsIn t d (tileStepped t s d) ∧ ∀ n, n / 16 = t → ∀ j < 74, d.isMeasured n j = false →
      (tileStepped t s d).workOf n j = towards s (d.workOf n j) (d.trimTarget n j) := by
  obtain ⟨hin, heach⟩ := trimsIn_foldl ht (trimsOf_trimMoved s) d
  have hgo : tileStepped t s d = (tileChans t).foldl (trimMoved s) d := by
    unfold tileStepped
    rw [hfree, hwait]
    rfl
  rw [hgo]
  refine ⟨hin, fun n hn j hj hm => ?_⟩
  obtain ⟨d₀, hd₀, hchan, hlast⟩ := heach n hn
  rw [workOf_of_chanOf hlast, trimMoved_workOf hs d₀ n hj ((isMeasured_of_chanOf hchan j).trans hm), workOf_of_chanOf hchan, trimTarget_of_rd hd₀.calT hd₀.rd]

theorem tileStepped_trimsIn {t : Nat} (ht : t < 6) (s : Int) (d : Dev) : trimsIn t d (tileStepped t s d) :=
  iteInduction (motive := fun x => trimsIn t d x) (fun _ => trimsIn_refl t d) fun _ => (trimsIn_foldl ht (trimsOf_trimMoved s) d).1

/-! ## A set that applies late (R441) -/

/-- A set came while the SPLL had lost its lock, and the SPLL has locked again. -/
abbrev setLate (d : Dev) (t : Nat) : Prop := (d.calOf t).loaded = false ∧ (d.calOf t).set ≠ [] ∧ d.trimsWait = false

theorem lateSet_of_not {d : Dev} {t : Nat} (h : ¬ d.setLate t) : d.lateSet t = d := by
  unfold lateSet
  refine if_pos ?_
  unfold setLate at h
  by_contra hno
  simp only [Bool.or_eq_true, List.isEmpty_iff, not_or, Bool.not_eq_true] at hno
  exact h ⟨hno.1.1, hno.1.2, hno.2⟩

/-- The set is in force: the tile shows it, and no check of a channel counts any more. -/
def setShown (d : Dev) (t : Nat) : Dev :=
  (tileChans t).foldl (fun (d : Dev) (n : Nat) => d.setBit (Reg.calCh_CHK_STATUS n) 0 false)
    ((((d.updCal t (fun (c : CalTile) => { c with set := (d.calOf t).set, loaded := (d.calOf t).loaded || true })).setFld (Reg.calTile_STATUS t) 8 4
      (setPoints (d.calOf t).set)).setFld (Reg.calTile_STATUS t) 0 2 (d.fld (Reg.calTile_STATUS t) 0 2)))

theorem lateSet_of_late {d : Dev} {t : Nat} (h : d.setLate t) : d.lateSet t = ((tileChans t).foldl (fun d n => trimChan whole n d) (d.setShown t)).showTile t := by
  obtain ⟨hnew, hset, hwait⟩ := h
  have hgo : ¬ ((d.calOf t).loaded || (d.calOf t).set.isEmpty || d.trimsWait) = true := by
    rw [hnew, hwait, List.isEmpty_eq_false_iff.mpr hset]
    decide
  have hfirst : (!(d.calOf t).loaded && !(d.calOf t).set.isEmpty && !d.trimsWait) = true := by
    rw [hnew, hwait, List.isEmpty_eq_false_iff.mpr hset]
    decide
  unfold lateSet
  dsimp only
  rw [if_neg hgo]
  unfold loadSet
  dsimp only
  rw [hfirst, if_pos rfl]
  rfl

section setShown
variable (d : Dev) {t : Nat}

theorem setShown_chan : (d.setShown t).chan = d.chan := by
  unfold setShown
  rw [foldl_keeps Dev.chan _ _ (fun d n => setBit_chan ..), setFld_chan, setFld_chan]
  rfl
theorem setShown_calOf : (d.setShown t).calOf t = { d.calOf t with loaded := (d.calOf t).loaded || true } := by
  unfold setShown calOf
  rw [foldl_keeps Dev.calT _ _ (fun d n => setBit_calT ..), setFld_calT, setFld_calT]
  exact SMap.get_set_same ..
theorem setShown_temp : (d.setShown t).rd (Reg.calTile_TEMP t) = d.rd (Reg.calTile_TEMP t) := by
  have hchk : ∀ n, Reg.calCh_CHK_STATUS n ≠ Reg.calTile_TEMP t := fun n => by
    unfold Reg.calCh_CHK_STATUS Reg.calTile_TEMP
    omega
  have hstatus : Reg.calTile_STATUS t ≠ Reg.calTile_TEMP t := by grind
  unfold setShown
  rw [foldl_keeps (fun d => d.rd (Reg.calTile_TEMP t)) _ _ (fun d n => rd_setBit_ne d _ _ (hchk n)), rd_setFld_ne _ _ _ _ hstatus, rd_setFld_ne _ _ _ _ hstatus]
  rfl
theorem setShown_trimTarget {n : Nat} (hn : n / 16 = t) (j : Nat) : (d.setShown t).trimTarget n j = d.trimTarget n j := by
  unfold trimTarget
  rw [hn, setShown_calOf, theta_of_rd (setShown_temp d)]
end setShown

/-- A set that applies late puts every value of the tile that is not replaced at its target. -/
theorem lateSet_spec {d : Dev} {t : Nat} (ht : t < 6) (h : d.setLate t) :
    ((d.lateSet t).calOf t).loaded = true ∧ (∀ n, n / 16 ≠ t → (d.lateSet t).chanOf n = d.chanOf n) ∧
    ∀ n, n / 16 = t → (∀ j, (d.lateSet t).isMeasured n j = d.isMeasured n j) ∧ (∀ j, (d.lateSet t).trimTarget n j = d.trimTarget n j) ∧
      ∀ j < 74, d.isMeasured n j = false → (d.lateSet t).workOf n j = d.trimTarget n j := by
  obtain ⟨hin, heach⟩ := trimsIn_foldl ht (f := fun d n => trimChan whole n d) (fun d c hc => trimsOf_trimChan whole c d hc) (d.setShown t)
  have hshow := showTile_onlyRegs ((tileChans t).foldl (fun d n => trimChan whole n d) (d.setShown t)) t
  rw [lateSet_of_late h]
  generalize hx : (tileChans t).foldl (fun d n => trimChan whole n d) (d.setShown t) = x at hin heach hshow
  have hchan (n : Nat) : (x.showTile t).chanOf n = x.chanOf n := chanOf_of_chan (onlyRegs_chan hshow) n
  have hcal : (x.showTile t).calT = (d.setShown t).calT := (onlyRegs_calT hshow).trans hin.calT
  have htemp : (x.showTile t).rd (Reg.calTile_TEMP t) = (d.setShown t).rd (Reg.calTile_TEMP t) :=
    (showTile_rd _ _ (by grind) (by grind)).trans (hin.rd _ (by unfold Reg.calTile_TEMP; omega))
  have hshown (n : Nat) : (d.setShown t).chanOf n = d.chanOf n := chanOf_of_chan (setShown_chan d) n
  refine ⟨?_, fun n hn => ?_, fun n hn => ⟨fun j => ?_, fun j => ?_, fun j hj hm => ?_⟩⟩
  · rw [calOf_of_calT hcal, setShown_calOf]
    exact Bool.or_true _
  · rw [hchan, hin.other n hn, hshown]
  · obtain ⟨d₀, -, hchan₀, hlast⟩ := heach n hn
    rw [isMeasured_of_chanOf (hchan n), isMeasured_of_chanOf hlast, isMeasured_of_meas (trimsOf_trimChan whole n d₀ (by omega)).meas,
      isMeasured_of_chanOf hchan₀, isMeasured_of_chanOf (hshown n)]
  · rw [← setShown_trimTarget d hn j]
    unfold trimTarget
    rw [hn, calOf_of_calT hcal, theta_of_rd htemp]
  · obtain ⟨d₀, hd₀, hchan₀, hlast⟩ := heach n hn
    have hm₀ : d₀.isMeasured n j = false := by rw [isMeasured_of_chanOf hchan₀, isMeasured_of_chanOf (hshown n), hm]
    rw [workOf_of_chanOf (hchan n), workOf_of_chanOf hlast, trimChan_workOf _ _ _ hj, hm₀, if_neg Bool.false_ne_true, whole,
      trimTarget_of_rd hd₀.calT hd₀.rd, setShown_trimTarget d hn]

/-- TRIM_STEP without a late set. -/
theorem trimStepD_of_not_late {d : Dev} {t : Fin 6} (h : ¬ d.setLate t) :
    trimStepD t d = (tileStepped t (d.fld (Reg.calTile_CFG t) 16 8 : Nat) d).showTile t := by rw [trimStepD_eq, lateSet_of_not h]

theorem trimStepD_of_late {d : Dev} {t : Fin 6} (h : d.setLate t) : ((trimStepD t d).calOf t).loaded = true ∧
    ∀ n < 96, (n / 16 = t.val → ∀ j < 74, d.isMeasured n j = false → (trimStepD t d).workOf n j = d.trimTarget n j) ∧
      (n / 16 ≠ t.val → (trimStepD t d).chanOf n = d.chanOf n) := by
  obtain ⟨hloaded, hother, heach⟩ := lateSet_spec t.isLt h
  rw [trimStepD_eq]
  have hs : (0 : Int) ≤ (d.fld (Reg.calTile_CFG t) 16 8 : Nat) := Int.natCast_nonneg _
  generalize ((d.fld (Reg.calTile_CFG t) 16 8 : Nat) : Int) = s at hs
  have hin := tileStepped_trimsIn t.isLt s (d.lateSet t)
  have hshow := showTile_onlyRegs (tileStepped t s (d.lateSet t)) t
  have hchan (n : Nat) : ((tileStepped t s (d.lateSet t)).showTile t).chanOf n = (tileStepped t s (d.lateSet t)).chanOf n :=
    chanOf_of_chan (onlyRegs_chan hshow) n
  refine ⟨?_, fun n _ => ⟨fun hn j hj hm => ?_, fun hn => ?_⟩⟩
  · rw [calOf_of_calT ((onlyRegs_calT hshow).trans hin.calT), hloaded]
  · obtain ⟨hmeas, htarget, hwork⟩ := heach n hn
    rw [workOf_of_chanOf (hchan n)]
    cases hheld : (d.lateSet t).calFrozen t || (d.lateSet t).trimsWait with
    | true =>
      have hstay : tileStepped t s (d.lateSet t) = d.lateSet t := if_pos hheld
      rw [hstay, hwork j hj hm]
    | false =>
      obtain ⟨hfree, hwait⟩ := Bool.or_eq_false_iff.mp hheld
      rw [(tileStepped_workOf t.isLt hs hfree hwait).2 n hn j hj ((hmeas j).trans hm), hwork j hj hm, htarget, towards_self s hs]
  · rw [hchan, hin.other n hn, hother n hn]

/-! ## TEMPERATURE_UPDATE -/

section startRun
variable (d : Dev) {t : Nat}

theorem startRun_ec : (d.startRun t).ec = d.ec := by
  unfold startRun
  extract_lets st d₁ d₂ d₃
  have h₁ : d₁.ec = d.ec := setFld_ec ..
  have h₂ : d₂.ec = d₁.ec := (setBit_ec ..).trans ((setBit_ec ..).trans (setBit_ec ..))
  have h₃ : d₃.ec = d₂.ec := foldl_keeps Dev.ec _ _ (fun d n => updChan_ec ..) d₂
  have h : d₃.ec = d.ec := h₃.trans (h₂.trans h₁)
  clear_value d₃
  exact h
theorem wantRun_ec : (d.wantRun t).ec = d.ec := by
  unfold wantRun
  split
  · rw [setBit_ec, setBit_ec]
  · exact startRun_ec d
theorem startRun_temp : (d.startRun t).fld (Reg.calTile_TEMP t) 0 16 = d.fld (Reg.calTile_TEMP t) 0 16 := by
  have hs : Reg.calTile_STATUS t ≠ Reg.calTile_TEMP t := by grind
  have hc : Reg.calTile_CTL t ≠ Reg.calTile_TEMP t := by grind
  unfold startRun
  extract_lets st d₁ d₂ d₃
  have h₁ : d₁.fld (Reg.calTile_TEMP t) 0 16 = d.fld (Reg.calTile_TEMP t) 0 16 := fld_setFld_other _ _ _ _ _ _ _ (by decide) (.inr (by decide))
  have h₂ : d₂.rd (Reg.calTile_TEMP t) = d₁.rd (Reg.calTile_TEMP t) := (rd_setBit_ne _ _ _ hc).trans ((rd_setBit_ne _ _ _ hs).trans (rd_setBit_ne _ _ _ hs))
  have h₃ : d₃.regs = d₂.regs := foldl_keeps Dev.regs _ _ (fun d n => updChan_regs ..) d₂
  have hregs : d₃.fld (Reg.calTile_TEMP t) 0 16 = d₁.fld (Reg.calTile_TEMP t) 0 16 :=
    congrArg (fun x : Word => bitsOf x.toNat 0 16) ((rd_of_regs h₃ _).trans h₂)
  have h : d₃.fld (Reg.calTile_TEMP t) 0 16 = d.fld (Reg.calTile_TEMP t) 0 16 := hregs.trans h₁
  clear_value d₃
  exact h
theorem startRun_readings : ((d.startRun t).calOf t).readings = (d.calOf t).readings := by
  unfold startRun
  extract_lets st d₁ d₂ d₃
  have h₁ : d₁.calT = d.calT := setFld_calT ..
  have h₂ : d₂.calT = d₁.calT := (setBit_calT ..).trans ((setBit_calT ..).trans (setBit_calT ..))
  have h₃ : d₃.calT = d₂.calT := foldl_keeps Dev.calT _ _ (fun d n => updChan_calT ..) d₂
  have hsame : (d₃.updCal t (fun (c : CalTile) => { c with borrows := 2 })).calOf t = { d₃.calOf t with borrows := 2 } := SMap.get_set_same ..
  rw [hsame, calOf_of_calT (h₃.trans (h₂.trans h₁))]
theorem wantRun_spec : (d.wantRun t).fld (Reg.calTile_TEMP t) 0 16 = d.fld (Reg.calTile_TEMP t) 0 16 ∧
    ((d.wantRun t).calOf t).readings = (d.calOf t).readings := by
  have hs : Reg.calTile_STATUS t ≠ Reg.calTile_TEMP t := by grind
  have hc : Reg.calTile_CTL t ≠ Reg.calTile_TEMP t := by grind
  unfold wantRun
  split
  · rw [fld_setBit_ne _ _ _ _ _ hc, fld_setBit_ne _ _ _ _ _ hs, calOf_of_calT ((setBit_calT ..).trans (setBit_calT ..))]
    exact ⟨rfl, rfl⟩
  · exact ⟨startRun_temp d, startRun_readings d⟩
end startRun

/-- θ of tile `t` from the readings `rs` (R341). -/
def thetaFrom (d : Dev) (t : Nat) (rs : List Int) : Int := rhe (rs.foldl (· + ·) 0) rs.length + setTsOfs (d.calOf t).set
/-- The tile's readings. -/
def withReadings (d : Dev) (t : Nat) (rs : List Int) : Dev := d.updCal t (fun (c : CalTile) => { c with readings := rs })
/-- The readings and `theta` are shown. -/
def thetaShown (d : Dev) (t : Nat) (rs : List Int) (theta : Int) : Dev :=
  ((d.withReadings t rs).setFld (Reg.calTile_TEMP t) 0 16 (toBits 16 theta)).showTile t

section thetaShown
variable (d : Dev) (t : Fin 6) (rs : List Int) (theta : Int)

theorem withReadings_calOf : (d.withReadings t rs).calOf t = { d.calOf t with readings := rs } := SMap.get_set_same ..
theorem thetaFrom_withReadings : (d.withReadings t rs).thetaFrom t rs = d.thetaFrom t rs := by rw [thetaFrom, withReadings_calOf, thetaFrom]
theorem thetaShown_rd {a : Nat} (ht : Reg.calTile_TEMP t ≠ a) (hs : Reg.calTile_STATUS t ≠ a) (he : Reg.calTile_EVENTS t ≠ a) :
    (d.thetaShown t rs theta).rd a = d.rd a := by
  unfold thetaShown
  rw [showTile_rd _ _ hs he, rd_setFld_ne _ _ _ _ ht]
  rfl
theorem thetaShown_fld (lo w : Nat) : (d.thetaShown t rs theta).fld (Reg.calTile_TEMP t) lo w =
    ((d.withReadings t rs).setFld (Reg.calTile_TEMP t) 0 16 (toBits 16 theta)).fld (Reg.calTile_TEMP t) lo w :=
  congrArg (fun x : Word => bitsOf x.toNat lo w) (showTile_rd _ _ (by grind) (by grind))
theorem thetaShown_fields : (d.thetaShown t rs theta).ec = d.ec ∧ (d.thetaShown t rs theta).chan = d.chan ∧
    (d.thetaShown t rs theta).time = d.time ∧ ((d.thetaShown t rs theta).calOf t).readings = rs := by
  have hshow := showTile_onlyRegs ((d.withReadings t rs).setFld (Reg.calTile_TEMP t) 0 16 (toBits 16 theta)) t
  refine ⟨(onlyRegs_ec hshow).trans (setFld_ec ..), (onlyRegs_chan hshow).trans (setFld_chan ..), (onlyRegs_time hshow).trans (setFld_time ..), ?_⟩
  rw [thetaShown, calOf_of_calT ((onlyRegs_calT hshow).trans (setFld_calT ..)), withReadings_calOf]
theorem sameListeners_thetaShown : sameListeners d (d.thetaShown t rs theta) := by
  have htemp : ¬ inEc (Reg.calTile_TEMP t) := by unfold inEc Reg.calTile_TEMP; omega
  have hcal : sameListeners d (d.withReadings t rs) := sameListeners_of_fields rfl rfl rfl
  exact sameListeners_trans (sameListeners_trans hcal (sameListeners_setFld _ htemp ..)) (sameListeners_showTile ..)
end thetaShown

/-- What a further reading than THRESH does (R344): the source fires and, with AUTO, a run is wanted. -/
def tileMoved (d : Dev) (t : Nat) : Dev := if (d.fireNow (964 + t)).bit (Reg.calTile_CFG t) 24 then (d.fireNow (964 + t)).wantRun t else d.fireNow (964 + t)
/-- How far θ is from θ of the last run. -/
def thetaMoved (d : Dev) (t : Nat) (theta : Int) : Nat := (theta - sext 16 (d.fld (Reg.calTile_TEMP t) 16 16)).natAbs
/-- TEMPERATURE_UPDATE with θ to show. -/
def thetaTaken (d : Dev) (t : Nat) (rs : List Int) (theta : Int) : Dev :=
  if (d.thetaShown t rs theta).thetaMoved t theta ≤ (d.thetaShown t rs theta).fld (Reg.calTile_CFG t) 0 9 then d.thetaShown t rs theta
  else (d.thetaShown t rs theta).tileMoved t
theorem temperatureUpdateD_eq (d : Dev) (t : Fin 6) (new : List Int) : temperatureUpdateD t new d =
    if (new ++ (d.calOf t).readings).take 10 = [] then d
    else d.thetaTaken t ((new ++ (d.calOf t).readings).take 10)
      ((d.withReadings t ((new ++ (d.calOf t).readings).take 10)).thetaFrom t ((new ++ (d.calOf t).readings).take 10)) := rfl

theorem tileMoved_shows {d : Dev} {t : Fin 6} : (d.tileMoved t).fld (Reg.calTile_TEMP t) 0 16 = d.fld (Reg.calTile_TEMP t) 0 16 ∧
    ((d.tileMoved t).calOf t).readings = (d.calOf t).readings := by
  have hfld : (d.fireNow (964 + t)).fld (Reg.calTile_TEMP t) 0 16 = d.fld (Reg.calTile_TEMP t) 0 16 :=
    congrArg (fun x : Word => bitsOf x.toNat 0 16) (rd_of_regs (fireNow_regs d _) _)
  have hcalT : (d.fireNow (964 + t)).calT = d.calT := (congrArg Dev.calT (base_fireNow d _) :)
  have hcal : (d.fireNow (964 + t)).calOf t = d.calOf t := calOf_of_calT hcalT t
  obtain ⟨hwant, hreadings⟩ := wantRun_spec (d.fireNow (964 + t)) (t := t)
  exact iteInduction (motive := fun x : Dev => x.fld (Reg.calTile_TEMP t) 0 16 = d.fld (Reg.calTile_TEMP t) 0 16 ∧
    (x.calOf t).readings = (d.calOf t).readings) (fun _ => ⟨hwant.trans hfld, hreadings.trans (congrArg CalTile.readings hcal)⟩)
    fun _ => ⟨hfld, congrArg CalTile.readings hcal⟩
theorem tileMoved_grows {d : Dev} {t : Fin 6} : inboxGrows (d.fireNow (964 + t)) (d.tileMoved t) :=
  iteInduction (motive := fun x : Dev => inboxGrows (d.fireNow (964 + t)) x) (fun _ => inboxGrows_of_ec (wantRun_ec _)) fun _ => inboxGrows_refl _

theorem temperatureUpdateD_spec {d : Dev} {t : Fin 6} {new rs : List Int} (hnew : new ≠ []) (hrs : rs = (new ++ (d.calOf t).readings).take 10) :
    let moved := (d.thetaFrom t rs - sext 16 (d.fld (Reg.calTile_TEMP t) 16 16)).natAbs
    let d' := temperatureUpdateD t new d
    d'.fld (Reg.calTile_TEMP t) 0 16 = toBits 16 (d.thetaFrom t rs) ∧ (d'.calOf t).readings = rs ∧
      (d.fld (Reg.calTile_CFG t) 0 9 < moved → d.fired d' (964 + t) d.nowT) ∧ (moved ≤ d.fld (Reg.calTile_CFG t) 0 9 → d'.ec = d.ec ∧ d'.chan = d.chan) := by
  intro moved d'
  have hsome : ¬ rs = [] := by
    rw [hrs]
    simp [hnew]
  have heq : d' = d.thetaTaken t rs (d.thetaFrom t rs) := by
    unfold d'
    rw [temperatureUpdateD_eq, ← hrs, if_neg hsome, thetaFrom_withReadings]
  have hshows := thetaShown_fld d t rs (d.thetaFrom t rs)
  have htemp : (d.thetaShown t rs (d.thetaFrom t rs)).fld (Reg.calTile_TEMP t) 0 16 = toBits 16 (d.thetaFrom t rs) :=
    (hshows ..).trans ((fld_setFld_same _ _ _ _ _ (by decide)).trans (Nat.mod_eq_of_lt (toBits_lt ..)))
  have hlast : (d.thetaShown t rs (d.thetaFrom t rs)).fld (Reg.calTile_TEMP t) 16 16 = d.fld (Reg.calTile_TEMP t) 16 16 :=
    (hshows ..).trans (fld_setFld_other _ _ _ _ _ _ _ (by decide) (.inl (by decide)))
  have hrd {a : Nat} := thetaShown_rd d t rs (d.thetaFrom t rs) (a := a)
  have hcfg : (d.thetaShown t rs (d.thetaFrom t rs)).fld (Reg.calTile_CFG t) 0 9 = d.fld (Reg.calTile_CFG t) 0 9 :=
    congrArg (fun x : Word => bitsOf x.toNat 0 9) (hrd (by grind) (by grind) (by grind))
  have hlisten := sameListeners_thetaShown d t rs (d.thetaFrom t rs)
  obtain ⟨hec, hchan, htime, hreadings⟩ := d.thetaShown_fields t rs (d.thetaFrom t rs)
  have hnow : (d.thetaShown t rs (d.thetaFrom t rs)).nowT = d.nowT := nowT_of_rd (hrd (by grind) (by grind) (by grind)) htime
  rw [heq, thetaTaken, thetaMoved, hlast, hcfg]
  generalize d.thetaShown t rs (d.thetaFrom t rs) = x at *
  by_cases hmoved : moved ≤ d.fld (Reg.calTile_CFG t) 0 9
  · rw [if_pos hmoved]
    exact ⟨htemp, hreadings, fun h => absurd hmoved (Nat.not_le.mpr h), fun _ => ⟨hec, hchan⟩⟩
  · rw [if_neg hmoved]
    obtain ⟨hfld, hcal⟩ := tileMoved_shows (d := x) (t := t)
    refine ⟨hfld.trans htemp, hcal.trans hreadings, fun _ => ?_, fun h => absurd h hmoved⟩
    rw [← hnow]
    exact fired_of_fire (by decide) hlisten tileMoved_grows
end Dev

/-- Settles O33: θ is shown with the readings taken, a step moves each value that is not replaced towards its target, and a late set
applies whole. -/
theorem trimsFollowTheTemperature : Obligations.TrimsFollowTheTemperature := by
  intro s t d
  refine ⟨fun new hnew => ?_, fun hlate hheld => ?_, fun hlate hfree hwait => ?_, fun hlate => ?_⟩
  · exact State.runs_of_onDev (exec_temperatureUpdate t new s) rfl (Dev.temperatureUpdateD_spec hnew rfl)
  · refine State.runs_of_onDev (exec_trimStep t s) rfl ?_
    have hstay : Dev.tileStepped t (d.fld (Reg.calTile_CFG t) 16 8 : Nat) d = d := if_pos (Bool.or_eq_true_iff.mpr hheld)
    rw [Dev.trimStepD_of_not_late hlate, hstay]
    exact Dev.onlyRegs_chan (Dev.showTile_onlyRegs d t)
  · refine State.runs_of_onDev (exec_trimStep t s) rfl ?_
    rw [Dev.trimStepD_of_not_late hlate]
    have hs : (0 : Int) ≤ (d.fld (Reg.calTile_CFG t) 16 8 : Nat) := Int.natCast_nonneg _
    obtain ⟨hin, hwork⟩ := Dev.tileStepped_workOf t.isLt hs hfree hwait
    have hchan (n : Nat) := Dev.chanOf_of_chan (Dev.onlyRegs_chan (Dev.showTile_onlyRegs (Dev.tileStepped t (d.fld (Reg.calTile_CFG t) 16 8 : Nat) d) t)) n
    refine fun n _ => ⟨fun hn j hj hm => ?_, fun hn => ?_⟩
    · rw [Dev.workOf_of_chanOf (hchan n), hwork n hn j hj hm, Dev.towards_eq _ _ _ hs]
    · rw [hchan, hin.other n hn]
  · exact State.runs_of_onDev (exec_trimStep t s) rfl (Dev.trimStepD_of_late hlate)
end Sys2Proof.Machine

/-! PROOFS. Calibration runs and FREEZE (R344, R348, R349, R352). -/
namespace Sys2Proof.Machine

theorem exec_run (t : Fin 6) (s : State) : exec (.run t) s = s.onDev (runD t) := rfl
theorem exec_runDone (t : Fin 6) (s : State) : exec (.runDone t () ()) s = s.onDev (runDoneD t) := rfl
theorem exec_freeze (t : Fin 6) (v : Word) (s : State) : exec (.freeze t v) s = s.onDev (freezeD t v) := rfl

theorem locate_calTile_CFG : ∀ t : Fin 6, locate (Reg.calTile_CFG t) = some (.calTile, t.val, 0) := by decide

namespace Dev

/-- Bits 2 and 3 of STATUS: a run is in progress, and one is pending. -/
theorem bit_of_rd {d d' : Dev} {a : Nat} (h : d'.rd a = d.rd a) (i : Nat) : d'.bit a i = d.bit a i := congrArg (fun x : Word => x.toNat.testBit i) h

section startRun
variable (d : Dev) (t : Nat)

theorem updCal_rd (f : CalTile → CalTile) (a : Nat) : (d.updCal t f).rd a = d.rd a := rfl
theorem updCal_chanOf (f : CalTile → CalTile) (n : Nat) : (d.updCal t f).chanOf n = d.chanOf n := rfl
theorem updCal_calOf (f : CalTile → CalTile) : (d.updCal t f).calOf t = f (d.calOf t) := SMap.get_set_same ..

/-- The registers of a run that starts. -/
def runShown (d : Dev) (t : Nat) : Dev :=
  (((d.setFld (Reg.calTile_TEMP t) 16 16 (d.fld (Reg.calTile_TEMP t) 0 16)).setBit (Reg.calTile_STATUS t) 2 true).setBit
    (Reg.calTile_STATUS t) 3 false).setBit (Reg.calTile_CTL t) 0 false
/-- A channel's rotation pass starts (R349). -/
def passBegun (d : Dev) (n : Nat) : Dev := d.updChan n (fun c => { c with passLeft := if d.rotates n then 64 else 0 })
/-- The passes of the tile's channels start. -/
def passesBegun (d : Dev) (t : Nat) : Dev := (tileChans t).foldl passBegun (d.runShown t)
theorem startRun_eq : d.startRun t = (d.passesBegun t).updCal t (fun (c : CalTile) => { c with borrows := 2 }) := rfl

theorem passBegun_regs (n : Nat) : (d.passBegun n).regs = d.regs := updChan_regs ..
theorem passesBegun_regs : (d.passesBegun t).regs = (d.runShown t).regs := foldl_keeps Dev.regs _ _ passBegun_regs _
theorem startRun_shows (a : Nat) : (d.startRun t).rd a = (d.runShown t).rd a := by
  rw [startRun_eq, updCal_rd, rd_of_regs (passesBegun_regs d t)]
variable {d t}

theorem runShown_rd {a : Nat} (htemp : Reg.calTile_TEMP t ≠ a) (hs : Reg.calTile_STATUS t ≠ a) (hc : Reg.calTile_CTL t ≠ a) :
    (d.runShown t).rd a = d.rd a := by
  unfold runShown
  rw [rd_setBit_ne _ _ _ hc, rd_setBit_ne _ _ _ hs, rd_setBit_ne _ _ _ hs, rd_setFld_ne _ _ _ _ htemp]
theorem startRun_rd {a : Nat} (htemp : Reg.calTile_TEMP t ≠ a) (hs : Reg.calTile_STATUS t ≠ a) (hc : Reg.calTile_CTL t ≠ a) :
    (d.startRun t).rd a = d.rd a := (startRun_shows ..).trans (runShown_rd htemp hs hc)
theorem startRun_bits : (d.startRun t).bit (Reg.calTile_STATUS t) 2 = true ∧ (d.startRun t).bit (Reg.calTile_STATUS t) 3 = false := by
  have hc : Reg.calTile_CTL t ≠ Reg.calTile_STATUS t := by grind
  rw [bit_of_rd (startRun_shows d t _), bit_of_rd (startRun_shows d t _), runShown, bit_setBit_ne _ _ _ _ hc, bit_setBit_ne _ _ _ _ hc,
    bit_setBit_other _ _ _ _ _ (by decide) (by decide), bit_setBit_same _ _ _ _ (by decide), bit_setBit_same _ _ _ _ (by decide)]
  exact ⟨rfl, rfl⟩
theorem startRun_last : (d.startRun t).fld (Reg.calTile_TEMP t) 16 16 = d.fld (Reg.calTile_TEMP t) 0 16 := by
  have hs : Reg.calTile_STATUS t ≠ Reg.calTile_TEMP t := by grind
  have hc : Reg.calTile_CTL t ≠ Reg.calTile_TEMP t := by grind
  have hshows : (d.startRun t).fld (Reg.calTile_TEMP t) 16 16 = (d.runShown t).fld (Reg.calTile_TEMP t) 16 16 :=
    congrArg (fun x : Word => bitsOf x.toNat 16 16) (startRun_shows d t _)
  rw [hshows, runShown, fld_setBit_ne _ _ _ _ _ hc, fld_setBit_ne _ _ _ _ _ hs, fld_setBit_ne _ _ _ _ _ hs, fld_setFld_same _ _ _ _ _ (by decide)]
  exact Nat.mod_eq_of_lt (Nat.mod_lt _ (by decide))
theorem startRun_borrows : ((d.startRun t).calOf t).borrows = 2 := by rw [startRun_eq, updCal_calOf]

/-- Whether a channel takes part in rotation is told by registers and its bad source. -/
theorem rotates_of_rd {d d' : Dev} {n : Nat} (hmode : d'.rd (Reg.chn_CFG n) = d.rd (Reg.chn_CFG n)) (hrot : d'.rd (Reg.tile_ROT (n / 16)) = d.rd (Reg.tile_ROT (n / 16)))
    (hbad : (d'.chanOf n).bad = (d.chanOf n).bad) : d'.rotates n = d.rotates n := by
  rw [rotates, chMode, fld, rdN, hmode, bit_of_rd hrot, hbad, rotates, chMode, fld, rdN]

theorem chn_CFG_lt {n : Nat} (hn : n / 16 < 6) : Reg.chn_CFG n < 0xE00000 := by
  unfold Reg.chn_CFG chnBase
  omega
theorem startRun_pass (ht : t < 6) {n : Nat} (hn : n / 16 = t) : ((d.startRun t).chanOf n).passLeft = if d.rotates n then 64 else 0 := by
  have hcfg : Reg.chn_CFG n < 0xE00000 := chn_CFG_lt (hn.symm ▸ ht)
  have hrot : Reg.tile_ROT (n / 16) < 0x1500000 := by unfold Reg.tile_ROT; omega
  have hrd {a : Nat} (ha : a < 0x1500000) : (d.runShown t).rd a = d.rd a := by
    refine runShown_rd ?_ ?_ ?_
    · unfold Reg.calTile_TEMP; omega
    · unfold Reg.calTile_STATUS; omega
    · unfold Reg.calTile_CTL; omega
  have hchan : (d.runShown t).chan = d.chan := by rw [runShown, setBit_chan, setBit_chan, setBit_chan, setFld_chan]
  have hother : ∀ x : Dev, ∀ i ∈ tileChans t, ∀ j, x.regs = (d.runShown t).regs → i ≠ j → (x.passBegun i).chanOf j = x.chanOf j :=
    fun x i _ j _ hij => chanOf_updChan_ne x _ hij
  obtain ⟨d₀, hd₀, hsame, hlast⟩ := foldl_each (P := fun x : Dev => x.regs = (d.runShown t).regs) (q := fun n (x : Dev) => x.chanOf n)
    (fun x i _ hx => (passBegun_regs x i).trans hx) hother (nodup_tileChans t) rfl (mem_tileChans.mpr hn)
  have hrotates : d₀.rotates n = d.rotates n := rotates_of_rd ((rd_of_regs hd₀ _).trans (hrd (by omega))) ((rd_of_regs hd₀ _).trans (hrd hrot))
    (congrArg Chan.bad (hsame.trans (chanOf_of_chan hchan n)))
  rw [startRun_eq, updCal_chanOf, ← hrotates, passesBegun, hlast, passBegun, updChan_chanOf]
end startRun

section wantRun
variable {d : Dev} {t : Nat}

theorem wantRun_of_hindered (h : d.bit (Reg.calTile_STATUS t) 2 = true ∨ d.calFrozen t = true) :
    d.wantRun t = (d.setBit (Reg.calTile_STATUS t) 3 true).setBit (Reg.calTile_CTL t) 0 false := if_pos (Bool.or_eq_true_iff.mpr h)
theorem wantRun_of_free (hrun : d.bit (Reg.calTile_STATUS t) 2 = false) (hfree : d.calFrozen t = false) : d.wantRun t = d.startRun t := by
  unfold wantRun
  rw [hrun, hfree]
  rfl
theorem hindered_spec (h : d.bit (Reg.calTile_STATUS t) 2 = true ∨ d.calFrozen t = true) : (d.wantRun t).bit (Reg.calTile_STATUS t) 3 = true ∧
    (d.wantRun t).bit (Reg.calTile_STATUS t) 2 = d.bit (Reg.calTile_STATUS t) 2 ∧ (d.wantRun t).chan = d.chan := by
  have hc : Reg.calTile_CTL t ≠ Reg.calTile_STATUS t := by grind
  rw [wantRun_of_hindered h]
  refine ⟨?_, ?_, (setBit_chan ..).trans (setBit_chan ..)⟩
  · rw [bit_setBit_ne _ _ _ _ hc, bit_setBit_same _ _ _ _ (by decide)]
  · rw [bit_setBit_ne _ _ _ _ hc, bit_setBit_other _ _ _ _ _ (by decide) (by decide)]
end wantRun

theorem calFrozen_of {d d' : Dev} {t : Nat} (hcfg : d'.rd (Reg.calTile_CFG t) = d.rd (Reg.calTile_CFG t)) (hparity : d'.parity = d.parity) :
    d'.calFrozen t = d.calFrozen t := by rw [calFrozen, bit_of_rd hcfg, corrupt, hparity, calFrozen, corrupt]

section nextRun
variable {d : Dev} {t : Nat}

theorem nextRun_rd {a : Nat} (htemp : Reg.calTile_TEMP t ≠ a) (hs : Reg.calTile_STATUS t ≠ a) (hc : Reg.calTile_CTL t ≠ a) : (d.nextRun t).rd a = d.rd a :=
  iteInduction (motive := fun x : Dev => x.rd a = d.rd a) (fun _ => startRun_rd htemp hs hc) fun _ => rfl
/-- A pending run starts as soon as nothing hinders it. -/
theorem nextRun_bit (hrun : d.bit (Reg.calTile_STATUS t) 2 = false) :
    (d.nextRun t).bit (Reg.calTile_STATUS t) 2 = (d.bit (Reg.calTile_STATUS t) 3 && !d.calFrozen t) := by
  unfold nextRun
  rw [hrun, Bool.not_false, Bool.and_true]
  cases h : d.bit (Reg.calTile_STATUS t) 3 && !d.calFrozen t with
  | true => rw [if_pos rfl, startRun_bits.1]
  | false => rw [if_neg Bool.false_ne_true, hrun]
end nextRun

/-- The end of a run that is complete. -/
def runEnded (d : Dev) (t : Nat) : Dev := ((d.setBit (Reg.calTile_STATUS t) 2 false).raise (Reg.calTile_EVENTS t) 1).bump (Reg.calTile_RUN_CNT t)
theorem runDoneD_of_complete {d : Dev} {t : Fin 6} (hrun : d.bit (Reg.calTile_STATUS t) 2 = true) (hborrows : (d.calOf t).borrows = 0)
    (hpass : ∀ n < 96, n / 16 = t.val → d.rotates n = true → (d.chanOf n).passLeft = 0) : runDoneD t d = (d.runEnded t).nextRun t := by
  refine if_neg ?_
  rintro (h | h | h)
  · rw [hrun] at h
    exact Bool.noConfusion h
  · obtain ⟨n, hn, hleft⟩ := List.any_eq_true.mp h
    obtain ⟨hrot, hpos⟩ := Bool.and_eq_true_iff.mp hleft
    have ht := mem_tileChans.mp hn
    have hzero := hpass n (by omega) ht hrot
    rw [hzero] at hpos
    exact absurd hpos (by decide)
  · omega

theorem runEnded_spec {d : Dev} {t : Nat} :
    (d.runEnded t).bit (Reg.calTile_EVENTS t) 0 = true ∧ (d.runEnded t).rdN (Reg.calTile_RUN_CNT t) = min (2^32 - 1) (d.rdN (Reg.calTile_RUN_CNT t) + 1) ∧
      (d.runEnded t).bit (Reg.calTile_STATUS t) 2 = false ∧ (d.runEnded t).bit (Reg.calTile_STATUS t) 3 = d.bit (Reg.calTile_STATUS t) 3 ∧
      (d.runEnded t).calFrozen t = d.calFrozen t := by
  have hcnt : Reg.calTile_RUN_CNT t ≠ Reg.calTile_EVENTS t := by grind
  have hcnt' : Reg.calTile_RUN_CNT t ≠ Reg.calTile_STATUS t := by grind
  have hev : Reg.calTile_EVENTS t ≠ Reg.calTile_STATUS t := by grind
  unfold runEnded
  refine ⟨?_, ?_, ?_, ?_, calFrozen_of ?_ ?_⟩
  · rw [bit_bump_ne _ _ hcnt, bit_raise_same _ _ _ _ (by decide) (by decide)]
    exact Bool.or_true _
  · rw [rdN_bump_same, rdN_raise_ne _ _ (by grind), rdN_setBit_ne _ _ _ (by grind)]
  · rw [bit_bump_ne _ _ hcnt', bit_raise_ne _ _ _ hev, bit_setBit_same _ _ _ _ (by decide)]
  · rw [bit_bump_ne _ _ hcnt', bit_raise_ne _ _ _ hev, bit_setBit_other _ _ _ _ _ (by decide) (by decide)]
  · rw [rd_bump_ne _ (by grind), rd_raise_ne _ _ (by grind), rd_setBit_ne _ _ _ (by grind)]
  · rw [bump_parity, raise_parity, setBit_parity]

/-! ## FREEZE -/

/-- The register takes the value. -/
def cfgTaken (d : Dev) (t : Nat) (v : Word) : Dev := (d.wr (Reg.calTile_CFG t) (v &&& 0x07FF01FF#32)).endParity (Reg.calTile_CFG t)
theorem cfgTaken_eq (d : Dev) (t : Fin 6) (v : Word) : d.cfgTaken t v =
    (d.wr (Reg.calTile_CFG t) (v &&& 0x07FF01FF#32)).withParity (SMap.set 0 d.parity (Reg.calTile_CFG t) 0) := by
  unfold cfgTaken
  rw [endParity_of_not_chn _ (fun n r h => by rw [locate_calTile_CFG t] at h; cases h)]
  rfl

theorem freezeD_of_answers {d : Dev} {t : Fin 6} {v : Word} (hans : d.answers 0 (Reg.calTile_CFG t) none) {a : Nat} (ha : ∀ n, Reg.chn_SAFE_CTL n ≠ a) :
    (freezeD t v d).rd a = (if bitsOf v.toNat 16 8 = 0 ∨ v.toNat % 2^9 < 8 ∨ 320 < v.toNat % 2^9 then d.refuse 0 (Reg.calTile_CFG t) 6
      else ((d.cfgTaken t v).nextRun t).showTile t).rd a := by
  have hth : bitsOf v.toNat 0 9 = v.toNat % 2^9 := by rw [bitsOf, pow_zero, Nat.div_one]
  rw [← hth]
  exact access_rd hans _ ha

theorem SAFE_CTL_ne_calTile (t : Fin 6) {k : Nat} (hk : k < 0x804) (n : Nat) : Reg.chn_SAFE_CTL n ≠ 0x1510000 + 0x1000 * t + k := by
  unfold Reg.chn_SAFE_CTL chnBase
  omega

section freeze
variable {d : Dev} {t : Fin 6} {v : Word}

theorem freeze_taken (hans : d.answers 0 (Reg.calTile_CFG t) none) (hparity : d.parity = []) (hstep : bitsOf v.toNat 16 8 ≠ 0)
    (hlo : 8 ≤ v.toNat % 2^9) (hhi : v.toNat % 2^9 ≤ 320) : (freezeD t v d).rd (Reg.calTile_CFG t) = v &&& 0x07FF01FF#32 ∧
      (d.bit (Reg.calTile_STATUS t) 3 = true → d.bit (Reg.calTile_STATUS t) 2 = false → v.getLsbD 25 = false →
        (freezeD t v d).bit (Reg.calTile_STATUS t) 2 = true) := by
  have hok : ¬ (bitsOf v.toNat 16 8 = 0 ∨ v.toNat % 2^9 < 8 ∨ 320 < v.toNat % 2^9) := by omega
  have hcfg : (d.cfgTaken t v).rd (Reg.calTile_CFG t) = v &&& 0x07FF01FF#32 := by
    rw [cfgTaken_eq]
    exact SMap.get_set_same ..
  have hstatus (i : Nat) : (d.cfgTaken t v).bit (Reg.calTile_STATUS t) i = d.bit (Reg.calTile_STATUS t) i := by
    refine bit_of_rd ?_ i
    rw [cfgTaken_eq]
    exact rd_wr_ne d _ (by grind)
  have hclean : (d.cfgTaken t v).parity = [] := by
    rw [cfgTaken_eq, hparity]
    rfl
  refine ⟨?_, fun hpend hrun hclear => ?_⟩
  · rw [freezeD_of_answers hans (SAFE_CTL_ne_calTile t (by decide)), if_neg hok, showTile_rd _ _ (by grind) (by grind),
      nextRun_rd (by grind) (by grind) (by grind), hcfg]
  · have hfree : (d.cfgTaken t v).calFrozen t = false := by
      have hbit : (d.cfgTaken t v).bit (Reg.calTile_CFG t) 25 = false := by
        rw [bit, hcfg, BitVec.getLsbD_and, hclear, Bool.false_and]
      rw [calFrozen, hbit, corrupt, hclean]
      rfl
    have hgo : (freezeD t v d).rd (Reg.calTile_STATUS t) = (((d.cfgTaken t v).nextRun t).showTile t).rd (Reg.calTile_STATUS t) := by
      rw [freezeD_of_answers hans (SAFE_CTL_ne_calTile t (by decide)), if_neg hok]
    rw [bit_of_rd hgo, showTile_bit _ _ (by decide) (by decide), nextRun_bit ((hstatus 2).trans hrun), hstatus, hpend, hfree]
    rfl

theorem freeze_refused (hans : d.answers 0 (Reg.calTile_CFG t) none)
    (hbad : bitsOf v.toNat 16 8 = 0 ∨ v.toNat % 2^9 < 8 ∨ 320 < v.toNat % 2^9) :
    (freezeD t v d).rd (Reg.calTile_CFG t) = d.rd (Reg.calTile_CFG t) ∧ (freezeD t v d).bit Reg.glob_ACC_EVENTS 2 = true := by
  have hglob : ∀ n, Reg.chn_SAFE_CTL n ≠ Reg.glob_ACC_EVENTS := fun n => by
    have := chnBase_ge n
    grind
  have hrefuse {a : Nat} (ha : ∀ n, Reg.chn_SAFE_CTL n ≠ a) : (freezeD t v d).rd a = (d.refuse 0 (Reg.calTile_CFG t) 6).rd a := by
    rw [freezeD_of_answers hans ha, if_pos hbad]
  constructor
  · rw [hrefuse (SAFE_CTL_ne_calTile t (by decide))]
    refine refuse_rd _ _ _ _ ?_ ?_
    · unfold fnKey Reg.glob_ACC_LAST
      omega
    · unfold fnKey Reg.glob_ACC_EVENTS
      omega
  · rw [bit_of_rd (hrefuse hglob)]
    unfold refuse accRecord
    exact (bit_raise_same _ _ _ _ (by decide) (by decide)).trans (Bool.or_true _)
end freeze

theorem runD_rd {d : Dev} {t : Fin 6} (hans : d.answers 0 (Reg.calTile_CTL t) none) {k : Nat} (hk : k < 0x804) :
    (runD t d).rd (0x1510000 + 0x1000 * t + k) = (d.wantRun t).rd (0x1510000 + 0x1000 * t + k) := access_rd hans _ (SAFE_CTL_ne_calTile t hk)
end Dev

/-- Settles O34: a run starts, waits and ends as its hindrances say, and FREEZE is checked. -/
theorem calibrationRunsGoOn : Obligations.CalibrationRunsGoOn := by
  intro s t d st
  refine ⟨fun hans => ⟨fun hheld => ?_, fun hrun hfree => ?_⟩, fun hrun hborrows hpass => ?_, fun v hans hparity => ?_⟩
  · obtain ⟨hpend, hsame, hchan⟩ := Dev.hindered_spec hheld
    have hstatus (i : Nat) := Dev.bit_of_rd (Dev.runD_rd hans (k := 8) (by decide)) i
    exact State.runs_of_onDev (exec_run t s) rfl
      ⟨(hstatus 3).trans hpend, (hstatus 2).trans hsame, (Dev.access_keeps hans _ (q := Dev.chan) fun _ _ _ => rfl).trans hchan⟩
  · have hstatus (i : Nat) := Dev.bit_of_rd (Dev.runD_rd hans (k := 8) (by decide)) i
    have htemp : (runD t d).fld (Reg.calTile_TEMP t) 16 16 = (d.wantRun t).fld (Reg.calTile_TEMP t) 16 16 :=
      congrArg (fun x : Word => bitsOf x.toNat 16 16) (Dev.runD_rd hans (k := 0xc) (by decide))
    have hcal : (runD t d).calT = (d.wantRun t).calT := Dev.access_keeps hans _ (q := Dev.calT) fun _ _ _ => rfl
    have hchan : (runD t d).chan = (d.wantRun t).chan := Dev.access_keeps hans _ (q := Dev.chan) fun _ _ _ => rfl
    have hstart := Dev.wantRun_of_free hrun hfree
    obtain ⟨hgoes, hclear⟩ := Dev.startRun_bits (d := d) (t := t)
    rw [hstart] at hstatus htemp hcal hchan
    refine State.runs_of_onDev (exec_run t s) rfl ⟨(hstatus 2).trans hgoes, (hstatus 3).trans hclear, ?_, htemp.trans Dev.startRun_last, fun n _ hn => ?_⟩
    · rw [Dev.calOf_of_calT hcal, Dev.startRun_borrows]
    · rw [Dev.chanOf_of_chan hchan, Dev.startRun_pass t.isLt hn]
  · refine State.runs_of_onDev (exec_runDone t s) rfl ?_
    obtain ⟨hevent, hcnt, hended, hpend, hfrozen⟩ := Dev.runEnded_spec (d := d) (t := t)
    rw [Dev.runDoneD_of_complete hrun hborrows hpass]
    refine ⟨?_, ?_, ?_⟩
    · rw [Dev.bit_of_rd (Dev.nextRun_rd (by grind) (by grind) (by grind)), hevent]
    · rw [Dev.rdN, Dev.nextRun_rd (by grind) (by grind) (by grind)]
      exact hcnt
    · rw [Dev.nextRun_bit hended, hpend, hfrozen]
  · refine ⟨fun hstep hlo hhi => ?_, fun hbad => ?_⟩
    · exact State.runs_of_onDev (exec_freeze t v s) rfl (Dev.freeze_taken hans hparity hstep hlo hhi)
    · exact State.runs_of_onDev (exec_freeze t v s) rfl (Dev.freeze_refused hans hbad)
end Sys2Proof.Machine

/-! PROOFS. Rotation of the unary sources, measurements of the spare, and checks (R190, R345 to R347, R350). -/
namespace Sys2Proof.Machine

theorem exec_rotationSwap (ch : Fin 96) (s : State) : exec (.rotationSwap ch) s = s.onDev (rotationSwapD ch) := rfl
theorem exec_spareMeasurement (ch : Fin 96) (trim : Int) (s : State) : exec (.spareMeasurement ch trim) s = s.onDev (spareMeasurementD ch trim) := rfl
theorem exec_check (ch : Fin 96) (start constant : Bool) (s : State) : exec (.check ch start constant) s = s.onGuarded (checkD ch start constant) := rfl

/-- Rounding to the nearest is off by half a step at most. -/
theorem rhe_near (n : Int) {k : Nat} (hk : 0 < k) : 2 * (rhe n k * k - n).natAbs ≤ k := by
  have hpos : (0 : Int) < k := by omega
  have hdiv := Int.emod_add_mul_ediv n k
  have hlo := Int.emod_nonneg n hpos.ne'
  have hhi := Int.emod_lt_of_pos n hpos
  have hnext : (n / k + 1) * k = n / k * k + k := by ring
  rw [mul_comm] at hdiv
  unfold rhe
  dsimp only
  generalize n / k = q at *
  split
  · omega
  · split
    · rw [hnext]; omega
    · split
      · omega
      · rw [hnext]; omega

theorem sat_eq {lo hi : Int} (h : lo ≤ hi) (x : Int) : sat lo hi x = max lo (min hi x) := by
  unfold sat
  split
  · omega
  · split <;> omega

namespace Dev

/-! ## The swap -/

theorem chn_DAC_STATUS_lt {n : Nat} (hn : n < 96) : Reg.chn_DAC_STATUS n < 0xE00000 := by
  unfold Reg.chn_DAC_STATUS chnBase
  omega

/-- The spare that comes next. -/
def nextSpare (d : Dev) (n : Nat) : Nat := (d.fld (Reg.chn_DAC_STATUS n) 0 6 + 1) % 64
/-- What the swap shows. -/
def swapShown (d : Dev) (n : Nat) : Dev := (d.setFld (Reg.chn_DAC_STATUS n) 0 6 (d.nextSpare n)).bump (Reg.tile_ROT_CNT (n / 16))
theorem rotationSwapD_of_due {d : Dev} {ch : Fin 96} (hrot : d.rotates ch = true) (hmeas : (d.chanOf ch).measured = true) (hdue : d.swapDue ch = true) :
    rotationSwapD ch d = (d.swapShown ch).updChan ch (fun c => { c with
      measured := false, passLeft := c.passLeft - 1, swapAt := some d.nowT,
      map := c.map.map (fun p => if p = d.nextSpare ch then d.fld (Reg.chn_DAC_STATUS ch) 0 6 else p) }) := by
  refine if_neg ?_
  rw [hrot, hmeas, hdue]
  decide
theorem swapDue_of_early {d : Dev} {n t : Nat} (hat : (d.chanOf n).swapAt = some t) (hearly : d.nowT < t + d.swapPeriod n) : d.swapDue n = false := by
  unfold swapDue
  rw [hat]
  exact decide_eq_false (Nat.not_le.mpr hearly)
theorem rotationSwapD_of_hindered {d : Dev} {ch : Fin 96} (h : d.rotates ch = false ∨ (d.chanOf ch).measured = false ∨ d.swapDue ch = false) :
    rotationSwapD ch d = d := by
  refine if_pos ?_
  rcases h with h | h | h
  · exact .inl (by rw [h]; rfl)
  · exact .inr (.inl (by rw [h]; rfl))
  · exact .inr (.inr (by rw [h]; rfl))

theorem swapShown_spec {d : Dev} (ch : Fin 96) : (d.swapShown ch).fld (Reg.chn_DAC_STATUS ch) 0 6 = d.nextSpare ch ∧
    (d.swapShown ch).rdN (Reg.tile_ROT_CNT (ch.val / 16)) = min (2^32 - 1) (d.rdN (Reg.tile_ROT_CNT (ch.val / 16)) + 1) ∧
    (d.swapShown ch).chanOf ch = d.chanOf ch := by
  have hlow := chn_DAC_STATUS_lt ch.isLt
  have hne : Reg.tile_ROT_CNT (ch.val / 16) ≠ Reg.chn_DAC_STATUS ch := by
    unfold Reg.tile_ROT_CNT
    omega
  unfold swapShown
  refine ⟨?_, ?_, chanOf_of_chan ((bump_chan ..).trans (setFld_chan ..)) _⟩
  · rw [fld, rdN_bump_ne _ hne, ← fld, fld_setFld_same _ _ _ _ _ (by decide)]
    exact Nat.mod_eq_of_lt (Nat.mod_lt _ (by decide))
  · rw [rdN_bump_same, rdN_setFld_ne _ _ _ _ hne.symm]

/-! ## The measurement of the spare -/

/-- The trim of source `s` is measured. -/
def spareSet (d : Dev) (n s : Nat) (kept : Int) : Dev :=
  (d.updChan n (fun c => { c with meas := SMap.set none c.meas s (some kept), measured := true })).setWork n s (16 * kept)
/-- The first source outside its range is the channel's bad source. -/
def firstBad (d : Dev) (n s : Nat) : Dev := if (d.chanOf n).bad.isNone then d.updChan n (fun c => { c with bad := some s }) else d
/-- A bad source shows. -/
def badShown (d : Dev) (n s : Nat) : Dev :=
  (d.raise (Reg.calTile_EVENTS (n / 16)) 8).wrN (Reg.calCh_CHK_STATUS n)
    (d.fld (Reg.calCh_CHK_STATUS n) 0 3 + 8 + 16 * s)

/-- A bad source is reported. -/
def badReported (d : Dev) (n s : Nat) (trim : Int) : Dev := (d.badShown n s).faultOf 8 0x80 1 n ((d.badShown n s).chOwner n) [s, toBits 32 trim]
theorem spareMeasurementD_eq {d : Dev} {ch : Fin 96} {trim : Int} (hmode : d.chMode ch ≠ 0) (hvalid : d.timeValid = true) :
    spareMeasurementD ch trim d =
      if sat (-128) 128 trim = trim then d.spareSet ch (d.fld (Reg.chn_DAC_STATUS ch) 0 6) (sat (-128) 128 trim)
      else ((d.spareSet ch (d.fld (Reg.chn_DAC_STATUS ch) 0 6) (sat (-128) 128 trim)).firstBad ch
        (d.fld (Reg.chn_DAC_STATUS ch) 0 6)).badReported ch (d.fld (Reg.chn_DAC_STATUS ch) 0 6) trim := by
  refine if_neg ?_
  rw [hvalid]
  rintro (h | h)
  · exact hmode h
  · exact Bool.noConfusion h

section spare
variable (d : Dev) (n s : Nat) (kept trim : Int)

theorem spareSet_spec : SMap.get none ((d.spareSet n s kept).chanOf n).meas s = some kept ∧ (d.spareSet n s kept).workOf n s = 16 * kept ∧
    ((d.spareSet n s kept).chanOf n).measured = true ∧ ((d.spareSet n s kept).chanOf n).bad = (d.chanOf n).bad := by
  have hchan : (d.spareSet n s kept).chanOf n = { d.chanOf n with
      meas := SMap.set none (d.chanOf n).meas s (some kept), measured := true, work := SMap.set 0 (d.chanOf n).work s (16 * kept) } := by
    rw [spareSet, setWork, chanOf_updChan_same, chanOf_updChan_same]
  refine ⟨?_, setWork_workOf .., ?_, ?_⟩
  · rw [hchan]
    exact SMap.get_set_same none (d.chanOf n).meas s (some kept)
  · rw [hchan]
  · rw [hchan]
theorem firstBad_chanOf : (d.firstBad n s).chanOf n = { d.chanOf n with bad := some ((d.chanOf n).bad.getD s) } := by
  have hsame (c : Chan) (b : Nat) (hb : c.bad = some b) : c = { c with bad := some (c.bad.getD s) } := by rw [hb, Option.getD_some, ← hb]
  unfold firstBad
  split
  · next hnone => rw [chanOf_updChan_same, Option.isNone_iff_eq_none.mp hnone, Option.getD_none]
  · next hsome =>
    obtain ⟨b, hb⟩ := Option.ne_none_iff_exists'.mp fun h => hsome (Option.isNone_iff_eq_none.mpr h)
    exact hsame _ b hb
theorem badShown_chan : (d.badShown n s).chan = d.chan := (wrN_chan ..).trans (raise_chan ..)
theorem badReported_chanOf : (d.badReported n s trim).chanOf n = d.chanOf n := by
  have hchan (x : Dev) (o : Option Nat) (l : List Nat) : (x.faultOf 8 0x80 1 n o l).chan = x.chan :=
    chan_of_base (base_faultOf x 8 0x80 1 n o l rfl)
  rw [badReported, chanOf_of_chan (hchan ..), chanOf_of_chan (badShown_chan d n s)]
theorem badReported_event {n : Nat} (hn : n < 96) : (d.badReported n s trim).bit (Reg.calTile_EVENTS (n / 16)) 3 = true := by
  have hcalm : calmReg (Reg.calTile_EVENTS (n / 16)) := by
    unfold calmReg Reg.calTile_EVENTS
    omega
  have hne : Reg.calCh_CHK_STATUS n ≠ Reg.calTile_EVENTS (n / 16) := by
    unfold Reg.calCh_CHK_STATUS Reg.calTile_EVENTS
    omega
  rw [badReported, bit_of_rd ((stirred_faultOf _ _ _ _ _ _ _).rd _ hcalm), badShown, bit_wrN_ne _ _ _ hne, bit_raise_same _ _ _ _ (by decide) (by decide)]
  exact Bool.or_true _
end spare

theorem spareMeasurementD_spec {d : Dev} {ch : Fin 96} (trim : Int) (hmode : d.chMode ch ≠ 0) (hvalid : d.timeValid = true) :
    let sp := d.fld (Reg.chn_DAC_STATUS ch) 0 6
    let kept := max (-128) (min 128 trim)
    let d' := spareMeasurementD ch trim d
    SMap.get none (d'.chanOf ch).meas sp = some kept ∧ d'.workOf ch sp = 16 * kept ∧ (d'.chanOf ch).measured = true ∧
      (kept = trim → (d'.chanOf ch).bad = (d.chanOf ch).bad) ∧
      (kept ≠ trim → (d'.chanOf ch).bad = some ((d.chanOf ch).bad.getD sp) ∧ d'.bit (Reg.calTile_EVENTS (ch.val / 16)) 3 = true) := by
  intro sp kept d'
  have heq := spareMeasurementD_eq (trim := trim) hmode hvalid
  rw [sat_eq (by decide)] at heq
  obtain ⟨hmeas, hwork, hmeasured, hbad⟩ := spareSet_spec d ch sp kept
  by_cases hin : kept = trim
  · have hd : d' = d.spareSet ch sp kept := heq.trans (if_pos hin)
    rw [hd]
    exact ⟨hmeas, hwork, hmeasured, fun _ => hbad, fun h => absurd hin h⟩
  · have hd : d' = ((d.spareSet ch sp kept).firstBad ch sp).badReported ch sp trim := heq.trans (if_neg hin)
    have hchan := (badReported_chanOf ((d.spareSet ch sp kept).firstBad ch sp) ch sp trim).trans (firstBad_chanOf ..)
    rw [← hd] at hchan
    refine ⟨?_, ?_, ?_, fun h => absurd h hin, fun _ => ⟨?_, ?_⟩⟩
    · rw [hchan, hmeas]
    · rw [workOf, hchan]
      exact hwork
    · rw [hchan, hmeasured]
    · rw [hchan, hbad]
    · rw [hd]
      exact badReported_event _ _ _ ch.isLt

/-! ## Checks -/

/-- A channel cannot be checked where the set does not fit it. -/
theorem not_checkable {d : Dev} {n : Nat} : d.checkable n = false ↔
    setPoints (d.calOf (n / 16)).set = 0 ∨ interpolate (d.calOf (n / 16)).set (d.theta (n / 16)) (chkG (d.calOf (n / 16)).set (n % 16)) ≤ 0 ∨
      chkMode (d.calOf (n / 16)).set (n % 16) 0 % 2 ≠ (if d.bit (Reg.chn_CFG n) 11 then 1 else 0) ∨
      chkFs (d.calOf (n / 16)).set (n % 16) 0 ≠ d.fld (Reg.chn_OUT_CFG n) (8 * (if d.bit (Reg.chn_CFG n) 11 then 1 else 0)) 8 ∨ d.chMode n = 0 := by
  unfold checkable
  simp only [Bool.and_eq_false_iff, bne_eq_false_iff_eq, beq_eq_false_iff_ne, decide_eq_false_iff_not, not_lt, ne_eq]
  tauto

/-- The check that comes next is of a channel that can be checked. -/
theorem checkable_of_next {g : Guard} {d : Dev} {t n : Nat} (h : d.nextCheck g t = some n) : d.checkable n = true :=
  (Bool.and_eq_true_iff.mp (List.find?_some (p := fun n => d.checkable n && d.still g n) h)).1

section start
variable {g : Guard} {d : Dev} {ch : Fin 96} (constant : Bool) (hon : d.bit (Reg.calTile_CFG (ch.val / 16)) 26 = true)
include hon

theorem checkD_skipped (h : d.checkable ch = false) : checkD ch true constant g d = d.setBit (Reg.calCh_CHK_STATUS ch) 2 true := by
  unfold checkD
  dsimp only
  rw [if_pos rfl, hon, h]
  rfl
theorem checkD_started (hnext : d.nextCheck g (ch.val / 16) = some ch.val) (hfree : d.borrowed (ch.val / 16) = false)
    (harmed : d.capState (ch.val / 16) ≠ 1) (htrig : d.capState (ch.val / 16) ≠ 2) :
    checkD ch true constant g d = d.startBorrow (ch.val / 16) { sel := ch.val % 16, check := some (ch.val, d.dacCode g ch) } := by
  have hgo : ¬ (d.borrowed (ch.val / 16) = true ∨ d.capState (ch.val / 16) = 1 ∨ d.capState (ch.val / 16) = 2 ∨
      d.nextCheck g (ch.val / 16) ≠ some ch.val) := by
    rw [hfree]
    rintro (h | h | h | h)
    exacts [Bool.noConfusion h, harmed h, htrig h, h hnext]
  have hcan : d.checkable ch = true := checkable_of_next hnext
  unfold checkD
  dsimp only
  rw [if_pos rfl, hon, hcan]
  exact if_neg hgo
end start

theorem startBorrow_capOf (d : Dev) (k : Nat) (b : Borrow) :
    ((d.startBorrow k b).capOf k).discard = settleLen 128 ∧ ((d.startBorrow k b).capOf k).bor = some b := by
  have hcap : (d.lentTo k (some b)).capOf k = { d.capOf k with bor := some b } := by
    unfold lentTo
    rw [capOf_updCap_same, capOf_of_cap (setBit_cap ..)]
  obtain ⟨_, _, _, _, _, _, hreset⟩ := resetChain_capOf (d.lentTo k (some b)) k
  rw [startBorrow_eq, hreset, hcap]
  exact ⟨rfl, rfl⟩


section done
variable {g : Guard} {d : Dev} {ch : Fin 96} {constant : Bool} {b : Borrow} {code : Int}
  (hbor : (d.capOf (ch.val / 16)).bor = some b) (hcheck : b.check = some (ch.val, code)) (hgot : 16 ≤ b.got)
include hbor hcheck hgot

theorem checkD_over : checkD ch false constant g d =
    if !constant ∨ !d.still g ch ∨ d.dacCode g ch ≠ code then (d.bump (Reg.calTile_CHK_ABORT_CNT (ch.val / 16))).endBorrow (ch.val / 16)
    else d.checkDone ch code b.sum := by
  have hgo : ¬ (ch.val ≠ ch.val ∨ b.got < 16) := by omega
  unfold checkD
  dsimp only
  rw [if_neg Bool.false_ne_true, hbor]
  dsimp only
  rw [hcheck]
  dsimp only
  rw [if_neg hgo]

theorem checkD_aborted (h : constant = false ∨ d.still g ch = false ∨ d.dacCode g ch ≠ code) :
    checkD ch false constant g d = (d.bump (Reg.calTile_CHK_ABORT_CNT (ch.val / 16))).endBorrow (ch.val / 16) := by
  rw [checkD_over hbor hcheck hgot, if_pos]
  rwa [Bool.not_eq_true', Bool.not_eq_true']
theorem checkD_done (hconst : constant = true) (hstill : d.still g ch = true) (hcode : d.dacCode g ch = code) :
    checkD ch false constant g d = d.checkDone ch code b.sum := by
  rw [checkD_over hbor hcheck hgot, if_neg]
  rw [hconst, hstill, hcode]
  rintro (h | h | h)
  exacts [Bool.noConfusion h, Bool.noConfusion h, h rfl]
end done

theorem endBorrow_rd (d : Dev) (k : Nat) {a : Nat} (hs : Reg.cap_STATUS k ≠ a) (hp : Reg.cap_PH k ≠ a) : (d.endBorrow k).rd a = d.rd a := by
  have hlent : (d.lentTo k none).rd a = (d.setBit (Reg.cap_STATUS k) 2 false).rd a := rd_of_regs (updCap_regs ..) a
  rw [endBorrow_eq, resetChain_rd _ _ hs hp, hlent, rd_setBit_ne _ _ _ hs]

/-- The residual of a check is shown. -/
def residualShown (d : Dev) (n : Nat) (r code : Int) : Dev :=
  (((((d.wrN (Reg.calCh_CHK_RES n) (toBits 16 (sat (-32768) 32767 r))).wrN (Reg.calCh_CHK_CODE n) (toBits 16 code)).wr64 (Reg.calCh_CHK_AT_LO n)
    ((d.wrN (Reg.calCh_CHK_RES n) (toBits 16 (sat (-32768) 32767 r))).wrN (Reg.calCh_CHK_CODE n) (toBits 16 code)).nowT).setBit
    (Reg.calCh_CHK_STATUS n) 0 true).setBit (Reg.calCh_CHK_STATUS n) 1 (decide (d.fld (Reg.calTile_CHK_LIMIT (n / 16)) 0 12 < r.natAbs))).setBit
    (Reg.calCh_CHK_STATUS n) 2 false
/-- The turn of the checks goes on, and the digitiser returns. -/
def checkOver (d : Dev) (n : Nat) : Dev := (d.updCal (n / 16) (fun (c : CalTile) => { c with chkNext := (n % 16 + 1) % 16 })).endBorrow (n / 16)
/-- A residual beyond the limit is reported. -/
def checkFailed (d : Dev) (n : Nat) (r code : Int) : Dev :=
  (d.raise (Reg.calTile_EVENTS (n / 16)) 2).faultOf 8 0x81 1 n (d.chOwner n) [toBits 32 r, toBits 32 code]
theorem checkDone_eq (d : Dev) (n : Nat) (code sum : Int) : d.checkDone n code sum =
    if decide (d.fld (Reg.calTile_CHK_LIMIT (n / 16)) 0 12 < (d.residual n code sum).natAbs) then
      ((d.residualShown n (d.residual n code sum) code).checkOver n).checkFailed n (d.residual n code sum) code
    else (d.residualShown n (d.residual n code sum) code).checkOver n := rfl

theorem checkOver_rd (d : Dev) (n : Nat) {a : Nat} (ha : a < 0x1600000) : (d.checkOver n).rd a = d.rd a := by
  rw [checkOver, endBorrow_rd _ _ (by unfold Reg.cap_STATUS; omega) (by unfold Reg.cap_PH; omega), updCal_rd]
theorem checkFailed_rd (d : Dev) (n : Nat) (r code : Int) {a : Nat} (hcalm : calmReg a) (hne : Reg.calTile_EVENTS (n / 16) ≠ a) :
    (d.checkFailed n r code).rd a = d.rd a := by rw [checkFailed, (stirred_faultOf _ _ _ _ _ _ _).rd _ hcalm, rd_raise_ne _ _ hne]
theorem checkOver_borrowed (d : Dev) (n : Nat) : (d.checkOver n).borrowed (n / 16) = false := by
  obtain ⟨hback, -, -⟩ := lentTo_spec (d.updCal (n / 16) (fun (c : CalTile) => { c with chkNext := (n % 16 + 1) % 16 })) (n / 16) none
  rw [checkOver, endBorrow_eq, hback]
  rfl

theorem residualShown_spec (d : Dev) (n : Nat) (r code : Int) :
    (d.residualShown n r code).rdN (Reg.calCh_CHK_RES n) = toBits 16 (sat (-32768) 32767 r) ∧
      (d.residualShown n r code).bit (Reg.calCh_CHK_STATUS n) 0 = true ∧ (d.residualShown n r code).bit (Reg.calCh_CHK_STATUS n) 2 = false ∧
      (d.residualShown n r code).bit (Reg.calCh_CHK_STATUS n) 1 = decide (d.fld (Reg.calTile_CHK_LIMIT (n / 16)) 0 12 < r.natAbs) := by
  have hs : Reg.calCh_CHK_STATUS n ≠ Reg.calCh_CHK_RES n := by grind
  have hlt : toBits 16 (sat (-32768) 32767 r) < 2^32 := (toBits_lt ..).trans (by decide)
  unfold residualShown
  refine ⟨?_, ?_, ?_, ?_⟩
  · rw [rdN_setBit_ne _ _ _ hs, rdN_setBit_ne _ _ _ hs, rdN_setBit_ne _ _ _ hs, rdN_wr64_ne _ _ (by grind) (by grind), rdN_wrN_ne _ _ (by grind),
      rdN_wrN_same, Nat.mod_eq_of_lt hlt]
  · rw [bit_setBit_other _ _ _ _ _ (by decide) (by decide), bit_setBit_other _ _ _ _ _ (by decide) (by decide), bit_setBit_same _ _ _ _ (by decide)]
  · rw [bit_setBit_same _ _ _ _ (by decide)]
  · rw [bit_setBit_other _ _ _ _ _ (by decide) (by decide), bit_setBit_same _ _ _ _ (by decide)]

/-- A check that is done shows what its residual is, and returns the digitiser. -/
theorem checkDone_spec (d : Dev) {n : Nat} (hn : n < 96) (code sum : Int) :
    (∀ k < 0x20, (d.checkDone n code sum).rd (0x1580000 + 0x20 * n + k) = (d.residualShown n (d.residual n code sum) code).rd (0x1580000 + 0x20 * n + k)) ∧
      (d.checkDone n code sum).borrowed (n / 16) = false := by
  have hback := checkOver_borrowed (d.residualShown n (d.residual n code sum) code) n
  have hevents : Reg.calTile_EVENTS (n / 16) ≠ Reg.cap_STATUS (n / 16) := by unfold Reg.calTile_EVENTS Reg.cap_STATUS; omega
  rw [checkDone_eq]
  split
  · refine ⟨fun k hk => ?_, ?_⟩
    · rw [checkFailed_rd _ _ _ _ (by unfold calmReg; omega) (by unfold Reg.calTile_EVENTS; omega), checkOver_rd _ _ (by omega)]
    · rw [borrowed_of_rd (checkFailed_rd _ _ _ _ (calmReg_cap (by omega) (by decide)) hevents), hback]
  · exact ⟨fun k hk => checkOver_rd _ _ (by omega), hback⟩

/-- The residual is the difference rounded to the nearest. -/
theorem residual_near (d : Dev) (n : Nat) (code sum : Int)
    (hg : 0 < interpolate (d.calOf (n / 16)).set (d.theta (n / 16)) (chkG (d.calOf (n / 16)).set (n % 16))) :
    2 * (d.residual n code sum * (1000 * interpolate (d.calOf (n / 16)).set (d.theta (n / 16)) (chkG (d.calOf (n / 16)).set (n % 16))) -
      16 * (2 * 76294 * sum - 1000 * (interpolate (d.calOf (n / 16)).set (d.theta (n / 16)) (chkG (d.calOf (n / 16)).set (n % 16)) * code +
        2048 * interpolate (d.calOf (n / 16)).set (d.theta (n / 16)) (chkO (d.calOf (n / 16)).set (n % 16))))).natAbs ≤
      1000 * (interpolate (d.calOf (n / 16)).set (d.theta (n / 16)) (chkG (d.calOf (n / 16)).set (n % 16))).toNat := by
  unfold residual
  dsimp only
  generalize interpolate (d.calOf (n / 16)).set (d.theta (n / 16)) (chkG (d.calOf (n / 16)).set (n % 16)) = gi at *
  generalize 16 * (2 * 76294 * sum - 1000 * (gi * code + _)) = x
  have hk : ((1000 * gi.toNat : Nat) : Int) = 1000 * gi := by omega
  have hnear := rhe_near x (k := 1000 * gi.toNat) (by omega)
  rwa [hk] at hnear
end Dev

/-- Settles O35: the swap, the spare's measurement, and a check from its start to its end. -/
theorem sourcesRotateAndAreChecked : Obligations.SourcesRotateAndAreChecked := by
  intro s ch d sp
  refine ⟨fun hrot hmeas hdue => ?_, fun h => ?_, fun trim hmode hvalid => ?_, fun constant => ?_⟩
  · obtain ⟨hspare, hcnt, hchan⟩ := Dev.swapShown_spec (d := d) ch
    refine State.runs_of_onDev (exec_rotationSwap ch s) rfl ?_
    rw [Dev.rotationSwapD_of_due hrot hmeas hdue]
    have hregs (f : Chan → Chan) (a : Nat) : ((d.swapShown ch).updChan ch f).rd a = (d.swapShown ch).rd a := Dev.rd_of_regs (Dev.updChan_regs ..) a
    rw [Dev.fld, Dev.rdN, Dev.rdN, hregs, hregs, Dev.chanOf_updChan_same, hchan]
    exact ⟨hspare, rfl, rfl, rfl, hcnt⟩
  · refine State.runs_of_onDev (exec_rotationSwap ch s) rfl (Dev.rotationSwapD_of_hindered ?_)
    exact h.imp_right fun h => h.imp_right fun ⟨_, hat, hearly⟩ => Dev.swapDue_of_early hat hearly
  · exact State.runs_of_onDev (exec_spareMeasurement ch trim s) rfl (Dev.spareMeasurementD_spec trim hmode hvalid)
  · intro t k set st g o mode
    refine ⟨fun hon => ⟨fun hskip => ?_, fun hnext hfree harmed htrig => ?_⟩, fun b code hbor hcheck hgot => ⟨fun h => ?_, fun hg hconst hstill hcode => ?_⟩⟩
    · exact State.runs_of_onGuarded (exec_check ch true constant s) (Dev.checkD_skipped constant hon (Dev.not_checkable.mpr hskip))
    · refine State.runs_of_onGuarded (exec_check ch true constant s) ?_
      rw [Dev.checkD_started constant hon hnext hfree harmed htrig]
      obtain ⟨hlent, hkept, -⟩ := Dev.lentTo_spec d t (some { sel := k, check := some (ch.val, d.dacCode s.guard ch) })
      obtain ⟨hdiscard, hborrow⟩ := d.startBorrow_capOf t { sel := k, check := some (ch.val, d.dacCode s.guard ch) }
      exact ⟨hlent, hkept, hdiscard, hborrow⟩
    · refine State.runs_of_onGuarded (exec_check ch false constant s) ?_
      rw [Dev.checkD_aborted hbor hcheck hgot h]
      obtain ⟨hback, -, -⟩ := Dev.lentTo_spec (d.bump (Reg.calTile_CHK_ABORT_CNT t)) t none
      have hlow : t < 6 := by omega
      have hcnt : Reg.calTile_CHK_ABORT_CNT t ≠ st := by
        unfold Reg.calTile_CHK_ABORT_CNT st Reg.calCh_CHK_STATUS
        omega
      refine ⟨?_, ?_, hback⟩
      · rw [Dev.endBorrow_rd _ _ (by unfold Reg.cap_STATUS st Reg.calCh_CHK_STATUS; omega) (by unfold Reg.cap_PH st Reg.calCh_CHK_STATUS; omega),
          Dev.rd_bump_ne _ hcnt]
      · rw [Dev.rdN, Dev.endBorrow_rd _ _ (by unfold Reg.cap_STATUS Reg.calTile_CHK_ABORT_CNT; omega)
          (by unfold Reg.cap_PH Reg.calTile_CHK_ABORT_CNT; omega)]
        exact Dev.rdN_bump_same ..
    · refine State.runs_of_onGuarded (exec_check ch false constant s) ?_
      rw [Dev.checkD_done hbor hcheck hgot hconst hstill hcode]
      obtain ⟨hrd, hback⟩ := d.checkDone_spec ch.isLt code b.sum
      obtain ⟨hres, hset, hclear, hfail⟩ := d.residualShown_spec ch (d.residual ch code b.sum) code
      refine ⟨d.residual ch code b.sum, d.residual_near ch code b.sum hg, ?_, ?_, ?_, ?_, hback⟩
      · rw [← sat_eq (by decide), ← hres]
        exact congrArg BitVec.toNat (hrd 0 (by decide))
      · exact (Dev.bit_of_rd (hrd 0x10 (by decide)) 0).trans hset
      · exact (Dev.bit_of_rd (hrd 0x10 (by decide)) 2).trans hclear
      · rw [Dev.bit_of_rd (hrd 0x10 (by decide)) 1]
        exact (congrArg (· = true) hfail).to_iff.trans decide_eq_true_iff
end Sys2Proof.Machine

/-! PROOFS. What faults and the loss of time leave of the channels: their modes and their safe holds. -/
namespace Sys2Proof.Machine

/-- A value listed at a key stays first there where other entries are dropped or changed in a way that keeps a property of it. -/
theorem SMap.get_map_filter {α : Type} (d : α) {P : α → Prop} (f : Nat × α → Nat × α) (keep : Nat × α → Bool) (hd : ¬ P d) (hkey : ∀ p, (f p).1 = p.1)
    (hP : ∀ p, P p.2 → P (f p).2) (hkeep : ∀ p, P p.2 → keep p = true) (m : SMap α) {k : Nat} (h : P (SMap.get d m k)) :
    P (SMap.get d ((m.map f).filter keep) k) := by
  induction m with
  | nil => exact absurd h hd
  | cons p r ih =>
    unfold SMap.get at h ih ⊢
    rw [List.map_cons]
    rw [List.find?_cons] at h
    by_cases hk : p.1 = k
    · have hp : P p.2 := by simpa [hk] using h
      rw [List.filter_cons, if_pos (hkeep _ (hP _ hp)), List.find?_cons, hkey, hk, beq_self_eq_true]
      exact hP _ hp
    · have hne : (p.1 == k) = false := beq_eq_false_iff_ne.mpr hk
      rw [hne] at h
      have hrest := ih h
      by_cases hkept : keep (f p) = true
      · rw [List.filter_cons, if_pos hkept, List.find?_cons, hkey, hne]
        exact hrest
      · rw [List.filter_cons, if_neg hkept]
        exact hrest

namespace Dev

/-- Offsets of the registers of a channel that faults and the loss of time write. -/
def stirredOffset (o : Nat) : Prop := o = 0x1804 ∨ o = 0x2400 ∨ o = 0x2440 ∨ o = 0x3000
/-- Registers of channels and of DRAM that no fault and no loss of time writes. -/
def stillReg (a : Nat) : Prop := (∃ n < 96, ∃ o < 0x4000, ¬ stirredOffset o ∧ chnBase n + o = a) ∨ (0x1000000 ≤ a ∧ a < 0x1200000)

theorem chn_lt {n o : Nat} (hn : n < 96) (ho : o < 0x4000) : chnBase n + o < 0xE00000 := by
  unfold chnBase
  omega
theorem notStill_of_low {a : Nat} (h : a < 0x800000) : ¬ stillReg a := by
  rintro (⟨n, -, o, -, -, rfl⟩ | hdram)
  · have := chnBase_ge n
    omega
  · omega
theorem notStill_of_high {a : Nat} (h : 0x1200000 ≤ a) : ¬ stillReg a := by
  rintro (⟨n, hn, o, ho, -, rfl⟩ | hdram)
  · have := chn_lt hn ho
    omega
  · omega
theorem notStill_chn {n : Nat} (hn : n < 96) {o : Nat} (h : stirredOffset o) : ¬ stillReg (chnBase n + o) := by
  have ho : o < 0x4000 := by
    unfold stirredOffset at h
    omega
  rintro (⟨m, -, o', ho', hnot, hm⟩ | hdram)
  · by_cases heq : o' = o
    · exact hnot (heq ▸ h)
    · exact chn_place_ne m n heq ho' ho hm
  · have := chn_lt hn ho
    omega

/-- Such registers stay and, where a channel is held, its safe hold. -/
structure keepsHolds (d d' : Dev) : Prop where
  still : ∀ a, stillReg a → d'.rd a = d.rd a
  hold : ∀ n, (d.chanOf n).hold = true → (d'.chanOf n).hold = true

theorem keepsHolds.cfg {d d' : Dev} (h : keepsHolds d d') (n : Nat) (hn : n < 96) : d'.rd (Reg.chn_CFG n) = d.rd (Reg.chn_CFG n) :=
  h.still _ (.inl ⟨n, hn, 0, by decide, by unfold stirredOffset; decide, rfl⟩)
theorem keepsHolds.chn {d d' : Dev} (h : keepsHolds d d') {n o : Nat} (hn : n < 96) (ho : o < 0x4000) (hnot : ¬ stirredOffset o) :
    d'.rd (chnBase n + o) = d.rd (chnBase n + o) := h.still _ (.inl ⟨n, hn, o, ho, hnot, rfl⟩)
theorem keepsHolds.dram {d d' : Dev} (h : keepsHolds d d') {a : Nat} (ha : 0x1000000 ≤ a ∧ a < 0x1200000) : d'.rd a = d.rd a := h.still _ (.inr ha)

section keepsHolds
variable (d : Dev)

theorem keepsHolds_refl : keepsHolds d d := ⟨fun _ _ => rfl, fun _ h => h⟩
variable {d} in
theorem keepsHolds_trans {d' d'' : Dev} (h : keepsHolds d d') (h' : keepsHolds d' d'') : keepsHolds d d'' :=
  ⟨fun a ha => (h'.still a ha).trans (h.still a ha), fun n hn => h'.hold n (h.hold n hn)⟩
variable {d} in
theorem keepsHolds_ite {d' d'' : Dev} {p : Prop} [Decidable p] (h : p → keepsHolds d d') (h' : ¬ p → keepsHolds d d'') :
    keepsHolds d (if p then d' else d'') := iteInduction (motive := fun x => keepsHolds d x) h h'
theorem keepsHolds_foldl {α : Type} (l : List α) {f : Dev → α → Dev} (h : ∀ x ∈ l, ∀ d, keepsHolds d (f d x)) : keepsHolds d (l.foldl f d) :=
  foldl_invariant (P := fun x => keepsHolds d x) (fun x i hi hx => keepsHolds_trans hx (h i hi x)) (keepsHolds_refl d)
variable {d} in
theorem keepsHolds_of_chan {d' : Dev} (hregs : ∀ a, stillReg a → d'.rd a = d.rd a) (hchan : d'.chan = d.chan) : keepsHolds d d' :=
  ⟨hregs, fun n h => by rwa [chanOf_of_chan hchan n]⟩
variable {d} in
theorem keepsHolds_of_parts {d' : Dev} (hregs : d'.regs = d.regs) (hchan : d'.chan = d.chan) : keepsHolds d d' :=
  keepsHolds_of_chan (fun _ _ => rd_of_regs hregs _) hchan

section writes
variable {a : Nat} (h : ¬ stillReg a)
include h
theorem keepsHolds_wrN (v : Nat) : keepsHolds d (d.wrN a v) := keepsHolds_of_chan (fun _ hb => rd_wrN_ne _ _ (by rintro rfl; exact h hb)) (wrN_chan ..)
theorem keepsHolds_setFld (lo w v : Nat) : keepsHolds d (d.setFld a lo w v) := keepsHolds_wrN d h _
theorem keepsHolds_setBit (i : Nat) (b : Bool) : keepsHolds d (d.setBit a i b) := keepsHolds_wrN d h _
theorem keepsHolds_raise (m : Nat) : keepsHolds d (d.raise a m) := keepsHolds_wrN d h _
theorem keepsHolds_bump : keepsHolds d (d.bump a) := keepsHolds_wrN d h _
end writes

theorem keepsHolds_updChan (n : Nat) {f : Chan → Chan} (hf : ∀ c : Chan, c.hold = true → (f c).hold = true) : keepsHolds d (d.updChan n f) where
  still _ _ := rd_of_regs (updChan_regs ..) _
  hold m hm := by
    by_cases h : n = m
    · rw [h] at *
      rw [chanOf_updChan_same]
      exact hf _ hm
    · rwa [chanOf_updChan_ne _ _ h]

/-! ## Faults -/

theorem keepsHolds_fireAs {src stamp gen : Nat} (co la : Bool) (h : gen < 8) : keepsHolds d (d.fireAs src stamp gen co la) :=
  keepsHolds_of_parts (fireAs_regs _ _ _ _ _ _ h) (chan_of_base (base_fireAs ..))
theorem keepsHolds_fire (src stamp : Nat) : keepsHolds d (d.fire src stamp 0) := by
  unfold fire
  exact keepsHolds_fireAs d _ _ (by decide)
theorem keepsHolds_fireNow (src : Nat) : keepsHolds d (d.fireNow src) := keepsHolds_fire ..
theorem keepsHolds_signal (fn vec : Nat) : keepsHolds d (d.signal fn vec) := by
  unfold signal
  refine keepsHolds_ite (fun _ => keepsHolds_refl d) fun h => keepsHolds_ite (fun _ => keepsHolds_setBit d ?_ ..) fun _ => ?_
  · exact notStill_of_high (by unfold msixPba fnKey; omega)
  · exact keepsHolds_of_parts rfl (chan_of_base (base_msixSend ..))
theorem keepsHolds_notifyFault (c t : Nat) : keepsHolds d (d.notifyFault c t) := by
  unfold notifyFault
  exact keepsHolds_ite (fun _ => keepsHolds_trans (keepsHolds_fire ..) (keepsHolds_signal ..)) fun _ => keepsHolds_refl d

theorem keepsHolds_setHold {n : Nat} (hn : n < 96) (mask : Nat) : keepsHolds d (d.setHold n mask) := by
  unfold setHold
  exact keepsHolds_trans (keepsHolds_setFld d (notStill_chn hn (by unfold stirredOffset; decide)) ..) (keepsHolds_updChan _ _ fun _ _ => rfl)
theorem keepsHolds_holdLive (mask : Nat) : keepsHolds d (d.holdLive mask) :=
  keepsHolds_foldl d _ fun _ hn d => keepsHolds_setHold d (List.mem_range.mp (List.mem_of_mem_filter hn)) mask

theorem keepsHolds_giveUpRing (n : Nat) : keepsHolds d (d.giveUpRing n) := by
  unfold giveUpRing
  extract_lets a
  refine keepsHolds_ite (fun h => ?_) fun _ => keepsHolds_refl d
  have hn : n < 96 := by grind
  exact keepsHolds_setFld d (notStill_chn hn (by unfold stirredOffset; decide)) ..
theorem keepsHolds_settleClaims : keepsHolds d d.settleClaims where
  still a ha := by
    have hrings (x : Dev) (l : List Nat) : keepsHolds x (l.foldl (fun (d : Dev) (n : Nat) => d.giveUpRing n) x) :=
      keepsHolds_foldl x l fun n _ d => keepsHolds_giveUpRing d n
    unfold settleClaims
    extract_lets ended freed rings
    have hregs : freed.regs = d.regs := rfl
    have hlines (x : Dev) (l : List Nat) : ((l.foldl (fun (d : Dev) (k : Nat) =>
        if d.held (Reg.mk_DELAY k) && ended.contains (d.fld (Reg.mk_CFG k) 2 7) then d.settle (Reg.mk_DELAY k) else d) x)).regs = x.regs :=
      foldl_keeps Dev.regs _ _ (fun d k => by split <;> rfl) x
    refine iteInduction (motive := fun x : Dev => x.rd a = d.rd a) (fun _ => rd_of_regs hregs _) fun _ => ?_
    rw [rd_of_regs (hlines rings _)]
    exact ((hrings freed ended).still a ha).trans (rd_of_regs hregs _)
  hold n hn := by
    have hkept := SMap.get_map_filter ({} : Chan) (P := fun c => c.hold = true)
      (fun p => (p.1, if d.endedClaims.contains p.1 then { p.2 with claim := none } else p.2)) (fun p => decide (p.2 ≠ {})) Bool.false_ne_true (fun _ => rfl)
      (fun p hp => by split <;> exact hp) (fun p hp => decide_eq_true (by rintro h; rw [h] at hp; exact Bool.noConfusion hp)) d.chan hn
    rwa [chanOf, settleClaims_chan]

/-- A step of the stop of a context that changes no register and no channel. -/
theorem keepsHolds_unmirror (e c : Nat) : keepsHolds d (d.unmirror e c) := by
  have hfold (l : List (Nat × Word)) (x : Dev) : keepsHolds x (l.foldr (fun (p : Nat × Word) d => d.setCtxW c p.1 p.2) x) := by
    induction l with
    | nil => exact keepsHolds_refl x
    | cons p r ih => exact keepsHolds_trans ih (keepsHolds_of_parts rfl (setCtxW_chan ..))
  unfold unmirror
  exact keepsHolds_trans (hfold ..) (keepsHolds_of_parts (updEng_regs ..) (updEng_chan ..))
theorem keepsHolds_unbind {e : Nat} (he : e < 64) : keepsHolds d (d.unbind e) := by
  unfold unbind
  exact keepsHolds_trans (keepsHolds_setFld d (notStill_of_low (by unfold Reg.eng_STATUS; omega)) ..)
    (keepsHolds_of_parts (updEng_regs ..) (updEng_chan ..))
theorem keepsHolds_leave (c s : Nat) : keepsHolds d (d.leave c s) := by
  unfold leave
  split
  · exact keepsHolds_trans (keepsHolds_of_parts (setCtxState_regs ..) (setCtxW_chan ..)) (keepsHolds_settleClaims _)
  · rename_i e he
    extract_lets d₁ d₂
    have h₁ : keepsHolds d d₁ := keepsHolds_trans (keepsHolds_trans (keepsHolds_of_parts (keepLive_regs ..) (updEng_chan ..)) (keepsHolds_unmirror ..))
      (keepsHolds_of_parts (setCtx64_regs ..) (setCtx64_chan ..))
    have h₂ : keepsHolds d₁ d₂ := keepsHolds_of_parts (setCtxFld_regs ..) (setCtxFld_chan ..)
    clear_value d₁ d₂
    have hstate : keepsHolds d₂ ((d₂.setCtxState c s).setCtxFld c 0 8 7 0) :=
      keepsHolds_of_parts ((setCtxFld_regs ..).trans (setCtxState_regs ..)) ((setCtxFld_chan ..).trans (setCtxW_chan ..))
    exact keepsHolds_trans (keepsHolds_trans (keepsHolds_trans h₁ h₂) (keepsHolds_trans hstate (keepsHolds_unbind _ (ctxEng_lt d he)))) (keepsHolds_settleClaims _)
/-- A change of every channel that keeps the safe holds. -/
theorem hold_of_mapVals {f : Nat → Chan → Chan} (hf : ∀ n c, c.hold = true → (f n c).hold = true) {m : SMap Chan} {n : Nat}
    (h : (SMap.get {} m n).hold = true) : (SMap.get {} (SMap.mapVals {} m f) n).hold = true :=
  SMap.get_map_filter ({} : Chan) (P := fun c => c.hold = true) (fun p => (p.1, f p.1 p.2)) (fun p => decide (p.2 ≠ {})) Bool.false_ne_true (fun _ => rfl)
    (fun p hp => hf p.1 p.2 hp) (fun p hp => decide_eq_true (by rintro h; rw [h] at hp; exact Bool.noConfusion hp)) m h
theorem keepsHolds_withdraw (c t : Nat) : keepsHolds d (d.withdraw c t) where
  still _ _ := rfl
  hold _ hn := by
    unfold chanOf withdraw
    dsimp only
    refine hold_of_mapVals ?_ hn
    exact fun _ _ h => h
theorem keepsHolds_stopCtx (c : Nat) (wd : Bool) : keepsHolds d (d.stopCtx c wd) := by
  unfold stopCtx
  extract_lets d₁
  have h₁ : keepsHolds d d₁ := keepsHolds_ite (fun _ => keepsHolds_withdraw ..) fun _ => keepsHolds_refl d
  exact keepsHolds_ite (fun _ => keepsHolds_trans h₁ (keepsHolds_leave ..)) fun _ => keepsHolds_refl d
theorem keepsHolds_stopAll (f : Nat → Bool) (wd : Bool) : keepsHolds d (d.stopAll f wd) := keepsHolds_foldl d _ fun c _ d => keepsHolds_stopCtx d c wd

theorem keepsHolds_enterDsafe (c : Nat) (w : List Nat) : keepsHolds d (d.enterDsafe c w) := by
  unfold enterDsafe
  extract_lets marked kept stopped held dark
  have hmarked : keepsHolds d marked :=
    keepsHolds_trans (keepsHolds_setBit d (notStill_of_high (by decide)) ..) (keepsHolds_setFld _ (notStill_of_high (by decide)) ..)
  have hkept : keepsHolds marked kept := keepsHolds_foldl _ _ fun i _ d => keepsHolds_wrN d (notStill_of_high (by grind)) _
  have hstopped : keepsHolds kept stopped := keepsHolds_stopAll ..
  have hheld : keepsHolds stopped held := keepsHolds_holdLive ..
  have hdark : keepsHolds held dark := keepsHolds_of_parts rfl rfl
  clear_value marked kept stopped held dark
  refine keepsHolds_trans (keepsHolds_trans (keepsHolds_trans (keepsHolds_trans (keepsHolds_trans hmarked hkept) hstopped) hheld) hdark) ?_
  refine keepsHolds_foldl _ _ fun k hk d => ?_
  have hlow : Reg.to_STATUS k < 0x800000 := by
    have := List.mem_range.mp hk
    unfold Reg.to_STATUS
    omega
  exact keepsHolds_trans (keepsHolds_setBit d (notStill_of_low hlow) ..) (keepsHolds_of_parts (updTout_regs ..) (updTout_chan ..))
theorem keepsHolds_setFaultQ (c : Nat) (q : List FaultRec) : keepsHolds d (d.setFaultQ c q) :=
  keepsHolds_trans (keepsHolds_of_parts (d' := { d with faults := SMap.set [] d.faults c q }) rfl rfl) (keepsHolds_setBit _ (notStill_of_high (by decide)) ..)
theorem keepsHolds_fault (c : Nat) (r : FaultRec) : keepsHolds d (d.fault c r) := by
  have hocc : keepsHolds d (d.bump (Reg.faultQ_OCC_CNT c)) := keepsHolds_bump d (notStill_of_high (by grind))
  have hentered (d : Dev) (esc : Bool) (w : List Nat) : keepsHolds d (if esc && !d.dsafe then d.enterDsafe c w else d) :=
    keepsHolds_ite (fun _ => keepsHolds_enterDsafe ..) fun _ => keepsHolds_refl d
  have htold (d : Dev) (m t : Nat) : keepsHolds d ((d.raise Reg.fault_EVENTS m).notifyFault c t) :=
    keepsHolds_trans (keepsHolds_raise d (notStill_of_high (by decide)) m) (keepsHolds_notifyFault ..)
  have hid (d : Dev) (n : Nat) : keepsHolds d { d with faultId := n } := keepsHolds_of_parts rfl rfl
  unfold fault
  dsimp only
  refine keepsHolds_trans (keepsHolds_trans ?_ (htold ..)) (hentered ..)
  split
  · exact keepsHolds_trans hocc (keepsHolds_setFaultQ ..)
  · split
    · exact keepsHolds_trans (keepsHolds_trans (keepsHolds_trans hocc (hid ..)) (keepsHolds_setFaultQ ..)) (keepsHolds_bump _ (notStill_of_high (by decide)))
    · exact keepsHolds_trans (keepsHolds_trans hocc (keepsHolds_bump _ (notStill_of_high (by grind)))) (keepsHolds_setFaultQ ..)
theorem keepsHolds_faultNow (c code kind obj : Nat) (detail : List Nat) : keepsHolds d (d.faultNow c code kind obj detail) := keepsHolds_fault ..
theorem keepsHolds_faultOf (c code kind obj : Nat) (owner : Option Nat) (detail : List Nat) :
    keepsHolds d (d.faultOf c code kind obj owner detail) := keepsHolds_fault ..
end keepsHolds
end Dev
end Sys2Proof.Machine

/-! PROOFS. The loss of device time (R34 to R37): what it sets, and what it leaves as it is. -/
namespace Sys2Proof.Machine
namespace Dev

/-- The device without what faults and the loss of time change. -/
def quietPart (d : Dev) : Dev := { d.calmPart with time := { d.calmPart.time with anchor := none } }

/-- No more has changed than faults and the loss of time change, beyond the registers of time; safe holds stay. -/
structure quieted (d d' : Dev) : Prop where
  part : d'.quietPart = d.quietPart
  rd : ∀ a, calmReg a → d'.rd a = d.rd a
  holds : keepsHolds d d'

section quieted
variable (d : Dev)

theorem quieted_refl : quieted d d := ⟨rfl, fun _ _ => rfl, keepsHolds_refl d⟩
variable {d} in
theorem quieted_trans {d' d'' : Dev} (h : quieted d d') (h' : quieted d' d'') : quieted d d'' :=
  ⟨h'.part.trans h.part, fun a ha => (h'.rd a ha).trans (h.rd a ha), keepsHolds_trans h.holds h'.holds⟩
variable {d} in
theorem quieted_ite {d' d'' : Dev} {p : Prop} [Decidable p] (h : p → quieted d d') (h' : ¬ p → quieted d d'') : quieted d (if p then d' else d'') :=
  iteInduction (motive := fun x => quieted d x) h h'
theorem quieted_foldl {α : Type} (l : List α) {f : Dev → α → Dev} (h : ∀ x ∈ l, ∀ d, quieted d (f d x)) : quieted d (l.foldl f d) :=
  foldl_invariant (P := fun x => quieted d x) (fun x i hi hx => quieted_trans hx (h i hi x)) (quieted_refl d)
variable {d} in
theorem quieted_of_stirred {d' : Dev} (h : stirred d d') (hk : keepsHolds d d') : quieted d d' :=
  ⟨by rw [quietPart, h.calm, quietPart], h.rd, hk⟩
variable {d} in
theorem quieted_of_parts {d' : Dev} (hpart : d'.quietPart = d.quietPart) (hregs : d'.regs = d.regs) (hchan : d'.chan = d.chan) : quieted d d' :=
  ⟨hpart, fun _ _ => rd_of_regs hregs _, keepsHolds_of_parts hregs hchan⟩

theorem quieted_wrN {a : Nat} (h : ¬ calmReg a) (h' : ¬ stillReg a) (v : Nat) : quieted d (d.wrN a v) := quieted_of_stirred (stirred_wrN d h v) (keepsHolds_wrN d h' v)
theorem quieted_updChan (n : Nat) {f : Chan → Chan} (hf : ∀ c : Chan, c.hold = true → (f c).hold = true) : quieted d (d.updChan n f) :=
  quieted_of_stirred (stirred_updChan d n f) (keepsHolds_updChan d n hf)
theorem quieted_settleClaims : quieted d d.settleClaims := quieted_of_stirred (stirred_settleClaims d) (keepsHolds_settleClaims d)
theorem quieted_holdLive (mask : Nat) : quieted d (d.holdLive mask) := quieted_of_stirred (stirred_holdLive d mask) (keepsHolds_holdLive d mask)
theorem quieted_fireNow (src : Nat) : quieted d (d.fireNow src) := quieted_of_stirred (stirred_fireNow d src) (keepsHolds_fireNow d src)
theorem quieted_faultNow (c code kind obj : Nat) (detail : List Nat) : quieted d (d.faultNow c code kind obj detail) :=
  quieted_of_stirred (stirred_faultNow ..) (keepsHolds_faultNow ..)

/-! ## Exceptions -/

section exception
variable {e : Nat} (he : e < 64)
include he
theorem not_calm_eng {o : Nat} (ho : o < 0x4000) : ¬ calmReg (0x400000 + 0x4000 * e + o) := by
  unfold calmReg
  omega
theorem notStill_eng {o : Nat} (ho : o < 0x4000) : ¬ stillReg (0x400000 + 0x4000 * e + o) := notStill_of_low (by omega)
theorem quieted_putExc (w : List Nat) : quieted d (d.putExc e w) := by
  unfold putExc
  have hwords : quieted d ((List.range 8).foldl (fun (d : Dev) i => d.wrN (Reg.eng_EXC e i) (w.getD i 0)) d) :=
    quieted_foldl d _ fun i hi d => by
      have := List.mem_range.mp hi
      have hat : Reg.eng_EXC e i = 0x400000 + 0x4000 * e + (0x200 + 4 * i) := Nat.add_assoc ..
      rw [hat]
      exact quieted_wrN d (not_calm_eng he (by omega)) (notStill_eng he (by omega)) _
  exact quieted_trans hwords (quieted_of_stirred (stirred_updEng ..) (keepsHolds_of_parts (updEng_regs ..) (updEng_chan ..)))
theorem quieted_recordExc (c code detail : Nat) : quieted d (d.recordExc e c code detail) := by
  unfold recordExc
  extract_lets w d₁ d₂ d₃
  have h₁ : quieted d d₁ := by
    refine quieted_trans (quieted_putExc d he w) (quieted_foldl _ _ fun i _ d => ?_)
    exact quieted_of_stirred (stirred_setCtxW ..) (keepsHolds_of_parts (setCtxW_regs ..) (setCtxW_chan ..))
  have h₂ : quieted d₁ d₂ := quieted_wrN _ (not_calm_eng he (by decide)) (notStill_eng he (by decide)) _
  have h₃ : quieted d₂ d₃ := quieted_ite (fun _ => quieted_fireNow ..) fun _ => quieted_refl _
  exact quieted_trans (quieted_trans (quieted_trans h₁ h₂) h₃) (quieted_of_stirred (stirred_faultOf ..) (keepsHolds_faultOf ..))
theorem quieted_raiseExc (c code detail : Nat) (hcode : code ≠ 7) : quieted d (d.raiseExc e c code detail) := by
  unfold raiseExc
  rw [if_neg hcode]
  exact quieted_trans (quieted_recordExc d he ..) (quieted_of_stirred (stirred_leave ..) (keepsHolds_leave ..))
end exception

/-! ## What the loss of time ends -/

theorem quieted_dropFrameActs {n : Nat} (hn : n < 96) : quieted d (d.dropFrameActs n) := by
  unfold dropFrameActs
  extract_lets host d₁
  have h₁ : quieted d d₁ := quieted_updChan d n fun _ h => h
  refine quieted_ite (fun _ => quieted_refl d) fun _ => quieted_ite (fun _ => ?_) fun _ => h₁
  exact quieted_trans h₁ (quieted_trans (quieted_wrN _ (not_calm_chn hn (by decide)) (notStill_chn hn (by unfold stirredOffset; decide)) _)
    (quieted_wrN _ (not_calm_chn hn (by decide)) (notStill_chn hn (by unfold stirredOffset; decide)) _))
theorem quieted_settle (a : Nat) : quieted d (d.settle a) := quieted_of_parts rfl rfl rfl
theorem quieted_applyFi (k : Nat) : quieted d (d.applyFi k) := by
  unfold applyFi
  exact quieted_ite (fun _ => quieted_refl d) fun _ => quieted_foldl d _ fun a _ d => quieted_settle d a
theorem quieted_refreshLine (k t : Nat) (direct : Bool) : quieted d (d.refreshLine k t direct) := by
  unfold refreshLine
  extract_lets v dl
  exact quieted_ite (fun _ => quieted_refl d) fun _ => quieted_ite (fun _ => quieted_of_parts rfl rfl rfl) fun _ => quieted_of_parts rfl rfl rfl

/-- A victim's engine exists. -/
theorem timeVictims_lt {v : Nat × Nat} (h : v ∈ d.timeVictims) : v.1 < 64 := by
  obtain ⟨e, he, hv⟩ := List.mem_filterMap.mp h
  have hlt := List.mem_range.mp he
  cases hc : d.engCtx e with
  | none => simp [hc] at hv
  | some c =>
    rw [hc] at hv
    dsimp only at hv
    split at hv
    · rw [← Option.some.inj hv]
      exact hlt
    · cases hv

/-- The registers that the loss of time writes: its flags and its state. -/
def timeMarked (d : Dev) (s flags : Nat) : Dev :=
  (if flags ||| (if d.timeValid && !d.launches.isEmpty then 8 else 0) = 0 then d
    else d.raise Reg.time_EVENTS (flags ||| (if d.timeValid && !d.launches.isEmpty then 8 else 0))).setTimeState s
theorem quieted_timeLost (s flags : Nat) : quieted (d.timeMarked s flags) (d.timeLost s flags) := by
  unfold timeLost
  extract_lets mask victims valid marked time loose dropped cleared idle modes ended lit
  have hloose : quieted marked loose := quieted_of_parts rfl rfl rfl
  have hdropped : quieted loose dropped := quieted_foldl _ _ fun n hn d => quieted_dropFrameActs d (List.mem_range.mp hn)
  have hquiet := quieted_trans hloose hdropped
  clear_value loose dropped
  refine quieted_ite (fun _ => hquiet) fun _ => ?_
  have hcleared : quieted dropped cleared := quieted_of_parts rfl rfl rfl
  have hended : quieted cleared ended := quieted_foldl _ _ fun n hn d => quieted_updChan d n fun _ h => h
  have hlit : quieted ended lit := quieted_trans (quieted_foldl _ _ fun k _ d => quieted_applyFi d k) (quieted_foldl _ _ fun k _ d => quieted_refreshLine d ..)
  have hdark := quieted_trans (quieted_trans (quieted_trans hquiet hcleared) hended) hlit
  clear_value cleared idle modes ended lit
  refine quieted_trans (quieted_trans hdark ?_) (quieted_settleClaims _)
  exact quieted_foldl lit _ fun v hv d' => quieted_raiseExc d' (timeVictims_lt d hv) _ _ _ (by decide)

/-- The state that the loss of time gives; COARSE and OFF are not valid. -/
theorem timeLost_state {s : Nat} (hs : s < 4) (flags : Nat) : (d.timeLost s flags).timeState = s ∧ (d.timeLost s flags).timeValid = (s == 2) := by
  have hstatus : (d.timeLost s flags).rd Reg.time_STATUS = (d.timeMarked s flags).rd Reg.time_STATUS := (quieted_timeLost d s flags).rd _ (.inl (by decide))
  rw [timeState, fld, rdN, hstatus, timeValid, bit, hstatus]
  exact ⟨setTimeState_timeState _ hs, setTimeState_timeValid ..⟩
theorem timeLost_flag {s : Nat} {flags i : Nat} (hflags : flags < 2^24) (hi : i < 24) (hset : flags.testBit i = true) :
    (d.timeLost s flags).bit Reg.time_EVENTS i = true := by
  have hevents : (d.timeLost s flags).rd Reg.time_EVENTS = (d.timeMarked s flags).rd Reg.time_EVENTS := (quieted_timeLost d s flags).rd _ (.inl (by decide))
  rw [bit_of_rd hevents, timeMarked, bit_of_rd (setTimeState_rd _ _ (by decide))]
  have hlt : flags ||| (if d.timeValid && !d.launches.isEmpty then 8 else 0) < 2^24 := Nat.or_lt_two_pow hflags (by split <;> decide)
  have hor : (flags ||| (if d.timeValid && !d.launches.isEmpty then 8 else 0)).testBit i = true := by rw [Nat.testBit_or, hset, Bool.true_or]
  generalize flags ||| (if d.timeValid && !d.launches.isEmpty then 8 else 0) = mask at *
  have hne : mask ≠ 0 := by
    rintro rfl
    rw [Nat.zero_testBit] at hor
    exact Bool.noConfusion hor
  rw [if_neg hne, bit_raise_same _ _ _ _ hlt hi, hor, Bool.or_true]
theorem timeMarked_quiet (s flags : Nat) : (d.timeMarked s flags).quietPart = d.quietPart ∧ keepsHolds d (d.timeMarked s flags) := by
  have hflags (mask : Nat) : (if mask = 0 then d else d.raise Reg.time_EVENTS mask).base = d.base ∧
      keepsHolds d (if mask = 0 then d else d.raise Reg.time_EVENTS mask) := by
    split
    · exact ⟨rfl, keepsHolds_refl d⟩
    · exact ⟨base_raise .., keepsHolds_raise d (notStill_of_low (by decide)) mask⟩
  have hstate (x : Dev) : (x.setTimeState s).base = x.base ∧ keepsHolds x (x.setTimeState s) :=
    ⟨(base_setBit ..).trans (base_setFld ..),
      keepsHolds_trans (keepsHolds_setFld x (notStill_of_low (by decide)) ..) (keepsHolds_setBit _ (notStill_of_low (by decide)) ..)⟩
  have hquiet {x y : Dev} (h : x.base = y.base) : x.quietPart = y.quietPart := by rw [quietPart, calmPart_of_base h, quietPart]
  unfold timeMarked
  exact ⟨hquiet ((hstate _).1.trans (hflags _).1), keepsHolds_trans (hflags _).2 (hstate _).2⟩
theorem timeLost_quiet (s flags : Nat) : (d.timeLost s flags).quietPart = d.quietPart ∧ keepsHolds d (d.timeLost s flags) :=
  have hmarked := timeMarked_quiet d s flags
  have hlost := quieted_timeLost d s flags
  ⟨hlost.part.trans hmarked.1, keepsHolds_trans hmarked.2 hlost.holds⟩
/-- What the loss of time leaves as it is. -/
theorem timeLost_rd (s flags : Nat) {a : Nat} (ha : calmReg a) (hs : Reg.time_STATUS ≠ a) (he : Reg.time_EVENTS ≠ a) :
    (d.timeLost s flags).rd a = d.rd a := by
  rw [(quieted_timeLost d s flags).rd a ha, timeMarked, setTimeState_rd _ _ hs]
  exact iteInduction (motive := fun x : Dev => x.rd a = d.rd a) (fun _ => rfl) fun _ => rd_raise_ne _ _ he

/-- Every channel that is not OFF is held. -/
theorem holdLive_hold (mask : Nat) {n : Nat} (hn : n < 96) (hmode : d.chMode n ≠ 0) : ((d.holdLive mask).chanOf n).hold = true := by
  have hlt : ∀ m ∈ d.liveChans, m < 96 := fun m hm => List.mem_range.mp (List.mem_of_mem_filter hm)
  have hmem : n ∈ d.liveChans := List.mem_filter.mpr ⟨List.mem_range.mpr hn, bne_iff_ne.mpr hmode⟩
  unfold holdLive
  generalize d.liveChans = l at hmem hlt
  induction l generalizing d with
  | nil => cases hmem
  | cons m r ih =>
    have hm := hlt m List.mem_cons_self
    have hrest : ∀ k ∈ r, k < 96 := fun k hk => hlt k (List.mem_cons_of_mem _ hk)
    rw [List.foldl_cons]
    by_cases hr : n ∈ r
    · refine ih _ ?_ hr hrest
      have hcfg := (keepsHolds_setHold d hm mask).cfg n hn
      rwa [chMode, fld, rdN, hcfg]
    · obtain rfl : n = m := (List.mem_cons.mp hmem).resolve_right hr
      refine (keepsHolds_foldl _ r fun m hm d => keepsHolds_setHold d (hrest m hm) mask).hold n ?_
      rw [setHold, chanOf_updChan_same]
end quieted

/-- What the quiet part tells. -/
theorem clk_of_quiet {d d' : Dev} (h : d'.quietPart = d.quietPart) : d'.clk = d.clk := (congrArg Dev.clk h :)
theorem acc_of_quiet {d d' : Dev} (h : d'.quietPart = d.quietPart) : d'.time.acc = d.time.acc ∧ d'.time.refN = d.time.refN ∧ d'.time.refOk = d.time.refOk ∧
    d'.time.ph = d.time.ph := ⟨(congrArg (fun x : Dev => x.time.acc) h :), (congrArg (fun x : Dev => x.time.refN) h :), (congrArg (fun x : Dev => x.time.refOk) h :),
  (congrArg (fun x : Dev => x.time.ph) h :)⟩
theorem chMode_of_keeps {d d' : Dev} (h : keepsHolds d d') {n : Nat} (hn : n < 96) : d'.chMode n = d.chMode n := by
  rw [chMode, fld, rdN, h.cfg n hn, chMode, fld, rdN]
end Dev
end Sys2Proof.Machine

/-! PROOFS. APPLY of the SPLL's divider set (R361, R362, R368, R437). -/
namespace Sys2Proof.Machine

theorem exec_apply (v : Word) (s : State) : exec (.apply v) s = s.onDev (applyD v) := rfl
theorem exec_applyCancel (v : Word) (s : State) : exec (.applyCancel v) s = s.onDev (applyCancelD v) := rfl
theorem exec_refSwap (v : Word) (s : State) : exec (.refSwap v) s = s.onDev (refSwapD v) := rfl

namespace Dev

/-- The bits of the write show in APPLY_CTL. -/
def goMarked (d : Dev) (cancel swap : Bool) : Dev :=
  ((d.setBit Reg.clk_APPLY_CTL 2 cancel).setBit Reg.clk_APPLY_CTL 1 swap).setBit Reg.clk_APPLY_CTL 0 false
/-- A GO that the check `c` refuses. -/
def goRefused (d : Dev) (c : Nat) : Dev :=
  if c = 2 then ((d.setFld Reg.clk_APPLY_CTL 8 8 c).raise Reg.clk_EVENTS 32).refuse 0 Reg.clk_APPLY_CTL 5
  else (d.setFld Reg.clk_APPLY_CTL 8 8 c).raise Reg.clk_EVENTS 32
/-- The set is armed. -/
def setArmed (d : Dev) (swap : Bool) : Dev := { (d.setBit Reg.clk_STATUS 8 true) with clk := { d.clk with swap := swap } }
theorem setArmed_clk (d : Dev) (swap : Bool) : (d.setArmed swap).clk = { d.clk with swap := swap } := rfl
theorem withClk_time (d : Dev) (c : ClkSt) : ({ d with clk := c } : Dev).time = d.time := rfl
theorem setArmed_time (d : Dev) (swap : Bool) : (d.setArmed swap).time = d.time := (withClk_time ..).trans (setBit_time ..)
theorem setArmed_rd (d : Dev) (swap : Bool) (a : Nat) : (d.setArmed swap).rd a = (d.setBit Reg.clk_STATUS 8 true).rd a := rfl
/-- A set equal to the running one does nothing. -/
def goArmed (d : Dev) (swap : Bool) : Dev :=
  if !swap && d.shadowSet == d.activeSet && (d.spll == 1 || d.spll == 2) then d else d.setArmed swap
theorem applyWrite_eq (d : Dev) (cancel swap go : Bool) : d.applyWrite cancel swap go = d.access 0 Reg.clk_APPLY_CTL none (fun d =>
    if !go then d.goMarked cancel swap
    else if cancel && !(d.goMarked cancel swap).dsafe then (d.goMarked cancel swap).setBit Reg.clk_STATUS 8 false
    else if (d.goMarked cancel swap).applyCheck swap ≠ 0 then (d.goMarked cancel swap).goRefused ((d.goMarked cancel swap).applyCheck swap)
    else ((d.goMarked cancel swap).setFld Reg.clk_APPLY_CTL 8 8 ((d.goMarked cancel swap).applyCheck swap)).goArmed swap) := rfl

/-- Nothing but APPLY_CTL and notifications differ. -/
structure sameApply (d d' : Dev) : Prop where
  rd : ∀ a, Reg.clk_APPLY_CTL ≠ a → d'.rd a = d.rd a
  base : d'.base = d.base

theorem sameApply_goMarked (d : Dev) (cancel swap : Bool) : sameApply d (d.goMarked cancel swap) where
  rd _ h := (rd_setBit_ne _ _ _ h).trans ((rd_setBit_ne _ _ _ h).trans (rd_setBit_ne _ _ _ h))
  base := (base_setBit ..).trans ((base_setBit ..).trans (base_setBit ..))
theorem sameApply_setFld (d : Dev) (lo w v : Nat) : sameApply d (d.setFld Reg.clk_APPLY_CTL lo w v) := ⟨fun _ h => rd_setFld_ne _ _ _ _ h, base_setFld ..⟩
theorem sameApply_trans {d d' d'' : Dev} (h : sameApply d d') (h' : sameApply d' d'') : sameApply d d'' :=
  ⟨fun a ha => (h'.rd a ha).trans (h.rd a ha), h'.base.trans h.base⟩

section sameApply
variable {d d' : Dev} (h : sameApply d d')
include h

theorem clk_of_sameApply : d'.clk = d.clk := (congrArg Dev.clk h.base :)
theorem time_of_sameApply : d'.time = d.time := (congrArg Dev.time h.base :)
theorem shadowSet_of_sameApply : d'.shadowSet = d.shadowSet := by
  rw [shadowSet, rdN, rdN, h.rd _ (by decide), h.rd _ (by decide), shadowSet, rdN, rdN]
theorem activeSet_of_sameApply : d'.activeSet = d.activeSet := by
  rw [activeSet, rdN, rdN, h.rd _ (by decide), h.rd _ (by decide), activeSet, rdN, rdN]
theorem dsafe_of_sameApply : d'.dsafe = d.dsafe := bit_of_rd (h.rd _ (by decide)) 16
theorem fref_of_sameApply : d'.fref = d.fref := by
  rw [fref, rdN, h.rd _ (by decide), clk_of_sameApply h, fref, rdN]
theorem running_of_sameApply : (List.range 96).any (fun n => d'.isClaimed n || d'.chMode n == 2) = (List.range 96).any (fun n => d.isClaimed n || d.chMode n == 2) := by
  refine any_congr_mem fun n hn => ?_
  have hcfg : Reg.clk_APPLY_CTL ≠ Reg.chn_CFG n := by
    have hlow := chn_CFG_lt (n := n) (by have := List.mem_range.mp hn; omega)
    unfold Reg.clk_APPLY_CTL
    omega
  rw [isClaimed, chMode, fld, rdN, h.rd _ hcfg, chanOf_of_chan (chan_of_base h.base), isClaimed, chMode, fld, rdN]
theorem applyCheck_of_sameApply (swap : Bool) : d'.applyCheck swap = d.applyCheck swap := by
  have hmeas : d'.rdN Reg.clk_REF_MEAS = d.rdN Reg.clk_REF_MEAS := congrArg BitVec.toNat (h.rd _ (by decide))
  have hparity : d'.parity = d.parity := (congrArg Dev.parity h.base :)
  unfold applyCheck
  rw [shadowSet_of_sameApply h, activeSet_of_sameApply h, dsafe_of_sameApply h, fref_of_sameApply h, running_of_sameApply h, clk_of_sameApply h,
    hmeas, corrupt, hparity, bit_of_rd (h.rd Reg.time_STATUS (by decide))]
  rfl
end sameApply

/-- The number of the first check of R362 that fails. -/
theorem applyCheck_lt (d : Dev) (swap : Bool) : d.applyCheck swap < 5 := by
  unfold applyCheck
  dsimp only
  repeat' split
  all_goals decide

/-- A channel claimed or STATIC. -/
theorem running_iff (d : Dev) : (List.range 96).any (fun n => d.isClaimed n || d.chMode n == 2) = true ↔ ∃ k < 96, d.isClaimed k = true ∨ d.chMode k = 2 := by
  rw [List.any_eq_true]
  exact exists_congr fun n => by rw [List.mem_range, Bool.or_eq_true_iff, beq_iff_eq]

section check
variable {d : Dev}

theorem applyCheck_of_dsafe (h : d.dsafe = true) (swap : Bool) : d.applyCheck swap = 2 := if_pos h
theorem applyCheck_of_bad (h : d.dsafe = false) (hbad : d.shadowSet.ok d.fref = false) : d.applyCheck false = 1 := by
  unfold applyCheck
  dsimp only
  rw [h, if_neg Bool.false_ne_true, if_neg Bool.false_ne_true, if_pos (.inl (by rw [hbad]; rfl))]
variable {swap : Bool} (hok : d.shadowSet.ok (if swap then 0 else d.fref) = true) (hclean : d.corrupt Reg.clk_SPLL_SH 16 = false)
include hok hclean

theorem set_not_bad : ¬ ((!d.shadowSet.ok (if swap then 0 else d.fref)) = true ∨ d.corrupt Reg.clk_SPLL_SH 16 = true) := by
  rw [hok, hclean]
  decide
theorem applyCheck_of_running (hrun : ∃ k < 96, d.isClaimed k = true ∨ d.chMode k = 2)
    (hchanges : d.shadowSet.dref ≠ d.activeSet.dref ∨ d.shadowSet.m * d.activeSet.p ≠ d.activeSet.m * d.shadowSet.p) : d.applyCheck swap = 2 := by
  have hrunning := (running_iff d).mpr hrun
  have hdiffer : (swap || d.shadowSet.dref != d.activeSet.dref || d.shadowSet.m * d.activeSet.p != d.activeSet.m * d.shadowSet.p) = true := by
    rw [Bool.or_eq_true_iff, Bool.or_eq_true_iff, bne_iff_ne, bne_iff_ne]
    exact hchanges.imp_left .inr
  unfold applyCheck
  dsimp only
  split
  · rfl
  · rw [if_neg (set_not_bad hok hclean), if_pos ⟨hdiffer, hrunning⟩]
theorem applyCheck_of_free (h : d.dsafe = false) (hfree : ¬ ((swap = true ∨ d.shadowSet.dref ≠ d.activeSet.dref ∨
      d.shadowSet.m * d.activeSet.p ≠ d.activeSet.m * d.shadowSet.p) ∧ ∃ k < 96, d.isClaimed k = true ∨ d.chMode k = 2)) :
    d.applyCheck swap = if !swap ∧ (d.rdN Reg.clk_REF_MEAS = 0 ∨ (d.clk.fref ≠ 0 ∧ 2 * (d.shadowSet.dref * d.clk.fref) <
      100 * (max (d.shadowSet.dref * d.clk.fref) (d.rdN Reg.clk_REF_MEAS * d.activeSet.dref) -
        min (d.shadowSet.dref * d.clk.fref) (d.rdN Reg.clk_REF_MEAS * d.activeSet.dref)))) then 3 else if d.bit Reg.time_STATUS 4 then 4 else 0 := by
  have hgo : ¬ ((swap || d.shadowSet.dref != d.activeSet.dref || d.shadowSet.m * d.activeSet.p != d.activeSet.m * d.shadowSet.p) = true ∧
      (List.range 96).any (fun n => d.isClaimed n || d.chMode n == 2) = true) := by
    rw [Bool.or_eq_true_iff, Bool.or_eq_true_iff, bne_iff_ne, bne_iff_ne, or_assoc, running_iff]
    exact hfree
  unfold applyCheck
  dsimp only
  rw [h, if_neg Bool.false_ne_true, if_neg (set_not_bad hok hclean), if_neg hgo]
end check

/-- What a GO does once its write has come. -/
def goDone (d : Dev) (cancel swap : Bool) : Dev :=
  if cancel && !d.dsafe then (d.goMarked cancel swap).setBit Reg.clk_STATUS 8 false
  else if d.applyCheck swap ≠ 0 then (d.goMarked cancel swap).goRefused (d.applyCheck swap)
  else ((d.goMarked cancel swap).setFld Reg.clk_APPLY_CTL 8 8 (d.applyCheck swap)).goArmed swap

theorem goRefused_spec (d : Dev) {c : Nat} (hc : c < 256) : (d.goRefused c).fld Reg.clk_APPLY_CTL 8 8 = c ∧
    (d.goRefused c).bit Reg.clk_STATUS 8 = d.bit Reg.clk_STATUS 8 ∧ (d.goRefused c).bit Reg.clk_EVENTS 5 = true ∧ (d.goRefused c).clk = d.clk := by
  have hshown : let x := (d.setFld Reg.clk_APPLY_CTL 8 8 c).raise Reg.clk_EVENTS 32
      x.fld Reg.clk_APPLY_CTL 8 8 = c ∧ x.bit Reg.clk_STATUS 8 = d.bit Reg.clk_STATUS 8 ∧ x.bit Reg.clk_EVENTS 5 = true ∧ x.clk = d.clk := by
    refine ⟨?_, ?_, ?_, (raise_clk ..).trans (setFld_clk ..)⟩
    · rw [fld, rdN_raise_ne _ _ (by decide), ← fld, fld_setFld_same _ _ _ _ _ (by decide)]
      exact Nat.mod_eq_of_lt hc
    · rw [bit_raise_ne _ _ _ (by decide), bit_of_rd (rd_setFld_ne _ _ _ _ (by decide))]
    · rw [bit_raise_same _ _ _ _ (by decide) (by decide)]
      exact Bool.or_true _
  unfold goRefused
  generalize (d.setFld Reg.clk_APPLY_CTL 8 8 c).raise Reg.clk_EVENTS 32 = x at *
  obtain ⟨hresult, hpend, hevent, hclk⟩ := hshown
  split
  · have hrd {a : Nat} (ha : 0x1000 ≤ a) : (x.refuse 0 Reg.clk_APPLY_CTL 5).rd a = x.rd a :=
      refuse_rd _ _ _ _ (by unfold fnKey Reg.glob_ACC_LAST; omega) (by unfold fnKey Reg.glob_ACC_EVENTS; omega)
    refine ⟨?_, (bit_of_rd (hrd (by decide)) 8).trans hpend, (bit_of_rd (hrd (by decide)) 5).trans hevent, ?_⟩
    · rw [fld, rdN, hrd (by decide)]
      exact hresult
    · exact (clk_of_base (base_refuse x 0 Reg.clk_APPLY_CTL 5 false)).trans hclk
  · exact ⟨hresult, hpend, hevent, hclk⟩

section write
variable {d : Dev} (hans : d.answers 0 Reg.clk_APPLY_CTL none) {cancel swap : Bool}
include hans

/-- What a GO leaves, for registers other than SAFE_CTL and for parts that are no registers. -/
theorem applyWrite_rd {a : Nat} (ha : a % 0x4000 ≠ 0x1804) : (d.applyWrite cancel swap true).rd a = (d.goDone cancel swap).rd a := by
  have hsafe (n : Nat) : Reg.chn_SAFE_CTL n ≠ a := by
    unfold Reg.chn_SAFE_CTL chnBase
    omega
  rw [applyWrite_eq, access_rd hans _ hsafe, dsafe_of_sameApply (sameApply_goMarked ..), applyCheck_of_sameApply (sameApply_goMarked ..)]
  rfl
theorem applyWrite_keeps {α : Type} {q : Dev → α} (hq : ∀ (d : Dev) r p, q { d with regs := r, parity := p } = q d) :
    q (d.applyWrite cancel swap true) = q (d.goDone cancel swap) := by
  rw [applyWrite_eq, access_keeps hans _ hq, dsafe_of_sameApply (sameApply_goMarked ..), applyCheck_of_sameApply (sameApply_goMarked ..)]
  rfl

variable (hgo : (cancel && !d.dsafe) = false)
include hgo
theorem write_refused {c : Nat} (hc : d.applyCheck swap = c) (hne : c ≠ 0) :
    (d.applyWrite cancel swap true).fld Reg.clk_APPLY_CTL 8 8 = c ∧ (d.applyWrite cancel swap true).bit Reg.clk_STATUS 8 = d.bit Reg.clk_STATUS 8 ∧
      (d.applyWrite cancel swap true).bit Reg.clk_EVENTS 5 = true ∧ (d.applyWrite cancel swap true).clk = d.clk := by
  have hdone : d.goDone cancel swap = (d.goMarked cancel swap).goRefused c := by
    unfold goDone
    rw [hgo, if_neg Bool.false_ne_true, hc, if_pos hne]
  have hsame := sameApply_goMarked d cancel swap
  obtain ⟨hresult, hpend, hevent, hclk⟩ := goRefused_spec (d.goMarked cancel swap) (c := c) (by have := applyCheck_lt d swap; omega)
  have hrd {a : Nat} := applyWrite_rd hans (cancel := cancel) (swap := swap) (a := a)
  refine ⟨?_, ?_, ?_, ?_⟩
  · rw [fld, rdN, hrd (by decide), hdone]
    exact hresult
  · rw [bit_of_rd (hrd (by decide)), hdone, hpend, bit_of_rd (hsame.rd _ (by decide))]
  · rw [bit_of_rd (hrd (by decide)), hdone, hevent]
  · rw [applyWrite_keeps hans (q := Dev.clk) fun _ _ _ => rfl, hdone, hclk, clk_of_base hsame.base]
theorem write_armed (hc : d.applyCheck swap = 0) (hnew : swap = true ∨ d.shadowSet ≠ d.activeSet) :
    (d.applyWrite cancel swap true).bit Reg.clk_STATUS 8 = true ∧ (d.applyWrite cancel swap true).fld Reg.clk_APPLY_CTL 8 8 = 0 ∧
      (d.applyWrite cancel swap true).clk = { d.clk with swap := swap } ∧ (d.applyWrite cancel swap true).time = d.time := by
  have hsame := sameApply_trans (sameApply_goMarked d cancel swap) (sameApply_setFld _ 8 8 0)
  have hfld : ((d.goMarked cancel swap).setFld Reg.clk_APPLY_CTL 8 8 0).fld Reg.clk_APPLY_CTL 8 8 = 0 := fld_setFld_same _ _ _ _ _ (by decide)
  have hdone : d.goDone cancel swap = ((d.goMarked cancel swap).setFld Reg.clk_APPLY_CTL 8 8 0).goArmed swap := by
    unfold goDone
    rw [hgo, if_neg Bool.false_ne_true, hc, if_neg (by decide)]
  have hrd {a : Nat} := applyWrite_rd hans (cancel := cancel) (swap := swap) (a := a)
  have hclk := applyWrite_keeps hans (cancel := cancel) (swap := swap) (q := Dev.clk) fun _ _ _ => rfl
  have htime := applyWrite_keeps hans (cancel := cancel) (swap := swap) (q := Dev.time) fun _ _ _ => rfl
  rw [hdone] at hclk htime hrd
  generalize (d.goMarked cancel swap).setFld Reg.clk_APPLY_CTL 8 8 0 = x at *
  have harmed : x.goArmed swap = x.setArmed swap := by
    refine if_neg ?_
    rw [shadowSet_of_sameApply hsame, activeSet_of_sameApply hsame]
    rcases hnew with h | h
    · rw [h]
      exact Bool.false_ne_true
    · rw [beq_false_of_ne h, Bool.and_false, Bool.false_and]
      exact Bool.false_ne_true
  rw [harmed] at hclk htime hrd
  refine ⟨?_, ?_, ?_, ?_⟩
  · rw [bit_of_rd (hrd (by decide)), bit_of_rd (setArmed_rd ..), bit_setBit_same _ _ _ _ (by decide)]
  · rw [fld, rdN, hrd (by decide), setArmed_rd, ← rdN, ← fld, fld_setBit_ne x _ _ _ _ (by decide), hfld]
  · rw [hclk, setArmed_clk, clk_of_base hsame.base]
  · rw [htime, setArmed_time, time_of_sameApply hsame]
end write

theorem write_cancelled {d : Dev} (hans : d.answers 0 Reg.clk_APPLY_CTL none) (swap : Bool) (h : d.dsafe = false) :
    (d.applyWrite true swap true).bit Reg.clk_STATUS 8 = false ∧ (d.applyWrite true swap true).clk = d.clk := by
  have hdone : d.goDone true swap = (d.goMarked true swap).setBit Reg.clk_STATUS 8 false := by
    unfold goDone
    rw [h]
    rfl
  constructor
  · rw [bit_of_rd (applyWrite_rd hans (by decide)), hdone, bit_setBit_same _ _ _ _ (by decide)]
  · rw [applyWrite_keeps hans (q := Dev.clk) fun _ _ _ => rfl, hdone, setBit_clk, clk_of_base (sameApply_goMarked d true swap).base]
end Dev

/-- Settles O36: each write goes by the number of the first check that fails. -/
theorem applyChecksAndArms : Obligations.ApplyChecksAndArms := by
  intro s v hans d n a running changes meas wrongRef armed fails
  have happly (hgo : v.getLsbD 0 = true) (hswap : v.getLsbD 1 = false) (hcancel : v.getLsbD 2 = false) {k : Nat} (hk : d.applyCheck false = k) (hne : k ≠ 0) :
      fails (.apply v) k := by
    refine State.runs_of_onDev (exec_apply v s) rfl ?_
    rw [applyD, hgo, hswap, hcancel]
    exact Dev.write_refused hans rfl hk hne
  have hdsafe (hsafe : d.dsafe = true) (cancel : Bool) : (cancel && !d.dsafe) = false := by rw [hsafe, Bool.not_true, Bool.and_false]
  refine ⟨fun hsafe => ⟨?_, ?_, fun hgo => ?_⟩, fun hsafe => ?_, fun hgo hswap hcancel hclean => ⟨fun hbad hsafe => ?_, fun hok hchanges hrun => ?_,
    fun hok hfree hsafe => ?_⟩, fun hcancel hclean hok hstill hsafe hidle => ?_⟩
  · exact State.runs_of_onDev (exec_applyCancel v s) rfl (Dev.write_refused hans (hdsafe hsafe _) (Dev.applyCheck_of_dsafe hsafe _) (by decide))
  · exact State.runs_of_onDev (exec_refSwap v s) rfl (Dev.write_refused hans (hdsafe hsafe _) (Dev.applyCheck_of_dsafe hsafe _) (by decide))
  · refine State.runs_of_onDev (exec_apply v s) rfl ?_
    rw [applyD, hgo]
    exact Dev.write_refused hans (hdsafe hsafe _) (Dev.applyCheck_of_dsafe hsafe _) (by decide)
  · exact State.runs_of_onDev (exec_applyCancel v s) rfl (Dev.write_cancelled hans _ hsafe)
  · exact happly hgo hswap hcancel (Dev.applyCheck_of_bad hsafe hbad) (by decide)
  · exact happly hgo hswap hcancel (Dev.applyCheck_of_running hok hclean hrun hchanges) (by decide)
  · have hcheck := Dev.applyCheck_of_free (swap := false) hok hclean hsafe fun ⟨h, hrun⟩ => hfree ⟨h.resolve_left Bool.false_ne_true, hrun⟩
    refine ⟨fun hwrong => ?_, fun hright harmed => ?_, fun hright hidle hnew => ?_⟩
    · exact happly hgo hswap hcancel (hcheck.trans (if_pos ⟨rfl, hwrong⟩)) (by decide)
    · exact happly hgo hswap hcancel (hcheck.trans ((if_neg fun h => hright h.2).trans (if_pos harmed))) (by decide)
    · refine State.runs_of_onDev (exec_apply v s) rfl ?_
      rw [applyD, hgo, hswap, hcancel]
      have hzero := hcheck.trans ((if_neg fun h => hright h.2).trans (if_neg (ne_true_of_eq_false hidle)))
      exact Dev.write_armed hans rfl hzero (.inr hnew)
  · refine State.runs_of_onDev (exec_refSwap v s) rfl ?_
    have hcheck := Dev.applyCheck_of_free (swap := true) hok hclean hsafe fun h => hstill h.2
    have hzero := hcheck.trans ((if_neg fun h => Bool.false_ne_true h.1).trans (if_neg (ne_true_of_eq_false hidle)))
    rw [refSwapD, hcancel]
    obtain ⟨hpend, -, hclk, htime⟩ := Dev.write_armed hans (cancel := false) rfl hzero (.inl rfl)
    exact ⟨hpend, hclk, htime⟩
end Sys2Proof.Machine

/-! PROOFS. The edge at which a clock set runs, and lost and swapped references (R36, R37, R361, R368). -/
namespace Sys2Proof.Machine

theorem exec_applyEdge (s : State) : exec .applyEdge s = s.onDev applyEdgeD := rfl
theorem exec_refLost (s : State) : exec .refLost s = s.onDev refLostD := rfl
theorem exec_refSwapDone (b : Bool) (s : State) : exec (.refSwapDone b) s = s.onDev (refSwapDoneD b) := rfl

namespace Dev

/-! ## The SPLL acquires -/

section acquire
variable (d : Dev)

theorem withClk_rd (c : ClkSt) (a : Nat) : ({ d with clk := c } : Dev).rd a = d.rd a := rfl
theorem withClk_chan (c : ClkSt) : ({ d with clk := c } : Dev).chan = d.chan := rfl
/-- The registers of an acquisition. -/
def acquireShown : Dev := ((d.setFld Reg.clk_STATUS 2 2 1).setBit Reg.clk_STATUS 0 false).setBit Reg.clk_STATUS 1 true
theorem acquire_eq : d.acquire = { d.acquireShown with clk := { d.acquireShown.clk with sGood := 0, sTries := 0 } } := rfl
theorem acquireShown_base : d.acquireShown.base = d.base := (base_setBit ..).trans ((base_setBit ..).trans (base_setFld ..))
theorem acquire_shows (a : Nat) : d.acquire.rd a = d.acquireShown.rd a := by rw [acquire_eq, withClk_rd]
theorem acquire_rd {a : Nat} (h : Reg.clk_STATUS ≠ a) : d.acquire.rd a = d.rd a := by
  rw [acquire_shows, acquireShown, rd_setBit_ne _ _ _ h, rd_setBit_ne _ _ _ h, rd_setFld_ne _ _ _ _ h]
theorem acquire_clk : d.acquire.clk = { d.clk with sGood := 0, sTries := 0 } := by
  rw [acquire_eq]
  dsimp only
  rw [clk_of_base d.acquireShown_base]
theorem acquire_time : d.acquire.time = d.time := by rw [acquire_eq, withClk_time, time_of_base d.acquireShown_base]
theorem acquire_chan : d.acquire.chan = d.chan := by rw [acquire_eq, withClk_chan, chan_of_base d.acquireShown_base]
theorem acquire_state : d.acquire.spll = 1 ∧ d.acquire.bit Reg.clk_STATUS 0 = false := by
  constructor
  · rw [spll, fld, rdN, acquire_shows, ← rdN, ← fld, acquireShown, fld_setBit_other _ _ _ _ _ _ (by decide) (by decide),
      fld_setBit_other _ _ _ _ _ _ (by decide) (by decide), fld_setFld_same _ _ _ _ _ (by decide)]
    rfl
  · rw [bit_of_rd (acquire_shows ..), acquireShown, bit_setBit_other _ _ _ _ _ (by decide) (by decide), bit_setBit_same _ _ _ _ (by decide)]
theorem acquire_bit {i : Nat} (h : 4 ≤ i) : d.acquire.bit Reg.clk_STATUS i = d.bit Reg.clk_STATUS i := by
  rw [bit_of_rd (acquire_shows ..), acquireShown, bit_setBit_other _ _ _ _ _ (by decide) (by omega), bit_setBit_other _ _ _ _ _ (by decide) (by omega),
    bit_setFld_other _ _ _ _ _ _ (by decide) (by omega)]
theorem keepsHolds_acquire : keepsHolds d d.acquire :=
  keepsHolds_of_chan (fun _ ha => acquire_rd d (by rintro rfl; exact notStill_of_high (by decide) ha)) (acquire_chan d)
end acquire


/-! ## The loss of the SPLL's lock and of the reference -/

/-- Registers of the clocks and of time that the loss of the SPLL's lock writes. -/
def isLossReg (a : Nat) : Prop := a = Reg.clk_SPLL_LOSS_CNT ∨ a = Reg.clk_EVENTS ∨ a = Reg.clk_STATUS ∨ a = Reg.time_STATUS ∨ a = Reg.time_EVENTS

section spllLost
variable (d : Dev)

/-- The loss is counted and fires, and the channels are held. -/
def lossHeld : Dev := (((d.bump Reg.clk_SPLL_LOSS_CNT).raise Reg.clk_EVENTS 1).fireNow 960).holdLive 4
theorem spllLostTo_eq (st flags : Nat) : d.spllLostTo st flags = ((d.lossHeld.timeLost st flags).acquire).faultNow 0 0x40 0 0
    [((d.lossHeld.timeLost st flags).acquire).rdN Reg.clk_LOCK_CNT, ((d.lossHeld.timeLost st flags).acquire).rdN Reg.clk_LOCK_EXP] := rfl

theorem counted_keeps : keepsHolds d (((d.bump Reg.clk_SPLL_LOSS_CNT).raise Reg.clk_EVENTS 1).fireNow 960) :=
  keepsHolds_trans (keepsHolds_trans (keepsHolds_bump d (notStill_of_high (by decide))) (keepsHolds_raise _ (notStill_of_high (by decide)) 1)) (keepsHolds_fireNow ..)
theorem quietPart_of_base {d d' : Dev} (h : d'.base = d.base) : d'.quietPart = d.quietPart := by rw [quietPart, calmPart_of_base h, quietPart]
theorem lossHeld_quiet : d.lossHeld.quietPart = d.quietPart :=
  (quieted_holdLive _ 4).part.trans (quietPart_of_base ((base_fireNow ..).trans ((base_raise ..).trans (base_bump ..))))
theorem lossHeld_hold {n : Nat} (hn : n < 96) (hmode : d.chMode n ≠ 0) : (d.lossHeld.chanOf n).hold = true :=
  holdLive_hold _ 4 hn (by rwa [chMode_of_keeps (counted_keeps d) hn])
theorem lossHeld_rd {a : Nat} (ha : calmReg a) (hl : ¬ isLossReg a) : d.lossHeld.rd a = d.rd a := by
  unfold isLossReg at hl
  have hcnt : Reg.clk_SPLL_LOSS_CNT ≠ a := fun h => hl (.inl h.symm)
  have hev : Reg.clk_EVENTS ≠ a := fun h => hl (.inr (.inl h.symm))
  rw [lossHeld, (quieted_holdLive _ 4).rd a ha, rd_of_regs (fireNow_regs ..), rd_raise_ne _ _ hev, rd_bump_ne _ hcnt]
theorem lossHeld_STATUS : d.lossHeld.rd Reg.clk_STATUS = d.rd Reg.clk_STATUS := by
  have hcalm : calmReg Reg.clk_STATUS := .inr (.inr (.inl (by decide)))
  rw [lossHeld, (quieted_holdLive _ 4).rd _ hcalm, rd_of_regs (fireNow_regs ..), rd_raise_ne _ _ (by decide), rd_bump_ne _ (by decide)]

theorem spllLostTo_shows (st flags : Nat) {a : Nat} (ha : calmReg a) :
    (d.spllLostTo st flags).rd a = ((d.lossHeld.timeLost st flags).acquire).rd a := (quieted_faultNow ..).rd a ha
theorem spllLostTo_rd (st flags : Nat) {a : Nat} (ha : calmReg a) (hl : ¬ isLossReg a) : (d.spllLostTo st flags).rd a = d.rd a := by
  have hs : Reg.clk_STATUS ≠ a := fun h => hl (.inr (.inr (.inl h.symm)))
  have ht : Reg.time_STATUS ≠ a := fun h => hl (.inr (.inr (.inr (.inl h.symm))))
  have hte : Reg.time_EVENTS ≠ a := fun h => hl (.inr (.inr (.inr (.inr h.symm))))
  rw [spllLostTo_shows _ _ _ ha, acquire_rd _ hs, timeLost_rd _ _ _ ha ht hte, lossHeld_rd _ ha hl]
theorem spllLostTo_lock (st flags : Nat) : (d.spllLostTo st flags).spll = 1 ∧ (d.spllLostTo st flags).bit Reg.clk_STATUS 0 = false ∧
    ∀ i, 4 ≤ i → (d.spllLostTo st flags).bit Reg.clk_STATUS i = d.bit Reg.clk_STATUS i := by
  have hcalm : calmReg Reg.clk_STATUS := .inr (.inr (.inl (by decide)))
  have hshows := d.spllLostTo_shows st flags hcalm
  obtain ⟨hstate, hunlock⟩ := acquire_state (d.lossHeld.timeLost st flags)
  refine ⟨?_, (bit_of_rd hshows 0).trans hunlock, fun i hi => ?_⟩
  · rw [spll, fld, rdN, hshows]
    exact hstate
  · rw [bit_of_rd hshows, acquire_bit _ hi, bit_of_rd (timeLost_rd _ _ _ hcalm (by decide) (by decide)), bit_of_rd (lossHeld_STATUS d)]
theorem spllLostTo_time {st : Nat} (hst : st < 4) (flags : Nat) : (d.spllLostTo st flags).timeState = st ∧ (d.spllLostTo st flags).timeValid = (st == 2) := by
  have hshows := d.spllLostTo_shows st flags (a := Reg.time_STATUS) (.inl (by decide))
  have hstatus := hshows.trans (acquire_rd _ (by decide))
  obtain ⟨hstate, hvalid⟩ := timeLost_state d.lossHeld hst flags
  refine ⟨?_, (bit_of_rd hstatus 0).trans hvalid⟩
  rw [timeState, fld, rdN, hstatus]
  exact hstate
theorem spllLostTo_flag {st flags i : Nat} (hflags : flags < 2^24) (hi : i < 24) (hset : flags.testBit i = true) :
    (d.spllLostTo st flags).bit Reg.time_EVENTS i = true := by
  rw [bit_of_rd (d.spllLostTo_shows st flags (.inl (by decide))), bit_of_rd (acquire_rd _ (by decide)), timeLost_flag _ hflags hi hset]
theorem spllLostTo_quiet (st flags : Nat) : (d.spllLostTo st flags).clk = { d.clk with sGood := 0, sTries := 0 } ∧
    (d.spllLostTo st flags).time.acc = d.time.acc ∧ (d.spllLostTo st flags).time.refN = d.time.refN ∧ (d.spllLostTo st flags).time.refOk = d.time.refOk := by
  have hfault := (quieted_faultNow ((d.lossHeld.timeLost st flags).acquire) 0 0x40 0 0
    [((d.lossHeld.timeLost st flags).acquire).rdN Reg.clk_LOCK_CNT, ((d.lossHeld.timeLost st flags).acquire).rdN Reg.clk_LOCK_EXP]).part
  rw [← spllLostTo_eq] at hfault
  have hlost := (timeLost_quiet d.lossHeld st flags).1.trans (lossHeld_quiet d)
  obtain ⟨hacc, hrefN, hrefOk, -⟩ := acc_of_quiet hfault
  obtain ⟨hacc', hrefN', hrefOk', -⟩ := acc_of_quiet hlost
  rw [acquire_time] at hacc hrefN hrefOk
  refine ⟨?_, hacc.trans hacc', hrefN.trans hrefN', hrefOk.trans hrefOk'⟩
  rw [clk_of_quiet hfault, acquire_clk, clk_of_quiet hlost]
theorem spllLostTo_hold (st flags : Nat) {n : Nat} (hn : n < 96) (hmode : d.chMode n ≠ 0) : ((d.spllLostTo st flags).chanOf n).hold = true :=
  (quieted_faultNow ..).holds.hold n ((keepsHolds_acquire _).hold n ((timeLost_quiet d.lossHeld st flags).2.hold n (lossHeld_hold d hn hmode)))
end spllLost

section loseRef
variable (d : Dev)

/-- Time is lost with the reference, and a locked SPLL loses its lock. -/
def refTimeLost : Dev := if d.spll = 2 then d.spllLostTo 0 16 else d.timeLost 0 16
/-- The reference is no longer used. -/
def refOff : Dev := { (d.setBit Reg.time_STATUS 1 false) with time := { (d.setBit Reg.time_STATUS 1 false).time with refOk := false } }
/-- The registers of the clocks without a reference. -/
def refStopped : Dev := ((d.refOff.setBit Reg.clk_STATUS 7 false).wrN Reg.clk_REF_MEAS 0).fireNow 971
theorem loseRef_eq : d.loseRef = d.refTimeLost.refStopped.faultNow 1 0x44 0 0 [d.refTimeLost.rdN Reg.clk_REF_MEAS] := rfl

theorem refOff_rd (a : Nat) : d.refOff.rd a = (d.setBit Reg.time_STATUS 1 false).rd a := rfl
theorem refStopped_time : d.refStopped.time.refOk = false := by
  have hbase : d.refStopped.base = d.refOff.base := (base_fireNow ..).trans ((base_wrN ..).trans (base_setBit ..))
  rw [time_of_base hbase, refOff]
theorem refStopped_rd (a : Nat) : d.refStopped.rd a = ((d.refOff.setBit Reg.clk_STATUS 7 false).wrN Reg.clk_REF_MEAS 0).rd a := rd_of_regs (fireNow_regs ..) a

theorem refTimeLost_state : d.refTimeLost.timeState = 0 ∧ d.refTimeLost.timeValid = false ∧ d.refTimeLost.bit Reg.time_EVENTS 4 = true := by
  unfold refTimeLost
  split
  · obtain ⟨hstate, hvalid⟩ := spllLostTo_time d (st := 0) (by decide) 16
    exact ⟨hstate, hvalid, spllLostTo_flag d (by decide) (by decide) (by decide)⟩
  · obtain ⟨hstate, hvalid⟩ := timeLost_state d (s := 0) (by decide) 16
    exact ⟨hstate, hvalid, timeLost_flag d (by decide) (by decide) (by decide)⟩
theorem refTimeLost_lock : (d.spll = 2 → d.refTimeLost.spll = 1 ∧ d.refTimeLost.bit Reg.clk_STATUS 0 = false) ∧
    d.refTimeLost.bit Reg.clk_STATUS 9 = d.bit Reg.clk_STATUS 9 := by
  unfold refTimeLost
  split
  · obtain ⟨hstate, hunlock, hother⟩ := spllLostTo_lock d 0 16
    exact ⟨fun _ => ⟨hstate, hunlock⟩, hother 9 (by decide)⟩
  · next hidle =>
    exact ⟨fun h => absurd h hidle, bit_of_rd (timeLost_rd d _ _ (.inr (.inr (.inl (by decide)))) (by decide) (by decide)) 9⟩

theorem loseRef_shows {a : Nat} (ha : calmReg a) : d.loseRef.rd a = ((d.refTimeLost.refOff.setBit Reg.clk_STATUS 7 false).wrN Reg.clk_REF_MEAS 0).rd a := by
  rw [loseRef_eq, (quieted_faultNow ..).rd a ha, refStopped_rd]
theorem loseRef_spec : d.loseRef.time.refOk = false ∧ d.loseRef.timeState = 0 ∧ d.loseRef.timeValid = false ∧
    d.loseRef.bit Reg.time_STATUS 1 = false ∧ d.loseRef.rdN Reg.clk_REF_MEAS = 0 ∧ d.loseRef.bit Reg.clk_STATUS 7 = false ∧
    d.loseRef.bit Reg.time_EVENTS 4 = true ∧ (d.spll = 2 → d.loseRef.spll = 1 ∧ d.loseRef.bit Reg.clk_STATUS 0 = false) ∧
    d.loseRef.bit Reg.clk_STATUS 9 = d.bit Reg.clk_STATUS 9 := by
  have hclk {a : Nat} (ha : 0x1200000 ≤ a ∧ a < 0x1309000) := loseRef_shows d (a := a) (.inr (.inr (.inl ha)))
  have htime {a : Nat} (ha : a < 0x233000) := loseRef_shows d (a := a) (.inl ha)
  obtain ⟨hstate, hvalid, hflag⟩ := refTimeLost_state d
  obtain ⟨hlock, hswap⟩ := refTimeLost_lock d
  have hfault := (quieted_faultNow d.refTimeLost.refStopped 1 0x44 0 0 [d.refTimeLost.rdN Reg.clk_REF_MEAS]).part
  rw [← loseRef_eq] at hfault
  have hoff (i : Nat) (hi : 1 ≠ i) : d.loseRef.bit Reg.time_STATUS i = d.refTimeLost.bit Reg.time_STATUS i := by
    rw [bit_of_rd (htime (by decide)), bit_wrN_ne _ _ _ (by decide), bit_setBit_ne _ _ _ _ (by decide), bit_of_rd (refOff_rd ..),
      bit_setBit_other _ _ _ _ _ (by decide) hi]
  have hother (i : Nat) (hi : 7 ≠ i) : d.loseRef.bit Reg.clk_STATUS i = d.refTimeLost.bit Reg.clk_STATUS i := by
    rw [bit_of_rd (hclk (by decide)), bit_wrN_ne _ _ _ (by decide), bit_setBit_other _ _ _ _ _ (by decide) hi, bit_of_rd (refOff_rd ..),
      bit_setBit_ne _ _ _ _ (by decide)]
  refine ⟨?_, ?_, (hoff 0 (by decide)).trans hvalid, ?_, ?_, ?_, ?_, fun h => ⟨?_, (hother 0 (by decide)).trans (hlock h).2⟩, (hother 9 (by decide)).trans hswap⟩
  · rw [(acc_of_quiet hfault).2.2.1, refStopped_time]
  · rw [← hstate, timeState, fld, rdN, htime (by decide), ← rdN, ← fld, fld_wrN_ne _ _ _ _ (by decide), fld_setBit_ne _ _ _ _ _ (by decide)]
    exact fld_setBit_other _ _ _ _ _ _ (by decide) (by decide)
  · rw [bit_of_rd (htime (by decide)), bit_wrN_ne _ _ _ (by decide), bit_setBit_ne _ _ _ _ (by decide), bit_of_rd (refOff_rd ..), bit_setBit_same _ _ _ _ (by decide)]
  · rw [rdN, hclk (by decide), ← rdN, rdN_wrN_same]
    rfl
  · rw [bit_of_rd (hclk (by decide)), bit_wrN_ne _ _ _ (by decide), bit_setBit_same _ _ _ _ (by decide)]
  · rw [bit_of_rd (htime (by decide)), bit_wrN_ne _ _ _ (by decide), bit_setBit_ne _ _ _ _ (by decide), bit_of_rd (refOff_rd ..),
      bit_setBit_ne _ _ _ _ (by decide), hflag]
  · rw [← (hlock h).1, spll, fld, rdN, hclk (by decide), ← rdN, ← fld, fld_wrN_ne _ _ _ _ (by decide), fld_setBit_other _ _ _ _ _ _ (by decide) (by decide)]
    exact fld_setBit_ne _ _ _ _ _ (by decide)
end loseRef

/-! ## The end of a reference swap -/

/-- The swap is over, and the time is no longer aligned. -/
def swapOver (d : Dev) : Dev := (d.setBit Reg.clk_STATUS 9 false).setBit Reg.time_STATUS 1 false
/-- The reference of `f` kHz is taken for the running set. -/
def refTaken (d : Dev) (f : Nat) : Dev := { d with clk := { d.clk with fref := f } }
/-- FDC_KHZ shows `x` in both blocks. -/
def fdcShown (d : Dev) (x : Nat) : Dev := (d.wrN Reg.clk_FDC_KHZ x).wrN Reg.glob_FDC_KHZ x
theorem refSwapDoneD_eq (timedOut : Bool) (d : Dev) : refSwapDoneD timedOut d =
    if !d.bit Reg.clk_STATUS 9 ∨ (!(d.time.refOk && d.activeSet.near (d.rdN Reg.clk_REF_MEAS)) ∧ !timedOut) then d
    else if !(d.time.refOk && d.activeSet.near (d.rdN Reg.clk_REF_MEAS)) then d.swapOver.loseRef
    else (((d.swapOver.refTaken (d.rdN Reg.clk_REF_MEAS)).fdcShown (d.activeSet.fdc (d.rdN Reg.clk_REF_MEAS))).raise Reg.clk_EVENTS 512).acquire := rfl

section swap
variable {d : Dev} (hswap : d.bit Reg.clk_STATUS 9 = true)
include hswap

theorem refSwapDone_agrees (hagrees : d.time.refOk = true ∧ d.activeSet.near (d.rdN Reg.clk_REF_MEAS) = true) (b : Bool) :
    (refSwapDoneD b d).bit Reg.clk_STATUS 9 = false ∧ (refSwapDoneD b d).bit Reg.time_STATUS 1 = false ∧ (refSwapDoneD b d).spll = 1 ∧
      (refSwapDoneD b d).clk.fref = d.rdN Reg.clk_REF_MEAS ∧ (refSwapDoneD b d).bit Reg.clk_EVENTS 9 = true := by
  have hyes : (d.time.refOk && d.activeSet.near (d.rdN Reg.clk_REF_MEAS)) = true := Bool.and_eq_true_iff.mpr hagrees
  have hgo : ¬ ((!d.bit Reg.clk_STATUS 9) = true ∨ ((!true) = true ∧ (!b) = true)) := by
    rw [hswap]
    rintro (h | h)
    · exact Bool.noConfusion h
    · exact Bool.noConfusion h.1
  rw [refSwapDoneD_eq, hyes, if_neg hgo, if_neg (by decide)]
  have htaken (x : Dev) (f : Nat) : (x.refTaken f).rd = x.rd ∧ (x.refTaken f).clk = { x.clk with fref := f } := ⟨rfl, rfl⟩
  obtain ⟨hrd, hclk⟩ := htaken d.swapOver (d.rdN Reg.clk_REF_MEAS)
  generalize d.swapOver.refTaken (d.rdN Reg.clk_REF_MEAS) = x at *
  generalize d.activeSet.fdc (d.rdN Reg.clk_REF_MEAS) = n
  have hclk' : ((x.fdcShown n).raise Reg.clk_EVENTS 512).clk = x.clk := (raise_clk ..).trans ((wrN_clk ..).trans (wrN_clk ..))
  have hold {a : Nat} (h₁ : Reg.clk_EVENTS ≠ a) (h₂ : Reg.glob_FDC_KHZ ≠ a) (h₃ : Reg.clk_FDC_KHZ ≠ a) :
      ((x.fdcShown n).raise Reg.clk_EVENTS 512).rd a = d.swapOver.rd a := by
    rw [rd_raise_ne _ _ h₁, fdcShown, rd_wrN_ne _ _ h₂, rd_wrN_ne _ _ h₃, hrd]
  refine ⟨?_, ?_, (acquire_state _).1, ?_, ?_⟩
  · rw [acquire_bit _ (by decide), bit_of_rd (hold (by decide) (by decide) (by decide)), swapOver, bit_setBit_ne _ _ _ _ (by decide), bit_setBit_same _ _ _ _ (by decide)]
  · rw [bit_of_rd (acquire_rd _ (by decide)), bit_of_rd (hold (by decide) (by decide) (by decide)), swapOver, bit_setBit_same _ _ _ _ (by decide)]
  · rw [acquire_clk, hclk', hclk]
  · rw [bit_of_rd (acquire_rd _ (by decide)), bit_raise_same _ _ _ _ (by decide) (by decide)]
    exact Bool.or_true _
variable (hdiffers : ¬ (d.time.refOk = true ∧ d.activeSet.near (d.rdN Reg.clk_REF_MEAS) = true))
include hdiffers
omit hswap in
theorem not_agrees : (d.time.refOk && d.activeSet.near (d.rdN Reg.clk_REF_MEAS)) = false := by
  rw [← Bool.not_eq_true, Bool.and_eq_true_iff]
  exact hdiffers
omit hswap in
theorem refSwapDone_waits : refSwapDoneD false d = d := by
  rw [refSwapDoneD_eq, not_agrees hdiffers]
  exact if_pos (.inr ⟨rfl, rfl⟩)
theorem refSwapDone_gives_up : (refSwapDoneD true d).bit Reg.clk_STATUS 9 = false ∧ (refSwapDoneD true d).time.refOk = false ∧ (refSwapDoneD true d).timeState = 0 := by
  have hgo : ¬ ((!d.bit Reg.clk_STATUS 9) = true ∨ ((!false) = true ∧ (!true) = true)) := by
    rw [hswap]
    decide
  rw [refSwapDoneD_eq, not_agrees hdiffers, if_neg hgo, if_pos (by decide)]
  obtain ⟨hoff, hstate, -, -, -, -, -, -, hkept⟩ := loseRef_spec d.swapOver
  refine ⟨?_, hoff, hstate⟩
  rw [hkept, swapOver, bit_setBit_ne _ _ _ _ (by decide), bit_setBit_same _ _ _ _ (by decide)]
end swap

/-! ## The edge of a pending set -/

/-- The shadow set is the running one. -/
def setRun (d : Dev) : Dev :=
  ((d.setBit Reg.clk_STATUS 8 false).wr Reg.clk_SPLL_ACT ((d.setBit Reg.clk_STATUS 8 false).rd Reg.clk_SPLL_SH)).wr Reg.clk_SPLL_ACT_FRAC
    ((d.setBit Reg.clk_STATUS 8 false).rd Reg.clk_SPLL_SH_FRAC)
/-- The accumulator adds `rho` at each edge. -/
def rateSet (d : Dev) (rho : Nat) : Dev :=
  { (d.wr64 Reg.time_RATIO_LO rho) with time := { (d.wr64 Reg.time_RATIO_LO rho).time with ph := (d.wr64 Reg.time_RATIO_LO rho).time.ph % max 1 rho } }
/-- Device time is COARSE and the channels are held. -/
def edgeHeld (d : Dev) : Dev := (((d.setRun.timeLost 1 0).rateSet d.shadowSet.rho).holdLive 4).raise Reg.clk_EVENTS 16
/-- The SPLL stops for a reference swap. -/
def swapBegun (d : Dev) : Dev := ((d.setBit Reg.clk_STATUS 9 true).setFld Reg.clk_STATUS 2 2 0).setBit Reg.clk_STATUS 0 false
theorem applyEdgeD_of_due {d : Dev} (hpend : d.bit Reg.clk_STATUS 8 = true) (href : d.time.refOk = true)
    (hdue : d.rd64 Reg.clk_APPLY_AT_LO * 2^32 ≤ d.accEdge) : applyEdgeD d =
      if d.edgeHeld.clk.swap then d.edgeHeld.swapBegun
      else ((d.edgeHeld.refTaken d.edgeHeld.fref).fdcShown (d.shadowSet.fdc d.edgeHeld.fref)).acquire := by
  refine if_neg ?_
  rw [hpend, href]
  rintro (h | h | h)
  · exact Bool.noConfusion h
  · exact Bool.noConfusion h
  · omega

section edge
variable (d : Dev)

theorem setRun_rd {a : Nat} (hs : Reg.clk_STATUS ≠ a) (ha : Reg.clk_SPLL_ACT ≠ a) (hf : Reg.clk_SPLL_ACT_FRAC ≠ a) : d.setRun.rd a = d.rd a := by
  rw [setRun, rd_wr_ne _ _ hf, rd_wr_ne _ _ ha, rd_setBit_ne _ _ _ hs]
theorem setRun_spec : d.setRun.bit Reg.clk_STATUS 8 = false ∧ d.setRun.rd Reg.clk_SPLL_ACT = d.rd Reg.clk_SPLL_SH ∧
    d.setRun.rd Reg.clk_SPLL_ACT_FRAC = d.rd Reg.clk_SPLL_SH_FRAC ∧ d.setRun.base = d.base := by
  unfold setRun
  refine ⟨?_, ?_, ?_, (base_wr ..).trans ((base_wr ..).trans (base_setBit ..))⟩
  · rw [bit_of_rd (rd_wr_ne _ _ (by decide)), bit_of_rd (rd_wr_ne _ _ (by decide)), bit_setBit_same _ _ _ _ (by decide)]
  · rw [rd_wr_ne _ _ (by decide), rd_wr_same, rd_setBit_ne _ _ _ (by decide)]
  · rw [rd_wr_same, rd_setBit_ne _ _ _ (by decide)]
theorem rateSet_rd (rho a : Nat) : (d.rateSet rho).rd a = (d.wr64 Reg.time_RATIO_LO rho).rd a := rfl
theorem rateSet_chan (rho : Nat) : (d.rateSet rho).chan = d.chan := rfl
theorem rateSet_clk (rho : Nat) : (d.rateSet rho).clk = d.clk := rfl
theorem keepsHolds_rateSet (rho : Nat) : keepsHolds d (d.rateSet rho) :=
  keepsHolds_of_chan (fun _ ha => (rateSet_rd d rho _).trans
    (rd_wr64_ne _ _ (by rintro rfl; exact notStill_of_low (by decide) ha) (by rintro rfl; exact notStill_of_low (by decide) ha)))
    (rateSet_chan ..)

theorem rd64_wr64_mod (a v : Nat) : (d.wr64 a v).rd64 a = v % 2^64 := by
  rw [rd64, wr64, rdN_wrN_same, rdN_wrN_ne _ _ (by omega), rdN_wrN_same]
  omega
/-- What the edge leaves in a register. -/
theorem edgeHeld_shows {a : Nat} (ha : calmReg a) (he : Reg.clk_EVENTS ≠ a) :
    d.edgeHeld.rd a = ((d.setRun.timeLost 1 0).wr64 Reg.time_RATIO_LO d.shadowSet.rho).rd a := by
  rw [edgeHeld, rd_raise_ne _ _ he, (quieted_holdLive _ 4).rd a ha, rateSet_rd]
theorem edgeHeld_spec : d.edgeHeld.bit Reg.clk_STATUS 8 = false ∧ d.edgeHeld.rd Reg.clk_SPLL_ACT = d.rd Reg.clk_SPLL_SH ∧
    d.edgeHeld.rd Reg.clk_SPLL_ACT_FRAC = d.rd Reg.clk_SPLL_SH_FRAC ∧ d.edgeHeld.timeState = 1 ∧ d.edgeHeld.timeValid = false ∧
    d.edgeHeld.rd64 Reg.time_RATIO_LO = d.shadowSet.rho % 2^64 ∧ d.edgeHeld.bit Reg.clk_EVENTS 4 = true ∧
    (∀ n < 96, d.chMode n ≠ 0 → (d.edgeHeld.chanOf n).hold = true) ∧ d.edgeHeld.clk = d.clk := by
  have hcalm {a : Nat} (ha : 0x1200000 ≤ a ∧ a < 0x1309000) : calmReg a := .inr (.inr (.inl ha))
  obtain ⟨hpend, hact, hfrac, hbase⟩ := setRun_spec d
  have hclk {a : Nat} (ha : 0x1200000 ≤ a ∧ a < 0x1309000) (he : Reg.clk_EVENTS ≠ a) : d.edgeHeld.rd a = d.setRun.rd a := by
    rw [edgeHeld_shows d (hcalm ha) he, rd_wr64_ne _ _ (by unfold Reg.time_RATIO_LO; omega) (by unfold Reg.time_RATIO_LO; omega),
      timeLost_rd _ _ _ (hcalm ha) (by unfold Reg.time_STATUS; omega) (by unfold Reg.time_EVENTS; omega)]
  have hstatus : d.edgeHeld.rd Reg.time_STATUS = (d.setRun.timeLost 1 0).rd Reg.time_STATUS := by
    rw [edgeHeld_shows d (.inl (by decide)) (by decide), rd_wr64_ne _ _ (by decide) (by decide)]
  obtain ⟨hstate, hvalid⟩ := timeLost_state d.setRun (s := 1) (by decide) 0
  have hlost := timeLost_quiet d.setRun 1 0
  have hkept : keepsHolds d ((d.setRun.timeLost 1 0).rateSet d.shadowSet.rho) := by
    refine keepsHolds_trans (keepsHolds_trans (keepsHolds_of_chan (fun a ha => ?_) (chan_of_base hbase)) hlost.2) (keepsHolds_rateSet ..)
    have hclk : ∀ b, 0x1200000 ≤ b → b ≠ a := by
      rintro b hb rfl
      exact notStill_of_high hb ha
    exact setRun_rd d (hclk _ (by decide)) (hclk _ (by decide)) (hclk _ (by decide))
  refine ⟨?_, (hclk (by decide) (by decide)).trans hact, (hclk (by decide) (by decide)).trans hfrac, ?_, (bit_of_rd hstatus 0).trans hvalid, ?_, ?_, ?_, ?_⟩
  · rw [bit_of_rd (hclk (by decide) (by decide)), hpend]
  · rw [timeState, fld, rdN, hstatus]
    exact hstate
  · have hrate {a : Nat} (ha : calmReg a) (he : Reg.clk_EVENTS ≠ a) := edgeHeld_shows d ha he
    have h64 : d.edgeHeld.rd64 Reg.time_RATIO_LO = ((d.setRun.timeLost 1 0).wr64 Reg.time_RATIO_LO d.shadowSet.rho).rd64 Reg.time_RATIO_LO := by
      rw [rd64, rdN, rdN, hrate (.inl (by decide)) (by decide), hrate (.inl (by decide)) (by decide), rd64, rdN, rdN]
    rw [h64, rd64_wr64_mod]
  · rw [edgeHeld, bit_raise_same _ _ _ _ (by decide) (by decide)]
    exact Bool.or_true _
  · intro n hn hmode
    have hheld := holdLive_hold ((d.setRun.timeLost 1 0).rateSet d.shadowSet.rho) 4 hn (by rwa [chMode_of_keeps hkept hn])
    rwa [edgeHeld, chanOf_of_chan (raise_chan ..)]
  · rw [edgeHeld, raise_clk, clk_of_quiet (quieted_holdLive _ 4).part, rateSet_clk, clk_of_quiet hlost.1, clk_of_base hbase]
end edge

/-- The edge's end keeps all but a few registers of the clocks. -/
theorem edge_end_rd {d : Dev} (f n : Nat) {a : Nat} (hs : Reg.clk_STATUS ≠ a) (hf : Reg.clk_FDC_KHZ ≠ a) (hg : Reg.glob_FDC_KHZ ≠ a) :
    (((d.refTaken f).fdcShown n).acquire).rd a = d.rd a ∧ d.swapBegun.rd a = d.rd a := by
  have htaken : (d.refTaken f).rd a = d.rd a := rfl
  constructor
  · rw [acquire_rd _ hs, fdcShown, rd_wrN_ne _ _ hg, rd_wrN_ne _ _ hf, htaken]
  · rw [swapBegun, rd_setBit_ne _ _ _ hs, rd_setFld_ne _ _ _ _ hs, rd_setBit_ne _ _ _ hs]
theorem edge_end_chan (d : Dev) (f n : Nat) : (((d.refTaken f).fdcShown n).acquire).chan = d.chan ∧ d.swapBegun.chan = d.chan := by
  have htaken : (d.refTaken f).chan = d.chan := rfl
  exact ⟨(acquire_chan _).trans ((wrN_chan ..).trans ((wrN_chan ..).trans htaken)), (setBit_chan ..).trans ((setFld_chan ..).trans (setBit_chan ..))⟩
theorem edge_end_lock (d : Dev) (f n : Nat) : (((d.refTaken f).fdcShown n).acquire).spll = 1 ∧
    (((d.refTaken f).fdcShown n).acquire).bit Reg.clk_STATUS 8 = d.bit Reg.clk_STATUS 8 ∧ d.swapBegun.spll = 0 ∧
    d.swapBegun.bit Reg.clk_STATUS 9 = true ∧ d.swapBegun.bit Reg.clk_STATUS 8 = d.bit Reg.clk_STATUS 8 := by
  have htaken : (d.refTaken f).rd Reg.clk_STATUS = d.rd Reg.clk_STATUS := rfl
  refine ⟨(acquire_state _).1, ?_, ?_, ?_, ?_⟩
  · rw [acquire_bit _ (by decide), fdcShown, bit_wrN_ne _ _ _ (by decide), bit_wrN_ne _ _ _ (by decide), bit_of_rd htaken]
  · rw [swapBegun, spll, fld_setBit_other _ _ _ _ _ _ (by decide) (by decide), fld_setFld_same _ _ _ _ _ (by decide)]
    rfl
  · rw [swapBegun, bit_setBit_other _ _ _ _ _ (by decide) (by decide), bit_setFld_other _ _ _ _ _ _ (by decide) (by decide), bit_setBit_same _ _ _ _ (by decide)]
  · rw [swapBegun, bit_setBit_other _ _ _ _ _ (by decide) (by decide), bit_setFld_other _ _ _ _ _ _ (by decide) (by decide),
      bit_setBit_other _ _ _ _ _ (by decide) (by decide)]

/-- A set's edge that is due. -/
theorem applyEdgeD_spec {d : Dev} (hpend : d.bit Reg.clk_STATUS 8 = true) (href : d.time.refOk = true)
    (hdue : d.rd64 Reg.clk_APPLY_AT_LO * 2^32 ≤ d.accEdge) :
    (applyEdgeD d).bit Reg.clk_STATUS 8 = false ∧ (∀ a, Reg.clk_STATUS ≠ a → Reg.clk_FDC_KHZ ≠ a → Reg.glob_FDC_KHZ ≠ a → (applyEdgeD d).rd a = d.edgeHeld.rd a) ∧
      (applyEdgeD d).chan = d.edgeHeld.chan ∧ (d.clk.swap = true → (applyEdgeD d).bit Reg.clk_STATUS 9 = true ∧ (applyEdgeD d).spll = 0) ∧
      (d.clk.swap = false → (applyEdgeD d).spll = 1) := by
  obtain ⟨hclear, -, -, -, -, -, -, -, hclk⟩ := edgeHeld_spec d
  obtain ⟨hlock, hlow, hstop, hswap, hlow'⟩ := edge_end_lock d.edgeHeld d.edgeHeld.fref (d.shadowSet.fdc d.edgeHeld.fref)
  obtain ⟨hchan, hchan'⟩ := edge_end_chan d.edgeHeld d.edgeHeld.fref (d.shadowSet.fdc d.edgeHeld.fref)
  rw [applyEdgeD_of_due hpend href hdue, hclk]
  cases h : d.clk.swap with
  | true =>
    rw [if_pos rfl]
    exact ⟨hlow'.trans hclear, fun a hs hf hg => (edge_end_rd 0 0 hs hf hg).2, hchan', fun _ => ⟨hswap, hstop⟩, fun h => Bool.noConfusion h⟩
  | false =>
    rw [if_neg Bool.false_ne_true]
    exact ⟨hlow.trans hclear, fun a hs hf hg => (edge_end_rd _ _ hs hf hg).1, hchan, fun h => Bool.noConfusion h, fun _ => hlock⟩
end Dev

/-- Settles O37: the edge of a set, the loss of the reference and the end of a swap. -/
theorem clockSetsAndReferencesChange : Obligations.ClockSetsAndReferencesChange := by
  intro s d
  refine ⟨fun hpend href hdue => ?_, fun href hswap => ?_, fun hswap => ?_⟩
  · refine State.runs_of_onDev (exec_applyEdge s) rfl ?_
    obtain ⟨-, hact, hfrac, hstate, hvalid, hrate, hflag, hhold, -⟩ := Dev.edgeHeld_spec d
    obtain ⟨hclear, hrd, hchan, hswap, hlock⟩ := Dev.applyEdgeD_spec hpend href hdue
    have hstatus := hrd Reg.time_STATUS (by decide) (by decide) (by decide)
    refine ⟨hclear, (hrd _ (by decide) (by decide) (by decide)).trans hact, (hrd _ (by decide) (by decide) (by decide)).trans hfrac, ?_,
      (Dev.bit_of_rd hstatus 0).trans hvalid, ?_, (Dev.bit_of_rd (hrd _ (by decide) (by decide) (by decide)) 4).trans hflag, fun n hn hmode => ?_, hswap, hlock⟩
    · rw [Dev.timeState, Dev.fld, Dev.rdN, hstatus]
      exact hstate
    · rw [Dev.rd64, Dev.rdN, Dev.rdN, hrd _ (by decide) (by decide) (by decide), hrd _ (by decide) (by decide) (by decide)]
      exact hrate
    · rw [Dev.chanOf_of_chan hchan, hhold n hn hmode]
  · refine State.runs_of_onDev (exec_refLost s) rfl ?_
    have hgo : refLostD d = d.loseRef := if_neg (by rw [href, hswap]; decide)
    rw [hgo]
    obtain ⟨hoff, hstate, hvalid, haligned, hmeas, hpresent, hflag, hlock, -⟩ := Dev.loseRef_spec d
    exact ⟨hoff, hstate, hvalid, haligned, hmeas, hpresent, hflag, hlock⟩
  · intro agrees
    refine ⟨fun h b => ?_, fun h => ?_, fun h => ?_⟩
    · exact State.runs_of_onDev (exec_refSwapDone b s) rfl (Dev.refSwapDone_agrees hswap h b)
    · exact State.runs_of_onDev (exec_refSwapDone false s) rfl (Dev.refSwapDone_waits h)
    · exact State.runs_of_onDev (exec_refSwapDone true s) rfl (Dev.refSwapDone_gives_up hswap h)
end Sys2Proof.Machine

/-! PROOFS. Nothing but a command puts a DMC into self-refresh: neither faults nor the traffic of DRAM do (R395). -/
namespace Sys2Proof.Machine
namespace Dev

/-- No DMC has entered self-refresh. -/
structure leavesSr (d d' : Dev) : Prop where
  kept : ∀ m < 8, d.inSr m = false → d'.inSr m = false

section leavesSr
variable (d : Dev)

theorem leavesSr_refl : leavesSr d d := ⟨fun _ _ h => h⟩
variable {d} in
theorem leavesSr_trans {d' d'' : Dev} (h : leavesSr d d') (h' : leavesSr d' d'') : leavesSr d d'' :=
  ⟨fun m hm hd => h'.kept m hm (h.kept m hm hd)⟩
variable {d} in
theorem leavesSr_ite {d' d'' : Dev} {p : Prop} [Decidable p] (h : p → leavesSr d d') (h' : ¬ p → leavesSr d d'') : leavesSr d (if p then d' else d'') :=
  iteInduction (motive := fun x => leavesSr d x) h h'
theorem leavesSr_foldl {α : Type} (l : List α) {f : Dev → α → Dev} (h : ∀ x ∈ l, ∀ d, leavesSr d (f d x)) : leavesSr d (l.foldl f d) :=
  foldl_invariant (P := fun x => leavesSr d x) (fun x i hi hx => leavesSr_trans hx (h i hi x)) (leavesSr_refl d)
variable {d} in
theorem leavesSr_of_regs {d' : Dev} (h : d'.regs = d.regs) : leavesSr d d' :=
  ⟨fun m _ hd => (bit_of_rd (rd_of_regs h (Reg.dram_STATUS m)) 4).trans hd⟩
variable {d} in
theorem leavesSr_of_keeps {d' : Dev} (h : keepsHolds d d') : leavesSr d d' :=
  ⟨fun m hm hd => (bit_of_rd (h.dram (a := Reg.dram_STATUS m) (by unfold Reg.dram_STATUS; omega)) 4).trans hd⟩

/-- The register is no STATUS of a DMC. -/
def notSr (a : Nat) : Prop := ∀ m < 8, Reg.dram_STATUS m ≠ a
theorem notSr_block (m : Nat) {o : Nat} (h : o ≠ 4) (ho : o < 0x10000) : notSr (0x1000000 + 0x10000 * m + o) := fun k _ => by
  unfold Reg.dram_STATUS
  omega
theorem notSr_of_high {a : Nat} (h : 0x1080000 ≤ a) : notSr a := fun k hk => by
  unfold Reg.dram_STATUS
  omega

theorem notSr_of_mod {a : Nat} (h : a % 0x4000 ≠ 4) : notSr a := fun k _ => by
  unfold Reg.dram_STATUS
  omega

section writes
variable {a : Nat} (h : notSr a)
include h
theorem leavesSr_wrN (v : Nat) : leavesSr d (d.wrN a v) := ⟨fun m hm hd => (bit_wrN_ne d _ _ (h m hm).symm).trans hd⟩
theorem leavesSr_setFld (lo w v : Nat) : leavesSr d (d.setFld a lo w v) := leavesSr_wrN d h _
theorem leavesSr_setBit (i : Nat) (b : Bool) : leavesSr d (d.setBit a i b) := leavesSr_wrN d h _
theorem leavesSr_raise (m : Nat) : leavesSr d (d.raise a m) := leavesSr_wrN d h _
theorem leavesSr_bump : leavesSr d (d.bump a) := leavesSr_wrN d h _
theorem leavesSr_wr64 (h4 : notSr (a + 4)) (v : Nat) : leavesSr d (d.wr64 a v) := leavesSr_trans (leavesSr_wrN d h _) (leavesSr_wrN _ h4 _)
end writes

theorem leavesSr_setOwed (m o : Nat) : leavesSr d (d.setOwed m o) := by
  refine ⟨fun k _ hd => ?_⟩
  unfold inSr setOwed
  by_cases h : Reg.dram_STATUS m = Reg.dram_STATUS k
  · rw [h, bit_setFld_other _ _ _ _ _ _ (by decide) (by decide)]
    exact hd
  · rw [bit_of_rd (rd_setFld_ne _ _ _ _ h)]
    exact hd
theorem leavesSr_exitSr (m : Nat) : leavesSr d (d.exitSr m) := by
  unfold exitSr
  refine leavesSr_ite (fun _ => leavesSr_refl d) fun _ => leavesSr_trans (leavesSr_setOwed d m 0) ⟨fun k _ hd => ?_⟩
  unfold inSr at hd ⊢
  by_cases h : Reg.dram_STATUS m = Reg.dram_STATUS k
  · rw [h, bit_setBit_same _ _ _ _ (by decide)]
  · rw [bit_setBit_ne _ _ _ _ h, hd]
theorem leavesSr_updDmc (m : Nat) (f : Dmc → Dmc) : leavesSr d (d.updDmc m f) := leavesSr_of_regs rfl

/-! ## The traffic of DRAM -/

theorem leavesSr_touchAt (m l : Nat) (write : Bool) (n : Nat) : leavesSr d (d.touchAt m l write n) := by
  have hwoken : leavesSr d (if d.inSr m then d.exitSr m else d) := leavesSr_ite (fun _ => leavesSr_exitSr d m) fun _ => leavesSr_refl d
  have hcounted (d : Dev) : leavesSr d (d.addSat64 (if write then Reg.dram_WR_BYTES_LO m else Reg.dram_RD_BYTES_LO m) n) := by
    unfold addSat64
    have hcount {a : Nat} (ha : a % 0x4000 ≠ 4) (ha' : (a + 4) % 0x4000 ≠ 4) (v : Nat) : leavesSr d (d.wr64 a v) :=
      leavesSr_wr64 d (notSr_of_mod ha) (notSr_of_mod ha') v
    split
    · exact hcount (by unfold Reg.dram_WR_BYTES_LO; omega) (by unfold Reg.dram_WR_BYTES_LO; omega) _
    · exact hcount (by unfold Reg.dram_RD_BYTES_LO; omega) (by unfold Reg.dram_RD_BYTES_LO; omega) _
  exact leavesSr_trans (leavesSr_trans hwoken (hcounted _)) (leavesSr_updDmc ..)
theorem leavesSr_touch (write : Bool) (a n : Nat) : leavesSr d (d.touch write a n) := by
  rw [touch_eq]
  exact leavesSr_touchAt ..
theorem leavesSr_fillPass (g : Nat) : leavesSr d (d.fillPass g) := by
  unfold fillPass
  exact leavesSr_ite (fun _ => leavesSr_refl d) fun _ => leavesSr_foldl d _ fun p _ d => leavesSr_touch d true p.1 p.2

theorem leavesSr_correctedBy (m l map : Nat) : leavesSr d (d.correctedBy m l map) := by
  unfold correctedBy
  extract_lets x tick device times storm counted fired noted
  have hcounted : leavesSr d counted := leavesSr_trans (leavesSr_trans (leavesSr_bump d (notSr_block m (by norm_num) (by norm_num)))
    (leavesSr_raise _ (notSr_block m (by norm_num) (by norm_num)) _)) (leavesSr_wrN _ (notSr_block m (by norm_num) (by norm_num)) _)
  have hfired : leavesSr counted fired := leavesSr_ite (fun _ => leavesSr_refl _) fun _ => leavesSr_of_keeps (keepsHolds_fireNow ..)
  have hnoted : leavesSr fired noted := leavesSr_updDmc ..
  have hall := leavesSr_trans (leavesSr_trans hcounted hfired) hnoted
  clear_value noted
  exact leavesSr_ite (fun _ => leavesSr_trans hall (leavesSr_of_keeps (keepsHolds_faultOf ..))) fun _ => hall
theorem leavesSr_correctOne (q : Nat × Nat × Nat) : leavesSr d (d.correctOne q) := by
  unfold correctOne
  have h := leavesSr_correctedBy d (d.place (q.1 * 128)).1 (d.place (q.1 * 128)).2 q.2.1
  generalize d.correctedBy _ _ _ = d₁ at h ⊢
  exact leavesSr_trans h (leavesSr_of_regs rfl)
theorem leavesSr_correct (write : Bool) (a len : Nat) : leavesSr d (d.correct write a len) := by
  rw [correct_eq]
  exact leavesSr_foldl d _ fun q _ d => leavesSr_correctOne d q
theorem leavesSr_served (write : Bool) (a n : Nat) : leavesSr d (d.served write a n) := by
  unfold served
  extract_lets filled passed
  have hfilled : leavesSr d filled := leavesSr_ite (fun _ => leavesSr_foldl d _ fun i _ d => leavesSr_fillPass d _) fun _ => leavesSr_refl d
  have hpassed : leavesSr filled passed := leavesSr_foldl _ _ fun p _ d => leavesSr_ite (fun _ => leavesSr_refl d) fun _ => leavesSr_touch ..
  exact leavesSr_trans (leavesSr_trans hfilled hpassed) (leavesSr_correct ..)

theorem leavesSr_frzN (n : Nat) : leavesSr d { d with frzN := n } := leavesSr_of_regs rfl
theorem leavesSr_badCw (m : SMap (Option (Nat × Nat))) : leavesSr d { d with badCw := m } := leavesSr_of_regs rfl
theorem leavesSr_freezeBy (m port addr loc : Nat) (readPart ca held : Bool) (map digest : Nat) :
    leavesSr d (d.freezeBy m port addr loc readPart ca held map digest) := by
  unfold freezeBy
  extract_lets put raised another extra info snapped marked kept limited dated paid fired
  have hput (d : Dev) (i : Nat) : leavesSr d (put d i) := by
    have hreg : ∀ o < 16, notSr (0x1080120 + 16 * i + o) := fun o _ => notSr_of_high (by omega)
    exact leavesSr_trans (leavesSr_trans (leavesSr_trans (leavesSr_wrN d (hreg _ (by norm_num)) _) (leavesSr_wrN _ (hreg _ (by norm_num)) _))
      (leavesSr_wrN _ (hreg _ (by norm_num)) _)) (leavesSr_wrN _ (hreg _ (by norm_num)) _)
  have hglobal {a : Nat} (ha : 0x1080000 ≤ a) : notSr a := notSr_of_high ha
  have hraised : leavesSr d raised := leavesSr_raise d (notSr_block m (by norm_num) (by norm_num)) 2
  have hsnapped : leavesSr raised snapped := by
    refine leavesSr_foldl _ _ fun x _ d => leavesSr_foldl _ _ fun q hq d => ?_
    have hq8 : q.2 < 8 := (List.snd_lt_of_mem_zipIdx hq).trans_le (List.length_take_le ..)
    have hreg : ∀ o < 8, notSr (0x1000100 + 0x10000 * x + 8 * q.2 + o) := fun o ho k _ => by
      unfold Reg.dram_STATUS
      omega
    exact leavesSr_trans (leavesSr_wrN d (hreg _ (by norm_num)) _) (leavesSr_wrN _ (hreg _ (by norm_num)) _)
  have hmarked : leavesSr snapped marked := leavesSr_trans (leavesSr_setBit _ (hglobal (by decide)) ..) (leavesSr_wrN _ (hglobal (by decide)) _)
  have hkept : leavesSr marked kept := leavesSr_ite (fun _ => hput _ 0) fun _ => leavesSr_refl _
  have hlimited : leavesSr kept limited := leavesSr_frzN ..
  have hdated : leavesSr limited dated := leavesSr_trans (leavesSr_wr64 _ (a := Reg.dramG_FRZ_AT_LO) (hglobal (by decide)) (hglobal (by decide)) _)
    (leavesSr_raise _ (a := Reg.dramG_EVENTS) (hglobal (by decide)) _)
  have hpaid : leavesSr dated paid := leavesSr_foldl _ _ fun x _ d => leavesSr_setOwed d x 0
  have hfired : leavesSr paid fired := leavesSr_of_keeps (keepsHolds_fireNow ..)
  refine leavesSr_ite (fun _ => ?_) fun _ => ?_
  · refine leavesSr_trans hraised (leavesSr_ite (fun _ => leavesSr_refl _) fun _ => leavesSr_ite (fun _ => ?_) fun _ => ?_)
    · exact leavesSr_trans (leavesSr_trans (hput _ _) (leavesSr_frzN ..)) (leavesSr_setFld _ (hglobal (by decide)) ..)
    · exact leavesSr_trans (leavesSr_bump _ (hglobal (by decide))) (leavesSr_badCw ..)
  · exact leavesSr_trans (leavesSr_trans (leavesSr_trans (leavesSr_trans (leavesSr_trans (leavesSr_trans (leavesSr_trans (leavesSr_trans
      hraised hsnapped) hmarked) hkept) hlimited) hdated) hpaid) hfired) (leavesSr_of_keeps (keepsHolds_faultOf ..))
theorem leavesSr_freezeAt (port : Nat) (readPart : Bool) (q : Nat × Nat × Nat) : leavesSr d (d.freezeAt port readPart q) := by
  rw [freezeAt_eq]
  exact leavesSr_freezeBy ..
theorem leavesSr_wipeIn (g : Nat) : leavesSr d (d.wipeIn g) := by
  have hwiped : leavesSr d (d.wipedIn g) := leavesSr_of_regs rfl
  rw [wipeIn_eq]
  refine leavesSr_ite (fun _ => leavesSr_refl d) fun _ => leavesSr_trans hwiped (leavesSr_ite (fun _ => ?_) fun _ => leavesSr_refl _)
  exact leavesSr_trans (leavesSr_setBit _ (notSr_of_high (by decide)) ..) (leavesSr_raise _ (notSr_of_high (by decide)) _)
theorem leavesSr_dramWrite (a : Nat) (bs : List Byte) : leavesSr d (d.dramWrite a bs) := by
  unfold dramWrite
  extract_lets g0 g1 d₁
  have h₁ : leavesSr d d₁ := leavesSr_ite (fun _ => leavesSr_refl d) fun _ => leavesSr_foldl d _ fun i _ d => leavesSr_wipeIn d _
  exact leavesSr_trans h₁ (leavesSr_of_regs rfl)
theorem leavesSr_writeDram (a : Nat) (bs : List Byte) : leavesSr d (d.writeDram a bs) := by
  unfold writeDram
  exact leavesSr_trans (leavesSr_served ..) (leavesSr_dramWrite ..)

/-! ## FIFOs and copies of segments -/

theorem leavesSr_drainBytes (k n : Nat) : leavesSr d (d.drainBytes k n) := by
  unfold drainBytes
  extract_lets c a
  refine leavesSr_ite (fun _ => leavesSr_refl d) fun _ => ?_
  split
  · exact leavesSr_freezeAt ..
  · exact leavesSr_trans (leavesSr_writeDram ..) (leavesSr_of_regs (updCap_regs ..))
theorem leavesSr_drainFifo (k : Nat) (all : Bool) : leavesSr d (d.drainFifo k all) := by
  unfold drainFifo
  extract_lets d₁
  have h₁ : leavesSr d d₁ := leavesSr_foldl d _ fun _ _ d => leavesSr_ite (fun _ => leavesSr_refl d) fun _ => leavesSr_drainBytes ..
  exact leavesSr_ite (fun _ => leavesSr_refl d) fun _ => leavesSr_ite (fun _ => leavesSr_trans h₁ (leavesSr_drainBytes ..)) fun _ => h₁
theorem leavesSr_copyResident (n : Nat) (r : Resident) : leavesSr d (d.copyResident n r) := by
  have hbank (x : Dev) (s : Nat) : leavesSr x (x.setScState n s) := leavesSr_setFld x (notSr_of_mod (by unfold Reg.chn_SC_STATUS chnBase; omega)) ..
  have hcleared : leavesSr d (d.clearBank n) := leavesSr_of_regs rfl
  have hon : leavesSr d (d.bankOn n) := by
    unfold bankOn
    exact leavesSr_ite (fun _ => leavesSr_refl d) fun _ => leavesSr_ite (fun _ => leavesSr_trans hcleared (hbank ..)) fun _ => hbank ..
  unfold copyResident
  extract_lets ws len d₁
  have h₁ : leavesSr d d₁ := leavesSr_ite (fun _ => leavesSr_refl d) fun _ => hon
  refine leavesSr_ite (fun _ => ?_) fun _ => ?_
  · exact leavesSr_trans h₁ (leavesSr_raise _ (notSr_of_mod (by unfold Reg.chn_SC_EVENTS chnBase; omega)) 4)
  · split
    · next hbad =>
      obtain ⟨q, -, rfl⟩ := Option.map_eq_some_iff.mp hbad
      exact leavesSr_trans h₁ (leavesSr_freezeAt ..)
    · exact leavesSr_trans h₁ (leavesSr_trans (leavesSr_served ..) (leavesSr_of_regs rfl))
theorem leavesSr_copyAllResident : leavesSr d d.copyAllResident :=
  leavesSr_foldl d _ fun c _ d => leavesSr_foldl d _ fun r _ d => leavesSr_copyResident d c.1 r
end leavesSr
end Dev
end Sys2Proof.Machine

/-! PROOFS. Lock of the PLLs, its loss, missing cycles, attempts and holdover (R359, R360, R365, R366, R470). -/
namespace Sys2Proof.Machine

theorem exec_lockWindow (xpll : Bool) (w : LockCount) (s : State) : exec (.lockWindow xpll w) s = s.onDev (lockWindowD xpll w) := rfl
theorem exec_acquisitionTimeout (xpll : Bool) (s : State) : exec (.acquisitionTimeout xpll) s = s.onDev (acquisitionTimeoutD xpll) := rfl
theorem exec_xpllBypass (s : State) : exec .xpllBypass s = s.onDev xpllBypassD := rfl
theorem exec_xpllLock (s : State) : exec .xpllLock s = s.onDev xpllLockD := rfl

namespace Dev

/-! ## Windows of the SPLL -/

/-- The count that a window of the SPLL should give, in 2^-32. -/
def expected (d : Dev) : Nat := d.fref / (100 * d.activeSet.dref) * d.activeSet.m / 4
/-- How far a window is from it. -/
def windowOff (d : Dev) (count : Nat) : Nat := max (count * 2^32) d.expected - min (count * 2^32) d.expected
/-- A window shows. -/
def windowShown (d : Dev) (count : Nat) : Dev := (d.wrN Reg.clk_LOCK_CNT count).wrN Reg.clk_LOCK_EXP (d.expected / 2^32)
/-- A window with `missed` cycles missing shows. -/
def gapShown (d : Dev) (count missed : Nat) : Dev :=
  ((d.refGap missed).wrN Reg.clk_LOCK_CNT (count + missed * d.activeSet.m / 4 / 2^32)).wrN Reg.clk_LOCK_EXP (d.expected / 2^32)
/-- Good windows in a row. -/
def goodCounted (d : Dev) (n : Nat) : Dev := { d with clk := { d.clk with sGood := n } }
/-- A window `off` from what it should be. -/
def windowTaken (d : Dev) (off : Nat) : Dev :=
  if d.spll = 2 then if 8 * 2^32 < off then d.spllLost else if 3 * 2^32 ≤ off then d.lockWarn else d
  else if off ≤ 2 * 2^32 then if 3 ≤ d.clk.sGood + 1 then (d.goodCounted (d.clk.sGood + 1)).spllLocks else d.goodCounted (d.clk.sGood + 1)
  else d.goodCounted 0
/-- A window that a gap has spoiled. -/
def gapTaken (d : Dev) : Dev := if d.spll = 2 then d.spllLost else d.goodCounted 0
theorem lockWindowD_eq (d : Dev) (count missed : Nat) : lockWindowD false ⟨count, missed, none⟩ d =
    if !d.time.refOk ∨ (d.spll ≠ 1 ∧ d.spll ≠ 2) then d
    else if 0 < missed ∧ d.fref ≤ 2000 * missed * d.activeSet.dref then d.loseRef
    else if 0 < missed then (d.gapShown count missed).gapTaken
    else (d.windowShown count).windowTaken (d.windowOff count) := by
  unfold lockWindowD
  dsimp only
  rw [if_neg Bool.false_ne_true]
  rfl

section window
variable (d : Dev)

theorem goodCounted_rd (n a : Nat) : (d.goodCounted n).rd a = d.rd a := rfl
theorem goodCounted_clk (n : Nat) : (d.goodCounted n).clk = { d.clk with sGood := n } := rfl
theorem goodCounted_time (n : Nat) : (d.goodCounted n).time = d.time := rfl
theorem spll_of_rd {d d' : Dev} (h : d'.rd Reg.clk_STATUS = d.rd Reg.clk_STATUS) : d'.spll = d.spll := by rw [spll, fld, rdN, h, spll, fld, rdN]

theorem windowShown_rd (count : Nat) {a : Nat} (hcnt : Reg.clk_LOCK_CNT ≠ a) (hexp : Reg.clk_LOCK_EXP ≠ a) : (d.windowShown count).rd a = d.rd a := by
  rw [windowShown, rd_wrN_ne _ _ hexp, rd_wrN_ne _ _ hcnt]
theorem windowShown_base (count : Nat) : (d.windowShown count).base = d.base := (base_wrN ..).trans (base_wrN ..)
theorem windowShown_spll (count : Nat) : (d.windowShown count).spll = d.spll := spll_of_rd (windowShown_rd d count (by decide) (by decide))

theorem clearCause_rd {n : Nat} (mask : Nat) {a : Nat} (h : Reg.chn_SAFE_CTL n ≠ a) : (d.clearCause n mask).rd a = d.rd a := rd_setFld_ne _ _ _ _ h
theorem clearCauseAll_rd (mask : Nat) {a : Nat} (h : a % 0x4000 ≠ 0x1804) : (d.clearCauseAll mask).rd a = d.rd a :=
  foldl_keeps (fun d => d.rd a) _ _ (fun d n => clearCause_rd d mask (by unfold Reg.chn_SAFE_CTL chnBase; omega)) d

/-- The first lock after a start starts the runs (R348). -/
def runsWanted (d : Dev) : Dev := if d.clk.locked then d else (List.range 6).foldl (fun (d : Dev) (t : Nat) => d.wantRun t) d
/-- The SPLL's lock shows. -/
def lockShown (d : Dev) : Dev := ((d.setFld Reg.clk_STATUS 2 2 2).setBit Reg.clk_STATUS 0 true).setBit Reg.clk_STATUS 1 false
/-- It has been in lock since the reset. -/
def lockKept (d : Dev) : Dev := { d with clk := { d.clk with locked := true } }
theorem spllLocks_eq : d.spllLocks = ((d.runsWanted.lockKept.lockShown.raise Reg.clk_EVENTS 2).fireNow 961).clearCauseAll 4 := rfl
theorem spllLocks_spec : d.spllLocks.spll = 2 ∧ d.spllLocks.bit Reg.clk_STATUS 0 = true ∧ d.spllLocks.bit Reg.clk_EVENTS 1 = true := by
  rw [spllLocks_eq]
  generalize d.runsWanted.lockKept = x
  have hrd {a : Nat} (h : a % 0x4000 ≠ 0x1804) : (((x.lockShown.raise Reg.clk_EVENTS 2).fireNow 961).clearCauseAll 4).rd a = (x.lockShown.raise Reg.clk_EVENTS 2).rd a := by
    rw [clearCauseAll_rd _ _ h, rd_of_regs (fireNow_regs ..)]
  refine ⟨?_, ?_, ?_⟩
  · rw [spll_of_rd ((hrd (by decide)).trans (rd_raise_ne _ _ (by decide))), spll, lockShown, fld_setBit_other _ _ _ _ _ _ (by decide) (by decide),
      fld_setBit_other _ _ _ _ _ _ (by decide) (by decide), fld_setFld_same _ _ _ _ _ (by decide)]
    rfl
  · rw [bit_of_rd ((hrd (by decide)).trans (rd_raise_ne _ _ (by decide))), lockShown, bit_setBit_other _ _ _ _ _ (by decide) (by decide),
      bit_setBit_same _ _ _ _ (by decide)]
  · rw [bit_of_rd (hrd (by decide)), bit_raise_same _ _ _ _ (by decide) (by decide)]
    exact Bool.or_true _

theorem lockWarn_spec : d.lockWarn.bit Reg.clk_EVENTS 6 = true ∧ d.lockWarn.rdN Reg.clk_LOCK_WARN_CNT = min (2^32 - 1) (d.rdN Reg.clk_LOCK_WARN_CNT + 1) ∧
    d.lockWarn.time = d.time ∧ d.lockWarn.spll = d.spll := by
  unfold lockWarn
  refine ⟨?_, ?_, (bump_time ..).trans (raise_time ..), ?_⟩
  · rw [bit_bump_ne _ _ (by decide), bit_raise_same _ _ _ _ (by decide) (by decide)]
    exact Bool.or_true _
  · rw [rdN_bump_same, rdN_raise_ne _ _ (by decide)]
  · exact spll_of_rd ((rd_bump_ne _ (by decide)).trans (rd_raise_ne _ _ (by decide)))

theorem spllLost_spec : d.spllLost.spll = 1 ∧ d.spllLost.bit Reg.clk_STATUS 0 = false ∧ d.spllLost.timeState = 1 ∧
    (∀ n < 96, d.chMode n ≠ 0 → (d.spllLost.chanOf n).hold = true) ∧ d.spllLost.clk.sGood = 0 ∧ d.spllLost.time.acc = d.time.acc ∧
    d.spllLost.time.refN = d.time.refN := by
  obtain ⟨hlock, hunlock, -⟩ := spllLostTo_lock d 1 0
  obtain ⟨hclk, hacc, hrefN, -⟩ := spllLostTo_quiet d 1 0
  exact ⟨hlock, hunlock, (spllLostTo_time d (by decide) 0).1, fun n hn hmode => spllLostTo_hold d 1 0 hn hmode, congrArg ClkSt.sGood hclk, hacc, hrefN⟩
end window

section cases
variable {d : Dev} {count : Nat} (href : d.time.refOk = true)
include href

/-- A window of an acquiring or locked SPLL without a missing cycle. -/
theorem lockWindowD_whole (hspll : d.spll = 1 ∨ d.spll = 2) :
    lockWindowD false ⟨count, 0, none⟩ d = (d.windowShown count).windowTaken (d.windowOff count) := by
  rw [lockWindowD_eq, if_neg, if_neg (fun h => absurd h.1 (by decide)), if_neg (by decide)]
  rw [href]
  rintro (h | h)
  · exact Bool.noConfusion h
  · omega
theorem lockWindowD_gap {missed : Nat} (hmissed : 0 < missed) (hspll : d.spll = 1 ∨ d.spll = 2) : lockWindowD false ⟨count, missed, none⟩ d =
    if d.fref ≤ 2000 * missed * d.activeSet.dref then d.loseRef
    else (d.gapShown count missed).gapTaken := by
  rw [lockWindowD_eq, if_neg, if_pos hmissed]
  · by_cases h : d.fref ≤ 2000 * missed * d.activeSet.dref
    · rw [if_pos ⟨hmissed, h⟩, if_pos h]
    · rw [if_neg (fun h' => h h'.2), if_neg h]
  · rw [href]
    rintro (h | h)
    · exact Bool.noConfusion h
    · omega
theorem acquiring_window (hspll : d.spll = 1) : lockWindowD false ⟨count, 0, none⟩ d =
    if d.windowOff count ≤ 2 * 2^32 then if 3 ≤ d.clk.sGood + 1 then ((d.windowShown count).goodCounted (d.clk.sGood + 1)).spllLocks
      else (d.windowShown count).goodCounted (d.clk.sGood + 1)
    else (d.windowShown count).goodCounted 0 := by
  have hclk : (d.windowShown count).clk = d.clk := clk_of_base (windowShown_base d count)
  rw [lockWindowD_whole href (.inl hspll), windowTaken, windowShown_spll, hspll, if_neg (by decide), hclk]
theorem locked_window (hspll : d.spll = 2) : lockWindowD false ⟨count, 0, none⟩ d =
    if 8 * 2^32 < d.windowOff count then (d.windowShown count).spllLost else if 3 * 2^32 ≤ d.windowOff count then (d.windowShown count).lockWarn
    else d.windowShown count := by
  rw [lockWindowD_whole href (.inr hspll), windowTaken, windowShown_spll, if_pos hspll]
end cases

section gap
variable (d : Dev) (count missed : Nat)

theorem refGap_rd (a : Nat) : (d.refGap missed).rd a = d.rd a := rfl
theorem refGap_clk : (d.refGap missed).clk = d.clk := rfl
theorem refGap_time : (d.refGap missed).time = { d.time with acc := d.time.acc - missed * d.rho, refN := d.time.refN - missed } := rfl
theorem gapShown_base : (d.gapShown count missed).base = (d.refGap missed).base := (base_wrN ..).trans (base_wrN ..)
theorem gapShown_spll : (d.gapShown count missed).spll = d.spll := by
  refine spll_of_rd ?_
  rw [gapShown, rd_wrN_ne _ _ (by decide), rd_wrN_ne _ _ (by decide), refGap_rd]
theorem gapShown_time : (d.gapShown count missed).time.acc = d.time.acc - missed * d.rho ∧ (d.gapShown count missed).time.refN = d.time.refN - missed := by
  rw [time_of_base (gapShown_base d count missed), refGap_time]
  exact ⟨rfl, rfl⟩

end gap

theorem gapTaken_spec {d : Dev} (h : d.spll = 1 ∨ d.spll = 2) : d.gapTaken.spll = 1 ∧ d.gapTaken.clk.sGood = 0 ∧ d.gapTaken.time.acc = d.time.acc ∧
    d.gapTaken.time.refN = d.time.refN ∧ (d.spll = 2 → d.gapTaken.timeState = 1 ∧ d.gapTaken.bit Reg.clk_STATUS 0 = false) := by
  rcases h with h | h
  · have hgood : d.gapTaken = d.goodCounted 0 := if_neg (by rw [h]; decide)
    rw [hgood, goodCounted_clk, goodCounted_time]
    exact ⟨(spll_of_rd (goodCounted_rd d 0 _)).trans h, rfl, rfl, rfl, fun h' => absurd (h.symm.trans h') (by decide)⟩
  · obtain ⟨hlock, hunlock, hstate, -, hgood, hacc, hrefN⟩ := spllLost_spec d
    have hlost : d.gapTaken = d.spllLost := if_pos h
    rw [hlost]
    exact ⟨hlock, hgood, hacc, hrefN, fun _ => ⟨hstate, hunlock⟩⟩

/-! ## Windows of the XPLL -/

/-- Holdover shows, and the loss is counted and fires. -/
def holdoverShown (d : Dev) : Dev :=
  ((((d.setBit Reg.clk_STATUS 6 true).setBit Reg.clk_STATUS 4 false).bump Reg.clk_XPLL_LOSS_CNT).raise Reg.clk_EVENTS 4).fireNow 962
/-- The XPLL's attempts start anew. -/
def xpllAnew (d : Dev) : Dev := { d with clk := { d.clk with xGood := 0, xTries := 0 } }
/-- The channels are held in holdover, which is a fault. -/
def heldOver (d : Dev) : Dev := (d.holdLive 8).faultNow 1 0x41 0 0 [d.rdN Reg.clk_LOCK_CNT, d.rdN Reg.clk_LOCK_EXP]
theorem xpllLost_eq (d : Dev) : d.xpllLost = d.holdoverShown.xpllAnew.heldOver := rfl
theorem stirred_heldOver (d : Dev) : stirred d d.heldOver := stirred_trans (stirred_holdLive ..) (stirred_faultNow ..)
theorem heldOver_hold (d : Dev) {n : Nat} (hn : n < 96) (hmode : d.chMode n ≠ 0) : (d.heldOver.chanOf n).hold = true :=
  (keepsHolds_faultNow ..).hold n (holdLive_hold d 8 hn hmode)

theorem calmPart_time {d d' : Dev} (h : d'.calmPart = d.calmPart) : d'.time = d.time := (congrArg Dev.time h :)
theorem calmPart_clk {d d' : Dev} (h : d'.calmPart = d.calmPart) : d'.clk = d.clk := (congrArg Dev.clk h :)
theorem calmReg_clk {a : Nat} (h : 0x1200000 ≤ a ∧ a < 0x1309000) : calmReg a := .inr (.inr (.inl h))

section xpll
variable (d : Dev)

theorem xpllAnew_rd (a : Nat) : d.xpllAnew.rd a = d.rd a := rfl
theorem xpllAnew_time : d.xpllAnew.time = d.time := rfl
theorem keepsHolds_xpllAnew : keepsHolds d d.xpllAnew := keepsHolds_of_parts rfl rfl
theorem holdoverShown_base : d.holdoverShown.base = d.base :=
  (base_fireNow ..).trans ((base_raise ..).trans ((base_bump ..).trans ((base_setBit ..).trans (base_setBit ..))))
theorem keepsHolds_holdoverShown : keepsHolds d d.holdoverShown :=
  have hclk {a : Nat} (h : 0x1200000 ≤ a) := notStill_of_high h
  keepsHolds_trans (keepsHolds_trans (keepsHolds_trans (keepsHolds_trans (keepsHolds_setBit d (hclk (by decide)) ..) (keepsHolds_setBit _ (hclk (by decide)) ..))
    (keepsHolds_bump _ (hclk (by decide)))) (keepsHolds_raise _ (hclk (by decide)) _)) (keepsHolds_fireNow ..)
theorem xpllLost_spec : d.xpllLost.bit Reg.clk_STATUS 6 = true ∧ d.xpllLost.bit Reg.clk_STATUS 4 = false ∧ d.xpllLost.time = d.time ∧
    ∀ n < 96, d.chMode n ≠ 0 → (d.xpllLost.chanOf n).hold = true := by
  have hheld : stirred d.holdoverShown.xpllAnew d.xpllLost := by
    rw [xpllLost_eq]
    exact stirred_heldOver _
  have hstatus : d.xpllLost.rd Reg.clk_STATUS = ((d.setBit Reg.clk_STATUS 6 true).setBit Reg.clk_STATUS 4 false).rd Reg.clk_STATUS := by
    rw [hheld.rd _ (calmReg_clk (by decide)), xpllAnew_rd, holdoverShown, rd_of_regs (fireNow_regs ..), rd_raise_ne _ _ (by decide), rd_bump_ne _ (by decide)]
  refine ⟨?_, ?_, ?_, fun n hn hmode => ?_⟩
  · rw [bit_of_rd hstatus, bit_setBit_other _ _ _ _ _ (by decide) (by decide), bit_setBit_same _ _ _ _ (by decide)]
  · rw [bit_of_rd hstatus, bit_setBit_same _ _ _ _ (by decide)]
  · rw [calmPart_time hheld.calm, xpllAnew_time, time_of_base d.holdoverShown_base]
  · rw [xpllLost_eq]
    refine heldOver_hold _ hn ?_
    rwa [chMode_of_keeps (keepsHolds_trans (keepsHolds_holdoverShown d) (keepsHolds_xpllAnew _)) hn]

theorem xpllLocks_spec : d.xpllLocks.bit Reg.clk_STATUS 4 = true ∧ d.xpllLocks.bit Reg.clk_STATUS 6 = false ∧ d.xpllLocks.bit Reg.clk_EVENTS 3 = true := by
  unfold xpllLocks
  extract_lets x
  have hrd {a : Nat} (h : a % 0x4000 ≠ 0x1804) : (((x.raise Reg.clk_EVENTS 8).fireNow 963).clearCauseAll 8).rd a = (x.raise Reg.clk_EVENTS 8).rd a := by
    rw [clearCauseAll_rd _ _ h, rd_of_regs (fireNow_regs ..)]
  have hstatus := (hrd (a := Reg.clk_STATUS) (by decide)).trans (rd_raise_ne _ _ (by decide))
  refine ⟨?_, ?_, ?_⟩
  · rw [bit_of_rd hstatus, bit_setBit_other _ _ _ _ _ (by decide) (by decide), bit_setBit_same _ _ _ _ (by decide)]
  · rw [bit_of_rd hstatus, bit_setBit_same _ _ _ _ (by decide)]
  · rw [bit_of_rd (hrd (by decide)), bit_raise_same _ _ _ _ (by decide) (by decide)]
    exact Bool.or_true _
end xpll

/-- Good windows of the XPLL in a row. -/
def xGoodCounted (d : Dev) (n : Nat) : Dev := { d with clk := { d.clk with xGood := n } }
section xwindow
variable {d : Dev} {count : Nat} (hactive : d.standby = false) (hgoing : d.clk.xFail = false)
include hactive hgoing

theorem xpllWindow_of_active : lockWindowD true ⟨count, 0, none⟩ d =
    if d.bit Reg.clk_STATUS 4 then if 8 < max count 25000 - min count 25000 then d.xpllLost
      else if 3 ≤ max count 25000 - min count 25000 then d.lockWarn else d
    else if max count 25000 - min count 25000 ≤ 2 then
      if 3 ≤ d.clk.xGood + 1 then (d.xGoodCounted (d.clk.xGood + 1)).xpllLocks else d.xGoodCounted (d.clk.xGood + 1)
    else d.xGoodCounted 0 := by
  have hgo : ¬ (d.standby = true ∨ d.clk.xFail = true) := by
    rw [hactive, hgoing]
    decide
  unfold lockWindowD
  dsimp only
  rw [if_pos rfl, xpllWindow, if_neg hgo]
  rfl
end xwindow

/-! ## Attempts -/

section attempts
variable (d : Dev)

/-- Attempts of the SPLL. -/
def sTried (d : Dev) (n : Nat) : Dev := { d with clk := { d.clk with sGood := 0, sTries := n } }
/-- The SPLL has stopped. -/
def spllStopped (d : Dev) (n : Nat) : Dev := ((d.setFld Reg.clk_STATUS 2 2 3).raise Reg.clk_EVENTS 128).faultNow 1 0x42 0 0 [n]
theorem acquisitionTimeoutD_spll {d : Dev} (h : d.spll = 1) : acquisitionTimeoutD false d =
    if 3 ≤ d.clk.sTries + 1 then (d.sTried (d.clk.sTries + 1)).spllStopped (d.clk.sTries + 1) else d.sTried (d.clk.sTries + 1) := by
  unfold acquisitionTimeoutD
  rw [if_neg Bool.false_ne_true]
  exact if_neg (fun h' => h' h)
theorem sTried_clk (n : Nat) : (d.sTried n).clk.sTries = n := rfl
theorem sTried_rd (n a : Nat) : (d.sTried n).rd a = d.rd a := rfl
theorem spllStopped_spec (n : Nat) : (d.spllStopped n).spll = 3 ∧ (d.spllStopped n).clk = d.clk := by
  have hfault := stirred_faultNow ((d.setFld Reg.clk_STATUS 2 2 3).raise Reg.clk_EVENTS 128) 1 0x42 0 0 [n]
  unfold spllStopped
  constructor
  · rw [spll_of_rd ((hfault.rd _ (calmReg_clk (by decide))).trans (rd_raise_ne _ _ (by decide))), spll, fld_setFld_same _ _ _ _ _ (by decide)]
    rfl
  · rw [calmPart_clk hfault.calm, raise_clk, setFld_clk]
theorem spllTimeout_spec {d : Dev} (h : d.spll = 1) : (acquisitionTimeoutD false d).clk.sTries = d.clk.sTries + 1 ∧
    (acquisitionTimeoutD false d).spll = if 2 ≤ d.clk.sTries then 3 else 1 := by
  rw [acquisitionTimeoutD_spll h]
  by_cases hlast : 2 ≤ d.clk.sTries
  · obtain ⟨hstop, hclk⟩ := spllStopped_spec (d.sTried (d.clk.sTries + 1)) (d.clk.sTries + 1)
    rw [if_pos (by omega), if_pos hlast, hclk, sTried_clk]
    exact ⟨rfl, hstop⟩
  · rw [if_neg (by omega), if_neg hlast, sTried_clk]
    exact ⟨rfl, (spll_of_rd (sTried_rd d _ _)).trans h⟩

/-- The banks leave retention. -/
def banksResumed (d : Dev) : Dev :=
  (List.range 96).foldl (fun (d : Dev) (n : Nat) => if d.scState n = 1 then d.setScState n 2 else d)
    ((List.range 64).foldl (fun (d : Dev) (e : Nat) => d.updEng e (fun (x : Eng) => { x with asleep := false })) d)
/-- The wake is over. -/
def wokenUp (d : Dev) : Dev := { d with clk := { d.clk with waking := false } }
theorem resume_eq : d.resume = d.wokenUp.banksResumed := rfl
theorem wokenUp_rd (a : Nat) : d.wokenUp.rd a = d.rd a := rfl
theorem wokenUp_clk : d.wokenUp.clk = { d.clk with waking := false } := rfl
theorem banksResumed_clk : d.banksResumed.clk = d.clk := by
  unfold banksResumed
  rw [foldl_keeps Dev.clk, foldl_keeps Dev.clk _ _ (fun d e => updEng_clk ..)]
  exact fun d n => iteInduction (motive := fun x : Dev => x.clk = d.clk) (fun _ => setFld_clk ..) fun _ => rfl
theorem banksResumed_rd {a : Nat} (ha : a % 0x4000 ≠ 0x3004) : d.banksResumed.rd a = d.rd a := by
  unfold banksResumed
  rw [foldl_keeps (fun d : Dev => d.rd a), rd_of_regs (foldl_keeps Dev.regs _ _ (fun d e => updEng_regs ..) d)]
  exact fun d n => iteInduction (motive := fun x : Dev => x.rd a = d.rd a)
    (fun _ => rd_setFld_ne _ _ _ _ (by unfold Reg.chn_SC_STATUS chnBase; omega)) fun _ => rfl

/-- Attempts of the XPLL. -/
def xTried (d : Dev) (n : Nat) : Dev := { d with clk := { d.clk with xGood := 0, xTries := n, xFail := decide (3 ≤ n) } }
/-- The XPLL has failed, and its domains stay in bypass. -/
def xpllFailed (d : Dev) (n : Nat) : Dev :=
  (((if d.clk.waking then d.resume else d).setBit Reg.clk_STATUS 5 true).raise Reg.clk_EVENTS 256).faultNow 1 0x43 0 0 [n]
theorem acquisitionTimeoutD_xpll {d : Dev} (hlock : d.bit Reg.clk_STATUS 4 = false) (hgoing : d.clk.xFail = false) (hactive : d.standby = false) :
    acquisitionTimeoutD true d =
      if d.clk.xTries + 1 < 3 then d.xTried (d.clk.xTries + 1) else (d.xTried (d.clk.xTries + 1)).xpllFailed (d.clk.xTries + 1) := by
  unfold acquisitionTimeoutD
  rw [if_pos rfl]
  refine if_neg ?_
  rw [hlock, hgoing, hactive]
  decide
theorem xTried_clk (n : Nat) : (d.xTried n).clk.xTries = n ∧ (d.xTried n).clk.xFail = decide (3 ≤ n) := ⟨rfl, rfl⟩
theorem xpllFailed_spec (n : Nat) : (d.xpllFailed n).clk.xTries = d.clk.xTries ∧ (d.xpllFailed n).clk.xFail = d.clk.xFail ∧
    (d.xpllFailed n).bit Reg.clk_STATUS 5 = true := by
  have hresumed : (if d.clk.waking then d.resume else d).clk.xTries = d.clk.xTries ∧ (if d.clk.waking then d.resume else d).clk.xFail = d.clk.xFail := by
    split
    · rw [resume_eq, banksResumed_clk, wokenUp_clk]
      exact ⟨rfl, rfl⟩
    · exact ⟨rfl, rfl⟩
  unfold xpllFailed
  generalize (if d.clk.waking then d.resume else d) = x at *
  have hfault := stirred_faultNow ((x.setBit Reg.clk_STATUS 5 true).raise Reg.clk_EVENTS 256) 1 0x43 0 0 [n]
  rw [calmPart_clk hfault.calm, raise_clk, setBit_clk, bit_of_rd ((hfault.rd _ (calmReg_clk (by decide))).trans (rd_raise_ne _ _ (by decide))),
    bit_setBit_same _ _ _ _ (by decide)]
  exact ⟨hresumed.1, hresumed.2, rfl⟩
theorem xpllTimeout_spec {d : Dev} (hlock : d.bit Reg.clk_STATUS 4 = false) (hgoing : d.clk.xFail = false) (hactive : d.standby = false) :
    (acquisitionTimeoutD true d).clk.xTries = d.clk.xTries + 1 ∧ ((acquisitionTimeoutD true d).clk.xFail = true ↔ 2 ≤ d.clk.xTries) ∧
      (2 ≤ d.clk.xTries → (acquisitionTimeoutD true d).bit Reg.clk_STATUS 5 = true) := by
  rw [acquisitionTimeoutD_xpll hlock hgoing hactive]
  obtain ⟨htries, hfail⟩ := xTried_clk d (d.clk.xTries + 1)
  split
  · next hfew =>
    rw [htries, hfail, decide_eq_true_iff]
    exact ⟨rfl, ⟨fun h => by omega, fun h => by omega⟩, fun h => by omega⟩
  · next hmany =>
    obtain ⟨htries', hfail', hbypass⟩ := xpllFailed_spec (d.xTried (d.clk.xTries + 1)) (d.clk.xTries + 1)
    rw [htries', hfail', htries, hfail, decide_eq_true_iff]
    exact ⟨rfl, ⟨fun h => by omega, fun h => by omega⟩, fun _ => hbypass⟩
end attempts

/-! ## Bypass -/

section bypass
variable (d : Dev)

theorem enterSr_other {m : Nat} {a : Nat} (h : Reg.dram_STATUS m ≠ a) : (d.enterSr m).rd a = d.rd a := (rd_setBit_ne _ _ _ h).trans (rd_setFld_ne _ _ _ _ h)
theorem enterSr_same (m : Nat) : (d.enterSr m).inSr m = true ∧ (d.enterSr m).owed m = 0 := by
  unfold enterSr setOwed
  refine ⟨bit_setBit_same _ _ _ _ (by decide), ?_⟩
  rw [owed, fld_setBit_other _ _ _ _ _ _ (by decide) (by decide), fld_setFld_same _ _ _ _ _ (by decide)]
  rfl
/-- Every DMC is in self-refresh. -/
def allInSr (d : Dev) : Dev := (List.range 8).foldl (fun (d : Dev) (m : Nat) => d.enterSr m) d
theorem allInSr_spec {m : Nat} (hm : m < 8) : d.allInSr.inSr m = true ∧ d.allInSr.owed m = 0 := by
  have hne : ∀ i j : Nat, i ≠ j → Reg.dram_STATUS i ≠ Reg.dram_STATUS j := fun i j h => by unfold Reg.dram_STATUS; omega
  obtain ⟨d₀, -, -, hlast⟩ := foldl_each (P := fun _ => True) (q := fun m (x : Dev) => x.rd (Reg.dram_STATUS m)) (f := fun (d : Dev) (m : Nat) => d.enterSr m)
    (fun _ _ _ _ => trivial) (fun x i _ j _ h => enterSr_other x (hne i j h)) List.nodup_range (d := d) trivial (List.mem_range.mpr hm)
  obtain ⟨hin, howed⟩ := enterSr_same d₀ m
  refine ⟨(bit_of_rd hlast 4).trans hin, ?_⟩
  rw [owed, fld, rdN, allInSr, hlast]
  exact howed
/-- The domains run from PCIE_REFCLK, and the XPLL acquires again. -/
def bypassed (d : Dev) : Dev := { (d.setBit Reg.clk_STATUS 5 true) with clk := { d.clk with xGood := 0, xTries := 0 } }
theorem bypassed_rd (a : Nat) : d.bypassed.rd a = (d.setBit Reg.clk_STATUS 5 true).rd a := rfl
theorem xpllBypassD_spec {d : Dev} (hhold : d.bit Reg.clk_STATUS 6 = true) (hfirst : d.bit Reg.clk_STATUS 5 = false) :
    (xpllBypassD d).bit Reg.clk_STATUS 5 = true ∧ ∀ m < 8, (xpllBypassD d).inSr m = true ∧ (xpllBypassD d).owed m = 0 := by
  have hgo : xpllBypassD d = d.allInSr.bypassed := by
    refine if_neg ?_
    rw [hhold, hfirst]
    decide
  rw [hgo]
  refine ⟨?_, fun m hm => ?_⟩
  · rw [bit_of_rd (bypassed_rd ..), bit_setBit_same _ _ _ _ (by decide)]
  · have hrd : d.allInSr.bypassed.rd (Reg.dram_STATUS m) = d.allInSr.rd (Reg.dram_STATUS m) :=
      (bypassed_rd ..).trans (rd_setBit_ne _ _ _ (by unfold Reg.clk_STATUS Reg.dram_STATUS; omega))
    obtain ⟨hin, howed⟩ := allInSr_spec d hm
    refine ⟨(bit_of_rd hrd 4).trans hin, ?_⟩
    rw [owed, fld, rdN, hrd]
    exact howed

/-! ## The XPLL's domains return to it -/

theorem drainBytes_rd (k n : Nat) {a : Nat} (ha : calmReg a) : (d.drainBytes k n).rd a = d.rd a := by
  unfold drainBytes
  extract_lets c x
  refine iteInduction (motive := fun y : Dev => y.rd a = d.rd a) (fun _ => rfl) fun _ => ?_
  split
  · exact (stirred_freezeAt ..).rd a ha
  · rw [rd_of_regs (updCap_regs ..), (stirred_writeDram ..).rd a ha]
theorem drainFifo_rd (k : Nat) (all : Bool) {a : Nat} (ha : calmReg a) : (d.drainFifo k all).rd a = d.rd a := by
  unfold drainFifo
  extract_lets d₁
  have h₁ : d₁.rd a = d.rd a := foldl_keeps (fun d : Dev => d.rd a) _ _
    (fun d _ => iteInduction (motive := fun y : Dev => y.rd a = d.rd a) (fun _ => rfl) fun _ => drainBytes_rd d k 512 ha) d
  refine iteInduction (motive := fun y : Dev => y.rd a = d.rd a) (fun _ => rfl) fun _ => ?_
  exact iteInduction (motive := fun y : Dev => y.rd a = d.rd a) (fun _ => (drainBytes_rd _ _ _ ha).trans h₁) fun _ => h₁
theorem copyResident_rd (n : Nat) (r : Resident) {a : Nat} (ha : calmReg a) (hs : a % 0x4000 ≠ 0x3004) (he : a % 0x4000 ≠ 0x3008) :
    (d.copyResident n r).rd a = d.rd a := by
  have hbank (x : Dev) (s : Nat) : (x.setScState n s).rd a = x.rd a := rd_setFld_ne _ _ _ _ (by unfold Reg.chn_SC_STATUS chnBase; omega)
  have hcleared : (d.clearBank n).rd a = d.rd a := rfl
  have hon : (d.bankOn n).rd a = d.rd a := by
    unfold bankOn
    refine iteInduction (motive := fun y : Dev => y.rd a = d.rd a) (fun _ => rfl) fun _ => ?_
    exact iteInduction (motive := fun y : Dev => y.rd a = d.rd a) (fun _ => (hbank ..).trans hcleared) fun _ => hbank ..
  unfold copyResident
  extract_lets ws len d₁
  have h₁ : d₁.rd a = d.rd a := iteInduction (motive := fun y : Dev => y.rd a = d.rd a) (fun _ => rfl) fun _ => hon
  clear_value d₁
  refine iteInduction (motive := fun y : Dev => y.rd a = d.rd a) (fun _ => ?_) fun _ => ?_
  · exact (rd_raise_ne _ _ (by unfold Reg.chn_SC_EVENTS chnBase; omega)).trans h₁
  · split
    · next hbad =>
      obtain ⟨q, -, rfl⟩ := Option.map_eq_some_iff.mp hbad
      exact ((stirred_freezeAt ..).rd a ha).trans h₁
    · have hstored (x : Dev) (m : SMap Byte) : ({ x with sc := m } : Dev).rd a = x.rd a := rfl
      exact (hstored ..).trans (((stirred_served ..).rd a ha).trans h₁)

theorem copyAllResident_rd {a : Nat} (ha : calmReg a) (hs : a % 0x4000 ≠ 0x3004) (he : a % 0x4000 ≠ 0x3008) : d.copyAllResident.rd a = d.rd a := by
  have hcopies (d : Dev) (c : Nat × Chan) : (c.2.resident.foldl (fun (d : Dev) (r : Resident) => d.copyResident c.1 r) d).rd a = d.rd a :=
    foldl_keeps (fun d : Dev => d.rd a) _ _ (fun d r => copyResident_rd d c.1 r ha hs he) d
  unfold copyAllResident
  exact foldl_keeps (fun d : Dev => d.rd a) _ _ hcopies d

/-- The DMCs leave self-refresh. -/
def srLeft (d : Dev) : Dev := (List.range 8).foldl (fun (d : Dev) (m : Nat) => d.exitSr m) d
theorem exitSr_rd {m : Nat} {a : Nat} (h : Reg.dram_STATUS m ≠ a) : (d.exitSr m).rd a = d.rd a :=
  iteInduction (motive := fun y : Dev => y.rd a = d.rd a) (fun _ => rfl) fun _ => (rd_setBit_ne _ _ _ h).trans (rd_setFld_ne _ _ _ _ h)
theorem srLeft_rd {a : Nat} (h : ∀ m, Reg.dram_STATUS m ≠ a) : d.srLeft.rd a = d.rd a :=
  foldl_keeps (fun d : Dev => d.rd a) _ _ (fun d m => exitSr_rd d (h m)) d
theorem srLeft_inSr {d : Dev} {m : Nat} (hm : m < 8) (hfree : d.bit (Reg.dram_CFG m) 0 = false) : d.srLeft.inSr m = false := by
  have hne : ∀ i j : Nat, i ≠ j → Reg.dram_STATUS i ≠ Reg.dram_STATUS j := fun i j h => by unfold Reg.dram_STATUS; omega
  have hcfg : ∀ i, Reg.dram_STATUS i ≠ Reg.dram_CFG m := fun i => by unfold Reg.dram_STATUS Reg.dram_CFG; omega
  obtain ⟨d₀, hd₀, -, hlast⟩ := foldl_each (P := fun x : Dev => x.rd (Reg.dram_CFG m) = d.rd (Reg.dram_CFG m)) (q := fun m (x : Dev) => x.rd (Reg.dram_STATUS m))
    (f := fun (d : Dev) (m : Nat) => d.exitSr m) (fun x i _ hx => (exitSr_rd x (hcfg i)).trans hx)
    (fun x i _ j _ h => exitSr_rd x (hne i j h)) List.nodup_range rfl (List.mem_range.mpr hm)
  rw [inSr, srLeft, bit_of_rd hlast, exitSr, if_neg (by rw [bit_of_rd hd₀, hfree]; exact Bool.false_ne_true), bit_setBit_same _ _ _ _ (by decide)]

/-- What the FIFOs of the captures hold goes on. -/
def fifosDrained (d : Dev) : Dev := (List.range 6).foldl (fun (d : Dev) k => d.drainFifo k (d.capState k == 3)) d
theorem xpllLockD_of_bypass {d : Dev} (hlock : d.bit Reg.clk_STATUS 4 = true) (hbypass : d.bit Reg.clk_STATUS 5 = true) : ∃ c : Bool, xpllLockD d =
    (if c then (if d.clk.waking then (d.setBit Reg.clk_STATUS 5 false).resume else d.setBit Reg.clk_STATUS 5 false).srLeft.copyAllResident
     else (if d.clk.waking then (d.setBit Reg.clk_STATUS 5 false).resume else d.setBit Reg.clk_STATUS 5 false).srLeft).fifosDrained := by
  refine ⟨_, if_neg ?_⟩
  rw [hlock, hbypass]
  rintro (h | h)
  · exact Bool.noConfusion h
  · exact Bool.noConfusion h
theorem xpllLockD_spec {d : Dev} (hlock : d.bit Reg.clk_STATUS 4 = true) (hbypass : d.bit Reg.clk_STATUS 5 = true) :
    (xpllLockD d).bit Reg.clk_STATUS 5 = false ∧ ∀ m < 8, d.bit (Reg.dram_CFG m) 0 = false → (xpllLockD d).inSr m = false := by
  obtain ⟨c, heq⟩ := xpllLockD_of_bypass hlock hbypass
  have hresumed {a : Nat} (ha : a % 0x4000 ≠ 0x3004) : (if d.clk.waking then (d.setBit Reg.clk_STATUS 5 false).resume else d.setBit Reg.clk_STATUS 5 false).rd a =
      (d.setBit Reg.clk_STATUS 5 false).rd a := by
    split
    · rw [resume_eq, banksResumed_rd _ ha, wokenUp_rd]
    · rfl
  rw [heq]
  generalize (if d.clk.waking then (d.setBit Reg.clk_STATUS 5 false).resume else d.setBit Reg.clk_STATUS 5 false) = x at *
  have hcopied : leavesSr x.srLeft (if c then x.srLeft.copyAllResident else x.srLeft) :=
    leavesSr_ite (fun _ => leavesSr_copyAllResident _) fun _ => leavesSr_refl _
  have hstatus : (if c then x.srLeft.copyAllResident else x.srLeft).rd Reg.clk_STATUS = x.srLeft.rd Reg.clk_STATUS :=
    iteInduction (motive := fun y : Dev => y.rd Reg.clk_STATUS = x.srLeft.rd Reg.clk_STATUS) 
      (fun _ => copyAllResident_rd _ (calmReg_clk (by decide)) (by decide) (by decide)) fun _ => rfl
  generalize (if c then x.srLeft.copyAllResident else x.srLeft) = y at *
  refine ⟨?_, fun m hm hfree => ?_⟩
  · have hdrained : y.fifosDrained.rd Reg.clk_STATUS = y.rd Reg.clk_STATUS :=
      foldl_keeps (fun d : Dev => d.rd Reg.clk_STATUS) _ _ (fun d k => drainFifo_rd d k _ (calmReg_clk (by decide))) y
    have hleft : x.srLeft.rd Reg.clk_STATUS = x.rd Reg.clk_STATUS := srLeft_rd x fun m => by unfold Reg.dram_STATUS Reg.clk_STATUS; omega
    rw [bit_of_rd (hdrained.trans (hstatus.trans (hleft.trans (hresumed (by decide))))), bit_setBit_same _ _ _ _ (by decide)]
  · have hcfg : x.rd (Reg.dram_CFG m) = d.rd (Reg.dram_CFG m) :=
      (hresumed (by unfold Reg.dram_CFG; omega)).trans (rd_setBit_ne _ _ _ (by unfold Reg.dram_CFG Reg.clk_STATUS; omega))
    have hout := hcopied.kept m hm (srLeft_inSr hm ((bit_of_rd hcfg 0).trans hfree))
    exact (leavesSr_foldl y (List.range 6) fun k _ d => leavesSr_drainFifo d k _).kept m hm hout
end bypass
end Dev

/-- Settles O38: windows, gaps, attempts and holdover, each by its test. -/
theorem pllsLockAndLose : Obligations.PllsLockAndLose := by
  intro s count d a e off xoff one
  refine ⟨fun href hspll => ⟨fun hnear hfew => ?_, fun hnear hmany => ?_, fun hfar => ?_⟩, fun href hspll => ⟨fun hfar => ?_, fun hwarn hnear => ?_⟩,
    fun missed hmissed href hspll => ⟨fun hshort => ?_, fun hlong => ?_⟩, fun hactive hgoing => ⟨fun hlock hfar => ?_, fun hlock hnear hmany => ?_⟩,
    fun hspll => ?_, fun hlock hgoing hactive => ?_, fun hhold hfirst => ?_, fun hlock hbypass => ?_⟩
  · refine State.runs_of_onDev (exec_lockWindow false _ s) rfl ?_
    rw [Dev.acquiring_window href hspll, if_pos (show d.windowOff count ≤ 2 * 2^32 from hnear), if_neg (by omega)]
    refine ⟨(Dev.spll_of_rd (Dev.goodCounted_rd ..)).trans ((d.windowShown_spll count).trans hspll), ?_⟩
    rw [Dev.goodCounted_clk, Dev.clk_of_base (d.windowShown_base count)]
  · refine State.runs_of_onDev (exec_lockWindow false _ s) rfl ?_
    rw [Dev.acquiring_window href hspll, if_pos (show d.windowOff count ≤ 2 * 2^32 from hnear), if_pos (by omega)]
    exact Dev.spllLocks_spec _
  · refine State.runs_of_onDev (exec_lockWindow false _ s) rfl ?_
    rw [Dev.acquiring_window href hspll, if_neg (show ¬ d.windowOff count ≤ 2 * 2^32 from Nat.not_le.mpr hfar)]
    refine ⟨(Dev.spll_of_rd (Dev.goodCounted_rd ..)).trans ((d.windowShown_spll count).trans hspll), ?_⟩
    rw [Dev.goodCounted_clk, Dev.clk_of_base (d.windowShown_base count)]
  · refine State.runs_of_onDev (exec_lockWindow false _ s) rfl ?_
    rw [Dev.locked_window href hspll, if_pos (show 8 * 2^32 < d.windowOff count from hfar)]
    obtain ⟨hlock, hunlock, hstate, hhold, -⟩ := Dev.spllLost_spec (d.windowShown count)
    refine ⟨hlock, hunlock, hstate, fun n hn hmode => hhold n hn ?_⟩
    have hshown : Dev.keepsHolds d (d.windowShown count) := Dev.keepsHolds_trans (Dev.keepsHolds_wrN d (Dev.notStill_of_high (by decide)) _)
      (Dev.keepsHolds_wrN _ (Dev.notStill_of_high (by decide)) _)
    rwa [Dev.chMode_of_keeps hshown hn]
  · refine State.runs_of_onDev (exec_lockWindow false _ s) rfl ?_
    rw [Dev.locked_window href hspll, if_neg (show ¬ 8 * 2^32 < d.windowOff count from Nat.not_lt.mpr hnear), if_pos (show 3 * 2^32 ≤ d.windowOff count from hwarn)]
    obtain ⟨hflag, hcnt, htime, hlock⟩ := Dev.lockWarn_spec (d.windowShown count)
    refine ⟨hlock.trans ((d.windowShown_spll count).trans hspll), hflag, htime.trans (Dev.time_of_base (d.windowShown_base count)), hcnt.trans ?_⟩
    rw [Dev.rdN, Dev.windowShown_rd d count (by decide) (by decide), ← Dev.rdN]
  · refine State.runs_of_onDev (exec_lockWindow false _ s) rfl ?_
    obtain ⟨hacc, hrefN⟩ := d.gapShown_time count missed
    have hsame := d.gapShown_spll count missed
    rw [Dev.lockWindowD_gap href hmissed hspll, if_neg (Nat.not_le.mpr hshort)]
    obtain ⟨hlock, hgood, hacc', hrefN', hlost⟩ := Dev.gapTaken_spec (hsame.symm ▸ hspll)
    exact ⟨hlock, hgood, hacc'.trans hacc, hrefN'.trans hrefN, fun h => hlost (hsame.trans h)⟩
  · refine State.runs_of_onDev (exec_lockWindow false _ s) rfl ?_
    rw [Dev.lockWindowD_gap href hmissed hspll, if_pos hlong]
    obtain ⟨hoff, hstate, -⟩ := Dev.loseRef_spec d
    exact ⟨hoff, hstate⟩
  · refine State.runs_of_onDev (exec_lockWindow true _ s) rfl ?_
    rw [Dev.xpllWindow_of_active hactive hgoing, if_pos hlock, if_pos hfar]
    exact Dev.xpllLost_spec d
  · refine State.runs_of_onDev (exec_lockWindow true _ s) rfl ?_
    rw [Dev.xpllWindow_of_active hactive hgoing, if_neg (ne_true_of_eq_false hlock), if_pos hnear, if_pos (by omega)]
    exact Dev.xpllLocks_spec _
  · exact State.runs_of_onDev (exec_acquisitionTimeout false s) rfl (Dev.spllTimeout_spec hspll)
  · exact State.runs_of_onDev (exec_acquisitionTimeout true s) rfl (Dev.xpllTimeout_spec hlock hgoing hactive)
  · exact State.runs_of_onDev (exec_xpllBypass s) rfl (Dev.xpllBypassD_spec hhold hfirst)
  · exact State.runs_of_onDev (exec_xpllLock s) rfl (Dev.xpllLockD_spec hlock hbypass)
end Sys2Proof.Machine

/-! PROOFS. Power states, tiles, banks and the junction temperature (R67, R370 to R376). -/
namespace Sys2Proof.Machine

theorem exec_standby (s : State) : exec .standby s = s.onDev standbyD := rfl
theorem exec_wake (w : WakeSource) (s : State) : exec (.wake w) s = s.onGuard (wakeG w) := rfl
theorem exec_tileState (t : Fin 6) (s : State) : exec (.tileState t) s = s.onDev (tileStateD t) := rfl
theorem exec_bankRetention (b : BankId) (s : State) : exec (.bankRetention b) s = s.onDev (bankRetentionD b) := rfl
theorem exec_bankWake (b : BankId) (s : State) : exec (.bankWake b) s = s.onDev (bankWakeD b) := rfl
theorem exec_junctionReading (t : Int) (s : State) : exec (.junctionReading t) s = s.onDev (junctionReadingD t) := rfl

namespace Dev

/-! ## STANDBY -/

/-- A channel's bank as STANDBY begins. -/
def bankSlept (keep : Bool) (d : Dev) (n : Nat) : Dev :=
  if d.scState n = 0 then d else if keep then d.setScState n 1 else (d.clearBank n).setScState n 0
/-- The engines' banks are in retention. -/
def enginesSlept (d : Dev) : Dev := (List.range 64).foldl (fun (d : Dev) (e : Nat) => d.updEng e (fun (x : Eng) => { x with asleep := true })) d
/-- The banks as STANDBY begins. -/
def banksSlept (d : Dev) (keep : Bool) : Dev := ((List.range 96).foldl (bankSlept keep) d.allInSr).enginesSlept
/-- The PLLs are off, and the device is in STANDBY. -/
def pllsOff (d : Dev) : Dev := { (((d.setFld Reg.clk_STATUS 2 2 0).setBit Reg.clk_STATUS 0 false).setBit Reg.clk_STATUS 4 false) with standby := true }
/-- The host has placed the device in D3hot. -/
def inD3hot (d : Dev) : Dev := { d with d3hot := true }
theorem standbyD_eq (d : Dev) : standbyD d =
    if d.inD3hot.standby ∨ !d.inD3hot.bit Reg.pwr_CTL 0 then d.inD3hot
    else if !d.inD3hot.mayStandby then d.inD3hot.raise Reg.pwr_EVENTS 1
    else (((d.inD3hot.banksSlept (bitsOf (d.inD3hot.pwrNow Reg.pwr_RET) 2 1 == 1)).setFld Reg.pwr_STATUS 6 12 0).timeLost
      (if ((d.inD3hot.banksSlept (bitsOf (d.inD3hot.pwrNow Reg.pwr_RET) 2 1 == 1)).setFld Reg.pwr_STATUS 6 12 0).time.refOk then 1 else 0) 0).pllsOff := rfl

theorem bankSlept_scState (keep : Bool) (d : Dev) (n : Nat) :
    (d.bankSlept keep n).scState n = if d.scState n = 0 then 0 else if keep then 1 else 0 := by
  unfold bankSlept
  split
  · assumption
  · split
    · exact fld_setFld_same _ _ _ _ _ (by decide)
    · exact fld_setFld_same _ _ _ _ _ (by decide)
theorem bankSlept_rd (keep : Bool) (d : Dev) (n : Nat) {a : Nat} (h : Reg.chn_SC_STATUS n ≠ a) : (d.bankSlept keep n).rd a = d.rd a :=
  iteInduction (motive := fun x : Dev => x.rd a = d.rd a) (fun _ => rfl) fun _ =>
    iteInduction (motive := fun x : Dev => x.rd a = d.rd a) (fun _ => rd_setFld_ne _ _ _ _ h) fun _ => rd_setFld_ne _ _ _ _ h
theorem enginesSlept_rd (d : Dev) (a : Nat) : d.enginesSlept.rd a = d.rd a :=
  foldl_keeps (fun d => d.rd a) _ (fun (d : Dev) (e : Nat) => d.updEng e (fun (x : Eng) => { x with asleep := true })) (fun _ _ => rfl) d
theorem allInSr_chn (d : Dev) {a : Nat} (h : a < 0x1000000) : d.allInSr.rd a = d.rd a :=
  foldl_keeps (fun d => d.rd a) _ (fun (d : Dev) (m : Nat) => d.enterSr m) (fun d m => enterSr_other d (by unfold Reg.dram_STATUS; omega)) d
theorem scState_of_rd {d d' : Dev} {n : Nat} (h : d'.rd (Reg.chn_SC_STATUS n) = d.rd (Reg.chn_SC_STATUS n)) : d'.scState n = d.scState n := by
  rw [scState, fld, rdN, h, scState, fld, rdN]
theorem banksSlept_scState (d : Dev) (keep : Bool) {n : Nat} (hn : n < 96) :
    (d.banksSlept keep).scState n = if d.scState n = 0 then 0 else if keep then 1 else 0 := by
  obtain ⟨d₀, -, hbefore, hafter⟩ := foldl_each (l := List.range 96) (f := bankSlept keep) (P := fun _ => True)
    (q := fun n (x : Dev) => x.rd (Reg.chn_SC_STATUS n)) (fun _ _ _ _ => trivial)
    (fun d i _ j _ hij => bankSlept_rd keep d i (by unfold Reg.chn_SC_STATUS chnBase; omega)) List.nodup_range (d := d.allInSr) trivial (List.mem_range.2 hn)
  rw [banksSlept, scState_of_rd ((enginesSlept_rd _ _).trans hafter), bankSlept_scState,
    scState_of_rd (hbefore.trans (allInSr_chn d (by unfold Reg.chn_SC_STATUS chnBase; omega)))]

/-- The loss of time leaves the state of a bank. -/
theorem timeLost_scState (d : Dev) (s flags : Nat) {n : Nat} (hn : n < 96) : (d.timeLost s flags).scState n = d.scState n :=
  scState_of_rd ((timeLost_quiet d s flags).2.chn hn (by decide) (by unfold stirredOffset; decide))
theorem pllsOff_rd (d : Dev) {a : Nat} (h : Reg.clk_STATUS ≠ a) : d.pllsOff.rd a = d.rd a :=
  (rd_setBit_ne _ _ _ h).trans ((rd_setBit_ne _ _ _ h).trans (rd_setFld_ne _ _ _ _ h))
theorem pllsOff_spll (d : Dev) : d.pllsOff.spll = 0 :=
  (fld_setBit_other _ _ _ _ _ _ (by decide) (by decide)).trans ((fld_setBit_other _ _ _ _ _ _ (by decide) (by decide)).trans
    (fld_setFld_same _ _ _ _ _ (by decide)))
theorem setScState_d3hot (d : Dev) (n s : Nat) : (d.setScState n s).d3hot = d.d3hot := d3hot_of_base (base_setFld ..)
theorem clearBank_d3hot (d : Dev) (n : Nat) : (d.clearBank n).d3hot = d.d3hot := by rw [clearBank]
theorem bankSlept_d3hot (keep : Bool) (d : Dev) (n : Nat) : (d.bankSlept keep n).d3hot = d.d3hot := by
  unfold bankSlept
  split
  · rfl
  · split
    · exact setScState_d3hot ..
    · exact (setScState_d3hot ..).trans (clearBank_d3hot ..)
theorem enterSr_d3hot (d : Dev) (m : Nat) : (d.enterSr m).d3hot = d.d3hot := d3hot_of_base ((base_setBit ..).trans (base_setFld ..))
theorem asleep_d3hot (d : Dev) (e : Nat) : (d.updEng e (fun (x : Eng) => { x with asleep := true })).d3hot = d.d3hot := by rw [updEng]
theorem banksSlept_d3hot (d : Dev) (keep : Bool) : (d.banksSlept keep).d3hot = d.d3hot := by
  rw [banksSlept, enginesSlept, foldl_keeps Dev.d3hot _ _ asleep_d3hot, foldl_keeps Dev.d3hot _ _ (bankSlept_d3hot keep), allInSr,
    foldl_keeps Dev.d3hot _ _ enterSr_d3hot]
theorem quietPart_d3hot {d d' : Dev} (h : d'.quietPart = d.quietPart) : d'.d3hot = d.d3hot := (congrArg Dev.d3hot h :)
theorem timeLost_d3hot (d : Dev) (s flags : Nat) : (d.timeLost s flags).d3hot = d.d3hot := quietPart_d3hot (timeLost_quiet d s flags).1


section standby
variable {d : Dev} (hawake : d.standby = false) (hon : d.bit Reg.pwr_CTL 0 = true)
include hawake hon
theorem standby_wanted : ¬ (d.inD3hot.standby = true ∨ (!d.inD3hot.bit Reg.pwr_CTL 0) = true) := by
  have hbit : d.inD3hot.bit Reg.pwr_CTL 0 = true := hon
  have hstandby : d.inD3hot.standby = false := hawake
  simp [hbit, hstandby]
theorem standbyD_of_free (hmay : d.mayStandby = true) :
    (standbyD d).standby = true ∧ (standbyD d).d3hot = true ∧ (standbyD d).timeValid = false ∧ (standbyD d).spll = 0 ∧
      ∀ n < 96, (standbyD d).scState n = if d.scState n = 0 then 0 else if bitsOf (d.pwrNow Reg.pwr_RET) 2 1 = 1 then 1 else 0 := by
  have hfree : d.inD3hot.mayStandby = true := hmay
  rw [standbyD_eq, if_neg (standby_wanted hawake hon), if_neg (by rw [hfree]; decide)]
  have hkeep : d.inD3hot.pwrNow Reg.pwr_RET = d.pwrNow Reg.pwr_RET := rfl
  rw [hkeep]
  have hrefused {x : Dev} : (if x.time.refOk then 1 else 0) < 4 ∧ ((if x.time.refOk then 1 else 0) == 2) = false := by
    cases x.time.refOk <;> decide
  generalize hslept : d.inD3hot.banksSlept (bitsOf (d.pwrNow Reg.pwr_RET) 2 1 == 1) = slept
  have hsc {n : Nat} (hn : n < 96) : slept.scState n = if d.scState n = 0 then 0 else if bitsOf (d.pwrNow Reg.pwr_RET) 2 1 = 1 then 1 else 0 := by
    rw [← hslept, banksSlept_scState _ _ hn]
    have hsame : d.inD3hot.scState n = d.scState n := rfl
    rw [hsame]
    simp only [beq_iff_eq]
  have hcold : slept.d3hot = true := by
    rw [← hslept, banksSlept_d3hot]
    rfl
  refine ⟨rfl, ?_, ?_, pllsOff_spll _, fun n hn => ?_⟩
  · have hpower (x : Dev) : x.pllsOff.d3hot = x.d3hot := rfl
    rw [hpower, timeLost_d3hot]
    exact hcold
  · rw [timeValid, bit_of_rd (pllsOff_rd _ (by decide)), ← timeValid, (timeLost_state _ hrefused.1 0).2, hrefused.2]
  · rw [scState_of_rd (pllsOff_rd _ (by unfold Reg.clk_STATUS Reg.chn_SC_STATUS chnBase; omega)), timeLost_scState _ _ _ hn,
      scState_of_rd (rd_setFld_ne _ _ _ _ (by unfold Reg.pwr_STATUS Reg.chn_SC_STATUS chnBase; omega))]
    exact hsc hn
theorem standbyD_of_hindered (hmay : d.mayStandby = false) : standbyD d = d.inD3hot.raise Reg.pwr_EVENTS 1 := by
  have hhindered : d.inD3hot.mayStandby = false := hmay
  rw [standbyD_eq, if_neg (standby_wanted hawake hon), if_pos (by rw [hhindered]; rfl)]
end standby

/-! ## The end of STANDBY -/

/-- What a wake shows. -/
def wakeShown (d : Dev) : HostSt × Bool × Word := (d.host, d.d3hot, d.rd Reg.pwr_WAKE_CAUSE)
/-- The device is out of STANDBY; a wake that did not come from the host sends a message. -/
def outOfStandby (d : Dev) (host : Bool) : Dev := { d with standby := false, host := { d.host with pme := d.host.pme || !host } }
/-- The cause of a wake shows. -/
def causeShown (d : Dev) (cause : Nat) : Dev := (d.wrN Reg.pwr_WAKE_CAUSE cause).raise Reg.pwr_EVENTS 2
theorem wakeShown_setFld (d : Dev) {a : Nat} (lo w v : Nat) (h : a ≠ Reg.pwr_WAKE_CAUSE) : (d.setFld a lo w v).wakeShown = d.wakeShown := by
  rw [wakeShown, rd_setFld_ne _ _ _ _ h]
  rfl
theorem wakeShown_setBit (d : Dev) {a : Nat} (i : Nat) (v : Bool) (h : a ≠ Reg.pwr_WAKE_CAUSE) : (d.setBit a i v).wakeShown = d.wakeShown :=
  wakeShown_setFld d _ _ _ h
theorem wakeShown_acquire (d : Dev) : (if d.rdN Reg.clk_SPLL_ACT = 0 then d else d.acquire).wakeShown = d.wakeShown := by
  refine iteInduction (motive := fun x : Dev => x.wakeShown = d.wakeShown) (fun _ => rfl) fun _ => ?_
  rw [wakeShown, acquire_rd _ (by decide)]
  rfl
theorem wakeShown_updChan (d : Dev) (n : Nat) (f : Chan → Chan) : (d.updChan n f).wakeShown = d.wakeShown := by rw [wakeShown, updChan]; rfl
theorem wakeShown_beginSettle (d : Dev) (n : Nat) : (if d.chMode n = 0 then d else d.beginSettle n).wakeShown = d.wakeShown := by
  refine iteInduction (motive := fun x : Dev => x.wakeShown = d.wakeShown) (fun _ => rfl) fun _ => ?_
  unfold beginSettle setHold
  rw [wakeShown_updChan, wakeShown_updChan, wakeShown_setFld _ _ _ _ (by unfold Reg.chn_SAFE_CTL Reg.pwr_WAKE_CAUSE chnBase; omega)]
theorem wakeShown_settleTile (d : Dev) (t : Nat) : (d.settleTile t).wakeShown = d.wakeShown := by
  unfold settleTile
  dsimp only
  rw [wakeShown_setFld _ _ _ _ (by decide), wakeShown_setBit _ _ _ (by decide), wakeShown_setBit _ _ _ (by decide)]
theorem wakeShown_clk (d : Dev) (c : ClkSt) : ({ d with clk := c } : Dev).wakeShown = d.wakeShown := rfl
theorem leaveStandby_wakeShown (d : Dev) (cause : Nat) (host : Bool) :
    (d.leaveStandby cause host).wakeShown = ((d.outOfStandby host).causeShown cause).wakeShown := by
  unfold leaveStandby
  dsimp only
  rw [foldl_keeps wakeShown _ _ wakeShown_settleTile, foldl_keeps wakeShown _ _ wakeShown_beginSettle, wakeShown_clk,
    wakeShown_setBit _ _ _ (by decide), wakeShown_setBit _ _ _ (by decide), wakeShown_acquire, causeShown, outOfStandby]
theorem causeShown_host (d : Dev) (cause : Nat) : (d.causeShown cause).host = d.host := by rw [causeShown, raise, wrN, wr, wrN, wr]
theorem causeShown_d3hot (d : Dev) (cause : Nat) : (d.causeShown cause).d3hot = d.d3hot := d3hot_of_base ((base_raise ..).trans (base_wrN ..))
theorem leaveStandby_spec (d : Dev) {cause : Nat} (hcause : cause < 2^32) (host : Bool) : (d.leaveStandby cause host).standby = false ∧
    (d.leaveStandby cause host).d3hot = d.d3hot ∧ (d.leaveStandby cause host).host.pme = (d.host.pme || !host) ∧
    (d.leaveStandby cause host).rdN Reg.pwr_WAKE_CAUSE = cause := by
  have hshown := leaveStandby_wakeShown d cause host
  rw [wakeShown, wakeShown, Prod.mk.injEq, Prod.mk.injEq] at hshown
  obtain ⟨hhost, hcold, hrd⟩ := hshown
  refine ⟨leaveStandby_standby .., by rw [hcold, causeShown_d3hot, outOfStandby], by rw [hhost, causeShown_host, outOfStandby], ?_⟩
  rw [rdN, hrd, causeShown, rd_raise_ne _ _ (by decide), ← rdN, rdN_wrN_same, Nat.mod_eq_of_lt hcause]

/-! ## Tiles -/

/-- A channel of the tile `f` holds of. -/
theorem any_tile_iff (t : Nat) (ht : t < 6) (f : Nat → Bool) :
    ((List.range 16).map (fun k => 16 * t + k)).any f = true ↔ ∃ n < 96, n / 16 = t ∧ f n = true := by
  rw [List.any_map, List.any_eq_true]
  constructor
  · rintro ⟨k, hk, hf⟩
    have := List.mem_range.1 hk
    exact ⟨16 * t + k, by omega, by omega, hf⟩
  · rintro ⟨n, -, rfl, hf⟩
    exact ⟨n % 16, List.mem_range.2 (Nat.mod_lt _ (by decide)), by rwa [Function.comp, Nat.div_add_mod]⟩
/-- A channel of tile `t` works. -/
def tileOn (d : Dev) (t : Nat) : Bool :=
  ((List.range 16).map (fun k => 16 * t + k)).any (fun n => d.isClaimed n || d.chMode n == 2) || (d.capOf t).en || d.borrowed t
/-- A channel of tile `t` is not OFF, or the tile works. -/
def tileAwake (d : Dev) (t : Nat) : Bool := d.tileOn t || ((List.range 16).map (fun k => 16 * t + k)).any (fun n => d.chMode n != 0)
theorem capOf_setBit (d : Dev) (a i : Nat) (v : Bool) (t : Nat) : (d.setBit a i v).capOf t = d.capOf t := rfl
/-- The two bits of a tile show. -/
def tileShown (d : Dev) (t : Nat) : Dev := (d.setBit Reg.pwr_STATUS (6 + t) (d.tileAwake t)).setBit Reg.pwr_STATUS (12 + t) (d.tileOn t)
theorem settleTile_eq (d : Dev) (t : Nat) :
    d.settleTile t = (d.tileShown t).setFld Reg.pwr_STATUS 0 2 (if (d.tileShown t).fld Reg.pwr_STATUS 12 6 = 0 then 1 else 2) := rfl
theorem settleTile_bits (d : Dev) {t : Nat} (ht : t < 6) :
    (d.settleTile t).bit Reg.pwr_STATUS (6 + t) = d.tileAwake t ∧ (d.settleTile t).bit Reg.pwr_STATUS (12 + t) = d.tileOn t := by
  rw [settleTile_eq, bit_setFld_other _ _ _ _ _ _ (by decide) (by omega), bit_setFld_other _ _ _ _ _ _ (by decide) (by omega), tileShown,
    bit_setBit_other _ _ _ _ _ (by omega) (by omega), bit_setBit_same _ _ _ _ (by omega), bit_setBit_same _ _ _ _ (by omega)]
  exact ⟨rfl, rfl⟩
theorem tileOn_iff (d : Dev) {t : Nat} (ht : t < 6) : d.tileOn t = true ↔
    (∃ n < 96, n / 16 = t ∧ (d.isClaimed n = true ∨ d.chMode n = 2)) ∨ (d.capOf t).en = true ∨ d.borrowed t = true := by
  rw [tileOn, Bool.or_eq_true, Bool.or_eq_true, any_tile_iff t ht, or_assoc]
  simp only [Bool.or_eq_true, beq_iff_eq]
theorem tileAwake_iff (d : Dev) {t : Nat} (ht : t < 6) : d.tileAwake t = true ↔
    (∃ n < 96, n / 16 = t ∧ (d.isClaimed n = true ∨ d.chMode n ≠ 0)) ∨ (d.capOf t).en = true ∨ d.borrowed t = true := by
  rw [tileAwake, Bool.or_eq_true, tileOn_iff d ht, any_tile_iff t ht]
  simp only [bne_iff_ne, ne_eq]
  constructor
  · rintro ((⟨n, hn, htile, hclaimed | hmode⟩ | hcap) | ⟨n, hn, htile, hmode⟩)
    · exact .inl ⟨n, hn, htile, .inl hclaimed⟩
    · exact .inl ⟨n, hn, htile, .inr (by omega)⟩
    · exact .inr hcap
    · exact .inl ⟨n, hn, htile, .inr hmode⟩
  · rintro (⟨n, hn, htile, hclaimed | hmode⟩ | hcap)
    · exact .inl (.inl ⟨n, hn, htile, .inl hclaimed⟩)
    · exact .inr ⟨n, hn, htile, hmode⟩
    · exact .inl (.inr hcap)

/-! ## Banks -/

theorem bankOn_of_on {d : Dev} {n : Nat} (hon : d.scOff n = false) : (d.bankOn n).scState n = 2 ∧
    ∀ a, SMap.get 0 (d.bankOn n).sc a = if a / 2^19 = n ∧ d.scState n = 0 then 0 else SMap.get 0 d.sc a := by
  unfold bankOn
  rw [if_neg (by rw [hon]; decide)]
  split
  · next hoff =>
    have hcleared : ((d.clearBank n).setScState n 2).sc = d.sc.filter (fun p => p.1 / 2^19 != n) := sc_of_base (base_setFld ..)
    refine ⟨fld_setFld_same _ _ _ _ _ (by decide), fun a => ?_⟩
    rw [hcleared, SMap.get_filter_keys (0 : Byte) _ (fun b => b / 2^19 != n)]
    by_cases ha : a / 2^19 = n
    · rw [if_neg (by rw [ha, bne_self_eq_false]; decide), if_pos ⟨ha, hoff⟩]
    · rw [if_pos (bne_iff_ne.2 ha), if_neg (fun h => ha h.1)]
  · next hstate =>
    have hsame : (d.setScState n 2).sc = d.sc := sc_of_base (base_setFld ..)
    refine ⟨fld_setFld_same _ _ _ _ _ (by decide), fun a => ?_⟩
    rw [hsame, if_neg (fun h => hstate h.2)]

/-! ## The junction -/

/-- A reading of the junction shows, and the highest one. -/
def tjShown (d : Dev) (t : Int) : Dev :=
  (d.setFld Reg.pwr_TJ 0 16 (toBits 16 t)).setFld Reg.pwr_TJ 16 16 (toBits 16 (max (sext 16 (d.fld Reg.pwr_TJ 16 16)) t))
/-- The junction is too hot. -/
def tjAlarmed (d : Dev) : Dev := (d.raise Reg.pwr_EVENTS 4).fireNow 970
/-- THERM_N is asserted. -/
def withTherm (d : Dev) : Dev := { d with therm := true }
/-- THERM_N is asserted where the reading asks for it. -/
def tjHot (d : Dev) (t : Int) : Dev := if 1840 ≤ t ∧ !d.therm then d.withTherm.faultNow 10 0xA0 0 0 [d.rdN Reg.pwr_TJ] else d
theorem junctionReadingD_eq (d : Dev) (t : Int) : junctionReadingD t d =
    (if sext 16 (bitsOf (d.pwrNow Reg.pwr_TJ_ALARM) 0 16) < t ∧ sext 16 (d.fld Reg.pwr_TJ 0 16) ≤ sext 16 (bitsOf (d.pwrNow Reg.pwr_TJ_ALARM) 0 16)
      then (d.tjShown t).tjAlarmed else d.tjShown t).tjHot t := rfl
/-- THERM_N changes nothing else that shows, and no firing is lost. -/
theorem tjHot_stirred (d : Dev) (t : Int) : (∀ a, calmReg a → (d.tjHot t).rd a = d.rd a) ∧ inboxGrows d (d.tjHot t) := by
  unfold tjHot
  split
  · have h : stirred d.withTherm (d.withTherm.faultNow 10 0xA0 0 0 [d.rdN Reg.pwr_TJ]) := stirred_faultNow ..
    exact ⟨h.rd, inboxGrows_trans (inboxGrows_of_ec (d' := d.withTherm) rfl) h.grows⟩
  · exact ⟨fun _ _ => rfl, inboxGrows_refl d⟩
theorem calmPart_therm {d d' : Dev} (h : d'.calmPart = d.calmPart) : d'.therm = d.therm := (congrArg Dev.therm h :)
theorem tjHot_therm (d : Dev) (t : Int) : (d.tjHot t).therm = true ↔ d.therm = true ∨ 1840 ≤ t := by
  unfold tjHot
  split
  · next h => exact ⟨fun _ => .inr h.1, fun _ => calmPart_therm (stirred_faultNow d.withTherm ..).calm⟩
  · next h =>
    cases htherm : d.therm with
    | true => exact ⟨fun _ => .inl rfl, fun _ => rfl⟩
    | false => exact ⟨fun h => Bool.noConfusion h, fun h' => absurd ⟨h'.resolve_left Bool.false_ne_true, by rw [htherm]; rfl⟩ h⟩
theorem tjAlarmed_rd (d : Dev) {a : Nat} (h : Reg.pwr_EVENTS ≠ a) : d.tjAlarmed.rd a = d.rd a := by
  rw [tjAlarmed, rd_of_regs (fireNow_regs ..), rd_raise_ne _ _ h]
theorem tjShown_rd (d : Dev) (t : Int) {a : Nat} (h : Reg.pwr_TJ ≠ a) : (d.tjShown t).rd a = d.rd a := (rd_setFld_ne _ _ _ _ h).trans (rd_setFld_ne _ _ _ _ h)
theorem tjShown_base (d : Dev) (t : Int) : (d.tjShown t).base = d.base := (base_setFld ..).trans (base_setFld ..)
theorem tjAlarmed_base (d : Dev) : d.tjAlarmed.base = d.base := (base_fireNow ..).trans (base_raise ..)
theorem tjShown_fld (d : Dev) (t : Int) : (d.tjShown t).fld Reg.pwr_TJ 0 16 = toBits 16 t ∧
    (d.tjShown t).fld Reg.pwr_TJ 16 16 = toBits 16 (max (sext 16 (d.fld Reg.pwr_TJ 16 16)) t) := by
  rw [tjShown, fld_setFld_other _ _ _ _ _ _ _ (by decide) (by decide), fld_setFld_same _ _ _ _ _ (by decide), fld_setFld_same _ _ _ _ _ (by decide),
    Nat.mod_eq_of_lt (toBits_lt ..), Nat.mod_eq_of_lt (toBits_lt ..)]
  exact ⟨rfl, rfl⟩
theorem fld_of_rd {d d' : Dev} {a : Nat} (h : d'.rd a = d.rd a) (lo w : Nat) : d'.fld a lo w = d.fld a lo w := by rw [fld, rdN, h, fld, rdN]
theorem junctionReadingD_fld (d : Dev) (t : Int) : (junctionReadingD t d).fld Reg.pwr_TJ 0 16 = toBits 16 t ∧
    (junctionReadingD t d).fld Reg.pwr_TJ 16 16 = toBits 16 (max (sext 16 (d.fld Reg.pwr_TJ 16 16)) t) := by
  have hrd : (junctionReadingD t d).rd Reg.pwr_TJ = (d.tjShown t).rd Reg.pwr_TJ := by
    rw [junctionReadingD_eq, (tjHot_stirred ..).1 _ (calmReg_clk (by decide))]
    exact iteInduction (motive := fun x : Dev => x.rd Reg.pwr_TJ = (d.tjShown t).rd Reg.pwr_TJ) (fun _ => tjAlarmed_rd _ (by decide)) fun _ => rfl
  rw [fld_of_rd hrd, fld_of_rd hrd]
  exact tjShown_fld d t
theorem junctionReadingD_therm (d : Dev) (t : Int) : (junctionReadingD t d).therm = true ↔ d.therm = true ∨ 1840 ≤ t := by
  have hbase := iteInduction (motive := fun x : Dev => x.base = d.base)
    (c := sext 16 (bitsOf (d.pwrNow Reg.pwr_TJ_ALARM) 0 16) < t ∧ sext 16 (d.fld Reg.pwr_TJ 0 16) ≤ sext 16 (bitsOf (d.pwrNow Reg.pwr_TJ_ALARM) 0 16))
    (fun _ => (tjAlarmed_base _).trans (tjShown_base d t)) fun _ => tjShown_base d t
  rw [junctionReadingD_eq, tjHot_therm, therm_of_base hbase]
theorem junctionReadingD_alarm (d : Dev) (t : Int) (habove : sext 16 (bitsOf (d.pwrNow Reg.pwr_TJ_ALARM) 0 16) < t)
    (hbelow : sext 16 (d.fld Reg.pwr_TJ 0 16) ≤ sext 16 (bitsOf (d.pwrNow Reg.pwr_TJ_ALARM) 0 16)) :
    (junctionReadingD t d).bit Reg.pwr_EVENTS 2 = true ∧ d.fired (junctionReadingD t d) 970 d.nowT := by
  rw [junctionReadingD_eq, if_pos ⟨habove, hbelow⟩]
  have hhot := tjHot_stirred (d.tjShown t).tjAlarmed t
  have hlisten : sameListeners d ((d.tjShown t).raise Reg.pwr_EVENTS 4) :=
    have hinEc {a : Nat} (h : 0x1201000 ≤ a ∧ a < 0x1202000) : ¬ inEc a := by unfold inEc; omega
    sameListeners_trans (sameListeners_trans (sameListeners_setFld d (hinEc (by decide)) ..) (sameListeners_setFld _ (hinEc (by decide)) ..))
      (sameListeners_raise _ (hinEc (by decide)) _)
  have hnow : ((d.tjShown t).raise Reg.pwr_EVENTS 4).nowT = d.nowT :=
    nowT_of_rd ((rd_raise_ne _ _ (by decide)).trans (tjShown_rd d t (by decide))) (time_of_base ((base_raise ..).trans (tjShown_base d t)))
  constructor
  · rw [bit_of_rd (hhot.1 _ (calmReg_clk (by decide))), tjAlarmed, bit_of_rd (rd_of_regs (fireNow_regs ..) _), bit_raise_same _ _ _ _ (by decide) (by decide)]
    exact Bool.or_true _
  · rw [← hnow]
    have hfired (x y : Dev) (hx : sameListeners d x) (hy : inboxGrows (x.fireNow 970) y) : d.fired y 970 x.nowT :=
      fired_of_fire (by decide) hx hy
    exact hfired _ _ hlisten hhot.2

/-! ## A power-on reset -/

/-- A register that nothing wrote reads as its table gives it. -/
theorem rd_of_fresh {d : Dev} (h : d.regs = []) (a : Nat) : d.rd a = regReset a := by
  rw [rd, h]
  rfl
theorem afterReset_powerOn (d : Dev) : (d.afterReset true 1).rdN Reg.sec_RESET_CAUSE = 1 ∧ (d.afterReset true 1).chan = [] ∧
    (d.afterReset true 1).dram = [] ∧ (d.afterReset true 1).timeValid = false := by
  unfold afterReset
  dsimp only
  rw [if_pos rfl]
  refine ⟨?_, rfl, rfl, ?_⟩
  · rw [rdN_wrN_same]
    rfl
  · rw [timeValid, bit_wrN_ne _ _ _ (by decide), bit, rd_of_fresh rfl]
    decide

end Dev

/-- Settles O39: each command of the power states by its own lemma; the states of the banks go through STANDBY bank by bank. -/
theorem powerStatesChange : Obligations.PowerStatesChange := by
  intro s d keep
  refine ⟨fun hawake hon => ⟨fun hmay => ?_, fun hmay => ?_⟩, fun hstandby => ⟨?_, fun m hm => ?_, fun hm => ?_⟩, ?_, fun t => ?_, fun e => ⟨fun hret hfree hbank => ?_, fun hawake hclk => ?_⟩,
    fun n => ⟨fun hret hfree hstate => ?_, fun hawake hclk hoff => ?_⟩, fun t => ?_⟩
  · exact State.runs_of_onDev (exec_standby s) rfl (Dev.standbyD_of_free hawake hon hmay)
  · refine State.runs_of_onDev (exec_standby s) (Dev.standbyD_of_hindered hawake hon hmay) ⟨?_, ?_, ?_, ?_⟩
    · rw [Dev.standby_of_base (Dev.base_raise ..)]
      exact hawake
    · rw [Dev.d3hot_of_base (Dev.base_raise ..)]
      rfl
    · rw [Dev.bit_raise_same _ _ _ _ (by decide) (by decide)]
      exact Bool.or_true _
    · rw [Dev.time_of_base (Dev.base_raise ..)]
      rfl
  · refine ⟨_, exec_wake .d0 s, ⟨rfl, rfl, rfl⟩, ?_⟩
    have hwake : (wakeG .d0 s.guard s.dev).2 = ({ s.dev with d3hot := false } : Dev).leaveStandby 1 true := if_pos hstandby
    obtain ⟨hawake, hcold, -, hcause⟩ := Dev.leaveStandby_spec { s.dev with d3hot := false } (cause := 1) (by decide) true
    rw [← hwake] at hawake hcold hcause
    exact ⟨hawake, hcold, hcause⟩
  · refine ⟨_, exec_wake (.triggerInput m) s, ⟨rfl, rfl, rfl⟩, ?_⟩
    have hwake : (wakeG (.triggerInput m) s.guard s.dev).2 = s.dev.leaveStandby (2 + 16 * m) false := if_pos (by rw [hstandby, hm]; rfl)
    obtain ⟨hawake, -, hpme, hcause⟩ := Dev.leaveStandby_spec s.dev (cause := 2 + 16 * m) (by omega) false
    rw [← hwake] at hawake hpme hcause
    exact ⟨hawake, hpme.trans (Bool.or_true _), hcause⟩
  · refine ⟨_, exec_wake .management s, ⟨rfl, rfl, rfl⟩, ?_⟩
    have hwake : (wakeG .management s.guard s.dev).2 = s.dev.leaveStandby 4 false := if_pos (by rw [hstandby, hm]; rfl)
    obtain ⟨hawake, -, -, hcause⟩ := Dev.leaveStandby_spec s.dev (cause := 4) (by decide) false
    rw [← hwake] at hawake hcause
    exact ⟨hawake, hcause⟩
  · exact ⟨_, exec_wake .powerOn s, rfl, rfl, rfl, Dev.afterReset_powerOn s.dev⟩
  · refine State.runs_of_onDev (exec_tileState t s) rfl ?_
    obtain ⟨hawake, hon⟩ := s.dev.settleTile_bits t.isLt
    have hgoes : tileStateD t s.dev = s.dev.settleTile t := rfl
    rw [hgoes, hawake, hon]
    exact ⟨s.dev.tileAwake_iff t.isLt, s.dev.tileOn_iff t.isLt⟩
  · have hgoes : bankRetentionD (.engine e) s.dev = s.dev.updEng e (fun x => { x with asleep := true }) := if_pos (by rw [hret, hfree, hbank]; rfl)
    refine State.runs_of_onDev (exec_bankRetention _ s) hgoes ?_
    rw [Dev.engOf_updEng_same]
  · have hgoes : bankWakeD (.engine e) s.dev = s.dev.updEng e (fun x => { x with asleep := false }) := if_neg (by rw [hawake, hclk]; decide)
    refine State.runs_of_onDev (exec_bankWake _ s) hgoes ?_
    rw [Dev.engOf_updEng_same]
  · have hgoes : bankRetentionD (.segment n) s.dev = s.dev.setScState n 1 := if_pos (by rw [hret, hfree, hstate]; rfl)
    exact State.runs_of_onDev (exec_bankRetention _ s) hgoes ⟨Dev.fld_setFld_same _ _ _ _ _ (by decide), Dev.sc_of_base (Dev.base_setFld ..)⟩
  · have hgoes : bankWakeD (.segment n) s.dev = s.dev.bankOn n := if_neg (by rw [hawake, hclk]; decide)
    exact State.runs_of_onDev (exec_bankWake _ s) hgoes (Dev.bankOn_of_on hoff)
  · intro alarm
    refine State.runs_of_onDev (exec_junctionReading t s) rfl ?_
    obtain ⟨hnow, hmost⟩ := s.dev.junctionReadingD_fld t
    exact ⟨hnow, hmost, s.dev.junctionReadingD_alarm t, s.dev.junctionReadingD_therm t⟩
end Sys2Proof.Machine

/-! PROOFS. What the traffic of DRAM leaves as it is: the queues of the DMCs, their states, and where an address lies (R384, R390). -/
namespace Sys2Proof.Machine

/-- What a DMC keeps through traffic: its queues, its turn and its silent sensors. -/
def Dmc.queues (x : Dmc) : Dmc := { x with corrs := [], clock := 0, corrAt := none, rows := [] }

namespace Dev

/-- Registers that the traffic of a DMC changes, by their place in its block: STATUS, EVENTS and the counters. -/
def workedOffset (o : Nat) : Prop := o = 4 ∨ o = 8 ∨ (0x50 ≤ o ∧ o < 0x78)
/-- A register of DRAM that traffic leaves as it is. -/
def idleReg (a : Nat) : Prop := 0x1000000 ≤ a ∧ a < 0x1200000 ∧ (a < 0x1080000 → ¬ workedOffset (a % 0x10000))

/-- No more has changed than the traffic of DRAM changes; contents may. -/
structure worked (d d' : Dev) : Prop where
  calm : d'.calmPart = d.calmPart
  rd : ∀ a, idleReg a → d'.rd a = d.rd a
  state : ∀ m < 8, d'.dmcState m = d.dmcState m
  queues : ∀ m, (d'.dmcOf m).queues = (d.dmcOf m).queues

theorem calmPart_mm {d d' : Dev} (h : d'.calmPart = d.calmPart) : d'.mm = d.mm := (congrArg Dev.mm h :)
theorem calmPart_moved {d d' : Dev} (h : d'.calmPart = d.calmPart) : d'.moved = d.moved := (congrArg Dev.moved h :)
theorem calmPart_parity {d d' : Dev} (h : d'.calmPart = d.calmPart) : d'.parity = d.parity := (congrArg Dev.parity h :)
theorem dmcState_of_rd {d d' : Dev} {m : Nat} (h : d'.rd (Reg.dram_STATUS m) = d.rd (Reg.dram_STATUS m)) : d'.dmcState m = d.dmcState m :=
  fld_of_rd h ..
theorem dmcOf_of_dmc {d d' : Dev} (h : d'.dmc = d.dmc) (m : Nat) : d'.dmcOf m = d.dmcOf m := by rw [dmcOf, h, dmcOf]

section worked
variable (d : Dev)

theorem worked_refl : worked d d := ⟨rfl, fun _ _ => rfl, fun _ _ => rfl, fun _ => rfl⟩
variable {d} in
theorem worked_trans {d' d'' : Dev} (h : worked d d') (h' : worked d' d'') : worked d d'' :=
  ⟨h'.calm.trans h.calm, fun a ha => (h'.rd a ha).trans (h.rd a ha), fun m hm => (h'.state m hm).trans (h.state m hm), fun m => (h'.queues m).trans (h.queues m)⟩
variable {d} in
theorem worked_ite {d' d'' : Dev} {p : Prop} [Decidable p] (h : p → worked d d') (h' : ¬ p → worked d d'') : worked d (if p then d' else d'') :=
  iteInduction (motive := fun x => worked d x) h h'
theorem worked_foldl {α : Type} (l : List α) {f : Dev → α → Dev} (h : ∀ x ∈ l, ∀ d, worked d (f d x)) : worked d (l.foldl f d) :=
  foldl_invariant (P := fun x => worked d x) (fun x i hi hx => worked_trans hx (h i hi x)) (worked_refl d)
variable {d} in
/-- A change of parts that are not calm, and of no register or queue. -/
theorem worked_of_parts {d' : Dev} (hcalm : d'.calmPart = d.calmPart) (hregs : d'.regs = d.regs) (hdmc : d'.dmc = d.dmc) : worked d d' :=
  ⟨hcalm, fun a _ => rd_of_regs hregs a, fun _ _ => dmcState_of_rd (rd_of_regs hregs _), fun m => by rw [dmcOf_of_dmc hdmc]⟩
variable {d} in
/-- Faults and firings are no traffic, and leave DRAM as it is. -/
theorem worked_of_keeps {d' : Dev} (hcalm : d'.calmPart = d.calmPart) (h : keepsHolds d d') (hdmc : d'.dmc = d.dmc) : worked d d' :=
  ⟨hcalm, fun _ ha => h.dram ⟨ha.1, ha.2.1⟩, fun m hm => dmcState_of_rd (h.dram (by unfold Reg.dram_STATUS; omega)), fun m => by rw [dmcOf_of_dmc hdmc]⟩

section writes
variable {m o : Nat} (hm : m < 8) (ho : workedOffset o) (ho4 : o ≠ 4)
include hm ho ho4
theorem worked_wrN (v : Nat) : worked d (d.wrN (0x1000000 + 0x10000 * m + o) v) where
  calm := calmPart_of_base (base_wrN ..)
  rd a ha := rd_wrN_ne _ _ (by
    rintro rfl
    unfold workedOffset at ho
    refine ha.2.2 (by omega) ?_
    unfold workedOffset
    omega)
  state k hk := dmcState_of_rd (rd_wrN_ne _ _ (by
    unfold workedOffset at ho
    unfold Reg.dram_STATUS
    omega))
  queues k := by rw [dmcOf_of_dmc (dmc_of_base (base_wrN ..))]
theorem worked_raise (f : Nat) : worked d (d.raise (0x1000000 + 0x10000 * m + o) f) := worked_wrN d hm ho ho4 _
theorem worked_bump : worked d (d.bump (0x1000000 + 0x10000 * m + o)) := worked_wrN d hm ho ho4 _
end writes

/-- A field of a STATUS above the state of its DMC. -/
theorem worked_setStatus {m : Nat} (hm : m < 8) {lo w : Nat} (hlo : 3 ≤ lo) (hw : lo + w ≤ 32) (v : Nat) : worked d (d.setFld (Reg.dram_STATUS m) lo w v) where
  calm := calmPart_of_base (base_setFld ..)
  rd a ha := rd_setFld_ne _ _ _ _ (by
    rintro rfl
    unfold idleReg workedOffset Reg.dram_STATUS at ha
    omega)
  state k hk := by
    unfold dmcState
    by_cases h : Reg.dram_STATUS m = Reg.dram_STATUS k
    · rw [h, fld_setFld_other _ _ _ _ _ _ _ hw (.inr hlo)]
    · exact fld_of_rd (rd_setFld_ne _ _ _ _ h) ..
  queues k := by rw [dmcOf_of_dmc (dmc_of_base (base_setFld ..))]
theorem worked_setOwed {m : Nat} (hm : m < 8) (o : Nat) : worked d (d.setOwed m o) := worked_setStatus d hm (by decide) (by decide) o
theorem worked_exitSr {m : Nat} (hm : m < 8) : worked d (d.exitSr m) := by
  unfold exitSr
  exact worked_ite (fun _ => worked_refl d) fun _ => worked_trans (worked_setOwed d hm 0) (worked_setStatus _ hm (by decide) (by decide) _)
theorem worked_updDmc (m : Nat) {f : Dmc → Dmc} (hf : (f (d.dmcOf m)).queues = (d.dmcOf m).queues) : worked d (d.updDmc m f) where
  calm := rfl
  rd _ _ := rfl
  state _ _ := rfl
  queues k := by
    by_cases h : m = k
    · subst h
      rw [updDmc_dmcOf, hf]
    · rw [updDmc_dmcOf_ne _ _ h]

theorem worked_addSat64 {m o : Nat} (hm : m < 8) (ho : workedOffset o) (ho4 : o ≠ 4) (ho' : workedOffset (o + 4)) (n : Nat) :
    worked d (d.addSat64 (0x1000000 + 0x10000 * m + o) n) :=
  worked_trans (worked_wrN d hm ho ho4 _) (worked_wrN _ hm ho' (by unfold workedOffset at ho; omega) _)
theorem worked_counted {m : Nat} (hm : m < 8) (write : Bool) (n : Nat) :
    worked d (d.addSat64 (if write then Reg.dram_WR_BYTES_LO m else Reg.dram_RD_BYTES_LO m) n) := by
  cases write
  · exact worked_addSat64 d hm (by unfold workedOffset; decide) (by decide) (by unfold workedOffset; decide) n
  · exact worked_addSat64 d hm (by unfold workedOffset; decide) (by decide) (by unfold workedOffset; decide) n
theorem worked_touchAt {m : Nat} (hm : m < 8) (l : Nat) (write : Bool) (n : Nat) : worked d (d.touchAt m l write n) :=
  worked_trans (worked_trans (worked_ite (fun _ => worked_exitSr d hm) fun _ => worked_refl d) (worked_counted _ hm write n)) (worked_updDmc _ m rfl)
theorem worked_touch (write : Bool) (a n : Nat) : worked d (d.touch write a n) := by
  rw [touch_eq]
  exact worked_touchAt d (d.place_lt a) ..
theorem worked_fillPass (g : Nat) : worked d (d.fillPass g) := by
  unfold fillPass
  exact worked_ite (fun _ => worked_refl d) fun _ => worked_foldl d _ fun p _ d => worked_touch d true p.1 p.2
theorem worked_correctedBy {m : Nat} (hm : m < 8) (l map : Nat) : worked d (d.correctedBy m l map) := by
  unfold correctedBy
  extract_lets x tick device times storm counted fired noted
  have hcounted : worked d counted := worked_trans (worked_trans (worked_bump d hm (o := 0x50) (by unfold workedOffset; decide) (by decide))
    (worked_raise _ hm (o := 8) (by unfold workedOffset; decide) (by decide) _)) (worked_wrN _ hm (o := 0x64) (by unfold workedOffset; decide) (by decide) _)
  have hfired : worked counted fired :=
    worked_ite (fun _ => worked_of_keeps (calmPart_of_base rfl) (keepsHolds_refl _) rfl) fun _ =>
      worked_of_keeps (calmPart_of_base (base_fireNow ..)) (keepsHolds_fireNow ..) (dmc_of_base (base_fireNow ..))
  have hnoted : worked fired noted := worked_updDmc _ m rfl
  have hall := worked_trans (worked_trans hcounted hfired) hnoted
  clear_value noted
  exact worked_ite (fun _ => worked_trans hall (worked_of_keeps (calmPart_of_base (base_faultOf _ _ _ _ _ _ _ rfl)) (keepsHolds_faultOf ..)
    (dmc_of_base (base_faultOf _ _ _ _ _ _ _ rfl)))) fun _ => hall
theorem worked_badCw (m : SMap (Option (Nat × Nat))) : worked d { d with badCw := m } := worked_of_parts rfl rfl rfl
theorem worked_correctOne (q : Nat × Nat × Nat) : worked d (d.correctOne q) := by
  unfold correctOne
  have h := worked_correctedBy d (d.place_lt (q.1 * 128)) (d.place (q.1 * 128)).2 q.2.1
  generalize d.correctedBy _ _ _ = d₁ at h ⊢
  exact worked_trans h (worked_badCw ..)
theorem worked_correct (write : Bool) (a len : Nat) : worked d (d.correct write a len) := by
  rw [correct_eq]
  exact worked_foldl d _ fun q _ d => worked_correctOne d q
theorem worked_served (write : Bool) (a n : Nat) : worked d (d.served write a n) := by
  unfold served
  extract_lets filled passed
  have hfilled : worked d filled := worked_ite (fun _ => worked_foldl d _ fun i _ d => worked_fillPass d _) fun _ => worked_refl d
  have hpassed : worked filled passed := worked_foldl _ _ fun p _ d => worked_ite (fun _ => worked_refl d) fun _ => worked_touch ..
  exact worked_trans (worked_trans hfilled hpassed) (worked_correct ..)
theorem worked_wipeIn (g : Nat) : worked d (d.wipeIn g) := by
  have hwiped : worked d (d.wipedIn g) := worked_of_parts rfl rfl rfl
  have hsec {a : Nat} (h : 0x1200000 ≤ a) : ¬ stillReg a := notStill_of_high h
  rw [wipeIn_eq]
  refine worked_ite (fun _ => worked_refl d) fun _ => worked_trans hwiped (worked_ite (fun _ => ?_) fun _ => worked_refl _)
  generalize d.wipedIn g = w
  exact worked_of_keeps (calmPart_of_base ((base_raise ..).trans (base_setBit ..)))
    (keepsHolds_trans (keepsHolds_setBit w (hsec (by decide)) ..) (keepsHolds_raise _ (hsec (by decide)) _)) (dmc_of_base ((base_raise ..).trans (base_setBit ..)))
theorem worked_dramWrite (a : Nat) (bs : List Byte) : worked d (d.dramWrite a bs) := by
  unfold dramWrite
  extract_lets g0 g1 d₁
  have h₁ : worked d d₁ := worked_ite (fun _ => worked_refl d) fun _ => worked_foldl d _ fun i _ d => worked_wipeIn d _
  exact worked_trans h₁ (worked_of_parts rfl rfl rfl)
end worked

/-! ## What traffic leaves -/

section worked
variable {d d' : Dev} (h : worked d d')
include h

theorem bit_of_worked {a : Nat} (ha : 0x1080000 ≤ a ∧ a < 0x1200000) (i : Nat) : d'.bit a i = d.bit a i :=
  bit_of_rd (h.rd a ⟨by omega, ha.2, fun h => by omega⟩) i
theorem home_of_worked (a : Nat) : d'.home a = d.home a := by
  unfold home ilBytes
  rw [calmPart_mm h.calm]
theorem outDmc_of_worked : d'.outDmc = d.outDmc := by
  unfold outDmc
  refine List.find?_congr fun m hm => ?_
  rw [bit_of_worked h (by decide), h.state m (List.mem_range.mp hm)]
theorem reserveAt_of_worked : d'.reserveAt = d.reserveAt := by
  unfold reserveAt
  rw [rdN, h.rd _ ⟨by decide, by decide, fun h => absurd h (by decide)⟩, ← rdN, calmPart_mm h.calm]
theorem place_of_worked (a : Nat) : d'.place a = d.place a := by
  obtain ⟨f, hf⟩ : ∃ f, f = @place := ⟨_, rfl⟩
  rewrite [← hf]
  delta place at hf
  rewrite [hf]
  beta_reduce
  have hhome := d.home_lt a
  rewrite [home_of_worked h, outDmc_of_worked h, calmPart_moved h.calm, reserveAt_of_worked h]
  generalize d.home a = x at hhome ⊢
  obtain ⟨m, l⟩ := x
  dsimp only at hhome ⊢
  rw [bit_of_worked h (by decide), h.state m hhome]
theorem waiting_of_worked (m : Nat) : (d'.dmcOf m).waiting = (d.dmcOf m).waiting := (congrArg Dmc.waiting (h.queues m) :)
theorem ctl_of_worked (m : Nat) : (d'.dmcOf m).ctl = (d.dmcOf m).ctl := (congrArg Dmc.ctl (h.queues m) :)
theorem frozen_of_worked : d'.frozen = d.frozen := bit_of_worked h (by decide) 0
end worked
end Dev
end Sys2Proof.Machine

/-! PROOFS. Requests of DRAM join a queue (R386, R387, R389), and the arbiter chooses among them (R390). -/
namespace Sys2Proof.Machine

theorem exec_dramRequest (port : Fin 11) (addr : BitVec 41) (len : Fin 513) (w hint : Bool) (data : List Byte) (ns : Nat) (s : State) :
    exec (.dramRequest port addr len w hint data ns) s = if !requestOk addr.toNat len.val w data then .refused .illFormed
      else if !s.dev.populated addr.toNat then .fault .noSuchAddress
      else s.onDev (fun d => d.enqueue port.val addr.toNat len.val w hint data ns) := rfl
theorem exec_arbitration (m : Fin 8) (ns : Nat) (s : State) : exec (.arbitration m ns) s = s.onDev (arbitrationD m ns) := rfl

/-- The operands form a request. -/
def formedRequest (a len : Nat) (w : Bool) (data : List Byte) : Prop :=
  64 ≤ len ∧ len % 64 = 0 ∧ len ≤ 512 ∧ a / 4096 = (a + len - 1) / 4096 ∧ (w = true → data.length = len)
theorem requestOk_iff (a len : Nat) (w : Bool) (data : List Byte) : requestOk a len w data = true ↔ formedRequest a len w data := by
  unfold requestOk formedRequest
  cases w <;> simp only [Bool.and_eq_true, decide_eq_true_eq, beq_iff_eq, Bool.not_true, Bool.not_false, Bool.true_or, Bool.false_or, true_implies,
    Bool.false_eq_true, false_implies] <;> tauto

namespace Dev

theorem ltOf_of_worked {d d' : Dev} (h : worked d d') {m p : Nat} (hm : m < 8) (hp : p < 11) : d'.ltOf m p = d.ltOf m p := by
  have hcorrupt : d'.corrupt (Reg.dram_CFG m) 0x100 = d.corrupt (Reg.dram_CFG m) 0x100 := by rw [corrupt, calmPart_parity h.calm, corrupt]
  have hlt : d'.fld (Reg.dram_LT m p) 0 16 = d.fld (Reg.dram_LT m p) 0 16 := fld_of_rd (h.rd _ (by
    unfold idleReg workedOffset Reg.dram_LT
    omega)) ..
  rw [ltOf, hcorrupt, hlt, ltOf]

theorem worked_wokenFor (d : Dev) {m : Nat} (hm : m < 8) (ns : Nat) : worked d (d.wokenFor m ns) :=
  worked_trans (worked_ite (fun _ => worked_exitSr d hm) fun _ => worked_refl d) (worked_updDmc _ m rfl)
theorem enqueueReq_ctl {d : Dev} {m l addr : Nat} (h : d.place addr = (m, l)) (hm : m < 8) (port len : Nat) (write openHint : Bool) (data : List Byte) (ns : Nat)
    (fill : Option (Nat × Nat × Nat × Nat)) : ((d.enqueueReq port addr len write openHint data ns fill).dmcOf m).ctl = (d.dmcOf m).ctl := by
  rw [enqueueReq_at h, updDmc_dmcOf]
  exact ctl_of_worked (worked_wokenFor d hm ns) m

/-- The granule of a write is filled before it. -/
def filledFor (d : Dev) (write : Bool) (g : Nat) : Dev := if write then (d.fillPass g).wipeIn g else d
theorem worked_filledFor (d : Dev) (write : Bool) (g : Nat) : worked d (d.filledFor write g) :=
  worked_ite (fun _ => worked_trans (worked_fillPass d g) (worked_wipeIn _ g)) fun _ => worked_refl d
theorem filledFor_dramByte (d : Dev) (write : Bool) (g x : Nat) : (d.filledFor write g).dramByte x = d.dramByte x :=
  iteInduction (motive := fun y : Dev => y.dramByte x = d.dramByte x)
    (fun _ => (dramByte_wipeIn ..).trans (dramByte_of_contents (contents_fillPass d g) x)) fun _ => rfl
theorem filledFor_wiped (d : Dev) {write : Bool} (h : write = true) (g : Nat) : SMap.get false (d.filledFor write g).wiped g = true := by
  rw [filledFor, if_pos h]
  exact wiped_wipeIn ..

section enqueue
variable {d : Dev} {port addr len : Nat} {write openHint : Bool} {data : List Byte} {ns : Nat}

theorem enqueue_of_shut (h : d.dramShut = true) : d.enqueue port addr len write openHint data ns = d := by
  unfold enqueue
  rw [if_pos h]
theorem enqueue_of_free (h : d.dramShut = false) (hserved : write = true ∨ (SMap.get false d.wiped (addr / 2^20) = true ∧ d.readsOut port + len / 64 ≤ 64)) :
    d.enqueue port addr len write openHint data ns = (d.filledFor write (addr / 2^20)).enqueueReq port addr len write openHint data ns none := by
  unfold enqueue
  rw [if_neg (by rw [h]; decide), if_neg]
  · rfl
  · rcases hserved with rfl | ⟨hwiped, houts⟩
    · exact Bool.false_ne_true
    · rw [hwiped, decide_eq_false (by omega)]
      cases write <;> decide
theorem enqueue_of_unserved (h : d.dramShut = false) (hread : write = false)
    (hunserved : SMap.get false d.wiped (addr / 2^20) = false ∨ 64 < d.readsOut port + len / 64) : d.enqueue port addr len write openHint data ns = d := by
  unfold enqueue
  rw [if_neg (by rw [h]; decide), if_pos]
  rw [hread]
  rcases hunserved with hwiped | houts
  · rw [hwiped]
    rfl
  · rw [decide_eq_true houts, Bool.or_true]
    rfl
end enqueue
end Dev

/-! ## The arbiter -/

theorem List.findSome?_range_first {α : Type} {n k : Nat} {f : Nat → Option α} {b : α} (hk : k < n) (hf : f k = some b) (hfirst : ∀ j < k, f j = none) :
    (List.range n).findSome? f = some b := by
  have hsplit : List.range n = List.range k ++ k :: (List.range (n - k - 1)).map (fun i => k + (i + 1)) := by
    have h : n = k + (n - k - 1 + 1) := by omega
    conv_lhs => rw [h, List.range_add, List.range_succ_eq_map]
    simp
  exact List.findSome?_eq_some_iff.2 ⟨_, _, _, hsplit, hf, fun j hj => hfirst j (List.mem_range.1 hj)⟩

namespace Dev

theorem mem_of_best {ns : Nat} {l : List Req} {b : Req} (h : best ns l = some b) : b ∈ l := by
  induction l generalizing b with
  | nil => cases h
  | cons a t ih =>
    unfold best at h
    split at h
    · cases h
      exact List.mem_cons_self
    · next c hc =>
      split at h
      · cases h
        exact List.mem_cons_of_mem _ (ih hc)
      · cases h
        exact List.mem_cons_self

/-- A request comes before another. -/
def before (ns : Nat) (r q : Req) : Prop :=
  urgency q ns < urgency r ns ∨ (urgency q ns = urgency r ns ∧ (r.deadline.getD 0 < q.deadline.getD 0 ∨ (r.deadline.getD 0 = q.deadline.getD 0 ∧ r.port < q.port)))
theorem wins_iff (ns : Nat) (a b : Req) : wins ns a b = true ↔ before ns a b := by
  unfold wins before
  simp only [Bool.or_eq_true, Bool.and_eq_true, decide_eq_true_eq, beq_iff_eq]
  rw [eq_comm (a := urgency b ns)]
theorem wins_asymm {ns : Nat} {a b : Req} (h : before ns a b) : wins ns b a = false := by
  rw [Bool.eq_false_iff, ne_eq, wins_iff]
  unfold before at h ⊢
  omega
/-- A request that comes before every other is the best. -/
theorem best_of_first {ns : Nat} {l : List Req} {r : Req} (hr : r ∈ l) (hfirst : ∀ q ∈ l, q ≠ r → before ns r q) : best ns l = some r := by
  induction l with
  | nil => cases hr
  | cons a t ih =>
    have hrest (h : r ∈ t) : best ns t = some r := ih h fun q hq => hfirst q (List.mem_cons_of_mem _ hq)
    by_cases ht : r ∈ t
    · unfold best
      rw [hrest ht]
      dsimp only
      by_cases ha : a = r
      · rw [ha, ite_self]
      · rw [if_pos ((wins_iff ..).2 (hfirst a List.mem_cons_self ha))]
    · obtain rfl : r = a := (List.mem_cons.1 hr).resolve_right ht
      unfold best
      split
      · rfl
      · next b hb =>
        have hmem := mem_of_best hb
        rw [if_neg (by rw [wins_asymm (hfirst b (List.mem_cons_of_mem _ hmem) fun h => ht (h ▸ hmem))]; decide)]

/-- The tile port `p` is served if it is in PANIC and has a request waiting. -/
def panicked (d : Dev) (m p : Nat) : Option (Req × Option Nat) :=
  if d.portPanic p then ((d.dmcOf m).waiting.find? (fun r => r.port == p)).map (fun r => (r, some p)) else none
theorem choose_eq (d : Dev) (m ns : Nat) : d.choose m ns =
    match ((List.range 6).map (fun i => ((d.dmcOf m).rr + 1 + i) % 6)).findSome? (d.panicked m) with
    | some c => some c
    | none => match best ns ((d.dmcOf m).waiting.filter (fun r => r.port != 10)) with
      | some r => some (r, none)
      | none => ((d.dmcOf m).waiting.find? (fun r => r.port == 10)).map (fun r => (r, none)) := rfl

section choose
variable {d : Dev} {m ns : Nat} {r : Req}

theorem choose_of_panic {k : Nat} (hk : k < 6) (hpanic : d.portPanic (((d.dmcOf m).rr + 1 + k) % 6) = true)
    (hfind : (d.dmcOf m).waiting.find? (fun q => q.port == ((d.dmcOf m).rr + 1 + k) % 6) = some r)
    (hfirst : ∀ j < k, d.portPanic (((d.dmcOf m).rr + 1 + j) % 6) = true → ∀ q ∈ (d.dmcOf m).waiting, q.port ≠ ((d.dmcOf m).rr + 1 + j) % 6) :
    d.choose m ns = some (r, some (((d.dmcOf m).rr + 1 + k) % 6)) := by
  rw [choose_eq, List.findSome?_map, List.findSome?_range_first hk (b := (r, some (((d.dmcOf m).rr + 1 + k) % 6)))]
  · rw [Function.comp, panicked, if_pos hpanic, hfind]
    rfl
  · intro j hj
    rw [Function.comp, panicked]
    refine ite_eq_right_iff.2 fun h => ?_
    rw [List.find?_eq_none.2 fun q hq => by rw [beq_iff_eq]; exact hfirst j hj h q hq]
    rfl

variable (hcalm : ∀ q ∈ (d.dmcOf m).waiting, d.portPanic q.port = true → 6 ≤ q.port)
include hcalm
theorem panicked_of_calm (p : Nat) (hp : p < 6) : d.panicked m p = none := by
  unfold panicked
  refine ite_eq_right_iff.2 fun h => ?_
  rw [List.find?_eq_none.2 fun q hq hport => ?_]
  · rfl
  · rw [beq_iff_eq] at hport
    have := hcalm q hq (hport ▸ h)
    omega
theorem choose_of_calm : d.choose m ns = match best ns ((d.dmcOf m).waiting.filter (fun r => r.port != 10)) with
    | some r => some (r, none)
    | none => ((d.dmcOf m).waiting.find? (fun r => r.port == 10)).map (fun r => (r, none)) := by
  have hnone : ((List.range 6).map (fun i => ((d.dmcOf m).rr + 1 + i) % 6)).findSome? (d.panicked m) = none :=
    List.findSome?_eq_none_iff.2 fun p hp => by
      obtain ⟨i, -, rfl⟩ := List.mem_map.1 hp
      exact panicked_of_calm hcalm _ (Nat.mod_lt _ (by decide))
  rw [choose_eq, hnone]
theorem choose_of_first (hr : r ∈ (d.dmcOf m).waiting) (hport : r.port ≠ 10)
    (hfirst : ∀ q ∈ (d.dmcOf m).waiting, q.port ≠ 10 → q ≠ r → before ns r q) : d.choose m ns = some (r, none) := by
  have hbest : best ns ((d.dmcOf m).waiting.filter (fun r => r.port != 10)) = some r :=
    best_of_first (List.mem_filter.2 ⟨hr, bne_iff_ne.2 hport⟩) fun q hq hne => by
      obtain ⟨hmem, h10⟩ := List.mem_filter.1 hq
      exact hfirst q hmem (bne_iff_ne.1 h10) hne
  rw [choose_of_calm hcalm, hbest]
theorem choose_of_wipes (hhead : (d.dmcOf m).waiting.head? = some r) (hall : ∀ q ∈ (d.dmcOf m).waiting, q.port = 10) : d.choose m ns = some (r, none) := by
  have hempty : (d.dmcOf m).waiting.filter (fun r => r.port != 10) = [] :=
    List.filter_eq_nil_iff.2 fun q hq => by rw [hall q hq]; decide
  rw [choose_of_calm hcalm, hempty]
  cases hwaiting : (d.dmcOf m).waiting with
  | nil => rw [hwaiting] at hhead; cases hhead
  | cons a t =>
    rw [hwaiting] at hhead hall
    have h10 : (a :: t).find? (fun q => q.port == 10) = some a := List.find?_cons_of_pos (beq_iff_eq.2 (hall a List.mem_cons_self))
    obtain rfl : a = r := Option.some.inj hhead
    rw [best, h10]
    rfl
end choose

/-- The arbiter's choice goes to the controller queue. -/
def chosen (d : Dev) (m ns : Nat) (r : Req) (p : Option Nat) : Dev :=
  (d.setClock m ns).updDmc m (fun (x : Dmc) => { x with waiting := x.waiting.erase r, ctl := x.ctl ++ [r], rr := p.getD x.rr })
theorem chosen_dmcOf (d : Dev) (m ns : Nat) (r : Req) (p : Option Nat) : ((d.chosen m ns r p).dmcOf m).ctl = (d.dmcOf m).ctl ++ [r] ∧
    ((d.chosen m ns r p).dmcOf m).waiting = (d.dmcOf m).waiting.erase r ∧ ((d.chosen m ns r p).dmcOf m).rr = p.getD (d.dmcOf m).rr := by
  rw [chosen, updDmc_dmcOf, setClock, updDmc_dmcOf]
  exact ⟨rfl, rfl, rfl⟩

theorem arbitrationD_of_choice {d : Dev} {m : Fin 8} {ns : Nat} {r : Req} {p : Option Nat} (hfree : d.dramShut = false) (hawake : d.inSr m = false)
    (h3 : d.dmcState m ≠ 3) (h4 : d.dmcState m ≠ 4) (hroom : (d.dmcOf m).ctl.length < 8) (hchoice : d.choose m ns = some (r, p)) :
    ((arbitrationD m ns d).dmcOf m).ctl = (d.dmcOf m).ctl ++ [r] ∧ ((arbitrationD m ns d).dmcOf m).waiting = (d.dmcOf m).waiting.erase r ∧
      ((arbitrationD m ns d).dmcOf m).rr = p.getD (d.dmcOf m).rr := by
  have hgo : (d.dramShut || d.inSr m || d.dmcState m == 3 || d.dmcState m == 4 || decide (8 ≤ (d.dmcOf m).ctl.length)) = false := by
    rw [hfree, hawake, beq_false_of_ne h3, beq_false_of_ne h4, decide_eq_false (by omega)]
    rfl
  have hdmc : (arbitrationD m ns d).dmc = (d.chosen m ns r p).dmc := by
    unfold arbitrationD
    dsimp only
    rw [if_neg (by rw [hgo]; decide), hchoice]
    exact iteInduction (motive := fun x : Dev => x.dmc = (d.chosen m ns r p).dmc) (fun _ => dmc_of_base (base_bump ..)) fun _ => rfl
  rw [dmcOf_of_dmc hdmc]
  exact chosen_dmcOf ..
end Dev

/-- Settles O40: an ill-formed or unplaced request stops; one that DRAM serves is the last of the queue of its DMC, whose granule a write has wiped. -/
theorem dramRequestsQueue : Obligations.DramRequestsQueue := by
  intro s port addr len w hint data ns d a g i formed
  have hformed : formed ↔ requestOk a len w data = true := (requestOk_iff a len w data).symm
  have hruns (h : formed) (hin : d.populated a = true) {d' : Dev} {post : Dev → Prop} (henqueue : d.enqueue port a len w hint data ns = d') (hpost : post d') : s.runs i post :=
    State.runs_of_onDev ((exec_dramRequest ..).trans ((if_neg (by rw [hformed.1 h]; decide)).trans
      (if_neg (by rw [show s.dev.populated addr.toNat = true from hin]; decide)))) henqueue hpost
  refine ⟨fun h => ?_, fun h hout => ?_, fun h hin => ⟨fun hshut => ?_, fun hfree hread hwiped => ?_, fun hfree hread houts => ?_, fun hfree hserved => ?_⟩⟩
  · exact (exec_dramRequest ..).trans (if_pos (by rw [Bool.eq_false_iff.2 fun hok => h (hformed.2 hok)]; rfl))
  · exact (exec_dramRequest ..).trans ((if_neg (by rw [hformed.1 h]; decide)).trans (if_pos (by rw [show s.dev.populated addr.toNat = false from hout]; rfl)))
  · exact hruns h hin (Dev.enqueue_of_shut hshut) rfl
  · exact hruns h hin (Dev.enqueue_of_unserved hfree hread (.inl hwiped)) rfl
  · exact hruns h hin (Dev.enqueue_of_unserved hfree hread (.inr houts)) rfl
  · refine hruns h hin (Dev.enqueue_of_free hfree hserved) ?_
    have hworked := d.worked_filledFor w g
    have hlt : (d.place a).1 < 8 := d.place_lt a
    have hplace : (d.filledFor w g).place a = ((d.place a).1, (d.place a).2) := (Dev.place_of_worked hworked a).trans Prod.mk.eta.symm
    refine ⟨(d.filledFor w g).reqAt port a len w hint data ns none (d.place a).1 (d.place a).2, ?_, ?_, rfl, rfl, rfl, rfl, rfl, rfl, fun hport => ?_, fun hw => ?_, fun x => ?_⟩
    · rw [Dev.enqueueReq_waiting hplace, Dev.waiting_of_worked hworked]
    · rw [Dev.enqueueReq_ctl hplace hlt, Dev.ctl_of_worked hworked]
    · rw [Dev.reqAt, if_neg hport, Dev.ltOf_of_worked hworked hlt port.isLt]
    · rw [Dev.enqueueReq_keeps Dev.wiped (fun _ _ => rfl) (fun _ _ => rfl)]
      exact d.filledFor_wiped hw g
    · rw [Dev.dramByte_of_contents (Dev.enqueueReq_keeps Dev.contents (fun _ _ => rfl) (fun _ _ => rfl) ..)]
      exact d.filledFor_dramByte w g x

/-- Settles O41: the three ways in which the arbiter chooses, each by what is chosen then. -/
theorem arbiterChooses : Obligations.ArbiterChooses := by
  intro s m ns r d x takes hfree hawake h3 h4 hroom hr
  have htakes {p : Option Nat} (hchoice : d.choose m ns = some (r, p)) : takes (p.getD x.rr) :=
    State.runs_of_onDev (exec_arbitration m ns s) rfl (Dev.arbitrationD_of_choice hfree hawake h3 h4 hroom hchoice)
  refine ⟨fun k hk => ?_, fun hcalm => ⟨fun hport hfirst => ?_, fun hhead hall => ?_⟩⟩
  · intro p hpanic hfind hfirst
    exact htakes (Dev.choose_of_panic hk hpanic hfind hfirst)
  · exact htakes (Dev.choose_of_first hcalm hr hport hfirst)
  · exact htakes (Dev.choose_of_wipes hcalm hhead hall)
end Sys2Proof.Machine

/-! PROOFS. What faults and the device safe state leave of the DRAM subsystem: its queues, its contents and its record of errors. -/
namespace Sys2Proof.Machine
namespace Dev

/-- The queues of the DMCs, the erring codewords, the contents of DRAM, and how many codewords a freeze has recorded. -/
def stores (d : Dev) : SMap Dmc × SMap (Option (Nat × Nat)) × SMap Byte × SMap Bool × Nat := (d.dmc, d.badCw, d.dram, d.wiped, d.frzN)

section parts
variable {d d' : Dev}
theorem stores_of_base (h : d'.base = d.base) : d'.stores = d.stores := (congrArg stores h :)
theorem dmc_of_stores (h : d'.stores = d.stores) : d'.dmc = d.dmc := (congrArg (·.1) h :)
theorem badCw_of_stores (h : d'.stores = d.stores) : d'.badCw = d.badCw := (congrArg (·.2.1) h :)
theorem contents_of_stores (h : d'.stores = d.stores) : d'.contents = d.contents := (congrArg (fun s : SMap Dmc × SMap (Option (Nat × Nat)) × SMap Byte × SMap Bool × Nat => (s.2.2.1, s.2.2.2.1)) h :)
end parts

section stores
variable (d : Dev)

theorem stores_updChan (n : Nat) (f : Chan → Chan) : (d.updChan n f).stores = d.stores := rfl
theorem stores_setHold (n mask : Nat) : (d.setHold n mask).stores = d.stores := by
  unfold setHold
  rw [stores_updChan, stores_of_base (base_setFld ..)]
theorem stores_holdLive (mask : Nat) : (d.holdLive mask).stores = d.stores := foldl_keeps stores _ _ (fun d n => stores_setHold d n mask) d
theorem stores_giveUpRing (n : Nat) : (d.giveUpRing n).stores = d.stores := by
  unfold giveUpRing
  dsimp only
  split
  · exact stores_of_base (base_setFld ..)
  · rfl
theorem stores_settleClaims : d.settleClaims.stores = d.stores := by
  unfold settleClaims
  dsimp only
  split
  · rfl
  · refine (foldl_keeps stores _ _ (fun d k => ?_) _).trans (foldl_keeps stores _ _ stores_giveUpRing _)
    split <;> rfl
theorem stores_updEng (e : Nat) (f : Eng → Eng) : (d.updEng e f).stores = d.stores := rfl
theorem stores_setCtxW (c w : Nat) (v : Word) : (d.setCtxW c w v).stores = d.stores := rfl
theorem stores_setCtxFld (c w lo n v : Nat) : (d.setCtxFld c w lo n v).stores = d.stores := rfl
theorem stores_setCtxState (c s : Nat) : (d.setCtxState c s).stores = d.stores := rfl
theorem stores_setCtx64 (c w v : Nat) : (d.setCtx64 c w v).stores = d.stores := rfl
theorem stores_unmirror (e c : Nat) : (d.unmirror e c).stores = d.stores := by
  unfold unmirror
  rw [stores_updEng]
  exact foldr_keeps stores _ _ (fun (p : Nat × Word) d => stores_setCtxW d c p.1 p.2) d
theorem stores_settle (a : Nat) : (d.settle a).stores = d.stores := rfl
theorem stores_unbind (e : Nat) : (d.unbind e).stores = d.stores := by
  unfold unbind
  rw [stores_updEng, stores_settle, stores_of_base (base_setFld ..)]
theorem stores_leave (c s : Nat) : (d.leave c s).stores = d.stores := by
  unfold leave
  split
  · rw [stores_settleClaims]
    rfl
  · rw [stores_settleClaims, stores_unbind, stores_setCtxFld, stores_setCtxState, stores_setCtxFld, stores_setCtx64, stores_unmirror]
    rfl
theorem stores_stopCtx (c : Nat) (wd : Bool) : (d.stopCtx c wd).stores = d.stores := by
  unfold stopCtx
  split
  · rw [stores_leave]
    split <;> rfl
  · rfl
theorem stores_stopAll (f : Nat → Bool) (wd : Bool) : (d.stopAll f wd).stores = d.stores := foldl_keeps stores _ _ (fun d c => stores_stopCtx d c wd) d
theorem stores_updTout (k : Nat) (f : ToSt → ToSt) : (d.updTout k f).stores = d.stores := rfl
theorem stores_mkLine (m : SMap MkLine) : ({ d with mkLine := m } : Dev).stores = d.stores := rfl

theorem stores_enterDsafe (c : Nat) (w : List Nat) : (d.enterDsafe c w).stores = d.stores := by
  unfold enterDsafe
  dsimp only
  rw [foldl_keeps stores (List.range 8) _ (fun d k => by rw [stores_updTout, stores_of_base (base_setBit ..)]), stores_mkLine,
    stores_holdLive, stores_stopAll, foldl_keeps stores (List.range 16) _ (fun d i => stores_of_base (base_wrN ..)),
    stores_of_base (base_setFld ..), stores_of_base (base_setBit ..)]
theorem stores_setFaultQ (c : Nat) (q : List FaultRec) : (d.setFaultQ c q).stores = d.stores := by
  unfold setFaultQ
  exact (stores_of_base (base_setBit ..) : (setBit _ ..).stores = _)
theorem stores_notifyFault (c t : Nat) : (d.notifyFault c t).stores = d.stores := by
  unfold notifyFault
  split
  · rw [stores_of_base (base_signal ..), stores_of_base (base_fire ..)]
  · rfl
theorem stores_faultId (n : Nat) : ({ d with faultId := n } : Dev).stores = d.stores := rfl

/-- A fault record of any class leaves them, also where it escalates to the device safe state. -/
theorem stores_fault (c : Nat) (r : FaultRec) : (d.fault c r).stores = d.stores := by
  have entered (d' : Dev) (esc : Bool) (w : List Nat) : (if esc && !d'.dsafe then d'.enterDsafe c w else d').stores = d'.stores := by
    split
    · exact stores_enterDsafe ..
    · rfl
  unfold fault
  dsimp only
  rw [entered, stores_notifyFault, stores_of_base (base_raise ..)]
  split
  · rw [stores_setFaultQ, stores_of_base (base_bump ..)]
  · split
    · rw [stores_of_base (base_bump ..), stores_setFaultQ, stores_faultId, stores_of_base (base_bump ..)]
    · rw [stores_setFaultQ, stores_of_base (base_bump ..), stores_of_base (base_bump ..)]
theorem stores_faultOf (c code kind obj : Nat) (owner : Option Nat) (detail : List Nat) : (d.faultOf c code kind obj owner detail).stores = d.stores :=
  stores_fault ..
theorem stores_faultNow (c code kind obj : Nat) (detail : List Nat) : (d.faultNow c code kind obj detail).stores = d.stores := stores_fault ..
end stores

/-! ## The freeze -/

/-- A register of a DMC that no record of a freeze writes: not its STATUS, and not its snapshot. -/
def unloggedReg (a : Nat) : Prop := 0x1000000 ≤ a ∧ a < 0x1080000 ∧ a % 0x10000 ≠ 4 ∧ (a % 0x10000 < 0x100 ∨ 0x140 ≤ a % 0x10000)

/-- No more of DRAM has changed than a freeze records; what is frozen stays frozen. -/
structure logged (d d' : Dev) : Prop where
  rd : ∀ a, unloggedReg a → d'.rd a = d.rd a
  frozen : d.frozen = true → d'.frozen = true
  dmc : d'.dmc = d.dmc
  contents : d'.contents = d.contents

section logged
variable (d : Dev)

theorem logged_refl : logged d d := ⟨fun _ _ => rfl, id, rfl, rfl⟩
variable {d} in
theorem logged_trans {d' d'' : Dev} (h : logged d d') (h' : logged d' d'') : logged d d'' :=
  ⟨fun a ha => (h'.rd a ha).trans (h.rd a ha), fun hd => h'.frozen (h.frozen hd), h'.dmc.trans h.dmc, h'.contents.trans h.contents⟩
variable {d} in
theorem logged_ite {d' d'' : Dev} {p : Prop} [Decidable p] (h : p → logged d d') (h' : ¬ p → logged d d'') : logged d (if p then d' else d'') :=
  iteInduction (motive := fun x => logged d x) h h'
theorem logged_foldl {α : Type} (l : List α) {f : Dev → α → Dev} (h : ∀ x ∈ l, ∀ d, logged d (f d x)) : logged d (l.foldl f d) :=
  foldl_invariant (P := fun x => logged d x) (fun x i hi hx => logged_trans hx (h i hi x)) (logged_refl d)
variable {d} in
theorem logged_of_keeps {d' : Dev} (h : keepsHolds d d') (hstores : d'.stores = d.stores) : logged d d' :=
  ⟨fun _ ha => h.dram ⟨ha.1, ha.2.1.trans (by decide)⟩, fun hd => (bit_of_rd (h.dram (a := Reg.dramG_STATUS) (by decide)) 0).trans hd,
    dmc_of_stores hstores, contents_of_stores hstores⟩
theorem logged_wrN {a : Nat} (h : ¬ unloggedReg a) (hs : a ≠ Reg.dramG_STATUS) (v : Nat) : logged d (d.wrN a v) where
  rd b hb := rd_wrN_ne _ _ (by rintro rfl; exact h hb)
  frozen hd := (bit_wrN_ne _ _ _ hs).trans hd
  dmc := dmc_of_base (base_wrN ..)
  contents := contents_of_base (base_wrN ..)
theorem not_unlogged {a : Nat} (h : 0x1080000 ≤ a) : ¬ unloggedReg a := fun ha => by
  unfold unloggedReg at ha
  omega
theorem logged_wr64 {a : Nat} (h : Reg.dramG_STATUS < a) (v : Nat) : logged d (d.wr64 a v) :=
  logged_trans (logged_wrN d (not_unlogged h.le) (by omega) _) (logged_wrN _ (not_unlogged (h.le.trans (by omega))) (by omega) _)
theorem logged_setOwed (m o : Nat) : logged d (d.setOwed m o) :=
  logged_wrN d (by unfold unloggedReg Reg.dram_STATUS; omega) (by unfold Reg.dram_STATUS Reg.dramG_STATUS; omega) _
theorem logged_frzN (n : Nat) : logged d { d with frzN := n } := ⟨fun _ _ => rfl, id, rfl, rfl⟩
theorem logged_badCw (m : SMap (Option (Nat × Nat))) : logged d { d with badCw := m } := ⟨fun _ _ => rfl, id, rfl, rfl⟩
theorem logged_freeze : logged d (d.setBit Reg.dramG_STATUS 0 true) where
  rd b hb := rd_setBit_ne _ _ _ (by rintro rfl; exact not_unlogged (by decide) hb)
  frozen _ := bit_setBit_same _ _ _ _ (by decide)
  dmc := dmc_of_base (base_setBit ..)
  contents := contents_of_base (base_setBit ..)

theorem freezeBy_logged {m : Nat} (port addr loc : Nat) (readPart ca held : Bool) (map digest : Nat) :
    logged (d.raise (Reg.dram_EVENTS m) 2) (d.freezeBy m port addr loc readPart ca held map digest) ∧
    (d.freezeBy m port addr loc readPart ca held map digest).frozen = true := by
  have hhigh {a : Nat} (h : Reg.dramG_STATUS < a) (d : Dev) (v : Nat) : logged d (d.wrN a v) := logged_wrN d (not_unlogged h.le) h.ne' v
  unfold freezeBy
  extract_lets put raised another extra info snapped marked kept limited dated paid fired
  have hput (d : Dev) (i : Nat) : logged d (put d i) :=
    have hreg (o : Nat) : Reg.dramG_STATUS < 0x1080120 + 16 * i + o := by unfold Reg.dramG_STATUS; omega
    logged_trans (logged_trans (logged_trans (hhigh (hreg 0) d _) (hhigh (hreg 4) _ _)) (hhigh (hreg 8) _ _)) (hhigh (hreg 12) _ _)
  have hsnapped : logged raised snapped := by
    refine logged_foldl _ _ fun x hx d => logged_foldl _ _ fun q hq d => ?_
    have hx8 : x < 8 := List.mem_range.mp hx
    have hq8 : q.2 < 8 := (List.snd_lt_of_mem_zipIdx hq).trans_le (List.length_take_le ..)
    have hreg : ∀ o < 8, ¬ unloggedReg (0x1000100 + 0x10000 * x + 8 * q.2 + o) ∧ 0x1000100 + 0x10000 * x + 8 * q.2 + o ≠ Reg.dramG_STATUS := fun o ho => by
      unfold unloggedReg Reg.dramG_STATUS
      omega
    exact logged_trans (logged_wrN d (hreg 0 (by decide)).1 (hreg 0 (by decide)).2 _) (logged_wrN _ (hreg 4 (by decide)).1 (hreg 4 (by decide)).2 _)
  have hmarked : logged snapped marked := logged_trans (logged_freeze _) (hhigh (by decide) _ _)
  have hfrozen : marked.frozen = true := (bit_wrN_ne _ _ _ (by decide)).trans (bit_setBit_same _ _ _ _ (by decide))
  have hkept : logged marked kept := logged_ite (fun _ => hput _ 0) fun _ => logged_refl _
  have hlimited : logged kept limited := logged_frzN ..
  have hdated : logged limited dated := logged_trans (logged_wr64 _ (a := Reg.dramG_FRZ_AT_LO) (by decide) _) (hhigh (a := Reg.dramG_EVENTS) (by decide) _ _)
  have hpaid : logged dated paid := logged_foldl _ _ fun x _ d => logged_setOwed d x 0
  have hfired : logged paid fired := logged_of_keeps (keepsHolds_fireNow ..) (stores_of_base (base_fireNow ..))
  have hfault (c code kind obj : Nat) (o : Option Nat) (l : List Nat) : logged fired (fired.faultOf c code kind obj o l) :=
    logged_of_keeps (keepsHolds_faultOf ..) (stores_faultOf ..)
  have hall := logged_trans (logged_trans (logged_trans (logged_trans hkept hlimited) hdated) hpaid) hfired
  clear_value fired
  refine iteInduction (motive := fun x : Dev => logged raised x ∧ x.frozen = true) (fun hd => ?_) fun _ => ?_
  · have hrec {x : Dev} (h : logged raised x) : logged raised x ∧ x.frozen = true := ⟨h, h.frozen hd⟩
    refine hrec (logged_ite (fun _ => logged_refl _) fun _ => logged_ite (fun _ => ?_) fun _ => ?_)
    · exact logged_trans (logged_trans (hput _ _) (logged_frzN ..)) (hhigh (a := Reg.dramG_FRZ_INFO) (by decide) _ _)
    · exact logged_trans (hhigh (a := Reg.dramG_FRZ_EXTRA) (by decide) _ _) (logged_badCw ..)
  · exact ⟨logged_trans (logged_trans (logged_trans hsnapped hmarked) hall) (hfault ..), (logged_trans hall (hfault ..)).frozen hfrozen⟩
end logged
end Dev
end Sys2Proof.Machine

/-! PROOFS. A request of DRAM is done, and what it reads is corrected or freezes the subsystem (R385 to R387, R396 to R398). -/
namespace Sys2Proof.Machine

theorem exec_requestComplete (m : Fin 8) (ns : Nat) (errors : List CwError) (s : State) :
    exec (.requestComplete m ns errors) s = s.onDev (requestCompleteD m ns errors) := rfl
theorem exec_zqCalibration (m : Fin 8) (s : State) : exec (.zqCalibration m) s = s.onDev (zqCalibrationD m) := rfl
theorem exec_patrolScrub (m : Fin 8) (l : BitVec 39) (x : ScrubRead) (s : State) : exec (.patrolScrub m l x) s = s.onDev (patrolScrubD m l x) := rfl
theorem exec_caParity (m : Fin 8) (s : State) : exec (.caParity m) s = s.onDev (caParityD m) := rfl

namespace Dev

/-! ## One erring device -/

theorem correctable_twoPow : ∀ i : Fin 20, correctable (BitVec.twoPow 20 i).toNat = true := by decide
theorem device_twoPow : ∀ i : Fin 20, ((List.range 20).find? (fun j => bitsOf (BitVec.twoPow 20 i).toNat j 1 == 1)).getD 0 = i := by decide
theorem twoPow_ne_zero : ∀ i : Fin 20, BitVec.twoPow 20 i ≠ 0 := by decide

theorem cell_rank_lt (d : Dev) (l : Nat) : (d.cell l).rank < 2 := by
  unfold cell dramCell
  dsimp only
  split <;> omega
theorem cell_dimm_lt (d : Dev) (l : Nat) : (d.cell l).dimm < 2 := by
  unfold cell dramCell
  dsimp only
  split
  · split <;> omega
  · split <;> omega
theorem cell_of_worked {d d' : Dev} (h : worked d d') (l : Nat) : d'.cell l = d.cell l := by
  rw [cell, rdN, h.rd _ ⟨by decide, by decide, fun h => absurd h (by decide)⟩, ← rdN, cell]

/-- What is shown of the device that a correction found. -/
def shownCell (d : Dev) (l map : Nat) : Nat :=
  ((List.range 20).find? (fun i => bitsOf map i 1 == 1)).getD 0 + 32 * (d.cell l).rank + 64 * (d.cell l).dimm
theorem correctedBy_counts (d : Dev) {m : Nat} (hm : m < 8) (l map : Nat) :
    (d.correctedBy m l map).rdN (Reg.dram_CORR_CNT m) = min (2^32 - 1) (d.rdN (Reg.dram_CORR_CNT m) + 1) ∧
    (d.correctedBy m l map).rdN (Reg.dram_CORR_DEV m) = d.shownCell l map % 2^32 := by
  unfold correctedBy
  extract_lets x tick device times storm counted fired noted
  have hfired : keepsHolds counted fired := keepsHolds_ite (fun _ => keepsHolds_refl _) fun _ => keepsHolds_fireNow ..
  have hnoted : ∀ a, noted.rd a = fired.rd a := fun _ => rfl
  have hrd {o : Nat} (ho : o < 0x10000) : (if storm then noted.faultOf 3 0x52 4 m none [times.length, device] else noted).rd (0x1000000 + 0x10000 * m + o) =
      counted.rd (0x1000000 + 0x10000 * m + o) := by
    have hdram : 0x1000000 ≤ 0x1000000 + 0x10000 * m + o ∧ 0x1000000 + 0x10000 * m + o < 0x1200000 := by omega
    rw [← hfired.dram hdram, ← hnoted]
    clear_value noted
    exact (keepsHolds_ite (fun _ => keepsHolds_faultOf ..) fun _ => keepsHolds_refl noted).dram hdram
  have hcount : counted.rdN (Reg.dram_CORR_CNT m) = min (2^32 - 1) (d.rdN (Reg.dram_CORR_CNT m) + 1) := by
    have hne : Reg.dram_CORR_DEV m ≠ Reg.dram_CORR_CNT m ∧ Reg.dram_EVENTS m ≠ Reg.dram_CORR_CNT m := by
      unfold Reg.dram_CORR_DEV Reg.dram_EVENTS Reg.dram_CORR_CNT
      omega
    rw [rdN_wrN_ne _ _ hne.1, rdN_raise_ne _ _ hne.2, bump, addSat, rdN_wrN_same, Nat.mod_eq_of_lt (by omega)]
  exact ⟨(congrArg BitVec.toNat (hrd (o := 0x50) (by decide))).trans hcount, (congrArg BitVec.toNat (hrd (o := 0x64) (by decide))).trans (rdN_wrN_same ..)⟩

/-! ## The codewords that an access reads -/

theorem spoil_badCw_nil (d : Dev) (h : d.badCw = []) : (d.spoil []).badCw = [] := h
theorem spoil_badCw_of_zero (d : Dev) (cw : Nat) (dig : BitVec 24) : (d.spoil [⟨cw, 0, dig⟩]).badCw = d.badCw := by
  unfold spoil
  dsimp only
  rw [List.foldl_cons, List.foldl_nil, if_pos (.inl rfl)]
theorem spoil_badCw_one {d : Dev} (h : d.badCw = []) {cw : Nat} {map : BitVec 20} (hmap : map ≠ 0) (hwiped : SMap.get false d.wiped (cw / 2^13) = true)
    (dig : BitVec 24) : (d.spoil [⟨cw, map, dig⟩]).badCw = [(cw, some (map.toNat, dig.toNat))] := by
  have hstored : ¬ (map = 0 ∨ (!SMap.get false d.wiped (cw / 2^13)) = true) := by
    rw [hwiped]
    exact fun hskip => hskip.elim hmap Bool.false_ne_true
  unfold spoil
  dsimp only
  rw [List.foldl_cons, List.foldl_nil, if_neg hstored, h]
  rfl
theorem worked_spoil (d : Dev) (errors : List CwError) : worked d (d.spoil errors) := worked_of_parts rfl rfl rfl
theorem worked_setClock (d : Dev) (m ns : Nat) : worked d (d.setClock m ns) := worked_updDmc _ m rfl
theorem errsIn_of_none {d : Dev} (h : d.badCw = []) (write : Bool) (a len : Nat) : d.errsIn write a len = [] := by
  rw [errsIn, h]
  rfl
/-- The range meets the codeword, which is read: a write reads those that it covers in part. -/
def readsCw (write : Bool) (a len cw : Nat) : Prop :=
  a < cw * 128 + 128 ∧ cw * 128 < a + len ∧ (write = false ∨ cw * 128 < a ∨ a + len < cw * 128 + 128)
theorem errsIn_of_one {d : Dev} {cw : Nat} {x : Nat × Nat} (h : d.badCw = [(cw, some x)]) {write : Bool} {a len : Nat} (hreads : readsCw write a len cw)
    (hwiped : SMap.get false d.wiped (cw / 2^13) = true) : d.errsIn write a len = [(cw, x)] := by
  obtain ⟨habove, hbelow, hpart⟩ := hreads
  have hgo : a < cw * 128 + 128 ∧ cw * 128 < a + len ∧ SMap.get false d.wiped (cw / 2^13) = true ∧ ((!write) = true ∨ cw * 128 < a ∨ a + len < cw * 128 + 128) :=
    ⟨habove, hbelow, hwiped, hpart.imp_left fun h => by rw [h]; rfl⟩
  rw [errsIn, h, List.filterMap_cons, Option.bind_some, if_pos hgo]
  rfl
theorem correct_of_none {d : Dev} {write : Bool} {a len : Nat} (h : d.errsIn write a len = []) : d.correct write a len = d := by
  rw [correct_eq, h]
  rfl
theorem correct_of_one {d : Dev} {write : Bool} {a len : Nat} {q : Nat × Nat × Nat} (h : d.errsIn write a len = [q]) (hq : correctable q.2.1 = true) :
    d.correct write a len = d.correctOne q := by
  have hone : [q].filter (fun q => correctable q.2.1) = [q] := List.filter_cons_of_pos hq
  rw [correct_eq, h, hone]
  rfl
/-- A correction is counted and shows its device. -/
theorem correctOne_counts (d : Dev) (q : Nat × Nat × Nat) : (d.correctOne q).rdN (Reg.dram_CORR_CNT (d.place (q.1 * 128)).1) =
      min (2^32 - 1) (d.rdN (Reg.dram_CORR_CNT (d.place (q.1 * 128)).1) + 1) ∧
    (d.correctOne q).rdN (Reg.dram_CORR_DEV (d.place (q.1 * 128)).1) = d.shownCell (d.place (q.1 * 128)).2 q.2.1 % 2^32 := by
  have h := correctedBy_counts d (d.place_lt (q.1 * 128)) (d.place (q.1 * 128)).2 q.2.1
  unfold correctOne
  generalize d.correctedBy _ _ _ = x at h ⊢
  exact h

/-! ## The request that is done -/

/-- A register of DRAM that no request changes as it is done. -/
def undoneReg (a : Nat) : Prop := 0x1000000 ≤ a ∧ a < 0x1200000 ∧ (a < 0x1080000 → a % 0x10000 ≠ 4 ∧ a % 0x10000 ≠ 8 ∧ a % 0x10000 ≠ 0x60 ∧ (a % 0x10000 < 0x68 ∨ 0x78 ≤ a % 0x10000))
/-- The head of a controller's queue is gone. -/
def headGone (d : Dev) (m : Nat) : Dev := d.updDmc m (fun (x : Dmc) => { x with ctl := x.ctl.tail })
/-- The bytes of a request have moved and are counted. -/
def bytesMoved (d : Dev) (m : Nat) (r : Req) : Dev :=
  if r.write then (d.dramWrite r.addr r.data).addSat64 (Reg.dram_WR_BYTES_LO m) r.len else d.addSat64 (Reg.dram_RD_BYTES_LO m) r.len
/-- A deadline has been missed. -/
def missCounted (d : Dev) (m ns : Nat) (r : Req) : Dev :=
  if (match r.deadline with
    | some t => decide (t < ns)
    | none => false) then (d.bump (Reg.dram_MISS_CNT m)).raise (Reg.dram_EVENTS m) 128 else d
theorem doneReq_eq (d : Dev) (m ns : Nat) (r : Req) : d.doneReq m ns r = (((d.headGone m).bytesMoved m r).rowAfter m r.loc r.openHint).missCounted m ns r := rfl

theorem rowAfter_rd (d : Dev) (m l : Nat) (o : Bool) (a : Nat) : (d.rowAfter m l o).rd a = d.rd a := rfl
section done
variable (d : Dev) {m : Nat} (ns : Nat) (r : Req)

theorem undone_block {m o : Nat} (ho : o = 8 ∨ o = 0x60 ∨ (0x68 ≤ o ∧ o < 0x78)) {a : Nat} (ha : undoneReg a) (hm : m < 8) : 0x1000000 + 0x10000 * m + o ≠ a := by
  unfold undoneReg at ha
  omega
theorem headGone_ctl (m : Nat) : ((d.headGone m).dmcOf m).ctl = (d.dmcOf m).ctl.tail := by rw [headGone, updDmc_dmcOf]
theorem worked_bytesMoved (hm : m < 8) : worked d (d.bytesMoved m r) := by
  have hw {o : Nat} (ho : 0x68 ≤ o ∧ o < 0x78) : workedOffset o := .inr (.inr ⟨by omega, ho.2⟩)
  exact worked_ite (fun _ => worked_trans (worked_dramWrite ..) (worked_addSat64 _ hm (o := 0x70) (hw (by decide)) (by decide) (hw (by decide)) _)) fun _ =>
    worked_addSat64 d hm (o := 0x68) (hw (by decide)) (by decide) (hw (by decide)) _
theorem worked_missCounted (hm : m < 8) : worked d (d.missCounted m ns r) :=
  worked_ite (fun _ => worked_trans (worked_bump d hm (o := 0x60) (by unfold workedOffset; decide) (by decide))
    (worked_raise _ hm (o := 8) (by unfold workedOffset; decide) (by decide) _)) fun _ => worked_refl d
theorem doneReq_ctl (hm : m < 8) : ((d.doneReq m ns r).dmcOf m).ctl = (d.dmcOf m).ctl.tail := by
  rw [doneReq_eq, ctl_of_worked (worked_missCounted _ ns r hm), rowAfter, updDmc_dmcOf, ← headGone_ctl]
  exact ctl_of_worked (worked_bytesMoved _ r hm) m
theorem wr64_rd {a b : Nat} (h : b ≠ a) (h' : b + 4 ≠ a) (v : Nat) : (d.wr64 b v).rd a = d.rd a := (rd_wrN_ne _ _ h').trans (rd_wrN_ne _ _ h)
theorem dramWrite_rd (a : Nat) (bs : List Byte) {b : Nat} (hb : 0x1000000 ≤ b ∧ b < 0x1200000) : (d.dramWrite a bs).rd b = d.rd b := by
  have hwiped (d : Dev) (g : Nat) : (d.wipeIn g).rd b = d.rd b := by
    rw [wipeIn_eq]
    refine iteInduction (motive := fun x : Dev => x.rd b = d.rd b) (fun _ => rfl) fun _ =>
      iteInduction (motive := fun x : Dev => x.rd b = d.rd b) (fun _ => ?_) fun _ => rfl
    exact (rd_raise_ne _ _ (by unfold Reg.sec_EVENTS; omega)).trans (rd_setBit_ne _ _ _ (by unfold Reg.sec_STATUS; omega))
  unfold dramWrite
  extract_lets g0 g1 d₁
  have h₁ : d₁.rd b = d.rd b := iteInduction (motive := fun x : Dev => x.rd b = d.rd b) (fun _ => rfl) fun _ =>
    foldl_keeps (fun x => x.rd b) _ (fun (d : Dev) i => d.wipeIn (g0 + i)) (fun d i => hwiped d _) d
  exact h₁
theorem bytesMoved_rd (hm : m < 8) {a : Nat} (ha : undoneReg a) : (d.bytesMoved m r).rd a = d.rd a := by
  have hne {o : Nat} (ho : 0x68 ≤ o ∧ o < 0x78) := undone_block (m := m) (o := o) (.inr (.inr ho)) ha hm
  refine iteInduction (motive := fun x : Dev => x.rd a = d.rd a) (fun _ => ?_) fun _ => wr64_rd d (hne (o := 0x68) (by decide)) (hne (o := 0x6c) (by decide)) _
  exact (wr64_rd _ (hne (o := 0x70) (by decide)) (hne (o := 0x74) (by decide)) _).trans (dramWrite_rd d _ _ ⟨ha.1, ha.2.1⟩)
theorem missCounted_rd {a : Nat} (hmiss : Reg.dram_MISS_CNT m ≠ a) (hevents : Reg.dram_EVENTS m ≠ a) : (d.missCounted m ns r).rd a = d.rd a :=
  iteInduction (motive := fun x : Dev => x.rd a = d.rd a) (fun _ => (rd_raise_ne _ _ hevents).trans (rd_bump_ne _ hmiss)) fun _ => rfl
theorem doneReq_rd (hm : m < 8) {a : Nat} (ha : undoneReg a) : (d.doneReq m ns r).rd a = d.rd a := by
  rw [doneReq_eq, missCounted_rd _ _ _ (undone_block (o := 0x60) (.inr (.inl rfl)) ha hm) (undone_block (o := 8) (.inl rfl) ha hm)]
  exact bytesMoved_rd (d.headGone m) r hm ha
theorem missCounted_contents : (d.missCounted m ns r).contents = d.contents :=
  iteInduction (motive := fun x : Dev => x.contents = d.contents) (fun _ => contents_of_base ((base_raise ..).trans (base_bump ..))) fun _ => rfl
theorem contents_storeDram {d d' : Dev} (h : d'.contents = d.contents) (a : Nat) (bs : List Byte) : (d'.storeDram a bs).contents = (d.storeDram a bs).contents := by
  rw [contents, contents, storeDram, storeDram, dram_of_contents h, wiped_of_contents h]
theorem doneReq_contents_write (h : r.write = true) : (d.doneReq m ns r).contents = ((d.headGone m).dramWrite r.addr r.data).contents := by
  rw [doneReq_eq, missCounted_contents, rowAfter, contents_updDmc, bytesMoved, if_pos h]
  exact contents_of_base (base_addSat64 ..)
theorem doneReq_contents_read (h : r.write = false) : (d.doneReq m ns r).contents = d.contents := by
  rw [doneReq_eq, missCounted_contents, rowAfter, contents_updDmc, bytesMoved, if_neg (by rw [h]; decide)]
  exact (contents_of_base (base_addSat64 ..)).trans (contents_updDmc ..)
theorem rd64_of_rd {d d' : Dev} {a : Nat} (h : d'.rd a = d.rd a) (h' : d'.rd (a + 4) = d.rd (a + 4)) : d'.rd64 a = d.rd64 a := by
  rw [rd64, rdN, rdN, h, h', rd64, rdN, rdN]
theorem addSat64_same (a n : Nat) : (d.addSat64 a n).rd64 a = min (2^64 - 1) (d.rd64 a + n) := by
  rw [addSat64, rd64_wr64 _ _ _ (by omega)]
theorem doneReq_bytes (h : r.write = false) : (d.doneReq m ns r).rd64 (Reg.dram_RD_BYTES_LO m) = min (2^64 - 1) (d.rd64 (Reg.dram_RD_BYTES_LO m) + r.len) := by
  have hread : (d.headGone m).bytesMoved m r = (d.headGone m).addSat64 (Reg.dram_RD_BYTES_LO m) r.len := if_neg (by rw [h]; decide)
  have hkept {a : Nat} (ha : Reg.dram_RD_BYTES_LO m ≤ a) : (d.doneReq m ns r).rd a = ((d.headGone m).addSat64 (Reg.dram_RD_BYTES_LO m) r.len).rd a := by
    rw [doneReq_eq, missCounted_rd _ _ _ (by unfold Reg.dram_RD_BYTES_LO at ha; unfold Reg.dram_MISS_CNT; omega)
      (by unfold Reg.dram_RD_BYTES_LO at ha; unfold Reg.dram_EVENTS; omega), rowAfter_rd, hread]
  rw [rd64_of_rd (hkept le_rfl) (hkept (by omega)), addSat64_same]
  rfl
end done

/-! ## The data of a fill, and the refresh that is owed -/

/-- DRAM, its registers and its queues are as before. -/
structure dramStill (d d' : Dev) : Prop where
  rd : ∀ a, 0x1000000 ≤ a → a < 0x1200000 → d'.rd a = d.rd a
  stores : d'.stores = d.stores
theorem dramStill_refl (d : Dev) : dramStill d d := ⟨fun _ _ _ => rfl, rfl⟩
theorem dramStill_trans {d d' d'' : Dev} (h : dramStill d d') (h' : dramStill d' d'') : dramStill d d'' :=
  ⟨fun a ha ha' => (h'.rd a ha ha').trans (h.rd a ha ha'), h'.stores.trans h.stores⟩
theorem dramStill_foldl {α : Type} (l : List α) {f : Dev → α → Dev} (h : ∀ x ∈ l, ∀ d, dramStill d (f d x)) (d : Dev) : dramStill d (l.foldl f d) :=
  foldl_invariant (P := fun x => dramStill d x) (fun x i hi hx => dramStill_trans hx (h i hi x)) (dramStill_refl d)
theorem dramStill_wrN (d : Dev) {a : Nat} (h : a < 0x1000000) (v : Nat) : dramStill d (d.wrN a v) :=
  ⟨fun b hb _ => rd_wrN_ne _ _ (by omega), stores_of_base (base_wrN ..)⟩
theorem dramStill_addSat64 (d : Dev) {a : Nat} (h : a + 4 < 0x1000000) (n : Nat) : dramStill d (d.addSat64 a n) :=
  dramStill_trans (dramStill_wrN d (by omega) _) (dramStill_wrN _ h _)
theorem dramStill_scChan (d : Dev) (sc : SMap Byte) (ch : Nat) (f : Chan → Chan) : dramStill d (({ d with sc := sc } : Dev).updChan ch f) := ⟨fun _ _ _ => rfl, rfl⟩
theorem fillArrives_dramStill (d : Dev) {ch : Nat} (hch : ch < 96) (ctx lsn off : Nat) (bs : List Byte) : dramStill d (d.fillArrives ch ctx lsn off bs) := by
  have hreg {o : Nat} (ho : o < 0x4000) : chnBase ch + o < 0x1000000 := (chn_lt hch ho).trans (by decide)
  unfold fillArrives
  rcases d.ringOf ch with ⟨base, len⟩
  dsimp only
  split
  · exact dramStill_refl d
  · refine iteInduction (motive := fun x => dramStill d x) (fun _ => dramStill_wrN d (hreg (by decide)) _) fun _ => ?_
    exact dramStill_trans (dramStill_scChan d _ ch _) (dramStill_addSat64 _ (by
      have := hreg (o := 0x301c) (by decide)
      unfold Reg.chn_FILL_BYTES_LO
      omega) _)
theorem deliverFill_dramStill (d : Dev) {r : Req} (h : ∀ f, r.fill = some f → f.1 < 96) (bad : List Nat) : dramStill d (d.deliverFill r bad) := by
  unfold deliverFill
  cases hfill : r.fill with
  | none => exact dramStill_refl d
  | some f =>
    have hch := h f hfill
    dsimp only
    refine iteInduction (motive := fun x => dramStill d x) (fun _ => fillArrives_dramStill d hch ..) fun _ => dramStill_foldl _ (fun i _ d => ?_) d
    exact iteInduction (motive := fun x => dramStill d x) (fun _ => dramStill_refl d) fun _ => fillArrives_dramStill d hch ..
theorem payOne_rd (d : Dev) {m a : Nat} (h : Reg.dram_STATUS m ≠ a) : (d.payOne m).rd a = d.rd a :=
  iteInduction (motive := fun x : Dev => x.rd a = d.rd a) (fun _ => rfl) fun _ => rd_setFld_ne _ _ _ _ h
theorem payOne_stores (d : Dev) (m : Nat) : (d.payOne m).stores = d.stores :=
  iteInduction (motive := fun x : Dev => x.stores = d.stores) (fun _ => rfl) fun _ => stores_of_base (base_setFld ..)

/-- The request at the head is done after its codewords have been read. -/
def finished (d : Dev) (m ns : Nat) (r : Req) (bad : List Nat) : Dev := ((d.doneReq m ns r).deliverFill r bad).payOne m
section finished
variable (d : Dev) {m : Nat} (ns : Nat) {r : Req} (bad : List Nat) (hfill : ∀ f, r.fill = some f → f.1 < 96)
include hfill
theorem finished_stores : (d.finished m ns r bad).stores = (d.doneReq m ns r).stores := (payOne_stores ..).trans (deliverFill_dramStill _ hfill bad).stores
theorem finished_of_done {a : Nat} (ha : 0x1000000 ≤ a ∧ a < 0x1200000) (hs : Reg.dram_STATUS m ≠ a) : (d.finished m ns r bad).rd a = (d.doneReq m ns r).rd a :=
  (payOne_rd _ hs).trans ((deliverFill_dramStill _ hfill bad).rd a ha.1 ha.2)
theorem finished_rd (hm : m < 8) {a : Nat} (ha : undoneReg a) : (d.finished m ns r bad).rd a = d.rd a :=
  (finished_of_done d ns bad hfill ⟨ha.1, ha.2.1⟩ (by
    unfold undoneReg at ha
    unfold Reg.dram_STATUS
    omega)).trans (doneReq_rd d ns r hm ha)
theorem finished_ctl (hm : m < 8) : ((d.finished m ns r bad).dmcOf m).ctl = (d.dmcOf m).ctl.tail := by
  rw [dmcOf_of_dmc (dmc_of_stores (finished_stores d ns bad hfill)), doneReq_ctl d ns r hm]
theorem finished_frozen (hm : m < 8) : (d.finished m ns r bad).frozen = d.frozen :=
  bit_of_rd (finished_rd d ns bad hfill hm ⟨by decide, by decide, fun h => absurd h (by decide)⟩) 0
end finished

/-! ## Completion -/

/-- The uncorrectable codewords that the request at the head reads. -/
def failing (d : Dev) (r : Req) : List (Nat × Nat × Nat) := (d.errsIn r.write r.addr r.len).filter (fun q => !correctable q.2.1)
theorem requestCompleteD_eq {d : Dev} {m : Fin 8} {ns : Nat} {errors : List CwError} {r : Req} {q : List Req} (h : (d.dmcOf m).ctl = r :: q) :
    requestCompleteD m ns errors d =
      (((((d.setClock m ns).spoil errors).failing r).foldl (requestFails m r) ((d.setClock m ns).spoil errors)).correct r.write r.addr r.len).finished m ns r
        ((((d.setClock m ns).spoil errors).failing r).map (fun q => q.1)) := by
  unfold requestCompleteD
  dsimp only
  rw [h]
  rfl
/-- The errors have come. -/
def erring (d : Dev) (m ns : Nat) (errors : List CwError) : Dev := (d.setClock m ns).spoil errors
theorem worked_erring (d : Dev) (m ns : Nat) (errors : List CwError) : worked d (d.erring m ns errors) :=
  worked_trans (worked_setClock d m ns) (worked_spoil _ errors)
theorem erring_contents (d : Dev) (m ns : Nat) (errors : List CwError) : (d.erring m ns errors).contents = d.contents := rfl
theorem erring_rd (d : Dev) (m ns : Nat) (errors : List CwError) (a : Nat) : (d.erring m ns errors).rd a = d.rd a := rfl

section complete
variable {d : Dev} {m : Fin 8} {ns : Nat} {r : Req} {q : List Req} (h : (d.dmcOf m).ctl = r :: q) (hbad : d.badCw = [])
include h

theorem erring_ctl (errors : List CwError) : ((d.erring m ns errors).dmcOf m).ctl.tail = q := by
  rw [ctl_of_worked (worked_erring d m ns errors), h]
  rfl
include hbad
theorem requestCompleteD_clean : requestCompleteD m ns [] d = (d.erring m ns []).finished m ns r [] := by
  have hnone : (d.erring m ns []).errsIn r.write r.addr r.len = [] := errsIn_of_none hbad ..
  have hclean : (d.erring m ns []).failing r = [] := by
    rw [failing, hnone]
    rfl
  rw [requestCompleteD_eq h, ← erring, hclean, List.foldl_nil, correct_of_none hnone]
  rfl

variable {cw : Nat} (hreads : readsCw r.write r.addr r.len cw) (hwiped : SMap.get false d.wiped (cw / 2^13) = true) {map : BitVec 20} (hmap : map ≠ 0) (dig : BitVec 24)
include hreads hwiped hmap
omit h in
theorem erring_errsIn : (d.erring m ns [⟨cw, map, dig⟩]).errsIn r.write r.addr r.len = [(cw, map.toNat, dig.toNat)] :=
  errsIn_of_one (spoil_badCw_one (d := d.setClock m ns) hbad hmap hwiped dig) hreads hwiped
theorem requestCompleteD_corrected (hone : correctable map.toNat = true) :
    requestCompleteD m ns [⟨cw, map, dig⟩] d = ((d.erring m ns [⟨cw, map, dig⟩]).correctOne (cw, map.toNat, dig.toNat)).finished m ns r [] := by
  have herrs := erring_errsIn (m := m) (ns := ns) hbad hreads hwiped hmap dig
  have hclean : (d.erring m ns [⟨cw, map, dig⟩]).failing r = [] := by
    rw [failing, herrs]
    exact List.filter_cons_of_neg (by simp [hone])
  rw [requestCompleteD_eq h, ← erring, hclean, List.foldl_nil, correct_of_one herrs hone]
  rfl
theorem requestCompleteD_failed (hseveral : correctable map.toNat = false) : requestCompleteD m ns [⟨cw, map, dig⟩] d =
    (((d.erring m ns [⟨cw, map, dig⟩]).requestFails m r (cw, map.toNat, dig.toNat)).correct r.write r.addr r.len).finished m ns r [cw] := by
  have hfails : (d.erring m ns [⟨cw, map, dig⟩]).failing r = [(cw, map.toNat, dig.toNat)] := by
    rw [failing, erring_errsIn (m := m) (ns := ns) hbad hreads hwiped hmap dig]
    exact List.filter_cons_of_pos (by simp [hseveral])
  rw [requestCompleteD_eq h, ← erring, hfails, List.foldl_cons, List.foldl_nil, List.map_cons, List.map_nil]
end complete

theorem freezeBy_dmc (d : Dev) (m port addr loc : Nat) (readPart ca held : Bool) (map digest : Nat) :
    (d.freezeBy m port addr loc readPart ca held map digest).dmc = d.dmc :=
  (freezeBy_logged d port addr loc readPart ca held map digest).1.dmc.trans (dmc_of_base (base_raise ..))
theorem freezeBy_frozen (d : Dev) (m port addr loc : Nat) (readPart ca held : Bool) (map digest : Nat) :
    (d.freezeBy m port addr loc readPart ca held map digest).frozen = true := (freezeBy_logged d port addr loc readPart ca held map digest).2
theorem freezeBy_event (d : Dev) {m : Nat} (hm : m < 8) (port addr loc : Nat) (readPart ca held : Bool) (map digest : Nat) :
    (d.freezeBy m port addr loc readPart ca held map digest).bit (Reg.dram_EVENTS m) 1 = true := by
  have hevents : unloggedReg (Reg.dram_EVENTS m) := by
    unfold unloggedReg Reg.dram_EVENTS
    omega
  rw [bit_of_rd ((freezeBy_logged d port addr loc readPart ca held map digest).1.rd _ hevents), bit_raise_same _ _ _ _ (by decide) (by decide)]
  exact Bool.or_true _

/-! ## The scrub -/

/-- The units of a read pass. -/
def readPassed (d : Dev) (a n : Nat) : Dev :=
  (unitParts a n).foldl (fun (d : Dev) p => if !false && !SMap.get false d.wiped (p.1 / 2^20) then d else d.touch false p.1 p.2) d
theorem served_read (d : Dev) (a n : Nat) : d.served false a n = (d.readPassed a n).correct false a n := by
  unfold served
  dsimp only
  rw [if_neg (fun h => Bool.false_ne_true h.1)]
  rfl
theorem rowAfter_badCw (d : Dev) (m l : Nat) (o : Bool) : (d.rowAfter m l o).badCw = d.badCw := rfl
theorem touch_badCw (d : Dev) (write : Bool) (a n : Nat) : (d.touch write a n).badCw = d.badCw := by
  rw [touch_eq]
  have hwoken : (if d.inSr (d.place a).1 then d.exitSr (d.place a).1 else d).badCw = d.badCw := by
    unfold exitSr
    exact iteInduction (motive := fun x : Dev => x.badCw = d.badCw) (fun _ => iteInduction (motive := fun x : Dev => x.badCw = d.badCw) (fun _ => rfl)
      fun _ => badCw_of_base ((base_setBit ..).trans (base_setFld ..))) fun _ => rfl
  rw [touchAt, rowAfter_badCw, badCw_of_base (base_addSat64 ..), hwoken]
theorem touch_rd (d : Dev) (write : Bool) (a n : Nat) {b : Nat} (hb : undoneReg b) : (d.touch write a n).rd b = d.rd b := by
  have hm := d.place_lt a
  rw [touch_eq]
  generalize d.place a = x at hm ⊢
  have hstatus : Reg.dram_STATUS x.1 ≠ b := by
    unfold undoneReg at hb
    unfold Reg.dram_STATUS
    omega
  have hwoken : (if d.inSr x.1 then d.exitSr x.1 else d).rd b = d.rd b :=
    iteInduction (motive := fun y : Dev => y.rd b = d.rd b) (fun _ => exitSr_rd d hstatus) fun _ => rfl
  have hne {o : Nat} (ho : 0x68 ≤ o ∧ o < 0x78) := undone_block (o := o) (.inr (.inr ho)) hb hm
  have hcounted (y : Dev) : (y.addSat64 (if write then Reg.dram_WR_BYTES_LO x.1 else Reg.dram_RD_BYTES_LO x.1) n).rd b = y.rd b := by
    cases write
    · exact wr64_rd y (hne (o := 0x68) (by decide)) (hne (o := 0x6c) (by decide)) _
    · exact wr64_rd y (hne (o := 0x70) (by decide)) (hne (o := 0x74) (by decide)) _
  rw [touchAt, rowAfter_rd, hcounted, hwoken]
section readPassed
variable (d : Dev) (a n : Nat)
theorem readPassed_keeps {β : Type} (q : Dev → β) (h : ∀ (d : Dev) (b k : Nat), q (d.touch false b k) = q d) : q (d.readPassed a n) = q d :=
  foldl_keeps q _ _ (fun d p => iteInduction (motive := fun x : Dev => q x = q d) (fun _ => rfl) fun _ => h d p.1 p.2) d
theorem worked_readPassed : worked d (d.readPassed a n) :=
  worked_foldl d _ fun _ _ d => worked_ite (fun _ => worked_refl d) fun _ => worked_touch ..
end readPassed

/-- One correction has been made of codeword `cw`: counted, and its device shown. -/
theorem served_corrects {d : Dev} {cw : Nat} {x : Nat × Nat} (h : d.badCw = [(cw, some x)]) (hone : correctable x.1 = true)
    (hwiped : SMap.get false d.wiped (cw / 2^13) = true) : d.served false (cw * 128) 128 = (d.readPassed (cw * 128) 128).correctOne (cw, x) := by
  have hbad : (d.readPassed (cw * 128) 128).badCw = [(cw, some x)] := (readPassed_keeps d _ _ Dev.badCw fun d b k => touch_badCw d false b k).trans h
  have hcontents : (d.readPassed (cw * 128) 128).contents = d.contents := readPassed_keeps d _ _ contents fun d b k => contents_touch d false b k
  rw [served_read, correct_of_one (errsIn_of_one hbad ⟨by omega, by omega, .inl rfl⟩ (by rw [wiped_of_contents hcontents, hwiped])) hone]

section scrub
variable {d : Dev} {m : Fin 8} {l : BitVec 39} {a ns : Nat} {map : BitVec 20} {dig : BitVec 24} (hserved : d.servedAddr m l.toNat = some a)
  (hfree : d.dramShut = false) (hon : d.bit (Reg.dram_CFG m) 1 = true) (hsound : d.corrupt (Reg.dram_CFG m) 0x100 = false)
  (hwiped : SMap.get false d.wiped (a / 2^20) = true) (hforced : d.forcedSr m = false) (hwaits : d.wipeWaits m = false)
include hserved hfree hon hsound hwiped hforced hwaits

theorem patrolScrubD_eq : patrolScrubD m l ⟨ns, map, dig⟩ d =
    match (d.erring m ns [⟨a / 128 * 128 / 128, map, dig⟩]).badIn (a / 128 * 128) 128 with
    | some q => (d.erring m ns [⟨a / 128 * 128 / 128, map, dig⟩]).freezeAt 10 false q
    | none => (d.erring m ns [⟨a / 128 * 128 / 128, map, dig⟩]).served false (a / 128 * 128) 128 := by
  have hgo : (d.dramShut || !d.bit (Reg.dram_CFG m) 1 || d.corrupt (Reg.dram_CFG m) 0x100 || !SMap.get false d.wiped (a / 128 * 128 / 2^20) || d.forcedSr m || d.wipeWaits m) = false := by
    have hunit : a / 128 * 128 / 2^20 = a / 2^20 := by omega
    rw [hunit, hwiped, hfree, hon, hsound, hforced, hwaits]
    rfl
  unfold patrolScrubD
  dsimp only
  rw [hserved]
  dsimp only
  rw [if_neg (by rw [hgo]; decide)]
  rfl
end scrub
end Dev
end Sys2Proof.Machine

/-! PROOFS. The scrub of DRAM, and what completion shows (R397, R398, R405). -/
namespace Sys2Proof.Machine
namespace Dev

section scrub
variable {d : Dev} {m : Fin 8} {l : BitVec 39} {a ns : Nat} {map : BitVec 20} {dig : BitVec 24} (hserved : d.servedAddr m l.toNat = some a)
  (hfree : d.dramShut = false) (hon : d.bit (Reg.dram_CFG m) 1 = true) (hsound : d.corrupt (Reg.dram_CFG m) 0x100 = false)
  (hwiped : SMap.get false d.wiped (a / 2^20) = true) (hforced : d.forcedSr m = false) (hwaits : d.wipeWaits m = false) (hbad : d.badCw = [])
include hserved hfree hon hsound hwiped hforced hwaits hbad

theorem patrolScrubD_clean : patrolScrubD m l ⟨ns, 0, dig⟩ d = (d.erring m ns [⟨a / 128 * 128 / 128, 0, dig⟩]).served false (a / 128 * 128) 128 := by
  have hclean : (d.erring m ns [⟨a / 128 * 128 / 128, 0, dig⟩]).badCw = [] := (spoil_badCw_of_zero ..).trans hbad
  have hnone : (d.erring m ns [⟨a / 128 * 128 / 128, 0, dig⟩]).badIn (a / 128 * 128) 128 = none := by
    rw [badIn, errsIn_of_none hclean]
    rfl
  rw [patrolScrubD_eq hserved hfree hon hsound hwiped hforced hwaits, hnone]

omit hserved hfree hon hsound hforced hwaits in
theorem erring_codeword (hmap : map ≠ 0) : (d.erring m ns [⟨a / 128, map, dig⟩]).badCw = [(a / 128, some (map.toNat, dig.toNat))] ∧
    (d.erring m ns [⟨a / 128, map, dig⟩]).errsIn false (a / 128 * 128) 128 = [(a / 128, map.toNat, dig.toNat)] := by
  have hunit : SMap.get false d.wiped (a / 128 / 2^13) = true := by
    rw [Nat.div_div_eq_div_mul]
    exact hwiped
  have hone : (d.erring m ns [⟨a / 128, map, dig⟩]).badCw = [(a / 128, some (map.toNat, dig.toNat))] :=
    spoil_badCw_one (d := d.setClock m ns) hbad hmap hunit dig
  exact ⟨hone, errsIn_of_one hone ⟨by omega, by omega, .inl rfl⟩ hunit⟩
theorem patrolScrubD_corrected (hmap : map ≠ 0) (hone : correctable map.toNat = true) : patrolScrubD m l ⟨ns, map, dig⟩ d =
    ((d.erring m ns [⟨a / 128, map, dig⟩]).readPassed (a / 128 * 128) 128).correctOne (a / 128, map.toNat, dig.toNat) := by
  obtain ⟨hstored, herrs⟩ := erring_codeword (m := m) (ns := ns) (dig := dig) hwiped hbad hmap
  have hunit : a / 128 * 128 / 128 = a / 128 := Nat.mul_div_cancel _ (by decide)
  have hnone : (d.erring m ns [⟨a / 128, map, dig⟩]).badIn (a / 128 * 128) 128 = none := by
    rw [badIn, herrs]
    exact List.find?_cons_of_neg (by simp [hone])
  have hwiped' : SMap.get false (d.erring m ns [⟨a / 128, map, dig⟩]).wiped (a / 128 / 2^13) = true := by
    rw [Nat.div_div_eq_div_mul]
    exact hwiped
  rw [patrolScrubD_eq hserved hfree hon hsound hwiped hforced hwaits, hunit, hnone]
  exact served_corrects hstored hone hwiped'
theorem patrolScrubD_failed (hmap : map ≠ 0) (hseveral : correctable map.toNat = false) : (patrolScrubD m l ⟨ns, map, dig⟩ d).frozen = true := by
  obtain ⟨-, herrs⟩ := erring_codeword (m := m) (ns := ns) (dig := dig) hwiped hbad hmap
  have hunit : a / 128 * 128 / 128 = a / 128 := Nat.mul_div_cancel _ (by decide)
  have hsome : (d.erring m ns [⟨a / 128, map, dig⟩]).badIn (a / 128 * 128) 128 = some (a / 128, map.toNat, dig.toNat) := by
    rw [badIn, herrs]
    exact List.find?_cons_of_pos (by simp [hseveral])
  rw [patrolScrubD_eq hserved hfree hon hsound hwiped hforced hwaits, hunit, hsome]
  dsimp only
  rw [freezeAt_eq]
  exact freezeBy_frozen ..
end scrub

/-! ## Corrections -/

/-- A correction at address `a` shows in a device that is otherwise as DRAM was. -/
structure shownCorrected (d d' : Dev) (i a : Nat) : Prop where
  count : d'.rdN (Reg.dram_CORR_CNT (d.place a).1) = min (2^32 - 1) (d.rdN (Reg.dram_CORR_CNT (d.place a).1) + 1)
  device : d'.rdN (Reg.dram_CORR_DEV (d.place a).1) = i + 32 * (d.cell (d.place a).2).rank + 64 * (d.cell (d.place a).2).dimm
  frozen : d'.frozen = d.frozen
theorem corr_undone {m o : Nat} (hm : m < 8) (ho : o = 0x50 ∨ o = 0x64) : undoneReg (0x1000000 + 0x10000 * m + o) := by
  unfold undoneReg
  omega
theorem shownCorrected_of_correctOne {d x : Dev} (h : worked d x) (hcnt : ∀ a, undoneReg a → x.rd a = d.rd a) (i : Fin 20) (cw dig : Nat) :
    shownCorrected d (x.correctOne (cw, (BitVec.twoPow 20 i).toNat, dig)) i (cw * 128) := by
  obtain ⟨hcount, hdev⟩ := correctOne_counts x (cw, (BitVec.twoPow 20 i).toNat, dig)
  have hplace : x.place (cw * 128) = d.place (cw * 128) := place_of_worked h _
  have hm := d.place_lt (cw * 128)
  dsimp only at hcount hdev
  rw [hplace] at hcount hdev
  have hsame : x.rdN (Reg.dram_CORR_CNT (d.place (cw * 128)).1) = d.rdN (Reg.dram_CORR_CNT (d.place (cw * 128)).1) := congrArg BitVec.toNat (hcnt _ (corr_undone hm (.inl rfl)))
  have hshown : x.shownCell (d.place (cw * 128)).2 (BitVec.twoPow 20 i).toNat = i + 32 * (d.cell (d.place (cw * 128)).2).rank + 64 * (d.cell (d.place (cw * 128)).2).dimm := by
    rw [shownCell, device_twoPow, cell_of_worked h]
  have hrank := d.cell_rank_lt (d.place (cw * 128)).2
  have hdimm := d.cell_dimm_lt (d.place (cw * 128)).2
  refine ⟨?_, ?_, ?_⟩
  · rw [hcount, hsame]
  · rw [hdev, hshown, Nat.mod_eq_of_lt (by omega)]
  · exact frozen_of_worked (worked_trans h (worked_correctOne x _))
theorem finished_shownCorrected {d x : Dev} {m i a : Nat} (hm : m < 8) {ns : Nat} {r : Req} {bad : List Nat} (hfill : ∀ f, r.fill = some f → f.1 < 96)
    (h : shownCorrected d x i a) : shownCorrected d (x.finished m ns r bad) i a where
  count := (congrArg BitVec.toNat (finished_rd x ns bad hfill hm (corr_undone (d.place_lt a) (.inl rfl)))).trans h.count
  device := (congrArg BitVec.toNat (finished_rd x ns bad hfill hm (corr_undone (d.place_lt a) (.inr rfl)))).trans h.device
  frozen := (finished_frozen x ns bad hfill hm).trans h.frozen

/-! ## Completion -/

section complete
variable {d : Dev} {m : Fin 8} {ns : Nat} {r : Req} {q : List Req} (h : (d.dmcOf m).ctl = r :: q) (hfill : ∀ f, r.fill = some f → f.1 < 96) (hbad : d.badCw = [])
include h hfill hbad

theorem requestComplete_ctl : ((requestCompleteD m ns [] d).dmcOf m).ctl = q := by
  rw [requestCompleteD_clean h hbad, finished_ctl _ ns [] hfill m.isLt, erring_ctl h]
theorem requestComplete_write (hwrite : r.write = true) (hlen : r.data.length = r.len) :
    (requestCompleteD m ns [] d).dramRead r.addr r.len = r.data ∧
      ∀ a, (a < r.addr ∨ r.addr + r.len ≤ a) → (requestCompleteD m ns [] d).dramByte a = d.dramByte a := by
  have hcontents : (requestCompleteD m ns [] d).contents = (((d.erring m ns []).headGone m).dramWrite r.addr r.data).contents := by
    rw [requestCompleteD_clean h hbad, contents_of_stores (finished_stores _ ns [] hfill), doneReq_contents_write _ ns r hwrite]
  refine ⟨?_, fun a ha => ?_⟩
  · rw [dramRead_of_contents hcontents, ← hlen]
    exact dramRead_dramWrite ..
  · rw [dramByte_of_contents hcontents, dramByte_dramWrite_out _ _ _ (by rw [hlen]; exact ha)]
    exact dramByte_of_contents ((contents_updDmc ..).trans (erring_contents ..)) a
theorem requestComplete_read (hread : r.write = false) : (requestCompleteD m ns [] d).dram = d.dram ∧
    (requestCompleteD m ns [] d).rd64 (Reg.dram_RD_BYTES_LO m) = min (2^64 - 1) (d.rd64 (Reg.dram_RD_BYTES_LO m) + r.len) := by
  have hm := m.isLt
  rw [requestCompleteD_clean h hbad]
  refine ⟨?_, ?_⟩
  · rw [dram_of_contents (contents_of_stores (finished_stores _ ns [] hfill)), dram_of_contents (doneReq_contents_read _ ns r hread)]
    rfl
  · have hrd {o : Nat} (ho : 0x68 ≤ o ∧ o < 0x78) := finished_of_done (d.erring m ns []) ns [] hfill (m := m) (a := 0x1000000 + 0x10000 * m + o)
      (by omega) (by unfold Reg.dram_STATUS; omega)
    rw [rd64_of_rd (hrd (o := 0x68) (by decide)) (hrd (o := 0x6c) (by decide)), doneReq_bytes _ ns r hread]
    rfl

variable {cw : Nat} (hreads : readsCw r.write r.addr r.len cw) (hwiped : SMap.get false d.wiped (cw / 2^13) = true) (dig : BitVec 24)
include hreads hwiped
theorem requestComplete_corrected (i : Fin 20) : ((requestCompleteD m ns [⟨cw, BitVec.twoPow 20 i, dig⟩] d).dmcOf m).ctl = q ∧
    shownCorrected d (requestCompleteD m ns [⟨cw, BitVec.twoPow 20 i, dig⟩] d) i (cw * 128) := by
  rw [requestCompleteD_corrected h hbad hreads hwiped (twoPow_ne_zero i) dig (correctable_twoPow i)]
  constructor
  · rw [finished_ctl _ ns [] hfill m.isLt, ctl_of_worked (worked_correctOne ..), erring_ctl h]
  · exact finished_shownCorrected m.isLt hfill (shownCorrected_of_correctOne (worked_erring ..) (fun _ _ => rfl) i cw _)
theorem requestComplete_failed {map : BitVec 20} (hmap : map ≠ 0) (hseveral : correctable map.toNat = false) :
    ((requestCompleteD m ns [⟨cw, map, dig⟩] d).dmcOf m).ctl = q ∧ (requestCompleteD m ns [⟨cw, map, dig⟩] d).frozen = true := by
  rw [requestCompleteD_failed h hbad hreads hwiped hmap dig hseveral]
  constructor
  · rw [finished_ctl _ ns _ hfill m.isLt, ctl_of_worked (worked_correct ..), requestFails, dmcOf_of_dmc (freezeBy_dmc ..), erring_ctl h]
  · rw [finished_frozen _ ns _ hfill m.isLt, frozen_of_worked (worked_correct ..), requestFails]
    exact freezeBy_frozen ..
end complete

theorem caParityD_spec (d : Dev) (m : Fin 8) : (caParityD m d).frozen = true ∧ (caParityD m d).bit (Reg.dram_EVENTS m) 1 = true := by
  unfold caParityD
  split
  · exact ⟨freezeBy_frozen .., freezeBy_event _ m.isLt ..⟩
  · exact ⟨freezeBy_frozen .., freezeBy_event _ m.isLt ..⟩
end Dev

/-- Settles O42: completion, the scrub and a parity error, each by what its errors do. -/
theorem requestsComplete : Obligations.RequestsComplete := by
  intro s m ns i map dig d one corr
  refine ⟨fun r q hctl hfill hbad => ⟨fun hwrite hlen _ => ?_, fun hread => ?_, fun cw habove hbelow hwiped hpart => ⟨?_, fun hmap hseveral => ?_⟩⟩, ?_,
    fun l a hserved hfree hon hsound hwiped hforced hwaits hbad => ⟨?_, ?_, fun hmap hseveral => ?_⟩, ?_⟩
  · exact State.runs_of_onDev (exec_requestComplete ..) rfl ⟨Dev.requestComplete_ctl hctl hfill hbad, Dev.requestComplete_write hctl hfill hbad hwrite hlen⟩
  · exact State.runs_of_onDev (exec_requestComplete ..) rfl ⟨Dev.requestComplete_ctl hctl hfill hbad, Dev.requestComplete_read hctl hfill hbad hread⟩
  · obtain ⟨hleft, hshown⟩ := Dev.requestComplete_corrected (ns := ns) hctl hfill hbad ⟨habove, hbelow, hpart⟩ hwiped dig i
    exact State.runs_of_onDev (exec_requestComplete ..) rfl ⟨hleft, hshown.count, hshown.device, hshown.frozen⟩
  · exact State.runs_of_onDev (exec_requestComplete ..) rfl (Dev.requestComplete_failed hctl hfill hbad ⟨habove, hbelow, hpart⟩ hwiped dig hmap hseveral)
  · exact State.runs_of_onDev (exec_zqCalibration ..) rfl rfl
  · have hclean := Dev.patrolScrubD_clean (ns := ns) (dig := dig) hserved hfree hon hsound hwiped hforced hwaits hbad
    refine State.runs_of_onDev (exec_patrolScrub ..) hclean ⟨?_, ?_⟩
    · exact Dev.dram_of_contents (Dev.contents_served ..)
    · exact Dev.frozen_of_worked (Dev.worked_trans (Dev.worked_erring ..) (Dev.worked_served ..))
  · have hone := Dev.patrolScrubD_corrected (ns := ns) (dig := dig) hserved hfree hon hsound hwiped hforced hwaits hbad (Dev.twoPow_ne_zero i) (Dev.correctable_twoPow i)
    have hshown := Dev.shownCorrected_of_correctOne (Dev.worked_trans (Dev.worked_erring d m ns [⟨a / 128, BitVec.twoPow 20 i, dig⟩]) (Dev.worked_readPassed _ (a / 128 * 128) 128))
      (fun b hb => Dev.readPassed_keeps _ _ _ (fun x : Dev => x.rd b) fun x c k => Dev.touch_rd x false c k hb) i (a / 128) dig.toNat
    refine State.runs_of_onDev (exec_patrolScrub ..) hone ⟨⟨hshown.count, hshown.device, hshown.frozen⟩, ?_⟩
    rw [Dev.dram_of_contents (Dev.contents_correctOne ..), Dev.dram_of_contents (Dev.readPassed_keeps _ _ _ Dev.contents fun x c k => Dev.contents_touch x false c k)]
    rfl
  · exact State.runs_of_onDev (exec_patrolScrub ..) rfl (Dev.patrolScrubD_failed hserved hfree hon hsound hwiped hforced hwaits hbad hmap hseveral)
  · exact State.runs_of_onDev (exec_caParity ..) rfl (d.caParityD_spec m)
end Sys2Proof.Machine

/-! PROOFS. Refresh, temperature, self-refresh, migration and the wipe of DRAM (R324, R325, R375, R381, R392, R393, R404). -/
namespace Sys2Proof.Machine

theorem exec_refreshDue (m : Fin 8) (s : State) : exec (.refreshDue m) s = s.onDev (refreshDueD m) := rfl
theorem exec_dimmReading (m : Fin 8) (sensors : List (Option Int)) (s : State) : exec (.dimmReading m sensors) s = s.onDev (dimmReadingD m sensors) := rfl
theorem exec_selfRefreshIdle (m : Fin 8) (s : State) : exec (.selfRefreshIdle m) s = s.onDev (selfRefreshIdleD m) := rfl
theorem exec_chunkSwitch (m : Fin 8) (s : State) : exec (.chunkSwitch m) s = s.onDev (chunkSwitchD m) := rfl
theorem exec_backgroundWipe (s : State) : exec .backgroundWipe s = s.onDev backgroundWipeD := rfl
theorem exec_granuleFill (g : Fin 2097152) (s : State) : exec (.granuleFill g) s = s.onDev (granuleFillD g) := rfl

namespace Dev

/-! ## Refresh -/

theorem owed_setOwed (d : Dev) (m o : Nat) : (d.setOwed m o).owed m = o % 16 := fld_setFld_same _ _ _ _ _ (by decide)
theorem owed_of_rd {d d' : Dev} {m : Nat} (h : d'.rd (Reg.dram_STATUS m) = d.rd (Reg.dram_STATUS m)) : d'.owed m = d.owed m := fld_of_rd h ..
theorem setOwed_rd (d : Dev) {m a : Nat} (o : Nat) (h : Reg.dram_STATUS m ≠ a) : (d.setOwed m o).rd a = d.rd a := rd_setFld_ne _ _ _ _ h

/-- A refresh has come due: the owed count has risen. -/
def refreshOwed (d : Dev) (m : Nat) : Dev := d.setOwed m (d.owed m + 1)
/-- The owed count has come to 4. -/
def owedHigh (d : Dev) (m : Nat) : Bool := (d.refreshOwed m).owedMax m (d.owed m)
/-- PANIC would postpone the refresh. -/
def postpones (d : Dev) (m : Nat) : Bool := d.dmcPanic m && !d.frozen
/-- What shows as a refresh comes due. -/
def refreshShown (d : Dev) (m : Nat) : Dev :=
  let x := if d.owedHigh m then (d.refreshOwed m).fireNow (928 + 4 * m + 2) else d.refreshOwed m
  if d.owedHigh m || (d.postpones m && decide (4 ≤ d.owed m)) then
    x.raise (Reg.dram_EVENTS m) ((if d.owedHigh m then 4 else 0) + (if d.postpones m && decide (4 ≤ d.owed m) then 8 else 0))
  else x
theorem refreshDueD_eq {d : Dev} {m : Fin 8} (hawake : d.inSr m = false) (hout : d.dmcState m ≠ 4) : refreshDueD m d =
    if 4 < d.owed m + 1 then (d.refreshShown m).setOwed m 4
    else if d.postpones m then (d.refreshShown m).bump (Reg.dram_REF_POSTPONED_CNT m)
    else if ((d.refreshShown m).dmcOf m).ctl.isEmpty || (d.refreshShown m).frozen then (d.refreshShown m).setOwed m 0
    else d.refreshShown m := by
  have hgo : ¬ (d.inSr m = true ∨ d.dmcState m = 4) := by
    rintro (h | h)
    · exact Bool.noConfusion (hawake.symm.trans h)
    · exact hout h
  unfold refreshDueD
  dsimp only
  rw [if_neg hgo]
  rfl

section refresh
variable (d : Dev) {m : Nat}
theorem refreshShown_rd {a : Nat} (hs : Reg.dram_STATUS m ≠ a) (he : Reg.dram_EVENTS m ≠ a) : (d.refreshShown m).rd a = d.rd a := by
  have hfired : (if d.owedHigh m then (d.refreshOwed m).fireNow (928 + 4 * m + 2) else d.refreshOwed m).rd a = d.rd a :=
    iteInduction (motive := fun x : Dev => x.rd a = d.rd a) (fun _ => (rd_of_regs (fireNow_regs ..) a).trans (setOwed_rd d _ hs)) fun _ => setOwed_rd d _ hs
  exact iteInduction (motive := fun x : Dev => x.rd a = d.rd a) (fun _ => (rd_raise_ne _ _ he).trans hfired) fun _ => hfired
theorem refreshShown_status : (d.refreshShown m).rd (Reg.dram_STATUS m) = (d.refreshOwed m).rd (Reg.dram_STATUS m) := by
  have hfired : (if d.owedHigh m then (d.refreshOwed m).fireNow (928 + 4 * m + 2) else d.refreshOwed m).rd (Reg.dram_STATUS m) = (d.refreshOwed m).rd (Reg.dram_STATUS m) :=
    iteInduction (motive := fun x : Dev => x.rd (Reg.dram_STATUS m) = (d.refreshOwed m).rd (Reg.dram_STATUS m)) (fun _ => rd_of_regs (fireNow_regs ..) _) fun _ => rfl
  exact iteInduction (motive := fun x : Dev => x.rd (Reg.dram_STATUS m) = (d.refreshOwed m).rd (Reg.dram_STATUS m))
    (fun _ => (rd_raise_ne _ _ (by unfold Reg.dram_EVENTS Reg.dram_STATUS; omega)).trans hfired) fun _ => hfired
theorem refreshShown_base : (d.refreshShown m).base = d.base := by
  have hfired : (if d.owedHigh m then (d.refreshOwed m).fireNow (928 + 4 * m + 2) else d.refreshOwed m).base = d.base :=
    iteInduction (motive := fun x : Dev => x.base = d.base) (fun _ => (base_fireNow ..).trans (base_setFld ..)) fun _ => base_setFld ..
  exact iteInduction (motive := fun x : Dev => x.base = d.base) (fun _ => (base_raise ..).trans hfired) fun _ => hfired
theorem refreshShown_owed (h : d.owed m < 4) : (d.refreshShown m).owed m = d.owed m + 1 := by
  rw [owed_of_rd (refreshShown_status d), refreshOwed, owed_setOwed, Nat.mod_eq_of_lt (by omega)]
theorem refreshShown_forced (ho : 4 ≤ d.owed m) (hpanic : d.postpones m = true) : (d.refreshShown m).bit (Reg.dram_EVENTS m) 3 = true := by
  have hforced : (d.postpones m && decide (4 ≤ d.owed m)) = true := by rw [hpanic, decide_eq_true ho]; rfl
  unfold refreshShown
  dsimp only
  rw [hforced, Bool.or_true, if_pos rfl, if_pos rfl]
  cases d.owedHigh m
  · rw [bit_raise_same _ _ _ _ (by decide) (by decide)]
    exact Bool.or_true _
  · rw [bit_raise_same _ _ _ _ (by decide) (by decide)]
    exact Bool.or_true _
end refresh

section refreshDue
variable {d : Dev} {m : Fin 8} (hawake : d.inSr m = false) (hout : d.dmcState m ≠ 4)
include hawake hout
theorem refreshDueD_postponed (ho : d.owed m < 4) (hpanic : d.postpones m = true) : (refreshDueD m d).owed m = d.owed m + 1 ∧
    (refreshDueD m d).rdN (Reg.dram_REF_POSTPONED_CNT m) = min (2^32 - 1) (d.rdN (Reg.dram_REF_POSTPONED_CNT m) + 1) := by
  have hne : Reg.dram_REF_POSTPONED_CNT m ≠ Reg.dram_STATUS m ∧ Reg.dram_STATUS m ≠ Reg.dram_REF_POSTPONED_CNT m ∧ Reg.dram_EVENTS m ≠ Reg.dram_REF_POSTPONED_CNT m := by
    unfold Reg.dram_REF_POSTPONED_CNT Reg.dram_STATUS Reg.dram_EVENTS
    omega
  obtain ⟨hstatus, hstatus', hevents⟩ := hne
  rw [refreshDueD_eq hawake hout, if_neg (by omega), if_pos hpanic, owed_of_rd (rd_bump_ne _ hstatus), refreshShown_owed d ho, bump, addSat, rdN_wrN_same,
    Nat.mod_eq_of_lt (by omega), rdN, refreshShown_rd d hstatus' hevents]
  exact ⟨rfl, rfl⟩
theorem refreshDueD_issued (ho : d.owed m < 4) (hcalm : d.postpones m = false) (hidle : (d.dmcOf m).ctl = [] ∨ d.frozen = true) : (refreshDueD m d).owed m = 0 := by
  have hgo : (((d.refreshShown m).dmcOf m).ctl.isEmpty || (d.refreshShown m).frozen) = true := by
    rw [dmcOf_of_dmc (dmc_of_base (refreshShown_base d)), frozen, bit_of_rd (refreshShown_rd d (by unfold Reg.dram_STATUS Reg.dramG_STATUS; omega) (by unfold Reg.dram_EVENTS Reg.dramG_STATUS; omega)), ← frozen]
    rcases hidle with h | h
    · rw [h]
      rfl
    · rw [h, Bool.or_true]
  rw [refreshDueD_eq hawake hout, if_neg (by omega), if_neg (by rw [hcalm]; decide), if_pos hgo, owed_setOwed]
theorem refreshDueD_waits (ho : d.owed m < 4) (hcalm : d.postpones m = false) (hbusy : ¬ ((d.dmcOf m).ctl = [] ∨ d.frozen = true)) :
    (refreshDueD m d).owed m = d.owed m + 1 := by
  have hgo : ¬ (((d.refreshShown m).dmcOf m).ctl.isEmpty || (d.refreshShown m).frozen) = true := by
    rw [dmcOf_of_dmc (dmc_of_base (refreshShown_base d)), frozen, bit_of_rd (refreshShown_rd d (by unfold Reg.dram_STATUS Reg.dramG_STATUS; omega) (by unfold Reg.dram_EVENTS Reg.dramG_STATUS; omega)), ← frozen,
      Bool.or_eq_true, List.isEmpty_iff]
    exact hbusy
  rw [refreshDueD_eq hawake hout, if_neg (by omega), if_neg (by rw [hcalm]; decide), if_neg hgo, refreshShown_owed d ho]
theorem refreshDueD_forced (ho : 4 ≤ d.owed m) : (refreshDueD m d).owed m = 4 ∧ (d.postpones m = true → (refreshDueD m d).bit (Reg.dram_EVENTS m) 3 = true) := by
  rw [refreshDueD_eq hawake hout, if_pos (by omega), owed_setOwed]
  refine ⟨rfl, fun hpanic => ?_⟩
  rw [bit_of_rd (setOwed_rd _ _ (by unfold Reg.dram_STATUS Reg.dram_EVENTS; omega))]
  exact refreshShown_forced d ho hpanic
end refreshDue

/-! ## Doubled refresh -/

/-- DRAM shows the same temperature, and its queues are as before. -/
structure cooled (d d' : Dev) (m : Nat) : Prop where
  temp : d'.rd (Reg.dram_TEMP m) = d.rd (Reg.dram_TEMP m)
  doubled : d'.bit (Reg.dram_STATUS m) 3 = d.bit (Reg.dram_STATUS m) 3
  dmc : d'.dmc = d.dmc
theorem cooled_refl (d : Dev) (m : Nat) : cooled d d m := ⟨rfl, rfl, rfl⟩
theorem cooled_trans {d d' d'' : Dev} {m : Nat} (h : cooled d d' m) (h' : cooled d' d'' m) : cooled d d'' m :=
  ⟨h'.temp.trans h.temp, h'.doubled.trans h.doubled, h'.dmc.trans h.dmc⟩
theorem cooled_ite {d d' d'' : Dev} {m : Nat} {p : Prop} [Decidable p] (h : cooled d d' m) (h' : cooled d d'' m) : cooled d (if p then d' else d'') m :=
  iteInduction (motive := fun x => cooled d x m) (fun _ => h) fun _ => h'
theorem cooled_wrN (d : Dev) {m a : Nat} (ht : a ≠ Reg.dram_TEMP m) (hs : a ≠ Reg.dram_STATUS m) (v : Nat) : cooled d (d.wrN a v) m :=
  ⟨rd_wrN_ne _ _ ht, bit_wrN_ne _ _ _ hs, dmc_of_base (base_wrN ..)⟩
theorem cooled_setOwed (d : Dev) (m o : Nat) : cooled d (d.setOwed m o) m :=
  ⟨setOwed_rd _ _ (by unfold Reg.dram_STATUS Reg.dram_TEMP; omega), bit_setFld_other _ _ _ _ _ _ (by decide) (by decide), dmc_of_base (base_setFld ..)⟩
theorem cooled_fireNow (d : Dev) (m src : Nat) : cooled d (d.fireNow src) m :=
  ⟨rd_of_regs (fireNow_regs ..) _, bit_of_rd (rd_of_regs (fireNow_regs ..) _) _, dmc_of_base (base_fireNow ..)⟩
theorem cooled_faultMp (d : Dev) {m : Nat} (hm : m < 8) (code k : Nat) (detail : List Nat) : cooled d (d.faultMp code k detail) m := by
  have hkeeps : keepsHolds d (d.faultMp code k detail) := keepsHolds_fault ..
  have hdram {o : Nat} (ho : o < 0x10000) : 0x1000000 ≤ 0x1000000 + 0x10000 * m + o ∧ 0x1000000 + 0x10000 * m + o < 0x1200000 := by omega
  exact ⟨hkeeps.dram (hdram (o := 0xc) (by decide)), bit_of_rd (hkeeps.dram (hdram (o := 4) (by decide))) _, dmc_of_stores (stores_fault ..)⟩
theorem cooled_raiseEvents (d : Dev) (m f : Nat) : cooled d (d.raise (Reg.dram_EVENTS m) f) m :=
  cooled_wrN d (by unfold Reg.dram_EVENTS Reg.dram_TEMP; omega) (by unfold Reg.dram_EVENTS Reg.dram_STATUS; omega) _
theorem cooled_foldl {α : Type} (l : List α) {m : Nat} {f : Dev → α → Dev} (h : ∀ d x, cooled d (f d x) m) (d : Dev) : cooled d (l.foldl f d) m :=
  foldl_invariant (P := fun x => cooled d x m) (fun x i _ hx => cooled_trans hx (h x i)) (cooled_refl d m)

theorem setDoubled_spec (d : Dev) {m : Nat} (hm : m < 8) (on_ : Bool) : (d.setDoubled m on_).bit (Reg.dram_STATUS m) 3 = on_ ∧
    (d.setDoubled m on_).rd (Reg.dram_TEMP m) = d.rd (Reg.dram_TEMP m) ∧ (d.setDoubled m on_).dmc = d.dmc := by
  have hset {x : Dev} (h : cooled (d.setBit (Reg.dram_STATUS m) 3 on_) x m) : x.bit (Reg.dram_STATUS m) 3 = on_ ∧ x.rd (Reg.dram_TEMP m) = d.rd (Reg.dram_TEMP m) ∧ x.dmc = d.dmc :=
    ⟨h.doubled.trans (bit_setBit_same _ _ _ _ (by decide)), h.temp.trans (rd_setBit_ne _ _ _ (by unfold Reg.dram_STATUS Reg.dram_TEMP; omega)),
      h.dmc.trans (dmc_of_base (base_setBit ..))⟩
  unfold setDoubled
  refine iteInduction (motive := fun x : Dev => x.bit (Reg.dram_STATUS m) 3 = on_ ∧ x.rd (Reg.dram_TEMP m) = d.rd (Reg.dram_TEMP m) ∧ x.dmc = d.dmc)
    (fun h => ⟨h, rfl, rfl⟩) fun _ => ?_
  refine hset ?_
  extract_lets o marked owing high extra fired counted risk shown
  refine iteInduction (motive := fun x : Dev => cooled marked x m) (fun _ => cooled_setOwed ..) fun _ => ?_
  have howing : cooled marked owing m := cooled_setOwed ..
  have hfired : cooled owing fired m := cooled_ite (cooled_fireNow ..) (cooled_refl ..)
  have hcounted : cooled fired counted m := cooled_ite (cooled_trans (cooled_setOwed ..) (cooled_wrN _ (by unfold Reg.dram_REF_FORCED_CNT Reg.dram_TEMP; omega)
    (by unfold Reg.dram_REF_FORCED_CNT Reg.dram_STATUS; omega) _)) (cooled_refl ..)
  have hshown : cooled counted shown m := cooled_raiseEvents ..
  have hall := cooled_trans (cooled_trans (cooled_trans howing hfired) hcounted) hshown
  clear_value shown risk
  cases risk with
  | none => exact hall
  | some p =>
    exact cooled_trans hall (cooled_trans (cooled_trans (cooled_fireNow ..) (cooled_wrN _ (by unfold Reg.dramG_EVENTS Reg.dram_TEMP; omega)
      (by unfold Reg.dramG_EVENTS Reg.dram_STATUS; omega) _)) (cooled_faultMp _ hm ..))

/-! ## Readings of the sensors -/

theorem hottest_foldl {t : Int} {l : List Int} {acc : Option Int} (hin : t ∈ l ∨ acc = some t) (hmost : ∀ u ∈ l, u ≤ t) (hacc : ∀ x, acc = some x → x ≤ t) :
    l.foldl (fun (m : Option Int) t => some (match m with
      | some x => max x t
      | none => t)) acc = some t := by
  induction l generalizing acc with
  | nil => exact hin.resolve_left List.not_mem_nil
  | cons a r ih =>
    have ha := hmost a List.mem_cons_self
    refine ih ?_ (fun u hu => hmost u (List.mem_cons_of_mem _ hu)) ?_
    · rcases hin with hin | rfl
      · rcases List.mem_cons.1 hin with rfl | hin
        · right
          cases acc with
          | none => rfl
          | some x => exact congrArg some (max_eq_right (hacc x rfl))
        · exact .inl hin
      · exact .inr (congrArg some (max_eq_left ha))
    · rintro x hx
      cases acc with
      | none => exact (Option.some.inj hx) ▸ ha
      | some y => exact (Option.some.inj hx) ▸ max_le (hacc y rfl) ha
theorem hottest_of_most {t : Int} {l : List Int} (hin : t ∈ l) (hmost : ∀ u ∈ l, u ≤ t) : hottest l = some t :=
  hottest_foldl (.inl hin) hmost fun x h => absurd h (Option.some_ne_none x).symm

/-- How many reads each sensor has been silent for. -/
def silences (sensors : List (Option Int)) (old : List Nat) : List Nat := sensors.zipIdx.map (fun p => if p.1.isSome then 0 else old.getD p.2 0 + 1)
theorem silences_get (sensors : List (Option Int)) (old : List Nat) (i : Nat) :
    (silences sensors old)[i]? = sensors[i]?.map (fun x => if x.isSome then 0 else old.getD i 0 + 1) := by
  rw [silences, List.getElem?_map, List.getElem?_zipIdx, Option.map_map, Nat.zero_add]
  rfl
theorem silences_lost (sensors : List (Option Int)) (old : List Nat) :
    (silences sensors old).any (fun k => decide (3 ≤ k)) = true ↔ ∃ i : Nat, sensors[i]? = some none ∧ 2 ≤ old.getD i 0 := by
  rw [List.any_eq_true]
  constructor
  · rintro ⟨k, hk, hthree⟩
    obtain ⟨i, hi⟩ := List.mem_iff_getElem?.1 hk
    have hge := of_decide_eq_true hthree
    rw [silences_get, Option.map_eq_some_iff] at hi
    obtain ⟨x, hx, rfl⟩ := hi
    cases x with
    | some t => exact (Nat.not_succ_le_zero 2 hge).elim
    | none => exact ⟨i, hx, Nat.le_of_succ_le_succ hge⟩
  · rintro ⟨i, hi, htwo⟩
    refine ⟨old.getD i 0 + 1, List.mem_iff_getElem?.2 ⟨i, ?_⟩, decide_eq_true (Nat.succ_le_succ htwo)⟩
    rw [silences_get, hi]
    rfl

/-- The silent sensors are recorded. -/
def withSilent (d : Dev) (m : Nat) (l : List Nat) : Dev := d.updDmc m (fun (x : Dmc) => { x with silent := l })
/-- The highest reading shows. -/
def tempShown (d : Dev) (m : Nat) (top : Option Int) : Dev :=
  match top with
  | some t => (d.setFld (Reg.dram_TEMP m) 0 16 (toBits 16 t)).setFld (Reg.dram_TEMP m) 16 16 (toBits 16 (max (sext 16 (d.fld (Reg.dram_TEMP m) 16 16)) t))
  | none => d
/-- Sensors that have been silent for three reads are reported. -/
def lostReported (d : Dev) (m : Nat) (lost : List Nat) : Dev :=
  lost.foldl (fun (d : Dev) i => d.faultMp 0x55 m [i]) (if lost.isEmpty then d else d.raise (Reg.dram_EVENTS m) 512)
/-- A reading of the sensors shows. -/
def dimmShown (d : Dev) (m : Nat) (sensors : List (Option Int)) : Dev :=
  ((d.withSilent m (silences sensors (d.dmcOf m).silent)).tempShown m (hottest (sensors.filterMap (fun t => t)))).lostReported m
    (((silences sensors (d.dmcOf m).silent).zipIdx.filter (fun p => p.1 == 3)).map (fun p => p.2))
theorem dimmReadingD_eq (d : Dev) (m : Fin 8) (sensors : List (Option Int)) : dimmReadingD m sensors d =
    if (silences sensors (d.dmcOf m).silent).any (fun k => decide (3 ≤ k)) then (d.dimmShown m sensors).setDoubled m true
    else match hottest (sensors.filterMap (fun t => t)) with
      | some t => if 1360 < t then (d.dimmShown m sensors).setDoubled m true else if t ≤ 1328 then (d.dimmShown m sensors).setDoubled m false else d.dimmShown m sensors
      | none => d.dimmShown m sensors := rfl

theorem cooled_lostReported (d : Dev) {m : Nat} (hm : m < 8) (lost : List Nat) : cooled d (d.lostReported m lost) m :=
  cooled_trans (cooled_ite (cooled_refl d m) (cooled_raiseEvents d m _)) (cooled_foldl _ (fun d _ => cooled_faultMp d hm ..) _)
theorem tempShown_status (d : Dev) (m : Nat) (top : Option Int) : (d.tempShown m top).rd (Reg.dram_STATUS m) = d.rd (Reg.dram_STATUS m) ∧ (d.tempShown m top).dmc = d.dmc := by
  cases top with
  | none => exact ⟨rfl, rfl⟩
  | some t =>
    have hne : Reg.dram_TEMP m ≠ Reg.dram_STATUS m := by
      unfold Reg.dram_TEMP Reg.dram_STATUS
      omega
    exact ⟨(rd_setFld_ne _ _ _ _ hne).trans (rd_setFld_ne _ _ _ _ hne), dmc_of_base ((base_setFld ..).trans (base_setFld ..))⟩
theorem tempShown_temp (d : Dev) (m : Nat) (t : Int) : (d.tempShown m (some t)).fld (Reg.dram_TEMP m) 0 16 = toBits 16 t := by
  rw [tempShown, fld_setFld_other _ _ _ _ _ _ _ (by decide) (by decide), fld_setFld_same _ _ _ _ _ (by decide), Nat.mod_eq_of_lt (toBits_lt ..)]
section dimmShown
variable (d : Dev) {m : Nat} (hm : m < 8) (sensors : List (Option Int))
include hm
theorem dimmShown_silent : ((d.dimmShown m sensors).dmcOf m).silent = silences sensors (d.dmcOf m).silent := by
  rw [dimmShown, dmcOf_of_dmc (cooled_lostReported _ hm _).dmc, dmcOf_of_dmc (tempShown_status ..).2, withSilent, updDmc_dmcOf]
theorem dimmShown_doubled : (d.dimmShown m sensors).bit (Reg.dram_STATUS m) 3 = d.bit (Reg.dram_STATUS m) 3 := by
  rw [dimmShown, (cooled_lostReported _ hm _).doubled, bit_of_rd (tempShown_status ..).1]
  rfl
theorem dimmShown_temp {t : Int} (htop : hottest (sensors.filterMap (fun t => t)) = some t) : (d.dimmShown m sensors).fld (Reg.dram_TEMP m) 0 16 = toBits 16 t := by
  rw [dimmShown, fld_of_rd (cooled_lostReported _ hm _).temp, htop, tempShown_temp]
end dimmShown

section dimmReading
variable (d : Dev) (m : Fin 8) (sensors : List (Option Int))
/-- A reading changes the rate after it shows. -/
theorem dimmReadingD_shown : (dimmReadingD m sensors d).rd (Reg.dram_TEMP m) = (d.dimmShown m sensors).rd (Reg.dram_TEMP m) ∧
    (dimmReadingD m sensors d).dmc = (d.dimmShown m sensors).dmc := by
  have hset (b : Bool) := ((d.dimmShown m sensors).setDoubled_spec m.isLt b).2
  rw [dimmReadingD_eq]
  generalize d.dimmShown m sensors = x at hset ⊢
  split
  · exact hset true
  · split
    · split
      · exact hset true
      · split
        · exact hset false
        · exact ⟨rfl, rfl⟩
    · exact ⟨rfl, rfl⟩
theorem dimmReadingD_silent : ((dimmReadingD m sensors d).dmcOf m).silent = silences sensors (d.dmcOf m).silent := by
  rw [dmcOf_of_dmc (dimmReadingD_shown d m sensors).2, dimmShown_silent d m.isLt]
theorem dimmReadingD_lost (h : ∃ i : Nat, sensors[i]? = some none ∧ 2 ≤ (d.dmcOf m).silent.getD i 0) : (dimmReadingD m sensors d).bit (Reg.dram_STATUS m) 3 = true := by
  rw [dimmReadingD_eq, if_pos ((silences_lost ..).2 h)]
  exact (setDoubled_spec _ m.isLt true).1
variable {t : Int} (hin : some t ∈ sensors) (hmost : ∀ u, some u ∈ sensors → u ≤ t)
include hin hmost
omit d m in
theorem hottest_sensor : hottest (sensors.filterMap (fun t => t)) = some t :=
  hottest_of_most (List.mem_filterMap.2 ⟨_, hin, rfl⟩) fun u hu => by
    obtain ⟨x, hx, rfl⟩ := List.mem_filterMap.1 hu
    exact hmost u hx
theorem dimmReadingD_temp : (dimmReadingD m sensors d).fld (Reg.dram_TEMP m) 0 16 = toBits 16 t := by
  rw [fld_of_rd (dimmReadingD_shown d m sensors).1, dimmShown_temp d m.isLt sensors (hottest_sensor sensors hin hmost)]
theorem dimmReadingD_rate (h : ¬ ∃ i : Nat, sensors[i]? = some none ∧ 2 ≤ (d.dmcOf m).silent.getD i 0) : (dimmReadingD m sensors d).bit (Reg.dram_STATUS m) 3 =
    if 1360 < t then true else if t ≤ 1328 then false else d.bit (Reg.dram_STATUS m) 3 := by
  rw [dimmReadingD_eq, if_neg (fun hlost => h ((silences_lost ..).1 hlost)), hottest_sensor sensors hin hmost]
  dsimp only
  split
  · exact (setDoubled_spec _ m.isLt true).1
  · split
    · exact (setDoubled_spec _ m.isLt false).1
    · exact dimmShown_doubled d m.isLt sensors
end dimmReading

/-! ## Migration and the wipe -/

theorem chunkBusy_of_empty {d : Dev} (h : ∀ x ∈ d.dmc, x.2.waiting = [] ∧ x.2.ctl = []) (m c : Nat) : d.chunkBusy m c = false := by
  rw [chunkBusy, List.any_eq_false]
  intro x hx
  obtain ⟨hwaiting, hctl⟩ := h x hx
  rw [hwaiting, hctl, List.append_nil, List.any_nil]
  exact Bool.false_ne_true
/-- The units of chunk `c` of DMC `m` that are copied. -/
def chunkUnits (d : Dev) (m c : Nat) : List Nat :=
  ((List.range 16).filterMap (fun i => d.spaceAddr m (c * 65536 + i * 4096))).filter (fun a => SMap.get false d.wiped (a / 2^20))
/-- The chunk has moved. -/
def chunkMoved (d : Dev) (m c : Nat) : Dev := { d with moved := SMap.set false d.moved c (!d.bit Reg.dramG_STATUS (4 + m)) }
/-- The units of a chunk are copied, and the chunk moves. -/
def chunkCopied (d : Dev) (m c : Nat) (units : List Nat) : Dev :=
  match units.findSome? (fun a => d.badIn a 4096) with
  | some q => d.freezeAt 9 false q
  | none => units.foldl (fun (d : Dev) a => d.touch true a 4096) ((units.foldl (fun (d : Dev) a => d.served false a 4096) d).chunkMoved m c)
theorem chunkUnits_def (d : Dev) (m c : Nat) :
    ((List.range 16).filterMap (fun i => d.spaceAddr m (c * 65536 + i * 4096))).filter (fun a => SMap.get false d.wiped (a / 2^20)) = d.chunkUnits m c := rfl
theorem chunkCopied_def (d : Dev) (m c : Nat) (u : List Nat) :
    (let units := u
     match units.findSome? (fun a => d.badIn a 4096) with
     | some q => d.freezeAt 9 false q
     | none =>
       let d := units.foldl (fun (d : Dev) a => d.served false a 4096) d
       let d := { d with moved := SMap.set false d.moved c (!d.bit Reg.dramG_STATUS (4 + m)) }
       units.foldl (fun (d : Dev) a => d.touch true a 4096) d) = d.chunkCopied m c u := by
  dsimp only
  unfold chunkCopied
  cases u.findSome? (fun a => d.badIn a 4096) with
  | some q => rfl
  | none => rfl
/-- `switchChunk` is unfolded as a function and its units are generalised at once, so that the kernel does not compute them. -/
theorem switchChunk_eq (d : Dev) (m c : Nat) : d.switchChunk m c = d.chunkCopied m c (d.chunkUnits m c) := by
  obtain ⟨f, hf⟩ : ∃ f, f = @switchChunk := ⟨_, rfl⟩
  rewrite [← hf]
  delta switchChunk at hf
  rewrite [hf]
  beta_reduce
  rewrite [chunkUnits_def]
  generalize d.chunkUnits m c = units
  exact chunkCopied_def d m c units
theorem chunkCopied_eq {d : Dev} (hbad : d.badCw = []) (m c : Nat) (units : List Nat) : d.chunkCopied m c units =
    units.foldl (fun (d : Dev) a => d.touch true a 4096) ((units.foldl (fun (d : Dev) a => d.served false a 4096) d).chunkMoved m c) := by
  have hnone : units.findSome? (fun a => d.badIn a 4096) = none :=
    List.findSome?_eq_none_iff.2 fun a _ => by
      rw [badIn, errsIn_of_none hbad]
      rfl
  rw [chunkCopied, hnone]
theorem chunkMoved_dram (d : Dev) (m c : Nat) : (d.chunkMoved m c).dram = d.dram := rfl
theorem switchChunk_spec {d : Dev} (hbad : d.badCw = []) (m c : Nat) :
    SMap.get false (d.switchChunk m c).moved c = (!d.bit Reg.dramG_STATUS (4 + m)) ∧ (d.switchChunk m c).dram = d.dram := by
  rw [switchChunk_eq, chunkCopied_eq hbad]
  have hread : worked d ((d.chunkUnits m c).foldl (fun (d : Dev) a => d.served false a 4096) d) := worked_foldl d _ fun a _ d => worked_served ..
  have hdram : ((d.chunkUnits m c).foldl (fun (d : Dev) a => d.served false a 4096) d).dram = d.dram :=
    dram_of_contents (foldl_keeps contents _ _ (fun d a => contents_served ..) d)
  generalize (d.chunkUnits m c).foldl (fun (d : Dev) a => d.served false a 4096) d = x at hread hdram ⊢
  have hwritten : worked (x.chunkMoved m c) ((d.chunkUnits m c).foldl (fun (d : Dev) a => d.touch true a 4096) (x.chunkMoved m c)) :=
    worked_foldl _ _ fun a _ d => worked_touch ..
  constructor
  · rw [calmPart_moved hwritten.calm, chunkMoved, SMap.get_set_same, bit_of_worked hread (by decide)]
  · rw [dram_of_contents (foldl_keeps contents _ _ (fun d a => contents_touch ..) _), chunkMoved_dram, hdram]
theorem filled_spec (d : Dev) (g : Nat) : SMap.get false ((d.fillPass g).wipeIn g).wiped g = true ∧ ∀ a, ((d.fillPass g).wipeIn g).dramByte a = d.dramByte a :=
  ⟨wiped_wipeIn .., fun a => (dramByte_wipeIn ..).trans (dramByte_of_contents (contents_fillPass d g) a)⟩
end Dev

/-- Settles O43: each command of the upkeep by its own lemma. -/
theorem dramKeepsItself : Obligations.DramKeepsItself := by
  intro s m d o panic idle
  have hpanic : panic ↔ d.postpones m = true := by
    rw [Dev.postpones, Bool.and_eq_true, Bool.not_eq_true']
  have hcalm (h : ¬ panic) : d.postpones m = false := Bool.eq_false_iff.2 fun hp => h (hpanic.2 hp)
  refine ⟨fun hawake hout => ⟨fun ho hp hidle => ?_, fun ho hp hbusy => ?_, fun ho hp => ?_, fun ho => ?_⟩, fun sensors => ?_, fun hidle hstandby hawake hcharge hwaiting hctl => ?_,
    fun c hfree hstate hnext hbad hempty => ?_, fun g hfree hstandby hquiet hfirst => ?_, fun g hfree hin => ?_⟩
  · exact State.runs_of_onDev (exec_refreshDue ..) rfl (Dev.refreshDueD_issued hawake hout ho (hcalm hp) hidle)
  · exact State.runs_of_onDev (exec_refreshDue ..) rfl (Dev.refreshDueD_waits hawake hout ho (hcalm hp) hbusy)
  · exact State.runs_of_onDev (exec_refreshDue ..) rfl (Dev.refreshDueD_postponed hawake hout ho (hpanic.1 hp))
  · obtain ⟨howed, hforced⟩ := Dev.refreshDueD_forced hawake hout ho
    exact State.runs_of_onDev (exec_refreshDue ..) rfl ⟨howed, fun hp => hforced (hpanic.1 hp)⟩
  · intro old lost
    refine State.runs_of_onDev (exec_dimmReading ..) rfl ⟨fun i hi => ?_, fun i t hi => ?_, d.dimmReadingD_lost m sensors, fun t hin hmost =>
      ⟨d.dimmReadingD_temp m sensors hin hmost, d.dimmReadingD_rate m sensors hin hmost⟩⟩
    · rw [Dev.dimmReadingD_silent, Dev.silences_get, hi]
      rfl
    · rw [Dev.dimmReadingD_silent, Dev.silences_get, hi]
      rfl
  · have hgo : selfRefreshIdleD m d = d.enterSr m := if_neg (by simp [hidle, hstandby, hawake, hcharge, hwaiting, hctl])
    exact State.runs_of_onDev (exec_selfRefreshIdle ..) hgo (d.enterSr_same m)
  · have hgo : chunkSwitchD m d = d.switchChunk m c := by
      unfold chunkSwitchD
      dsimp only
      rw [if_neg (by simp [hfree, hstate]), hnext]
      dsimp only
      rw [if_neg (by rw [Dev.chunkBusy_of_empty hempty]; decide)]
    exact State.runs_of_onDev (exec_chunkSwitch ..) hgo (Dev.switchChunk_spec hbad m c)
  · have hquiet' : (List.range 8).any (fun m => d.wipeWaits m || d.forcedSr m) = false := List.any_eq_false.2 fun k hk => by
      obtain ⟨hwaits, hforced⟩ := hquiet k (List.mem_range.1 hk)
      rw [hwaits, hforced]
      decide
    have hgo : backgroundWipeD d = (d.fillPass g).wipeIn g := by
      unfold backgroundWipeD
      rw [if_neg (by simp only [hfree, hstandby, hquiet', Bool.false_eq_true, or_self, not_false_eq_true]), hfirst]
    exact State.runs_of_onDev (exec_backgroundWipe s) hgo (d.filled_spec g)
  · have hgo : granuleFillD g d = (d.fillPass g).wipeIn g := if_neg (by rw [hfree, hin]; decide)
    exact State.runs_of_onDev (exec_granuleFill ..) hgo (d.filled_spec g)
end Sys2Proof.Machine

/-! PROOFS. Resets and the watchdog of the MP (R296, R328, R331). -/
namespace Sys2Proof.Machine

theorem exec_deviceReset (src : BitVec 6) (s : State) : exec (.deviceReset src) s = s.onGuard (deviceResetG src) := rfl
theorem exec_secReset (v : Word) (s : State) : exec (.secReset v) s = s.onGuard (secResetG v) := rfl
theorem exec_watchdogExpiry (s : State) : exec .watchdogExpiry s = s.onDev watchdogExpiryD := rfl
theorem exec_watchdogService (s : State) : exec .watchdogService s = s.onDev watchdogServiceD := rfl

namespace Dev

/-! ## What a reset leaves -/

/-- The device anew: only what lies outside of it is kept. -/
def fresh (d : Dev) (powerOn : Bool) (cause : Nat) : Dev :=
  { hostMem := d.hostMem, flash := d.flash, flashSize := d.flashSize, dimms := d.dimms, safePin := d.safePin,
    extest := d.extest, freeCtr := d.freeCtr, widthPin := d.widthPin, mgmtPin := d.mgmtPin,
    host := { maxWidth := if !powerOn && bitsOf cause 1 1 == 0 then d.host.maxWidth
                          else if d.widthPin = 1 then 3 else if d.widthPin = 2 then 2 else 4 } }
/-- The management address is sampled. -/
def addrSampled (x d : Dev) : Dev := { x with aon := { mgmtAddr := d.mgmtPin } }
/-- The registers that a device reset keeps. -/
def regsKept (x d : Dev) : Dev := keptRegs.foldl (fun (n : Dev) (a : Nat) => n.wr a (d.rd a)) x
/-- The Basalt island and the accumulator are kept. -/
def accKeptFrom (x d : Dev) : Dev :=
  { x with aon := d.aon,
           time := { x.time with acc := if d.timeValid then d.time.now * 2^32 else d.time.acc, ph := d.time.ph, refN := d.time.refN, refOk := d.time.refOk } }
/-- The state of device time and of the reference show after a device reset. -/
def resetShown (x d : Dev) : Dev :=
  ((x.setTimeState (if d.time.refOk then 1 else 0)).setBit Reg.time_STATUS 1 (d.bit Reg.time_STATUS 1)).setBit Reg.clk_STATUS 7 d.time.refOk
theorem afterReset_eq (d : Dev) (powerOn : Bool) (cause : Nat) : d.afterReset powerOn cause =
    (if powerOn then (d.fresh powerOn cause).addrSampled d else (((d.fresh powerOn cause).regsKept d).accKeptFrom d).resetShown d).wrN Reg.sec_RESET_CAUSE cause := by
  cases powerOn
  · rfl
  · rfl

/-- A reset has cleared the block: nothing that it held is left, and what lies outside is. -/
structure clearedFrom (d d' : Dev) : Prop where
  chan : d'.chan = []
  launches : d'.launches = []
  prog : d'.prog = []
  ctx : d'.ctx = []
  dram : d'.dram = []
  sc : d'.sc = []
  mailbox : d'.mailbox = []
  faults : d'.faults = []
  booted : d'.sec.booted = false
  flash : d'.flash = d.flash
  hostMem : d'.hostMem = d.hostMem
theorem clearedFrom_wr {d x : Dev} (h : clearedFrom d x) (a : Nat) (v : Word) : clearedFrom d (x.wr a v) :=
  ⟨h.chan, h.launches, h.prog, h.ctx, h.dram, h.sc, h.mailbox, h.faults, h.booted, h.flash, h.hostMem⟩
theorem clearedFrom_setBit {d x : Dev} (h : clearedFrom d x) (a i : Nat) (v : Bool) : clearedFrom d (x.setBit a i v) := clearedFrom_wr h ..
theorem clearedFrom_fresh (d : Dev) (powerOn : Bool) (cause : Nat) : clearedFrom d (d.fresh powerOn cause) := ⟨rfl, rfl, rfl, rfl, rfl, rfl, rfl, rfl, rfl, rfl, rfl⟩
theorem clearedFrom_regsKept {d x : Dev} (h : clearedFrom d x) : clearedFrom d (x.regsKept d) :=
  foldl_invariant (P := fun x => clearedFrom d x) (fun _ _ _ hx => clearedFrom_wr hx ..) h
theorem clearedFrom_resetShown {d x : Dev} (h : clearedFrom d x) : clearedFrom d (x.resetShown d) :=
  clearedFrom_setBit (clearedFrom_setBit (clearedFrom_setBit (clearedFrom_wr h ..) ..) ..) ..
theorem clearedFrom_addrSampled {d x : Dev} (h : clearedFrom d x) : clearedFrom d (x.addrSampled d) :=
  ⟨h.chan, h.launches, h.prog, h.ctx, h.dram, h.sc, h.mailbox, h.faults, h.booted, h.flash, h.hostMem⟩
theorem clearedFrom_accKeptFrom {d x : Dev} (h : clearedFrom d x) : clearedFrom d (x.accKeptFrom d) :=
  ⟨h.chan, h.launches, h.prog, h.ctx, h.dram, h.sc, h.mailbox, h.faults, h.booted, h.flash, h.hostMem⟩
theorem afterReset_clears (d : Dev) (powerOn : Bool) (cause : Nat) : clearedFrom d (d.afterReset powerOn cause) := by
  rw [afterReset_eq]
  refine clearedFrom_wr ?_ ..
  exact iteInduction (motive := fun x => clearedFrom d x) (fun _ => clearedFrom_addrSampled (clearedFrom_fresh ..)) fun _ =>
    clearedFrom_resetShown (clearedFrom_accKeptFrom (clearedFrom_regsKept (clearedFrom_fresh ..)))

theorem resetShown_status (x d : Dev) : (x.resetShown d).timeValid = false ∧ (x.resetShown d).bit Reg.time_STATUS 1 = d.bit Reg.time_STATUS 1 := by
  unfold resetShown
  constructor
  · rw [timeValid, bit_setBit_ne _ _ _ _ (by decide), bit_setBit_other _ _ _ _ _ (by decide) (by decide), ← timeValid, setTimeState_timeValid]
    cases d.time.refOk <;> rfl
  · rw [bit_setBit_ne _ _ _ _ (by decide), bit_setBit_same _ _ _ _ (by decide)]
theorem afterReset_timeValid (d : Dev) (powerOn : Bool) (cause : Nat) : (d.afterReset powerOn cause).timeValid = false := by
  rw [afterReset_eq, timeValid, bit_wrN_ne _ _ _ (by decide), ← timeValid]
  cases powerOn
  · exact (resetShown_status ..).1
  · have hrd : ((d.fresh true cause).addrSampled d).rd Reg.time_STATUS = regReset Reg.time_STATUS := rd_of_fresh rfl _
    rw [if_pos rfl, timeValid, bit, hrd]
    decide
theorem afterReset_cause (d : Dev) (powerOn : Bool) {cause : Nat} (h : cause < 2^32) : (d.afterReset powerOn cause).rdN Reg.sec_RESET_CAUSE = cause := by
  rw [afterReset_eq, rdN_wrN_same, Nat.mod_eq_of_lt h]

theorem regsKept_rd (x d : Dev) {a : Nat} (h : a ∈ keptRegs) : (x.regsKept d).rd a = d.rd a := by
  unfold regsKept
  generalize keptRegs = l at h
  induction l using List.reverseRecOn with
  | nil => cases h
  | append_singleton l b ih =>
    rw [List.foldl_append, List.foldl_cons, List.foldl_nil]
    by_cases hb : b = a
    · subst hb
      exact SMap.get_set_same ..
    · rw [rd_wr_ne _ _ hb]
      exact ih ((List.mem_append.1 h).resolve_right fun h => hb (List.mem_singleton.1 h).symm)
theorem accKeptFrom_rd (x d : Dev) (a : Nat) : (x.accKeptFrom d).rd a = x.rd a := rfl
theorem accKeptFrom_acc (x d : Dev) : (x.accKeptFrom d).time.acc = if d.timeValid then d.time.now * 2^32 else d.time.acc := rfl
theorem resetShown_rd (x d : Dev) {a : Nat} (ht : Reg.time_STATUS ≠ a) (hc : Reg.clk_STATUS ≠ a) : (x.resetShown d).rd a = x.rd a := by
  rw [resetShown, rd_setBit_ne _ _ _ hc, rd_setBit_ne _ _ _ ht, setTimeState_rd _ _ ht]
theorem resetShown_time (x d : Dev) : (x.resetShown d).time = x.time := by rw [resetShown, setBit_time, setBit_time, setTimeState_time]
/-- What a device reset keeps. -/
theorem afterReset_keeps (d : Dev) (cause : Nat) : (d.afterReset false cause).bit Reg.time_STATUS 1 = d.bit Reg.time_STATUS 1 ∧
    (∀ i < 16, (d.afterReset false cause).rd (Reg.fault_DSAFE_LAST i) = d.rd (Reg.fault_DSAFE_LAST i)) ∧
    (d.afterReset false cause).time.acc = if d.timeValid then d.time.now * 2^32 else d.time.acc := by
  rw [afterReset_eq, if_neg Bool.false_ne_true]
  refine ⟨?_, fun i hi => ?_, ?_⟩
  · rw [bit_wrN_ne _ _ _ (by decide)]
    exact (resetShown_status ..).2
  · have hkept : Reg.fault_DSAFE_LAST i ∈ keptRegs := List.mem_append.2 (.inr (List.mem_map.2 ⟨i, List.mem_range.2 hi, rfl⟩))
    rw [rd_wrN_ne _ _ (by unfold Reg.sec_RESET_CAUSE Reg.fault_DSAFE_LAST; omega),
      resetShown_rd _ _ (by unfold Reg.time_STATUS Reg.fault_DSAFE_LAST; omega) (by unfold Reg.clk_STATUS Reg.fault_DSAFE_LAST; omega), accKeptFrom_rd, regsKept_rd _ _ hkept]
  · rw [wrN_time, resetShown_time, accKeptFrom_acc]

/-! ## Commands that end -/

/-- Command `x` and what waits for it end with a status. -/
def endOne (status : Nat) (y x : InFlight) : InFlight := if endsWith x y then { y with ended := some (status, x.moved) } else y
theorem conclude_inflight (d : Dev) (x : InFlight) (status : Nat) : (d.conclude x status x.moved).host.inflight = d.host.inflight.map (fun y => endOne status y x) := rfl
theorem concluded_inflight (d : Dev) (status : Nat) (l : List InFlight) : (l.foldl (fun (d : Dev) (x : InFlight) => d.conclude x status x.moved) d).host.inflight =
    d.host.inflight.map (fun y => l.foldl (endOne status) y) := by
  induction l generalizing d with
  | nil => exact (List.map_id' _).symm
  | cons x r ih => rw [List.foldl_cons, ih, conclude_inflight, List.map_map]; rfl
theorem endOne_same (status : Nat) (y x : InFlight) : (endOne status y x).cmd = y.cmd ∧ (endOne status y x).dup = y.dup := by
  unfold endOne
  split
  · exact ⟨rfl, rfl⟩
  · exact ⟨rfl, rfl⟩
theorem ended_endOne {status : Nat} {y x : InFlight} (h : y.ended ≠ none ∨ y.cmd = x.cmd) : (endOne status y x).ended ≠ none := by
  unfold endOne
  split
  · exact Option.some_ne_none _
  · next hends =>
    intro hnone
    have hcmd := h.resolve_left fun hne => hne hnone
    exact hends (by simp only [endsWith, hcmd, hnone, beq_self_eq_true, Option.isNone_none, Bool.and_self])
theorem foldl_endOne {status : Nat} (l : List InFlight) (y : InFlight) : (l.foldl (endOne status) y).dup = y.dup ∧
    ((y.ended ≠ none ∨ ∃ x ∈ l, y.cmd = x.cmd) → (l.foldl (endOne status) y).ended ≠ none) := by
  induction l generalizing y with
  | nil => exact ⟨rfl, fun h => h.elim id fun ⟨_, hx, _⟩ => absurd hx List.not_mem_nil⟩
  | cons x r ih =>
    obtain ⟨hcmd, hdup⟩ := endOne_same status y x
    obtain ⟨hkeep, hends⟩ := ih (endOne status y x)
    refine ⟨hkeep.trans hdup, fun h => hends ?_⟩
    rcases h with h | ⟨z, hz, hzcmd⟩
    · exact .inl (ended_endOne (.inl h))
    · rcases List.mem_cons.1 hz with rfl | hz
      · exact .inl (ended_endOne (.inr hzcmd))
      · exact .inr ⟨z, hz, hcmd.trans hzcmd⟩
/-- Every command in flight that is no duplicate has ended. -/
theorem endCmds_all (d : Dev) (status : Nat) : ∀ x ∈ (d.endCmds (fun _ => true) status).host.inflight, x.dup = false → x.ended ≠ none := by
  intro x hx hdup
  rw [endCmds, concluded_inflight] at hx
  obtain ⟨y, hy, rfl⟩ := List.mem_map.1 hx
  obtain ⟨hkeep, hends⟩ := foldl_endOne (status := status) (d.host.inflight.filter (fun x => true && x.ended.isNone && !x.dup)) y
  refine hends ?_
  by_cases hnone : y.ended = none
  · exact .inr ⟨y, List.mem_filter.2 ⟨hy, by rw [hnone, ← hkeep, hdup]; rfl⟩, rfl⟩
  · exact .inl hnone
theorem endCmds_keeps {β : Type} (q : Dev → β) (h : ∀ (d : Dev) x, q { d with host := x } = q d) (d : Dev) (f : InFlight → Bool) (status : Nat) : q (d.endCmds f status) = q d :=
  foldl_keeps q _ _ (fun _ _ => h ..) d

/-! ## The watchdog -/

/-- A cause is held against every channel; firmware's failure is 16. -/
def allHeld (d : Dev) (mask : Nat) : Dev := (List.range 96).foldl (fun (d : Dev) (n : Nat) => d.setHold n mask) d
/-- The expiry shows. -/
def expiryShown (d : Dev) : Dev := (d.bump Reg.sec_WDT_CNT).raise Reg.sec_EVENTS 8
theorem watchdogExpiryD_eq {d : Dev} (h : d.standby = false) : watchdogExpiryD d =
    ((d.expiryShown.allHeld 16).faultNow 9 0x90 0 0 [(d.expiryShown.allHeld 16).rdN Reg.sec_WDT_CNT]).endCmds (fun _ => true) 0x14 := if_neg (by rw [h]; decide)

theorem SAFE_CTL_ne {i j : Nat} (h : i ≠ j) : Reg.chn_SAFE_CTL i ≠ Reg.chn_SAFE_CTL j := by
  unfold Reg.chn_SAFE_CTL chnBase
  omega
theorem updChan_rd (d : Dev) (n : Nat) (f : Chan → Chan) (a : Nat) : (d.updChan n f).rd a = d.rd a := rfl
theorem setHold_rd (d : Dev) {n a : Nat} (mask : Nat) (h : Reg.chn_SAFE_CTL n ≠ a) : (d.setHold n mask).rd a = d.rd a := by
  rw [setHold, updChan_rd, rd_setFld_ne _ _ _ _ h]
theorem setHold_bit (d : Dev) (n : Nat) {mask k : Nat} (hk : k < 8) (hmask : mask.testBit k = true) : (d.setHold n mask).bit (Reg.chn_SAFE_CTL n) (4 + k) = true := by
  have htest : ((d.setFld (Reg.chn_SAFE_CTL n) 4 8 (d.fld (Reg.chn_SAFE_CTL n) 4 8 ||| mask)).fld (Reg.chn_SAFE_CTL n) 4 8).testBit k = true := by
    rw [fld_setFld_same _ _ _ _ _ (by decide), Nat.testBit_mod_two_pow, Nat.testBit_or, hmask, Bool.or_true, decide_eq_true hk]
    rfl
  rw [fld, bitsOf, Nat.testBit_mod_two_pow, Nat.testBit_div_two_pow, decide_eq_true hk, Bool.true_and, Nat.add_comm] at htest
  rw [setHold, bit_of_rd (updChan_rd ..)]
  exact htest
theorem setHold_hold (d : Dev) (n mask : Nat) : ((d.setHold n mask).chanOf n).hold = true := by
  rw [setHold, updChan_chanOf]
theorem setHold_chanOf_ne (d : Dev) {n k : Nat} (mask : Nat) (h : n ≠ k) : (d.setHold n mask).chanOf k = d.chanOf k := by
  have hother (x : Dev) (f : Chan → Chan) : (x.updChan n f).chanOf k = x.chanOf k := SMap.get_upd_ne _ _ _ h
  rw [setHold, hother, chanOf_of_chan (chan_of_base (base_setFld ..))]
/-- The hold of channel `n` and what shows of it. -/
def heldAt (d : Dev) (n : Nat) : Chan × Word := (d.chanOf n, d.rd (Reg.chn_SAFE_CTL n))
theorem allHeld_spec (d : Dev) {n mask k : Nat} (hn : n < 96) (hk : k < 8) (hmask : mask.testBit k = true) :
    ((d.allHeld mask).chanOf n).hold = true ∧ (d.allHeld mask).bit (Reg.chn_SAFE_CTL n) (4 + k) = true := by
  have hother (d : Dev) (i j : Nat) (hij : i ≠ j) : (d.setHold i mask).heldAt j = d.heldAt j := by
    rw [heldAt, setHold_chanOf_ne d mask hij, setHold_rd d mask (SAFE_CTL_ne hij), heldAt]
  obtain ⟨d₀, -, -, hafter⟩ := foldl_each (l := List.range 96) (f := fun (d : Dev) (n : Nat) => d.setHold n mask) (P := fun _ => True)
    (q := fun n x => x.heldAt n) (fun _ _ _ _ => trivial) (fun d i _ j _ hij => hother d i j hij) List.nodup_range (d := d) trivial (List.mem_range.2 hn)
  obtain ⟨hchan, hrd⟩ := Prod.mk.inj hafter
  rw [allHeld, hchan, bit_of_rd hrd]
  exact ⟨setHold_hold .., setHold_bit _ _ hk hmask⟩
theorem allHeld_rd (d : Dev) (mask : Nat) {a : Nat} (h : a % 0x4000 ≠ 0x1804) : (d.allHeld mask).rd a = d.rd a :=
  foldl_keeps (fun x => x.rd a) _ (fun (d : Dev) (n : Nat) => d.setHold n mask) (fun d n => setHold_rd d mask (by unfold Reg.chn_SAFE_CTL chnBase; omega)) d

/-- A register of the SEC block. -/
def secReg (a : Nat) : Prop := 0x1400000 ≤ a ∧ a < 0x1500000
section sec
variable {a : Nat} (ha : secReg a)
include ha
theorem rd_signal_sec (d : Dev) (fn vec : Nat) (hfn : vec < 128) : (d.signal fn vec).rd a = d.rd a := by
  have hne : msixPba fn vec ≠ a := by
    unfold msixPba fnKey
    unfold secReg at ha
    omega
  unfold signal
  refine iteInduction (motive := fun x : Dev => x.rd a = d.rd a) (fun _ => rfl) fun _ => ?_
  exact iteInduction (motive := fun x : Dev => x.rd a = d.rd a) (fun _ => rd_setBit_ne _ _ _ hne) fun _ => rfl
theorem rd_notifyFault_sec (d : Dev) (c t : Nat) : (d.notifyFault c t).rd a = d.rd a := by
  unfold notifyFault
  refine iteInduction (motive := fun x : Dev => x.rd a = d.rd a) (fun _ => ?_) fun _ => rfl
  have hvec : d.fld Reg.host_IRQ 8 7 < 128 := Nat.mod_lt _ (by decide)
  rw [rd_signal_sec ha _ _ _ hvec, rd_of_regs (fire_regs _ _ _ _ (by decide))]
/-- A fault that does not escalate writes no register of SEC. -/
theorem rd_fault_sec (d : Dev) (c : Nat) (r : FaultRec) (h : escalates c = false) : (d.fault c r).rd a = d.rd a := by
  have hlt := ha.2
  have hbump : ∀ (d : Dev) b, 0x1700000 ≤ b → (d.bump b).rd a = d.rd a := fun d b hb => rd_bump_ne _ (by omega)
  have hq : ∀ (d : Dev) c q, (d.setFaultQ c q).rd a = d.rd a := fun d c q => rd_setFaultQ_low d c q (by omega)
  have hocc : 0x1700000 ≤ Reg.faultQ_OCC_CNT c := by grind
  have hovf : 0x1700000 ≤ Reg.faultQ_OVF_CNT c := by grind
  have hevents : Reg.fault_EVENTS ≠ a := by
    unfold Reg.fault_EVENTS
    omega
  unfold fault
  simp only [h, Bool.false_and, Bool.false_eq_true, if_false]
  rw [rd_notifyFault_sec ha, rd_raise_ne _ _ hevents]
  split
  · rw [hq, hbump _ _ hocc]
  · split
    · rw [hbump _ Reg.fault_TOTAL (by decide), hq]
      exact hbump _ _ hocc
    · rw [hq, hbump _ _ hovf, hbump _ _ hocc]
end sec

theorem expiryShown_spec (d : Dev) : d.expiryShown.bit Reg.sec_EVENTS 3 = true ∧
    d.expiryShown.rdN Reg.sec_WDT_CNT = min (2^32 - 1) (d.rdN Reg.sec_WDT_CNT + 1) := by
  constructor
  · rw [expiryShown, bit_raise_same _ _ _ _ (by decide) (by decide)]
    exact Bool.or_true _
  · rw [expiryShown, rdN_raise_ne _ _ (by decide), bump, addSat, rdN_wrN_same, Nat.mod_eq_of_lt (by omega)]
theorem watchdogExpiryD_spec {d : Dev} (h : d.standby = false) : (watchdogExpiryD d).bit Reg.sec_EVENTS 3 = true ∧
    (watchdogExpiryD d).rdN Reg.sec_WDT_CNT = min (2^32 - 1) (d.rdN Reg.sec_WDT_CNT + 1) ∧
    (∀ n < 96, ((watchdogExpiryD d).chanOf n).hold = true ∧ (watchdogExpiryD d).bit (Reg.chn_SAFE_CTL n) 8 = true) ∧
    ∀ x ∈ (watchdogExpiryD d).host.inflight, x.dup = false → x.ended ≠ none := by
  obtain ⟨hevent, hcount⟩ := d.expiryShown_spec
  rw [watchdogExpiryD_eq h]
  have hends (x : Dev) (a : Nat) : (x.endCmds (fun _ => true) 0x14).rd a = x.rd a := endCmds_keeps (fun x => x.rd a) (fun _ _ => rfl) x ..
  have hchan (x : Dev) : (x.endCmds (fun _ => true) 0x14).chan = x.chan := endCmds_keeps Dev.chan (fun _ _ => rfl) x ..
  have hsec (x : Dev) (l : List Nat) {a : Nat} (ha : secReg a) (ha' : a % 0x4000 ≠ 0x1804) : (((x.allHeld 16).faultNow 9 0x90 0 0 l).endCmds (fun _ => true) 0x14).rd a = x.rd a := by
    rw [hends, faultNow, rd_fault_sec ha _ _ _ (by decide), allHeld_rd x 16 ha']
  refine ⟨?_, ?_, fun n hn => ⟨?_, ?_⟩, fun x hx => endCmds_all _ _ x hx⟩
  · rw [bit_of_rd (hsec _ _ (by unfold secReg; decide) (by decide)), hevent]
  · rw [rdN, hsec _ _ (by unfold secReg; decide) (by decide), ← rdN, hcount]
  · rw [chanOf_of_chan (hchan _)]
    exact (keepsHolds_faultNow ..).hold n (d.expiryShown.allHeld_spec (mask := 16) (k := 4) hn (by decide) (by decide)).1
  · rw [bit_of_rd (hends ..), bit_of_rd (rd_faultNow_low _ _ _ _ _ _ (by decide) (by unfold Reg.chn_SAFE_CTL chnBase; omega))]
    exact (d.expiryShown.allHeld_spec (mask := 16) (k := 4) hn (by decide) (by decide)).2

theorem clearCause_bit (d : Dev) (n : Nat) : (d.clearCause n 16).bit (Reg.chn_SAFE_CTL n) 8 = false := by
  have hclear (c : Nat) : ((c - (c &&& 16)) % 2^8).testBit 4 = false := by
    have hand : c &&& 16 = (c.testBit 4).toNat * 2^4 := Nat.and_two_pow c 4
    rw [hand, Nat.toNat_testBit, Nat.testBit_eq_decide_div_mod_eq]
    exact decide_eq_false (by omega)
  have htest : ((d.clearCause n 16).fld (Reg.chn_SAFE_CTL n) 4 8).testBit 4 = false := by
    rw [clearCause, fld_setFld_same _ _ _ _ _ (by decide)]
    exact hclear _
  rw [fld, bitsOf, Nat.testBit_mod_two_pow, Nat.testBit_div_two_pow] at htest
  exact htest
/-- What SAFE_CTL of channel `n` holds. -/
def safeCtl (d : Dev) (n : Nat) : Word := d.rd (Reg.chn_SAFE_CTL n)
theorem watchdogServiceD_spec (d : Dev) : (watchdogServiceD d).chan = d.chan ∧ ∀ n < 96, (watchdogServiceD d).bit (Reg.chn_SAFE_CTL n) 8 = false := by
  constructor
  · exact foldl_keeps Dev.chan _ (fun (d : Dev) n => d.clearCause n 16) (fun d n => chan_of_base (base_setFld ..)) d
  · intro n hn
    have hother (d : Dev) (i j : Nat) (hij : i ≠ j) : (d.clearCause i 16).safeCtl j = d.safeCtl j := clearCause_rd d 16 (SAFE_CTL_ne hij)
    obtain ⟨d₀, -, -, hafter⟩ := foldl_each (l := List.range 96) (f := fun (d : Dev) (n : Nat) => d.clearCause n 16) (P := fun _ => True)
      (q := fun n x => x.safeCtl n) (fun _ _ _ _ => trivial) (fun d i _ j _ hij => hother d i j hij) List.nodup_range (d := d) trivial (List.mem_range.2 hn)
    rw [watchdogServiceD, clearCauseAll, bit_of_rd hafter]
    exact clearCause_bit ..
end Dev

/-- Settles O44: resets by what the fresh device holds, the watchdog by what it holds and ends. -/
theorem resetsClearTheBlock : Obligations.ResetsClearTheBlock := by
  intro s d cleared
  have hcleared (powerOn : Bool) (cause : Nat) : cleared (d.afterReset powerOn cause) := by
    have h := d.afterReset_clears powerOn cause
    exact ⟨h.chan, h.launches, h.prog, h.ctx, h.dram, h.sc, h.mailbox, h.faults, d.afterReset_timeValid powerOn cause, h.booted, h.flash, h.hostMem⟩
  refine ⟨fun src hsrc => ?_, fun hawake => ?_, fun v hv => ?_, fun hawake => ?_, ?_⟩
  · have hgo : deviceResetG src s.guard s.dev = ({}, d.afterReset (src.getLsbD 0) src.toNat) := if_neg hsrc
    refine ⟨_, exec_deviceReset src s, rfl, rfl, ?_⟩
    dsimp only
    rw [hgo]
    refine ⟨rfl, hcleared .., d.afterReset_cause _ (src.isLt.trans (by decide)), fun hdevice => ?_⟩
    dsimp only
    rw [hdevice]
    exact d.afterReset_keeps _
  · have hgo : secResetG 0xA5 s.guard s.dev = ({}, d.afterReset false 8) := if_neg (by
      rintro (h | h)
      · exact Bool.noConfusion (hawake.symm.trans h)
      · exact h rfl)
    refine ⟨_, exec_secReset 0xA5 s, rfl, rfl, ?_⟩
    dsimp only
    rw [hgo]
    exact ⟨rfl, hcleared .., d.afterReset_cause _ (by decide)⟩
  · have hgo : secResetG v s.guard s.dev = (s.guard, s.dev) := if_pos (.inr hv)
    refine ⟨_, exec_secReset v s, ⟨?_, rfl, rfl⟩, ?_⟩
    · dsimp only
      rw [hgo]
    · dsimp only
      rw [hgo]
  · exact State.runs_of_onDev (exec_watchdogExpiry s) rfl (Dev.watchdogExpiryD_spec hawake)
  · exact State.runs_of_onDev (exec_watchdogService s) rfl d.watchdogServiceD_spec
end Sys2Proof.Machine

/-! PROOFS. The image in the flash through a start (R298, R307): what it holds is read from the flash alone, and sections whose digests are good are applied
in turn. -/
namespace Sys2Proof.Machine

namespace Dev

/-! ## What the image holds depends on the flash alone -/

section image
variable {d d' : Dev} (hflash : d'.flash = d.flash) (hsize : d'.flashSize = d.flashSize)
include hflash

theorem flashBytes_of_flash : d'.flashBytes = d.flashBytes := by
  funext a k
  rw [flashBytes, hflash, flashBytes]
theorem dirFields_of_flash : d'.dirFields = d.dirFields := by
  have hseq (copy : Nat) : d'.dirSeq copy = d.dirSeq copy := by rw [dirSeq, flashBytes_of_flash hflash, dirSeq]
  have hcopy : d'.dirCopy = d.dirCopy := by rw [dirCopy, hseq, hseq, dirCopy]
  rw [dirFields, hcopy, flashBytes_of_flash hflash, dirFields]

omit hflash in
include hsize in
theorem slotSize_of_flash : d'.slotSize = d.slotSize := by rw [slotSize, flashS, hsize, slotSize, flashS]
include hsize

theorem img_of_flash : d'.img = d.img := by
  funext slot o k
  rw [img, flashBytes_of_flash hflash, slotAt, slotSize_of_flash hsize, img, slotAt]
theorem imgSections_of_flash (slot : Nat) : d'.imgSections slot = d.imgSections slot := by rw [imgSections, img_of_flash hflash hsize, imgSections]
theorem sectionOf_of_flash (slot typ : Nat) : d'.sectionOf slot typ = d.sectionOf slot typ := by
  rw [sectionOf, imgSections_of_flash hflash hsize, sectionOf]
theorem sectionBytes_of_flash (slot : Nat) (x : Section) : d'.sectionBytes slot x = d.sectionBytes slot x := by
  rw [sectionBytes, img_of_flash hflash hsize, sectionBytes]
theorem sectionShape_of_flash (slot : Nat) (x : Section) : d'.sectionShape slot x = d.sectionShape slot x := by
  rw [sectionShape, img_of_flash hflash hsize, sectionShape]
theorem sectionOk_of_flash (slot : Nat) (x : Section) : d'.sectionOk slot x = d.sectionOk slot x := by
  rw [sectionOk, sectionBytes_of_flash hflash hsize, sectionShape_of_flash hflash hsize, sectionOk]
theorem headerOk_of_flash (slot : Nat) : d'.headerOk slot = d.headerOk slot := by
  rw [headerOk, img_of_flash hflash hsize, imgSections_of_flash hflash hsize, slotSize_of_flash hsize, headerOk]
theorem imageSigned_of_flash (f : Fuses) (slot : Nat) : imageSigned f d' slot = imageSigned f d slot := by
  rw [imageSigned, manifest, img_of_flash hflash hsize, imgSections_of_flash hflash hsize, imageSigned, manifest]
theorem firmwaresOk_of_flash (f : Fuses) (slot : Nat) : firmwaresOk f d' slot = firmwaresOk f d slot := by
  rw [firmwaresOk, imgSections_of_flash hflash hsize, firmwaresOk]
  exact congrArg (List.all _) (funext fun x => congrArg (firmwareOk f) (sectionBytes_of_flash hflash hsize slot x))
theorem imageError_of_flash (f : Fuses) (slot : Nat) (all states : Bool) : imageError f d' slot all states = imageError f d slot all states := by
  have hok : d'.sectionOk slot = d.sectionOk slot := funext (sectionOk_of_flash hflash hsize slot)
  have hshape : d'.sectionShape slot = d.sectionShape slot := funext (sectionShape_of_flash hflash hsize slot)
  unfold imageError imgSvn
  rw [hok, hshape, img_of_flash hflash hsize, imgSections_of_flash hflash hsize, headerOk_of_flash hflash hsize, imageSigned_of_flash hflash hsize,
    firmwaresOk_of_flash hflash hsize]
end image

/-- A valid image has one LIMITS section (R301). -/
theorem oneLimits {f : Fuses} {d : Dev} {slot : Nat} {all states : Bool} (h : imageError f d slot all states = 0) :
    ((d.imgSections slot).filter (fun x => x.typ == 3)).length = 1 := by
  have hheader : d.headerOk slot = true := by
    by_contra hbad
    rw [imageError, if_pos (.inl (by rw [Bool.eq_false_of_not_eq_true hbad]; rfl))] at h
    exact absurd h (by decide)
  unfold headerOk at hheader
  simp only [Bool.and_eq_true, beq_iff_eq] at hheader
  exact hheader.1.1.2

end Dev

/-! ## Sections are applied in turn (R307) -/

namespace Parts

/-- What applying each section of a type keeps, all of them keep, while their digests are good. -/
theorem sections_induct {slot typ : Nat} {act : Nat → Section → Parts → Parts} {P : Parts → Prop} {x : Parts} (hP : P x)
    (hbooted : ∀ y, P y → y.2.2.sec.booted = true) (hok : ∀ y, P y → ∀ s ∈ x.2.2.imgSections slot, y.2.2.sectionOk slot s = true)
    (hact : ∀ y i, P y → ∀ s ∈ x.2.2.imgSections slot, s.typ = typ → P (act i s y)) : P (x.sections slot typ act) := by
  unfold Parts.sections
  refine List.foldlRecOn (motive := P) _ _ hP fun y hy p hp => ?_
  obtain ⟨hzip, htyp⟩ := List.mem_filter.1 hp
  have hmem : p.1 ∈ x.2.2.imgSections slot := (List.mem_zipIdx' (x := p.1) (i := p.2) hzip).2 ▸ List.getElem_mem _
  rw [hbooted y hy, hok y hy p.1 hmem, Bool.not_true, if_neg Bool.false_ne_true, if_neg Bool.false_ne_true]
  exact hact y p.2 hy p.1 hmem (beq_iff_eq.1 htyp)

/-- A section that is the only one of its type is applied once. -/
theorem sections_one {slot typ : Nat} {act : Nat → Section → Parts → Parts} {x : Parts} (hbooted : x.2.2.sec.booted = true)
    (hok : ∀ s ∈ x.2.2.imgSections slot, x.2.2.sectionOk slot s = true) (hone : ((x.2.2.imgSections slot).filter (fun s => s.typ == typ)).length = 1) :
    ∃ s i, x.2.2.sectionOf slot typ = some s ∧ x.sections slot typ act = act i s x := by
  generalize hsecs : ((x.2.2.imgSections slot).zipIdx).filter (fun p => p.1.typ == typ) = secs
  have hmap : secs.map Prod.fst = (x.2.2.imgSections slot).filter (fun s => s.typ == typ) := by
    conv_rhs => rw [← List.zipIdx_map_fst 0 (x.2.2.imgSections slot), List.filter_map]
    rw [← hsecs]
    rfl
  obtain ⟨p, rfl⟩ := List.length_eq_one_iff.1 (by rw [← List.length_map, hmap]; exact hone : secs.length = 1)
  have hfind : x.2.2.sectionOf slot typ = some p.1 := by
    rw [Dev.sectionOf, ← List.head?_filter, ← hmap]
    rfl
  have hmem : p.1 ∈ x.2.2.imgSections slot := List.mem_of_find?_eq_some hfind
  refine ⟨p.1, p.2, hfind, ?_⟩
  unfold Parts.sections
  rw [hsecs, List.foldl_cons, List.foldl_nil, hbooted, hok p.1 hmem, Bool.not_true, if_neg Bool.false_ne_true, if_neg Bool.false_ne_true]

end Parts
end Sys2Proof.Machine

/-! PROOFS. What the first sections of an image leave as it is: the flash, the boot that is under way, the slot in use and the phase of the start (R298, R312). -/
namespace Sys2Proof.Machine
namespace Dev

/-- The flash is the same, the device is booted as it was, and the slot in use and FALLBACK stand. -/
structure keepsImage (d d' : Dev) : Prop where
  flash : d'.flash = d.flash
  size : d'.flashSize = d.flashSize
  booted : d'.sec.booted = d.sec.booted
  slot : d'.bit Reg.sec_STATUS 3 = d.bit Reg.sec_STATUS 3
  fell : d'.bit Reg.sec_STATUS 4 = d.bit Reg.sec_STATUS 4

/-- The phase of the start stands as well. -/
structure keepsStart (d d' : Dev) : Prop extends keepsImage d d' where
  phase : d'.startPhase = d.startPhase

section keepsStart
variable {d d' d'' : Dev}

theorem keepsImage_trans (h : keepsImage d d') (h' : keepsImage d' d'') : keepsImage d d'' :=
  ⟨h'.flash.trans h.flash, h'.size.trans h.size, h'.booted.trans h.booted, h'.slot.trans h.slot, h'.fell.trans h.fell⟩
theorem keepsImage_refl (d : Dev) : keepsImage d d := ⟨rfl, rfl, rfl, rfl, rfl⟩
theorem keepsStart_trans (h : keepsStart d d') (h' : keepsStart d' d'') : keepsStart d d'' :=
  ⟨keepsImage_trans h.tokeepsImage h'.tokeepsImage, h'.phase.trans h.phase⟩
theorem keepsStart_refl (d : Dev) : keepsStart d d := ⟨keepsImage_refl d, rfl⟩
theorem keepsStart_ite {p : Prop} [Decidable p] (h : p → keepsStart d d') (h' : ¬ p → keepsStart d d'') : keepsStart d (if p then d' else d'') :=
  iteInduction (motive := fun x => keepsStart d x) h h'
theorem keepsStart_foldl {α : Type} (d : Dev) (l : List α) {f : Dev → α → Dev} (h : ∀ x ∈ l, ∀ d, keepsStart d (f d x)) : keepsStart d (l.foldl f d) :=
  foldl_invariant (P := fun x => keepsStart d x) (fun x i hi hx => keepsStart_trans hx (h i hi x)) (keepsStart_refl d)

/-- A change of parts that leaves the registers alone. -/
theorem keepsStart_of_parts (hflash : d'.flash = d.flash) (hsize : d'.flashSize = d.flashSize) (hbooted : d'.sec.booted = d.sec.booted)
    (hregs : d'.regs = d.regs) : keepsStart d d' where
  flash := hflash
  size := hsize
  booted := hbooted
  slot := bit_of_rd (rd_of_regs hregs _) _
  fell := bit_of_rd (rd_of_regs hregs _) _
  phase := fld_of_rd (rd_of_regs hregs _) ..
/-- A change outside of the two STATUS registers that show the start. -/
theorem keepsStart_of_rd (hbase : d'.base = d.base) (hglob : d'.rd Reg.glob_STATUS = d.rd Reg.glob_STATUS) (hsec : d'.rd Reg.sec_STATUS = d.rd Reg.sec_STATUS) :
    keepsStart d d' where
  flash := flash_of_base hbase
  size := flashSize_of_base hbase
  booted := by rw [sec_of_base hbase]
  slot := bit_of_rd hsec _
  fell := bit_of_rd hsec _
  phase := fld_of_rd hglob ..

section writes
variable {a : Nat} (h : keepsStart d d') (hglob : a ≠ Reg.glob_STATUS) (hsec : a ≠ Reg.sec_STATUS)
include h hglob hsec
theorem keepsStart_wrN (n : Nat) : keepsStart d (d'.wrN a n) :=
  keepsStart_trans h (keepsStart_of_rd (base_wrN ..) (rd_wrN_ne _ _ hglob) (rd_wrN_ne _ _ hsec))
theorem keepsStart_setBit (i : Nat) (b : Bool) : keepsStart d (d'.setBit a i b) :=
  keepsStart_trans h (keepsStart_of_rd (base_setBit ..) (rd_setBit_ne _ _ _ hglob) (rd_setBit_ne _ _ _ hsec))
theorem keepsStart_setFld (lo w v : Nat) : keepsStart d (d'.setFld a lo w v) :=
  keepsStart_trans h (keepsStart_of_rd (base_setFld ..) (rd_setFld_ne _ _ _ _ hglob) (rd_setFld_ne _ _ _ _ hsec))
theorem keepsStart_raise (m : Nat) : keepsStart d (d'.raise a m) := by unfold raise; exact keepsStart_wrN h hglob hsec _
theorem keepsStart_bump : keepsStart d (d'.bump a) := by unfold bump addSat; exact keepsStart_wrN h hglob hsec _
end writes
variable (d)

theorem keepsStart_globBit {i : Nat} (hi : i < 16) (b : Bool) : keepsStart d (d.setBit Reg.glob_STATUS i b) where
  flash := flash_of_base (base_setBit ..)
  size := flashSize_of_base (base_setBit ..)
  booted := by rw [sec_of_base (base_setBit ..)]
  slot := bit_setBit_ne _ _ _ _ (by decide)
  fell := bit_setBit_ne _ _ _ _ (by decide)
  phase := fld_setBit_other _ _ _ _ _ _ (by omega) (by omega)
theorem keepsStart_secBit {i : Nat} (hi : i < 32) (h3 : i ≠ 3) (h4 : i ≠ 4) (b : Bool) : keepsStart d (d.setBit Reg.sec_STATUS i b) where
  flash := flash_of_base (base_setBit ..)
  size := flashSize_of_base (base_setBit ..)
  booted := by rw [sec_of_base (base_setBit ..)]
  slot := bit_setBit_other _ _ _ _ _ hi h3
  fell := bit_setBit_other _ _ _ _ _ hi h4
  phase := fld_of_rd (rd_setBit_ne _ _ _ (by decide)) ..

theorem setPhase_keepsImage (n : Nat) : keepsImage d (d.setPhase n) := by
  unfold setPhase
  exact { flash := flash_of_base (base_setFld ..)
          size := flashSize_of_base (base_setFld ..)
          booted := by rw [sec_of_base (base_setFld ..)]
          slot := bit_setFld_ne _ _ _ _ _ (by decide)
          fell := bit_setFld_ne _ _ _ _ _ (by decide) }
theorem setPhase_startPhase (n : Nat) : (d.setPhase n).startPhase = n % 2^4 := fld_setFld_same _ _ _ _ _ (by decide)

/-! ## Records (R307) -/

theorem keepsStart_setLimited : keepsStart d d.setLimited :=
  keepsStart_trans (keepsStart_globBit d (by decide) _) (keepsStart_secBit _ (by decide) (by decide) (by decide) _)
theorem keepsStart_imgBad : keepsStart d { d with sec := { d.sec with imgBad := true } } := keepsStart_of_parts rfl rfl rfl rfl
theorem keepsStart_refuseRecord (s r : Nat) : keepsStart d (d.refuseRecord s r) := by
  unfold refuseRecord
  extract_lets d₁ d₂
  have h₁ : keepsStart d d₁ := keepsStart_bump (keepsStart_raise (keepsStart_refl d) (by decide) (by decide) _) (by decide) (by decide)
  have h₂ : keepsStart d d₂ := keepsStart_ite (fun _ => h₁) fun _ => keepsStart_wrN h₁ (by decide) (by decide) _
  exact keepsStart_trans (keepsStart_trans h₂ (keepsStart_imgBad d₂)) (keepsStart_setLimited _)
/-- A record changes what its writer changes, or is refused. -/
theorem keepsStart_applyRecords (s n : Nat) {put : Dev → Nat → Option Dev} (hput : ∀ d r x, put d r = some x → keepsStart d x) :
    keepsStart d (d.applyRecords s n put) := by
  refine keepsStart_foldl d _ fun r _ d => ?_
  cases h : put d r with
  | none => exact keepsStart_refuseRecord ..
  | some x => exact hput _ _ _ h

/-! ## LIMITS and MEMMAP -/

theorem keepsStart_setEngOwner {e : Nat} (he : e < 64) (o : Option Nat) (spare : Bool) : keepsStart d (d.setEngOwner e o spare) := by
  have hglob : Reg.eng_STATUS e ≠ Reg.glob_STATUS := by grind
  have hsec : Reg.eng_STATUS e ≠ Reg.sec_STATUS := by grind
  unfold setEngOwner
  extract_lets d₁ d₂ d₃ a
  have h₁ : keepsStart d d₁ := keepsStart_of_parts rfl rfl rfl rfl
  have h₃ : keepsStart d d₃ := keepsStart_setBit (keepsStart_setBit (keepsStart_setFld h₁ hglob hsec ..) hglob hsec ..) hglob hsec ..
  exact keepsStart_setBit h₃ (by grind) (by grind) ..
theorem mem_spareEngines_lt {e : Nat} (h : e ∈ d.spareEngines) : e < 64 := by
  unfold spareEngines at h
  exact List.mem_range.1 (List.mem_filter.1 h).1
theorem keepsStart_reserveEngines {p : Nat} {x : Dev} (h : d.reserveEngines p = some x) : keepsStart d x := by
  unfold reserveEngines at h
  dsimp only at h
  split at h
  · exact absurd h (by simp)
  · rw [← Option.some.inj h]
    exact keepsStart_foldl d _ fun e he d => keepsStart_setEngOwner d (mem_spareEngines_lt _ (List.mem_of_mem_take he)) _ _
theorem keepsStart_tableReserves : keepsStart d d.tableReserves := by
  unfold tableReserves
  refine keepsStart_ite (fun _ => keepsStart_trans (keepsStart_foldl d _ fun e he d => ?_) (keepsStart_foldl _ _ fun p _ d => ?_)) fun _ => keepsStart_refl d
  · exact keepsStart_ite (fun _ => keepsStart_refl d) fun _ => keepsStart_setEngOwner d (List.mem_range.1 he) _ _
  · refine keepsStart_ite (fun _ => ?_) fun _ => keepsStart_refl d
    cases h : d.reserveEngines p with
    | none => exact keepsStart_refl d
    | some x => exact keepsStart_reserveEngines d h
theorem keepsStart_applyLimits (b : List Byte) : keepsStart d (d.applyLimits b) := by
  unfold applyLimits
  extract_lets ptab src d₁
  have h₁ : keepsStart d d₁ := keepsStart_of_parts rfl rfl rfl rfl
  exact keepsStart_trans h₁ (keepsStart_tableReserves d₁)

theorem keepsStart_setUnusable : keepsStart d d.setUnusable := keepsStart_trans (keepsStart_setBit (keepsStart_refl d) (by decide) (by decide) ..) (keepsStart_setLimited _)
theorem keepsStart_setMap (m : MemMap) : keepsStart d (d.setMap m) := by
  unfold setMap
  have hmap : keepsStart d { d with mm := m } := keepsStart_of_parts rfl rfl rfl rfl
  exact keepsStart_wrN (keepsStart_wrN hmap (by decide) (by decide) _) (by decide) (by decide) _
theorem keepsStart_applyMap (b : Option (List Byte)) : keepsStart d (d.applyMap b) := by
  unfold applyMap
  extract_lets gib d₁ d₂
  have h₁ : keepsStart d d₁ := keepsStart_wrN (keepsStart_refl d) (by decide) (by decide) _
  have h₂ : keepsStart d d₂ := keepsStart_setBit h₁ (by decide) (by decide) ..
  refine keepsStart_ite (fun _ => keepsStart_trans h₁ (keepsStart_setUnusable _)) fun _ => keepsStart_trans h₂ ?_
  exact keepsStart_ite (fun _ => keepsStart_setMap ..) fun _ => keepsStart_setUnusable _
/-- Every DMC trains. -/
theorem keepsStart_training : keepsStart d ((List.range 8).foldl (fun (d : Dev) (m : Nat) => d.setFld (Reg.dram_STATUS m) 0 3 3) d) :=
  keepsStart_foldl d _ fun m hm d => by
    have := List.mem_range.1 hm
    exact keepsStart_setFld (keepsStart_refl d) (by grind) (by grind) _ _ _

/-- Without a MEMMAP the map is the default, and DRAM trains where it can be used. -/
def mapBegun (slot : Nat) (d : Dev) : Dev :=
  let d := if (d.sectionOf slot 4).isNone then d.applyMap none else d
  let d := if d.bit Reg.dramG_STATUS 1 then d else (List.range 8).foldl (fun (d : Dev) (m : Nat) => d.setFld (Reg.dram_STATUS m) 0 3 3) d
  d.setPhase 3
theorem keepsImage_mapBegun (slot : Nat) : keepsImage d (d.mapBegun slot) := by
  unfold mapBegun
  extract_lets d₁ d₂
  have h₁ : keepsStart d d₁ := keepsStart_ite (fun _ => keepsStart_applyMap ..) fun _ => keepsStart_refl d
  have h₂ : keepsStart d d₂ := keepsStart_ite (fun _ => h₁) fun _ => keepsStart_trans h₁ (keepsStart_training d₁)
  exact keepsImage_trans h₂.tokeepsImage (setPhase_keepsImage d₂ 3)

/-! ## Microcode, calibration, envelopes and programs -/

theorem keepsStart_loadEngines (code : List Byte) : keepsStart d (d.loadEngines code) :=
  keepsStart_foldl d _ fun _ _ _ => keepsStart_of_parts rfl rfl rfl rfl
theorem keepsStart_showSkew (n : Nat) : keepsStart d (d.showSkew n) :=
  keepsStart_wrN (keepsStart_refl d) (by unfold Reg.chn_SKEW_CAL chnBase Reg.glob_STATUS; omega) (by unfold Reg.chn_SKEW_CAL chnBase Reg.sec_STATUS; omega) _
theorem keepsStart_showTile (t : Nat) : keepsStart d (d.showTile t) := by
  have hs : Reg.calTile_STATUS t ≠ Reg.glob_STATUS ∧ Reg.calTile_STATUS t ≠ Reg.sec_STATUS := ⟨by grind, by grind⟩
  unfold showTile
  extract_lets out was d₁
  have h₁ : keepsStart d d₁ := keepsStart_setBit (keepsStart_setBit (keepsStart_refl d) hs.1 hs.2 ..) hs.1 hs.2 ..
  exact keepsStart_ite (fun _ => keepsStart_raise h₁ (by grind) (by grind) _) fun _ => h₁
theorem keepsStart_setWork (n j : Nat) (w : Int) : keepsStart d (d.setWork n j w) := keepsStart_of_parts rfl rfl rfl rfl
theorem keepsStart_loadTrims (n : Nat) :
    keepsStart d (((List.range 74).foldl (fun (d : Dev) (j : Nat) => if d.isMeasured n j then d else d.setWork n j (d.trimTarget n j)) d).showSkew n) :=
  keepsStart_trans (keepsStart_foldl d _ fun _ _ d => keepsStart_ite (fun _ => keepsStart_refl d) fun _ => keepsStart_setWork ..) (keepsStart_showSkew _ n)
theorem keepsStart_loadSet (t : Nat) (set : List Byte) (src : Nat) : keepsStart d (d.loadSet t set src) := by
  have hs : Reg.calTile_STATUS t ≠ Reg.glob_STATUS ∧ Reg.calTile_STATUS t ≠ Reg.sec_STATUS := ⟨by grind, by grind⟩
  unfold loadSet
  extract_lets first d₁ d₂ d₃ d₄
  have h₁ : keepsStart d d₁ := keepsStart_of_parts rfl rfl rfl rfl
  have h₂ : keepsStart d d₂ := keepsStart_setFld (keepsStart_setFld h₁ hs.1 hs.2 ..) hs.1 hs.2 ..
  have h₃ : keepsStart d d₃ := keepsStart_trans h₂ (keepsStart_foldl d₂ _ fun n _ d => keepsStart_setBit (keepsStart_refl d) (by grind) (by grind) ..)
  have h₄ : keepsStart d d₄ := keepsStart_ite (fun _ => keepsStart_trans h₃ (keepsStart_foldl d₃ _ fun n _ d => keepsStart_loadTrims d n)) fun _ => h₃
  exact keepsStart_trans h₄ (keepsStart_showTile d₄ t)
theorem keepsStart_showSlots : keepsStart d d.showSlots := by
  unfold showSlots
  exact keepsStart_wrN (keepsStart_setBit (keepsStart_setBit (keepsStart_setBit (keepsStart_refl d) (by decide) (by decide) ..) (by decide) (by decide) ..)
    (by decide) (by decide) ..) (by decide) (by decide) _
theorem keepsStart_calStart (serial slot : Nat) : keepsStart d (d.calStart serial slot) := by
  unfold calStart
  extract_lets use good area fromImage tile d₁ d₂
  have htile (e : Dev) (t : Nat) : keepsStart e (tile e t) := by
    dsimp only [tile]
    split
    · exact keepsStart_loadSet ..
    · have hraise : keepsStart e (if use.any (fun s => d.calSlotHas s t) then e.raise Reg.cal_EVENTS 4 else e) :=
        keepsStart_ite (fun _ => keepsStart_raise (keepsStart_refl e) (by decide) (by decide) _) fun _ => keepsStart_refl e
      refine keepsStart_trans hraise ?_
      generalize (if use.any (fun s => d.calSlotHas s t) then e.raise Reg.cal_EVENTS 4 else e) = e'
      split
      · exact keepsStart_loadSet ..
      · split
        · exact keepsStart_loadSet ..
        · exact keepsStart_loadSet ..
  have h₁ : keepsStart d d₁ := keepsStart_foldl d _ fun t _ e => htile e t
  have h₂ : keepsStart d d₂ := keepsStart_ite (fun _ => keepsStart_raise h₁ (by decide) (by decide) _) fun _ => h₁
  exact keepsStart_trans h₂ (keepsStart_showSlots d₂)
theorem keepsStart_applyEnv (s tiles : Nat) (b : List Byte) : keepsStart d (d.applyEnv s tiles b) := by
  unfold applyEnv
  refine keepsStart_ite (fun _ => keepsStart_refuseRecord ..) fun _ => ?_
  refine keepsStart_trans (keepsStart_applyRecords d _ _ fun d r x hx => ?_) (keepsStart_foldl _ _ fun _ _ _ => keepsStart_of_parts rfl rfl rfl rfl)
  dsimp only at hx
  split at hx
  · rw [← Option.some.inj hx]
    exact keepsStart_foldl d _ fun _ _ _ => keepsStart_of_parts rfl rfl rfl rfl
  · exact absurd hx (by simp)
theorem keepsStart_applyProg (s base : Nat) (b : List Byte) : keepsStart d (d.applyProg s base b) := by
  unfold applyProg
  refine keepsStart_applyRecords d _ _ fun d r x hx => ?_
  dsimp only at hx
  split at hx
  · rw [← Option.some.inj hx]
    exact keepsStart_of_parts rfl rfl rfl rfl
  · exact absurd hx (by simp)

/-! ## The slot boots (R298, R312) -/

theorem bootSlotOf_flash (slot : Nat) : (d.bootSlotOf slot).flash = d.flash ∧ (d.bootSlotOf slot).flashSize = d.flashSize ∧
    (d.bootSlotOf slot).sec.booted = d.sec.booted := by
  unfold bootSlotOf
  refine ⟨?_, ?_, ?_⟩ <;> simp [setPhase]
theorem bootSlotOf_slot (slot : Nat) : (d.bootSlotOf slot).bit Reg.sec_STATUS 3 = (slot == 1) ∧ (d.bootSlotOf slot).bit Reg.sec_STATUS 4 = d.bit Reg.sec_STATUS 4 := by
  unfold bootSlotOf setPhase
  constructor
  · rw [bit_setFld_ne _ _ _ _ _ (by decide), bit_wrN_ne _ _ _ (by decide), bit_wrN_ne _ _ _ (by decide), bit_setBit_other _ _ _ _ _ (by decide) (by decide),
      bit_setBit_other _ _ _ _ _ (by decide) (by decide), bit_setBit_other _ _ _ _ _ (by decide) (by decide), bit_setBit_same _ _ _ _ (by decide)]
  · rw [bit_setFld_ne _ _ _ _ _ (by decide), bit_wrN_ne _ _ _ (by decide), bit_wrN_ne _ _ _ (by decide), bit_setBit_other _ _ _ _ _ (by decide) (by decide),
      bit_setBit_other _ _ _ _ _ (by decide) (by decide), bit_setBit_other _ _ _ _ _ (by decide) (by decide), bit_setBit_other _ _ _ _ _ (by decide) (by decide)]
    exact bit_of_rd (rd_of_regs rfl _) _
theorem fellBack_spec (failing code : Nat) : (d.fellBack failing code).flash = d.flash ∧ (d.fellBack failing code).flashSize = d.flashSize ∧
    (d.fellBack failing code).sec.booted = d.sec.booted ∧ (d.fellBack failing code).bit Reg.sec_STATUS 4 = true := by
  have hbase : (d.fellBack failing code).base = d.base := (base_fault _ _ _ rfl).trans ((base_setBit ..).trans (base_setBit ..))
  refine ⟨flash_of_base hbase, flashSize_of_base hbase, by rw [sec_of_base hbase], ?_⟩
  unfold fellBack
  rw [bit_of_rd (rd_fault_sec (by unfold secReg; decide) _ _ _ rfl), bit_setBit_same _ _ _ _ (by decide)]

end keepsStart
end Dev
end Sys2Proof.Machine

/-! PROOFS. The start from the image: the slot that boots, and its first sections (R298, R312). -/
namespace Sys2Proof.Machine

theorem exec_boot (s : State) : exec .boot s = s.onTrust bootT := rfl
theorem State.leads_of_onTrust {s : State} {i : Instr} {f : Fuses → Guard → Dev → Parts} (hexec : exec i s = s.onTrust f) {post : State → Prop}
    (hpost : post { s with fuses := (f s.fuses s.guard s.dev).1, guard := (f s.fuses s.guard s.dev).2.1, dev := (f s.fuses s.guard s.dev).2.2 }) : s.leads i post :=
  ⟨_, hexec, rfl, hpost⟩

open Dev

namespace Parts

/-- The fuses and the guard are given, and the device stands to a former one in a relation. -/
structure carries (R : Dev → Dev → Prop) (f : Fuses) (g : Guard) (d : Dev) (y : Parts) : Prop where
  fuses : y.1 = f
  guard : y.2.1 = g
  dev : R d y.2.2

section carries
variable {R : Dev → Dev → Prop} {f : Fuses} {g : Guard} {d : Dev} {slot typ : Nat} {x : Parts}

theorem carries_onDev {k : Dev → Dev} (hx : carries R f g d x) (hk : R d x.2.2 → R d (k x.2.2)) : carries R f g d (x.onDev k) := ⟨hx.fuses, hx.guard, hk hx.dev⟩
theorem carries_go {k : Dev → Dev} (hx : carries R f g d x) (hk : R d x.2.2 → R d (k x.2.2)) : carries R f g d (if x.2.2.sec.booted then x.onDev k else x) :=
  iteInduction (motive := fun y => carries R f g d y) (fun _ => carries_onDev hx hk) fun _ => hx

variable (hR : ∀ y, R d y → y.flash = d.flash ∧ y.flashSize = d.flashSize ∧ y.sec.booted = d.sec.booted) (hbooted : d.sec.booted = true)
  (hok : ∀ s ∈ d.imgSections slot, d.sectionOk slot s = true) (hx : carries R f g d x)
include hR hbooted hok hx
theorem sections_carries {act : Nat → Section → Parts → Parts}
    (hact : ∀ y i, carries R f g d y → ∀ s ∈ d.imgSections slot, s.typ = typ → carries R f g d (act i s y)) : carries R f g d (x.sections slot typ act) := by
  obtain ⟨hflash, hsize, -⟩ := hR _ hx.dev
  refine sections_induct hx (fun y hy => (hR _ hy.dev).2.2.trans hbooted) (fun y hy s hs => ?_) fun y i hy s hs => hact y i hy s ?_
  · obtain ⟨hflash', hsize', -⟩ := hR _ hy.dev
    rw [sectionOk_of_flash hflash' hsize']
    exact hok s (imgSections_of_flash hflash hsize slot ▸ hs)
  · exact imgSections_of_flash hflash hsize slot ▸ hs
theorem sections_carries_onDev {k : Nat → Section → Dev → Dev} (hk : ∀ i s y, R d y → R d (k i s y)) :
    carries R f g d (x.sections slot typ (fun i s x => x.onDev (k i s))) :=
  sections_carries hR hbooted hok hx fun _ i hy s _ _ => carries_onDev hy (hk i s _)
end carries
end Parts

section first
variable {f : Fuses} {g : Guard} {d : Dev} {slot : Nat}
open Parts

theorem keepsImage_fields {y : Dev} (h : keepsImage d y) : y.flash = d.flash ∧ y.flashSize = d.flashSize ∧ y.sec.booted = d.sec.booted := ⟨h.flash, h.size, h.booted⟩

/-- LIMITS is applied once, and closes the seals. -/
theorem limits_carries (hbooted : d.sec.booted = true) (hok : ∀ s ∈ d.imgSections slot, d.sectionOk slot s = true)
    (hone : ((d.imgSections slot).filter (fun s => s.typ == 3)).length = 1) : ∃ s, d.sectionOf slot 3 = some s ∧
      carries keepsImage f (limitsGuard f (d.sectionBytes slot s)) d (Parts.sections (f, g, d) slot 3 (Parts.limits slot)) := by
  obtain ⟨s, i, hs, happly⟩ := sections_one (act := Parts.limits slot) (x := (f, g, d)) hbooted hok hone
  refine ⟨s, hs, ?_⟩
  rw [happly]
  exact ⟨rfl, rfl, keepsImage_trans (keepsStart_applyLimits d _).tokeepsImage (setPhase_keepsImage _ 2)⟩

/-- Where every section is good the start goes on to the training of DRAM, with the guard that LIMITS sets. -/
theorem firstSections_of_whole (hbooted : d.sec.booted = true) (hok : ∀ s ∈ d.imgSections slot, d.sectionOk slot s = true ∧ s.typ ≠ 5)
    (hone : ((d.imgSections slot).filter (fun s => s.typ == 3)).length = 1) : ∃ s, d.sectionOf slot 3 = some s ∧
      carries keepsImage f (limitsGuard f (d.sectionBytes slot s)) d (Parts.firstSections (f, g, d) slot) ∧
      (Parts.firstSections (f, g, d) slot).2.2.startPhase = 4 := by
  have hgood := fun s hs => (hok s hs).1
  obtain ⟨s, hs, h₁⟩ := limits_carries (f := f) (g := g) hbooted hgood hone
  refine ⟨s, hs, ?_⟩
  unfold Parts.firstSections
  extract_lets idle go x x₁ x₂ x₃ x₄ x₅ x₆ x₇ x₈
  generalize limitsGuard f (d.sectionBytes slot s) = g' at h₁ ⊢
  have hR : ∀ y, keepsImage d y → y.flash = d.flash ∧ y.flashSize = d.flashSize ∧ y.sec.booted = d.sec.booted := fun y => keepsImage_fields
  have hk {d' d'' : Dev} (h : keepsImage d d') (h' : keepsStart d' d'') : keepsImage d d'' := keepsImage_trans h h'.tokeepsImage
  have hx₁ : carries keepsImage f g' d x₁ := sections_carries_onDev hR hbooted hgood h₁ fun _ _ y hy => hk hy (keepsStart_applyMap y _)
  have hx₂ : carries keepsImage f g' d x₂ := carries_go (k := mapBegun slot) hx₁ fun hy => keepsImage_trans hy (keepsImage_mapBegun ..)
  have hx₃ : carries keepsImage f g' d x₃ := sections_carries_onDev hR hbooted hgood hx₂ fun _ _ y hy => hk hy (keepsStart_loadEngines y _)
  have hx₄ : carries keepsImage f g' d x₄ := sections_carries hR hbooted hgood hx₃ fun _ _ _ s hs htyp => absurd htyp (hok s hs).2
  have hx₅ : carries keepsImage f g' d x₅ := carries_go (k := fun d => d.setPhase 4) hx₄ fun hy => keepsImage_trans hy (setPhase_keepsImage _ 4)
  have hphase : x₅.2.2.startPhase = 4 := by
    dsimp only [x₅, go]
    rw [if_pos ((hR _ hx₄.dev).2.2.trans hbooted)]
    exact setPhase_startPhase _ 4
  clear_value x₅
  have hbooted' : x₅.2.2.sec.booted = true := hx₅.dev.booted.trans hbooted
  have hgood' : ∀ s ∈ x₅.2.2.imgSections slot, x₅.2.2.sectionOk slot s = true := fun s hs => by
    rw [sectionOk_of_flash hx₅.dev.flash hx₅.dev.size]
    exact hgood s (imgSections_of_flash hx₅.dev.flash hx₅.dev.size slot ▸ hs)
  have hS : ∀ y, keepsStart x₅.2.2 y → y.flash = x₅.2.2.flash ∧ y.flashSize = x₅.2.2.flashSize ∧ y.sec.booted = x₅.2.2.sec.booted :=
    fun y hy => keepsImage_fields hy.tokeepsImage
  have hx₆ : carries keepsStart f g' x₅.2.2 x₆ :=
    sections_carries hS hbooted' hgood' ⟨hx₅.fuses, hx₅.guard, keepsStart_refl _⟩ fun _ _ hy _ _ _ => hy
  have hx₇ : carries keepsStart f g' x₅.2.2 x₇ := carries_go (k := fun d => d.calStart x₆.1.serial slot) hx₆ fun hy => keepsStart_trans hy (keepsStart_calStart ..)
  have hx₈ : carries keepsStart f g' x₅.2.2 x₈ := sections_carries_onDev hS hbooted' hgood' hx₇ fun _ _ _ hy => keepsStart_trans hy (keepsStart_applyEnv ..)
  have hlast := sections_carries_onDev (typ := 10) (k := fun i s (d : Dev) => d.applyProg i s.param (d.sectionBytes slot s)) hS hbooted' hgood' hx₈
    fun _ _ _ hy => keepsStart_trans hy (keepsStart_applyProg ..)
  exact ⟨⟨hlast.fuses, hlast.guard, keepsImage_trans hx₅.dev hlast.dev.tokeepsImage⟩, hlast.dev.phase.trans hphase⟩

end first

/-! ## The slot that boots (R298, R312) -/

namespace Dev
/-- The device as the mask ROM begins. -/
def bootBegun (d : Dev) : Dev := ({ d with sec := { d.sec with booted := true }, aon := { d.aon with nextSlot := none, failCode := none } } : Dev).newNonce
theorem newNonce_fields (d : Dev) : d.newNonce.flash = d.flash ∧ d.newNonce.flashSize = d.flashSize ∧ d.newNonce.sec = d.sec :=
  have h : d.newNonce.base = ({ d with freeCtr := d.freeCtr + 1 } : Dev).base := base_wr64 ..
  ⟨(flash_of_base h).trans rfl, (flashSize_of_base h).trans rfl, (sec_of_base h).trans rfl⟩
theorem bootBegun_flash (d : Dev) : d.bootBegun.flash = d.flash ∧ d.bootBegun.flashSize = d.flashSize ∧ d.bootBegun.sec.booted = true := by
  unfold bootBegun
  obtain ⟨hflash, hsize, hsec⟩ :=
    newNonce_fields { d with sec := { d.sec with booted := true }, aon := { d.aon with nextSlot := none, failCode := none } }
  exact ⟨hflash, hsize, by rw [hsec]⟩
theorem setRecovery_spec (d : Dev) : d.setRecovery.recovery = true ∧ d.setRecovery.sec.booted = d.sec.booted := by
  unfold setRecovery recovery
  refine ⟨?_, ?_⟩
  · rw [bit_setBit_ne _ _ _ _ (by decide), bit_setBit_same _ _ _ _ (by decide)]
  · rw [sec_of_base (base_setBit ..), sec_of_base (base_setBit ..)]
end Dev

section boot
variable {f : Fuses} {g : Guard} {d : Dev} (hboot : d.sec.booted = false) (hstandby : d.standby = false) (hlc : f.lc ≠ 4)
include hboot hstandby hlc

theorem bootT_of_noFlash (hflash : d.flashOk = false) : bootT f g d = (f, g, d.bootBegun.setRecovery) := by
  have hflash' : d.bootBegun.flashOk = false := by rw [flashOk, d.bootBegun_flash.2.1, ← flashOk, hflash]
  unfold bootT
  extract_lets forced failed src aon d₁
  have h₁ : d₁ = d.bootBegun := rfl
  clear_value d₁
  subst h₁
  rw [if_neg (by rw [hboot, hstandby]; decide), if_neg hlc, if_pos (by rw [hflash']; rfl)]

variable (hflash : d.flashOk = true) (haon : d.aon = {}) (hdir : 2 ≤ d.dirFields.2)
include hflash haon hdir
/-- Without a TRY the slot that the directory names boots where it is valid, otherwise the other one where that is, otherwise none (R312). -/
theorem bootT_eq : bootT f g d = match imageError f d d.dirFields.1 false true, imageError f d (1 - d.dirFields.1) false true with
    | 0, _ => Parts.firstSections (f, g, d.bootBegun.bootSlotOf d.dirFields.1) d.dirFields.1
    | c, 0 => Parts.firstSections (f, g, (d.bootBegun.fellBack d.dirFields.1 c).bootSlotOf (1 - d.dirFields.1)) (1 - d.dirFields.1)
    | _, _ => (f, g, d.bootBegun.setRecovery) := by
  obtain ⟨hf, hsize, -⟩ := d.bootBegun_flash
  rw [← dirFields_of_flash hf] at hdir ⊢
  rw [← imageError_of_flash hf hsize, ← imageError_of_flash hf hsize]
  have hflash' : d.bootBegun.flashOk = true := by rw [flashOk, hsize, ← flashOk, hflash]
  unfold bootT
  extract_lets forced failed src aon d₁ dir d₂ slot d₃
  have h₁ : d₁ = d.bootBegun := rfl
  clear_value d₁
  subst h₁
  have hforced : forced = none := by dsimp only [forced]; rw [haon]
  have hfailed : failed = none := by dsimp only [failed]; rw [haon]
  clear_value forced failed
  subst hforced hfailed
  have hdir' : ¬ dir.2 ≤ 1 := Nat.not_le.2 hdir
  have h₂ : d₂ = d.bootBegun := if_neg fun h => hdir' h.2
  have hslot : slot = d.bootBegun.dirFields.1 := if_neg hdir'
  have h₃ : d₃ = d₂ := rfl
  clear_value d₃ slot d₂
  subst h₃ h₂ hslot
  rw [if_neg (by rw [hboot, hstandby]; decide), if_neg hlc, if_neg (by rw [hflash']; decide)]
  generalize imageError f d.bootBegun d.bootBegun.dirFields.1 false true = c
  generalize imageError f d.bootBegun (1 - d.bootBegun.dirFields.1) false true = c'
  cases c with
  | zero => rfl
  | succ c =>
    cases c' with
    | zero => exact if_neg Bool.false_ne_true
    | succ c' => rfl

variable {slot : Nat} (hslot : d.dirFields.1 = slot)
include hslot
theorem bootT_of_first (hok : imageError f d slot false true = 0) : bootT f g d = Parts.firstSections (f, g, d.bootBegun.bootSlotOf slot) slot := by
  subst hslot
  rw [bootT_eq hboot hstandby hlc hflash haon hdir, hok]
  rfl
theorem bootT_of_other (hbad : imageError f d slot false true ≠ 0) (hok : imageError f d (1 - slot) false true = 0) :
    ∃ c, bootT f g d = Parts.firstSections (f, g, (d.bootBegun.fellBack slot c).bootSlotOf (1 - slot)) (1 - slot) := by
  subst hslot
  refine ⟨imageError f d d.dirFields.1 false true, ?_⟩
  rw [bootT_eq hboot hstandby hlc hflash haon hdir, hok]
  generalize imageError f d d.dirFields.1 false true = c at hbad ⊢
  cases c with
  | zero => exact absurd rfl hbad
  | succ c => rfl
theorem bootT_of_none (hbad : imageError f d slot false true ≠ 0) (hbad' : imageError f d (1 - slot) false true ≠ 0) :
    bootT f g d = (f, g, d.bootBegun.setRecovery) := by
  subst hslot
  rw [bootT_eq hboot hstandby hlc hflash haon hdir]
  generalize imageError f d d.dirFields.1 false true = c at hbad ⊢
  generalize imageError f d (1 - d.dirFields.1) false true = c' at hbad' ⊢
  cases c with
  | zero => exact absurd rfl hbad
  | succ c =>
    cases c' with
    | zero => exact absurd rfl hbad'
    | succ c' => rfl
end boot

/-- A start from a valid slot, as it comes to wait for the training of DRAM. -/
structure startedFrom (f : Fuses) (d : Dev) (slot : Nat) (y : Parts) : Prop where
  fuses : y.1 = f
  booted : y.2.2.sec.booted = true
  phase : y.2.2.startPhase = 4
  chosen : y.2.2.bit Reg.sec_STATUS 3 = (slot == 1)
  guard : ∀ x, d.sectionOf slot 3 = some x → y.2.1 = limitsGuard f (d.sectionBytes slot x)

section started
variable {f : Fuses} {g : Guard} {d e : Dev} {slot : Nat} (hflash : e.flash = d.flash) (hsize : e.flashSize = d.flashSize) (hbooted : e.sec.booted = true)
  (hvalid : imageError f d slot false true = 0) (hwhole : ∀ x ∈ d.imgSections slot, d.sectionOk slot x = true ∧ x.typ ≠ 5)
include hflash hsize hbooted hvalid hwhole
/-- A valid slot boots and applies its first sections. -/
theorem startedFrom_of_valid : startedFrom f d slot (Parts.firstSections (f, g, e.bootSlotOf slot) slot) ∧
    (Parts.firstSections (f, g, e.bootSlotOf slot) slot).2.2.bit Reg.sec_STATUS 4 = e.bit Reg.sec_STATUS 4 := by
  obtain ⟨hflash', hsize', hbooted'⟩ := e.bootSlotOf_flash slot
  obtain ⟨hslot, hfell⟩ := e.bootSlotOf_slot slot
  have hsections := (imgSections_of_flash hflash' hsize' slot).trans (imgSections_of_flash hflash hsize slot)
  obtain ⟨s, hs, hy, hphase⟩ := firstSections_of_whole (f := f) (g := g) (hbooted'.trans hbooted) (fun x hx => by
    rw [sectionOk_of_flash hflash' hsize', sectionOk_of_flash hflash hsize]
    exact hwhole x (hsections ▸ hx)) (by rw [hsections]; exact oneLimits hvalid)
  rw [sectionOf_of_flash hflash' hsize', sectionOf_of_flash hflash hsize] at hs
  refine ⟨⟨hy.fuses, hy.dev.booted.trans (hbooted'.trans hbooted), hphase, hy.dev.slot.trans hslot, fun x hx => ?_⟩, hy.dev.fell.trans hfell⟩
  rw [hy.guard, sectionBytes_of_flash hflash' hsize', sectionBytes_of_flash hflash hsize, Option.some.inj (hx.symm.trans hs)]
end started

end Sys2Proof.Machine

/-! PROOFS. The training of DRAM at start, and the sections that wait for it (R307, R401, R402). -/
namespace Sys2Proof.Machine
namespace Dev

/-! ## Changes of context records alone -/

/-- No more than the context records has changed. -/
def onlyCtx (d d' : Dev) : Prop := ∃ r, d' = { d with ctx := r }

section onlyCtx
variable {d d' d'' : Dev}
theorem onlyCtx_refl (d : Dev) : onlyCtx d d := ⟨d.ctx, rfl⟩
theorem onlyCtx_trans (h : onlyCtx d d') (h' : onlyCtx d' d'') : onlyCtx d d'' := by
  obtain ⟨r, rfl⟩ := h
  obtain ⟨r', rfl⟩ := h'
  exact ⟨r', rfl⟩
theorem onlyCtx_ite {p : Prop} [Decidable p] (h : onlyCtx d d') (h' : onlyCtx d d'') : onlyCtx d (if p then d' else d'') :=
  iteInduction (motive := fun x => onlyCtx d x) (fun _ => h) fun _ => h'
theorem onlyCtx_foldl {α : Type} (l : List α) {f : Dev → α → Dev} (h : ∀ d x, onlyCtx d (f d x)) (d : Dev) : onlyCtx d (l.foldl f d) :=
  foldl_invariant (P := fun x => onlyCtx d x) (fun x i _ hx => onlyCtx_trans hx (h x i)) (onlyCtx_refl d)
theorem onlyCtx_setCtxW (d : Dev) (c w : Nat) (v : Word) : onlyCtx d (d.setCtxW c w v) := ⟨_, rfl⟩
theorem onlyCtx_setCtxFld (d : Dev) (c w lo n v : Nat) : onlyCtx d (d.setCtxFld c w lo n v) := ⟨_, rfl⟩
theorem onlyCtx_setCtx64 (d : Dev) (c w v : Nat) : onlyCtx d (d.setCtx64 c w v) := onlyCtx_trans (onlyCtx_setCtxW ..) (onlyCtx_setCtxW ..)
theorem onlyCtx_resetPc (d : Dev) (c : Nat) : onlyCtx d (d.resetPc c) := by
  unfold resetPc
  exact onlyCtx_trans (onlyCtx_trans (onlyCtx_trans (onlyCtx_setCtxFld ..) (onlyCtx_setCtxFld ..)) (onlyCtx_setCtx64 ..)) (onlyCtx_setCtx64 ..)
theorem onlyCtx_putCtx (d : Dev) (x : Nat) (ws : List Word) (reset : Bool) : onlyCtx d (d.putCtx x ws reset) := by
  unfold putCtx
  extract_lets owner free take d₁ d₂ d₃
  have h₁ : onlyCtx d d₁ := onlyCtx_setCtxFld ..
  have h₂ : onlyCtx d₁ d₂ := onlyCtx_foldl _ (fun _ _ => onlyCtx_setCtxW ..) d₁
  have h₃ : onlyCtx d₂ d₃ := onlyCtx_trans (onlyCtx_trans (onlyCtx_setCtxFld ..) (onlyCtx_setCtxFld ..)) (onlyCtx_setCtxFld ..)
  have hall := onlyCtx_trans (onlyCtx_trans h₁ h₂) h₃
  exact onlyCtx_ite (onlyCtx_trans hall (onlyCtx_resetPc ..)) hall
end onlyCtx

/-! ## What the sections that wait for DRAM leave as it is -/

/-- The flash and the boot stand, and what the start shows of DRAM. -/
structure keepsTrained (d d' : Dev) : Prop where
  flash : d'.flash = d.flash
  size : d'.flashSize = d.flashSize
  booted : d'.sec.booted = d.sec.booted
  ready : d'.bit Reg.glob_STATUS 3 = d.bit Reg.glob_STATUS 3
  unusable : d'.bit Reg.dramG_STATUS 1 = d.bit Reg.dramG_STATUS 1
  state : ∀ m < 8, d'.dmcState m = d.dmcState m

section keepsTrained
variable {d d' d'' : Dev}
theorem keepsTrained_trans (h : keepsTrained d d') (h' : keepsTrained d' d'') : keepsTrained d d'' :=
  ⟨h'.flash.trans h.flash, h'.size.trans h.size, h'.booted.trans h.booted, h'.ready.trans h.ready, h'.unusable.trans h.unusable,
   fun m hm => (h'.state m hm).trans (h.state m hm)⟩
theorem keepsTrained_refl (d : Dev) : keepsTrained d d := ⟨rfl, rfl, rfl, rfl, rfl, fun _ _ => rfl⟩
theorem keepsTrained_ite {p : Prop} [Decidable p] (h : p → keepsTrained d d') (h' : ¬ p → keepsTrained d d'') : keepsTrained d (if p then d' else d'') :=
  iteInduction (motive := fun x => keepsTrained d x) h h'
/-- A change of parts that leaves the registers alone. -/
theorem keepsTrained_of_parts (hflash : d'.flash = d.flash) (hsize : d'.flashSize = d.flashSize) (hbooted : d'.sec.booted = d.sec.booted)
    (hregs : d'.regs = d.regs) : keepsTrained d d' :=
  ⟨hflash, hsize, hbooted, bit_of_rd (rd_of_regs hregs _) _, bit_of_rd (rd_of_regs hregs _) _, fun _ _ => dmcState_of_rd (rd_of_regs hregs _)⟩
/-- A register that shows nothing of DRAM. -/
theorem keepsTrained_wrN (d : Dev) {a : Nat} (ha : Reg.glob_STATUS ≠ a ∧ (a < 0x1000000 ∨ 0x1080000 < a)) (n : Nat) : keepsTrained d (d.wrN a n) where
  flash := flash_of_base (base_wrN ..)
  size := flashSize_of_base (base_wrN ..)
  booted := by rw [sec_of_base (base_wrN ..)]
  ready := bit_of_rd (rd_wrN_ne _ _ ha.1.symm) _
  unusable := bit_of_rd (rd_wrN_ne _ _ (by unfold Reg.dramG_STATUS; omega)) _
  state m hm := dmcState_of_rd (rd_wrN_ne _ _ (by unfold Reg.dram_STATUS; omega))
theorem keepsTrained_setLimited (d : Dev) : keepsTrained d d.setLimited := by
  have hglob : keepsTrained d (d.setBit Reg.glob_STATUS 6 true) :=
    ⟨flash_of_base (base_setBit ..), flashSize_of_base (base_setBit ..), by rw [sec_of_base (base_setBit ..)],
      bit_setBit_other _ _ _ _ _ (by decide) (by decide), bit_setBit_ne _ _ _ _ (by decide), fun m hm => dmcState_of_rd (rd_setBit_ne _ _ _ (by grind))⟩
  exact keepsTrained_trans hglob (keepsTrained_wrN _ (a := Reg.sec_STATUS) (by decide) _)
theorem keepsTrained_refuseRecord (d : Dev) (s r : Nat) : keepsTrained d (d.refuseRecord s r) := by
  unfold refuseRecord
  extract_lets d₁ d₂
  have h₁ : keepsTrained d d₁ := keepsTrained_trans (keepsTrained_wrN d (a := Reg.sec_EVENTS) (by decide) _) (keepsTrained_wrN _ (a := Reg.sec_IMG_REFUSED_CNT) (by decide) _)
  have h₂ : keepsTrained d d₂ := keepsTrained_ite (fun _ => h₁) fun _ => keepsTrained_trans h₁ (keepsTrained_wrN _ (a := Reg.sec_IMG_FIRST) (by decide) _)
  have hbad : keepsTrained d₂ { d₂ with sec := { d₂.sec with imgBad := true } } := keepsTrained_of_parts rfl rfl rfl rfl
  exact keepsTrained_trans (keepsTrained_trans h₂ hbad) (keepsTrained_setLimited _)
theorem keepsTrained_applyRecords (d : Dev) (s n : Nat) {put : Dev → Nat → Option Dev} (hput : ∀ d r x, put d r = some x → keepsTrained d x) :
    keepsTrained d (d.applyRecords s n put) := by
  refine foldl_invariant (P := fun x => keepsTrained d x) (fun x r _ hx => keepsTrained_trans hx ?_) (keepsTrained_refl d)
  cases h : put x r with
  | none => exact keepsTrained_refuseRecord ..
  | some y => exact hput _ _ _ h
theorem keepsTrained_of_onlyCtx (h : onlyCtx d d') : keepsTrained d d' := by
  obtain ⟨r, rfl⟩ := h
  exact keepsTrained_of_parts rfl rfl rfl rfl
theorem worked_writeDram (d : Dev) (a : Nat) (bs : List Byte) : worked d (d.writeDram a bs) := worked_trans (worked_served ..) (worked_dramWrite ..)
theorem keepsTrained_writeDram (d : Dev) (a : Nat) (bs : List Byte) : keepsTrained d (d.writeDram a bs) :=
  have hw := worked_writeDram d a bs
  { flash := (congrArg Dev.flash hw.calm :)
    size := (congrArg Dev.flashSize hw.calm :)
    booted := (congrArg (fun d : Dev => d.sec.booted) hw.calm :)
    ready := bit_of_rd ((stirred_writeDram d a bs).rd _ (.inl (by decide))) _
    unusable := bit_of_rd (hw.rd _ ⟨by decide, by decide, fun h => absurd h (by decide)⟩) _
    state := hw.state }
theorem keepsTrained_applyCtx (d : Dev) (s base : Nat) (b : List Byte) : keepsTrained d (d.applyCtx s base b) := by
  unfold applyCtx
  refine keepsTrained_applyRecords d _ _ fun d r x hx => ?_
  dsimp only at hx
  split at hx
  · rw [← Option.some.inj hx]
    exact keepsTrained_of_onlyCtx (onlyCtx_putCtx ..)
  · exact absurd hx (by simp)
theorem keepsTrained_applyDesc (d : Dev) (s base : Nat) (b : List Byte) : keepsTrained d (d.applyDesc s base b) := by
  unfold applyDesc
  refine keepsTrained_applyRecords d _ _ fun d r x hx => ?_
  dsimp only at hx
  split at hx
  · rw [← Option.some.inj hx]
    exact keepsTrained_writeDram ..
  · exact absurd hx (by simp)
theorem keepsTrained_applyData (d : Dev) (s base : Nat) (b : List Byte) : keepsTrained d (d.applyData s base b) :=
  keepsTrained_ite (fun _ => keepsTrained_refuseRecord ..) fun _ => keepsTrained_writeDram ..
theorem keepsTrained_setPhase (d : Dev) (n : Nat) : keepsTrained d (d.setPhase n) := by
  unfold setPhase
  exact ⟨flash_of_base (base_setFld ..), flashSize_of_base (base_setFld ..), by rw [sec_of_base (base_setFld ..)],
    bit_setFld_other _ _ _ _ _ _ (by decide) (by decide), bit_setFld_ne _ _ _ _ _ (by decide), fun m hm => dmcState_of_rd (rd_setFld_ne _ _ _ _ (by grind))⟩
end keepsTrained

/-- The sections that wait for DRAM leave what the start shows. -/
theorem lastSections_carries {f : Fuses} {g : Guard} {d : Dev} {slot : Nat} (hbooted : d.sec.booted = true)
    (hok : ∀ s ∈ d.imgSections slot, d.sectionOk slot s = true) : Parts.carries keepsTrained f g d (lastSections (f, g, d) slot) := by
  have hR : ∀ y, keepsTrained d y → y.flash = d.flash ∧ y.flashSize = d.flashSize ∧ y.sec.booted = d.sec.booted := fun y h => ⟨h.flash, h.size, h.booted⟩
  unfold lastSections
  extract_lets x₁ x₂ x₃
  have hx₁ : Parts.carries keepsTrained f g d x₁ := Parts.sections_carries_onDev (x := (f, g, d)) hR hbooted hok ⟨rfl, rfl, keepsTrained_refl d⟩
    fun _ _ y hy => keepsTrained_trans hy (keepsTrained_applyCtx ..)
  have hx₂ : Parts.carries keepsTrained f g d x₂ := Parts.sections_carries hR hbooted hok hx₁ fun _ _ hy _ _ _ => hy
  have hx₃ : Parts.carries keepsTrained f g d x₃ := Parts.sections_carries_onDev hR hbooted hok hx₂ fun _ _ y hy => keepsTrained_trans hy (keepsTrained_applyDesc ..)
  refine iteInduction (motive := fun y => Parts.carries keepsTrained f g d y) (fun _ => hx₂) fun _ => ?_
  exact Parts.sections_carries_onDev (k := fun i s (d : Dev) => d.applyData i s.param (d.sectionBytes slot s)) hR hbooted hok hx₃
    fun _ _ y hy => keepsTrained_trans hy (keepsTrained_applyData ..)

/-! ## Training (R401, R402) -/

section training
variable (d : Dev)

theorem bootSlot_of_bit {d d' : Dev} (h : d'.bit Reg.sec_STATUS 3 = d.bit Reg.sec_STATUS 3) : d'.bootSlot = d.bootSlot := by
  rw [bit_eq, bit_eq] at h
  have hlt (d : Dev) : d.fld Reg.sec_STATUS 3 1 < 2 := Nat.mod_lt _ (by decide)
  have h' : d'.fld Reg.sec_STATUS 3 1 = 1 ↔ d.fld Reg.sec_STATUS 3 1 = 1 := by rw [← beq_iff_eq, h, beq_iff_eq]
  have := hlt d
  have := hlt d'
  unfold bootSlot
  omega

/-- What a DMC's training leaves: the parts of the device, the STATUS registers of the start and of the other DMCs, and DRAM's own. -/
structure trainsOne (m : Nat) (d d' : Dev) : Prop where
  start : keepsStart d d'
  unusable : d'.bit Reg.dramG_STATUS 1 = d.bit Reg.dramG_STATUS 1
  other : ∀ n, m ≠ n → d'.dmcState n = d.dmcState n
  trained : d'.dmcState m = 0

/-- What a DMC's training leaves for the free number `v`. -/
def trainedWith (m : Nat) (pass : Bool) (v : Nat) (d : Dev) : Dev :=
  if pass then ((d.wrN (Reg.dram_TRAIN m) (9 + v / 16 % 251 * 2^16)).setBit Reg.dramG_STATUS (12 + m) true).setFld (Reg.dram_STATUS m) 0 3 0
  else (((d.wrN (Reg.dram_TRAIN m) (v % 9 + 1 - 1 + (v % 9 + 1) * 2^4 + v / 16 % 251 * 2^16)).setBit Reg.dramG_STATUS (12 + m) false).setFld
    (Reg.dram_STATUS m) 0 3 2).trainFail m
theorem trainedAtStart_eq (m : Nat) (pass : Bool) : d.trainedAtStart m pass = d.free.2.trainedWith m pass d.free.1 := rfl
theorem keepsStart_free : keepsStart d d.free.2 := keepsStart_of_parts rfl rfl rfl rfl

theorem trainsOne_of_trained {m : Nat} (hm : m < 8) (v : Nat) : trainsOne m d (d.trainedWith m true v) where
  start := keepsStart_setFld (keepsStart_setBit (keepsStart_wrN (keepsStart_refl d) (by grind) (by grind) _) (by grind) (by grind) ..) (by grind) (by grind) ..
  unusable := by
    unfold trainedWith
    rw [if_pos rfl, bit_setFld_ne _ _ _ _ _ (by grind), bit_setBit_other _ _ _ _ _ (by omega) (by omega), bit_wrN_ne _ _ _ (by grind)]
  other n hne := dmcState_of_rd ((rd_setFld_ne _ _ _ _ (by grind)).trans ((rd_setBit_ne _ _ _ (by grind)).trans (rd_wrN_ne _ _ (by grind))))
  trained := fld_setFld_same _ _ _ _ _ (by decide)
theorem trainsOne_pass {m : Nat} (hm : m < 8) : trainsOne m d (d.trainedAtStart m true) :=
  have h := trainsOne_of_trained d.free.2 hm d.free.1
  have hregs : d.free.2.regs = d.regs := rfl
  ⟨keepsStart_trans (keepsStart_free d) h.start, h.unusable.trans (bit_of_rd (rd_of_regs hregs _) _),
    fun n hne => (h.other n hne).trans (dmcState_of_rd (rd_of_regs hregs _)), h.trained⟩

theorem keepsStart_fault (c : Nat) (r : FaultRec) (h : escalates c = false) : keepsStart d (d.fault c r) :=
  keepsStart_of_rd (base_fault _ _ _ h) (rd_fault_low _ _ _ h (by decide)) (rd_fault_sec (by unfold secReg; decide) _ _ _ h)
theorem keepsStart_trainFail {m : Nat} (hm : m < 8) : keepsStart d (d.trainFail m) := by
  unfold trainFail faultMp
  refine keepsStart_trans (keepsStart_raise (keepsStart_raise (keepsStart_refl d) ?_ ?_ _) (by decide) (by decide) _) (keepsStart_fault _ _ _ rfl)
  · unfold Reg.dram_EVENTS Reg.glob_STATUS; omega
  · unfold Reg.dram_EVENTS Reg.sec_STATUS; omega
theorem keepsStart_trainedAtStart {m : Nat} (hm : m < 8) : keepsStart d (d.trainedAtStart m false) := by
  rw [trainedAtStart_eq]
  refine keepsStart_trans (keepsStart_free d) ?_
  generalize d.free.2 = d₁
  unfold trainedWith
  rw [if_neg Bool.false_ne_true]
  exact keepsStart_trans (keepsStart_setFld (keepsStart_setBit (keepsStart_wrN (keepsStart_refl d₁) (by grind) (by grind) _) (by grind) (by grind) ..)
    (by grind) (by grind) ..) (keepsStart_trainFail _ hm)
theorem keepsStart_setDmcState (m s : Nat) : keepsStart d (d.setDmcState m s) :=
  keepsStart_setBit (keepsStart_setFld (keepsStart_refl d) (by grind) (by grind) ..) (by decide) (by decide) ..

/-- Every DMC ends its training. -/
def trainEach (pass : Bool) : Dev := (List.range 8).foldl (fun (d : Dev) (m : Nat) => d.trainedAtStart m pass) d
theorem trainEach_eq {trained : BitVec 8} {pass : Bool} (h : ∀ m < 8, trained.getLsbD m = pass) :
    (List.range 8).foldl (fun (d : Dev) (m : Nat) => d.trainedAtStart m (trained.getLsbD m)) d = d.trainEach pass :=
  List.foldl_ext _ _ _ fun d m hm => by rw [h m (List.mem_range.1 hm)]
theorem trainAll_pass_eq : d.trainAll 0xFF = d.trainEach true := by
  unfold trainAll
  rw [trainEach_eq d (trained := 0xFF) (pass := true) (by decide)]
  generalize d.trainEach true = d₁
  rfl
theorem trainAll_fail_eq : d.trainAll 0 = ((List.range 8).foldl (fun (d : Dev) (m : Nat) => d.setDmcState m 4) (d.trainEach false)).setUnusable := by
  unfold trainAll
  rw [trainEach_eq d (trained := 0) (pass := false) (by decide)]
  generalize d.trainEach false = d₁
  rfl

/-- Every DMC has passed its training. -/
theorem trainAll_pass : keepsStart d (d.trainAll 0xFF) ∧ (d.trainAll 0xFF).bit Reg.dramG_STATUS 1 = d.bit Reg.dramG_STATUS 1 ∧
    ∀ m < 8, (d.trainAll 0xFF).dmcState m = 0 := by
  have hstep (d : Dev) (m : Nat) (hm : m ∈ List.range 8) : trainsOne m d (d.trainedAtStart m true) := trainsOne_pass d (List.mem_range.1 hm)
  rw [trainAll_pass_eq]
  refine ⟨keepsStart_foldl d _ fun m hm d => (hstep d m hm).start,
    foldl_invariant (P := fun x => x.bit Reg.dramG_STATUS 1 = d.bit Reg.dramG_STATUS 1) (fun x m hm hx => (hstep x m hm).unusable.trans hx) rfl, fun m hm => ?_⟩
  obtain ⟨d₀, -, -, hlast⟩ := foldl_each (l := List.range 8) (P := fun _ => True) (q := fun n (x : Dev) => x.dmcState n) (fun _ _ _ _ => trivial)
    (fun d m hm n _ hne => (hstep d m hm).other n hne) List.nodup_range trivial (List.mem_range.2 hm)
  exact hlast.trans (hstep d₀ m (List.mem_range.2 hm)).trained
/-- None has: DRAM is unusable. -/
theorem trainAll_fail : keepsStart d (d.trainAll 0) ∧ (d.trainAll 0).bit Reg.dramG_STATUS 1 = true := by
  rw [trainAll_fail_eq]
  constructor
  · exact keepsStart_trans (keepsStart_trans (keepsStart_foldl d _ fun m hm d => keepsStart_trainedAtStart d (List.mem_range.1 hm))
      (keepsStart_foldl _ _ fun m _ d => keepsStart_setDmcState d m 4)) (keepsStart_setUnusable _)
  · unfold setUnusable
    rw [(keepsTrained_setLimited _).unusable]
    exact bit_setBit_same _ _ _ _ (by decide)
end training
end Dev
end Sys2Proof.Machine

/-! PROOFS. The obligation on the start from the image (R298, R307, R312, R313, R401, R402). -/
namespace Sys2Proof.Machine

theorem exec_dramTrainingDone (trained : BitVec 8) (s : State) : exec (.dramTrainingDone trained) s = s.onTrust (dramTrainingDoneT trained) := rfl
theorem exec_startSection (s : State) : exec .startSection s = s.onDev startSectionD := rfl
theorem exec_startTimeSetTimeout (s : State) : exec .startTimeSetTimeout s = s.onDev startTimeSetTimeoutD := rfl

open Dev

/-! ## Training ends (R401, R402) -/

theorem Parts.onDev_dev (x : Parts) (k : Dev → Dev) : (x.onDev k).2.2 = k x.2.2 := rfl

section trainingDone
variable {f : Fuses} {g : Guard} {d d' : Dev} {trained : BitVec 8}

/-- Training leaves DRAM ready, or unusable. -/
def readyShown (d : Dev) : Dev := if d.bit Reg.dramG_STATUS 1 then d else d.setBit Reg.glob_STATUS 3 true

/-- The sections that wait for DRAM are applied, and the start goes on. -/
def sectionsDone (f : Fuses) (g : Guard) (d : Dev) : Parts :=
  if (lastSections (f, g, d) d.bootSlot).2.2.sec.booted then (lastSections (f, g, d) d.bootSlot).onDev (fun d => d.setPhase 5)
  else lastSections (f, g, d) d.bootSlot

theorem readyShown_keeps (d : Dev) : keepsStart d (readyShown d) ∧ (readyShown d).bit Reg.dramG_STATUS 1 = d.bit Reg.dramG_STATUS 1 ∧
    (∀ m, (readyShown d).dmcState m = d.dmcState m) ∧ (d.bit Reg.dramG_STATUS 1 = false → (readyShown d).bit Reg.glob_STATUS 3 = true) := by
  unfold readyShown
  cases h : d.bit Reg.dramG_STATUS 1 with
  | true => exact ⟨keepsStart_refl d, h, fun _ => rfl, fun h => absurd h (by decide)⟩
  | false =>
    rw [if_neg Bool.false_ne_true]
    exact ⟨keepsStart_globBit d (by decide) true, (bit_setBit_ne _ _ _ _ (by decide)).trans h, fun m => dmcState_of_rd (rd_setBit_ne _ _ _ (by grind)),
      fun _ => bit_setBit_same _ _ _ _ (by decide)⟩

variable (hboot : d.sec.booted = true) (hphase : d.startPhase = 4) (hstandby : d.standby = false) (husable : d.bit Reg.dramG_STATUS 1 = false)
  (hok : ∀ x ∈ d.imgSections d.bootSlot, d.sectionOk d.bootSlot x = true)
include hboot hphase hstandby husable

theorem dramTrainingDoneT_eq : dramTrainingDoneT trained f g d = sectionsDone f g (readyShown (d.trainAll trained)) := by
  unfold dramTrainingDoneT
  extract_lets d₁ d₂
  have h₁ : d₁ = d.trainAll trained := if_neg (by rw [husable]; decide)
  have h₂ : d₂ = readyShown d₁ := rfl
  clear_value d₂ d₁
  rw [if_neg (by rw [hboot, hphase, hstandby]; decide), ← h₁, ← h₂]
  rfl

include hok
/-- Where training keeps the image, the sections that wait for it are applied and the start goes on. -/
theorem dramTrainingDoneT_spec (htrain : keepsStart d (d.trainAll trained)) :
    (dramTrainingDoneT trained f g d).1 = f ∧ (dramTrainingDoneT trained f g d).2.1 = g ∧ (dramTrainingDoneT trained f g d).2.2.startPhase = 5 ∧
      keepsTrained (readyShown (d.trainAll trained)) (dramTrainingDoneT trained f g d).2.2 := by
  have hshown := keepsStart_trans htrain (readyShown_keeps (d.trainAll trained)).1
  rw [dramTrainingDoneT_eq hboot hphase hstandby husable]
  generalize readyShown (d.trainAll trained) = d₂ at hshown ⊢
  unfold sectionsDone
  have hslot := bootSlot_of_bit hshown.slot
  have hlast : Parts.carries keepsTrained f g d₂ (lastSections (f, g, d₂) d₂.bootSlot) := lastSections_carries (hshown.booted.trans hboot) fun x hx => by
    rw [sectionOk_of_flash hshown.flash hshown.size, hslot]
    exact hok x (by rwa [imgSections_of_flash hshown.flash hshown.size, hslot] at hx)
  generalize lastSections (f, g, d₂) d₂.bootSlot = x at hlast ⊢
  rw [if_pos (hlast.dev.booted.trans (hshown.booted.trans hboot))]
  have hend : Parts.carries keepsTrained f g d₂ (x.onDev (fun d => d.setPhase 5)) :=
    Parts.carries_onDev hlast fun h => keepsTrained_trans h (keepsTrained_setPhase _ 5)
  exact ⟨hend.fuses, hend.guard, (congrArg startPhase (Parts.onDev_dev x _)).trans (setPhase_startPhase _ 5), hend.dev⟩
end trainingDone

/-! ## The START section (R313) -/

namespace Dev
section start
variable (d : Dev)

/-- The start is complete, as the registers show it. -/
def startShown : Dev := ((d.setBit Reg.glob_STATUS 1 true).setBit Reg.glob_STATUS 2 true).setPhase 6
/-- A start that is LIMITED is a fault. -/
def limitedFault : Dev :=
  if d.limited then d.fault 11 { code := 0xB1, time := d.nowT, detail := [d.rdN Reg.sec_IMG_FIRST], fw := true } else d
/-- No time-set is awaited any more. -/
def waitOver : Dev := { d with sec := { d.sec with autoWait := false } }
theorem startDone_eq : d.startDone = d.waitOver.limitedFault.startShown := rfl

theorem limitedFault_base : d.limitedFault.base = d.base := iteInduction (motive := fun x : Dev => x.base = d.base) (fun _ => base_fault _ _ _ rfl) fun _ => rfl
theorem limitedFault_rd {a : Nat} (ha : a < 0x1300000) : d.limitedFault.rd a = d.rd a :=
  iteInduction (motive := fun x : Dev => x.rd a = d.rd a) (fun _ => rd_fault_low _ _ _ rfl ha) fun _ => rfl
theorem startShown_base : d.startShown.base = d.base := by
  unfold startShown setPhase
  rw [base_setFld, base_setBit, base_setBit]
theorem startShown_rd {a : Nat} (ha : Reg.glob_STATUS ≠ a) : d.startShown.rd a = d.rd a := by
  unfold startShown setPhase
  rw [rd_setFld_ne _ _ _ _ ha, rd_setBit_ne _ _ _ ha, rd_setBit_ne _ _ _ ha]

/-- The start has ended: commands are fetched, and no time-set is awaited. -/
theorem startDone_ended : d.startDone.startPhase = 6 ∧ d.startDone.bit Reg.glob_STATUS 1 = true ∧ d.startDone.bit Reg.glob_STATUS 2 = true ∧
    d.startDone.sec.autoWait = false := by
  rw [startDone_eq]
  refine ⟨setPhase_startPhase _ 6, ?_, ?_, ?_⟩
  · unfold startShown setPhase
    rw [bit_setFld_other _ _ _ _ _ _ (by decide) (by decide), bit_setBit_other _ _ _ _ _ (by decide) (by decide), bit_setBit_same _ _ _ _ (by decide)]
  · unfold startShown setPhase
    rw [bit_setFld_other _ _ _ _ _ _ (by decide) (by decide), bit_setBit_same _ _ _ _ (by decide)]
  · rw [sec_of_base (startShown_base _), sec_of_base (limitedFault_base _)]
    rfl
theorem startDone_chan : d.startDone.chan = d.chan := by
  rw [startDone_eq, chan_of_base (startShown_base _), chan_of_base (limitedFault_base _)]
  rfl
theorem startDone_rd {a : Nat} (ha : a < 0x1300000) (hne : Reg.glob_STATUS ≠ a) : d.startDone.rd a = d.rd a := by
  rw [startDone_eq, startShown_rd _ hne, limitedFault_rd _ ha]
  rfl

theorem startEnd_of_noAuto {b : List Byte} (h : bitsOf (fieldAt b 0 4) 1 1 = 0) (timed : Bool) : d.startEnd b timed = d.startDone := by
  have h' : fieldAt b 0 4 / 2 % 2 = 0 := h
  unfold startEnd
  rw [if_pos (.inl h')]
theorem startBegin_of_hold {b : List Byte} (hhold : fieldAt b 0 4 % 2 = 1) (hmode : bitsOf (fieldAt b 0 4) 2 2 = 3) (hauto : bitsOf (fieldAt b 0 4) 1 1 = 0) :
    d.startBegin b = (d.allHeld 32).startDone := by
  unfold startBegin
  extract_lets w d₁ d₂
  rw [if_pos hmode, startEnd_of_noAuto d₁ hauto]
  exact congrArg startDone (if_pos hhold)
end start

section startSection
variable {d : Dev} (hboot : d.sec.booted = true) (hphase : d.startPhase = 5) (hstandby : d.standby = false)
include hboot hphase hstandby
theorem startSectionD_of_none (h : d.startBytes = none) : startSectionD d = d.startDone := by
  unfold startSectionD
  rw [if_neg (by rw [hboot, hphase, hstandby]; decide), h]
theorem startSectionD_of_begin {b : List Byte} (h : d.startBytes = some b) (hwait : d.sec.autoWait = false) : startSectionD d = d.startBegin b := by
  unfold startSectionD
  rw [if_neg (by rw [hboot, hphase, hstandby]; decide), h]
  exact if_pos (by rw [hwait]; rfl)
theorem startSectionD_of_wait {b : List Byte} (h : d.startBytes = some b) (hwait : d.sec.autoWait = true) (harmed : d.bit Reg.time_STATUS 4 = true) : startSectionD d = d := by
  unfold startSectionD
  rw [if_neg (by rw [hboot, hphase, hstandby]; decide), h]
  exact (if_neg (by rw [hwait]; decide)).trans (if_pos harmed)
omit hboot hstandby in
theorem startTimeSetTimeoutD_of_wait {b : List Byte} (h : d.startBytes = some b) (hwait : d.sec.autoWait = true) (harmed : d.bit Reg.time_STATUS 4 = true)
    (hauto : bitsOf (fieldAt b 0 4) 1 1 = 0) : startTimeSetTimeoutD d = d.startDone := by
  unfold startTimeSetTimeoutD
  rw [if_neg (by rw [hwait, hphase, harmed]; decide), h]
  exact startEnd_of_noAuto d hauto false
end startSection
end Dev

/-- The other slot boots in place of one that is not valid, with FALLBACK (R312). -/
theorem startedFrom_of_other {f : Fuses} {g : Guard} {d : Dev} {slot : Nat} (hboot : d.sec.booted = false) (hstandby : d.standby = false) (hlc : f.lc ≠ 4)
    (hflash : d.flashOk = true) (haon : d.aon = {}) (hdir : 2 ≤ d.dirFields.2) (hslot : d.dirFields.1 = slot) (hbad : imageError f d slot false true ≠ 0)
    (hok : imageError f d (1 - slot) false true = 0) (hwhole : ∀ x ∈ d.imgSections (1 - slot), d.sectionOk (1 - slot) x = true ∧ x.typ ≠ 5) :
    startedFrom f d (1 - slot) (bootT f g d) ∧ (bootT f g d).2.2.bit Reg.sec_STATUS 4 = true := by
  obtain ⟨c, hc⟩ := bootT_of_other (g := g) hboot hstandby hlc hflash haon hdir hslot hbad hok
  obtain ⟨hflash₀, hsize₀, hbooted₀⟩ := d.bootBegun_flash
  obtain ⟨hf, hz, hb, hfell⟩ := d.bootBegun.fellBack_spec slot c
  rw [hc]
  generalize d.bootBegun.fellBack slot c = e at hf hz hb hfell ⊢
  obtain ⟨hstart, hfell'⟩ := startedFrom_of_valid (g := g) (hf.trans hflash₀) (hz.trans hsize₀) (hb.trans hbooted₀) hok hwhole
  exact ⟨hstart, hfell'.trans hfell⟩

/-- Settles O45: BOOT by the validity of the two slots, the end of training, and the START section. -/
theorem startsFromTheImage : Obligations.StartsFromTheImage := by
  unfold Obligations.StartsFromTheImage
  intro s d ok whole started first
  have hfirst : d.dirFields.1 = first := rfl
  clear_value first
  obtain ⟨hflash₀, hsize₀, hbooted₀⟩ := d.bootBegun_flash
  have hstarted {slot : Nat} {y : Parts} (h : startedFrom s.fuses d slot y) : started slot { s with fuses := y.1, guard := y.2.1, dev := y.2.2 } :=
    ⟨h.fuses, h.booted, h.phase, h.chosen, h.guard⟩
  refine ⟨fun hboot hstandby hlc => ⟨fun hflash => ?_, fun hflash haon hdir => ⟨fun hok hwhole => ?_, fun hbad hok hwhole => ?_, fun hbad hbad' => ?_⟩⟩,
    fun hboot hphase hstandby husable hwhole => ⟨?_, ?_⟩, fun hboot hphase hstandby => ?_⟩
  · refine s.leads_of_onTrust (exec_boot s) ?_
    rw [bootT_of_noFlash hboot hstandby hlc hflash]
    exact ⟨rfl, rfl, (setRecovery_spec _).2.trans hbooted₀, (setRecovery_spec _).1⟩
  · refine s.leads_of_onTrust (exec_boot s) ?_
    rw [bootT_of_first hboot hstandby hlc hflash haon hdir hfirst hok]
    exact hstarted (startedFrom_of_valid hflash₀ hsize₀ hbooted₀ hok hwhole).1
  · refine s.leads_of_onTrust (exec_boot s) ?_
    obtain ⟨hstart, hfell⟩ := startedFrom_of_other (g := s.guard) hboot hstandby hlc hflash haon hdir hfirst hbad hok hwhole
    exact ⟨hstarted hstart, hfell⟩
  · refine s.leads_of_onTrust (exec_boot s) ?_
    rw [bootT_of_none hboot hstandby hlc hflash haon hdir hfirst hbad hbad']
    exact ⟨rfl, rfl, (setRecovery_spec _).1⟩
  · refine s.leads_of_onTrust (exec_dramTrainingDone _ s) ?_
    obtain ⟨htrain, hunusable, hstate⟩ := d.trainAll_pass
    obtain ⟨hf, hg, hp, hkeeps⟩ := dramTrainingDoneT_spec (f := s.fuses) (g := s.guard) hboot hphase hstandby husable (fun x hx => (hwhole x hx).1) htrain
    obtain ⟨-, -, hstate', hready⟩ := readyShown_keeps (d.trainAll 0xFF)
    exact ⟨hf, hg, hp, hkeeps.ready.trans (hready (hunusable.trans husable)), fun m hm => (hkeeps.state m hm).trans ((hstate' m).trans (hstate m hm))⟩
  · refine s.leads_of_onTrust (exec_dramTrainingDone _ s) ?_
    obtain ⟨htrain, hunusable⟩ := d.trainAll_fail
    obtain ⟨hf, hg, hp, hkeeps⟩ := dramTrainingDoneT_spec (f := s.fuses) (g := s.guard) hboot hphase hstandby husable (fun x hx => (hwhole x hx).1) htrain
    exact ⟨hf, hg, hp, hkeeps.unusable.trans ((readyShown_keeps _).2.1.trans hunusable)⟩
  · intro ended
    have hended (d : Dev) : ended d.startDone := d.startDone_ended
    refine ⟨fun hnone => State.runs_of_onDev (exec_startSection s) (startSectionD_of_none hboot hphase hstandby hnone) (hended _),
      fun b hb hwait hhold hmode hauto => ?_, fun b hb hwait harmed => ⟨?_, fun hauto => ?_⟩⟩
    · refine State.runs_of_onDev (exec_startSection s) ((startSectionD_of_begin hboot hphase hstandby hb hwait).trans (startBegin_of_hold _ hhold hmode hauto))
        ⟨hended _, fun n hn => ?_⟩
      obtain ⟨hheld, hshows⟩ := s.dev.allHeld_spec (mask := 32) (k := 5) hn (by decide) (by decide)
      rw [chanOf_of_chan (startDone_chan _), bit_of_rd (startDone_rd _ (by unfold Reg.chn_SAFE_CTL chnBase; omega)
        (by unfold Reg.glob_STATUS Reg.chn_SAFE_CTL chnBase; omega))]
      exact ⟨hheld, hshows⟩
    · exact State.runs_of_onDev (exec_startSection s) (startSectionD_of_wait hboot hphase hstandby hb hwait harmed) rfl
    · exact State.runs_of_onDev (exec_startTimeSetTimeout s) (startTimeSetTimeoutD_of_wait hphase hb hwait harmed hauto) (hended _)

end Sys2Proof.Machine

/-! PROOFS. The commands that act through the fuses and the flash (R311, R316 to R320, R330). -/
namespace Sys2Proof.Machine

theorem exec_confirm (s : State) : exec .confirm s = s.onTrust confirmT := rfl
theorem exec_tryEn (slot : Bool) (s : State) : exec (.tryEn slot) s = s.onDev (tryEnD slot) := rfl
theorem exec_lcChange (s : State) : exec .lcChange s = s.onTrust (tokenOf 1) := rfl
theorem exec_addKey (s : State) : exec .addKey s = s.onTrust (tokenOf 2) := rfl
theorem exec_revokeKey (s : State) : exec .revokeKey s = s.onTrust (tokenOf 3) := rfl
theorem exec_debugUnlock (s : State) : exec .debugUnlock s = s.onTrust (tokenOf 4) := rfl
theorem exec_recCtl (v : Word) (s : State) : exec (.recCtl v) s = s.onSealed (recCtlS v) := rfl

namespace Dev

/-! ## CONFIRM and TRY_EN (R311) -/

section confirm
variable {f : Fuses} {d : Dev} (hboot : d.sec.booted = true) (hrec : d.recovery = false)
include hboot hrec
theorem confirmed_eq : confirmed f d = (if f.lc = 2 ∧ d.imgRaises d.bootSlot then f.raiseSvn (d.imgSvn d.bootSlot) else f,
    ((d.writeDir d.bootSlot d.dirFields.2).setBit Reg.sec_STATUS 7 true).setBit Reg.sec_BOOT_CTL 0 false) := by
  unfold confirmed
  exact if_neg (by rw [hboot, hrec]; decide)
end confirm

theorem setTry_spec (d : Dev) (slot : Nat) : (d.setTry slot).flash = (d.writeDir d.dirFields.1 slot).flash ∧ (d.setTry slot).bit Reg.sec_BOOT_CTL 1 = false ∧
    (d.setTry slot).bit Reg.sec_BOOT_CTL 2 = (slot == 1) := by
  unfold setTry
  refine ⟨flash_of_base ((base_setBit ..).trans (base_setBit ..)), bit_setBit_same _ _ _ _ (by decide), ?_⟩
  rw [bit_setBit_other _ _ _ _ _ (by decide) (by decide), bit_setBit_same _ _ _ _ (by decide)]

/-! ## Tokens (R318, R319) -/

section token
variable (f : Fuses) (g : Guard) (d : Dev)

/-- The RESULT of a token for the free number `v`, which says whether a fuse program fails. -/
def tokenCode (v : Nat) : Nat := if tokenResult f d = 0 ∧ fieldAt d.tokenBytes 0 1 ≠ 4 ∧ v % 2 = 1 then 6 else tokenResult f d
/-- The RESULT shows, and a new nonce is drawn. -/
def tokenShown (r : Nat) : Dev := (d.setFld Reg.sec_TOKEN_CTL 0 16 (r * 2^8)).newNonce
theorem token_eq : token f g d = (if tokenCode f d d.free.1 ≠ 0 then (f, g, (d.free.2.tokenShown (tokenCode f d d.free.1)).raise Reg.sec_EVENTS 2)
    else if fieldAt d.tokenBytes 0 1 = 1 then
      (tokenFuses f d, (resetAll false 16 g ((d.free.2.tokenShown (tokenCode f d d.free.1)).raise Reg.sec_EVENTS 1)).1,
        (resetAll false 16 g ((d.free.2.tokenShown (tokenCode f d d.free.1)).raise Reg.sec_EVENTS 1)).2)
    else (tokenFuses f d, g, if fieldAt d.tokenBytes 0 1 = 4 then ((d.free.2.tokenShown (tokenCode f d d.free.1)).raise Reg.sec_EVENTS 1).setBit Reg.sec_STATUS 8 true
      else (d.free.2.tokenShown (tokenCode f d d.free.1)).raise Reg.sec_EVENTS 1)) := rfl

theorem newNonce_rd {a : Nat} (h : Reg.sec_NONCE_LO ≠ a) (h4 : Reg.sec_NONCE_LO + 4 ≠ a) : d.newNonce.rd a = d.rd a :=
  (rd_wr64_ne ({ d with freeCtr := d.freeCtr + 1 } : Dev) _ h h4).trans (rd_of_regs rfl a)
/-- The RESULT can be read in TOKEN_CTL. -/
theorem tokenShown_result {r : Nat} (hr : r < 2^8) (m : Nat) : ((d.tokenShown r).raise Reg.sec_EVENTS m).fld Reg.sec_TOKEN_CTL 8 8 = r := by
  have hsame := fld_setFld_same d Reg.sec_TOKEN_CTL 0 16 (r * 2^8) (by decide)
  have hrd : ((d.tokenShown r).raise Reg.sec_EVENTS m).rd Reg.sec_TOKEN_CTL = (d.setFld Reg.sec_TOKEN_CTL 0 16 (r * 2^8)).rd Reg.sec_TOKEN_CTL :=
    (rd_raise_ne _ _ (by decide)).trans (newNonce_rd _ (by decide) (by decide))
  rw [fld_of_rd hrd]
  unfold fld bitsOf at hsame ⊢
  omega

variable {f d}
/-- A token with the serial of another device, or without the nonce, is refused. -/
theorem tokenResult_of_foreign (h : fieldAt d.tokenBytes 8 8 ≠ f.serial ∨ fieldAt d.tokenBytes 16 8 ≠ d.rd64 Reg.sec_NONCE_LO) : tokenResult f d ≠ 0 := by
  unfold tokenResult
  extract_lets t kind k target owner free pub good
  rcases h with h | h
  · split_ifs
    · decide
    · decide
  · split_ifs
    · decide
    · decide
    · decide
theorem ite_code {p : Prop} [Decidable p] {m n : Nat} (hm : m ≤ 7) (hn : n ≤ 7) : (if p then m else n) ≤ 7 :=
  iteInduction (motive := fun x => x ≤ 7) (fun _ => hm) fun _ => hn
theorem tokenResult_le : tokenResult f d ≤ 7 := by
  unfold tokenResult
  extract_lets t kind k target owner free pub good
  refine ite_code (by decide) (ite_code (by decide) (ite_code (by decide) (ite_code (by decide) ?_)))
  clear_value kind k target owner
  split
  · exact ite_code (ite_code (by decide) (by decide)) (ite_code (by decide) (by decide))
  · exact ite_code (by decide) (ite_code (by decide) (by decide))
  · exact ite_code (by decide) (ite_code (by decide) (ite_code (by decide) (ite_code (by decide) (by decide))))
  · exact ite_code (ite_code (by decide) (by decide)) (ite_code (ite_code (by decide) (by decide)) (by decide))
  · decide

/-- A token that is refused changes no fuse and shows its RESULT. -/
theorem token_of_refused (h : tokenResult f d ≠ 0) : (token f g d).1 = f ∧ (token f g d).2.1 = g ∧
    (token f g d).2.2.fld Reg.sec_TOKEN_CTL 8 8 = tokenResult f d ∧ (token f g d).2.2.bit Reg.sec_EVENTS 1 = true := by
  have hcode : tokenCode f d d.free.1 = tokenResult f d := if_neg fun hp => h hp.1
  rw [token_eq, hcode, if_pos h]
  refine ⟨rfl, rfl, tokenShown_result _ ?_ 2, (bit_raise_same _ _ _ _ (by decide) (by decide)).trans (Bool.or_true _)⟩
  exact Nat.lt_of_le_of_lt tokenResult_le (by decide)
/-- A fuse program may fail, but none for a debug unlock. -/
theorem token_of_failed (h : tokenCode f d d.free.1 = 6) : (token f g d).1 = f ∧ (token f g d).2.1 = g ∧ (token f g d).2.2.fld Reg.sec_TOKEN_CTL 8 8 = 6 := by
  rw [token_eq, h, if_pos (by decide)]
  exact ⟨rfl, rfl, tokenShown_result _ (by decide) 2⟩
theorem tokenCode_of_accepted (h : tokenResult f d = 0) (v : Nat) : tokenCode f d v = 0 ∨ (fieldAt d.tokenBytes 0 1 ≠ 4 ∧ tokenCode f d v = 6) := by
  unfold tokenCode
  by_cases hp : tokenResult f d = 0 ∧ fieldAt d.tokenBytes 0 1 ≠ 4 ∧ v % 2 = 1
  · rw [if_pos hp]
    exact .inr ⟨hp.2.1, rfl⟩
  · rw [if_neg hp]
    exact .inl h

variable (hcode : tokenCode f d d.free.1 = 0)
include hcode
/-- A life-cycle change is a device reset. -/
theorem token_of_change (hk : fieldAt d.tokenBytes 0 1 = 1) :
    (token f g d).1 = tokenFuses f d ∧ (token f g d).2.1 = {} ∧ (token f g d).2.2.rdN Reg.sec_RESET_CAUSE = 16 := by
  rw [token_eq, hcode, if_neg (by decide), if_pos hk]
  exact ⟨rfl, rfl, afterReset_cause _ false (by decide)⟩
theorem token_of_key (hk : fieldAt d.tokenBytes 0 1 ≠ 1) (hk4 : fieldAt d.tokenBytes 0 1 ≠ 4) :
    (token f g d).1 = tokenFuses f d ∧ (token f g d).2.1 = g ∧ (token f g d).2.2.bit Reg.sec_EVENTS 0 = true := by
  rw [token_eq, hcode, if_neg (by decide), if_neg hk, if_neg hk4]
  exact ⟨rfl, rfl, (bit_raise_same _ _ _ _ (by decide) (by decide)).trans (Bool.or_true _)⟩
theorem token_of_unlock (hk : fieldAt d.tokenBytes 0 1 = 4) :
    (token f g d).1 = tokenFuses f d ∧ (token f g d).2.1 = g ∧ (token f g d).2.2.bit Reg.sec_STATUS 8 = true := by
  rw [token_eq, hcode, if_neg (by decide), if_neg (by rw [hk]; decide), if_pos hk]
  exact ⟨rfl, rfl, bit_setBit_same _ _ _ _ (by decide)⟩
end token

/-- What a kind of token burns. -/
theorem tokenFuses_of_kind (f : Fuses) (d : Dev) : (fieldAt d.tokenBytes 0 1 = 1 → tokenFuses f d = { f with lc := max f.lc (fieldAt d.tokenBytes 2 1) }) ∧
    (fieldAt d.tokenBytes 0 1 = 2 → tokenFuses f d = { f with keys := SMap.set 0 f.keys (fieldAt d.tokenBytes 2 1) 1,
                                                               digest := SMap.set [] f.digest (fieldAt d.tokenBytes 2 1) ((d.tokenBytes.drop 24).take 64) }) ∧
    (fieldAt d.tokenBytes 0 1 = 3 → tokenFuses f d = { f with keys := SMap.set 0 f.keys (fieldAt d.tokenBytes 2 1) 2 }) ∧
    (fieldAt d.tokenBytes 0 1 = 4 → tokenFuses f d = f) := by
  unfold tokenFuses
  dsimp only
  refine ⟨?_, ?_, ?_, ?_⟩
  all_goals
    intro h
    rw [h]
    rfl

/-! ## The recovery mailbox (R330) -/

theorem length_leBytes (n k : Nat) : (leBytes n k).length = k := by
  induction k generalizing n with
  | zero => rfl
  | succ k ih => rw [leBytes, List.length_cons, ih]
theorem length_wordBytes (ws : List Word) : (wordBytes ws).length = 4 * ws.length := by
  induction ws with
  | nil => rfl
  | cons w ws ih =>
    rw [wordBytes, List.flatMap_cons, List.length_append, ← wordBytes, ih, List.length_cons, length_leBytes]
    omega

section program
variable (d : Dev)
theorem slotAt_of_size {d d' : Dev} (h : d'.flashSize = d.flashSize) (slot : Nat) : d'.slotAt slot = d.slotAt slot := by
  rw [slotAt, slotSize_of_flash h, slotAt]
/-- A programmed slot holds the bytes, where the flash reports no failure. -/
theorem programSlot_spec (slot o : Nat) (bs : List Byte) : (d.programSlot slot o bs).1 = true ∨
    (d.programSlot slot o bs).2.flashBytes (d.slotAt slot + o) bs.length = bs := by
  unfold programSlot
  extract_lets ranges touched first erased src d₁ blocks d₂
  have h₁ : d₁.flashSize = d.flashSize := iteInduction (motive := fun x : Dev => x.flashSize = d.flashSize) (fun _ => rfl) fun _ => rfl
  have h₂ : d₂.flashSize = d.flashSize := (foldl_keeps Dev.flashSize _ (fun (d : Dev) (b : Nat) => d.flashErase (d.slotAt slot + b * 2^16) (2^16)) (fun _ _ => rfl) d₁).trans h₁
  clear_value d₂
  have h₃ : d₂.flashFails.2.flashSize = d.flashSize := h₂
  generalize d₂.flashFails = failed at h₃ ⊢
  obtain ⟨bad, d₃⟩ := failed
  cases bad with
  | true => exact .inl rfl
  | false =>
    refine .inr ?_
    rw [← slotAt_of_size h₃]
    exact SMap.bytes_store ..

section recovery
variable {f : Fuses} {g : Guard} {d : Dev} {v : Nat} (hgo : bitsOf v 0 1 = 1) (hlast : bitsOf v 1 1 = 0) (hflash : d.flashOk = true)
  (hlen : 256 * bitsOf v 4 16 ≤ 2^16) (hok : d.slotWriteOk (bitsOf v 2 1) (d.rdN Reg.sec_REC_OFS) (256 * bitsOf v 4 16) false = true)

/-- The mailbox command has ended; `err` says that it failed. -/
def recShut (d : Dev) (v : Nat) (err : Bool) : Dev :=
  (d.wrN Reg.sec_REC_CTL (v % 2^20 - bitsOf v 0 1 - bitsOf v 3 1 * 8)).setBit Reg.sec_REC_CTL 3 err
/-- The bytes of the mailbox. -/
def recBytes (d : Dev) (len : Nat) : List Byte := wordBytes ((List.range (len / 4)).map (fun i => d.rd (Reg.sec_REC_BUF i)))
theorem recShut_flash (d : Dev) (v : Nat) (err : Bool) : (d.recShut v err).flash = d.flash := flash_of_base ((base_setBit ..).trans (base_wrN ..))
theorem recShut_err (d : Dev) (v : Nat) (err : Bool) : (d.recShut v err).bit Reg.sec_REC_CTL 3 = err := bit_setBit_same _ _ _ _ (by decide)
include hgo in
theorem recShut_go (d : Dev) (err : Bool) : (d.recShut v err).bit Reg.sec_REC_CTL 0 = false := by
  have hodd : v % 2 = 1 := by unfold bitsOf at hgo; omega
  have heven : (v % 2^20 - bitsOf v 0 1 - bitsOf v 3 1 * 8) % 2^32 % 2 = 0 := by
    rw [hgo]
    omega
  unfold recShut
  rw [bit_setBit_other _ _ _ _ _ (by decide) (by decide), bit_eq, fld, rdN_wrN_same, bitsOf]
  rw [pow_zero, Nat.div_one, pow_one, heven]
  rfl
include hgo hlast hflash hlen hok
/-- GO without LAST programs the slot, and the mailbox shows whether that failed. -/
theorem recGo_eq : recGo f g d v = (g, (d.programSlot (bitsOf v 2 1) (d.rdN Reg.sec_REC_OFS) (d.recBytes (256 * bitsOf v 4 16))).2.recShut v
    (d.programSlot (bitsOf v 2 1) (d.rdN Reg.sec_REC_OFS) (d.recBytes (256 * bitsOf v 4 16))).1) := by
  have hlast' : (bitsOf v 1 1 == 1) = false := by rw [hlast]; rfl
  unfold recGo
  extract_lets slot len last shut bs
  rw [if_neg (by rw [hgo]; decide), if_neg]
  · have hbs : bs = d.recBytes len := rfl
    have hshut : shut = fun d err => d.recShut v err := rfl
    have hl : last = false := hlast'
    clear_value bs shut last
    subst hbs hshut hl
    generalize d.programSlot slot (d.rdN Reg.sec_REC_OFS) (d.recBytes len) = programmed
    obtain ⟨bad, e⟩ := programmed
    cases bad with
    | true => rfl
    | false => rfl
  · rintro (h | h | h)
    · rw [hflash] at h
      exact absurd h (by decide)
    · exact absurd hlen (Nat.not_le.2 h)
    · have hl : last = false := hlast'
      rw [hl, hok] at h
      exact absurd h (by decide)
theorem recGo_spec : (recGo f g d v).1 = g ∧ (recGo f g d v).2.bit Reg.sec_REC_CTL 0 = false ∧ ((recGo f g d v).2.bit Reg.sec_REC_CTL 3 = true ∨
    (recGo f g d v).2.flashBytes (d.slotAt (bitsOf v 2 1) + d.rdN Reg.sec_REC_OFS) (256 * bitsOf v 4 16) = d.recBytes (256 * bitsOf v 4 16)) := by
  have hlength : (d.recBytes (256 * bitsOf v 4 16)).length = 256 * bitsOf v 4 16 := by
    rw [recBytes, length_wordBytes, List.length_map, List.length_range]
    omega
  have hspec := d.programSlot_spec (bitsOf v 2 1) (d.rdN Reg.sec_REC_OFS) (d.recBytes (256 * bitsOf v 4 16))
  rw [recGo_eq hgo hlast hflash hlen hok]
  generalize d.programSlot (bitsOf v 2 1) (d.rdN Reg.sec_REC_OFS) (d.recBytes (256 * bitsOf v 4 16)) = programmed at hspec ⊢
  refine ⟨rfl, recShut_go hgo _ _, hspec.imp (fun h => (recShut_err ..).trans h) fun h => ?_⟩
  rw [hlength] at h
  exact (congrArg (fun m => SMap.bytes 0xFF m (d.slotAt (bitsOf v 2 1) + d.rdN Reg.sec_REC_OFS) (256 * bitsOf v 4 16)) (recShut_flash ..)).trans h
end recovery

end program

end Dev

open Dev

section token
variable {s : State} {i : Instr} {k : Nat} (hexec : exec i s = s.onTrust (tokenOf k)) (hstandby : s.dev.standby = false)
  (hkind : fieldAt s.dev.tokenBytes 0 1 = k)
include hstandby hkind
theorem tokenOf_eq : tokenOf k s.fuses s.guard s.dev = token s.fuses s.guard s.dev := by
  unfold tokenOf
  exact if_neg (by rw [hstandby, hkind]; simp)
include hexec
theorem State.leads_of_token {post : State → Prop} (h : post { s with fuses := (token s.fuses s.guard s.dev).1, guard := (token s.fuses s.guard s.dev).2.1,
                                                                        dev := (token s.fuses s.guard s.dev).2.2 }) : s.leads i post := by
  refine s.leads_of_onTrust hexec ?_
  rw [tokenOf_eq hstandby hkind]
  exact h
/-- A command that submits a token of its kind is refused, acts, or its fuse program fails. -/
theorem tokenActs {f' : Fuses} {post : Guard → Dev → Prop}
    (haccept : tokenCode s.fuses s.dev s.dev.free.1 = 0 → (token s.fuses s.guard s.dev).1 = f' ∧ post (token s.fuses s.guard s.dev).2.1 (token s.fuses s.guard s.dev).2.2) :
    (tokenResult s.fuses s.dev ≠ 0 → s.leads i (fun u => u.fuses = s.fuses ∧ u.guard = s.guard ∧
      u.dev.fld Reg.sec_TOKEN_CTL 8 8 = tokenResult s.fuses s.dev ∧ u.dev.bit Reg.sec_EVENTS 1 = true)) ∧
    (tokenResult s.fuses s.dev = 0 → s.leads i (fun u => (u.fuses = f' ∧ post u.guard u.dev) ∨
      (k ≠ 4 ∧ u.fuses = s.fuses ∧ u.guard = s.guard ∧ u.dev.fld Reg.sec_TOKEN_CTL 8 8 = 6))) ∧
    ((fieldAt s.dev.tokenBytes 8 8 ≠ s.fuses.serial ∨ fieldAt s.dev.tokenBytes 16 8 ≠ s.dev.rd64 Reg.sec_NONCE_LO) →
      s.leads i (fun u => u.fuses = s.fuses ∧ u.guard = s.guard)) := by
  refine ⟨fun h => State.leads_of_token hexec hstandby hkind (token_of_refused _ h), fun h => State.leads_of_token hexec hstandby hkind ?_,
    fun h => State.leads_of_token hexec hstandby hkind ?_⟩
  · rcases tokenCode_of_accepted h s.dev.free.1 with hcode | ⟨hk, hcode⟩
    · exact .inl (haccept hcode)
    · exact .inr ⟨hkind ▸ hk, token_of_failed _ hcode⟩
  · obtain ⟨hfuses, hguard, -⟩ := token_of_refused s.guard (tokenResult_of_foreign h)
    exact ⟨hfuses, hguard⟩
end token

/-- Settles O46: CONFIRM and TRY_EN by what they write, each token by its RESULT, and the mailbox by whether the flash fails. -/
theorem fusesFollowTokens : Obligations.FusesFollowTokens := by
  unfold Obligations.FusesFollowTokens
  intro s d f t target
  refine ⟨fun hstandby hboot hrec => ?_, fun slot hstandby => ?_, fun hstandby => ?_, ?_⟩
  · refine s.leads_of_onTrust (exec_confirm s) ?_
    have hconfirm : confirmT s.fuses s.guard s.dev = ((confirmed s.fuses s.dev).1, s.guard, (confirmed s.fuses s.dev).2) := if_neg (by rw [hstandby]; decide)
    rw [hconfirm, confirmed_eq hboot hrec]
    refine ⟨rfl, (bit_setBit_ne _ _ _ _ (by decide)).trans (bit_setBit_same _ _ _ _ (by decide)), flash_of_base ((base_setBit ..).trans (base_setBit ..)), ?_⟩
    dsimp only
    split
    · rfl
    · rfl
  · refine State.runs_of_onDev (exec_tryEn slot s) (if_neg (by rw [hstandby]; decide)) ?_
    obtain ⟨hf, hen, hslot⟩ := s.dev.setTry_spec (if slot then 1 else 0)
    exact ⟨hf, hen, hslot.trans (by cases slot <;> rfl)⟩
  · intro acts
    refine ⟨fun hk => ?_, fun hk => ?_, fun hk => ?_, fun hk => ?_⟩
    · obtain ⟨hburn, -⟩ := tokenFuses_of_kind s.fuses s.dev
      refine tokenActs (post := fun g' d' => g' = {} ∧ d'.rdN Reg.sec_RESET_CAUSE = 16) (exec_lcChange s) hstandby hk fun hcode => ?_
      obtain ⟨hfuses, hpost⟩ := token_of_change s.guard hcode hk
      exact ⟨hfuses.trans (hburn hk), hpost⟩
    · obtain ⟨-, hburn, -⟩ := tokenFuses_of_kind s.fuses s.dev
      refine tokenActs (post := fun g' d' => g' = s.guard ∧ d'.bit Reg.sec_EVENTS 0 = true) (exec_addKey s) hstandby hk fun hcode => ?_
      obtain ⟨hfuses, hpost⟩ := token_of_key s.guard hcode (hk ▸ by decide) (hk ▸ by decide)
      exact ⟨hfuses.trans (hburn hk), hpost⟩
    · obtain ⟨-, -, hburn, -⟩ := tokenFuses_of_kind s.fuses s.dev
      refine tokenActs (post := fun g' d' => g' = s.guard ∧ d'.bit Reg.sec_EVENTS 0 = true) (exec_revokeKey s) hstandby hk fun hcode => ?_
      obtain ⟨hfuses, hpost⟩ := token_of_key s.guard hcode (hk ▸ by decide) (hk ▸ by decide)
      exact ⟨hfuses.trans (hburn hk), hpost⟩
    · obtain ⟨-, -, -, hburn⟩ := tokenFuses_of_kind s.fuses s.dev
      refine tokenActs (post := fun g' d' => g' = s.guard ∧ d'.bit Reg.sec_STATUS 8 = true) (exec_debugUnlock s) hstandby hk fun hcode => ?_
      obtain ⟨hfuses, hpost⟩ := token_of_unlock s.guard hcode hk
      exact ⟨hfuses.trans (hburn hk), hpost⟩
  · intro v slot len ofs hstandby hrec hgo hlast hflash hlen hok
    have hbit (i : Nat) (b : Bool) (h : v.getLsbD i = b) : bitsOf v.toNat i 1 = if b then 1 else 0 := by rw [bitsOf_one, h]
    obtain ⟨hguard, hpost⟩ := recGo_spec (f := s.fuses) (g := s.guard) (hbit 0 true hgo) (hbit 1 false hlast) hflash hlen hok
    have heq : recCtlS v s.fuses s.guard s.dev = recGo s.fuses s.guard s.dev v.toNat := if_neg (by rw [hstandby, hrec]; decide)
    refine ⟨_, exec_recCtl v s, ⟨?_, rfl, rfl⟩, ?_⟩
    · exact (congrArg Prod.fst heq).trans hguard
    · dsimp only
      rw [heq]
      exact hpost

end Sys2Proof.Machine

/-! PROOFS. Host commands as rows (R273, R276, R283): a command that is ready completes with its status and RESULT, and its requests to host memory that
pass the window check read and write the whole buffer. -/
namespace Sys2Proof.Machine

theorem SMap.store_append {dflt : Byte} (m : SMap Byte) (a : Nat) (l l' : List Byte) :
    SMap.store dflt m a (l ++ l') = SMap.store dflt (SMap.store dflt m a l) (a + l.length) l' := by
  induction l generalizing m a with
  | nil => rfl
  | cons b l ih =>
    rw [List.cons_append, SMap.store, ih, SMap.store, List.length_cons]
    congr 1
    omega

namespace Dev

/-! ## Completions (R276) -/

/-- The completion of command `c` awaits its write. -/
def completed (d : Dev) (c : HostCmd) (status result : Nat) : Dev :=
  { d with host := { d.host with cqes := d.host.cqes ++ [d.cqeOf c status result false] } }

section completed
variable (d : Dev) (c : HostCmd) (status result : Nat)
theorem completed_completesWith : (d.completed c status result).completesWith c status result :=
  ⟨d.cqeOf c status result false, List.getLast?_concat .., rfl, rfl, rfl, rfl, rfl, rfl, rfl, rfl⟩
/-- Nothing but the completion has changed. -/
theorem completed_only : d.completed c status result = { d with host := (d.completed c status result).host } := rfl
theorem completed_rd (a : Nat) : (d.completed c status result).rd a = d.rd a := rfl
theorem row_of_ready {op : Nat} {run : Dev → Ran} {c : HostCmd} {d : Dev} (h : d.ready op c = true) :
    row op run c d = (run d).dev.completed c (run d).status (run d).result := by
  unfold row
  exact if_neg (by rw [h]; decide)
end completed

/-- A command whose function is fetched from, and whose DRAM is served, is ready. -/
theorem ready_of_spans {d : Dev} {op : Nat} {c : HostCmd} (hfetches : d.fetches c.fn = true) (hmove : op ≠ 0x40 ∧ op ≠ 0x41)
    (hspans : ∀ r ∈ d.dramSpans op c, d.stallsAt r.1 r.2 = false) : d.ready op c = true := by
  have hwait : d.mustWait op c = false := List.any_eq_false.2 fun r hr => by rw [hspans r hr]; decide
  have hmove' : (op == 0x40 || op == 0x41) = false := by
    rw [Bool.or_eq_false_iff, beq_eq_false_iff_ne, beq_eq_false_iff_ne]
    exact hmove
  unfold ready
  rw [hfetches, hwait, hmove']
  rfl

end Dev

/-- A row whose command is ready ends as its command ends. -/
theorem State.ends_of_row {s : State} {i : Instr} {op : Nat} {run : Dev → Ran} {c : HostCmd} {status result : Nat} {post : Dev → Prop}
    (hexec : exec i s = s.onDev (Dev.row op run c)) (hready : s.dev.ready op c = true) {d' : Dev} (hrun : run s.dev = ⟨status, result, d', []⟩)
    (hpost : post (d'.completed c status result)) : s.ends i c status result post := by
  refine State.runs_of_onDev hexec (Dev.row_of_ready hready) ?_
  rw [hrun]
  exact ⟨Dev.completed_completesWith .., hpost⟩

namespace Dev

/-! ## The window check (R273) -/

section windows
variable {d : Dev} {fn addr len : Nat}

/-- Each page that a range meets holds a byte of it. -/
theorem page_of_range (hlen : len ≠ 0) {i : Nat} (hi : i < (addr + len - 1) / 4096 - addr / 4096 + 1) : ∃ k < len, addr / 4096 + i = (addr + k) / 4096 :=
  ⟨max addr ((addr / 4096 + i) * 4096) - addr, by omega, by omega⟩

theorem dmaSpan_of_pages {write : Bool} (h : ∀ k < len, d.pageOk fn ((addr + k) / 4096) write = true) : d.dmaSpan fn addr len write = len := by
  by_cases hlen : len = 0
  · rw [hlen]
    rfl
  unfold dmaSpan
  rw [if_neg hlen]
  extract_lets p0 n
  have hnone : (List.range n).find? (fun i => !d.pageOk fn (p0 + i) write) = none := by
    rw [List.find?_eq_none]
    intro i hi
    obtain ⟨k, hk, hpage⟩ := page_of_range hlen (List.mem_range.1 hi)
    rw [hpage, h k hk]
    decide
  rw [hnone]
theorem dmaSpan_of_windowed {write : Bool} (h : d.windowed fn addr len write) : d.dmaSpan fn addr len write = len := dmaSpan_of_pages fun k hk => (h k hk).1

/-- The window check depends on the windows alone. -/
theorem windowOk_of_host {d' : Dev} (hhost : d'.host = d.host) (hparity : d'.parity = d.parity) (fn w page : Nat) (write : Bool) :
    d'.windowOk fn w page write = d.windowOk fn w page write := by
  rw [windowOk, hhost, hparity, windowOk]
theorem pageOk_of_host {d' : Dev} (hhost : d'.host = d.host) (hparity : d'.parity = d.parity) (fn page : Nat) (write : Bool) :
    d'.pageOk fn page write = d.pageOk fn page write :=
  congrArg (List.any _) (funext fun w => windowOk_of_host hhost hparity fn w page write)
theorem dmaSpan_of_host {d' : Dev} (hhost : d'.host = d.host) (hparity : d'.parity = d.parity) (fn addr len : Nat) (write : Bool) :
    d'.dmaSpan fn addr len write = d.dmaSpan fn addr len write := by
  have hpage : d'.pageOk = d.pageOk := funext fun fn => funext fun page => funext fun write => pageOk_of_host hhost hparity fn page write
  rw [dmaSpan, hpage, dmaSpan]
theorem pagePeer_of_dmaw {d' : Dev} (hdmaw : d'.host.dmaw = d.host.dmaw) (hparity : d'.parity = d.parity) (fn page : Nat) :
    d'.pagePeer fn page = d.pagePeer fn page := by
  have hwin (w : Nat) : d'.windowOk fn w page true = d.windowOk fn w page true := by rw [windowOk, hdmaw, hparity, windowOk]
  unfold pagePeer
  rw [hdmaw]
  exact congrArg (List.any _) (funext fun w => by rw [hwin])
theorem pagePeer_of_host {d' : Dev} (hhost : d'.host = d.host) (hparity : d'.parity = d.parity) (fn page : Nat) : d'.pagePeer fn page = d.pagePeer fn page :=
  pagePeer_of_dmaw (by rw [hhost]) hparity fn page
end windows

/-! ## Writes to host memory (R273) -/

section give
variable (d : Dev) (fn a : Nat) (bs : List Byte)

/-- Posted writes have gone to another card. -/
def peerSent (out : List (Nat × List Byte)) : Dev := { d with host := { d.host with peerOut := d.host.peerOut ++ out } }
theorem peerSent_nil : d.peerSent [] = d := by
  unfold peerSent
  rw [List.append_nil]
theorem peerSent_append (out out' : List (Nat × List Byte)) : (d.peerSent out).peerSent out' = d.peerSent (out ++ out') := by
  unfold peerSent
  rw [← List.append_assoc]
theorem pagePeer_peerSent (out : List (Nat × List Byte)) (page : Nat) : (d.peerSent out).pagePeer fn page = d.pagePeer fn page := pagePeer_of_dmaw rfl rfl fn page
theorem pagePeer_hostStore (page : Nat) : (d.hostStore a bs).pagePeer fn page = d.pagePeer fn page := pagePeer_of_host rfl rfl fn page

/-- The bytes of a buffer that lie before page `i` of those that it meets. -/
def beforePage (i : Nat) : Nat := (a / 4096 + i) * 4096 - a
/-- The part of a buffer that lies in page `i` of those that it meets. -/
def pagePart (i : Nat) : List Byte := (bs.drop (beforePage a i)).take (beforePage a (i + 1) - beforePage a i)
theorem take_pagePart (i : Nat) : bs.take (beforePage a i) ++ pagePart a bs i = bs.take (beforePage a (i + 1)) := by
  have hle : beforePage a i ≤ beforePage a (i + 1) := by unfold beforePage; omega
  conv_rhs => rw [show beforePage a (i + 1) = beforePage a i + (beforePage a (i + 1) - beforePage a i) by omega, List.take_add]
  rfl
theorem hostGive_eq (hbs : bs ≠ []) : d.hostGive fn a bs = (List.range ((a + bs.length - 1) / 4096 - a / 4096 + 1)).foldl (fun (d : Dev) (i : Nat) =>
    if d.pagePeer fn (a / 4096 + i) then d.peerSent [(a + beforePage a i, pagePart a bs i)]
    else d.hostStore (a + beforePage a i) (pagePart a bs i)) d := by
  have hlo (i : Nat) : max a ((a / 4096 + i) * 4096) = a + beforePage a i := by unfold beforePage; omega
  have hlen (i : Nat) : (a / 4096 + i + 1) * 4096 - (a + beforePage a i) = beforePage a (i + 1) - beforePage a i := by unfold beforePage; omega
  unfold hostGive
  rw [if_neg (by rw [List.isEmpty_iff]; exact hbs)]
  extract_lets p0
  refine List.foldl_ext _ _ _ fun d i _ => ?_
  dsimp only
  rw [hlo, hlen, Nat.add_sub_cancel_left]
  rfl

/-- The pages that a buffer meets end at or after it. -/
theorem take_lastPage (hbs : bs ≠ []) : bs.take (beforePage a ((a + bs.length - 1) / 4096 - a / 4096 + 1)) = bs := by
  have := List.length_pos_iff.2 hbs
  exact List.take_of_length_le (by unfold beforePage; omega)

/-- A write of which no page goes to another card stores its bytes. -/
theorem hostGive_store (h : ∀ k < bs.length, d.pagePeer fn ((a + k) / 4096) = false) : d.hostGive fn a bs = d.hostStore a bs := by
  by_cases hbs : bs = []
  · rw [hbs]
    rfl
  have hlen := List.length_pos_iff.2 hbs
  rw [hostGive_eq d fn a bs hbs]
  have hstep (n : Nat) (hn : n ≤ (a + bs.length - 1) / 4096 - a / 4096 + 1) : (List.range n).foldl (fun (d : Dev) (i : Nat) =>
      if d.pagePeer fn (a / 4096 + i) then d.peerSent [(a + beforePage a i, pagePart a bs i)]
      else d.hostStore (a + beforePage a i) (pagePart a bs i)) d = d.hostStore a (bs.take (beforePage a n)) := by
    induction n with
    | zero =>
      have h0 : beforePage a 0 = 0 := by unfold beforePage; omega
      rw [h0]
      rfl
    | succ n ih =>
      obtain ⟨k, hk, hpage⟩ := page_of_range (addr := a) (len := bs.length) (by omega) (i := n) (by omega)
      have hpeer : (d.hostStore a (bs.take (beforePage a n))).pagePeer fn (a / 4096 + n) = false := by
        rw [hpage, pagePeer_hostStore]
        exact h k hk
      have htaken : (bs.take (beforePage a n)).length = beforePage a n := by
        rw [List.length_take]
        unfold beforePage
        omega
      rw [List.range_succ, List.foldl_append, ih (by omega), List.foldl_cons, List.foldl_nil, hpeer, if_neg Bool.false_ne_true, ← take_pagePart]
      unfold hostStore
      rw [SMap.store_append, htaken]
  rw [hstep _ (le_refl _), take_lastPage a bs hbs]

/-- A write of which every page goes to another card leaves host memory and goes there in order (R273). -/
theorem hostGive_peer (h : ∀ k < bs.length, d.pagePeer fn ((a + k) / 4096) = true) : ∃ out, out.flatMap (fun x => x.2) = bs ∧
    d.hostGive fn a bs = d.peerSent out := by
  by_cases hbs : bs = []
  · refine ⟨[], hbs.symm, ?_⟩
    rw [hbs, peerSent_nil]
    rfl
  have hlen := List.length_pos_iff.2 hbs
  rw [hostGive_eq d fn a bs hbs]
  have hstep (n : Nat) (hn : n ≤ (a + bs.length - 1) / 4096 - a / 4096 + 1) : ∃ out, out.flatMap (fun x => x.2) = bs.take (beforePage a n) ∧
      (List.range n).foldl (fun (d : Dev) (i : Nat) =>
        if d.pagePeer fn (a / 4096 + i) then d.peerSent [(a + beforePage a i, pagePart a bs i)]
        else d.hostStore (a + beforePage a i) (pagePart a bs i)) d = d.peerSent out := by
    induction n with
    | zero =>
      have h0 : beforePage a 0 = 0 := by unfold beforePage; omega
      refine ⟨[], by rw [h0]; rfl, ?_⟩
      exact (peerSent_nil d).symm
    | succ n ih =>
      obtain ⟨out, hout, hfold⟩ := ih (by omega)
      obtain ⟨k, hk, hpage⟩ := page_of_range (addr := a) (len := bs.length) (by omega) (i := n) (by omega)
      refine ⟨out ++ [(a + beforePage a n, pagePart a bs n)], ?_, ?_⟩
      · rw [List.flatMap_append, hout, ← take_pagePart]
        simp
      · rw [List.range_succ, List.foldl_append, hfold, List.foldl_cons, List.foldl_nil, pagePeer_peerSent, hpage, h k hk, if_pos rfl, peerSent_append]
  obtain ⟨out, hout, hfold⟩ := hstep _ (le_refl _)
  exact ⟨out, by rw [hout, take_lastPage a bs hbs], hfold⟩
end give

/-! ## The command's host buffer (R273, R282) -/

section buffer
variable {d : Dev} {c : HostCmd} {len : Nat}
/-- A quiet device reads the whole of a buffer that passes the window check. -/
theorem takeBuf_of_windowed (hquiet : d.quiet) (h : d.windowed c.fn c.addr.toNat len false) (k : List Byte → Ran) :
    d.takeBuf c len k = k (d.hostBytes c.addr.toNat len) := by
  unfold takeBuf
  rw [hquiet.1]
  dsimp only
  rw [dmaSpan_of_windowed h, if_neg (Nat.lt_irrefl len), hquiet.2, if_neg Bool.false_ne_true]
theorem giveAt_of_windowed {addr : Nat} {bs : List Byte} (h : d.windowed c.fn addr bs.length true) (result : Nat) :
    d.giveAt c addr bs result = (d.hostStore addr bs).ok result := by
  unfold giveAt
  dsimp only
  rw [dmaSpan_of_windowed h, List.take_length, if_neg (Nat.lt_irrefl _), hostGive_store d _ _ _ fun k hk => (h k hk).2 rfl]
theorem giveBuf_of_windowed {bs : List Byte} (h : d.windowed c.fn c.addr.toNat bs.length true) (result : Nat) :
    d.giveBuf c bs result = (d.hostStore c.addr.toNat bs).ok result := giveAt_of_windowed h result
end buffer

end Dev
end Sys2Proof.Machine

/-! PROOFS. Transfers between host memory and DRAM while no codeword errs (R273, R285): what the traffic leaves of the host interface, and the steps of
MEM_WRITE and MEM_READ. -/
namespace Sys2Proof.Machine
namespace Dev

/-! ## Traffic without errors leaves the host interface alone -/

section quietTraffic
variable (d : Dev)

/-- What the host sees: its interface and its memory. -/
def hostSide (d : Dev) : HostSt × SMap Byte := (d.host, d.hostMem)
theorem wr64_hostSide (a v : Nat) : (d.wr64 a v).hostSide = d.hostSide := Prod.ext (wr64_host ..) (wr64_hostMem ..)
theorem rowAfter_hostSide (m l : Nat) (o : Bool) : (d.rowAfter m l o).hostSide = d.hostSide := rfl
theorem touch_hostSide (write : Bool) (a n : Nat) : (d.touch write a n).hostSide = d.hostSide := by
  have hwoken (m : Nat) : (if d.inSr m then d.exitSr m else d).hostSide = d.hostSide := by
    unfold exitSr
    refine iteInduction (motive := fun x : Dev => x.hostSide = d.hostSide) (fun _ => iteInduction (motive := fun x : Dev => x.hostSide = d.hostSide) (fun _ => rfl)
      fun _ => ?_) fun _ => rfl
    rw [hostSide, setBit_host, setBit_hostMem, setOwed, setFld_host, setFld_hostMem, hostSide]
  rw [touch_eq, ← hwoken (d.place a).1, touchAt, rowAfter_hostSide, addSat64, wr64_hostSide]
theorem fillPass_keeps {β : Type} (q : Dev → β) (hq : ∀ d write a n, q (touch d write a n) = q d) (g : Nat) : q (d.fillPass g) = q d := by
  unfold fillPass
  generalize unitParts (g * 2^20) (2^20) = parts
  exact iteInduction (motive := fun x : Dev => q x = q d) (fun _ => rfl) fun _ => foldl_keeps q parts _ (fun d _ => hq d ..) d

variable {d} (hbad : d.badCw = [])
include hbad
theorem served_of_clean (write : Bool) (a n : Nat) : (d.served write a n).hostSide = d.hostSide ∧ (d.served write a n).badCw = [] := by
  unfold served
  extract_lets d₁ d₂
  have h₁ : d₁.hostSide = d.hostSide ∧ d₁.badCw = [] :=
    iteInduction (motive := fun x : Dev => x.hostSide = d.hostSide ∧ x.badCw = [])
      (fun _ => ⟨foldl_keeps hostSide _ _ (fun d _ => fillPass_keeps d hostSide touch_hostSide _) d, (foldl_keeps Dev.badCw _ _ (fun d _ => fillPass_keeps d Dev.badCw touch_badCw _) d).trans hbad⟩)
      fun _ => ⟨rfl, hbad⟩
  have hkeeps {β : Type} (q : Dev → β) (hq : ∀ d write a n, q (touch d write a n) = q d) : q d₂ = q d₁ :=
    foldl_keeps q _ _ (fun d p => iteInduction (motive := fun x : Dev => q x = q d) (fun _ => rfl) fun _ => hq d ..) d₁
  have h₂ : d₂.badCw = [] := (hkeeps Dev.badCw touch_badCw).trans h₁.2
  rw [correct_of_none (errsIn_of_none h₂ ..)]
  exact ⟨(hkeeps hostSide touch_hostSide).trans h₁.1, h₂⟩
theorem wipeIn_of_clean (g : Nat) : (d.wipeIn g).hostSide = d.hostSide ∧ (d.wipeIn g).badCw = [] := by
  have hwiped : (d.wipedIn g).hostSide = d.hostSide ∧ (d.wipedIn g).badCw = [] := ⟨rfl, by rw [wipedIn, hbad]; rfl⟩
  rw [wipeIn_eq]
  refine iteInduction (motive := fun x : Dev => x.hostSide = d.hostSide ∧ x.badCw = []) (fun _ => ⟨rfl, hbad⟩) fun _ => ?_
  refine iteInduction (motive := fun x : Dev => x.hostSide = d.hostSide ∧ x.badCw = []) (fun _ => ?_) fun _ => hwiped
  generalize d.wipedIn g = d₁ at hwiped ⊢
  have hside : ((d₁.setBit Reg.sec_STATUS 9 false).raise Reg.sec_EVENTS 16).hostSide = d₁.hostSide := by
    rw [hostSide, raise_host, setBit_host, raise_hostMem, setBit_hostMem, hostSide]
  exact ⟨hside.trans hwiped.1,
    (badCw_of_base ((base_raise ..).trans (base_setBit ..))).trans hwiped.2⟩
theorem wipeFrom_of_clean (g : Nat) (l : List Nat) : (d.wipeFrom g l).hostSide = d.hostSide ∧ (d.wipeFrom g l).badCw = [] :=
  foldl_invariant (P := fun x : Dev => x.hostSide = d.hostSide ∧ x.badCw = [])
    (fun _ i _ hx => have h := wipeIn_of_clean hx.2 (g + i); ⟨h.1.trans hx.1, h.2⟩) ⟨rfl, hbad⟩
theorem dramWrite_of_clean (a : Nat) (bs : List Byte) : (d.dramWrite a bs).hostSide = d.hostSide ∧ (d.dramWrite a bs).badCw = [] := by
  rw [dramWrite_eq]
  have hwiped : (if bs.isEmpty then d else d.wipeFrom (a / 2^20) (List.range ((a + bs.length - 1) / 2^20 - a / 2^20 + 1))).hostSide = d.hostSide ∧
      (if bs.isEmpty then d else d.wipeFrom (a / 2^20) (List.range ((a + bs.length - 1) / 2^20 - a / 2^20 + 1))).badCw = [] :=
    iteInduction (motive := fun x : Dev => x.hostSide = d.hostSide ∧ x.badCw = []) (fun _ => ⟨rfl, hbad⟩) fun _ => wipeFrom_of_clean hbad ..
  generalize (if bs.isEmpty then d else d.wipeFrom (a / 2^20) (List.range ((a + bs.length - 1) / 2^20 - a / 2^20 + 1))) = d₁ at hwiped ⊢
  refine ⟨hwiped.1, ?_⟩
  rw [storeDram]
  exact (congrArg (List.filter _) hwiped.2).trans rfl
theorem writeDram_of_clean (a : Nat) (bs : List Byte) : (d.writeDram a bs).hostSide = d.hostSide ∧ (d.writeDram a bs).badCw = [] := by
  obtain ⟨hside, hclean⟩ := served_of_clean hbad true a bs.length
  obtain ⟨hside', hclean'⟩ := dramWrite_of_clean hclean a bs
  exact ⟨hside'.trans hside, hclean'⟩
end quietTraffic

/-! ## What every step of a transfer tests stays the same -/

/-- Traffic without errors and writes to host memory: what the tests of a transfer read is as before. -/
structure serves (d d' : Dev) : Prop where
  work : worked d d'
  stir : stirred d d'
  clean : d'.badCw = []
  wins : d'.host.dmaw = d.host.dmaw
  reads : d'.host.rdErr = d.host.rdErr

section serves
variable {d d' d'' : Dev}
theorem ptab_of_calmPart (h : d'.calmPart = d.calmPart) : d'.ptab = d.ptab := (congrArg Dev.ptab h :)
theorem serves_refl (hbad : d.badCw = []) : serves d d := ⟨worked_refl d, stirred_refl d, hbad, rfl, rfl⟩
theorem serves_trans (h : serves d d') (h' : serves d' d'') : serves d d'' :=
  ⟨worked_trans h.work h'.work, stirred_trans h.stir h'.stir, h'.clean, h'.wins.trans h.wins, h'.reads.trans h.reads⟩
theorem host_of_hostSide (h : d'.hostSide = d.hostSide) : d'.host = d.host := congrArg Prod.fst h
theorem hostMem_of_hostSide (h : d'.hostSide = d.hostSide) : d'.hostMem = d.hostMem := congrArg Prod.snd h
theorem serves_of_hostSide (hwork : worked d d') (hstir : stirred d d') (h : d'.hostSide = d.hostSide ∧ d'.badCw = []) : serves d d' :=
  ⟨hwork, hstir, h.2, by rw [host_of_hostSide h.1], by rw [host_of_hostSide h.1]⟩
theorem serves_served (hbad : d.badCw = []) (write : Bool) (a n : Nat) : serves d (d.served write a n) :=
  serves_of_hostSide (worked_served ..) (stirred_served ..) (served_of_clean hbad ..)
theorem serves_writeDram (hbad : d.badCw = []) (a : Nat) (bs : List Byte) : serves d (d.writeDram a bs) :=
  serves_of_hostSide (worked_writeDram ..) (stirred_writeDram ..) (writeDram_of_clean hbad ..)
theorem serves_hostStore (hbad : d.badCw = []) (a : Nat) (bs : List Byte) : serves d (d.hostStore a bs) :=
  ⟨worked_of_parts rfl rfl rfl, stirred_of_parts d rfl rfl rfl rfl, hbad, rfl, rfl⟩
theorem serves_peerSent (hbad : d.badCw = []) (out : List (Nat × List Byte)) : serves d (d.peerSent out) :=
  ⟨worked_of_parts rfl rfl rfl, stirred_of_parts d rfl rfl rfl rfl, hbad, rfl, rfl⟩

variable (h : serves d d')
include h
theorem pageOk_of_serves (fn page : Nat) (write : Bool) : d'.pageOk fn page write = d.pageOk fn page write :=
  congrArg (List.any _) (funext fun w => by rw [windowOk, h.wins, calmPart_parity h.work.calm, windowOk])
theorem pagePeer_of_serves (fn page : Nat) : d'.pagePeer fn page = d.pagePeer fn page := pagePeer_of_dmaw h.wins (calmPart_parity h.work.calm) ..
theorem partOn_of_serves {p : Nat} (hp : p < 12) : d'.partOn p = d.partOn p := by
  rw [partOn, fld_of_rd (h.stir.rd _ (by unfold calmReg Reg.part_STATE; omega)), partOn]
theorem dramRegion_of_serves (c : HostCmd) (a n : Nat) : d'.dramRegion c.owner a n = d.dramRegion c.owner a n := by
  have hptab (p w : Nat) : d'.ptabW p w = d.ptabW p w := by rw [ptabW, ptab_of_calmPart h.work.calm, ptabW]
  unfold dramRegion
  rw [calmPart_mm h.work.calm]
  extract_lets pops inPieces
  refine congrArg (fun x => inPieces pops && decide (a + n ≤ d.mm.descAt ∨ d.mm.descAt + 2^22 ≤ a) && x) ?_
  cases ho : c.owner with
  | none => rfl
  | some p =>
    have hp : p < 12 := by
      have := c.fn.isLt
      unfold HostCmd.owner fnOwner at ho
      split at ho
      · exact absurd ho (by simp)
      · have := Option.some.inj ho
        omega
    dsimp only
    rw [partOn_of_serves h hp]
    exact congrArg (_ && ·) (congrArg (List.any _) (funext fun r => by rw [hptab]))
theorem dramDown_of_serves : d'.dramDown = d.dramDown := by
  rw [dramDown, frozen, bit_of_rd (h.work.rd _ ⟨by decide, by decide, fun h => absurd h (by decide)⟩), bit_of_rd (h.work.rd _ ⟨by decide, by decide, fun h => absurd h (by decide)⟩),
    dramDown, frozen]
theorem rangeStatus_of_serves (c : HostCmd) (a len unit : Nat) : d'.rangeStatus c a len unit = d.rangeStatus c a len unit := by
  rw [rangeStatus, dramRegion_of_serves h, dramDown_of_serves h, rangeStatus]
theorem badIn_of_serves (a n : Nat) : d'.badIn a n = none := by
  rw [badIn, errsIn_of_none h.clean]
  rfl
theorem badPart_of_serves (a n : Nat) : d'.badPart a n = none := by
  rw [badPart, errsIn_of_none h.clean]
  rfl
end serves

end Dev
end Sys2Proof.Machine

/-! PROOFS. The obligation on the commands that move data between host memory and DRAM (R273, R285, R324). -/
namespace Sys2Proof.Machine

theorem exec_nop (c : HostCmd) (s : State) : exec (.nop c) s = s.onDev (Dev.row 0x00 (fun d => d.ok) c) := rfl
theorem exec_memWrite (c : HostCmd) (s : State) : exec (.memWrite c) s = s.onDev (Dev.row 0x01 (fun d => d.memWrite c) c) := rfl
theorem exec_memRead (c : HostCmd) (s : State) : exec (.memRead c) s = s.onDev (Dev.row 0x02 (fun d => d.memRead c) c) := rfl
theorem exec_wipe (c : HostCmd) (s : State) : exec (.wipe c) s = s.onDev (Dev.row 0x03 (fun d => d.wipe c) c) := rfl

namespace Dev

/-! ## A command in steps (R282) -/

/-- A step that ends a command ends it as a whole. -/
theorem allSteps_of_end {step : Dev → Nat → Ran ⊕ (Dev × Nat)} {fuel : Nat} {d : Dev} {m : Nat} {r : Ran} (h : step d m = .inl r) :
    allSteps step (fuel + 1) d m = r := by
  rw [allSteps, h]
theorem allSteps_of_more {step : Dev → Nat → Ran ⊕ (Dev × Nat)} {fuel : Nat} {d e : Dev} {m n : Nat} (h : step d m = .inr (e, n)) :
    allSteps step (fuel + 1) d m = allSteps step fuel e n := by
  rw [allSteps, h]

/-- A transfer of `len` bytes that keeps `P` from step to step ends with `P` of the whole. -/
theorem allSteps_transfer {step : Dev → Nat → Ran ⊕ (Dev × Nat)} {len result : Nat} {P : Nat → Dev → Prop}
    (hstep : ∀ d m, m ≤ len → P m d → ∃ e, P (m + stepBytes len m) e ∧ step d m = if m + stepBytes len m = len then .inl (e.ok result) else .inr (e, m + stepBytes len m))
    {fuel : Nat} {d : Dev} {m : Nat} (hm : m ≤ len) (hfuel : len < m + 262144 * fuel) (hP : P m d) : ∃ e, P len e ∧ allSteps step fuel d m = e.ok result := by
  induction fuel generalizing d m with
  | zero => omega
  | succ fuel ih =>
    obtain ⟨e, he, hs⟩ := hstep d m hm hP
    by_cases hend : m + stepBytes len m = len
    · rw [if_pos hend] at hs
      exact ⟨e, hend ▸ he, allSteps_of_end hs⟩
    · rw [if_neg hend] at hs
      rw [allSteps_of_more hs]
      unfold stepBytes at he hend ⊢
      exact ih (by omega) (by omega) he

/-- What the steps of a transfer may rely on. -/
structure transfers (d : Dev) (c : HostCmd) : Prop where
  aligned : c.aligned = true
  status : d.rangeStatus c (c.p64 0) c.len.toNat 64 = 0
  clean : d.badCw = []

section transfer
variable {d e : Dev} {c : HostCmd} (ht : transfers d c) (hs : serves d e)
include ht hs

theorem memWriteStep_of_serves (hread : d.host.rdErr = false) (hwin : d.windowed c.fn c.addr.toNat c.len.toNat false) {m : Nat} (hm : m ≤ c.len.toNat) :
    e.memWriteStep c m = if m + stepBytes c.len.toNat m = c.len.toNat
      then .inl ((e.writeDram (c.p64 0 + m) (e.hostBytes (c.addr.toNat + m) (stepBytes c.len.toNat m))).ok c.len.toNat)
      else .inr (e.writeDram (c.p64 0 + m) (e.hostBytes (c.addr.toNat + m) (stepBytes c.len.toNat m)), m + stepBytes c.len.toNat m) := by
  have hspan : e.dmaSpan c.fn (c.addr.toNat + m) (stepBytes c.len.toNat m) false = stepBytes c.len.toNat m := dmaSpan_of_pages fun k hk => by
    rw [pageOk_of_serves hs, Nat.add_assoc]
    exact (hwin (m + k) (by unfold stepBytes at hk; omega)).1
  unfold memWriteStep
  extract_lets a len s k n put d₁
  have hstatus : s = 0 := (rangeStatus_of_serves hs ..).trans ht.status
  have hn : n = k := hspan
  rw [if_neg (by rw [ht.aligned]; decide), if_neg (not_not_intro hstatus), if_neg (by rw [hs.reads, hread]; exact fun h => Bool.false_ne_true h.2), badPart_of_serves hs]
  dsimp only
  have hd₁ : d₁ = e.writeDram (a + m) (e.hostBytes (c.addr.toNat + m) k) := by
    dsimp only [d₁, put]
    rw [hn]
  rw [if_neg (by rw [hn]; exact Nat.lt_irrefl _), hd₁]

theorem memReadStep_of_serves (hwin : ∀ k < c.len.toNat, d.pageOk c.fn ((c.addr.toNat + k) / 4096) true = true) {m : Nat} (hm : m ≤ c.len.toNat) :
    e.memReadStep c m = if m + stepBytes c.len.toNat m = c.len.toNat
      then .inl (((e.served false (c.p64 0 + m) (stepBytes c.len.toNat m)).hostGive c.fn (c.addr.toNat + m) (e.dramRead (c.p64 0 + m) (stepBytes c.len.toNat m))).ok c.len.toNat)
      else .inr ((e.served false (c.p64 0 + m) (stepBytes c.len.toNat m)).hostGive c.fn (c.addr.toNat + m) (e.dramRead (c.p64 0 + m) (stepBytes c.len.toNat m)),
        m + stepBytes c.len.toNat m) := by
  have hspan : e.dmaSpan c.fn (c.addr.toNat + m) (stepBytes c.len.toNat m) true = stepBytes c.len.toNat m := dmaSpan_of_pages fun k hk => by
    rw [pageOk_of_serves hs, Nat.add_assoc]
    exact hwin (m + k) (by unfold stepBytes at hk; omega)
  unfold memReadStep
  extract_lets a len s k n give d₁
  have hstatus : s = 0 := (rangeStatus_of_serves hs ..).trans ht.status
  have hn : n = k := hspan
  rw [if_neg (by rw [ht.aligned]; decide), if_neg (not_not_intro hstatus), badIn_of_serves hs]
  dsimp only
  have hd₁ : d₁ = (e.served false (a + m) k).hostGive c.fn (c.addr.toNat + m) (e.dramRead (a + m) k) := by
    dsimp only [d₁, give]
    rw [hn]
  rw [if_neg (by rw [hn]; exact Nat.lt_irrefl _), hd₁]
end transfer

/-! ## MEM_WRITE and MEM_READ as a whole (R285) -/

section whole
variable {d : Dev} {c : HostCmd} (ht : transfers d c)

theorem length_hostBytes (d : Dev) (a k : Nat) : (d.hostBytes a k).length = k := by rw [hostBytes, SMap.bytes, List.length_map, List.length_range]
theorem length_dramRead (d : Dev) (a k : Nat) : (d.dramRead a k).length = k := by rw [dramRead, List.length_map, List.length_range]
theorem getElem_hostBytes (d : Dev) (a k i : Nat) (h : i < (d.hostBytes a k).length) : (d.hostBytes a k)[i] = SMap.get 0 d.hostMem (a + i) := by
  simp only [hostBytes, SMap.bytes, List.getElem_map, List.getElem_range]
theorem getElem_dramRead (d : Dev) (a k i : Nat) (h : i < (d.dramRead a k).length) : (d.dramRead a k)[i] = d.dramByte (a + i) := by
  simp only [dramRead, List.getElem_map, List.getElem_range]
theorem dramRead_add (d : Dev) (a m k : Nat) : d.dramRead a (m + k) = d.dramRead a m ++ d.dramRead (a + m) k := by
  simp only [dramRead, List.range_add, List.map_append, List.map_map, Function.comp_def, Nat.add_assoc]

/-- The bytes that MEM_WRITE has moved after `m` bytes. -/
structure written (d : Dev) (a host m : Nat) (e : Dev) : Prop where
  serves : serves d e
  hostMem : e.hostMem = d.hostMem
  bytes : ∀ x, e.dramByte x = if a ≤ x ∧ x < a + m then SMap.get 0 d.hostMem (host + (x - a)) else d.dramByte x

theorem written_more {e : Dev} {a host m : Nat} (h : written d a host m e) (k : Nat) :
    written d a host (m + k) (e.writeDram (a + m) (e.hostBytes (host + m) k)) where
  serves := serves_trans h.serves (serves_writeDram h.serves.clean ..)
  hostMem := (hostMem_of_hostSide (writeDram_of_clean h.serves.clean ..).1).trans h.hostMem
  bytes x := by
    by_cases hin : a + m ≤ x ∧ x < a + m + k
    · obtain ⟨i, rfl⟩ := Nat.exists_eq_add_of_le hin.1
      have hi : i < (e.hostBytes (host + m) k).length := by
        rw [length_hostBytes]
        omega
      rw [if_pos (by omega), writeDram, dramByte_dramWrite_in _ _ _ hi, getElem_hostBytes, h.hostMem]
      congr 1
      omega
    · rw [dramByte_writeDram_out _ _ _ (by rw [length_hostBytes]; omega), h.bytes x]
      by_cases hx : a ≤ x ∧ x < a + m
      · rw [if_pos hx, if_pos (by omega)]
      · rw [if_neg hx, if_neg (by omega)]

include ht
theorem memWrite_of_windowed (hread : d.host.rdErr = false) (hwin : d.windowed c.fn c.addr.toNat c.len.toNat false) :
    ∃ e, written d (c.p64 0) c.addr.toNat c.len.toNat e ∧ d.memWrite c = e.ok c.len.toNat := by
  refine allSteps_transfer (P := written d (c.p64 0) c.addr.toNat) (fun e m hm he => ?_) (Nat.zero_le _) (by omega)
    ⟨serves_refl ht.clean, rfl, fun x => by rw [if_neg (by omega)]⟩
  exact ⟨_, written_more he _, memWriteStep_of_serves ht he.serves hread hwin hm⟩

/-- The bytes that MEM_READ has moved to host memory after `m` bytes. -/
structure readOut (d : Dev) (a host m : Nat) (e : Dev) : Prop where
  serves : serves d e
  contents : e.contents = d.contents
  bytes : ∀ x, SMap.get 0 e.hostMem x = if host ≤ x ∧ x < host + m then d.dramByte (a + (x - host)) else SMap.get 0 d.hostMem x
/-- The bytes that MEM_READ has moved to another card after `m` bytes. -/
structure peeredOut (d : Dev) (a m : Nat) (e : Dev) : Prop where
  serves : serves d e
  contents : e.contents = d.contents
  hostMem : e.hostMem = d.hostMem
  out : ∃ out, e.host.peerOut = d.host.peerOut ++ out ∧ out.flatMap (fun x => x.2) = d.dramRead a m

omit ht in
theorem readOut_more {e : Dev} {a host m : Nat} (h : readOut d a host m e) (k : Nat) :
    readOut d a host (m + k) ((e.served false (a + m) k).hostStore (host + m) (e.dramRead (a + m) k)) where
  serves := serves_trans h.serves (serves_trans (serves_served h.serves.clean ..) (serves_hostStore (served_of_clean h.serves.clean ..).2 ..))
  contents := (contents_served e false (a + m) k).trans h.contents
  bytes x := by
    have hmem : (e.served false (a + m) k).hostMem = e.hostMem := hostMem_of_hostSide (served_of_clean h.serves.clean ..).1
    rw [hostStore]
    dsimp only
    rw [hmem]
    by_cases hin : host + m ≤ x ∧ x < host + m + k
    · obtain ⟨i, rfl⟩ := Nat.exists_eq_add_of_le hin.1
      have hi : i < (e.dramRead (a + m) k).length := by
        rw [length_dramRead]
        omega
      rw [if_pos (by omega), SMap.get_store_in _ _ _ _ _ hi, getElem_dramRead, dramByte_of_contents h.contents]
      congr 1
      omega
    · rw [SMap.get_store_out _ _ _ _ _ (by rw [length_dramRead]; omega), h.bytes x]
      by_cases hx : host ≤ x ∧ x < host + m
      · rw [if_pos hx, if_pos (by omega)]
      · rw [if_neg hx, if_neg (by omega)]

theorem memRead_of_windowed (hwin : d.windowed c.fn c.addr.toNat c.len.toNat true) :
    ∃ e, readOut d (c.p64 0) c.addr.toNat c.len.toNat e ∧ d.memRead c = e.ok c.len.toNat := by
  refine allSteps_transfer (P := readOut d (c.p64 0) c.addr.toNat) (fun e m hm he => ?_) (Nat.zero_le _) (by omega)
    ⟨serves_refl ht.clean, rfl, fun x => by rw [if_neg (by omega)]⟩
  have hstep := memReadStep_of_serves ht he.serves (fun k hk => (hwin k hk).1) hm
  rw [hostGive_store] at hstep
  · exact ⟨_, readOut_more he _, hstep⟩
  · intro k hk
    rw [length_dramRead] at hk
    rw [pagePeer_of_serves (serves_trans he.serves (serves_served he.serves.clean ..)), Nat.add_assoc]
    exact (hwin (m + k) (by unfold stepBytes at hk; omega)).2 rfl

theorem memRead_of_peered (hwin : d.peered c.fn c.addr.toNat c.len.toNat) :
    ∃ e, peeredOut d (c.p64 0) c.len.toNat e ∧ d.memRead c = e.ok c.len.toNat := by
  refine allSteps_transfer (P := peeredOut d (c.p64 0)) (fun e m hm he => ?_) (Nat.zero_le _) (by omega)
    ⟨serves_refl ht.clean, rfl, rfl, [], by rw [List.append_nil], rfl⟩
  have hserved := serves_served he.serves.clean false (c.p64 0 + m) (stepBytes c.len.toNat m)
  have hside := (served_of_clean he.serves.clean false (c.p64 0 + m) (stepBytes c.len.toNat m)).1
  have hstep := memReadStep_of_serves ht he.serves (fun k hk => (hwin k hk).1) hm
  obtain ⟨out, hout, hgive⟩ := hostGive_peer (e.served false (c.p64 0 + m) (stepBytes c.len.toNat m)) c.fn (c.addr.toNat + m)
    (e.dramRead (c.p64 0 + m) (stepBytes c.len.toNat m)) (by
      intro k hk
      rw [length_dramRead] at hk
      rw [pagePeer_of_serves (serves_trans he.serves hserved), Nat.add_assoc]
      exact (hwin (m + k) (by unfold stepBytes at hk; omega)).2)
  rw [hgive] at hstep
  obtain ⟨out₀, hhost, hout₀⟩ := he.out
  refine ⟨_, ⟨serves_trans he.serves (serves_trans hserved (serves_peerSent hserved.clean out)), (contents_served e ..).trans he.contents,
    (hostMem_of_hostSide hside).trans he.hostMem, out₀ ++ out, ?_, ?_⟩, hstep⟩
  · rw [peerSent]
    dsimp only
    rw [host_of_hostSide hside, hhost, List.append_assoc]
  · rw [List.flatMap_append, hout₀, hout, dramRead_add, dramRead_of_contents he.contents]
end whole

/-! ## Ranges that may not be used, and WIPE (R285, R324) -/

section range
variable {d : Dev} {c : HostCmd} {a len unit : Nat}
theorem rangeStatus_of_aligned (ha : a % unit = 0) (hlen : len % unit = 0) :
    d.rangeStatus c a len unit = if !d.dramRegion c.owner a len then 0x03 else if d.dramDown then 0x10 else 0 := by
  unfold rangeStatus
  rw [if_neg (by rw [ha, hlen]; decide)]
theorem stallsAt_of_down (h : d.dramDown = true) : d.stallsAt a len = false := by
  unfold dramDown at h
  unfold stallsAt
  cases hf : d.frozen
  · rw [hf, Bool.false_or] at h
    rw [h]
    simp
  · simp
theorem memWrite_of_status {n' : Nat} (halign : c.aligned = true) (h : d.rangeStatus c (c.p64 0) c.len.toNat 64 = n') (hn : n' ≠ 0) : d.memWrite c = d.stop n' :=
  allSteps_of_end (by
    unfold memWriteStep
    extract_lets a len s k n put d₁
    have hs : s = n' := h
    rw [if_neg (by rw [halign]; decide), if_pos (by rw [hs]; exact hn), hs])
theorem memRead_of_status {n' : Nat} (halign : c.aligned = true) (h : d.rangeStatus c (c.p64 0) c.len.toNat 64 = n') (hn : n' ≠ 0) : d.memRead c = d.stop n' :=
  allSteps_of_end (by
    unfold memReadStep
    extract_lets a len s k n give d₁
    have hs : s = n' := h
    rw [if_neg (by rw [halign]; decide), if_pos (by rw [hs]; exact hn), hs])
theorem wipe_of_status (h : d.rangeStatus c (c.p64 0) (c.p64 2) (2^20) = 0) : d.wipe c = (d.unwipe (c.p64 0 / 2^20) (c.p64 2 / 2^20)).ok (c.p64 2 / 2^20) := by
  unfold wipe
  exact if_neg (not_not_intro h)

theorem dramByte_unwipe (d : Dev) (g n x : Nat) : (d.unwipe g n).dramByte x = if g ≤ x / 2^20 ∧ x / 2^20 < g + n then 0 else d.dramByte x := by
  have hmaps : (d.unwipe g n).contents = (d.dram.filter (fun p => decide (p.1 / 2^20 < g ∨ g + n ≤ p.1 / 2^20)), d.wiped.filter (fun p => decide (p.1 < g ∨ g + n ≤ p.1))) :=
    iteInduction (motive := fun y : Dev => y.contents = _) (fun _ => rfl) fun _ => contents_of_base (base_setBit ..)
  have hdram := dram_of_contents (d := { d with dram := _, wiped := _ }) hmaps
  have hwiped := wiped_of_contents (d := { d with dram := _, wiped := _ }) hmaps
  dsimp only at hdram hwiped
  rw [dramByte, hdram, hwiped, SMap.get_filter_keys false d.wiped (fun k => decide (k < g ∨ g + n ≤ k)),
    SMap.get_filter_keys 0 d.dram (fun k => decide (k / 2^20 < g ∨ g + n ≤ k / 2^20)), dramByte]
  by_cases h : g ≤ x / 2^20 ∧ x / 2^20 < g + n
  · have hout : decide (x / 2^20 < g ∨ g + n ≤ x / 2^20) = false := decide_eq_false (by omega)
    rw [if_pos h, hout, if_neg Bool.false_ne_true, if_neg Bool.false_ne_true]
  · have hin : decide (x / 2^20 < g ∨ g + n ≤ x / 2^20) = true := decide_eq_true (by omega)
    rw [if_neg h, hin, if_pos rfl, if_pos rfl]
/-- Whole granules are the bytes of their range. -/
theorem granules_iff {x : Nat} (ha : a % 2^20 = 0) (hlen : len % 2^20 = 0) : (a / 2^20 ≤ x / 2^20 ∧ x / 2^20 < a / 2^20 + len / 2^20) ↔ a ≤ x ∧ x < a + len := by
  omega
end range

end Dev

open Dev

/-- A row of MEM_WRITE or MEM_READ is ready where DRAM serves its range. -/
theorem ready_of_transfer {d : Dev} {c : HostCmd} {op : Nat} (hop : op = 0x01 ∨ op = 0x02) (hfetches : d.fetches c.fn = true)
    (hstalls : d.stallsAt (c.p64 0) c.len.toNat = false) : d.ready op c = true := by
  refine ready_of_spans hfetches (by rcases hop with rfl | rfl <;> decide) fun r hr => ?_
  have hspan : d.dramSpans op c = [(c.p64 0, c.len.toNat)] := by rcases hop with rfl | rfl <;> rfl
  rw [hspan] at hr
  rw [List.mem_singleton.1 hr]
  exact hstalls

/-- Settles O47: the first check that fails ends a transfer, and one that passes moves every byte in its steps. -/
theorem hostMemoryCommandsMove : Obligations.HostMemoryCommandsMove := by
  unfold Obligations.HostMemoryCommandsMove
  intro s c hfetches d a len wlen host
  have hnone {op : Nat} (hmove : op ≠ 0x40 ∧ op ≠ 0x41) (h : s.dev.dramSpans op c = []) : s.dev.ready op c = true :=
    ready_of_spans hfetches hmove fun r hr => by rw [h] at hr; cases hr
  refine ⟨State.ends_of_row (exec_nop c s) (hnone (by decide) rfl) rfl (completed_only ..), ?_, ?_, ?_⟩
  · intro i hi halign ha hlen
    have hstatus := rangeStatus_of_aligned (d := s.dev) (c := c) ha hlen
    have hstops {n : Nat} (hstalls : s.dev.stallsAt a len = false) (hn : n ≠ 0) (h : s.dev.rangeStatus c a len 64 = n) :
        s.ends i c n 0 (fun d' => d' = { s.dev with host := d'.host }) := by
      rcases List.mem_cons.1 hi with rfl | hi
      · exact State.ends_of_row (exec_memWrite c s) (ready_of_transfer (.inl rfl) hfetches hstalls) (memWrite_of_status halign h hn) (completed_only ..)
      · rw [List.mem_singleton.1 hi]
        exact State.ends_of_row (exec_memRead c s) (ready_of_transfer (.inr rfl) hfetches hstalls) (memRead_of_status halign h hn) (completed_only ..)
    refine ⟨fun hregion hstalls => hstops hstalls (by decide) ?_, fun hregion hdown => hstops (stallsAt_of_down hdown) (by decide) ?_⟩
    · rw [hstatus, hregion]
      rfl
    · rw [hstatus, hregion, hdown]
      rfl
  · intro halign ha hlen hregion hdown hstalls hclean
    have ht : transfers s.dev c := ⟨halign, by rw [rangeStatus_of_aligned ha hlen, hregion, hdown]; rfl, hclean⟩
    refine ⟨fun hquiet hwin => ?_, fun hwin => ?_, fun hwin => ?_⟩
    · obtain ⟨e, he, hrun⟩ := memWrite_of_windowed ht hquiet.2 hwin
      refine State.ends_of_row (exec_memWrite c s) (ready_of_transfer (.inl rfl) hfetches hstalls) hrun ⟨he.hostMem, ?_, fun x hx => ?_⟩
      · refine List.ext_getElem (by rw [length_dramRead, length_hostBytes]) fun i h h' => ?_
        rw [getElem_dramRead, getElem_hostBytes]
        rw [length_dramRead] at h
        refine (he.bytes (a + i)).trans ?_
        rw [if_pos (by omega), Nat.add_sub_cancel_left]
      · exact (he.bytes x).trans (if_neg (by omega))
    · obtain ⟨e, he, hrun⟩ := memRead_of_windowed ht hwin
      refine State.ends_of_row (exec_memRead c s) (ready_of_transfer (.inr rfl) hfetches hstalls) hrun ⟨dram_of_contents he.contents, ?_, fun x hx => ?_⟩
      · refine List.ext_getElem (by rw [length_dramRead, length_hostBytes]) fun i h h' => ?_
        rw [getElem_dramRead, getElem_hostBytes]
        rw [length_hostBytes] at h
        refine (he.bytes (host + i)).trans ?_
        rw [if_pos (by omega), Nat.add_sub_cancel_left]
      · exact (he.bytes x).trans (if_neg (by omega))
    · obtain ⟨e, he, hrun⟩ := memRead_of_peered ht hwin
      obtain ⟨out, hout, hbytes⟩ := he.out
      refine State.ends_of_row (exec_memRead c s) (ready_of_transfer (.inr rfl) hfetches hstalls) hrun ⟨dram_of_contents he.contents, he.hostMem, ?_⟩
      have hpeer : (e.completed c 0 c.len.toNat).host.peerOut = s.dev.host.peerOut ++ out := hout
      rw [hpeer, List.drop_left, hbytes]
  · intro ha hlen hregion hdown
    have hstatus : s.dev.rangeStatus c (c.p64 0) (c.p64 2) (2^20) = 0 := by
      rw [rangeStatus_of_aligned ha hlen, hregion, hdown]
      rfl
    refine State.ends_of_row (exec_wipe c s) (hnone (by decide) rfl) (wipe_of_status hstatus) fun x =>
      (dramByte_unwipe ..).trans (if_congr (granules_iff ha hlen) rfl rfl)
end Sys2Proof.Machine

/-! PROOFS. The obligation on what a reset leaves. -/
namespace Sys2Proof.Machine

/-- The reset state keeps the guard's promises: its maps are empty, so every channel and trigger output has the values of log entry 6. -/
theorem reset_sound : State.reset.guard.sound := by
  refine ⟨fun n => ?_, fun k => Nat.le_refl _⟩
  show GuardCh.sound {}
  unfold GuardCh.sound
  decide

/-- Settles O58: the maps of the reset state are empty, so each read answers the reset value of its table. -/
theorem resetIsAsStated : Obligations.ResetIsAsStated := by
  unfold Obligations.ResetIsAsStated
  intro s d
  have hrd (a : Nat) : d.rd a = regReset a := rfl
  refine ⟨rfl, reset_sound, fun a => ⟨rfl, rfl, rfl⟩, by rw [hrd]; decide +kernel, by decide, by decide, rfl, rfl, rfl, rfl, fun n hn => ⟨?_, rfl⟩, fun e he => ?_, fun a => ⟨?_, ?_, rfl, rfl, rfl⟩, fun c => ?_⟩
  · have h : ∀ n : Fin 96, bitsOf (regReset (Reg.chn_CFG n)).toNat 0 2 = 0 := by decide
    exact h ⟨n, hn⟩
  · have h : ∀ e : Fin 64, (regReset (Reg.eng_STATUS e)).getLsbD 14 = false := by decide
    exact if_neg (by rw [Dev.bit, hrd, h ⟨e, he⟩]; decide)
  · rfl
  · rfl
  · show bitsOf 0 0 3 = 0
    decide

end Sys2Proof.Machine

/-! PROOFS. The obligation on a step: the command in front, and the tick that passes on an empty queue (log entry 4). -/
namespace Sys2Proof.Machine
namespace Dev

/-! ## What a tick leaves of device time -/

section sameClock
variable (d : Dev)

theorem time_STATUS_quiet : ¬ isLoopReg Reg.time_STATUS := by
  unfold isLoopReg Reg.ec_EVENTS
  rintro (h | h | ⟨n, h⟩)
  · exact absurd h (by decide)
  · exact absurd h (by decide)
  · unfold Reg.time_STATUS at h
    omega
/-- No register of a channel is TIME.STATUS. -/
theorem chn_ne_time_STATUS {n : Nat} (hn : n < 96) (k : Nat) : chnBase n + k ≠ Reg.time_STATUS := by
  unfold chnBase Reg.time_STATUS
  omega

theorem sameClock_setFld {a : Nat} (lo w v : Nat) (h : a ≠ Reg.time_STATUS) : sameClock d (d.setFld a lo w v) := sameClock_wrN d _ h
theorem sameClock_fireAs (src stamp gen : Nat) (coarse late : Bool) : sameClock d (d.fireAs src stamp gen coarse late) :=
  ⟨time_of_base (base_fireAs ..), fireAs_rd _ _ _ _ _ _ time_STATUS_quiet⟩
theorem sameClock_spanned {n : Nat} (hn : n < 96) {d d' : Dev} (h : spanned n d d') : sameClock d d' where
  time := by
    obtain ⟨m, hm⟩ := h.base
    exact (congrArg Dev.time hm :)
  status := h.rd _ (chn_ne_time_STATUS hn _) (chn_ne_time_STATUS hn _) time_STATUS_quiet
theorem sameClock_refreshLine (k t : Nat) (direct : Bool) : sameClock d (d.refreshLine k t direct) := by
  unfold refreshLine
  dsimp only
  split
  · exact sameClock_refl d
  · split <;> exact ⟨rfl, rfl⟩
theorem sameClock_setHold (n mask : Nat) (hn : n < 96) : sameClock d (d.setHold n mask) :=
  sameClock_trans (sameClock_setFld d _ _ _ (chn_ne_time_STATUS hn _)) (sameClock_updChan ..)

/-- An underrun writes the registers of its channel only. -/
theorem sameClock_underrunAt {ch : Nat} (hch : ch < 96) (p : Play) (t : Nat) (miss : Bool) : sameClock d (d.underrunAt ch p t miss) := by
  unfold underrunAt
  extract_lets a d₁ d₂ got d₃
  have h₁ : sameClock d d₁ := sameClock_ite (sameClock_refl d) (sameClock_trans (sameClock_wrN _ _ (chn_ne_time_STATUS hch _)) (sameClock_wrN _ _ (Nat.add_assoc .. ▸ chn_ne_time_STATUS hch _)))
  have h₂ : sameClock d₁ d₂ := sameClock_trans (sameClock_wrN _ _ (chn_ne_time_STATUS hch _)) (sameClock_wrN _ _ (chn_ne_time_STATUS hch _))
  have h₃ : sameClock d₂ d₃ := sameClock_trans (sameClock_updChan ..) (sameClock_updChan ..)
  exact sameClock_trans (sameClock_trans h₁ (sameClock_trans h₂ h₃)) (sameClock_fireAs ..)
theorem sameClock_playWord (g : Guard) {n : Nat} (hn : n < 96) (t : Nat) : sameClock d (playWord g d n t) := by
  unfold playWord
  generalize d.satMask n t = sat
  obtain ⟨mask, mixes⟩ := sat
  dsimp -zeta only
  extract_lets d₁ d₂
  have h₁ : sameClock d d₁ := sameClock_ite (sameClock_refl d) (sameClock_trans (sameClock_wrN _ _ (chn_ne_time_STATUS hn _)) (sameClock_wrN _ _ (chn_ne_time_STATUS hn _)))
  have h₂ : sameClock d₁ d₂ := sameClock_ite (sameClock_refl d₁) (sameClock_wrN _ _ (chn_ne_time_STATUS hn _))
  exact sameClock_trans (sameClock_trans h₁ h₂) (sameClock_spanned hn (spanned_driveSpan ..))

theorem sameClock_live {f : Dev → Nat → Dev} (h : ∀ d n, n < 96 → sameClock d (f d n)) : sameClock d (d.liveChans.foldl f d) := by
  refine foldl_invariant (P := sameClock d) (fun e n hn he => sameClock_trans he (h e n ?_)) (sameClock_refl d)
  exact List.mem_range.1 (List.mem_of_mem_filter hn)
theorem sameClock_playTick (g : Guard) : sameClock d (d.playTick g) := by
  unfold playTick
  extract_lets d₁
  have hprefill : sameClock d d.testPrefill := ⟨rfl, rfl⟩
  have hunder : sameClock d.testPrefill d₁ := sameClock_live _ fun d n hn => by
    unfold takeUnderrun
    split
    · exact sameClock_underrunAt d hn ..
    · exact sameClock_refl d
  have hplay : sameClock d₁ (d₁.liveChans.foldl (fun (d : Dev) (n : Nat) => playWord g d n d.nowT) d₁) :=
    sameClock_live _ fun d n hn => sameClock_playWord d g hn _
  refine sameClock_trans (sameClock_trans (sameClock_trans hprefill hunder) hplay) (sameClock_foldl _ (fun d k => ?_) _)
  exact sameClock_ite (sameClock_foldl _ (fun d j => sameClock_refreshLine ..) d) (sameClock_refl d)
theorem sameClock_transmit (p : Nat) : sameClock d (d.transmit p) := by
  unfold transmit
  dsimp only
  split
  · exact sameClock_refl d
  · exact sameClock_ite (sameClock_refl d) ⟨updPort_time .., rd_of_regs (updPort_regs ..) _⟩
theorem sameClock_payIdle : sameClock d d.payIdle :=
  sameClock_foldl _ (fun d m => sameClock_ite (sameClock_refl d) (sameClock_setFld d _ _ _ (by unfold Reg.dram_STATUS Reg.time_STATUS; omega))) d

/-- OUT_SAFE_N holds channels and queues a fault; it does not stop device time. -/
theorem sameClock_safeFall (lane : Nat) (g : Guard) : sameClock d (safeFall lane g d) := by
  unfold safeFall
  generalize d.stampAt lane = stamp
  obtain ⟨t, coarse⟩ := stamp
  dsimp -zeta only
  extract_lets d₁ latch d₂ d₃
  have h₁ : sameClock d d₁ :=
    sameClock_trans (sameClock_trans (d' := { d with safePin := true, safeEdge := false }) ⟨rfl, rfl⟩ (sameClock_foldl _ (fun d k => sameClock_refreshLine ..) _))
      (sameClock_wrN _ _ (by decide))
  have h₂ : sameClock d₁ d₂ := foldl_invariant (P := sameClock d₁) (fun e n hn he => sameClock_trans he (by
    have hlt := List.mem_range.1 hn
    refine sameClock_ite ?_ (sameClock_refl e)
    have hraise : sameClock e (e.raise (Reg.chn_OUT_EVENTS n) 2) := sameClock_wrN e _ (chn_ne_time_STATUS hlt _)
    exact sameClock_ite (sameClock_trans hraise (sameClock_setHold _ n 128 hlt)) hraise)) (sameClock_refl d₁)
  refine sameClock_trans (sameClock_trans (sameClock_trans h₁ h₂) (sameClock_fireAs ..)) ⟨time_of_base (base_fault _ _ _ (by decide)), rd_fault_low _ _ _ (by decide) (by decide)⟩
end sameClock

theorem endHoldOff_time (d : Dev) (m : Nat) : (d.endHoldOff m).time = d.time := by
  unfold endHoldOff
  exact iteInduction (motive := fun x : Dev => x.time = d.time) (fun _ => (setBit_time ..).trans (setBit_time ..)) fun _ => setBit_time ..
theorem applyTi_time (d : Dev) (m : Nat) : (d.applyTi m).time = d.time := by
  unfold applyTi
  extract_lets before d₁ d₂ after d₃
  have h₁ : d₁.time = d.time := iteInduction (motive := fun x : Dev => x.time = d.time) (fun _ => (updTi_time ..).trans (setBit_time ..)) fun _ => rfl
  have h₂ : d₂.time = d₁.time := foldl_keeps Dev.time _ (fun d a => d.settle a) (fun d a => settle_time ..) d₁
  have h₃ : d₃.time = d₂.time := iteInduction (motive := fun x : Dev => x.time = d₂.time) (fun _ => rfl) fun _ =>
    iteInduction (motive := fun x : Dev => x.time = d₂.time) (fun _ => (updTi_time ..).trans (setBit_time ..)) fun _ => (setBit_time ..).trans (setBit_time ..)
  exact iteInduction (motive := fun x : Dev => x.time = d.time) (fun _ => (endHoldOff_time ..).trans (h₃.trans (h₂.trans h₁))) fun _ => h₃.trans (h₂.trans h₁)
theorem applyTis_time (d : Dev) : d.applyTis.time = d.time :=
  foldl_keeps Dev.time _ _ (fun d m => iteInduction (motive := fun x : Dev => x.time = d.time) (fun _ => applyTi_time d m) fun _ => rfl) d

/-- In RUN a tick adds 16 tDC to device time, whatever plays in it. -/
theorem tick_now (g : Guard) {d : Dev} (h : d.timeState = 2) : (d.tick g).time.now = d.time.now + 16 := by
  unfold tick
  extract_lets d₁ d₂ d₃ d₄
  have h₁ : sameClock d d₁ := sameClock_ite (sameClock_playTick ..) (sameClock_refl d)
  have h₂ : sameClock d d₂ := sameClock_trans h₁ (sameClock_trans (sameClock_trans (sameClock_transmit ..) (sameClock_transmit ..)) (sameClock_payIdle _))
  have hstate : d₂.timeState = 2 := (fld_of_rd h₂.status 2 2).trans h
  have h₃ : sameClock d d₃ := sameClock_trans h₂ (sameClock_ite (sameClock_safeFall ..) (sameClock_refl d₂))
  rw [if_pos hstate, applyTis_time]
  show d₃.time.now + 16 = _
  rw [h₃.time]
end Dev

/-- Every command but a DRAM_REQUEST completes: its meaning is a function of the state. -/
theorem exec_completes (c : Instr) (s : State) (h : ∀ p g len w h data ns, c ≠ .dramRequest p g len w h data ns) : ∃ t, exec c s = .next t ∧ t.pending = s.pending := by
  cases c
  case dramRequest => exact (h _ _ _ _ _ _ _ rfl).elim
  case registerWrite fn off x v => cases x <;> exact ⟨_, rfl, rfl⟩
  all_goals exact ⟨_, rfl, rfl⟩

/-- Settles O57, by the command in front and by what a tick leaves of device time. -/
theorem stepTakesTheFront : Obligations.StepTakesTheFront := by
  unfold Obligations.StepTakesTheFront
  refine ⟨fun c s => rfl, exec_completes, fun s hs => ⟨_, step_of_idle hs, ⟨rfl, rfl, rfl⟩, fun hrun => Dev.tick_now _ hrun⟩⟩
end Sys2Proof.Machine

/-! PROOFS. The obligation on what commands leave alone. -/
namespace Sys2Proof.Machine

/-- Engine 3 runs context 5 at a PLAY and holds a firing at its event input 0; engine 0 is idle. -/
def inboxDev : Dev := withFiring (boundDev [0x11]) 12 (firing 1584)

/-- The idle engine 0 takes the context's event inputs with what they hold (R145): the firing at input 12 comes to input 0. -/
theorem inboxDev_moves : (playEccD 3 (.uncorrectable 0) inboxDev).tin ≠ inboxDev.tin := by
  decide +kernel

/-- Refutes O59: a PLAY whose bank word the ECC cannot correct retires its engine, and the replacement takes the event inputs over, so the task
inputs change. -/
theorem not_commandsKeepTheirFrames : ¬ Obligations.CommandsKeepTheirFrames := by
  unfold Obligations.CommandsKeepTheirFrames
  intro h
  obtain ⟨hentries, -⟩ := h { dev := inboxDev } 3 0 0 0 0 0 0 ⟨0, 0, 0, false, 0, 0, 0, 0, 0, 0, 0, 0, 0⟩ 0 0 0 (.uncorrectable 0) 0 0 0 [] [] false false false 0 0 0
  obtain ⟨t, hexec, -, -, -, -, htin, -⟩ := hentries (.play ⟨3, .uncorrectable 0⟩) (by simp)
  have hdev : t.dev = playEccD 3 (.uncorrectable 0) inboxDev := (congrArg State.dev (Host.Outcome.next.inj hexec)).symm
  rw [hdev] at htin
  exact inboxDev_moves htin

end Sys2Proof.Machine

/-! PROOFS. Words and numbers as bytes, least significant first, as the host commands carry them (R4). -/
namespace Sys2Proof.Machine

theorem leNat_lt (bs : List Byte) : leNat bs < 256 ^ bs.length := by
  induction bs with
  | nil => decide
  | cons b r ih =>
    have hb : b.toNat < 256 := b.isLt
    rw [leNat, List.length_cons, Nat.pow_succ]
    omega
theorem leNat_leBytes (n k : Nat) : leNat (leBytes n k) = n % 256 ^ k := by
  induction k generalizing n with
  | zero => rw [leBytes, leNat, Nat.pow_zero, Nat.mod_one]
  | succ k ih =>
    have hb : (BitVec.ofNat 8 n).toNat = n % 256 := BitVec.toNat_ofNat n 8
    rw [leBytes, leNat, ih, hb, Nat.pow_succ', Nat.mod_mul]
theorem leBytes_leNat (bs : List Byte) : leBytes (leNat bs) bs.length = bs := by
  induction bs with
  | nil => rfl
  | cons b r ih =>
    have hb : b.toNat < 256 := b.isLt
    have hlow : BitVec.ofNat 8 (b.toNat + 256 * leNat r) = b := BitVec.eq_of_toNat_eq (by rw [BitVec.toNat_ofNat]; omega)
    have hhigh : (b.toNat + 256 * leNat r) / 256 = leNat r := by omega
    rw [List.length_cons, leBytes, leNat, hlow, hhigh, ih]
theorem leNat_append (as bs : List Byte) : leNat (as ++ bs) = leNat as + 256 ^ as.length * leNat bs := by
  induction as with
  | nil => rw [List.nil_append, leNat, List.length_nil, Nat.pow_zero, Nat.one_mul, Nat.zero_add]
  | cons a r ih =>
    rw [List.cons_append, leNat, ih, leNat, List.length_cons, Nat.pow_succ]
    ring
theorem length_leWords (bs : List Byte) : (leWords bs).length = (bs.length + 3) / 4 := by rw [leWords, List.length_map, List.length_range]
theorem getD_leWords (bs : List Byte) {i : Nat} (h : 4 * i < bs.length) : (leWords bs).getD i 0 = BitVec.ofNat 32 (leNat ((bs.drop (4 * i)).take 4)) := by
  rw [List.getD_eq_getElem _ _ (by rw [length_leWords]; omega)]
  simp only [leWords, List.getElem_map, List.getElem_range]

/-- A word's bytes spell the word. -/
theorem word_of_leBytes (w : Word) : BitVec.ofNat 32 (leNat (leBytes w.toNat 4)) = w := by
  have hw : w.toNat < 256 ^ 4 := w.isLt
  rw [leNat_leBytes, Nat.mod_eq_of_lt hw]
  exact BitVec.eq_of_toNat_eq (by rw [BitVec.toNat_ofNat, Nat.mod_eq_of_lt w.isLt])
theorem drop_wordBytes (ws : List Word) {i : Nat} (h : i < ws.length) : ((wordBytes ws).drop (4 * i)).take 4 = leBytes (ws.getD i 0).toNat 4 := by
  induction ws generalizing i with
  | nil => exact absurd h (Nat.not_lt_zero _)
  | cons w r ih =>
    have hw : (leBytes w.toNat 4).length = 4 := Dev.length_leBytes ..
    have hcons : wordBytes (w :: r) = leBytes w.toNat 4 ++ wordBytes r := List.flatMap_cons
    cases i with
    | zero =>
      rw [hcons, Nat.mul_zero, List.drop_zero, List.take_left' hw]
      rfl
    | succ i =>
      rw [hcons, show 4 * (i + 1) = 4 + 4 * i by ring, ← List.drop_drop, List.drop_left' hw]
      exact ih (Nat.lt_of_succ_lt_succ h)
/-- The bytes of a list of words spell the list. -/
theorem leWords_wordBytes (ws : List Word) : leWords (wordBytes ws) = ws := by
  have hlen : (leWords (wordBytes ws)).length = ws.length := by rw [length_leWords, Dev.length_wordBytes]; omega
  refine List.ext_getElem hlen fun i h h' => ?_
  rw [← List.getD_eq_getElem _ 0 h, getD_leWords _ (by rw [Dev.length_wordBytes]; omega), drop_wordBytes ws h', word_of_leBytes, List.getD_eq_getElem]
theorem leWords_append {as : List Byte} (h : as.length = 4) (bs : List Byte) : leWords (as ++ bs) = BitVec.ofNat 32 (leNat as) :: leWords bs := by
  have hlen : ((as ++ bs).length + 3) / 4 = (bs.length + 3) / 4 + 1 := by rw [List.length_append]; omega
  have hdrop (i : Nat) : (as ++ bs).drop (4 * (i + 1)) = bs.drop (4 * i) := by
    rw [show 4 * (i + 1) = 4 + 4 * i by ring, ← List.drop_drop, List.drop_left' h]
  unfold leWords
  rw [hlen, List.range_succ_eq_map, List.map_cons, List.map_map, Nat.mul_zero, List.drop_zero, List.take_left' h]
  exact congrArg _ (List.map_congr_left fun i _ => by rw [Function.comp_apply, hdrop])
/-- The words that whole words' bytes spell have those bytes. -/
theorem wordBytes_leWords {n : Nat} {bs : List Byte} (h : bs.length = 4 * n) : wordBytes (leWords bs) = bs := by
  induction n generalizing bs with
  | zero =>
    rw [List.length_eq_zero_iff.1 h]
    rfl
  | succ n ih =>
    have hfour : (bs.take 4).length = 4 := by rw [List.length_take]; omega
    have hlt : leNat (bs.take 4) < 2^32 := by
      have := leNat_lt (bs.take 4)
      rw [hfour] at this
      omega
    rw [← List.take_append_drop 4 bs, leWords_append hfour, wordBytes, List.flatMap_cons, ← wordBytes, ih (by rw [List.length_drop]; omega),
      BitVec.toNat_ofNat, Nat.mod_eq_of_lt hlt]
    have hbytes := leBytes_leNat (bs.take 4)
    rw [hfour] at hbytes
    rw [hbytes]

end Sys2Proof.Machine

/-! PROOFS. The obligation on the host commands of segments and envelopes (R60, R69, R162, R163). -/
namespace Sys2Proof.Machine

theorem exec_segWrite (c : HostCmd) (s : State) : exec (.segWrite c) s = s.onDev (Dev.row 0x08 (fun d => d.segWrite c) c) := rfl
theorem exec_segRead (c : HostCmd) (s : State) : exec (.segRead c) s = s.onDev (Dev.row 0x09 (fun d => d.segRead c) c) := rfl
theorem exec_reload (c : HostCmd) (s : State) : exec (.reload c) s = s.onDev (Dev.row 0x0A (fun d => d.reload c) c) := rfl
theorem exec_envWrite (c : HostCmd) (s : State) : exec (.envWrite c) s = s.onDev (Dev.row 0x0B (fun d => d.envWrite c) c) := rfl

namespace Dev

/-! ## The words of a descriptor that the device writes (R60) -/

section sealing
variable (old ws : List Word) (own : Option Nat)

/-- Word 0 of a written descriptor as a number. -/
def sealedHead : Nat :=
  (match own with
    | some p => (ws.getD 0 0).toNat % 2^24 % 2^16 + p * 2^16
    | none => (ws.getD 0 0).toNat % 2^24) + (dfld old 0 24 8 + 1) % 256 * 2^24
theorem sealDesc_eq : sealDesc old ws own = withCheck (BitVec.ofNat 32 (sealedHead old ws own) :: (List.range 15).map (fun i => ws.getD (1 + i) 0)) := by
  cases own <;> rfl
theorem sealedHead_lt (h : ∀ p, own = some p → p < 2^5) : sealedHead old ws own < 2^32 := by
  unfold sealedHead
  cases own with
  | none => dsimp only; omega
  | some p =>
    have := h p rfl
    dsimp only
    omega
theorem getD_sealDesc {i : Nat} (h : i < 15) : (sealDesc old ws own).getD i 0 = if i = 0 then BitVec.ofNat 32 (sealedHead old ws own) else ws.getD i 0 := by
  rw [sealDesc_eq]
  unfold withCheck
  rw [List.getD_append _ _ _ _ (by simpa using h), List.getD_eq_getElem?_getD, List.getElem?_take_of_lt h, ← List.getD_eq_getElem?_getD]
  cases i with
  | zero => rfl
  | succ i =>
    rw [List.getD_cons_succ, if_neg (Nat.succ_ne_zero i), List.getD_eq_getElem _ _ (by simpa using by omega), List.getElem_map, List.getElem_range, Nat.add_comm]
theorem length_sealDesc : (sealDesc old ws own).length = 16 := by
  rw [sealDesc_eq]
  rfl
theorem dCheckOk_withCheck {ws : List Word} (h : 15 ≤ ws.length) : dCheckOk (withCheck ws) = true := by
  have hlen : (ws.take 15).length = 15 := by rw [List.length_take]; omega
  unfold dCheckOk withCheck
  generalize ws.take 15 = l at hlen ⊢
  rw [List.take_left' hlen, List.getD_append_right _ _ _ _ (by omega), hlen]
  exact beq_iff_eq.2 rfl
theorem dCheckOk_sealDesc : dCheckOk (sealDesc old ws own) = true := by
  rw [sealDesc_eq]
  exact dCheckOk_withCheck (by simp)
theorem dfld_sealDesc (h : ∀ p, own = some p → p < 2^5) (lo k : Nat) : dfld (sealDesc old ws own) 0 lo k = bitsOf (sealedHead old ws own) lo k := by
  rw [dfld, getD_sealDesc _ _ _ (by decide), if_pos rfl, BitVec.toNat_ofNat, Nat.mod_eq_of_lt (sealedHead_lt old ws own h)]
/-- VER counts the write, the low half of word 0 is the host's, and the owner is the one that is forced (R60). -/
theorem fields_sealDesc (h : ∀ p, own = some p → p < 2^5) : dfld (sealDesc old ws own) 0 24 8 = (dfld old 0 24 8 + 1) % 256 ∧
    dfld (sealDesc old ws own) 0 0 16 = dfld ws 0 0 16 ∧ dfld (sealDesc old ws own) 0 16 5 = own.getD (dfld ws 0 16 5) := by
  rw [dfld_sealDesc _ _ _ h, dfld_sealDesc _ _ _ h, dfld_sealDesc _ _ _ h]
  unfold sealedHead dfld bitsOf
  cases own with
  | none =>
    dsimp only [Option.getD_none]
    omega
  | some p =>
    have := h p rfl
    dsimp only [Option.getD_some]
    omega
end sealing

/-! ## SEG_WRITE and SEG_READ (R60, R284) -/

theorem readsAt_of_clean {d : Dev} (hbad : d.badCw = []) (port a len : Nat) (k : Dev → Ran) : d.readsAt port a len k = k (d.served false a len) := by
  unfold readsAt meetBad
  rw [badIn, errsIn_of_none hbad]
  rfl

/-- The command names a segment that its function may use, and DRAM serves it. -/
structure segReady (d : Dev) (c : HostCmd) : Prop where
  index : c.p 0 < 2^16
  owned : sees c.fn (d.segOwner (c.p 0)) = true
  up : d.dramDown = false
  clean : d.badCw = []

theorem desc_of_serves {d d' : Dev} (h : serves d d') (hcontents : d'.contents = d.contents) (x : Nat) : d'.desc x = d.desc x := by
  rw [desc, calmPart_mm h.work.calm, dramRead_of_contents hcontents, desc]

section segment
variable {d : Dev} {c : HostCmd} (hr : segReady d c)

/-- The device once SEG_WRITE has put the words `new`. -/
def segPut (d : Dev) (x : Nat) (new : List Word) : Dev :=
  ((d.served false (d.mm.descAt + 64 * x) 64).writeDram (d.mm.descAt + 64 * x) (wordBytes new)).relock x new

include hr in
theorem segWrite_of_valid (halign : c.aligned = true) (hquiet : d.quiet) (hwin : d.windowed c.fn c.addr.toNat 64 false)
    (hok : d.descOk (leWords (d.hostBytes c.addr.toNat 64)) = true)
    (hres : descReserved (sealDesc (d.desc (c.p 0)) (leWords (d.hostBytes c.addr.toNat 64)) c.owner) = true) (hlock : d.segLocked (c.p 0) = false) :
    d.segWrite c = (d.segPut (c.p 0) (sealDesc (d.desc (c.p 0)) (leWords (d.hostBytes c.addr.toNat 64)) c.owner)).ok
      (dfld (sealDesc (d.desc (c.p 0)) (leWords (d.hostBytes c.addr.toNat 64)) c.owner) 0 24 8) := by
  have hmm : (d.served false (d.mm.descAt + 64 * c.p 0) 64).mm = d.mm := calmPart_mm (worked_served ..).calm
  have huse : mayUse c (d.segOwner (c.p 0)) = true := hr.owned
  unfold segWrite
  dsimp only
  rw [if_neg (by rw [halign]; exact not_or_intro (by have := hr.index; omega) (by decide)), huse, hr.up, if_neg (by decide), if_neg (by decide),
    takeBuf_of_windowed hquiet hwin, hok, hres, hlock, readsAt_of_clean hr.clean, hmm]
  rfl
include hr in
theorem segRead_of_valid (halign : c.aligned = true) (hwin : d.windowed c.fn c.addr.toNat 64 true) :
    d.segRead c = ((d.served false (d.mm.descAt + 64 * c.p 0) 64).hostStore c.addr.toNat (wordBytes (d.desc (c.p 0)))).ok (dfld (d.desc (c.p 0)) 0 24 8) := by
  have huse : mayUse c (d.segOwner (c.p 0)) = true := hr.owned
  have hserved := serves_served hr.clean false (d.mm.descAt + 64 * c.p 0) 64
  have hdesc := desc_of_serves hserved (contents_served ..) (c.p 0)
  have hlen : (wordBytes (d.desc (c.p 0))).length = 64 := by rw [length_wordBytes, desc, length_leWords, length_dramRead]
  unfold segRead
  dsimp only
  rw [if_neg (by rw [halign]; exact not_or_intro (by have := hr.index; omega) (by decide)), huse, hr.up, if_neg (by decide), if_neg (by decide),
    readsAt_of_clean hr.clean, hdesc, giveBuf_of_windowed]
  rw [hlen]
  intro k hk
  rw [pageOk_of_serves hserved, pagePeer_of_serves hserved]
  exact hwin k hk

theorem desc_segPut {x : Nat} {new : List Word} (hlen : new.length = 16) : (d.segPut x new).desc x = new := by
  have hbytes : (wordBytes new).length = 64 := by rw [length_wordBytes, hlen]
  have hrelock (e : Dev) : (e.relock x new).desc x = leWords (e.dramRead (e.mm.descAt + 64 * x) 64) := rfl
  have hmm (at_ : Nat) : ((d.served false at_ 64).writeDram at_ (wordBytes new)).mm = d.mm :=
    (calmPart_mm (worked_writeDram ..).calm).trans (calmPart_mm (worked_served ..).calm)
  unfold segPut
  rw [hrelock, hmm]
  generalize d.mm.descAt + 64 * x = at_
  have hread := dramRead_writeDram (d.served false at_ 64) at_ (wordBytes new)
  rw [hbytes] at hread
  rw [hread, leWords_wordBytes]
theorem dramByte_segPut {x : Nat} {new : List Word} (hlen : new.length = 16) {a : Nat} (ha : a < d.mm.descAt + 64 * x ∨ d.mm.descAt + 64 * x + 64 ≤ a) :
    (d.segPut x new).dramByte a = d.dramByte a := by
  have hrelock (e : Dev) : (e.relock x new).dramByte a = e.dramByte a := rfl
  unfold segPut
  generalize d.mm.descAt + 64 * x = at_ at ha ⊢
  rw [hrelock, dramByte_writeDram_out _ _ _ (by rw [length_wordBytes, hlen]; exact ha), dramByte_of_contents (contents_served ..)]
/-- A descriptor's words have the bytes of the table. -/
theorem wordBytes_desc (x : Nat) : wordBytes (d.desc x) = d.dramRead (d.mm.descAt + 64 * x) 64 := wordBytes_leWords (n := 16) (length_dramRead ..)
end segment

/-! ## RELOAD (R69) -/

/-- Traffic without errors keeps what its accesses keep. -/
theorem served_keeps {β : Type} (q : Dev → β) (hq : ∀ d write a n, q (touch d write a n) = q d) {d : Dev} (hbad : d.badCw = []) (write : Bool) (a n : Nat) :
    q (d.served write a n) = q d := by
  unfold served
  extract_lets d₁ d₂
  have h₁ : q d₁ = q d ∧ d₁.badCw = [] := iteInduction (motive := fun x : Dev => q x = q d ∧ x.badCw = [])
    (fun _ => ⟨foldl_keeps q _ _ (fun d _ => fillPass_keeps d q hq _) d, (foldl_keeps Dev.badCw _ _ (fun d _ => fillPass_keeps d Dev.badCw touch_badCw _) d).trans hbad⟩)
    fun _ => ⟨rfl, hbad⟩
  have hkeeps {β : Type} (q : Dev → β) (hq : ∀ d write a n, q (touch d write a n) = q d) : q d₂ = q d₁ :=
    foldl_keeps q _ _ (fun d p => iteInduction (motive := fun x : Dev => q x = q d) (fun _ => rfl) fun _ => hq d ..) d₁
  rw [correct_of_none (errsIn_of_none ((hkeeps Dev.badCw touch_badCw).trans h₁.2) ..), hkeeps q hq, h₁.1]
theorem touch_chan (d : Dev) (write : Bool) (a n : Nat) : (d.touch write a n).chan = d.chan := by
  have hwoken (m : Nat) : (if d.inSr m then d.exitSr m else d).chan = d.chan := by
    unfold exitSr
    exact iteInduction (motive := fun x : Dev => x.chan = d.chan) (fun _ => iteInduction (motive := fun x : Dev => x.chan = d.chan) (fun _ => rfl)
      fun _ => (setBit_chan ..).trans (setFld_chan ..)) fun _ => rfl
  rw [touch_eq, ← hwoken (d.place a).1]
  exact wr64_chan ..

theorem touch_ctx (d : Dev) (write : Bool) (a n : Nat) : (d.touch write a n).ctx = d.ctx := by
  have hwoken (m : Nat) : (if d.inSr m then d.exitSr m else d).ctx = d.ctx := by
    unfold exitSr
    exact iteInduction (motive := fun x : Dev => x.ctx = d.ctx) (fun _ => iteInduction (motive := fun x : Dev => x.ctx = d.ctx) (fun _ => rfl)
      fun _ => (setBit_ctx ..).trans (setFld_ctx ..)) fun _ => rfl
  rw [touch_eq, ← hwoken (d.place a).1]
  exact wr64_ctx ..

/-- What the copies of RELOAD leave: the host interface, the contexts, the residents of the channels, the bytes of DRAM, and what its tests read. -/
structure reloads (d d' : Dev) : Prop where
  chan : d'.chan = d.chan
  contents : d'.contents = d.contents
  clean : d'.badCw = []
  down : d'.dramDown = d.dramDown
  ptab : d'.ptab = d.ptab
  parts : ∀ p < 12, d'.rd (Reg.part_STATE p) = d.rd (Reg.part_STATE p)
  host : d'.host = d.host
  parity : d'.parity = d.parity
  ctx : d'.ctx = d.ctx

section reloads
variable {d d' d'' : Dev}
theorem reloads_refl (h : d.badCw = []) : reloads d d := ⟨rfl, rfl, h, rfl, rfl, fun _ _ => rfl, rfl, rfl, rfl⟩
theorem reloads_trans (h : reloads d d') (h' : reloads d' d'') : reloads d d'' :=
  ⟨h'.chan.trans h.chan, h'.contents.trans h.contents, h'.clean, h'.down.trans h.down, h'.ptab.trans h.ptab, fun p hp => (h'.parts p hp).trans (h.parts p hp),
    h'.host.trans h.host, h'.parity.trans h.parity, h'.ctx.trans h.ctx⟩
theorem reloads_served (h : d.badCw = []) (a n : Nat) : reloads d (d.served false a n) where
  chan := served_keeps Dev.chan touch_chan h ..
  contents := contents_served ..
  clean := (served_of_clean h ..).2
  down := dramDown_of_serves (serves_served h ..)
  ptab := ptab_of_calmPart (stirred_served ..).calm
  parts p hp := (stirred_served d false a n).rd _ (by unfold calmReg Reg.part_STATE; omega)
  host := host_of_hostSide (served_of_clean h ..).1
  parity := calmPart_parity (stirred_served ..).calm
  ctx := served_keeps Dev.ctx touch_ctx h ..
/-- A register of a channel's segment cache is no partition's STATE and none of DRAM. -/
theorem reloads_scReg (h : d.badCw = []) (ch v : Nat) {k : Nat} (hk : k = 0x3004 ∨ k = 0x3008) : reloads d (d.wrN (chnBase ch + k) v) where
  chan := wrN_chan ..
  contents := contents_of_base (base_wrN ..)
  clean := (badCw_of_base (base_wrN ..)).trans h
  down := by
    have hne : chnBase ch + k ≠ Reg.dramG_STATUS := by unfold chnBase Reg.dramG_STATUS; omega
    rw [dramDown, frozen, bit_wrN_ne _ _ _ hne, bit_wrN_ne _ _ _ hne, dramDown, frozen]
  ptab := ptab_of_base (base_wrN ..)
  parts p hp := rd_wrN_ne _ _ (by unfold chnBase Reg.part_STATE; omega)
  host := wrN_host ..
  parity := wrN_parity ..
  ctx := wrN_ctx ..
theorem reloads_bankOn (h : d.badCw = []) (ch : Nat) : reloads d (d.bankOn ch) := by
  have hset {e : Dev} (he : e.badCw = []) : reloads e (e.setScState ch 2) := reloads_scReg he ch _ (.inl rfl)
  unfold bankOn
  split
  · exact reloads_refl h
  · split
    · exact reloads_trans (d' := d.clearBank ch) ⟨rfl, rfl, h, rfl, rfl, fun _ _ => rfl, rfl, rfl, rfl⟩ (hset h)
    · exact hset h
theorem reloads_copyResident (h : d.badCw = []) (ch : Nat) (r : Resident) : reloads d (d.copyResident ch r) := by
  unfold copyResident
  extract_lets ws n d₁
  have h₁ : reloads d d₁ := iteInduction (motive := fun x => reloads d x) (fun _ => reloads_refl h) fun _ => reloads_bankOn h ch
  split
  · exact reloads_trans h₁ (reloads_scReg h₁.clean ch _ (.inr rfl))
  · have hmeet : d₁.meetBad 9 (dAddr ws) n = none := by
      rw [meetBad, badIn, errsIn_of_none h₁.clean]
      rfl
    rw [hmeet]
    have hserved := reloads_served h₁.clean (dAddr ws) n
    exact reloads_trans (reloads_trans h₁ hserved) ⟨rfl, rfl, hserved.clean, rfl, rfl, fun _ _ => rfl, rfl, rfl, rfl⟩
theorem segOwner_of_reloads (h : reloads d d') (x : Nat) : d'.segOwner x = d.segOwner x := by
  unfold segOwner partWhere
  refine List.find?_congr fun p hp => ?_
  have hgrants : d'.grantsSeg p x = d.grantsSeg p x := by
    have hw : d'.ptabW p 3 = d.ptabW p 3 := by rw [ptabW, h.ptab, ptabW]
    rw [grantsSeg, hw, grantsSeg]
  dsimp only
  rw [partOn, fld_of_rd (h.parts p (List.mem_range.1 hp)), hgrants, partOn]
end reloads

theorem length_banksOf (d : Dev) (x : Nat) : (d.banksOf x).length = (d.chan.map (fun p => (p.2.resident.filter (fun r => r.seg == x)).length)).sum := by
  unfold banksOf
  rw [List.length_flatMap]
  exact congrArg List.sum (List.map_congr_left fun p _ => List.length_map ..)

theorem reload_of_valid {d : Dev} {c : HostCmd} (hr : segReady d c) : ∃ e, reloads d e ∧ d.reload c = e.ok (d.banksOf (c.p 0)).length := by
  have hbanks {e : Dev} (he : reloads d e) : e.banksOf (c.p 0) = d.banksOf (c.p 0) := by rw [banksOf, he.chan, banksOf]
  have hsteps (fuel k : Nat) (e : Dev) (he : reloads d e) (hk : k ≤ (d.banksOf (c.p 0)).length) (hfuel : (d.banksOf (c.p 0)).length < k + fuel) :
      ∃ e', reloads d e' ∧ allSteps (fun d k => d.reloadStep c k) fuel e k = e'.ok (d.banksOf (c.p 0)).length := by
    induction fuel generalizing k e with
    | zero => omega
    | succ fuel ih =>
      have huse : mayUse c (e.segOwner (c.p 0)) = true := (congrArg (sees c.fn) (segOwner_of_reloads he _)).trans hr.owned
      have hstep : e.reloadStep c k = match (d.banksOf (c.p 0))[k]? with
          | none => .inl (e.ok (d.banksOf (c.p 0)).length)
          | some p => if (e.copyResident p.1 p.2).dramDown then .inl ((e.copyResident p.1 p.2).stop 0x11 (e.copiedBytes (d.banksOf (c.p 0)) k))
            else .inr (e.copyResident p.1 p.2, k + 1) := by
        unfold reloadStep
        dsimp only
        rw [if_neg (by have := hr.index; omega), huse, he.down, hr.up, hbanks he]
        rfl
      cases hget : (d.banksOf (c.p 0))[k]? with
      | none =>
        rw [hget] at hstep
        exact ⟨e, he, allSteps_of_end hstep⟩
      | some p =>
        have hcopy := reloads_trans he (reloads_copyResident he.clean p.1 p.2)
        rw [hget] at hstep
        dsimp only at hstep
        rw [hcopy.down, hr.up, if_neg Bool.false_ne_true] at hstep
        obtain ⟨hlt, -⟩ := List.getElem?_eq_some_iff.1 hget
        rw [allSteps_of_more hstep]
        exact ih (k + 1) _ hcopy hlt (by omega)
  exact hsteps _ 0 d (reloads_refl hr.clean) (Nat.zero_le _) (by omega)

/-! ## ENV_WRITE (R162, R163) -/

section envelope
variable {d : Dev} {c : HostCmd}

/-- The tiles with a half-tile of the command's function. -/
def ownTiles (d : Dev) (c : HostCmd) : List Nat := (List.range 6).filter (fun t => (List.range 2).any (fun h => d.chOwner (16 * t + 8 * h) == c.owner))
theorem mem_ownTiles {t : Nat} : t ∈ d.ownTiles c ↔ t < 6 ∧ (d.chOwner (16 * t) = c.owner ∨ d.chOwner (16 * t + 8) = c.owner) := by
  rw [ownTiles, List.mem_filter, List.mem_range]
  simp [List.range_succ]
/-- The tiles that ENV_WRITE writes. -/
def envTiles (d : Dev) (c : HostCmd) : List Nat := if bitsOf (c.p 0) 16 3 = 7 then d.ownTiles c else [bitsOf (c.p 0) 16 3]
/-- A directory entry with its owner forced to that of the command. -/
def envOwned (c : HostCmd) (n : Nat) : Nat := match c.owner with
  | some p => n - bitsOf n 20 5 * 2^20 + p * 2^20
  | none => n
/-- The device once ENV_WRITE has put an entry and its samples into tile `t`. -/
def envPut (v entry : Nat) (samples : List Byte) (base : Nat) (d : Dev) (t : Nat) : Dev :=
  { d with env := SMap.store 0 (SMap.store 0 d.env (t * 2^20 + 8 * v) (leBytes entry 8)) (t * 2^20 + 0x8000 + 4 * base) samples }

/-- An entry is put into a tile below its samples, and both lie in the tile. -/
structure envFits (v base : Nat) (samples : List Byte) : Prop where
  index : v < 2^12
  size : samples.length ≤ 4 * (253952 - base)
  base : base ≤ 253952

section put
variable {v base entry : Nat} {samples : List Byte} (hf : envFits v base samples)
include hf
theorem get_envPut_other (d : Dev) {t t' a : Nat} (h : t ≠ t') (ha : a < 2^20) :
    SMap.get 0 (d.envPut v entry samples base t).env (t' * 2^20 + a) = SMap.get 0 d.env (t' * 2^20 + a) := by
  obtain ⟨hv, hsize, hbase⟩ := hf
  unfold envPut
  dsimp only
  rw [SMap.get_store_out _ _ _ _ _ (by omega), SMap.get_store_out _ _ _ _ _ (by rw [length_leBytes]; omega)]
theorem envEntry_envPut (d : Dev) (t : Nat) (hentry : entry < 2^64) : (d.envPut v entry samples base t).envEntry t v = entry := by
  obtain ⟨hv, hsize, hbase⟩ := hf
  unfold envEntry envPut
  dsimp only
  rw [SMap.bytes_store_out _ _ _ _ _ _ (by omega)]
  have hstored := SMap.bytes_store 0 d.env (t * 2^20 + 8 * v) (leBytes entry 8)
  rw [length_leBytes] at hstored
  rw [hstored, leNat_leBytes, Nat.mod_eq_of_lt (by omega)]
omit hf in
theorem samples_envPut (d : Dev) (t : Nat) : SMap.bytes 0 (d.envPut v entry samples base t).env (t * 2^20 + 0x8000 + 4 * base) samples.length = samples :=
  SMap.bytes_store ..
end put

/-- The envelope memory of tile `t`. -/
def envTile (t : Nat) (d : Dev) : Nat → Byte := fun a => if a < 2^20 then SMap.get 0 d.env (t * 2^20 + a) else 0
theorem bytes_of_envTile {d d' : Dev} {t : Nat} (h : envTile t d' = envTile t d) {a n : Nat} (ha : a + n ≤ 2^20) :
    SMap.bytes 0 d'.env (t * 2^20 + a) n = SMap.bytes 0 d.env (t * 2^20 + a) n := by
  refine List.map_congr_left fun i hi => ?_
  have hlt : a + i < 2^20 := by have := List.mem_range.1 hi; omega
  have := congrFun h (a + i)
  unfold envTile at this
  rw [if_pos hlt, if_pos hlt] at this
  rw [Nat.add_assoc, this]

section puts
variable {v base entry : Nat} {samples : List Byte} (hf : envFits v base samples)
include hf
/-- Each tile written holds the entry and the samples, and no other tile changes. -/
theorem envPuts_same {l : List Nat} (hnodup : l.Nodup) (hentry : entry < 2^64) {t : Nat} (ht : t ∈ l) :
    (l.foldl (envPut v entry samples base) d).envEntry t v = entry ∧
    SMap.bytes 0 (l.foldl (envPut v entry samples base) d).env (t * 2^20 + 0x8000 + 4 * base) samples.length = samples := by
  obtain ⟨d₀, -, -, htile⟩ := foldl_each (f := envPut v entry samples base) (P := fun _ => True) (q := envTile) (fun _ _ _ _ => trivial)
    (fun d i _ j _ hne => funext fun a => by
      unfold envTile
      split
      · next ha => exact get_envPut_other hf d hne ha
      · rfl) hnodup (d := d) trivial ht
  have hv := hf.index
  have hsize := hf.size
  have hbase := hf.base
  constructor
  · unfold envEntry
    rw [bytes_of_envTile htile (by omega)]
    exact envEntry_envPut hf d₀ t hentry
  · rw [Nat.add_assoc, bytes_of_envTile htile (by omega), ← Nat.add_assoc]
    exact samples_envPut d₀ t
theorem envPuts_other (l : List Nat) {t a : Nat} (ht : t ∉ l) (ha : a < 2^20) :
    SMap.get 0 (l.foldl (envPut v entry samples base) d).env (t * 2^20 + a) = SMap.get 0 d.env (t * 2^20 + a) :=
  foldl_invariant (P := fun x : Dev => SMap.get 0 x.env (t * 2^20 + a) = SMap.get 0 d.env (t * 2^20 + a))
    (fun e i hi he => (get_envPut_other hf e (by rintro rfl; exact ht hi) ha).trans he) rfl
omit hf in
theorem envPuts_dram (l : List Nat) : (l.foldl (envPut v entry samples base) d).dram = d.dram := foldl_keeps Dev.dram l (envPut v entry samples base) (fun _ _ => rfl) d
end puts

/-- What ENV_WRITE tests of its operands before it reads its buffer (R163). -/
structure envReady (d : Dev) (c : HostCmd) : Prop where
  tiles : c.p 0 < 2^19
  zero : bitsOf (c.p 0) 12 4 = 0
  exists_ : bitsOf (c.p 0) 16 3 ≠ 6
  size : 8 ≤ c.len.toNat ∧ c.len.toNat % 4 = 0
  aligned : c.aligned = true
  owned : sees c.fn (d.envOwner (bitsOf (c.p 0) 0 12)) = true
  holds : bitsOf (c.p 0) 16 3 ≠ 7 → c.fn.val = 0 ∨ bitsOf (c.p 0) 16 3 ∈ d.ownTiles c

theorem envWrite_of_valid (hr : envReady d c) (hquiet : d.quiet) (hwin : d.windowed c.fn c.addr.toNat c.len.toNat false) {n : Nat} {samples : List Byte}
    (hn : n = leNat ((d.hostBytes c.addr.toNat c.len.toNat).take 8)) (hsamples : samples = (d.hostBytes c.addr.toNat c.len.toNat).drop 8)
    (hok : envEntryOk (envOwned c n) = true) (hfits : bitsOf n 0 18 + samples.length / 4 ≤ 253952)
    (hmay : ∀ t ∈ d.envTiles c, (c.fn.val = 0 ∨ d.envEntry t (bitsOf (c.p 0) 0 12) = 0 ∨ envEntryOwner (d.envEntry t (bitsOf (c.p 0) 0 12)) = c.owner) ∧
      d.envBlocked t (bitsOf (c.p 0) 0 12) (envOwned c n) (bitsOf n 0 18) samples = false) :
    d.envWrite c = ((d.envTiles c).foldl (envPut (bitsOf (c.p 0) 0 12) (envOwned c n) samples (bitsOf n 0 18)) d).ok (samples.length / 4) := by
  have huse : mayUse c (d.envOwner (bitsOf (c.p 0) 0 12)) = true := hr.owned
  have htiles := hr.tiles
  have hsize := hr.size
  have hany : ¬ (c.fn.val ≠ 0 ∧ (d.envTiles c).any (fun t => d.envEntry t (bitsOf (c.p 0) 0 12) != 0 && envEntryOwner (d.envEntry t (bitsOf (c.p 0) 0 12)) != c.owner) = true) := by
    rintro ⟨hfn, hbad⟩
    obtain ⟨t, ht, hbad⟩ := List.any_eq_true.1 hbad
    rw [Bool.and_eq_true, bne_iff_ne, bne_iff_ne] at hbad
    rcases (hmay t ht).1 with h | h | h
    · exact hfn h
    · exact hbad.1 h
    · exact hbad.2 h
  have hblocked : (d.envTiles c).any (fun t => d.envBlocked t (bitsOf (c.p 0) 0 12) (envOwned c n) (bitsOf n 0 18) samples) = false :=
    List.any_eq_false.2 fun t ht => by rw [(hmay t ht).2]; decide
  have hheld : ¬ (c.fn.val ≠ 0 ∧ bitsOf (c.p 0) 16 3 ≠ 7 ∧ (!(d.ownTiles c).contains (bitsOf (c.p 0) 16 3)) = true) := by
    rintro ⟨hfn, ht, hno⟩
    rcases hr.holds ht with h | h
    · exact hfn h
    · rw [List.contains_iff_mem.2 h] at hno
      cases hno
  unfold envWrite
  extract_lets v t len own tiles
  rw [if_neg (by rw [hr.aligned]; have := hr.zero; have := hr.exists_; simp only [Bool.not_true, Bool.false_eq_true, or_false]; omega), huse,
    if_neg (fun h => h.elim (fun h => by cases h) hheld), takeBuf_of_windowed hquiet hwin]
  extract_lets n' samples' count base entry put
  have h₁ : n' = n := hn.symm
  have h₂ : samples' = samples := hsamples.symm
  have h₃ : tiles = d.envTiles c := rfl
  have h₄ : entry = envOwned c n := congrArg (envOwned c) h₁
  have h₅ : base = bitsOf n 0 18 := congrArg (bitsOf · 0 18) h₁
  have h₆ : count = samples.length / 4 := congrArg (fun l : List Byte => l.length / 4) h₂
  have h₇ : put = envPut v entry samples' base := rfl
  rw [h₇, h₃, h₄, h₅, h₆, h₂, hok, if_neg (by simp only [Bool.not_true, Bool.false_eq_true, false_or]; omega), if_neg hany, hblocked, if_neg Bool.false_ne_true]
end envelope

end Dev

open Dev

theorem owner_lt (c : HostCmd) : ∀ p, c.owner = some p → p < 2^5 := by
  intro p hp
  have := c.fn.isLt
  unfold HostCmd.owner fnOwner at hp
  split at hp
  · cases hp
  · have := Option.some.inj hp
    omega

section ends
variable {s : State} {c : HostCmd}

theorem completed_desc (d : Dev) (c : HostCmd) (status result x : Nat) : (d.completed c status result).desc x = d.desc x := rfl
theorem completed_dramByte (d : Dev) (c : HostCmd) (status result a : Nat) : (d.completed c status result).dramByte a = d.dramByte a := rfl

theorem completed_dram (d : Dev) (c : HostCmd) (status result : Nat) : (d.completed c status result).dram = d.dram := rfl
theorem completed_hostBytes (d : Dev) (c : HostCmd) (status result a n : Nat) : (d.completed c status result).hostBytes a n = d.hostBytes a n := rfl
theorem hostStore_dram (d : Dev) (a : Nat) (bs : List Byte) : (d.hostStore a bs).dram = d.dram := rfl
theorem hostBytes_hostStore (d : Dev) {a n : Nat} {bs : List Byte} (h : bs.length = n) : (d.hostStore a bs).hostBytes a n = bs := h ▸ SMap.bytes_store ..

/-- SEG_WRITE and SEG_READ are ready where DRAM serves the descriptor's place. -/
theorem ready_of_segment {d : Dev} (hfetches : d.fetches c.fn = true) (hstalls : d.stallsAt (d.mm.descAt + 64 * c.p 0) 64 = false) {op : Nat}
    (hop : op = 0x08 ∨ op = 0x09) : d.ready op c = true :=
  ready_of_spans hfetches (by rcases hop with rfl | rfl <;> decide) fun r h => by
    have hspan : d.dramSpans op c = [(d.mm.descAt + 64 * c.p 0, 64)] := by rcases hop with rfl | rfl <;> rfl
    rw [hspan] at h
    rw [List.mem_singleton.1 h]
    exact hstalls

theorem segWrite_ends (hready : s.dev.ready 0x08 c = true) (hr : segReady s.dev c) (halign : c.aligned = true) (hquiet : s.dev.quiet)
    (hwin : s.dev.windowed c.fn c.addr.toNat 64 false) {old ws : List Word} (hold : old = s.dev.desc (c.p 0)) (hws : ws = leWords (s.dev.hostBytes c.addr.toNat 64))
    (hok : s.dev.descOk ws = true) (hres : descReserved (sealDesc old ws c.owner) = true) (hlock : s.dev.segLocked (c.p 0) = false) :
    s.ends (.segWrite c) c 0 ((dfld old 0 24 8 + 1) % 256) (fun d' => d'.desc (c.p 0) = sealDesc old ws c.owner ∧
      ∀ a, (a < s.dev.mm.descAt + 64 * c.p 0 ∨ s.dev.mm.descAt + 64 * c.p 0 + 64 ≤ a) → d'.dramByte a = s.dev.dramByte a) := by
  subst hold hws
  have hrun := segWrite_of_valid hr halign hquiet hwin hok hres hlock
  rw [(fields_sealDesc _ _ c.owner (owner_lt c)).1] at hrun
  refine State.ends_of_row (exec_segWrite c s) hready hrun ⟨?_, fun a ha => ?_⟩
  · rw [completed_desc, desc_segPut (length_sealDesc ..)]
  · rw [completed_dramByte, dramByte_segPut (length_sealDesc ..) ha]

theorem segRead_ends (hready : s.dev.ready 0x09 c = true) (hr : segReady s.dev c) (halign : c.aligned = true) (hwin : s.dev.windowed c.fn c.addr.toNat 64 true) :
    s.ends (.segRead c) c 0 (dfld (s.dev.desc (c.p 0)) 0 24 8) (fun d' => d'.dram = s.dev.dram ∧
      d'.hostBytes c.addr.toNat 64 = s.dev.dramRead (s.dev.mm.descAt + 64 * c.p 0) 64) := by
  have hlen : (wordBytes (s.dev.desc (c.p 0))).length = 64 := by rw [length_wordBytes, desc, length_leWords, length_dramRead]
  refine State.ends_of_row (exec_segRead c s) hready (segRead_of_valid hr halign hwin) ⟨?_, ?_⟩
  · rw [completed_dram, hostStore_dram, dram_of_contents (contents_served ..)]
  · rw [completed_hostBytes, hostBytes_hostStore _ hlen, wordBytes_desc]

theorem reload_ends (hready : s.dev.ready 0x0A c = true) (hr : segReady s.dev c) :
    s.ends (.reload c) c 0 ((s.dev.chan.map (fun p => (p.2.resident.filter (fun r => r.seg == c.p 0)).length)).sum) (fun d' => d'.dram = s.dev.dram) := by
  obtain ⟨e, he, hrun⟩ := reload_of_valid hr
  rw [length_banksOf] at hrun
  exact State.ends_of_row (exec_reload c s) hready hrun (dram_of_contents he.contents)

theorem take_hostBytes (d : Dev) (a : Nat) {k n : Nat} (h : k ≤ n) : (d.hostBytes a n).take k = d.hostBytes a k := by
  simp only [hostBytes, SMap.bytes, ← List.map_take, List.take_range, Nat.min_eq_left h]
theorem drop_hostBytes (d : Dev) (a k n : Nat) : (d.hostBytes a n).drop k = d.hostBytes (a + k) (n - k) := by
  refine List.ext_getElem (by rw [List.length_drop, length_hostBytes, length_hostBytes]) fun i h h' => ?_
  rw [List.getElem_drop, getElem_hostBytes, getElem_hostBytes, Nat.add_assoc]

theorem envOwned_lt {c : HostCmd} {n : Nat} (h : n < 2^64) : envOwned c n < 2^64 := by
  unfold envOwned
  cases ho : c.owner with
  | none => exact h
  | some p =>
    have := owner_lt c p ho
    dsimp only [bitsOf]
    omega

theorem envWrite_ends (hfetches : s.dev.fetches c.fn = true) (hr : envReady s.dev c) (hquiet : s.dev.quiet)
    (hwin : s.dev.windowed c.fn c.addr.toNat c.len.toNat false) {n v : Nat} {samples : List Byte}
    (hn : n = leNat ((s.dev.hostBytes c.addr.toNat c.len.toNat).take 8)) (hv : v = bitsOf (c.p 0) 0 12)
    (hsamples : samples = (s.dev.hostBytes c.addr.toNat c.len.toNat).drop 8)
    (hok : envEntryOk (envOwned c n) = true) (hfits : bitsOf n 0 18 + samples.length / 4 ≤ 253952) {has : Nat → Prop} (hmem : ∀ t, has t ↔ t ∈ s.dev.envTiles c)
    (hmay : ∀ t, has t → (c.fn.val = 0 ∨ s.dev.envEntry t v = 0 ∨ envEntryOwner (s.dev.envEntry t v) = c.owner) ∧
      s.dev.envBlocked t v (envOwned c n) (bitsOf n 0 18) samples = false) :
    s.ends (.envWrite c) c 0 (samples.length / 4) (fun d' => d'.dram = s.dev.dram ∧
      (∀ t, has t → d'.envEntry t v = envOwned c n ∧ SMap.bytes 0 d'.env (t * 2^20 + 0x8000 + 4 * bitsOf n 0 18) samples.length = samples) ∧
      ∀ t < 6, ¬ has t → ∀ a < 2^20, SMap.get 0 d'.env (t * 2^20 + a) = SMap.get 0 s.dev.env (t * 2^20 + a)) := by
  subst hv
  have hrun := envWrite_of_valid hr hquiet hwin hn hsamples hok hfits fun t ht => hmay t ((hmem t).2 ht)
  have hlen4 : samples.length % 4 = 0 := by
    have := hr.size
    rw [hsamples, List.length_drop, length_hostBytes]
    omega
  have hf : envFits (bitsOf (c.p 0) 0 12) (bitsOf n 0 18) samples := ⟨Nat.mod_lt _ (by decide), by omega, by omega⟩
  have hlt : n < 2^64 := by
    have := leNat_lt ((s.dev.hostBytes c.addr.toNat c.len.toNat).take 8)
    have hsize := hr.size
    rw [List.length_take, length_hostBytes, Nat.min_eq_left hsize.1] at this
    omega
  have hnodup : (s.dev.envTiles c).Nodup := by
    unfold envTiles
    split
    · exact List.nodup_range.filter _
    · exact List.nodup_singleton _
  refine State.ends_of_row (exec_envWrite c s) (ready_of_spans hfetches (by decide) fun r h => by cases h) hrun
    ⟨envPuts_dram _, fun t ht => ?_, fun t _ hno a ha => envPuts_other hf _ (fun h => hno ((hmem t).2 h)) ha⟩
  exact envPuts_same hf hnodup (envOwned_lt hlt) ((hmem t).1 ht) (d := s.dev)
end ends

/-- Settles O48: the written words are read back, RELOAD copies one bank at a time, and each tile's directory is its own. -/
theorem segmentsAndEnvelopesAreWritten : Obligations.SegmentsAndEnvelopesAreWritten := by
  unfold Obligations.SegmentsAndEnvelopesAreWritten
  intro s c hfetches d x host len old ver ws
  refine ⟨fun hx hsees hdown hclean hstalls => ?_, ?_⟩
  · have hr : segReady s.dev c := ⟨hx, hsees, hdown, hclean⟩
    refine ⟨fun halign hquiet hwin hok hres hlock => ?_, fun halign hwin => segRead_ends (ready_of_segment hfetches hstalls (.inr rfl)) hr halign hwin,
      fun hdata => reload_ends (ready_of_spans hfetches (by decide) fun r h => ?_) hr⟩
    · obtain ⟨t, hexec, htrust, hends, hdesc, hother⟩ :=
        segWrite_ends (ready_of_segment hfetches hstalls (.inl rfl)) hr halign hquiet hwin rfl rfl hok hres hlock
      obtain ⟨hver, hlow, howner⟩ := fields_sealDesc old ws c.owner (owner_lt c)
      refine ⟨t, hexec, htrust, hends, ?_⟩
      beta_reduce
      intro new
      have hnew : new = sealDesc old ws c.owner := hdesc
      rw [hnew]
      refine ⟨hver, hlow, fun i hi hi' => ?_, dCheckOk_sealDesc .., ?_, hother⟩
      · rw [getD_sealDesc _ _ _ hi', if_neg (by omega)]
      · rw [howner]
        unfold HostCmd.owner fnOwner
        split <;> rfl
    · rcases List.mem_cons.1 h with rfl | h
      · exact hstalls
      · rw [List.mem_singleton.1 h]
        exact hdata
  · intro v tile n samples base entry mine has hx hzero htile hlen hlen4 halign hsees hholds hquiet hwin hok hfits hmay
    have hhas (t : Nat) : has t ↔ t ∈ s.dev.envTiles c := by
      have h8 : tile < 8 := Nat.mod_lt _ (by decide)
      have h6 : tile ≠ 6 := htile
      unfold envTiles
      split
      · next h7 =>
        rw [mem_ownTiles]
        exact ⟨fun h => h.elim And.right fun h => absurd (h7.symm.trans h.1 ▸ h.2) (by decide), fun h => .inl ⟨h7, h⟩⟩
      · next h7 =>
        rw [List.mem_singleton]
        exact ⟨fun h => h.elim (fun h => absurd h.1 h7) fun h => h.1.symm, fun h => .inr ⟨h.symm, by
          have h7' : tile ≠ 7 := h7
          have h' : t = tile := h
          omega⟩⟩
    have hr : envReady s.dev c := ⟨hx, hzero, htile, ⟨hlen, hlen4⟩, halign, hsees, fun h => (hholds h).imp_right fun h => mem_ownTiles.2 h⟩
    have hends := envWrite_ends hfetches hr hquiet hwin (congrArg leNat (take_hostBytes _ _ hlen)).symm rfl (drop_hostBytes ..).symm hok
      (by rw [length_hostBytes]; exact hfits) hhas hmay
    rw [length_hostBytes] at hends
    exact hends
end Sys2Proof.Machine

/-! PROOFS. PROG_WRITE and PROG_READ (R88, R471): entries as the bytes of their words. -/
namespace Sys2Proof.Machine

theorem exec_progWrite (c : HostCmd) (s : State) : exec (.progWrite c) s = s.onDev (Dev.row 0x10 (fun d => d.progWrite c) c) := rfl
theorem exec_progRead (c : HostCmd) (s : State) : exec (.progRead c) s = s.onDev (Dev.row 0x11 (fun d => d.progRead c) c) := rfl

/-- Words put from an index on are read back, and no other index changes. -/
theorem SMap.get_puts {α : Type} [DecidableEq α] (dflt : α) (m : SMap α) (b : Nat) (f : Nat → α) (n k : Nat) :
    SMap.get dflt ((List.range n).foldl (fun (m : SMap α) (i : Nat) => SMap.set dflt m (b + i) (f i)) m) k =
      if b ≤ k ∧ k < b + n then f (k - b) else SMap.get dflt m k := by
  induction n with
  | zero => rw [if_neg (by omega)]; rfl
  | succ n ih =>
    rw [List.range_succ, List.foldl_append, List.foldl_cons, List.foldl_nil]
    by_cases hk : b + n = k
    · rw [← hk, SMap.get_set_same, if_pos (by omega), Nat.add_sub_cancel_left]
    · rw [SMap.get_set_ne _ _ _ _ hk, ih]
      exact if_congr (by omega) rfl rfl

namespace Dev

/-! ## Numbers in host memory -/

section numbers
variable (d : Dev) (a : Nat)
theorem hostBytes_add (m k : Nat) : d.hostBytes a (m + k) = d.hostBytes a m ++ d.hostBytes (a + m) k := by
  simp only [hostBytes, SMap.bytes, List.range_add, List.map_append, List.map_map, Function.comp_def, Nat.add_assoc]
/-- The word at an address of host memory. -/
def hostWord : Word := BitVec.ofNat 32 (leNat (d.hostBytes a 4))
theorem toNat_hostWord : (d.hostWord a).toNat = leNat (d.hostBytes a 4) := by
  have := leNat_lt (d.hostBytes a 4)
  rw [length_hostBytes] at this
  rw [hostWord, BitVec.toNat_ofNat, Nat.mod_eq_of_lt (show _ < 2^32 from this)]
/-- Sixteen bytes are four words, lowest first. -/
theorem leNat_hostBytes_entry : leNat (d.hostBytes a 16) =
    (d.hostWord a).toNat + 2^32 * (d.hostWord (a + 4)).toNat + 2^64 * (d.hostWord (a + 8)).toNat + 2^96 * (d.hostWord (a + 12)).toNat := by
  rw [hostBytes_add d a 4 12, hostBytes_add d (a + 4) 4 8, hostBytes_add d (a + 4 + 4) 4 4, leNat_append, leNat_append, leNat_append,
    length_hostBytes, length_hostBytes, length_hostBytes, toNat_hostWord, toNat_hostWord, toNat_hostWord, toNat_hostWord]
  ring
theorem getD_leWords_hostBytes {len i : Nat} (h : 4 * i + 4 ≤ len) : (leWords (d.hostBytes a len)).getD i 0 = d.hostWord (a + 4 * i) := by
  rw [getD_leWords _ (by rw [length_hostBytes]; omega), drop_hostBytes, take_hostBytes _ _ (by omega), hostWord]
theorem leWords_hostBytes (n : Nat) : leWords (d.hostBytes a (4 * n)) = (List.range n).map (fun i => d.hostWord (a + 4 * i)) := by
  refine List.ext_getElem (by rw [length_leWords, length_hostBytes, List.length_map, List.length_range]; omega) fun i h h' => ?_
  rw [List.length_map, List.length_range] at h'
  rw [← List.getD_eq_getElem _ 0 h, getD_leWords_hostBytes d a (by omega), List.getElem_map, List.getElem_range]
/-- Words that the host was given are read back. -/
theorem hostWord_hostStore {ws : List Word} {i : Nat} (h : i < ws.length) : (d.hostStore a (wordBytes ws)).hostWord (a + 4 * i) = ws.getD i 0 := by
  have hstored : (d.hostStore a (wordBytes ws)).hostBytes (a + 4 * i) 4 = ((wordBytes ws).drop (4 * i)).take 4 :=
    SMap.bytes_store_in _ _ _ _ _ _ (by rw [length_wordBytes]; omega)
  rw [hostWord, hstored, drop_wordBytes _ h, word_of_leBytes]
end numbers

/-! ## Transfers to the host in steps (R282) -/

theorem hostStore_take (d : Dev) (a m k : Nat) (bs : List Byte) (hm : m ≤ bs.length) :
    (d.hostStore a (bs.take m)).hostStore (a + m) ((bs.drop m).take k) = d.hostStore a (bs.take (m + k)) := by
  have hlen : (bs.take m).length = m := by rw [List.length_take, Nat.min_eq_left hm]
  rw [List.take_add, hostStore, hostStore, hostStore, SMap.store_append, hlen]

/-- A transfer to a host buffer that passes the window check gives every byte, where its steps give the next bytes of one string. -/
theorem allSteps_give {d : Dev} {c : HostCmd} {bs : List Byte} {result fuel : Nat} {step : Dev → Nat → Ran ⊕ (Dev × Nat)}
    (hstep : ∀ a l m, step (d.hostStore a l) m = (d.hostStore a l).giveStep c bs m result)
    (hwin : d.windowed c.fn c.addr.toNat bs.length true) (hfuel : bs.length < 262144 * fuel) :
    allSteps step fuel d 0 = (d.hostStore c.addr.toNat bs).ok result := by
  obtain ⟨e, he, hrun⟩ := allSteps_transfer (P := fun m e => e = d.hostStore c.addr.toNat (bs.take m)) (result := result) (len := bs.length) (step := step)
    (fun e m hm he => ⟨_, rfl, by
      have hpages (k : Nat) (hk : k < stepBytes bs.length m) : d.pageOk c.fn ((c.addr.toNat + m + k) / 4096) true = true ∧
          d.pagePeer c.fn ((c.addr.toNat + m + k) / 4096) = false := by
        rw [Nat.add_assoc]
        have h := hwin (m + k) (by unfold stepBytes at hk; omega)
        exact ⟨h.1, h.2 rfl⟩
      have hspan : e.dmaSpan c.fn (c.addr.toNat + m) (stepBytes bs.length m) true = stepBytes bs.length m := dmaSpan_of_pages fun k hk => by
        rw [he]
        exact (pageOk_of_host rfl rfl ..).trans (hpages k hk).1
      have hlen : ((bs.drop m).take (stepBytes bs.length m)).length = stepBytes bs.length m := by
        rw [List.length_take, List.length_drop]
        unfold stepBytes
        omega
      have hgive : e.hostGive c.fn (c.addr.toNat + m) ((bs.drop m).take (stepBytes bs.length m)) = d.hostStore c.addr.toNat (bs.take (m + stepBytes bs.length m)) := by
        rw [hostGive_store _ _ _ _ fun k hk => by
          rw [hlen] at hk
          rw [he]
          exact (pagePeer_of_host rfl rfl ..).trans (hpages k hk).2, he, hostStore_take _ _ _ _ _ hm]
      have hnext : (bs.length ≤ m + stepBytes bs.length m) ↔ m + stepBytes bs.length m = bs.length := by
        unfold stepBytes
        omega
      rw [he, hstep, ← he]
      unfold giveStep
      dsimp only
      rw [hspan, hgive, if_neg (Nat.lt_irrefl _)]
      exact if_congr hnext rfl rfl⟩)
    (fuel := fuel) (d := d) (m := 0) (Nat.zero_le _) (by omega) rfl
  rw [hrun, he, List.take_length]

/-! ## PROG_WRITE and PROG_READ (R471) -/

section program
variable {d : Dev} {c : HostCmd}

/-- The command names entries that its function may use. -/
structure progReady (d : Dev) (c : HostCmd) : Prop where
  whole : c.len.toNat % 16 = 0
  index : c.p 0 < 2^20
  room : c.p 0 + c.len.toNat / 16 ≤ 2^20
  aligned : c.aligned = true
  owned : ∀ i < c.len.toNat / 16, sees c.fn (d.progOwner (c.p 0 + i)) = true

/-- Entry `i` of the command's host buffer. -/
def hostEntry (d : Dev) (c : HostCmd) (i : Nat) : Nat := leNat (d.hostBytes (c.addr.toNat + 16 * i) 16)

variable (hr : progReady d c)
include hr
theorem progStatus_of_ready : d.progStatus c = 0 := by
  unfold progStatus
  dsimp only
  rw [if_neg (by
    have := hr.whole
    have := hr.index
    have := hr.room
    rw [hr.aligned]
    simp only [Bool.not_true, Bool.false_eq_true, or_false]
    omega)]
  refine if_neg (Bool.eq_false_iff.1 (List.any_eq_false.2 fun i hi => ?_))
  have huse : mayUse c (d.progOwner (c.p 0 + i)) = true := hr.owned i (List.mem_range.1 hi)
  rw [huse]
  decide
theorem progWrite_of_locked (h : ∃ i < c.len.toNat / 16, d.progLocked (c.p 0 + i) = true) : d.progWrite c = d.stop 0x05 := by
  obtain ⟨i, hi, hlock⟩ := h
  unfold progWrite
  dsimp only
  rw [if_neg (not_not_intro (progStatus_of_ready hr)), if_pos (List.any_eq_true.2 ⟨i, List.mem_range.2 hi, hlock⟩)]

omit hr in
theorem entryIn_hostBytes {i : Nat} (h : i < c.len.toNat / 16) : entryIn (d.hostBytes c.addr.toNat c.len.toNat) i = d.hostEntry c i := by
  rw [entryIn, drop_hostBytes, take_hostBytes _ _ (by omega), hostEntry]

theorem progWrite_of_free (hquiet : d.quiet) (hwin : d.windowed c.fn c.addr.toNat c.len.toNat false)
    (hfree : ∀ i < c.len.toNat / 16, d.progLocked (c.p 0 + i) = false) :
    d.progWrite c = match (List.range (c.len.toNat / 16)).find? (fun i => !d.entryOk c.owner (c.p 0 + i) (d.hostEntry c i)) with
      | some i => d.stop 0x07 i
      | none => (d.putEntries (c.p 0) (d.hostBytes c.addr.toNat c.len.toNat)).ok (c.len.toNat / 16) := by
  unfold progWrite
  dsimp only
  have hlock : ¬ (List.range (c.len.toNat / 16)).any (fun i => d.progLocked (c.p 0 + i)) = true := Bool.eq_false_iff.1 (List.any_eq_false.2 fun i hi => by
    rw [hfree i (List.mem_range.1 hi)]
    decide)
  rw [if_neg (not_not_intro (progStatus_of_ready hr)), if_neg hlock, takeBuf_of_windowed hquiet hwin,
    List.find?_congr fun i hi => by rw [entryIn_hostBytes (List.mem_range.1 hi)]] <;> rfl
theorem progRead_of_ready (hwin : d.windowed c.fn c.addr.toNat c.len.toNat true) :
    d.progRead c = (d.hostStore c.addr.toNat (wordBytes ((List.range (4 * (c.len.toNat / 16))).map (fun i => SMap.get 0 d.prog (4 * c.p 0 + i))))).ok (c.len.toNat / 16) := by
  have hlen : (wordBytes ((List.range (4 * (c.len.toNat / 16))).map (fun i => SMap.get 0 d.prog (4 * c.p 0 + i)))).length = c.len.toNat := by
    have := hr.whole
    rw [length_wordBytes, List.length_map, List.length_range]
    omega
  refine allSteps_give (fun a l m => ?_) (by rw [hlen]; exact hwin) (by rw [hlen]; omega)
  have hsame (e : Dev) : (e.hostStore a l).progStatus c = e.progStatus c := rfl
  have hstatus : (d.hostStore a l).progStatus c = 0 := (hsame d).trans (progStatus_of_ready hr)
  unfold progReadStep
  dsimp only
  rw [if_neg (not_not_intro hstatus)]
  rfl
end program

/-- The entries from `a` on become those of the bytes. -/
theorem entryAt_putEntries (d : Dev) {x n host a : Nat} : (d.putEntries x (d.hostBytes host (16 * n))).entryAt a =
    if x ≤ a ∧ a < x + n then leNat (d.hostBytes (host + 16 * (a - x)) 16) else d.entryAt a := by
  have hword (j : Nat) (hj : j < 4) : (d.putEntries x (d.hostBytes host (16 * n))).progW a j =
      if x ≤ a ∧ a < x + n then d.hostWord (host + 16 * (a - x) + 4 * j) else d.progW a j := by
    unfold putEntries progW
    dsimp only
    rw [SMap.get_puts, length_leWords, length_hostBytes]
    by_cases h : x ≤ a ∧ a < x + n
    · rw [if_pos h, if_pos (by omega), getD_leWords_hostBytes d host (by omega)]
      congr 1
      omega
    · rw [if_neg h, if_neg (by omega)]
  unfold entryAt
  rw [hword 0 (by decide), hword 1 (by decide), hword 2 (by decide), hword 3 (by decide)]
  by_cases h : x ≤ a ∧ a < x + n
  · rw [if_pos h, if_pos h, if_pos h, if_pos h, if_pos h, leNat_hostBytes_entry, Nat.mul_zero, Nat.add_zero]
  · rw [if_neg h, if_neg h, if_neg h, if_neg h, if_neg h]

end Dev
end Sys2Proof.Machine

/-! PROOFS. CTX_WRITE, CTX_READ and CTX_CLEAR (R122 to R124), and the obligation on the commands of programs and contexts. -/
namespace Sys2Proof.Machine

theorem exec_ctxWrite (c : HostCmd) (s : State) : exec (.ctxWrite c) s = s.onDev (Dev.row 0x18 (fun d => d.ctxWrite c) c) := rfl
theorem exec_ctxRead (c : HostCmd) (s : State) : exec (.ctxRead c) s = s.onDev (Dev.row 0x19 (fun d => d.ctxRead c) c) := rfl
theorem exec_ctxClear (c : HostCmd) (s : State) : exec (.ctxClear c) s = s.onDev (Dev.row 0x1A (fun d => d.ctxClear c) c) := rfl

namespace Dev

/-! ## The record of one context -/

section record
variable {x : Nat}
theorem onCtx_resetPc (d : Dev) : onCtx x d (d.resetPc x) := by
  unfold resetPc
  exact onCtx_trans (onCtx_trans (onCtx_setCtxFld d _ _ _ (by decide)) (onCtx_setCtxFld _ _ _ _ (by decide)))
    (onCtx_trans (onCtx_setCtx64 _ _ (by decide)) (onCtx_setCtx64 _ _ (by decide)))

/-- The host's words of an image go into the record. -/
def takeWords (f : Nat → Word) (x : Nat) (d : Dev) (l : List Nat) : Dev := l.foldl (fun (d : Dev) i => d.setCtxW x i (f i)) d
theorem ctxW_takeWords (f : Nat → Word) (d : Dev) (l : List Nat) (i : Nat) :
    (takeWords f x d l).ctxW x i = if i ∈ l then f i else d.ctxW x i := by
  unfold takeWords
  induction l generalizing d with
  | nil => rw [if_neg List.not_mem_nil]; rfl
  | cons j r ih =>
    rw [List.foldl_cons, ih]
    by_cases hr : i ∈ r
    · rw [if_pos hr, if_pos (List.mem_cons_of_mem _ hr)]
    · by_cases hj : j = i
      · rw [if_neg hr, hj, ctxW_setCtxW_same, if_pos List.mem_cons_self]
      · rw [if_neg hr, ctxW_setCtxW_other _ _ _ hj, if_neg (by rw [List.mem_cons]; exact not_or_intro (Ne.symm hj) hr)]
theorem onCtx_takeWords (f : Nat → Word) (d : Dev) {l : List Nat} (h : ∀ i ∈ l, i < 256) : onCtx x d (takeWords f x d l) :=
  foldl_invariant (P := onCtx x d) (fun e i hi he => onCtx_trans he (onCtx_setCtxW e _ (h i hi))) (onCtx_of_ctx rfl)

/-- A return to the start leaves all words but those of PC, E and LAST_TREQ. -/
theorem ctxW_resetPc_other (d : Dev) {i : Nat} (h : i ≠ 2 ∧ i ≠ 8 ∧ i ≠ 9 ∧ i ≠ 10 ∧ i ≠ 11) : (d.resetPc x).ctxW x i = d.ctxW x i := by
  unfold resetPc
  rw [ctxW_setCtx64_other _ _ _ (by omega) (by omega), ctxW_setCtx64_other _ _ _ (by omega) (by omega), ctxW_setCtxFld_other _ _ _ _ _ (by omega),
    ctxW_setCtxFld_other _ _ _ _ _ (by omega)]
theorem ctxFld_resetPc_other (d : Dev) {i : Nat} (lo n : Nat) (h : i ≠ 2 ∧ i ≠ 8 ∧ i ≠ 9 ∧ i ≠ 10 ∧ i ≠ 11) : (d.resetPc x).ctxFld x i lo n = d.ctxFld x i lo n := by
  rw [ctxFld, ctxW_resetPc_other d h, ctxFld]
theorem resetPc_spec (d : Dev) : (d.resetPc x).ctxPc x = d.ctxFld x 1 0 20 ∧ (d.resetPc x).ctxFld x 2 20 4 = 0 ∧ (d.resetPc x).isHeld x = false ∧
    (d.resetPc x).ctx64 x 8 = 0 ∧ (d.resetPc x).ctx64 x 10 = 0 := by
  have hbits : (d.resetPc x).ctxFld x 2 20 5 = 0 := by
    unfold resetPc
    rw [ctxFld_setCtx64_ne _ _ _ _ _ (by decide) (by decide), ctxFld_setCtx64_ne _ _ _ _ _ (by decide) (by decide), ctxFld_setCtxFld_same _ _ _ _ _ _ (by decide), Nat.zero_mod]
  refine ⟨?_, ?_, ?_, ?_, ?_⟩
  · unfold resetPc ctxPc
    rw [ctxFld_setCtx64_ne _ _ _ _ _ (by decide) (by decide), ctxFld_setCtx64_ne _ _ _ _ _ (by decide) (by decide),
      ctxFld_setCtxFld_other _ _ _ _ _ _ _ _ (by decide) (by decide), ctxFld_setCtxFld_same _ _ _ _ _ _ (by decide)]
    exact Nat.mod_eq_of_lt (Nat.mod_lt _ (by decide))
  · rw [ctxFld_of_wider _ _ _ _ (show 4 ≤ 5 by decide), hbits, Nat.zero_mod]
  · have hhigh : (d.resetPc x).ctxFld x 2 24 1 = (d.resetPc x).ctxFld x 2 20 5 / 2^4 := by
      unfold ctxFld bitsOf
      omega
    rw [isHeld, hhigh, hbits]
    rfl
  · unfold resetPc
    have hother (e : Dev) (v : Nat) : (e.setCtx64 x 10 v).ctx64 x 8 = e.ctx64 x 8 := by
      rw [ctx64, ctxW_setCtx64_other _ _ _ (by decide) (by decide), ctxW_setCtx64_other _ _ _ (by decide) (by decide), ctx64]
    rw [hother, ctx64_setCtx64_same _ _ _ _ (by decide)]
  · unfold resetPc
    rw [ctx64_setCtx64_same _ _ _ _ (by decide)]

/-! ## CTX_WRITE (R123, R124) -/

/-- The words of an image that are the host's beside START. -/
def imageWords : List Nat := [4, 5] ++ (List.range 16).map (fun i => 12 + i) ++ [44, 45, 46] ++ (List.range 64).map (fun i => 64 + i)
theorem mem_imageWords {i : Nat} : i ∈ imageWords ↔ i = 4 ∨ i = 5 ∨ (12 ≤ i ∧ i < 28) ∨ (44 ≤ i ∧ i < 47) ∨ (64 ≤ i ∧ i < 128) := by
  unfold imageWords
  simp only [List.mem_append, List.mem_cons, List.not_mem_nil, or_false, List.mem_map, List.mem_range]
  have hrange (b n : Nat) : (∃ a < n, b + a = i) ↔ b ≤ i ∧ i < b + n := ⟨by rintro ⟨a, h, rfl⟩; omega, fun h => ⟨i - b, by omega, by omega⟩⟩
  rw [hrange, hrange]
  omega
/-- The record as CTX_WRITE leaves it before the return to the start. -/
def imaged (d : Dev) (x : Nat) (ws : List Word) (owner : Option Nat) : Dev :=
  (((takeWords (fun i => ws.getD i 0) x (d.setCtxFld x 1 0 20 (ws.getD 1 0).toNat) imageWords).setCtxState x 1).setCtxFld x 0 3 1 (if owner.isNone then 1 else 0)).setCtxFld x 0 4 4 (owner.getD 0)
theorem putCtx_eq (d : Dev) (x : Nat) (ws : List Word) (reset : Bool) :
    d.putCtx x ws reset = if reset || d.ctxState x == 0 then (d.imaged x ws (d.ctxOwner x)).resetPc x else d.imaged x ws (d.ctxOwner x) := rfl

section image
variable (d : Dev) (ws : List Word) (owner : Option Nat)
theorem onCtx_imaged : onCtx x d (d.imaged x ws owner) := by
  unfold imaged setCtxState
  have htaken := onCtx_takeWords (x := x) (fun i => ws.getD i 0) (d.setCtxFld x 1 0 20 (ws.getD 1 0).toNat) (l := imageWords) fun i hi => by
    have := mem_imageWords.1 hi
    omega
  exact onCtx_trans (onCtx_trans (onCtx_trans (onCtx_trans (onCtx_setCtxFld d _ _ _ (by decide)) htaken)
    (onCtx_setCtxFld _ _ _ _ (by decide))) (onCtx_setCtxFld _ _ _ _ (by decide))) (onCtx_setCtxFld _ _ _ _ (by decide))
/-- Beyond word 0 an image changes START and the words that it gives. -/
theorem ctxW_imaged {i : Nat} (h : i ≠ 0) : (d.imaged x ws owner).ctxW x i =
    if i ∈ imageWords then ws.getD i 0 else (d.setCtxFld x 1 0 20 (ws.getD 1 0).toNat).ctxW x i := by
  unfold imaged setCtxState
  rw [ctxW_setCtxFld_other _ _ _ _ _ h.symm, ctxW_setCtxFld_other _ _ _ _ _ h.symm, ctxW_setCtxFld_other _ _ _ _ _ h.symm, ctxW_takeWords]
theorem start_imaged : (d.imaged x ws owner).ctxFld x 1 0 20 = (ws.getD 1 0).toNat % 2^20 := by
  rw [ctxFld, ctxW_imaged d ws owner (by decide), if_neg (by rw [mem_imageWords]; decide), ← ctxFld, ctxFld_setCtxFld_same _ _ _ _ _ _ (by decide)]
theorem state_imaged : (d.imaged x ws owner).ctxState x = 1 := by
  unfold imaged setCtxState ctxState
  rw [ctxFld_setCtxFld_other _ _ _ _ _ _ _ _ (by decide) (by decide), ctxFld_setCtxFld_other _ _ _ _ _ _ _ _ (by decide) (by decide),
    ctxFld_setCtxFld_same _ _ _ _ _ _ (by decide)]
  exact Nat.mod_eq_of_lt (by decide)
theorem owner_imaged (h : ∀ p, owner = some p → p < 16) : (d.imaged x ws owner).ctxFld x 0 4 4 = owner.getD 0 ∧
    (d.imaged x ws owner).ctxFld x 0 3 1 = if owner.isNone then 1 else 0 := by
  unfold imaged
  rw [ctxFld_setCtxFld_same _ _ _ _ _ _ (by decide), ctxFld_setCtxFld_other _ _ _ _ _ _ _ _ (by decide) (by decide), ctxFld_setCtxFld_same _ _ _ _ _ _ (by decide)]
  cases owner with
  | none => exact ⟨rfl, rfl⟩
  | some p => exact ⟨Nat.mod_eq_of_lt (h p rfl), rfl⟩
end image

/-- A partition's number is below 12. -/
theorem partWhere_lt {d : Dev} {f : Nat → Bool} {p : Nat} (h : d.partWhere f = some p) : p < 12 := List.mem_range.1 (List.mem_of_find?_eq_some h)

section put
variable (d : Dev) (ws : List Word) (reset : Bool)
theorem onCtx_putCtx : onCtx x d (d.putCtx x ws reset) := by
  rw [putCtx_eq]
  exact iteInduction (motive := onCtx x d) (fun _ => onCtx_trans (onCtx_imaged ..) (onCtx_resetPc _)) fun _ => onCtx_imaged ..
theorem ctxW_putCtx_image {i : Nat} (h : i ∈ imageWords) : (d.putCtx x ws reset).ctxW x i = ws.getD i 0 := by
  have hi := mem_imageWords.1 h
  have himage : (d.imaged x ws (d.ctxOwner x)).ctxW x i = ws.getD i 0 := by rw [ctxW_imaged _ _ _ (by omega), if_pos h]
  rw [putCtx_eq]
  exact iteInduction (motive := fun y : Dev => y.ctxW x i = ws.getD i 0) (fun _ => (ctxW_resetPc_other _ (by omega)).trans himage) fun _ => himage
theorem ctxFld_putCtx {i : Nat} (lo n : Nat) (h : i = 0 ∨ i = 1) : (d.putCtx x ws reset).ctxFld x i lo n = (d.imaged x ws (d.ctxOwner x)).ctxFld x i lo n := by
  rw [putCtx_eq]
  exact iteInduction (motive := fun y : Dev => y.ctxFld x i lo n = (d.imaged x ws (d.ctxOwner x)).ctxFld x i lo n) (fun _ => ctxFld_resetPc_other _ _ _ (by omega)) fun _ => rfl
theorem ctxRecOwner_putCtx : (d.putCtx x ws reset).ctxRecOwner x = d.ctxOwner x := by
  obtain ⟨howner, hpf⟩ := owner_imaged (x := x) d ws (d.ctxOwner x) fun p hp => Nat.lt_of_lt_of_le (partWhere_lt hp) (by decide)
  rw [ctxRecOwner, ctxFld_putCtx _ _ _ _ _ (.inl rfl), ctxFld_putCtx _ _ _ _ _ (.inl rfl), howner, hpf]
  cases d.ctxOwner x <;> rfl
theorem putCtx_reset (h : reset = true ∨ d.ctxState x = 0) : (d.putCtx x ws reset).ctxPc x = (ws.getD 1 0).toNat % 2^20 ∧ (d.putCtx x ws reset).ctxFld x 2 20 4 = 0 ∧
    (d.putCtx x ws reset).isHeld x = false ∧ (d.putCtx x ws reset).ctx64 x 8 = 0 ∧ (d.putCtx x ws reset).ctx64 x 10 = 0 := by
  rw [putCtx_eq, if_pos (by rw [Bool.or_eq_true, beq_iff_eq]; exact h)]
  obtain ⟨hpc, hrest⟩ := resetPc_spec (x := x) (d.imaged x ws (d.ctxOwner x))
  exact ⟨hpc.trans (start_imaged ..), hrest⟩
theorem putCtx_keepsPc (h : reset = false) (hstate : d.ctxState x = 1) : (d.putCtx x ws reset).ctxW x 2 = d.ctxW x 2 := by
  rw [putCtx_eq, if_neg (by rw [h, hstate]; decide), ctxW_imaged _ _ _ (by decide), if_neg (by rw [mem_imageWords]; decide), ctxW_setCtxFld_other _ _ _ _ _ (by decide)]
end put
end record

/-! ## The commands of contexts -/

section commands
variable {d : Dev} {c : HostCmd}
theorem ctxStatus_of_ready (hx : c.p 0 < 10240) (hsees : sees c.fn (d.ctxOwner (c.p 0)) = true) : d.ctxStatus c = 0 := by
  have huse : mayUse c (d.ctxOwner (c.p 0)) = true := hsees
  unfold ctxStatus
  rw [if_neg (by omega), huse]
  rfl
variable (hstatus : d.ctxStatus c = 0)
include hstatus
theorem ctxWrite_of_idle (halign : c.aligned = true) (hp : c.p 1 ≤ 1) (hstate : d.ctxState (c.p 0) ≤ 1) (hquiet : d.quiet)
    (hwin : d.windowed c.fn c.addr.toNat 1024 false) : d.ctxWrite c =
      if !d.setOk (d.ctxOwner (c.p 0)) (chsetOf (leWords (d.hostBytes c.addr.toNat 1024))) then d.stop 0x08
      else (d.putCtx (c.p 0) (leWords (d.hostBytes c.addr.toNat 1024)) (c.p 1 == 1)).ok := by
  unfold ctxWrite
  dsimp only
  rw [if_neg (not_not_intro hstatus), if_neg (by rw [halign]; simpa using hp), if_neg (by omega), takeBuf_of_windowed hquiet hwin]
theorem ctxWrite_of_busy (halign : c.aligned = true) (hp : c.p 1 ≤ 1) (hstate : 1 < d.ctxState (c.p 0)) : d.ctxWrite c = d.stop 0x05 := by
  unfold ctxWrite
  dsimp only
  rw [if_neg (not_not_intro hstatus), if_neg (by rw [halign]; simpa using hp), if_pos hstate]
theorem ctxRead_of_windowed (halign : c.aligned = true) (hwin : d.windowed c.fn c.addr.toNat 1024 true) :
    d.ctxRead c = (d.hostStore c.addr.toNat (wordBytes ((List.range 256).map (fun i => d.storeW (c.p 0) i)))).ok (d.ctxState (c.p 0)) := by
  unfold ctxRead
  dsimp only
  rw [if_neg (not_not_intro hstatus), if_neg (by rw [halign]; decide), giveBuf_of_windowed]
  rw [length_wordBytes, List.length_map, List.length_range]
  exact hwin
theorem ctxClear_of_state : d.ctxClear c = if d.ctxState (c.p 0) ≠ 1 then d.stop 0x05 else (d.freeCtx (c.p 0)).ok := by
  unfold ctxClear
  dsimp only
  rw [if_neg (not_not_intro hstatus)]
end commands

theorem ctxW_freeCtx (d : Dev) (x y : Nat) {i : Nat} (hi : i < 256) : (d.freeCtx x).ctxW y i = if y = x then 0 else d.ctxW y i := by
  have hdiv : (y * 256 + i) / 256 = y := by omega
  unfold freeCtx ctxW
  dsimp only
  rw [SMap.get_filter_keys 0 d.ctx (fun k => k / 256 != x), hdiv]
  by_cases h : y = x
  · rw [if_pos h, if_neg (by rw [h]; simp)]
  · rw [if_neg h, if_pos (by simpa using h)]

end Dev
open Dev

theorem getD_map_range (f : Nat → Word) {n i : Nat} (h : i < n) : ((List.range n).map f).getD i 0 = f i := by
  rw [List.getD_eq_getElem _ _ (by rw [List.length_map, List.length_range]; exact h), List.getElem_map, List.getElem_range]

/-- Bytes given to the host leave the context store. -/
theorem given_ctx (d : Dev) (c : HostCmd) (status result a : Nat) (bs : List Byte) : ((d.hostStore a bs).completed c status result).ctx = d.ctx := rfl

/-- A command that uses no DRAM is ready where its function is fetched from. -/
theorem ready_of_noDram {d : Dev} {c : HostCmd} {op : Nat} (hfetches : d.fetches c.fn = true) (hmove : op ≠ 0x40 ∧ op ≠ 0x41) (h : d.dramSpans op c = []) :
    d.ready op c = true := ready_of_spans hfetches hmove fun r hr => by rw [h] at hr; cases hr

section ends
variable {s : State} {c : HostCmd} (hfetches : s.dev.fetches c.fn = true)
include hfetches

theorem progWrite_ends (hr : progReady s.dev c) (hquiet : s.dev.quiet) (hwin : s.dev.windowed c.fn c.addr.toNat c.len.toNat false)
    (hfree : ∀ i < c.len.toNat / 16, s.dev.progLocked (c.p 0 + i) = false) :
    ((∀ i < c.len.toNat / 16, s.dev.entryOk c.owner (c.p 0 + i) (s.dev.hostEntry c i) = true) → s.ends (.progWrite c) c 0 (c.len.toNat / 16) (fun d' =>
      ∀ a < 2^20, d'.entryAt a = if c.p 0 ≤ a ∧ a < c.p 0 + c.len.toNat / 16 then s.dev.hostEntry c (a - c.p 0) else s.dev.entryAt a)) ∧
    ∀ i < c.len.toNat / 16, (∀ j < i, s.dev.entryOk c.owner (c.p 0 + j) (s.dev.hostEntry c j) = true) →
      ¬ s.dev.entryOk c.owner (c.p 0 + i) (s.dev.hostEntry c i) = true → s.ends (.progWrite c) c 0x07 i (fun d' => d' = { s.dev with host := d'.host }) := by
  have hready := ready_of_noDram (op := 0x10) hfetches (by decide) rfl
  have hrun := progWrite_of_free hr hquiet hwin hfree
  have hwhole : c.len.toNat = 16 * (c.len.toNat / 16) := by have := hr.whole; omega
  refine ⟨fun hfine => ?_, fun i hi hfine hnot => ?_⟩
  · rw [List.find?_eq_none.2 fun i hi => by rw [hfine i (List.mem_range.1 hi)]; decide] at hrun
    refine State.ends_of_row (exec_progWrite c s) hready hrun fun a _ => ?_
    have hput := entryAt_putEntries s.dev (x := c.p 0) (n := c.len.toNat / 16) (host := c.addr.toNat) (a := a)
    rw [← hwhole] at hput
    exact hput
  · have hfind : (List.range (c.len.toNat / 16)).find? (fun i => !s.dev.entryOk c.owner (c.p 0 + i) (s.dev.hostEntry c i)) = some i := by
      rw [List.find?_range_eq_some]
      refine ⟨?_, List.mem_range.2 hi, fun j hj => by rw [hfine j hj]; decide⟩
      rw [Bool.eq_false_iff.2 hnot]
      rfl
    rw [hfind] at hrun
    exact State.ends_of_row (exec_progWrite c s) hready hrun (completed_only ..)

theorem progRead_ends (hr : progReady s.dev c) (hwin : s.dev.windowed c.fn c.addr.toNat c.len.toNat true) :
    s.ends (.progRead c) c 0 (c.len.toNat / 16) (fun d' => d'.prog = s.dev.prog ∧
      ∀ i < c.len.toNat / 16, leNat (d'.hostBytes (c.addr.toNat + 16 * i) 16) = s.dev.entryAt (c.p 0 + i)) := by
  refine State.ends_of_row (exec_progRead c s) (ready_of_noDram hfetches (by decide) rfl) (progRead_of_ready hr hwin) ⟨rfl, fun i hi => ?_⟩
  rw [completed_hostBytes, leNat_hostBytes_entry]
  have hword (j : Nat) (hj : j < 4) : (s.dev.hostStore c.addr.toNat (wordBytes ((List.range (4 * (c.len.toNat / 16))).map
      (fun i => SMap.get 0 s.dev.prog (4 * c.p 0 + i))))).hostWord (c.addr.toNat + 16 * i + 4 * j) = s.dev.progW (c.p 0 + i) j := by
    have hlt : 4 * i + j < ((List.range (4 * (c.len.toNat / 16))).map (fun i => SMap.get 0 s.dev.prog (4 * c.p 0 + i))).length := by
      rw [List.length_map, List.length_range]
      omega
    rw [show c.addr.toNat + 16 * i + 4 * j = c.addr.toNat + 4 * (4 * i + j) by ring, hostWord_hostStore _ _ hlt, List.getD_eq_getElem _ _ hlt,
      List.getElem_map, List.getElem_range, progW]
    congr 1
    ring
  rw [entryAt, ← hword 0 (by decide), ← hword 1 (by decide), ← hword 2 (by decide), ← hword 3 (by decide)]
  rfl

theorem ctxWrite_ends (hstatus : s.dev.ctxStatus c = 0) (halign : c.aligned = true) (hp : c.p 1 ≤ 1) (hstate : s.dev.ctxState (c.p 0) ≤ 1) (hquiet : s.dev.quiet)
    (hwin : s.dev.windowed c.fn c.addr.toNat 1024 false) {x : Nat} {ws : List Word} (hx : x = c.p 0)
    (hws : ws = (List.range 256).map (fun i => s.dev.hostWord (c.addr.toNat + 4 * i))) :
    (s.dev.setOk (s.dev.ctxOwner x) (chsetOf ws) = false → s.ends (.ctxWrite c) c 0x08 0 (fun d' => d' = { s.dev with host := d'.host })) ∧
    (s.dev.setOk (s.dev.ctxOwner x) (chsetOf ws) = true → s.ends (.ctxWrite c) c 0 0 (fun d' => d'.ctx = (s.dev.putCtx x ws (c.p 1 == 1)).ctx)) := by
  subst hx
  have hready := ready_of_noDram (d := s.dev) (c := c) (op := 0x18) hfetches (by decide) rfl
  have hrun := ctxWrite_of_idle hstatus halign hp hstate hquiet hwin
  rw [leWords_hostBytes s.dev c.addr.toNat 256, ← hws] at hrun
  refine ⟨fun h => ?_, fun h => ?_⟩
  · rw [h] at hrun
    exact State.ends_of_row (exec_ctxWrite c s) hready hrun (completed_only ..)
  · rw [h] at hrun
    exact State.ends_of_row (exec_ctxWrite c s) hready hrun rfl

theorem ctxRead_ends (hstatus : s.dev.ctxStatus c = 0) (halign : c.aligned = true) (hwin : s.dev.windowed c.fn c.addr.toNat 1024 true) :
    s.ends (.ctxRead c) c 0 (s.dev.ctxState (c.p 0)) (fun d' =>
      d'.ctx = s.dev.ctx ∧ ∀ i < 256, leNat (d'.hostBytes (c.addr.toNat + 4 * i) 4) = (s.dev.storeW (c.p 0) i).toNat) := by
  refine State.ends_of_row (exec_ctxRead c s) (ready_of_noDram hfetches (by decide) rfl) (ctxRead_of_windowed hstatus halign hwin) ⟨given_ctx .., fun i hi => ?_⟩
  rw [completed_hostBytes, ← toNat_hostWord, hostWord_hostStore _ _ (by rw [List.length_map, List.length_range]; exact hi), getD_map_range _ hi]
end ends

/-- Settles O49: entries and records are the words of their bytes, and a command that fails its checks writes nothing. -/
theorem programsAndContextsAreWritten : Obligations.ProgramsAndContextsAreWritten := by
  unfold Obligations.ProgramsAndContextsAreWritten
  intro s c hfetches halign d x host len n only entry fine
  refine ⟨fun hlen hx hroom hsees => ?_, fun hx hsees => ?_⟩
  · have hr : progReady s.dev c := ⟨hlen, hx, hroom, halign, hsees⟩
    exact ⟨fun hquiet hwin hfree => progWrite_ends hfetches hr hquiet hwin hfree,
      fun _ hlock => State.ends_of_row (exec_progWrite c s) (ready_of_noDram hfetches (by decide) rfl) (progWrite_of_locked hr hlock) (completed_only ..),
      fun hwin => progRead_ends hfetches hr hwin⟩
  · intro w ws
    have hstatus : s.dev.ctxStatus c = 0 := ctxStatus_of_ready hx hsees
    have hclear := ctxClear_of_state hstatus
    refine ⟨fun hp hquiet hwin hstate => ?_, fun hp hstate => ?_, fun hwin => ctxRead_ends hfetches hstatus halign hwin, fun hstate => ?_, fun hstate => ?_⟩
    · obtain ⟨hbad, hgood⟩ := ctxWrite_ends hfetches hstatus halign hp hstate hquiet hwin (x := x) (ws := ws) rfl rfl
      refine ⟨hbad, fun hset => ?_⟩
      obtain ⟨t, hexec, htrust, hends, hctx⟩ := hgood hset
      have hw (i : Nat) (hi : i < 256) : ws.getD i 0 = w i := getD_map_range w hi
      have hstart : (ws.getD 1 0).toNat = (w 1).toNat := congrArg BitVec.toNat (hw 1 (by decide))
      have hword := ctxW_congr hctx
      have hfld := ctxFld_congr hctx
      refine ⟨t, hexec, htrust, hends, ?_, ?_, ?_, fun i hi => ?_, fun hreset => ?_, fun hp' hready => ?_, fun y i hy hi => ?_⟩
      · rw [ctxState, hfld, ctxFld_putCtx _ _ _ _ _ (.inl rfl), ← ctxState, state_imaged]
      · rw [hfld, ctxFld_putCtx _ _ _ _ _ (.inr rfl), start_imaged, hstart]
      · rw [ctxRecOwner, hfld, hfld, ← ctxRecOwner, ctxRecOwner_putCtx]
      · rw [hword, ctxW_putCtx_image _ _ _ (mem_imageWords.2 hi), hw i (by omega)]
      · obtain ⟨hpc, hdepth, hheld, he, hlast⟩ := putCtx_reset (x := x) s.dev ws (c.p 1 == 1) (hreset.imp_left beq_iff_eq.2)
        refine ⟨?_, ?_, ?_, ?_, ?_⟩
        · rw [ctxPc, hfld, ← ctxPc, hpc, hstart]
        · rw [hfld, hdepth]
        · rw [isHeld, hfld, ← isHeld, hheld]
        · rw [ctx64, hword, hword, ← ctx64, he]
        · rw [ctx64, hword, hword, ← ctx64, hlast]
      · rw [hword, putCtx_keepsPc _ _ _ (by rw [hp']; rfl) hready]
      · rw [hword, (onCtx_putCtx ..).same y i hy.symm hi]
    · exact State.ends_of_row (exec_ctxWrite c s) (ready_of_noDram hfetches (by decide) rfl) (ctxWrite_of_busy hstatus halign hp hstate) (completed_only ..)
    · rw [if_neg (not_not_intro hstate)] at hclear
      exact State.ends_of_row (exec_ctxClear c s) (ready_of_noDram hfetches (by decide) rfl) hclear fun y i hi => ctxW_freeCtx s.dev x y hi
    · rw [if_pos hstate] at hclear
      exact State.ends_of_row (exec_ctxClear c s) (ready_of_noDram hfetches (by decide) rfl) hclear (completed_only ..)

end Sys2Proof.Machine

/-! PROOFS. RELEASE, CTX_START and CTX_STOP (R75, R126 to R128). -/
namespace Sys2Proof.Machine

theorem exec_release (c : HostCmd) (s : State) : exec (.release c) s = s.onDev (Dev.row 0x21 (fun d => d.releaseC c) c) := rfl
theorem exec_ctxStart (c : HostCmd) (s : State) : exec (.ctxStart c) s = s.onDev (Dev.row 0x22 (fun d => d.ctxStart c) c) := rfl
theorem exec_ctxStop (c : HostCmd) (s : State) : exec (.ctxStop c) s = s.onDev (Dev.row 0x23 (fun d => d.ctxStop c) c) := rfl

namespace Dev

/-! ## RELEASE (R75) -/

section release
variable (d : Dev) (x : Nat)

/-- The records, what admission holds, and the launches. -/
def admitted_ (d : Dev) : SMap Word × SMap (Option AdmRec) × List Launch := (d.ctx, d.adm, d.launches)
theorem layRing_admitted (d : Dev) (adms : List (List Nat × List Nat)) (ch : Nat) : (d.layRing adms ch).admitted_ = d.admitted_ := by
  unfold layRing admitted_
  rw [setFld_ctx, setFld_ctx, setFld_adm, setFld_adm, setFld_launches, setFld_launches]
theorem unlockDescs_admitted (d : Dev) : d.unlockDescs.admitted_ = d.admitted_ := rfl
theorem updChan_admitted (d : Dev) (n : Nat) (f : Chan → Chan) : (d.updChan n f).admitted_ = d.admitted_ := rfl
/-- The device with other records of admission. -/
def withAdm (d : Dev) (m : SMap (Option AdmRec)) : Dev := { d with adm := m }
theorem withAdm_admitted (d : Dev) (m : SMap (Option AdmRec)) : (d.withAdm m).admitted_ = (d.ctx, m, d.launches) := rfl
/-- What a channel gives up as a context is released (R68, R75). -/
def dropResidents (d : Dev) (n : Nat) : Dev :=
  let live := (d.admList.filter (fun a => a.1.contains n)).flatMap (fun a => a.2)
  let kept := (d.chanOf n).resident.filter (fun r => live.contains r.seg)
  (d.updChan n (fun (h : Chan) => { h with resident := kept })).layRing d.admList n
theorem releaseCtx_eq : d.releaseCtx x = (d.ctxChans x).foldl dropResidents ((d.setCtxState x 1).withAdm (SMap.set none d.adm x none)).unlockDescs := rfl
theorem releaseCtx_admitted : (d.releaseCtx x).admitted_ = ((d.setCtxState x 1).ctx, SMap.set none d.adm x none, d.launches) := by
  rw [releaseCtx_eq, foldl_keeps admitted_ _ dropResidents (fun d n => (layRing_admitted ..).trans (updChan_admitted ..)), unlockDescs_admitted, withAdm_admitted,
    setCtxState_launches]
theorem releaseCtx_spec : (d.releaseCtx x).ctxState x = 1 ∧ (d.releaseCtx x).admOf x = none ∧ (∀ y, y ≠ x → (d.releaseCtx x).admOf y = d.admOf y) ∧
    (d.releaseCtx x).launches = d.launches := by
  have h := releaseCtx_admitted d x
  have hctx : (d.releaseCtx x).ctx = (d.setCtxState x 1).ctx := congrArg Prod.fst h
  have hadm : (d.releaseCtx x).adm = SMap.set none d.adm x none := congrArg (fun p => p.2.1) h
  refine ⟨?_, ?_, fun y hy => ?_, congrArg (fun p => p.2.2) h⟩
  · rw [ctxState, ctxFld_congr hctx, setCtxState, ctxFld_setCtxFld_same _ _ _ _ _ _ (by decide)]
    exact Nat.mod_eq_of_lt (by decide)
  · rw [admOf, hadm, SMap.get_set_same]
  · rw [admOf, hadm, SMap.get_set_ne _ _ _ _ hy.symm, admOf]
end release

/-! ## CTX_STOP (R128) -/

theorem stopCtx_spec {d : Dev} {x e : Nat} (wd : Bool) (hstate : d.ctxState x = 3) (heng : d.ctxEng x = some e) :
    (d.stopCtx x wd).ctxState x = 2 ∧ (d.stopCtx x wd).engCtx e = none ∧ (d.stopCtx x wd).ctxPc x = d.storePc x ∧
    (d.stopCtx x wd).launches = d.launches.filter (fun l => !(wd && l.ctx == x && decide (d.nowT + 528 ≤ l.judged))) := by
  unfold stopCtx
  rw [if_pos hstate]
  extract_lets d₁
  have heng₁ : d₁.ctxEng x = d.ctxEng x := iteInduction (motive := fun y : Dev => y.ctxEng x = d.ctxEng x) (fun _ => rfl) fun _ => rfl
  have hstore : d₁.storeW x 2 = d.storeW x 2 := iteInduction (motive := fun y : Dev => y.storeW x 2 = d.storeW x 2) (fun _ => rfl) fun _ => rfl
  refine ⟨leave_state _ _ _ (by decide), leave_engCtx _ _ _ _ (heng₁.trans heng), ?_, (leave_launches ..).trans ?_⟩
  · rw [ctxPc, ctxFld, leave_ctxW _ _ _ _ (by decide) (by decide) (by decide) (by decide), hstore]
  · cases wd with
    | true => rfl
    | false => exact (List.filter_eq_self.2 fun _ _ => rfl).symm

/-! ## CTX_START (R126, R127) -/

section start
variable {d : Dev} {x e p1 : Nat}

/-- The engine is idle and serves the context's owner, by name or as the lowest of them. -/
theorem startEngine_of (h : (p1 = e ∧ d.engIdle e = true ∧ d.engOwner e = d.ctxRecOwner x) ∨
      (p1 = 64 ∧ (d.engIdle e = true ∧ d.isSpare e = false ∧ d.engOwner e = d.ctxRecOwner x) ∧
        ∀ k < e, ¬ (d.engIdle k = true ∧ d.isSpare k = false ∧ d.engOwner k = d.ctxRecOwner x))) (he : e < 64) :
    d.startEngine (d.ctxRecOwner x) p1 = some e := by
  unfold startEngine
  rcases h with ⟨rfl, hidle, howner⟩ | ⟨rfl, ⟨hidle, hspare, howner⟩, hleast⟩
  · rw [if_neg (by omega), hidle, howner, beq_self_eq_true, Bool.and_self, if_pos rfl]
  · have hfind : (List.range 64).find? (fun e => d.engIdle e && !d.isSpare e && d.engOwner e == d.ctxRecOwner x) = some e := by
      rw [List.find?_range_eq_some]
      refine ⟨by rw [hidle, hspare, howner, beq_self_eq_true]; rfl, List.mem_range.2 he, fun k hk => ?_⟩
      rw [Bool.not_eq_true', Bool.eq_false_iff]
      intro hall
      rw [Bool.and_eq_true, Bool.and_eq_true, Bool.not_eq_true', beq_iff_eq] at hall
      exact hleast k hk ⟨hall.1.1, hall.1.2, hall.2⟩
    rw [if_pos rfl, hfind]

/-- The context is admitted and does not run. -/
structure startable (d : Dev) (x : Nat) : Prop where
  safe : d.dsafe = false
  state : d.ctxState x = 2 ∨ d.ctxState x = 4 ∨ d.ctxState x = 5

theorem not_refused {d : Dev} {x : Nat} (h : startable d x) :
    ¬ (d.dsafe = true ∨ (!decide (d.ctxState x = 2 ∨ d.ctxState x = 4 ∨ d.ctxState x = 5)) = true) := by
  rw [h.safe, decide_eq_true h.state]
  decide

/-- The copy from which engine `e` starts context `x`. -/
def startCopy (d : Dev) (e x : Nat) : Option Staged :=
  if d.current (d.engOf e).s0 x then (d.engOf e).s0 else if d.current (d.engOf e).s1 x then (d.engOf e).s1 else some (d.fullCopy x (d.ctxFld x 0 16 8))
/-- The context's record as it starts: what the copy holds, and of a halted program its start. -/
def startRecord (d : Dev) (e x : Nat) : Dev := if d.ctxState x = 4 then (d.loadHot x (d.startCopy e x)).resetPc x else d.loadHot x (d.startCopy e x)

variable (h : startable d x)
include h
theorem startCtx_of_foreign (hforeign : d.foreignChan x ≠ none) : d.startCtx x p1 = d.stop 0x08 := by
  unfold startCtx
  dsimp only
  rw [if_neg (not_refused h), if_pos (Option.isSome_iff_ne_none.2 hforeign)]
variable (hforeign : d.foreignChan x = none) (hengine : d.startEngine (d.ctxRecOwner x) p1 = some e)
include hforeign hengine
theorem startCtx_of_conflict (hconflict : d.conflict x none ≠ none) : d.startCtx x p1 = d.stop 0x0A := by
  obtain ⟨n, hn⟩ := Option.ne_none_iff_exists'.1 hconflict
  unfold startCtx
  dsimp only
  rw [if_neg (not_refused h), hforeign, if_neg (by decide), hengine]
  dsimp only
  rw [hn]
theorem startCtx_of_free (hconflict : d.conflict x none = none) : ∃ f, d.startCtx x p1 = (((d.startRecord e x).updEng e f).switchIn e x 0).ok e := by
  unfold startCtx
  dsimp only
  rw [if_neg (not_refused h), hforeign, if_neg (by decide), hengine]
  dsimp only
  rw [hconflict]
  exact ⟨_, rfl⟩
end start

/-! ## The context that a start leaves -/

section started
variable (d : Dev) (x e : Nat)

/-- The hot words of a full copy are those of the context store. -/
theorem loadHot_fullCopy (ver : Nat) {w : Nat} (hw : isHot w = true) (h3 : 3 ≠ w) : (d.loadHot x (some (d.fullCopy x ver))).ctxW x w = d.storeW x w := by
  have hzip : ((List.range 128).map (fun i => d.storeW x i)).zipIdx = (List.range 128).map (fun i => (d.storeW x i, i)) := by
    refine List.ext_getElem (by simp) fun i h h' => ?_
    simp only [List.getElem_zipIdx, List.getElem_map, List.getElem_range, Nat.zero_add]
  have hlt : w < 128 := by
    unfold isHot at hw
    have := of_decide_eq_true hw
    omega
  unfold loadHot fullCopy
  dsimp only
  rw [ctxW_setCtxFld_other _ _ _ _ _ h3, hzip, List.filter_map, List.foldl_map]
  refine (ctxW_takeWords (fun i => d.storeW x i) d _ w).trans (if_pos ?_)
  exact List.mem_filter.2 ⟨List.mem_range.2 hlt, hw⟩
/-- Words beyond the hot state stay as they were. -/
theorem loadHot_cold (s : Option Staged) {w : Nat} (hw : isHot w = false) : (d.loadHot x s).ctxW x w = d.ctxW x w := by
  have h3 : 3 ≠ w := by rintro rfl; cases hw
  unfold loadHot
  split
  · rw [ctxW_setCtxFld_other _ _ _ _ _ h3]
    refine foldl_keeps_mem (fun d : Dev => d.ctxW x w) _ _ (fun p hp d => ctxW_setCtxW_other d x _ ?_) d
    rintro rfl
    have := (List.mem_filter.1 hp).2
    rw [hw] at this
    cases this
  · rfl
theorem startRecord_cold {w : Nat} (hw : isHot w = false) : (d.startRecord e x).ctxW x w = d.ctxW x w := by
  unfold startRecord
  have hne : w ≠ 2 ∧ w ≠ 8 ∧ w ≠ 9 ∧ w ≠ 10 ∧ w ≠ 11 := by
    unfold isHot at hw
    have := of_decide_eq_false hw
    omega
  exact iteInduction (motive := fun y : Dev => y.ctxW x w = d.ctxW x w) (fun _ => (ctxW_resetPc_other _ hne).trans (loadHot_cold d x _ hw)) fun _ => loadHot_cold d x _ hw
theorem startRecord_launches : (d.startRecord e x).launches = d.launches := by
  unfold startRecord
  refine iteInduction (motive := fun y : Dev => y.launches = d.launches) (fun _ => ?_) fun _ => loadHot_launches ..
  unfold resetPc
  rw [setCtx64_launches, setCtx64_launches, setCtxFld_launches, setCtxFld_launches, loadHot_launches]
theorem startRecord_ctxChans : (d.startRecord e x).ctxChans x = d.ctxChans x := by
  refine List.filter_congr fun n hn => ?_
  have hlt : n < 96 := List.mem_range.1 hn
  rw [ctxFld, startRecord_cold d x e (by unfold isHot; exact decide_eq_false (by omega)), ← ctxFld]
theorem startRecord_pc (h₀ : d.current (d.engOf e).s0 x = false) (h₁ : d.current (d.engOf e).s1 x = false) :
    (d.startRecord e x).ctxPc x = if d.ctxState x = 4 then d.ctxFld x 1 0 20 else d.storePc x := by
  have hcopy : d.startCopy e x = some (d.fullCopy x (d.ctxFld x 0 16 8)) := by rw [startCopy, h₀, h₁]; rfl
  unfold startRecord
  rw [hcopy]
  split
  · rw [(resetPc_spec ..).1, ctxFld, loadHot_cold d x _ rfl, ← ctxFld]
  · rw [ctxPc, ctxFld, loadHot_fullCopy d x _ rfl (by decide)]

/-- A channel is claimed for context `x`. -/
def claimOne (x : Nat) (d : Dev) (n : Nat) : Dev := (d.updChan n (fun y => { y with claim := some x })).setFld (Reg.chn_SC_STATUS n) 0 2 2
theorem claimed_eq : d.claimed x = (d.ctxChans x).foldl (claimOne x) d := rfl
theorem claimOne_claim (m n : Nat) : ((d.claimOne x m).chanOf n).claim = if m = n then some x else (d.chanOf n).claim := by
  unfold claimOne
  rw [chanOf_of_chan (setFld_chan ..)]
  by_cases hm : m = n
  · rw [hm, chanOf_updChan_same, if_pos rfl]
  · rw [chanOf_updChan_ne _ _ hm, if_neg hm]
theorem claimed_claim {n : Nat} (h : n ∈ d.ctxChans x) : ((d.claimed x).chanOf n).claim = some x := by
  have hfold (l : List Nat) (d : Dev) (hn : n ∈ l ∨ (d.chanOf n).claim = some x) :
      ((l.foldl (claimOne x) d).chanOf n).claim = some x := by
    induction l generalizing d with
    | nil => exact hn.resolve_left List.not_mem_nil
    | cons m r ih =>
      rw [List.foldl_cons]
      apply ih
      rw [claimOne_claim]
      by_cases hm : m = n
      · exact .inr (if_pos hm)
      · rw [if_neg hm]
        exact hn.imp_left fun h => (List.mem_cons.1 h).resolve_left (Ne.symm hm)
  rw [claimed_eq]
  exact hfold _ _ (.inl h)
theorem bindEng_chan (tsw : Nat) : (d.bindEng e x tsw).chan = d.chan := by
  unfold bindEng
  extract_lets d₁ lines d₂
  have h₂ : d₂.chan = d₁.chan := setFld_chan ..
  rw [updEng_chan, h₂]
  exact (setCtxW_chan ..).trans ((setCtxFld_chan ..).trans (setCtxFld_chan ..))
theorem bindEng_ctxEng (tsw : Nat) (he : e < 64) : (d.bindEng e x tsw).ctxEng x = some e := by
  have hbound : (d.bindEng e x tsw).ctxFld x 0 14 1 = 1 := by
    rw [ctxFld_congr (bindEng_ctx ..), ctxFld_setCtxW_ne _ _ _ _ _ (by decide), ctxFld_setCtxFld_same _ _ _ _ _ _ (by decide)]
    rfl
  rw [ctxEng, if_pos hbound, ctxFld_congr (bindEng_ctx ..), ctxFld_setCtxW_ne _ _ _ _ _ (by decide),
    ctxFld_setCtxFld_other _ _ _ _ _ _ _ _ (by decide) (by decide), ctxFld_setCtxFld_same _ _ _ _ _ _ (by decide), Nat.mod_eq_of_lt (by omega)]
/-- A context switched in on an engine runs there and holds its channels; its PC and the launches stay. -/
theorem switchIn_spec (he : e < 64) (hx : x < 2^14) : (d.switchIn e x 0).engCtx e = some x ∧ (d.switchIn e x 0).ctxEng x = some e ∧ (d.switchIn e x 0).ctxState x = 3 ∧
    (∀ n ∈ d.ctxChans x, ((d.switchIn e x 0).chanOf n).claim = some x) ∧ (d.switchIn e x 0).ctxPc x = d.ctxPc x ∧ (d.switchIn e x 0).launches = d.launches := by
  unfold switchIn
  refine ⟨bindEng_engCtx _ _ _ _ hx, bindEng_ctxEng _ _ _ _ he, (bindEng_state ..).trans (claimFor_state ..), fun n hn => ?_, ?_,
    (bindEng_launches ..).trans (claimFor_launches ..)⟩
  · rw [chanOf_of_chan (bindEng_chan ..), claimFor_eq, setCtxState, chanOf_of_chan (setCtxFld_chan ..), claimed_claim d x hn]
  · rw [ctxPc, ctxFld_congr (bindEng_ctx ..), ctxFld_setCtxW_ne _ _ _ _ _ (by decide), ctxFld_setCtxFld_ne _ _ _ _ _ _ _ (by decide),
      ctxFld_setCtxFld_ne _ _ _ _ _ _ _ (by decide), claimFor_eq, setCtxState, ctxFld_setCtxFld_ne _ _ _ _ _ _ _ (by decide), ctxFld_congr (claimed_ctx ..), ctxPc]
end started

end Dev
end Sys2Proof.Machine

/-! PROOFS. ADMIT (R75), and the obligation on admitting and running contexts. -/
namespace Sys2Proof.Machine

theorem exec_admitCtx (c : HostCmd) (s : State) : exec (.admitCtx c) s = s.onDev (Dev.row 0x20 (fun d => d.admitC c) c) := rfl

namespace Dev

/-! ## What admission leaves of DRAM and of the windows -/

/-- DRAM serves as before, no codeword errs, and the window check reads as before. -/
structure windowsKept (d d' : Dev) : Prop where
  clean : d'.badCw = []
  down : d'.dramDown = d.dramDown
  wins : d'.host.dmaw = d.host.dmaw
  parity : d'.parity = d.parity
/-- As before, and the contexts' records too. -/
structure lays (d d' : Dev) : Prop extends windowsKept d d' where
  ctx : d'.ctx = d.ctx

section lays
variable {d d' d'' : Dev}
theorem windowsKept_refl (h : d.badCw = []) : windowsKept d d := ⟨h, rfl, rfl, rfl⟩
theorem windowsKept_trans (h : windowsKept d d') (h' : windowsKept d' d'') : windowsKept d d'' :=
  ⟨h'.clean, h'.down.trans h.down, h'.wins.trans h.wins, h'.parity.trans h.parity⟩
theorem lays_refl (h : d.badCw = []) : lays d d := ⟨windowsKept_refl h, rfl⟩
theorem lays_trans (h : lays d d') (h' : lays d' d'') : lays d d'' := ⟨windowsKept_trans h.towindowsKept h'.towindowsKept, h'.ctx.trans h.ctx⟩
theorem lays_of_reloads (h : reloads d d') : lays d d' := ⟨⟨h.clean, h.down, by rw [h.host], h.parity⟩, h.ctx⟩
theorem lays_foldl {α : Type} {f : Dev → α → Dev} {l : List α} (h : ∀ d, ∀ x ∈ l, d.badCw = [] → lays d (f d x)) (hbad : d.badCw = []) : lays d (l.foldl f d) :=
  foldl_invariant (P := lays d) (fun e x hx he => lays_trans he (h e x hx he.clean)) (lays_refl hbad)
/-- Parts of the device that neither DRAM, windows nor records are. -/
theorem windowsKept_of_parts (h : d.badCw = []) (hbad : d'.badCw = d.badCw) (hregs : d'.regs = d.regs) (hhost : d'.host = d.host) (hparity : d'.parity = d.parity) :
    windowsKept d d' := ⟨hbad.trans h, by rw [dramDown, frozen, bit_of_rd (rd_of_regs hregs _), bit_of_rd (rd_of_regs hregs _), dramDown, frozen], by rw [hhost], hparity⟩
end lays

/-- A descriptor that was read for tile `t` is locked there, or its fault is queued (R61). -/
def lockAt (d : Dev) (c t s : Nat) : Dev := if !dCheckOk (d.desc s) then d.descCrcAt c t s else { d with descC := SMap.set none d.descC (t * 2^16 + s) (some (d.desc s)) }

/-- Notifications keep the windows. -/
theorem fault_dmaw (d : Dev) (c : Nat) (r : FaultRec) (hesc : escalates c = false) : (d.fault c r).host.dmaw = d.host.dmaw := by
  have hsignal (d : Dev) (fn vec : Nat) : (d.signal fn vec).host.dmaw = d.host.dmaw := by
    unfold signal
    refine iteInduction (motive := fun x : Dev => x.host.dmaw = d.host.dmaw) (fun _ => rfl) fun _ => ?_
    exact iteInduction (motive := fun x : Dev => x.host.dmaw = d.host.dmaw) (fun _ => by rw [setBit_host]) fun _ => rfl
  have hfire (d : Dev) (src t : Nat) : (d.fire src t 0).host = d.host := by
    rw [fire, fireAs, if_pos (by decide), arrive]
    exact foldl_keeps Dev.host _ _ (fun _ _ => updEc_host ..) d
  have hnotify (d : Dev) (c t : Nat) : (d.notifyFault c t).host.dmaw = d.host.dmaw := by
    unfold notifyFault
    refine iteInduction (motive := fun x : Dev => x.host.dmaw = d.host.dmaw) (fun _ => ?_) fun _ => rfl
    rw [hsignal, hfire]
  have hq (d : Dev) (c : Nat) (q : List FaultRec) : (d.setFaultQ c q).host = d.host := setBit_host ..
  have hid (d : Dev) (n : Nat) : ({ d with faultId := n } : Dev).host = d.host := rfl
  unfold fault
  simp only [hesc, Bool.false_and, Bool.false_eq_true, if_false]
  rw [hnotify, raise_host]
  split
  · rw [hq, bump_host]
  · split
    · rw [bump_host, hq, hid, bump_host]
    · rw [hq, bump_host, bump_host]

section steps
variable {d : Dev} (h : d.badCw = [])
include h

theorem lays_updChan (n : Nat) (f : Chan → Chan) : lays d (d.updChan n f) :=
  ⟨windowsKept_of_parts h (updChan_badCw ..) (updChan_regs ..) (updChan_host ..) (updChan_parity ..), updChan_ctx ..⟩
theorem lays_wrN {a : Nat} (v : Nat) (ha : a ≠ Reg.dramG_STATUS) : lays d (d.wrN a v) :=
  ⟨⟨(wrN_badCw ..).trans h, by rw [dramDown, frozen, bit_wrN_ne _ _ _ ha, bit_wrN_ne _ _ _ ha, dramDown, frozen], by rw [wrN_host], wrN_parity ..⟩, wrN_ctx ..⟩

theorem lays_descCrcAt (c t s : Nat) : lays d (d.descCrcAt c t s) := by
  unfold descCrcAt
  split
  · have hbase := base_faultOf d 7 0x70 5 t (d.ctxRecOwner c) [s] (by decide)
    have hbit (i : Nat) : (d.faultOf 7 0x70 5 t (d.ctxRecOwner c) [s]).bit Reg.dramG_STATUS i = d.bit Reg.dramG_STATUS i :=
      bit_of_rd (rd_faultOf_low _ _ _ _ _ _ _ (by decide) (by decide)) i
    exact ⟨⟨(badCw_of_base hbase).trans h, by rw [dramDown, frozen, hbit, hbit, dramDown, frozen], fault_dmaw _ _ _ (by decide), parity_of_base hbase⟩, ctx_of_base hbase⟩
  · exact lays_refl h
theorem lays_lockAt (c t s : Nat) : lays d (d.lockAt c t s) := by
  unfold lockAt
  exact iteInduction (motive := lays d) (fun _ => lays_descCrcAt h ..) fun _ => ⟨windowsKept_of_parts h rfl rfl rfl rfl, rfl⟩
theorem lockDesc_of_clean (c t s : Nat) : d.lockDesc c t s = if (SMap.get none d.descC (t * 2^16 + s)).isSome then d
    else (d.served false (d.mm.descAt + 64 * s) 64).lockAt c t s := by
  have hmeet : d.meetBad 7 (d.mm.descAt + 64 * s) 64 = none := by
    rw [meetBad, badIn, errsIn_of_none h]
    rfl
  unfold lockDesc
  rw [hmeet]
  rfl
theorem lays_lockDesc (c t s : Nat) : lays d (d.lockDesc c t s) := by
  have hserved := lays_of_reloads (reloads_served h (d.mm.descAt + 64 * s) 64)
  rw [lockDesc_of_clean h]
  exact iteInduction (motive := lays d) (fun _ => lays_refl h) fun _ => lays_trans hserved (lays_lockAt hserved.clean ..)
theorem lays_layRing (adms : List (List Nat × List Nat)) (ch : Nat) : lays d (d.layRing adms ch) := by
  have hne : Reg.chn_SC_LAYOUT ch ≠ Reg.dramG_STATUS := by unfold Reg.chn_SC_LAYOUT chnBase Reg.dramG_STATUS; omega
  have h₁ : lays d (d.setFld (Reg.chn_SC_LAYOUT ch) 8 8 (d.ringFor adms ch).1) := lays_wrN h _ hne
  exact lays_trans h₁ (lays_wrN h₁.clean _ hne)
theorem lays_compact (ch : Nat) : lays d (d.compact ch) := by
  unfold compact
  extract_lets rs placed sc to_
  have h₁ : lays d { d with sc := sc } := ⟨windowsKept_of_parts h rfl rfl rfl rfl, rfl⟩
  exact lays_trans h₁ (lays_updChan h₁.clean ..)
theorem lays_makeResident (ch s : Nat) : lays d (d.makeResident ch s) := by
  unfold makeResident
  extract_lets ws k limit d₁ r
  split
  · exact lays_refl h
  · have h₁ : lays d d₁ := iteInduction (motive := fun x => lays d x) (fun _ => lays_compact h ch) fun _ => lays_refl h
    have h₂ := lays_updChan h₁.clean ch (fun (c : Chan) => { c with resident := c.resident ++ [r] })
    exact lays_trans (lays_trans h₁ h₂) (lays_of_reloads (reloads_copyResident h₂.clean ch r))
end steps

/-! ## A set of contexts is admitted -/

theorem lays_foldl_snd {α : Type} {f : Nat × Dev → α → Nat × Dev} (h : ∀ x a, x.2.badCw = [] → lays x.2 (f x a).2) (l : List α) {x : Nat × Dev}
    (hbad : x.2.badCw = []) : lays x.2 (l.foldl f x).2 := by
  induction l generalizing x with
  | nil => exact lays_refl hbad
  | cons a r ih => exact lays_trans (h x a hbad) (ih (h x a hbad).clean)
theorem lays_layOne (ch : Nat) (x : Nat × Dev) (s : Nat) (hbad : x.2.badCw = []) : lays x.2 (layOne ch x s).2 := by
  unfold layOne
  split
  · exact lays_refl hbad
  · exact lays_makeResident hbad ch s
theorem lays_layChan (old new : List (List Nat × List Nat)) (x : Nat × Dev) (ch : Nat) (hbad : x.2.badCw = []) : lays x.2 (layChan old new x ch).2 := by
  unfold layChan
  extract_lets d u d₁ named was keep had kept d₂ d₃
  have h₁ : lays d d₁ := lays_layRing hbad new ch
  have h₂ : lays d₁ d₂ := lays_updChan h₁.clean ..
  have h₃ : lays d₂ d₃ := iteInduction (motive := lays d₂) (fun _ => lays_compact h₂.clean ch) fun _ => lays_refl h₂.clean
  exact lays_trans (lays_trans (lays_trans h₁ h₂) h₃) (lays_foldl_snd (lays_layOne ch) _ (x := (x.1, d₃)) h₃.clean)
theorem lays_layOut {d : Dev} (h : d.badCw = []) (old : List (List Nat × List Nat)) (chs : List Nat) : lays d (d.layOut old chs).2 :=
  lays_foldl_snd (lays_layChan old d.admList) chs (x := (0, d)) h

section admission
variable {d : Dev} (h : d.badCw = [])

/-- The record of an admitted context, before its descriptors are locked. -/
def markAdmitted (d : Dev) (c : Nat) (r : AdmRec) : Dev :=
  (({ d with adm := SMap.set none d.adm c (some r) } : Dev).setCtxState c 2).setCtxW c 47 (BitVec.ofNat 32 (r.frames.foldl (fun n f => n ||| 2^f) 0))
theorem markAdmitted_state (d : Dev) (c : Nat) (r : AdmRec) (y : Nat) : (d.markAdmitted c r).ctxState y = if y = c then 2 else d.ctxState y := by
  unfold markAdmitted
  by_cases hy : y = c
  · rw [if_pos hy, hy, ctxState, ctxFld_setCtxW_ne _ _ _ _ _ (by decide), setCtxState, ctxFld_setCtxFld_same _ _ _ _ _ _ (by decide)]
    rfl
  · have hword (e : Dev) (v w : Word) : ((e.setCtxW c 0 v).setCtxW c 47 w).ctxW y 0 = e.ctxW y 0 := by
      rw [ctxW_setCtxW_ne _ _ (by omega), ctxW_setCtxW_ne _ _ (by omega)]
    rw [if_neg hy, ctxState, ctxFld, setCtxState, setCtxFld, hword]
    rfl
theorem windowsKept_markAdmitted (h : d.badCw = []) (c : Nat) (r : AdmRec) : windowsKept d (d.markAdmitted c r) :=
  windowsKept_of_parts h rfl rfl rfl rfl

include h
theorem admitOne_spec (c : Nat) : windowsKept d (d.admitOne c) ∧ ∀ y, (d.admitOne c).ctxState y = if y = c ∧ d.isAdmitted c = false then 2 else d.ctxState y := by
  unfold admitOne
  by_cases hadm : d.isAdmitted c = true
  · rw [if_pos hadm]
    exact ⟨windowsKept_refl h, fun y => by rw [if_neg (fun hy => by rw [hadm] at hy; cases hy.2)]⟩
  · rw [if_neg hadm]
    extract_lets r d₁ d₂
    have hmark : d₂ = d.markAdmitted c r := rfl
    have hwins : windowsKept d d₂ := hmark ▸ windowsKept_markAdmitted h c r
    have hlock : lays d₂ ((ctxTiles d₂ c).foldl (fun (d : Dev) (t : Nat) => r.segs.foldl (fun (d : Dev) (s : Nat) => d.lockDesc c t s) d) d₂) :=
      lays_foldl (fun d t _ hd => lays_foldl (fun d s _ hd => lays_lockDesc hd c t s) hd) hwins.clean
    refine ⟨windowsKept_trans hwins hlock.towindowsKept, fun y => ?_⟩
    rw [ctxState, ctxFld_congr hlock.ctx, ← ctxState, hmark, markAdmitted_state]
    exact if_congr (by rw [Bool.eq_false_iff.2 hadm]; simp) rfl rfl
/-- Every context of a request that was not admitted becomes ADMITTED. -/
theorem admitAll_spec (req : List Nat) : windowsKept d (req.foldl (fun (d : Dev) (x : Nat) => d.admitOne x) d) ∧
    ∀ y, (req.foldl (fun (d : Dev) (x : Nat) => d.admitOne x) d).ctxState y = if y ∈ req ∧ d.isAdmitted y = false then 2 else d.ctxState y := by
  induction req generalizing d with
  | nil => exact ⟨windowsKept_refl h, fun y => by rw [if_neg (by simp)]; rfl⟩
  | cons c r ih =>
    obtain ⟨hwins, hstate⟩ := admitOne_spec h c
    obtain ⟨hwins', hstate'⟩ := ih hwins.clean
    refine ⟨windowsKept_trans hwins hwins', fun y => (hstate' y).trans ?_⟩
    have hadm : (d.admitOne c).isAdmitted y = if y = c ∧ d.isAdmitted c = false then true else d.isAdmitted y := by
      rw [isAdmitted, hstate y]
      split
      · rfl
      · rfl
    rw [hadm, hstate y]
    by_cases hy : y = c
    · subst hy
      cases hc : d.isAdmitted y <;> simp
    · simp [hy]
end admission

/-! ## The verdict and ADMIT (R75, R83) -/

section verdict
variable {d : Dev} {c : HostCmd}

/-- What a passed test leaves: each context of the request is admitted, and the windows read as before. -/
structure admittedAll (d d' : Dev) (req : List Nat) : Prop where
  wins : windowsKept d d'
  states : ∀ y ∈ req, (d.ctxState y = 1 → d'.ctxState y = 2) ∧ d'.isAdmitted y = true

theorem frozen_of_up (h : d.dramDown = false) : d.frozen = false := by
  unfold dramDown at h
  exact (Bool.or_eq_false_iff.1 h).1
theorem requestStatus_ne (o : Option Nat) (req : List Nat) : d.requestStatus o req ≠ 0x11 := by
  unfold requestStatus
  split_ifs <;> decide
/-- A request that is refused leaves the device; one that passes admits its contexts. -/
theorem admission_spec (hbad : d.badCw = []) (hup : d.dramDown = false) (o : Option Nat) (req : List Nat) :
    ((d.admission o req).status = 0 ∧ (d.admission o req).result = 0 ∧ admittedAll d (d.admission o req).dev req) ∨
    ((d.admission o req).status ≠ 0 ∧ (d.admission o req).status ≠ 0x11 ∧ (d.admission o req).dev = d) := by
  unfold admission
  extract_lets s cs recs adms others summ fails total chs old x
  split
  · next hs => exact .inr ⟨hs, requestStatus_ne o req, rfl⟩
  · split
    · exact .inr ⟨(by decide : (0x0B : Nat) ≠ 0), (by decide : (0x0B : Nat) ≠ 0x11), rfl⟩
    · obtain ⟨hwins, hstate⟩ := admitAll_spec hbad req
      have hlay : lays (req.foldl (fun (d : Dev) (x : Nat) => d.admitOne x) d) x.2 := lays_layOut hwins.clean old chs
      have hall := windowsKept_trans hwins hlay.towindowsKept
      rw [if_neg (by rw [frozen_of_up (hall.down.trans hup)]; decide)]
      refine .inl ⟨rfl, rfl, hall, fun y hy => ?_⟩
      have hy' : x.2.ctxState y = if d.isAdmitted y = false then 2 else d.ctxState y := by
        rw [ctxState, ctxFld_congr hlay.ctx, ← ctxState, hstate y]
        exact if_congr (and_iff_right hy) rfl rfl
      have hadm : x.2.isAdmitted y = true := by
        rw [isAdmitted, hy']
        cases hd : d.isAdmitted y
        · rfl
        · exact hd
      refine ⟨fun h1 => ?_, hadm⟩
      rw [hy', if_pos (by rw [isAdmitted, h1]; rfl)]

theorem length_missWords (fail : Bool) (m : Miss) : (missWords fail m).length = 4 := rfl
theorem length_report (d : Dev) (o : Option Nat) (result nctx serial total : Nat) {len : Nat} (summ fails : List Miss) (hlen : 32 ≤ len) :
    (d.report o result nctx serial len total summ fails).length ≤ len := by
  unfold report
  extract_lets bad all room kept nfail w2
  have hroom : kept.length ≤ (len - 32) / 16 := (List.length_take_le ..).trans (Nat.min_le_right ..)
  have hwords : (kept.flatMap (fun p => missWords p.1 p.2)).length = 4 * kept.length := by
    rw [List.length_flatMap]
    simp only [length_missWords, List.map_const', List.sum_replicate, smul_eq_mul, Nat.mul_comm]
  rw [length_wordBytes, List.length_map, List.length_append, hwords]
  simp only [List.length_cons, List.length_nil]
  omega

/-- The report of a verdict on the command's request. -/
def admitReport (v : Verdict) (c : HostCmd) (n : Nat) (d : Dev) : List Byte := d.report c.owner v.result n c.serial.toNat (c.p 2) v.total v.summ v.fails

theorem pageOk_of_wins {d d' : Dev} (hwins : d'.host.dmaw = d.host.dmaw) (hparity : d'.parity = d.parity) (fn page : Nat) (write : Bool) :
    d'.pageOk fn page write = d.pageOk fn page write := congrArg (List.any _) (funext fun w => by rw [windowOk, hwins, hparity, windowOk])
theorem admitC_of_windowed (hroom : 32 ≤ c.p 2) (hlen : c.len.toNat % 4 = 0 ∧ c.len.toNat ≠ 0 ∧ c.len.toNat ≤ 1024) (halign : c.aligned = true) (hquiet : d.quiet)
    (hwin : d.windowed c.fn c.addr.toNat c.len.toNat false) (hout : d.windowed c.fn (c.p64 0) (c.p 2) true) {req : List Nat}
    (hreq : req = (leWords (d.hostBytes c.addr.toNat c.len.toNat)).map (fun w => w.toNat)) {v : Verdict} (hv : v = d.admission c.owner req)
    (hkept : windowsKept d v.dev) (hstatus : v.status ≠ 0x11) :
    d.admitC c = ⟨v.status, v.result, v.dev.hostStore (c.p64 0) (admitReport v c req.length d), []⟩ := by
  have hpages : v.dev.windowed c.fn (c.p64 0) (admitReport v c req.length d).length true := fun k hk => by
    have hle : (admitReport v c req.length d).length ≤ c.p 2 := length_report _ _ _ _ _ _ _ _ hroom
    rw [pageOk_of_wins hkept.wins hkept.parity, pagePeer_of_dmaw hkept.wins hkept.parity]
    exact hout k (Nat.lt_of_lt_of_le hk hle)
  unfold admitC
  dsimp only
  rw [if_neg (by rw [halign]; simp only [Bool.not_true, Bool.false_eq_true, or_false]; omega), takeBuf_of_windowed hquiet hwin, ← hreq, ← hv]
  rw [← admitReport, giveAt_of_windowed hpages]
  dsimp only [ok]
  rw [if_neg hstatus]
  rfl
end verdict

end Dev
open Dev

/-- Bytes given to the host and a completion leave the contexts and all but the host interface and host memory. -/
theorem given_only (d : Dev) (c : HostCmd) (status result a : Nat) (bs : List Byte) : (d.hostStore a bs).completed c status result =
    { d with host := ((d.hostStore a bs).completed c status result).host, hostMem := ((d.hostStore a bs).completed c status result).hostMem } := rfl
theorem ctxState_of_given (d : Dev) (c : HostCmd) (status result a : Nat) (bs : List Byte) (y : Nat) :
    ((d.hostStore a bs).completed c status result).ctxState y = d.ctxState y := rfl
theorem isAdmitted_of_given (d : Dev) (c : HostCmd) (status result a : Nat) (bs : List Byte) (y : Nat) :
    ((d.hostStore a bs).completed c status result).isAdmitted y = d.isAdmitted y := rfl

theorem admitCtx_ends {s : State} {c : HostCmd} (hfetches : s.dev.fetches c.fn = true) (hstalls : s.dev.stallsAt 0 s.dev.ilBytes = false)
    (hroom : 32 ≤ c.p 2) (hlen : c.len.toNat % 4 = 0 ∧ c.len.toNat ≠ 0 ∧ c.len.toNat ≤ 1024) (halign : c.aligned = true) (hup : s.dev.dramDown = false)
    (hbad : s.dev.badCw = []) (hquiet : s.dev.quiet) (hwin : s.dev.windowed c.fn c.addr.toNat c.len.toNat false) (hout : s.dev.windowed c.fn (c.p64 0) (c.p 2) true)
    {req : List Nat} (hreq : req = (leWords (s.dev.hostBytes c.addr.toNat c.len.toNat)).map (fun w => w.toNat)) :
    ((s.dev.admission c.owner req).status = 0 → s.ends (.admitCtx c) c 0 0 (fun d' =>
      ∀ y ∈ req, (s.dev.ctxState y = 1 → d'.ctxState y = 2) ∧ d'.isAdmitted y = true)) ∧
    ((s.dev.admission c.owner req).status ≠ 0 → s.ends (.admitCtx c) c (s.dev.admission c.owner req).status (s.dev.admission c.owner req).result (fun d' =>
      d' = { s.dev with host := d'.host, hostMem := d'.hostMem })) := by
  have hready : s.dev.ready 0x20 c = true := ready_of_spans hfetches (by decide) fun r h => by
    rw [List.mem_singleton.1 h]
    exact hstalls
  have hspec := admission_spec hbad hup c.owner req
  generalize hv : s.dev.admission c.owner req = v at hspec
  rcases hspec with ⟨hstatus, hresult, hall⟩ | ⟨hstatus, hnot, hdev⟩
  · have hrun := admitC_of_windowed hroom hlen halign hquiet hwin hout hreq hv.symm hall.wins (by rw [hstatus]; decide)
    rw [hstatus, hresult] at hrun
    exact ⟨fun _ => State.ends_of_row (exec_admitCtx c s) hready hrun fun y hy => by
      rw [ctxState_of_given, isAdmitted_of_given]
      exact hall.states y hy, fun h => absurd hstatus h⟩
  · have hrun := admitC_of_windowed hroom hlen halign hquiet hwin hout hreq hv.symm (by rw [hdev]; exact windowsKept_refl hbad) hnot
    rw [hdev] at hrun
    exact ⟨fun h => absurd h hstatus, fun _ => State.ends_of_row (exec_admitCtx c s) hready hrun (given_only ..)⟩

section contexts
variable {s : State} {c : HostCmd} (hfetches : s.dev.fetches c.fn = true) (hstatus : s.dev.ctxStatus c = 0)
include hfetches hstatus

theorem release_ends : (1 < s.dev.ctxState (c.p 0) → s.dev.ctxState (c.p 0) ≠ 3 → s.ends (.release c) c 0 0 (fun d' =>
      d'.ctxState (c.p 0) = 1 ∧ d'.admOf (c.p 0) = none ∧ (∀ y, y ≠ c.p 0 → d'.admOf y = s.dev.admOf y) ∧ d'.launches = s.dev.launches)) ∧
    (s.dev.ctxState (c.p 0) = 3 → s.ends (.release c) c 0x05 0 (fun d' => d' = { s.dev with host := d'.host })) ∧
    (s.dev.ctxState (c.p 0) < 2 → s.ends (.release c) c 0 0 (fun d' => d' = { s.dev with host := d'.host })) := by
  have hready := ready_of_noDram (d := s.dev) (c := c) (op := 0x21) hfetches (by decide) rfl
  have hrun : s.dev.releaseC c = if s.dev.ctxState (c.p 0) = 3 then s.dev.stop 0x05 else if s.dev.ctxState (c.p 0) < 2 then s.dev.ok
      else (s.dev.releaseCtx (c.p 0)).ok := by
    unfold releaseC
    exact if_neg (not_not_intro hstatus)
  refine ⟨fun h1 h3 => ?_, fun h => ?_, fun h => ?_⟩
  · rw [if_neg h3, if_neg (by omega)] at hrun
    exact State.ends_of_row (exec_release c s) hready hrun (releaseCtx_spec s.dev (c.p 0))
  · rw [if_pos h] at hrun
    exact State.ends_of_row (exec_release c s) hready hrun (completed_only ..)
  · rw [if_neg (by omega), if_pos h] at hrun
    exact State.ends_of_row (exec_release c s) hready hrun (completed_only ..)

theorem ctxStop_ends (hp : c.p 1 ≤ 1) :
    (∀ e, s.dev.ctxState (c.p 0) = 3 → s.dev.ctxEng (c.p 0) = some e → s.ends (.ctxStop c) c 0 (s.dev.ctxPc (c.p 0)) (fun d' =>
      d'.ctxState (c.p 0) = 2 ∧ d'.engCtx e = none ∧ d'.ctxPc (c.p 0) = s.dev.storePc (c.p 0) ∧
      d'.launches = s.dev.launches.filter (fun l => !(c.p 1 == 1 && l.ctx == c.p 0 && decide (s.dev.nowT + 528 ≤ l.judged))))) ∧
    (s.dev.ctxState (c.p 0) ≠ 3 → s.ends (.ctxStop c) c 0 (s.dev.ctxPc (c.p 0)) (fun d' => d' = { s.dev with host := d'.host })) := by
  have hready := ready_of_noDram (d := s.dev) (c := c) (op := 0x23) hfetches (by decide) rfl
  have hrun : s.dev.ctxStop c = (s.dev.stopCtx (c.p 0) (c.p 1 == 1)).ok (s.dev.ctxPc (c.p 0)) := by
    unfold ctxStop
    dsimp only
    rw [if_neg (not_not_intro hstatus), if_neg (by omega)]
  refine ⟨fun e h3 heng => State.ends_of_row (exec_ctxStop c s) hready hrun (stopCtx_spec _ h3 heng), fun h3 => ?_⟩
  rw [stopCtx, if_neg h3] at hrun
  exact State.ends_of_row (exec_ctxStop c s) hready hrun (completed_only ..)

theorem ctxStart_ends (hx : c.p 0 < 2^14) (hstart : startable s.dev (c.p 0)) {e : Nat} (he : e < 64) (hp : c.p 1 ≤ 64)
    (hmay : c.p 1 < 64 → sees c.fn (s.dev.engOwner (c.p 1)) = true) (hengine : s.dev.startEngine (s.dev.ctxRecOwner (c.p 0)) (c.p 1) = some e) :
    (s.dev.foreignChan (c.p 0) ≠ none → s.ends (.ctxStart c) c 0x08 0 (fun d' => d' = { s.dev with host := d'.host })) ∧
    (s.dev.foreignChan (c.p 0) = none → s.dev.conflict (c.p 0) none = none → s.ends (.ctxStart c) c 0 e (fun d' =>
      d'.engCtx e = some (c.p 0) ∧ d'.ctxEng (c.p 0) = some e ∧ d'.ctxState (c.p 0) = 3 ∧ (∀ n ∈ s.dev.ctxChans (c.p 0), (d'.chanOf n).claim = some (c.p 0)) ∧
      (s.dev.current (s.dev.engOf e).s0 (c.p 0) = false → s.dev.current (s.dev.engOf e).s1 (c.p 0) = false →
        d'.ctxPc (c.p 0) = if s.dev.ctxState (c.p 0) = 4 then s.dev.ctxFld (c.p 0) 1 0 20 else s.dev.storePc (c.p 0)) ∧ d'.launches = s.dev.launches)) ∧
    (s.dev.foreignChan (c.p 0) = none → s.dev.conflict (c.p 0) none ≠ none → s.ends (.ctxStart c) c 0x0A 0 (fun d' => d' = { s.dev with host := d'.host })) := by
  have hready := ready_of_noDram (d := s.dev) (c := c) (op := 0x22) hfetches (by decide) rfl
  have hrun : s.dev.ctxStart c = s.dev.startCtx (c.p 0) (c.p 1) := by
    have hsees : ¬ (c.p 1 < 0x40 ∧ (!mayUse c (s.dev.engOwner (c.p 1))) = true) := fun ⟨hlt, hno⟩ => by
      have huse : mayUse c (s.dev.engOwner (c.p 1)) = true := hmay hlt
      rw [huse] at hno
      cases hno
    unfold ctxStart
    dsimp only
    rw [if_neg (not_not_intro hstatus), if_neg (by omega), if_neg hsees]
  refine ⟨fun hforeign => ?_, fun hforeign hfree => ?_, fun hforeign hconflict => ?_⟩
  · rw [startCtx_of_foreign hstart hforeign] at hrun
    exact State.ends_of_row (exec_ctxStart c s) hready hrun (completed_only ..)
  · obtain ⟨f, hstarted⟩ := startCtx_of_free hstart hforeign hengine hfree
    rw [hstarted] at hrun
    have hchans : ((s.dev.startRecord e (c.p 0)).updEng e f).ctxChans (c.p 0) = s.dev.ctxChans (c.p 0) := by
      rw [ctxChans_of_ctx (updEng_ctx ..), startRecord_ctxChans]
    have hstartPc : s.dev.current (s.dev.engOf e).s0 (c.p 0) = false → s.dev.current (s.dev.engOf e).s1 (c.p 0) = false →
        ((s.dev.startRecord e (c.p 0)).updEng e f).ctxPc (c.p 0) = if s.dev.ctxState (c.p 0) = 4 then s.dev.ctxFld (c.p 0) 1 0 20 else s.dev.storePc (c.p 0) := fun h₀ h₁ => by
      rw [ctxPc, ctxFld_congr (updEng_ctx ..), ← ctxPc, startRecord_pc s.dev _ _ h₀ h₁]
    have hkept : ((s.dev.startRecord e (c.p 0)).updEng e f).launches = s.dev.launches := startRecord_launches ..
    generalize (s.dev.startRecord e (c.p 0)).updEng e f = record at hrun hchans hstartPc hkept
    obtain ⟨hctx, heng, hstate, hclaim, hpc, hlaunches⟩ := switchIn_spec record (c.p 0) e he hx
    generalize record.switchIn e (c.p 0) 0 = d' at hrun hctx heng hstate hclaim hpc hlaunches
    exact State.ends_of_row (exec_ctxStart c s) hready hrun ⟨hctx, heng, hstate, fun n hn => hclaim n (hchans ▸ hn), fun h₀ h₁ => hpc.trans (hstartPc h₀ h₁),
      hlaunches.trans hkept⟩
  · rw [startCtx_of_conflict hstart hforeign hengine hconflict] at hrun
    exact State.ends_of_row (exec_ctxStart c s) hready hrun (completed_only ..)
end contexts

/-- Settles O50: each command by what it does to the records, and ADMIT by the verdict of its test. -/
theorem contextsAreAdmittedAndRun : Obligations.ContextsAreAdmittedAndRun := by
  unfold Obligations.ContextsAreAdmittedAndRun
  intro s c hfetches d x len host only
  refine ⟨?_, fun hx hsees => ?_⟩
  · intro req v hroom hlen4 hlen0 hlen halign _ hup hstalls hbad hquiet hwin hout
    exact admitCtx_ends hfetches hstalls hroom ⟨hlen4, hlen0, hlen⟩ halign hup hbad hquiet hwin hout rfl
  · have hstatus : s.dev.ctxStatus c = 0 := ctxStatus_of_ready hx hsees
    obtain ⟨hrelease, hrunning, hidle⟩ := release_ends hfetches hstatus
    have hadmitted {n : Nat} (h : n = 2 ∨ n = 4 ∨ n = 5) : 1 < n ∧ n ≠ 3 := by omega
    refine ⟨fun hstate => hrelease (hadmitted hstate).1 (hadmitted hstate).2, hrunning, hidle, fun hsafe hstate e he => ?_, fun hp => ctxStop_ends hfetches hstatus hp⟩
    intro free hengine
    have hstart : startable s.dev x := ⟨hsafe, hstate⟩
    have hlt : c.p 0 < 2^14 := Nat.lt_trans hx (by decide)
    rcases hengine with ⟨hp, hidle, howner, hmay⟩ | ⟨hp, hfree, hleast⟩
    · exact ctxStart_ends hfetches hstatus hlt hstart he (by omega) (fun _ => by rw [hp]; exact hmay) (startEngine_of (.inl ⟨hp, hidle, howner⟩) he)
    · exact ctxStart_ends hfetches hstatus hlt hstart he (by omega) (fun h => by omega) (startEngine_of (.inr ⟨hp, hfree, hleast⟩) he)
end Sys2Proof.Machine

/-! PROOFS. Engines and host commands (R121, R135, R145): the retirement of an engine on request, its restoring, and reading its bank. -/
namespace Sys2Proof.Machine
theorem exec_engRetire (c : HostCmd) (s : State) : exec (.engRetire c) s = s.onDev (Dev.row 0x28 (fun d => d.engRetire c) c) := rfl
theorem exec_engRestore (c : HostCmd) (s : State) : exec (.engRestore c) s = s.onDev (Dev.row 0x29 (fun d => d.engRestore c) c) := rfl
theorem exec_engBankRead (c : HostCmd) (s : State) : exec (.engBankRead c) s = s.onDev (Dev.row 0x2A (fun d => d.engBankRead c) c) := rfl

namespace Dev

/-! ## The owner of an engine (R135, R150) -/

section setEngOwner
variable (d : Dev) (e : Nat) (o : Option Nat) (spare : Bool)

theorem status_ne_pool {e k : Nat} (hk : k < 64) : Reg.eng_STATUS k ≠ Reg.pool_SPARE_LO + 4 * (e / 32) := by grind
theorem status_ne_status {e i : Nat} (h : e ≠ i) : Reg.eng_STATUS e ≠ Reg.eng_STATUS i := by grind
theorem status_ne_inService {e k : Nat} (hk : k < 64) : Reg.eng_STATUS k ≠ Reg.pool_IN_SERVICE_LO + 4 * (e / 32) := by grind

theorem rd_setEngOwner_ne {a : Nat} (h : Reg.eng_STATUS e ≠ a) (hpool : Reg.pool_SPARE_LO + 4 * (e / 32) ≠ a) : (d.setEngOwner e o spare).rd a = d.rd a := by
  unfold setEngOwner
  extract_lets d₁ d₂ d₃ a'
  have h₁ : d₁.rd a = d.rd a := rd_of_regs (updEng_regs ..) a
  rw [rd_setBit_ne _ _ _ hpool, rd_setBit_ne _ _ _ h, rd_setBit_ne _ _ _ h, rd_setFld_ne _ _ _ _ h, h₁]
/-- An engine's owner is no part of what the engine carries out. -/
theorem fld_setEngOwner (he : e < 64) {lo n : Nat} (h : lo + n ≤ 18 ∨ 24 ≤ lo) :
    (d.setEngOwner e o spare).fld (Reg.eng_STATUS e) lo n = d.fld (Reg.eng_STATUS e) lo n := by
  unfold setEngOwner
  extract_lets d₁ d₂ d₃ a'
  have h₁ : d₁.fld (Reg.eng_STATUS e) lo n = d.fld (Reg.eng_STATUS e) lo n := fld_congr (updEng_regs ..) ..
  rw [fld_setBit_ne _ _ _ _ _ (status_ne_pool he).symm, fld_setBit_other _ _ _ _ _ _ (by omega) (by omega),
    fld_setBit_other _ _ _ _ _ _ (by omega) (by omega), fld_setFld_other _ _ _ _ _ _ _ (by omega) (by omega), h₁]
theorem bit_setEngOwner (he : e < 64) {i : Nat} (h : i < 18 ∨ 24 ≤ i) : (d.setEngOwner e o spare).bit (Reg.eng_STATUS e) i = d.bit (Reg.eng_STATUS e) i := by
  rw [bit_eq, fld_setEngOwner _ _ _ _ he (by omega), ← bit_eq]
theorem engCtx_setEngOwner (he : e < 64) {i : Nat} (hi64 : i < 64) : (d.setEngOwner e o spare).engCtx i = d.engCtx i := by
  by_cases hi : e = i
  · subst hi
    rw [engCtx, engCtx, bit_setEngOwner _ _ _ _ he (by omega), fld_setEngOwner _ _ _ _ he (by omega)]
  · exact engCtx_of_rd (rd_setEngOwner_ne _ _ _ _ (status_ne_status hi) (status_ne_pool hi64).symm)
theorem isSpare_setEngOwner (he : e < 64) : (d.setEngOwner e o spare).isSpare e = spare := by
  unfold isSpare setEngOwner
  extract_lets d₁ d₂ d₃ a'
  rw [bit_setBit_ne _ _ _ _ (status_ne_pool he).symm, bit_setBit_same _ _ _ _ (by decide)]
theorem engOwner_setEngOwner : (d.setEngOwner e o spare).engOwner e = o := by
  unfold engOwner setEngOwner
  extract_lets d₁ d₂ d₃ a'
  have h₁ : (d₁.engOf e).owner = o := by
    dsimp only [d₁]
    rw [engOf_updEng_same]
  rw [engOf_congr (setBit_eng ..), engOf_congr (setBit_eng ..), engOf_congr (setBit_eng ..), engOf_congr (setFld_eng ..), h₁]
theorem setEngOwner_launches : (d.setEngOwner e o spare).launches = d.launches :=
  (launches_of_base (setEngOwner_base ..)).trans (updEng_launches ..)
end setEngOwner

/-! ## ENG_RETIRE (R145) -/

section retire
variable {d : Dev} {e x r : Nat} {exc : List Nat}

theorem engCtx_lt (h : d.engCtx e = some x) : x < 2^14 := by
  unfold engCtx at h
  split at h
  · cases h
    exact bitsOf_lt ..
  · cases h

/-- An engine's replacement is another engine of the chip. -/
theorem replacement_spec (h : d.replacement e = some r) : r < 64 ∧ r ≠ e := by
  unfold replacement at h
  split at h
  · next r' hr' =>
    cases h
    have hp := List.find?_some hr'
    simp only [Bool.and_eq_true, bne_iff_ne] at hp
    exact ⟨List.mem_range.1 (List.mem_of_find?_eq_some hr'), hp.1.1.1⟩
  · have hp := List.find?_some h
    simp only [Bool.and_eq_true, bne_iff_ne] at hp
    exact ⟨List.mem_range.1 (List.mem_of_find?_eq_some h), hp.1.1⟩

theorem endRetire_engCtx (d : Dev) (he : e < 64) {i : Nat} (hi64 : i < 64) : (d.endRetire e).engCtx i = d.engCtx i := by
  unfold endRetire
  refine (engCtx_of_rd (rd_of_regs (updEng_regs ..) _)).trans (Eq.trans ?_ (engCtx_setEngOwner d e none false he hi64))
  generalize d.setEngOwner e none false = d₁
  by_cases hi : e = i
  · subst hi
    rw [engCtx, engCtx, bit_setBit_other _ _ _ _ _ (by decide) (by decide), bit_setBit_ne _ _ _ _ (status_ne_inService he).symm,
      fld_setBit_other _ _ _ _ _ _ (by decide) (by decide), fld_setBit_ne _ _ _ _ _ (status_ne_inService he).symm]
  · exact engCtx_of_rd ((rd_setBit_ne _ _ _ (status_ne_status hi)).trans (rd_setBit_ne _ _ _ (status_ne_inService hi64).symm))

theorem unbind_engCtx (d : Dev) (e : Nat) : (d.unbind e).engCtx e = none := by
  have hfld : (d.unbind e).fld (Reg.eng_STATUS e) 0 16 = 0 := by
    unfold unbind
    rw [fld_congr (d := d.setFld (Reg.eng_STATUS e) 0 16 0) ((updEng_regs ..).trans (settle_regs ..)), fld_setFld_same _ _ _ _ _ (by decide)]
    rfl
  have hbit : (d.unbind e).bit (Reg.eng_STATUS e) 14 = false := by
    rw [bit_eq, show (d.unbind e).fld (Reg.eng_STATUS e) 14 1 = 0 by
      simp only [fld, bitsOf] at hfld ⊢
      omega]
    rfl
  rw [engCtx, hbit]
  rfl
theorem unbind_engCtx_ne (d : Dev) {e i : Nat} (h : e ≠ i) : (d.unbind e).engCtx i = d.engCtx i := by
  refine engCtx_of_rd ?_
  unfold unbind
  rw [rd_of_regs ((updEng_regs ..).trans (settle_regs ..)), rd_setFld_ne _ _ _ _ (status_ne_status h)]

theorem rebind_engCtx (hx : x < 2^14) (d : Dev) (e : Nat) : (d.rebind e x r).engCtx r = some x := by
  unfold rebind
  extract_lets y d₁ d₂ d₃
  have h₃ : d₃.engCtx r = d₁.engCtx r := engCtx_of_rd (rd_of_regs ((updEng_regs ..).trans (setCtxFld_regs ..)) _)
  refine Eq.trans (b := d₃.engCtx r) (engCtx_of_rd rfl) (h₃.trans ?_)
  dsimp only [d₁]
  generalize d.bit (Reg.eng_STATUS e) 15 = b
  have hbound := engCtx_of_bound r (d' := d.setFld (Reg.eng_STATUS r) 0 16 (2^14 + x)) hx (by rw [fld_setFld_same _ _ _ _ _ (by decide), Nat.mod_eq_of_lt (by omega)])
  rw [← hbound, engCtx, engCtx, bit_setBit_other _ _ _ _ _ (by decide) (by decide), fld_setBit_other _ _ _ _ _ _ (by decide) (by decide)]

/-- The context goes to the replacement, as engine and record name it, in the state that it was in. -/
theorem handOver_spec (hx : x < 2^14) (hr : r < 64) (hne : r ≠ e) (d : Dev) : (d.handOver e x r).engCtx r = some x ∧ (d.handOver e x r).engCtx e = none ∧
    (d.handOver e x r).ctxFld x 0 8 6 = r ∧ (d.handOver e x r).ctxState x = d.ctxState x := by
  unfold handOver
  extract_lets owner d₁ d₂
  have h₂ : d₂.ctx = d₁.ctx := iteInduction (motive := fun x : Dev => x.ctx = d₁.ctx)
    (fun _ => (ctx_of_base (setEngOwner_base ..)).trans (updEng_ctx ..)) fun _ => rfl
  have h₁ : d₁.ctxFld x 0 0 3 = d.ctxFld x 0 0 3 := by
    dsimp only [d₁]
    rw [ctxFld, ctxW_setCtx64_other _ _ _ (by decide) (by decide), unmirror_ctxW, keepLive_stopped, ctxW_congr (keepLive_ctx ..)]
    have hnone : (d.stopped e).find? (fun p => p.1 == 0) = none := by
      rw [List.find?_eq_none]
      intro p hp hw
      have hhot := (List.mem_filter.mp hp).2
      rw [beq_iff_eq.mp hw] at hhot
      cases hhot
    rw [hnone]
    rfl
  have hfld (lo n : Nat) : (((d₂.moveInputs e r).rebind e x r).unbind e).ctxFld x 0 lo n = ((d₂.moveInputs e r).setCtxFld x 0 8 6 r).ctxFld x 0 lo n :=
    (ctxFld_congr (unbind_ctx ..) ..).trans (ctxFld_congr (rebind_ctx ..) ..)
  refine ⟨(unbind_engCtx_ne _ hne.symm).trans (rebind_engCtx hx _ _), unbind_engCtx .., ?_, ?_⟩
  · rw [hfld, ctxFld_setCtxFld_same _ _ _ _ _ _ (by decide), Nat.mod_eq_of_lt (by omega)]
  · rw [ctxState, hfld, ctxFld_setCtxFld_other _ _ _ _ _ _ _ _ (by decide) (by decide), ctxFld_congr (moveInputs_ctx ..), ctxFld_congr h₂, h₁, ctxState]

theorem retire_moves (he : e < 64) (hctx : d.engCtx e = some x) (hfound : d.replacement e = some r) :
    (d.retire e exc).engCtx r = some x ∧ (d.retire e exc).engCtx e = none ∧ (d.retire e exc).ctxFld x 0 8 6 = r ∧ (d.retire e exc).ctxState x = d.ctxState x ∧
      (d.retire e exc).launches = d.launches.map (fun l => if l.ctx == x then { l with eng := r } else l) := by
  have hbase (d : Dev) (rec : FaultRec) : (d.fault 6 rec).base = d.base := base_fault d 6 rec rfl
  have hrd (d : Dev) (rec : FaultRec) {i : Nat} (hi : i < 64) : (d.fault 6 rec).engCtx i = d.engCtx i :=
    engCtx_of_rd (rd_fault_low d 6 rec rfl (by unfold Reg.eng_STATUS; omega))
  obtain ⟨hr, hne⟩ := replacement_spec hfound
  obtain ⟨hbound, hfree, hfld, hstate⟩ := handOver_spec (engCtx_lt hctx) hr hne d
  rw [retire_of_replacement hctx hfound]
  refine ⟨?_, ?_, ?_, ?_, ?_⟩
  · rw [endRetire_engCtx _ he hr, hrd _ _ hr, hbound]
  · rw [endRetire_engCtx _ he he, hrd _ _ he, hfree]
  · rw [ctxFld_congr (endRetire_ctx ..), ctxFld_congr (ctx_of_base (hbase ..)), hfld]
  · rw [ctxState, ctxFld_congr (endRetire_ctx ..), ctxFld_congr (ctx_of_base (hbase ..)), ← ctxState, hstate]
  · rw [endRetire_launches, launches_of_base (hbase ..), handOver_launches]

theorem retire_admits (hctx : d.engCtx e = some x) (hfound : d.replacement e = none) : (d.retire e exc).ctxState x = 2 := by
  rw [retire_of_alone hctx hfound, ctxState, ctxFld_congr (endRetire_ctx ..), ctxFld_congr (ctx_of_base (base_faultOf _ 6 _ _ _ _ _ rfl)), ← ctxState,
    leave_state _ _ _ (by decide)]
theorem retire_launches_of_idle (hctx : d.engCtx e = none) : (d.retire e []).launches = d.launches := by
  rw [retire_of_idle hctx, endRetire_launches]
  rfl

end retire
/-! ## ENG_RETIRE and ENG_RESTORE as commands (R145) -/

section commands
variable {d : Dev} {c : HostCmd} {x r : Nat}

theorem engRetire_of_other (hfn : c.fn.val ≠ 0) : d.engRetire c = d.stop 0x04 := if_pos hfn
theorem engRestore_of_other (hfn : c.fn.val ≠ 0) : d.engRestore c = d.stop 0x04 := if_pos hfn

variable (hfn : c.fn.val = 0) (he : c.p 0 < 64)
include hfn he
theorem engRetire_of_out (h : d.bit (Reg.eng_STATUS (c.p 0)) 24 = true) : d.engRetire c = d.ok 0xFFFFFFFE := by
  unfold engRetire
  rw [if_neg (by omega), if_neg (by omega), if_pos h]
theorem engRetire_of_idle (h : d.bit (Reg.eng_STATUS (c.p 0)) 24 = false) (hctx : d.engCtx (c.p 0) = none) :
    d.engRetire c = (d.retire (c.p 0) []).ok 0xFFFFFFFE := by
  unfold engRetire
  rw [if_neg (by omega), if_neg (by omega), if_neg (by rw [h]; decide), hctx]
theorem engRetire_of_bound (h : d.bit (Reg.eng_STATUS (c.p 0)) 24 = false) (hctx : d.engCtx (c.p 0) = some x) :
    d.engRetire c = (d.retire (c.p 0) (d.excWords (c.p 0) x 0 0)).ok ((d.replacement (c.p 0)).getD 0xFFFFFFFF) := by
  unfold engRetire
  rw [if_neg (by omega), if_neg (by omega), if_neg (by rw [h]; decide), hctx]

/-- What a retired engine that passes its self-test is: in service, and a spare. -/
def restored (d : Dev) (e : Nat) : Dev :=
  ((d.setBit (Reg.eng_STATUS e) 24 false).setBit (Reg.pool_IN_SERVICE_LO + 4 * (e / 32)) (e % 32) true).setEngOwner e none true

theorem engRestore_of_in (h : d.bit (Reg.eng_STATUS (c.p 0)) 24 = false) : d.engRestore c = d.ok := by
  unfold engRestore
  rw [if_neg (by omega), if_neg (by omega), if_pos (by rw [h]; decide)]
theorem engRestore_of_out (h : d.bit (Reg.eng_STATUS (c.p 0)) 24 = true) :
    d.engRestore c = d.free.2.ok ∨ d.engRestore c = (d.free.2.restored (c.p 0)).ok := by
  unfold engRestore
  rw [if_neg (by omega), if_neg (by omega), if_neg (by rw [h]; decide)]
  by_cases hv : d.free.1 % 2 = 0
  · exact .inl (if_pos hv)
  · exact .inr (if_neg hv)
end commands

theorem restored_spec (d : Dev) {e : Nat} (he : e < 64) : (d.restored e).bit (Reg.eng_STATUS e) 24 = false ∧ (d.restored e).isSpare e = true ∧
    (d.restored e).engOwner e = none ∧ (d.restored e).launches = d.launches ∧ (d.restored e).bit (Reg.pool_IN_SERVICE_LO + 4 * (e / 32)) (e % 32) = true := by
  have hne : Reg.pool_SPARE_LO + 4 * (e / 32) ≠ Reg.pool_IN_SERVICE_LO + 4 * (e / 32) := by unfold Reg.pool_SPARE_LO Reg.pool_IN_SERVICE_LO; omega
  unfold restored
  refine ⟨?_, isSpare_setEngOwner _ _ _ _ he, engOwner_setEngOwner .., ?_, ?_⟩
  · rw [bit_setEngOwner _ _ _ _ he (by decide), bit_setBit_ne _ _ _ _ (status_ne_inService he).symm, bit_setBit_same _ _ _ _ (by decide)]
  · rw [setEngOwner_launches, setBit_launches, setBit_launches]
  · rw [bit_of_rd (rd_setEngOwner_ne _ _ _ _ (status_ne_inService he) hne), bit_setBit_same _ _ _ _ (Nat.mod_lt _ (by decide))]

/-! ## ENG_BANK_READ (R121) -/

section bankRead
variable {d : Dev} {c : HostCmd}

/-- What ENG_BANK_READ gives. -/
def bankBytes (d : Dev) (e off len : Nat) : List Byte := (List.range len).map (fun i => d.bankByte e (off + i) i)

/-- The engine has been accessed, and free values have been taken. -/
def bankRead (d : Dev) (e len : Nat) : Dev := { d with freeCtr := d.freeCtr + len }.updEng e (fun (x : Eng) => { x with asleep := false })

theorem engBankRead_of_ready (he : c.p 0 < 64) (hoff : c.p 1 % 8 = 0) (hlen : c.len.toNat % 8 = 0) (hroom : c.p 1 + c.len.toNat ≤ 2^18)
    (halign : c.aligned = true) (howner : sees c.fn (d.engOwner (c.p 0)) = true) :
    d.engBankRead c = (d.bankRead (c.p 0) c.len.toNat).giveBuf c (d.bankBytes (c.p 0) (c.p 1) c.len.toNat) c.len.toNat := by
  have huse : mayUse c (d.engOwner (c.p 0)) = true := howner
  unfold engBankRead
  dsimp only
  rw [if_neg (by
    rw [halign]
    simp only [Bool.not_true, Bool.false_eq_true, or_false]
    omega), if_neg (by rw [huse]; decide)]
  rfl
theorem bankByte_microcode {e off i : Nat} (h : off < 0x20000) : d.bankByte e off i = SMap.get 0 d.bank (e * 2^18 + off) := by
  unfold bankByte
  extract_lets any word x left
  exact if_pos h
theorem bankByte_record {e off i x : Nat} (h : 0x20000 ≤ off) (h' : off < 0x20400) (hx : d.engCtx e = some x) :
    (d.bankByte e off i).toNat = (d.ctxW x ((off - 0x20000) / 4)).toNat / 256 ^ (off % 4) % 256 := by
  unfold bankByte
  extract_lets any word y left
  rw [if_neg (by omega), if_pos h', hx]
  exact BitVec.toNat_ofNat ..
end bankRead

end Dev
end Sys2Proof.Machine

/-! PROOFS. Reading a capture's record (R262): CAP_READ gives the kept record, or its log, byte for byte. -/
namespace Sys2Proof.Machine
theorem exec_capRead (c : HostCmd) (s : State) : exec (.capRead c) s = s.onDev (Dev.row 0x30 (fun d => d.capReadC c) c) := rfl

namespace Dev

/-! ## Who owns what (R289, R310) -/

/-- The partition table and the states of the partitions are as before. -/
structure sameOwners (d d' : Dev) : Prop where
  ptab : d'.ptab = d.ptab
  parts : ∀ p < 12, d'.partOn p = d.partOn p

section owners
variable {d d' d'' : Dev}
theorem sameOwners_refl (d : Dev) : sameOwners d d := ⟨rfl, fun _ _ => rfl⟩
theorem sameOwners_trans (h : sameOwners d d') (h' : sameOwners d' d'') : sameOwners d d'' :=
  ⟨h'.ptab.trans h.ptab, fun p hp => (h'.parts p hp).trans (h.parts p hp)⟩
theorem sameOwners_of_serves (h : serves d d') : sameOwners d d' := ⟨ptab_of_calmPart h.work.calm, fun _ hp => partOn_of_serves h hp⟩

theorem partWhere_of_owners (h : sameOwners d d') (f : Nat → Bool) : d'.partWhere f = d.partWhere f := by
  unfold partWhere
  refine List.find?_congr fun p hp => ?_
  rw [h.parts p (List.mem_range.1 hp)]
theorem ptabW_of_owners (h : sameOwners d d') (p w : Nat) : d'.ptabW p w = d.ptabW p w := by rw [ptabW, h.ptab, ptabW]
theorem chOwner_of_owners (h : sameOwners d d') (n : Nat) : d'.chOwner n = d.chOwner n := by
  unfold chOwner grantsHalf
  rw [partWhere_of_owners h]
  exact congrArg d.partWhere (funext fun p => by rw [ptabW_of_owners h])
theorem mdOwner_of_owners (h : sameOwners d d') (k : Nat) : d'.mdOwner k = d.mdOwner k := by
  have hupper : d'.partWhere (fun p => d'.grantsHalf p (2 * k + 1) && bitsOf (d'.ptabW p 9) (12 + k) 1 == 1) =
      d.partWhere (fun p => d.grantsHalf p (2 * k + 1) && bitsOf (d.ptabW p 9) (12 + k) 1 == 1) := by
    rw [partWhere_of_owners h]
    exact congrArg d.partWhere (funext fun p => by rw [grantsHalf, ptabW_of_owners h, ptabW_of_owners h, grantsHalf])
  unfold mdOwner
  rw [hupper, chOwner_of_owners h]
end owners

/-! ## The record of a capture (R262) -/

/-- What CAP_READ gives: capture `k`'s log, or its kept record. -/
def capBytes (d : Dev) (k : Nat) (log : Bool) : List Byte :=
  if log then SMap.bytes 0 d.capBuf (logBase k) (16 * d.fld (Reg.cap_LOG_N k) 0 9) else d.capRecord k

/-- A capture, with its record, is as before. -/
structure sameCapture (d d' : Dev) (k : Nat) : Prop where
  owner : d'.mdOwner k = d.mdOwner k
  cap : d'.capOf k = d.capOf k
  buf : d'.capBuf = d.capBuf
  regs : ∀ o < 0x400, d'.rd (0x1610000 + 0x400 * k + o) = d.rd (0x1610000 + 0x400 * k + o)
  down : d'.dramDown = d.dramDown
  contents : d'.contents = d.contents

theorem capOf_of_calmPart {d d' : Dev} (h : d'.calmPart = d.calmPart) (k : Nat) : d'.capOf k = d.capOf k := by
  have hcap : d'.cap = d.cap := (congrArg Dev.cap h :)
  rw [capOf, hcap, capOf]

section record
variable {d d' : Dev} {k : Nat}
theorem sameCapture_hostStore (d : Dev) (k a : Nat) (l : List Byte) : sameCapture d (d.hostStore a l) k := ⟨rfl, rfl, rfl, fun _ _ => rfl, rfl, rfl⟩
theorem sameCapture_of_serves (hk : k < 6) (h : serves d d') (hcontents : d'.contents = d.contents) : sameCapture d d' k where
  owner := mdOwner_of_owners (sameOwners_of_serves h) k
  cap := capOf_of_calmPart h.work.calm k
  buf := (congrArg Dev.capBuf h.work.calm :)
  regs _ ho := h.stir.rd _ (calmReg_cap hk ho)
  down := dramDown_of_serves h
  contents := hcontents

variable (h : sameCapture d d' k)
include h
theorem capState_of_capture : d'.capState k = d.capState k := fld_of_rd (h.regs 0x2C (by decide)) ..
theorem capRecord_of_capture : d'.capRecord k = d.capRecord k := by
  have hstart : d'.rd64 (Reg.cap_START_LO k) = d.rd64 (Reg.cap_START_LO k) := by rw [rd64, rdN, rdN, h.regs 0x50 (by decide), h.regs 0x54 (by decide)]; rfl
  have hkept : d'.capKept k = d.capKept k := by
    rw [capKept, rd64, rdN, rdN, rdN, h.regs 0x44 (by decide), h.regs 0x48 (by decide), h.regs 0x4C (by decide)]
    rfl
  unfold capRecord
  rw [h.cap, hstart, hkept, h.buf]
  dsimp only
  refine List.flatMap_congr fun i _ => ?_
  rw [dramRead_of_contents h.contents]
theorem capBytes_of_capture (log : Bool) : d'.capBytes k log = d.capBytes k log := by
  rw [capBytes, h.buf, fld_of_rd (h.regs 0x58 (by decide)), capRecord_of_capture h, capBytes]
end record

/-! ## CAP_READ -/

/-- A capture may be read. -/
structure capReady (d : Dev) (c : HostCmd) (k : Nat) (log : Bool) : Prop where
  index : k < 6
  named : c.p 0 = k + if log then 256 else 0
  aligned : c.aligned = true
  owned : sees c.fn (d.mdOwner k) = true
  idle : d.capState k ≠ 1 ∧ d.capState k ≠ 2

section capRead
variable {d e : Dev} {c : HostCmd} {k : Nat} {log : Bool} (hr : capReady d c k log) (hsame : sameCapture d e k)
include hr

theorem capFields : bitsOf (c.p 0) 0 3 = k ∧ (bitsOf (c.p 0) 8 1 == 1) = log ∧ c.p 0 / 2^9 = 0 ∧ bitsOf (c.p 0) 3 5 = 0 := by
  have := hr.index
  rw [hr.named]
  unfold bitsOf
  cases log <;> simp only [Bool.false_eq_true, if_false, if_true, beq_eq_false_iff_ne, beq_iff_eq] <;> omega

include hsame
theorem capReadStep_of_ready (hdown : (!log && (d.capOf k).target == 1 && d.dramDown) = false) (hbad : (!log && (d.capOf k).target == 1) = true → e.badCw = []) (m : Nat) :
    e.capReadStep c m = (if !log && (d.capOf k).target == 1 then e.capServed k m (stepBytes ((d.capBytes k log).take c.len.toNat).length m) else e).giveStep c
      ((d.capBytes k log).take c.len.toNat) m ((d.capBytes k log).take c.len.toNat).length := by
  obtain ⟨hk, hlog, hhigh, hmid⟩ := capFields hr
  have hnone : (if !log && (d.capOf k).target == 1 then e.capBad k m (stepBytes ((d.capBytes k log).take c.len.toNat).length m) else none) = none := by
    by_cases hin : (!log && (d.capOf k).target == 1) = true
    · rw [if_pos hin]
      have hnone (a n : Nat) : e.badIn a n = none := by
        rw [badIn, errsIn_of_none (hbad hin)]
        rfl
      unfold capBad
      simp only [hnone, Option.map_none]
    · exact if_neg hin
  unfold capReadStep
  rw [hk, hlog]
  dsimp only
  rw [if_neg (by
    have := hr.index
    rw [hr.aligned, hhigh, hmid]
    simp only [Bool.not_true, Bool.false_eq_true, or_false]
    omega)]
  rw [if_neg (by rw [mayUse, hsame.owner, hr.owned]; decide), if_neg (by rw [capState_of_capture hsame]; exact not_or.2 hr.idle), hsame.cap, hsame.down,
    if_neg (by rw [hdown]; exact Bool.false_ne_true)]
  have hb : (if log = true then SMap.bytes 0 e.capBuf (logBase k) (16 * e.fld (Reg.cap_LOG_N k) 0 9) else e.capRecord k) = d.capBytes k log :=
    capBytes_of_capture hsame log
  rw [hb, hnone]
omit hsame

/-- The record on chip, or the log, is given whole. -/
theorem capRead_of_onChip (hchip : (!log && (d.capOf k).target == 1) = false)
    (hwin : d.windowed c.fn c.addr.toNat ((d.capBytes k log).take c.len.toNat).length true) :
    d.capReadC c = (d.hostStore c.addr.toNat ((d.capBytes k log).take c.len.toNat)).ok ((d.capBytes k log).take c.len.toNat).length := by
  refine allSteps_give (fun a l m => ?_) hwin (by rw [List.length_take]; omega)
  rw [capReadStep_of_ready hr (sameCapture_hostStore ..) (by rw [hchip]; rfl) (fun h => absurd (hchip.symm.trans h) (by decide)), if_neg (by rw [hchip]; decide)]

/-- The first bytes of a string have been given to host memory, and DRAM has been read. -/
structure givenOut (d : Dev) (host : Nat) (bs : List Byte) (m : Nat) (e : Dev) : Prop where
  serves : serves d e
  contents : e.contents = d.contents
  hostMem : e.hostMem = (d.hostStore host (bs.take m)).hostMem

/-- The record in DRAM is given whole. -/
theorem capRead_of_dram (hchip : (!log && (d.capOf k).target == 1) = true) (hdown : d.dramDown = false) (hclean : d.badCw = [])
    (hwin : d.windowed c.fn c.addr.toNat ((d.capBytes k log).take c.len.toNat).length true) :
    ∃ e, givenOut d c.addr.toNat ((d.capBytes k log).take c.len.toNat) ((d.capBytes k log).take c.len.toNat).length e ∧
      d.capReadC c = e.ok ((d.capBytes k log).take c.len.toNat).length := by
  have hstep (e : Dev) (m : Nat) (hs : serves d e) (hc : e.contents = d.contents) :=
    capReadStep_of_ready hr (sameCapture_of_serves hr.index hs hc) (by rw [hdown, Bool.and_false]) (fun _ => hs.clean) m
  simp only [if_pos hchip] at hstep
  have hlen : ((d.capBytes k log).take c.len.toNat).length ≤ c.len.toNat := by
    rw [List.length_take]
    omega
  generalize (d.capBytes k log).take c.len.toNat = bs at hstep hwin hlen ⊢
  refine allSteps_transfer (P := givenOut d c.addr.toNat bs) (fun e m hm he => ?_) (Nat.zero_le _) (by omega) ⟨serves_refl hclean, rfl, rfl⟩
  have hserved (a n : Nat) (e : Dev) (h : givenOut d c.addr.toNat bs m e) : givenOut d c.addr.toNat bs m (e.served false a n) :=
    ⟨serves_trans h.serves (serves_served h.serves.clean ..), (contents_served ..).trans h.contents,
      (hostMem_of_hostSide (served_of_clean h.serves.clean ..).1).trans h.hostMem⟩
  have hcap : givenOut d c.addr.toNat bs m (e.capServed k m (stepBytes bs.length m)) := hserved _ _ _ (hserved _ _ _ he)
  rw [hstep e m he.serves he.contents]
  generalize e.capServed k m (stepBytes bs.length m) = e₁ at hcap ⊢
  have hpages (i : Nat) (hi : i < stepBytes bs.length m) : e₁.pageOk c.fn ((c.addr.toNat + m + i) / 4096) true = true ∧
      e₁.pagePeer c.fn ((c.addr.toNat + m + i) / 4096) = false := by
    rw [pageOk_of_serves hcap.serves, pagePeer_of_serves hcap.serves, Nat.add_assoc]
    have h := hwin (m + i) (by unfold stepBytes at hi; omega)
    exact ⟨h.1, h.2 rfl⟩
  have htake : ((bs.drop m).take (stepBytes bs.length m)).length = stepBytes bs.length m := by
    rw [List.length_take, List.length_drop]
    unfold stepBytes
    omega
  refine ⟨e₁.hostStore (c.addr.toNat + m) ((bs.drop m).take (stepBytes bs.length m)),
    ⟨serves_trans hcap.serves (serves_hostStore hcap.serves.clean ..), hcap.contents, ?_⟩, ?_⟩
  · rw [← hostStore_take _ _ _ _ _ hm, hostStore, hcap.hostMem]
    rfl
  · unfold giveStep
    dsimp only
    rw [dmaSpan_of_pages fun i hi => (hpages i hi).1, hostGive_store _ _ _ _ fun i hi => (hpages i (htake ▸ hi)).2, if_neg (Nat.lt_irrefl _)]
    exact if_congr (by unfold stepBytes; omega) rfl rfl
end capRead

end Dev
end Sys2Proof.Machine

/-! PROOFS. Partitions (R290, R291): creating one reserves its engines; destroying one empties what it owned, reseals its channels and touches no other's. -/
namespace Sys2Proof.Machine
theorem exec_partCreate (c : HostCmd) (s : State) : exec (.partCreate c) s = s.onDev (Dev.row 0x38 (fun d => d.partCreate c) c) := rfl
theorem exec_partDestroy (c : HostCmd) (s : State) : exec (.partDestroy c) s = s.onGuard (partDestroyG c) := rfl

/-! ## The guard of a destroyed partition's channels (R291) -/

/-- The working limits at their seals. -/
def GuardCh.sealed (k : GuardCh) : GuardCh := { k with lo := k.sealLo, hi := k.sealHi, slew := k.sealS, pwr := k.sealPwr }

theorem GuardCh.sealed_sealed (k : GuardCh) : k.sealed.sealed = k.sealed := rfl
theorem Guard.reseal_nil (g : Guard) : g.reseal [] = g := rfl
theorem Guard.reseal_of (g : Guard) (chs : List Nat) (n : Nat) : (g.reseal chs).of n = if n ∈ chs then (g.of n).sealed else g.of n := by
  induction chs generalizing g with
  | nil => rfl
  | cons m chs ih =>
    have hstep := ih { g with ch := SMap.upd {} g.ch m GuardCh.sealed }
    refine Eq.trans ?_ (hstep.trans ?_)
    · rfl
    · have hof : Guard.of { g with ch := SMap.upd {} g.ch m GuardCh.sealed } n = if m = n then (g.of n).sealed else g.of n := by
        unfold Guard.of SMap.upd
        by_cases h : m = n
        · subst h
          rw [if_pos rfl]
          exact SMap.get_set_same ..
        · rw [if_neg h]
          exact SMap.get_set_ne _ _ _ _ h
      rw [hof]
      by_cases h : m = n
      · subst h
        rw [if_pos rfl, GuardCh.sealed_sealed, ite_self, if_pos List.mem_cons_self]
      · rw [if_neg h]
        by_cases hn : n ∈ chs
        · rw [if_pos hn, if_pos (List.mem_cons_of_mem _ hn)]
        · rw [if_neg hn, if_neg (by rw [List.mem_cons]; exact not_or.2 ⟨Ne.symm h, hn⟩)]

namespace Dev

/-! ## PART_CREATE (R290) -/

section create
variable {d : Dev} {p : Nat}

/-- The partition's engines, reserved for it. -/
def reserved (d : Dev) (p : Nat) : Dev :=
  (d.spareEngines.take (d.askedEngines p - (d.heldEngines p).length)).foldl (fun (d : Dev) (e : Nat) => d.setEngOwner e (some p) false) d

theorem reserveEngines_of_enough (h : d.askedEngines p ≤ (d.heldEngines p).length + d.spareEngines.length) : d.reserveEngines p = some (d.reserved p) := by
  unfold reserveEngines
  dsimp only
  rw [if_neg (by rw [List.length_take]; omega)]
  rfl

variable (d p)
theorem rd_reserved {a : Nat} (h : 0x1000000 ≤ a) : (d.reserved p).rd a = d.rd a := by
  refine foldl_keeps_mem (fun x => x.rd a) _ _ (fun e he d => ?_) d
  have := mem_spareEngines_lt _ (List.mem_of_mem_take he)
  exact rd_setEngOwner_ne _ _ _ _ (by unfold Reg.eng_STATUS; omega) (by unfold Reg.pool_SPARE_LO; omega)
theorem reserved_ptab : (d.reserved p).ptab = d.ptab :=
  foldl_keeps Dev.ptab _ _ (fun _ _ => (ptab_of_base (setEngOwner_base ..)).trans rfl) d
theorem askedEngines_reserved : (d.reserved p).askedEngines p = d.askedEngines p := by rw [askedEngines, ptabW, reserved_ptab, askedEngines, ptabW]

/-- What PART_CREATE asks of a partition and of the device. -/
structure creatable (d : Dev) (p : Nat) : Prop where
  index : p < 12
  defined : d.partDefined p = true
  off : d.partOn p = false
  safe : d.dsafe = false
  claims : ∀ n < 96, d.grantsHalf p (n / 8) = true → d.isClaimed n = false
  contexts : ∀ x, d.grantsCtx p x = true → d.ctxState x = 0
  regions : ∀ r ∈ d.partRegions p, ∀ q ∈ d.pfRanges, overlap r q = false
  engines : d.askedEngines p ≤ (d.heldEngines p).length + d.spareEngines.length

variable {d p}
theorem createPart_of_creatable (h : creatable d p) : d.createPart p = ((d.reserved p).setFld (Reg.part_STATE p) 0 2 2).ok (d.askedEngines p) := by
  have hclaims : ((List.range 96).filter (fun n => d.grantsHalf p (n / 8))).any d.isClaimed = false := by
    refine List.any_eq_false.2 fun n hn => ?_
    obtain ⟨hn, hgrant⟩ := List.mem_filter.1 hn
    rw [h.claims n (List.mem_range.1 hn) hgrant]
    decide
  have hctx : d.ctx.any (fun x => d.grantsCtx p (x.1 / 256) && d.ctxState (x.1 / 256) != 0) = false := by
    refine List.any_eq_false.2 fun x _ hx => ?_
    obtain ⟨hgrant, hstate⟩ := Bool.and_eq_true_iff.1 hx
    rw [h.contexts _ hgrant] at hstate
    exact absurd hstate (by decide)
  have hregions : (d.partRegions p).any (fun r => d.pfRanges.any (overlap r)) = false := by
    refine List.any_eq_false.2 fun r hr hx => ?_
    obtain ⟨q, hq, hover⟩ := List.any_eq_true.1 hx
    rw [h.regions r hr q hq] at hover
    exact absurd hover (by decide)
  have hindex := h.index
  unfold createPart
  dsimp only
  rw [if_neg (by rw [h.defined]; simp only [Bool.not_true, Bool.false_eq_true, or_false]; omega), if_neg (by rw [h.off, h.safe]; decide),
    if_neg (by rw [hclaims, hctx, hregions]; decide), reserveEngines_of_enough h.engines]
  dsimp only
  rw [askedEngines_reserved]

theorem partOn_created (d : Dev) (p : Nat) : ((d.reserved p).setFld (Reg.part_STATE p) 0 2 2).partOn p = true := by
  rw [partOn, fld_setFld_same _ _ _ _ _ (by decide)]
  rfl
theorem partOn_created_ne (d : Dev) {p q : Nat} (h : q ≠ p) : ((d.reserved p).setFld (Reg.part_STATE p) 0 2 2).partOn q = d.partOn q := by
  have hne : Reg.part_STATE p ≠ Reg.part_STATE q := by unfold Reg.part_STATE; omega
  rw [partOn, fld_of_rd ((rd_setFld_ne _ _ _ _ hne).trans (rd_reserved d p (by unfold Reg.part_STATE; omega))), partOn]
end create

/-! ## What the steps of PART_DESTROY keep (R291) -/

/-- The stores that a partition holds parts of: contexts, programs and the mailbox. -/
def partStores (d : Dev) : SMap Word × SMap Word × SMap Word := (d.ctx, d.prog, d.mailbox)

/-- What the later steps of PART_DESTROY read stays. -/
structure tears (d d' : Dev) : Prop where
  owners : sameOwners d d'
  down : d'.dramDown = d.dramDown
  clean : d'.badCw = d.badCw
  stores : d'.partStores = d.partStores

section tears
variable {d d' d'' : Dev}
theorem tears_refl (d : Dev) : tears d d := ⟨sameOwners_refl d, rfl, rfl, rfl⟩
theorem tears_trans (h : tears d d') (h' : tears d' d'') : tears d d'' :=
  ⟨sameOwners_trans h.owners h'.owners, h'.down.trans h.down, h'.clean.trans h.clean, h'.stores.trans h.stores⟩
theorem tears_foldl {β : Type} {f : Dev → β → Dev} (l : List β) (h : ∀ d, ∀ x ∈ l, tears d (f d x)) (d : Dev) : tears d (l.foldl f d) :=
  foldl_invariant (P := fun x => tears d x) (fun e x hx he => tears_trans he (h e x hx)) (tears_refl d)
theorem tears_ite {p : Prop} [Decidable p] {a b : Dev} (ha : p → tears d a) (hb : ¬ p → tears d b) : tears d (if p then a else b) :=
  iteInduction (motive := fun x => tears d x) ha hb
/-- Registers below those of DRAM may change. -/
theorem tears_of_rd (hrd : ∀ a, 0x1000000 ≤ a → d'.rd a = d.rd a) (hptab : d'.ptab = d.ptab) (hclean : d'.badCw = d.badCw)
    (hstores : d'.partStores = d.partStores) : tears d d' := by
  refine ⟨⟨hptab, fun p _ => ?_⟩, ?_, hclean, hstores⟩
  · rw [partOn, fld_of_rd (hrd _ (by unfold Reg.part_STATE; omega)), partOn]
  · rw [dramDown, frozen, bit_of_rd (hrd _ (by decide)), bit_of_rd (hrd _ (by decide)), dramDown, frozen]
theorem rd_resetRange (d : Dev) {base span a : Nat} (h : a < base ∨ base + span ≤ a) : (d.resetRange base span).rd a = d.rd a := by
  unfold rd resetRange
  exact (SMap.get_filter_keys _ _ (fun k => decide (k < base ∨ base + span ≤ k)) a).trans (if_pos (decide_eq_true h))
theorem tears_resetRange (d : Dev) {base span : Nat} (h : base + span ≤ 0x1000000) : tears d (d.resetRange base span) :=
  tears_of_rd (fun _ ha => rd_resetRange d (.inr (Nat.le_trans h ha))) rfl rfl rfl
theorem tears_wrN (d : Dev) {a : Nat} (n : Nat) (h : a < 0x1000000) : tears d (d.wrN a n) :=
  tears_of_rd (fun b hb => rd_wrN_ne d n (by omega)) rfl rfl rfl
theorem tears_of_parts (hregs : d'.regs = d.regs) (hptab : d'.ptab = d.ptab) (hclean : d'.badCw = d.badCw) (hstores : d'.partStores = d.partStores) : tears d d' :=
  tears_of_rd (fun a _ => rd_of_regs hregs a) hptab hclean hstores
theorem tears_of_serves (hclean : d.badCw = []) (h : serves d d') (hctx : d'.ctx = d.ctx) : tears d d' :=
  ⟨sameOwners_of_serves h, dramDown_of_serves h, h.clean.trans hclean.symm, Prod.ext hctx (Prod.ext (congrArg Dev.prog h.work.calm :) (congrArg Dev.mailbox h.work.calm :))⟩
end tears

/-! ## The fabric (R291 step 5) -/

section fabric
variable (d : Dev)

/-- Task input `i` and its consumer's registers return to reset. -/
def fabricInput (d : Dev) (i : Nat) : Dev :=
  let d := { (d.resetRange (Reg.tin_SEL i) 32) with tin := SMap.set {} d.tin i {} }
  if i < 256 then { (d.wrN (Reg.engIn_STATE (i / 4) (i % 4)) 0) with ei := SMap.set none d.ei i none }
  else if 320 ≤ i ∧ i < 368 then d.resetRange (Reg.li_CFG (i - 320)) 32
  else if 368 ≤ i ∧ i < 400 then d.resetRange (Reg.fi_CFG (i - 368)) 64
  else if 416 ≤ i ∧ i < 424 then { (d.resetRange (Reg.to_CFG (i - 416)) 32) with tout := SMap.set {} d.tout (i - 416) {} }
  else if 500 ≤ i then d.resetRange (Reg.lt_CFG (i - 500)) 16
  else d

theorem tears_fabricInput {i : Nat} (hi : i < 512) : tears d (d.fabricInput i) := by
  unfold fabricInput
  extract_lets src d₁ bound out
  have h₁ : tears d d₁ := tears_trans (tears_resetRange d (by unfold Reg.tin_SEL; omega)) (tears_of_parts rfl rfl rfl rfl)
  have hbound (h : i < 256) : tears d₁ bound := tears_wrN d₁ 0 (by unfold Reg.engIn_STATE; omega)
  have hout (h : 416 ≤ i ∧ i < 424) : tears d₁ out := tears_resetRange d₁ (by unfold Reg.to_CFG; omega)
  have hrange {base span : Nat} (h : base + span ≤ 0x1000000) : tears d₁ (d₁.resetRange base span) := tears_resetRange d₁ h
  refine tears_trans h₁ ?_
  clear_value d₁ bound out
  refine tears_ite (fun h => ?_) fun _ => tears_ite (fun _ => ?_) fun _ => tears_ite (fun _ => ?_) fun _ => tears_ite (fun h => ?_) fun _ =>
    tears_ite (fun _ => ?_) fun _ => tears_refl d₁
  · exact tears_trans (hbound h) (tears_of_parts rfl rfl rfl rfl)
  · exact hrange (base := Reg.li_CFG (i - 320)) (by unfold Reg.li_CFG; omega)
  · exact hrange (base := Reg.fi_CFG (i - 368)) (by unfold Reg.fi_CFG; omega)
  · exact tears_trans (hout h) (tears_of_parts rfl rfl rfl rfl)
  · exact hrange (base := Reg.lt_CFG (i - 500)) (by unfold Reg.lt_CFG; omega)
theorem tears_resetFabric (p : Nat) : tears d (d.resetFabric p) := by
  unfold resetFabric
  extract_lets mine ecs tins eps lgs input d₁ d₂ d₃
  have h₁ : tears d d₁ := tears_foldl tins (fun d i hi => tears_fabricInput d (List.mem_range.1 (List.mem_filter.1 hi).1)) d
  have h₂ : tears d₁ d₂ := tears_foldl ecs (fun d n hn => by
    have hreset : tears d (d.resetRange (Reg.ec_CFG n) 128) := tears_resetRange d (by have := List.mem_range.1 (List.mem_filter.1 hn).1; unfold Reg.ec_CFG; omega)
    exact tears_trans hreset (tears_of_parts rfl rfl rfl rfl)) d₁
  have h₃ : tears d₂ d₃ := tears_foldl eps (fun d n hn => tears_resetRange d (by have := List.mem_range.1 (List.mem_filter.1 hn).1; unfold Reg.ep_EP; omega)) d₂
  refine tears_trans (tears_trans (tears_trans h₁ h₂) h₃) (tears_foldl lgs (fun d g hg => ?_) d₃)
  exact tears_resetRange d (base := Reg.lg_CFG g) (span := 16) (by have := List.mem_range.1 (List.mem_filter.1 hg).1; unfold Reg.lg_CFG; omega)
end fabric

/-! ## Descriptors and directory entries (R291 step 3) -/

section objects
variable {d : Dev} (hclean : d.badCw = [])

theorem wipeIn_ctx (d : Dev) (g : Nat) : (d.wipeIn g).ctx = d.ctx := by
  rw [wipeIn_eq]
  refine iteInduction (motive := fun x : Dev => x.ctx = d.ctx) (fun _ => rfl) fun _ => ?_
  exact iteInduction (motive := fun x : Dev => x.ctx = d.ctx) (fun _ => (raise_ctx ..).trans (setBit_ctx ..)) fun _ => rfl
include hclean
theorem writeDram_ctx (a : Nat) (bs : List Byte) : (d.writeDram a bs).ctx = d.ctx := by
  have hwipe (d : Dev) (g : Nat) (l : List Nat) : (d.wipeFrom g l).ctx = d.ctx := foldl_keeps Dev.ctx l _ (fun _ _ => wipeIn_ctx ..) d
  unfold writeDram
  rw [dramWrite_eq]
  refine Eq.trans ?_ (served_keeps Dev.ctx touch_ctx hclean true a bs.length)
  exact iteInduction (motive := fun x : Dev => x.ctx = (d.served true a bs.length).ctx) (fun _ => rfl) fun _ => hwipe ..
theorem tears_writeDram (a : Nat) (bs : List Byte) : tears d (d.writeDram a bs) := tears_of_serves hclean (serves_writeDram hclean ..) (writeDram_ctx hclean ..)
theorem tears_emptyObjects (p : Nat) : tears d (d.emptyObjects p) := by
  unfold emptyObjects
  generalize List.range (2^16) = allSegs
  generalize List.range 4096 = entries
  extract_lets segs d₁
  have h₁ : tears d d₁ := foldl_invariant (P := fun x => tears d x) (fun x s _ hx => tears_trans hx (tears_writeDram (hx.clean.trans hclean) ..)) (tears_refl d)
  refine tears_trans h₁ (tears_foldl _ (fun d t _ => tears_foldl entries (fun d v _ => ?_) d) d₁)
  exact tears_ite (fun _ => tears_of_parts rfl rfl rfl rfl) fun _ => tears_refl d
end objects

/-! ## The last items (R291) -/

section last
variable (d : Dev) (p : Nat)

theorem partStores_of_base {d d' : Dev} (h : d'.base = d.base) : d'.partStores = d.partStores := (congrArg partStores h :)
theorem clearCapture_stores (k : Nat) : (d.clearCapture k).partStores = d.partStores := rfl
theorem clearEngine_stores (e : Nat) : (d.clearEngine e).partStores = d.partStores := rfl
theorem setFld_stores (a lo w v : Nat) : (d.setFld a lo w v).partStores = d.partStores := rfl
theorem unwipe_stores (g n : Nat) : (d.unwipe g n).partStores = d.partStores := by
  unfold unwipe
  extract_lets d₁
  exact iteInduction (motive := fun x : Dev => x.partStores = d.partStores) (fun _ => rfl) fun _ => (partStores_of_base (d := d₁) (base_setBit ..)).trans rfl
theorem setEngOwner_stores (e : Nat) (o : Option Nat) (spare : Bool) : (d.setEngOwner e o spare).partStores = d.partStores :=
  (partStores_of_base (setEngOwner_base d e o spare)).trans rfl

theorem rd_unwipe (g n : Nat) {a : Nat} (h : Reg.sec_STATUS ≠ a) : (d.unwipe g n).rd a = d.rd a := by
  unfold unwipe
  extract_lets d₁
  exact iteInduction (motive := fun x : Dev => x.rd a = d.rd a) (fun _ => rfl) fun _ => rd_setBit_ne _ _ _ h

/-- The channels that partition `p` owns. -/
def ownChannels (d : Dev) (p : Nat) : List Nat := (List.range 96).filter (fun n => d.chOwner n == some p)
theorem mem_ownChannels {n : Nat} : n ∈ d.ownChannels p ↔ n < 96 ∧ d.chOwner n = some p := by
  rw [ownChannels, List.mem_filter, List.mem_range, beq_iff_eq]
theorem ownChannels_of_owners {d d' : Dev} (h : sameOwners d d') (p : Nat) : d'.ownChannels p = d.ownChannels p := by
  unfold ownChannels
  exact congrArg (List.filter · _) (funext fun n => by rw [chOwner_of_owners h])

/-- The captures and engines of partition `p` are cleared. -/
def clearedParts (d : Dev) (p : Nat) : Dev :=
  ((List.range 64).filter (fun e => d.engOwner e == some p)).foldl clearEngine (((List.range 6).filter (fun k => d.mdOwner k == some p)).foldl clearCapture d)
/-- Its channels are OFF. -/
def channelsOff (d : Dev) (chs : List Nat) : Dev := chs.foldl (fun (d : Dev) (n : Nat) => d.setFld (Reg.chn_CFG n) 0 2 0) d
/-- Its regions are unwiped. -/
def unwiped (d : Dev) (rs : List (Nat × Nat)) : Dev := rs.foldl (fun (d : Dev) (r : Nat × Nat) => d.unwipe (r.1 / 2^20) (r.2 / 2^20)) d
/-- Engines are spares. -/
def spared (d : Dev) (engs : List Nat) : Dev := engs.foldl (fun (d : Dev) (e : Nat) => d.setEngOwner e none true) d
/-- What PART_DESTROY leaves. -/
def destroyed (d : Dev) (p : Nat) : Dev :=
  ((((d.clearedParts p).channelsOff (d.ownChannels p)).unwiped (((d.clearedParts p).channelsOff (d.ownChannels p)).partRegions p)).spared
    ((List.range 64).filter (fun e => d.engOwner e == some p))).setFld (Reg.part_STATE p) 0 2 0

theorem destroyLast_eq : d.destroyLast p = ⟨0, 0, d.destroyed p, d.ownChannels p⟩ := rfl

theorem destroyed_stores : (d.destroyed p).partStores = d.partStores := by
  have hcleared : (d.clearedParts p).partStores = d.partStores :=
    (foldl_keeps partStores _ _ (fun d e => clearEngine_stores d e) _).trans (foldl_keeps partStores _ _ (fun d k => clearCapture_stores d k) d)
  have hoff (d : Dev) (l : List Nat) : (d.channelsOff l).partStores = d.partStores := foldl_keeps partStores _ _ (fun d n => setFld_stores d ..) d
  have hunwiped (d : Dev) (l : List (Nat × Nat)) : (d.unwiped l).partStores = d.partStores := foldl_keeps partStores _ _ (fun d r => unwipe_stores d ..) d
  have hspared (d : Dev) (l : List Nat) : (d.spared l).partStores = d.partStores := foldl_keeps partStores _ _ (fun d e => setEngOwner_stores d ..) d
  unfold destroyed
  rw [setFld_stores, hspared, hunwiped, hoff, hcleared]
theorem destroyed_off : (d.destroyed p).partOn p = false := by
  unfold destroyed
  rw [partOn, fld_setFld_same _ _ _ _ _ (by decide)]
  rfl

theorem channelsOff_chMode {n : Nat} {chs : List Nat} (hn : n ∈ chs) : (d.channelsOff chs).chMode n = 0 := by
  obtain ⟨l, r, rfl⟩ := List.append_of_mem hn
  unfold channelsOff
  rw [List.foldl_append, List.foldl_cons]
  refine foldl_invariant (P := fun x : Dev => x.chMode n = 0) (fun x m _ hx => ?_) ?_
  · by_cases h : Reg.chn_CFG m = Reg.chn_CFG n
    · rw [chMode, ← h, fld_setFld_same _ _ _ _ _ (by decide)]
      rfl
    · rw [chMode, fld_setFld_ne _ _ _ _ _ _ h, ← chMode, hx]
  · rw [chMode, fld_setFld_same _ _ _ _ _ (by decide)]
    rfl
theorem destroyed_chMode {n : Nat} (hn : n ∈ d.ownChannels p) : (d.destroyed p).chMode n = 0 := by
  have h96 := ((mem_ownChannels ..).1 hn).1
  have hrd : (d.destroyed p).rd (Reg.chn_CFG n) = ((d.clearedParts p).channelsOff (d.ownChannels p)).rd (Reg.chn_CFG n) := by
    unfold destroyed
    generalize (d.clearedParts p).channelsOff (d.ownChannels p) = d₁
    have hunwiped : (d₁.unwiped (d₁.partRegions p)).rd (Reg.chn_CFG n) = d₁.rd (Reg.chn_CFG n) :=
      foldl_keeps (fun x => x.rd (Reg.chn_CFG n)) _ _ (fun d r => rd_unwipe d _ _ (by unfold Reg.chn_CFG Reg.sec_STATUS chnBase; omega)) d₁
    rw [rd_setFld_ne _ _ _ _ (by unfold Reg.chn_CFG Reg.part_STATE chnBase; omega)]
    refine Eq.trans ?_ hunwiped
    refine foldl_keeps_mem (fun x => x.rd (Reg.chn_CFG n)) _ _ (fun e he d => ?_) _
    have := List.mem_range.1 (List.mem_filter.1 he).1
    exact rd_setEngOwner_ne _ _ _ _ (by unfold Reg.eng_STATUS Reg.chn_CFG chnBase; omega) (by unfold Reg.pool_SPARE_LO Reg.chn_CFG chnBase; omega)
  rw [chMode, fld_of_rd hrd, ← chMode, channelsOff_chMode _ hn]
end last

/-! ## PART_DESTROY, step by step (R282, R291) -/

/-- What PART_DESTROY asks of a partition and of the device. -/
structure destroyable (d : Dev) (c : HostCmd) : Prop where
  physical : c.fn.val = 0
  index : c.p 0 < 12
  mode : c.p 1 ≤ 1
  created : d.partOn (c.p 0) = true
  served : d.dramDown = false
  clean : d.badCw = []
  free : ∀ x ∈ d.admitted, d.ctxRecOwner x ≠ some (c.p 0)

/-- The partition is being destroyed, and the commands of its function have ended. -/
def beingDestroyed (d : Dev) (p : Nat) : Dev := (d.setFld (Reg.part_STATE p) 0 2 3).endCmds (fun x => x.cmd.fn.val == p + 1) 0x14
/-- The contexts and programs that partition `p` owned are emptied. -/
def emptiedPrograms (d : Dev) (p : Nat) : Dev :=
  { d with ctx := d.ctx.filter (fun x => !d.grantsCtx p (x.1 / 256)), prog := d.prog.filter (fun x => !d.grantsProg p (x.1 / 4)) }
/-- The words of the mailbox that partition `p` owned are emptied. -/
def emptiedMailbox (d : Dev) (p : Nat) : Dev := { d with mailbox := d.mailbox.filter (fun x => !d.grantsMb p (x.1 / 64)) }

theorem tears_beingDestroyed {d : Dev} {p : Nat} (hon : d.partOn p = true) : tears d (d.beingDestroyed p) := by
  have hends {β : Type} (q : Dev → β) (h : ∀ (d : Dev) x, q { d with host := x } = q d) :
      q (d.beingDestroyed p) = q (d.setFld (Reg.part_STATE p) 0 2 3) := endCmds_keeps q h ..
  refine ⟨⟨hends Dev.ptab fun _ _ => rfl, fun q _ => ?_⟩, ?_, hends Dev.badCw fun _ _ => rfl, hends partStores fun _ _ => rfl⟩
  · rw [hends (fun x => x.partOn q) fun _ _ => rfl]
    by_cases h : p = q
    · subst h
      rw [hon, partOn, fld_setFld_same _ _ _ _ _ (by decide)]
      rfl
    · rw [partOn, fld_setFld_ne _ _ _ _ _ _ (by unfold Reg.part_STATE; omega), partOn]
  · rw [hends Dev.dramDown fun _ _ => rfl, dramDown, frozen, bit_setFld_ne _ _ _ _ _ (by grind), bit_setFld_ne _ _ _ _ _ (by grind), dramDown, frozen]

section steps
variable (d : Dev) (p : Nat)
theorem destroyStep_programs : d.destroyStep p 1 = .inr (d.emptiedPrograms p, 2) := rfl
theorem destroyStep_objects : d.destroyStep p 2 = .inr (d.emptyObjects p, 3) := rfl
theorem destroyStep_mailbox : d.destroyStep p 3 = .inr (d.emptiedMailbox p, 4) := rfl
theorem destroyStep_fabric : d.destroyStep p 4 = .inr (d.resetFabric p, 5) := rfl
theorem destroyStep_last : d.destroyStep p 5 = .inl (d.destroyLast p) := rfl
end steps

section destroy
variable {d : Dev} {c : HostCmd} (h : destroyable d c)
include h

theorem partDestroyStep_first : d.partDestroyStep c 0 = .inr (d.beingDestroyed (c.p 0), 1) := by
  have hmine : d.admitted.filter (fun x => d.ctxRecOwner x == some (c.p 0)) = [] := by
    rw [List.filter_eq_nil_iff]
    intro x hx
    rw [beq_iff_eq]
    exact h.free x hx
  have hindex := h.index
  have hmode := h.mode
  unfold partDestroyStep
  dsimp only
  rw [hmine, if_neg (not_not_intro h.physical), if_neg (by omega), if_neg (not_not_intro rfl), if_neg (by rw [h.created]; simp), if_neg (by rw [h.served]; decide)]
  rfl
theorem partDestroyStep_later {e : Dev} (ht : e.dramDown = d.dramDown ∧ e.badCw = d.badCw) {k : Nat} (hk : k ≠ 0) :
    e.partDestroyStep c k = e.destroyStep (c.p 0) k := by
  have hindex := h.index
  have hmode := h.mode
  have hbad : (if k = 2 then e.badDescOf (c.p 0) else none) = none := by
    refine iteInduction (motive := fun x : Option (Nat × Nat × Nat) => x = none) (fun _ => ?_) fun _ => rfl
    unfold badDescOf
    rw [List.findSome?_eq_none_iff]
    intro s _
    rw [badIn, errsIn_of_none (ht.2.trans h.clean)]
    rfl
  unfold partDestroyStep
  dsimp only
  rw [if_neg (not_not_intro h.physical), if_neg (by omega), if_pos hk, if_neg (by rw [ht.1, h.served]; decide), hbad]

theorem partDestroyStep_programs {e : Dev} (hdown : e.dramDown = d.dramDown) (hclean : e.badCw = d.badCw) :
    e.partDestroyStep c 1 = .inr (e.emptiedPrograms (c.p 0), 2) := by
  rw [partDestroyStep_later h ⟨hdown, hclean⟩ (by decide), destroyStep_programs]
theorem partDestroyStep_objects {e : Dev} (hdown : e.dramDown = d.dramDown) (hclean : e.badCw = d.badCw) :
    e.partDestroyStep c 2 = .inr (e.emptyObjects (c.p 0), 3) := by
  rw [partDestroyStep_later h ⟨hdown, hclean⟩ (by decide), destroyStep_objects]
theorem partDestroyStep_mailbox {e : Dev} (hdown : e.dramDown = d.dramDown) (hclean : e.badCw = d.badCw) :
    e.partDestroyStep c 3 = .inr (e.emptiedMailbox (c.p 0), 4) := by
  rw [partDestroyStep_later h ⟨hdown, hclean⟩ (by decide), destroyStep_mailbox]
theorem partDestroyStep_fabric {e : Dev} (hdown : e.dramDown = d.dramDown) (hclean : e.badCw = d.badCw) :
    e.partDestroyStep c 4 = .inr (e.resetFabric (c.p 0), 5) := by
  rw [partDestroyStep_later h ⟨hdown, hclean⟩ (by decide), destroyStep_fabric]
theorem partDestroyStep_last {e : Dev} (hdown : e.dramDown = d.dramDown) (hclean : e.badCw = d.badCw) :
    e.partDestroyStep c 5 = .inl (e.destroyLast (c.p 0)) := by
  rw [partDestroyStep_later h ⟨hdown, hclean⟩ (by decide), destroyStep_last]

omit h in
theorem emptiedPrograms_stores {e : Dev} (ht : tears d e) (p : Nat) : (e.emptiedPrograms p).partStores =
    (d.ctx.filter (fun x => !d.grantsCtx p (x.1 / 256)), d.prog.filter (fun x => !d.grantsProg p (x.1 / 4)), d.mailbox) := by
  have hctx (x : Nat) : e.grantsCtx p x = d.grantsCtx p x := by rw [grantsCtx, ptabW_of_owners ht.owners, grantsCtx]
  have hprog (x : Nat) : e.grantsProg p x = d.grantsProg p x := by rw [grantsProg, ptabW_of_owners ht.owners, grantsProg]
  have hstores := ht.stores
  simp only [partStores, Prod.mk.injEq] at hstores
  obtain ⟨hsc, hsp, hsm⟩ := hstores
  unfold emptiedPrograms partStores
  simp only [hsc, hsp, hsm, hctx, hprog]
omit h in
theorem emptiedMailbox_stores {e : Dev} (ho : sameOwners d e) (p : Nat) {cs ps ms : SMap Word} (hstores : e.partStores = (cs, ps, ms)) :
    (e.emptiedMailbox p).partStores = (cs, ps, ms.filter (fun x => !d.grantsMb p (x.1 / 64))) := by
  have hmb (x : Nat) : e.grantsMb p x = d.grantsMb p x := by rw [grantsMb, ptabW_of_owners ho, grantsMb]
  simp only [partStores, Prod.mk.injEq] at hstores
  obtain ⟨hsc, hsp, hsm⟩ := hstores
  unfold emptiedMailbox partStores
  simp only [hsc, hsp, hsm, hmb]

/-- PART_DESTROY empties the stores of what the partition owned, and ends with its channels resealed. -/
theorem partDestroy_spec : ∃ e : Dev, d.partDestroy c = ⟨0, 0, e.destroyed (c.p 0), d.ownChannels (c.p 0)⟩ ∧ e.ownChannels (c.p 0) = d.ownChannels (c.p 0) ∧
    e.ctx = d.ctx.filter (fun x => !d.grantsCtx (c.p 0) (x.1 / 256)) ∧ e.prog = d.prog.filter (fun x => !d.grantsProg (c.p 0) (x.1 / 4)) ∧
    e.mailbox = d.mailbox.filter (fun x => !d.grantsMb (c.p 0) (x.1 / 64)) := by
  obtain ⟨d₁, hd₁⟩ : ∃ x, x = d.beingDestroyed (c.p 0) := ⟨_, rfl⟩
  obtain ⟨d₂, hd₂⟩ : ∃ x, x = d₁.emptiedPrograms (c.p 0) := ⟨_, rfl⟩
  obtain ⟨d₃, hd₃⟩ : ∃ x, x = d₂.emptyObjects (c.p 0) := ⟨_, rfl⟩
  obtain ⟨d₄, hd₄⟩ : ∃ x, x = d₃.emptiedMailbox (c.p 0) := ⟨_, rfl⟩
  obtain ⟨d₅, hd₅⟩ : ∃ x, x = d₄.resetFabric (c.p 0) := ⟨_, rfl⟩
  have h₁ : tears d d₁ := hd₁ ▸ tears_beingDestroyed h.created
  have ho₂ : sameOwners d d₂ ∧ d₂.dramDown = d.dramDown ∧ d₂.badCw = d.badCw := hd₂ ▸ ⟨⟨h₁.owners.ptab, h₁.owners.parts⟩, h₁.down, h₁.clean⟩
  have hs₂ := hd₂ ▸ emptiedPrograms_stores h₁ (c.p 0)
  have h₃ : tears d₂ d₃ := hd₃ ▸ tears_emptyObjects (ho₂.2.2.trans h.clean) (c.p 0)
  have ho₃ : sameOwners d d₃ ∧ d₃.dramDown = d.dramDown ∧ d₃.badCw = d.badCw := ⟨sameOwners_trans ho₂.1 h₃.owners, h₃.down.trans ho₂.2.1, h₃.clean.trans ho₂.2.2⟩
  have ho₄ : sameOwners d d₄ ∧ d₄.dramDown = d.dramDown ∧ d₄.badCw = d.badCw := hd₄ ▸ ⟨⟨ho₃.1.ptab, ho₃.1.parts⟩, ho₃.2⟩
  have hs₄ := hd₄ ▸ emptiedMailbox_stores ho₃.1 (c.p 0) (h₃.stores.trans hs₂)
  have h₅ : tears d₄ d₅ := hd₅ ▸ tears_resetFabric d₄ (c.p 0)
  have howns := ownChannels_of_owners (sameOwners_trans ho₄.1 h₅.owners) (c.p 0)
  have hstores := h₅.stores.trans hs₄
  simp only [partStores, Prod.mk.injEq] at hstores
  refine ⟨d₅, ?_, howns, hstores⟩
  rw [← howns, ← destroyLast_eq]
  unfold partDestroy
  rw [allSteps_of_more (partDestroyStep_first h), ← hd₁, allSteps_of_more (partDestroyStep_programs h h₁.down h₁.clean), ← hd₂,
    allSteps_of_more (partDestroyStep_objects h ho₂.2.1 ho₂.2.2), ← hd₃, allSteps_of_more (partDestroyStep_mailbox h ho₃.2.1 ho₃.2.2), ← hd₄,
    allSteps_of_more (partDestroyStep_fabric h ho₄.2.1 ho₄.2.2), ← hd₅,
    allSteps_of_end (partDestroyStep_last h (h₅.down.trans ho₄.2.1) (h₅.clean.trans ho₄.2.2))]
end destroy

end Dev
end Sys2Proof.Machine

/-! PROOFS. The obligation on engines, captures and partitions as host commands see them (R121, R145, R262, R290, R291). -/
namespace Sys2Proof.Machine
namespace Dev

/-! ## The commands of the physical function (R284) -/

section physical
variable {d : Dev} {c : HostCmd}

/-- A move is carried out now: DRAM serves, and no request waits for the DMC that it empties (R404). -/
theorem ready_of_move {op : Nat} (hop : op = 0x40 ∨ op = 0x41) (hfetches : d.fetches c.fn = true) (hstalls : d.stallsAt 0 d.ilBytes = false)
    (hfree : d.moveFree (c.p 0)) : d.ready op c = true := by
  have hwait : d.mustWait op c = false := List.any_eq_false.2 fun r hr => by
    have hspan : r = (0, d.ilBytes) := by rcases hop with rfl | rfl <;> exact List.mem_singleton.1 hr
    rw [hspan, hstalls]
    decide
  have hbusy : d.moveBusy c = false := List.any_eq_false.2 fun y hy hreq => by
    obtain ⟨r, hr, hhome⟩ := List.any_eq_true.1 hreq
    exact hfree y hy r hr (beq_iff_eq.1 hhome)
  unfold ready
  rw [hfetches, hwait, hbusy, Bool.and_false]
  rfl

variable (hfn : c.fn.val ≠ 0)
include hfn
theorem partCreate_of_other : d.partCreate c = d.stop 0x04 := if_pos hfn
theorem partDestroy_of_other : d.partDestroy c = d.stop 0x04 := allSteps_of_end (if_pos hfn)
theorem moveAll_of_other (retrain : Bool) : d.moveAll c retrain = d.stop 0x04 := allSteps_of_end (if_pos hfn)
theorem dramUnfreeze_of_other : d.dramUnfreeze c = d.stop 0x04 := if_pos hfn
theorem imageWrite_of_other (f : Fuses) : imageWrite f d c = d.stop 0x04 := if_pos hfn
theorem fwSwap_of_other (f : Fuses) : fwSwap f d c = d.stop 0x04 := if_pos hfn
theorem calWrite_of_other (f : Fuses) : calWrite f d c = d.stop 0x04 := allSteps_of_end (if_pos hfn)
end physical

end Dev

section ends
variable {s : State} {c : HostCmd} (hfetches : s.dev.fetches c.fn = true)
include hfetches

/-- Each command of the physical function ends with PF_ONLY in a virtual one. -/
theorem pfOnly_ends (hfn : c.fn.val ≠ 0) (hil : s.dev.stallsAt 0 s.dev.ilBytes = false) (hdesc : s.dev.stallsAt s.dev.mm.descAt (2^22) = false)
    (hfree : s.dev.moveFree (c.p 0)) {i : Instr} (hi : i ∈ [Instr.engRetire c, .engRestore c, .partCreate c, .partDestroy c, .dramRetrain c, .dramMigrate c,
      .dramUnfreeze c, .imageWrite c, .fwSwap c, .calWrite c]) : s.ends i c 0x04 0 (fun d' => d' = { s.dev with host := d'.host }) := by
  have hplain {op : Nat} (hmove : op ≠ 0x40 ∧ op ≠ 0x41) (hspans : s.dev.dramSpans op c = []) : s.dev.ready op c = true :=
    ready_of_noDram hfetches hmove hspans
  have hends {i : Instr} {op : Nat} {run : Dev → Ran} (hexec : exec i s = s.onDev (Dev.row op run c)) (hready : s.dev.ready op c = true)
      (hrun : run s.dev = s.dev.stop 0x04) : s.ends i c 0x04 0 (fun d' => d' = { s.dev with host := d'.host }) :=
    State.ends_of_row hexec hready hrun (Dev.completed_only ..)
  have hdestroy : s.ends (.partDestroy c) c 0x04 0 (fun d' => d' = { s.dev with host := d'.host }) := by
    have hready : s.dev.ready 0x39 c = true := Dev.ready_of_spans hfetches (by decide) fun r hr => by rw [List.mem_singleton.1 hr, hdesc]
    refine ⟨_, exec_partDestroy c s, ⟨?_, rfl, rfl⟩, ?_⟩
    · dsimp only [partDestroyG]
      rw [if_pos hready, Dev.partDestroy_of_other hfn]
      rfl
    · dsimp only [partDestroyG]
      rw [Dev.row_of_ready hready, Dev.partDestroy_of_other hfn]
      exact ⟨Dev.completed_completesWith .., Dev.completed_only ..⟩
  simp only [List.mem_cons, List.not_mem_nil, or_false] at hi
  obtain rfl | rfl | rfl | rfl | rfl | rfl | rfl | rfl | rfl | rfl := hi
  · exact hends (exec_engRetire c s) (hplain (by decide) rfl) (Dev.engRetire_of_other hfn)
  · exact hends (exec_engRestore c s) (hplain (by decide) rfl) (Dev.engRestore_of_other hfn)
  · exact hends (exec_partCreate c s) (hplain (by decide) rfl) (Dev.partCreate_of_other hfn)
  · exact hdestroy
  · exact hends (op := 0x40) (run := fun d => d.dramRetrain c) rfl (Dev.ready_of_move (.inl rfl) hfetches hil hfree) (Dev.moveAll_of_other hfn true)
  · exact hends (op := 0x41) (run := fun d => d.dramMigrate c) rfl (Dev.ready_of_move (.inr rfl) hfetches hil hfree) (Dev.moveAll_of_other hfn false)
  · exact hends (op := 0x42) (run := fun d => d.dramUnfreeze c) rfl (hplain (by decide) rfl) (Dev.dramUnfreeze_of_other hfn)
  · exact hends (op := 0x48) (run := fun d => Dev.imageWrite s.fuses d c) rfl (hplain (by decide) rfl) (Dev.imageWrite_of_other hfn s.fuses)
  · exact hends (op := 0x49) (run := fun d => Dev.fwSwap s.fuses d c) rfl (hplain (by decide) rfl) (Dev.fwSwap_of_other hfn s.fuses)
  · exact hends (op := 0x4A) (run := fun d => Dev.calWrite s.fuses d c) rfl (hplain (by decide) rfl) (Dev.calWrite_of_other hfn s.fuses)

/-! ## Engines -/

/-- Engine `e` is out of service. -/
def retiredIn (e : Nat) (d : Dev) : Prop := d.bit (Reg.eng_STATUS e) 24 = true ∧ d.bit (Reg.pool_IN_SERVICE_LO + 4 * (e / 32)) (e % 32) = false

omit hfetches in
theorem retiredIn_retire (d : Dev) {e : Nat} (he : e < 64) (exc : List Nat) : retiredIn e (d.retire e exc) := ⟨Dev.retire_out .., Dev.retire_inService _ _ he⟩

omit hfetches in
theorem freed_only (d : Dev) (c : HostCmd) : d.free.2.completed c 0 0 =
    { d with host := (d.free.2.completed c 0 0).host, freeCtr := (d.free.2.completed c 0 0).freeCtr } := rfl

section engine
variable (hfn : c.fn.val = 0) (he : c.p 0 < 64)
include hfn he
theorem engRetire_idle_ends (hin : s.dev.bit (Reg.eng_STATUS (c.p 0)) 24 = false) (hctx : s.dev.engCtx (c.p 0) = none) :
    s.ends (.engRetire c) c 0 0xFFFFFFFE (fun d' => retiredIn (c.p 0) d' ∧ d'.launches = s.dev.launches) := by
  obtain ⟨d', hrun, hout, hlaunches⟩ : ∃ d' : Dev, s.dev.engRetire c = d'.ok 0xFFFFFFFE ∧ retiredIn (c.p 0) d' ∧ d'.launches = s.dev.launches :=
    ⟨_, Dev.engRetire_of_idle hfn he hin hctx, retiredIn_retire s.dev he [], Dev.retire_launches_of_idle hctx⟩
  exact State.ends_of_row (exec_engRetire c s) (ready_of_noDram hfetches (by decide) rfl) hrun ⟨hout, hlaunches⟩
theorem engRetire_moves_ends (hin : s.dev.bit (Reg.eng_STATUS (c.p 0)) 24 = false) (x r : Nat) (hctx : s.dev.engCtx (c.p 0) = some x)
    (hfound : s.dev.replacement (c.p 0) = some r) : s.ends (.engRetire c) c 0 r (fun d' =>
      retiredIn (c.p 0) d' ∧ d'.engCtx r = some x ∧ d'.engCtx (c.p 0) = none ∧ d'.ctxFld x 0 8 6 = r ∧ d'.ctxState x = s.dev.ctxState x ∧
      d'.launches = s.dev.launches.map (fun l => if l.ctx == x then { l with eng := r } else l)) := by
  obtain ⟨d', hrun, hout, hmoves⟩ : ∃ d' : Dev, s.dev.engRetire c = d'.ok r ∧ retiredIn (c.p 0) d' ∧ d'.engCtx r = some x ∧ d'.engCtx (c.p 0) = none ∧
      d'.ctxFld x 0 8 6 = r ∧ d'.ctxState x = s.dev.ctxState x ∧ d'.launches = s.dev.launches.map (fun l => if l.ctx == x then { l with eng := r } else l) :=
    ⟨_, by rw [Dev.engRetire_of_bound hfn he hin hctx, hfound, Option.getD_some], retiredIn_retire s.dev he _, Dev.retire_moves he hctx hfound⟩
  exact State.ends_of_row (exec_engRetire c s) (ready_of_noDram hfetches (by decide) rfl) hrun ⟨hout, hmoves⟩
theorem engRetire_admits_ends (hin : s.dev.bit (Reg.eng_STATUS (c.p 0)) 24 = false) (x : Nat) (hctx : s.dev.engCtx (c.p 0) = some x)
    (hfound : s.dev.replacement (c.p 0) = none) : s.ends (.engRetire c) c 0 0xFFFFFFFF (fun d' => retiredIn (c.p 0) d' ∧ d'.ctxState x = 2) := by
  obtain ⟨d', hrun, hout, hadmits⟩ : ∃ d' : Dev, s.dev.engRetire c = d'.ok 0xFFFFFFFF ∧ retiredIn (c.p 0) d' ∧ d'.ctxState x = 2 :=
    ⟨_, by rw [Dev.engRetire_of_bound hfn he hin hctx, hfound, Option.getD_none], retiredIn_retire s.dev he _, Dev.retire_admits hctx hfound⟩
  exact State.ends_of_row (exec_engRetire c s) (ready_of_noDram hfetches (by decide) rfl) hrun ⟨hout, hadmits⟩
theorem engRestore_ends (hout : s.dev.bit (Reg.eng_STATUS (c.p 0)) 24 = true) : s.ends (.engRestore c) c 0 0 (fun d' =>
    d' = { s.dev with host := d'.host, freeCtr := d'.freeCtr } ∨
    (d'.bit (Reg.eng_STATUS (c.p 0)) 24 = false ∧ d'.isSpare (c.p 0) = true ∧ d'.engOwner (c.p 0) = none ∧ d'.launches = s.dev.launches ∧
      d'.bit (Reg.pool_IN_SERVICE_LO + 4 * (c.p 0 / 32)) (c.p 0 % 32) = true)) := by
  have hready : s.dev.ready 0x29 c = true := ready_of_noDram hfetches (by decide) rfl
  rcases Dev.engRestore_of_out hfn he hout with hrun | hrun
  · exact State.ends_of_row (exec_engRestore c s) hready hrun (.inl (freed_only ..))
  · obtain ⟨d', hd', hspec⟩ : ∃ d' : Dev, s.dev.engRestore c = d'.ok ∧ d'.bit (Reg.eng_STATUS (c.p 0)) 24 = false ∧ d'.isSpare (c.p 0) = true ∧
        d'.engOwner (c.p 0) = none ∧ d'.launches = s.dev.launches ∧ d'.bit (Reg.pool_IN_SERVICE_LO + 4 * (c.p 0 / 32)) (c.p 0 % 32) = true := ⟨_, hrun, Dev.restored_spec s.dev.free.2 he⟩
    exact State.ends_of_row (exec_engRestore c s) hready hd' (.inr hspec)
end engine

theorem engBankRead_ends (he : c.p 0 < 64) (hoff : c.p 1 % 8 = 0) (hlen : c.len.toNat % 8 = 0) (hroom : c.p 1 + c.len.toNat ≤ 2^18)
    (halign : c.aligned = true) (howner : Dev.sees c.fn (s.dev.engOwner (c.p 0)) = true) (hwin : s.dev.windowed c.fn c.addr.toNat c.len.toNat true) :
    s.ends (.engBankRead c) c 0 c.len.toNat (fun d' => d'.bank = s.dev.bank ∧
      ∀ i < c.len.toNat, SMap.get 0 d'.hostMem (c.addr.toNat + i) = s.dev.bankByte (c.p 0) (c.p 1 + i) i) := by
  have hready : s.dev.ready 0x2A c = true := ready_of_noDram hfetches (by decide) rfl
  have hlength : (s.dev.bankBytes (c.p 0) (c.p 1) c.len.toNat).length = c.len.toNat := by rw [Dev.bankBytes, List.length_map, List.length_range]
  have hwin' : (s.dev.bankRead (c.p 0) c.len.toNat).windowed c.fn c.addr.toNat (s.dev.bankBytes (c.p 0) (c.p 1) c.len.toNat).length true := by
    rw [hlength]
    exact fun k hk => ⟨(Dev.pageOk_of_host rfl rfl ..).trans (hwin k hk).1, fun h => (Dev.pagePeer_of_host rfl rfl ..).trans ((hwin k hk).2 h)⟩
  have hrun := (Dev.engBankRead_of_ready he hoff hlen hroom halign howner).trans (Dev.giveBuf_of_windowed hwin' c.len.toNat)
  refine State.ends_of_row (exec_engBankRead c s) hready hrun ⟨rfl, fun i hi => ?_⟩
  refine (SMap.get_store_in _ _ _ _ _ (hlength.symm ▸ hi)).trans ?_
  unfold Dev.bankBytes
  rw [List.getElem_map, List.getElem_range]

/-! ## Captures -/

theorem capRead_ends {k : Nat} {log : Bool} (hr : Dev.capReady s.dev c k log)
    (hdram : log = false → (s.dev.capOf k).target = 1 → s.dev.dramDown = false ∧ s.dev.badCw = [] ∧ s.dev.stallsAt (s.dev.capOf k).base (s.dev.capOf k).size = false)
    (hwin : s.dev.windowed c.fn c.addr.toNat ((s.dev.capBytes k log).take c.len.toNat).length true) :
    s.ends (.capRead c) c 0 ((s.dev.capBytes k log).take c.len.toNat).length (fun d' => d'.capBuf = s.dev.capBuf ∧
      d'.hostBytes c.addr.toNat ((s.dev.capBytes k log).take c.len.toNat).length = (s.dev.capBytes k log).take c.len.toNat) := by
  have hmod : c.p 0 % 8 = k := by
    have := hr.index
    rw [hr.named]
    cases log <;> simp only [Bool.false_eq_true, if_false, if_true] <;> omega
  have hspans : s.dev.dramSpans 0x30 c =
      if (s.dev.capOf k).target = 1 ∧ bitsOf (c.p 0) 8 1 = 0 then [((s.dev.capOf k).base, (s.dev.capOf k).size)] else [] := by
    rw [← hmod]
    rfl
  have hlog := (Dev.capFields hr).2.1
  have hready : s.dev.ready 0x30 c = true := Dev.ready_of_spans hfetches (by decide) fun r hspan => by
    rw [hspans] at hspan
    split at hspan
    · next h =>
      rw [List.mem_singleton.1 hspan]
      exact (hdram (by rw [← hlog, h.2]; rfl) h.1).2.2
    · cases hspan
  cases hchip : !log && (s.dev.capOf k).target == 1 with
  | false =>
    have hrun := Dev.capRead_of_onChip hr hchip hwin
    generalize (s.dev.capBytes k log).take c.len.toNat = bs at hrun ⊢
    exact State.ends_of_row (exec_capRead c s) hready hrun ⟨rfl, hostBytes_hostStore s.dev rfl⟩
  | true =>
    obtain ⟨hnot, htarget⟩ := Bool.and_eq_true_iff.1 hchip
    obtain ⟨hdown, hclean, -⟩ := hdram (by rw [← Bool.not_eq_true', hnot]) (beq_iff_eq.1 htarget)
    obtain ⟨e, he, hrun⟩ := Dev.capRead_of_dram hr hchip hdown hclean hwin
    generalize (s.dev.capBytes k log).take c.len.toNat = bs at he hrun ⊢
    have hbytes : e.hostBytes c.addr.toNat bs.length = bs := by
      have h := he.hostMem
      rw [List.take_length] at h
      exact (congrArg (fun m => SMap.bytes 0 m c.addr.toNat bs.length) h).trans (hostBytes_hostStore s.dev rfl)
    exact State.ends_of_row (exec_capRead c s) hready hrun ⟨(congrArg Dev.capBuf he.serves.work.calm :), hbytes⟩

/-! ## Partitions -/

theorem partCreate_ends (hfn : c.fn.val = 0) (h : Dev.creatable s.dev (c.p 0)) : s.ends (.partCreate c) c 0 (s.dev.askedEngines (c.p 0)) (fun d' =>
    d'.partOn (c.p 0) = true ∧ (∀ p, p < 12 → p ≠ c.p 0 → d'.partOn p = s.dev.partOn p)) := by
  have hready : s.dev.ready 0x38 c = true := ready_of_noDram hfetches (by decide) rfl
  have hrun : s.dev.partCreate c = _ := (if_neg (not_not_intro hfn)).trans (Dev.createPart_of_creatable h)
  exact State.ends_of_row (exec_partCreate c s) hready hrun ⟨Dev.partOn_created .., fun p _ hne => Dev.partOn_created_ne _ hne⟩

theorem partDestroy_ends (h : Dev.destroyable s.dev c) (hstalls : s.dev.stallsAt s.dev.mm.descAt (2^22) = false) :
    s.runsG (.partDestroy c) (fun g' d' => d'.completesWith c 0 0 ∧ d'.partOn (c.p 0) = false ∧
      (∀ n < 96, s.dev.chOwner n = some (c.p 0) → d'.chMode n = 0 ∧ g'.of n = (s.guard.of n).sealed) ∧
      (∀ n < 96, s.dev.chOwner n ≠ some (c.p 0) → g'.of n = s.guard.of n) ∧
      (∀ x w, s.dev.grantsCtx (c.p 0) x = true → w < 256 → d'.ctxW x w = 0) ∧ (∀ a, s.dev.grantsProg (c.p 0) a = true → d'.entryAt a = 0) ∧
      (∀ m, s.dev.grantsMb (c.p 0) (m / 64) = true → SMap.get 0 d'.mailbox m = 0)) := by
  have hready : s.dev.ready 0x39 c = true := Dev.ready_of_spans hfetches (by decide) fun r hr => by rw [List.mem_singleton.1 hr, hstalls]
  obtain ⟨e, hrun, howns, hctx, hprog, hmailbox⟩ := Dev.partDestroy_spec h
  have hstores := Dev.destroyed_stores e (c.p 0)
  simp only [Dev.partStores, Prod.mk.injEq] at hstores
  obtain ⟨hc, hp, hm⟩ := hstores
  have hoff := Dev.destroyed_off e (c.p 0)
  have hmode (n : Nat) (hn : n ∈ e.ownChannels (c.p 0)) := Dev.destroyed_chMode e (c.p 0) hn
  generalize e.destroyed (c.p 0) = d' at hrun hc hp hm hoff hmode
  have hdev : Dev.row 0x39 (fun d => d.partDestroy c) c s.dev = d'.completed c 0 0 := by
    rw [Dev.row_of_ready hready, hrun]
  have hguard : (partDestroyG c s.guard s.dev).1 = s.guard.reseal (s.dev.ownChannels (c.p 0)) := by
    unfold partDestroyG
    rw [if_pos hready, hrun]
  have hmem {n : Nat} (hn : n < 96) : n ∈ s.dev.ownChannels (c.p 0) ↔ s.dev.chOwner n = some (c.p 0) := by
    rw [Dev.mem_ownChannels]
    exact and_iff_right hn
  refine ⟨_, exec_partDestroy c s, rfl, rfl, ?_⟩
  dsimp only
  rw [hguard, show (partDestroyG c s.guard s.dev).2 = d'.completed c 0 0 from hdev]
  refine ⟨Dev.completed_completesWith .., hoff, fun n hn hown => ⟨hmode n (howns ▸ (hmem hn).2 hown), ?_⟩, fun n hn hown => ?_, fun x w hgrant hw => ?_,
    fun a hgrant => ?_, fun m hgrant => ?_⟩
  · rw [Guard.reseal_of, if_pos ((hmem hn).2 hown)]
  · rw [Guard.reseal_of, if_neg fun h => hown ((hmem hn).1 h)]
  · show SMap.get 0 d'.ctx (x * 256 + w) = 0
    rw [hc, hctx, SMap.get_filter_keys 0 s.dev.ctx (fun k => !s.dev.grantsCtx (c.p 0) (k / 256)), show (x * 256 + w) / 256 = x by omega, hgrant]
    rfl
  · have hword (i : Nat) (hi : i < 4) : d'.progW a i = 0 := by
      rw [Dev.progW, hp, hprog, SMap.get_filter_keys 0 s.dev.prog (fun k => !s.dev.grantsProg (c.p 0) (k / 4)), show (4 * a + i) / 4 = a by omega, hgrant]
      rfl
    show d'.entryAt a = 0
    rw [Dev.entryAt, hword 0 (by decide), hword 1 (by decide), hword 2 (by decide), hword 3 (by decide)]
    rfl
  · show SMap.get 0 d'.mailbox m = 0
    rw [hm, hmailbox, SMap.get_filter_keys 0 s.dev.mailbox (fun k => !s.dev.grantsMb (c.p 0) (k / 64)), hgrant]
    rfl
end ends

/-- Settles O51: each command by what it leaves of the engine, the capture or the partition that it names. -/
theorem enginesAndPartitionsChange : Obligations.EnginesAndPartitionsChange := by
  unfold Obligations.EnginesAndPartitionsChange
  intro s c hfetches d e host len retired
  refine ⟨fun hfn hil hdesc hfree i hi => pfOnly_ends hfetches hfn hil hdesc hfree hi, fun hfn he => ⟨fun hout => ?_, fun hin => ⟨engRetire_idle_ends hfetches hfn he hin,
    engRetire_moves_ends hfetches hfn he hin, engRetire_admits_ends hfetches hfn he hin⟩, fun hin => ?_, fun hout => engRestore_ends hfetches hfn he hout⟩, fun he hoff hlen hroom halign howner hwin => ?_,
    fun k hk log hnamed halign howner h1 h2 hdram hwin => capRead_ends hfetches ⟨hk, hnamed, halign, howner, h1, h2⟩ hdram hwin,
    fun hfn he => ⟨fun hdef hoff hsafe hclaims hctx hregions hengines => partCreate_ends hfetches hfn ⟨he, hdef, hoff, hsafe, hclaims, hctx, hregions, hengines⟩,
      fun hon hmode hdown hclean hstalls hfree => partDestroy_ends hfetches ⟨hfn, he, hmode, hon, hdown, hclean, hfree⟩ hstalls⟩⟩
  · exact State.ends_of_row (exec_engRetire c s) (ready_of_noDram hfetches (by decide) rfl) (Dev.engRetire_of_out hfn he hout) (Dev.completed_only ..)
  · exact State.ends_of_row (exec_engRestore c s) (ready_of_noDram hfetches (by decide) rfl) (Dev.engRestore_of_in hfn he hin) (Dev.completed_only ..)
  · obtain ⟨t, hexec, htrust, hcompletes, hbank, hbytes⟩ := engBankRead_ends hfetches he hoff hlen hroom halign howner hwin
    refine ⟨t, hexec, htrust, hcompletes, hbank, fun i hi => ⟨fun ho => ?_, fun x hx hlo hhi => ?_⟩⟩
    · rw [hbytes i hi, Dev.bankByte_microcode ho]
    · rw [hbytes i hi, Dev.bankByte_record hlo hhi hx]
end Sys2Proof.Machine

/-! PROOFS. The obligation on repair and firmware (R400): ending a freeze lets the captures store what they hold, which may freeze DRAM again. -/
namespace Sys2Proof.Machine
theorem exec_dramUnfreeze (c : HostCmd) (s : State) : exec (.dramUnfreeze c) s = s.onDev (Dev.row 0x42 (fun d => d.dramUnfreeze c) c) := rfl

/-- DRAM is frozen with no codeword on record, while capture 0, which is DONE, holds a byte of codeword 0, of which two devices err (R396). -/
def heldDev : Dev :=
  let d : Dev := { wiped := [(0, true)], badCw := [(0, some (3, 0))], cap := [(0, { fifo := [0x5A], size := 4096 })], host := { linkUp := true } }
  ((d.setBit Reg.glob_STATUS 1 true).setBit Reg.dramG_STATUS 0 true).setCapState 0 3

/-- DRAM_UNFREEZE of the physical function. -/
def unfreezeCmd : HostCmd := ⟨0, 0, 0x42, false, false, 0, 0, 0, 0, []⟩

theorem heldDev_isFrozen : heldDev.fetches unfreezeCmd.fn = true ∧ heldDev.dsafe = false ∧ heldDev.frozen = true ∧ heldDev.frzN = 0 := by decide +kernel

/-- The byte covers its codeword in part, so it is read first, and DRAM freezes anew (R386, R398). -/
theorem heldDev_freezesAgain : (Dev.row 0x42 (fun d => d.dramUnfreeze unfreezeCmd) unfreezeCmd heldDev).frozen = true := by decide +kernel

theorem dev_of_onDev {s t : State} {i : Instr} {f : Dev → Dev} (hexec : exec i s = s.onDev f) (h : exec i s = .next t) : t.dev = f s.dev :=
  (congrArg State.dev (Host.Outcome.next.inj (hexec.symm.trans h))).symm

/-- Refutes O52: DRAM_UNFREEZE ends the freeze, and then a capture's byte of a codeword that is spoiled, and is not on record, freezes DRAM again. -/
theorem not_repairsAndImagesAreCarriedOut : ¬ Obligations.RepairsAndImagesAreCarriedOut := by
  unfold Obligations.RepairsAndImagesAreCarriedOut
  intro h
  obtain ⟨hfetches, hsafe, hfrozen, hcount⟩ := heldDev_isFrozen
  obtain ⟨hrepair, -⟩ := h { dev := heldDev } unfreezeCmd hfetches
  obtain ⟨t, hexec, -, -, hended, -⟩ := (hrepair rfl hsafe).1 hfrozen (by rw [hcount]; decide)
  have hdev := dev_of_onDev (exec_dramUnfreeze unfreezeCmd { dev := heldDev }) hexec
  rw [hdev] at hended
  exact absurd (heldDev_freezesAgain.symm.trans hended) (by decide)

end Sys2Proof.Machine

/-! PROOFS. The obligation on queues (R286): a completion queue whose vector is masked sends no message. -/
namespace Sys2Proof.Machine
theorem exec_cqInterrupt (q : Fin 64) (timer : Bool) (s : State) : exec (.cqInterrupt q timer) s = s.onDev (cqInterruptD q timer) := rfl

/-- One entry of CQ 0 has not been signalled, and the vector that the CQ names is masked. -/
def maskedDev : Dev :=
  let d : Dev := { host := { unsig := [(0, 1)] } }
  d.setBit (Dev.msixEntry 0 0 + 12) 0 true

theorem maskedDev_awaits : SMap.get 0 maskedDev.host.unsig 0 = 1 := by decide +kernel

/-- The vector's bit of the pending-bit array is set, and no message is written (R286). -/
theorem maskedDev_pends : (cqInterruptD 0 true maskedDev).host.irqs = [] ∧ (cqInterruptD 0 true maskedDev).bit (Dev.msixPba 0 0) 0 = true := by decide +kernel

/-- Refutes O53: a CQ signals the entries not yet signalled, but the vector that it names is masked, and no message is sent. -/
theorem not_queuesServeCommands : ¬ Obligations.QueuesServeCommands := by
  unfold Obligations.QueuesServeCommands
  intro h
  obtain ⟨-, -, -, hinterrupt, -⟩ := h { dev := maskedDev } 0 0
  have hdue : SMap.get 0 maskedDev.host.unsig 0 ≠ 0 := by rw [maskedDev_awaits]; decide
  obtain ⟨t, hexec, -, -, hirqs⟩ := (hinterrupt true).1 ⟨hdue, .inl rfl⟩
  have hdev := dev_of_onDev (exec_cqInterrupt 0 true { dev := maskedDev }) hexec
  rw [hdev, maskedDev_pends.1] at hirqs
  exact absurd hirqs.symm (List.append_ne_nil_of_right_ne_nil _ (List.cons_ne_nil _ _))

end Sys2Proof.Machine
